-- ==== Sys2Proof/Word.lean ====
section
/-! DEFINITION. The word types of the Oxcia core and their plainest arithmetic (spec/00 R4, R10; spec/02 R23). -/

namespace Sys2Proof

/-- A byte of memory (R4). -/
abbrev Byte := BitVec 8

/-- An instruction word (R80). -/
abbrev Word32 := BitVec 32

/-- A scalar register, the program counter, an address (R23). -/
abbrev Word := BitVec 64

/-- A vector register at its greatest width, 16 KiB on a ganged pair with eight registers (R25, R211). -/
abbrev VReg := BitVec 131072

/-- A mask register: as many bits as the largest VLMAX any configuration allows (R27, R395). -/
abbrev MaskReg := BitVec 32768

/-- A tile accumulator, 128 x 64 cells of 32 bits (R187). -/
abbrev Acc := BitVec 262144

/-- The list 0, 1, …, n − 1. -/
def upTo (n : Nat) : List Nat := List.range n

/-- The list lo, lo + 1, …, hi − 1; empty when hi ≤ lo. -/
def span (lo hi : Nat) : List Nat := (List.range (hi - lo)).map (· + lo)

/-- The low n bits of x, as a number. -/
def lowBits (n x : Nat) : Nat := x % 2 ^ n

/-- Bits [lo + len − 1 : lo] of x, as a number. -/
def bitsAt (x lo len : Nat) : Nat := (x >>> lo) % 2 ^ len

/-- x with bits [lo + len − 1 : lo] replaced by the low len bits of v. -/
def setBitsAt (x lo len v : Nat) : Nat :=
  x - (bitsAt x lo len <<< lo) + (lowBits len v <<< lo)

/-- ceil(a / b). -/
def ceilDiv (a b : Nat) : Nat := (a + b - 1) / b

/-- floor(log2 x); 0 for x = 0. -/
def log2Floor (x : Nat) : Nat := Nat.log2 x

/-- The two's-complement reading of the low n bits of x. -/
def signedOf (n x : Nat) : Int :=
  let u := lowBits n x
  if n ≠ 0 ∧ 2 ^ (n - 1) ≤ u then (u : Int) - (2 ^ n : Nat) else (u : Int)

/-- The low n bits of an exact integer, modulo 2^n (R10). -/
def wrapInt (n : Nat) (x : Int) : Nat := (x % ((2 ^ n : Nat) : Int)).toNat

/-- The greater of two words read as ui64. -/
def wmax (a b : Word) : Word := if a < b then b else a

/-- The lesser of two words read as ui64. -/
def wmin (a b : Word) : Word := if a < b then a else b

end Sys2Proof
end

