-- ==== Sys2Proof/Machine/Float.lean ====
section
/-! DEFINITION. Number formats and exact arithmetic (spec/03 R52 to R71, R77): binary floating-point and FP8 values, RoundTo in four modes
with its flags, the IEEE operations, conversions, and the MX block elements. Exact results are dyadic numbers; a quotient or a root
carries a sticky bit for what lies below its last bit. Marks: UF is judged as IEEE 754-2019 judges tininess after rounding (DEDUCED,
log 17). -/

namespace Sys2Proof.Machine

/-- FCSR flags, bit 0 up: NX, UF, OF, DZ, NV, NV8 (R35, FCSR[7:2]). -/
abbrev Flags := BitVec 6

/-- inexact -/
def flagNX : Flags := 1#6
/-- underflow -/
def flagUF : Flags := 2#6
/-- overflow -/
def flagOF : Flags := 4#6
/-- division by zero -/
def flagDZ : Flags := 8#6
/-- invalid operation -/
def flagNV : Flags := 16#6
/-- saturating conversion into FP8, or a clamped block scale -/
def flagNV8 : Flags := 32#6

/-- A flag that is set when a condition holds. -/
def flagIf (c : Bool) (f : Flags) : Flags := if c then f else 0

/-- A binary floating-point format (R53, R61): exponent bits, fraction bits, bias, and whether it is an FP8 format and which. -/
structure FFmt where
  eb : Nat
  fb : Nat
  bias : Nat
  fp8 : Bool
  e4m3 : Bool
deriving DecidableEq, Repr

/-- binary16 -/
def fmtHalf : FFmt := ⟨5, 10, 15, false, false⟩
/-- bf16 -/
def fmtBf16 : FFmt := ⟨8, 7, 127, false, false⟩
/-- binary32 -/
def fmtSingle : FFmt := ⟨8, 23, 127, false, false⟩
/-- binary64 -/
def fmtDouble : FFmt := ⟨11, 52, 1023, false, false⟩
/-- OCP e4m3 -/
def fmtE4M3 : FFmt := ⟨4, 3, 7, true, true⟩
/-- OCP e5m2 -/
def fmtE5M2 : FFmt := ⟨5, 2, 15, true, false⟩

/-- The width in bits. -/
def FFmt.width (f : FFmt) : Nat := 1 + f.eb + f.fb

/-- The exponent of the least normal number. -/
def FFmt.emin (f : FFmt) : Int := 1 - (f.bias : Int)

/-- The exponent of the largest finite number. -/
def FFmt.emax (f : FFmt) : Int := if f.e4m3 then 8 else (f.bias : Int)

/-- The bit pattern of the canonical NaN (R53). -/
def FFmt.nan (f : FFmt) : Nat :=
  if f.e4m3 then 0x7F else ((2 ^ f.eb - 1) <<< f.fb) + 2 ^ (f.fb - 1)

/-- The sign bit in place. -/
def FFmt.signBit (f : FFmt) (neg : Bool) : Nat := if neg then 2 ^ (f.eb + f.fb) else 0

/-- The bit pattern of an infinity; e4m3 has none and takes its largest finite value. -/
def FFmt.inf (f : FFmt) (neg : Bool) : Nat :=
  f.signBit neg + if f.e4m3 then 0x7E else (2 ^ f.eb - 1) <<< f.fb

/-- The bit pattern of the largest finite value. -/
def FFmt.maxFinite (f : FFmt) (neg : Bool) : Nat :=
  f.signBit neg + if f.e4m3 then 0x7E else ((2 ^ f.eb - 1) <<< f.fb) - 1

/-- A floating-point datum: a NaN, an infinity, or (−1)^neg × m × 2^e. -/
inductive FVal where
  | nan (signalling : Bool)
  | inf (neg : Bool)
  | fin (neg : Bool) (m : Nat) (e : Int)
deriving DecidableEq, Repr

/-- The datum of a bit pattern (R53, R61). -/
def FFmt.decode (f : FFmt) (x : Nat) : FVal :=
  let frac := bitsAt x 0 f.fb
  let ex := bitsAt x f.fb f.eb
  let neg := bitsAt x (f.eb + f.fb) 1 == 1
  if f.e4m3 && ex == 15 && frac == 7 then .nan false
  else if !f.e4m3 && ex == 2 ^ f.eb - 1 then
    if frac == 0 then .inf neg else .nan (frac < 2 ^ (f.fb - 1))
  else if ex == 0 then .fin neg frac (f.emin - f.fb)
  else .fin neg (2 ^ f.fb + frac) ((ex : Int) - f.bias - f.fb)

/-- An exact result: (−1)^neg × (m + δ) × 2^e with δ = 0, or 0 < δ < 1 when sticky. -/
structure Exact where
  neg : Bool
  m : Nat
  e : Int
  sticky : Bool
deriving DecidableEq, Repr

/-- A rounding mode, coded as FCSR.RM: 0 RNE, 1 RTZ, 2 RDN, 3 RUP (R35). -/
abbrev RMode := BitVec 2

/-- round to nearest, ties to even -/
def rne : RMode := 0#2

/-- Rounds the magnitude m × 2^e (with its sticky bit) to a multiple of 2^q: the multiple and whether anything was lost (R56). -/
def roundQuantum (mode : RMode) (x : Exact) (q : Int) : Nat × Bool :=
  if q ≤ x.e then (x.m <<< (x.e - q).toNat, x.sticky)
  else
    let sh := (q - x.e).toNat
    let r := x.m >>> sh
    let rem := x.m % 2 ^ sh
    let inexact := rem != 0 || x.sticky
    let half := 2 ^ (sh - 1)
    let up :=
      match mode with
      | 0#2 => decide (half < rem) || (rem == half && (x.sticky || r % 2 == 1))
      | 1#2 => false
      | 2#2 => x.neg && inexact
      | _ => !x.neg && inexact
    (if up then r + 1 else r, inexact)

/-- The bit pattern of (−1)^neg × r × 2^q for a value that the format represents exactly, 2^fb ≤ r for a normal one. -/
def FFmt.pack (f : FFmt) (neg : Bool) (r : Nat) (q : Int) : Nat :=
  if r < 2 ^ f.fb then f.signBit neg + r
  else
    let l := log2Floor r
    let ex := (q + l + f.bias).toNat
    let frac := if f.fb ≤ l then (r >>> (l - f.fb)) - 2 ^ f.fb else (r <<< (f.fb - l)) - 2 ^ f.fb
    f.signBit neg + (ex <<< f.fb) + frac

/-- The result of an overflow into an IEEE format (R58). -/
def FFmt.overflow (f : FFmt) (mode : RMode) (neg : Bool) : Nat :=
  match mode with
  | 0#2 => f.inf neg
  | 1#2 => f.maxFinite neg
  | 2#2 => if neg then f.inf neg else f.maxFinite neg
  | _ => if neg then f.maxFinite neg else f.inf neg

/-- RoundTo(type, x, mode) with its flags (R56 to R58; R62 for the FP8 formats). An exact zero keeps its sign. -/
def roundTo (f : FFmt) (mode : RMode) (x : Exact) : Nat × Flags :=
  if x.m == 0 && !x.sticky then (f.signBit x.neg, 0)
  else
    let top : Int := x.e + log2Floor x.m
    let q := max (top - f.fb) (f.emin - f.fb)
    let (r, inexact) := roundQuantum mode x q
    let tooBig :=
      if f.e4m3 then decide (448 < r * 2 ^ q.toNat ∧ 0 ≤ q) || decide (f.emax + 1 ≤ q + log2Floor r)
      else decide (f.emax + 1 ≤ q + log2Floor r)
    if tooBig then
      if f.fp8 then (f.maxFinite x.neg, flagNV8 ||| flagNX)
      else (f.overflow mode x.neg, flagOF ||| flagNX)
    else
      let carried := (roundQuantum mode x (top - f.fb)).1 == 2 ^ (f.fb + 1)
      let tiny := decide (top < f.emin) && !(decide (top = f.emin - 1) && carried)
      (f.pack x.neg r q, flagIf inexact flagNX ||| flagIf (inexact && tiny) flagUF)

/-- The quotient m1 / m2 to many bits, with its sticky bit; m2 ≠ 0. -/
def quotient (neg : Bool) (m1 : Nat) (e1 : Int) (m2 : Nat) (e2 : Int) : Exact :=
  let k := 72 + log2Floor m2
  let n := m1 <<< k
  { neg := neg, m := n / m2, e := e1 - e2 - k, sticky := n % m2 != 0 }

/-- The integer square root of n, found bit by bit from bit k − 1 down. -/
def isqrtBits (n : Nat) : Nat → Nat → Nat
  | 0, r => r
  | k + 1, r =>
    let r' := r + 2 ^ k
    isqrtBits n k (if r' * r' ≤ n then r' else r)

/-- floor(√n). -/
def isqrt (n : Nat) : Nat := isqrtBits n (log2Floor n / 2 + 1) 0

/-- m × 2^e with an even exponent. -/
def evenExp (m : Nat) (e : Int) : Nat × Int := if e % 2 == 0 then (m, e) else (2 * m, e - 1)

/-- √(m × 2^e) to many bits; m ≠ 0. -/
def rootOf (m : Nat) (e : Int) : Exact :=
  let (m, e) := evenExp m e
  let n := m <<< 160
  let r := isqrt n
  { neg := false, m := r, e := e / 2 - 80, sticky := r * r != n }

/-- 1/√(m × 2^e) to many bits; m ≠ 0. -/
def invRootOf (m : Nat) (e : Int) : Exact :=
  let (m, e) := evenExp m e
  let k := 100 + log2Floor m
  let r := isqrt (2 ^ (2 * k) / m)
  { neg := false, m := r, e := -(e / 2) - k, sticky := r * r * m != 2 ^ (2 * k) }

/-- The exact sum of two dyadic numbers as a signed multiple of 2^e. -/
def sumDyadic (n1 : Bool) (m1 : Nat) (e1 : Int) (n2 : Bool) (m2 : Nat) (e2 : Int) : Int × Int :=
  let e := min e1 e2
  let a : Int := (m1 <<< (e1 - e).toNat : Nat)
  let b : Int := (m2 <<< (e2 - e).toNat : Nat)
  ((if n1 then -a else a) + (if n2 then -b else b), e)

/-- The flags of the NaN operands: NV for a signalling one (R55, R57). -/
def FVal.nv : FVal → Flags
  | .nan true => flagNV
  | _ => 0

/-- x negated; a NaN stays as it is. -/
def FVal.negate : FVal → FVal
  | .nan s => .nan s
  | .inf n => .inf !n
  | .fin n m e => .fin (!n) m e

/-- Whether a datum is a NaN. -/
def FVal.isNan : FVal → Bool
  | .nan _ => true
  | _ => false

/-- Whether a datum is a zero. -/
def FVal.isZero : FVal → Bool
  | .fin _ 0 _ => true
  | _ => false

/-- RoundTo of the sum of two finite data, with the sign of an exact zero by R125. -/
def addFin (f : FFmt) (mode : RMode) (n1 : Bool) (m1 : Nat) (e1 : Int) (n2 : Bool) (m2 : Nat) (e2 : Int) : Nat × Flags :=
  if m1 == 0 && m2 == 0 then (f.signBit (if n1 == n2 then n1 else mode == 2#2), 0)
  else
    let (s, e) := sumDyadic n1 m1 e1 n2 m2 e2
    if s == 0 then (f.signBit (mode == 2#2), 0)
    else roundTo f mode { neg := s < 0, m := s.natAbs, e := e, sticky := false }

/-- x + y of data (R125). -/
def addVal (f : FFmt) (mode : RMode) (x y : FVal) : Nat × Flags :=
  match x, y with
  | .nan _, _ => (f.nan, x.nv ||| y.nv)
  | _, .nan _ => (f.nan, x.nv ||| y.nv)
  | .inf a, .inf b => if a == b then (f.inf a, 0) else (f.nan, flagNV)
  | .inf a, _ => (f.inf a, 0)
  | _, .inf b => (f.inf b, 0)
  | .fin a m e, .fin b n g => addFin f mode a m e b n g

/-- x × y (R125). -/
def mulVal (f : FFmt) (mode : RMode) (x y : FVal) : Nat × Flags :=
  match x, y with
  | .nan _, _ => (f.nan, x.nv ||| y.nv)
  | _, .nan _ => (f.nan, x.nv ||| y.nv)
  | .inf a, .inf b => (f.inf (a != b), 0)
  | .inf a, .fin b m _ => if m == 0 then (f.nan, flagNV) else (f.inf (a != b), 0)
  | .fin a m _, .inf b => if m == 0 then (f.nan, flagNV) else (f.inf (a != b), 0)
  | .fin a m e, .fin b n g => roundTo f mode { neg := a != b, m := m * n, e := e + g, sticky := false }

/-- x / y (R125). -/
def divVal (f : FFmt) (mode : RMode) (x y : FVal) : Nat × Flags :=
  match x, y with
  | .nan _, _ => (f.nan, x.nv ||| y.nv)
  | _, .nan _ => (f.nan, x.nv ||| y.nv)
  | .inf _, .inf _ => (f.nan, flagNV)
  | .inf a, .fin b _ _ => (f.inf (a != b), 0)
  | .fin a _ _, .inf b => (f.signBit (a != b), 0)
  | .fin a m e, .fin b n g =>
    if n == 0 then (if m == 0 then (f.nan, flagNV) else (f.inf (a != b), flagDZ))
    else if m == 0 then (f.signBit (a != b), 0)
    else roundTo f mode (quotient (a != b) m e n g)

/-- √x (R77, R125). -/
def sqrtVal (f : FFmt) (mode : RMode) (x : FVal) : Nat × Flags :=
  match x with
  | .nan _ => (f.nan, x.nv)
  | .inf neg => if neg then (f.nan, flagNV) else (f.inf false, 0)
  | .fin neg m e =>
    if m == 0 then (f.signBit neg, 0)
    else if neg then (f.nan, flagNV)
    else roundTo f mode (rootOf m e)

/-- 1/√x (R77). -/
def rsqrtVal (f : FFmt) (mode : RMode) (x : FVal) : Nat × Flags :=
  match x with
  | .nan _ => (f.nan, x.nv)
  | .inf neg => if neg then (f.nan, flagNV) else (0, 0)
  | .fin neg m e =>
    if m == 0 then (f.inf neg, flagDZ)
    else if neg then (f.nan, flagNV)
    else roundTo f mode (invRootOf m e)

/-- x × y + z, rounded once (R126). -/
def fmaVal (f : FFmt) (mode : RMode) (x y z : FVal) : Nat × Flags :=
  let nv := x.nv ||| y.nv ||| z.nv
  let zeroInf :=
    match x, y with
    | .inf _, .fin _ m _ => m == 0
    | .fin _ m _, .inf _ => m == 0
    | _, _ => false
  if zeroInf then (f.nan, nv ||| flagNV)
  else if x.isNan || y.isNan || z.isNan then (f.nan, nv)
  else
    match x, y with
    | .fin a m e, .fin b n g =>
      (match z with
       | .inf c => (f.inf c, 0)
       | .fin c k h => addFin f mode (a != b) (m * n) (e + g) c k h
       | .nan _ => (f.nan, nv))
    | _, _ =>
      let neg :=
        (match x with | .inf a => a | .fin a _ _ => a | .nan _ => false) !=
        (match y with | .inf a => a | .fin a _ _ => a | .nan _ => false)
      (match z with
       | .inf c => if c == neg then (f.inf neg, 0) else (f.nan, flagNV)
       | _ => (f.inf neg, 0))

/-- The order of two data that are no NaN: less, equal or greater; +0 and −0 are equal (R128). -/
def cmpVal (x y : FVal) : Ordering :=
  match x, y with
  | .inf a, .inf b => if a == b then .eq else if a then .lt else .gt
  | .inf a, _ => if a then .lt else .gt
  | _, .inf b => if b then .gt else .lt
  | .fin a m e, .fin b n g =>
    let d := (sumDyadic a m e (!b) n g).1
    if d < 0 then .lt else if d == 0 then .eq else .gt
  | _, _ => .eq

/-- The sign of a datum. -/
def FVal.sign : FVal → Bool
  | .nan _ => false
  | .inf n => n
  | .fin n _ _ => n

/-- minimumNumber or maximumNumber on bit patterns, −0 below +0 (R55, R127). -/
def minMaxBits (f : FFmt) (wantMax : Bool) (x y : Nat) : Nat × Flags :=
  let a := f.decode x
  let b := f.decode y
  let nv := a.nv ||| b.nv
  match a, b with
  | .nan _, .nan _ => (f.nan, nv)
  | .nan _, _ => (y, nv)
  | _, .nan _ => (x, nv)
  | _, _ =>
    let firstLess :=
      match cmpVal a b with
      | .lt => true
      | .gt => false
      | .eq => a.sign && !b.sign
    (if firstLess != wantMax then x else y, nv)

/-- fclass (R129): the kind in bits [2:0], the sign in bit 3. -/
def classBits (f : FFmt) (x : Nat) : Nat :=
  let neg := bitsAt x (f.eb + f.fb) 1
  let kind :=
    match f.decode x with
    | .nan true => 5
    | .nan false => 4
    | .inf _ => 3
    | .fin _ m _ => if m == 0 then 0 else if bitsAt x f.fb f.eb == 0 then 1 else 2
  kind + 8 * neg

/-- Floating point to floating point (R59, R62). -/
def convFF (src dst : FFmt) (mode : RMode) (x : Nat) : Nat × Flags :=
  match src.decode x with
  | .nan s => (dst.nan, flagIf s flagNV)
  | .inf neg => if dst.fp8 then (dst.maxFinite neg, flagNV8 ||| flagNX) else (dst.inf neg, 0)
  | .fin neg m e => roundTo dst mode { neg := neg, m := m, e := e, sticky := false }

/-- Integer to floating point (R59). -/
def convIF (dst : FFmt) (mode : RMode) (x : Int) : Nat × Flags :=
  roundTo dst mode { neg := x < 0, m := x.natAbs, e := 0, sticky := false }

/-- The least and greatest values of an integer type of n bits. -/
def intRange (signed : Bool) (n : Nat) : Int × Int :=
  if signed then (-(2 ^ (n - 1) : Nat), (2 ^ (n - 1) : Nat) - 1) else (0, (2 ^ n : Nat) - 1)

/-- Saturate(type, x) (R10, R60): the value and whether it was changed. -/
def saturate (signed : Bool) (n : Nat) (x : Int) : Int × Bool :=
  let (lo, hi) := intRange signed n
  if x < lo then (lo, true) else if hi < x then (hi, true) else (x, false)

/-- Floating point to integer (R59). -/
def convFI (src : FFmt) (mode : RMode) (signed : Bool) (n : Nat) (x : Nat) : Int × Flags :=
  match src.decode x with
  | .nan _ => (0, flagNV)
  | .inf neg => (if neg then (intRange signed n).1 else (intRange signed n).2, flagNV)
  | .fin neg m e =>
    let (r, inexact) := roundQuantum mode { neg := neg, m := m, e := e, sticky := false } 0
    let v : Int := if neg then -(r : Int) else r
    let (w, out) := saturate signed n v
    (w, if out then flagNV else flagIf inexact flagNX)

/-- The value of an mxf4 element code in halves (R63): sign and magnitude × 2. -/
def mxf4Halves (c : Nat) : Bool × Nat :=
  (8 ≤ c % 16, [0, 1, 2, 3, 4, 6, 8, 12].getD (c % 8) 0)

/-- The datum of a block element before its scale (R63, R64): mxf4 or, with i8, mxi8. -/
def blockElem (i8 : Bool) (c : Nat) : FVal :=
  if i8 then
    let v := signedOf 8 c
    .fin (v < 0) v.natAbs (-6)
  else
    let (n, h) := mxf4Halves c
    .fin n h (-1)

/-- A block element times its E8M0 scale code, which is not 0xFF (R65, R66). -/
def scaledElem (i8 : Bool) (c scale : Nat) : FVal :=
  match blockElem i8 c with
  | .fin n m e => .fin n m (e + (scale : Int) - 127)
  | v => v

/-- RoundTo of a datum that is finite into a floating-point type, with FP8 by R62. -/
def roundVal (f : FFmt) (mode : RMode) (v : FVal) : Nat × Flags :=
  match v with
  | .nan s => (f.nan, flagIf s flagNV)
  | .inf n => if f.fp8 then (f.maxFinite n, flagNV8 ||| flagNX) else (f.inf n, 0)
  | .fin n m e => roundTo f mode { neg := n, m := m, e := e, sticky := false }

end Sys2Proof.Machine
end

