-- ==== Sys2Proof/Config.lean ====
section
/-! DEFINITION. What an implementation fixes and the spec leaves open: opaque constants, with no value any proof can use.
Each is named in a log entry (notes/assumptions). -/

namespace Sys2Proof.Config

/-- The virtual address of the runtime's exit word (R258): the supervisor runtime's choice (log 9). -/
opaque exitWord : BitVec 64

/-- The cycles of a span die's own clock in the n-th step of the machine: step number, die, clock step, and whether droop stretches it (R411 to R413;
log 6). -/
opaque dieCycles : Nat → Nat → BitVec 5 → Bool → Nat

/-- The cycles of the abutment dies' clock, which runs at a fixed rate, in the n-th step (R411, R413; log 6). -/
opaque stepCycles : Nat → Nat

/-- The nanoseconds by which the die counts D move at the n-th step (R414; log 6). -/
opaque stepNanos : Nat → Nat

/-- The AES-256-GCM tag of the flits of one key index (R428, R446; log 16): key number, LINKID, FSEQ, KIDX, VALID, encrypted flits. -/
opaque gcmTag : Nat → BitVec 32 → BitVec 32 → BitVec 16 → BitVec 16 → List (BitVec 512) → BitVec 128

/-- The AES-256-GCM keystream of a flit under a link key (R446; log 16): key number, LINKID, FSEQ, place among the flits of its key index. -/
opaque gcmStream : Nat → BitVec 32 → BitVec 32 → Nat → BitVec 512

/-- Bits [30:0] of the LINKID derived for a direction of a link (R446, R479; log 16). -/
opaque linkId : Nat → Bool → BitVec 31

/-- Whether the digest of this end's identity key is the lower of the two of a link (R446, R479; log 16). -/
opaque linkLower : Nat → Bool

/-- Whether an ECDSA P-384 verification of the image of a flash bank succeeds (R478; log 16): bank number. -/
opaque imageVerifies : Nat → Bool

/-- The security version of the image of a flash bank (R478; log 16). -/
opaque imageVersion : Nat → Nat

/-- The fused security counter (R478; log 16). -/
opaque fusedCounter : Nat

/-- The SHA-384 digest of the firmware image of a flash bank (R478, R479; log 16). -/
opaque imageDigest : Nat → BitVec 384

/-- The SHA-384 digest of a repair store that holds these marks (R478, R479; log 16): die, cluster and physical core of each. -/
opaque repairDigest : List (BitVec 3 × BitVec 2 × BitVec 5) → BitVec 384

/-- Whether the verification of a repair store that holds these marks succeeds (R478; log 16). -/
opaque repairVerifies : List (BitVec 3 × BitVec 2 × BitVec 5) → Bool

/-- The SHA-384 digest of the identity public key (R478; log 16). -/
opaque keyDigest : BitVec 384

/-- The code of the machine event by which a slice reports an uncorrectable write-back, and its MVAL by the sector's address (R292; log 43). -/
opaque writebackCode : BitVec 8

/-- Its MVAL, by the physical address of the sector (R292; log 43). -/
opaque writebackVal : Nat → BitVec 64

/-- The way that a slice line replaces in a full set, by the count of free values used and the line number (R282 names no policy; log 84). -/
opaque victimWay : Nat → Nat → BitVec 4

/-- EVAL of the MCHK of an instruction that reads a register in error, by the count of free values used (R291 names no address for it; log 48). -/
opaque registerErrorVal : Nat → BitVec 64

/-- The flits that a channel's buffer at the far end of a link holds beyond the largest packet, by channel (R428, R433; log 40). -/
opaque channelFlits : Nat → Nat

/-- The job of a host's message to an actor of another module, by the destination word (R430, R462; log 98). -/
opaque hostJob : BitVec 64 → BitVec 16

/-- The module's serial number (R478; log 16). -/
opaque serial : BitVec 64

/-- The 96-byte ECDSA P-384 signature of a byte string under the identity key (R479; log 16). -/
opaque signature : List (BitVec 8) → BitVec 768

/-- The governor's modelled worst-case power, in watts, of a clock step in 100 MHz units above 1.2 GHz (R416; log 13). -/
opaque stepPower : Nat → Nat

end Sys2Proof.Config
end

