-- ==== Sys2Proof/Syntax.lean ====
section
/-! DEFINITION. The instructions and device operations of the Oxcia: one constructor per row of spec/opcode_table.json, and the
data that an operation carries. Scalar, vector, mask and accumulator fields hold the register numbers of the word (spec/04 R80, R82). -/

namespace Sys2Proof

/-- A switch of the module (R424, R455, R466): level L0 of a cluster, L1 of a die, L2 of an abutment die. -/
inductive SwitchId where
  | l0 (die : BitVec 3) (cluster : BitVec 2)
  | l1 (die : BitVec 3)
  | l2 (abut : BitVec 1)
deriving DecidableEq, Repr

/-- A message on its way to a mailbox (R243, R244, R398): the destination word, the MSGHDR its receiver would see (MBX still to be
filled in), its beats as bytes, and the TIME that its injection carries (R316, R317). -/
structure Message where
  dest : Word
  hdr : Word
  payload : List Byte
  time : Word
  /-- the buffer that holds it holds an uncorrectable error (R290, R291) -/
  bad : Bool := false
deriving DecidableEq, Repr

/-- A packet of the Trestle fabric (R430): header fields and payload bytes. LEN and BYTES follow from the payload. -/
structure Packet where
  kind : BitVec 4
  tc : BitVec 2
  ord : Bool
  resp : Bool
  dmod : BitVec 14
  smod : BitVec 14
  sring : BitVec 6
  upath : BitVec 12
  slow : Bool
  age : BitVec 8
  jid : BitVec 16
  pseq : BitVec 16
  status : BitVec 4
  rtag : BitVec 16
  payload : List Byte
  /-- the TIME that a release or a message carries, or that released bytes of a reply carry (R317); the header of R430 has no field for it -/
  time : Word
  /-- a request made at level S or M, which no access table checks (R287); the header of R430 has no field for it -/
  exempt : Bool := false
  /-- a store through a NEAR page (R285); the header of R430 has no field for it -/
  near : Bool := false
  /-- held at its source in deflection mode until the earlier requests to its module have their responses (R441) -/
  waits : Bool := false
deriving DecidableEq, Repr

/-- What a packet carries beside its header of R430, which has no field for it: the TIME of a release (R317), whether no table checks it (R287), and
whether it stores through a NEAR page (R285). -/
structure Carried where
  time : Word
  exempt : Bool
  near : Bool
deriving DecidableEq, Repr

/-- A frame of an external link (R427, R428): sixteen slots as they travel (encrypted), then the trailer. -/
structure Frame where
  slots : List (BitVec 512)
  fseq : BitVec 32
  ackseq : BitVec 32
  kidx : BitVec 16
  valid : BitVec 16
  nak : Bool
  kready : Bool
  retire0 : Bool
  retire1 : Bool
  tag0 : BitVec 128
  tag1 : BitVec 128
  credit : BitVec 64
  crc : BitVec 32
  /-- what the packets of the frame carry beside their headers, in order -/
  carried : List Carried := []
deriving DecidableEq, Repr

/-- A request to a shared-cache slice (R282, R283, R285): the home die, the line's offset in the home, whether it writes, whether it
covers a whole sector, whether the page is NEAR, and the way that a fill replaces. -/
structure SliceReq where
  die : BitVec 3
  off : BitVec 38
  write : Bool
  whole : Bool
  near : Bool
  victim : BitVec 4
deriving DecidableEq, Repr

/-- What a boot finds (R421, R425, R478): the failed physical cores, the failed slices and stacks, the module number that link-up
assigns, the modules present, the links and Ethernet ports that come up, and whether both management cores loaded one image. -/
structure BootReport where
  failedCores : List (BitVec 3 × BitVec 2 × BitVec 5)
  failedSlices : List (BitVec 3 × BitVec 5)
  failedStacks : List (BitVec 3 × BitVec 2)
  module : BitVec 14
  present : List (BitVec 14)
  linksUp : List (BitVec 5)
  portsUp : List (BitVec 3)
  sameImage : Bool
deriving DecidableEq, Repr

/-- The module faults that start recovery (R482). -/
inductive ModuleFaultKind where
  | writeback (jid : BitVec 16)
  | gsovf (jid : BitVec 16)
  | thermal
  | noHeartbeat (module : BitVec 14)
deriving DecidableEq, Repr

/-- The instruction set and the device operations. -/
inductive Instr where
  /-- ADD `add` (R119). Writes the 64-bit sum of two scalar registers. -/
  | add (d a b : BitVec 5)
  /-- SUB `sub` (R119). Writes the 64-bit difference of two scalar registers. -/
  | sub (d a b : BitVec 5)
  /-- AND `and` (R119). Writes the bitwise AND of two scalar registers. -/
  | and (d a b : BitVec 5)
  /-- OR `or` (R119). Writes the bitwise OR of two scalar registers. -/
  | or (d a b : BitVec 5)
  /-- XOR `xor` (R119). Writes the bitwise XOR of two scalar registers. -/
  | xor (d a b : BitVec 5)
  /-- ANDN `andn` (R119). Writes x AND NOT y. -/
  | andn (d a b : BitVec 5)
  /-- ORN `orn` (R119). Writes x OR NOT y. -/
  | orn (d a b : BitVec 5)
  /-- XNOR `xnor` (R119). Writes NOT (x XOR y). -/
  | xnor (d a b : BitVec 5)
  /-- SLL `sll` (R119). Shifts x left by the low 6 bits of y. -/
  | sll (d a b : BitVec 5)
  /-- SRL `srl` (R119). Shifts x right by the low 6 bits of y, with zeros entering. -/
  | srl (d a b : BitVec 5)
  /-- SRA `sra` (R119). Shifts x right arithmetically by the low 6 bits of y. -/
  | sra (d a b : BitVec 5)
  /-- ROL `rol` (R119). Rotates x left by the low 6 bits of y. -/
  | rol (d a b : BitVec 5)
  /-- ROR `ror` (R119). Rotates x right by the low 6 bits of y. -/
  | ror (d a b : BitVec 5)
  /-- MIN `min` (R119). Writes the signed lesser of two registers. -/
  | min (d a b : BitVec 5)
  /-- MINU `minu` (R119). Writes the unsigned lesser of two registers. -/
  | minu (d a b : BitVec 5)
  /-- MAX `max` (R119). Writes the signed greater of two registers. -/
  | max (d a b : BitVec 5)
  /-- MAXU `maxu` (R119). Writes the unsigned greater of two registers. -/
  | maxu (d a b : BitVec 5)
  /-- SEQ `seq` (R119). Writes 1 if x equals y, else 0. -/
  | seq (d a b : BitVec 5)
  /-- SNE `sne` (R119). Writes 1 if x differs from y, else 0. -/
  | sne (d a b : BitVec 5)
  /-- SLT `slt` (R119). Writes 1 if x is signed-less than y. -/
  | slt (d a b : BitVec 5)
  /-- SLTU `sltu` (R119). Writes 1 if x is unsigned-less than y. -/
  | sltu (d a b : BitVec 5)
  /-- MUL `mul` (R122). Writes the low 64 bits of the product. -/
  | mul (d a b : BitVec 5)
  /-- MULH `mulh` (R122). Writes the high 64 bits of the signed 128-bit product. -/
  | mulh (d a b : BitVec 5)
  /-- MULHU `mulhu` (R122). Writes the high 64 bits of the unsigned 128-bit product. -/
  | mulhu (d a b : BitVec 5)
  /-- DIV `div` (R122). Writes the signed quotient, with the special cases of R60. -/
  | div (d a b : BitVec 5)
  /-- DIVU `divu` (R122). Writes the unsigned quotient. -/
  | divu (d a b : BitVec 5)
  /-- REM `rem` (R122). Writes the signed remainder. -/
  | rem (d a b : BitVec 5)
  /-- REMU `remu` (R122). Writes the unsigned remainder. -/
  | remu (d a b : BitVec 5)
  /-- CLZ `clz` (R123). Counts the leading zero bits. -/
  | clz (d a : BitVec 5)
  /-- CTZ `ctz` (R123). Counts the trailing zero bits. -/
  | ctz (d a : BitVec 5)
  /-- POPC `popc` (R123). Counts the set bits. -/
  | popc (d a : BitVec 5)
  /-- BEXT `bext` (R123). Packs the bits of x at the set positions of y into the low bits. -/
  | bext (d a b : BitVec 5)
  /-- BDEP `bdep` (R123). Spreads the low bits of x to the set positions of y. -/
  | bdep (d a b : BitVec 5)
  /-- BSWAP `bswap` (R123). Reverses the byte order of x. -/
  | bswap (d a : BitVec 5)
  /-- SEXT_B `sext.b` (R123). Sign-extends the low byte. -/
  | sextB (d a : BitVec 5)
  /-- SEXT_H `sext.h` (R123). Sign-extends the low halfword. -/
  | sextH (d a : BitVec 5)
  /-- SEXT_W `sext.w` (R123). Sign-extends the low word. -/
  | sextW (d a : BitVec 5)
  /-- ZEXT_B `zext.b` (R123). Zero-extends the low byte. -/
  | zextB (d a : BitVec 5)
  /-- ZEXT_H `zext.h` (R123). Zero-extends the low halfword. -/
  | zextH (d a : BitVec 5)
  /-- ZEXT_W `zext.w` (R123). Zero-extends the low word. -/
  | zextW (d a : BitVec 5)
  /-- ADDI `addi` (R120). Adds the sign-extended immediate. -/
  | addi (d a : BitVec 5) (imm : BitVec 16)
  /-- ANDI `andi` (R120). ANDs with the zero-extended immediate. -/
  | andi (d a : BitVec 5) (imm : BitVec 16)
  /-- ORI `ori` (R120). ORs with the zero-extended immediate. -/
  | ori (d a : BitVec 5) (imm : BitVec 16)
  /-- XORI `xori` (R120). XORs with the zero-extended immediate. -/
  | xori (d a : BitVec 5) (imm : BitVec 16)
  /-- SLLI `slli` (R120). Shifts left by the immediate amount. -/
  | slli (d a : BitVec 5) (n : BitVec 6)
  /-- SRLI `srli` (R120). Shifts right logically by the immediate amount. -/
  | srli (d a : BitVec 5) (n : BitVec 6)
  /-- SRAI `srai` (R120). Shifts right arithmetically by the immediate amount. -/
  | srai (d a : BitVec 5) (n : BitVec 6)
  /-- SLTI `slti` (R120). Writes 1 if s[a] is signed-less than the immediate. -/
  | slti (d a : BitVec 5) (imm : BitVec 16)
  /-- SLTIU `sltiu` (R120). Writes 1 if s[a] is unsigned-less than the sign-extended immediate. -/
  | sltiu (d a : BitVec 5) (imm : BitVec 16)
  /-- MOVZ `movz.hN` (R121). Sets one halfword from the immediate and clears the rest. -/
  | movz (d : BitVec 5) (n : BitVec 2) (imm : BitVec 16)
  /-- MOVK `movk.hN` (R121). Replaces one halfword of s[d] with the immediate. -/
  | movk (d : BitVec 5) (n : BitVec 2) (imm : BitVec 16)
  /-- FADD `fadd` (R125). Scalar floating-point add, rounded once. -/
  | fadd (d a b : BitVec 5) (ty : BitVec 2) (rm : BitVec 3)
  /-- FSUB `fsub` (R125). Scalar floating-point subtract. -/
  | fsub (d a b : BitVec 5) (ty : BitVec 2) (rm : BitVec 3)
  /-- FMUL `fmul` (R125). Scalar floating-point multiply. -/
  | fmul (d a b : BitVec 5) (ty : BitVec 2) (rm : BitVec 3)
  /-- FDIV `fdiv` (R125). Scalar floating-point divide. -/
  | fdiv (d a b : BitVec 5) (ty : BitVec 2) (rm : BitVec 3)
  /-- FSQRT `fsqrt` (R125). Scalar floating-point square root. -/
  | fsqrt (d a : BitVec 5) (ty : BitVec 2) (rm : BitVec 3)
  /-- FMIN `fmin` (R127). Scalar minimumNumber. -/
  | fmin (d a b : BitVec 5) (ty : BitVec 2)
  /-- FMAX `fmax` (R127). Scalar maximumNumber. -/
  | fmax (d a b : BitVec 5) (ty : BitVec 2)
  /-- FEQ `feq` (R128). Writes 1 if x = y. -/
  | feq (d a b : BitVec 5) (ty : BitVec 2)
  /-- FLT `flt` (R128). Writes 1 if x < y. -/
  | flt (d a b : BitVec 5) (ty : BitVec 2)
  /-- FLE `fle` (R128). Writes 1 if x <= y. -/
  | fle (d a b : BitVec 5) (ty : BitVec 2)
  /-- FCLASS `fclass` (R129). Writes the class code of x. -/
  | fclass (d a : BitVec 5) (ty : BitVec 2)
  /-- FSGNJ `fsgnj` (R130). Copies x with the sign of y. -/
  | fsgnj (d a b : BitVec 5) (ty : BitVec 2)
  /-- FSGNJN `fsgnjn` (R130). Copies x with the inverted sign of y. -/
  | fsgnjn (d a b : BitVec 5) (ty : BitVec 2)
  /-- FSGNJX `fsgnjx` (R130). Copies x with its sign XORed with that of y. -/
  | fsgnjx (d a b : BitVec 5) (ty : BitVec 2)
  /-- FCVT_FF `fcvt` (R131). Converts between floating-point types. -/
  | fcvtFF (d a : BitVec 5) (s ty : BitVec 2) (rm : BitVec 3)
  /-- FCVT_FI `fcvt` (R131). Converts an integer to floating point. -/
  | fcvtFI (d a : BitVec 5) (s ty : BitVec 2) (rm : BitVec 3)
  /-- FCVT_IF `fcvt` (R131). Converts floating point to a saturated integer. -/
  | fcvtIF (d a : BitVec 5) (s ty : BitVec 2) (rm : BitVec 3)
  /-- FMADD `fmadd` (R126). Fused x*y+z. -/
  | fmadd (d a b c : BitVec 5) (ty : BitVec 2) (rm : BitVec 3)
  /-- FMSUB `fmsub` (R126). Fused x*y-z. -/
  | fmsub (d a b c : BitVec 5) (ty : BitVec 2) (rm : BitVec 3)
  /-- FNMADD `fnmadd` (R126). Fused -(x*y)-z. -/
  | fnmadd (d a b c : BitVec 5) (ty : BitVec 2) (rm : BitVec 3)
  /-- J `j` (R133). Jumps by a word offset. -/
  | j (off : BitVec 26)
  /-- JAL `jal` (R133). Writes the link to s1 and jumps. -/
  | jal (off : BitVec 26)
  /-- JALR `jalr` (R133). Jumps to a register plus an offset and writes the link, trapping ALIGN on a misaligned target. -/
  | jalr (d a : BitVec 5) (imm : BitVec 16)
  /-- BEQ `beq` (R132). Branches if equal. -/
  | beq (a b : BitVec 5) (off : BitVec 13)
  /-- BNE `bne` (R132). Branches if not equal. -/
  | bne (a b : BitVec 5) (off : BitVec 13)
  /-- BLT `blt` (R132). Branches if signed less. -/
  | blt (a b : BitVec 5) (off : BitVec 13)
  /-- BGE `bge` (R132). Branches if signed greater or equal. -/
  | bge (a b : BitVec 5) (off : BitVec 13)
  /-- BLTU `bltu` (R132). Branches if unsigned less. -/
  | bltu (a b : BitVec 5) (off : BitVec 13)
  /-- BGEU `bgeu` (R132). Branches if unsigned greater or equal. -/
  | bgeu (a b : BitVec 5) (off : BitVec 13)
  /-- LDB `ldb` (R135). Loads a sign-extended byte. -/
  | ldb (d a : BitVec 5) (off : BitVec 13)
  /-- LDBU `ldbu` (R135). Loads a zero-extended byte. -/
  | ldbu (d a : BitVec 5) (off : BitVec 13)
  /-- LDH `ldh` (R135). Loads a sign-extended halfword. -/
  | ldh (d a : BitVec 5) (off : BitVec 13)
  /-- LDHU `ldhu` (R135). Loads a zero-extended halfword. -/
  | ldhu (d a : BitVec 5) (off : BitVec 13)
  /-- LDW `ldw` (R135). Loads a sign-extended word. -/
  | ldw (d a : BitVec 5) (off : BitVec 13)
  /-- LDWU `ldwu` (R135). Loads a zero-extended word. -/
  | ldwu (d a : BitVec 5) (off : BitVec 13)
  /-- LDD `ldd` (R135). Loads a doubleword. -/
  | ldd (d a : BitVec 5) (off : BitVec 13)
  /-- STB `stb` (R135). Stores a byte. -/
  | stb (d a : BitVec 5) (off : BitVec 13)
  /-- STH `sth` (R135). Stores a halfword. -/
  | sth (d a : BitVec 5) (off : BitVec 13)
  /-- STW `stw` (R135). Stores a word. -/
  | stw (d a : BitVec 5) (off : BitVec 13)
  /-- STD `std` (R135). Stores a doubleword. -/
  | std (d a : BitVec 5) (off : BitVec 13)
  /-- LDBU_AQ `ldbu.aq` (R304). Scoped acquire load of a byte. -/
  | ldbuAQ (d a : BitVec 5) (scope : BitVec 3)
  /-- LDHU_AQ `ldhu.aq` (R304). Scoped acquire load of a halfword. -/
  | ldhuAQ (d a : BitVec 5) (scope : BitVec 3)
  /-- LDWU_AQ `ldwu.aq` (R304). Scoped acquire load of a word. -/
  | ldwuAQ (d a : BitVec 5) (scope : BitVec 3)
  /-- LDD_AQ `ldd.aq` (R304). Scoped acquire load of a doubleword. -/
  | lddAQ (d a : BitVec 5) (scope : BitVec 3)
  /-- STB_RL `stb.rl` (R304). Scoped release store of a byte. -/
  | stbRL (a b : BitVec 5) (scope : BitVec 3)
  /-- STH_RL `sth.rl` (R304). Scoped release store of a halfword. -/
  | sthRL (a b : BitVec 5) (scope : BitVec 3)
  /-- STW_RL `stw.rl` (R304). Scoped release store of a word. -/
  | stwRL (a b : BitVec 5) (scope : BitVec 3)
  /-- STD_RL `std.rl` (R304). Scoped release store of a doubleword. -/
  | stdRL (a b : BitVec 5) (scope : BitVec 3)
  /-- AMOADD `amoadd` (R305). Atomic add, returning the old value. -/
  | amoadd (d a b : BitVec 5) (wd : BitVec 1) (scope : BitVec 3) (ord : BitVec 2)
  /-- AMOAND `amoand` (R305). Atomic AND. -/
  | amoand (d a b : BitVec 5) (wd : BitVec 1) (scope : BitVec 3) (ord : BitVec 2)
  /-- AMOOR `amoor` (R305). Atomic OR. -/
  | amoor (d a b : BitVec 5) (wd : BitVec 1) (scope : BitVec 3) (ord : BitVec 2)
  /-- AMOXOR `amoxor` (R305). Atomic XOR. -/
  | amoxor (d a b : BitVec 5) (wd : BitVec 1) (scope : BitVec 3) (ord : BitVec 2)
  /-- AMOMIN `amomin` (R305). Atomic signed minimum. -/
  | amomin (d a b : BitVec 5) (wd : BitVec 1) (scope : BitVec 3) (ord : BitVec 2)
  /-- AMOMAX `amomax` (R305). Atomic signed maximum. -/
  | amomax (d a b : BitVec 5) (wd : BitVec 1) (scope : BitVec 3) (ord : BitVec 2)
  /-- AMOMINU `amominu` (R305). Atomic unsigned minimum. -/
  | amominu (d a b : BitVec 5) (wd : BitVec 1) (scope : BitVec 3) (ord : BitVec 2)
  /-- AMOMAXU `amomaxu` (R305). Atomic unsigned maximum. -/
  | amomaxu (d a b : BitVec 5) (wd : BitVec 1) (scope : BitVec 3) (ord : BitVec 2)
  /-- AMOSWAP `amoswap` (R305). Atomic swap. -/
  | amoswap (d a b : BitVec 5) (wd : BitVec 1) (scope : BitVec 3) (ord : BitVec 2)
  /-- CAS `cas` (R307). Compare-and-swap, returning the old value. -/
  | cas (d a b : BitVec 5) (wd : BitVec 1) (scope : BitVec 3) (ord : BitVec 2)
  /-- LDSYNC `ldsync` (R312). Waits until a local-store word is full and reads it, leaving it full. -/
  | ldsync (d a : BitVec 5) (scope : BitVec 3)
  /-- LDTAKE `ldtake` (R312). Waits until a word is full, reads it and empties it. -/
  | ldtake (d a : BitVec 5) (scope : BitVec 3)
  /-- STFILL `stfill` (R312). Writes a word and sets its full bit. -/
  | stfill (a b : BitVec 5) (scope : BitVec 3)
  /-- FECLR `feclr` (R312). Clears the full bits of a range of words. -/
  | feclr (a b : BitVec 5) (scope : BitVec 3)
  /-- FESET `feset` (R312). Sets the full bits of a range of words, as a release. -/
  | feset (a b : BitVec 5) (scope : BitVec 3)
  /-- CSRR `csrr` (R138). Reads a CSR. -/
  | csrr (d : BitVec 5) (csr : BitVec 12)
  /-- CSRW `csrw` (R138). Writes a CSR and returns its old value. -/
  | csrw (d a : BitVec 5) (csr : BitVec 12)
  /-- CSRS `csrs` (R138). Sets CSR bits and returns the old value. -/
  | csrs (d a : BitVec 5) (csr : BitVec 12)
  /-- CSRC `csrc` (R138). Clears CSR bits and returns the old value. -/
  | csrc (d a : BitVec 5) (csr : BitVec 12)
  /-- FENCE `fence` (R308). Scoped fence ordering the predecessor kinds before the successor kinds. -/
  | fence (pred succ scope : BitVec 3)
  /-- FENCE_SV `fence.sv` (R310). Orders scalar accesses before later vector accesses. -/
  | fenceSV
  /-- FENCE_VS `fence.vs` (R310). Stalls scalar work until earlier vector memory instructions complete. -/
  | fenceVS
  /-- FENCE_VV `fence.vv` (R310). Orders vector memory instructions against one another. -/
  | fenceVV
  /-- ERET `eret` (R384). Returns from a trap to EPC, restoring the level and IE. -/
  | eret
  /-- WFI `wfi` (R385). Parks the core until an asynchronous event is pending. -/
  | wfi
  /-- HALT `halt` (R386). Stops every core of the ring and signals the management core. -/
  | halt
  /-- TLBINV `tlbinv` (R387). Drops cached translations throughout the module. -/
  | tlbinv (a b : BitVec 5)
  /-- PREEMPT `preempt` (R393). Stops or resumes another ring. -/
  | preempt (a : BitVec 5)
  /-- CTXSAVE `ctxsave` (R400). Writes a stopped ring's context to memory, optionally releasing it. -/
  | ctxsave (a b : BitVec 5)
  /-- CTXLOAD `ctxload` (R401). Installs a context on an empty ring. -/
  | ctxload (a b : BitVec 5)
  /-- RESHAPE `reshape` (R402). Latches a change of ring shape and VLCAP. -/
  | reshape (a b : BitVec 5)
  /-- TRAP `trap` (R383). Raises TRAPI with the immediate in EVAL. -/
  | trap (imm : BitVec 16)
  /-- VSETVLI `vsetvli` (R145). Sets SEW, SLICES and VL from an immediate type. -/
  | vsetvli (d a : BitVec 5) (slices sew : BitVec 4)
  /-- VSETVL `vsetvl` (R145). Sets SEW, SLICES and VL from a register type. -/
  | vsetvl (d a b : BitVec 5)
  /-- VCFG `vcfg` (R144). Sets the number of vector registers and clears them. -/
  | vcfg (n : BitVec 2)
  /-- VADD_VV `vadd.vv` (R151). Vector integer add. -/
  | vaddVV (d a b : BitVec 6) (km : BitVec 3) (cv : BitVec 1)
  /-- VSUB_VV `vsub.vv` (R151). Vector integer subtract. -/
  | vsubVV (d a b : BitVec 6) (km : BitVec 3) (cv : BitVec 1)
  /-- VMUL_VV `vmul.vv` (R151). Vector integer multiply, low bits. -/
  | vmulVV (d a b : BitVec 6) (km : BitVec 3) (cv : BitVec 1)
  /-- VMULH_VV `vmulh.vv` (R151). Vector integer multiply, high bits. -/
  | vmulhVV (d a b : BitVec 6) (km : BitVec 3) (cv : BitVec 1)
  /-- VDIV_VV `vdiv.vv` (R151). Vector integer divide. -/
  | vdivVV (d a b : BitVec 6) (km : BitVec 3) (cv : BitVec 1)
  /-- VREM_VV `vrem.vv` (R151). Vector integer remainder. -/
  | vremVV (d a b : BitVec 6) (km : BitVec 3) (cv : BitVec 1)
  /-- VMIN_VV `vmin.vv` (R151). Vector integer minimum. -/
  | vminVV (d a b : BitVec 6) (km : BitVec 3) (cv : BitVec 1)
  /-- VMAX_VV `vmax.vv` (R151). Vector integer maximum. -/
  | vmaxVV (d a b : BitVec 6) (km : BitVec 3) (cv : BitVec 1)
  /-- VAND_VV `vand.vv` (R151). Vector bitwise AND. -/
  | vandVV (d a b : BitVec 6) (km : BitVec 3) (cv : BitVec 1)
  /-- VOR_VV `vor.vv` (R151). Vector bitwise OR. -/
  | vorVV (d a b : BitVec 6) (km : BitVec 3) (cv : BitVec 1)
  /-- VXOR_VV `vxor.vv` (R151). Vector bitwise XOR. -/
  | vxorVV (d a b : BitVec 6) (km : BitVec 3) (cv : BitVec 1)
  /-- VSLL_VV `vsll.vv` (R151). Vector shift left. -/
  | vsllVV (d a b : BitVec 6) (km : BitVec 3) (cv : BitVec 1)
  /-- VSRL_VV `vsrl.vv` (R151). Vector logical shift right. -/
  | vsrlVV (d a b : BitVec 6) (km : BitVec 3) (cv : BitVec 1)
  /-- VSRA_VV `vsra.vv` (R151). Vector arithmetic shift right. -/
  | vsraVV (d a b : BitVec 6) (km : BitVec 3) (cv : BitVec 1)
  /-- VSADD_VV `vsadd.vv` (R151). Vector saturating add. -/
  | vsaddVV (d a b : BitVec 6) (km : BitVec 3) (cv : BitVec 1)
  /-- VSSUB_VV `vssub.vv` (R151). Vector saturating subtract. -/
  | vssubVV (d a b : BitVec 6) (km : BitVec 3) (cv : BitVec 1)
  /-- VADD_VS `vadd.vs` (R151). Vector add with a scalar. -/
  | vaddVS (d a : BitVec 6) (b : BitVec 5) (km : BitVec 3) (cv : BitVec 1)
  /-- VSUB_VS `vsub.vs` (R151). Vector subtract of a scalar. -/
  | vsubVS (d a : BitVec 6) (b : BitVec 5) (km : BitVec 3) (cv : BitVec 1)
  /-- VMUL_VS `vmul.vs` (R151). Vector multiply by a scalar. -/
  | vmulVS (d a : BitVec 6) (b : BitVec 5) (km : BitVec 3) (cv : BitVec 1)
  /-- VMULH_VS `vmulh.vs` (R151). Vector high multiply by a scalar. -/
  | vmulhVS (d a : BitVec 6) (b : BitVec 5) (km : BitVec 3) (cv : BitVec 1)
  /-- VDIV_VS `vdiv.vs` (R151). Vector divide by a scalar. -/
  | vdivVS (d a : BitVec 6) (b : BitVec 5) (km : BitVec 3) (cv : BitVec 1)
  /-- VREM_VS `vrem.vs` (R151). Vector remainder by a scalar. -/
  | vremVS (d a : BitVec 6) (b : BitVec 5) (km : BitVec 3) (cv : BitVec 1)
  /-- VMIN_VS `vmin.vs` (R151). Vector minimum with a scalar. -/
  | vminVS (d a : BitVec 6) (b : BitVec 5) (km : BitVec 3) (cv : BitVec 1)
  /-- VMAX_VS `vmax.vs` (R151). Vector maximum with a scalar. -/
  | vmaxVS (d a : BitVec 6) (b : BitVec 5) (km : BitVec 3) (cv : BitVec 1)
  /-- VAND_VS `vand.vs` (R151). Vector AND with a scalar. -/
  | vandVS (d a : BitVec 6) (b : BitVec 5) (km : BitVec 3) (cv : BitVec 1)
  /-- VOR_VS `vor.vs` (R151). Vector OR with a scalar. -/
  | vorVS (d a : BitVec 6) (b : BitVec 5) (km : BitVec 3) (cv : BitVec 1)
  /-- VXOR_VS `vxor.vs` (R151). Vector XOR with a scalar. -/
  | vxorVS (d a : BitVec 6) (b : BitVec 5) (km : BitVec 3) (cv : BitVec 1)
  /-- VSLL_VS `vsll.vs` (R151). Vector shift left by a scalar. -/
  | vsllVS (d a : BitVec 6) (b : BitVec 5) (km : BitVec 3) (cv : BitVec 1)
  /-- VSRL_VS `vsrl.vs` (R151). Vector logical shift right by a scalar. -/
  | vsrlVS (d a : BitVec 6) (b : BitVec 5) (km : BitVec 3) (cv : BitVec 1)
  /-- VSRA_VS `vsra.vs` (R151). Vector arithmetic shift right by a scalar. -/
  | vsraVS (d a : BitVec 6) (b : BitVec 5) (km : BitVec 3) (cv : BitVec 1)
  /-- VSADD_VS `vsadd.vs` (R151). Vector saturating add of a scalar. -/
  | vsaddVS (d a : BitVec 6) (b : BitVec 5) (km : BitVec 3) (cv : BitVec 1)
  /-- VSSUB_VS `vssub.vs` (R151). Vector saturating subtract of a scalar. -/
  | vssubVS (d a : BitVec 6) (b : BitVec 5) (km : BitVec 3) (cv : BitVec 1)
  /-- VRSUB_VS `vrsub.vs` (R151). Vector reverse subtract from a scalar. -/
  | vrsubVS (d a : BitVec 6) (b : BitVec 5) (km : BitVec 3) (cv : BitVec 1)
  /-- VMADD_VS `vmadd.vs` (R153). Vector multiply-accumulate with a scalar. -/
  | vmaddVS (d a : BitVec 6) (b : BitVec 5) (km : BitVec 3) (cv : BitVec 1)
  /-- VMSAC_VS `vmsac.vs` (R153). Vector multiply-subtract with a scalar. -/
  | vmsacVS (d a : BitVec 6) (b : BitVec 5) (km : BitVec 3) (cv : BitVec 1)
  /-- VWADD_VS `vwadd.vs` (R154). Widening add with a scalar. -/
  | vwaddVS (d a : BitVec 6) (b : BitVec 5) (km : BitVec 3) (cv : BitVec 1)
  /-- VWMUL_VS `vwmul.vs` (R154). Widening multiply by a scalar. -/
  | vwmulVS (d a : BitVec 6) (b : BitVec 5) (km : BitVec 3) (cv : BitVec 1)
  /-- VADD_VI `vadd.vi` (R151). Vector add of an immediate. -/
  | vaddVI (d a imm : BitVec 6) (km : BitVec 3) (cv : BitVec 1)
  /-- VRSUB_VI `vrsub.vi` (R151). Vector reverse subtract from an immediate. -/
  | vrsubVI (d a imm : BitVec 6) (km : BitVec 3) (cv : BitVec 1)
  /-- VAND_VI `vand.vi` (R151). Vector AND with an immediate. -/
  | vandVI (d a imm : BitVec 6) (km : BitVec 3) (cv : BitVec 1)
  /-- VOR_VI `vor.vi` (R151). Vector OR with an immediate. -/
  | vorVI (d a imm : BitVec 6) (km : BitVec 3) (cv : BitVec 1)
  /-- VXOR_VI `vxor.vi` (R151). Vector XOR with an immediate. -/
  | vxorVI (d a imm : BitVec 6) (km : BitVec 3) (cv : BitVec 1)
  /-- VSLL_VI `vsll.vi` (R151). Vector shift left by an unsigned immediate. -/
  | vsllVI (d a imm : BitVec 6) (km : BitVec 3) (cv : BitVec 1)
  /-- VSRL_VI `vsrl.vi` (R151). Vector logical shift right by an immediate. -/
  | vsrlVI (d a imm : BitVec 6) (km : BitVec 3) (cv : BitVec 1)
  /-- VSRA_VI `vsra.vi` (R151). Vector arithmetic shift right by an immediate. -/
  | vsraVI (d a imm : BitVec 6) (km : BitVec 3) (cv : BitVec 1)
  /-- VSADD_VI `vsadd.vi` (R151). Vector saturating add of an immediate. -/
  | vsaddVI (d a imm : BitVec 6) (km : BitVec 3) (cv : BitVec 1)
  /-- VMIN_VI `vmin.vi` (R151). Vector minimum with an immediate. -/
  | vminVI (d a imm : BitVec 6) (km : BitVec 3) (cv : BitVec 1)
  /-- VMAX_VI `vmax.vi` (R151). Vector maximum with an immediate. -/
  | vmaxVI (d a imm : BitVec 6) (km : BitVec 3) (cv : BitVec 1)
  /-- VMADD_VV `vmadd.vv` (R153). Vector multiply-accumulate into the destination. -/
  | vmaddVV (d a b : BitVec 6) (km : BitVec 3) (cv : BitVec 1)
  /-- VMSAC_VV `vmsac.vv` (R153). Vector multiply-subtract from the destination. -/
  | vmsacVV (d a b : BitVec 6) (km : BitVec 3) (cv : BitVec 1)
  /-- VWADD_VV `vwadd.vv` (R154). Widening vector add into a register pair. -/
  | vwaddVV (d a b : BitVec 6) (km : BitVec 3) (cv : BitVec 1)
  /-- VWMUL_VV `vwmul.vv` (R154). Widening vector multiply into a register pair. -/
  | vwmulVV (d a b : BitVec 6) (km : BitVec 3) (cv : BitVec 1)
  /-- VDOT4 `vdot4` (R155). Four-way byte dot product accumulated into 32-bit elements. -/
  | vdot4 (d a b : BitVec 6) (km : BitVec 3) (cv : BitVec 1)
  /-- VDOT4_SAT `vdot4.sat` (R155). Four-way byte dot product, saturated once at the end. -/
  | vdot4Sat (d a b : BitVec 6) (km : BitVec 3) (cv : BitVec 1)
  /-- VFADD_VV `vfadd.vv` (R156). Vector floating-point add. -/
  | vfaddVV (d a b : BitVec 6) (km : BitVec 3) (cv : BitVec 1)
  /-- VFSUB_VV `vfsub.vv` (R156). Vector floating-point subtract. -/
  | vfsubVV (d a b : BitVec 6) (km : BitVec 3) (cv : BitVec 1)
  /-- VFMUL_VV `vfmul.vv` (R156). Vector floating-point multiply. -/
  | vfmulVV (d a b : BitVec 6) (km : BitVec 3) (cv : BitVec 1)
  /-- VFDIV_VV `vfdiv.vv` (R156). Vector floating-point divide. -/
  | vfdivVV (d a b : BitVec 6) (km : BitVec 3) (cv : BitVec 1)
  /-- VFSQRT `vfsqrt` (R158). Vector floating-point square root. -/
  | vfsqrt (d a : BitVec 6) (km : BitVec 3) (cv : BitVec 1)
  /-- VFRSQRT `vfrsqrt` (R158). Vector reciprocal square root, correctly rounded. -/
  | vfrsqrt (d a : BitVec 6) (km : BitVec 3) (cv : BitVec 1)
  /-- VFMA_VV `vfma.vv` (R156). Vector fused x*y+d. -/
  | vfmaVV (d a b : BitVec 6) (km : BitVec 3) (cv : BitVec 1)
  /-- VFMS_VV `vfms.vv` (R156). Vector fused x*y-d. -/
  | vfmsVV (d a b : BitVec 6) (km : BitVec 3) (cv : BitVec 1)
  /-- VFNMA_VV `vfnma.vv` (R156). Vector fused -(x*y)-d. -/
  | vfnmaVV (d a b : BitVec 6) (km : BitVec 3) (cv : BitVec 1)
  /-- VFMIN_VV `vfmin.vv` (R156). Vector minimumNumber. -/
  | vfminVV (d a b : BitVec 6) (km : BitVec 3) (cv : BitVec 1)
  /-- VFMAX_VV `vfmax.vv` (R156). Vector maximumNumber. -/
  | vfmaxVV (d a b : BitVec 6) (km : BitVec 3) (cv : BitVec 1)
  /-- VFCLASS `vfclass` (R157). Writes each element's class code. -/
  | vfclass (d a : BitVec 6) (km : BitVec 3) (cv : BitVec 1)
  /-- VFSGNJ_VV `vfsgnj.vv` (R156). Vector sign injection. -/
  | vfsgnjVV (d a b : BitVec 6) (km : BitVec 3) (cv : BitVec 1)
  /-- VFSGNJN_VV `vfsgnjn.vv` (R156). Vector negated sign injection. -/
  | vfsgnjnVV (d a b : BitVec 6) (km : BitVec 3) (cv : BitVec 1)
  /-- VFSGNJX_VV `vfsgnjx.vv` (R156). Vector XOR sign injection. -/
  | vfsgnjxVV (d a b : BitVec 6) (km : BitVec 3) (cv : BitVec 1)
  /-- VFADD_VS `vfadd.vs` (R156). Vector floating-point add of a scalar. -/
  | vfaddVS (d a : BitVec 6) (b : BitVec 5) (km : BitVec 3) (cv : BitVec 1)
  /-- VFSUB_VS `vfsub.vs` (R156). Vector floating-point subtract of a scalar. -/
  | vfsubVS (d a : BitVec 6) (b : BitVec 5) (km : BitVec 3) (cv : BitVec 1)
  /-- VFMUL_VS `vfmul.vs` (R156). Vector floating-point multiply by a scalar. -/
  | vfmulVS (d a : BitVec 6) (b : BitVec 5) (km : BitVec 3) (cv : BitVec 1)
  /-- VFDIV_VS `vfdiv.vs` (R156). Vector floating-point divide by a scalar. -/
  | vfdivVS (d a : BitVec 6) (b : BitVec 5) (km : BitVec 3) (cv : BitVec 1)
  /-- VFMA_VS `vfma.vs` (R156). Vector fused x*s+d. -/
  | vfmaVS (d a : BitVec 6) (b : BitVec 5) (km : BitVec 3) (cv : BitVec 1)
  /-- VFMS_VS `vfms.vs` (R156). Vector fused x*s-d. -/
  | vfmsVS (d a : BitVec 6) (b : BitVec 5) (km : BitVec 3) (cv : BitVec 1)
  /-- VFNMA_VS `vfnma.vs` (R156). Vector fused -(x*s)-d. -/
  | vfnmaVS (d a : BitVec 6) (b : BitVec 5) (km : BitVec 3) (cv : BitVec 1)
  /-- VFMIN_VS `vfmin.vs` (R156). Vector minimumNumber with a scalar. -/
  | vfminVS (d a : BitVec 6) (b : BitVec 5) (km : BitVec 3) (cv : BitVec 1)
  /-- VFMAX_VS `vfmax.vs` (R156). Vector maximumNumber with a scalar. -/
  | vfmaxVS (d a : BitVec 6) (b : BitVec 5) (km : BitVec 3) (cv : BitVec 1)
  /-- VFSGNJ_VS `vfsgnj.vs` (R156). Sign injection from a scalar. -/
  | vfsgnjVS (d a : BitVec 6) (b : BitVec 5) (km : BitVec 3) (cv : BitVec 1)
  /-- VFSGNJN_VS `vfsgnjn.vs` (R156). Negated sign injection from a scalar. -/
  | vfsgnjnVS (d a : BitVec 6) (b : BitVec 5) (km : BitVec 3) (cv : BitVec 1)
  /-- VFSGNJX_VS `vfsgnjx.vs` (R156). XOR sign injection from a scalar. -/
  | vfsgnjxVS (d a : BitVec 6) (b : BitVec 5) (km : BitVec 3) (cv : BitVec 1)
  /-- VMSEQ_VV `vmseq.vv` (R161). Integer equality compare into a mask. -/
  | vmseqVV (d : BitVec 3) (a b : BitVec 6) (km : BitVec 3) (cv : BitVec 1)
  /-- VMSNE_VV `vmsne.vv` (R161). Integer inequality compare into a mask. -/
  | vmsneVV (d : BitVec 3) (a b : BitVec 6) (km : BitVec 3) (cv : BitVec 1)
  /-- VMSLT_VV `vmslt.vv` (R161). Integer less-than compare into a mask. -/
  | vmsltVV (d : BitVec 3) (a b : BitVec 6) (km : BitVec 3) (cv : BitVec 1)
  /-- VMSLE_VV `vmsle.vv` (R161). Integer less-or-equal compare into a mask. -/
  | vmsleVV (d : BitVec 3) (a b : BitVec 6) (km : BitVec 3) (cv : BitVec 1)
  /-- VMFEQ_VV `vmfeq.vv` (R161). Floating-point equality compare into a mask. -/
  | vmfeqVV (d : BitVec 3) (a b : BitVec 6) (km : BitVec 3) (cv : BitVec 1)
  /-- VMFLT_VV `vmflt.vv` (R161). Floating-point less-than compare into a mask. -/
  | vmfltVV (d : BitVec 3) (a b : BitVec 6) (km : BitVec 3) (cv : BitVec 1)
  /-- VMFLE_VV `vmfle.vv` (R161). Floating-point less-or-equal compare into a mask. -/
  | vmfleVV (d : BitVec 3) (a b : BitVec 6) (km : BitVec 3) (cv : BitVec 1)
  /-- VMSEQ_VS `vmseq.vs` (R161). Integer equality compare with a scalar. -/
  | vmseqVS (d : BitVec 3) (a : BitVec 6) (b : BitVec 5) (km : BitVec 3) (cv : BitVec 1)
  /-- VMSNE_VS `vmsne.vs` (R161). Integer inequality compare with a scalar. -/
  | vmsneVS (d : BitVec 3) (a : BitVec 6) (b : BitVec 5) (km : BitVec 3) (cv : BitVec 1)
  /-- VMSLT_VS `vmslt.vs` (R161). Integer less-than compare with a scalar. -/
  | vmsltVS (d : BitVec 3) (a : BitVec 6) (b : BitVec 5) (km : BitVec 3) (cv : BitVec 1)
  /-- VMSLE_VS `vmsle.vs` (R161). Integer less-or-equal compare with a scalar. -/
  | vmsleVS (d : BitVec 3) (a : BitVec 6) (b : BitVec 5) (km : BitVec 3) (cv : BitVec 1)
  /-- VMFEQ_VS `vmfeq.vs` (R161). Floating-point equality compare with a scalar. -/
  | vmfeqVS (d : BitVec 3) (a : BitVec 6) (b : BitVec 5) (km : BitVec 3) (cv : BitVec 1)
  /-- VMFLT_VS `vmflt.vs` (R161). Floating-point less-than compare with a scalar. -/
  | vmfltVS (d : BitVec 3) (a : BitVec 6) (b : BitVec 5) (km : BitVec 3) (cv : BitVec 1)
  /-- VMFLE_VS `vmfle.vs` (R161). Floating-point less-or-equal compare with a scalar. -/
  | vmfleVS (d : BitVec 3) (a : BitVec 6) (b : BitVec 5) (km : BitVec 3) (cv : BitVec 1)
  /-- VMAND `vmand` (R163). Mask AND. -/
  | vmand (d a b km : BitVec 3) (cv : BitVec 1)
  /-- VMOR `vmor` (R163). Mask OR. -/
  | vmor (d a b km : BitVec 3) (cv : BitVec 1)
  /-- VMXOR `vmxor` (R163). Mask XOR. -/
  | vmxor (d a b km : BitVec 3) (cv : BitVec 1)
  /-- VMANDN `vmandn` (R163). Mask AND NOT. -/
  | vmandn (d a b km : BitVec 3) (cv : BitVec 1)
  /-- VCPOP `vcpop` (R164). Counts the active set mask bits into a scalar. -/
  | vcpop (d : BitVec 5) (a km : BitVec 3) (cv : BitVec 1)
  /-- VFIRST `vfirst` (R164). Finds the first active set mask bit, or -1. -/
  | vfirst (d : BitVec 5) (a km : BitVec 3) (cv : BitVec 1)
  /-- VMV_VV `vmv` (R166). Copies active elements between vector registers. -/
  | vmvVV (d a : BitVec 6) (km : BitVec 3) (cv : BitVec 1)
  /-- VMVSX `vmvsx` (R166). Writes a scalar into element 0. -/
  | vmvsx (d : BitVec 6) (b : BitVec 5) (km : BitVec 3) (cv : BitVec 1)
  /-- VMVXS `vmvxs` (R166). Copies element 0 into a scalar. -/
  | vmvxs (d : BitVec 5) (a : BitVec 6) (km : BitVec 3) (cv : BitVec 1)
  /-- VSLIDEUP_VS `vslideup` (R167). Slides elements up by a scalar offset. -/
  | vslideupVS (d a : BitVec 6) (b : BitVec 5) (km : BitVec 3) (cv : BitVec 1)
  /-- VSLIDEDN_VS `vslidedn` (R167). Slides elements down by a scalar offset. -/
  | vslidednVS (d a : BitVec 6) (b : BitVec 5) (km : BitVec 3) (cv : BitVec 1)
  /-- VSLIDEUP_VI `vslideup` (R167). Slides elements up by an immediate offset. -/
  | vslideupVI (d a imm : BitVec 6) (km : BitVec 3) (cv : BitVec 1)
  /-- VSLIDEDN_VI `vslidedn` (R167). Slides elements down by an immediate offset. -/
  | vslidednVI (d a imm : BitVec 6) (km : BitVec 3) (cv : BitVec 1)
  /-- VPERM `vperm` (R168). Permutes elements by an index vector. -/
  | vperm (d a b : BitVec 6) (km : BitVec 3) (cv : BitVec 1)
  /-- VCOMPRESS `vcompress` (R169). Packs the selected elements to the front. -/
  | vcompress (d a : BitVec 6) (km : BitVec 3) (cv : BitVec 1)
  /-- VIOTA `viota` (R166). Writes the prefix counts of a mask. -/
  | viota (d : BitVec 6) (km : BitVec 3) (cv : BitVec 1)
  /-- VID `vid` (R166). Writes each element's index. -/
  | vid (d : BitVec 6) (km : BitVec 3) (cv : BitVec 1)
  /-- VNZSCAN `vnzscan` (R170). Gathers the positions of non-zero elements and counts them. -/
  | vnzscan (d a : BitVec 6) (b : BitVec 5) (km : BitVec 3) (cv : BitVec 1)
  /-- VCONFL `vconfl` (R171). Marks the first occurrences of values into a mask. -/
  | vconfl (d : BitVec 3) (a : BitVec 6) (km : BitVec 3) (cv : BitVec 1)
  /-- VMV_VI `vmv` (R166). Writes an immediate to every active element. -/
  | vmvVI (d imm : BitVec 6) (km : BitVec 3) (cv : BitVec 1)
  /-- VMV_VS `vmv` (R166). Writes a scalar to every active element. -/
  | vmvVS (d : BitVec 6) (b : BitVec 5) (km : BitVec 3) (cv : BitVec 1)
  /-- VREDSUM `vredsum` (R172). Integer sum reduction into a scalar. -/
  | vredsum (d : BitVec 5) (a : BitVec 6) (b : BitVec 5) (km : BitVec 3) (cv : BitVec 1)
  /-- VREDMIN `vredmin` (R172). Integer minimum reduction. -/
  | vredmin (d : BitVec 5) (a : BitVec 6) (b : BitVec 5) (km : BitVec 3) (cv : BitVec 1)
  /-- VREDMAX `vredmax` (R172). Integer maximum reduction. -/
  | vredmax (d : BitVec 5) (a : BitVec 6) (b : BitVec 5) (km : BitVec 3) (cv : BitVec 1)
  /-- VREDAND `vredand` (R172). Bitwise AND reduction. -/
  | vredand (d : BitVec 5) (a : BitVec 6) (b : BitVec 5) (km : BitVec 3) (cv : BitVec 1)
  /-- VREDOR `vredor` (R172). Bitwise OR reduction. -/
  | vredor (d : BitVec 5) (a : BitVec 6) (b : BitVec 5) (km : BitVec 3) (cv : BitVec 1)
  /-- VFREDSUM `vfredsum` (R75). Floating-point sum reduction in a fixed tree. -/
  | vfredsum (d : BitVec 5) (a : BitVec 6) (b : BitVec 5) (km : BitVec 3) (cv : BitVec 1)
  /-- VFREDOSUM `vfredosum` (R76). Ordered floating-point sum reduction. -/
  | vfredosum (d : BitVec 5) (a : BitVec 6) (b : BitVec 5) (km : BitVec 3) (cv : BitVec 1)
  /-- VFREDMIN `vfredmin` (R172). Floating-point minimum reduction. -/
  | vfredmin (d : BitVec 5) (a : BitVec 6) (b : BitVec 5) (km : BitVec 3) (cv : BitVec 1)
  /-- VFREDMAX `vfredmax` (R172). Floating-point maximum reduction. -/
  | vfredmax (d : BitVec 5) (a : BitVec 6) (b : BitVec 5) (km : BitVec 3) (cv : BitVec 1)
  /-- VLD `vld` (R173). Unit-stride vector load, optionally widening. -/
  | vld (d : BitVec 6) (a : BitVec 5) (km : BitVec 3) (mw : BitVec 2) (cv : BitVec 1)
  /-- VLDS `vlds` (R173). Strided vector load. -/
  | vlds (d : BitVec 6) (a b : BitVec 5) (km : BitVec 3) (mw : BitVec 2) (cv : BitVec 1)
  /-- VLDX `vldx` (R173). Indexed vector load with a probe pass. -/
  | vldx (d : BitVec 6) (a : BitVec 5) (b : BitVec 6) (km : BitVec 3) (mw : BitVec 2) (cv : BitVec 1)
  /-- VLDSEG `vldseg` (R173). Segment vector load into a register group. -/
  | vldseg (d : BitVec 6) (a : BitVec 5) (imm : BitVec 6) (km : BitVec 3) (mw : BitVec 2) (cv : BitVec 1)
  /-- VST `vst` (R176). Unit-stride vector store. -/
  | vst (d : BitVec 6) (a : BitVec 5) (km : BitVec 3) (cv : BitVec 1)
  /-- VSTS `vsts` (R176). Strided vector store. -/
  | vsts (d : BitVec 6) (a b : BitVec 5) (km : BitVec 3) (cv : BitVec 1)
  /-- VSTX `vstx` (R176). Indexed vector store. -/
  | vstx (d : BitVec 6) (a : BitVec 5) (b : BitVec 6) (km : BitVec 3) (cv : BitVec 1)
  /-- VSTSEG `vstseg` (R176). Segment vector store. -/
  | vstseg (d : BitVec 6) (a : BitVec 5) (imm : BitVec 6) (km : BitVec 3) (cv : BitVec 1)
  /-- VCVT `vcvt` (R178). Converts elements from a source type to SEW. -/
  | vcvt (d a : BitVec 6) (s : BitVec 4) (km : BitVec 3) (cv : BitVec 1)
  /-- VXPAND `vxpand` (R180). Expands packed fp6 or 4-bit integers to e4m3. -/
  | vxpand (d a f : BitVec 6) (km : BitVec 3) (cv : BitVec 1)
  /-- VQBLK_F4 `vqblk.f4` (R181). Quantises groups into mxf4 blocks with scales and writes k7. -/
  | vqblkF4 (d a b : BitVec 6) (km : BitVec 3) (cv : BitVec 1)
  /-- VQBLK_I8 `vqblk.i8` (R181). Quantises groups into mxi8 blocks with scales and writes k7. -/
  | vqblkI8 (d a b : BitVec 6) (km : BitVec 3) (cv : BitVec 1)
  /-- VDQBLK_F4 `vdqblk.f4` (R182). Decodes mxf4 blocks into SEW and writes k7. -/
  | vdqblkF4 (d a b : BitVec 6) (km : BitVec 3) (cv : BitVec 1)
  /-- VDQBLK_I8 `vdqblk.i8` (R182). Decodes mxi8 blocks into SEW and writes k7. -/
  | vdqblkI8 (d a b : BitVec 6) (km : BitVec 3) (cv : BitVec 1)
  /-- TSHAPE `tshape` (R194). Grants and records the tile shape. -/
  | tshape (a : BitVec 5)
  /-- TZERO `tzero` (R195). Zeros an accumulator. -/
  | tzero (z : BitVec 2)
  /-- TLDA `tlda` (R196). Loads rows into the A buffer. -/
  | tlda (a b : BitVec 5)
  /-- TLDB `tldb` (R196). Loads columns into the B buffer. -/
  | tldb (a b : BitVec 5)
  /-- TMMA `tmma` (R198). Multiplies the A and B blocks into an accumulator. -/
  | tmma (z : BitVec 2)
  /-- TMMA_SX `tmma.sx` (R200). Split-precision fp64 tile multiply. -/
  | tmmaSX (z : BitVec 2)
  /-- TSTZ `tstz` (R201). Stores an accumulator block to memory. -/
  | tstz (z : BitVec 2) (a b : BitVec 5)
  /-- TMVZ `tmvz` (R202). Copies accumulator cells into a vector register. -/
  | tmvz (z : BitVec 2) (d : BitVec 6) (b : BitVec 5)
  /-- TLDA_MC `tlda.mc` (R197). Loads A rows and delivers them to other cluster cores. -/
  | tldaMC (a b c : BitVec 5)
  /-- TLDB_MC `tldb.mc` (R197). Loads B columns and delivers them to other cluster cores. -/
  | tldbMC (a b c : BitVec 5)
  /-- TMMA_SAT `tmma.sat` (R198). si8 tile multiply with saturation. -/
  | tmmaSat (z : BitVec 2)
  /-- FORK `fork` (R215). Opens a forked region and cuts the loop into chunks. -/
  | fork (d a : BitVec 5) (imm : BitVec 16)
  /-- JOIN `join` (R231). Ends a chunk's execution so that it waits to commit. -/
  | join
  /-- KEYWAIT `keywait` (R232). Waits for the keystone and writes the chunk's sectors. -/
  | keywait
  /-- DONE `done` (R255). Ends a handler or an entry strand. -/
  | doneStrand
  /-- WAITMSG `waitmsg` (R256). Waits for and takes a message of a polled mailbox. -/
  | waitmsg (a : BitVec 5)
  /-- SEND `send` (R254). Stages a message read from local store. -/
  | send (a b : BitVec 5)
  /-- SENDI `sendi` (R254). Stages a one-beat message from four registers. -/
  | sendi (a b : BitVec 5)
  /-- RGSETL `rgsetl` (R257). Divides an AVL among the ring group and sets VL. -/
  | rgsetl (d : BitVec 4) (a : BitVec 5)
  /-- WIDF `widf` (R259). Extracts a field of WID. -/
  | widf (d : BitVec 5) (f : BitVec 6)
  /-- SBIND `sbind` (R337). Binds a vector register to a stream. -/
  | sbind (a : BitVec 5) (v : BitVec 6)
  /-- SUNBIND `sunbind` (R337). Releases a stream binding. -/
  | sunbind (v : BitVec 6)
  /-- SDRAIN `sdrain` (R337). Discards read strips or requests a drain record. -/
  | sdrain (v : BitVec 6)
  /-- SCOPY `scopy` (R338). Issues an engine copy of VL elements' bytes. -/
  | scopy (a b : BitVec 5)
  /-- SCOPY_F `scopy.f` (R338). Issues an engine copy that fills local-store words. -/
  | scopyF (a b : BitVec 5)
  /-- SISECT_C `sisect.c` (R339). Counts the common elements of two sorted streams. -/
  | sisectC (d : BitVec 5) (j m : BitVec 3)
  /-- SISECT_W `sisect.w` (R339). Writes up to VL common elements of two streams. -/
  | sisectW (d : BitVec 5) (j m : BitVec 3) (v : BitVec 6)
  /-- CQWAIT `cqwait` (R340). Parks until the completion queue is non-empty. -/
  | cqwait
  /-- CQPOP `cqpop` (R340). Pops the head completion record into two registers. -/
  | cqpop (d : BitVec 4)
  /-- WALK `walk` (R356). Launches random walkers in the pier engines. -/
  | walk (a b : BitVec 5)
  /-- CHASE `chase` (R352). Launches pointer-chasing walkers. -/
  | chase (d a : BitVec 6) (b : BitVec 5) (km : BitVec 3)
  /-- PGATHER `pgather` (R352). Launches 32-byte gather walkers. -/
  | pgather (d a : BitVec 6) (b : BitVec 5) (km : BitVec 3)
  /-- GRPSET `grpset` (R457). Installs a collective group in the switch tables. -/
  | grpset (a b : BitVec 5)
  /-- GRPFREE `grpfree` (R458). Drains and frees a group. -/
  | grpfree (a : BitVec 5)
  /-- NRED `nred` (R459). Contributes a value to an in-network reduction. -/
  | nred (a b : BitVec 5) (ty op : BitVec 2)
  /-- NMCAST `nmcast` (R459). Multicasts 32 bytes to every member ring. -/
  | nmcast (a b : BitVec 5)
  /-- GSW_OUT `gsw` (R461). Starts a gang switch-out of a job. -/
  | gswOut (a : BitVec 5)
  /-- GSW_IN `gsw` (R461). Starts a gang switch-in of a job. -/
  | gswIN (a : BitVec 5)
  /-- PFX `pfx` (R107). Lends a predicate and a copy destination to the next instruction. -/
  | pfx (sense : BitVec 1) (p : BitVec 5) (ce : BitVec 1) (cd : BitVec 6)
  /-- VQUEUE_BEGIN (R37). The vector unit takes the oldest queued instruction and begins it. -/
  | vqueueBegin
  /-- VQUEUE_COMPLETE (R39). A queued instruction completes, delivering scalar results and flags. -/
  | vqueueComplete
  /-- TRAP_ENTRY (R363). A trap is taken at its trap point and the handler starts. -/
  | trapEntry (cause : BitVec 8) (val : Word)
  /-- M_EVENT_ENTRY (R362). The management core takes an M-level event. -/
  | mEventEntry (core : BitVec 1)
  /-- ASYNC_BOUNDARY (R368). The ring reaches a boundary at which a pending asynchronous event is taken. -/
  | asyncBoundary
  /-- TIMEOUT_EXPIRY (R371). The watchdog reaches QUANTUM.WDOG and makes TIMEOUT pending. -/
  | timeoutExpiry (ring : BitVec 6)
  /-- WFI_WAKE (R385). An event becomes pending for a core parked in wfi. -/
  | wfiWake (ring : BitVec 6)
  /-- RING_STOPPED (R391). A stopping ring reaches its boundary and becomes STOPPED. -/
  | ringStopped (ring : BitVec 6)
  /-- CHUNK_START (R217). An idle slot takes the next unstarted chunk. -/
  | chunkStart
  /-- IMAGE_COPY_DONE (R217). The vector image copy finishes and the chunk's vector work may begin. -/
  | imageCopyDone (slot : BitVec 3)
  /-- LIVEIN_ARRIVAL (R223). A live-in value arrives and is compared with the prediction. -/
  | liveinArrival (slot : BitVec 3)
  /-- CHUNK_SQUASH (R230). A squash signal reaches a chunk, which discards its state. -/
  | chunkSquash (slot : BitVec 3)
  /-- CHUNK_RESTART (R230). A squashed chunk restarts from the fork image 10 cycles later. -/
  | chunkRestart (slot : BitVec 3)
  /-- KEYSTONE_ARRIVAL (R236). The keystone reaches a chunk in HOLD, which proceeds by its reason. -/
  | keystoneArrival
  /-- CHUNK_COMMIT (R229). A keystone chunk at join commits once its queue is empty. -/
  | chunkCommit
  /-- MESSAGE_ARRIVAL (R242). A message is offered to a mailbox and accepted or refused. -/
  | messageArrival (msg : Message)
  /-- SPILL_REFILL (R242). The oldest spilled message moves to the on-die queue when room frees. -/
  | spillRefill (aid : BitVec 12) (mbx : BitVec 5)
  /-- DISPATCH (R246). The dispatcher starts the next handler on an idle slot. -/
  | dispatch (ring : BitVec 6)
  /-- OUTBOUND_INJECT (R250). The ring injects a message from its outbound buffer. -/
  | outboundInject (ring : BitVec 6) (idx : BitVec 8)
  /-- RETRY_BACKOFF_EXPIRY (R250). A refused message's back-off expires and it is offered again. -/
  | retryBackoffExpiry (ring : BitVec 6) (idx : BitVec 8)
  /-- ACTSTALL_EXPIRY (R252). The outbound stall count reaches 2^22 and raises ACTSTALL. -/
  | actstallExpiry (ring : BitVec 6)
  /-- QUANTUM_EXPIRY (R261). The resident actor's quantum ends and a change becomes due. -/
  | quantumExpiry (ring : BitVec 6)
  /-- OVERRUN_EXPIRY (R261). A handler runs 4 x QUANTUM and the actor is pre-empted. -/
  | overrunExpiry (ring : BitVec 6)
  /-- MEMORY_REPLY (R286). A memory reply arrives, delivering data and returning its permit. -/
  | memoryReply (core : BitVec 9) (slice : BitVec 5)
  /-- SLICE_REQUEST (R283). A slice serves a request, fetching or allocating sectors. -/
  | sliceRequest (core : BitVec 9) (req : SliceReq)
  /-- LDSYNC_WAKE (R313). A word becomes full and its waiters are served in order. -/
  | ldsyncWake (pa : BitVec 56)
  /-- STRIP_FETCH (R328). A read stream fetches the next strip ahead of POS. -/
  | stripFetch (slot : BitVec 3)
  /-- STRIP_FETCH_DONE (R332). A fetched strip arrives, with any fault held for consumption. -/
  | stripFetchDone (slot : BitVec 3)
  /-- STRIP_WRITE (R333). An emitted write strip is written to memory. -/
  | stripWrite (slot : BitVec 3)
  /-- DRAIN_RECORD_POST (R337). A drain record posts once earlier strips are written. -/
  | drainRecordPost (slot : BitVec 3)
  /-- SCOPY_RECORD_POST (R338). A copy finishes and posts its record. -/
  | scopyRecordPost
  /-- CQ_CAPACITY_WAKE (R341). Room in the completion queue lets a stalled record-posting command issue. -/
  | cqCapacityWake
  /-- WALKER_ADMIT (R345). A walker is admitted into a free engine slot. -/
  | walkerAdmit (cmd : BitVec 16) (walker : BitVec 16)
  /-- WALKER_MIGRATE (R345). A walker arrives at an engine of another stack. -/
  | walkerMigrate (cmd : BitVec 16) (walker : BitVec 16) (engine : BitVec 7)
  /-- WALKER_READ_DONE (R347). A walker read returns and the walker takes its next step or fails. -/
  | walkerReadDone (cmd : BitVec 16) (walker : BitVec 16)
  /-- RESULT_WRITE (R348). A walker result lands in the issuer's local store in fill mode. -/
  | resultWrite (cmd : BitVec 16) (walker : BitVec 16)
  /-- PIER_RECORD_POST (R349). The last walker finishes and the command posts its record. -/
  | pierRecordPost (cmd : BitVec 16)
  /-- DBGCTL_HALT (R405). A write of DBGCTL.HALT starts or ends debug halt of a die. -/
  | dbgctlHalt (core : BitVec 1) (mask : BitVec 8)
  /-- DEBUG_HALT_REACHED (R405). A ring of a halting die reaches its boundary and becomes HALTED. -/
  | debugHaltReached (ring : BitVec 6)
  /-- DBGCTL_STEP (R406). A write of DBGCTL.STEP puts a ring into single-step mode. -/
  | dbgctlStep (core : BitVec 1) (ring : BitVec 6) (on : Bool)
  /-- DEBUG_STEP_BREAK (R406). A stepped instruction completes and the ring stops with BREAK. -/
  | debugStepBreak (ring : BitVec 6)
  /-- GANGCFG_SHAPE_WRITE (R377). A write of GANGCFG.SHAPE latches a shape change. -/
  | gangcfgShapeWrite (shape : BitVec 1)
  /-- PWRCFG_WRITE (R419). A PWRCFG write is broadcast and dies repay or recall to fit it. -/
  | pwrcfgWrite (core : BitVec 1) (val : Word)
  /-- LINKCTL_NEWKEY (R447). Setting NEWKEY loads the next keys and starts a rotation. -/
  | linkctlNewkey (link : BitVec 5)
  /-- FABCFG_FLOWGAP_WRITE (R440). A FLOWGAP write sets the flowlet gap, or is discarded below 401. -/
  | fabcfgFlowgapWrite (gap : BitVec 16)
  /-- ACCESS_TABLE_STORE (R481). An 8-byte store to a table entry takes effect alone. -/
  | accessTableStore (pa : BitVec 56) (val : Word)
  /-- REGISTER_WRITE (R7). A write to a register without a row of its own, by its access codes. -/
  | registerWrite (pa : BitVec 56) (val : Word)
  /-- MODULE_RESET (R415). Module reset returns all state to its reset values. -/
  | moduleReset
  /-- BOOT (R478). A management core verifies firmware, tests and trains the module, and reports ready. -/
  | boot (b : BootReport)
  /-- CORE_RETIREMENT_MARK (R422). A core's error count reaches the limit and it is marked for retirement. -/
  | coreRetirementMark (die : BitVec 3) (cluster : BitVec 2) (phys : BitVec 5)
  /-- DROOP_TRIP (R412). The droop sensor trips and the die stretches its clock. -/
  | droopTrip (die : BitVec 3)
  /-- DROOP_CLEAR (R412). The sensor clears and the clock returns over 200 ns. -/
  | droopClear (die : BitVec 3)
  /-- CLOCK_STEP_DONE (R416). A governor clock change completes after 2 us. -/
  | clockStepDone (die : BitVec 3)
  /-- BORROW (R417). A die receives a request for budget tokens. -/
  | borrow (src dst : BitVec 3) (n : BitVec 10)
  /-- GRANT (R417). A borrower receives tokens and raises its clock. -/
  | grant (src dst : BitVec 3) (n : BitVec 10)
  /-- DENY (R417). A borrower is refused and asks the next die. -/
  | deny (src dst : BitVec 3)
  /-- REPAY (R417). A lender receives repaid tokens. -/
  | repay (src dst : BitVec 3) (n : BitVec 10)
  /-- RECALL (R417). A borrower is asked to return tokens and repays. -/
  | recall (src dst : BitVec 3) (n : BitVec 10)
  /-- BORROW_RETRY_EXPIRY (R418). After seven denials a die's 8 us wait expires and it asks again. -/
  | borrowRetryExpiry (die : BitVec 3)
  /-- TIME_SYNC_TICK (R414). Once per microsecond a die compares D with the reference and slews. -/
  | timeSyncTick (die : BitVec 3)
  /-- THERMAL_CAP (R423). A junction reaches 105 C and the die's clock is capped. -/
  | thermalCap (die : BitVec 3)
  /-- THERMAL_SHUTDOWN (R423). A junction reaches 115 C and the module powers down. -/
  | thermalShutdown
  /-- FRAME_RECEIVE (R429). A link frame is checked, then accepted or NAKed. -/
  | frameReceive (link : BitVec 5) (f : Frame)
  /-- KEY_USE_LIMIT (R446). A key reaches 2^31 frames and the sender starts link recovery. -/
  | keyUseLimit (link : BitVec 5)
  /-- LANE_LOCK_LOSS (R442). A lane loses lock, or a frame fails 16 times, and link recovery starts. -/
  | laneLockLoss (link : BitVec 5)
  /-- LINK_RETRAINED (R442). A recovering link finishes retraining and resends its kept frames. -/
  | linkRetrained (link : BitVec 5)
  /-- LINK_RECOVERY_TIMEOUT (R442). Recovery exceeds 10 ms and the link is declared failed. -/
  | linkRecoveryTimeout (link : BitVec 5) (lastAccepted : BitVec 32)
  /-- PACKET_FORWARD (R426). A switch forwards a packet on its route, or deflects it. -/
  | packetForward (sw : SwitchId) (port : BitVec 5) (chan : BitVec 3)
  /-- READ_PACKET (R434). A remote read request is checked and performed at its home. -/
  | readPacket (p : Packet)
  /-- READ_RESPONSE_PACKET (R432). A read response arrives at its source. -/
  | readResponsePacket (p : Packet)
  /-- WRITE_PACKET (R434). A remote write is checked and performed at its home. -/
  | writePacket (p : Packet)
  /-- WRITE_RESPONSE_PACKET (R432). A write response arrives at its source. -/
  | writeResponsePacket (p : Packet)
  /-- ATOMIC_PACKET (R434). A remote atomic is performed at its home. -/
  | atomicPacket (p : Packet)
  /-- ATOMIC_RESPONSE_PACKET (R432). An atomic response returns the old value. -/
  | atomicResponsePacket (p : Packet)
  /-- MESSAGE_PACKET (R431). A message packet reaches its destination module. -/
  | messagePacket (p : Packet)
  /-- MESSAGE_RESPONSE_PACKET (R432). A message response tells the source whether it was accepted. -/
  | messageResponsePacket (p : Packet)
  /-- STRIP_PACKET (R431). A remote strip read or write arrives at its home. -/
  | stripPacket (p : Packet)
  /-- STRIP_RESPONSE_PACKET (R431). A strip response arrives at its source. -/
  | stripResponsePacket (p : Packet)
  /-- TIME_REQUEST (R443). A reference receives a time request. -/
  | timeRequest (p : Packet)
  /-- TIME_REPLY (R443). A requester receives the reference's D. -/
  | timeReply (p : Packet)
  /-- DEBUG_PAUSE (R405). A module receives a debug pause and freezes watchdogs of the JID. -/
  | debugPause (p : Packet)
  /-- DEBUG_THAW (R443). A module receives a debug thaw for a JID. -/
  | debugThaw (p : Packet)
  /-- DEFLECTION_ENTRY (R442). A switch receives the deflection-entry broadcast and starts deflecting. -/
  | deflectionEntry (sw : SwitchId) (p : Packet)
  /-- FLOWLET_RETURN (R442). A switch receives the return to flowlet mode. -/
  | flowletReturn (sw : SwitchId) (p : Packet)
  /-- HEARTBEAT (R443). The root receives a module's heartbeat. -/
  | heartbeat (p : Packet)
  /-- HEARTBEAT_SEND_TICK (R443). Every 100 ms abutment die 0 sends a heartbeat. -/
  | heartbeatSendTick
  /-- HEARTBEAT_TIMEOUT (R443). 1 s without a heartbeat is treated as a module fault. -/
  | heartbeatTimeout (module : BitVec 14)
  /-- CONTRIBUTION (R452). A switch receives a contribution and combines the round when complete. -/
  | contribution (sw : SwitchId) (child : BitVec 7) (p : Packet)
  /-- COLLECTIVE_RESULT (R452). A result descends and is written to members' words in fill mode. -/
  | collectiveResult (sw : SwitchId) (p : Packet)
  /-- MULTICAST_UP (R455). The root receives a multicast and sends it down. -/
  | multicastUP (sw : SwitchId) (p : Packet)
  /-- MULTICAST_DOWN (R459). A multicast is delivered in fill mode to member rings. -/
  | multicastDown (sw : SwitchId) (p : Packet)
  /-- RESERVE (R457). A switch receives a group-entry reservation. -/
  | reserve (sw : SwitchId) (p : Packet)
  /-- RESERVE_REPLY (R457). The grpset issuer receives a reservation reply. -/
  | reserveReply (p : Packet)
  /-- ENTRY_WRITE (R457). A switch receives and installs its group entry. -/
  | entryWrite (sw : SwitchId) (p : Packet)
  /-- ENTRY_ACKNOWLEDGE (R457). The issuer receives an entry acknowledgement. -/
  | entryAcknowledge (p : Packet)
  /-- DRAIN (R458). A switch receives the drain of a group and abandons open rounds. -/
  | drain (sw : SwitchId) (p : Packet)
  /-- DRAINED_REPORT (R458). The root receives a drained report. -/
  | drainedReport (sw : SwitchId) (p : Packet)
  /-- SWITCH_OUT_COMMAND (R462). A domain element receives the switch-out command and starts sweeping. -/
  | switchOutCommand (jid : BitVec 16) (gseq : BitVec 32)
  /-- SWEEP_MARKER (R462). A switch input receives a sweep marker and closes, saving packets when all have arrived. -/
  | sweepMarker (sw : SwitchId) (port : BitVec 5) (chan : BitVec 3) (jid : BitVec 16)
  /-- SWITCH_IN_COMMAND (R465). A domain element receives the switch-in command and restores. -/
  | switchINCommand (jid : BitVec 16) (gseq : BitVec 32)
  /-- SWITCH_REPORT (R462). The root receives a switch's report. -/
  | switchReport (p : Packet)
  /-- MODULE_REPORT (R462). The root receives a module's report and posts the record when all are in. -/
  | moduleReport (p : Packet)
  /-- GANG_RESUME (R465). A module receives the resume and restarts the job's rings. -/
  | gangResume (jid : BitVec 16) (gseq : BitVec 32)
  /-- GANG_FAILED (R468). A module receives the failed notice and the job becomes FAILED. -/
  | gangFailed (jid : BitVec 16) (gseq : BitVec 32)
  /-- RDMA_WRITE (R472). A host RDMA WRITE is checked and performed in PSN order. -/
  | rdmaWrite (port : BitVec 3) (qpn : BitVec 24) (rkey : BitVec 32) (pa : BitVec 56) (data : List Byte)
  /-- RDMA_READ (R472). A host RDMA READ is checked and answered. -/
  | rdmaRead (port : BitVec 3) (qpn : BitVec 24) (rkey : BitVec 32) (pa : BitVec 56) (len : BitVec 32)
  /-- HOST_SEND (R474). A host SEND on a bound queue pair becomes a message. -/
  | hostSend (port : BitVec 3) (qpn : BitVec 24) (payload : List Byte)
  /-- LAUNCH (R476). The supervisor creates and starts a ring group of actors. -/
  | launch (msg : List Byte) (rings : List (BitVec 6))
  /-- ATTEST (R479). The supervisor returns a signed attestation report. -/
  | attest (msg : List Byte)
  /-- MODULE_FAULT (R482). A module fault starts recovery of the affected jobs. -/
  | moduleFault (kind : ModuleFaultKind)
  /-- WANTED_POWER_CHANGE (R418). A die's wanted power rises above or falls below H, so it sends BORROW, REPAY or RECALL. -/
  | wantedPowerChange (die : BitVec 3) (watts : BitVec 10)
  /-- FRAME_SEND (R427). Each 5.12 ns a link end sends a frame, carrying its flits or zero slots together with ACKSEQ, CREDIT, KREADY, RETIRE and NAK in the trailer. -/
  | frameSend (link : BitVec 5)
deriving DecidableEq, Repr

end Sys2Proof
end

