-- ==== Sys2Proof/WellFormed.lean ====
section
/-! DEFINITION. The operand checks of the instruction entries that decoding makes (spec/04 R83 check 1): a value a field can hold that
the entry refuses. Device operations have no encoding and are well formed. -/

namespace Sys2Proof

/-- A scope code names a domain (R91). -/
def scopeOk (s : BitVec 3) : Bool := s.toNat < 5

/-- A rounding field is dynamic (0b000) or static (0b1xx) (R87). -/
def roundOk (r : BitVec 3) : Bool := r == 0 || 4 ≤ r.toNat

/-- A narrow memory width code (R100). -/
def widthOk (m : BitVec 2) : Bool := m != 3

/-- A segment count code: nf − 1, 0 to 6 (R173). -/
def segOk (i : BitVec 6) : Bool := i.toNat < 7

/-- Every operand field holds a value that the instruction's entry admits at decode. -/
def Instr.wellFormed : Instr → Bool
  | .add _ _ _ => true
  | .sub _ _ _ => true
  | .and _ _ _ => true
  | .or _ _ _ => true
  | .xor _ _ _ => true
  | .andn _ _ _ => true
  | .orn _ _ _ => true
  | .xnor _ _ _ => true
  | .sll _ _ _ => true
  | .srl _ _ _ => true
  | .sra _ _ _ => true
  | .rol _ _ _ => true
  | .ror _ _ _ => true
  | .min _ _ _ => true
  | .minu _ _ _ => true
  | .max _ _ _ => true
  | .maxu _ _ _ => true
  | .seq _ _ _ => true
  | .sne _ _ _ => true
  | .slt _ _ _ => true
  | .sltu _ _ _ => true
  | .mul _ _ _ => true
  | .mulh _ _ _ => true
  | .mulhu _ _ _ => true
  | .div _ _ _ => true
  | .divu _ _ _ => true
  | .rem _ _ _ => true
  | .remu _ _ _ => true
  | .clz _ _ => true
  | .ctz _ _ => true
  | .popc _ _ => true
  | .bext _ _ _ => true
  | .bdep _ _ _ => true
  | .bswap _ _ => true
  | .sextB _ _ => true
  | .sextH _ _ => true
  | .sextW _ _ => true
  | .zextB _ _ => true
  | .zextH _ _ => true
  | .zextW _ _ => true
  | .addi _ _ _ => true
  | .andi _ _ _ => true
  | .ori _ _ _ => true
  | .xori _ _ _ => true
  | .slli _ _ _ => true
  | .srli _ _ _ => true
  | .srai _ _ _ => true
  | .slti _ _ _ => true
  | .sltiu _ _ _ => true
  | .movz _ _ _ => true
  | .movk _ _ _ => true
  | .fadd _ _ _ _ rm => roundOk rm
  | .fsub _ _ _ _ rm => roundOk rm
  | .fmul _ _ _ _ rm => roundOk rm
  | .fdiv _ _ _ _ rm => roundOk rm
  | .fsqrt _ _ _ rm => roundOk rm
  | .fmin _ _ _ _ => true
  | .fmax _ _ _ _ => true
  | .feq _ _ _ _ => true
  | .flt _ _ _ _ => true
  | .fle _ _ _ _ => true
  | .fclass _ _ _ => true
  | .fsgnj _ _ _ _ => true
  | .fsgnjn _ _ _ _ => true
  | .fsgnjx _ _ _ _ => true
  | .fcvtFF _ _ s ty rm => s != ty && roundOk rm
  | .fcvtFI _ _ _ _ rm => roundOk rm
  | .fcvtIF _ _ _ _ rm => roundOk rm
  | .fmadd _ _ _ _ _ rm => roundOk rm
  | .fmsub _ _ _ _ _ rm => roundOk rm
  | .fnmadd _ _ _ _ _ rm => roundOk rm
  | .j _ => true
  | .jal _ => true
  | .jalr _ _ _ => true
  | .beq _ _ _ => true
  | .bne _ _ _ => true
  | .blt _ _ _ => true
  | .bge _ _ _ => true
  | .bltu _ _ _ => true
  | .bgeu _ _ _ => true
  | .ldb _ _ _ => true
  | .ldbu _ _ _ => true
  | .ldh _ _ _ => true
  | .ldhu _ _ _ => true
  | .ldw _ _ _ => true
  | .ldwu _ _ _ => true
  | .ldd _ _ _ => true
  | .stb _ _ _ => true
  | .sth _ _ _ => true
  | .stw _ _ _ => true
  | .std _ _ _ => true
  | .ldbuAQ _ _ scope => scopeOk scope
  | .ldhuAQ _ _ scope => scopeOk scope
  | .ldwuAQ _ _ scope => scopeOk scope
  | .lddAQ _ _ scope => scopeOk scope
  | .stbRL _ _ scope => scopeOk scope
  | .sthRL _ _ scope => scopeOk scope
  | .stwRL _ _ scope => scopeOk scope
  | .stdRL _ _ scope => scopeOk scope
  | .amoadd _ _ _ _ scope _ => scopeOk scope
  | .amoand _ _ _ _ scope _ => scopeOk scope
  | .amoor _ _ _ _ scope _ => scopeOk scope
  | .amoxor _ _ _ _ scope _ => scopeOk scope
  | .amomin _ _ _ _ scope _ => scopeOk scope
  | .amomax _ _ _ _ scope _ => scopeOk scope
  | .amominu _ _ _ _ scope _ => scopeOk scope
  | .amomaxu _ _ _ _ scope _ => scopeOk scope
  | .amoswap _ _ _ _ scope _ => scopeOk scope
  | .cas _ _ _ _ scope _ => scopeOk scope
  | .ldsync _ _ scope => scopeOk scope
  | .ldtake _ _ scope => scopeOk scope
  | .stfill _ _ scope => scopeOk scope
  | .feclr _ _ scope => scopeOk scope
  | .feset _ _ scope => scopeOk scope
  | .csrr _ _ => true
  | .csrw _ _ _ => true
  | .csrs _ _ _ => true
  | .csrc _ _ _ => true
  | .fence pred succ scope => pred != 0 && succ != 0 && scopeOk scope
  | .fenceSV => true
  | .fenceVS => true
  | .fenceVV => true
  | .eret => true
  | .wfi => true
  | .halt => true
  | .tlbinv _ _ => true
  | .preempt _ => true
  | .ctxsave _ _ => true
  | .ctxload _ _ => true
  | .reshape _ _ => true
  | .trap _ => true
  | .vsetvli _ _ _ _ => true
  | .vsetvl _ _ _ => true
  | .vcfg _ => true
  | .vaddVV _ _ _ _ _ => true
  | .vsubVV _ _ _ _ _ => true
  | .vmulVV _ _ _ _ _ => true
  | .vmulhVV _ _ _ _ _ => true
  | .vdivVV _ _ _ _ _ => true
  | .vremVV _ _ _ _ _ => true
  | .vminVV _ _ _ _ _ => true
  | .vmaxVV _ _ _ _ _ => true
  | .vandVV _ _ _ _ _ => true
  | .vorVV _ _ _ _ _ => true
  | .vxorVV _ _ _ _ _ => true
  | .vsllVV _ _ _ _ _ => true
  | .vsrlVV _ _ _ _ _ => true
  | .vsraVV _ _ _ _ _ => true
  | .vsaddVV _ _ _ _ _ => true
  | .vssubVV _ _ _ _ _ => true
  | .vaddVS _ _ _ _ _ => true
  | .vsubVS _ _ _ _ _ => true
  | .vmulVS _ _ _ _ _ => true
  | .vmulhVS _ _ _ _ _ => true
  | .vdivVS _ _ _ _ _ => true
  | .vremVS _ _ _ _ _ => true
  | .vminVS _ _ _ _ _ => true
  | .vmaxVS _ _ _ _ _ => true
  | .vandVS _ _ _ _ _ => true
  | .vorVS _ _ _ _ _ => true
  | .vxorVS _ _ _ _ _ => true
  | .vsllVS _ _ _ _ _ => true
  | .vsrlVS _ _ _ _ _ => true
  | .vsraVS _ _ _ _ _ => true
  | .vsaddVS _ _ _ _ _ => true
  | .vssubVS _ _ _ _ _ => true
  | .vrsubVS _ _ _ _ _ => true
  | .vmaddVS _ _ _ _ _ => true
  | .vmsacVS _ _ _ _ _ => true
  | .vwaddVS _ _ _ _ _ => true
  | .vwmulVS _ _ _ _ _ => true
  | .vaddVI _ _ _ _ _ => true
  | .vrsubVI _ _ _ _ _ => true
  | .vandVI _ _ _ _ _ => true
  | .vorVI _ _ _ _ _ => true
  | .vxorVI _ _ _ _ _ => true
  | .vsllVI _ _ _ _ _ => true
  | .vsrlVI _ _ _ _ _ => true
  | .vsraVI _ _ _ _ _ => true
  | .vsaddVI _ _ _ _ _ => true
  | .vminVI _ _ _ _ _ => true
  | .vmaxVI _ _ _ _ _ => true
  | .vmaddVV _ _ _ _ _ => true
  | .vmsacVV _ _ _ _ _ => true
  | .vwaddVV _ _ _ _ _ => true
  | .vwmulVV _ _ _ _ _ => true
  | .vdot4 _ _ _ _ _ => true
  | .vdot4Sat _ _ _ _ _ => true
  | .vfaddVV _ _ _ _ _ => true
  | .vfsubVV _ _ _ _ _ => true
  | .vfmulVV _ _ _ _ _ => true
  | .vfdivVV _ _ _ _ _ => true
  | .vfsqrt _ _ _ _ => true
  | .vfrsqrt _ _ _ _ => true
  | .vfmaVV _ _ _ _ _ => true
  | .vfmsVV _ _ _ _ _ => true
  | .vfnmaVV _ _ _ _ _ => true
  | .vfminVV _ _ _ _ _ => true
  | .vfmaxVV _ _ _ _ _ => true
  | .vfclass _ _ _ _ => true
  | .vfsgnjVV _ _ _ _ _ => true
  | .vfsgnjnVV _ _ _ _ _ => true
  | .vfsgnjxVV _ _ _ _ _ => true
  | .vfaddVS _ _ _ _ _ => true
  | .vfsubVS _ _ _ _ _ => true
  | .vfmulVS _ _ _ _ _ => true
  | .vfdivVS _ _ _ _ _ => true
  | .vfmaVS _ _ _ _ _ => true
  | .vfmsVS _ _ _ _ _ => true
  | .vfnmaVS _ _ _ _ _ => true
  | .vfminVS _ _ _ _ _ => true
  | .vfmaxVS _ _ _ _ _ => true
  | .vfsgnjVS _ _ _ _ _ => true
  | .vfsgnjnVS _ _ _ _ _ => true
  | .vfsgnjxVS _ _ _ _ _ => true
  | .vmseqVV _ _ _ _ _ => true
  | .vmsneVV _ _ _ _ _ => true
  | .vmsltVV _ _ _ _ _ => true
  | .vmsleVV _ _ _ _ _ => true
  | .vmfeqVV _ _ _ _ _ => true
  | .vmfltVV _ _ _ _ _ => true
  | .vmfleVV _ _ _ _ _ => true
  | .vmseqVS _ _ _ _ _ => true
  | .vmsneVS _ _ _ _ _ => true
  | .vmsltVS _ _ _ _ _ => true
  | .vmsleVS _ _ _ _ _ => true
  | .vmfeqVS _ _ _ _ _ => true
  | .vmfltVS _ _ _ _ _ => true
  | .vmfleVS _ _ _ _ _ => true
  | .vmand _ _ _ _ _ => true
  | .vmor _ _ _ _ _ => true
  | .vmxor _ _ _ _ _ => true
  | .vmandn _ _ _ _ _ => true
  | .vcpop _ _ _ _ => true
  | .vfirst _ _ _ _ => true
  | .vmvVV _ _ _ _ => true
  | .vmvsx _ _ _ _ => true
  | .vmvxs _ _ _ _ => true
  | .vslideupVS _ _ _ _ _ => true
  | .vslidednVS _ _ _ _ _ => true
  | .vslideupVI _ _ _ _ _ => true
  | .vslidednVI _ _ _ _ _ => true
  | .vperm _ _ _ _ _ => true
  | .vcompress _ _ _ _ => true
  | .viota _ _ _ => true
  | .vid _ _ _ => true
  | .vnzscan _ _ _ _ _ => true
  | .vconfl _ _ _ _ => true
  | .vmvVI _ _ _ _ => true
  | .vmvVS _ _ _ _ => true
  | .vredsum _ _ _ _ _ => true
  | .vredmin _ _ _ _ _ => true
  | .vredmax _ _ _ _ _ => true
  | .vredand _ _ _ _ _ => true
  | .vredor _ _ _ _ _ => true
  | .vfredsum _ _ _ _ _ => true
  | .vfredosum _ _ _ _ _ => true
  | .vfredmin _ _ _ _ _ => true
  | .vfredmax _ _ _ _ _ => true
  | .vld _ _ _ mw _ => widthOk mw
  | .vlds _ _ _ _ mw _ => widthOk mw
  | .vldx _ _ _ _ mw _ => widthOk mw
  | .vldseg _ _ imm _ mw _ => widthOk mw && segOk imm
  | .vst _ _ _ _ => true
  | .vsts _ _ _ _ _ => true
  | .vstx _ _ _ _ _ => true
  | .vstseg _ _ imm _ _ => segOk imm
  | .vcvt _ _ _ _ _ => true
  | .vxpand _ _ f _ _ => f.toNat < 3
  | .vqblkF4 _ _ _ _ _ => true
  | .vqblkI8 _ _ _ _ _ => true
  | .vdqblkF4 _ _ _ _ _ => true
  | .vdqblkI8 _ _ _ _ _ => true
  | .tshape _ => true
  | .tzero _ => true
  | .tlda _ _ => true
  | .tldb _ _ => true
  | .tmma _ => true
  | .tmmaSX _ => true
  | .tstz _ _ _ => true
  | .tmvz _ _ _ => true
  | .tldaMC _ _ _ => true
  | .tldbMC _ _ _ => true
  | .tmmaSat _ => true
  | .fork d a imm => 0 < imm.toInt && d != a && a != 0
  | .join => true
  | .keywait => true
  | .doneStrand => true
  | .waitmsg _ => true
  | .send _ _ => true
  | .sendi _ b => b.toNat ≤ 28
  | .rgsetl _ _ => true
  | .widf _ f => f.toNat ≤ 5
  | .sbind _ _ => true
  | .sunbind _ => true
  | .sdrain _ => true
  | .scopy _ _ => true
  | .scopyF _ _ => true
  | .sisectC _ _ _ => true
  | .sisectW _ _ _ _ => true
  | .cqwait => true
  | .cqpop _ => true
  | .walk _ _ => true
  | .chase _ _ _ _ => true
  | .pgather _ _ _ _ => true
  | .grpset _ _ => true
  | .grpfree _ => true
  | .nred _ _ ty op => ty != 3 && op != 3
  | .nmcast _ _ => true
  | .gswOut _ => true
  | .gswIN _ => true
  | .pfx _ _ ce cd => ce == 1 || cd == 0
  | .vqueueBegin => true
  | .vqueueComplete => true
  | .trapEntry _ _ => true
  | .mEventEntry _ => true
  | .asyncBoundary => true
  | .timeoutExpiry _ => true
  | .wfiWake _ => true
  | .ringStopped _ => true
  | .chunkStart => true
  | .imageCopyDone _ => true
  | .liveinArrival _ => true
  | .chunkSquash _ => true
  | .chunkRestart _ => true
  | .keystoneArrival => true
  | .chunkCommit => true
  | .messageArrival _ => true
  | .spillRefill _ _ => true
  | .dispatch _ => true
  | .outboundInject _ _ => true
  | .retryBackoffExpiry _ _ => true
  | .actstallExpiry _ => true
  | .quantumExpiry _ => true
  | .overrunExpiry _ => true
  | .memoryReply _ _ => true
  | .sliceRequest _ _ => true
  | .ldsyncWake _ => true
  | .stripFetch _ => true
  | .stripFetchDone _ => true
  | .stripWrite _ => true
  | .drainRecordPost _ => true
  | .scopyRecordPost => true
  | .cqCapacityWake => true
  | .walkerAdmit _ _ => true
  | .walkerMigrate _ _ _ => true
  | .walkerReadDone _ _ => true
  | .resultWrite _ _ => true
  | .pierRecordPost _ => true
  | .dbgctlHalt _ _ => true
  | .debugHaltReached _ => true
  | .dbgctlStep _ _ _ => true
  | .debugStepBreak _ => true
  | .gangcfgShapeWrite _ => true
  | .pwrcfgWrite _ _ => true
  | .linkctlNewkey _ => true
  | .fabcfgFlowgapWrite _ => true
  | .accessTableStore _ _ => true
  | .registerWrite _ _ => true
  | .moduleReset => true
  | .boot _ => true
  | .coreRetirementMark _ _ _ => true
  | .droopTrip _ => true
  | .droopClear _ => true
  | .clockStepDone _ => true
  | .borrow _ _ _ => true
  | .grant _ _ _ => true
  | .deny _ _ => true
  | .repay _ _ _ => true
  | .recall _ _ _ => true
  | .borrowRetryExpiry _ => true
  | .timeSyncTick _ => true
  | .thermalCap _ => true
  | .thermalShutdown => true
  | .frameReceive _ _ => true
  | .keyUseLimit _ => true
  | .laneLockLoss _ => true
  | .linkRetrained _ => true
  | .linkRecoveryTimeout _ _ => true
  | .packetForward _ _ _ => true
  | .readPacket _ => true
  | .readResponsePacket _ => true
  | .writePacket _ => true
  | .writeResponsePacket _ => true
  | .atomicPacket _ => true
  | .atomicResponsePacket _ => true
  | .messagePacket _ => true
  | .messageResponsePacket _ => true
  | .stripPacket _ => true
  | .stripResponsePacket _ => true
  | .timeRequest _ => true
  | .timeReply _ => true
  | .debugPause _ => true
  | .debugThaw _ => true
  | .deflectionEntry _ _ => true
  | .flowletReturn _ _ => true
  | .heartbeat _ => true
  | .heartbeatSendTick => true
  | .heartbeatTimeout _ => true
  | .contribution _ _ _ => true
  | .collectiveResult _ _ => true
  | .multicastUP _ _ => true
  | .multicastDown _ _ => true
  | .reserve _ _ => true
  | .reserveReply _ => true
  | .entryWrite _ _ => true
  | .entryAcknowledge _ => true
  | .drain _ _ => true
  | .drainedReport _ _ => true
  | .switchOutCommand _ _ => true
  | .sweepMarker _ _ _ _ => true
  | .switchINCommand _ _ => true
  | .switchReport _ => true
  | .moduleReport _ => true
  | .gangResume _ _ => true
  | .gangFailed _ _ => true
  | .rdmaWrite _ _ _ _ _ => true
  | .rdmaRead _ _ _ _ _ => true
  | .hostSend _ _ _ => true
  | .launch _ _ => true
  | .attest _ => true
  | .moduleFault _ => true
  | .wantedPowerChange _ _ => true
  | .frameSend _ => true

end Sys2Proof
end

