-- ==== Sys2Proof/Decode.lean ====
section
/-! DEFINITION. Decoding and encoding of the 32-bit instruction words (spec/04 R80-R108): total, rejecting by name; every rejection is
the ILL of check 1 of R83. Decoding has two stages: selectOp reads which row of the instruction map a word spells, and Opcode.build
reads the operand fields of that row. The encoder writes the same formats. -/

namespace Sys2Proof

/-- The rows of the instruction map of R84 to R105, by name. -/
inductive Opcode where
  | add | sub | and | or | xor | andn | orn | xnor | sll | srl | sra | rol
  | ror | min | minu | max | maxu | seq | sne | slt | sltu | mul | mulh | mulhu
  | div | divu | rem | remu | clz | ctz | popc | bext | bdep | bswap | sextB | sextH
  | sextW | zextB | zextH | zextW | addi | andi | ori | xori | slli | srli | srai | slti
  | sltiu | movz | movk | fadd | fsub | fmul | fdiv | fsqrt | fmin | fmax | feq | flt
  | fle | fclass | fsgnj | fsgnjn | fsgnjx | fcvtFF | fcvtFI | fcvtIF | fmadd | fmsub | fnmadd | j
  | jal | jalr | beq | bne | blt | bge | bltu | bgeu | ldb | ldbu | ldh | ldhu
  | ldw | ldwu | ldd | stb | sth | stw | std | ldbuAQ | ldhuAQ | ldwuAQ | lddAQ | stbRL
  | sthRL | stwRL | stdRL | amoadd | amoand | amoor | amoxor | amomin | amomax | amominu | amomaxu | amoswap
  | cas | ldsync | ldtake | stfill | feclr | feset | csrr | csrw | csrs | csrc | fence | fenceSV
  | fenceVS | fenceVV | eret | wfi | halt | tlbinv | preempt | ctxsave | ctxload | reshape | trap | vsetvli
  | vsetvl | vcfg | vaddVV | vsubVV | vmulVV | vmulhVV | vdivVV | vremVV | vminVV | vmaxVV | vandVV | vorVV
  | vxorVV | vsllVV | vsrlVV | vsraVV | vsaddVV | vssubVV | vaddVS | vsubVS | vmulVS | vmulhVS | vdivVS | vremVS
  | vminVS | vmaxVS | vandVS | vorVS | vxorVS | vsllVS | vsrlVS | vsraVS | vsaddVS | vssubVS | vrsubVS | vmaddVS
  | vmsacVS | vwaddVS | vwmulVS | vaddVI | vrsubVI | vandVI | vorVI | vxorVI | vsllVI | vsrlVI | vsraVI | vsaddVI
  | vminVI | vmaxVI | vmaddVV | vmsacVV | vwaddVV | vwmulVV | vdot4 | vdot4Sat | vfaddVV | vfsubVV | vfmulVV | vfdivVV
  | vfsqrt | vfrsqrt | vfmaVV | vfmsVV | vfnmaVV | vfminVV | vfmaxVV | vfclass | vfsgnjVV | vfsgnjnVV | vfsgnjxVV | vfaddVS
  | vfsubVS | vfmulVS | vfdivVS | vfmaVS | vfmsVS | vfnmaVS | vfminVS | vfmaxVS | vfsgnjVS | vfsgnjnVS | vfsgnjxVS | vmseqVV
  | vmsneVV | vmsltVV | vmsleVV | vmfeqVV | vmfltVV | vmfleVV | vmseqVS | vmsneVS | vmsltVS | vmsleVS | vmfeqVS | vmfltVS
  | vmfleVS | vmand | vmor | vmxor | vmandn | vcpop | vfirst | vmvVV | vmvsx | vmvxs | vslideupVS | vslidednVS
  | vslideupVI | vslidednVI | vperm | vcompress | viota | vid | vnzscan | vconfl | vmvVI | vmvVS | vredsum | vredmin
  | vredmax | vredand | vredor | vfredsum | vfredosum | vfredmin | vfredmax | vld | vlds | vldx | vldseg | vst
  | vsts | vstx | vstseg | vcvt | vxpand | vqblkF4 | vqblkI8 | vdqblkF4 | vdqblkI8 | tshape | tzero | tlda
  | tldb | tmma | tmmaSX | tstz | tmvz | tldaMC | tldbMC | tmmaSat | fork | join | keywait | doneStrand
  | waitmsg | send | sendi | rgsetl | widf | sbind | sunbind | sdrain | scopy | scopyF | sisectC | sisectW
  | cqwait | cqpop | walk | chase | pgather | grpset | grpfree | nred | nmcast | gswOut | gswIN | pfx
deriving DecidableEq, Repr

/-- Why a word is no instruction (R83 check 1). -/
inductive DecodeError where
  /-- a major opcode that R84 does not assign -/
  | unassignedMajor (major : BitVec 6)
  /-- a selector value (fn, sz, cc, kind) that the major does not assign -/
  | unassignedSelector (major : BitVec 6)
  /-- a fixed field, shown as zero or naming a register kind (R82), that does not hold its value: bits hi to lo -/
  | fixedField (hi lo : Nat)
  /-- an operand value that the instruction's entry refuses at decode -/
  | illegalOperand (op : Opcode)
deriving DecidableEq, Repr

/-- The field of len bits at bit lo of a word. -/
abbrev fld (w : Word32) (lo len : Nat) : BitVec len := w.extractLsb' lo len

/-- Major 0x01: integer ALU (R85). -/
def decodeMajor01 (w : Word32) : Except DecodeError Opcode :=
  match (fld w 0 11 : BitVec 11) with
  | 0x0#11 => .ok .add
  | 0x1#11 => .ok .sub
  | 0x2#11 => .ok .and
  | 0x3#11 => .ok .or
  | 0x4#11 => .ok .xor
  | 0x5#11 => .ok .andn
  | 0x6#11 => .ok .orn
  | 0x7#11 => .ok .xnor
  | 0x8#11 => .ok .sll
  | 0x9#11 => .ok .srl
  | 0xA#11 => .ok .sra
  | 0xB#11 => .ok .rol
  | 0xC#11 => .ok .ror
  | 0xD#11 => .ok .min
  | 0xE#11 => .ok .minu
  | 0xF#11 => .ok .max
  | 0x10#11 => .ok .maxu
  | 0x11#11 => .ok .seq
  | 0x12#11 => .ok .sne
  | 0x13#11 => .ok .slt
  | 0x14#11 => .ok .sltu
  | _ => .error (.unassignedSelector 0x01#6)

/-- Major 0x02: multiply and divide (R85). -/
def decodeMajor02 (w : Word32) : Except DecodeError Opcode :=
  match (fld w 0 11 : BitVec 11) with
  | 0x0#11 => .ok .mul
  | 0x1#11 => .ok .mulh
  | 0x2#11 => .ok .mulhu
  | 0x3#11 => .ok .div
  | 0x4#11 => .ok .divu
  | 0x5#11 => .ok .rem
  | 0x6#11 => .ok .remu
  | _ => .error (.unassignedSelector 0x02#6)

/-- Major 0x03: bit manipulation (R85). -/
def decodeMajor03 (w : Word32) : Except DecodeError Opcode :=
  match (fld w 0 11 : BitVec 11) with
  | 0x0#11 => if fld w 11 5 ≠ 0#5 then .error (.fixedField 15 11) else .ok .clz
  | 0x1#11 => if fld w 11 5 ≠ 0#5 then .error (.fixedField 15 11) else .ok .ctz
  | 0x2#11 => if fld w 11 5 ≠ 0#5 then .error (.fixedField 15 11) else .ok .popc
  | 0x3#11 => .ok .bext
  | 0x4#11 => .ok .bdep
  | 0x5#11 => if fld w 11 5 ≠ 0#5 then .error (.fixedField 15 11) else .ok .bswap
  | 0x6#11 => if fld w 11 5 ≠ 0#5 then .error (.fixedField 15 11) else .ok .sextB
  | 0x7#11 => if fld w 11 5 ≠ 0#5 then .error (.fixedField 15 11) else .ok .sextH
  | 0x8#11 => if fld w 11 5 ≠ 0#5 then .error (.fixedField 15 11) else .ok .sextW
  | 0x9#11 => if fld w 11 5 ≠ 0#5 then .error (.fixedField 15 11) else .ok .zextB
  | 0xA#11 => if fld w 11 5 ≠ 0#5 then .error (.fixedField 15 11) else .ok .zextH
  | 0xB#11 => if fld w 11 5 ≠ 0#5 then .error (.fixedField 15 11) else .ok .zextW
  | _ => .error (.unassignedSelector 0x03#6)

/-- Major 0x08: shifts by immediate (R86). -/
def decodeMajor08 (w : Word32) : Except DecodeError Opcode :=
  match (fld w 6 2 : BitVec 2) with
  | 0x0#2 => if fld w 8 8 ≠ 0#8 then .error (.fixedField 15 8) else .ok .slli
  | 0x1#2 => if fld w 8 8 ≠ 0#8 then .error (.fixedField 15 8) else .ok .srli
  | 0x2#2 => if fld w 8 8 ≠ 0#8 then .error (.fixedField 15 8) else .ok .srai
  | _ => .error (.unassignedSelector 0x08#6)

/-- Major 0x10: scalar floating point (R87). -/
def decodeMajor10 (w : Word32) : Except DecodeError Opcode :=
  match (fld w 0 6 : BitVec 6) with
  | 0x0#6 => .ok .fadd
  | 0x1#6 => .ok .fsub
  | 0x2#6 => .ok .fmul
  | 0x3#6 => .ok .fdiv
  | 0x4#6 => if fld w 11 5 ≠ 0#5 then .error (.fixedField 15 11) else .ok .fsqrt
  | 0x5#6 => if fld w 6 3 ≠ 0#3 then .error (.fixedField 8 6) else .ok .fmin
  | 0x6#6 => if fld w 6 3 ≠ 0#3 then .error (.fixedField 8 6) else .ok .fmax
  | 0x7#6 => if fld w 6 3 ≠ 0#3 then .error (.fixedField 8 6) else .ok .feq
  | 0x8#6 => if fld w 6 3 ≠ 0#3 then .error (.fixedField 8 6) else .ok .flt
  | 0x9#6 => if fld w 6 3 ≠ 0#3 then .error (.fixedField 8 6) else .ok .fle
  | 0xA#6 => if fld w 11 5 ≠ 0#5 then .error (.fixedField 15 11) else if fld w 6 3 ≠ 0#3 then .error (.fixedField 8 6) else .ok .fclass
  | 0xB#6 => if fld w 6 3 ≠ 0#3 then .error (.fixedField 8 6) else .ok .fsgnj
  | 0xC#6 => if fld w 6 3 ≠ 0#3 then .error (.fixedField 8 6) else .ok .fsgnjn
  | 0xD#6 => if fld w 6 3 ≠ 0#3 then .error (.fixedField 8 6) else .ok .fsgnjx
  | 0x10#6 => if fld w 13 3 ≠ 0#3 then .error (.fixedField 15 13) else .ok .fcvtFF
  | 0x11#6 => if fld w 13 3 ≠ 0#3 then .error (.fixedField 15 13) else .ok .fcvtFI
  | 0x12#6 => if fld w 13 3 ≠ 0#3 then .error (.fixedField 15 13) else .ok .fcvtIF
  | _ => .error (.unassignedSelector 0x10#6)

/-- Major 0x17: branches (R89). -/
def decodeMajor17 (w : Word32) : Except DecodeError Opcode :=
  match (fld w 13 3 : BitVec 3) with
  | 0x0#3 => .ok .beq
  | 0x1#3 => .ok .bne
  | 0x2#3 => .ok .blt
  | 0x3#3 => .ok .bge
  | 0x4#3 => .ok .bltu
  | 0x5#3 => .ok .bgeu
  | _ => .error (.unassignedSelector 0x17#6)

/-- Major 0x18: loads (R90). -/
def decodeMajor18 (w : Word32) : Except DecodeError Opcode :=
  match (fld w 13 3 : BitVec 3) with
  | 0x0#3 => .ok .ldb
  | 0x1#3 => .ok .ldbu
  | 0x2#3 => .ok .ldh
  | 0x3#3 => .ok .ldhu
  | 0x4#3 => .ok .ldw
  | 0x5#3 => .ok .ldwu
  | 0x6#3 => .ok .ldd
  | _ => .error (.unassignedSelector 0x18#6)

/-- Major 0x19: stores (R90). -/
def decodeMajor19 (w : Word32) : Except DecodeError Opcode :=
  match (fld w 13 3 : BitVec 3) with
  | 0x0#3 => .ok .stb
  | 0x1#3 => .ok .sth
  | 0x2#3 => .ok .stw
  | 0x3#3 => .ok .std
  | _ => .error (.unassignedSelector 0x19#6)

/-- Major 0x1A: acquire and release (R92). -/
def decodeMajor1A (w : Word32) : Except DecodeError Opcode :=
  match (fld w 8 3 : BitVec 3) with
  | 0x0#3 => if fld w 11 5 ≠ 0#5 then .error (.fixedField 15 11) else if fld w 0 5 ≠ 0#5 then .error (.fixedField 4 0) else .ok .ldbuAQ
  | 0x1#3 => if fld w 11 5 ≠ 0#5 then .error (.fixedField 15 11) else if fld w 0 5 ≠ 0#5 then .error (.fixedField 4 0) else .ok .ldhuAQ
  | 0x2#3 => if fld w 11 5 ≠ 0#5 then .error (.fixedField 15 11) else if fld w 0 5 ≠ 0#5 then .error (.fixedField 4 0) else .ok .ldwuAQ
  | 0x3#3 => if fld w 11 5 ≠ 0#5 then .error (.fixedField 15 11) else if fld w 0 5 ≠ 0#5 then .error (.fixedField 4 0) else .ok .lddAQ
  | 0x4#3 => if fld w 21 5 ≠ 0#5 then .error (.fixedField 25 21) else if fld w 0 5 ≠ 0#5 then .error (.fixedField 4 0) else .ok .stbRL
  | 0x5#3 => if fld w 21 5 ≠ 0#5 then .error (.fixedField 25 21) else if fld w 0 5 ≠ 0#5 then .error (.fixedField 4 0) else .ok .sthRL
  | 0x6#3 => if fld w 21 5 ≠ 0#5 then .error (.fixedField 25 21) else if fld w 0 5 ≠ 0#5 then .error (.fixedField 4 0) else .ok .stwRL
  | 0x7#3 => if fld w 21 5 ≠ 0#5 then .error (.fixedField 25 21) else if fld w 0 5 ≠ 0#5 then .error (.fixedField 4 0) else .ok .stdRL
  | _ => .error (.unassignedSelector 0x1A#6)

/-- Major 0x1B: atomics and full/empty (R93). -/
def decodeMajor1B (w : Word32) : Except DecodeError Opcode :=
  match (fld w 6 5 : BitVec 5) with
  | 0x0#5 => .ok .amoadd
  | 0x1#5 => .ok .amoand
  | 0x2#5 => .ok .amoor
  | 0x3#5 => .ok .amoxor
  | 0x4#5 => .ok .amomin
  | 0x5#5 => .ok .amomax
  | 0x6#5 => .ok .amominu
  | 0x7#5 => .ok .amomaxu
  | 0x8#5 => .ok .amoswap
  | 0x9#5 => .ok .cas
  | 0x10#5 => if fld w 11 5 ≠ 0#5 then .error (.fixedField 15 11) else if fld w 5 1 ≠ 1#1 then .error (.fixedField 5 5) else if fld w 0 2 ≠ 0#2 then .error (.fixedField 1 0) else .ok .ldsync
  | 0x11#5 => if fld w 11 5 ≠ 0#5 then .error (.fixedField 15 11) else if fld w 5 1 ≠ 1#1 then .error (.fixedField 5 5) else if fld w 0 2 ≠ 0#2 then .error (.fixedField 1 0) else .ok .ldtake
  | 0x12#5 => if fld w 21 5 ≠ 0#5 then .error (.fixedField 25 21) else if fld w 5 1 ≠ 1#1 then .error (.fixedField 5 5) else if fld w 0 2 ≠ 0#2 then .error (.fixedField 1 0) else .ok .stfill
  | 0x13#5 => if fld w 21 5 ≠ 0#5 then .error (.fixedField 25 21) else if fld w 5 1 ≠ 1#1 then .error (.fixedField 5 5) else if fld w 0 2 ≠ 0#2 then .error (.fixedField 1 0) else .ok .feclr
  | 0x14#5 => if fld w 21 5 ≠ 0#5 then .error (.fixedField 25 21) else if fld w 5 1 ≠ 1#1 then .error (.fixedField 5 5) else if fld w 0 2 ≠ 0#2 then .error (.fixedField 1 0) else .ok .feset
  | _ => .error (.unassignedSelector 0x1B#6)

/-- Major 0x1C: CSR access (R94). -/
def decodeMajor1C (w : Word32) : Except DecodeError Opcode :=
  match (fld w 12 2 : BitVec 2) with
  | 0x0#2 => if fld w 14 7 ≠ 0#7 then .error (.fixedField 20 14) else .ok .csrr
  | 0x1#2 => if fld w 14 2 ≠ 0#2 then .error (.fixedField 15 14) else .ok .csrw
  | 0x2#2 => if fld w 14 2 ≠ 0#2 then .error (.fixedField 15 14) else .ok .csrs
  | 0x3#2 => if fld w 14 2 ≠ 0#2 then .error (.fixedField 15 14) else .ok .csrc
  | _ => .error (.unassignedSelector 0x1C#6)

/-- Major 0x1D: fences (R95). -/
def decodeMajor1D (w : Word32) : Except DecodeError Opcode :=
  match (fld w 9 2 : BitVec 2) with
  | 0x0#2 => if fld w 11 15 ≠ 0#15 then .error (.fixedField 25 11) else .ok .fence
  | 0x1#2 => if fld w 11 15 ≠ 0#15 then .error (.fixedField 25 11) else if fld w 0 9 ≠ 0#9 then .error (.fixedField 8 0) else .ok .fenceSV
  | 0x2#2 => if fld w 11 15 ≠ 0#15 then .error (.fixedField 25 11) else if fld w 0 9 ≠ 0#9 then .error (.fixedField 8 0) else .ok .fenceVS
  | 0x3#2 => if fld w 11 15 ≠ 0#15 then .error (.fixedField 25 11) else if fld w 0 9 ≠ 0#9 then .error (.fixedField 8 0) else .ok .fenceVV
  | _ => .error (.unassignedSelector 0x1D#6)

/-- Major 0x1E: system (R96). -/
def decodeMajor1E (w : Word32) : Except DecodeError Opcode :=
  match (fld w 0 11 : BitVec 11) with
  | 0x1#11 => if fld w 11 15 ≠ 0#15 then .error (.fixedField 25 11) else .ok .eret
  | 0x2#11 => if fld w 11 15 ≠ 0#15 then .error (.fixedField 25 11) else .ok .wfi
  | 0x3#11 => if fld w 11 15 ≠ 0#15 then .error (.fixedField 25 11) else .ok .halt
  | 0x4#11 => if fld w 21 5 ≠ 0#5 then .error (.fixedField 25 21) else .ok .tlbinv
  | 0x10#11 => if fld w 21 5 ≠ 0#5 then .error (.fixedField 25 21) else if fld w 11 5 ≠ 0#5 then .error (.fixedField 15 11) else .ok .preempt
  | 0x11#11 => if fld w 21 5 ≠ 0#5 then .error (.fixedField 25 21) else .ok .ctxsave
  | 0x12#11 => if fld w 21 5 ≠ 0#5 then .error (.fixedField 25 21) else .ok .ctxload
  | 0x13#11 => if fld w 21 5 ≠ 0#5 then .error (.fixedField 25 21) else .ok .reshape
  | _ => .error (.unassignedSelector 0x1E#6)

/-- Major 0x20: vector configuration (R97). -/
def decodeMajor20 (w : Word32) : Except DecodeError Opcode :=
  match (fld w 1 4 : BitVec 4) with
  | 0x0#4 => if fld w 25 1 ≠ 0#1 then .error (.fixedField 25 25) else if fld w 19 1 ≠ 0#1 then .error (.fixedField 19 19) else if fld w 5 1 ≠ 0#1 then .error (.fixedField 5 5) else if fld w 0 1 ≠ 0#1 then .error (.fixedField 0 0) else .ok .vsetvli
  | 0x1#4 => if fld w 25 1 ≠ 0#1 then .error (.fixedField 25 25) else if fld w 19 1 ≠ 0#1 then .error (.fixedField 19 19) else if fld w 5 4 ≠ 0#4 then .error (.fixedField 8 5) else if fld w 0 1 ≠ 0#1 then .error (.fixedField 0 0) else .ok .vsetvl
  | 0x2#4 => if fld w 7 19 ≠ 0#19 then .error (.fixedField 25 7) else if fld w 0 1 ≠ 0#1 then .error (.fixedField 0 0) else .ok .vcfg
  | _ => .error (.unassignedSelector 0x20#6)

/-- Major 0x21: vector-vector arithmetic (R98). -/
def decodeMajor21 (w : Word32) : Except DecodeError Opcode :=
  match (fld w 1 4 : BitVec 4) with
  | 0x0#4 => .ok .vaddVV
  | 0x1#4 => .ok .vsubVV
  | 0x2#4 => .ok .vmulVV
  | 0x3#4 => .ok .vmulhVV
  | 0x4#4 => .ok .vdivVV
  | 0x5#4 => .ok .vremVV
  | 0x6#4 => .ok .vminVV
  | 0x7#4 => .ok .vmaxVV
  | 0x8#4 => .ok .vandVV
  | 0x9#4 => .ok .vorVV
  | 0xA#4 => .ok .vxorVV
  | 0xB#4 => .ok .vsllVV
  | 0xC#4 => .ok .vsrlVV
  | 0xD#4 => .ok .vsraVV
  | 0xE#4 => .ok .vsaddVV
  | 0xF#4 => .ok .vssubVV
  | _ => .error (.unassignedSelector 0x21#6)

/-- Major 0x22: vector-scalar arithmetic (R98). -/
def decodeMajor22 (w : Word32) : Except DecodeError Opcode :=
  match (fld w 8 1 ++ fld w 1 4 : BitVec 5) with
  | 0x0#5 => .ok .vaddVS
  | 0x1#5 => .ok .vsubVS
  | 0x2#5 => .ok .vmulVS
  | 0x3#5 => .ok .vmulhVS
  | 0x4#5 => .ok .vdivVS
  | 0x5#5 => .ok .vremVS
  | 0x6#5 => .ok .vminVS
  | 0x7#5 => .ok .vmaxVS
  | 0x8#5 => .ok .vandVS
  | 0x9#5 => .ok .vorVS
  | 0xA#5 => .ok .vxorVS
  | 0xB#5 => .ok .vsllVS
  | 0xC#5 => .ok .vsrlVS
  | 0xD#5 => .ok .vsraVS
  | 0xE#5 => .ok .vsaddVS
  | 0xF#5 => .ok .vssubVS
  | 0x10#5 => .ok .vrsubVS
  | 0x11#5 => .ok .vmaddVS
  | 0x12#5 => .ok .vmsacVS
  | 0x13#5 => .ok .vwaddVS
  | 0x14#5 => .ok .vwmulVS
  | _ => .error (.unassignedSelector 0x22#6)

/-- Major 0x23: vector-immediate arithmetic (R98). -/
def decodeMajor23 (w : Word32) : Except DecodeError Opcode :=
  match (fld w 1 4 : BitVec 4) with
  | 0x0#4 => .ok .vaddVI
  | 0x1#4 => .ok .vrsubVI
  | 0x2#4 => .ok .vandVI
  | 0x3#4 => .ok .vorVI
  | 0x4#4 => .ok .vxorVI
  | 0x5#4 => .ok .vsllVI
  | 0x6#4 => .ok .vsrlVI
  | 0x7#4 => .ok .vsraVI
  | 0x8#4 => .ok .vsaddVI
  | 0x9#4 => .ok .vminVI
  | 0xA#4 => .ok .vmaxVI
  | _ => .error (.unassignedSelector 0x23#6)

/-- Major 0x24: multiply-add and widening (R98). -/
def decodeMajor24 (w : Word32) : Except DecodeError Opcode :=
  match (fld w 1 4 : BitVec 4) with
  | 0x0#4 => .ok .vmaddVV
  | 0x1#4 => .ok .vmsacVV
  | 0x2#4 => .ok .vwaddVV
  | 0x3#4 => .ok .vwmulVV
  | 0x4#4 => .ok .vdot4
  | 0x5#4 => .ok .vdot4Sat
  | _ => .error (.unassignedSelector 0x24#6)

/-- Major 0x25: vector floating point (R98). -/
def decodeMajor25 (w : Word32) : Except DecodeError Opcode :=
  match (fld w 1 4 : BitVec 4) with
  | 0x0#4 => .ok .vfaddVV
  | 0x1#4 => .ok .vfsubVV
  | 0x2#4 => .ok .vfmulVV
  | 0x3#4 => .ok .vfdivVV
  | 0x4#4 => if fld w 8 6 ≠ 0#6 then .error (.fixedField 13 8) else .ok .vfsqrt
  | 0x5#4 => if fld w 8 6 ≠ 0#6 then .error (.fixedField 13 8) else .ok .vfrsqrt
  | 0x6#4 => .ok .vfmaVV
  | 0x7#4 => .ok .vfmsVV
  | 0x8#4 => .ok .vfnmaVV
  | 0x9#4 => .ok .vfminVV
  | 0xA#4 => .ok .vfmaxVV
  | 0xB#4 => if fld w 8 6 ≠ 0#6 then .error (.fixedField 13 8) else .ok .vfclass
  | 0xC#4 => .ok .vfsgnjVV
  | 0xD#4 => .ok .vfsgnjnVV
  | 0xE#4 => .ok .vfsgnjxVV
  | _ => .error (.unassignedSelector 0x25#6)

/-- Major 0x26: vector-scalar floating point (R98). -/
def decodeMajor26 (w : Word32) : Except DecodeError Opcode :=
  match (fld w 1 4 : BitVec 4) with
  | 0x0#4 => if fld w 8 1 ≠ 0#1 then .error (.fixedField 8 8) else .ok .vfaddVS
  | 0x1#4 => if fld w 8 1 ≠ 0#1 then .error (.fixedField 8 8) else .ok .vfsubVS
  | 0x2#4 => if fld w 8 1 ≠ 0#1 then .error (.fixedField 8 8) else .ok .vfmulVS
  | 0x3#4 => if fld w 8 1 ≠ 0#1 then .error (.fixedField 8 8) else .ok .vfdivVS
  | 0x6#4 => if fld w 8 1 ≠ 0#1 then .error (.fixedField 8 8) else .ok .vfmaVS
  | 0x7#4 => if fld w 8 1 ≠ 0#1 then .error (.fixedField 8 8) else .ok .vfmsVS
  | 0x8#4 => if fld w 8 1 ≠ 0#1 then .error (.fixedField 8 8) else .ok .vfnmaVS
  | 0x9#4 => if fld w 8 1 ≠ 0#1 then .error (.fixedField 8 8) else .ok .vfminVS
  | 0xA#4 => if fld w 8 1 ≠ 0#1 then .error (.fixedField 8 8) else .ok .vfmaxVS
  | 0xC#4 => if fld w 8 1 ≠ 0#1 then .error (.fixedField 8 8) else .ok .vfsgnjVS
  | 0xD#4 => if fld w 8 1 ≠ 0#1 then .error (.fixedField 8 8) else .ok .vfsgnjnVS
  | 0xE#4 => if fld w 8 1 ≠ 0#1 then .error (.fixedField 8 8) else .ok .vfsgnjxVS
  | _ => .error (.unassignedSelector 0x26#6)

/-- Major 0x27: compares into masks (R98). -/
def decodeMajor27 (w : Word32) : Except DecodeError Opcode :=
  match (fld w 1 4 : BitVec 4) with
  | 0x0#4 => if fld w 23 3 ≠ 0#3 then .error (.fixedField 25 23) else .ok .vmseqVV
  | 0x1#4 => if fld w 23 3 ≠ 0#3 then .error (.fixedField 25 23) else .ok .vmsneVV
  | 0x2#4 => if fld w 23 3 ≠ 0#3 then .error (.fixedField 25 23) else .ok .vmsltVV
  | 0x3#4 => if fld w 23 3 ≠ 0#3 then .error (.fixedField 25 23) else .ok .vmsleVV
  | 0x4#4 => if fld w 23 3 ≠ 0#3 then .error (.fixedField 25 23) else .ok .vmfeqVV
  | 0x5#4 => if fld w 23 3 ≠ 0#3 then .error (.fixedField 25 23) else .ok .vmfltVV
  | 0x6#4 => if fld w 23 3 ≠ 0#3 then .error (.fixedField 25 23) else .ok .vmfleVV
  | 0x8#4 => if fld w 23 3 ≠ 0#3 then .error (.fixedField 25 23) else if fld w 8 1 ≠ 0#1 then .error (.fixedField 8 8) else .ok .vmseqVS
  | 0x9#4 => if fld w 23 3 ≠ 0#3 then .error (.fixedField 25 23) else if fld w 8 1 ≠ 0#1 then .error (.fixedField 8 8) else .ok .vmsneVS
  | 0xA#4 => if fld w 23 3 ≠ 0#3 then .error (.fixedField 25 23) else if fld w 8 1 ≠ 0#1 then .error (.fixedField 8 8) else .ok .vmsltVS
  | 0xB#4 => if fld w 23 3 ≠ 0#3 then .error (.fixedField 25 23) else if fld w 8 1 ≠ 0#1 then .error (.fixedField 8 8) else .ok .vmsleVS
  | 0xC#4 => if fld w 23 3 ≠ 0#3 then .error (.fixedField 25 23) else if fld w 8 1 ≠ 0#1 then .error (.fixedField 8 8) else .ok .vmfeqVS
  | 0xD#4 => if fld w 23 3 ≠ 0#3 then .error (.fixedField 25 23) else if fld w 8 1 ≠ 0#1 then .error (.fixedField 8 8) else .ok .vmfltVS
  | 0xE#4 => if fld w 23 3 ≠ 0#3 then .error (.fixedField 25 23) else if fld w 8 1 ≠ 0#1 then .error (.fixedField 8 8) else .ok .vmfleVS
  | _ => .error (.unassignedSelector 0x27#6)

/-- Major 0x28: mask logic (R98). -/
def decodeMajor28 (w : Word32) : Except DecodeError Opcode :=
  match (fld w 1 4 : BitVec 4) with
  | 0x0#4 => if fld w 23 3 ≠ 0#3 then .error (.fixedField 25 23) else if fld w 17 3 ≠ 0#3 then .error (.fixedField 19 17) else if fld w 11 3 ≠ 0#3 then .error (.fixedField 13 11) else .ok .vmand
  | 0x1#4 => if fld w 23 3 ≠ 0#3 then .error (.fixedField 25 23) else if fld w 17 3 ≠ 0#3 then .error (.fixedField 19 17) else if fld w 11 3 ≠ 0#3 then .error (.fixedField 13 11) else .ok .vmor
  | 0x2#4 => if fld w 23 3 ≠ 0#3 then .error (.fixedField 25 23) else if fld w 17 3 ≠ 0#3 then .error (.fixedField 19 17) else if fld w 11 3 ≠ 0#3 then .error (.fixedField 13 11) else .ok .vmxor
  | 0x3#4 => if fld w 23 3 ≠ 0#3 then .error (.fixedField 25 23) else if fld w 17 3 ≠ 0#3 then .error (.fixedField 19 17) else if fld w 11 3 ≠ 0#3 then .error (.fixedField 13 11) else .ok .vmandn
  | 0x4#4 => if fld w 25 1 ≠ 0#1 then .error (.fixedField 25 25) else if fld w 17 3 ≠ 0#3 then .error (.fixedField 19 17) else if fld w 8 6 ≠ 0#6 then .error (.fixedField 13 8) else .ok .vcpop
  | 0x5#4 => if fld w 25 1 ≠ 0#1 then .error (.fixedField 25 25) else if fld w 17 3 ≠ 0#3 then .error (.fixedField 19 17) else if fld w 8 6 ≠ 0#6 then .error (.fixedField 13 8) else .ok .vfirst
  | _ => .error (.unassignedSelector 0x28#6)

/-- Major 0x29: permutes (R99). -/
def decodeMajor29 (w : Word32) : Except DecodeError Opcode :=
  match (fld w 1 4 : BitVec 4) with
  | 0x0#4 => if fld w 8 6 ≠ 0#6 then .error (.fixedField 13 8) else .ok .vmvVV
  | 0x1#4 => if fld w 14 6 ≠ 0#6 then .error (.fixedField 19 14) else if fld w 8 1 ≠ 0#1 then .error (.fixedField 8 8) else .ok .vmvsx
  | 0x2#4 => if fld w 25 1 ≠ 0#1 then .error (.fixedField 25 25) else if fld w 8 6 ≠ 0#6 then .error (.fixedField 13 8) else .ok .vmvxs
  | 0x3#4 => if fld w 8 1 ≠ 0#1 then .error (.fixedField 8 8) else .ok .vslideupVS
  | 0x4#4 => if fld w 8 1 ≠ 0#1 then .error (.fixedField 8 8) else .ok .vslidednVS
  | 0x5#4 => .ok .vslideupVI
  | 0x6#4 => .ok .vslidednVI
  | 0x7#4 => .ok .vperm
  | 0x8#4 => if fld w 8 6 ≠ 0#6 then .error (.fixedField 13 8) else .ok .vcompress
  | 0x9#4 => if fld w 8 12 ≠ 0#12 then .error (.fixedField 19 8) else .ok .viota
  | 0xA#4 => if fld w 8 12 ≠ 0#12 then .error (.fixedField 19 8) else .ok .vid
  | 0xB#4 => if fld w 8 1 ≠ 0#1 then .error (.fixedField 8 8) else .ok .vnzscan
  | 0xC#4 => if fld w 23 3 ≠ 0#3 then .error (.fixedField 25 23) else if fld w 8 6 ≠ 0#6 then .error (.fixedField 13 8) else .ok .vconfl
  | 0xD#4 => if fld w 14 6 ≠ 0#6 then .error (.fixedField 19 14) else .ok .vmvVI
  | 0xE#4 => if fld w 14 6 ≠ 0#6 then .error (.fixedField 19 14) else if fld w 8 1 ≠ 0#1 then .error (.fixedField 8 8) else .ok .vmvVS
  | _ => .error (.unassignedSelector 0x29#6)

/-- Major 0x2A: reductions (R98). -/
def decodeMajor2A (w : Word32) : Except DecodeError Opcode :=
  match (fld w 1 4 : BitVec 4) with
  | 0x0#4 => if fld w 25 1 ≠ 0#1 then .error (.fixedField 25 25) else if fld w 8 1 ≠ 0#1 then .error (.fixedField 8 8) else .ok .vredsum
  | 0x1#4 => if fld w 25 1 ≠ 0#1 then .error (.fixedField 25 25) else if fld w 8 1 ≠ 0#1 then .error (.fixedField 8 8) else .ok .vredmin
  | 0x2#4 => if fld w 25 1 ≠ 0#1 then .error (.fixedField 25 25) else if fld w 8 1 ≠ 0#1 then .error (.fixedField 8 8) else .ok .vredmax
  | 0x3#4 => if fld w 25 1 ≠ 0#1 then .error (.fixedField 25 25) else if fld w 8 1 ≠ 0#1 then .error (.fixedField 8 8) else .ok .vredand
  | 0x4#4 => if fld w 25 1 ≠ 0#1 then .error (.fixedField 25 25) else if fld w 8 1 ≠ 0#1 then .error (.fixedField 8 8) else .ok .vredor
  | 0x5#4 => if fld w 25 1 ≠ 0#1 then .error (.fixedField 25 25) else if fld w 8 1 ≠ 0#1 then .error (.fixedField 8 8) else .ok .vfredsum
  | 0x6#4 => if fld w 25 1 ≠ 0#1 then .error (.fixedField 25 25) else if fld w 8 1 ≠ 0#1 then .error (.fixedField 8 8) else .ok .vfredosum
  | 0x7#4 => if fld w 25 1 ≠ 0#1 then .error (.fixedField 25 25) else if fld w 8 1 ≠ 0#1 then .error (.fixedField 8 8) else .ok .vfredmin
  | 0x8#4 => if fld w 25 1 ≠ 0#1 then .error (.fixedField 25 25) else if fld w 8 1 ≠ 0#1 then .error (.fixedField 8 8) else .ok .vfredmax
  | _ => .error (.unassignedSelector 0x2A#6)

/-- Major 0x2B: vector loads (R100). -/
def decodeMajor2B (w : Word32) : Except DecodeError Opcode :=
  match (fld w 3 2 : BitVec 2) with
  | 0x0#2 => if fld w 19 1 ≠ 0#1 then .error (.fixedField 19 19) else if fld w 8 6 ≠ 0#6 then .error (.fixedField 13 8) else .ok .vld
  | 0x1#2 => if fld w 19 1 ≠ 0#1 then .error (.fixedField 19 19) else if fld w 8 1 ≠ 0#1 then .error (.fixedField 8 8) else .ok .vlds
  | 0x2#2 => if fld w 19 1 ≠ 0#1 then .error (.fixedField 19 19) else .ok .vldx
  | 0x3#2 => if fld w 19 1 ≠ 0#1 then .error (.fixedField 19 19) else .ok .vldseg
  | _ => .error (.unassignedSelector 0x2B#6)

/-- Major 0x2C: vector stores (R100). -/
def decodeMajor2C (w : Word32) : Except DecodeError Opcode :=
  match (fld w 3 2 : BitVec 2) with
  | 0x0#2 => if fld w 19 1 ≠ 0#1 then .error (.fixedField 19 19) else if fld w 8 6 ≠ 0#6 then .error (.fixedField 13 8) else if fld w 1 2 ≠ 0#2 then .error (.fixedField 2 1) else .ok .vst
  | 0x1#2 => if fld w 19 1 ≠ 0#1 then .error (.fixedField 19 19) else if fld w 8 1 ≠ 0#1 then .error (.fixedField 8 8) else if fld w 1 2 ≠ 0#2 then .error (.fixedField 2 1) else .ok .vsts
  | 0x2#2 => if fld w 19 1 ≠ 0#1 then .error (.fixedField 19 19) else if fld w 1 2 ≠ 0#2 then .error (.fixedField 2 1) else .ok .vstx
  | 0x3#2 => if fld w 19 1 ≠ 0#1 then .error (.fixedField 19 19) else if fld w 1 2 ≠ 0#2 then .error (.fixedField 2 1) else .ok .vstseg
  | _ => .error (.unassignedSelector 0x2C#6)

/-- Major 0x2D: conversions (R98). -/
def decodeMajor2D (w : Word32) : Except DecodeError Opcode :=
  match (fld w 1 4 : BitVec 4) with
  | 0x0#4 => if fld w 12 2 ≠ 0#2 then .error (.fixedField 13 12) else .ok .vcvt
  | 0x1#4 => .ok .vxpand
  | 0x2#4 => .ok .vqblkF4
  | 0x3#4 => .ok .vqblkI8
  | 0x4#4 => .ok .vdqblkF4
  | 0x5#4 => .ok .vdqblkI8
  | _ => .error (.unassignedSelector 0x2D#6)

/-- Major 0x30: tile unit (R101). -/
def decodeMajor30 (w : Word32) : Except DecodeError Opcode :=
  match (fld w 8 4 : BitVec 4) with
  | 0x0#4 => if fld w 23 3 ≠ 0#3 then .error (.fixedField 25 23) else if fld w 12 6 ≠ 0#6 then .error (.fixedField 17 12) else if fld w 0 8 ≠ 0#8 then .error (.fixedField 7 0) else .ok .tshape
  | 0x1#4 => if fld w 12 12 ≠ 0#12 then .error (.fixedField 23 12) else if fld w 0 8 ≠ 0#8 then .error (.fixedField 7 0) else .ok .tzero
  | 0x2#4 => if fld w 23 3 ≠ 0#3 then .error (.fixedField 25 23) else if fld w 17 1 ≠ 0#1 then .error (.fixedField 17 17) else if fld w 0 8 ≠ 0#8 then .error (.fixedField 7 0) else .ok .tlda
  | 0x3#4 => if fld w 23 3 ≠ 0#3 then .error (.fixedField 25 23) else if fld w 17 1 ≠ 0#1 then .error (.fixedField 17 17) else if fld w 0 8 ≠ 0#8 then .error (.fixedField 7 0) else .ok .tldb
  | 0x4#4 => if fld w 12 12 ≠ 0#12 then .error (.fixedField 23 12) else if fld w 0 8 ≠ 0#8 then .error (.fixedField 7 0) else .ok .tmma
  | 0x5#4 => if fld w 12 12 ≠ 0#12 then .error (.fixedField 23 12) else if fld w 0 8 ≠ 0#8 then .error (.fixedField 7 0) else .ok .tmmaSX
  | 0x6#4 => if fld w 23 1 ≠ 0#1 then .error (.fixedField 23 23) else if fld w 17 1 ≠ 0#1 then .error (.fixedField 17 17) else if fld w 0 8 ≠ 0#8 then .error (.fixedField 7 0) else .ok .tstz
  | 0x7#4 => if fld w 17 1 ≠ 0#1 then .error (.fixedField 17 17) else if fld w 0 8 ≠ 0#8 then .error (.fixedField 7 0) else .ok .tmvz
  | 0x8#4 => if fld w 23 3 ≠ 0#3 then .error (.fixedField 25 23) else if fld w 17 1 ≠ 0#1 then .error (.fixedField 17 17) else if fld w 0 3 ≠ 0#3 then .error (.fixedField 2 0) else .ok .tldaMC
  | 0x9#4 => if fld w 23 3 ≠ 0#3 then .error (.fixedField 25 23) else if fld w 17 1 ≠ 0#1 then .error (.fixedField 17 17) else if fld w 0 3 ≠ 0#3 then .error (.fixedField 2 0) else .ok .tldbMC
  | 0xA#4 => if fld w 12 12 ≠ 0#12 then .error (.fixedField 23 12) else if fld w 0 8 ≠ 0#8 then .error (.fixedField 7 0) else .ok .tmmaSat
  | _ => .error (.unassignedSelector 0x30#6)

/-- Major 0x35: chunk, actor and messaging (R102). -/
def decodeMajor35 (w : Word32) : Except DecodeError Opcode :=
  match (fld w 6 5 : BitVec 5) with
  | 0x0#5 => if fld w 11 15 ≠ 0#15 then .error (.fixedField 25 11) else if fld w 0 6 ≠ 0#6 then .error (.fixedField 5 0) else .ok .join
  | 0x1#5 => if fld w 11 15 ≠ 0#15 then .error (.fixedField 25 11) else if fld w 0 6 ≠ 0#6 then .error (.fixedField 5 0) else .ok .keywait
  | 0x2#5 => if fld w 11 15 ≠ 0#15 then .error (.fixedField 25 11) else if fld w 0 6 ≠ 0#6 then .error (.fixedField 5 0) else .ok .doneStrand
  | 0x3#5 => if fld w 21 5 ≠ 0#5 then .error (.fixedField 25 21) else if fld w 11 5 ≠ 0#5 then .error (.fixedField 15 11) else if fld w 0 6 ≠ 0#6 then .error (.fixedField 5 0) else .ok .waitmsg
  | 0x4#5 => if fld w 21 5 ≠ 0#5 then .error (.fixedField 25 21) else if fld w 0 6 ≠ 0#6 then .error (.fixedField 5 0) else .ok .send
  | 0x5#5 => if fld w 21 5 ≠ 0#5 then .error (.fixedField 25 21) else if fld w 0 6 ≠ 0#6 then .error (.fixedField 5 0) else .ok .sendi
  | 0x6#5 => if fld w 21 1 ≠ 0#1 then .error (.fixedField 21 21) else if fld w 11 5 ≠ 0#5 then .error (.fixedField 15 11) else if fld w 0 6 ≠ 0#6 then .error (.fixedField 5 0) else .ok .rgsetl
  | 0x7#5 => if fld w 11 10 ≠ 0#10 then .error (.fixedField 20 11) else .ok .widf
  | _ => .error (.unassignedSelector 0x35#6)

/-- Major 0x38: stream engine (R103). -/
def decodeMajor38 (w : Word32) : Except DecodeError Opcode :=
  match (fld w 6 5 : BitVec 5) with
  | 0x0#5 => if fld w 21 5 ≠ 0#5 then .error (.fixedField 25 21) else if fld w 11 5 ≠ 0#5 then .error (.fixedField 15 11) else .ok .sbind
  | 0x1#5 => if fld w 11 15 ≠ 0#15 then .error (.fixedField 25 11) else .ok .sunbind
  | 0x2#5 => if fld w 11 15 ≠ 0#15 then .error (.fixedField 25 11) else .ok .sdrain
  | 0x3#5 => if fld w 21 5 ≠ 0#5 then .error (.fixedField 25 21) else if fld w 0 6 ≠ 0#6 then .error (.fixedField 5 0) else .ok .scopy
  | 0x4#5 => if fld w 21 5 ≠ 0#5 then .error (.fixedField 25 21) else if fld w 0 6 ≠ 0#6 then .error (.fixedField 5 0) else .ok .scopyF
  | 0x5#5 => if fld w 19 2 ≠ 0#2 then .error (.fixedField 20 19) else if fld w 14 2 ≠ 0#2 then .error (.fixedField 15 14) else if fld w 0 6 ≠ 0#6 then .error (.fixedField 5 0) else .ok .sisectC
  | 0x6#5 => if fld w 19 2 ≠ 0#2 then .error (.fixedField 20 19) else if fld w 14 2 ≠ 0#2 then .error (.fixedField 15 14) else .ok .sisectW
  | 0x7#5 => if fld w 11 15 ≠ 0#15 then .error (.fixedField 25 11) else if fld w 0 6 ≠ 0#6 then .error (.fixedField 5 0) else .ok .cqwait
  | 0x8#5 => if fld w 11 11 ≠ 0#11 then .error (.fixedField 21 11) else if fld w 0 6 ≠ 0#6 then .error (.fixedField 5 0) else .ok .cqpop
  | 0x9#5 => if fld w 21 5 ≠ 0#5 then .error (.fixedField 25 21) else if fld w 0 6 ≠ 0#6 then .error (.fixedField 5 0) else .ok .walk
  | _ => .error (.unassignedSelector 0x38#6)

/-- Major 0x39: chase and pgather (R103). -/
def decodeMajor39 (w : Word32) : Except DecodeError Opcode :=
  match (fld w 1 4 : BitVec 4) with
  | 0x0#4 => if fld w 8 1 ≠ 0#1 then .error (.fixedField 8 8) else if fld w 0 1 ≠ 0#1 then .error (.fixedField 0 0) else .ok .chase
  | 0x1#4 => if fld w 8 1 ≠ 0#1 then .error (.fixedField 8 8) else if fld w 0 1 ≠ 0#1 then .error (.fixedField 0 0) else .ok .pgather
  | _ => .error (.unassignedSelector 0x39#6)

/-- Major 0x3C: collectives and gang switch (R104). -/
def decodeMajor3C (w : Word32) : Except DecodeError Opcode :=
  match (fld w 6 5 : BitVec 5) with
  | 0x0#5 => if fld w 21 5 ≠ 0#5 then .error (.fixedField 25 21) else if fld w 0 6 ≠ 0#6 then .error (.fixedField 5 0) else .ok .grpset
  | 0x1#5 => if fld w 21 5 ≠ 0#5 then .error (.fixedField 25 21) else if fld w 11 5 ≠ 0#5 then .error (.fixedField 15 11) else if fld w 0 6 ≠ 0#6 then .error (.fixedField 5 0) else .ok .grpfree
  | 0x2#5 => if fld w 21 5 ≠ 0#5 then .error (.fixedField 25 21) else if fld w 0 2 ≠ 0#2 then .error (.fixedField 1 0) else .ok .nred
  | 0x3#5 => if fld w 21 5 ≠ 0#5 then .error (.fixedField 25 21) else if fld w 0 6 ≠ 0#6 then .error (.fixedField 5 0) else .ok .nmcast
  | 0x4#5 => if fld w 0 1 = 0#1 then (if fld w 21 5 ≠ 0#5 then .error (.fixedField 25 21) else if fld w 11 5 ≠ 0#5 then .error (.fixedField 15 11) else if fld w 1 5 ≠ 0#5 then .error (.fixedField 5 1) else .ok .gswOut) else (if fld w 21 5 ≠ 0#5 then .error (.fixedField 25 21) else if fld w 11 5 ≠ 0#5 then .error (.fixedField 15 11) else if fld w 1 5 ≠ 0#5 then .error (.fixedField 5 1) else .ok .gswIN)
  | _ => .error (.unassignedSelector 0x3C#6)

/-- The row that a word spells, before the operand checks of the instruction entries (R84). -/
def selectOp (w : Word32) : Except DecodeError Opcode :=
  match fld w 26 6 with
  | 0x01#6 => decodeMajor01 w
  | 0x02#6 => decodeMajor02 w
  | 0x03#6 => decodeMajor03 w
  | 0x04#6 => .ok .addi
  | 0x05#6 => .ok .andi
  | 0x06#6 => .ok .ori
  | 0x07#6 => .ok .xori
  | 0x08#6 => decodeMajor08 w
  | 0x09#6 => .ok .slti
  | 0x0A#6 => .ok .sltiu
  | 0x0B#6 => if fld w 18 3 ≠ 0#3 then .error (.fixedField 20 18) else .ok .movz
  | 0x0C#6 => if fld w 18 3 ≠ 0#3 then .error (.fixedField 20 18) else .ok .movk
  | 0x10#6 => decodeMajor10 w
  | 0x11#6 => if fld w 0 1 ≠ 0#1 then .error (.fixedField 0 0) else .ok .fmadd
  | 0x12#6 => if fld w 0 1 ≠ 0#1 then .error (.fixedField 0 0) else .ok .fmsub
  | 0x13#6 => if fld w 0 1 ≠ 0#1 then .error (.fixedField 0 0) else .ok .fnmadd
  | 0x14#6 => .ok .j
  | 0x15#6 => .ok .jal
  | 0x16#6 => .ok .jalr
  | 0x17#6 => decodeMajor17 w
  | 0x18#6 => decodeMajor18 w
  | 0x19#6 => decodeMajor19 w
  | 0x1A#6 => decodeMajor1A w
  | 0x1B#6 => decodeMajor1B w
  | 0x1C#6 => decodeMajor1C w
  | 0x1D#6 => decodeMajor1D w
  | 0x1E#6 => decodeMajor1E w
  | 0x1F#6 => if fld w 16 10 ≠ 0#10 then .error (.fixedField 25 16) else .ok .trap
  | 0x20#6 => decodeMajor20 w
  | 0x21#6 => decodeMajor21 w
  | 0x22#6 => decodeMajor22 w
  | 0x23#6 => decodeMajor23 w
  | 0x24#6 => decodeMajor24 w
  | 0x25#6 => decodeMajor25 w
  | 0x26#6 => decodeMajor26 w
  | 0x27#6 => decodeMajor27 w
  | 0x28#6 => decodeMajor28 w
  | 0x29#6 => decodeMajor29 w
  | 0x2A#6 => decodeMajor2A w
  | 0x2B#6 => decodeMajor2B w
  | 0x2C#6 => decodeMajor2C w
  | 0x2D#6 => decodeMajor2D w
  | 0x30#6 => decodeMajor30 w
  | 0x34#6 => .ok .fork
  | 0x35#6 => decodeMajor35 w
  | 0x38#6 => decodeMajor38 w
  | 0x39#6 => decodeMajor39 w
  | 0x3C#6 => decodeMajor3C w
  | 0x3F#6 => if fld w 0 13 ≠ 0#13 then .error (.fixedField 12 0) else .ok .pfx
  | m => .error (.unassignedMajor m)

/-- The operand checks of the instruction entries (Instr.wellFormed) on the fields of a word. -/
def Opcode.legal (op : Opcode) (w : Word32) : Bool :=
  match op with
  | .fadd => roundOk (fld w 6 3)
  | .fsub => roundOk (fld w 6 3)
  | .fmul => roundOk (fld w 6 3)
  | .fdiv => roundOk (fld w 6 3)
  | .fsqrt => roundOk (fld w 6 3)
  | .fcvtFF => (fld w 11 2) != (fld w 9 2) && roundOk (fld w 6 3)
  | .fcvtFI => roundOk (fld w 6 3)
  | .fcvtIF => roundOk (fld w 6 3)
  | .fmadd => roundOk (fld w 1 3)
  | .fmsub => roundOk (fld w 1 3)
  | .fnmadd => roundOk (fld w 1 3)
  | .ldbuAQ => scopeOk (fld w 5 3)
  | .ldhuAQ => scopeOk (fld w 5 3)
  | .ldwuAQ => scopeOk (fld w 5 3)
  | .lddAQ => scopeOk (fld w 5 3)
  | .stbRL => scopeOk (fld w 5 3)
  | .sthRL => scopeOk (fld w 5 3)
  | .stwRL => scopeOk (fld w 5 3)
  | .stdRL => scopeOk (fld w 5 3)
  | .amoadd => scopeOk (fld w 2 3)
  | .amoand => scopeOk (fld w 2 3)
  | .amoor => scopeOk (fld w 2 3)
  | .amoxor => scopeOk (fld w 2 3)
  | .amomin => scopeOk (fld w 2 3)
  | .amomax => scopeOk (fld w 2 3)
  | .amominu => scopeOk (fld w 2 3)
  | .amomaxu => scopeOk (fld w 2 3)
  | .amoswap => scopeOk (fld w 2 3)
  | .cas => scopeOk (fld w 2 3)
  | .ldsync => scopeOk (fld w 2 3)
  | .ldtake => scopeOk (fld w 2 3)
  | .stfill => scopeOk (fld w 2 3)
  | .feclr => scopeOk (fld w 2 3)
  | .feset => scopeOk (fld w 2 3)
  | .fence => (fld w 6 3) != 0 && (fld w 3 3) != 0 && scopeOk (fld w 0 3)
  | .vld => widthOk (fld w 1 2)
  | .vlds => widthOk (fld w 1 2)
  | .vldx => widthOk (fld w 1 2)
  | .vldseg => widthOk (fld w 1 2) && segOk (fld w 8 6)
  | .vstseg => segOk (fld w 8 6)
  | .vxpand => (fld w 8 6).toNat < 3
  | .fork => 0 < (fld w 0 16).toInt && (fld w 21 5) != (fld w 16 5) && (fld w 16 5) != 0
  | .sendi => (fld w 11 5).toNat ≤ 28
  | .widf => (fld w 0 6).toNat ≤ 5
  | .nred => (fld w 4 2) != 3 && (fld w 2 2) != 3
  | .pfx => (fld w 19 1) == 1 || (fld w 13 6) == 0
  | _ => true

/-- The row that a word spells, or the reason it is no instruction (R83 check 1). -/
def decodeOp (w : Word32) : Except DecodeError Opcode :=
  match selectOp w with
  | .ok op => if op.legal w then .ok op else .error (.illegalOperand op)
  | .error e => .error e

/-- The instruction of a row with the operands that a word's fields hold. (Noncomputable only because Lean compiles no term of a type
with more than 244 constructors that carry data; the kernel evaluates it.) -/
noncomputable def Opcode.build (op : Opcode) (w : Word32) : Instr :=
  match op with
  | .add => .add (fld w 21 5) (fld w 16 5) (fld w 11 5)
  | .sub => .sub (fld w 21 5) (fld w 16 5) (fld w 11 5)
  | .and => .and (fld w 21 5) (fld w 16 5) (fld w 11 5)
  | .or => .or (fld w 21 5) (fld w 16 5) (fld w 11 5)
  | .xor => .xor (fld w 21 5) (fld w 16 5) (fld w 11 5)
  | .andn => .andn (fld w 21 5) (fld w 16 5) (fld w 11 5)
  | .orn => .orn (fld w 21 5) (fld w 16 5) (fld w 11 5)
  | .xnor => .xnor (fld w 21 5) (fld w 16 5) (fld w 11 5)
  | .sll => .sll (fld w 21 5) (fld w 16 5) (fld w 11 5)
  | .srl => .srl (fld w 21 5) (fld w 16 5) (fld w 11 5)
  | .sra => .sra (fld w 21 5) (fld w 16 5) (fld w 11 5)
  | .rol => .rol (fld w 21 5) (fld w 16 5) (fld w 11 5)
  | .ror => .ror (fld w 21 5) (fld w 16 5) (fld w 11 5)
  | .min => .min (fld w 21 5) (fld w 16 5) (fld w 11 5)
  | .minu => .minu (fld w 21 5) (fld w 16 5) (fld w 11 5)
  | .max => .max (fld w 21 5) (fld w 16 5) (fld w 11 5)
  | .maxu => .maxu (fld w 21 5) (fld w 16 5) (fld w 11 5)
  | .seq => .seq (fld w 21 5) (fld w 16 5) (fld w 11 5)
  | .sne => .sne (fld w 21 5) (fld w 16 5) (fld w 11 5)
  | .slt => .slt (fld w 21 5) (fld w 16 5) (fld w 11 5)
  | .sltu => .sltu (fld w 21 5) (fld w 16 5) (fld w 11 5)
  | .mul => .mul (fld w 21 5) (fld w 16 5) (fld w 11 5)
  | .mulh => .mulh (fld w 21 5) (fld w 16 5) (fld w 11 5)
  | .mulhu => .mulhu (fld w 21 5) (fld w 16 5) (fld w 11 5)
  | .div => .div (fld w 21 5) (fld w 16 5) (fld w 11 5)
  | .divu => .divu (fld w 21 5) (fld w 16 5) (fld w 11 5)
  | .rem => .rem (fld w 21 5) (fld w 16 5) (fld w 11 5)
  | .remu => .remu (fld w 21 5) (fld w 16 5) (fld w 11 5)
  | .clz => .clz (fld w 21 5) (fld w 16 5)
  | .ctz => .ctz (fld w 21 5) (fld w 16 5)
  | .popc => .popc (fld w 21 5) (fld w 16 5)
  | .bext => .bext (fld w 21 5) (fld w 16 5) (fld w 11 5)
  | .bdep => .bdep (fld w 21 5) (fld w 16 5) (fld w 11 5)
  | .bswap => .bswap (fld w 21 5) (fld w 16 5)
  | .sextB => .sextB (fld w 21 5) (fld w 16 5)
  | .sextH => .sextH (fld w 21 5) (fld w 16 5)
  | .sextW => .sextW (fld w 21 5) (fld w 16 5)
  | .zextB => .zextB (fld w 21 5) (fld w 16 5)
  | .zextH => .zextH (fld w 21 5) (fld w 16 5)
  | .zextW => .zextW (fld w 21 5) (fld w 16 5)
  | .addi => .addi (fld w 21 5) (fld w 16 5) (fld w 0 16)
  | .andi => .andi (fld w 21 5) (fld w 16 5) (fld w 0 16)
  | .ori => .ori (fld w 21 5) (fld w 16 5) (fld w 0 16)
  | .xori => .xori (fld w 21 5) (fld w 16 5) (fld w 0 16)
  | .slli => .slli (fld w 21 5) (fld w 16 5) (fld w 0 6)
  | .srli => .srli (fld w 21 5) (fld w 16 5) (fld w 0 6)
  | .srai => .srai (fld w 21 5) (fld w 16 5) (fld w 0 6)
  | .slti => .slti (fld w 21 5) (fld w 16 5) (fld w 0 16)
  | .sltiu => .sltiu (fld w 21 5) (fld w 16 5) (fld w 0 16)
  | .movz => .movz (fld w 21 5) (fld w 16 2) (fld w 0 16)
  | .movk => .movk (fld w 21 5) (fld w 16 2) (fld w 0 16)
  | .fadd => .fadd (fld w 21 5) (fld w 16 5) (fld w 11 5) (fld w 9 2) (fld w 6 3)
  | .fsub => .fsub (fld w 21 5) (fld w 16 5) (fld w 11 5) (fld w 9 2) (fld w 6 3)
  | .fmul => .fmul (fld w 21 5) (fld w 16 5) (fld w 11 5) (fld w 9 2) (fld w 6 3)
  | .fdiv => .fdiv (fld w 21 5) (fld w 16 5) (fld w 11 5) (fld w 9 2) (fld w 6 3)
  | .fsqrt => .fsqrt (fld w 21 5) (fld w 16 5) (fld w 9 2) (fld w 6 3)
  | .fmin => .fmin (fld w 21 5) (fld w 16 5) (fld w 11 5) (fld w 9 2)
  | .fmax => .fmax (fld w 21 5) (fld w 16 5) (fld w 11 5) (fld w 9 2)
  | .feq => .feq (fld w 21 5) (fld w 16 5) (fld w 11 5) (fld w 9 2)
  | .flt => .flt (fld w 21 5) (fld w 16 5) (fld w 11 5) (fld w 9 2)
  | .fle => .fle (fld w 21 5) (fld w 16 5) (fld w 11 5) (fld w 9 2)
  | .fclass => .fclass (fld w 21 5) (fld w 16 5) (fld w 9 2)
  | .fsgnj => .fsgnj (fld w 21 5) (fld w 16 5) (fld w 11 5) (fld w 9 2)
  | .fsgnjn => .fsgnjn (fld w 21 5) (fld w 16 5) (fld w 11 5) (fld w 9 2)
  | .fsgnjx => .fsgnjx (fld w 21 5) (fld w 16 5) (fld w 11 5) (fld w 9 2)
  | .fcvtFF => .fcvtFF (fld w 21 5) (fld w 16 5) (fld w 11 2) (fld w 9 2) (fld w 6 3)
  | .fcvtFI => .fcvtFI (fld w 21 5) (fld w 16 5) (fld w 11 2) (fld w 9 2) (fld w 6 3)
  | .fcvtIF => .fcvtIF (fld w 21 5) (fld w 16 5) (fld w 11 2) (fld w 9 2) (fld w 6 3)
  | .fmadd => .fmadd (fld w 21 5) (fld w 16 5) (fld w 11 5) (fld w 6 5) (fld w 4 2) (fld w 1 3)
  | .fmsub => .fmsub (fld w 21 5) (fld w 16 5) (fld w 11 5) (fld w 6 5) (fld w 4 2) (fld w 1 3)
  | .fnmadd => .fnmadd (fld w 21 5) (fld w 16 5) (fld w 11 5) (fld w 6 5) (fld w 4 2) (fld w 1 3)
  | .j => .j (fld w 0 26)
  | .jal => .jal (fld w 0 26)
  | .jalr => .jalr (fld w 21 5) (fld w 16 5) (fld w 0 16)
  | .beq => .beq (fld w 21 5) (fld w 16 5) (fld w 0 13)
  | .bne => .bne (fld w 21 5) (fld w 16 5) (fld w 0 13)
  | .blt => .blt (fld w 21 5) (fld w 16 5) (fld w 0 13)
  | .bge => .bge (fld w 21 5) (fld w 16 5) (fld w 0 13)
  | .bltu => .bltu (fld w 21 5) (fld w 16 5) (fld w 0 13)
  | .bgeu => .bgeu (fld w 21 5) (fld w 16 5) (fld w 0 13)
  | .ldb => .ldb (fld w 21 5) (fld w 16 5) (fld w 0 13)
  | .ldbu => .ldbu (fld w 21 5) (fld w 16 5) (fld w 0 13)
  | .ldh => .ldh (fld w 21 5) (fld w 16 5) (fld w 0 13)
  | .ldhu => .ldhu (fld w 21 5) (fld w 16 5) (fld w 0 13)
  | .ldw => .ldw (fld w 21 5) (fld w 16 5) (fld w 0 13)
  | .ldwu => .ldwu (fld w 21 5) (fld w 16 5) (fld w 0 13)
  | .ldd => .ldd (fld w 21 5) (fld w 16 5) (fld w 0 13)
  | .stb => .stb (fld w 21 5) (fld w 16 5) (fld w 0 13)
  | .sth => .sth (fld w 21 5) (fld w 16 5) (fld w 0 13)
  | .stw => .stw (fld w 21 5) (fld w 16 5) (fld w 0 13)
  | .std => .std (fld w 21 5) (fld w 16 5) (fld w 0 13)
  | .ldbuAQ => .ldbuAQ (fld w 21 5) (fld w 16 5) (fld w 5 3)
  | .ldhuAQ => .ldhuAQ (fld w 21 5) (fld w 16 5) (fld w 5 3)
  | .ldwuAQ => .ldwuAQ (fld w 21 5) (fld w 16 5) (fld w 5 3)
  | .lddAQ => .lddAQ (fld w 21 5) (fld w 16 5) (fld w 5 3)
  | .stbRL => .stbRL (fld w 16 5) (fld w 11 5) (fld w 5 3)
  | .sthRL => .sthRL (fld w 16 5) (fld w 11 5) (fld w 5 3)
  | .stwRL => .stwRL (fld w 16 5) (fld w 11 5) (fld w 5 3)
  | .stdRL => .stdRL (fld w 16 5) (fld w 11 5) (fld w 5 3)
  | .amoadd => .amoadd (fld w 21 5) (fld w 16 5) (fld w 11 5) (fld w 5 1) (fld w 2 3) (fld w 0 2)
  | .amoand => .amoand (fld w 21 5) (fld w 16 5) (fld w 11 5) (fld w 5 1) (fld w 2 3) (fld w 0 2)
  | .amoor => .amoor (fld w 21 5) (fld w 16 5) (fld w 11 5) (fld w 5 1) (fld w 2 3) (fld w 0 2)
  | .amoxor => .amoxor (fld w 21 5) (fld w 16 5) (fld w 11 5) (fld w 5 1) (fld w 2 3) (fld w 0 2)
  | .amomin => .amomin (fld w 21 5) (fld w 16 5) (fld w 11 5) (fld w 5 1) (fld w 2 3) (fld w 0 2)
  | .amomax => .amomax (fld w 21 5) (fld w 16 5) (fld w 11 5) (fld w 5 1) (fld w 2 3) (fld w 0 2)
  | .amominu => .amominu (fld w 21 5) (fld w 16 5) (fld w 11 5) (fld w 5 1) (fld w 2 3) (fld w 0 2)
  | .amomaxu => .amomaxu (fld w 21 5) (fld w 16 5) (fld w 11 5) (fld w 5 1) (fld w 2 3) (fld w 0 2)
  | .amoswap => .amoswap (fld w 21 5) (fld w 16 5) (fld w 11 5) (fld w 5 1) (fld w 2 3) (fld w 0 2)
  | .cas => .cas (fld w 21 5) (fld w 16 5) (fld w 11 5) (fld w 5 1) (fld w 2 3) (fld w 0 2)
  | .ldsync => .ldsync (fld w 21 5) (fld w 16 5) (fld w 2 3)
  | .ldtake => .ldtake (fld w 21 5) (fld w 16 5) (fld w 2 3)
  | .stfill => .stfill (fld w 16 5) (fld w 11 5) (fld w 2 3)
  | .feclr => .feclr (fld w 16 5) (fld w 11 5) (fld w 2 3)
  | .feset => .feset (fld w 16 5) (fld w 11 5) (fld w 2 3)
  | .csrr => .csrr (fld w 21 5) (fld w 0 12)
  | .csrw => .csrw (fld w 21 5) (fld w 16 5) (fld w 0 12)
  | .csrs => .csrs (fld w 21 5) (fld w 16 5) (fld w 0 12)
  | .csrc => .csrc (fld w 21 5) (fld w 16 5) (fld w 0 12)
  | .fence => .fence (fld w 6 3) (fld w 3 3) (fld w 0 3)
  | .fenceSV => .fenceSV
  | .fenceVS => .fenceVS
  | .fenceVV => .fenceVV
  | .eret => .eret
  | .wfi => .wfi
  | .halt => .halt
  | .tlbinv => .tlbinv (fld w 16 5) (fld w 11 5)
  | .preempt => .preempt (fld w 16 5)
  | .ctxsave => .ctxsave (fld w 16 5) (fld w 11 5)
  | .ctxload => .ctxload (fld w 16 5) (fld w 11 5)
  | .reshape => .reshape (fld w 16 5) (fld w 11 5)
  | .trap => .trap (fld w 0 16)
  | .vsetvli => .vsetvli (fld w 20 5) (fld w 14 5) (fld w 10 4) (fld w 6 4)
  | .vsetvl => .vsetvl (fld w 20 5) (fld w 14 5) (fld w 9 5)
  | .vcfg => .vcfg (fld w 5 2)
  | .vaddVV => .vaddVV (fld w 20 6) (fld w 14 6) (fld w 8 6) (fld w 5 3) (fld w 0 1)
  | .vsubVV => .vsubVV (fld w 20 6) (fld w 14 6) (fld w 8 6) (fld w 5 3) (fld w 0 1)
  | .vmulVV => .vmulVV (fld w 20 6) (fld w 14 6) (fld w 8 6) (fld w 5 3) (fld w 0 1)
  | .vmulhVV => .vmulhVV (fld w 20 6) (fld w 14 6) (fld w 8 6) (fld w 5 3) (fld w 0 1)
  | .vdivVV => .vdivVV (fld w 20 6) (fld w 14 6) (fld w 8 6) (fld w 5 3) (fld w 0 1)
  | .vremVV => .vremVV (fld w 20 6) (fld w 14 6) (fld w 8 6) (fld w 5 3) (fld w 0 1)
  | .vminVV => .vminVV (fld w 20 6) (fld w 14 6) (fld w 8 6) (fld w 5 3) (fld w 0 1)
  | .vmaxVV => .vmaxVV (fld w 20 6) (fld w 14 6) (fld w 8 6) (fld w 5 3) (fld w 0 1)
  | .vandVV => .vandVV (fld w 20 6) (fld w 14 6) (fld w 8 6) (fld w 5 3) (fld w 0 1)
  | .vorVV => .vorVV (fld w 20 6) (fld w 14 6) (fld w 8 6) (fld w 5 3) (fld w 0 1)
  | .vxorVV => .vxorVV (fld w 20 6) (fld w 14 6) (fld w 8 6) (fld w 5 3) (fld w 0 1)
  | .vsllVV => .vsllVV (fld w 20 6) (fld w 14 6) (fld w 8 6) (fld w 5 3) (fld w 0 1)
  | .vsrlVV => .vsrlVV (fld w 20 6) (fld w 14 6) (fld w 8 6) (fld w 5 3) (fld w 0 1)
  | .vsraVV => .vsraVV (fld w 20 6) (fld w 14 6) (fld w 8 6) (fld w 5 3) (fld w 0 1)
  | .vsaddVV => .vsaddVV (fld w 20 6) (fld w 14 6) (fld w 8 6) (fld w 5 3) (fld w 0 1)
  | .vssubVV => .vssubVV (fld w 20 6) (fld w 14 6) (fld w 8 6) (fld w 5 3) (fld w 0 1)
  | .vaddVS => .vaddVS (fld w 20 6) (fld w 14 6) (fld w 9 5) (fld w 5 3) (fld w 0 1)
  | .vsubVS => .vsubVS (fld w 20 6) (fld w 14 6) (fld w 9 5) (fld w 5 3) (fld w 0 1)
  | .vmulVS => .vmulVS (fld w 20 6) (fld w 14 6) (fld w 9 5) (fld w 5 3) (fld w 0 1)
  | .vmulhVS => .vmulhVS (fld w 20 6) (fld w 14 6) (fld w 9 5) (fld w 5 3) (fld w 0 1)
  | .vdivVS => .vdivVS (fld w 20 6) (fld w 14 6) (fld w 9 5) (fld w 5 3) (fld w 0 1)
  | .vremVS => .vremVS (fld w 20 6) (fld w 14 6) (fld w 9 5) (fld w 5 3) (fld w 0 1)
  | .vminVS => .vminVS (fld w 20 6) (fld w 14 6) (fld w 9 5) (fld w 5 3) (fld w 0 1)
  | .vmaxVS => .vmaxVS (fld w 20 6) (fld w 14 6) (fld w 9 5) (fld w 5 3) (fld w 0 1)
  | .vandVS => .vandVS (fld w 20 6) (fld w 14 6) (fld w 9 5) (fld w 5 3) (fld w 0 1)
  | .vorVS => .vorVS (fld w 20 6) (fld w 14 6) (fld w 9 5) (fld w 5 3) (fld w 0 1)
  | .vxorVS => .vxorVS (fld w 20 6) (fld w 14 6) (fld w 9 5) (fld w 5 3) (fld w 0 1)
  | .vsllVS => .vsllVS (fld w 20 6) (fld w 14 6) (fld w 9 5) (fld w 5 3) (fld w 0 1)
  | .vsrlVS => .vsrlVS (fld w 20 6) (fld w 14 6) (fld w 9 5) (fld w 5 3) (fld w 0 1)
  | .vsraVS => .vsraVS (fld w 20 6) (fld w 14 6) (fld w 9 5) (fld w 5 3) (fld w 0 1)
  | .vsaddVS => .vsaddVS (fld w 20 6) (fld w 14 6) (fld w 9 5) (fld w 5 3) (fld w 0 1)
  | .vssubVS => .vssubVS (fld w 20 6) (fld w 14 6) (fld w 9 5) (fld w 5 3) (fld w 0 1)
  | .vrsubVS => .vrsubVS (fld w 20 6) (fld w 14 6) (fld w 9 5) (fld w 5 3) (fld w 0 1)
  | .vmaddVS => .vmaddVS (fld w 20 6) (fld w 14 6) (fld w 9 5) (fld w 5 3) (fld w 0 1)
  | .vmsacVS => .vmsacVS (fld w 20 6) (fld w 14 6) (fld w 9 5) (fld w 5 3) (fld w 0 1)
  | .vwaddVS => .vwaddVS (fld w 20 6) (fld w 14 6) (fld w 9 5) (fld w 5 3) (fld w 0 1)
  | .vwmulVS => .vwmulVS (fld w 20 6) (fld w 14 6) (fld w 9 5) (fld w 5 3) (fld w 0 1)
  | .vaddVI => .vaddVI (fld w 20 6) (fld w 14 6) (fld w 8 6) (fld w 5 3) (fld w 0 1)
  | .vrsubVI => .vrsubVI (fld w 20 6) (fld w 14 6) (fld w 8 6) (fld w 5 3) (fld w 0 1)
  | .vandVI => .vandVI (fld w 20 6) (fld w 14 6) (fld w 8 6) (fld w 5 3) (fld w 0 1)
  | .vorVI => .vorVI (fld w 20 6) (fld w 14 6) (fld w 8 6) (fld w 5 3) (fld w 0 1)
  | .vxorVI => .vxorVI (fld w 20 6) (fld w 14 6) (fld w 8 6) (fld w 5 3) (fld w 0 1)
  | .vsllVI => .vsllVI (fld w 20 6) (fld w 14 6) (fld w 8 6) (fld w 5 3) (fld w 0 1)
  | .vsrlVI => .vsrlVI (fld w 20 6) (fld w 14 6) (fld w 8 6) (fld w 5 3) (fld w 0 1)
  | .vsraVI => .vsraVI (fld w 20 6) (fld w 14 6) (fld w 8 6) (fld w 5 3) (fld w 0 1)
  | .vsaddVI => .vsaddVI (fld w 20 6) (fld w 14 6) (fld w 8 6) (fld w 5 3) (fld w 0 1)
  | .vminVI => .vminVI (fld w 20 6) (fld w 14 6) (fld w 8 6) (fld w 5 3) (fld w 0 1)
  | .vmaxVI => .vmaxVI (fld w 20 6) (fld w 14 6) (fld w 8 6) (fld w 5 3) (fld w 0 1)
  | .vmaddVV => .vmaddVV (fld w 20 6) (fld w 14 6) (fld w 8 6) (fld w 5 3) (fld w 0 1)
  | .vmsacVV => .vmsacVV (fld w 20 6) (fld w 14 6) (fld w 8 6) (fld w 5 3) (fld w 0 1)
  | .vwaddVV => .vwaddVV (fld w 20 6) (fld w 14 6) (fld w 8 6) (fld w 5 3) (fld w 0 1)
  | .vwmulVV => .vwmulVV (fld w 20 6) (fld w 14 6) (fld w 8 6) (fld w 5 3) (fld w 0 1)
  | .vdot4 => .vdot4 (fld w 20 6) (fld w 14 6) (fld w 8 6) (fld w 5 3) (fld w 0 1)
  | .vdot4Sat => .vdot4Sat (fld w 20 6) (fld w 14 6) (fld w 8 6) (fld w 5 3) (fld w 0 1)
  | .vfaddVV => .vfaddVV (fld w 20 6) (fld w 14 6) (fld w 8 6) (fld w 5 3) (fld w 0 1)
  | .vfsubVV => .vfsubVV (fld w 20 6) (fld w 14 6) (fld w 8 6) (fld w 5 3) (fld w 0 1)
  | .vfmulVV => .vfmulVV (fld w 20 6) (fld w 14 6) (fld w 8 6) (fld w 5 3) (fld w 0 1)
  | .vfdivVV => .vfdivVV (fld w 20 6) (fld w 14 6) (fld w 8 6) (fld w 5 3) (fld w 0 1)
  | .vfsqrt => .vfsqrt (fld w 20 6) (fld w 14 6) (fld w 5 3) (fld w 0 1)
  | .vfrsqrt => .vfrsqrt (fld w 20 6) (fld w 14 6) (fld w 5 3) (fld w 0 1)
  | .vfmaVV => .vfmaVV (fld w 20 6) (fld w 14 6) (fld w 8 6) (fld w 5 3) (fld w 0 1)
  | .vfmsVV => .vfmsVV (fld w 20 6) (fld w 14 6) (fld w 8 6) (fld w 5 3) (fld w 0 1)
  | .vfnmaVV => .vfnmaVV (fld w 20 6) (fld w 14 6) (fld w 8 6) (fld w 5 3) (fld w 0 1)
  | .vfminVV => .vfminVV (fld w 20 6) (fld w 14 6) (fld w 8 6) (fld w 5 3) (fld w 0 1)
  | .vfmaxVV => .vfmaxVV (fld w 20 6) (fld w 14 6) (fld w 8 6) (fld w 5 3) (fld w 0 1)
  | .vfclass => .vfclass (fld w 20 6) (fld w 14 6) (fld w 5 3) (fld w 0 1)
  | .vfsgnjVV => .vfsgnjVV (fld w 20 6) (fld w 14 6) (fld w 8 6) (fld w 5 3) (fld w 0 1)
  | .vfsgnjnVV => .vfsgnjnVV (fld w 20 6) (fld w 14 6) (fld w 8 6) (fld w 5 3) (fld w 0 1)
  | .vfsgnjxVV => .vfsgnjxVV (fld w 20 6) (fld w 14 6) (fld w 8 6) (fld w 5 3) (fld w 0 1)
  | .vfaddVS => .vfaddVS (fld w 20 6) (fld w 14 6) (fld w 9 5) (fld w 5 3) (fld w 0 1)
  | .vfsubVS => .vfsubVS (fld w 20 6) (fld w 14 6) (fld w 9 5) (fld w 5 3) (fld w 0 1)
  | .vfmulVS => .vfmulVS (fld w 20 6) (fld w 14 6) (fld w 9 5) (fld w 5 3) (fld w 0 1)
  | .vfdivVS => .vfdivVS (fld w 20 6) (fld w 14 6) (fld w 9 5) (fld w 5 3) (fld w 0 1)
  | .vfmaVS => .vfmaVS (fld w 20 6) (fld w 14 6) (fld w 9 5) (fld w 5 3) (fld w 0 1)
  | .vfmsVS => .vfmsVS (fld w 20 6) (fld w 14 6) (fld w 9 5) (fld w 5 3) (fld w 0 1)
  | .vfnmaVS => .vfnmaVS (fld w 20 6) (fld w 14 6) (fld w 9 5) (fld w 5 3) (fld w 0 1)
  | .vfminVS => .vfminVS (fld w 20 6) (fld w 14 6) (fld w 9 5) (fld w 5 3) (fld w 0 1)
  | .vfmaxVS => .vfmaxVS (fld w 20 6) (fld w 14 6) (fld w 9 5) (fld w 5 3) (fld w 0 1)
  | .vfsgnjVS => .vfsgnjVS (fld w 20 6) (fld w 14 6) (fld w 9 5) (fld w 5 3) (fld w 0 1)
  | .vfsgnjnVS => .vfsgnjnVS (fld w 20 6) (fld w 14 6) (fld w 9 5) (fld w 5 3) (fld w 0 1)
  | .vfsgnjxVS => .vfsgnjxVS (fld w 20 6) (fld w 14 6) (fld w 9 5) (fld w 5 3) (fld w 0 1)
  | .vmseqVV => .vmseqVV (fld w 20 3) (fld w 14 6) (fld w 8 6) (fld w 5 3) (fld w 0 1)
  | .vmsneVV => .vmsneVV (fld w 20 3) (fld w 14 6) (fld w 8 6) (fld w 5 3) (fld w 0 1)
  | .vmsltVV => .vmsltVV (fld w 20 3) (fld w 14 6) (fld w 8 6) (fld w 5 3) (fld w 0 1)
  | .vmsleVV => .vmsleVV (fld w 20 3) (fld w 14 6) (fld w 8 6) (fld w 5 3) (fld w 0 1)
  | .vmfeqVV => .vmfeqVV (fld w 20 3) (fld w 14 6) (fld w 8 6) (fld w 5 3) (fld w 0 1)
  | .vmfltVV => .vmfltVV (fld w 20 3) (fld w 14 6) (fld w 8 6) (fld w 5 3) (fld w 0 1)
  | .vmfleVV => .vmfleVV (fld w 20 3) (fld w 14 6) (fld w 8 6) (fld w 5 3) (fld w 0 1)
  | .vmseqVS => .vmseqVS (fld w 20 3) (fld w 14 6) (fld w 9 5) (fld w 5 3) (fld w 0 1)
  | .vmsneVS => .vmsneVS (fld w 20 3) (fld w 14 6) (fld w 9 5) (fld w 5 3) (fld w 0 1)
  | .vmsltVS => .vmsltVS (fld w 20 3) (fld w 14 6) (fld w 9 5) (fld w 5 3) (fld w 0 1)
  | .vmsleVS => .vmsleVS (fld w 20 3) (fld w 14 6) (fld w 9 5) (fld w 5 3) (fld w 0 1)
  | .vmfeqVS => .vmfeqVS (fld w 20 3) (fld w 14 6) (fld w 9 5) (fld w 5 3) (fld w 0 1)
  | .vmfltVS => .vmfltVS (fld w 20 3) (fld w 14 6) (fld w 9 5) (fld w 5 3) (fld w 0 1)
  | .vmfleVS => .vmfleVS (fld w 20 3) (fld w 14 6) (fld w 9 5) (fld w 5 3) (fld w 0 1)
  | .vmand => .vmand (fld w 20 3) (fld w 14 3) (fld w 8 3) (fld w 5 3) (fld w 0 1)
  | .vmor => .vmor (fld w 20 3) (fld w 14 3) (fld w 8 3) (fld w 5 3) (fld w 0 1)
  | .vmxor => .vmxor (fld w 20 3) (fld w 14 3) (fld w 8 3) (fld w 5 3) (fld w 0 1)
  | .vmandn => .vmandn (fld w 20 3) (fld w 14 3) (fld w 8 3) (fld w 5 3) (fld w 0 1)
  | .vcpop => .vcpop (fld w 20 5) (fld w 14 3) (fld w 5 3) (fld w 0 1)
  | .vfirst => .vfirst (fld w 20 5) (fld w 14 3) (fld w 5 3) (fld w 0 1)
  | .vmvVV => .vmvVV (fld w 20 6) (fld w 14 6) (fld w 5 3) (fld w 0 1)
  | .vmvsx => .vmvsx (fld w 20 6) (fld w 9 5) (fld w 5 3) (fld w 0 1)
  | .vmvxs => .vmvxs (fld w 20 5) (fld w 14 6) (fld w 5 3) (fld w 0 1)
  | .vslideupVS => .vslideupVS (fld w 20 6) (fld w 14 6) (fld w 9 5) (fld w 5 3) (fld w 0 1)
  | .vslidednVS => .vslidednVS (fld w 20 6) (fld w 14 6) (fld w 9 5) (fld w 5 3) (fld w 0 1)
  | .vslideupVI => .vslideupVI (fld w 20 6) (fld w 14 6) (fld w 8 6) (fld w 5 3) (fld w 0 1)
  | .vslidednVI => .vslidednVI (fld w 20 6) (fld w 14 6) (fld w 8 6) (fld w 5 3) (fld w 0 1)
  | .vperm => .vperm (fld w 20 6) (fld w 14 6) (fld w 8 6) (fld w 5 3) (fld w 0 1)
  | .vcompress => .vcompress (fld w 20 6) (fld w 14 6) (fld w 5 3) (fld w 0 1)
  | .viota => .viota (fld w 20 6) (fld w 5 3) (fld w 0 1)
  | .vid => .vid (fld w 20 6) (fld w 5 3) (fld w 0 1)
  | .vnzscan => .vnzscan (fld w 20 6) (fld w 14 6) (fld w 9 5) (fld w 5 3) (fld w 0 1)
  | .vconfl => .vconfl (fld w 20 3) (fld w 14 6) (fld w 5 3) (fld w 0 1)
  | .vmvVI => .vmvVI (fld w 20 6) (fld w 8 6) (fld w 5 3) (fld w 0 1)
  | .vmvVS => .vmvVS (fld w 20 6) (fld w 9 5) (fld w 5 3) (fld w 0 1)
  | .vredsum => .vredsum (fld w 20 5) (fld w 14 6) (fld w 9 5) (fld w 5 3) (fld w 0 1)
  | .vredmin => .vredmin (fld w 20 5) (fld w 14 6) (fld w 9 5) (fld w 5 3) (fld w 0 1)
  | .vredmax => .vredmax (fld w 20 5) (fld w 14 6) (fld w 9 5) (fld w 5 3) (fld w 0 1)
  | .vredand => .vredand (fld w 20 5) (fld w 14 6) (fld w 9 5) (fld w 5 3) (fld w 0 1)
  | .vredor => .vredor (fld w 20 5) (fld w 14 6) (fld w 9 5) (fld w 5 3) (fld w 0 1)
  | .vfredsum => .vfredsum (fld w 20 5) (fld w 14 6) (fld w 9 5) (fld w 5 3) (fld w 0 1)
  | .vfredosum => .vfredosum (fld w 20 5) (fld w 14 6) (fld w 9 5) (fld w 5 3) (fld w 0 1)
  | .vfredmin => .vfredmin (fld w 20 5) (fld w 14 6) (fld w 9 5) (fld w 5 3) (fld w 0 1)
  | .vfredmax => .vfredmax (fld w 20 5) (fld w 14 6) (fld w 9 5) (fld w 5 3) (fld w 0 1)
  | .vld => .vld (fld w 20 6) (fld w 14 5) (fld w 5 3) (fld w 1 2) (fld w 0 1)
  | .vlds => .vlds (fld w 20 6) (fld w 14 5) (fld w 9 5) (fld w 5 3) (fld w 1 2) (fld w 0 1)
  | .vldx => .vldx (fld w 20 6) (fld w 14 5) (fld w 8 6) (fld w 5 3) (fld w 1 2) (fld w 0 1)
  | .vldseg => .vldseg (fld w 20 6) (fld w 14 5) (fld w 8 6) (fld w 5 3) (fld w 1 2) (fld w 0 1)
  | .vst => .vst (fld w 20 6) (fld w 14 5) (fld w 5 3) (fld w 0 1)
  | .vsts => .vsts (fld w 20 6) (fld w 14 5) (fld w 9 5) (fld w 5 3) (fld w 0 1)
  | .vstx => .vstx (fld w 20 6) (fld w 14 5) (fld w 8 6) (fld w 5 3) (fld w 0 1)
  | .vstseg => .vstseg (fld w 20 6) (fld w 14 5) (fld w 8 6) (fld w 5 3) (fld w 0 1)
  | .vcvt => .vcvt (fld w 20 6) (fld w 14 6) (fld w 8 4) (fld w 5 3) (fld w 0 1)
  | .vxpand => .vxpand (fld w 20 6) (fld w 14 6) (fld w 8 6) (fld w 5 3) (fld w 0 1)
  | .vqblkF4 => .vqblkF4 (fld w 20 6) (fld w 14 6) (fld w 8 6) (fld w 5 3) (fld w 0 1)
  | .vqblkI8 => .vqblkI8 (fld w 20 6) (fld w 14 6) (fld w 8 6) (fld w 5 3) (fld w 0 1)
  | .vdqblkF4 => .vdqblkF4 (fld w 20 6) (fld w 14 6) (fld w 8 6) (fld w 5 3) (fld w 0 1)
  | .vdqblkI8 => .vdqblkI8 (fld w 20 6) (fld w 14 6) (fld w 8 6) (fld w 5 3) (fld w 0 1)
  | .tshape => .tshape (fld w 18 5)
  | .tzero => .tzero (fld w 24 2)
  | .tlda => .tlda (fld w 18 5) (fld w 12 5)
  | .tldb => .tldb (fld w 18 5) (fld w 12 5)
  | .tmma => .tmma (fld w 24 2)
  | .tmmaSX => .tmmaSX (fld w 24 2)
  | .tstz => .tstz (fld w 24 2) (fld w 18 5) (fld w 12 5)
  | .tmvz => .tmvz (fld w 24 2) (fld w 18 6) (fld w 12 5)
  | .tldaMC => .tldaMC (fld w 18 5) (fld w 12 5) (fld w 3 5)
  | .tldbMC => .tldbMC (fld w 18 5) (fld w 12 5) (fld w 3 5)
  | .tmmaSat => .tmmaSat (fld w 24 2)
  | .fork => .fork (fld w 21 5) (fld w 16 5) (fld w 0 16)
  | .join => .join
  | .keywait => .keywait
  | .doneStrand => .doneStrand
  | .waitmsg => .waitmsg (fld w 16 5)
  | .send => .send (fld w 16 5) (fld w 11 5)
  | .sendi => .sendi (fld w 16 5) (fld w 11 5)
  | .rgsetl => .rgsetl (fld w 22 4) (fld w 16 5)
  | .widf => .widf (fld w 21 5) (fld w 0 6)
  | .sbind => .sbind (fld w 16 5) (fld w 0 6)
  | .sunbind => .sunbind (fld w 0 6)
  | .sdrain => .sdrain (fld w 0 6)
  | .scopy => .scopy (fld w 16 5) (fld w 11 5)
  | .scopyF => .scopyF (fld w 16 5) (fld w 11 5)
  | .sisectC => .sisectC (fld w 21 5) (fld w 16 3) (fld w 11 3)
  | .sisectW => .sisectW (fld w 21 5) (fld w 16 3) (fld w 11 3) (fld w 0 6)
  | .cqwait => .cqwait
  | .cqpop => .cqpop (fld w 22 4)
  | .walk => .walk (fld w 16 5) (fld w 11 5)
  | .chase => .chase (fld w 20 6) (fld w 14 6) (fld w 9 5) (fld w 5 3)
  | .pgather => .pgather (fld w 20 6) (fld w 14 6) (fld w 9 5) (fld w 5 3)
  | .grpset => .grpset (fld w 16 5) (fld w 11 5)
  | .grpfree => .grpfree (fld w 16 5)
  | .nred => .nred (fld w 16 5) (fld w 11 5) (fld w 4 2) (fld w 2 2)
  | .nmcast => .nmcast (fld w 16 5) (fld w 11 5)
  | .gswOut => .gswOut (fld w 16 5)
  | .gswIN => .gswIN (fld w 16 5)
  | .pfx => .pfx (fld w 25 1) (fld w 20 5) (fld w 19 1) (fld w 13 6)

/-- The instruction of a word, or the reason it is none (R83 check 1). -/
noncomputable def decode (w : Word32) : Except DecodeError Instr :=
  match decodeOp w with
  | .ok op => .ok (op.build w)
  | .error e => .error e

/-- The instruction at the head of a list of bytes, first byte at the lowest address (R4), with the bytes that follow it; none where
fewer than four bytes stand there. -/
noncomputable def decodeBytes : List Byte → Option (Except DecodeError Instr × List Byte)
  | b0 :: b1 :: b2 :: b3 :: rest => some (decode (b3 ++ b2 ++ b1 ++ b0), rest)
  | _ => none

/-- The decoder on a word of opcode_table.json: w numbered with bit 0 least significant; the word is laid out in memory and decoded. -/
noncomputable def decodeTableWord (nbits w : Nat) : Option Instr :=
  let x : Word32 := BitVec.ofNat 32 (w % 2 ^ nbits)
  match decodeBytes [fld x 0 8, fld x 8 8, fld x 16 8, fld x 24 8] with
  | some (.ok i, _) => some i
  | _ => none

/-- The word of an instruction, from the formats of R80 to R105; none for an operation of the device, which has no encoding. -/
def encode : Instr → Option Word32
  | .add d a b => some (0x1#6 ++ d ++ a ++ b ++ 0x0#11)
  | .sub d a b => some (0x1#6 ++ d ++ a ++ b ++ 0x1#11)
  | .and d a b => some (0x1#6 ++ d ++ a ++ b ++ 0x2#11)
  | .or d a b => some (0x1#6 ++ d ++ a ++ b ++ 0x3#11)
  | .xor d a b => some (0x1#6 ++ d ++ a ++ b ++ 0x4#11)
  | .andn d a b => some (0x1#6 ++ d ++ a ++ b ++ 0x5#11)
  | .orn d a b => some (0x1#6 ++ d ++ a ++ b ++ 0x6#11)
  | .xnor d a b => some (0x1#6 ++ d ++ a ++ b ++ 0x7#11)
  | .sll d a b => some (0x1#6 ++ d ++ a ++ b ++ 0x8#11)
  | .srl d a b => some (0x1#6 ++ d ++ a ++ b ++ 0x9#11)
  | .sra d a b => some (0x1#6 ++ d ++ a ++ b ++ 0xA#11)
  | .rol d a b => some (0x1#6 ++ d ++ a ++ b ++ 0xB#11)
  | .ror d a b => some (0x1#6 ++ d ++ a ++ b ++ 0xC#11)
  | .min d a b => some (0x1#6 ++ d ++ a ++ b ++ 0xD#11)
  | .minu d a b => some (0x1#6 ++ d ++ a ++ b ++ 0xE#11)
  | .max d a b => some (0x1#6 ++ d ++ a ++ b ++ 0xF#11)
  | .maxu d a b => some (0x1#6 ++ d ++ a ++ b ++ 0x10#11)
  | .seq d a b => some (0x1#6 ++ d ++ a ++ b ++ 0x11#11)
  | .sne d a b => some (0x1#6 ++ d ++ a ++ b ++ 0x12#11)
  | .slt d a b => some (0x1#6 ++ d ++ a ++ b ++ 0x13#11)
  | .sltu d a b => some (0x1#6 ++ d ++ a ++ b ++ 0x14#11)
  | .mul d a b => some (0x2#6 ++ d ++ a ++ b ++ 0x0#11)
  | .mulh d a b => some (0x2#6 ++ d ++ a ++ b ++ 0x1#11)
  | .mulhu d a b => some (0x2#6 ++ d ++ a ++ b ++ 0x2#11)
  | .div d a b => some (0x2#6 ++ d ++ a ++ b ++ 0x3#11)
  | .divu d a b => some (0x2#6 ++ d ++ a ++ b ++ 0x4#11)
  | .rem d a b => some (0x2#6 ++ d ++ a ++ b ++ 0x5#11)
  | .remu d a b => some (0x2#6 ++ d ++ a ++ b ++ 0x6#11)
  | .clz d a => some (0x3#6 ++ d ++ a ++ 0x0#16)
  | .ctz d a => some (0x3#6 ++ d ++ a ++ 0x1#16)
  | .popc d a => some (0x3#6 ++ d ++ a ++ 0x2#16)
  | .bext d a b => some (0x3#6 ++ d ++ a ++ b ++ 0x3#11)
  | .bdep d a b => some (0x3#6 ++ d ++ a ++ b ++ 0x4#11)
  | .bswap d a => some (0x3#6 ++ d ++ a ++ 0x5#16)
  | .sextB d a => some (0x3#6 ++ d ++ a ++ 0x6#16)
  | .sextH d a => some (0x3#6 ++ d ++ a ++ 0x7#16)
  | .sextW d a => some (0x3#6 ++ d ++ a ++ 0x8#16)
  | .zextB d a => some (0x3#6 ++ d ++ a ++ 0x9#16)
  | .zextH d a => some (0x3#6 ++ d ++ a ++ 0xA#16)
  | .zextW d a => some (0x3#6 ++ d ++ a ++ 0xB#16)
  | .addi d a imm => some (0x4#6 ++ d ++ a ++ imm)
  | .andi d a imm => some (0x5#6 ++ d ++ a ++ imm)
  | .ori d a imm => some (0x6#6 ++ d ++ a ++ imm)
  | .xori d a imm => some (0x7#6 ++ d ++ a ++ imm)
  | .slli d a n => some (0x8#6 ++ d ++ a ++ 0x0#10 ++ n)
  | .srli d a n => some (0x8#6 ++ d ++ a ++ 0x1#10 ++ n)
  | .srai d a n => some (0x8#6 ++ d ++ a ++ 0x2#10 ++ n)
  | .slti d a imm => some (0x9#6 ++ d ++ a ++ imm)
  | .sltiu d a imm => some (0xA#6 ++ d ++ a ++ imm)
  | .movz d n imm => some (0xB#6 ++ d ++ 0x0#3 ++ n ++ imm)
  | .movk d n imm => some (0xC#6 ++ d ++ 0x0#3 ++ n ++ imm)
  | .fadd d a b ty rm => some (0x10#6 ++ d ++ a ++ b ++ ty ++ rm ++ 0x0#6)
  | .fsub d a b ty rm => some (0x10#6 ++ d ++ a ++ b ++ ty ++ rm ++ 0x1#6)
  | .fmul d a b ty rm => some (0x10#6 ++ d ++ a ++ b ++ ty ++ rm ++ 0x2#6)
  | .fdiv d a b ty rm => some (0x10#6 ++ d ++ a ++ b ++ ty ++ rm ++ 0x3#6)
  | .fsqrt d a ty rm => some (0x10#6 ++ d ++ a ++ 0x0#5 ++ ty ++ rm ++ 0x4#6)
  | .fmin d a b ty => some (0x10#6 ++ d ++ a ++ b ++ ty ++ 0x5#9)
  | .fmax d a b ty => some (0x10#6 ++ d ++ a ++ b ++ ty ++ 0x6#9)
  | .feq d a b ty => some (0x10#6 ++ d ++ a ++ b ++ ty ++ 0x7#9)
  | .flt d a b ty => some (0x10#6 ++ d ++ a ++ b ++ ty ++ 0x8#9)
  | .fle d a b ty => some (0x10#6 ++ d ++ a ++ b ++ ty ++ 0x9#9)
  | .fclass d a ty => some (0x10#6 ++ d ++ a ++ 0x0#5 ++ ty ++ 0xA#9)
  | .fsgnj d a b ty => some (0x10#6 ++ d ++ a ++ b ++ ty ++ 0xB#9)
  | .fsgnjn d a b ty => some (0x10#6 ++ d ++ a ++ b ++ ty ++ 0xC#9)
  | .fsgnjx d a b ty => some (0x10#6 ++ d ++ a ++ b ++ ty ++ 0xD#9)
  | .fcvtFF d a s ty rm => some (0x10#6 ++ d ++ a ++ 0x0#3 ++ s ++ ty ++ rm ++ 0x10#6)
  | .fcvtFI d a s ty rm => some (0x10#6 ++ d ++ a ++ 0x0#3 ++ s ++ ty ++ rm ++ 0x11#6)
  | .fcvtIF d a s ty rm => some (0x10#6 ++ d ++ a ++ 0x0#3 ++ s ++ ty ++ rm ++ 0x12#6)
  | .fmadd d a b c ty rm => some (0x11#6 ++ d ++ a ++ b ++ c ++ ty ++ rm ++ 0x0#1)
  | .fmsub d a b c ty rm => some (0x12#6 ++ d ++ a ++ b ++ c ++ ty ++ rm ++ 0x0#1)
  | .fnmadd d a b c ty rm => some (0x13#6 ++ d ++ a ++ b ++ c ++ ty ++ rm ++ 0x0#1)
  | .j off => some (0x14#6 ++ off)
  | .jal off => some (0x15#6 ++ off)
  | .jalr d a imm => some (0x16#6 ++ d ++ a ++ imm)
  | .beq a b off => some (0x17#6 ++ a ++ b ++ 0x0#3 ++ off)
  | .bne a b off => some (0x17#6 ++ a ++ b ++ 0x1#3 ++ off)
  | .blt a b off => some (0x17#6 ++ a ++ b ++ 0x2#3 ++ off)
  | .bge a b off => some (0x17#6 ++ a ++ b ++ 0x3#3 ++ off)
  | .bltu a b off => some (0x17#6 ++ a ++ b ++ 0x4#3 ++ off)
  | .bgeu a b off => some (0x17#6 ++ a ++ b ++ 0x5#3 ++ off)
  | .ldb d a off => some (0x18#6 ++ d ++ a ++ 0x0#3 ++ off)
  | .ldbu d a off => some (0x18#6 ++ d ++ a ++ 0x1#3 ++ off)
  | .ldh d a off => some (0x18#6 ++ d ++ a ++ 0x2#3 ++ off)
  | .ldhu d a off => some (0x18#6 ++ d ++ a ++ 0x3#3 ++ off)
  | .ldw d a off => some (0x18#6 ++ d ++ a ++ 0x4#3 ++ off)
  | .ldwu d a off => some (0x18#6 ++ d ++ a ++ 0x5#3 ++ off)
  | .ldd d a off => some (0x18#6 ++ d ++ a ++ 0x6#3 ++ off)
  | .stb d a off => some (0x19#6 ++ d ++ a ++ 0x0#3 ++ off)
  | .sth d a off => some (0x19#6 ++ d ++ a ++ 0x1#3 ++ off)
  | .stw d a off => some (0x19#6 ++ d ++ a ++ 0x2#3 ++ off)
  | .std d a off => some (0x19#6 ++ d ++ a ++ 0x3#3 ++ off)
  | .ldbuAQ d a scope => some (0x1A#6 ++ d ++ a ++ 0x0#8 ++ scope ++ 0x0#5)
  | .ldhuAQ d a scope => some (0x1A#6 ++ d ++ a ++ 0x1#8 ++ scope ++ 0x0#5)
  | .ldwuAQ d a scope => some (0x1A#6 ++ d ++ a ++ 0x2#8 ++ scope ++ 0x0#5)
  | .lddAQ d a scope => some (0x1A#6 ++ d ++ a ++ 0x3#8 ++ scope ++ 0x0#5)
  | .stbRL a b scope => some (0x1A#6 ++ 0x0#5 ++ a ++ b ++ 0x4#3 ++ scope ++ 0x0#5)
  | .sthRL a b scope => some (0x1A#6 ++ 0x0#5 ++ a ++ b ++ 0x5#3 ++ scope ++ 0x0#5)
  | .stwRL a b scope => some (0x1A#6 ++ 0x0#5 ++ a ++ b ++ 0x6#3 ++ scope ++ 0x0#5)
  | .stdRL a b scope => some (0x1A#6 ++ 0x0#5 ++ a ++ b ++ 0x7#3 ++ scope ++ 0x0#5)
  | .amoadd d a b wd scope ord => some (0x1B#6 ++ d ++ a ++ b ++ 0x0#5 ++ wd ++ scope ++ ord)
  | .amoand d a b wd scope ord => some (0x1B#6 ++ d ++ a ++ b ++ 0x1#5 ++ wd ++ scope ++ ord)
  | .amoor d a b wd scope ord => some (0x1B#6 ++ d ++ a ++ b ++ 0x2#5 ++ wd ++ scope ++ ord)
  | .amoxor d a b wd scope ord => some (0x1B#6 ++ d ++ a ++ b ++ 0x3#5 ++ wd ++ scope ++ ord)
  | .amomin d a b wd scope ord => some (0x1B#6 ++ d ++ a ++ b ++ 0x4#5 ++ wd ++ scope ++ ord)
  | .amomax d a b wd scope ord => some (0x1B#6 ++ d ++ a ++ b ++ 0x5#5 ++ wd ++ scope ++ ord)
  | .amominu d a b wd scope ord => some (0x1B#6 ++ d ++ a ++ b ++ 0x6#5 ++ wd ++ scope ++ ord)
  | .amomaxu d a b wd scope ord => some (0x1B#6 ++ d ++ a ++ b ++ 0x7#5 ++ wd ++ scope ++ ord)
  | .amoswap d a b wd scope ord => some (0x1B#6 ++ d ++ a ++ b ++ 0x8#5 ++ wd ++ scope ++ ord)
  | .cas d a b wd scope ord => some (0x1B#6 ++ d ++ a ++ b ++ 0x9#5 ++ wd ++ scope ++ ord)
  | .ldsync d a scope => some (0x1B#6 ++ d ++ a ++ 0x21#11 ++ scope ++ 0x0#2)
  | .ldtake d a scope => some (0x1B#6 ++ d ++ a ++ 0x23#11 ++ scope ++ 0x0#2)
  | .stfill a b scope => some (0x1B#6 ++ 0x0#5 ++ a ++ b ++ 0x25#6 ++ scope ++ 0x0#2)
  | .feclr a b scope => some (0x1B#6 ++ 0x0#5 ++ a ++ b ++ 0x27#6 ++ scope ++ 0x0#2)
  | .feset a b scope => some (0x1B#6 ++ 0x0#5 ++ a ++ b ++ 0x29#6 ++ scope ++ 0x0#2)
  | .csrr d csr => some (0x1C#6 ++ d ++ 0x0#9 ++ csr)
  | .csrw d a csr => some (0x1C#6 ++ d ++ a ++ 0x1#4 ++ csr)
  | .csrs d a csr => some (0x1C#6 ++ d ++ a ++ 0x2#4 ++ csr)
  | .csrc d a csr => some (0x1C#6 ++ d ++ a ++ 0x3#4 ++ csr)
  | .fence pred succ scope => some (0x1D#6 ++ 0x0#17 ++ pred ++ succ ++ scope)
  | .fenceSV => some (0x1D#6 ++ 0x200#26)
  | .fenceVS => some (0x1D#6 ++ 0x400#26)
  | .fenceVV => some (0x1D#6 ++ 0x600#26)
  | .eret => some (0x1E#6 ++ 0x1#26)
  | .wfi => some (0x1E#6 ++ 0x2#26)
  | .halt => some (0x1E#6 ++ 0x3#26)
  | .tlbinv a b => some (0x1E#6 ++ 0x0#5 ++ a ++ b ++ 0x4#11)
  | .preempt a => some (0x1E#6 ++ 0x0#5 ++ a ++ 0x10#16)
  | .ctxsave a b => some (0x1E#6 ++ 0x0#5 ++ a ++ b ++ 0x11#11)
  | .ctxload a b => some (0x1E#6 ++ 0x0#5 ++ a ++ b ++ 0x12#11)
  | .reshape a b => some (0x1E#6 ++ 0x0#5 ++ a ++ b ++ 0x13#11)
  | .trap imm => some (0x1F#6 ++ 0x0#10 ++ imm)
  | .vsetvli d a slices sew => some (0x20#6 ++ 0x0#1 ++ d ++ 0x0#1 ++ a ++ slices ++ sew ++ 0x0#6)
  | .vsetvl d a b => some (0x20#6 ++ 0x0#1 ++ d ++ 0x0#1 ++ a ++ b ++ 0x2#9)
  | .vcfg n => some (0x20#6 ++ 0x0#19 ++ n ++ 0x4#5)
  | .vaddVV d a b km cv => some (0x21#6 ++ d ++ a ++ b ++ km ++ 0x0#4 ++ cv)
  | .vsubVV d a b km cv => some (0x21#6 ++ d ++ a ++ b ++ km ++ 0x1#4 ++ cv)
  | .vmulVV d a b km cv => some (0x21#6 ++ d ++ a ++ b ++ km ++ 0x2#4 ++ cv)
  | .vmulhVV d a b km cv => some (0x21#6 ++ d ++ a ++ b ++ km ++ 0x3#4 ++ cv)
  | .vdivVV d a b km cv => some (0x21#6 ++ d ++ a ++ b ++ km ++ 0x4#4 ++ cv)
  | .vremVV d a b km cv => some (0x21#6 ++ d ++ a ++ b ++ km ++ 0x5#4 ++ cv)
  | .vminVV d a b km cv => some (0x21#6 ++ d ++ a ++ b ++ km ++ 0x6#4 ++ cv)
  | .vmaxVV d a b km cv => some (0x21#6 ++ d ++ a ++ b ++ km ++ 0x7#4 ++ cv)
  | .vandVV d a b km cv => some (0x21#6 ++ d ++ a ++ b ++ km ++ 0x8#4 ++ cv)
  | .vorVV d a b km cv => some (0x21#6 ++ d ++ a ++ b ++ km ++ 0x9#4 ++ cv)
  | .vxorVV d a b km cv => some (0x21#6 ++ d ++ a ++ b ++ km ++ 0xA#4 ++ cv)
  | .vsllVV d a b km cv => some (0x21#6 ++ d ++ a ++ b ++ km ++ 0xB#4 ++ cv)
  | .vsrlVV d a b km cv => some (0x21#6 ++ d ++ a ++ b ++ km ++ 0xC#4 ++ cv)
  | .vsraVV d a b km cv => some (0x21#6 ++ d ++ a ++ b ++ km ++ 0xD#4 ++ cv)
  | .vsaddVV d a b km cv => some (0x21#6 ++ d ++ a ++ b ++ km ++ 0xE#4 ++ cv)
  | .vssubVV d a b km cv => some (0x21#6 ++ d ++ a ++ b ++ km ++ 0xF#4 ++ cv)
  | .vaddVS d a b km cv => some (0x22#6 ++ d ++ a ++ b ++ 0x0#1 ++ km ++ 0x0#4 ++ cv)
  | .vsubVS d a b km cv => some (0x22#6 ++ d ++ a ++ b ++ 0x0#1 ++ km ++ 0x1#4 ++ cv)
  | .vmulVS d a b km cv => some (0x22#6 ++ d ++ a ++ b ++ 0x0#1 ++ km ++ 0x2#4 ++ cv)
  | .vmulhVS d a b km cv => some (0x22#6 ++ d ++ a ++ b ++ 0x0#1 ++ km ++ 0x3#4 ++ cv)
  | .vdivVS d a b km cv => some (0x22#6 ++ d ++ a ++ b ++ 0x0#1 ++ km ++ 0x4#4 ++ cv)
  | .vremVS d a b km cv => some (0x22#6 ++ d ++ a ++ b ++ 0x0#1 ++ km ++ 0x5#4 ++ cv)
  | .vminVS d a b km cv => some (0x22#6 ++ d ++ a ++ b ++ 0x0#1 ++ km ++ 0x6#4 ++ cv)
  | .vmaxVS d a b km cv => some (0x22#6 ++ d ++ a ++ b ++ 0x0#1 ++ km ++ 0x7#4 ++ cv)
  | .vandVS d a b km cv => some (0x22#6 ++ d ++ a ++ b ++ 0x0#1 ++ km ++ 0x8#4 ++ cv)
  | .vorVS d a b km cv => some (0x22#6 ++ d ++ a ++ b ++ 0x0#1 ++ km ++ 0x9#4 ++ cv)
  | .vxorVS d a b km cv => some (0x22#6 ++ d ++ a ++ b ++ 0x0#1 ++ km ++ 0xA#4 ++ cv)
  | .vsllVS d a b km cv => some (0x22#6 ++ d ++ a ++ b ++ 0x0#1 ++ km ++ 0xB#4 ++ cv)
  | .vsrlVS d a b km cv => some (0x22#6 ++ d ++ a ++ b ++ 0x0#1 ++ km ++ 0xC#4 ++ cv)
  | .vsraVS d a b km cv => some (0x22#6 ++ d ++ a ++ b ++ 0x0#1 ++ km ++ 0xD#4 ++ cv)
  | .vsaddVS d a b km cv => some (0x22#6 ++ d ++ a ++ b ++ 0x0#1 ++ km ++ 0xE#4 ++ cv)
  | .vssubVS d a b km cv => some (0x22#6 ++ d ++ a ++ b ++ 0x0#1 ++ km ++ 0xF#4 ++ cv)
  | .vrsubVS d a b km cv => some (0x22#6 ++ d ++ a ++ b ++ 0x1#1 ++ km ++ 0x0#4 ++ cv)
  | .vmaddVS d a b km cv => some (0x22#6 ++ d ++ a ++ b ++ 0x1#1 ++ km ++ 0x1#4 ++ cv)
  | .vmsacVS d a b km cv => some (0x22#6 ++ d ++ a ++ b ++ 0x1#1 ++ km ++ 0x2#4 ++ cv)
  | .vwaddVS d a b km cv => some (0x22#6 ++ d ++ a ++ b ++ 0x1#1 ++ km ++ 0x3#4 ++ cv)
  | .vwmulVS d a b km cv => some (0x22#6 ++ d ++ a ++ b ++ 0x1#1 ++ km ++ 0x4#4 ++ cv)
  | .vaddVI d a imm km cv => some (0x23#6 ++ d ++ a ++ imm ++ km ++ 0x0#4 ++ cv)
  | .vrsubVI d a imm km cv => some (0x23#6 ++ d ++ a ++ imm ++ km ++ 0x1#4 ++ cv)
  | .vandVI d a imm km cv => some (0x23#6 ++ d ++ a ++ imm ++ km ++ 0x2#4 ++ cv)
  | .vorVI d a imm km cv => some (0x23#6 ++ d ++ a ++ imm ++ km ++ 0x3#4 ++ cv)
  | .vxorVI d a imm km cv => some (0x23#6 ++ d ++ a ++ imm ++ km ++ 0x4#4 ++ cv)
  | .vsllVI d a imm km cv => some (0x23#6 ++ d ++ a ++ imm ++ km ++ 0x5#4 ++ cv)
  | .vsrlVI d a imm km cv => some (0x23#6 ++ d ++ a ++ imm ++ km ++ 0x6#4 ++ cv)
  | .vsraVI d a imm km cv => some (0x23#6 ++ d ++ a ++ imm ++ km ++ 0x7#4 ++ cv)
  | .vsaddVI d a imm km cv => some (0x23#6 ++ d ++ a ++ imm ++ km ++ 0x8#4 ++ cv)
  | .vminVI d a imm km cv => some (0x23#6 ++ d ++ a ++ imm ++ km ++ 0x9#4 ++ cv)
  | .vmaxVI d a imm km cv => some (0x23#6 ++ d ++ a ++ imm ++ km ++ 0xA#4 ++ cv)
  | .vmaddVV d a b km cv => some (0x24#6 ++ d ++ a ++ b ++ km ++ 0x0#4 ++ cv)
  | .vmsacVV d a b km cv => some (0x24#6 ++ d ++ a ++ b ++ km ++ 0x1#4 ++ cv)
  | .vwaddVV d a b km cv => some (0x24#6 ++ d ++ a ++ b ++ km ++ 0x2#4 ++ cv)
  | .vwmulVV d a b km cv => some (0x24#6 ++ d ++ a ++ b ++ km ++ 0x3#4 ++ cv)
  | .vdot4 d a b km cv => some (0x24#6 ++ d ++ a ++ b ++ km ++ 0x4#4 ++ cv)
  | .vdot4Sat d a b km cv => some (0x24#6 ++ d ++ a ++ b ++ km ++ 0x5#4 ++ cv)
  | .vfaddVV d a b km cv => some (0x25#6 ++ d ++ a ++ b ++ km ++ 0x0#4 ++ cv)
  | .vfsubVV d a b km cv => some (0x25#6 ++ d ++ a ++ b ++ km ++ 0x1#4 ++ cv)
  | .vfmulVV d a b km cv => some (0x25#6 ++ d ++ a ++ b ++ km ++ 0x2#4 ++ cv)
  | .vfdivVV d a b km cv => some (0x25#6 ++ d ++ a ++ b ++ km ++ 0x3#4 ++ cv)
  | .vfsqrt d a km cv => some (0x25#6 ++ d ++ a ++ 0x0#6 ++ km ++ 0x4#4 ++ cv)
  | .vfrsqrt d a km cv => some (0x25#6 ++ d ++ a ++ 0x0#6 ++ km ++ 0x5#4 ++ cv)
  | .vfmaVV d a b km cv => some (0x25#6 ++ d ++ a ++ b ++ km ++ 0x6#4 ++ cv)
  | .vfmsVV d a b km cv => some (0x25#6 ++ d ++ a ++ b ++ km ++ 0x7#4 ++ cv)
  | .vfnmaVV d a b km cv => some (0x25#6 ++ d ++ a ++ b ++ km ++ 0x8#4 ++ cv)
  | .vfminVV d a b km cv => some (0x25#6 ++ d ++ a ++ b ++ km ++ 0x9#4 ++ cv)
  | .vfmaxVV d a b km cv => some (0x25#6 ++ d ++ a ++ b ++ km ++ 0xA#4 ++ cv)
  | .vfclass d a km cv => some (0x25#6 ++ d ++ a ++ 0x0#6 ++ km ++ 0xB#4 ++ cv)
  | .vfsgnjVV d a b km cv => some (0x25#6 ++ d ++ a ++ b ++ km ++ 0xC#4 ++ cv)
  | .vfsgnjnVV d a b km cv => some (0x25#6 ++ d ++ a ++ b ++ km ++ 0xD#4 ++ cv)
  | .vfsgnjxVV d a b km cv => some (0x25#6 ++ d ++ a ++ b ++ km ++ 0xE#4 ++ cv)
  | .vfaddVS d a b km cv => some (0x26#6 ++ d ++ a ++ b ++ 0x0#1 ++ km ++ 0x0#4 ++ cv)
  | .vfsubVS d a b km cv => some (0x26#6 ++ d ++ a ++ b ++ 0x0#1 ++ km ++ 0x1#4 ++ cv)
  | .vfmulVS d a b km cv => some (0x26#6 ++ d ++ a ++ b ++ 0x0#1 ++ km ++ 0x2#4 ++ cv)
  | .vfdivVS d a b km cv => some (0x26#6 ++ d ++ a ++ b ++ 0x0#1 ++ km ++ 0x3#4 ++ cv)
  | .vfmaVS d a b km cv => some (0x26#6 ++ d ++ a ++ b ++ 0x0#1 ++ km ++ 0x6#4 ++ cv)
  | .vfmsVS d a b km cv => some (0x26#6 ++ d ++ a ++ b ++ 0x0#1 ++ km ++ 0x7#4 ++ cv)
  | .vfnmaVS d a b km cv => some (0x26#6 ++ d ++ a ++ b ++ 0x0#1 ++ km ++ 0x8#4 ++ cv)
  | .vfminVS d a b km cv => some (0x26#6 ++ d ++ a ++ b ++ 0x0#1 ++ km ++ 0x9#4 ++ cv)
  | .vfmaxVS d a b km cv => some (0x26#6 ++ d ++ a ++ b ++ 0x0#1 ++ km ++ 0xA#4 ++ cv)
  | .vfsgnjVS d a b km cv => some (0x26#6 ++ d ++ a ++ b ++ 0x0#1 ++ km ++ 0xC#4 ++ cv)
  | .vfsgnjnVS d a b km cv => some (0x26#6 ++ d ++ a ++ b ++ 0x0#1 ++ km ++ 0xD#4 ++ cv)
  | .vfsgnjxVS d a b km cv => some (0x26#6 ++ d ++ a ++ b ++ 0x0#1 ++ km ++ 0xE#4 ++ cv)
  | .vmseqVV d a b km cv => some (0x27#6 ++ 0x0#3 ++ d ++ a ++ b ++ km ++ 0x0#4 ++ cv)
  | .vmsneVV d a b km cv => some (0x27#6 ++ 0x0#3 ++ d ++ a ++ b ++ km ++ 0x1#4 ++ cv)
  | .vmsltVV d a b km cv => some (0x27#6 ++ 0x0#3 ++ d ++ a ++ b ++ km ++ 0x2#4 ++ cv)
  | .vmsleVV d a b km cv => some (0x27#6 ++ 0x0#3 ++ d ++ a ++ b ++ km ++ 0x3#4 ++ cv)
  | .vmfeqVV d a b km cv => some (0x27#6 ++ 0x0#3 ++ d ++ a ++ b ++ km ++ 0x4#4 ++ cv)
  | .vmfltVV d a b km cv => some (0x27#6 ++ 0x0#3 ++ d ++ a ++ b ++ km ++ 0x5#4 ++ cv)
  | .vmfleVV d a b km cv => some (0x27#6 ++ 0x0#3 ++ d ++ a ++ b ++ km ++ 0x6#4 ++ cv)
  | .vmseqVS d a b km cv => some (0x27#6 ++ 0x0#3 ++ d ++ a ++ b ++ 0x0#1 ++ km ++ 0x8#4 ++ cv)
  | .vmsneVS d a b km cv => some (0x27#6 ++ 0x0#3 ++ d ++ a ++ b ++ 0x0#1 ++ km ++ 0x9#4 ++ cv)
  | .vmsltVS d a b km cv => some (0x27#6 ++ 0x0#3 ++ d ++ a ++ b ++ 0x0#1 ++ km ++ 0xA#4 ++ cv)
  | .vmsleVS d a b km cv => some (0x27#6 ++ 0x0#3 ++ d ++ a ++ b ++ 0x0#1 ++ km ++ 0xB#4 ++ cv)
  | .vmfeqVS d a b km cv => some (0x27#6 ++ 0x0#3 ++ d ++ a ++ b ++ 0x0#1 ++ km ++ 0xC#4 ++ cv)
  | .vmfltVS d a b km cv => some (0x27#6 ++ 0x0#3 ++ d ++ a ++ b ++ 0x0#1 ++ km ++ 0xD#4 ++ cv)
  | .vmfleVS d a b km cv => some (0x27#6 ++ 0x0#3 ++ d ++ a ++ b ++ 0x0#1 ++ km ++ 0xE#4 ++ cv)
  | .vmand d a b km cv => some (0x28#6 ++ 0x0#3 ++ d ++ 0x0#3 ++ a ++ 0x0#3 ++ b ++ km ++ 0x0#4 ++ cv)
  | .vmor d a b km cv => some (0x28#6 ++ 0x0#3 ++ d ++ 0x0#3 ++ a ++ 0x0#3 ++ b ++ km ++ 0x1#4 ++ cv)
  | .vmxor d a b km cv => some (0x28#6 ++ 0x0#3 ++ d ++ 0x0#3 ++ a ++ 0x0#3 ++ b ++ km ++ 0x2#4 ++ cv)
  | .vmandn d a b km cv => some (0x28#6 ++ 0x0#3 ++ d ++ 0x0#3 ++ a ++ 0x0#3 ++ b ++ km ++ 0x3#4 ++ cv)
  | .vcpop d a km cv => some (0x28#6 ++ 0x0#1 ++ d ++ 0x0#3 ++ a ++ 0x0#6 ++ km ++ 0x4#4 ++ cv)
  | .vfirst d a km cv => some (0x28#6 ++ 0x0#1 ++ d ++ 0x0#3 ++ a ++ 0x0#6 ++ km ++ 0x5#4 ++ cv)
  | .vmvVV d a km cv => some (0x29#6 ++ d ++ a ++ 0x0#6 ++ km ++ 0x0#4 ++ cv)
  | .vmvsx d b km cv => some (0x29#6 ++ d ++ 0x0#6 ++ b ++ 0x0#1 ++ km ++ 0x1#4 ++ cv)
  | .vmvxs d a km cv => some (0x29#6 ++ 0x0#1 ++ d ++ a ++ 0x0#6 ++ km ++ 0x2#4 ++ cv)
  | .vslideupVS d a b km cv => some (0x29#6 ++ d ++ a ++ b ++ 0x0#1 ++ km ++ 0x3#4 ++ cv)
  | .vslidednVS d a b km cv => some (0x29#6 ++ d ++ a ++ b ++ 0x0#1 ++ km ++ 0x4#4 ++ cv)
  | .vslideupVI d a imm km cv => some (0x29#6 ++ d ++ a ++ imm ++ km ++ 0x5#4 ++ cv)
  | .vslidednVI d a imm km cv => some (0x29#6 ++ d ++ a ++ imm ++ km ++ 0x6#4 ++ cv)
  | .vperm d a b km cv => some (0x29#6 ++ d ++ a ++ b ++ km ++ 0x7#4 ++ cv)
  | .vcompress d a km cv => some (0x29#6 ++ d ++ a ++ 0x0#6 ++ km ++ 0x8#4 ++ cv)
  | .viota d km cv => some (0x29#6 ++ d ++ 0x0#12 ++ km ++ 0x9#4 ++ cv)
  | .vid d km cv => some (0x29#6 ++ d ++ 0x0#12 ++ km ++ 0xA#4 ++ cv)
  | .vnzscan d a b km cv => some (0x29#6 ++ d ++ a ++ b ++ 0x0#1 ++ km ++ 0xB#4 ++ cv)
  | .vconfl d a km cv => some (0x29#6 ++ 0x0#3 ++ d ++ a ++ 0x0#6 ++ km ++ 0xC#4 ++ cv)
  | .vmvVI d imm km cv => some (0x29#6 ++ d ++ 0x0#6 ++ imm ++ km ++ 0xD#4 ++ cv)
  | .vmvVS d b km cv => some (0x29#6 ++ d ++ 0x0#6 ++ b ++ 0x0#1 ++ km ++ 0xE#4 ++ cv)
  | .vredsum d a b km cv => some (0x2A#6 ++ 0x0#1 ++ d ++ a ++ b ++ 0x0#1 ++ km ++ 0x0#4 ++ cv)
  | .vredmin d a b km cv => some (0x2A#6 ++ 0x0#1 ++ d ++ a ++ b ++ 0x0#1 ++ km ++ 0x1#4 ++ cv)
  | .vredmax d a b km cv => some (0x2A#6 ++ 0x0#1 ++ d ++ a ++ b ++ 0x0#1 ++ km ++ 0x2#4 ++ cv)
  | .vredand d a b km cv => some (0x2A#6 ++ 0x0#1 ++ d ++ a ++ b ++ 0x0#1 ++ km ++ 0x3#4 ++ cv)
  | .vredor d a b km cv => some (0x2A#6 ++ 0x0#1 ++ d ++ a ++ b ++ 0x0#1 ++ km ++ 0x4#4 ++ cv)
  | .vfredsum d a b km cv => some (0x2A#6 ++ 0x0#1 ++ d ++ a ++ b ++ 0x0#1 ++ km ++ 0x5#4 ++ cv)
  | .vfredosum d a b km cv => some (0x2A#6 ++ 0x0#1 ++ d ++ a ++ b ++ 0x0#1 ++ km ++ 0x6#4 ++ cv)
  | .vfredmin d a b km cv => some (0x2A#6 ++ 0x0#1 ++ d ++ a ++ b ++ 0x0#1 ++ km ++ 0x7#4 ++ cv)
  | .vfredmax d a b km cv => some (0x2A#6 ++ 0x0#1 ++ d ++ a ++ b ++ 0x0#1 ++ km ++ 0x8#4 ++ cv)
  | .vld d a km mw cv => some (0x2B#6 ++ d ++ 0x0#1 ++ a ++ 0x0#6 ++ km ++ 0x0#2 ++ mw ++ cv)
  | .vlds d a b km mw cv => some (0x2B#6 ++ d ++ 0x0#1 ++ a ++ b ++ 0x0#1 ++ km ++ 0x1#2 ++ mw ++ cv)
  | .vldx d a b km mw cv => some (0x2B#6 ++ d ++ 0x0#1 ++ a ++ b ++ km ++ 0x2#2 ++ mw ++ cv)
  | .vldseg d a imm km mw cv => some (0x2B#6 ++ d ++ 0x0#1 ++ a ++ imm ++ km ++ 0x3#2 ++ mw ++ cv)
  | .vst d a km cv => some (0x2C#6 ++ d ++ 0x0#1 ++ a ++ 0x0#6 ++ km ++ 0x0#4 ++ cv)
  | .vsts d a b km cv => some (0x2C#6 ++ d ++ 0x0#1 ++ a ++ b ++ 0x0#1 ++ km ++ 0x4#4 ++ cv)
  | .vstx d a b km cv => some (0x2C#6 ++ d ++ 0x0#1 ++ a ++ b ++ km ++ 0x8#4 ++ cv)
  | .vstseg d a imm km cv => some (0x2C#6 ++ d ++ 0x0#1 ++ a ++ imm ++ km ++ 0xC#4 ++ cv)
  | .vcvt d a s km cv => some (0x2D#6 ++ d ++ a ++ 0x0#2 ++ s ++ km ++ 0x0#4 ++ cv)
  | .vxpand d a f km cv => some (0x2D#6 ++ d ++ a ++ f ++ km ++ 0x1#4 ++ cv)
  | .vqblkF4 d a b km cv => some (0x2D#6 ++ d ++ a ++ b ++ km ++ 0x2#4 ++ cv)
  | .vqblkI8 d a b km cv => some (0x2D#6 ++ d ++ a ++ b ++ km ++ 0x3#4 ++ cv)
  | .vdqblkF4 d a b km cv => some (0x2D#6 ++ d ++ a ++ b ++ km ++ 0x4#4 ++ cv)
  | .vdqblkI8 d a b km cv => some (0x2D#6 ++ d ++ a ++ b ++ km ++ 0x5#4 ++ cv)
  | .tshape a => some (0x30#6 ++ 0x0#3 ++ a ++ 0x0#18)
  | .tzero z => some (0x30#6 ++ z ++ 0x100#24)
  | .tlda a b => some (0x30#6 ++ 0x0#3 ++ a ++ 0x0#1 ++ b ++ 0x200#12)
  | .tldb a b => some (0x30#6 ++ 0x0#3 ++ a ++ 0x0#1 ++ b ++ 0x300#12)
  | .tmma z => some (0x30#6 ++ z ++ 0x400#24)
  | .tmmaSX z => some (0x30#6 ++ z ++ 0x500#24)
  | .tstz z a b => some (0x30#6 ++ z ++ 0x0#1 ++ a ++ 0x0#1 ++ b ++ 0x600#12)
  | .tmvz z d b => some (0x30#6 ++ z ++ d ++ 0x0#1 ++ b ++ 0x700#12)
  | .tldaMC a b c => some (0x30#6 ++ 0x0#3 ++ a ++ 0x0#1 ++ b ++ 0x8#4 ++ c ++ 0x0#3)
  | .tldbMC a b c => some (0x30#6 ++ 0x0#3 ++ a ++ 0x0#1 ++ b ++ 0x9#4 ++ c ++ 0x0#3)
  | .tmmaSat z => some (0x30#6 ++ z ++ 0xA00#24)
  | .fork d a imm => some (0x34#6 ++ d ++ a ++ imm)
  | .join => some (0x35#6 ++ 0x0#26)
  | .keywait => some (0x35#6 ++ 0x40#26)
  | .doneStrand => some (0x35#6 ++ 0x80#26)
  | .waitmsg a => some (0x35#6 ++ 0x0#5 ++ a ++ 0xC0#16)
  | .send a b => some (0x35#6 ++ 0x0#5 ++ a ++ b ++ 0x100#11)
  | .sendi a b => some (0x35#6 ++ 0x0#5 ++ a ++ b ++ 0x140#11)
  | .rgsetl d a => some (0x35#6 ++ d ++ 0x0#1 ++ a ++ 0x180#16)
  | .widf d f => some (0x35#6 ++ d ++ 0x7#15 ++ f)
  | .sbind a v => some (0x38#6 ++ 0x0#5 ++ a ++ 0x0#10 ++ v)
  | .sunbind v => some (0x38#6 ++ 0x1#20 ++ v)
  | .sdrain v => some (0x38#6 ++ 0x2#20 ++ v)
  | .scopy a b => some (0x38#6 ++ 0x0#5 ++ a ++ b ++ 0xC0#11)
  | .scopyF a b => some (0x38#6 ++ 0x0#5 ++ a ++ b ++ 0x100#11)
  | .sisectC d j m => some (0x38#6 ++ d ++ 0x0#2 ++ j ++ 0x0#2 ++ m ++ 0x140#11)
  | .sisectW d j m v => some (0x38#6 ++ d ++ 0x0#2 ++ j ++ 0x0#2 ++ m ++ 0x6#5 ++ v)
  | .cqwait => some (0x38#6 ++ 0x1C0#26)
  | .cqpop d => some (0x38#6 ++ d ++ 0x200#22)
  | .walk a b => some (0x38#6 ++ 0x0#5 ++ a ++ b ++ 0x240#11)
  | .chase d a b km => some (0x39#6 ++ d ++ a ++ b ++ 0x0#1 ++ km ++ 0x0#5)
  | .pgather d a b km => some (0x39#6 ++ d ++ a ++ b ++ 0x0#1 ++ km ++ 0x2#5)
  | .grpset a b => some (0x3C#6 ++ 0x0#5 ++ a ++ b ++ 0x0#11)
  | .grpfree a => some (0x3C#6 ++ 0x0#5 ++ a ++ 0x40#16)
  | .nred a b ty op => some (0x3C#6 ++ 0x0#5 ++ a ++ b ++ 0x2#5 ++ ty ++ op ++ 0x0#2)
  | .nmcast a b => some (0x3C#6 ++ 0x0#5 ++ a ++ b ++ 0xC0#11)
  | .gswOut a => some (0x3C#6 ++ 0x0#5 ++ a ++ 0x100#16)
  | .gswIN a => some (0x3C#6 ++ 0x0#5 ++ a ++ 0x101#16)
  | .pfx sense p ce cd => some (0x3F#6 ++ sense ++ p ++ ce ++ cd ++ 0x0#13)
  | .vqueueBegin => none
  | .vqueueComplete => none
  | .trapEntry _ _ => none
  | .mEventEntry _ => none
  | .asyncBoundary => none
  | .timeoutExpiry _ => none
  | .wfiWake _ => none
  | .ringStopped _ => none
  | .chunkStart => none
  | .imageCopyDone _ => none
  | .liveinArrival _ => none
  | .chunkSquash _ => none
  | .chunkRestart _ => none
  | .keystoneArrival => none
  | .chunkCommit => none
  | .messageArrival _ => none
  | .spillRefill _ _ => none
  | .dispatch _ => none
  | .outboundInject _ _ => none
  | .retryBackoffExpiry _ _ => none
  | .actstallExpiry _ => none
  | .quantumExpiry _ => none
  | .overrunExpiry _ => none
  | .memoryReply _ _ => none
  | .sliceRequest _ _ => none
  | .ldsyncWake _ => none
  | .stripFetch _ => none
  | .stripFetchDone _ => none
  | .stripWrite _ => none
  | .drainRecordPost _ => none
  | .scopyRecordPost => none
  | .cqCapacityWake => none
  | .walkerAdmit _ _ => none
  | .walkerMigrate _ _ _ => none
  | .walkerReadDone _ _ => none
  | .resultWrite _ _ => none
  | .pierRecordPost _ => none
  | .dbgctlHalt _ _ => none
  | .debugHaltReached _ => none
  | .dbgctlStep _ _ _ => none
  | .debugStepBreak _ => none
  | .gangcfgShapeWrite _ => none
  | .pwrcfgWrite _ _ => none
  | .linkctlNewkey _ => none
  | .fabcfgFlowgapWrite _ => none
  | .accessTableStore _ _ => none
  | .registerWrite _ _ => none
  | .moduleReset => none
  | .boot _ => none
  | .coreRetirementMark _ _ _ => none
  | .droopTrip _ => none
  | .droopClear _ => none
  | .clockStepDone _ => none
  | .borrow _ _ _ => none
  | .grant _ _ _ => none
  | .deny _ _ => none
  | .repay _ _ _ => none
  | .recall _ _ _ => none
  | .borrowRetryExpiry _ => none
  | .timeSyncTick _ => none
  | .thermalCap _ => none
  | .thermalShutdown => none
  | .frameReceive _ _ => none
  | .keyUseLimit _ => none
  | .laneLockLoss _ => none
  | .linkRetrained _ => none
  | .linkRecoveryTimeout _ _ => none
  | .packetForward _ _ _ => none
  | .readPacket _ => none
  | .readResponsePacket _ => none
  | .writePacket _ => none
  | .writeResponsePacket _ => none
  | .atomicPacket _ => none
  | .atomicResponsePacket _ => none
  | .messagePacket _ => none
  | .messageResponsePacket _ => none
  | .stripPacket _ => none
  | .stripResponsePacket _ => none
  | .timeRequest _ => none
  | .timeReply _ => none
  | .debugPause _ => none
  | .debugThaw _ => none
  | .deflectionEntry _ _ => none
  | .flowletReturn _ _ => none
  | .heartbeat _ => none
  | .heartbeatSendTick => none
  | .heartbeatTimeout _ => none
  | .contribution _ _ _ => none
  | .collectiveResult _ _ => none
  | .multicastUP _ _ => none
  | .multicastDown _ _ => none
  | .reserve _ _ => none
  | .reserveReply _ => none
  | .entryWrite _ _ => none
  | .entryAcknowledge _ => none
  | .drain _ _ => none
  | .drainedReport _ _ => none
  | .switchOutCommand _ _ => none
  | .sweepMarker _ _ _ _ => none
  | .switchINCommand _ _ => none
  | .switchReport _ => none
  | .moduleReport _ => none
  | .gangResume _ _ => none
  | .gangFailed _ _ => none
  | .rdmaWrite _ _ _ _ _ => none
  | .rdmaRead _ _ _ _ _ => none
  | .hostSend _ _ _ => none
  | .launch _ _ => none
  | .attest _ => none
  | .moduleFault _ => none
  | .wantedPowerChange _ _ => none
  | .frameSend _ => none

end Sys2Proof
end

