-- ==== Sys2Proof/Machine/State.lean ====
section
/-! DEFINITION. The state of the machine: one module of the Oxcia (spec/02 R23 to R36, spec/10, spec/11, spec/14 to spec/25), and the
module after reset. Everything is plain data. The vector instructions as the queue holds them (VOp) stand here because a queue entry
does. -/

namespace Sys2Proof.Machine

/-- A privilege level (R51). -/
inductive Level where
  | u | s | m
deriving DecidableEq, Repr

/-- A source of a vector instruction: a vector register, or a scalar or immediate captured at the push (R38). -/
inductive VSrc where
  | reg (n : BitVec 6)
  | val (x : Word)
deriving DecidableEq, Repr

/-- Integer element operations of majors 0x21 to 0x23 (R98, R147, R148). -/
inductive VIntOp where
  | add | sub | rsub | mul | mulh | div | rem | min | max | and | or | xor | sll | srl | sra | sadd | ssub
deriving DecidableEq, Repr

/-- Floating-point element operations of majors 0x25 and 0x26 (R98). -/
inductive VFpOp where
  | add | sub | mul | div | sqrt | rsqrt | fma | fms | fnma | min | max | fclass | sgnj | sgnjn | sgnjx
deriving DecidableEq, Repr

/-- Compares into masks of major 0x27 (R98). -/
inductive VCmpOp where
  | eq | ne | lt | le | feq | flt | fle
deriving DecidableEq, Repr

/-- Mask logic of major 0x28 (R98). -/
inductive VMaskOp where
  | and | or | xor | andn
deriving DecidableEq, Repr

/-- Reductions of major 0x2A (R98). -/
inductive VRedOp where
  | sum | min | max | and | or | fsum | fosum | fmin | fmax
deriving DecidableEq, Repr

/-- The kind of a vector memory access (R100): the addresses of its elements. -/
inductive VAddr where
  | unit
  | strided (stride : Word)
  | indexed (vb : BitVec 6)
  | segment (nf : Nat)
deriving DecidableEq, Repr

/-- Tile multiplies (R101). -/
inductive TMul where
  | plain | sx | sat
deriving DecidableEq, Repr

/-- An instruction of the vector queue, with its scalar operands captured (R37, R38): vd, va, vb are vector register numbers, kd, ka,
kb mask registers, km the governing mask, sd a scalar destination. -/
inductive VOp where
  | int (op : VIntOp) (vd va : BitVec 6) (b : VSrc) (km : BitVec 3)
  | macc (sub : Bool) (vd va : BitVec 6) (b : VSrc) (km : BitVec 3)
  | widen (mul : Bool) (vd va : BitVec 6) (b : VSrc) (km : BitVec 3)
  | dot4 (sat : Bool) (vd va vb : BitVec 6) (km : BitVec 3)
  | fp (op : VFpOp) (vd va : BitVec 6) (b : VSrc) (km : BitVec 3)
  | cmp (op : VCmpOp) (kd : BitVec 3) (va : BitVec 6) (b : VSrc) (km : BitVec 3)
  | mask (op : VMaskOp) (kd ka kb km : BitVec 3)
  | cpop (sd : BitVec 5) (ka km : BitVec 3)
  | first (sd : BitVec 5) (ka km : BitVec 3)
  | mv (vd : BitVec 6) (src : VSrc) (km : BitVec 3)
  | mvsx (vd : BitVec 6) (x : Word) (km : BitVec 3)
  | mvxs (sd : BitVec 5) (va : BitVec 6) (km : BitVec 3)
  | slide (up : Bool) (vd va : BitVec 6) (n : Word) (km : BitVec 3)
  | perm (vd va vb : BitVec 6) (km : BitVec 3)
  | compress (vd va : BitVec 6) (km : BitVec 3)
  | iota (vd : BitVec 6) (km : BitVec 3)
  | vid (vd : BitVec 6) (km : BitVec 3)
  | nzscan (vd : BitVec 6) (sd : BitVec 5) (va : BitVec 6) (km : BitVec 3)
  | confl (kd : BitVec 3) (va : BitVec 6) (km : BitVec 3)
  | red (op : VRedOp) (sd : BitVec 5) (va : BitVec 6) (seed : Word) (km : BitVec 3)
  | load (k : VAddr) (vd : BitVec 6) (base : Word) (mw : BitVec 2) (km : BitVec 3)
  | store (k : VAddr) (vd : BitVec 6) (base : Word) (km : BitVec 3)
  | cvt (vd va : BitVec 6) (src : BitVec 4) (km : BitVec 3)
  | xpand (vd va : BitVec 6) (f : BitVec 6) (km : BitVec 3)
  | qblk (i8 : Bool) (vd vb va : BitVec 6) (km : BitVec 3)
  | dqblk (i8 : Bool) (vd va vb : BitVec 6) (km : BitVec 3)
  | tshape (x : Word)
  | tzero (zd : BitVec 2)
  | tld (b : Bool) (base stride : Word) (mc : Option Word)
  | tmma (k : TMul) (zd : BitVec 2)
  | tstz (zd : BitVec 2) (base stride : Word)
  | tmvz (vd : BitVec 6) (zd : BitVec 2) (row : Word)
  | sbind (vd : BitVec 6) (rec : Word)
  | sunbind (vd : BitVec 6)
  | sdrain (vd : BitVec 6)
  | sisectC (sd : BitVec 5) (j m : BitVec 3)
  | sisectW (vd : BitVec 6) (sd : BitVec 5) (j m : BitVec 3)
  | chase (vd va : BitVec 6) (par : Word) (km : BitVec 3)
  | pgather (vd va : BitVec 6) (par : Word) (km : BitVec 3)
  /-- the model's own: the place in program order at which a change of shape to a gang and a cap applies (R146, R403) -/
  | reshape (gang : Bool) (cap : BitVec 16)
deriving DecidableEq, Repr

/-- The scalar thread's registers and the CSR state that a vector trap takes back to the trap point (R366). -/
structure Scal where
  /-- s0 to s31; s0 is kept at zero (R24) -/
  x : Vector Word 32
  /-- address of the next instruction to fetch (R23) -/
  pc : Word
  vl : BitVec 16
  sew : BitVec 4
  slices : BitVec 4
  vlmax : BitVec 16
  nreg : BitVec 2
  /-- FCSR.RM (R35) -/
  rm : BitVec 2
  /-- FCSR[7:2]: NX, UF, OF, DZ, NV, NV8 from bit 0 up (R35) -/
  flags : BitVec 6
  ve : Bool
  pfxWord : BitVec 32
  pfxV : Bool
  livein : BitVec 32
  /-- scalar registers that hold an uncorrectable error (R291) -/
  bad : BitVec 32
deriving DecidableEq, Repr

/-- An entry of the vector instruction queue (R37 to R40): the values captured at the push, the prefix it carries (R107), and the scalar
state that a trap of this entry returns to (R366). -/
structure QEntry where
  op : VOp
  word : Word32
  pc : Word
  vl : BitVec 16
  sew : BitVec 4
  slices : BitVec 4
  ve : Bool
  rm : BitVec 2
  pfx : Option Word32
  /-- the vector unit has begun it (VQUEUE_BEGIN) -/
  begun : Bool
  back : Scal
  /-- the nesting depth (R218) and the live-in registers written (R221) at the push -/
  depth : Nat
  wrote : BitVec 32
  /-- the entry holds an uncorrectable error (R290, R291) -/
  bad : Bool
deriving DecidableEq, Repr

/-- A prefix whose successor has not completed (R107, R108); fromEret: eret reapplied it from PFXST. -/
structure Pending where
  word : Word32
  fromEret : Bool
deriving DecidableEq, Repr

/-- A trap that a chunk recorded and deferred (R234). -/
structure Deferred where
  code : BitVec 8
  val : Word
  vec : Bool
  /-- the trap point -/
  point : Word
  /-- raised in a speculative chunk (R364) -/
  spec : Bool
deriving DecidableEq, Repr

/-- Why a slot holds for the keystone (R236). -/
inductive HoldReason where
  | join
  | exit (target : Word)
  | doneStrand
  | keystoneOnly
  | setFull
  | keywait
  | stageFull
  | trap (t : Deferred)
deriving DecidableEq, Repr

/-- The state of a slot in flight (R236). IDLE is the absence of a chunk; COMMIT keeps the reason for which the chunk held. -/
inductive SlotState where
  | start | run | hold (r : HoldReason) | commit (r : HoldReason) | squash
deriving DecidableEq, Repr

/-- What a core is parked on (R256, R313, R340, R385): it executes its instruction again when the strand next moves. -/
inductive Park where
  | running
  | wfi
  | ldsync
  | cqwait
  | waitmsg
  | preempting
  | reply
  | stalled
deriving DecidableEq, Repr

/-- The kind of a remote access that awaits its response (R431 to R434). -/
structure RemoteWait where
  rtag : BitVec 16
  write : Bool
  pa : BitVec 56
  /-- the response's status and payload once it has come -/
  reply : Option (BitVec 4 × List Byte)
  /-- a write of the instruction that runs has taken this reply: false in every state between two steps -/
  used : Bool := false
  /-- the TIME that the response carries (R317) -/
  time : Word := 0
  /-- for an engine's access: the number of its command -/
  owner : BitVec 16 := 0
  /-- the number of bytes -/
  size : Nat := 0
  /-- the bytes that a load took from its chunk's own records or an older chunk's when it issued (R225) -/
  own : List Host.Cell := []
  /-- a write of the chunk's SW sectors, not of the instruction that waits (R229; log 22) -/
  flush : Bool := false
  /-- a reservation or an entry write of a grpset, or the command of a grpfree (R457, R458) -/
  group : Bool := false
deriving DecidableEq, Repr

/-- A byte that a write stream has emitted and not yet written: the stream element and its address, the physical address, the byte, and
whether the word's full bit is set with it (R333). -/
structure Emitted where
  index : Nat
  va : Word
  pa : Nat
  byte : Byte
  full : Bool
deriving DecidableEq, Repr

/-- A drain record that waits for emitted strips (R337): how many strips stand before it, its DONE and CMDNO, and whether the slot is freed
when it posts. -/
structure Drain where
  strips : Nat
  done : BitVec 48
  cmdNo : BitVec 16
  frees : Bool
deriving DecidableEq, Repr

/-- A strip fetched ahead (R328): its first element and number of elements, the bytes as they stood when the fetch completed, by physical address, and
those of them in error (R291). -/
structure Fetched where
  first : Nat
  count : Nat
  cells : List Host.Cell
  bad : List Nat
deriving DecidableEq, Repr

/-- A slot of the stream engine (R325, R327, R339). -/
structure StreamSlot where
  bound : Bool
  /-- the 64-byte binding record -/
  record : BitVec 512
  reg : BitVec 6
  pos : BitVec 48
  ipend : Bool
  icnt : BitVec 32
  /-- the VL that last consumed from it, or that sbind captured (R328) -/
  vl : BitVec 16
  /-- strips fetched ahead -/
  fetched : List Fetched
  /-- strips emitted and not yet written, oldest first -/
  emitted : List (List Emitted)
  drains : List Drain
  /-- strip packets to other modules without their response: request tag, lowest element, its address -/
  awaits : List (BitVec 16 × Nat × Word)
  /-- the lowest-numbered element that another module denied or found uncorrectable, the status and its address, for the next drain record (R333, R432) -/
  denied : Option (Nat × BitVec 8 × Word)
deriving DecidableEq, Repr

/-- A scopy command in flight (R338): the level under which it translates. -/
structure CopyCmd where
  fill : Bool
  dst : Word
  src : Word
  len : Nat
  cmdNo : BitVec 16
  level : Level
deriving DecidableEq, Repr

/-- A walker of a pier engine (R345, R353, R357, R398). -/
structure Walker where
  index : BitVec 16
  /-- the engine whose slot it holds: die, stack, engine -/
  engine : BitVec 7
  hops : BitVec 8
  /-- current pointer or node -/
  ptr : Word
  /-- local-store offset of its first result byte -/
  out : BitVec 32
  admitted : Bool
  /-- which read of its hop comes next: 0 start node, 1 and 2 the offset pair, 3 the neighbour (walk); 1 for chase and pgather -/
  phase : Nat
  o0 : Word
  o1 : Word
  /-- result bytes written so far, and those determined and not yet written -/
  written : Nat
  pending : List Byte
  /-- the bytes of a 32-byte payload read so far (R347) -/
  part : List Byte
  finished : Bool
deriving DecidableEq, Repr

/-- A pier command in flight (R349, R398): kind 4 chase, 5 walk, 6 pgather. -/
structure PierCmd where
  kind : BitVec 8
  cmdNo : BitVec 16
  status : BitVec 8
  done : BitVec 32
  fva : Word
  fidx : BitVec 16
  param : BitVec 256
  graph : BitVec 256
  walkers : List Walker
  /-- the level under which it translates (R346) -/
  level : Level
  /-- every walker of a walk below this one has been admitted to a slot, before the command was last loaded (R398) -/
  next : Nat := 0
deriving DecidableEq, Repr

/-- A message of a stage or outbound buffer (R250, R398). -/
structure OutMsg where
  msg : Message
  sent : Bool
  /-- the message was refused and waits for its back-off; refusals so far (R250) -/
  waiting : Bool
  refusals : Nat
  /-- the core of the ring that executed the send (R317) -/
  core : BitVec 3
  /-- the order number of the packet that carries it (R442) -/
  rtag : BitVec 16
deriving DecidableEq, Repr

/-- The state of a strand on one core (R23, R36), or of a management core (R379). -/
structure Hart where
  sc : Scal
  level : Level
  vstart : BitVec 16
  v : Vector VReg 64
  k : Vector MaskReg 8
  z : Vector Acc 4
  aBuf : BitVec 262144
  bBuf : BitVec 131072
  aScale : BitVec 16384
  bScale : BitVec 8192
  tm : BitVec 8
  tn : BitVec 7
  tk : BitVec 10
  tkType : BitVec 4
  wid : Word
  widShape : BitVec 42
  msgHdr : Word
  queue : List QEntry
  /-- the remaining members of the convoy being issued (R44) -/
  convoy : List Word32
  pfx : Option Pending
  park : Park
  /-- remote accesses of the instruction that waits, with their replies (R434) -/
  remote : List RemoteWait
  /-- those of the oldest queued instruction -/
  vremote : List RemoteWait
  /-- those of the engines' commands -/
  eremote : List RemoteWait
  slots : Vector StreamSlot 8
  /-- queued completion records, head first (R341) -/
  cq : List (BitVec 128)
  cmdNo : BitVec 16
  copies : List CopyCmd
  piers : List PierCmd
  stage : List Message
  /-- the slot the strand runs on (R210) -/
  slot : BitVec 3
  /-- the number of the executing chunk or handler (R219) -/
  seq : BitVec 16
  /-- the index of the executing chunk in its region (R215) -/
  chunk : Nat
  depth : Nat
  /-- the trap handlers that the strand runs, entered and not yet left by eret: the model's own, read only where a branch may leave a
  region (log 23) -/
  inTrap : Nat
  state : SlotState
  /-- the handler's mailbox and message, for a handler (R246) -/
  handler : Option (BitVec 5 × Message)
  /-- a chunk or handler: its stores are held in its L1 records (R219, R224) -/
  held : Bool
  written : List Host.Cell
  /-- its stores to other modules leave at once: part of what it holds has been written, or one of them has been denied (log 22) -/
  precise : Bool
  /-- the greatest TIME that the strand's acquires have returned, and the first TIME that a speculative chunk has read (R317) -/
  acquired : Word
  timeRead : Option Word
  /-- the bytes of a context on their way to another module (R400); none else -/
  saving : List Byte
  /-- sectors with SR set: physical address / 32 -/
  sr : List Nat
  /-- live-in registers whose value this chunk has not received (R221) -/
  awaiting : BitVec 32
  /-- live-in registers for which it holds a prediction (R222) -/
  predicted : BitVec 32
  /-- live-in registers whose forwarded or predicted value it has read, and those it has written (R221, R223) -/
  readLive : BitVec 32
  wroteReg : BitVec 32
  /-- the true live-in values that have arrived -/
  liveVal : Vector Word 32
  /-- vector, mask and accumulator registers that hold an uncorrectable error (R291) -/
  vBad : BitVec 64
  kBad : BitVec 8
  zBad : BitVec 4
  /-- tile buffers that do: A, B, and their scales; and completion records, by place in the queue (R290, R291) -/
  tBad : BitVec 4
  cqBad : BitVec 64
  /-- the scalar image has reached its slot, and the vector and mask image is copied (R217) -/
  imageDone : Bool
deriving DecidableEq, Repr

/-- The state of a ring (R390); HALTED is Ring.halted, over the state that the ring held before. -/
inductive RingState where
  | empty | running | stopped
deriving DecidableEq, Repr

/-- An entry of the stride table (R222): tag, strides, valid bits. -/
structure StrideEntry where
  tag : BitVec 56
  used : Bool
  stride : Vector Word 32
  valid : BitVec 32
deriving DecidableEq, Repr

/-- An open forked region (R215): its addresses, sizes, fork image, the next chunk to start and the flags the keystone carries. -/
structure Region where
  forkPc : Word
  joinPc : Word
  dReg : BitVec 5
  aReg : BitVec 5
  count : Word
  grain : Word
  /-- the number of chunks -/
  total : Nat
  /-- the index of the next chunk to start -/
  next : Nat
  /-- the CHUNKSEQ number of chunk 0 -/
  firstSeq : BitVec 16
  /-- the slot of chunk 0 -/
  firstSlot : BitVec 3
  kflags : BitVec 6
  /-- the fork image (R216) -/
  image : Hart
  /-- the live-in values at the fork, then the final values of the latest chunk whose wait has ended, by chunk index (R221) -/
  finals : List (Nat × Vector Word 32)
deriving DecidableEq, Repr

/-- A ring (R209, R390): its strand, supervisor CSRs, shape, chunks and buffers. -/
structure Ring where
  state : RingState
  /-- the ring is HALTED: its die is in debug halt, and it has reached its boundary (R390, R405) -/
  halted : Bool
  epc : Word
  ecause : BitVec 11
  eval : Word
  ppl : Bool
  ie : Bool
  pie : Bool
  ppre : Bool
  pact : Bool
  ptmo : Bool
  evec : Word
  ptbase : BitVec 39
  jid : BitVec 16
  quantum : BitVec 48
  vlcap : BitVec 16
  gangcfg : BitVec 1
  reshapePend : Bool
  reshapeShape : BitVec 1
  reshapeCap : BitVec 16
  /-- RING4X2 (R210) -/
  gang : Bool
  /-- a core of the ring is retired (R210) -/
  retired : Bool
  region : Option Region
  /-- the strand's chunks in flight, oldest first; the executing one's copy is stale -/
  chunks : List Hart
  /-- the index in chunks of the one that State.hart holds while this ring executes -/
  active : Nat
  stride : Vector StrideEntry 64
  outbound : List OutMsg
  /-- the resident actor: its job and AID (R238) -/
  resident : Option (BitVec 16 × BitVec 12)
  /-- the slot and the number of the strand or handler that ran last, where none is in flight (R219, R246) -/
  lastSlot : BitVec 3
  lastSeq : BitVec 16
  /-- the actor runs its entry strand, and has not ended it (R255) -/
  inEntry : Bool
  /-- the resident actor has been resident for QUANTUM (R261) -/
  changeDue : Bool
  /-- it has overrun, and the dispatcher takes it off the ring when it has stopped (R261) -/
  overrun : Bool
  /-- PREEMPT's SRC and SOURCE while it is pending (R392) -/
  preSrc : BitVec 6
  preSource : BitVec 2
  /-- ring stepped by the debugger (R406) -/
  stepping : Bool
  /-- the address of the stepped instruction that has completed, while its stop is due (R406) -/
  stepped : Option Word
  /-- the stop is debug halt's and is to be taken at the boundary (R405) -/
  haltReq : Bool
  /-- the floor F of each core (R317) -/
  floor : Vector Word 8
  /-- halt or a double trap has stopped the ring: the dispatcher treats it as unavailable until it resumes (R386) -/
  unavailable : Bool
  /-- the boot found fewer than 7 good cores, or an unavailable die: nothing uses the ring until module reset (R421) -/
  absent : Bool
deriving DecidableEq, Repr

/-- A management core (R379): a Hart at M and its machine CSRs. -/
structure Mgmt where
  hart : Hart
  mepc : Word
  mcause : BitVec 18
  mval : Word
  mie : Bool
  mpie : Bool
  mnest : Bool
  mvec : Word
  dbgHalt : BitVec 8
  stepRing : BitVec 6
  step : Bool
  pwrFloor : BitVec 10
  pwrCeil : BitVec 10
  pwrBoost : Bool
  /-- M events that wait to be taken: code, ring, value, and the MEPC that a double trap reports (R362) -/
  events : List (BitVec 8 × BitVec 6 × Word × Option Word)
  stopped : Bool
  cycle : Word
  floor : Word
deriving DecidableEq, Repr

/-- A mailbox of an actor (R240, R242, R397). -/
structure Mailbox where
  tag : BitVec 16
  beats : BitVec 3
  /-- 0 CLOSED, 1 handled, 2 polled (R397) -/
  mode : BitVec 2
  haddr : Word
  splog : BitVec 5
  spbase : Word
  sphead : BitVec 21
  /-- on-die queue, head first -/
  queue : List Message
  /-- spill area, oldest first -/
  spill : List Message
  /-- the messages that were in it when the actor last left its ring, as its context's SPCNT counts them (R397) -/
  counted : Nat := 0
deriving DecidableEq, Repr

/-- What a strand's context has no field for (R398): the depth of its nested forks, the trap handlers that it runs, and the registers sd and sa of its
region's fork. -/
structure Kept where
  depth : Nat := 0
  inTrap : Nat := 0
  dReg : BitVec 5 := 0
  aReg : BitVec 5 := 0
deriving DecidableEq, Repr

/-- What an actor is doing (R255, R260, R261). -/
inductive ActorPhase where
  /-- its entry strand has not started -/
  | entry
  /-- its entry strand or a handler was pre-empted and saved, and is ready to continue -/
  | saved
  /-- ctxsave has taken it off its ring (R400): software resumes it by ctxload -/
  | released
  /-- a switch-out has taken it off its ring, and the switch-in puts it back (R462, R465) -/
  | swept
  /-- its entry strand or handlers are on its ring -/
  | onRing
  /-- handler-driven, between handlers -/
  | handlers
  | finished
deriving DecidableEq, Repr

/-- An actor (R238, R258, R476). -/
structure Actor where
  jid : BitVec 16
  aid : BitVec 12
  ring : BitVec 6
  wid : BitVec 6
  widShape : BitVec 42
  prio : BitVec 3
  phase : ActorPhase
  /-- its saved context holds messages of a handled mailbox (R260, R262) -/
  ctxQueued : Bool
  /-- its entry strand has ended: what runs for it is a handler (R255) -/
  driven : Bool := false
  /-- the model's own: what its last save left out of its context (R380; log 92) -/
  kept : Kept := {}
  entryPc : Word
  stackTop : Word
  ptroot : BitVec 39
  ctx : Word
  ctxPages : BitVec 20
  typeErr : BitVec 16
  undeliv : BitVec 16
  mbx : Vector Mailbox 32
  /-- when it last became runnable: the order in which actors of one priority take a ring (R260) -/
  since : Nat
deriving DecidableEq, Repr

/-- The counts and clock of a span die (R412, R414, R416 to R423). -/
structure Die where
  available : Bool
  held : BitVec 10
  owed : BitVec 10
  lent : BitVec 10
  step : BitVec 5
  cestat : Word
  droop : Word
  stretched : Bool
  /-- a change of clock step under way (R416) -/
  target : Option (BitVec 5)
  /-- the die count D (R414) -/
  count : Word
  /-- the cycles of its cores' clock since module reset: CYCLE of each (R413) -/
  cycle : Word
  wanted : BitVec 10
  /-- the die a BORROW is outstanding to (R418) -/
  asking : Option (BitVec 3)
  /-- DENY messages since the round of asking began, and the wait of 8 µs after seven -/
  denies : BitVec 3
  resting : Bool
  /-- tokens borrowed, oldest grant first, and tokens lent: die and amount -/
  grants : List (BitVec 3 × BitVec 10)
  loans : List (BitVec 3 × BitVec 10)
  /-- tokens under a RECALL that each borrower has still to repay (R418) -/
  recalls : List (BitVec 3 × BitVec 10)
  /-- the governor's cap at 105 °C (R423) -/
  capped : Bool
  /-- failed physical cores of each cluster (R421) -/
  failed : List (BitVec 2 × BitVec 5)
  /-- corrected errors of the cores' own SRAMs within the last hour: cluster, physical core, and D of each (R422) -/
  coreLog : List (BitVec 2 × BitVec 5 × Word)
  /-- half a nanosecond of correction of D under way, forward or back, and the nanoseconds by which D is still to be held back (R414) -/
  half : Option Bool
  back : Word
deriving DecidableEq, Repr

/-- A power message in transit (R417): its kind, ends and operand. -/
inductive PowerMsg where
  | borrow (src dst : BitVec 3) (n : BitVec 10)
  | grant (src dst : BitVec 3) (n : BitVec 10)
  | deny (src dst : BitVec 3)
  | repay (src dst : BitVec 3) (n : BitVec 10)
  | recall (src dst : BitVec 3) (n : BitVec 10)
deriving DecidableEq, Repr

/-- A line of a shared-cache slice (R282, R283): valid and dirty bits of its four sectors, and the bytes that the home memory still holds
under dirty sectors (R292). -/
structure SliceLine where
  die : BitVec 3
  slice : BitVec 5
  set : BitVec 10
  way : BitVec 4
  line : BitVec 31
  valid : BitVec 4
  dirty : BitVec 4
  older : List Host.Cell
deriving DecidableEq, Repr

/-- A line of a core's L1 (R281): the core (die, cluster, index), the line number (physical address / 128), its valid sectors, and those that hold
an uncorrectable error (R291). Committed stores write through, so a line never holds a byte that memory does not. -/
structure L1Line where
  core : BitVec 9
  line : Nat
  valid : BitVec 4
  bad : BitVec 4
deriving DecidableEq, Repr

/-- A group-table entry (R450). -/
structure GroupEntry where
  v : Bool
  state : BitVec 2
  gen : BitVec 4
  lastgen : BitVec 4
  lgv : Bool
  jid : BitVec 16
  upath : BitVec 12
  root : Bool
  err : Bool
  child : BitVec 128
  round : BitVec 32
  late : BitVec 16
deriving DecidableEq, Repr

/-- A value that a child has delivered for a round (R451, R452), with the greatest TIME it carries (R453). -/
structure Contribution where
  index : BitVec 12
  child : BitVec 7
  round : BitVec 32
  ty : BitVec 2
  op : BitVec 2
  value : Word
  time : Word
deriving DecidableEq, Repr

/-- What an L0 switch keeps of a member ring's pending contribution (R455), and a result held for a ring that no strand of the job is resident on
(R452). -/
structure RingResult where
  index : BitVec 12
  gen : BitVec 4
  jid : BitVec 16
  ring : BitVec 1
  /-- the core, within the cluster, whose local store holds the word, and the word's offset -/
  core : BitVec 4
  offset : BitVec 19
  /-- the result and the TIME it carries, once it has come and is held -/
  value : Option (Word × Word)
deriving DecidableEq, Repr

/-- A packet in a switch's buffers: input port and channel (TC, RESP) in order of arrival (R430, R433, R463). -/
structure Buffered where
  port : BitVec 5
  chan : BitVec 3
  /-- TIME of its arrival (R466) -/
  time : Word
  pkt : Packet
deriving DecidableEq, Repr

/-- The part of a switch in a gang switch of one job (R462, R465). -/
structure SwitchJob where
  jid : BitVec 16
  gseq : BitVec 32
  /-- markers that have arrived: port and channel -/
  markers : List (BitVec 5 × BitVec 3)
  /-- input ports closed to the job -/
  closed : List (BitVec 5)
  /-- an abutment switch's markers have left by its external links (R462 step 4) -/
  raised : Bool
  saved : Bool
  count : BitVec 32
  discarding : Bool
  /-- TIME when the switch completed step 5 of R462 -/
  doneAt : Word := 0
deriving DecidableEq, Repr

/-- A switch of the module (R424). -/
structure Switch where
  id : SwitchId
  buf : List Buffered
  groups : List (BitVec 12 × GroupEntry)
  parts : List Contribution
  ringRes : List RingResult
  /-- multicasts issued by a ring on a group: GID, ring, count (R455) -/
  mcasts : List ((BitVec 16 × BitVec 1) × BitVec 32)
  /-- reports of drained children at the root, by GID (R458) -/
  drained : List (BitVec 16 × Word)
  jobs : List SwitchJob
  /-- packets of the deflection overflow area (R444), in order of arrival, and the slot of that area which the next flit takes (R445; log 40) -/
  overflow : List Buffered
  tail : Nat
  /-- what each of TC1 to TC3 has had of an output, by the switch and port it leads to, weighted by 1 : 4 : 3 (R433) -/
  shares : List ((SwitchId × BitVec 5) × Vector Nat 3)
  /-- flooded packets already passed on, the latest 1,024: SMOD and PSEQ (R443; log 40) -/
  seen : List (BitVec 14 × BitVec 16)
deriving DecidableEq, Repr

/-- An end of an external link (R427 to R429, R446 to R448). -/
structure Link where
  ksel : BitVec 1
  kv0 : Bool
  kv1 : Bool
  rot : Bool
  newkey : Bool
  up : Bool
  recov : Bool
  failed : Bool
  replays : BitVec 16
  /-- FSEQ of the next frame, and of the last frame accepted -/
  txSeq : BitVec 32
  rxSeq : BitVec 32
  kept : List Frame
  /-- frames to send again, in order (R429) -/
  resend : List Frame
  /-- packets waiting to be framed, with the TIME at which they came to their switch (R439) -/
  out : List Buffered
  /-- flits accepted of a packet not yet whole -/
  rxFlits : List (BitVec 512)
  /-- what those packets carry beside their headers -/
  rxCarried : List Carried
  /-- key numbers in the transmit and receive slots -/
  txKeys : Vector (Option Nat) 2
  rxKeys : Vector (Option Nat) 2
  nextKey : Nat
  kready : Bool
  retire : BitVec 2
  sendNak : Bool
  failures : Nat
  /-- frames sent under the current key (R446) -/
  keyUse : Nat
  freed : BitVec 64
  credit : BitVec 64
  /-- flits sent on each channel for which no credit has come back (R428, R433) -/
  inFlight : Vector Nat 8
  /-- what each of TC1 to TC3 has had of the link, weighted by 1 : 4 : 3 (R433) -/
  share : Vector Nat 3
deriving DecidableEq, Repr

/-- A flow of requests (R438, R439): its key, next PSEQ, up-path, and the requests without their response. -/
structure Flow where
  sring : BitVec 6
  dmod : BitVec 14
  jid : BitVec 16
  tc : BitVec 2
  pseq : BitVec 16
  upath : BitVec 12
  lastTime : Word
  open_ : List Packet
  /-- still under the rules of deflection mode after its end, until it has no open request (R442) -/
  defl : Bool
  /-- until when a SLOW response forbids a change of path while a request is open (R439) -/
  slowUntil : Word
deriving DecidableEq, Repr

/-- The state of a job on the module (R460). -/
inductive JobState where
  | running | sweeping | out | restoring | failed
deriving DecidableEq, Repr

/-- A gang switch that this module's abutment die 0 runs as the job's root (R460 to R465). -/
structure GangRun where
  jid : BitVec 16
  out : Bool
  gseq : BitVec 32
  /-- the command came from a core of another module (log 39) -/
  far : Bool
  issuer : BitVec 1
  cmdNo : BitVec 16
  /-- the switches and modules that have not reported -/
  switches : List Word
  modules : List (BitVec 14)
  count : BitVec 32
  overflowed : Bool
deriving DecidableEq, Repr

/-- A waiting ldsync or ldtake (R313), in order of arrival at its word. -/
structure Waiter where
  pa : BitVec 56
  ring : BitVec 6
  slot : BitVec 3
  take : Bool
  /-- it has been served: the word as it then stood, and the TIME that the word carried -/
  got : Option (Word × Word) := none
deriving DecidableEq, Repr

/-- An agent that a step can move (log 3). -/
inductive Agent where
  | ring (n : BitVec 6)
  | mgmt (a : BitVec 1)
deriving DecidableEq, Repr

/-- A place of a core's storage beside its memory: register files, buffers, queues, TLB and L1 (R290). -/
inductive RegName where
  | x (r : BitVec 5)
  | v (r : BitVec 6)
  | k (r : BitVec 3)
  | z (r : BitVec 2)
  /-- a tile operand buffer (A or B), or its scale buffer -/
  | tile (b scale : Bool)
  /-- an entry of the vector queue, or a record of the completion queue, by place -/
  | queue (i : Nat)
  | record (i : BitVec 6)
  /-- a cached page-table entry, by place -/
  | tlb (i : Nat)
  /-- the sector of an address in the core's L1 -/
  | l1 (pa : BitVec 56)
  /-- a byte of the strips that a stream slot has fetched ahead, by its physical address -/
  | strip (slot : BitVec 3) (pa : BitVec 56)
  /-- a message, by its place in a mailbox of the resident actor, in the strand's stage, or in the outbound buffer -/
  | mailbox (m : BitVec 5) (i : Nat)
  | staged (i : Nat)
  | outbound (i : Nat)
deriving DecidableEq, Repr

/-- What the world outside the strands does next (log 3): an operation of the device, or which strand, chunk or core moves; and the
outside acts that no row of the table names: a soft error, a lag of the vector unit and engines, a dropped or kept translation, a receive
WQE or a remote key that the host posts, a job's presence on another module. -/
inductive Stim where
  | event (i : Instr)
  | turn (a : Agent)
  | slot (n : BitVec 3)
  | lag (b : Bool)
  | keepTranslations (b : Bool)
  | dropTranslations
  | softError (pa : BitVec 56)
  /-- a single-bit error on a die, corrected in place and counted: of its HBM4 stacks, or of its SRAMs (R290, R420) -/
  | correctedError (die : BitVec 3) (hbm : Bool)
  /-- one in the SRAMs of a core, by cluster and physical number (R422) -/
  | coreError (die : BitVec 3) (cluster : BitVec 2) (phys : BitVec 5)
  /-- a link of another module has ended its recovery (R442; log 40) -/
  | recoveredAt (m : BitVec 14)
  /-- an uncorrectable error in storage of the executing core (R291) -/
  | registerError (r : RegName)
  | postReceive (port : BitVec 3) (qpn : BitVec 24)
  /-- the host sends a packet that the table of R471 does not admit -/
  | hostInvalid (port : BitVec 3) (qpn : BitVec 24)
  | remoteKey (port : BitVec 3) (key : BitVec 32) (jid : BitVec 16) (base len : BitVec 56) (r w : Bool)
  /-- the record that a root on another module posts for a gang switch of a job: STATUS and DONE (R461; log 39) -/
  | gangRecord (jid : BitVec 16) (status : BitVec 8) (done : BitVec 32)
  /-- a ring of a job is, or is no longer, on another module (R460; log 39) -/
  | jobAt (jid : BitVec 16) (m : BitVec 14) (on : Bool)
  /-- a switch chip of level L3 or L4 raises LATEPKT or GSOVF, with its MVAL (R469; log 39) -/
  | chipEvent (gsovf : Bool) (val : Word)
  /-- the board switches give this module, a spare, the number of a failed one (R482 step 3; log 99) -/
  | renumber (m : BitVec 14)
  /-- the firmware has written a job's checkpoint back, with its actors on this module (R482 step 4; log 99) -/
  | restored (jid : BitVec 16) (actors : List Actor)
deriving DecidableEq, Repr

/-- A remote key of an Ethernet port (R471). -/
structure RemoteKey where
  port : BitVec 3
  key : BitVec 32
  jid : BitVec 16
  base : BitVec 56
  len : BitVec 56
  r : Bool
  w : Bool
deriving DecidableEq, Repr

/-- A host operation that awaits responses of another module (R472, R474): its queue pair, what it is, and, for each of its packets, the tag
and the response's status and data once they have come. -/
structure HostWait where
  port : BitVec 3
  qpn : BitVec 24
  send : Bool
  read : Bool
  parts : List (BitVec 16 × Option (BitVec 4 × List Byte))
deriving DecidableEq, Repr

/-- A host operation's outcome as the host sees it (R471, R472, R474, R475, R479), the ready message (R478) with its port, its UDP port, its status, the module's
serial number, the rings and dies that are unavailable and the digest of the identity key, and a module fault (R482). -/
inductive HostOut where
  | ack (port : BitVec 3) (qpn : BitVec 24)
  | data (port : BitVec 3) (qpn : BitVec 24) (bytes : List Byte)
  | nakInvalid (port : BitVec 3) (qpn : BitVec 24)
  | rnrNak (port : BitVec 3) (qpn : BitVec 24)
  | send (port : BitVec 3) (qpn : BitVec 24) (bytes : List Byte)
  | ready (port : BitVec 3) (udp : BitVec 16) (status : Nat) (serial : BitVec 64) (rings : List (BitVec 6)) (dies : List (BitVec 3)) (digest : BitVec 384)
  | fault (kind : ModuleFaultKind)
deriving DecidableEq, Repr

/-- A cached page-table entry (R274): JID, level, the virtual-address bits that index down to it, and the entry. -/
structure CachedPte where
  jid : BitVec 16
  level : BitVec 2
  prefix_ : Word
  pte : Word
  /-- it holds an uncorrectable error (R290, R291) -/
  bad : Bool
deriving DecidableEq, Repr

/-- Where the module stands between reset and running (R478). -/
inductive Power where
  | inReset | running | bootFailed | off
deriving DecidableEq, Repr

/-- The machine: one module. -/
structure State where
  /-- the strand, chunk or management core that executes -/
  hart : Hart
  /-- the ring that executes; its entry in rings is stale -/
  ring : Ring
  /-- the number of that ring (R390) -/
  cur : BitVec 6
  /-- the management core that executes, if one does; its entry's hart is then stale, and ring's active chunk is not -/
  onMgmt : Option (BitVec 1)
  rings : Vector Ring 64
  mgmt : Vector Mgmt 2
  /-- bytes by global physical address (R270); canonical (Memory.wf) -/
  mem : List Host.Cell
  /-- full words of local store by physical address (R311), rising -/
  full : List Nat
  /-- TIME carried by released words (R317): physical address of the byte, TIME; rising -/
  released : List (Nat × Word)
  /-- bytes with an uncorrectable error (R291), by physical address, rising -/
  bad : List Nat
  /-- sectors whose write-back was lost and whose jobs have still to fail (R292), by physical address / 32, rising -/
  lost : List Nat
  /-- control-region storage: access tables and host bindings, nonzero 8-byte words by physical address, rising (R287, R473, R480) -/
  ctl : List (Nat × Word)
  ptes : List CachedPte
  waiters : List Waiter
  lines : List SliceLine
  /-- the L1 caches of all cores, the line used last first (R281) -/
  l1 : List L1Line
  /-- sectors (physical address / 32) whose latest translated store came through a NEAR page, rising (R285) -/
  through : List Nat
  /-- permits held: core, slice, count (R286) -/
  permits : List (BitVec 9 × BitVec 5 × Nat)
  /-- requests that wait for a permit, by core, oldest first (R286) -/
  permitWait : List (BitVec 9 × SliceReq)
  actors : List Actor
  dies : Vector Die 8
  power : List PowerMsg
  /-- abutment die 0's module reference (R414), its correction under way, and whether it has joined the system's -/
  reference : Word
  refHalf : Option Bool
  refBack : Word
  joined : Bool
  module : BitVec 14
  present : List (BitVec 14)
  mode : Power
  switches : List Switch
  links : Vector Link 18
  flows : List Flow
  nextTag : BitVec 16
  /-- packets held back at the source by R438 and R441, in order of issue -/
  heldOut : List Packet
  /-- packets that left the module, latest first -/
  fabOut : List Packet
  frames : List (BitVec 5 × Frame)
  flowgap : BitVec 16
  defl : Bool
  /-- PSEQ of the next flooded packet (R443) -/
  floodSeq : BitVec 16
  /-- other modules where a link recovers, or is neither up nor failed since the start (R442) -/
  recovering : List (BitVec 14)
  /-- reports to the far end of a failed link of the last FSEQ accepted (R442) -/
  linkReports : List (BitVec 5 × BitVec 32)
  badpkt : Vector (BitVec 32) 2
  deflect : Vector (BitVec 32) 2
  jobs : List (BitVec 16 × JobState)
  gang : List GangRun
  /-- gang-switch commands sent to a root on another module whose records have not come: JID, core and command number (R461; log 39) -/
  gangAsked : List (BitVec 16 × BitVec 1 × BitVec 16)
  /-- jobs of a switch-out whose rings on this module are saved (R462 step 6) -/
  ringsSaved : List (BitVec 16)
  /-- the other modules that hold a ring of a job (R460; log 39) -/
  elsewhere : List (BitVec 16 × BitVec 14)
  nextGseq : BitVec 32
  /-- jobs that a module fault affects: they become FAILED when their switch-out is complete (R482 step 2) -/
  failing : List (BitVec 16)
  /-- reads of other modules by the supervisor runtime, for a launch (R476) -/
  runtimeReads : List RemoteWait
  /-- JIDs that some module holds in debug halt (R405), with that module -/
  paused : List (BitVec 16 × BitVec 14)
  /-- ring time at which each present module was last heard (R443) -/
  heard : List (BitVec 14 × Word)
  /-- receive WQEs posted, by queue pair (R475) -/
  wqes : List ((BitVec 3 × BitVec 24) × Nat)
  keys : List RemoteKey
  /-- queue pairs in the error state (R471) -/
  qpErr : List (BitVec 3 × BitVec 24)
  /-- host operations that await another module -/
  hostWaits : List HostWait
  /-- what the host has seen, latest first -/
  host : List HostOut
  /-- cores marked for retirement in the repair store, and those that a management core has still to mark (R422) -/
  repair : List (BitVec 3 × BitVec 2 × BitVec 5)
  retireDue : List (BitVec 3 × BitVec 2 × BitVec 5)
  /-- the model's own: what moves next, whether the vector unit and engines lag, whether translations are kept, the count of free
  values used, and the count by which actors are ordered -/
  agenda : List Stim
  lag : Bool
  keep : Bool
  fresh : Nat
  order : Nat
deriving DecidableEq, Repr

/-- Why the machine stops. Nothing stops it: a trap of the spec is no fault but a next state, and the spec gives every access an effect or a
trap, so this type has no constructor. -/
inductive Fault where
deriving DecidableEq, Repr

/-- Why an instruction has no meaning. -/
inductive Refusal where
  /-- no meaning has been written for the instruction with this mnemonic. Raised by the arms of exec alone. Safe. -/
  | notModelled (mnemonic : String)
deriving DecidableEq, Repr

/-- The scalar state that a strand begins with (R31, R36); VLMAX is that of 32 registers and si8. -/
def Scal.start : Scal :=
  { x := Vector.replicate 32 0, pc := 0, vl := 0, sew := 0, slices := 6, vlmax := 2048, nreg := 2, rm := 0, flags := 0, ve := false,
    pfxWord := 0, pfxV := false, livein := 0, bad := 0 }

/-- A free slot of the stream engine. -/
def StreamSlot.free : StreamSlot :=
  { bound := false, record := 0, reg := 0, pos := 0, ipend := false, icnt := 0, vl := 0, fetched := [], emitted := [], drains := [],
    awaits := [], denied := none }

/-- The masks that a strand begins with: k7 all ones, the others zero (R36). k0 is read as all ones without being stored. -/
def startMasks : Vector MaskReg 8 := (Vector.replicate 8 0).set 7 (BitVec.allOnes 32768)

/-- A strand that begins (R36). -/
def Hart.start : Hart :=
  { sc := Scal.start, level := .u, vstart := 0, v := Vector.replicate 64 0, k := startMasks, z := Vector.replicate 4 0,
    aBuf := 0, bBuf := 0, aScale := 0, bScale := 0, tm := 0, tn := 0, tk := 0, tkType := 0, wid := 0, widShape := 0, msgHdr := 0,
    queue := [], convoy := [], pfx := none, park := .running, remote := [], vremote := [], eremote := [], slots := Vector.replicate 8 StreamSlot.free, cq := [],
    cmdNo := 0, copies := [], piers := [], stage := [], slot := 0, seq := 0, chunk := 0, depth := 0, inTrap := 0, state := .run, handler := none, held := false,
    written := [], precise := false, acquired := 0, timeRead := none, saving := [], sr := [], awaiting := 0, predicted := 0, readLive := 0, wroteReg := 0, liveVal := Vector.replicate 32 0,
    vBad := 0, kBad := 0, zBad := 0, tBad := 0, cqBad := 0, imageDone := true }

/-- A cold entry of the stride table (R222). -/
def StrideEntry.cold : StrideEntry := { tag := 0, used := false, stride := Vector.replicate 32 0, valid := 0 }

/-- A ring after module reset: EMPTY, its supervisor CSRs at the values of R373 to R377. -/
def Ring.reset : Ring :=
  { state := .empty, halted := false, epc := 0, ecause := 0, eval := 0, ppl := false, ie := false, pie := false, ppre := false, pact := false,
    ptmo := false, evec := 0, ptbase := 0, jid := 0, quantum := 0x03E8000F4240#48, vlcap := 0, gangcfg := 0, reshapePend := false,
    reshapeShape := 0, reshapeCap := 0, gang := false, retired := false, region := none, chunks := [], active := 0,
    stride := Vector.replicate 64 StrideEntry.cold, outbound := [], resident := none, lastSlot := 0, lastSeq := 0, inEntry := false,
    changeDue := false, overrun := false, preSrc := 0, preSource := 0, stepping := false, stepped := none, haltReq := false,
    floor := Vector.replicate 8 0, unavailable := false, absent := false }

/-- A management core after module reset (R378, R404, R419). -/
def Mgmt.reset : Mgmt :=
  { hart := { Hart.start with level := .m }, mepc := 0, mcause := 0, mval := 0, mie := false, mpie := false, mnest := false, mvec := 0,
    dbgHalt := 0, stepRing := 0, step := false, pwrFloor := 300, pwrCeil := 520, pwrBoost := true, events := [],
    stopped := false, cycle := 0, floor := 0 }

/-- A span die after module reset: 420 tokens, 2.7 GHz (R415, R420). -/
def Die.reset : Die :=
  { available := true, held := 420, owed := 0, lent := 0, step := 15, cestat := 0, droop := 0, stretched := false, target := none,
    count := 0, cycle := 0, wanted := 420, asking := none, denies := 0, resting := false, grants := [], loans := [], recalls := [],
    capped := false, failed := [], coreLog := [], half := none, back := 0 }

/-- A switch after module reset (R450). -/
def Switch.reset (id : SwitchId) : Switch :=
  { id := id, buf := [], groups := [], parts := [], ringRes := [], mcasts := [], drained := [], jobs := [], overflow := [], tail := 0, shares := [], seen := [] }

/-- The switches of the module, by the numbers of R466: 5d + c, 5d + 4, 40 + a. -/
def moduleSwitches : List SwitchId :=
  ((List.range 8).flatMap fun d =>
    ((List.range 4).map fun c => SwitchId.l0 (BitVec.ofNat 3 d) (BitVec.ofNat 2 c)) ++ [SwitchId.l1 (BitVec.ofNat 3 d)])
    ++ [.l2 0, .l2 1]

/-- An external link after module reset (R448). -/
def Link.reset : Link :=
  { ksel := 0, kv0 := false, kv1 := false, rot := false, newkey := false, up := false, recov := false, failed := false, replays := 0,
    txSeq := 0, rxSeq := BitVec.allOnes 32, kept := [], resend := [], out := [], rxFlits := [],
    txKeys := Vector.replicate 2 none, rxKeys := Vector.replicate 2 none, nextKey := 0, kready := false, retire := 0, sendNak := false,
    failures := 0, keyUse := 0, freed := 0, credit := 0, rxCarried := [], inFlight := Vector.replicate 8 0, share := Vector.replicate 3 0 }

/-- The module right after reset: every register at the value its map states, or, where the spec states none, at the value that the
assumption log names (1, 2, 8, 10, 12, 13, 14, 39, 40, 54). -/
def State.reset : State :=
  { hart := Hart.start, ring := Ring.reset, cur := 0, onMgmt := none, rings := Vector.replicate 64 Ring.reset,
    mgmt := Vector.replicate 2 Mgmt.reset, mem := [], full := [], released := [], bad := [], lost := [], ctl := [], ptes := [], waiters := [],
    lines := [], l1 := [], through := [], permits := [], permitWait := [], actors := [], dies := Vector.replicate 8 Die.reset, power := [], reference := 0, refHalf := none, refBack := 0, joined := false, module := 0,
    present := [0], mode := .inReset, switches := moduleSwitches.map Switch.reset, links := Vector.replicate 18 Link.reset, flows := [],
    nextTag := 0, heldOut := [], fabOut := [], frames := [], flowgap := 500, defl := true, floodSeq := 0, recovering := [], linkReports := [], badpkt := Vector.replicate 2 0,
    deflect := Vector.replicate 2 0, jobs := [], gang := [], gangAsked := [], ringsSaved := [], elsewhere := [], nextGseq := 0, failing := [], runtimeReads := [], paused := [], heard := [], wqes := [], keys := [],
    qpErr := [], hostWaits := [], host := [], repair := [], retireDue := [], agenda := [], lag := false, keep := false, fresh := 0, order := 0 }

end Sys2Proof.Machine
end

