-- ==== Sys2Proof/Machine/Ops.lean ====
section
/-! DEFINITION. The operations that every meaning uses: the computation type M and how its outcome becomes a step; scalar registers
(spec/02 R24, R39; spec/04 R107); bytes of memory (spec/00 R4) and the L1 records of a chunk (spec/10 R224 to R226); time (spec/15
R317); squash and restart of chunks and handlers (spec/10 R216, R230; spec/11 R247); taking a trap and returning from it (spec/19 R362,
R363, R384; spec/10 R234). -/

namespace Sys2Proof.Machine

/-! ### Causes (R365) -/

/-- ILL -/
def causeILL : BitVec 8 := 0x01#8
/-- PRIV -/
def causePRIV : BitVec 8 := 0x02#8
/-- ALIGN -/
def causeALIGN : BitVec 8 := 0x03#8
/-- PAGER -/
def causePAGER : BitVec 8 := 0x04#8
/-- PAGEW -/
def causePAGEW : BitVec 8 := 0x05#8
/-- PAGEX -/
def causePAGEX : BitVec 8 := 0x06#8
/-- ACCESS -/
def causeACCESS : BitVec 8 := 0x07#8
/-- CONVOY -/
def causeCONVOY : BitVec 8 := 0x08#8
/-- TRAPI -/
def causeTRAPI : BitVec 8 := 0x09#8
/-- ACTSTALL -/
def causeACTSTALL : BitVec 8 := 0x0C#8
/-- GRPREUSE -/
def causeGRPREUSE : BitVec 8 := 0x0D#8
/-- ENGFAULT, a record status only -/
def causeENGFAULT : BitVec 8 := 0x0E#8
/-- MCHK -/
def causeMCHK : BitVec 8 := 0x0F#8
/-- BREAK -/
def causeBREAK : BitVec 8 := 0x10#8
/-- TIMEOUT -/
def causeTIMEOUT : BitVec 8 := 0x11#8
/-- LATEPKT, at M only -/
def causeLATEPKT : BitVec 8 := 0x12#8
/-- GSOVF, at M only -/
def causeGSOVF : BitVec 8 := 0x13#8
/-- PREEMPT -/
def causePREEMPT : BitVec 8 := 0x14#8

/-! ### Computations -/

/-- Why an instruction cannot complete now: it is parked, its chunk holds for the keystone, it issues a remote access and awaits the
response, or it joins the waiters of a word. None of its effects stays, but for keep; it executes again later. -/
inductive Wait where
  | park (p : Park)
  | hold (r : HoldReason)
  | remote (write : Bool) (pa : BitVec 56) (pkt : Packet)
  | waiter (pa : BitVec 56) (take : Bool)
  /-- it writes a chunk's SW sectors at another module, and awaits the response (R229; log 22) -/
  | flush (pa : BitVec 56) (pkt : Packet)
  /-- another module has denied bytes of the chunk's SW sectors: it starts again, and its stores to other modules leave at once (log 22) -/
  | redo
  /-- parked, with what it has done so far done (R457, R458) -/
  | keep (p : Park)
deriving DecidableEq, Repr

/-- What ends a computation early: a trap with its cause and EVAL, or a wait. -/
inductive Stop where
  | trap (code : BitVec 8) (val : Word)
  | wait (w : Wait)
deriving DecidableEq, Repr

/-- A computation on the state that may stop early; a trap keeps the state it reached. -/
abbrev M := EStateM Stop State

/-- What a step answers. -/
abbrev Out := Host.Outcome State Fault Refusal

/-- Raises a trap with EVAL. -/
def trap {α : Type} (code : BitVec 8) (val : Word) : M α := throw (.trap code val)

/-- Traps ILL with the instruction's word in EVAL (R83). -/
def ill {α : Type} (w : Word32) : M α := trap causeILL (w.setWidth 64)

/-- Waits. -/
def wait {α : Type} (w : Wait) : M α := throw (.wait w)

/-- Changes the executing strand. -/
def modHart (f : Hart → Hart) : M Unit := modify fun s => { s with hart := f s.hart }

/-- Changes the executing ring. -/
def modRing (f : Ring → Ring) : M Unit := modify fun s => { s with ring := f s.ring }

/-! ### Small helpers on lists of keyed data -/

/-- The entry of a list of pairs under a key. -/
def lookupKey {κ β : Type} [DecidableEq κ] (l : List (κ × β)) (k : κ) : Option β :=
  match l with
  | [] => none
  | (a, b) :: t => if a = k then some b else lookupKey t k

/-- A list of pairs with the entry under a key replaced, or added at the end. -/
def putKey {κ β : Type} [DecidableEq κ] (l : List (κ × β)) (k : κ) (b : β) : List (κ × β) :=
  match l with
  | [] => [(k, b)]
  | (a, c) :: t => if a = k then (k, b) :: t else (a, c) :: putKey t k b

/-- Inserts a number into a rising list without repeats. -/
def insertNat (l : List Nat) (a : Nat) : List Nat :=
  match l with
  | [] => [a]
  | b :: t => if a < b then a :: b :: t else if a = b then b :: t else b :: insertNat t a

/-- Removes a number from a list. -/
def removeNat (l : List Nat) (a : Nat) : List Nat := l.filter (· ≠ a)

/-- A rising list of numbers without repeats. -/
def rising : List Nat → Bool
  | [] => true
  | [_] => true
  | a :: b :: t => a < b && rising (b :: t)

/-! ### Bytes of memory -/

/-- What a byte that nothing has written reads as (DESIGN CHOICE, log 1). -/
def unwrittenByte : Byte := 0

/-- The byte at an address. -/
def memGet (m : List Host.Cell) (a : Nat) : Byte :=
  match m with
  | [] => unwrittenByte
  | (b, x) :: t => if a = b then x else if a < b then unwrittenByte else memGet t a

/-- The memory with one byte stored, in canonical form. -/
def memSet (m : List Host.Cell) (a : Nat) (x : Byte) : List Host.Cell :=
  match m with
  | [] => if x = unwrittenByte then [] else [(a, x)]
  | (b, y) :: t =>
    if a < b then (if x = unwrittenByte then (b, y) :: t else (a, x) :: (b, y) :: t)
    else if a = b then (if x = unwrittenByte then t else (a, x) :: t)
    else (b, y) :: memSet t a x

/-- The canonical form of memory: addresses strictly rising and above a bound, no byte equal to what an unlisted one reads as. -/
def cellsAbove (lo : Option Nat) : List Host.Cell → Bool
  | [] => true
  | (a, x) :: t => (match lo with | none => true | some b => decide (b < a)) && x != unwrittenByte && cellsAbove (some a) t

/-- The canonical form of memory. -/
def Memory.wf (m : List Host.Cell) : Bool := cellsAbove none m

/-- Byte i of a number, the low byte first (R4). -/
def byteAt (x i : Nat) : Byte := BitVec.ofNat 8 (x >>> (8 * i))

/-- The number that n bytes from an address spell, low byte first (R4). -/
def readLE (get : Nat → Byte) (a : Nat) : Nat → Nat
  | 0 => 0
  | n + 1 => (get a).toNat + 256 * readLE get (a + 1) n

/-- Stores the low n bytes of a number from an address up, low byte first (R4). -/
def writeLE (m : List Host.Cell) (a x : Nat) : Nat → List Host.Cell
  | 0 => m
  | n + 1 => writeLE (memSet m a (BitVec.ofNat 8 x)) (a + 1) (x / 256) n

/-- The bytes of a number, low byte first. -/
def bytesOf (x : Nat) : Nat → List Byte
  | 0 => []
  | n + 1 => BitVec.ofNat 8 x :: bytesOf (x / 256) n

/-- The number that a list of bytes spells, low byte first. -/
def ofBytes : List Byte → Nat
  | [] => 0
  | b :: t => b.toNat + 256 * ofBytes t

/-! ### L1 records of a chunk: written bytes, which may be zero bytes -/

/-- The byte that a chunk has written, if it has. -/
def recGet (m : List Host.Cell) (a : Nat) : Option Byte :=
  match m with
  | [] => none
  | (b, x) :: t => if a = b then some x else if a < b then none else recGet t a

/-- The records with one byte written. -/
def recSet (m : List Host.Cell) (a : Nat) (x : Byte) : List Host.Cell :=
  match m with
  | [] => [(a, x)]
  | (b, y) :: t => if a < b then (a, x) :: (b, y) :: t else if a = b then (a, x) :: t else (b, y) :: recSet t a x

/-! ### Where things are -/

/-- The die, cluster and ring within the cluster of a ring number (R390). -/
def dieOf (ring : BitVec 6) : BitVec 3 := ring.extractLsb' 3 3
/-- the cluster -/
def clusterOf (ring : BitVec 6) : BitVec 2 := ring.extractLsb' 1 2
/-- the ring within its cluster -/
def ringInCluster (ring : BitVec 6) : Nat := ring.toNat % 2

/-- The number of chunk slots (R210). -/
def Ring.size (r : Ring) : Nat := if r.gang then 4 else if r.retired then 7 else 8

/-- The active core, within its cluster, that slot j of a ring is or whose even core it is (R210, R421). -/
def coreOfSlot (ring : BitVec 6) (gang : Bool) (j : BitVec 3) : Nat :=
  8 * ringInCluster ring + (if gang then 2 * j.toNat else j.toNat)

/-- The physical address of a byte of a core's local store (R270). -/
def storePa (module : BitVec 14) (die : BitVec 3) (cluster : BitVec 2) (core off : Nat) : Nat :=
  module.toNat * 2 ^ 42 + 2 ^ 41 + die.toNat * 2 ^ 38 + cluster.toNat * 2 ^ 36 + core * 2 ^ 32 + off

/-- The physical base of the local store of the executing core (R277). -/
def selfStore (s : State) : Nat :=
  storePa s.module (dieOf s.cur) (clusterOf s.cur) (coreOfSlot s.cur s.ring.gang s.hart.slot) 0

/-- Whether the executing chunk or handler holds the keystone (R219): a strand outside any chunk does. -/
def isKeystone (s : State) : Bool := !s.hart.held || s.ring.active == 0

/-- The JID under which the executing core runs; a management core runs under none (R379). -/
def curJid (s : State) : BitVec 16 := if s.onMgmt.isSome then 0 else s.ring.jid

/-! ### Scalar registers -/

/-- The scalar registers that a queued instruction is still to write (R39). -/
def VOp.scalarDest : VOp → Option (BitVec 5)
  | .cpop sd _ _ => some sd
  | .first sd _ _ => some sd
  | .mvxs sd _ _ => some sd
  | .nzscan _ sd _ _ => some sd
  | .red _ sd _ _ _ => some sd
  | .sisectC sd _ _ => some sd
  | .sisectW _ sd _ _ => some sd
  | _ => none

/-- The scalar register that a pfx word names as copy destination, if ce = 1 (R105). -/
def pfxCopy (w : Word32) : Option (BitVec 6) := if fld w 19 1 = 1#1 then some (fld w 13 6) else none

/-- Whether a queued instruction is still to write a scalar register, its own destination or a copy of it (R39, R107). -/
def queueWrites (q : List QEntry) (r : BitVec 5) : Bool :=
  q.any fun e =>
    match e.op.scalarDest with
    | none => false
    | some d => d == r || (match e.pfx with
      | none => false
      | some w => pfxCopy w == some (r.setWidth 6))

/-- The value of a scalar register: s0 reads zero (R24). -/
def Scal.get (c : Scal) (r : BitVec 5) : Word := if r = 0 then 0 else c.x[r.toNat]'r.isLt

/-- The scalar registers with one written: a write to s0 is discarded (R24); what is written holds no error (log 48). -/
def Scal.put (c : Scal) (r : BitVec 5) (v : Word) : Scal :=
  if r = 0 then c else { c with x := c.x.set r.toNat v r.isLt, bad := c.bad &&& ~~~(1#32 <<< r.toNat) }

/-- Bit r of a 32-bit set of scalar registers. -/
def bit32 (m : BitVec 32) (r : BitVec 5) : Bool := m.getLsbD r.toNat

/-- A 32-bit set with one register added. -/
def set32 (m : BitVec 32) (r : BitVec 5) : BitVec 32 := m ||| (1#32 <<< r.toNat)

/-- Reads a scalar register as an operand: waits while a queued instruction is to write it (R39) or its live-in value has neither arrived
nor been predicted (R221); a register in error traps MCHK (R291), with a free EVAL (log 48). -/
def rdX (r : BitVec 5) : M Word := do
  let s ← get
  let h := s.hart
  if queueWrites h.queue r then wait (.park .stalled)
  else if bit32 h.awaiting r && !bit32 h.wroteReg r then
    if bit32 h.predicted r then
      modHart fun h => { h with readLive := set32 h.readLive r }
      return h.sc.get r
    else wait (.park .stalled)
  else if bit32 h.sc.bad r then trap causeMCHK (Config.registerErrorVal s.fresh)
  else return h.sc.get r

/-- Writes a scalar register without its copy (R24, R39). -/
def putX (r : BitVec 5) (v : Word) : M Unit := do
  let s ← get
  if queueWrites s.hart.queue r then wait (.park .stalled)
  else modHart fun h => { h with sc := h.sc.put r v, wroteReg := if h.held then set32 h.wroteReg r else h.wroteReg }

/-- Writes the scalar destination of the executing instruction, and the copy register of a prefix over it, which is written even when the
destination is s0 (R107). -/
def wrX (d : BitVec 5) (v : Word) : M Unit := do
  putX d v
  match (← get).hart.pfx with
  | none => pure ()
  | some p =>
    match pfxCopy p.word with
    | none => pure ()
    | some c => putX (c.setWidth 5) v

/-- The program counter of the executing instruction. -/
def rdPc : M Word := return (← get).hart.sc.pc

/-- Continues at an address. -/
def setPc (a : Word) : M Unit := modHart fun h => { h with sc := { h.sc with pc := a } }

/-- Continues at the next word. -/
def nextPc : M Unit := modHart fun h => { h with sc := { h.sc with pc := h.sc.pc + 4 } }

/-- Raises flags in FCSR: they are only ever set (R35, R57). -/
def raiseFlags (f : BitVec 6) : M Unit := modHart fun h => { h with sc := { h.sc with flags := h.sc.flags ||| f } }

/-! ### The vector configuration -/

/-- The number of nameable vector registers (R25, R33). -/
def vregCount (nreg : BitVec 2) : Nat := 8 * 2 ^ nreg.toNat

/-- W: the width of one vector register in bytes (R25, R211). -/
def regBytes (gang : Bool) (nreg : BitVec 2) : Nat := 65536 / vregCount nreg * (if gang then 2 else 1)

/-- b: the element size in bits of an element type (R26). -/
def sewBits (sew : BitVec 4) : Nat :=
  match sew with
  | 0#4 | 1#4 | 12#4 | 13#4 | 15#4 => 8
  | 2#4 | 3#4 | 8#4 | 9#4 => 16
  | 4#4 | 5#4 | 10#4 => 32
  | 14#4 => 4
  | _ => 64

/-- VLMAX by R26: min(W, VLCAP) × 8 / b, VLCAP = 0 being no cap. -/
def vlmaxOf (r : Ring) (nreg : BitVec 2) (sew : BitVec 4) : Nat :=
  let w := regBytes r.gang nreg
  let w := if r.vlcap = 0 then w else min w r.vlcap.toNat
  w * 8 / sewBits sew

/-! ### Time (R317, R413) -/

/-- The index in its ring of the core that executes: the even core of a pair (R210). -/
def coreIx (s : State) : BitVec 3 := if s.ring.gang then s.hart.slot <<< 1 else s.hart.slot

/-- TIME of the executing core: max(D, F). A management core reads the module reference for D (DESIGN CHOICE, log 18). -/
def timeNow (s : State) : Word :=
  match s.onMgmt with
  | some a => wmax s.reference (s.mgmt[a.toNat]'a.isLt).floor
  | none => wmax (s.dies[(dieOf s.cur).toNat]'(dieOf s.cur).isLt).count (s.ring.floor[(coreIx s).toNat]'(coreIx s).isLt)

/-- Raises the floor F of the executing core to t (R317). -/
def raiseCoreFloor (s : State) (t : Word) : State :=
  match s.onMgmt with
  | some a =>
    let c := s.mgmt[a.toNat]'a.isLt
    { s with mgmt := s.mgmt.set a.toNat { c with floor := wmax c.floor t } a.isLt }
  | none =>
    let f := s.ring.floor
    { s with ring := { s.ring with
        floor := f.set (coreIx s).toNat (wmax (f[(coreIx s).toNat]'(coreIx s).isLt) t) (coreIx s).isLt } }

/-- TIME as the executing strand reads it: ordered after every earlier acquire of the strand, those of older chunks among them (R317; log 105). -/
def strandTime (s : State) : Word :=
  (s.ring.chunks.take (if s.hart.held then s.ring.active else 0)).foldl (fun t h => wmax t h.acquired) (wmax (timeNow s) s.hart.acquired)

/-- The state after a read of TIME: the core reads nothing earlier from then on, and a speculative chunk records it (R317; log 105). -/
def noteTime (s : State) : State :=
  let t := strandTime s
  let s1 := raiseCoreFloor s t
  if s.hart.held && s.ring.active != 0 then { s1 with hart := { s1.hart with timeRead := some (s1.hart.timeRead.getD t) } } else s1

/-- The greatest TIME carried by a release that supplied one of n bytes (R317). -/
def carriedTime (s : State) (pa : Nat) : Nat → Word
  | 0 => 0
  | n + 1 => wmax ((lookupKey s.released pa).getD 0) (carriedTime s (pa + 1) n)

/-- Marks n bytes as supplied by a release that carries TIME t (R317). -/
def carryTime (r : List (Nat × Word)) (pa : Nat) (t : Word) : Nat → List (Nat × Word)
  | 0 => r
  | n + 1 => carryTime (putKey r pa t) (pa + 1) t n

/-! ### Permits (R286) -/

/-- The number of a core in its module: die, cluster and index in its cluster. -/
def coreNumber (die : BitVec 3) (cluster : BitVec 2) (core : Nat) : BitVec 9 := die ++ cluster ++ BitVec.ofNat 4 core

/-- The number of the executing core. -/
def selfNumber (s : State) : BitVec 9 := coreNumber (dieOf s.cur) (clusterOf s.cur) (coreOfSlot s.cur s.ring.gang s.hart.slot)

/-- The key of a core's permits: by slice of its own die; 31 at the die switch for other dies and modules. -/
def permitKey (core : BitVec 9) (die : BitVec 3) (slice : BitVec 5) : BitVec 9 × BitVec 5 :=
  (core, if die = core.extractLsb' 6 3 then slice else 31#5)

/-- The permits of a key. -/
def permitLimit (k : BitVec 9 × BitVec 5) : Nat := if k.2 = 31#5 then 256 else 64

/-- The permits of a key that are held. -/
def permitsHeld (s : State) (k : BitVec 9 × BitVec 5) : Nat :=
  ((s.permits.find? fun p => p.1 == k.1 && p.2.1 == k.2).map (·.2.2)).getD 0

/-- The module with the held permits of a key set; a key that holds none is not listed. -/
def setPermits (s : State) (k : BitVec 9 × BitVec 5) (n : Nat) : State :=
  let rest := s.permits.filter fun p => !(p.1 == k.1 && p.2.1 == k.2)
  { s with permits := if n = 0 then rest else rest ++ [(k.1, k.2, n)] }

/-- The requests of a strand to other modules that have no response: each holds a permit at the die switch (R286, R434). -/
def Hart.awaited (h : Hart) : Nat :=
  ((h.remote ++ h.vremote ++ h.eremote).filter fun r => r.reply.isNone).length + (h.slots.toList.map fun sl => sl.awaits.length).sum

/-- Whether the executing core has a permit left at the die switch (R286); a management core stands outside the span dies. -/
def permitLeft (s : State) : Bool := s.onMgmt.isSome || decide (permitsHeld s (selfNumber s, 31) + s.hart.awaited < 256)

/-! ### Slices and the L1 (R281 to R285) -/

/-- Whether a physical address lies in SPACE 1, and whether in its control half (R270). -/
def paSpace1 (pa : Nat) : Bool := pa.testBit 41
/-- the control half -/
def paControl (pa : Nat) : Bool := pa.testBit 41 && pa.testBit 31

/-- The module of a physical address (R270). -/
def paModule (pa : Nat) : BitVec 14 := BitVec.ofNat 14 (pa >>> 42)

/-- Whether a physical address lies in a home memory of this module, and so in a slice of its die (R270, R282). -/
def inHome (s : State) (pa : Nat) : Bool := paModule pa == s.module && !paSpace1 pa

/-- The home die of an address of SPACE 0. -/
def homeDie (pa : Nat) : BitVec 3 := BitVec.ofNat 3 (pa >>> 38)

/-- L, the line number within a home. -/
def homeLine (off : BitVec 38) : Nat := off.toNat / 128

/-- The slice of an offset. -/
def sliceOf (off : BitVec 38) : BitVec 5 := BitVec.ofNat 5 (homeLine off % 31)

/-- Its set. -/
def setOf (off : BitVec 38) : BitVec 10 := BitVec.ofNat 10 (homeLine off / 31 % 1024)

/-- Its sector. -/
def sectorOf (off : BitVec 38) : Nat := bitsAt off.toNat 5 2

/-- The physical address of a sector of a line of this module. -/
def sectorPa (s : State) (die : BitVec 3) (line sector : Nat) : Nat := s.module.toNat * 2 ^ 42 + die.toNat * 2 ^ 38 + line * 128 + sector * 32

/-- Whether any of n bytes is uncorrectable (R291). -/
def anyBad (s : State) (pa n : Nat) : Bool := s.bad.any fun b => decide (pa ≤ b ∧ b < pa + n)

/-- An event for a management core (R362, R469): its code, ring, value and point, and whether it comes from a ring. A span-die ring's
events go to the core of abutment die 0 (DESIGN CHOICE, log 19). -/
def postMEvent (s : State) (a : BitVec 1) (code : BitVec 8) (ring : BitVec 6) (val : Word) (point : Option Word) : State :=
  let c := s.mgmt[a.toNat]'a.isLt
  { s with mgmt := s.mgmt.set a.toNat { c with events := c.events ++ [(code, ring, val, point)] } a.isLt }

/-- Whether a slice line holds the line of a request. -/
def SliceLine.holds (x : SliceLine) (r : SliceReq) : Bool := x.die == r.die && x.line.toNat == homeLine r.off && x.valid != 0

/-- A bit of a 4-bit set of sectors, set or cleared. -/
def withBit (b : BitVec 4) (i : Nat) (v : Bool) : BitVec 4 := if v then b ||| (1#4 <<< i) else b &&& ~~~(1#4 <<< i)

/-- The bytes of a sector as the home memory still holds them under a dirty one. -/
def olderOf (s : State) (pa : Nat) : List Host.Cell := (List.range 32).map fun i => (pa + i, memGet s.mem (pa + i))

/-- The bytes of a record put back, as older contents that no write-back has replaced (R292). -/
def restoreCells (s : State) (l : List Host.Cell) : State :=
  { s with
    mem := l.foldl (fun m c => memSet m c.1 c.2) s.mem
    bad := s.bad.filter fun b => !l.any fun c => c.1 == b
    released := s.released.filter fun p => !l.any fun c => c.1 == p.1 }

/-- One sector of an evicted line (R283, R292): a dirty one is written back; one that is uncorrectable is not, the memory keeps its older
contents, a management core takes a machine event, and the module's fault report says whose recovery is due. -/
def writeBackSector (s : State) (x : SliceLine) (sector : Nat) : State :=
  let pa := sectorPa s x.die x.line.toNat sector
  if x.dirty.getLsbD sector && anyBad s pa 32 then
    let s1 := restoreCells s (x.older.filter fun c => decide (pa ≤ c.1 ∧ c.1 < pa + 32))
    let s2 := postMEvent s1 0 Config.writebackCode 0 (Config.writebackVal pa) none
    { s2 with lost := insertNat s2.lost (pa / 32) }
  else s

/-- A line evicted from its slice. -/
def evictLine (s : State) (x : SliceLine) : State :=
  (List.range 4).foldl (fun t i => writeBackSector t x i) { s with lines := s.lines.filter (· ≠ x) }

/-- The line of a request, fetched into the way of its victim if no way holds it: the module and the line. -/
def lineFor (s : State) (r : SliceReq) : State × SliceLine :=
  match s.lines.find? fun x => x.holds r with
  | some x => (s, x)
  | none =>
    let new : SliceLine :=
      { die := r.die, slice := sliceOf r.off, set := setOf r.off, way := r.victim, line := BitVec.ofNat 31 (homeLine r.off), valid := 0, dirty := 0
        older := [] }
    match s.lines.find? fun x => x.die == r.die && x.slice == new.slice && x.set == new.set && x.way == r.victim with
    | some x => (evictLine s x, new)
    | none => (s, new)

/-- A line after a request to one of its sectors (R283, R285): a sector that is read, fetched or written whole is valid; a write makes it dirty
but on a NEAR page. -/
def SliceLine.serve (x : SliceLine) (s : State) (r : SliceReq) : SliceLine :=
  let i := sectorOf r.off
  let pa := sectorPa s r.die (homeLine r.off) i
  let rest := x.older.filter fun c => !decide (pa ≤ c.1 ∧ c.1 < pa + 32)
  if !r.write then { x with valid := withBit x.valid i true }
  else if r.near then { x with valid := withBit x.valid i true, dirty := withBit x.dirty i false, older := rest }
  else
    { x with
      valid := withBit x.valid i true, dirty := withBit x.dirty i true
      older := if x.dirty.getLsbD i then x.older else olderOf s pa ++ rest }

/-- A slice serves a request that holds a permit. -/
def serveSlice (s : State) (r : SliceReq) : State :=
  let (s1, x) := lineFor s r
  let y := x.serve s1 r
  { s1 with lines := (s1.lines.filter fun z => !(z.die == y.die && z.slice == y.slice && z.set == y.set && z.way == y.way)) ++ [y] }

/-- The way that a fill takes in the set of an offset: the lowest that holds nothing, else one that the implementation chooses (log 84). -/
def victimWay (s : State) (die : BitVec 3) (off : BitVec 38) : BitVec 4 :=
  let used := (s.lines.filter fun x => x.die == die && x.slice == sliceOf off && x.set == setOf off).map (·.way)
  match (List.range 16).find? fun w => !used.contains (BitVec.ofNat 4 w) with
  | some w => BitVec.ofNat 4 w
  | none => Config.victimWay s.fresh (homeLine off)

/-- A request of a core, an engine or a port to the slice of an address, for one sector (R282, R283, R285). -/
def sliceRequest (s : State) (pa : Nat) (write : Bool) : State :=
  if inHome s pa then
    let off := BitVec.ofNat 38 pa
    serveSlice s
      { die := homeDie pa, off := off, write := write, whole := false, near := s.through.contains (pa / 32), victim := victimWay s (homeDie pa) off }
  else s

/-- The sectors of n bytes from an address up, by their first bytes in them. -/
def sectorsOf (pa n : Nat) : List Nat := (span (pa / 32) ((pa + n - 1) / 32 + 1)).map fun q => max pa (32 * q)

/-- Whether the executing core has a permit for a request to the slice or store of an address (R286): 64 for each slice of its own die, and at the die
switch for what lies on another die or module. Its own die's stores take none. -/
def permitFor (s : State) (pa : Nat) : Bool :=
  if s.onMgmt.isSome then true
  else if paModule pa != s.module || homeDie pa != dieOf s.cur then permitLeft s
  else paSpace1 pa || decide (permitsHeld s (permitKey (selfNumber s) (homeDie pa) (sliceOf (BitVec.ofNat 38 pa))) < 64)

/-- Whether it has one for every sector of n bytes. -/
def permitsFor (s : State) (pa n : Nat) : Bool := (sectorsOf pa n).all (permitFor s)

/-- The lines of the executing core's L1 that carry an SR or SW bit (R224, R281). -/
def recordLines (h : Hart) : List Nat := ((h.sr.map (· / 4)) ++ h.written.map fun (c : Host.Cell) => c.1 / 128).eraseDups

/-- The core in whose L1 a line of the executing strand lives: in a ganged pair, the half that bit 7 of its address selects (R211). -/
def l1Core (s : State) (pa : Nat) : BitVec 9 :=
  coreNumber (dieOf s.cur) (clusterOf s.cur) (coreOfSlot s.cur s.ring.gang s.hart.slot + if s.ring.gang && pa.testBit 7 then 1 else 0)

/-- The sector bit of an address in its line. -/
def lineSector (pa : Nat) : Nat := pa / 32 % 4

/-- The L1 line of a core for an address, if it holds the sector. -/
def l1Hit (s : State) (pa : Nat) : Option L1Line :=
  s.l1.find? fun (x : L1Line) => x.core == l1Core s pa && x.line == pa / 128 && x.valid.getLsbD (lineSector pa)

/-- Whether a read of n bytes has a permit for every sector that it asks a slice for (R281, R286). -/
def readPermits (s : State) (pa n : Nat) : Bool := (sectorsOf pa n).all fun q => (l1Hit s q).isSome || permitFor s q

/-- The first n lines of a set stay, beside those of a chunk's records, which all stay (R281: least-recently-used replacement among the others); those of
other sets and cores all stay. -/
def keepLines (core : BitVec 9) (set : Nat) (records : List Nat) : Nat → List L1Line → List L1Line
  | _, [] => []
  | n, x :: t =>
    if x.core == core && x.line % 128 == set && !records.contains x.line then (match n with
      | 0 => keepLines core set records 0 t
      | k + 1 => x :: keepLines core set records k t)
    else x :: keepLines core set records n t

/-- The L1 after a load of a sector of its own die's home (R281): the line is the last used, its set holds 8 lines, and of these the lines of a chunk's
records all stay. -/
def l1Fill (s : State) (pa : Nat) : List L1Line :=
  let c := l1Core s pa
  let mine (x : L1Line) : Bool := x.core == c && x.line == pa / 128
  let old : L1Line := (s.l1.find? mine).getD { core := c, line := pa / 128, valid := 0, bad := 0 }
  let set := pa / 128 % 128
  let records := (recordLines s.hart).filter fun x => x % 128 == set
  let q := lineSector pa
  let filled := { old with valid := withBit old.valid q true, bad := withBit old.bad q (old.valid.getLsbD q && old.bad.getLsbD q) }
  keepLines c set records (8 - records.length) (filled :: s.l1.filter fun x => !mine x)

/-- One sector read by the executing core through its L1 and the home slice (R281, R283). -/
def cacheSector (s : State) (pa : Nat) : State :=
  if !inHome s pa then s
  else if s.onMgmt.isNone && homeDie pa == dieOf s.cur then
    let s1 := if (l1Hit s pa).isSome then s else sliceRequest s pa false
    { s1 with l1 := l1Fill s1 pa }
  else sliceRequest s pa false

/-- n bytes read by the executing core (R281, R283). -/
def cacheRead (s : State) (pa n : Nat) : State := (sectorsOf pa n).foldl cacheSector s

/-- One byte written through to its home slice: the line goes from every L1 but the writing core's; a management core has none (R281, R283). -/
def cacheWrite (s : State) (pa : Nat) : State :=
  if inHome s pa then
    let s1 := sliceRequest s pa true
    { s1 with l1 := s1.l1.filter fun x => !(x.line == pa / 128 && (s.onMgmt.isSome || x.core != l1Core s pa)) }
  else s

/-- The executing core's L1 without the lines of n bytes, which something else than its own stores has written (R281). -/
def uncache (s : State) (pa n : Nat) : State :=
  { s with l1 := s.l1.filter fun (x : L1Line) => !decide (pa / 128 ≤ x.line ∧ x.line ≤ (pa + n - 1) / 128) }

/-! ### Memory and the records of chunks -/

/-- The module with one byte of its storage stored: the byte is good again, and carries no TIME (R291, R317); it goes through the home slice
(R281, R283). -/
def State.poke (s : State) (pa : Nat) (x : Byte) : State :=
  let t := cacheWrite s pa
  { t with mem := memSet t.mem pa x, bad := removeNat t.bad pa, released := t.released.filter fun p => p.1 ≠ pa }

/-- The module with n bytes stored, low byte first. -/
def State.pokeLE (s : State) (pa x : Nat) : Nat → State
  | 0 => s
  | n + 1 => (s.poke pa (BitVec.ofNat 8 x)).pokeLE (pa + 1) (x / 256) n

/-- The module with a list of bytes stored from an address up. -/
def State.pokeBytes (s : State) (pa : Nat) : List Byte → State
  | [] => s
  | b :: t => (s.poke pa b).pokeBytes (pa + 1) t

/-- The written bytes of the chunks older than the executing one, nearest first (R225). -/
def olderRecords (s : State) : List (List Host.Cell) :=
  if s.hart.held then ((s.ring.chunks.take s.ring.active).reverse).map (·.written) else []

/-- The first record that holds a byte. -/
def firstRecord (l : List (List Host.Cell)) (pa : Nat) : Option Byte :=
  match l with
  | [] => none
  | r :: t => match recGet r pa with
    | some b => some b
    | none => firstRecord t pa

/-- The byte that a load of the executing strand takes: its own written bytes, then those of older chunks, then memory (R225). -/
def State.peek (s : State) (pa : Nat) : Byte :=
  match recGet s.hart.written pa with
  | some b => b
  | none => match firstRecord (olderRecords s) pa with
    | some b => b
    | none => memGet s.mem pa

/-- The sectors with SR set, after a load of n bytes: those of the bytes that the chunk has not written itself (R225). -/
def markRead (h : Hart) (pa : Nat) : Nat → List Nat
  | 0 => h.sr
  | n + 1 =>
    let rest := markRead h (pa + 1) n
    if (recGet h.written pa).isSome then rest else insertNat rest (pa / 32)

/-- Whether a byte comes from memory, not from a record of the executing chunk or an older one (R225). -/
def fromMemory (s : State) (pa : Nat) : Bool := (firstRecord (s.hart.written :: olderRecords s) pa).isNone

/-- Whether any of n bytes that the executing strand takes from memory is uncorrectable there (R291). -/
def memoryBad (s : State) (pa n : Nat) : Bool := s.bad.any fun b => decide (pa ≤ b ∧ b < pa + n) && fromMemory s b

/-- Whether any of n bytes that a load takes is uncorrectable: in memory, or in the core's L1 (R291). -/
def readsBad (s : State) (pa n : Nat) : Bool :=
  memoryBad s pa n
    || (sectorsOf pa n).any fun q => match l1Hit s q with
      | some x => x.bad.getLsbD (lineSector q) && (span q (min (pa + n) (32 * (q / 32 + 1)))).any (fromMemory s)
      | none => false

/-- SR set by a load of n bytes, which only a chunk records (R225). -/
def setRead (s : State) (pa n : Nat) : State :=
  if s.hart.held then { s with hart := { s.hart with sr := markRead s.hart pa n } } else s

/-- The state after a load of n bytes: SR is set, and the bytes have come through the L1 and the slices (R225, R281, R283). -/
def noteRead (s : State) (pa n : Nat) : State := cacheRead (setRead s pa n) pa n

/-! ### Start and restart of chunks and handlers -/

/-- The stream slots of a chunk: the bindings of the image, with nothing fetched (R335). -/
def freshSlots (v : Vector StreamSlot 8) : Vector StreamSlot 8 :=
  v.map fun sl => { sl with fetched := [], emitted := [], drains := [], awaits := [], denied := none }

/-- The live-in set of a region: LIVEIN without s0, sd and sa (R216). -/
def Region.livein (g : Region) : BitVec 32 :=
  g.image.sc.livein &&& ~~~(1#32) &&& ~~~(1#32 <<< g.dReg.toNat) &&& ~~~(1#32 <<< g.aReg.toNat)

/-- The scalar registers with those of a set replaced. -/
def overlay (x y : Vector Word 32) (m : BitVec 32) : Vector Word 32 :=
  Vector.ofFn fun i => if m.getLsbD i.val then y[i] else x[i]

/-- The predictions of chunk c for the registers of a set (R222). -/
def predictedX (g : Region) (e : StrideEntry) (c : Nat) : Vector Word 32 :=
  Vector.ofFn fun i => g.image.sc.x[i] + BitVec.ofNat 64 c * e.stride[i]

/-- The entry of the stride table of a fork at an address (R222). -/
def strideIndex (pc : Word) : BitVec 6 := pc.extractLsb' 2 6

/-- Chunk c of a region as it starts (R215, R216, R221, R222); predict: whether the stride table may predict its live-ins, from the table as it stands at the
start (R222 does not say whether the entry is read at the fork: DESIGN CHOICE, log 101). -/
def chunkStart (size : Nat) (table : Vector StrideEntry 64) (g : Region) (c : Nat) (predict : Bool) : Hart :=
  let h := g.image
  let live := if c = 0 then 0#32 else g.livein
  let known := lookupKey g.finals (c - 1)
  let e := table[(strideIndex g.forkPc).toNat]'(strideIndex g.forkPc).isLt
  let hit := predict && e.used && e.tag == g.forkPc.extractLsb' 8 56
  let x0 :=
    match known with
    | some y => overlay h.sc.x y live
    | none => if hit then overlay h.sc.x (predictedX g e c) (live &&& e.valid) else h.sc.x
  let start := BitVec.ofNat 64 c * g.grain
  let sc0 : Scal := { h.sc with x := x0, pc := g.forkPc + 4, flags := 0, pfxWord := 0, pfxV := false, bad := h.sc.bad &&& ~~~live }
  let sc1 := (sc0.put g.aReg start).put g.dReg (wmin g.grain (g.count - start))
  { h with
    sc := sc1, vstart := 0, z := Vector.replicate 4 0, zBad := 0, tBad := 0, cqBad := 0, aBuf := 0, bBuf := 0, aScale := 0, bScale := 0, tm := 0, tn := 0, tk := 0,
    tkType := 0, queue := [], convoy := [], pfx := none, park := .running, remote := [], vremote := [], eremote := [], slots := freshSlots h.slots, cq := [],
    copies := [], piers := [], stage := [], slot := BitVec.ofNat 3 ((g.firstSlot.toNat + c) % size),
    seq := g.firstSeq + BitVec.ofNat 16 c, chunk := c, depth := 0, state := .start, handler := none, held := true, written := [], sr := [],
    precise := false, acquired := h.acquired, timeRead := none, saving := [], awaiting := if known.isSome then 0 else live,
    predicted := if known.isSome then 0 else if hit then live &&& e.valid else 0,
    readLive := 0, wroteReg := 0, liveVal := x0, imageDone := true }

/-- The header that a handler sees: the message's, with the mailbox it was taken from (R244). -/
def seenHdr (m : BitVec 5) (msg : Message) : Word :=
  (msg.hdr &&& ~~~(0x1F#64 <<< 19)) ||| (m.setWidth 64 <<< 19)

/-- The 256 bytes of the receive buffer for a message, as written bytes at the top of a local store (R248). -/
def receiveCells (base : Nat) (msg : Message) : List Host.Cell :=
  (List.range 256).map fun i => (base + 0x7FF00 + i, msg.payload.getD i 0)

/-- The module with n bytes of its storage in error. -/
def State.spoil (s : State) (pa n : Nat) : State := { s with bad := (span pa (pa + n)).foldl insertNat s.bad }

/-- The virtual address of the receive buffer (R277). -/
def receiveBuffer : Word := 0x00FFFF000007FF00#64

/-- The state a handler starts in (R247), on a slot, with its number, mailbox and message. -/
def handlerStart (s : State) (a : Actor) (slot : BitVec 3) (seq : BitVec 16) (m : BitVec 5) (msg : Message) : Hart :=
  let hdr := seenHdr m msg
  let mb := a.mbx[m.toNat]'m.isLt
  let sc0 : Scal := { Scal.start with pc := mb.haddr, vlmax := BitVec.ofNat 16 (vlmaxOf s.ring Scal.start.nreg Scal.start.sew) }
  let sc1 := (((sc0.put 2 a.stackTop).put 3 hdr).put 4 receiveBuffer).put 5 (m.setWidth 64)
  let base := storePa s.module (dieOf s.cur) (clusterOf s.cur) (coreOfSlot s.cur s.ring.gang slot) 0
  { Hart.start with
    sc := sc1, wid := a.wid.setWidth 64, widShape := a.widShape, msgHdr := hdr, slot := slot, seq := seq, handler := some (m, msg),
    held := true, written := if msg.bad then [] else receiveCells base msg, acquired := msg.time }

/-- The actor whose strand or handlers the executing ring runs (R238). -/
def residentActor (s : State) : Option Actor :=
  match s.ring.resident with
  | none => none
  | some (j, i) => s.actors.find? fun (a : Actor) => a.aid == i && a.jid == j

/-! ### The actors' mailboxes, as squashed handlers give their messages back (R261) -/

/-- The mailbox of an actor. -/
def Actor.box (a : Actor) (m : BitVec 5) : Mailbox := a.mbx[m.toNat]'m.isLt

/-- The actor with a mailbox replaced. -/
def Actor.setBox (a : Actor) (m : BitVec 5) (b : Mailbox) : Actor := { a with mbx := a.mbx.set m.toNat b m.isLt }

/-- An actor's ring is that of a state's actor. -/
def State.putActor (s : State) (a : Actor) : State :=
  { s with actors := s.actors.map fun x => if x.aid == a.aid && x.jid == a.jid then a else x }

/-- A mailbox with a message put back at its head; what the on-die queue cannot hold is spilled, ahead of the spilled messages, and SPHEAD goes
back (R397). -/
def Mailbox.putBack (b : Mailbox) (m : Message) : Mailbox :=
  let q := m :: b.queue
  let extra := q.drop 64
  { b with
    queue := q.take 64, spill := extra ++ b.spill
    sphead := BitVec.ofNat 21 ((b.sphead.toNat + 2 ^ b.splog.toNat - extra.length) % 2 ^ b.splog.toNat) }

/-- An actor with the messages of squashed handlers at the heads of their mailboxes again (R261). -/
def returnMessages (a : Actor) : List Hart → Actor
  | [] => a
  | h :: t =>
    let a1 := returnMessages a t
    match h.handler with
    | some (m, msg) => a1.setBox m ((a1.box m).putBack msg)
    | none => a1

/-- The chunk or handler as a squash leaves it, ready to restart in its slot (R230, R249); withhold: a wrong prediction caused the squash, and the
chunk restarts without predictions (R223). A handler's first instruction never waits for an image (R247). -/
def squashed (s : State) (withhold : Bool) (h : Hart) : Hart :=
  match h.handler with
  | some (m, msg) =>
    (match residentActor s with
     | some a => { handlerStart s a h.slot h.seq m msg with state := .squash }
     | none => { h with state := .squash })
  | none =>
    (match s.ring.region with
     | some g => { chunkStart s.ring.size s.ring.stride g h.chunk (!withhold) with state := .squash, imageDone := !s.lag }
     | none => { h with state := .squash })

/-- A list with the elements from an index up changed. -/
def mapFrom {α : Type} (f : α → α) : Nat → List α → List α
  | _, [] => []
  | 0, a :: t => f a :: mapFrom f 0 t
  | n + 1, a :: t => a :: mapFrom f n t

/-- Squashes the chunks in flight from an index up (R230). -/
def squashFrom (s : State) (withhold : Bool) (i : Nat) : State :=
  { s with ring := { s.ring with chunks := mapFrom (squashed s withhold) i s.ring.chunks } }

/-- Squashes every chunk younger than the executing one. -/
def squashYounger (s : State) : State :=
  if s.hart.held then squashFrom s false (s.ring.active + 1) else s

/-- The index of the oldest chunk above an index whose SR covers a sector (R226). -/
def readerAbove (sector : Nat) (i : Nat) : Nat → List Hart → Option Nat
  | _, [] => none
  | n, h :: t => if i < n && h.sr.contains sector && h.state != .squash then some n else readerAbove sector i (n + 1) t

/-- Squashes the oldest younger chunk whose SR covers a sector, and every one younger than it (R226). -/
def squashReaders (s : State) (sector : Nat) : State :=
  if s.hart.held then
    match readerAbove sector s.ring.active 0 s.ring.chunks with
    | some i => squashFrom s false i
    | none => s
  else s

/-- A store of one byte by the executing strand: a chunk writes its records and squashes younger readers of the sector (R226); outside a
chunk the byte goes to memory. -/
def storeByte (s : State) (pa : Nat) (x : Byte) : State :=
  if s.hart.held then squashReaders { s with hart := { s.hart with written := recSet s.hart.written pa x } } (pa / 32)
  else s.poke pa x

/-- A store of n bytes, low byte first. -/
def storeBytes (s : State) (pa x : Nat) : Nat → State
  | 0 => s
  | n + 1 => storeBytes (storeByte s pa (BitVec.ofNat 8 x)) (pa + 1) (x / 256) n

/-- A chunk's copies of strips fetched ahead, with bytes that an older chunk has written since: its write overrides the fetched data (R335). -/
def Hart.overrideFetched (h : Hart) (l : List Host.Cell) : Hart :=
  let cell (c : Host.Cell) : Host.Cell := match recGet l c.1 with
    | some y => (c.1, y)
    | none => c
  { h with slots := h.slots.map fun sl => { sl with fetched := sl.fetched.map fun p =>
      { p with cells := p.cells.map cell, bad := p.bad.filter fun a => (recGet l a).isNone } } }

/-- Bytes that the executing chunk has written to memory override what younger chunks have fetched ahead (R335). -/
def overrideYounger (s : State) (l : List Host.Cell) : State :=
  if s.hart.held then
    { s with ring := { s.ring with chunks := mapFrom (fun h => h.overrideFetched l) (s.ring.active + 1) s.ring.chunks } }
  else s

/-- A store of n bytes that goes to memory at once, whatever chunk executes: that of a Keystone-only instruction (R235). Younger readers of
its sectors are squashed (R226). -/
def storeDirect (s : State) (pa x : Nat) : Nat → State
  | 0 => s
  | n + 1 =>
    let b := BitVec.ofNat 8 x
    storeDirect ((overrideYounger (squashReaders s (pa / 32)) [(pa, b)]).poke pa b) (pa + 1) (x / 256) n

/-- Memory with the bytes of a record written in order. -/
def pokeCells (s : State) : List Host.Cell → State
  | [] => s
  | (a, x) :: t => pokeCells (s.poke a x) t

/-- The bytes of a record that lie in this module. -/
def State.hereCells (s : State) (l : List Host.Cell) : List Host.Cell := l.filter fun c => paModule c.1 == s.module

/-- Whether the record of the executing chunk holds bytes of another module (R226; log 22). -/
def recordsOut (s : State) : Bool := s.hart.written.any fun c => paModule c.1 != s.module

/-- The strand whose bytes of other modules have been written there: its record holds those of its own module. -/
def Hart.sent (h : Hart) (module : BitVec 14) : Hart :=
  { h with written := h.written.filter fun c => paModule c.1 == module, remote := h.remote.filter fun r => !r.flush, precise := true }

/-- Writes the executing chunk's SW sectors of this module to memory (step 2 of R229), once those of other modules have been written (settleRecords), and
clears its SR bits, which the keystone has no more use for. -/
def flushWritten (s : State) : State :=
  if s.hart.held then
    let s1 := pokeCells (overrideYounger s s.hart.written) (s.hereCells s.hart.written)
    { s1 with hart := { s1.hart with
        written := [], sr := [], precise := true, remote := s1.hart.remote.filter fun r => !r.flush } }
  else s

/-- Whether an access of a strand that has used a translation has still to perform: a request to another module without its response, or a strip
emitted and not yet written (R327, R434). -/
def Hart.accessing (h : Hart) : Bool :=
  ((h.remote ++ h.vremote ++ h.eremote).any fun r => r.reply.isNone) || h.slots.toList.any fun sl => !sl.emitted.isEmpty || !sl.awaits.isEmpty

/-- Waits until the vector queue is empty (R367, R141, R144). -/
def emptyQueue : M Unit := do
  if (← get).hart.queue.isEmpty then pure () else wait (.park .stalled)

/-! ### Traps (R362, R363, R234) and eret (R384) -/

/-- Squashes the oldest younger chunk that has read a TIME below t, and every one younger than it (R317; log 105). -/
def squashEarly (s : State) (t : Word) : State :=
  if s.hart.held then
    let early (h : Hart) : Bool := match h.timeRead with
      | some v => decide (v < t) && h.state != .squash
      | none => false
    match (s.ring.chunks.drop (s.ring.active + 1)).findIdx? early with
    | some i => squashFrom s false (s.ring.active + 1 + i)
    | none => s
  else s

/-- An acquire that returns TIME t raises the floor F of the executing core, and what its strand has acquired (R317). -/
def raiseFloor (s : State) (t : Word) : State :=
  let s1 := squashEarly (raiseCoreFloor s t) t
  { s1 with hart := { s1.hart with acquired := wmax s1.hart.acquired t } }

/-- PFXST as a trap leaves it: a pending prefix is saved, and otherwise V = 0 (R108). -/
def savePfx (h : Hart) : Hart :=
  match h.pfx with
  | some p => { h with sc := { h.sc with pfxWord := p.word, pfxV := true }, pfx := none }
  | none => { h with sc := { h.sc with pfxV := false } }

/-- ECAUSE {CODE, VEC, ASYNC, SPEC} (R364). -/
def ecauseOf (code : BitVec 8) (vec async spec : Bool) : BitVec 11 :=
  BitVec.ofBool spec ++ BitVec.ofBool async ++ BitVec.ofBool vec ++ code

/-- EPC and EVEC hold bits [63:2] (R373, R375). -/
def align4 (a : Word) : Word := a &&& ~~~3#64

/-- The bookkeeping of R363 without the change of level and PC: EPC, ECAUSE, EVAL, ESTAT. -/
def bookTrap (s : State) (code : BitVec 8) (val point : Word) (vec async spec : Bool) : State :=
  { s with
    hart := savePfx s.hart
    ring := { s.ring with
      epc := align4 point, ecause := ecauseOf code vec async spec, eval := val, ppl := s.hart.level == .s, pie := s.ring.ie,
      ie := false } }

/-- Trap entry at S, as one step at the trap point (R363). -/
def enterS (s : State) (code : BitVec 8) (val point : Word) (vec async spec : Bool) : State :=
  let s1 := bookTrap s code val point vec async spec
  { s1 with hart := { s1.hart with
      level := .s, inTrap := s1.hart.inTrap + 1, state := .run, sc := { s1.hart.sc with pc := s.ring.evec }, convoy := [], queue := [], park := .running, remote := [], vremote := [] } }

/-- Trap entry at M (R363, R378): a synchronous one with IE = 0 sets NEST. -/
def enterM (s : State) (a : BitVec 1) (cause : BitVec 18) (val point : Word) (sync : Bool) : State :=
  let c := s.mgmt[a.toNat]'a.isLt
  let c' := { c with
    mepc := align4 point, mcause := cause, mval := val, mpie := c.mie, mie := false, mnest := c.mnest || (sync && !c.mie) }
  { s with
    mgmt := s.mgmt.set a.toNat c' a.isLt
    hart := { s.hart with sc := { s.hart.sc with pc := c.mvec }, pfx := none, park := .running, remote := [], vremote := [] } }

/-- The state of a slot as a stop or a resume leaves it: a chunk that has not begun since a squash still starts afresh (R396). -/
def SlotState.stopped : SlotState → SlotState
  | .start => .start
  | .squash => .start
  | _ => .run

/-- The stop of a ring at its boundary: younger chunks are squashed, and nothing executes (R386, R391). -/
def stopRing (s : State) : State :=
  let s1 := squashYounger s
  { s1 with
    ring := { s1.ring with state := .stopped }
    hart := { s1.hart with state := s1.hart.state.stopped, park := .running, queue := [], convoy := [], remote := [], vremote := [] } }

/-- The stop that halt and a double trap make: the trap state is kept, the dispatcher treats the ring as unavailable, and the management
core takes an event (R362, R386). -/
def haltRing (s : State) (code : BitVec 8) (val : Word) (point : Option Word) : State :=
  let s1 := stopRing s
  postMEvent { s1 with ring := { s1.ring with unavailable := true } } 0 code s.cur val point

/-- The keystone's part of a trap: younger chunks are squashed and the SW sectors written (R234 steps 1 and 2). -/
def settleTrap (s : State) : State := flushWritten (squashYounger s)

/-- Takes a synchronous trap with the executing strand at its trap point: at M on a management core; deferred in a speculative chunk
(R234), and in the keystone while its record holds bytes that another module has still to take (step 2; log 22); a double trap at S with IE = 0 (R362); else entry at S (R363). -/
def takeTrap (s : State) (code : BitVec 8) (val point : Word) (vec spec : Bool) : State :=
  match s.onMgmt with
  | some a => enterM s a (code.setWidth 18) val point true
  | none =>
    if !isKeystone s || recordsOut s then
      { s with hart := { s.hart with
          state := .hold (.trap { code := code, val := val, vec := vec, point := point, spec := !isKeystone s || spec }), queue := [], convoy := [], remote := [], vremote := [] } }
    else
      let s1 := settleTrap s
      if s1.hart.level == .s && !s1.ring.ie then haltRing s1 code val (some point)
      else enterS s1 code val point vec false spec

/-- The return of eret from S (R384): PC, IE and level are restored, and a saved prefix applies to the instruction at PC. -/
def returnS (s : State) : State :=
  let h := s.hart
  { s with
    ring := { s.ring with ie := s.ring.pie }
    hart := { h with
      sc := { h.sc with pc := s.ring.epc }
      level := if s.ring.ppl then .s else .u
      inTrap := h.inTrap - 1
      pfx := if h.sc.pfxV then some { word := h.sc.pfxWord, fromEret := true } else none } }

/-- The return of eret from M to M (R384). -/
def returnM (s : State) (a : BitVec 1) : State :=
  let c := s.mgmt[a.toNat]'a.isLt
  { s with
    mgmt := s.mgmt.set a.toNat { c with mie := c.mpie } a.isLt
    hart := { s.hart with sc := { s.hart.sc with pc := c.mepc } } }

/-! ### From a computation to a step -/

/-- The number of bytes that a request packet is about (R431). -/
def requestSize (p : Packet) : Nat :=
  match p.kind with
  | 2#4 => p.payload.length - 8
  | 4#4 => (p.payload.getD 9 0).toNat
  | 8#4 => ofBytes ((p.payload.drop 10).take 2)
  | _ => (p.payload.getD 8 0).toNat

/-- The bytes among n that the executing chunk takes from its own record or an older chunk's (R225). -/
def recordCells (s : State) (pa n : Nat) : List Host.Cell :=
  (List.range n).filterMap fun i => (firstRecord (s.hart.written :: olderRecords s) (pa + i)).map fun b => (pa + i, b)

/-- The strand with a remote access that awaits its response (R434): one that reads sets SR when it issues, and takes what its records hold then (R225). -/
def issueRemote (s : State) (write : Bool) (pa : BitVec 56) (pkt : Packet) (f : RemoteWait → Hart → Hart) : State :=
  let n := requestSize pkt
  let s1 := if write then s else setRead s pa.toNat n
  { s1 with
    hart := f { rtag := s.nextTag, write := write, pa := pa, reply := none, size := n, own := if write then [] else recordCells s pa.toNat n } s1.hart
    nextTag := s.nextTag + 1
    heldOut := s.heldOut ++ [{ pkt with rtag := s.nextTag }] }

/-- The strand with the write of SW sectors at another module that awaits its response. -/
def issueFlush (s : State) (pa : BitVec 56) (pkt : Packet) : State :=
  issueRemote s true pa pkt fun r h => { h with remote := h.remote ++ [{ r with flush := true }] }

/-- The executing keystone begins its chunk or handler again, with its stores to other modules leaving at once (R289; DESIGN CHOICE, log 22): younger
chunks are squashed; a region that a handler has forked is gone with what the handler did. -/
def redo (s : State) : State :=
  let s1 := squashYounger s
  let h := { squashed s1 false s1.hart with state := .start, precise := true }
  let gone := s1.hart.handler.isSome && s1.ring.region.isSome
  { s1 with
    hart := h
    ring := if gone then { s1.ring with region := none, chunks := [h], active := 0 } else s1.ring }

/-- The state in which an instruction waits: that before it, with its wait recorded (R256, R313, R340, R434). -/
def applyWait (s : State) (w : Wait) : State :=
  match w with
  | .park p => { s with hart := { s.hart with park := p } }
  | .keep p => { s with hart := { s.hart with park := p } }
  | .hold r => { s with hart := { s.hart with state := .hold r, park := .stalled } }
  | .remote wr pa pkt => issueRemote s wr pa pkt fun r h => { h with park := .reply, remote := h.remote ++ [r] }
  | .flush pa pkt => issueFlush { s with hart := { s.hart with park := .reply } } pa pkt
  | .redo => redo s
  | .waiter pa take =>
    let me : Waiter := { pa := pa, ring := s.cur, slot := s.hart.slot, take := take }
    { s with
      hart := { s.hart with park := .ldsync }
      waiters := if s.waiters.any (fun w => w.ring == me.ring && w.slot == me.slot) then s.waiters else s.waiters ++ [me] }

/-- What stays of an instruction that waits, beside its wait: the live-in values it has read (R223), and the SW sectors that the keystone chunk has
written before it (R228, R235). t is the state in which the computation stopped. -/
def waitingState (s t : State) : State :=
  let s1 := { s with hart := { s.hart with readLive := t.hart.readLive } }
  if s.hart.held && s.ring.active == 0 && !s.hart.written.isEmpty && t.hart.written.isEmpty then flushWritten s1 else s1

/-- The executing strand after an instruction has completed: a prefix over it is used up, and PFXST.V is cleared if eret reapplied it
(R108). -/
def finish (s : State) : State :=
  let h := s.hart
  let sc := match h.pfx with
    | some p => if p.fromEret then { h.sc with pfxV := false } else h.sc
    | none => h.sc
  { s with hart := { h with sc := sc, pfx := none, park := .running, remote := [] } }

/-- A scalar instruction as a step: it completes, and something follows from that; or it takes its trap, once the vector queue is empty
(R366), with EPC at itself; or it waits with no effect. -/
def runThen (m : M Unit) (f : State → State) (s : State) : Out :=
  match m s with
  | .ok _ s' => .next (f (finish s'))
  | .error (.trap code val) s' =>
    if s.hart.queue.isEmpty then .next (takeTrap s' code val s.hart.sc.pc false false)
    else .next (applyWait (waitingState s s') (.park .stalled))
  | .error (.wait (.keep p)) s' => .next (applyWait s' (.keep p))
  | .error (.wait w) s' => .next (applyWait (waitingState s s') w)

/-- A scalar instruction from which nothing more follows. -/
def runScalar (m : M Unit) (s : State) : Out := runThen m id s

/-! ### A change of shape (R403) -/

/-- A register that keeps its low n bytes, with zeros above (R403). -/
def keepLow (v : VReg) (n : Nat) : VReg := BitVec.ofNat 131072 (v.toNat % 2 ^ (8 * n))

/-- A strand whose register width goes from one number of bytes to another (R403). -/
def Hart.rewidth (h : Hart) (old new : Nat) : Hart := { h with v := h.v.map fun x => keepLow x (min old new) }

/-- The slot of a strand after a change of shape: the pair of its core, or the even core of its pair (DESIGN CHOICE, log 29). -/
def reslot (old new : Bool) (j : BitVec 3) : BitVec 3 := if old = new then j else if new then j >>> 1 else j <<< 1

/-- A ring of another shape and cap. -/
def Ring.shaped (r : Ring) (gang : Bool) (cap : BitVec 16) : Ring := { r with gang := gang, vlcap := cap }

/-- A ring with its latched change applied: the shape, RINGSZ and VLCAP.CAP (R403). -/
def Ring.applyShape (r : Ring) : Ring := { r.shaped (r.reshapeShape == 1) r.reshapeCap with reshapePend := false }

/-- A strand of a ring as the change leaves it (R403). -/
def Hart.reshaped (h : Hart) (old new : Ring) : Hart :=
  { h.rewidth (regBytes old.gang h.sc.nreg) (regBytes new.gang h.sc.nreg) with slot := reslot old.gang new.gang h.slot }

/-- Whether a waiting change of shape applies at an instruction of the executing strand: never inside a forked region, and in the strand's program order,
so that a handler behind the keystone leaves it to the keystone (R403; DESIGN CHOICE, log 89). -/
def reshapeDue (s : State) : Bool := s.onMgmt.isNone && s.ring.reshapePend && s.ring.region.isNone && s.ring.active == 0

/-- The executing ring and strand take another shape (R403). Handlers behind the keystone, which run under the old shape, are squashed, and their
messages return to the heads of their mailboxes (DESIGN CHOICE, log 89). -/
def reshapeTo (s : State) (r : Ring) : State :=
  let s1 := match residentActor s with
    | some a => s.putActor (returnMessages a s.ring.chunks.tail)
    | none => s
  { s1 with ring := { r with chunks := s.ring.chunks.take 1 }, hart := s.hart.reshaped s.ring r }

/-- Applies a waiting change of shape to the executing ring (R403). -/
def reshapeNow (s : State) : State := if reshapeDue s then reshapeTo s s.ring.applyShape else s

/-- The gang and the cap of a change of shape that keeps its place among the queued instructions. -/
def VOp.shape : VOp → Option (Bool × BitVec 16)
  | .reshape g c => some (g, c)
  | _ => none

/-- The queued instructions themselves: a change of shape is none (R37, R40). -/
def Hart.queued (h : Hart) : List QEntry := h.queue.filter fun e => e.op.shape.isNone

/-- A ring as the scalar thread sees it: with the changes of shape that it has applied, of which the registers have still to hear (R146, R403). -/
def Hart.shapeSeen (h : Hart) (r : Ring) : Ring :=
  h.queue.foldl (fun r e => match e.op.shape with | some (g, c) => r.shaped g c | none => r) r

/-- A ring whose strand goes back before the changes of shape that its queue holds: the first of them waits again, unless a later one does (R366, R403). -/
def Hart.relatched (h : Hart) (r : Ring) : Ring :=
  if r.reshapePend then r
  else
    match h.queue.findSome? fun e => e.op.shape with
    | some (g, c) => { r with reshapePend := true, reshapeShape := BitVec.ofBool g, reshapeCap := c }
    | none => r

/-- Changes of shape that have reached the head of the queue take place: everything pushed before them has completed. -/
def settleShape : Nat → State → State
  | 0, s => s
  | n + 1, s =>
    match s.hart.queue with
    | [] => s
    | e :: t =>
      match e.op.shape with
      | some (g, c) => settleShape n (reshapeTo { s with hart := { s.hart with queue := t } } (s.ring.shaped g c))
      | none => s

end Sys2Proof.Machine
end

