-- ==== Sys2Proof/Machine/Control.lean ====
section
/-! DEFINITION. The control region of the module (spec/25 R480, R481): status blocks (spec/22 R420), access tables (spec/14 R287, R288),
fabric blocks (spec/23 R440, R448; spec/24 R450), host bindings (spec/25 R473), and the firmware SRAM (spec/19 R379). -/

namespace Sys2Proof.Machine

/-- The physical address of an offset of a die's control half (R270, R480). -/
def ctlPa (module : BitVec 14) (die off : Nat) : Nat :=
  module.toNat * 2 ^ 42 + 2 ^ 41 + die * 2 ^ 38 + 2 ^ 31 + off

/-- B: the offset of the fabric block of abutment die a (R480). -/
def abutBase (a : Nat) : Nat := 0x60000000 + 0x10000000 * a

/-- A register or table of the control region (R480). -/
inductive CtlReg where
  | pwrstat (die : BitVec 3)
  | cestat (die : BitVec 3)
  | droop (die : BitVec 3)
  /-- an 8-byte word of an access table or of the host bindings, kept as it is stored -/
  | word
  | linkctl (link : Nat)
  | fabcfg
  | fabstat (a : BitVec 1)
  | group (sw : SwitchId) (index : BitVec 12) (part : Nat)
  | sram
deriving DecidableEq, Repr

/-- The register that holds an 8-byte-aligned offset [30:0] of a die's control half; none where the spec gives no register (R480). -/
def ctlReg (die : BitVec 3) (off : Nat) : Option CtlReg :=
  if off = 0x40000000 then some (.pwrstat die)
  else if off = 0x40000008 then some (.cestat die)
  else if off = 0x40000010 then some (.droop die)
  else if 0x41000000 ≤ off ∧ off < 0x41002000 then some .word
  else if 0x42000000 ≤ off ∧ off < 0x42020000 then some .word
  else if 0x44000000 ≤ off ∧ off < 0x45000000 then
    let c := (off - 0x44000000) / 0x400000
    let o := (off - 0x44000000) % 0x400000
    if 0x200000 ≤ o ∧ o < 0x220000 then
      some (.group (.l0 die (BitVec.ofNat 2 c)) (BitVec.ofNat 12 ((o - 0x200000) / 32)) (o % 32 / 8))
    else none
  else if 0x45200000 ≤ off ∧ off < 0x45220000 then
    some (.group (.l1 die) (BitVec.ofNat 12 ((off - 0x45200000) / 32)) (off % 32 / 8))
  else if die = 0 ∧ 0x60000000 ≤ off then
    let a := (off - 0x60000000) / 0x10000000
    let o := (off - 0x60000000) % 0x10000000
    if 0x08000000 ≤ o ∧ o < 0x08400000 then some .sram
    else if o < 0x900 ∧ o % 0x100 = 0 then some (.linkctl (9 * a + o / 0x100))
    else if o = 0x1000 then some .fabcfg
    else if o = 0x1008 then some (.fabstat (BitVec.ofNat 1 a))
    else if 0x100000 ≤ o ∧ o < 0x108000 then some .word
    else if 0x200000 ≤ o ∧ o < 0x220000 then
      some (.group (.l2 (BitVec.ofNat 1 a)) (BitVec.ofNat 12 ((o - 0x200000) / 32)) (o % 32 / 8))
    else if 0x300000 ≤ o ∧ o < 0x312000 then some .word
    else if 0x400000 ≤ o ∧ o < 0x420000 then some .word
    else none
  else none

/-- PWRSTAT of a die (R420). -/
def Die.pwrstat (d : Die) : Word :=
  (0#29 : BitVec 29) ++ d.step ++ d.lent ++ d.owed ++ d.held

/-- LINKCTL of a link (R448). -/
def Link.ctl (l : Link) : Word :=
  (0#32 : BitVec 32) ++ l.replays ++ (0#8 : BitVec 8) ++ BitVec.ofBool l.failed ++ BitVec.ofBool l.recov ++ BitVec.ofBool l.up
    ++ BitVec.ofBool l.newkey ++ BitVec.ofBool l.rot ++ BitVec.ofBool l.kv1 ++ BitVec.ofBool l.kv0 ++ l.ksel

/-- An entry that reads zero (R450). -/
def GroupEntry.zero : GroupEntry :=
  { v := false, state := 0, gen := 0, lastgen := 0, lgv := false, jid := 0, upath := 0, root := false, err := false, child := 0,
    round := 0, late := 0 }

/-- An 8-byte word of a group-table entry (R450). -/
def GroupEntry.word (g : GroupEntry) (part : Nat) : Word :=
  match part with
  | 0 => (0#22 : BitVec 22) ++ BitVec.ofBool g.err ++ BitVec.ofBool g.root ++ g.upath ++ g.jid ++ BitVec.ofBool g.lgv ++ g.lastgen
      ++ g.gen ++ g.state ++ BitVec.ofBool g.v
  | 1 => g.child.extractLsb' 0 64
  | 2 => g.child.extractLsb' 64 64
  | _ => (0#16 : BitVec 16) ++ g.late ++ g.round

/-- The switch of an identity. -/
def State.switchOf (s : State) (id : SwitchId) : Switch := (s.switches.find? fun w => w.id == id).getD (Switch.reset id)

/-- The module with one switch changed. -/
def State.modSwitch (s : State) (id : SwitchId) (f : Switch → Switch) : State :=
  { s with switches := s.switches.map fun w => if w.id == id then f w else w }

/-- The group-table entry of a switch at an index (R450). -/
def Switch.group (w : Switch) (i : BitVec 12) : GroupEntry := (lookupKey w.groups i).getD GroupEntry.zero

/-- A link by number, if the number names one. -/
def State.link (s : State) (i : Nat) : Link := if h : i < 18 then s.links[i] else Link.reset

/-- The module with one link changed. -/
def State.modLink (s : State) (i : Nat) (f : Link → Link) : State :=
  if h : i < 18 then { s with links := s.links.set i (f s.links[i]) } else s

/-- The 8-byte value of a control register; SRAM is memory. -/
def ctlRead (s : State) (pa : Nat) (r : CtlReg) : Word :=
  match r with
  | .pwrstat d => (s.dies[d.toNat]'d.isLt).pwrstat
  | .cestat d => (s.dies[d.toNat]'d.isLt).cestat
  | .droop d => (s.dies[d.toNat]'d.isLt).droop
  | .word => (lookupKey s.ctl pa).getD 0
  | .linkctl i => (s.link i).ctl
  | .fabcfg => (0#47 : BitVec 47) ++ BitVec.ofBool s.defl ++ s.flowgap
  | .fabstat a => (s.deflect[a.toNat]'a.isLt) ++ (s.badpkt[a.toNat]'a.isLt)
  | .group sw i p => ((s.switchOf sw).group i).word p
  | .sram => BitVec.ofNat 64 (readLE (memGet s.mem) pa 8)

/-- The stored words of the control region with one replaced: a zero word is not listed, and the list rises. -/
def ctlPut (l : List (Nat × Word)) (a : Nat) (v : Word) : List (Nat × Word) :=
  match l with
  | [] => if v = 0 then [] else [(a, v)]
  | (b, w) :: t =>
    if a < b then (if v = 0 then (b, w) :: t else (a, v) :: (b, w) :: t)
    else if a = b then (if v = 0 then t else (a, v) :: t)
    else (b, w) :: ctlPut t a v

/-- The effect of NEWKEY := 1 on a link: each end loads its next key into its idle slots, and the receiving side announces it with
KREADY; discarded while a rotation awaits RETIRE (R447, R448). -/
def linkNewKey (l : Link) : Link :=
  if l.rot then l
  else
    let idle : Nat := 1 - l.ksel.toNat
    have h : idle < 2 := by omega
    { l with
      nextKey := l.nextKey + 1
      txKeys := l.txKeys.set idle (some (2 * l.nextKey)) h
      rxKeys := l.rxKeys.set idle (some (2 * l.nextKey + 1)) h
      kv0 := l.kv0 || idle == 0
      kv1 := l.kv1 || idle == 1
      rot := true
      newkey := false
      retire := l.retire &&& ~~~(1#2 <<< idle)
      kready := true }

/-- A write of FLOWGAP: below 401 it is discarded (R440). -/
def writeFlowgap (s : State) (gap : BitVec 16) : State := if gap.toNat < 401 then s else { s with flowgap := gap }

/-- An 8-byte store to a control register at M (R420, R440, R448, R480, R481): RO fields and group tables discard it. -/
def ctlWrite (s : State) (pa : Nat) (r : CtlReg) (v : Word) : State :=
  match r with
  | .pwrstat _ => s
  | .droop _ => s
  | .cestat d => { s with dies := s.dies.set d.toNat { (s.dies[d.toNat]'d.isLt) with cestat := v } d.isLt }
  | .word => { s with ctl := ctlPut s.ctl pa v }
  | .linkctl i =>
    s.modLink i fun l =>
      let l := { l with replays := v.extractLsb' 16 16 }
      if v.getLsbD 4 then linkNewKey l else l
  | .fabcfg => writeFlowgap s (v.extractLsb' 0 16)
  | .fabstat a => { s with badpkt := s.badpkt.set a.toNat (v.extractLsb' 0 32) a.isLt, deflect := s.deflect.set a.toNat (v.extractLsb' 32 32) a.isLt }
  | .group _ _ _ => s
  | .sram => s.pokeLE pa v.toNat 8

/-! ### Access tables (R287, R288) -/

/-- What an access does: a read, a write, a fetch, or an atomic that does both. -/
inductive Access where
  | r | w | x | a
deriving DecidableEq, Repr

/-- A request's master ID (R287). -/
structure Master where
  jid : BitVec 16
  module : BitVec 14
  ring : BitVec 6
deriving DecidableEq, Repr

/-- Whether the entry at an address grants a request of n bytes (R288). -/
def entryGrants (s : State) (e : Nat) (w0 : Word) (m : Master) (pa n : Nat) (k : Access) : Bool :=
  let w1 := (lookupKey s.ctl (e + 8)).getD 0
  let w2 := (lookupKey s.ctl (e + 16)).getD 0
  let w3 := (lookupKey s.ctl (e + 24)).getD 0
  let zeros := w0.extractLsb' 5 11 == 0 && w0.extractLsb' 52 12 == 0 && w1.extractLsb' 56 8 == 0 && w2.extractLsb' 56 8 == 0 && w3 == 0
  let right :=
    match k with
    | .r => w0.getLsbD 1
    | .x => w0.getLsbD 1
    | .w => w0.getLsbD 2
    | .a => w0.getLsbD 1 && w0.getLsbD 2
  w0.getLsbD 0 && zeros && right && w0.extractLsb' 16 16 == m.jid
    && (w0.getLsbD 3 || w0.extractLsb' 32 6 == m.ring) && (w0.getLsbD 4 || w0.extractLsb' 38 14 == m.module)
    && decide (w1.toNat ≤ pa ∧ pa + n ≤ w2.toNat)

/-- Whether any of the 256 entries of the table at an address grants a request (R288). -/
def tableGrants (s : State) (table : Nat) (m : Master) (pa n : Nat) (k : Access) : Bool :=
  s.ctl.any fun (a, w0) =>
    decide (table ≤ a ∧ a < table + 8192) && (a - table) % 32 == 0 && entryGrants s a w0 m pa n k

/-- The table of the slice group of a die, of a pier engine of a die, of a DMA port and of a Trestle port (R480). -/
def sliceTable (s : State) (die : Nat) : Nat := ctlPa s.module die 0x41000000
/-- pier engine j = 4 × stack + engine of a die -/
def pierTable (s : State) (die j : Nat) : Nat := ctlPa s.module die (0x42000000 + 0x2000 * j)
/-- DMA port q of abutment die a -/
def dmaTable (s : State) (a q : Nat) : Nat := ctlPa s.module 0 (abutBase a + 0x100000 + 0x2000 * q)
/-- Trestle port of external link i of abutment die a -/
def trestleTable (s : State) (a i : Nat) : Nat := ctlPa s.module 0 (abutBase a + 0x300000 + 0x2000 * i)
/-- The binding entry of host mailbox h (R473). -/
def bindingPa (s : State) (h : Nat) : Nat := ctlPa s.module 0 (abutBase (h / 8192) + 0x400000 + 16 * (h % 8192))

end Sys2Proof.Machine
end

