-- ==== Sys2Proof/Machine/Mem.lean ====
section
/-! DEFINITION. The path from an address to a level of memory (spec/14 R269 to R280, R287 to R292): windows, page walks, rights, access
tables, local and remote memory (spec/23 R431, R434), the fabric reserve (spec/23 R445), and the loads, stores and fetches of a strand in
the order of checks of R276. -/

namespace Sys2Proof.Machine

/-- The page-fault cause of an access (R269, R273); an atomic reports PAGEW (R318). -/
def Access.pageCause : Access → BitVec 8
  | .r => causePAGER
  | .w => causePAGEW
  | .x => causePAGEX
  | .a => causePAGEW

/-- Bits [63:57] all equal bit 56 (R269). -/
def canonical (va : Word) : Bool := va.extractLsb' 56 8 == 0#8 || va.extractLsb' 56 8 == 0xFF#8

/-- A canonical address of the window region (R269). -/
def inWindowRegion (va : Word) : Bool := va.extractLsb' 48 16 == 0x00FF#16

/-- The number of failed cores of a cluster (R421). -/
def failedCores (s : State) (die : BitVec 3) (cluster : BitVec 2) : Nat :=
  ((s.dies[die.toNat]'die.isLt).failed.filter fun p => p.1 == cluster).length

/-- The number of active cores of a cluster: min(16, 17 − failed) (R421). -/
def activeCores (s : State) (die : BitVec 3) (cluster : BitVec 2) : Nat := min 16 (17 - failedCores s die cluster)

/-- Whether a local-store address names an active core of an available die (R270): the spec gives no condition under which a cluster alone is
unavailable, so one is available with its die (DESIGN CHOICE, log 62). -/
def coreExists (s : State) (die : BitVec 3) (cluster : BitVec 2) (core : Nat) : Bool :=
  (s.dies[die.toNat]'die.isLt).available && decide (core < activeCores s die cluster)

/-- A ring by number, the executing one as it stands. -/
def State.ringAt (s : State) (n : BitVec 6) : Ring := if n = s.cur then s.ring else s.rings[n.toNat]'n.isLt

/-- The ring of a cluster's active core (R421). -/
def ringOfCore (die : BitVec 3) (cluster : BitVec 2) (core : Nat) : BitVec 6 :=
  die ++ cluster ++ BitVec.ofBool (decide (8 ≤ core))

/-- Whether a core currently runs a strand of a JID (R278): its ring holds one (DEDUCED, log 20). -/
def coreRuns (s : State) (die : BitVec 3) (cluster : BitVec 2) (core : Nat) (jid : BitVec 16) : Bool :=
  let r := s.ringAt (ringOfCore die cluster core)
  r.state != .empty && r.jid == jid

/-- The index of the executing core in its cluster. -/
def selfCore (s : State) : Nat := coreOfSlot s.cur s.ring.gang s.hart.slot

/-- The physical address of a window address, if the strand may use it (R277, R278). -/
def windowPa (s : State) (va : Word) : Option Nat :=
  let off := bitsAt va.toNat 0 48
  let die := dieOf s.cur
  let cl := clusterOf s.cur
  if 0xFF0000000000 ≤ off then
    (if off < 0xFF0000080000 then some (selfStore s + (off - 0xFF0000000000)) else none)
  else if 0xFE0000000000 ≤ off ∧ off < 0xFE0001000000 then
    let j := (off - 0xFE0000000000) / 0x100000
    let b := (off - 0xFE0000000000) % 0x100000
    if b < 0x80000 && coreExists s die cl j && (s.hart.level != .u || j == selfCore s || coreRuns s die cl j s.ring.jid) then
      some (storePa s.module die cl j b)
    else none
  else none

/-! ### Physical accesses -/

/-- Whether a request of the executing core stores through a NEAR page, by the address that begins its payload (R285, R431). -/
def throughNear (s : State) (kind : BitVec 4) (payload : List Byte) : Bool :=
  (kind == 2 || kind == 4 || kind == 8) && s.through.contains (ofBytes (payload.take 8) / 32)

/-- A packet of this core (R430, R434); no table checks one made at S or M (R287). -/
def corePacket (s : State) (kind : BitVec 4) (tc : BitVec 2) (ord : Bool) (dmod : BitVec 14) (payload : List Byte) : Packet :=
  { kind := kind, tc := tc, ord := ord, resp := false, dmod := dmod, smod := s.module, sring := if s.onMgmt.isSome then 0 else s.cur,
    upath := 0, slow := false, age := 0, jid := curJid s, pseq := 0, status := 0, rtag := 0, payload := payload, time := 0,
    exempt := s.hart.level != .u, near := throughNear s kind payload }

/-- Modules 8,192 and above are never present (R22, R425, R435). -/
def moduleLimit : Nat := 8192

/-- Whether a module is present (R425). -/
def isPresent (s : State) (m : BitVec 14) : Bool := s.present.contains m && decide (m.toNat < moduleLimit)

/-- The place among a strand's remote accesses of the one that an access of n bytes has made: a write takes each reply once, in order (R177); what is read
twice reads the same (R177). -/
def madeBefore (l : List RemoteWait) (write : Bool) (pa n : Nat) : Option Nat :=
  l.findIdx? fun r => !r.flush && r.pa.toNat == pa && r.write == write
    && (if write then !r.used && r.size == n else if r.reply.all (·.1 == 0) then decide (n ≤ r.size) else r.size == n)

/-- The bytes of a reply with those that the load took from records when it issued (R225). -/
def RemoteWait.data (r : RemoteWait) (l : List Byte) : List Byte :=
  if r.own.isEmpty then l else (List.range l.length).map fun i => (recGet r.own (r.pa.toNat + i)).getD (l.getD i 0)

/-- Whether a load of the executing chunk takes all of n bytes from its own record and older chunks' (R225). -/
def fromRecords (s : State) (pa n : Nat) : Bool := s.hart.held && (List.range n).all fun i => !fromMemory s (pa + i)

/-- The strand with a reply taken. -/
def Hart.takeReply (h : Hart) (i : Nat) : Hart := { h with remote := h.remote.modify i fun r => { r with used := true } }

/-- Makes a remote access of n bytes, which takes a permit at the die switch (R286), or takes the reply of one made before (R432, R434). -/
def remoteAccess (write : Bool) (pa n : Nat) (pkt : Packet) (va : Word) : M (List Byte) := do
  let s ← get
  match madeBefore s.hart.remote write pa n with
  | none =>
    if !isPresent s (paModule pa) then trap causeACCESS va
    else if permitLeft s then wait (.remote write (BitVec.ofNat 56 pa) pkt)
    else wait (.park .stalled)
  | some i =>
    match s.hart.remote[i]? with
    | none => wait (.park .reply)
    | some r =>
      match r.reply with
      | none => wait (.park .reply)
      | some (st, l) =>
        if st = 0 then
          if write then modHart fun h => h.takeReply i
          return r.data l
        else if st = 3 then trap causeMCHK va
        else trap causeACCESS va

/-- Whether a load of n bytes of another module needs no packet: the chunk's own record and older chunks' give every byte (R225), and none has been sent for
it. -/
def readsRecords (s : State) (pa n : Nat) : Bool :=
  (madeBefore s.hart.remote false pa n).isNone && isPresent s (paModule pa) && fromRecords s pa n

/-- Reads n bytes of another module, as one packet unless records give them all; SR is set either way (R225, R434). -/
def remoteRead (pa n : Nat) (pkt : Packet) (va : Word) : M (List Byte) := do
  let s ← get
  if readsRecords s pa n then
    set (setRead s pa n)
    return (List.range n).map fun i => s.peek (pa + i)
  else remoteAccess false pa n pkt va

/-- The class of a management core's reads of control addresses of other modules is TC0, of every other access TC2 (R431, R434). -/
def accessClass (s : State) (pa : Nat) : BitVec 2 := if s.onMgmt.isSome && paControl pa then 0 else 2

/-! ### The SW sectors of a chunk (R229, R235) -/

/-- The bytes of a record in runs that lie together in one 64-byte block (R434). -/
def cellRuns : List Host.Cell → List (Nat × List Byte)
  | [] => []
  | (a, x) :: t =>
    match cellRuns t with
    | (b, l) :: rest => if a + 1 = b && a / 64 == b / 64 then (a, x :: l) :: rest else (a, [x]) :: (b, l) :: rest
    | [] => [(a, [x])]

/-- Writes a run of a chunk's record at another module, as one packet; where that is denied, or the module is not present, the chunk begins again (R234,
R289; DESIGN CHOICE, log 22). -/
def sendRun (pa : Nat) (data : List Byte) : M Unit := do
  let s ← get
  match s.hart.remote.find? fun r => r.flush && r.pa.toNat == pa with
  | some r =>
    match r.reply with
    | none => wait (.park .reply)
    | some (st, _) => if st = 0 then pure () else wait .redo
  | none =>
    if !isPresent s (paModule pa) then wait .redo
    else if permitLeft s then wait (.flush (BitVec.ofNat 56 pa) (corePacket s 2 2 false (paModule pa) (bytesOf pa 8 ++ data)))
    else wait (.park .stalled)

/-- Writes runs in order. -/
def sendRuns : List (Nat × List Byte) → M Unit
  | [] => pure ()
  | (pa, l) :: t => do
    sendRun pa l
    sendRuns t

/-- Whether the record of the executing chunk may be written to memory at once: it holds nothing of another module, and its core has a permit for every
slice that it goes to (R229, R286). -/
def recordsReady (s : State) : Bool := !recordsOut s && s.hart.written.all fun c => permitFor s c.1

/-- Waits until the record of the executing chunk may be written at once: what it holds of other modules is written first. -/
def settleRecords : M Unit := do
  let s ← get
  if recordsReady s then pure ()
  else if !(s.hereCells s.hart.written).all (fun c => permitFor s c.1) then wait (.park .stalled)
  else sendRuns (cellRuns (s.hart.written.filter fun c => paModule c.1 != s.module))

/-- The executing keystone writes its SW sectors (step 2 of R229). -/
def earlyWrite : M Unit := do
  settleRecords
  modify flushWritten

/-- Does something with the executing keystone once its record may be written at once; until then it waits for that. -/
def withRecords (s : State) (f : State → State) : State :=
  if recordsReady s then f s
  else
    match settleRecords s with
    | .ok _ _ => f { s with hart := s.hart.sent s.module }
    | .error (.wait w) _ => applyWait s w
    | .error (.trap _ _) _ => s

/-- A Keystone-only instruction: a speculative chunk holds for the keystone; the keystone first writes its SW sectors (R235). -/
def keystoneOnly : M Unit := do
  let s ← get
  if !s.hart.held then pure ()
  else if s.ring.active == 0 then earlyWrite
  else wait (.hold .keystoneOnly)

/-- The control register at a physical address. An address that names none is read as one that names nothing (R270): ACCESS (DEDUCED, log 83). -/
def ctlAt (va : Word) (pa : Nat) : M CtlReg :=
  match ctlReg (BitVec.ofNat 3 (pa >>> 38)) (bitsAt pa 0 31 / 8 * 8) with
  | some r => pure r
  | none => trap causeACCESS va

/-- The least level that may read a control register: S reads status blocks only (R420, R480; DEDUCED, log 21). -/
def ctlReadable (l : Level) (r : CtlReg) : Bool :=
  match l, r with
  | .m, _ => true
  | .s, .pwrstat _ => true
  | .s, .cestat _ => true
  | .s, .droop _ => true
  | _, _ => false

/-- Reads n bytes of another module, as one packet (R434). -/
def readRemote (va : Word) (pa n : Nat) : M (List Byte) := do
  let s ← get
  remoteRead pa n (corePacket s 0 (accessClass s pa) false (paModule pa) (bytesOf pa 8 ++ [BitVec.ofNat 8 n])) va

/-- Reads n bytes of this module's or another's storage at a physical address, for the virtual address va (R276 step 4, R286, R291, R434). -/
def readPhys (va : Word) (pa n : Nat) : M Nat := do
  if paControl pa then
    let s ← get
    let r ← ctlAt va pa
    if !ctlReadable s.hart.level r then trap causeACCESS va
    else if paModule pa ≠ s.module then return ofBytes ((← readRemote va pa n).take n)
    else if r = .sram then return readLE s.peek pa n
    else return ((ctlRead s (pa / 8 * 8) r).toNat >>> (8 * (pa % 8))) % 2 ^ (8 * n)
  else
    let s ← get
    if paModule pa ≠ s.module then return ofBytes ((← readRemote va pa n).take n)
    else if readsBad s pa n then trap causeMCHK va
    else if !readPermits s pa n then wait (.park .stalled)
    else
      set (noteRead s pa n)
      return readLE s.peek pa n

/-- A store that leaves at once, of a chunk that has begun again: only a keystone has, so it holds it (log 22). -/
def holdForKeystone : M Unit := do
  let s ← get
  if s.hart.held && s.ring.active != 0 then wait (.hold .keystoneOnly) else pure ()

/-- Squashes the younger readers of n bytes that the executing chunk has written elsewhere (R226). -/
def squashReadersOf (s : State) (pa n : Nat) : State := (sectorsOf pa n).foldl (fun t q => squashReaders t (q / 32)) s

/-- Writes n bytes of another module (R434). A chunk holds a plain store in its record, as every store (R219, R226), until it writes its SW sectors; one that is
Keystone-only, or whose chunk has begun again for a denial, leaves at once as one packet, and younger chunks that have read the bytes are squashed. ord: an
ordered packet (R438). -/
def writeRemote (va : Word) (pa n x : Nat) (direct ord : Bool) : M Unit := do
  let s ← get
  if s.hart.held && !s.hart.precise && !direct then
    if isPresent s (paModule pa) then set (storeBytes s pa x n) else trap causeACCESS va
  else
    holdForKeystone
    let pkt := corePacket s 2 2 ord (paModule pa) (bytesOf pa 8 ++ bytesOf x n)
    let _ ← remoteAccess true pa n { pkt with time := if ord then timeNow s else 0 } va
    modify fun s => squashReadersOf s pa n

/-- Whether a store of n bytes may reach a control address: at M, and in this module in firmware SRAM or as 8 bytes to a register (R480). -/
def storeAdmitted (va : Word) (pa n : Nat) : M Unit := do
  if paControl pa then
    let s ← get
    if s.hart.level != .m then trap causeACCESS va
    else if paModule pa = s.module then
      let r ← ctlAt va pa
      if r = .sram || n = 8 then pure () else trap causeACCESS va
    else pure ()
  else pure ()

/-- Writes n bytes at a physical address (R286, R434, R480). direct: the store of a Keystone-only instruction; ord: an ordered packet (R438). -/
def writePhys (va : Word) (pa n x : Nat) (direct ord : Bool) : M Unit := do
  storeAdmitted va pa n
  let s ← get
  if paModule pa ≠ s.module then writeRemote va pa n x direct ord
  else if paControl pa then
    let r ← ctlAt va pa
    if r = .sram then modify fun s => storeBytes s pa x n
    else modify fun s => ctlWrite s pa r (BitVec.ofNat 64 x)
  else if (direct || !s.hart.held) && !permitsFor s pa n then wait (.park .stalled)
  else if direct then modify fun s => storeDirect s pa x n
  else modify fun s => storeBytes s pa x n

/-! ### Translation (R269 to R274) -/

/-- A page-table entry after the checks of R273 at a level: malformed or invalid, a pointer to the next table, or a leaf. -/
inductive PteKind where
  | fail
  | next (pa : Nat)
  | leaf (pa : Nat)
deriving DecidableEq, Repr

/-- The low address bit of a page that a leaf at a level maps, and of the index at that level (R271). -/
def levelShift (l : Nat) : Nat := match l with | 0 => 43 | 1 => 30 | 2 => 21 | _ => 16

/-- The number of index bits at a level (R271). -/
def levelBits (l : Nat) : Nat := match l with | 0 => 14 | 1 => 13 | 2 => 9 | _ => 5

/-- The low zero bits of the address of the table below a level (R271). -/
def tableAlign (l : Nat) : Nat := match l with | 0 => 16 | _ => 12

/-- Reads an entry by R273. -/
def pteKind (l : Nat) (p : Word) : PteKind :=
  let pa := bitsAt p.toNat 12 44 * 4096
  if !p.getLsbD 0 || p.extractLsb' 7 5 != 0 || p.extractLsb' 56 8 != 0 then .fail
  else if p.getLsbD 1 then
    if l = 0 || (p.getLsbD 3 && !p.getLsbD 2) || pa % 2 ^ levelShift l != 0 then .fail else .leaf pa
  else if l = 3 || p.extractLsb' 2 5 != 0 || pa % 2 ^ tableAlign l != 0 then .fail
  else .next pa

/-- Whether a leaf grants an access at a level of privilege (R273). -/
def leafGrants (p : Word) (k : Access) (user : Bool) : Bool :=
  let right :=
    match k with
    | .r => p.getLsbD 2
    | .w => p.getLsbD 3
    | .x => p.getLsbD 4
    | .a => p.getLsbD 2 && p.getLsbD 3
  right && (!user || p.getLsbD 5)

/-- Whether an entry is one that a walk goes on from: only such an entry is a translation or a non-leaf entry that R274 lets stay cached. -/
def pteCached (l : Nat) (w : Word) : Bool :=
  match pteKind l w with
  | .fail => false
  | _ => true

/-- The lowest address of the fabric reserve and of the caisson slots in the home of die 0 (R445, R466). -/
def reserveBase : Nat := 0x3FAB800000

/-- Whether a request to this module's HBM lies in the fabric reserve (R445). -/
def inReserve (s : State) (pa n : Nat) : Bool :=
  paModule pa == s.module && !paSpace1 pa && bitsAt pa 38 3 == 0 && decide (reserveBase < bitsAt pa 0 38 + n)

/-- Reads an entry's 8 bytes for a walker, from its physical address: in this module with no access table or existence check, in another as a
read of the core; an entry in the fabric reserve is denied (R445), and one in error traps MCHK (R274, R291; the spec names no other check of a walker's own
read: DESIGN CHOICE, log 85). -/
def walkerRead (va : Word) (pa : Nat) : M Nat := do
  let s ← get
  if paModule pa ≠ s.module then
    if readsRecords s pa 8 then return readLE s.peek pa 8
    else
      let d ← remoteAccess false pa 8
        { corePacket s 0 (accessClass s pa) false (paModule pa) (bytesOf pa 8 ++ [8]) with exempt := true } va
      return ofBytes (d.take 8)
  else if inReserve s pa 8 then trap causeACCESS va
  else if anyBad s pa 8 then trap causeMCHK va
  else return readLE s.peek pa 8

/-- Reads a page-table entry: a cached one while translations are kept, else from memory (R274). -/
def readPte (jid : BitVec 16) (va : Word) (l pa : Nat) : M Word := do
  let s ← get
  let pre := BitVec.ofNat 64 (va.toNat >>> levelShift l)
  match s.ptes.find? fun c => s.keep && c.jid == jid && c.level.toNat == l && c.prefix_ == pre with
  | some c => if c.bad then trap causeMCHK va else return c.pte
  | none =>
    let v ← walkerRead va pa
    let w := BitVec.ofNat 64 v
    modify fun s => { s with
      ptes := if s.keep && pteCached l w then { jid := jid, level := BitVec.ofNat 2 l, prefix_ := pre, pte := w, bad := false } :: s.ptes else s.ptes }
    return w

/-- Walks the tables from a level, with n levels left: the physical address and the NEAR bit (R271 to R273). -/
def walkFrom (jid : BitVec 16) (va : Word) (k : Access) (user : Bool) : Nat → Nat → Nat → M (Nat × Bool)
  | 0, _, _ => trap k.pageCause va
  | n + 1, l, table => do
    let p ← readPte jid va l (table + 8 * bitsAt va.toNat (levelShift l) (levelBits l))
    match pteKind l p with
    | .fail => trap k.pageCause va
    | .next pa => walkFrom jid va k user n (l + 1) pa
    | .leaf pa =>
      if leafGrants p k user then return (pa + va.toNat % 2 ^ levelShift l, p.getLsbD 6) else trap k.pageCause va

/-- Whether a physical address names a local store or register that exists, for every level (R270). -/
def spaceExists (s : State) (pa : Nat) : Bool :=
  let die := BitVec.ofNat 3 (pa >>> 38)
  if paModule pa ≠ s.module then true
  else if !paSpace1 pa then (s.dies[die.toNat]'die.isLt).available
  else if paControl pa then (s.dies[die.toNat]'die.isLt).available && bitsAt pa 32 6 == 0
  else bitsAt pa 19 12 == 0 && coreExists s die (BitVec.ofNat 2 (pa >>> 36)) (bitsAt pa 32 4)

/-- the caisson slots -/
def caissonBase : Nat := 0x3FAC000000

/-- Whether M may make an access to the reserve: a read, or a write of a caisson slot of a job that is OUT or FAILED (R445). The first word of a free slot
is that job's as it is written, which is how a checkpoint's slot is written back to a spare module (R482 step 4; DEDUCED, log 99). -/
def reserveOpen (s : State) (pa : Nat) (k : Access) : Bool :=
  match k with
  | .r => true
  | .x => true
  | _ =>
    let off := bitsAt pa 0 38
    let slot := caissonBase + (off - caissonBase) / 0x200000 * 0x200000 + s.module.toNat * 2 ^ 42
    let head := readLE (memGet s.mem) slot 8
    decide (caissonBase ≤ off) && s.jobs.any fun (j, st) => (st == .out || st == .failed)
      && (if head.testBit 16 then j == BitVec.ofNat 16 head else decide ((off - caissonBase) % 0x200000 < 8))

/-- The checks that the physical address meets, in the order of R276: it exists, the level may use it, the table of its target grants it,
and it is outside the reserve (R270, R287, R289, R445). -/
def physAllowed (s : State) (pa n : Nat) (k : Access) : Bool :=
  let user := s.hart.level == .u
  let die := bitsAt pa 38 3
  spaceExists s pa && !(user && paSpace1 pa)
    && (!user || paSpace1 pa || paModule pa != s.module
        || tableGrants s (sliceTable s die) { jid := s.ring.jid, module := s.module, ring := s.cur } pa n k)
    && (!inReserve s pa n || (s.hart.level == .m && reserveOpen s pa k))

/-- Notes whether the store that an access makes goes through a NEAR page (R285). -/
def noteNear (s : State) (pa n : Nat) (k : Access) (near : Bool) : State :=
  if (k == .w || k == .a) && !paSpace1 pa then
    { s with through := (sectorsOf pa n).foldl (fun l q =>
        if near then insertNat l (q / 32) else if l.contains (q / 32) then removeNat l (q / 32) else l) s.through }
  else s

/-- Translates the n bytes at an address for an access and checks its target (R276 steps 2 and 3): the physical address and NEAR. -/
def translate (va : Word) (n : Nat) (k : Access) : M (Nat × Bool) := do
  let s ← get
  if s.onMgmt.isSome then
    if va.extractLsb' 56 8 ≠ 0 || !physAllowed s va.toNat n k then trap causeACCESS va
    else
      modify fun s => noteNear s va.toNat n k false
      return (va.toNat, false)
  else if !canonical va then trap k.pageCause va
  else if inWindowRegion va then
    match windowPa s va with
    | some pa => return (pa, false)
    | none => trap causeACCESS va
  else
    let (pa, near) ← walkFrom s.ring.jid va k (s.hart.level == .u) 4 0 (s.ring.ptbase.toNat <<< 17)
    let s ← get
    if physAllowed s pa n k then
      modify fun s => noteNear s pa n k near
      return (pa, near)
    else trap causeACCESS va

/-! ### Accesses of a strand -/

/-- ALIGN unless the address is a multiple of n (R276 step 1). -/
def aligned (va : Word) (n : Nat) : M Unit := if va.toNat % n = 0 then pure () else trap causeALIGN va

/-- A scalar access to a SPACE 1 control address waits for the vector queue (R367). -/
def controlWaits (pa : Nat) : M Unit := if paControl pa then emptyQueue else pure ()

/-- Whether a line fits in the L1 beside the records of the chunk: 128 sets of 8 ways (R228, R281). -/
def lineFits (h : Hart) (line : Nat) : Bool :=
  let l := recordLines h
  l.contains line || decide ((l.filter fun x => x % 128 == line % 128).length < 8)

/-- A chunk that needs a line in a full set holds for the keystone; the keystone writes its SW sectors and clears its SR bits (R228). -/
def lineRoom (pa n : Nat) : M Unit := do
  let s ← get
  if !s.hart.held || (lineFits s.hart (pa / 128) && lineFits s.hart ((pa + n - 1) / 128)) then pure ()
  else if s.ring.active == 0 then earlyWrite
  else wait (.hold .setFull)

/-- Loads n bytes, aligned, with every check of R276; scalar: for a scalar instruction (R367). -/
def loadAs (scalar : Bool) (va : Word) (n : Nat) : M Nat := do
  aligned va n
  let (pa, _) ← translate va n .r
  if scalar then controlWaits pa
  lineRoom pa n
  readPhys va pa n

/-- Loads n bytes for the scalar thread. -/
def load (va : Word) (n : Nat) : M Nat := loadAs true va n

/-- Stores the low n bytes of a value for the scalar thread, aligned, with every check of R276. -/
def store (va : Word) (n x : Nat) : M Unit := do
  aligned va n
  let (pa, _) ← translate va n .w
  controlWaits pa
  lineRoom pa n
  writePhys va pa n x false false

/-- Reads n bytes of an instruction word at a physical address: no load, so it goes past the L1 data cache and sets no SR (R225, R281; log 84). -/
def fetchPhys (va : Word) (pa n : Nat) : M Nat := do
  let s ← get
  if paModule pa ≠ s.module || paControl pa then readPhys va pa n
  else if memoryBad s pa n then trap causeMCHK va
  else return readLE s.peek pa n

/-- Fetches an instruction word: PAGEX, ACCESS or MCHK with EVAL = the address (R118, R365). -/
def fetchWord (va : Word) : M Word32 := do
  let (pa, _) ← translate va 4 .x
  let v ← fetchPhys va pa 4
  return BitVec.ofNat 32 v

/-- Loads k consecutive 8-byte words; scalar: for a scalar instruction (R337, R356). -/
def loadWords (scalar : Bool) (va : Word) : Nat → M (List Word)
  | 0 => return []
  | k + 1 => do
    let v ← loadAs scalar va 8
    let t ← loadWords scalar (va + 8) k
    return BitVec.ofNat 64 v :: t

end Sys2Proof.Machine
end

