-- ==== Sys2Proof/Machine/Flags.lean ====
section
/-! DEFINITION. The flag computations: FCSR as software reads and writes it (spec/02 R35), and the way a result's flags reach it
(spec/03 R57, spec/05 R124, R141). Integer instructions touch no flag (spec/05 R116). -/

namespace Sys2Proof.Machine

/-- FCSR read whole: RM in [1:0], the flags in [7:2], zeros above (R35). -/
def Scal.fcsr (c : Scal) : Word := (0#56 : BitVec 56) ++ c.flags ++ c.rm

/-- FCSR written whole; [63:8] are RZ (R35). -/
def Scal.setFcsr (c : Scal) (v : Word) : Scal := { c with rm := v.extractLsb' 0 2, flags := v.extractLsb' 2 6 }

/-- The rounding mode that a scalar rounding field selects: static with its top bit set, else FCSR.RM (R87, R124). -/
def roundMode (c : Scal) (field : BitVec 3) : RMode := if field.getLsbD 2 then field.extractLsb' 0 2 else c.rm

/-- Writes a scalar floating-point result of width w, with the bits above it cleared, and raises its flags (R24, R124). -/
def wrFp (d : BitVec 5) (r : Nat × Flags) : M Unit := do
  wrX d (BitVec.ofNat 64 r.1)
  raiseFlags r.2

end Sys2Proof.Machine
end

