-- ==== Sys2Proof/Machine/Operands.lean ====
section
/-! DEFINITION. Operand forms: the word formats of R80 (spec/04), from which an instruction that traps ILL, PRIV or CONVOY knows its own
word; immediates and offsets (R81); scalar floating-point operands (spec/05 R124); memory operands (R135); elements, masks and groups of
vector registers (spec/02 R25 to R29). -/

namespace Sys2Proof.Machine

/-! ### Words (R80) -/

/-- R format -/
def wordR (op : BitVec 6) (d a b : BitVec 5) (fn : BitVec 11) : Word32 := op ++ d ++ a ++ b ++ fn
/-- I format -/
def wordI (op : BitVec 6) (d a : BitVec 5) (imm : BitVec 16) : Word32 := op ++ d ++ a ++ imm
/-- M format, and B format with its cc in the place of sz -/
def wordM (op : BitVec 6) (d a : BitVec 5) (sz : BitVec 3) (off : BitVec 13) : Word32 := op ++ d ++ a ++ sz ++ off
/-- V format, and VI format with imm6 in the place of vb -/
def wordV (op vd va vb : BitVec 6) (km : BitVec 3) (fn : BitVec 4) (c : BitVec 1) : Word32 := op ++ vd ++ va ++ vb ++ km ++ fn ++ c
/-- VS format -/
def wordVS (op vd va : BitVec 6) (sb : BitVec 5) (fn5 : BitVec 1) (km : BitVec 3) (fn : BitVec 4) (c : BitVec 1) : Word32 :=
  op ++ vd ++ va ++ sb ++ fn5 ++ km ++ fn ++ c
/-- T format -/
def wordT (zd : BitVec 2) (va vb : BitVec 6) (fn : BitVec 11) : Word32 := 0x30#6 ++ zd ++ va ++ vb ++ fn ++ 0#1

/-! ### Immediates and addresses -/

/-- A sign-extended field (R81). -/
def sx {n : Nat} (i : BitVec n) : Word := i.signExtend 64

/-- A zero-extended field (R81). -/
def zx {n : Nat} (i : BitVec n) : Word := i.setWidth 64

/-- A signed word offset in bytes (R81). -/
def wordOff {n : Nat} (i : BitVec n) : Word := sx i <<< 2

/-- A 5-bit scalar register number in a 6-bit field (R82). -/
def sreg (n : BitVec 6) : BitVec 5 := n.setWidth 5

/-- The address of a load or store: (s[a] + sign-extended off13) mod 2^64 (R135). -/
def memAddr (a : BitVec 5) (off : BitVec 13) : M Word := do return (← rdX a) + sx off

/-! ### Scalar floating-point operands -/

/-- The format of a scalar type field: .d, .s, .h, .b (R87, R124). -/
def scalarFmt (ty : BitVec 2) : FFmt :=
  match ty with
  | 0#2 => fmtDouble
  | 1#2 => fmtSingle
  | 2#2 => fmtHalf
  | _ => fmtBf16

/-- The bits of a scalar floating-point operand: the low w of its register (R24). -/
def fpBits (f : FFmt) (x : Word) : Nat := x.toNat % 2 ^ f.width

/-! ### Element types and elements -/

/-- The floating-point format of an element type, if it is one (R52). -/
def sewFmt (sew : BitVec 4) : Option FFmt :=
  match sew with
  | 8#4 => some fmtHalf
  | 9#4 => some fmtBf16
  | 10#4 => some fmtSingle
  | 11#4 => some fmtDouble
  | 12#4 => some fmtE4M3
  | 13#4 => some fmtE5M2
  | _ => none

/-- Element types si8 to ui64 (R52). -/
def sewIsInt (sew : BitVec 4) : Bool := decide (sew.toNat < 8)

/-- si8, si16, si32, si64 (R52). -/
def sewSigned (sew : BitVec 4) : Bool := sewIsInt sew && sew.toNat % 2 == 0

/-- mxf4 and mxi8 (R52). -/
def sewIsBlock (sew : BitVec 4) : Bool := sew == 14#4 || sew == 15#4

/-- Element i of a register of b-bit elements (R27). -/
def elemOf {n : Nat} (v : BitVec n) (b i : Nat) : Nat := (v.toNat >>> (i * b)) % 2 ^ b

/-- A register with element i of b bits replaced (R27). -/
def setElem {n : Nat} (v : BitVec n) (b i x : Nat) : BitVec n :=
  BitVec.ofNat n (setBitsAt v.toNat (i * b) b x)

/-- A vector register by number; a number that names none reads register 0 and is refused before (R25). -/
def Hart.vr (h : Hart) (n : BitVec 6) : VReg := h.v[n.toNat]'n.isLt

/-- The strand with a vector register replaced. -/
def Hart.setVr (h : Hart) (n : BitVec 6) (x : VReg) : Hart := { h with v := h.v.set n.toNat x n.isLt }

/-- A mask register: k0 reads all ones (R28). -/
def Hart.mask (h : Hart) (k : BitVec 3) : MaskReg := if k = 0 then BitVec.allOnes 32768 else h.k[k.toNat]'k.isLt

/-- The strand with a mask register written: a result for k0 is discarded (R28). -/
def Hart.setMask (h : Hart) (k : BitVec 3) (x : MaskReg) : Hart := if k = 0 then h else { h with k := h.k.set k.toNat x k.isLt }

/-- Bit i of a mask with a new value. -/
def setMaskBit (m : MaskReg) (i : Nat) (b : Bool) : MaskReg :=
  if b then m ||| (1#32768 <<< i) else m &&& ~~~(1#32768 <<< i)

/-- The selected mask, and the effective mask, which also applies k7 while VE = 1 (R28, R29). -/
def effMask (h : Hart) (km : BitVec 3) (ve : Bool) : MaskReg := if ve then h.mask km &&& h.mask 7 else h.mask km

/-- The two's-complement or plain reading of a b-bit element (R52). -/
def elemInt (signed : Bool) (b x : Nat) : Int := if signed then signedOf b x else ((x % 2 ^ b : Nat) : Int)

end Sys2Proof.Machine
end

