-- ==== Sys2Proof/Machine/ScalarInt.lean ====
section
/-! DEFINITION. Integer, shift, compare, constant, multiply, divide and bit instructions: majors 0x01 to 0x0C (spec/05 R115 to R123;
spec/03 R60). None touches FCSR or traps (R116, R118). -/

namespace Sys2Proof.Machine

/-- A register-register instruction: both sources are read before the destination is written (R115). -/
def opRR (d a b : BitVec 5) (f : Word → Word → Word) : M Unit := do
  let x ← rdX a
  let y ← rdX b
  wrX d (f x y)
  nextPc

/-- An instruction of one source. -/
def opR (d a : BitVec 5) (f : Word → Word) : M Unit := do
  let x ← rdX a
  wrX d (f x)
  nextPc

/-- The shift amount y[5:0] (R119). -/
def shamt (y : Word) : Nat := y.toNat % 64

/-- A truth value as 0 or 1. -/
def bool64 (b : Bool) : Word := if b then 1 else 0

/-- The quotient of b-bit integers by R60, as an exact integer. -/
def quotR60 (signed : Bool) (b : Nat) (x y : Int) : Int :=
  if y = 0 then (if signed then -1 else (2 ^ b : Nat) - 1) else x.tdiv y

/-- The remainder of b-bit integers by R60. -/
def remR60 (x y : Int) : Int := if y = 0 then x else x.tmod y

/-- The number of zero bits above the highest set bit; 64 for 0 (R123). -/
def clz64 (x : Word) : Word := if x = 0 then 64 else BitVec.ofNat 64 (63 - log2Floor x.toNat)

/-- The number of zero bits below the lowest set bit, counted from a bit up (R123). -/
def ctzFrom (x : Word) : Nat → Nat → Nat
  | 0, i => i
  | n + 1, i => if x.getLsbD i then i else ctzFrom x n (i + 1)

/-- The number of set bits among the first n (R123). -/
def popFrom (x : Word) : Nat → Nat
  | 0 => 0
  | n + 1 => (if x.getLsbD n then 1 else 0) + popFrom x n

/-- bext: the bits of x at the set positions of y, packed (R123); i bits are left to look at, j is the next place. -/
def bextFrom (x y : Word) : Nat → Nat → Word → Word
  | 0, _, t => t
  | n + 1, j, t =>
    let i := 63 - n
    if y.getLsbD i then bextFrom x y n (j + 1) (if x.getLsbD i then t ||| (1#64 <<< j) else t) else bextFrom x y n j t

/-- bdep: the low bits of x, spread to the set positions of y (R123). -/
def bdepFrom (x y : Word) : Nat → Nat → Word → Word
  | 0, _, t => t
  | n + 1, j, t =>
    let i := 63 - n
    if y.getLsbD i then bdepFrom x y n (j + 1) (if x.getLsbD j then t ||| (1#64 <<< i) else t) else bdepFrom x y n j t

/-- bswap: byte i moved to byte 7 − i (R123). -/
def bswap64 (x : Word) : Word :=
  x.extractLsb' 0 8 ++ x.extractLsb' 8 8 ++ x.extractLsb' 16 8 ++ x.extractLsb' 24 8 ++ x.extractLsb' 32 8 ++ x.extractLsb' 40 8
    ++ x.extractLsb' 48 8 ++ x.extractLsb' 56 8

/-- The value of a low field of n bits, sign-extended. -/
def sextLow (n : Nat) (x : Word) : Word := (x.setWidth n).signExtend 64

/-- The value of a low field of n bits, zero-extended. -/
def zextLow (n : Nat) (x : Word) : Word := (x.setWidth n).setWidth 64

/-- imm16 in halfword n of a word of zeros (R121). -/
def halfAt (n : BitVec 2) (imm : BitVec 16) : Word := zx imm <<< (16 * n.toNat)

/-- add (R119) -/
def execAdd (d a b : BitVec 5) (s : State) : Out :=
  runScalar (opRR d a b fun x y => x + y) s

/-- sub (R119) -/
def execSub (d a b : BitVec 5) (s : State) : Out :=
  runScalar (opRR d a b fun x y => x - y) s

/-- and (R119) -/
def execAnd (d a b : BitVec 5) (s : State) : Out :=
  runScalar (opRR d a b fun x y => x &&& y) s

/-- or (R119) -/
def execOr (d a b : BitVec 5) (s : State) : Out :=
  runScalar (opRR d a b fun x y => x ||| y) s

/-- xor (R119) -/
def execXor (d a b : BitVec 5) (s : State) : Out :=
  runScalar (opRR d a b fun x y => x ^^^ y) s

/-- andn (R119) -/
def execAndn (d a b : BitVec 5) (s : State) : Out :=
  runScalar (opRR d a b fun x y => x &&& ~~~y) s

/-- orn (R119) -/
def execOrn (d a b : BitVec 5) (s : State) : Out :=
  runScalar (opRR d a b fun x y => x ||| ~~~y) s

/-- xnor (R119) -/
def execXnor (d a b : BitVec 5) (s : State) : Out :=
  runScalar (opRR d a b fun x y => ~~~(x ^^^ y)) s

/-- sll (R119) -/
def execSll (d a b : BitVec 5) (s : State) : Out :=
  runScalar (opRR d a b fun x y => x <<< shamt y) s

/-- srl (R119) -/
def execSrl (d a b : BitVec 5) (s : State) : Out :=
  runScalar (opRR d a b fun x y => x >>> shamt y) s

/-- sra (R119) -/
def execSra (d a b : BitVec 5) (s : State) : Out :=
  runScalar (opRR d a b fun x y => x.sshiftRight (shamt y)) s

/-- rol (R119) -/
def execRol (d a b : BitVec 5) (s : State) : Out :=
  runScalar (opRR d a b fun x y => x.rotateLeft (shamt y)) s

/-- ror (R119) -/
def execRor (d a b : BitVec 5) (s : State) : Out :=
  runScalar (opRR d a b fun x y => x.rotateRight (shamt y)) s

/-- min (R119) -/
def execMin (d a b : BitVec 5) (s : State) : Out :=
  runScalar (opRR d a b fun x y => if x.toInt < y.toInt then x else y) s

/-- minu (R119) -/
def execMinu (d a b : BitVec 5) (s : State) : Out :=
  runScalar (opRR d a b fun x y => if x < y then x else y) s

/-- max (R119) -/
def execMax (d a b : BitVec 5) (s : State) : Out :=
  runScalar (opRR d a b fun x y => if x.toInt < y.toInt then y else x) s

/-- maxu (R119) -/
def execMaxu (d a b : BitVec 5) (s : State) : Out :=
  runScalar (opRR d a b fun x y => if x < y then y else x) s

/-- seq (R119) -/
def execSeq (d a b : BitVec 5) (s : State) : Out :=
  runScalar (opRR d a b fun x y => bool64 (x == y)) s

/-- sne (R119) -/
def execSne (d a b : BitVec 5) (s : State) : Out :=
  runScalar (opRR d a b fun x y => bool64 (x != y)) s

/-- slt (R119) -/
def execSlt (d a b : BitVec 5) (s : State) : Out :=
  runScalar (opRR d a b fun x y => bool64 (decide (x.toInt < y.toInt))) s

/-- sltu (R119) -/
def execSltu (d a b : BitVec 5) (s : State) : Out :=
  runScalar (opRR d a b fun x y => bool64 (decide (x < y))) s

/-- mul (R122) -/
def execMul (d a b : BitVec 5) (s : State) : Out :=
  runScalar (opRR d a b fun x y => x * y) s

/-- mulh (R122) -/
def execMulh (d a b : BitVec 5) (s : State) : Out :=
  runScalar (opRR d a b fun x y => BitVec.ofInt 64 ((x.toInt * y.toInt) / 2 ^ 64)) s

/-- mulhu (R122) -/
def execMulhu (d a b : BitVec 5) (s : State) : Out :=
  runScalar (opRR d a b fun x y => BitVec.ofNat 64 ((x.toNat * y.toNat) / 2 ^ 64)) s

/-- div (R122, R60) -/
def execDiv (d a b : BitVec 5) (s : State) : Out :=
  runScalar (opRR d a b fun x y => BitVec.ofInt 64 (quotR60 true 64 x.toInt y.toInt)) s

/-- divu (R122, R60) -/
def execDivu (d a b : BitVec 5) (s : State) : Out :=
  runScalar (opRR d a b fun x y => BitVec.ofInt 64 (quotR60 false 64 x.toNat y.toNat)) s

/-- rem (R122, R60) -/
def execRem (d a b : BitVec 5) (s : State) : Out :=
  runScalar (opRR d a b fun x y => BitVec.ofInt 64 (remR60 x.toInt y.toInt)) s

/-- remu (R122, R60) -/
def execRemu (d a b : BitVec 5) (s : State) : Out :=
  runScalar (opRR d a b fun x y => BitVec.ofInt 64 (remR60 x.toNat y.toNat)) s

/-- bext (R123) -/
def execBext (d a b : BitVec 5) (s : State) : Out :=
  runScalar (opRR d a b fun x y => bextFrom x y 64 0 0) s

/-- bdep (R123) -/
def execBdep (d a b : BitVec 5) (s : State) : Out :=
  runScalar (opRR d a b fun x y => bdepFrom x y 64 0 0) s

/-- clz (R123) -/
def execClz (d a : BitVec 5) (s : State) : Out :=
  runScalar (opR d a fun x => clz64 x) s

/-- ctz (R123) -/
def execCtz (d a : BitVec 5) (s : State) : Out :=
  runScalar (opR d a fun x => BitVec.ofNat 64 (ctzFrom x 64 0)) s

/-- popc (R123) -/
def execPopc (d a : BitVec 5) (s : State) : Out :=
  runScalar (opR d a fun x => BitVec.ofNat 64 (popFrom x 64)) s

/-- bswap (R123) -/
def execBswap (d a : BitVec 5) (s : State) : Out :=
  runScalar (opR d a fun x => bswap64 x) s

/-- sextB (R123) -/
def execSextB (d a : BitVec 5) (s : State) : Out :=
  runScalar (opR d a fun x => sextLow 8 x) s

/-- sextH (R123) -/
def execSextH (d a : BitVec 5) (s : State) : Out :=
  runScalar (opR d a fun x => sextLow 16 x) s

/-- sextW (R123) -/
def execSextW (d a : BitVec 5) (s : State) : Out :=
  runScalar (opR d a fun x => sextLow 32 x) s

/-- zextB (R123) -/
def execZextB (d a : BitVec 5) (s : State) : Out :=
  runScalar (opR d a fun x => zextLow 8 x) s

/-- zextH (R123) -/
def execZextH (d a : BitVec 5) (s : State) : Out :=
  runScalar (opR d a fun x => zextLow 16 x) s

/-- zextW (R123) -/
def execZextW (d a : BitVec 5) (s : State) : Out :=
  runScalar (opR d a fun x => zextLow 32 x) s

/-- addi (R120) -/
def execAddi (d a : BitVec 5) (imm : BitVec 16) (s : State) : Out :=
  runScalar (opR d a fun x => x + sx imm) s

/-- andi (R120) -/
def execAndi (d a : BitVec 5) (imm : BitVec 16) (s : State) : Out :=
  runScalar (opR d a fun x => x &&& zx imm) s

/-- ori (R120) -/
def execOri (d a : BitVec 5) (imm : BitVec 16) (s : State) : Out :=
  runScalar (opR d a fun x => x ||| zx imm) s

/-- xori (R120) -/
def execXori (d a : BitVec 5) (imm : BitVec 16) (s : State) : Out :=
  runScalar (opR d a fun x => x ^^^ zx imm) s

/-- slti (R120) -/
def execSlti (d a : BitVec 5) (imm : BitVec 16) (s : State) : Out :=
  runScalar (opR d a fun x => bool64 (decide (x.toInt < (sx imm).toInt))) s

/-- sltiu (R120) -/
def execSltiu (d a : BitVec 5) (imm : BitVec 16) (s : State) : Out :=
  runScalar (opR d a fun x => bool64 (decide (x < sx imm))) s

/-- slli (R120) -/
def execSlli (d a : BitVec 5) (n : BitVec 6) (s : State) : Out :=
  runScalar (opR d a fun x => x <<< n.toNat) s

/-- srli (R120) -/
def execSrli (d a : BitVec 5) (n : BitVec 6) (s : State) : Out :=
  runScalar (opR d a fun x => x >>> n.toNat) s

/-- srai (R120) -/
def execSrai (d a : BitVec 5) (n : BitVec 6) (s : State) : Out :=
  runScalar (opR d a fun x => x.sshiftRight n.toNat) s

/-- movz (R121): imm16 in one halfword, every other bit cleared. -/
def execMovz (d : BitVec 5) (n : BitVec 2) (imm : BitVec 16) (s : State) : Out :=
  runScalar (do wrX d (halfAt n imm); nextPc) s

/-- movk (R121): one halfword replaced, s[d] being a source. -/
def execMovk (d : BitVec 5) (n : BitVec 2) (imm : BitVec 16) (s : State) : Out :=
  runScalar (opR d d fun x => (x &&& ~~~(0xFFFF#64 <<< (16 * n.toNat))) ||| halfAt n imm) s

end Sys2Proof.Machine
end

