-- ==== Sys2Proof/Machine/LoadStore.lean ====
section
/-! DEFINITION. Loads and stores of majors 0x18 and 0x19 (spec/05 R135 to R137). -/

namespace Sys2Proof.Machine

/-- A load of n bytes: sign- or zero-extended (R135); a load to s0 still performs its read (R136). -/
def opLoad (d a : BitVec 5) (off : BitVec 13) (n : Nat) (signed : Bool) : M Unit := do
  let v ← load (← memAddr a off) n
  wrX d (if signed then BitVec.ofInt 64 (signedOf (8 * n) v) else BitVec.ofNat 64 v)
  nextPc

/-- A store of n bytes of s[d] (R135); it performs once every pushed instruction has completed (R366), and a later vector access of the strand finds it performed
(R41 and R137 leave that open without a fence: DESIGN CHOICE, log 5). -/
def opStore (d a : BitVec 5) (off : BitVec 13) (n : Nat) : M Unit := do
  let addr ← memAddr a off
  let x ← rdX d
  emptyQueue
  store addr n x.toNat
  nextPc

/-- ldb (R135) -/
def execLdb (d a : BitVec 5) (off : BitVec 13) (s : State) : Out :=
  runScalar (opLoad d a off 1 true) s

/-- ldbu (R135) -/
def execLdbu (d a : BitVec 5) (off : BitVec 13) (s : State) : Out :=
  runScalar (opLoad d a off 1 false) s

/-- ldh (R135) -/
def execLdh (d a : BitVec 5) (off : BitVec 13) (s : State) : Out :=
  runScalar (opLoad d a off 2 true) s

/-- ldhu (R135) -/
def execLdhu (d a : BitVec 5) (off : BitVec 13) (s : State) : Out :=
  runScalar (opLoad d a off 2 false) s

/-- ldw (R135) -/
def execLdw (d a : BitVec 5) (off : BitVec 13) (s : State) : Out :=
  runScalar (opLoad d a off 4 true) s

/-- ldwu (R135) -/
def execLdwu (d a : BitVec 5) (off : BitVec 13) (s : State) : Out :=
  runScalar (opLoad d a off 4 false) s

/-- ldd (R135) -/
def execLdd (d a : BitVec 5) (off : BitVec 13) (s : State) : Out :=
  runScalar (opLoad d a off 8 false) s

/-- stb (R135) -/
def execStb (d a : BitVec 5) (off : BitVec 13) (s : State) : Out :=
  runScalar (opStore d a off 1) s

/-- sth (R135) -/
def execSth (d a : BitVec 5) (off : BitVec 13) (s : State) : Out :=
  runScalar (opStore d a off 2) s

/-- stw (R135) -/
def execStw (d a : BitVec 5) (off : BitVec 13) (s : State) : Out :=
  runScalar (opStore d a off 4) s

/-- std (R135) -/
def execStd (d a : BitVec 5) (off : BitVec 13) (s : State) : Out :=
  runScalar (opStore d a off 8) s

end Sys2Proof.Machine
end

