-- ==== Sys2Proof/Machine/Atomic.lean ====
section
/-! DEFINITION. Acquire loads and release stores, atomics, compare-and-swap and full/empty words: majors 0x1A and 0x1B (spec/15 R304 to
R307, R311 to R313, R317). In a model of one interleaving (log 5) a scope orders nothing more (R301). -/

namespace Sys2Proof.Machine

/-- The wait and the settlement that every instruction of these majors makes first (R318, R367). -/
def beginOrdered : M Unit := do
  emptyQueue
  keystoneOnly

/-- An acquire raises the floor of its core to the greatest TIME that a release of the bytes carries (R317). -/
def acquireTime (pa n : Nat) : M Unit := modify fun s => raiseFloor s (carriedTime s pa n)

/-- A release marks its bytes with the issuing core's TIME (R317). -/
def releaseTime (pa n : Nat) : M Unit := modify fun s => { s with released := carryTime s.released pa (timeNow s) n }

/-- An acquire from another module raises the floor to the TIME that its reply carries (R317). -/
def acquireReply (pa : Nat) (write : Bool) : M Unit := modify fun s =>
  if paModule pa = s.module then s
  else match s.hart.remote.find? fun r => r.pa.toNat == pa && r.write == write with
    | some r => raiseFloor s r.time
    | none => s

/-- An acquire load of n bytes (R304). -/
def opLoadAcquire (d a : BitVec 5) (n : Nat) : M Unit := do
  let addr ← rdX a
  beginOrdered
  aligned addr n
  let (pa, _) ← translate addr n .r
  let v ← readPhys addr pa n
  acquireTime pa n
  acquireReply pa false
  wrX d (BitVec.ofNat 64 v)
  nextPc

/-- The mark of a release whose bytes lie on this module; one to another module goes in its packet (R317). -/
def releaseHere (pa n : Nat) : M Unit := do if paModule pa = (← get).module then releaseTime pa n

/-- A release store of n bytes (R304). -/
def opStoreRelease (a b : BitVec 5) (n : Nat) : M Unit := do
  let addr ← rdX a
  let x ← rdX b
  beginOrdered
  aligned addr n
  let (pa, _) ← translate addr n .w
  writePhys addr pa n (x.toNat % 2 ^ (8 * n)) true true
  releaseHere pa n
  nextPc

/-- The atomic read and write of w bytes at an address: the old value. code is fn[10:6] of R93; next gives the new value (R306). -/
def atomicAt (addr : Word) (w : Nat) (code : Nat) (operand expected : Word) (acq rel : Bool) (next : Nat → Nat) : M Nat := do
  aligned addr w
  let (pa, _) ← translate addr w .a
  let s ← get
  if paControl pa then trap causeACCESS addr
  else if paModule pa ≠ s.module then
    let payload := bytesOf pa 8 ++ [BitVec.ofNat 8 code, BitVec.ofNat 8 w] ++ List.replicate 6 0 ++ bytesOf operand.toNat 8
      ++ bytesOf expected.toNat 8
    let pkt := corePacket s 4 2 rel (paModule pa) payload
    let d ← remoteAccess true pa w { pkt with time := if rel then timeNow s else 0 } addr
    if acq then acquireReply pa true
    modify fun s => squashReadersOf s pa w
    return ofBytes (d.take 8) % 2 ^ (8 * w)
  else if anyBad s pa w then trap causeMCHK addr
  else if !permitsFor s pa w then wait (.park .stalled)
  else
    let old := readLE s.peek pa w
    let t := carriedTime s pa w
    modify fun s => storeDirect s pa (next old) w
    if acq then modify fun s => raiseFloor s t
    if rel then releaseTime pa w
    return old

/-- The width in bytes that the .w/.d bit selects (R93). -/
def atomWidth (wd : BitVec 1) : Nat := if wd = 1 then 8 else 4

/-- An old value as s[d] takes it: sign-extended for .w (R305). -/
def atomResult (w old : Nat) : Word := BitVec.ofInt 64 (signedOf (8 * w) old)

/-- The new value of an atomic by fn[10:6] (R93, R305): of the old value o and the operand y, both of n bits. -/
def amoOp (code n o y : Nat) : Nat :=
  (match code with
   | 0 => o + y
   | 1 => o &&& y
   | 2 => o ||| y
   | 3 => o ^^^ y
   | 4 => if signedOf n o ≤ signedOf n y then o else y
   | 5 => if signedOf n o ≤ signedOf n y then y else o
   | 6 => if o ≤ y then o else y
   | 7 => if o ≤ y then y else o
   | _ => y) % 2 ^ n

/-- An atomic (R305), by fn[10:6]. -/
def opAmo (d a b : BitVec 5) (wd : BitVec 1) (ord : BitVec 2) (code : Nat) : M Unit := do
  let addr ← rdX a
  let y ← rdX b
  beginOrdered
  let w := atomWidth wd
  let old ← atomicAt addr w code y 0 (ord.getLsbD 0) (ord.getLsbD 1) fun o => amoOp code (8 * w) o (y.toNat % 2 ^ (8 * w))
  wrX d (atomResult w old)
  nextPc

/-- ldbuAQ (R304) -/
def execLdbuAQ (d a : BitVec 5) (_scope : BitVec 3) (s : State) : Out :=
  runScalar (opLoadAcquire d a 1) s

/-- ldhuAQ (R304) -/
def execLdhuAQ (d a : BitVec 5) (_scope : BitVec 3) (s : State) : Out :=
  runScalar (opLoadAcquire d a 2) s

/-- ldwuAQ (R304) -/
def execLdwuAQ (d a : BitVec 5) (_scope : BitVec 3) (s : State) : Out :=
  runScalar (opLoadAcquire d a 4) s

/-- lddAQ (R304) -/
def execLddAQ (d a : BitVec 5) (_scope : BitVec 3) (s : State) : Out :=
  runScalar (opLoadAcquire d a 8) s

/-- stbRL (R304) -/
def execStbRL (a b : BitVec 5) (_scope : BitVec 3) (s : State) : Out :=
  runScalar (opStoreRelease a b 1) s

/-- sthRL (R304) -/
def execSthRL (a b : BitVec 5) (_scope : BitVec 3) (s : State) : Out :=
  runScalar (opStoreRelease a b 2) s

/-- stwRL (R304) -/
def execStwRL (a b : BitVec 5) (_scope : BitVec 3) (s : State) : Out :=
  runScalar (opStoreRelease a b 4) s

/-- stdRL (R304) -/
def execStdRL (a b : BitVec 5) (_scope : BitVec 3) (s : State) : Out :=
  runScalar (opStoreRelease a b 8) s

/-- amoadd (R305, R306) -/
def execAmoadd (d a b : BitVec 5) (wd : BitVec 1) (_scope : BitVec 3) (ord : BitVec 2) (s : State) : Out :=
  runScalar (opAmo d a b wd ord 0) s

/-- amoand (R305, R306) -/
def execAmoand (d a b : BitVec 5) (wd : BitVec 1) (_scope : BitVec 3) (ord : BitVec 2) (s : State) : Out :=
  runScalar (opAmo d a b wd ord 1) s

/-- amoor (R305, R306) -/
def execAmoor (d a b : BitVec 5) (wd : BitVec 1) (_scope : BitVec 3) (ord : BitVec 2) (s : State) : Out :=
  runScalar (opAmo d a b wd ord 2) s

/-- amoxor (R305, R306) -/
def execAmoxor (d a b : BitVec 5) (wd : BitVec 1) (_scope : BitVec 3) (ord : BitVec 2) (s : State) : Out :=
  runScalar (opAmo d a b wd ord 3) s

/-- amomin (R305, R306) -/
def execAmomin (d a b : BitVec 5) (wd : BitVec 1) (_scope : BitVec 3) (ord : BitVec 2) (s : State) : Out :=
  runScalar (opAmo d a b wd ord 4) s

/-- amomax (R305, R306) -/
def execAmomax (d a b : BitVec 5) (wd : BitVec 1) (_scope : BitVec 3) (ord : BitVec 2) (s : State) : Out :=
  runScalar (opAmo d a b wd ord 5) s

/-- amominu (R305, R306) -/
def execAmominu (d a b : BitVec 5) (wd : BitVec 1) (_scope : BitVec 3) (ord : BitVec 2) (s : State) : Out :=
  runScalar (opAmo d a b wd ord 6) s

/-- amomaxu (R305, R306) -/
def execAmomaxu (d a b : BitVec 5) (wd : BitVec 1) (_scope : BitVec 3) (ord : BitVec 2) (s : State) : Out :=
  runScalar (opAmo d a b wd ord 7) s

/-- amoswap (R305, R306) -/
def execAmoswap (d a b : BitVec 5) (wd : BitVec 1) (_scope : BitVec 3) (ord : BitVec 2) (s : State) : Out :=
  runScalar (opAmo d a b wd ord 8) s

/-- cas (R307): a failed comparison writes the unchanged value. -/
def execCas (d a b : BitVec 5) (wd : BitVec 1) (_scope : BitVec 3) (ord : BitVec 2) (s : State) : Out :=
  runScalar (do
    let addr ← rdX a
    let y ← rdX b
    let e ← rdX d
    beginOrdered
    let w := atomWidth wd
    let m := 2 ^ (8 * w)
    let old ← atomicAt addr w 9 y e (ord.getLsbD 0) (ord.getLsbD 1) fun o => if o = e.toNat % m then y.toNat % m else o
    wrX d (atomResult w old)
    nextPc) s

/-! ### Full/empty words -/

/-- Whether a waiter's strand is parked at its word, or about to be again. -/
def Waiter.parked (s : State) (w : Waiter) : Bool :=
  let h := if w.ring = s.cur && s.onMgmt.isNone && s.hart.slot == w.slot then some s.hart
    else (s.ringAt w.ring).chunks.find? fun h => h.slot == w.slot
  match h with
  | some h => h.park == .ldsync || h.park == .stalled || h.park == .reply
  | none => false

/-- Whether a waiter is served when its word becomes full (R313): it is parked, and its ring is not HALTED. -/
def Waiter.waits (s : State) (w : Waiter) : Bool := w.parked s && !(s.ringAt w.ring).halted

/-- The waiters of a word that is full, served in order of arrival: every ldsync up to the first ldtake, and that; and whether the word is full still
(R313). -/
def serveInOrder (s : State) (pa : Nat) (v t : Word) : List Waiter → List Waiter × Bool
  | [] => ([], true)
  | w :: l =>
    if w.pa.toNat = pa && w.got.isNone && w.waits s then
      let w' := { w with got := some (v, t) }
      if w.take then (w' :: l, false) else let r := serveInOrder s pa v t l; (w' :: r.1, r.2)
    else let r := serveInOrder s pa v t l; (w :: r.1, r.2)

/-- Sets or clears the full bit of a word (R311). Waiters of a word that becomes full are served (R299, R313); one in error traps them when they next move. -/
def setFull (s : State) (pa : Nat) (b : Bool) : State :=
  if b then
    let full := insertNat s.full pa
    if s.waiters.isEmpty || anyBad s pa 8 then { s with full := full }
    else
      let r := serveInOrder s pa (BitVec.ofNat 64 (readLE (memGet s.mem) pa 8)) (carriedTime s pa 8) s.waiters
      { s with waiters := r.1, full := if r.2 then full else removeNat full pa }
  else { s with full := removeNat s.full pa }

/-- What the executing strand's ldsync or ldtake has been served, if it has (R313). -/
def servedHere (s : State) : Option (Word × Word) :=
  if s.onMgmt.isSome then none
  else (s.waiters.find? fun w => w.ring == s.cur && w.slot == s.hart.slot).bind (·.got)

/-- The physical address of a full/empty word, in an allowed window; a management core has none (R312, R379). -/
def windowWord (addr : Word) : M Nat := do
  let s ← get
  if s.onMgmt.isSome then trap causeACCESS addr
  else if inWindowRegion addr then
    match windowPa s addr with
    | some pa => return pa
    | none => trap causeACCESS addr
  else trap causeACCESS addr

/-- The waiters of a word that reached it before the executing core (R313). -/
def waitersBefore (s : State) (pa : Nat) : List Waiter :=
  (s.waiters.takeWhile fun w => !(w.ring == s.cur && w.slot == s.hart.slot)).filter fun w => w.pa.toNat == pa

/-- The waiters without the executing core. -/
def leaveWaiters (s : State) : State :=
  { s with waiters := s.waiters.filter fun w => !(w.ring == s.cur && w.slot == s.hart.slot) }

/-- Waits until the word is full and its turn has come: earlier waiters go first, except that every ldsync up to the first ldtake
proceeds (R313). -/
def awaitFull (pa : Nat) (take : Bool) : M Unit := do
  let s ← get
  let before := waitersBefore s pa
  let turn := if take then before.isEmpty else before.all fun w => !w.take
  if s.full.contains pa && turn then set (leaveWaiters s) else wait (.waiter (BitVec.ofNat 56 pa) take)

/-- ldsync and ldtake (R312): an acquire. One that waited takes what it was served (R313). -/
def opFullLoad (d a : BitVec 5) (take : Bool) : M Unit := do
  let addr ← rdX a
  beginOrdered
  aligned addr 8
  let pa ← windowWord addr
  match servedHere (← get) with
  | some (v, t) =>
    modify fun s => raiseFloor (leaveWaiters s) t
    wrX d v
    nextPc
  | none =>
    awaitFull pa take
    let s ← get
    if anyBad s pa 8 then trap causeMCHK addr
    else
      acquireTime pa 8
      if take then modify fun s => setFull s pa false
      wrX d (BitVec.ofNat 64 (readLE s.peek pa 8))
      nextPc

/-- ldsync (R312) -/
def execLdsync (d a : BitVec 5) (_scope : BitVec 3) (s : State) : Out := runScalar (opFullLoad d a false) s

/-- ldtake (R312) -/
def execLdtake (d a : BitVec 5) (_scope : BitVec 3) (s : State) : Out := runScalar (opFullLoad d a true) s

/-- stfill (R312): the word and its full bit in one step; a release. -/
def execStfill (a b : BitVec 5) (_scope : BitVec 3) (s : State) : Out :=
  runScalar (do
    let addr ← rdX a
    let x ← rdX b
    beginOrdered
    aligned addr 8
    let pa ← windowWord addr
    if anyBad (← get) pa 8 then trap causeMCHK addr
    else
      modify fun s => storeDirect s pa x.toNat 8
      releaseTime pa 8
      modify fun s => setFull s pa true
      nextPc) s

/-- The steps of feclr and feset on the words from an address up, in increasing order; a word in error stops them there (R312; DEDUCED,
log 24). -/
def markWords (addr : Word) (pa : Nat) (b : Bool) : Nat → M Unit
  | 0 => pure ()
  | n + 1 => do
    if anyBad (← get) pa 8 then trap causeMCHK addr
    else
      modify fun s => setFull s pa b
      markWords (addr + 8) (pa + 8) b n

/-- The bytes of a window from an address to its end (R277). -/
def windowRest (addr : Word) : Nat := 0x80000 - addr.toNat % 0x80000

/-- feclr and feset (R312). -/
def opFullRange (a b : BitVec 5) (full : Bool) : M Unit := do
  let addr ← rdX a
  let cnt ← rdX b
  beginOrdered
  aligned addr 8
  if cnt = 0 then nextPc
  else
    let pa ← windowWord addr
    if windowRest addr < 8 * cnt.toNat then trap causeACCESS addr
    else
      markWords addr pa full cnt.toNat
      nextPc

/-- feclr (R312) -/
def execFeclr (a b : BitVec 5) (_scope : BitVec 3) (s : State) : Out := runScalar (opFullRange a b false) s

/-- feset (R312): a release, which supplies no byte and so carries no TIME (R317). -/
def execFeset (a b : BitVec 5) (_scope : BitVec 3) (s : State) : Out := runScalar (opFullRange a b true) s

end Sys2Proof.Machine
end

