-- ==== Sys2Proof/Machine/Agents.lean ====
section
/-! DEFINITION. Which strand or management core the state holds as the executing one, and how an operation reaches the others (spec/19
R362, R379; spec/20 R390). -/

namespace Sys2Proof.Machine

/-- A list with one element replaced. -/
def listSet {α : Type} : List α → Nat → α → List α
  | [], _, _ => []
  | _ :: t, 0, b => b :: t
  | a :: t, n + 1, b => a :: listSet t n b

/-- The module with the executing strand or core written back to where it belongs. -/
def putBack (s : State) : State :=
  match s.onMgmt with
  | some a =>
    { s with
      mgmt := s.mgmt.set a.toNat { (s.mgmt[a.toNat]'a.isLt) with hart := s.hart } a.isLt
      rings := s.rings.set s.cur.toNat s.ring s.cur.isLt }
  | none =>
    let r := { s.ring with chunks := listSet s.ring.chunks s.ring.active s.hart }
    { s with ring := r, rings := s.rings.set s.cur.toNat r s.cur.isLt }

/-- The module with chunk i of a ring as the executing strand, from a module in which nothing is executing apart from its copy. -/
def loadRing (s : State) (n : BitVec 6) (i : Nat) : State :=
  let r := s.rings[n.toNat]'n.isLt
  { s with onMgmt := none, cur := n, ring := { r with active := i }, hart := r.chunks.getD i Hart.start }

/-- The module with a management core executing. -/
def loadMgmt (s : State) (a : BitVec 1) : State := { s with onMgmt := some a, hart := (s.mgmt[a.toNat]'a.isLt).hart }

/-- The module with chunk i of a ring as the executing strand. -/
def turnTo (s : State) (n : BitVec 6) (i : Nat) : State := loadRing (putBack s) n i

/-- The module with the executing agent of another state loaded again. -/
def turnBack (was s : State) : State :=
  let s1 := putBack s
  let s2 := loadRing s1 was.cur (min was.ring.active ((s1.rings[was.cur.toNat]'was.cur.isLt).chunks.length - 1))
  match was.onMgmt with
  | some a => loadMgmt s2 a
  | none => s2

/-- Does something with chunk i of a ring as the executing strand, and comes back. -/
def onRing (s : State) (n : BitVec 6) (i : Nat) (f : State → State) : State := turnBack s (f (turnTo s n i))

/-- The module with a ring's own registers changed. -/
def State.modRingAt (s : State) (n : BitVec 6) (f : Ring → Ring) : State :=
  if n = s.cur then { s with ring := f s.ring }
  else { s with rings := s.rings.set n.toNat (f (s.rings[n.toNat]'n.isLt)) n.isLt }

/-- The module with a management core's own registers changed. -/
def State.modMgmt (s : State) (a : BitVec 1) (f : Mgmt → Mgmt) : State :=
  { s with mgmt := s.mgmt.set a.toNat (f (s.mgmt[a.toNat]'a.isLt)) a.isLt }

/-- A management core's registers. -/
def State.mgmtAt (s : State) (a : BitVec 1) : Mgmt := s.mgmt[a.toNat]'a.isLt

/-- The strand on a ring that holds its keystone, with the executing one as it stands. -/
def keystoneOf (s : State) (n : BitVec 6) : Hart :=
  if n = s.cur && s.onMgmt.isNone && s.ring.active == 0 then s.hart else (s.ringAt n).chunks.headD Hart.start

/-- The die of a number. -/
def State.die (s : State) (d : BitVec 3) : Die := s.dies[d.toNat]'d.isLt

/-- The module with one die changed. -/
def State.modDie (s : State) (d : BitVec 3) (f : Die → Die) : State := { s with dies := s.dies.set d.toNat (f (s.die d)) d.isLt }

/-- All ring numbers. -/
def allRings : List (BitVec 6) := (List.range 64).map (BitVec.ofNat 6)

/-- All span dies. -/
def allDies : List (BitVec 3) := (List.range 8).map (BitVec.ofNat 3)

/-- Waits at the source for its turn to leave as a packet (R438). -/
def queuePacket (s : State) (p : Packet) : State := { s with heldOut := s.heldOut ++ [p] }

/-- A control packet (R443) to a module. -/
def controlPacket (s : State) (sub : Nat) (val : Word) (dmod : BitVec 14) : Packet :=
  { kind := 12, tc := 0, ord := false, resp := false, dmod := dmod, smod := s.module, sring := 0, upath := 0, slow := false, age := 0,
    jid := 0, pseq := 0, status := 0, rtag := 0, payload := bytesOf sub 8 ++ bytesOf val.toNat 8, time := 0 }

/-- The root module of the system: the lowest-numbered present one (R425). -/
def systemRoot (s : State) : BitVec 14 :=
  (s.present.filter fun m => decide (m.toNat < moduleLimit)).foldl (fun a b => if b < a then b else a) s.module

/-- Sends a control packet to every other module (R443): one packet, identified by SMOD and PSEQ, that the switches flood. Its DMOD names this module
(DESIGN CHOICE, log 40). -/
def floodControl (s : State) (sub : Nat) (val : Word) : State :=
  if s.present.all fun m => m == s.module then s
  else { queuePacket s { controlPacket s sub val s.module with pseq := s.floodSeq } with floodSeq := s.floodSeq + 1 }

/-- Removes the first element of a list that a test holds of. -/
def removeFirst {α : Type} (f : α → Bool) : List α → List α
  | [] => []
  | a :: t => if f a then t else a :: removeFirst f t

end Sys2Proof.Machine
end

