-- ==== Sys2Proof/Machine/Power.lean ====
section
/-! DEFINITION. The dies' clocks, time and power (spec/22): the governor (R416), the power messages and their protocol (R417, R418),
PWRCFG (R419), droop (R412), the die counts (R414), cooling (R423) and the marks for retirement (R422). An event that cannot occur in a
state leaves it as it is (log 25). -/

namespace Sys2Proof.Machine

/-- PWRCFG's three fields (R419). -/
structure PwrCfg where
  floor : BitVec 10
  ceil : BitVec 10
  boost : Bool
deriving DecidableEq, Repr

/-- The module's PWRCFG: both copies read alike (R419). -/
def pwrCfg (s : State) : PwrCfg := { floor := (s.mgmtAt 0).pwrFloor, ceil := (s.mgmtAt 0).pwrCeil, boost := (s.mgmtAt 0).pwrBoost }

/-- The highest step up to n whose modelled power does not exceed h; step 0 at least (R416). -/
def highestStep (h : Nat) : Nat → Nat
  | 0 => 0
  | n + 1 => if Config.stepPower (n + 1) ≤ h then n + 1 else highestStep h n

/-- The step that the governor chooses with h tokens (R416, R423; log 13): 420 tokens allow 2.7 GHz, and so do more. -/
def governorStep (c : PwrCfg) (capped : Bool) (h : Nat) : BitVec 5 :=
  if capped then 0
  else if c.boost && decide (480 ≤ h) && decide (Config.stepPower 18 ≤ h) then 18
  else if 420 ≤ h then 15
  else BitVec.ofNat 5 (highestStep h 15)

/-- A die whose clock h tokens limit (R416): it is lowered at once where it must be, and a raise under way ends at what they allow. -/
def Die.lower (c : PwrCfg) (d : Die) (h : Nat) : Die :=
  let g := governorStep c d.capped h
  if g < d.step then { d with step := g, target := none }
  else { d with target := d.target.bind fun t => if t ≤ g then some t else if d.step < g then some g else none }

/-- A die that starts to raise its clock to what its tokens allow; the change takes 2 µs (R416). -/
def Die.raise (c : PwrCfg) (d : Die) : Die :=
  let g := governorStep c d.capped d.held.toNat
  if d.step < g then { d with target := some g } else d.lower c d.held.toNat

/-- Takes tokens off a list of debts to or from dies, oldest first: what goes to each, and what is left. -/
def takeTokens (n : Nat) : List (BitVec 3 × BitVec 10) → List (BitVec 3 × BitVec 10) × List (BitVec 3 × BitVec 10)
  | [] => ([], [])
  | (d, m) :: t =>
    let k := min n m.toNat
    let (gone, left) := takeTokens (n - k) t
    (if k = 0 then gone else (d, BitVec.ofNat 10 k) :: gone, if k = m.toNat then left else (d, m - BitVec.ofNat 10 k) :: left)

/-- Takes tokens off the debts to or from one die. -/
def takeFrom (d : BitVec 3) (n : Nat) (l : List (BitVec 3 × BitVec 10)) : List (BitVec 3 × BitVec 10) :=
  match l with
  | [] => []
  | (e, m) :: t =>
    if e = d then
      let k := min n m.toNat
      if k = m.toNat then takeFrom d (n - k) t else (e, m - BitVec.ofNat 10 k) :: t
    else (e, m) :: takeFrom d n t

/-- The lesser of two token counts. -/
def min10 (a b : BitVec 10) : BitVec 10 := if a < b then a else b

/-- The tokens owed to or by one die. -/
def tokensOf (d : BitVec 3) (l : List (BitVec 3 × BitVec 10)) : Nat := (l.map fun p => if p.1 = d then p.2.toNat else 0).sum

/-- Sends a power message (R410). -/
def sendPower (s : State) (m : PowerMsg) : State := { s with power := s.power ++ [m] }

/-- The power that a die runs for: what it wants, kept within FLOOR and CEIL (R419). -/
def wantedOf (c : PwrCfg) (d : Die) : Nat := max c.floor.toNat (min c.ceil.toNat d.wanted.toNat)

/-- The next die that die d asks (R418); a die that is powered down is passed over (DEDUCED, log 26). -/
def nextAsked (s : State) (d : BitVec 3) : Nat → BitVec 3 → Option (BitVec 3)
  | 0, _ => none
  | n + 1, k =>
    if k = 7 then none
    else
      let e := d + 1 + k
      if (s.die e).available then some e else nextAsked s d n (k + 1)

/-- Sends BORROW to the next die, or rests for 8 µs after the seventh (R417, R418). -/
def askNext (s : State) (d : BitVec 3) : State :=
  let x := s.die d
  let c := pwrCfg s
  let n := min (wantedOf c x) c.ceil.toNat - x.held.toNat
  match nextAsked s d 7 x.denies with
  | none => s.modDie d fun x => { x with resting := true }
  | some e =>
    sendPower (s.modDie d fun x => { x with asking := some e, denies := e - d - 1 }) (.borrow d e (BitVec.ofNat 10 n))

/-- Repays n tokens, oldest grant first, with the clock lowered before they leave (R416, R418). -/
def repay (s : State) (d : BitVec 3) (n : Nat) : State :=
  let x := s.die d
  let (gone, left) := takeTokens n x.grants
  let m := (gone.map fun p => p.2.toNat).sum
  let c := pwrCfg s
  let s1 := s.modDie d fun x =>
    { x.lower c (x.held.toNat - m) with held := x.held - BitVec.ofNat 10 m, owed := x.owed - BitVec.ofNat 10 m, grants := left }
  gone.foldl (fun t p => sendPower t (.repay d p.1 p.2)) s1

/-- The tokens under a RECALL of a lender that its borrowers have still to repay (R418). -/
def Die.recalling (d : Die) : BitVec 10 := BitVec.ofNat 10 (d.recalls.map fun p => p.2.toNat).sum

/-- The loans of a die without what it has recalled already. -/
def Die.unrecalled (d : Die) : List (BitVec 3 × BitVec 10) := d.recalls.foldl (fun l p => takeFrom p.1 p.2.toNat l) d.loans

/-- Recalls n tokens of those lent and not under a RECALL yet (R417, R418). -/
def callBack (s : State) (d : BitVec 3) (n : Nat) : State :=
  let (gone, _) := takeTokens n (s.die d).unrecalled
  let s1 := s.modDie d fun x => { x with recalls := x.recalls ++ gone }
  gone.foldl (fun t p => sendPower t (.recall d p.1 p.2)) s1

/-- What a die does when the power it wants differs from its tokens (R417 to R419). -/
def settlePower (s : State) (d : BitVec 3) : State :=
  let x := s.die d
  let c := pwrCfg s
  let w := wantedOf c x
  if !x.available then s
  else if x.held.toNat < w then
    if x.lent ≠ 0 then
      (if x.recalling.toNat < min (w - x.held.toNat) x.lent.toNat then
        callBack s d (min (w - x.held.toNat) x.lent.toNat - x.recalling.toNat) else s)
    else if x.asking.isNone && !x.resting && decide (x.held < c.ceil) then askNext (s.modDie d fun x => { x with denies := 0 }) d
    else s
  else if w < x.held.toNat && x.owed ≠ 0 then repay s d (x.held.toNat - w)
  else s

/-- Whether a message is the next to arrive between its two dies (R410). -/
def arrives (s : State) (m : PowerMsg) : Bool :=
  let ends : PowerMsg → BitVec 3 × BitVec 3
    | .borrow a b _ => (a, b)
    | .grant a b _ => (a, b)
    | .deny a b => (a, b)
    | .repay a b _ => (a, b)
    | .recall a b _ => (a, b)
  s.power.find? (fun q => ends q == ends m) == some m

/-- A message that has arrived is in transit no more. -/
def tookPower (s : State) (m : PowerMsg) : State := { s with power := removeFirst (· == m) s.power }

/-- Handles a message that arrives; one that is not next to arrive does nothing (log 25). -/
def onPower (s : State) (m : PowerMsg) (f : State → State) : Out := .next (if arrives s m then f (tookPower s m) else s)

/-- BORROW (R417, R418): GRANT of what stands above FLOOR, or DENY; a lender that is left with less than it wants recalls. -/
def execBorrow (src dst : BitVec 3) (n : BitVec 10) (s : State) : Out :=
  onPower s (.borrow src dst n) fun s =>
    let x := s.die dst
    let c := pwrCfg s
    if x.owed = 0 && x.asking.isNone && decide (c.floor < x.held) then
      let m := min10 n (x.held - c.floor)
      settlePower (sendPower (s.modDie dst fun x =>
        { x.lower c (x.held - m).toNat with held := x.held - m, lent := x.lent + m, loans := x.loans ++ [(src, m)] }) (.grant dst src m)) dst
    else sendPower s (.deny dst src)

/-- GRANT (R417) -/
def execGrant (src dst : BitVec 3) (n : BitVec 10) (s : State) : Out :=
  onPower s (.grant src dst n) fun s =>
    let c := pwrCfg s
    settlePower (s.modDie dst fun x =>
      Die.raise c { x with held := x.held + n, owed := x.owed + n, grants := x.grants ++ [(src, n)], asking := none }) dst

/-- DENY (R417, R418): the borrower asks the next die, and after seven it rests. -/
def execDeny (src dst : BitVec 3) (s : State) : Out :=
  onPower s (.deny src dst) fun s =>
    let s1 := s.modDie dst fun x => { x with asking := none, denies := x.denies + 1 }
    let x := s1.die dst
    let c := pwrCfg s1
    if x.held.toNat < wantedOf c x && x.lent = 0 then askNext s1 dst else s1

/-- REPAY (R417, R418) -/
def execRepay (src dst : BitVec 3) (n : BitVec 10) (s : State) : Out :=
  onPower s (.repay src dst n) fun s =>
    let c := pwrCfg s
    settlePower (s.modDie dst fun x =>
      Die.raise c { x with held := x.held + n, lent := x.lent - n, loans := takeFrom src n.toNat x.loans,
                           recalls := takeFrom src n.toNat x.recalls }) dst

/-- RECALL (R417): the borrower repays up to what it owes that lender (DEDUCED, log 27); one that finds OWED = 0 is ignored. -/
def execRecall (src dst : BitVec 3) (n : BitVec 10) (s : State) : Out :=
  onPower s (.recall src dst n) fun s =>
    let x := s.die dst
    let m := min n.toNat (tokensOf src x.grants)
    let c := pwrCfg s
    if m = 0 then s
    else
      sendPower (s.modDie dst fun x =>
        { x.lower c (x.held.toNat - m) with
          held := x.held - BitVec.ofNat 10 m, owed := x.owed - BitVec.ofNat 10 m, grants := takeFrom src m x.grants })
        (.repay dst src (BitVec.ofNat 10 m))

/-- WANTED_POWER_CHANGE (R418) -/
def execWantedPowerChange (die : BitVec 3) (watts : BitVec 10) (s : State) : Out :=
  .next (settlePower (s.modDie die fun x => { x with wanted := watts }) die)

/-- BORROW_RETRY_EXPIRY (R418) -/
def execBorrowRetryExpiry (die : BitVec 3) (s : State) : Out :=
  .next (if (s.die die).resting then settlePower (s.modDie die fun x => { x with resting := false, denies := 0 }) die else s)

/-- The value of PWRCFG as software reads it (R419). -/
def PwrCfg.word (c : PwrCfg) : Word :=
  (0#31 : BitVec 31) ++ BitVec.ofBool c.boost ++ (0#6 : BitVec 6) ++ c.ceil ++ (0#6 : BitVec 6) ++ c.floor

/-- The fields of a value written to PWRCFG (R419). -/
def pwrFields (v : Word) : PwrCfg := { floor := v.extractLsb' 0 10, ceil := v.extractLsb' 16 10, boost := v.getLsbD 32 }

/-- FLOOR ≤ 420 ≤ CEIL (R419). -/
def PwrCfg.legal (c : PwrCfg) : Bool := decide (c.floor.toNat ≤ 420 ∧ 420 ≤ c.ceil.toNat)

/-- A legal write of PWRCFG reaches both copies and every die (R419). -/
def writePwrcfg (s : State) (v : Word) : State :=
  let c := pwrFields v
  let put (m : Mgmt) : Mgmt := { m with pwrFloor := c.floor, pwrCeil := c.ceil, pwrBoost := c.boost }
  let s1 := { s with mgmt := s.mgmt.map put }
  allDies.foldl (fun t d => settlePower (t.modDie d fun x => Die.raise c x) d) s1

/-- PWRCFG_WRITE (R419): a csrw of PWRCFG by a management core; a value that breaks FLOOR ≤ 420 ≤ CEIL changes nothing here, the ILL being
the csrw's. -/
def execPwrcfgWrite (_core : BitVec 1) (val : Word) (s : State) : Out :=
  .next (if (pwrFields val).legal then writePwrcfg s val else s)

/-- DROOP_TRIP (R412, R420) -/
def execDroopTrip (die : BitVec 3) (s : State) : Out :=
  .next (s.modDie die fun x => { x with droop := x.droop + 1, stretched := true })

/-- DROOP_CLEAR (R412) -/
def execDroopClear (die : BitVec 3) (s : State) : Out := .next (s.modDie die fun x => { x with stretched := false })

/-- CLOCK_STEP_DONE (R416) -/
def execClockStepDone (die : BitVec 3) (s : State) : Out :=
  .next (s.modDie die fun x =>
    match x.target with
    | some t => { x with step := t, target := none }
    | none => x)

/-- One comparison of a count with a reference (R414): what the correction of half a nanosecond, the most that a rate between 0.9995 and 1.0005 makes in
the microsecond between two comparisons, leaves of the half nanosecond under way, and the whole nanosecond that it completes. -/
def slewStep (count reference : Word) (half : Option Bool) : Option Bool × Option Bool :=
  if count = reference then (none, none)
  else
    let dir := decide (count < reference)
    if half = some dir then (none, some dir) else (some dir, none)

/-- A count after one comparison, and what it is held back by (R414): it gains a nanosecond, or one is held back of its advance; it is never stepped back. -/
def slewCount (count back : Word) (whole : Option Bool) : Word × Word :=
  match whole with
  | some true => if back = 0 then (count + 1, 0) else (count, back - 1)
  | some false => (count, back + 1)
  | none => (count, back)

/-- A die's count after a comparison with a reference (R414): what it is held back by does not count. -/
def Die.slew (d : Die) (reference : Word) : Die :=
  let (half, whole) := slewStep (d.count - d.back) reference d.half
  let n := slewCount d.count d.back whole
  { d with half := half, count := n.1, back := n.2 }

/-- The module's reference after a comparison with the system's (R414). -/
def slewReference (s : State) (v : Word) : State :=
  let (half, whole) := slewStep (s.reference - s.refBack) v s.refHalf
  let n := slewCount s.reference s.refBack whole
  { s with refHalf := half, reference := n.1, refBack := n.2 }

/-- Whether a strand is on a ring of the module. -/
def anyStrand (s : State) : Bool := s.ring.state != .empty || s.rings.toList.any fun r => r.state != .empty

/-- The module's reference as its dies compare with it: without what it is held back by (R414; DEDUCED, log 6). -/
def heldReference (s : State) : Word := s.reference - s.refBack

/-- The reference of the system reaches this module (R414): once, before its first strand starts, a reference that is behind is stepped forward, and one
that is ahead holds its count until the system's passes it; later ones slew it. -/
def takeReference (s : State) (v : Word) : State :=
  if s.joined || anyStrand s then slewReference s v
  else if s.reference ≤ v then { s with joined := true, reference := v, dies := s.dies.map fun d => { d with count := wmax d.count v } }
  else { s with joined := true, refBack := s.reference - v, dies := s.dies.map fun d => if v < d.count then { d with back := d.count - v } else d }

/-- The time request of a die to abutment die 0 of its module (R443). The header of R430 has no field for the die: RTAG carries its number and 1 (DESIGN
CHOICE, log 40). -/
def dieRequest (s : State) (die : BitVec 3) : Packet :=
  { controlPacket s 0 (s.die die).count s.module with rtag := die.setWidth 16 + 1 }

/-- TIME_SYNC_TICK (R414, R443): a die asks abutment die 0 for its reference; with die 0's tick, abutment die 0 asks the root module for the system's. -/
def execTimeSyncTick (die : BitVec 3) (s : State) : Out :=
  let s1 := if (s.die die).available then queuePacket s (dieRequest s die) else s
  .next (if die = 0 && systemRoot s != s.module then queuePacket s1 (controlPacket s 0 s.reference (systemRoot s)) else s1)

/-- THERMAL_CAP (R423): the die's clock is capped at 1.2 GHz. -/
def execThermalCap (die : BitVec 3) (s : State) : Out :=
  .next (s.modDie die fun x => { x with capped := true, step := 0, target := none })

/-- THERMAL_SHUTDOWN (R423): the module is powered down and the fault is reported. -/
def execThermalShutdown (s : State) : Out := .next { s with mode := .off, host := .fault .thermal :: s.host }

/-- The physical core that an active core of a cluster is: active cores are numbered in physical order over those that did not fail (R421). -/
def physCore (s : State) (d : BitVec 3) (c : BitVec 2) (core : Nat) : BitVec 5 :=
  (((List.range 17).map (BitVec.ofNat 5)).filter fun p => !(s.die d).failed.contains (c, p)).getD core 0

/-- Whether a physical core is in service: an active core of an available die (R421). -/
def inService (s : State) (d : BitVec 3) (c : BitVec 2) (p : BitVec 5) : Bool :=
  (s.die d).available && (List.range (activeCores s d c)).any fun i => physCore s d c i == p

/-- A core in service for which a cause of retirement has come (R422): the management core has it to mark. -/
def retire (s : State) (d : BitVec 3) (c : BitVec 2) (p : BitVec 5) : State :=
  if inService s d c p && !s.repair.contains (d, c, p) && !s.retireDue.contains (d, c, p) then { s with retireDue := s.retireDue ++ [(d, c, p)] } else s

/-- The nanoseconds of an hour. -/
def hourNanos : Nat := 3600000000000

/-- A corrected error in the SRAMs of a core (R290, R422): the 1,024th within an hour is a cause of retirement. -/
def logCoreError (s : State) (d : BitVec 3) (c : BitVec 2) (p : BitVec 5) : State :=
  let now := (s.die d).count
  let log := ((s.die d).coreLog.filter fun e => decide ((now - e.2.2).toNat < hourNanos)) ++ [(c, p, now)]
  let s1 := s.modDie d fun x => { x with coreLog := log }
  if 1024 ≤ (log.filter fun e => e.1 == c && e.2.1 == p).length then retire s1 d c p else s1

/-- A core's mark recorded in the repair store (R422). -/
def recordMark (s : State) (x : BitVec 3 × BitVec 2 × BitVec 5) : State :=
  if s.retireDue.contains x then
    { s with retireDue := s.retireDue.filter (· ≠ x), repair := if s.repair.contains x then s.repair else s.repair ++ [x] }
  else s

/-- CORE_RETIREMENT_MARK (R422): a mark that is due is recorded; the core serves until the next module reset. -/
def execCoreRetirementMark (die : BitVec 3) (cluster : BitVec 2) (phys : BitVec 5) (s : State) : Out := .next (recordMark s (die, cluster, phys))

end Sys2Proof.Machine
end

