-- ==== Sys2Proof/Machine/Debug.lean ====
section
/-! DEFINITION. Debug halt and stepping through DBGCTL (spec/20 R404 to R406). A die is asked to halt while the HALT bit for it stands in the
DBGCTL of either management core (DESIGN CHOICE, log 28). -/

namespace Sys2Proof.Machine

/-- Whether a die is asked to halt (R404). -/
def haltAsked (s : State) (d : BitVec 3) : Bool := (s.mgmtAt 0).dbgHalt.getLsbD d.toNat || (s.mgmtAt 1).dbgHalt.getLsbD d.toNat

/-- Whether a die is halted: every ring of it has reached its boundary (R404, R405). -/
def dieHalted (s : State) (d : BitVec 3) : Bool :=
  haltAsked s d && (allRings.filter fun n => dieOf n == d).all fun n => (s.ringAt n).halted

/-- HALTED of DBGCTL (R404). -/
def haltedBits (s : State) : BitVec 8 :=
  allDies.foldl (fun m d => if dieHalted s d then m ||| (1#8 <<< d.toNat) else m) 0

/-- The JIDs with a strand on a die (R405). -/
def jidsOn (s : State) (d : BitVec 3) : List (BitVec 16) :=
  ((allRings.filter fun n => dieOf n == d && (s.ringAt n).state != .empty).map fun n => (s.ringAt n).jid).eraseDups

/-- Announces a debug pause of a JID to every module (R405, R443). -/
def announcePause (s : State) (j : BitVec 16) : State :=
  if s.paused.contains (j, s.module) then s
  else floodControl { s with paused := s.paused ++ [(j, s.module)] } 2 (j.setWidth 64)

/-- The JIDs with a strand on a die that is asked to halt (R405). -/
def heldJids (s : State) : List (BitVec 16) := ((allDies.filter (haltAsked s)).flatMap (jidsOn s)).eraseDups

/-- The pauses of this module follow the strands of its halting dies: a JID is announced paused when one of these dies first holds it, and thawed
when none does any more (R405, R443). -/
def syncPauses (s : State) : State :=
  let held := heldJids s
  let gone := (s.paused.filter fun p => p.2 == s.module && !held.contains p.1).map (·.1)
  let s1 := held.foldl announcePause s
  gone.foldl (fun t j => floodControl { t with paused := t.paused.filter (· ≠ (j, t.module)) } 3 (j.setWidth 64)) s1

/-- A die's debug halt asked for or ended (R405): a ring without a running strand is at a boundary already. -/
def haltDie (s : State) (d : BitVec 3) : State :=
  let mine := allRings.filter fun n => dieOf n == d
  if haltAsked s d then
    mine.foldl (fun t n => t.modRingAt n fun r =>
      if r.halted then r else if r.state = .running then { r with haltReq := true } else { r with halted := true }) s
  else mine.foldl (fun t n => t.modRingAt n fun r => { r with haltReq := false, halted := false }) s

/-- A write of HALT by a management core (R404, R405). -/
def writeHalt (s : State) (a : BitVec 1) (mask : BitVec 8) : State :=
  let s1 := s.modMgmt a fun c => { c with dbgHalt := mask }
  syncPauses ((allDies.filter fun d => haltAsked s d != haltAsked s1 d).foldl haltDie s1)

/-- A write of STEPRING and STEP by a management core (R404, R406); where both cores step one ring, the one that clears STEP ends it (DESIGN CHOICE, log 100). -/
def writeStep (s : State) (a : BitVec 1) (ring : BitVec 6) (on : Bool) : State :=
  let old := s.mgmtAt a
  let s1 := if old.step then s.modRingAt old.stepRing fun r => { r with stepping := false } else s
  let s2 := s1.modMgmt a fun c => { c with stepRing := ring, step := on }
  if on then s2.modRingAt ring fun r => { r with stepping := true } else s2

/-- DBGCTL_HALT (R405) -/
def execDbgctlHalt (core : BitVec 1) (mask : BitVec 8) (s : State) : Out := .next (writeHalt s core mask)

/-- DBGCTL_STEP (R406) -/
def execDbgctlStep (core : BitVec 1) (ring : BitVec 6) (on : Bool) (s : State) : Out := .next (writeStep s core ring on)

end Sys2Proof.Machine
end

