-- ==== Sys2Proof/Machine/Csr.lean ====
section
/-! DEFINITION. Control and status registers: major 0x1C (spec/05 R138 to R141), the user CSRs (spec/02 R31 to R35, R494; spec/04 R108; spec/08
R189 to R191; spec/10 R212, R213, R219, R220; spec/11 R244, R245, R257; spec/22 R413), the supervisor CSRs (spec/19 R372 to R377) and the
machine CSRs (spec/19 R378; spec/20 R404; spec/22 R419). -/

namespace Sys2Proof.Machine

/-- The word of a CSR instruction (R94). -/
def wordCsr (op : BitVec 4) (d a : BitVec 5) (csr : BitVec 12) : Word32 := 0x1C#6 ++ d ++ a ++ op ++ csr

/-- A CSR by name. -/
inductive Csr where
  | vl | vtype | vstart | vlmax | vcfg | vcp | fcsr | vmode | pfxst | tm | tn | tk | livein | chunkseq | ringsz | ringid | wid | widshape
  | mbxstat | msghdr | time | cycle
  | epc | ecause | eval | estat | evec | vlcap | ptbase | jidcur | gangcfg | reshape | quantum
  | mepc | mcause | mval | mstat | mvec | dbgctl | pwrcfg
deriving DecidableEq, Repr

/-- The CSR of a number on a span-die core; none where no chapter assigns one (R31, R372, R378). -/
def csrOf (c : BitVec 12) : Option Csr :=
  match c with
  | 0x000#12 => some .vl
  | 0x001#12 => some .vtype
  | 0x002#12 => some .vstart
  | 0x003#12 => some .vlmax
  | 0x004#12 => some .vcfg
  | 0x005#12 => some .vcp
  | 0x006#12 => some .fcsr
  | 0x007#12 => some .vmode
  | 0x008#12 => some .pfxst
  | 0x010#12 => some .tm
  | 0x011#12 => some .tn
  | 0x012#12 => some .tk
  | 0x020#12 => some .livein
  | 0x021#12 => some .chunkseq
  | 0x022#12 => some .ringsz
  | 0x023#12 => some .ringid
  | 0x024#12 => some .wid
  | 0x025#12 => some .widshape
  | 0x028#12 => some .mbxstat
  | 0x029#12 => some .msghdr
  | 0x030#12 => some .time
  | 0x031#12 => some .cycle
  | 0x100#12 => some .epc
  | 0x101#12 => some .ecause
  | 0x102#12 => some .eval
  | 0x103#12 => some .estat
  | 0x104#12 => some .evec
  | 0x108#12 => some .vlcap
  | 0x109#12 => some .ptbase
  | 0x10A#12 => some .jidcur
  | 0x10B#12 => some .gangcfg
  | 0x10C#12 => some .reshape
  | 0x10D#12 => some .quantum
  | 0x200#12 => some .mepc
  | 0x201#12 => some .mcause
  | 0x202#12 => some .mval
  | 0x203#12 => some .mstat
  | 0x204#12 => some .mvec
  | 0x208#12 => some .dbgctl
  | 0x209#12 => some .pwrcfg
  | _ => none

/-- The CSRs that a management core implements (R379). -/
def csrOnMgmt : Csr → Bool
  | .fcsr | .time | .cycle => true
  | .mepc | .mcause | .mval | .mstat | .mvec | .dbgctl | .pwrcfg => true
  | _ => false

/-- Whether every field of a CSR is RO or RZ, so that a write traps ILL (R139). -/
def csrReadOnly : Csr → Bool
  | .vl | .vtype | .vlmax | .vcfg | .vcp | .tm | .tn | .tk | .chunkseq | .ringsz | .ringid | .wid | .widshape | .mbxstat | .msghdr
  | .time | .cycle | .vlcap | .reshape => true
  | _ => false

/-- Whether a level may name a CSR number (R51). -/
def csrLevel (l : Level) (c : BitVec 12) : Bool :=
  match l with
  | .u => decide (c < 0x100#12)
  | .s => decide (c < 0x200#12)
  | .m => true

/-- MBXSTAT of an actor (R245). -/
def Actor.mbxstat (a : Actor) : Word :=
  let nonempty : BitVec 32 := (List.range 32).foldl (fun (m : BitVec 32) i =>
    match a.mbx.toList[i]? with
    | some b => if b.queue.isEmpty && b.spill.isEmpty then m else m ||| (1#32 <<< i)
    | none => m) 0
  nonempty ++ a.undeliv ++ a.typeErr

/-- CHUNKSEQ of the executing chunk or strand (R219). -/
def chunkseqOf (s : State) : Word :=
  (0#44 : BitVec 44) ++ BitVec.ofBool (s.ring.region.isSome && s.hart.held) ++ s.hart.slot ++ s.hart.seq

/-- ESTAT (R374) -/
def Ring.estat (r : Ring) : Word :=
  (0#53 : BitVec 53) ++ BitVec.ofBool r.ptmo ++ BitVec.ofBool r.pact ++ BitVec.ofBool r.ppre ++ (0#5 : BitVec 5) ++ BitVec.ofBool r.pie
    ++ BitVec.ofBool r.ie ++ BitVec.ofBool r.ppl

/-- VTYPE (R32) -/
def Scal.vtype (c : Scal) : Word := (0#56 : BitVec 56) ++ c.slices ++ c.sew

/-- PFXST (R108) -/
def Scal.pfxst (c : Scal) : Word := (0#31 : BitVec 31) ++ BitVec.ofBool c.pfxV ++ c.pfxWord

/-- VCP: the oldest instruction of the queue, else the next one fetched (R40). -/
def vcpOf (h : Hart) : Word :=
  match h.queue with
  | e :: _ => e.pc
  | [] => h.sc.pc + 4

/-- CYCLE of the executing core (R413). -/
def cycleNow (s : State) : Word :=
  match s.onMgmt with
  | some a => (s.mgmtAt a).cycle
  | none => (s.die (dieOf s.cur)).cycle

/-- The value of a CSR. Machine CSRs are those of core a. -/
def csrGet (s : State) (a : BitVec 1) (c : Csr) : Word :=
  let h := s.hart
  let m := s.mgmtAt a
  match c with
  | .vl => h.sc.vl.setWidth 64
  | .vtype => h.sc.vtype
  | .vstart => h.vstart.setWidth 64
  | .vlmax => h.sc.vlmax.setWidth 64
  | .vcfg => h.sc.nreg.setWidth 64
  | .vcp => vcpOf h
  | .fcsr => h.sc.fcsr
  | .vmode => (BitVec.ofBool h.sc.ve).setWidth 64
  | .pfxst => h.sc.pfxst
  | .tm => h.tm.setWidth 64
  | .tn => h.tn.setWidth 64
  | .tk => (0#44 : BitVec 44) ++ h.tkType ++ (0#6 : BitVec 6) ++ h.tk
  | .livein => h.sc.livein.setWidth 64
  | .chunkseq => chunkseqOf s
  | .ringsz =>
    let r := h.shapeSeen s.ring
    (0#59 : BitVec 59) ++ BitVec.ofBool r.gang ++ BitVec.ofNat 4 r.size
  | .ringid => (0#44 : BitVec 44) ++ s.module ++ s.cur
  | .wid => h.wid
  | .widshape => h.widShape.setWidth 64
  | .mbxstat => match residentActor s with | some x => x.mbxstat | none => 0
  | .msghdr => h.msgHdr
  | .time => strandTime s
  | .cycle => cycleNow s
  | .epc => s.ring.epc
  | .ecause => s.ring.ecause.setWidth 64
  | .eval => s.ring.eval
  | .estat => s.ring.estat
  | .evec => s.ring.evec
  | .vlcap => (h.shapeSeen s.ring).vlcap.setWidth 64
  | .ptbase => (s.ring.ptbase.setWidth 64) <<< 17
  | .jidcur => s.ring.jid.setWidth 64
  | .gangcfg => s.ring.gangcfg.setWidth 64
  | .reshape => (0#32 : BitVec 32) ++ s.ring.reshapeCap ++ (0#14 : BitVec 14) ++ s.ring.reshapeShape ++ BitVec.ofBool s.ring.reshapePend
  | .quantum => s.ring.quantum.setWidth 64
  | .mepc => m.mepc
  | .mcause => m.mcause.setWidth 64
  | .mval => m.mval
  | .mstat => (0#61 : BitVec 61) ++ BitVec.ofBool m.mnest ++ BitVec.ofBool m.mpie ++ BitVec.ofBool m.mie
  | .mvec => m.mvec
  | .dbgctl => (0#41 : BitVec 41) ++ BitVec.ofBool m.step ++ m.stepRing ++ haltedBits s ++ m.dbgHalt
  | .pwrcfg => (pwrCfg s).word

/-- A change of shape latched for a ring (R377, R402). -/
def Ring.latch (r : Ring) (shape : BitVec 1) (cap : BitVec 16) : Ring :=
  { r with reshapePend := true, reshapeShape := shape, reshapeCap := cap }

/-- A write of GANGCFG latches its shape with CAP = the current VLCAP (R377, R402). -/
def Ring.writeGangcfg (r : Ring) (shape : BitVec 1) : Ring := { r with gangcfg := shape }.latch shape r.vlcap

/-- A write of DBGCTL (R404): HALTED is RO. -/
def writeDbgctl (s : State) (a : BitVec 1) (v : Word) : State :=
  writeStep (writeHalt s a (v.extractLsb' 0 8)) a (v.extractLsb' 16 6) (v.getLsbD 22)

/-- A CSR written, field by field by its access codes (R7, R138); a CSR that R139 closes to writes keeps its value. -/
def csrPut (s : State) (a : BitVec 1) (c : Csr) (v : Word) : State :=
  let h := s.hart
  let r := s.ring
  let m := s.mgmtAt a
  let sc (x : Scal) : State := { s with hart := { h with sc := x } }
  let ring (x : Ring) : State := { s with ring := x }
  let mg (x : Mgmt) : State := s.modMgmt a fun _ => x
  match c with
  | .vstart => { s with hart := { h with vstart := v.setWidth 16 } }
  | .fcsr => sc (h.sc.setFcsr v)
  | .vmode => sc { h.sc with ve := v.getLsbD 0 }
  | .pfxst => sc { h.sc with pfxWord := v.setWidth 32, pfxV := v.getLsbD 32 }
  | .livein => sc { h.sc with livein := v.setWidth 32 }
  | .epc => ring { r with epc := align4 v }
  | .ecause => ring { r with ecause := v.setWidth 11 }
  | .eval => ring { r with eval := v }
  | .estat => ring { r with ppl := v.getLsbD 0, ie := v.getLsbD 1, pie := v.getLsbD 2 }
  | .evec => ring { r with evec := align4 v }
  | .ptbase => ring { r with ptbase := v.extractLsb' 17 39 }
  | .jidcur => ring { r with jid := v.setWidth 16 }
  | .gangcfg => ring (r.writeGangcfg (v.setWidth 1))
  | .quantum => ring { r with quantum := v.setWidth 48 }
  | .mepc => mg { m with mepc := align4 v }
  | .mcause => mg { m with mcause := v.setWidth 18 }
  | .mval => mg { m with mval := v }
  | .mstat => mg { m with mie := v.getLsbD 0, mpie := v.getLsbD 1, mnest := v.getLsbD 2 }
  | .mvec => mg { m with mvec := align4 v }
  | .dbgctl => writeDbgctl s a v
  | .pwrcfg => writePwrcfg s v
  | _ => s

/-- What a write to a CSR may trap on beyond R139: PWRCFG's bounds (R419) and a shape that the ring cannot take (R210). -/
def csrRejects (s : State) (c : Csr) (v : Word) : Bool :=
  match c with
  | .pwrcfg => !(pwrFields v).legal
  | .gangcfg => v.getLsbD 0 && s.ring.retired
  | _ => false

/-- Whether a read of a CSR waits for the vector queue (R141). -/
def csrReadWaits : Csr → Bool
  | .vstart | .fcsr | .tm | .tn | .tk => true
  | _ => false

/-- A CSR instruction (R138 to R141): write gives the new value from the old, if the instruction is a write. -/
def opCsr (w : Word32) (d : BitVec 5) (csr : BitVec 12) (write : Option (Word → M Word)) : M Unit := do
  let s ← get
  match csrOf csr with
  | none => ill w
  | some c =>
    if s.onMgmt.isSome && !csrOnMgmt c then ill w
    else if !csrLevel s.hart.level csr then trap causePRIV (w.setWidth 64)
    else if write.isSome && csrReadOnly c then ill w
    else
      if csrReadWaits c || (write.isSome && decide (0x100#12 ≤ csr)) then emptyQueue
      if 0x100#12 ≤ csr then keystoneOnly
      let a := s.onMgmt.getD 0
      let old := csrGet (← get) a c
      if c = .time then modify noteTime
      match write with
      | none => pure ()
      | some f =>
        let v ← f old
        if csrRejects s c v then ill w
        modify fun s => csrPut s a c v
      wrX d old
      nextPc

/-- csrr (R138) -/
def execCsrr (d : BitVec 5) (csr : BitVec 12) (s : State) : Out :=
  runScalar (opCsr (wordCsr 0 d 0 csr) d csr none) s

/-- csrw (R138) -/
def execCsrw (d a : BitVec 5) (csr : BitVec 12) (s : State) : Out :=
  runScalar (opCsr (wordCsr 1 d a csr) d csr (some fun _ => rdX a)) s

/-- csrs (R138): a write when field a is nonzero (R139). -/
def execCsrs (d a : BitVec 5) (csr : BitVec 12) (s : State) : Out :=
  runScalar (opCsr (wordCsr 2 d a csr) d csr (if a = 0 then none else some fun old => do return old ||| (← rdX a))) s

/-- csrc (R138): a write when field a is nonzero (R139). -/
def execCsrc (d a : BitVec 5) (csr : BitVec 12) (s : State) : Out :=
  runScalar (opCsr (wordCsr 3 d a csr) d csr (if a = 0 then none else some fun old => do return old &&& ~~~(← rdX a))) s

/-- GANGCFG_SHAPE_WRITE (R377): the latch that a csrw of GANGCFG makes. -/
def execGangcfgShapeWrite (shape : BitVec 1) (s : State) : Out :=
  .next (if shape = 1 && s.ring.retired then s else { s with ring := s.ring.writeGangcfg shape })

end Sys2Proof.Machine
end

