-- ==== Sys2Proof/Machine/VecCheck.lean ====
section
/-! DEFINITION. The checks that the scalar thread makes on a word of the vector queue before it pushes it: register numbers (spec/02 R25),
element types and register groups (spec/06 R148, R150, R154; spec/07 R161 to R182; spec/08 R188, R202; spec/17 R339), and convoys (spec/02
R43 to R45; spec/04 R83). -/

namespace Sys2Proof.Machine

/-- IEEE formats: fp16, bf16, fp32, fp64 (R148). -/
def sewIsFloat (sew : BitVec 4) : Bool := decide (8 ≤ sew.toNat ∧ sew.toNat ≤ 11)

/-- Any SEW but mxf4 (R165). -/
def sewNotF4 (sew : BitVec 4) : Bool := sew != 14#4

/-- The memory width of a load: whether R174's table has the SEW and mw pair. -/
def memWidthOk (sew : BitVec 4) (mw : BitVec 2) : Bool :=
  match mw with
  | 0#2 => true
  | 1#2 => decide (2 ≤ sew.toNat ∧ sew.toNat ≤ 11)
  | 2#2 => decide (4 ≤ sew.toNat ∧ sew.toNat ≤ 7) || sew == 10#4 || sew == 11#4
  | _ => false

/-- Whether vcvt admits a source and destination type (R178). -/
def cvtAdmits (src dst : BitVec 4) : Bool := src != dst && !sewIsBlock dst && !(sewIsBlock src && sewIsInt dst)

/-- The number of registers of vcvt's source group (R179). -/
def cvtGroup (src dst : BitVec 4) : Nat := if sewBits dst < sewBits src then sewBits src / sewBits dst else 1

/-- The register rules of vcvt (R179). -/
def cvtRegs (n vd va : Nat) (src dst : BitVec 4) : Bool :=
  let g := cvtGroup src dst
  decide (vd < n) && va % g == 0 && decide (va + g ≤ n)
    && (if sewIsBlock src then decide (va + 1 < n) && vd != va + 1 else true)
    && (if sewBits src < sewBits dst then vd != va else true)
    && (if 1 < g then decide (vd < va ∨ va + g ≤ vd) else true)

/-- The registers of a vector memory access (R25, R100, R173). -/
def memRegs (n vd vb : Nat) (kind : BitVec 2) (imm : Nat) (load : Bool) : Bool :=
  match kind with
  | 2#2 => decide (vd < n ∧ vb < n) && !(load && vd == vb)
  | 3#2 => decide (vd + imm + 1 ≤ n)
  | _ => decide (vd < n)

/-- Whether a decoded word of majors 0x21 to 0x2D, 0x30, 0x38 or 0x39 passes the checks made at the push, with n vector registers and the
element type in force (R150). -/
def vecLegal (n : Nat) (sew : BitVec 4) (w : Word32) : Bool :=
  let vd := (fld w 20 6 : BitVec 6).toNat
  let va := (fld w 14 6 : BitVec 6).toNat
  let vb := (fld w 8 6 : BitVec 6).toNat
  let fn := (fld w 1 4 : BitVec 4).toNat
  let fn5 := w.getLsbD 8
  let one := decide (vd < n)
  let two := decide (vd < n ∧ va < n)
  let three := decide (vd < n ∧ va < n ∧ vb < n)
  let int := sewIsInt sew
  let int6 := decide (sew.toNat < 6)
  let fp := sewIsFloat sew
  let logic := decide (sew.toNat < 14)
  let noF4 := sewNotF4 sew
  let wide (v : Bool) : Bool := vd % 2 == 0 && decide (vd + 1 < n ∧ va < n) && va != vd && va != vd + 1
    && (if v then decide (vb < n) && vb != vd && vb != vd + 1 else true)
  match (fld w 26 6 : BitVec 6) with
  | 0x21#6 => three && (if 8 ≤ fn ∧ fn ≤ 10 then logic else int)
  | 0x22#6 =>
    if fn5 then (if fn = 3 ∨ fn = 4 then int6 && wide false else two && int)
    else two && (if 8 ≤ fn ∧ fn ≤ 10 then logic else int)
  | 0x23#6 => two && (if 2 ≤ fn ∧ fn ≤ 4 then logic else int)
  | 0x24#6 =>
    if fn = 2 ∨ fn = 3 then int6 && wide true
    else if fn = 4 ∨ fn = 5 then three && (sew == 4#4 || sew == 5#4)
    else three && int
  | 0x25#6 => fp && (if fn = 4 ∨ fn = 5 ∨ fn = 11 then two else three)
  | 0x26#6 => fp && two
  | 0x27#6 =>
    decide (va < n) && (if fn < 8 then decide (vb < n) else true) && (if fn % 8 < 4 then int else fp)
  | 0x28#6 => true
  | 0x29#6 =>
    (match fn with
     | 0 => two
     | 1 => one && noF4
     | 2 => decide (va < n) && noF4 && (fld w 5 3 : BitVec 3) == 0#3
     | 3 | 4 | 5 | 6 | 8 => two && noF4 && vd != va
     | 7 => three && noF4 && vd != va
     | 9 | 10 => one && int
     | 11 => two && decide (2 ≤ sew.toNat ∧ sew.toNat ≤ 11) && vd != va
     | 12 => decide (va < n) && noF4
     | _ => one && noF4)
  | 0x2A#6 => decide (va < n) && (if fn < 5 then int else fp)
  | 0x2B#6 =>
    memRegs n vd vb (fld w 3 2) vb true && memWidthOk sew (fld w 1 2)
      && (if sew = 14#4 then fn == 0 else true)
  | 0x2C#6 => memRegs n vd vb (fld w 3 2) vb false && (if sew = 14#4 then fn == 0 else true)
  | 0x2D#6 =>
    (match fn with
     | 0 => cvtAdmits (fld w 8 4) sew && cvtRegs n vd va (fld w 8 4) sew
     | 1 => two && sew == 12#4 && vd != va
     | 2 | 3 => three && fp && vd != va && vd != vb && va != vb
     | _ => three && decide (8 ≤ sew.toNat ∧ sew.toNat ≤ 13) && vd != va && vd != vb)
  | 0x30#6 =>
    (match (fld w 8 4 : BitVec 4) with
     | 0#4 => sew == 0#4 || sew == 8#4 || sew == 9#4 || decide (11 ≤ sew.toNat ∧ sew.toNat ≤ 14)
     | 7#4 => decide ((fld w 18 6 : BitVec 6).toNat < n) && (sewBits sew == 32 || sewBits sew == 64)
     | _ => true)
  | 0x38#6 =>
    (match (fld w 6 5 : BitVec 5) with
     | 0#5 | 1#5 | 2#5 => decide ((fld w 0 6 : BitVec 6).toNat < n)
     | 6#5 => decide ((fld w 0 6 : BitVec 6).toNat < n) && sew == 5#4
     | _ => true)
  | 0x39#6 => two && (sew == 6#4 || sew == 7#4)
  | _ => true

/-! ### Convoys -/

/-- The classes of R44. -/
inductive ConvoyClass where
  | memory | arithmetic | permute
deriving DecidableEq, Repr

/-- Whether a word's major may hold a convoy member: 0x21 to 0x2D (R44). -/
def isMember (w : Word32) : Bool :=
  let m := (fld w 26 6 : BitVec 6).toNat
  decide (0x21 ≤ m ∧ m ≤ 0x2D)

/-- The class of a member (R44, R183). -/
def convoyClass (w : Word32) : ConvoyClass :=
  let m := (fld w 26 6 : BitVec 6).toNat
  let fn := (fld w 1 4 : BitVec 4).toNat
  if m ≤ 0x27 then .arithmetic
  else if m = 0x28 then (if fn < 4 then .arithmetic else .permute)
  else if m ≤ 0x2A then .permute
  else if m ≤ 0x2C then .memory
  else if fn = 2 ∨ fn = 3 then .permute else .arithmetic

/-- Whether a list of members keeps within the limits of R44. -/
def withinLimits (l : List Word32) : Bool :=
  decide (l.length ≤ 4) && decide ((l.filter fun w => convoyClass w = .memory).length ≤ 1)
    && decide ((l.filter fun w => convoyClass w = .arithmetic).length ≤ 2)
    && decide ((l.filter fun w => convoyClass w = .permute).length ≤ 1)

/-- A CSR number that no chapter assigns, which fails check 1 of R83 (R140). -/
def csrUnassigned (op : Opcode) (w : Word32) : Bool :=
  match op with
  | .csrr | .csrw | .csrs | .csrc => (csrOf (fld w 0 12)).isNone
  | _ => false

/-- Whether a tile, stream or engine word names vector registers below n only (R25, R82). -/
def namesBelow (n : Nat) (w : Word32) : Bool :=
  let ok (i : Nat) : Bool := decide ((fld w i 6 : BitVec 6).toNat < n)
  match (fld w 26 6 : BitVec 6) with
  | 0x30#6 => (fld w 8 4 : BitVec 4) != 7 || ok 18
  | 0x38#6 => (let g : BitVec 5 := fld w 6 5; !(g == 0 || g == 1 || g == 2 || g == 6) || ok 0)
  | 0x39#6 => ok 20 && ok 14
  | _ => true

/-- Whether a word fails check 1 of R83: it does not decode, it names no CSR or no register, or it fails a check of the push. -/
def failsFirst (c : Scal) (w : Word32) : Bool :=
  match decodeOp w with
  | .error _ => true
  | .ok op => csrUnassigned op w || !namesBelow (vregCount c.nreg) w || isMember w && !vecLegal (vregCount c.nreg) c.sew w

/-- Assembles the rest of a convoy whose members so far all have C = 1, from the word at an address on (R43, R44, R83): the members that
follow. It traps at the first member where a word fails. -/
def assemble (c : Scal) (sofar : List Word32) (va : Word) : Nat → M (List Word32)
  | 0 => return []
  | n + 1 => do
    let w ← fetchWord va
    if failsFirst c w then ill w
    else if !isMember w then trap causeCONVOY (w.setWidth 64)
    else if !withinLimits (sofar ++ [w]) then trap causeCONVOY (w.setWidth 64)
    else if w.getLsbD 0 then return w :: (← assemble c (sofar ++ [w]) (va + 4) n)
    else return [w]

/-- A pfx before the first member of a longer convoy is the breaking word, and no word from the first member up to it fails check 1 (R44, R45,
R83): CONVOY. -/
def noPfxConvoy (w : Word32) : M Unit := do
  let h := (← get).hart
  match h.pfx with
  | some p => if h.convoy.isEmpty && isMember w && w.getLsbD 0 then trap causeCONVOY (p.word.setWidth 64) else pure ()
  | none => pure ()

/-- The convoy checks of a vector word about to be pushed (R43 to R45): the words still to come of the convoy that it opens or continues. -/
def convoyRest (w : Word32) : M (List Word32) := do
  let s ← get
  match s.hart.convoy with
  | _ :: rest => return rest
  | [] =>
    if isMember w && w.getLsbD 0 then assemble s.hart.sc [w] (s.hart.sc.pc + 4) 4 else return []

end Sys2Proof.Machine
end

