-- ==== Sys2Proof/Machine/VStream.lean ====
section
/-! DEFINITION. Streams as vector instructions meet them (spec/17): the binding record (R325), the element of a read stream (R328 to R332),
the strip that a write stream emits (R333), and completion records (R341, R342). -/

namespace Sys2Proof.Machine

/-! ### Records -/

/-- A field of a binding record. -/
def recField (r : BitVec 512) (lo len : Nat) : BitVec len := r.extractLsb' lo len

/-- BASE (R325) -/
def StreamSlot.base (sl : StreamSlot) : Word := recField sl.record 0 64
/-- COUNT -/
def StreamSlot.count (sl : StreamSlot) : BitVec 48 := recField sl.record 64 48
/-- STRIDE -/
def StreamSlot.stride (sl : StreamSlot) : Word := recField sl.record 128 64
/-- SBASE -/
def StreamSlot.sbase (sl : StreamSlot) : Word := recField sl.record 192 64
/-- SSTRIDE -/
def StreamSlot.sstride (sl : StreamSlot) : Word := recField sl.record 256 64
/-- FMT -/
def StreamSlot.fmt (sl : StreamSlot) : BitVec 4 := recField sl.record 320 4
/-- DIR: a write stream -/
def StreamSlot.writes (sl : StreamSlot) : Bool := sl.record.getLsbD 324
/-- DEPTH, 1 to 8 -/
def StreamSlot.depth (sl : StreamSlot) : Nat := (recField sl.record 325 3).toNat + 1
/-- FILL -/
def StreamSlot.fill (sl : StreamSlot) : Bool := sl.record.getLsbD 331

/-- The address of stream element i (R325); mxf4 elements share a byte. -/
def StreamSlot.elemVa (sl : StreamSlot) (i : Nat) : Word :=
  let m := sewBits sl.fmt
  if sl.stride = 0 then sl.base + BitVec.ofNat 64 (if m = 4 then i / 2 else i * (m / 8)) else sl.base + BitVec.ofNat 64 i * sl.stride

/-- The address of the scale of block j (R325). -/
def StreamSlot.scaleVa (sl : StreamSlot) (j : Nat) : Word :=
  if sl.sstride = 0 then sl.sbase + BitVec.ofNat 64 j else sl.sbase + BitVec.ofNat 64 j * sl.sstride

/-- A slot of the executing strand. -/
def Hart.slotAt (h : Hart) (j : BitVec 3) : StreamSlot := h.slots[j.toNat]'j.isLt

/-- The strand with one slot changed. -/
def Hart.modSlot (h : Hart) (j : BitVec 3) (f : StreamSlot → StreamSlot) : Hart :=
  { h with slots := h.slots.set j.toNat (f (h.slotAt j)) j.isLt }

/-- The slot numbers. -/
def allSlots : List (BitVec 3) := (List.range 8).map (BitVec.ofNat 3)

/-- The slot that a vector register is bound to (R327); a slot that waits for its last drain record binds nothing more (R337). -/
def Hart.bindingOf (h : Hart) (v : BitVec 6) : Option (BitVec 3) :=
  allSlots.find? fun j => (h.slotAt j).bound && (h.slotAt j).reg == v && !(h.slotAt j).drains.any (·.frees)

/-- Whether a register is bound for reading, and for writing. -/
def Hart.readBound (h : Hart) (v : BitVec 6) : Bool :=
  match h.bindingOf v with
  | some j => !(h.slotAt j).writes
  | none => false
/-- bound for writing -/
def Hart.writeBound (h : Hart) (v : BitVec 6) : Bool :=
  match h.bindingOf v with
  | some j => (h.slotAt j).writes
  | none => false

/-! ### Completion records (R341, R342) -/

/-- The record-posting commands of the executing strand that are outstanding (R341). -/
def Hart.outstanding (h : Hart) : Nat :=
  h.copies.length + h.piers.length + (h.slots.toList.map fun sl => sl.drains.length).sum

/-- Whether a record-posting command may issue (R341). -/
def Hart.hasRoom (h : Hart) : Bool := decide (h.outstanding + h.cq.length < 64)

/-- The bytes of a completion record (R342). -/
def cqRecord (kind status : BitVec 8) (cmdNo : BitVec 16) (done : BitVec 32) (fva : Word) : BitVec 128 :=
  fva ++ done ++ cmdNo ++ status ++ kind

/-- Posts a record at the tail of the completion queue. -/
def Hart.post (h : Hart) (r : BitVec 128) : Hart := { h with cq := h.cq ++ [r] }

/-- DONE saturates at 2^32 − 1 (R342). -/
def saturate32 (n : Nat) : BitVec 32 := if n < 2 ^ 32 then BitVec.ofNat 32 n else BitVec.allOnes 32

/-! ### Reading stream elements -/

/-- Runs a computation that may trap, and keeps the trap as a value (R332). -/
def attempt {α : Type} (m : M α) : M (Except (BitVec 8 × Word) α) := fun s =>
  match m s with
  | .ok a s' => .ok (.ok a) s'
  | .error (.trap c v) s' => .ok (.error (c, v)) s'
  | .error e s' => .error e s'

/-- Runs a computation whose trap reports another address: a failed scale counts as a failure of the element (R332). -/
def reporting {α : Type} (va : Word) (m : M α) : M α := fun s =>
  match m s with
  | .error (.trap c _) s' => .error (.trap c va) s'
  | r => r

/-- Runs a computation for its value only: the state stays as it was. -/
def peekOnly {α : Type} (m : M α) : M α := fun s =>
  match m s with
  | .ok a _ => .ok a s
  | .error e _ => .error e s

/-- The byte that a read stream takes: as R225 gives it where the chunk or an older one has written it, else as it was fetched ahead, else
from memory (R328, R335). -/
def State.peekStrip (s : State) (f : Fetched) (pa : Nat) : Byte :=
  match firstRecord (s.hart.written :: olderRecords s) pa with
  | some b => b
  | none => match recGet f.cells pa with
    | some b => b
    | none => memGet s.mem pa

/-- Whether any of n bytes that a read stream takes is in error: as it was fetched ahead, or in memory (R291). -/
def stripBad (s : State) (f : Fetched) (pa n : Nat) : Bool :=
  (span pa (pa + n)).any fun a => fromMemory s a && (if (recGet f.cells a).isSome then f.bad.contains a else s.bad.contains a)

/-- Engine bytes of this module or, as a strip packet, of another (R332, R431). -/
def readStrip (f : Fetched) (va : Word) (n : Nat) : M Nat := do
  let (pa, _) ← translate va n .r
  lineRoom pa n
  let s ← get
  if paModule pa ≠ s.module then
    let payload := bytesOf pa 8 ++ [0, 0, BitVec.ofNat 8 n, BitVec.ofNat 8 (n / 256)] ++ List.replicate 4 0
    let d ← remoteRead pa n (corePacket s 8 3 false (paModule pa) payload) va
    return ofBytes (d.take n)
  else if paControl pa then readPhys va pa n
  else if stripBad s f pa n then trap causeMCHK va
  else if !readPermits s pa n then wait (.park .stalled)
  else
    set (noteRead s pa n)
    return readLE (s.peekStrip f) pa n

/-- The strip fetched ahead for a stream element (R328). -/
def StreamSlot.snapshot (sl : StreamSlot) (i : Nat) : Fetched :=
  (sl.fetched.find? fun f => decide (f.first ≤ i ∧ i < f.first + f.count)).getD { first := i, count := 0, cells := [], bad := [] }

/-- A stream element in its memory format, and, where scales says so, the scale of its block (R325, R330). Elements past COUNT are zero,
with nothing fetched (R329). -/
def streamElem (sl : StreamSlot) (i : Nat) (scales : Bool) : M (Nat × Nat) := do
  if sl.count.toNat ≤ i then return (0, 0x7F)
  else
    let m := sewBits sl.fmt
    let snap := sl.snapshot i
    let x ← readStrip snap (sl.elemVa i) (if m = 4 then 1 else m / 8)
    let x := if m = 4 then (x >>> (4 * (i % 2))) % 16 else x
    if scales then
      let e ← reporting (sl.elemVa i) (readStrip snap (sl.scaleVa (i / 32)) 1)
      return (x, e)
    else return (x, 0x7F)

/-! ### Conversions between element types (R178, R330) -/

/-- Element i of a stream or of vcvt's source converted: the pattern in the destination type, its flags, and for a block source whether its
scale is finite (R59, R62, R67, R178). -/
def convElem (src dst : BitVec 4) (rm : RMode) (x scale : Nat) : Nat × Flags × Bool :=
  if sewIsBlock src then
    if scale = 0xFF then (0, 0, false)
    else
      match sewFmt dst with
      | some f =>
        let r := roundVal f rm (scaledElem (src == 15#4) x scale)
        (r.1, r.2, true)
      | none => (0, 0, true)
  else
    match sewFmt src, sewFmt dst with
    | some f, some g => let r := convFF f g rm x; (r.1, r.2, true)
    | some f, none => let r := convFI f rm (sewSigned dst) (sewBits dst) x; (wrapInt (sewBits dst) r.1, r.2, true)
    | none, some g => let r := convIF g rm (elemInt (sewSigned src) (sewBits src) x); (r.1, r.2, true)
    | none, none => (wrapInt (sewBits dst) (saturate (sewSigned dst) (sewBits dst) (elemInt (sewSigned src) (sewBits src) x)).1, 0, true)

/-! ### Strips -/

/-- A strip that a read-bound source supplies (R329 to R332): its slot, its elements in the element type of the instruction, and for each
element its flags, whether its scale is finite, and the failure of its fetch. -/
structure Strip where
  reg : BitVec 6
  slot : BitVec 3
  block : Bool
  elems : List (Nat × Flags × Bool × Option (BitVec 8 × Word))
deriving DecidableEq, Repr

/-- One element of a strip: an active one leaves its SR bits and may fail; another is read for its value alone (R332, R335). An element at or above COUNT
of a block stream, for which no scale is fetched, counts as one of a finite scale, so that its bit of k7 becomes 1 (R331 states no scale for it;
DESIGN CHOICE, log 87). -/
def stripElem (sl : StreamSlot) (sew : BitVec 4) (rm : RMode) (i : Nat) (active : Bool) :
    M (Nat × Flags × Bool × Option (BitVec 8 × Word)) := do
  let copy := sl.fmt == sew
  let get := streamElem sl (sl.pos.toNat + i) (sewIsBlock sl.fmt && !copy)
  let r ← if active then attempt get else peekOnly (attempt get)
  match r with
  | .error e => return (0, 0, true, if active then some e else none)
  | .ok (x, scale) =>
    if copy then return (x, 0, true, none)
    else if sl.count.toNat ≤ sl.pos.toNat + i then return (0, 0, true, none)
    else
      let (y, f, ok) := convElem sl.fmt sew rm x scale
      return (y, f, ok, none)

/-- Elements i, …, i + n − 1 of a strip. -/
def stripElems (sl : StreamSlot) (sew : BitVec 4) (rm : RMode) (active : Nat → Bool) (i : Nat) :
    Nat → M (List (Nat × Flags × Bool × Option (BitVec 8 × Word)))
  | 0 => return []
  | n + 1 => do
    let e ← stripElem sl sew rm i (active i)
    let t ← stripElems sl sew rm active (i + 1) n
    return e :: t

/-- The strip of VL elements that a read-bound register supplies; ILL for a pair of types that R178 does not admit (R330), with VL = 0 too, where R48 has no
strip consumed and no fault raised (DESIGN CHOICE, log 87). -/
def openStrip (word : Word32) (v : BitVec 6) (j : BitVec 3) (sew : BitVec 4) (rm : RMode) (vl : Nat) (active : Nat → Bool) : M Strip := do
  let sl := (← get).hart.slotAt j
  if sl.fmt != sew && !cvtAdmits sl.fmt sew then ill word
  else
    let es ← stripElems sl sew rm active 0 vl
    return { reg := v, slot := j, block := sewIsBlock sl.fmt && sl.fmt != sew, elems := es }

/-- The strips of the distinct read-bound registers among the sources. -/
def openStrips (word : Word32) (sew : BitVec 4) (rm : RMode) (vl : Nat) (active : Nat → Bool) : List (BitVec 6) → M (List Strip)
  | [] => return []
  | v :: t => do
    let rest ← openStrips word sew rm vl active t
    match (← get).hart.bindingOf v with
    | none => return rest
    | some j =>
      if rest.any fun st => st.slot == j then return rest
      else return (← openStrip word v j sew rm vl active) :: rest

/-- The register image that a strip is: elements of b bits from element 0 up, zeros above (R329). -/
def Strip.image (st : Strip) (b : Nat) : VReg :=
  BitVec.ofNat 131072 (st.elems.foldr (fun e x => e.1 % 2 ^ b + x * 2 ^ b) 0)

/-- The flags of a strip's element. -/
def Strip.flagsAt (st : Strip) (i : Nat) : Flags := ((st.elems[i]?).map fun e => e.2.1).getD 0

/-- Whether the scale of a strip's element is finite. -/
def Strip.finite (st : Strip) (i : Nat) : Bool := ((st.elems[i]?).map fun e => e.2.2.1).getD true

/-- The failure of a strip's element. -/
def Strip.failAt (st : Strip) (i : Nat) : Option (BitVec 8 × Word) := (st.elems[i]?).bind fun e => e.2.2.2

/-- The position that a completed instruction leaves: min(POS + VL, COUNT) (R329, R333); with VL = 0 nothing is consumed (R328, R329). -/
def StreamSlot.advance (sl : StreamSlot) (vl : Nat) : StreamSlot :=
  let p := min (sl.pos.toNat + vl) sl.count.toNat
  if vl = 0 then sl
  else
    { sl with
      pos := BitVec.ofNat 48 p
      vl := BitVec.ofNat 16 vl
      fetched := sl.fetched.filter fun f => decide (p < f.first + f.count) }

/-! ### Emission (R333) -/

/-- The word of a byte address. -/
def wordOf (va : Word) : Word := va &&& ~~~7#64

/-- Whether stream element i is the last of the stream in the 8-byte word at its address (R333). -/
def StreamSlot.lastInWord (sl : StreamSlot) (i : Nat) : Bool :=
  decide (sl.count.toNat ≤ i + 1) || wordOf (sl.elemVa (i + 1)) != wordOf (sl.elemVa i)

/-- The bytes of an emitted element. -/
def emittedBytes (sl : StreamSlot) (i : Nat) (va : Word) (pa x m : Nat) : List Emitted :=
  (List.range m).map fun k =>
    { index := i, va := va, pa := pa + k, byte := byteAt x k, full := sl.fill && k + 1 == m && sl.lastInWord i }

/-- The element of the stream that result x of element i becomes, with the checks of emission (R333): none at or above COUNT. A block element type has no
scale here, and is converted with scale 1, code 0x7F (R333 states none; DESIGN CHOICE, log 87). -/
def emitElem (sl : StreamSlot) (sew : BitVec 4) (rm : RMode) (i x : Nat) : M (List Emitted × Flags) := do
  let p := sl.pos.toNat + i
  if sl.count.toNat ≤ p then return ([], 0)
  else
    let m := sewBits sl.fmt / 8
    let va := sl.elemVa p
    let (y, f) := if sl.fmt == sew then (x, 0) else let r := convElem sew sl.fmt rm x 0x7F; (r.1, r.2.1)
    aligned va m
    if sl.fill && !inWindowRegion va then trap causeACCESS va
    else
      let (pa, _) ← translate va m .w
      return (emittedBytes sl p va pa y m, f)

end Sys2Proof.Machine
end

