-- ==== Sys2Proof/Machine/VExec.lean ====
section
/-! DEFINITION. What the vector unit computes: element-wise arithmetic (spec/06), compares, mask logic, permutes, reductions, conversions and
blocks (spec/07; spec/03 R59 to R77), each as a pure function of what the instruction reads. -/

namespace Sys2Proof.Machine

/-! ### The registers that an instruction names (R25, R334) -/

/-- A vector register operand, if the operand is one. -/
def VSrc.regs : VSrc → List (BitVec 6)
  | .reg v => [v]
  | .val _ => []

/-- The consecutive registers of a group. -/
def groupOf (v : BitVec 6) (n : Nat) : List (BitVec 6) := (List.range n).map fun k => v + BitVec.ofNat 6 k

/-- The single vector registers that an instruction reads as sources. -/
def VOp.sources (sew : BitVec 4) : VOp → List (BitVec 6)
  | .int _ _ va b _ => va :: b.regs
  | .macc _ _ va b _ => va :: b.regs
  | .widen _ _ va b _ => va :: b.regs
  | .dot4 _ _ va vb _ => [va, vb]
  | .fp _ _ va b _ => va :: b.regs
  | .cmp _ _ va b _ => va :: b.regs
  | .mv _ src _ => src.regs
  | .mvxs _ va _ => [va]
  | .slide _ _ va _ _ => [va]
  | .perm _ va vb _ => [va, vb]
  | .compress _ va _ => [va]
  | .nzscan _ _ va _ => [va]
  | .confl _ va _ => [va]
  | .red _ _ va _ _ => [va]
  | .load (.indexed vb) _ _ _ _ => [vb]
  | .store (.indexed vb) vd _ _ => [vd, vb]
  | .store (.segment nf) vd _ _ => if nf = 1 then [vd] else []
  | .store _ vd _ _ => [vd]
  | .cvt _ va src _ => if cvtGroup src sew = 1 && !sewIsBlock src then [va] else []
  | .xpand _ va _ _ => [va]
  | .qblk _ _ _ va _ => [va]
  | .dqblk _ _ va vb _ => [va, vb]
  | .chase _ va _ _ => [va]
  | .pgather _ va _ _ => [va]
  | _ => []

/-- The vector registers inside register groups (R334). -/
def VOp.groups (sew : BitVec 4) : VOp → List (BitVec 6)
  | .widen _ vd _ _ _ => [vd, vd + 1]
  | .load (.segment nf) vd _ _ _ => if 1 < nf then groupOf vd nf else []
  | .store (.segment nf) vd _ _ => if 1 < nf then groupOf vd nf else []
  | .cvt _ va src _ =>
    if sewIsBlock src then [va, va + 1] else if 1 < cvtGroup src sew then groupOf va (cvtGroup src sew) else []
  | _ => []

/-- The vector register destination. -/
def VOp.vdest : VOp → Option (BitVec 6)
  | .int _ vd _ _ _ | .macc _ vd _ _ _ | .widen _ vd _ _ _ | .dot4 _ vd _ _ _ | .fp _ vd _ _ _ => some vd
  | .mv vd _ _ | .mvsx vd _ _ | .slide _ vd _ _ _ | .perm vd _ _ _ | .compress vd _ _ | .iota vd _ | .vid vd _ => some vd
  | .nzscan vd _ _ _ | .load _ vd _ _ _ | .cvt vd _ _ _ | .xpand vd _ _ _ | .qblk _ vd _ _ _ | .dqblk _ vd _ _ _ => some vd
  | .tmvz vd _ _ | .sisectW vd _ _ _ | .chase vd _ _ _ | .pgather vd _ _ _ => some vd
  | _ => none

/-- The vector register that receives vqblk's scales. -/
def VOp.vdest2 : VOp → Option (BitVec 6)
  | .qblk _ _ vb _ _ => some vb
  | _ => none

/-- Whether the destination is also read: the fused forms (R153, R155, R156). -/
def VOp.readsDest : VOp → Bool
  | .macc .. | .dot4 .. => true
  | .fp op .. => op == .fma || op == .fms || op == .fnma
  | _ => false

/-- Whether an instruction writes a vector and a scalar register (R334). -/
def VOp.alsoScalar : VOp → Bool
  | .nzscan .. | .sisectW .. => true
  | _ => false

/-- The governing mask; 0 where there is none (R28). -/
def VOp.km : VOp → BitVec 3
  | .int _ _ _ _ km | .macc _ _ _ _ km | .widen _ _ _ _ km | .dot4 _ _ _ _ km | .fp _ _ _ _ km | .cmp _ _ _ _ km => km
  | .mask _ _ _ _ km | .cpop _ _ km | .first _ _ km | .mv _ _ km | .mvsx _ _ km | .slide _ _ _ _ km | .perm _ _ _ km => km
  | .vid _ km | .nzscan _ _ _ km | .confl _ _ km | .red _ _ _ _ km | .load _ _ _ _ km | .store _ _ _ km => km
  | .cvt _ _ _ km | .xpand _ _ _ km | .qblk _ _ _ _ km | .dqblk _ _ _ _ km | .chase _ _ _ km | .pgather _ _ _ km => km
  | _ => 0

/-- Whether VMODE.VE applies (R29). -/
def VOp.usesVE : VOp → Bool
  | .int .. | .macc .. | .widen .. | .dot4 .. | .fp .. | .cmp .. | .red .. | .store .. => true
  | _ => false

/-- Whether an instruction restarts from element 0, so that VSTART ≠ 0 with VL > 0 traps ILL (R50). -/
def VOp.restarts : VOp → Bool
  | .red .. | .cpop .. | .first .. | .nzscan .. | .confl .. | .perm .. | .compress .. | .iota .. | .slide .. | .qblk .. => true
  | .chase .. | .pgather .. | .sisectC .. => true
  | _ => false

/-- Whether an instruction is interrupted between two elements (R368). -/
def VOp.byElement : VOp → Bool
  | .int .. | .macc .. | .widen .. | .dot4 .. | .fp .. | .cmp .. | .load .. | .store .. | .cvt .. | .xpand .. | .dqblk .. | .tmvz .. => true
  | _ => false

/-! ### Elements -/

/-- An integer element operation (R151). -/
def intElem (op : VIntOp) (sg : Bool) (b x y : Nat) : Nat :=
  let xi := elemInt sg b x
  let yi := elemInt sg b y
  let sh := y % b
  match op with
  | .add => (x + y) % 2 ^ b
  | .sub => wrapInt b ((x : Int) - y)
  | .rsub => wrapInt b ((y : Int) - x)
  | .mul => (x * y) % 2 ^ b
  | .mulh => wrapInt b (xi * yi / (2 ^ b : Nat))
  | .div => wrapInt b (quotR60 sg b xi yi)
  | .rem => wrapInt b (remR60 xi yi)
  | .min => if xi ≤ yi then x else y
  | .max => if xi ≤ yi then y else x
  | .and => x &&& y
  | .or => x ||| y
  | .xor => x ^^^ y
  | .sll => (x <<< sh) % 2 ^ b
  | .srl => x >>> sh
  | .sra => wrapInt b (signedOf b x / (2 ^ sh : Nat))
  | .sadd => wrapInt b (saturate sg b (xi + yi)).1
  | .ssub => wrapInt b (saturate sg b (xi - yi)).1

/-- The exact total of a four-way dot product (R155). -/
def dot4Total (sg : Bool) (x y d : Nat) : Int :=
  (List.range 4).foldl (fun t j => t + elemInt sg 8 (bitsAt x (8 * j) 8) * elemInt sg 8 (bitsAt y (8 * j) 8)) (elemInt sg 32 d)

/-- vdot4 and vdot4.sat (R155). -/
def dot4Elem (sat sg : Bool) (x y d : Nat) : Nat :=
  let t := dot4Total sg x y d
  wrapInt 32 (if sat then (saturate sg 32 t).1 else t)

/-- x with its sign replaced by a bit (R130). -/
def withSign (f : FFmt) (x sign : Nat) : Nat := setBitsAt x (f.eb + f.fb) 1 sign

/-- The sign bit of a pattern. -/
def signOf (f : FFmt) (x : Nat) : Nat := bitsAt x (f.eb + f.fb) 1

/-- A floating-point element operation (R156). -/
def fpElem (op : VFpOp) (f : FFmt) (rm : RMode) (x y d : Nat) : Nat × Flags :=
  let a := f.decode x
  let c := f.decode y
  let e := f.decode d
  match op with
  | .add => addVal f rm a c
  | .sub => addVal f rm a c.negate
  | .mul => mulVal f rm a c
  | .div => divVal f rm a c
  | .sqrt => sqrtVal f rm a
  | .rsqrt => rsqrtVal f rm a
  | .fma => fmaVal f rm a c e
  | .fms => fmaVal f rm a c e.negate
  | .fnma => fmaVal f rm a.negate c e.negate
  | .min => minMaxBits f false x y
  | .max => minMaxBits f true x y
  | .fclass => (classBits f x, 0)
  | .sgnj => (withSign f x (signOf f y), 0)
  | .sgnjn => (withSign f x (1 - signOf f y), 0)
  | .sgnjx => (withSign f x ((signOf f x + signOf f y) % 2), 0)

/-- A floating-point comparison: the outcome and NV, which a quiet compare sets for a signalling NaN only (R128, R162). -/
def fpCompare (f : FFmt) (quiet : Bool) (test : Ordering → Bool) (x y : Nat) : Bool × Flags :=
  let a := f.decode x
  let c := f.decode y
  if a.isNan || c.isNan then (false, if quiet then a.nv ||| c.nv else flagNV) else (test (cmpVal a c), 0)

/-- A compare of two elements (R161). -/
def cmpElem (op : VCmpOp) (sg : Bool) (b : Nat) (f : FFmt) (x y : Nat) : Bool × Flags :=
  match op with
  | .eq => (x == y, 0)
  | .ne => (x != y, 0)
  | .lt => (decide (elemInt sg b x < elemInt sg b y), 0)
  | .le => (decide (elemInt sg b x ≤ elemInt sg b y), 0)
  | .feq => fpCompare f true (· == .eq) x y
  | .flt => fpCompare f false (· == .lt) x y
  | .fle => fpCompare f false (· != .gt) x y

/-- A mask operation (R163). -/
def maskBit (op : VMaskOp) (x y : Bool) : Bool :=
  match op with
  | .and => x && y
  | .or => x || y
  | .xor => x != y
  | .andn => x && !y

/-- Whether an element is non-zero for vnzscan (R170). -/
def nonZeroElem (sew : BitVec 4) (x : Nat) : Bool :=
  match sewFmt sew with
  | some f => !(f.decode x).isZero
  | none => x != 0

/-- An element of a storage format of R69 as an exact datum: f 0 E2M3, 1 E3M2, 2 a 4-bit signed integer. -/
def storageVal (f x : Nat) : FVal :=
  if f = 2 then
    let v := signedOf 4 x
    .fin (decide (v < 0)) v.natAbs 0
  else
    let fb := if f = 0 then 3 else 2
    let bias : Int := if f = 0 then 1 else 3
    let frac := bitsAt x 0 fb
    let ex := bitsAt x fb (5 - fb)
    let neg := bitsAt x 5 1 == 1
    if ex = 0 then .fin neg frac (1 - bias - fb) else .fin neg (2 ^ fb + frac) ((ex : Int) - bias - fb)

/-! ### Folds -/

/-- One level of the tree of R75: neighbours added, a last one without a partner as it is. -/
def treeLevel (f : FFmt) (rm : RMode) : List Nat → List Nat × Flags
  | a :: b :: t =>
    let r := addVal f rm (f.decode a) (f.decode b)
    let (l, g) := treeLevel f rm t
    (r.1 :: l, r.2 ||| g)
  | l => (l, 0)

/-- The tree of R75 over at most 2^n elements. -/
def treeSum (f : FFmt) (rm : RMode) : Nat → List Nat → List Nat × Flags
  | 0, l => (l, 0)
  | n + 1, l =>
    let (m, g) := treeLevel f rm l
    let (r, g') := treeSum f rm n m
    (r, g ||| g')

/-- A left fold that gathers flags. -/
def foldFlags (op : Nat → Nat → Nat × Flags) : Nat → List Nat → Nat × Flags
  | a, [] => (a, 0)
  | a, x :: t =>
    let r := op a x
    let q := foldFlags op r.1 t
    (q.1, r.2 ||| q.2)

/-- A floating-point result, the canonical NaN where it is a NaN (R55). -/
def FFmt.canonical (f : FFmt) (x : Nat) : Nat := if (f.decode x).isNan then f.nan else x

/-- A floating-point reduction with VL > 0 (R75, R76): every element with +0 for an inactive one, the active elements, and the seed. -/
def fpReduce (op : VRedOp) (f : FFmt) (rm : RMode) (seed : Nat) (all active : List Nat) : Nat × Flags :=
  match op with
  | .fsum =>
    let (t, g) := treeSum f rm 16 all
    let r := addVal f rm (f.decode seed) (f.decode (t.headD 0))
    (r.1, g ||| r.2)
  | .fosum => let r := foldFlags (fun a x => addVal f rm (f.decode a) (f.decode x)) seed active; (f.canonical r.1, r.2)
  | .fmin => let r := foldFlags (minMaxBits f false) seed active; (f.canonical r.1, r.2)
  | .fmax => let r := foldFlags (minMaxBits f true) seed active; (f.canonical r.1, r.2)
  | _ => (seed, 0)

/-- An integer reduction (R172). -/
def intReduce (op : VRedOp) (sg : Bool) (b seed : Nat) (active : List Nat) : Nat :=
  match op with
  | .sum => (active.foldl (· + ·) seed) % 2 ^ b
  | .min => active.foldl (fun a x => if elemInt sg b x < elemInt sg b a then x else a) seed
  | .max => active.foldl (fun a x => if elemInt sg b a < elemInt sg b x then x else a) seed
  | .and => active.foldl (· &&& ·) seed
  | .or => active.foldl (· ||| ·) seed
  | _ => seed

/-- Whether a reduction is one of floating-point elements. -/
def VRedOp.isFloat : VRedOp → Bool
  | .fsum | .fosum | .fmin | .fmax => true
  | _ => false

/-! ### Blocks (R63 to R71) -/

/-- floor(log2) of a nonzero finite magnitude m × 2^e. -/
def magLog (m : Nat) (e : Int) : Int := e + log2Floor m

/-- Whether |a| × 2^p < |b| × 2^q. -/
def magLess (a : Nat) (p : Int) (b : Nat) (q : Int) : Bool :=
  let lo := min p q
  decide (a <<< (p - lo).toNat < b <<< (q - lo).toNat)

/-- The greatest finite magnitude of a list of data, as m × 2^e. -/
def greatestMag : List FVal → Nat × Int
  | [] => (0, 0)
  | .fin _ m e :: t =>
    let (n, g) := greatestMag t
    if magLess n g m e then (m, e) else (n, g)
  | _ :: t => greatestMag t

/-- Whether a list of data holds a NaN or an infinity. -/
def anySpecial (l : List FVal) : Bool := l.any fun v => match v with | .fin .. => false | _ => true

/-- The scale code of a group, its flags, and the shared exponent (R70). -/
def groupScale (i8 : Bool) (l : List FVal) : Nat × Flags × Int :=
  if anySpecial l then (0xFF, flagNV, 0)
  else
    let (m, e) := greatestMag l
    if m = 0 then (0, 0, -127)
    else
      let x := magLog m e - (if i8 then 0 else 2)
      let c := max (-127) (min 127 x)
      ((c + 127).toNat, flagIf (decide (127 < x)) flagNV8, c)

/-- The element code of a datum in a group of a finite scale 2^s, and whether it is inexact (R71). -/
def quantElem (i8 : Bool) (s : Int) (v : FVal) : Nat × Bool :=
  match v with
  | .fin neg m e =>
    if i8 then
      let (r, lost) := roundQuantum rne { neg := neg, m := m, e := e - s, sticky := false } (-6)
      let c := min r 127
      (wrapInt 8 (if neg then -(c : Int) else c), lost || decide (127 < r))
    else
      let top := e - s + log2Floor m
      let q := max (top - 1) (-1)
      let (r, lost) := roundQuantum rne { neg := neg, m := m, e := e - s, sticky := false } q
      let halves := r <<< (q + 1).toNat
      let c := min halves 12
      let code := ([0, 1, 2, 3, 4, 6, 8, 12].findIdx? (· == c)).getD 7
      (code + (if neg then 8 else 0), lost || decide (12 < halves))
  | _ => (0, false)

/-! ### Results -/

/-- What an instruction has computed: elements for its vector destination with their flags, elements for a second one, bits for a mask
register with their flags, a scalar result, and flags that belong to no element. -/
structure VResult where
  elems : List (Nat × Nat × Flags)
  second : List (Nat × Nat)
  bits : List (Nat × Bool × Flags)
  scalar : Option Word
  flags : Flags
deriving DecidableEq, Repr

/-- A result with nothing in it. -/
def VResult.none : VResult := { elems := [], second := [], bits := [], scalar := Option.none, flags := 0 }

/-- What an instruction sees while it runs: element type, width and rounding, VL, its elements and those that are active, source registers,
masks, and the flags of stream elements. -/
structure VEnv where
  sew : BitVec 4
  b : Nat
  rm : RMode
  vl : Nat
  vlmax : Nat
  /-- the width of a register in bits -/
  w8 : Nat
  /-- active elements from VSTART up to where the instruction stops -/
  act : List Nat
  src : BitVec 6 → VReg
  mask : BitVec 3 → MaskReg
  flagsIn : Nat → Flags

/-- Element i of a source. -/
def VEnv.el (v : VEnv) (r : BitVec 6) (i : Nat) : Nat := elemOf (v.src r) v.b i

/-- Element i of the last operand (R147). -/
def VEnv.opnd (v : VEnv) (o : VSrc) (i : Nat) : Nat :=
  match o with
  | .reg r => v.el r i
  | .val x => x.toNat % 2 ^ v.b

/-- Element i of n bits of a register group (R154, R179). -/
def VEnv.groupEl (v : VEnv) (r : BitVec 6) (n i : Nat) : Nat :=
  elemOf (v.src (r + BitVec.ofNat 6 (i * n / v.w8))) n (i * n % v.w8 / n)

/-- Results element by element. -/
def VEnv.each (v : VEnv) (f : Nat → Nat × Flags) : VResult :=
  { VResult.none with elems := v.act.map fun i => let r := f i; (i, r.1, r.2 ||| v.flagsIn i) }

/-- Mask bits element by element. -/
def VEnv.eachBit (v : VEnv) (f : Nat → Bool × Flags) : VResult :=
  { VResult.none with bits := v.act.map fun i => let r := f i; (i, r.1, r.2 ||| v.flagsIn i) }

/-- The flags of the strips over the active elements. -/
def VEnv.stripFlags (v : VEnv) : Flags := v.act.foldl (fun g i => g ||| v.flagsIn i) 0

/-- A list with the place of each element. -/
def numbered {α : Type} : Nat → List α → List (Nat × α)
  | _, [] => []
  | n, a :: t => (n, a) :: numbered (n + 1) t

/-- The prefix counts of a mask over elements i, …, i + n − 1 (R166). -/
def iotaFrom (m : MaskReg) (b cnt i : Nat) : Nat → List (Nat × Nat × Flags)
  | 0 => []
  | n + 1 => (i, cnt % 2 ^ b, 0) :: iotaFrom m b (if m.getLsbD i then cnt + 1 else cnt) (i + 1) n

/-- First occurrences among values in order (R171). -/
def firstOf (seen : List Nat) : List (Nat × Nat) → List (Nat × Bool)
  | [] => []
  | (i, x) :: t => (i, !seen.contains x) :: firstOf (x :: seen) t

/-- Decoded block elements, with the bits of k7 (R67, R182). -/
def VEnv.unblock (v : VEnv) (code : BitVec 4) (el scale : Nat → Nat) : VResult :=
  { VResult.none with
    elems := v.act.map fun i => let r := convElem code v.sew v.rm (el i) (scale (i / 32)); (i, r.1, r.2.1 ||| v.flagsIn i)
    bits := v.act.map fun i => (i, scale (i / 32) != 0xFF, 0) }

/-- vqblk (R70, R71, R181): codes, scales, k7 and flags. -/
def VEnv.quantise (v : VEnv) (i8 : Bool) (va : BitVec 6) : VResult :=
  match sewFmt v.sew with
  | Option.none => VResult.none
  | some f =>
    let groups := (List.range (ceilDiv v.vl 32)).map fun j =>
      let mine := v.act.filter fun i => i / 32 == j
      (j, mine, groupScale i8 (mine.map fun i => f.decode (v.el va i)))
    let codes := groups.flatMap fun (_, mine, (sc, _, s)) =>
      mine.map fun i => if sc = 0xFF then (i, (0, false)) else (i, quantElem i8 s (f.decode (v.el va i)))
    { elems := codes.map fun p => (p.1, p.2.1, flagIf p.2.2 flagNX ||| v.flagsIn p.1)
      second := groups.map fun p => (p.1, p.2.2.1)
      bits := groups.flatMap fun (_, mine, (sc, _, _)) => mine.map fun i => (i, sc != 0xFF, 0)
      scalar := Option.none
      flags := groups.foldl (fun g p => g ||| p.2.2.2.1) 0 }

/-- A scalar result of b bits: sign-extended for a signed integer type, else zero-extended (R166, R172). -/
def scalarOf (sew : BitVec 4) (b x : Nat) : Word := if sewSigned sew then BitVec.ofInt 64 (signedOf b x) else BitVec.ofNat 64 (x % 2 ^ b)

/-- A reduction (R172): with VL = 0 the 64 bits of the seed. -/
def VEnv.reduce (v : VEnv) (op : VRedOp) (va : BitVec 6) (seed : Word) : VResult :=
  if v.vl = 0 then { VResult.none with scalar := some seed }
  else if op.isFloat then
    match sewFmt v.sew with
    | Option.none => VResult.none
    | some f =>
      let all := (List.range v.vl).map fun i => if v.act.contains i then v.el va i else 0
      let r := fpReduce op f v.rm (seed.toNat % 2 ^ v.b) all (v.act.map (v.el va))
      { VResult.none with scalar := some (BitVec.ofNat 64 r.1), flags := r.2 ||| v.stripFlags }
  else
    { VResult.none with
      scalar := some (scalarOf v.sew v.b (intReduce op (sewSigned v.sew) v.b (seed.toNat % 2 ^ v.b) (v.act.map (v.el va))))
      flags := v.stripFlags }

/-- The result of an instruction that accesses no memory, no stream slot and no tile state. -/
def VEnv.compute (v : VEnv) (op : VOp) : VResult :=
  let sg := sewSigned v.sew
  match op with
  | .int o _ va b _ => v.each fun i => (intElem o sg v.b (v.el va i) (v.opnd b i), 0)
  | .macc sub vd va b _ => v.each fun i =>
      let p : Int := (v.el va i * v.opnd b i : Nat)
      (wrapInt v.b (if sub then (v.el vd i : Int) - p else v.el vd i + p), 0)
  | .widen mul _ va b _ => v.each fun i =>
      let x := elemInt sg v.b (v.el va i)
      let y := elemInt sg v.b (v.opnd b i)
      (wrapInt (2 * v.b) (if mul then x * y else x + y), 0)
  | .dot4 sat vd va vb _ => v.each fun i => (dot4Elem sat sg (v.el va i) (v.el vb i) (v.el vd i), 0)
  | .fp o vd va b _ =>
    (match sewFmt v.sew with
     | some f => v.each fun i => fpElem o f v.rm (v.el va i) (v.opnd b i) (v.el vd i)
     | Option.none => VResult.none)
  | .cmp o _ va b _ => v.eachBit fun i => cmpElem o sg v.b ((sewFmt v.sew).getD fmtDouble) (v.el va i) (v.opnd b i)
  | .mask o _ ka kb _ => v.eachBit fun i => (maskBit o ((v.mask ka).getLsbD i) ((v.mask kb).getLsbD i), 0)
  | .cpop _ ka _ => { VResult.none with scalar := some (BitVec.ofNat 64 (v.act.filter fun i => (v.mask ka).getLsbD i).length) }
  | .first _ ka _ =>
    { VResult.none with scalar := some (match v.act.find? fun i => (v.mask ka).getLsbD i with
        | some i => BitVec.ofNat 64 i
        | Option.none => BitVec.allOnes 64) }
  | .mv _ src _ => v.each fun i => (v.opnd src i, 0)
  | .mvsx _ x _ =>
    { VResult.none with elems := (v.act.filter (· == 0)).map fun i => (i, x.toNat % 2 ^ v.b, 0) }
  | .mvxs _ va _ => { VResult.none with scalar := some (scalarOf v.sew v.b (v.el va 0)), flags := v.stripFlags }
  | .slide up _ va n _ =>
    { VResult.none with
      elems := (if up then v.act.filter fun i => decide (n.toNat ≤ i) else v.act).map fun i =>
        (i, if up then v.el va (i - n.toNat) else if i + n.toNat < v.vlmax then v.el va (i + n.toNat) else 0, 0)
      flags := v.stripFlags }
  | .perm _ va vb _ => v.each fun i => (if v.el vb i < v.vlmax then v.el va (v.el vb i) else 0, 0)
  | .compress _ va km =>
    { VResult.none with
      elems := (numbered 0 ((List.range v.vl).filter fun i => (v.mask km).getLsbD i)).map fun p => (p.1, v.el va p.2, 0)
      flags := v.stripFlags }
  | .iota _ km => { VResult.none with elems := iotaFrom (v.mask km) v.b 0 0 v.vl }
  | .vid _ _ => v.each fun i => (i % 2 ^ v.b, 0)
  | .nzscan _ _ va _ =>
    let l := v.act.filter fun i => nonZeroElem v.sew (v.el va i)
    { VResult.none with
      elems := (numbered 0 l).map fun p => (p.1, p.2, 0)
      scalar := some (BitVec.ofNat 64 l.length)
      flags := v.stripFlags }
  | .confl _ va _ =>
    { VResult.none with
      bits := (firstOf [] (v.act.map fun i => (i, v.el va i))).map fun p => (p.1, p.2, 0)
      flags := v.stripFlags }
  | .red o _ va seed _ => v.reduce o va seed
  | .cvt _ va src _ =>
    if sewIsBlock src then v.unblock src (elemOf (v.src va) (sewBits src)) fun j => elemOf (v.src (va + 1)) 8 j
    else v.each fun i =>
      let r := convElem src v.sew v.rm (v.groupEl va (sewBits src) i) 0x7F
      (r.1, r.2.1)
  | .xpand _ va f _ => v.each fun i =>
      let n := if f = 2 then 4 else 6
      ((roundVal fmtE4M3 rne (storageVal f.toNat (bitsAt (v.src va).toNat (n * i) n))).1, 0)
  | .qblk i8 _ _ va _ => v.quantise i8 va
  | .dqblk i8 _ va vb _ =>
    v.unblock (if i8 then 15 else 14) (elemOf (v.src va) (if i8 then 8 else 4)) fun j => elemOf (v.src vb) 8 j
  | _ => VResult.none

end Sys2Proof.Machine
end

