-- ==== Sys2Proof/Machine/Access.lean ====
section
/-! DEFINITION. The accesses of a vector or tile instruction to memory (spec/07 R175 to R177; spec/14 R275, R276; spec/23 R434): they are all translated
and checked in order before any takes effect, and then made in order, up to the first element or row that fails a check. -/

namespace Sys2Proof.Machine

/-- A part of an element or row: its address and size, the value that a store writes, and, for a lone mxf4 element, which nibble of its byte it is. -/
structure Part where
  va : Word
  n : Nat
  x : Nat
  nibble : Option Nat
deriving DecidableEq, Repr

/-- An element or row that an instruction accesses: its number, a check of alignment that it makes first, and its parts. -/
structure Item where
  index : Nat
  align : Option (Word × Nat)
  parts : List Part
deriving DecidableEq, Repr

/-- A part that has passed the checks of translation (R276): its physical address, and the number of its element or row. -/
structure Planned where
  index : Nat
  pa : Nat
  part : Part
deriving DecidableEq, Repr

/-- A failure: the lowest element or row, the cause, and the address (R276). -/
abbrev Failure := Nat × BitVec 8 × Word

/-- Checks 1 to 3 of R276 for the parts of an element, and for a store whether a control address admits it (R480): the parts that pass, and the first
failure. -/
def planParts (k : Access) (i : Nat) : List Part → M (List Planned × Option (BitVec 8 × Word))
  | [] => return ([], none)
  | p :: t => do
    let check : M Nat := do
      aligned p.va p.n
      let (pa, _) ← translate p.va p.n k
      if k = .w then storeAdmitted p.va pa p.n
      return pa
    match ← attempt check with
    | .error e => return ([], some e)
    | .ok pa =>
      let (rest, f) ← planParts k i t
      return ({ index := i, pa := pa, part := p } :: rest, f)

/-- The checks of one element or row: its parts up to the first that fails. -/
def planItem (k : Access) (it : Item) : M (List Planned × Option (BitVec 8 × Word)) := do
  match it.align with
  | some (va, n) =>
    if va.toNat % n = 0 then planParts k it.index it.parts else return ([], some (causeALIGN, va))
  | none => planParts k it.index it.parts

/-- What stops an instruction: the element or row, its parts before the one that fails, whose data may fail a later check of theirs, and the failure (R276). -/
abbrev Late := Nat × List Planned × BitVec 8 × Word

/-- The probe pass (R275, R276): the elements or rows that pass, in order, and the first that fails. -/
def planItems (k : Access) : List Item → M (List (Nat × List Planned) × Option Late)
  | [] => return ([], none)
  | it :: t => do
    match ← planItem k it with
    | (l, some (c, v)) => return ([], some (it.index, l, c, v))
    | (l, none) =>
      let (rest, f) ← planItems k t
      return ((it.index, l) :: rest, f)

/-- The failure that a probe pass has found. -/
def Late.failure (f : Late) : Failure := (f.1, f.2.2)

/-- Whether a physical address lies in another module. -/
def isRemote (s : State) (pa : Nat) : Bool := paModule pa != s.module

/-! ### Loads -/

/-- The bytes that a load touches in the 64-byte block of an address: the lowest, and how many up to the highest (R434). -/
def blockHull (l : List Planned) (pa : Nat) : Nat × Nat :=
  let mine := l.filter fun q => q.pa / 64 == pa / 64
  let lo := mine.foldl (fun m q => min m q.pa) pa
  let hi := mine.foldl (fun m q => max m (q.pa + q.part.n)) (pa + 1)
  (lo, hi - lo)

/-- Reads a part: of another module by one packet for its whole 64-byte block (R434; DESIGN CHOICE, log 86). Where that reports an error, which may lie in a byte
of an inactive element between, the part is read by itself (R276). -/
def readPlanned (all : List Planned) (p : Planned) : M Nat := do
  lineRoom p.pa p.part.n
  let s ← get
  if isRemote s p.pa then
    if paControl p.pa && !ctlReadable s.hart.level (← ctlAt p.part.va p.pa) then trap causeACCESS p.part.va
    let (lo, n) := blockHull all p.pa
    match ← attempt (readRemote p.part.va lo n) with
    | .ok d => return ofBytes ((d.drop (p.pa - lo)).take p.part.n)
    | .error _ => return ofBytes ((← readRemote p.part.va p.pa p.part.n).take p.part.n)
  else readPhys p.part.va p.pa p.part.n

/-- Reads the parts of an element or row in order. -/
def readParts (all : List Planned) : List Planned → M (List Nat)
  | [] => return []
  | p :: t => do
    let x ← readPlanned all p
    let rest ← readParts all t
    return x :: rest

/-- Reads the elements or rows in order, up to the first that fails. -/
def readItems (all : List Planned) : List (Nat × List Planned) → M (List (Nat × List Nat) × Option Failure)
  | [] => return ([], none)
  | (i, l) :: t => do
    match ← attempt (readParts all l) with
    | .error (c, v) => return ([], some (i, c, v))
    | .ok xs =>
      let (rest, f) ← readItems all t
      return ((i, xs) :: rest, f)

/-- Loads elements or rows: what those below the first failure hold, and the failure. The fields of the failing element before the one that a first check
stops are read too, for an error of theirs comes first (R276). -/
def loadItems (l : List Item) : M (List (Nat × List Nat) × Option Failure) := do
  let (plan, late) ← planItems .r l
  let (got, early) ← readItems (plan.flatMap (·.2)) plan
  match early, late with
  | some f, _ => return (got, some f)
  | none, none => return (got, none)
  | none, some f =>
    match ← attempt (readParts f.2.1 f.2.1) with
    | .error (c, v) => return (got, some (f.1, c, v))
    | .ok _ => return (got, some f.failure)

/-! ### Stores -/

/-- The number that the values of consecutive parts spell, low part first. -/
def runValue : List Planned → Nat
  | [] => 0
  | p :: t => p.part.x % 2 ^ (8 * p.part.n) + runValue t <<< (8 * p.part.n)

/-- Parts that one access stores: the one that comes first in order, and all of them by address, without gaps. -/
structure Run where
  lead : Planned
  parts : List Planned
deriving DecidableEq, Repr

/-- The address of a run. -/
def Run.pa (r : Run) : Nat := (r.parts.head?.map (·.pa)).getD r.lead.pa

/-- The number of bytes of a run. -/
def Run.bytes (r : Run) : Nat := (r.parts.map fun p => p.part.n).sum

/-- A run with the part that is stored before it, if they go in one packet to another module: it lies in the run's 64-byte block, and ends where the run begins
or begins where it ends (R434; DESIGN CHOICE, log 86). -/
def Run.join (s : State) (r : Run) (a : Planned) : Option Run :=
  if isRemote s a.pa && a.pa / 64 == r.pa / 64 && (a :: r.parts).all (·.part.nibble.isNone) then
    if a.pa + a.part.n = r.pa then some { lead := a, parts := a :: r.parts }
    else if r.pa + r.bytes = a.pa then some { lead := a, parts := r.parts ++ [a] }
    else none
  else none

/-- The parts to store in order, those that go in one packet together. -/
def storeRuns (s : State) : List Planned → List Run
  | [] => []
  | a :: t =>
    match storeRuns s t with
    | r :: rest => (match r.join s a with
      | some q => q :: rest
      | none => { lead := a, parts := [a] } :: r :: rest)
    | [] => [{ lead := a, parts := [a] }]

/-- Stores a part of this module, or a run to another; a lone mxf4 element is read and written back with its byte's other nibble as it was (R175). -/
def storeRun (r : Run) : M Unit := do
  let p := r.lead
  lineRoom r.pa r.bytes
  match p.part.nibble with
  | some k =>
    let old ← readPhys p.part.va p.pa 1
    writePhys p.part.va p.pa 1 (setBitsAt old (4 * k) 4 p.part.x) false false
  | none => writePhys p.part.va r.pa r.bytes (runValue r.parts) false false

/-- Makes the stores in order, up to the first that another module denies. -/
def makeStores : List Run → M (Option Failure)
  | [] => return none
  | r :: t => do
    match ← attempt (storeRun r) with
    | .error (c, v) => return some (r.lead.index, c, v)
    | .ok _ => makeStores t

/-- The parts of an element with those of other modules first, so that a denial leaves the element's bytes of this module unwritten (R276; log 86). -/
def remoteFirst (s : State) (l : List Planned) : List Planned := (l.filter fun p => isRemote s p.pa) ++ l.filter fun p => !isRemote s p.pa

/-- Stores elements or rows, each once every one has been checked: the first failure (R275, R276). -/
def storeItems (l : List Item) : M (Option Failure) := do
  let (plan, late) ← planItems .w l
  let s ← get
  let early ← makeStores (storeRuns s (plan.flatMap fun p => remoteFirst s p.2))
  return early.orElse fun _ => late.map Late.failure

end Sys2Proof.Machine
end

