-- ==== Sys2Proof/Machine/VRun.lean ====
section
/-! DEFINITION. How the vector unit runs an instruction over elements (spec/02 R46 to R50; spec/06 R149; spec/17 R329 to R334): the checks
made when it begins, the strips of its stream-bound sources, the elements it processes, the commitment of its results, and vector loads and
stores (spec/07 R173 to R177; spec/14 R275, R276). -/

namespace Sys2Proof.Machine

/-- Sets VSTART. -/
def setVstart (i : Nat) : M Unit := modHart fun h => { h with vstart := BitVec.ofNat 16 i }

/-- Flags of the vector unit reach FCSR, also in the state that a younger instruction's trap returns to (R39, R366). -/
def Hart.vuFlags (h : Hart) (f : Flags) : Hart :=
  { h with
    sc := { h.sc with flags := h.sc.flags ||| f }
    queue := h.queue.map fun e => { e with back := { e.back with flags := e.back.flags ||| f } } }

/-- A scalar register written by the vector unit (R39, R366). -/
def Hart.vuPut (h : Hart) (d : BitVec 5) (x : Word) : Hart :=
  { h with
    sc := h.sc.put d x
    queue := h.queue.map fun e => { e with back := e.back.put d x, wrote := if h.held then set32 e.wrote d else e.wrote }
    wroteReg := if h.held then set32 h.wroteReg d else h.wroteReg }

/-- The copy register of the prefix that an entry carries (R107). -/
def QEntry.copy (e : QEntry) : Option (BitVec 6) := e.pfx.bind pfxCopy

/-- A scalar result and its copy (R107). -/
def Hart.vuScalar (h : Hart) (e : QEntry) (d : BitVec 5) (x : Word) : Hart :=
  let h1 := h.vuPut d x
  match e.copy with
  | some c => h1.vuPut (c.setWidth 5) x
  | none => h1

/-- The width of a vector register of the executing strand, in bits (R25). -/
def regBits (s : State) : Nat := 8 * regBytes s.ring.gang s.hart.sc.nreg

/-- Element i of n bits of the register group at v written (R154). -/
def Hart.putGroup (h : Hart) (v : BitVec 6) (w8 n i x : Nat) : Hart :=
  let r := v + BitVec.ofNat 6 (i * n / w8)
  h.setVr r (setElem (h.vr r) n (i * n % w8 / n) x)

/-- The register of n-bit elements with a list of elements written. -/
def putElems (v : VReg) (n : Nat) (l : List (Nat × Nat)) : VReg := l.foldl (fun v p => setElem v n p.1 p.2) v

/-- A mask with a list of bits written. -/
def putBits (m : MaskReg) (l : List (Nat × Bool)) : MaskReg := l.foldl (fun m p => setMaskBit m p.1 p.2) m

/-! ### The checks made at the beginning -/

/-- Whether results of an element type may not be emitted to the write stream that a register is bound to (R330, R333), with VL = 0 too (log 87). -/
def Hart.emitsIll (h : Hart) (sew : BitVec 4) (v : BitVec 6) : Bool :=
  match h.bindingOf v with
  | some j => (h.slotAt j).writes && (h.slotAt j).fmt != sew && !cvtAdmits sew (h.slotAt j).fmt
  | none => false

/-- The checks of R50, R330, R333 and R334. -/
def beginCheck (e : QEntry) : M Unit := do
  let h := (← get).hart
  let op := e.op
  let dests := op.vdest.toList ++ op.vdest2.toList ++ (if op.vdest.isSome then e.copy.toList else [])
  let srcs := op.sources e.sew
  if (op.restarts && h.vstart != 0 && e.vl != 0)
      || srcs.any h.writeBound || dests.any h.readBound
      || (op.readsDest && op.vdest.any h.writeBound)
      || (op.groups e.sew).any (fun v => (h.bindingOf v).isSome)
      || (op.alsoScalar && op.vdest.any h.writeBound)
      || (op.vdest2.isNone && op.vdest.any (h.emitsIll e.sew)) then ill e.word
  else pure ()

/-! ### Active elements and strips -/

/-- The mask that governs an entry's elements, and the effective one (R28, R29). -/
def govMask (h : Hart) (e : QEntry) : MaskReg := h.mask e.op.km
/-- the effective mask -/
def effective (h : Hart) (e : QEntry) : MaskReg := effMask h e.op.km (e.op.usesVE && e.ve)

/-- The elements of a mask from one up to below another (R46). -/
def activeIn (m : MaskReg) (lo hi : Nat) : List Nat := (span lo hi).filter fun i => m.getLsbD i

/-- The bits of k7 that consumed block streams write: one for every element that the governing mask enables (R331). -/
def blockBits (strips : List Strip) (act : List Nat) : List (Nat × Bool) :=
  let blocks := strips.filter (·.block)
  if blocks.isEmpty then [] else act.map fun i => (i, blocks.all fun st => st.finite i)

/-- Whether the failed fetch of an element counts: in a block stream wherever the governing mask enables the element, for its scale is then unknown; in
another where the effective mask does (R331, R332). -/
def failCounts (strips : List Strip) (eff : MaskReg) (i : Nat) : Bool :=
  eff.getLsbD i || strips.any fun st => st.block && (st.failAt i).isSome

/-- The lowest active element whose fetch failed, with its cause and address (R332). -/
def firstFail (strips : List Strip) (eff : MaskReg) : List Nat → Option Failure
  | [] => none
  | i :: t =>
    match strips.findSome? fun st => st.failAt i with
    | some (c, v) => if failCounts strips eff i then some (i, c, v) else firstFail strips eff t
    | none => firstFail strips eff t

/-- What a source register supplies: its strip, or its contents (R329). -/
def sourceOf (h : Hart) (strips : List Strip) (b : Nat) (v : BitVec 6) : VReg :=
  match h.bindingOf v with
  | none => h.vr v
  | some j => match strips.find? fun st => st.slot == j with
    | some st => st.image b
    | none => h.vr v

/-- What is known before an entry's elements are processed: its strips, where it stops and why, and its environment. -/
structure Ready where
  strips : List Strip
  stop : Nat
  fail : Option (BitVec 8 × Word)
  env : VEnv
  /-- k7 before the instruction -/
  k7 : MaskReg

/-- The run stopped at a failure, if there is one. -/
def Ready.failAt (r : Ready) (f : Option Failure) : Ready :=
  match f with
  | some (i, c, v) => { r with stop := i, fail := some (c, v) }
  | none => r

/-- Opens the strips of an entry and settles which elements it processes: from VSTART to VL, to the first failed fetch, or to the end of the
elements that an interruption lets it complete (R46, R331, R332, R368). -/
def prepare (e : QEntry) (units : Option Nat) : M Ready := do
  beginCheck e
  let s0 ← get
  let vl := e.vl.toNat
  let lo := s0.hart.vstart.toNat
  let b := sewBits e.sew
  let gov := govMask s0.hart e
  let strips ← openStrips e.word e.sew e.rm vl (fun i => decide (lo ≤ i) && gov.getLsbD i) (e.op.sources e.sew)
  let hi := match units with
    | some n => if e.op.byElement then min vl (lo + n) else vl
    | none => vl
  let act0 := activeIn gov lo hi
  let bits := blockBits strips act0
  let h0 := (← get).hart
  let k7 := h0.mask 7
  let fail := firstFail strips (effective (if bits.isEmpty then h0 else h0.setMask 7 (putBits k7 bits)) e) act0
  let stop := match fail with | some (i, _) => i | none => hi
  let kept := if fail.isSome && e.op.restarts then [] else bits.filter fun p => decide (p.1 < stop)
  modHart fun h => if kept.isEmpty then h else h.setMask 7 (putBits k7 kept)
  let s ← get
  let h := s.hart
  let eff := effective h e
  let act := activeIn eff lo stop
  return {
    strips := strips
    k7 := k7
    stop := stop
    fail := fail.map fun f => (f.2.1, f.2.2)
    env := { sew := e.sew, b := b, rm := e.rm, vl := vl, vlmax := e.back.vlmax.toNat, w8 := regBits s, act := act,
             src := sourceOf h strips b, mask := h.mask,
             flagsIn := fun i => strips.foldl (fun g st => g ||| st.flagsAt i) 0 } }

/-- The slot whose write stream takes the results of an entry (R333). -/
def emitsTo (h : Hart) (e : QEntry) : Option (BitVec 3) :=
  match e.op.vdest.bind h.bindingOf with
  | some j => if (h.slotAt j).writes && e.op.vdest2.isNone then some j else none
  | none => none

/-- The end of an entry's processing: a failed fetch traps with VSTART at its element, which for an instruction that restarts stays 0
(R50, R332); an interruption leaves VSTART at the next element (R368); otherwise every consumed stream and the emitting one advance and
VSTART is cleared (R49, R329, R333). -/
def conclude (e : QEntry) (r : Ready) : M Bool := do
  match r.fail with
  | some (c, v) =>
    if !e.op.restarts then setVstart r.stop
    trap c v
  | none =>
    if r.stop < e.vl.toNat && e.op.byElement then
      setVstart r.stop
      return false
    else
      modHart fun h =>
        let h1 := r.strips.foldl (fun h st => h.modSlot st.slot fun sl => sl.advance e.vl.toNat) h
        let h2 := match emitsTo h e with
          | some j => h1.modSlot j fun sl => sl.advance e.vl.toNat
          | none => h1
        { h2 with vstart := 0 }
      return true

/-! ### Commitment -/

/-- Emits the strip of a write-bound destination: the elements before the first that fails its checks, which traps there (R333). -/
def emitStrip (e : QEntry) (j : BitVec 3) (done : List (Nat × Nat × Flags)) (gathered : List Emitted) :
    List (Nat × Nat × Flags) → M (List (Nat × Nat × Flags) × List Emitted × Option (Nat × BitVec 8 × Word) × Flags)
  | [] => return (done, gathered, none, 0)
  | (i, x, f) :: t => do
    let sl := (← get).hart.slotAt j
    match ← attempt (emitElem sl e.sew e.rm i x) with
    | .error (c, v) => return (done, gathered, some (i, c, v), 0)
    | .ok (bytes, g) =>
      let (d, em, fl, h) ← emitStrip e j (done ++ [(i, x, f)]) (gathered ++ bytes) t
      return (d, em, fl, g ||| h)

/-- Registers that a vector result is written to: the destination and the copy of a prefix (R107). -/
def QEntry.targets (e : QEntry) : List (BitVec 6) := e.op.vdest.toList ++ (if e.op.vdest.isSome then e.copy.toList else [])

/-- Writes element results to the destination group and the copy. -/
def Hart.writeElems (h : Hart) (e : QEntry) (w8 n : Nat) (l : List (Nat × Nat)) : Hart :=
  match e.op with
  | .widen .. => e.targets.foldl (fun h v => l.foldl (fun h p => h.putGroup v w8 n p.1 p.2) h) h
  | _ => e.targets.foldl (fun h v => h.setVr v (putElems (h.vr v) n l)) h

/-- The width of the elements that an instruction writes. -/
def VOp.width (sew : BitVec 4) : VOp → Nat
  | .widen .. => 2 * sewBits sew
  | .qblk i8 .. => if i8 then 8 else 4
  | _ => sewBits sew

/-- The mask register that an instruction writes, and whether a prefix copies it (R28, R67, R181). -/
def VOp.maskDest : VOp → Option (BitVec 3 × Bool)
  | .cmp _ kd _ _ _ => some (kd, true)
  | .mask _ kd _ _ _ => some (kd, true)
  | .confl kd _ _ => some (kd, true)
  | .cvt .. => some (7, false)
  | .qblk .. => some (7, false)
  | .dqblk .. => some (7, false)
  | _ => none

/-- Writes mask results (R28, R47, R107). -/
def Hart.writeBits (h : Hart) (e : QEntry) (l : List (Nat × Bool)) : Hart :=
  match e.op.maskDest with
  | none => h
  | some (kd, copies) =>
    if l.isEmpty then h
    else
      let h1 := h.setMask kd (putBits (h.mask kd) l)
      match e.copy with
      | some c => if copies then h1.setMask (c.setWidth 3) (putBits (h.mask (c.setWidth 3)) l) else h1
      | none => h1

/-- Waits until a strip of some bytes does not overfill the reservation of its slot (R328): one larger than the whole reservation goes when nothing else is
held there. -/
def emitRoom (j : BitVec 3) (n : Nat) : M Unit := do
  let sl := (← get).hart.slotAt j
  let held := (sl.emitted.map List.length).sum
  if held = 0 || decide (held + n ≤ sl.depth * 4096) then pure () else wait (.park .stalled)

/-- The strand with element results and mask bits of an entry, and their flags, committed (R39, R47). -/
def Hart.take (h : Hart) (e : QEntry) (w8 : Nat) (elems : List (Nat × Nat × Flags)) (bits : List (Nat × Bool × Flags)) (f : Flags) : Hart :=
  let h1 := (h.writeElems e w8 (e.op.width e.sew) (elems.map fun p => (p.1, p.2.1))).writeBits e (bits.map fun p => (p.1, p.2.1))
  h1.vuFlags (elems.foldl (fun g p => g ||| p.2.2) (bits.foldl (fun g p => g ||| p.2.2) f))

/-- Commits a result whose strip slot j takes, of the elements that the instruction writes (R333 says each active one: DESIGN CHOICE, log 103). An instruction
that restarts from element 0 leaves nothing where an element fails (R49, R50). -/
def commitEmit (e : QEntry) (r : Ready) (res : VResult) (j : BitVec 3) : M Bool := do
  let (done, bytes, fl, g) ← emitStrip e j [] [] res.elems
  emitRoom j bytes.length
  if fl.isSome && e.op.restarts then
    modHart fun h => h.setMask 7 r.k7
    conclude e (r.failAt fl)
  else
    let bits := match fl with
      | some (i, _) => res.bits.filter fun p => decide (p.1 < i)
      | none => res.bits
    modHart fun h => (h.modSlot j fun sl => if bytes.isEmpty then sl else { sl with emitted := sl.emitted ++ [bytes] }).take e r.env.w8 done bits
      (g ||| res.flags)
    conclude e (r.failAt fl)

/-- Commits a result, and concludes. A scalar result is written only by an instruction that completes (R184); one that restarts from element 0 leaves
nothing where a fetch has failed (R49, R50). -/
def commit (e : QEntry) (r : Ready) (res : VResult) : M Bool := do
  if r.fail.isSome && e.op.restarts then conclude e r
  else
    match emitsTo (← get).hart e with
    | some j => commitEmit e r res j
    | none =>
      modHart fun h =>
        let h1 := h.take e r.env.w8 res.elems res.bits res.flags
        let h2 := match e.op.vdest2 with
          | some v => h1.setVr v (putElems (h1.vr v) 8 res.second)
          | none => h1
        if r.fail.isSome then h2
        else match e.op.scalarDest, res.scalar with
          | some d, some x => h2.vuScalar e d x
          | _, _ => h2
      conclude e r

/-- Runs an instruction that accesses no memory of its own. -/
def runElems (e : QEntry) (units : Option Nat) : M Bool := do
  let r ← prepare e units
  commit e r (r.env.compute e.op)

/-! ### Loads and stores (R173 to R177, R276) -/

/-- The size in bits of a memory element (R174). -/
def memBits (sew : BitVec 4) (mw : BitVec 2) : Nat := sewBits sew / 2 ^ mw.toNat

/-- The narrower memory type of a load with mw ≠ 0 (R174). -/
def narrowType (sew : BitVec 4) (mw : BitVec 2) : BitVec 4 :=
  if sewIsInt sew then sew - BitVec.ofNat 4 (2 * mw.toNat)
  else
    match sew, mw with
    | 8#4, _ => 12
    | 9#4, _ => 13
    | 10#4, 1#2 => 8
    | 10#4, _ => 12
    | 11#4, 1#2 => 10
    | _, _ => 8

/-- A loaded value widened to the element type; a NaN becomes the canonical one, and no flag is set (R174). -/
def widenLoad (sew : BitVec 4) (mw : BitVec 2) (x : Nat) : Nat :=
  if mw = 0 then x else (convElem (narrowType sew mw) sew rne x 0x7F).1

/-- The number of fields of an access. -/
def VAddr.fields : VAddr → Nat
  | .segment nf => nf
  | _ => 1

/-- The address of field f of element i (R173); of an mxf4 element, that of its byte. -/
def elemAddr (env : VEnv) (k : VAddr) (base : Word) (bits i f : Nat) : Word :=
  let m := bits / 8
  match k with
  | .unit => base + BitVec.ofNat 64 (if bits = 4 then i / 2 else i * m)
  | .strided st => base + BitVec.ofNat 64 i * st
  | .indexed vb => base + BitVec.ofNat 64 (env.el vb i * m)
  | .segment nf => base + BitVec.ofNat 64 ((i * nf + f) * m)

/-- The fields f, …, f + n − 1 of element i, with the values of a store (0 for a load). -/
def fieldParts (env : VEnv) (k : VAddr) (base : Word) (bits i f : Nat) (x : Nat → Nat) : Nat → List Part
  | 0 => []
  | n + 1 =>
    { va := elemAddr env k base bits i f, n := if bits = 4 then 1 else bits / 8, x := x f, nibble := none }
      :: fieldParts env k base bits i (f + 1) x n

/-- An element to load. -/
def loadItem (e : QEntry) (env : VEnv) (k : VAddr) (base : Word) (mw : BitVec 2) (i : Nat) : Item :=
  { index := i, align := none, parts := fieldParts env k base (memBits e.sew mw) i 0 (fun _ => 0) k.fields }

/-- A loaded value as an element: an mxf4 element is its nibble of the byte, another is widened (R27, R174). -/
def loadedElem (e : QEntry) (mw : BitVec 2) (i x : Nat) : Nat := if e.sew = 14#4 then (x >>> (4 * (i % 2))) % 16 else widenLoad e.sew mw x

/-- The strand with the fields of loaded elements in the registers of their group (R173). -/
def Hart.putFields (h : Hart) (vd : BitVec 6) (b : Nat) (l : List (Nat × List Nat)) : Hart :=
  l.foldl (fun h p => (numbered 0 p.2).foldl (fun h q =>
    let r := vd + BitVec.ofNat 6 q.1
    h.setVr r (setElem (h.vr r) b p.1 q.2)) h) h

/-- The flags of the strips that elements have taken their operands from (R39, R330). -/
def flagsOfElems (env : VEnv) (l : List Nat) : Flags := l.foldl (fun g i => g ||| env.flagsIn i) 0

/-- Runs a vector load: the elements below the first failure are complete, the others untouched (R176, R276). -/
def runLoad (e : QEntry) (units : Option Nat) (k : VAddr) (vd : BitVec 6) (base : Word) (mw : BitVec 2) : M Bool := do
  let r ← prepare e units
  let (got, fl) ← loadItems (r.env.act.map (loadItem e r.env k base mw))
  let vals := got.map fun p => (p.1, p.2.map (loadedElem e mw p.1))
  if k.fields = 1 then
    commit e (r.failAt fl) { VResult.none with elems := vals.map fun p => (p.1, p.2.headD 0, r.env.flagsIn p.1) }
  else
    modHart fun h => (h.putFields vd r.env.b vals).vuFlags (flagsOfElems r.env (vals.map (·.1)))
    conclude e (r.failAt fl)

/-- The bytes that a store of mxf4 elements writes: one of which both elements are active is written whole, of another one nibble (R175). -/
def nibbleItems (env : VEnv) (vd : BitVec 6) (base : Word) : List Nat → List Item
  | [] => []
  | [i] => [{ index := i, align := none,
              parts := [{ va := elemAddr env .unit base 4 i 0, n := 1, x := elemOf (env.src vd) 4 i, nibble := some (i % 2) }] }]
  | i :: j :: t =>
    let x := elemOf (env.src vd) 4 i
    let part (x : Nat) (k : Option Nat) : Item := { index := i, align := none, parts := [{ va := elemAddr env .unit base 4 i 0, n := 1, x := x, nibble := k }] }
    if i % 2 = 0 ∧ j = i + 1 then part (x + 16 * elemOf (env.src vd) 4 j) none :: nibbleItems env vd base t
    else part x (some (i % 2)) :: nibbleItems env vd base (j :: t)

/-- The elements that a vector store writes, in order (R173, R175). -/
def storedItems (e : QEntry) (env : VEnv) (k : VAddr) (vd : BitVec 6) (base : Word) : List Item :=
  if e.sew = 14#4 then nibbleItems env vd base env.act
  else env.act.map fun i =>
    { index := i, align := none
      parts := fieldParts env k base env.b i 0 (fun f => elemOf (env.src (vd + BitVec.ofNat 6 f)) env.b i) k.fields }

/-- Runs a vector store: the elements below the first failure are complete, and no byte of the others is written (R176, R177, R276). -/
def runStore (e : QEntry) (units : Option Nat) (k : VAddr) (vd : BitVec 6) (base : Word) : M Bool := do
  let r ← prepare e units
  let r' := r.failAt (← storeItems (storedItems e r.env k vd base))
  modHart fun h => h.vuFlags (flagsOfElems r.env (r.env.act.filter fun i => decide (i < r'.stop)))
  conclude e r'

end Sys2Proof.Machine
end

