-- ==== Sys2Proof/Machine/Tile.lean ====
section
/-! DEFINITION. The tile unit (spec/08): shapes (R188, R194), operand buffers and their loads (R187, R196, R197; spec/14 R280), the multiplies
(R198 to R200; spec/03 R72 to R74, R78, R79), and the stores and moves of accumulators (R201, R202). -/

namespace Sys2Proof.Machine

/-- The greatest extents of a shape type: TM, TN, TK (R188). -/
def shapeMax (t : BitVec 4) : Nat × Nat × Nat :=
  match t with
  | 8#4 | 9#4 => (128, 64, 128)
  | 14#4 => (128, 64, 512)
  | 11#4 => (64, 32, 64)
  | _ => (128, 64, 256)

/-- P: the bytes of a row of A and of a column of B (R187). -/
def rowPitch (t : BitVec 4) : Nat := if t = 11#4 then 512 else 256

/-- VSTART ≠ 0 traps ILL for a tile instruction that restarts (R50). -/
def tileStart (e : QEntry) : M Unit := do if (← get).hart.vstart != 0 then ill e.word else pure ()

/-- tshape (R194) -/
def runTshape (e : QEntry) (x : Word) : M Bool := do
  tileStart e
  if x.extractLsb' 32 32 ≠ 0 then ill e.word
  else
    let (m, n, k) := shapeMax e.sew
    modHart fun h => { h with
      tm := BitVec.ofNat 8 (min (bitsAt x.toNat 0 8) m)
      tn := BitVec.ofNat 7 (min (bitsAt x.toNat 8 8) n)
      tk := BitVec.ofNat 10 (min (bitsAt x.toNat 16 16) k)
      tkType := e.sew }
    return true

/-- An accumulator. -/
def Hart.acc (h : Hart) (z : BitVec 2) : Acc := h.z[z.toNat]'z.isLt

/-- The strand with an accumulator replaced. -/
def Hart.setAcc (h : Hart) (z : BitVec 2) (x : Acc) : Hart := { h with z := h.z.set z.toNat x z.isLt }

/-- An accumulator written, and the copy of a prefix: the cells that the instruction writes (R107). -/
def Hart.writeAcc (h : Hart) (e : QEntry) (z : BitVec 2) (f : Acc → Acc) : Hart :=
  let h1 := h.setAcc z (f (h.acc z))
  match e.copy with
  | some c => h1.setAcc (c.setWidth 2) (f (h.acc (c.setWidth 2)))
  | none => h1

/-- tzero (R195) -/
def runTzero (e : QEntry) (zd : BitVec 2) : M Bool := do
  tileStart e
  modHart fun h => h.writeAcc e zd fun _ => 0
  return true

/-! ### Operand loads -/

/-- n parts of m bytes from an address up. -/
def rowParts (va : Word) (m n : Nat) (x : Nat → Nat) : List Part :=
  (List.range n).map fun k => { va := va + BitVec.ofNat 64 (m * k), n := m, x := x k, nibble := none }

/-- A row of a tile load: its elements, and for mxf4 its scales (R196). -/
def tileRowItem (ty : BitVec 4) (k r : Nat) (va : Word) : Item :=
  if ty = 14#4 then
    { index := r, align := none
      parts := rowParts va 1 (ceilDiv k 2) (fun _ => 0) ++ rowParts (va + BitVec.ofNat 64 (ceilDiv k 2)) 1 (ceilDiv k 32) fun _ => 0 }
  else
    let m := sewBits ty / 8
    { index := r, align := some (va, m), parts := rowParts va m k fun _ => 0 }

/-- The number that values of m bytes spell, the first low. -/
def packed (m : Nat) (l : List Nat) : Nat := l.foldr (fun x y => x + y <<< (8 * m)) 0

/-- What a row of a tile load holds: its elements and its scales. -/
def tileRowOf (ty : BitVec 4) (k : Nat) (l : List Nat) : Nat × Nat :=
  if ty = 14#4 then (packed 1 (l.take (ceilDiv k 2)), packed 1 (l.drop (ceilDiv k 2))) else (packed (sewBits ty / 8) l, 0)

/-- Row r of an operand buffer and of its scale buffer written: K elements and ceil(K / 32) scales (R187, R196). -/
def Hart.putRow (h : Hart) (b : Bool) (ty : BitVec 4) (k r : Nat) (row : Nat × Nat) : Hart :=
  let bits := k * sewBits ty
  let at_ := 8 * (r * rowPitch ty)
  let scBits := if ty = 14#4 then 8 * ceilDiv k 32 else 0
  if b then
    { h with
      bBuf := BitVec.ofNat 131072 (setBitsAt h.bBuf.toNat at_ bits row.1)
      bScale := BitVec.ofNat 8192 (setBitsAt h.bScale.toNat (128 * r) scBits row.2) }
  else
    { h with
      aBuf := BitVec.ofNat 262144 (setBitsAt h.aBuf.toNat at_ bits row.1)
      aScale := BitVec.ofNat 16384 (setBitsAt h.aScale.toNat (128 * r) scBits row.2) }

/-- The address of row r (R196, R201). -/
def rowAddr (base stride : Word) (r : Nat) : Word := base + BitVec.ofNat 64 r * stride

/-- Loads rows lo to hi − 1: those below the first failure, and the failure (R196, R276). -/
def loadRows (h : Hart) (base stride : Word) (lo hi : Nat) : M (List (Nat × Nat × Nat) × Option Failure) := do
  let (got, fl) ← loadItems ((span lo hi).map fun r => tileRowItem h.tkType h.tk.toNat r (rowAddr base stride r))
  return (got.map fun p => (p.1, tileRowOf h.tkType h.tk.toNat p.2), fl)

/-- Rows put into an operand buffer. -/
def Hart.putRows (b : Bool) (rows : List (Nat × Nat × Nat)) (h : Hart) : Hart := rows.foldl (fun g p => g.putRow b h.tkType h.tk.toNat p.1 p.2) h

/-- The rows of an operand buffer (R194). -/
def Hart.rowsOf (h : Hart) (b : Bool) : Nat := if b then h.tn.toNat else h.tm.toNat

/-- The end of an instruction that works by rows: it traps at a failed row, stops short, or is complete (R49, R276, R368). -/
def endRows (fl : Option Failure) (lo hi rows : Nat) : M Bool := do
  match fl with
  | some (i, c, v) =>
    setVstart i
    trap c v
  | none =>
    let cut := decide (hi < rows ∧ lo < rows)
    setVstart (if cut then hi else 0)
    return !cut

/-- tlda and tldb (R196), to the end or for some rows. -/
def runTld (units : Option Nat) (b : Bool) (base stride : Word) : M Bool := do
  let h := (← get).hart
  let rows := h.rowsOf b
  let lo := h.vstart.toNat
  let hi := match units with | some n => min rows (lo + n) | none => rows
  let (got, fl) ← loadRows h base stride lo hi
  modHart (Hart.putRows b got)
  endRows fl lo hi rows

/-- A chunk that receives delivered rows if it runs on a core of the target set (R280); a pair's tile state is its even core's. -/
def deliver (n : BitVec 6) (gang : Bool) (targets : List Nat) (f : Hart → Hart) (h : Hart) : Hart :=
  let c := coreOfSlot n gang h.slot
  if targets.contains c || (gang && targets.contains (c + 1)) then f h else h

/-- Delivers rows to the cores of the cluster other than the issuer (R280). -/
def deliverAll (s : State) (targets : List Nat) (f : Hart → Hart) : State :=
  let c := clusterOf s.cur
  let d := dieOf s.cur
  let mine := s.hart
  let step (t : State) (n : BitVec 6) : State :=
    t.modRingAt n fun r => { r with chunks := r.chunks.map (deliver n r.gang targets f) }
  { (step (step s (d ++ c ++ 0#1)) (d ++ c ++ 1#1)) with hart := mine }

/-- tlda.mc and tldb.mc (R197, R280): every row is checked before any buffer is written; Keystone-only. Where a target core is refused and a row fails
too, the target decides: the spec gives no order (DESIGN CHOICE, log 88). -/
def runTldMc (e : QEntry) (b : Bool) (base stride mc : Word) : M Bool := do
  keystoneOnly
  tileStart e
  if mc.extractLsb' 16 48 ≠ 0 then ill e.word
  else
    let s ← get
    let me := selfCore s
    let targets := (List.range 16).filter fun j => mc.getLsbD j && j != me
    if targets.all fun j => coreExists s (dieOf s.cur) (clusterOf s.cur) j && coreRuns s (dieOf s.cur) (clusterOf s.cur) j s.ring.jid then
      match ← loadRows s.hart base stride 0 (s.hart.rowsOf b) with
      | (_, some (_, c, v)) => trap c v
      | (got, none) =>
        -- every core of the set lays the rows out by the issuer's shape
        let put (g : Hart) : Hart := got.foldl (fun g p => g.putRow b s.hart.tkType s.hart.tk.toNat p.1 p.2) g
        modify fun s => deliverAll s targets put
        modHart put
        return true
    else trap causeACCESS mc

/-! ### Operand elements -/

/-- Element (m, k) of A, or of column m of B (R187). -/
def bufElem (buf : Nat) (ty : BitVec 4) (m k : Nat) : Nat := (buf >>> (8 * m * rowPitch ty + k * sewBits ty)) % 2 ^ sewBits ty

/-- The scale of block j of a row (R187). -/
def scaleElem (sc m j : Nat) : Nat := bitsAt sc (128 * m + 8 * j) 8

/-- A floating-point operand with its scale; an element of a block of scale 0xFF is zero (R68, R198). -/
def tileVal (ty : BitVec 4) (x scale : Nat) : FVal :=
  if ty = 14#4 then (if scale = 0xFF then .fin false 0 0 else scaledElem false x scale)
  else ((sewFmt ty).getD fmtHalf).decode x

/-- What a product of two operands is: a finite datum, or not (R73). -/
def productVal (x y : FVal) : FVal × Flags :=
  match x, y with
  | .fin a m e, .fin b n g => (.fin (a != b) (m * n) (e + g), 0)
  | .nan _, _ => (.nan false, x.nv ||| y.nv)
  | _, .nan _ => (.nan false, x.nv ||| y.nv)
  | .inf a, .inf b => (.inf (a != b), 0)
  | .inf a, .fin b m _ => if m = 0 then (.nan false, flagNV) else (.inf (a != b), 0)
  | .fin a m _, .inf b => if m = 0 then (.nan false, flagNV) else (.inf (a != b), 0)

/-- E of R72: the greatest floor(log2) of the nonzero finite products. -/
def greatestLog : List FVal → Option Int
  | [] => none
  | .fin _ m e :: t =>
    if m = 0 then greatestLog t
    else match greatestLog t with
      | some l => some (max l (magLog m e))
      | none => some (magLog m e)
  | _ :: t => greatestLog t

/-- floor(m × 2^e / 2^q). -/
def truncAt (m : Nat) (e q : Int) : Nat := if q ≤ e then m <<< (e - q).toNat else m >>> (q - e).toNat

/-- The sum of a group of finite products through the 48-bit window, in units of 2^(E − 47) (R72). -/
def windowSum (q : Int) : List FVal → Int
  | [] => 0
  | .fin neg m e :: t => (if neg then -(truncAt m e q : Int) else truncAt m e q) + windowSum q t
  | _ :: t => windowSum q t

/-- The sum of a group, as a datum, and its flags: infinities of both signs set NV, whatever else the group holds (R72, R73). -/
def groupSum (ps : List (FVal × Flags)) : FVal × Flags :=
  let vs := ps.map (·.1)
  let infs := vs.filterMap fun v => match v with | .inf n => some n | _ => none
  let nv := ps.foldl (fun g p => g ||| p.2) 0 ||| flagIf (infs.contains true && infs.contains false) flagNV
  if vs.any FVal.isNan || (infs.contains true && infs.contains false) then (.nan false, nv)
  else
    match infs with
    | n :: _ => (.inf n, nv)
    | [] =>
      match greatestLog vs with
      | none => (.fin false 0 0, nv)
      | some l =>
        let g := windowSum (l - 47) vs
        (.fin (decide (g < 0)) g.natAbs (l - 47), nv)

/-- One group added to an fp32 cell (R72, R73). -/
def addGroup (cell : Nat) (g : FVal × Flags) : Nat × Flags :=
  let r := addVal fmtSingle rne (fmtSingle.decode cell) g.1
  (r.1, r.2 ||| g.2)

/-- The operands that a multiply reads. -/
structure TileIn where
  ty : BitVec 4
  k : Nat
  a : Nat
  b : Nat
  aS : Nat
  bS : Nat

/-- The positions of K-group g (R72, R198). -/
def groupSpan (t : TileIn) (g : Nat) : List Nat := span (32 * g) (min (32 * g + 32) t.k)

/-- K-groups g, …, g + n − 1 of a floating-point cell (R198). -/
def fpCell (t : TileIn) (m n : Nat) (cell : Nat) (g : Nat) : Nat → Nat × Flags
  | 0 => (cell, 0)
  | c + 1 =>
    let ps := (groupSpan t g).map fun k =>
      productVal (tileVal t.ty (bufElem t.a t.ty m k) (scaleElem t.aS m (k / 32)))
        (tileVal t.ty (bufElem t.b t.ty n k) (scaleElem t.bS n (k / 32)))
    let r := addGroup cell (groupSum ps)
    let q := fpCell t m n r.1 (g + 1) c
    (q.1, r.2 ||| q.2)

/-- K-groups g to hi − 1 of an si8 cell (R74, R198). -/
def intCell (t : TileIn) (sat : Bool) (m n cell g hi : Nat) : Nat :=
  let total := (span (32 * g) (min (32 * hi) t.k)).foldl
    (fun x k => x + signedOf 8 (bufElem t.a t.ty m k) * signedOf 8 (bufElem t.b t.ty n k)) (signedOf 32 cell)
  wrapInt 32 (if sat then (saturate true 32 total).1 else total)

/-! ### Split precision (R78, R79) -/

/-- The slices σ_0, …, σ_(S−1) of a 7S-bit magnitude. -/
def slices (s q : Nat) : List Nat := (List.range s).map fun i => bitsAt q (7 * (s - 1 - i)) 7

/-- The signs and slices of a segment, and its E (R78); an all-zero segment has none. -/
def segment (s : Nat) (vs : List FVal) : Option (Int × List (Bool × List Nat)) :=
  match greatestLog vs with
  | none => none
  | some l =>
    some (l, vs.map fun v => match v with
      | .fin neg m e => (neg, slices s (truncAt m e (l - (7 * s - 1 : Nat))))
      | _ => (false, slices s 0))

/-- The kept slice products of two elements, in units of 2^0 (R79). -/
def slicePairs (s : Nat) (x y : List Nat) : Nat :=
  ((numbered 0 x).map fun p => ((numbered 0 y).map fun q =>
    if p.1 + q.1 ≤ s - 1 then (p.2 * q.2) <<< (7 * (2 * s - 2 - p.1 - q.1)) else 0).sum).sum

/-- The exact P of a group (R79). -/
def splitSum (s : Nat) : List (Bool × List Nat) → List (Bool × List Nat) → Int
  | (n1, x) :: t, (n2, y) :: u =>
    let p : Int := slicePairs s x y
    (if n1 != n2 then -p else p) + splitSum s t u
  | _, _ => 0

/-- One group of an fp64 element (R79). -/
def splitGroup (s : Nat) (cell : Nat) (xs ys : List FVal) : Nat × Flags :=
  if anySpecial xs || anySpecial ys then (fmtDouble.nan, flagNV)
  else
    let v : FVal × Flags :=
      match segment s xs, segment s ys with
      | some (ea, x), some (eb, y) =>
        let p := splitSum s x y
        if p = 0 then (.fin false 0 0, 0)
        else
          let r := roundTo fmtDouble rne { neg := decide (p < 0), m := p.natAbs, e := ea + eb - 2 * (7 * s - 1 : Nat), sticky := false }
          (fmtDouble.decode r.1, r.2)
      | _, _ => (.fin false 0 0, 0)
    let r := addVal fmtDouble rne (fmtDouble.decode cell) v.1
    (r.1, r.2 ||| v.2)

/-- K-groups g, …, g + n − 1 of an fp64 element (R200). -/
def splitCell (t : TileIn) (s m n : Nat) (cell : Nat) (g : Nat) : Nat → Nat × Flags
  | 0 => (cell, 0)
  | c + 1 =>
    let xs := (groupSpan t g).map fun k => fmtDouble.decode (bufElem t.a t.ty m k)
    let ys := (groupSpan t g).map fun k => fmtDouble.decode (bufElem t.b t.ty n k)
    let r := splitGroup s cell xs ys
    let q := splitCell t s m n r.1 (g + 1) c
    (q.1, r.2 ||| q.2)

/-- The element index of (m, n) in an accumulator, in units of its width (R187). -/
def accIndex (double : Bool) (m n : Nat) : Nat := if double then 32 * m + n else 64 * m + n

/-- Groups lo to hi − 1 of every element of the TM × TN block (R198, R200). -/
def tileBlock (t : TileIn) (k : TMul) (s tm tn lo hi : Nat) (z : Acc) : Acc × Flags :=
  let w := if k = TMul.sx then 64 else 32
  (List.range tm).foldl (fun st m => (List.range tn).foldl (fun (st : Acc × Flags) n =>
    let i := accIndex (decide (k = TMul.sx)) m n
    let cell := elemOf z w i
    let r := match k with
      | .sx => splitCell t s m n cell lo (hi - lo)
      | _ => if t.ty = 0#4 then (intCell t (decide (k = TMul.sat)) m n cell lo hi, 0) else fpCell t m n cell lo (hi - lo)
    (setElem st.1 w i r.1, st.2 ||| r.2)) st) (z, 0)

/-- The shape types that a multiply admits (R198, R200). -/
def tmulAdmits (k : TMul) (ty : BitVec 4) : Bool :=
  match k with
  | .plain => ty == 0#4 || ty == 8#4 || ty == 9#4 || ty == 12#4 || ty == 13#4 || ty == 14#4
  | .sat => ty == 0#4
  | .sx => ty == 11#4

/-- tmma, tmma.sat and tmma.sx, to the end or for some K-groups (R198 to R200). -/
def runTmma (e : QEntry) (units : Option Nat) (k : TMul) (zd : BitVec 2) : M Bool := do
  let h := (← get).hart
  if !tmulAdmits k h.tkType then ill e.word
  else
    let groups := ceilDiv h.tk.toNat 32
    let lo := h.vstart.toNat
    let hi := match units with | some n => min groups (lo + n) | none => groups
    let t : TileIn := { ty := h.tkType, k := h.tk.toNat, a := h.aBuf.toNat, b := h.bBuf.toNat, aS := h.aScale.toNat, bS := h.bScale.toNat }
    if lo < hi then
      let run (z : Acc) : Acc × Flags := tileBlock t k e.slices.toNat h.tm.toNat h.tn.toNat lo hi z
      let r := run (h.acc zd)
      let idx := (List.range h.tm.toNat).flatMap fun m => (List.range h.tn.toNat).map fun n => accIndex (decide (k = TMul.sx)) m n
      let w := if k = TMul.sx then 64 else 32
      let copyCells (x : Acc) : Acc := idx.foldl (fun x i => setElem x w i (elemOf r.1 w i)) x
      modHart fun h =>
        let h1 := h.setAcc zd r.1
        let h2 := match e.copy with
          | some c => if c.setWidth 2 = zd then h1 else h1.setAcc (c.setWidth 2) (copyCells (h.acc (c.setWidth 2)))
          | none => h1
        h2.vuFlags r.2
    if hi < groups && lo < groups then
      setVstart hi
      return false
    else
      setVstart 0
      return true

/-! ### Stores and moves -/

/-- Row m of the block as tstz stores it (R201). -/
def tstzItem (z : Acc) (double : Bool) (base stride : Word) (tn m : Nat) : Item :=
  let e := if double then 8 else 4
  let va := rowAddr base stride m
  { index := m, align := some (va, e), parts := rowParts va e tn fun n => elemOf z (8 * e) (accIndex double m n) }

/-- tstz (R201), to the end or for some rows. -/
def runTstz (units : Option Nat) (zd : BitVec 2) (base stride : Word) : M Bool := do
  let h := (← get).hart
  let rows := h.tm.toNat
  let lo := h.vstart.toNat
  let hi := match units with | some n => min rows (lo + n) | none => rows
  let fl ← storeItems ((span lo hi).map (tstzItem (h.acc zd) (h.tkType == 11#4) base stride h.tn.toNat))
  endRows fl lo hi rows

/-- tmvz (R202). -/
def runTmvz (e : QEntry) (units : Option Nat) (zd : BitVec 2) (row : Word) : M Bool := do
  let r ← prepare e units
  let h := (← get).hart
  let double := r.env.b == 64
  let cols := if double then 32 else 64
  let top := if double then 63 else 127
  let lo := h.vstart.toNat
  if lo < e.vl.toNat && decide (top < row.toNat + (e.vl.toNat - 1) / cols) then ill e.word
  else
    let z := h.acc zd
    commit e r (r.env.each fun i => (elemOf z r.env.b (accIndex double (row.toNat + i / cols) (i % cols)), 0))

end Sys2Proof.Machine
end

