-- ==== Sys2Proof/Machine/Stream.lean ====
section
/-! DEFINITION. The stream engine's own instructions (spec/17 R326, R327, R337 to R342) and the engine accesses of write streams, copies and
completion records (R333, R338), with the events by which they happen when the engine lags (log 4). -/

namespace Sys2Proof.Machine

/-! ### Engine writes -/

/-- An engine's write of one byte of this module; in fill mode the word's full bit is set with it, a release, and its waiters are served (R313, R314, R317). -/
def engineByte (s : State) (pa : Nat) (x : Byte) (fill : Bool) : State :=
  let s1 := storeDirect s pa x.toNat 1
  if fill then
    let w := pa / 8 * 8
    setFull { s1 with released := carryTime s1.released w (timeNow s1) 8 } w true
  else s1

/-- The first element of a list of emitted bytes, and the rest. -/
def splitElem (l : List Emitted) : List Emitted × List Emitted :=
  match l with
  | [] => ([], [])
  | a :: _ => (l.takeWhile (·.index == a.index), l.dropWhile (·.index == a.index))

/-- A strip packet that writes the bytes of one element at another module (R333, R431). -/
def stripWritePacket (s : State) (l : List Emitted) : Packet :=
  let pa := (l.head?.map (·.pa)).getD 0
  let payload := bytesOf pa 8 ++ [1, 0, BitVec.ofNat 8 l.length, BitVec.ofNat 8 (l.length / 256)] ++ List.replicate 4 0 ++ l.map (·.byte)
  corePacket s 8 3 false (paModule pa) payload

/-- Writes the elements of an emitted strip of slot j in order (R333): at most n of them. Each element of another module goes in a strip packet of its own,
which settles what a denial of it suppresses (R431 allows several in one; DESIGN CHOICE, log 87). -/
def writeEmitted (j : BitVec 3) : Nat → List Emitted → State → State
  | 0, _, s => s
  | n + 1, l, s =>
    match splitElem l with
    | ([], _) => s
    | (a :: es, rest) =>
      let s1 :=
        if paModule a.pa = s.module then (a :: es).foldl (fun t b => engineByte t b.pa b.byte b.full) s
        else
          let s2 := queuePacket s { stripWritePacket s (a :: es) with rtag := s.nextTag }
          { s2 with
            nextTag := s2.nextTag + 1
            hart := s2.hart.modSlot j fun sl => { sl with awaits := sl.awaits ++ [(s2.nextTag, a.index, a.va)] } }
      writeEmitted j n rest s1

/-- Writes the oldest emitted strip of slot j (R333). -/
def writeStrip (s : State) (j : BitVec 3) : State :=
  match (s.hart.slotAt j).emitted with
  | [] => s
  | l :: t =>
    let s1 := writeEmitted j l.length l s
    { s1 with hart := s1.hart.modSlot j fun sl =>
      { sl with emitted := t, drains := sl.drains.map fun d => { d with strips := d.strips - 1 } } }

/-- Posts the oldest drain record of slot j once the strips before it are written (R337, R342); the slot may become free. -/
def postDrain (s : State) (j : BitVec 3) : State :=
  let sl := s.hart.slotAt j
  match sl.drains with
  | d :: t =>
    if d.strips = 0 && sl.awaits.isEmpty then
      let r := match sl.denied with
        | none => cqRecord 3 0 d.cmdNo (saturate32 d.done.toNat) 0
        | some (_, st, va) => cqRecord 3 st d.cmdNo (saturate32 d.done.toNat) va
      { s with hart := (s.hart.post r).modSlot j fun sl => if d.frees then StreamSlot.free else { sl with drains := t, denied := none } }
    else s
  | [] => s

/-- Everything that slot j has to write is written, and its records posted, as an engine that does not lag does it (log 4). -/
def settleSlot (j : BitVec 3) : Nat → State → State
  | 0, s => s
  | n + 1, s =>
    let sl := s.hart.slotAt j
    if sl.emitted.isEmpty && sl.drains.isEmpty then s else settleSlot j n (postDrain (writeStrip s j) j)

/-- The slots of the executing strand settled. -/
def settleSlots (s : State) : State :=
  allSlots.foldl (fun t j => settleSlot j ((t.hart.slotAt j).emitted.length + (t.hart.slotAt j).drains.length) t) s

/-! ### Binding (R326, R337) -/

/-- The trap, if any, for the contents of a record, in table order (R326). -/
def recordCase (h : Hart) (v : BitVec 6) (sl : StreamSlot) : Option (Option Word) :=
  let r := sl.record
  let block := sewIsBlock sl.fmt
  let m := sewBits sl.fmt / 8
  let zero := recField r 112 16 == 0 && recField r 332 52 == 0 && recField r 384 128 == 0 && (block || (sl.sbase == 0 && sl.sstride == 0))
  let j : BitVec 3 := recField r 328 3
  let held := (h.slots.toList.map fun x => if x.bound then x.depth else 0).sum
  if !zero then some none
  else if block && (sl.stride != 0 || sl.writes) then some none
  else if !sl.writes && sl.fill then some none
  else if sl.fmt = 14#4 && sl.count.getLsbD 0 && sl.writes then some none
  else if !block && decide (sl.stride.toNat % m ≠ 0) then some none
  else if sl.fmt != 14#4 && decide (sl.base.toNat % m ≠ 0) then some (some sl.base)
  else if (h.slotAt j).bound || (h.bindingOf v).isSome then some none
  else if 8 < held + sl.depth then some none
  else none

/-- A record of 64 bytes from its eight words. -/
def recordOf (ws : List Word) : BitVec 512 := BitVec.ofNat 512 (ws.foldr (fun w x => w.toNat + x * 2 ^ 64) 0)

/-- sbind (R326, R337) -/
def runSbind (e : QEntry) (v : BitVec 6) (addr : Word) : M Bool := do
  keystoneOnly
  if addr.toNat % 64 ≠ 0 then trap causeALIGN addr
  else
    let ws ← loadWords false addr 8
    let sl : StreamSlot := { StreamSlot.free with bound := true, record := recordOf ws, reg := v, vl := e.vl }
    match recordCase (← get).hart v sl with
    | some none => ill e.word
    | some (some a) => trap causeALIGN a
    | none =>
      modHart fun h => { h.modSlot (recField sl.record 328 3) (fun _ => sl) with vstart := 0 }
      return true

/-- Takes the number of a record-posting command (R342). -/
def takeCmdNo : M (BitVec 16) := do
  let n := (← get).hart.cmdNo
  modHart fun h => { h with cmdNo := h.cmdNo + 1 }
  return n

/-- Waits until a record-posting command may issue (R341). -/
def awaitRoom : M Unit := do if (← get).hart.hasRoom then pure () else wait (.park .stalled)

/-- Queues the drain record of a write stream (R337). -/
def queueDrain (j : BitVec 3) (frees : Bool) : M Unit := do
  awaitRoom
  let n ← takeCmdNo
  modHart fun h => h.modSlot j fun sl =>
    { sl with drains := sl.drains ++ [{ strips := sl.emitted.length, done := sl.pos, cmdNo := n, frees := frees }] }

/-- sunbind and sdrain (R337) -/
def runUnbind (e : QEntry) (v : BitVec 6) (frees : Bool) : M Bool := do
  keystoneOnly
  let h := (← get).hart
  match h.bindingOf v with
  | none => ill e.word
  | some j =>
    if (h.slotAt j).writes then
      modHart fun h => h.modSlot j fun sl => if frees then { sl with ipend := false } else sl
      queueDrain j frees
    else modHart fun h => h.modSlot j fun sl => if frees then StreamSlot.free else { sl with fetched := [] }
    setVstart 0
    return true

/-! ### Intersection (R339) -/

/-- A slot moved on by one element. -/
def StreamSlot.next (sl : StreamSlot) : StreamSlot := { sl with pos := sl.pos + 1 }

/-- What an interrupted intersection leaves (R339). -/
def sisectHold (write : Bool) (j : BitVec 3) (c : Nat) : M Unit :=
  if write then setVstart c
  else modHart fun h => h.modSlot j fun sl => { sl with icnt := BitVec.ofNat 32 c, ipend := true }

/-- The loop of R339: at most n steps; the count, and whether it has ended. -/
def sisectLoop (w : Option (BitVec 6)) (vl : Nat) (j m : BitVec 3) (c : Nat) : Nat → M (Nat × Bool)
  | 0 => return (c, false)
  | n + 1 => do
    let h := (← get).hart
    let a := h.slotAt j
    let b := h.slotAt m
    if a.count ≤ a.pos || b.count ≤ b.pos || (w.isSome && c == vl) then return (c, true)
    else
      let get2 : M (Nat × Nat) := do
        let x ← streamElem a a.pos.toNat false
        let y ← streamElem b b.pos.toNat false
        return (x.1, y.1)
      match ← attempt get2 with
      | .error (cd, va) =>
        sisectHold w.isSome j c
        trap cd va
      | .ok (x, y) =>
        if x < y then
          modHart fun h => h.modSlot j StreamSlot.next
          sisectLoop w vl j m c n
        else if y < x then
          modHart fun h => h.modSlot m StreamSlot.next
          sisectLoop w vl j m c n
        else
          modHart fun h =>
            let h1 := (h.modSlot j StreamSlot.next).modSlot m StreamSlot.next
            match w with
            | some v => h1.setVr v (setElem (h1.vr v) 32 c x)
            | none => h1
          sisectLoop w vl j m (c + 1) n

/-- Whether a slot holds a read binding of ui32 (R339). -/
def StreamSlot.readsUi32 (sl : StreamSlot) : Bool := sl.bound && !sl.writes && sl.fmt == 5#4

/-- sisect.c and sisect.w (R339) -/
def runSisect (e : QEntry) (units : Option Nat) (w : Option (BitVec 6)) (d : BitVec 5) (j m : BitVec 3) : M Bool := do
  beginCheck e
  let h := (← get).hart
  if j = m || !(h.slotAt j).readsUi32 || !(h.slotAt m).readsUi32 then ill e.word
  else if e.vl = 0 || (w.isSome && decide (e.vl ≤ h.vstart)) then
    modHart fun h => { h.vuScalar e d 0 with vstart := 0 }
    return true
  else
    let a := h.slotAt j
    let b := h.slotAt m
    let c := if w.isSome then h.vstart.toNat else if a.ipend then a.icnt.toNat else 0
    let all := (a.count.toNat - a.pos.toNat) + (b.count.toNat - b.pos.toNat) + 1
    let (c, ended) ← sisectLoop w e.vl.toNat j m c (match units with | some n => n | none => all)
    if ended then
      modHart fun h => { (h.vuScalar e d (BitVec.ofNat 64 c)).modSlot j fun sl => { sl with ipend := false } with vstart := 0 }
      return true
    else
      sisectHold w.isSome j c
      return false

/-! ### Copies (R338) -/

/-- The bytes of a range as parts, with the values of a copy's destination. -/
def byteParts (va : Word) (x : Nat → Nat) (n : Nat) : List Item :=
  (List.range n).map fun k => { index := k, align := none, parts := [{ va := va + BitVec.ofNat 64 k, n := 1, x := x k, nibble := none }] }

/-- The bytes to copy in order, those of another module that lie together in 256 bytes as one strip (R431, R434), whose denial is that of its first byte (R338;
DESIGN CHOICE, log 103). -/
def stripRuns (s : State) : List Planned → List (List Planned)
  | [] => []
  | a :: t =>
    match stripRuns s t with
    | (b :: g) :: rest =>
      if isRemote s a.pa && a.pa + 1 == b.pa && a.pa / 256 == b.pa / 256 then (a :: b :: g) :: rest else [a] :: (b :: g) :: rest
    | l => [a] :: l

/-- A strip packet of a copy: direction, and the bytes that a write carries (R431). -/
def copyPacket (s : State) (write : Bool) (pa n : Nat) (data : List Byte) : Packet :=
  corePacket s 8 3 false (paModule pa)
    (bytesOf pa 8 ++ [if write then 1 else 0, 0, BitVec.ofNat 8 n, BitVec.ofNat 8 (n / 256)] ++ List.replicate 4 0 ++ data)

/-- Reads a byte of this module, or a strip of another. -/
def copyReadRun (p : Planned) (n : Nat) : M (List Byte) := do
  let s ← get
  if isRemote s p.pa then
    let d ← remoteRead p.pa n (copyPacket s false p.pa n []) p.part.va
    return d.take n
  else
    let x ← readPhys p.part.va p.pa 1
    return [BitVec.ofNat 8 x]

/-- Reads the source of a copy: its bytes, or the first failure. -/
def copyRead : List (List Planned) → M (Except (BitVec 8 × Word) (List Byte))
  | [] => return .ok []
  | [] :: t => copyRead t
  | (p :: l) :: t => do
    match ← attempt (copyReadRun p (l.length + 1)) with
    | .error e => return .error e
    | .ok x =>
      match ← copyRead t with
      | .error e => return .error e
      | .ok rest => return .ok (x ++ rest)

/-- Writes a byte of this module, with the full bit after the last byte of a word in fill mode, or a strip of another (R314, R338). -/
def copyWriteRun (fill : Bool) (p : Planned) (data : List Byte) : M Unit := do
  let s ← get
  if isRemote s p.pa then
    let _ ← remoteAccess true p.pa data.length (copyPacket s true p.pa data.length data) p.part.va
    modify fun s => squashReadersOf s p.pa data.length
  else if paModule p.pa ≠ s.module || paControl p.pa then writePhys p.part.va p.pa 1 p.part.x true false
  else set (engineByte s p.pa (BitVec.ofNat 8 p.part.x) (fill && p.part.va.toNat % 8 == 7))

/-- Writes the destination of a copy in order: how many bytes were written, and the first failure. -/
def copyWrite (fill : Bool) (done : Nat) : List (List Planned) → M (Nat × Option (BitVec 8 × Word))
  | [] => return (done, none)
  | [] :: t => copyWrite fill done t
  | (p :: l) :: t => do
    match ← attempt (copyWriteRun fill p ((p :: l).map fun q => BitVec.ofNat 8 q.part.x)) with
    | .error e => return (done, some e)
    | .ok _ => copyWrite fill (done + l.length + 1) t

/-- The source of a copy read whole, and then its destination written (R338), once there are permits for it (R286): the record's status, count and address. -/
def copyBytes (fill : Bool) (dst src : Word) (len : Nat) : M (BitVec 8 × Nat × Word) := do
  let (from_, late) ← planItems .r (byteParts src (fun _ => 0) len)
  let s ← get
  match ← copyRead (stripRuns s (from_.flatMap (·.2))), late with
  | .error (st, va), _ => return (st, 0, va)
  | .ok _, some (_, _, st, va) => return (st, 0, va)
  | .ok bytes, none => do
    let (into, late) ← planItems .w (byteParts dst (fun k => (bytes.getD k 0).toNat) len)
    let s ← get
    if !((into.flatMap (·.2)).all fun p => isRemote s p.pa || permitsFor s p.pa 1) then wait (.park .stalled)
    let (done, fl) ← copyWrite fill 0 (stripRuns s (into.flatMap (·.2)))
    match fl, late with
    | some (st, va), _ => return (st, done, va)
    | none, some (_, _, st, va) => return (st, done, va)
    | none, none => return (0, done, 0)

/-- The first address of a range outside the windows that the strand may use (R338). -/
def firstOutside (s : State) (va : Word) : Nat → Option Word
  | 0 => none
  | n + 1 => if inWindowRegion va && (windowPa s va).isSome then firstOutside s (va + 1) n else some va

/-- Performs a copy and posts its record (R338, R342). -/
def runCopy (c : CopyCmd) : M Unit := do
  let kind : BitVec 8 := if c.fill then 2 else 1
  let post (st : BitVec 8) (done : Nat) (va : Word) : M Unit :=
    modHart fun h => h.post (cqRecord kind st c.cmdNo (saturate32 done) va)
  let level := (← get).hart.level
  modHart fun h => { h with level := c.level }
  (if c.len = 0 then post 0 0 0
   else if c.fill && (c.dst.toNat % 8 != 0 || c.len % 8 != 0) then post causeALIGN 0 c.dst
   else do
     let s ← get
     match if c.fill then firstOutside s c.dst c.len else none with
     | some va => post causeACCESS 0 va
     | none => do
       let (st, done, va) ← copyBytes c.fill c.dst c.src c.len
       post st done va)
  modHart fun h => { h with level := level }

/-- scopy and scopy.f (R338): issued once the queue is empty and there is room for the record. An engine that does not lag performs the
copy at once (log 4). -/
def opScopy (a b : BitVec 5) (fill : Bool) : M Unit := do
  let dst ← rdX a
  let src ← rdX b
  emptyQueue
  keystoneOnly
  awaitRoom
  let n ← takeCmdNo
  let s ← get
  let c : CopyCmd :=
    { fill := fill, dst := dst, src := src, len := ceilDiv (s.hart.sc.vl.toNat * sewBits s.hart.sc.sew) 8, cmdNo := n, level := s.hart.level }
  if s.lag then modHart fun h => { h with copies := h.copies ++ [c] } else runCopy c
  nextPc

/-- scopy (R338) -/
def execScopy (a b : BitVec 5) (s : State) : Out := runScalar (opScopy a b false) s

/-- scopy.f (R338) -/
def execScopyF (a b : BitVec 5) (s : State) : Out := runScalar (opScopy a b true) s

/-! ### The completion queue (R340, R341) -/

/-- The record-posting commands outstanding, with a management core's gang-switch commands (R379, R461). -/
def outstandingOf (s : State) : Nat :=
  match s.onMgmt with
  | some a => s.hart.outstanding + (s.gang.filter fun g => g.issuer == a && !g.far).length + (s.gangAsked.filter fun g => g.2.1 == a).length
  | none => s.hart.outstanding

/-- cqwait (R340) -/
def execCqwait (s : State) : Out :=
  runScalar (do
    emptyQueue
    keystoneOnly
    let s ← get
    if !s.hart.cq.isEmpty || outstandingOf s == 0 then nextPc else wait (.park .cqwait)) s

/-- cqpop (R340): the acquire of R315, of records of its own core, raises no floor. -/
def execCqpop (d : BitVec 4) (s : State) : Out :=
  runScalar (do
    emptyQueue
    keystoneOnly
    let s ← get
    let q := s.hart.cq
    let r := q.headD 0
    if s.hart.cqBad.getLsbD 0 then trap causeMCHK (Config.registerErrorVal s.fresh)
    modHart fun h => { h with cq := q.tail, cqBad := h.cqBad >>> 1 }
    putX (d ++ 0#1) (r.extractLsb' 0 64)
    putX (d ++ 1#1) (r.extractLsb' 64 64)
    nextPc) s

/-! ### Events of an engine that lags -/

/-- Runs an engine computation of a command of the executing strand: none if it waits for another module, with the packet sent (R332). -/
def engineRun {α : Type} (s : State) (cmd : BitVec 16) (m : M α) : State × Option α :=
  let mine (r : RemoteWait) : Bool := r.owner == cmd
  let back (t : State) : State := { t with hart := { t.hart with remote := s.hart.remote, eremote := s.hart.eremote.filter fun r => !mine r } }
  match m { s with hart := { s.hart with remote := s.hart.eremote.filter mine } } with
  | .ok a t => (back t, some a)
  | .error (.wait (.remote wr pa pkt)) _ =>
    (issueRemote s wr pa pkt fun r h => { h with eremote := h.eremote ++ [{ r with owner := cmd }] }, none)
  | .error _ _ => (s, none)

/-- STRIP_FETCH (R328): a read stream asks for the next strip ahead of POS, up to its depth and its reservation in bytes. -/
def execStripFetch (slot : BitVec 3) (s : State) : Out :=
  let sl := s.hart.slotAt slot
  let first := (sl.fetched.getLast?.map fun f => f.first + f.count).getD sl.pos.toNat
  let ahead := ceilDiv ((first - sl.pos.toNat + sl.vl.toNat) * sewBits sl.fmt) 8
  .next (if sl.bound && !sl.writes && decide (sl.fetched.length < sl.depth) && decide (ahead ≤ sl.depth * 4096) && decide (first < sl.count.toNat)
        && sl.vl != 0 then
      { s with hart := s.hart.modSlot slot fun sl => { sl with
          fetched := sl.fetched ++ [{ first := first, count := sl.vl.toNat, cells := [], bad := [] }] } }
    else s)

/-- A strip fetched with the bytes of stream elements i, …, i + n − 1 as they stand, by physical address, and their errors (R291); one whose fetch fails is left to
its consumption (R332). -/
def snapshotOf (s : State) (sl : StreamSlot) (i : Nat) : Nat → Fetched
  | 0 => { first := i, count := 0, cells := [], bad := [] }
  | n + 1 =>
    let m := if sewBits sl.fmt = 4 then 1 else sewBits sl.fmt / 8
    let rest := snapshotOf s sl (i + 1) n
    let l := if sl.count.toNat ≤ i then [] else match translate (sl.elemVa i) m .r s with
      | .ok (pa, _) _ => span pa (pa + m)
      | .error _ _ => []
    { first := i, count := n + 1
      cells := l.foldl (fun c a => recSet c a (memGet s.mem a)) rest.cells
      bad := (l.filter s.bad.contains).foldl insertNat rest.bad }

/-- STRIP_FETCH_DONE (R332): the oldest fetch of a slot still under way completes. -/
def execStripFetchDone (slot : BitVec 3) (s : State) : Out :=
  let sl := s.hart.slotAt slot
  .next { s with hart := s.hart.modSlot slot fun sl' =>
    { sl' with fetched := (sl.fetched.takeWhile fun f => !f.cells.isEmpty) ++
        match sl.fetched.dropWhile fun f => !f.cells.isEmpty with
        | [] => []
        | f :: t => snapshotOf s sl f.first f.count :: t } }

/-- STRIP_WRITE (R333) -/
def execStripWrite (slot : BitVec 3) (s : State) : Out := .next (writeStrip s slot)

/-- DRAIN_RECORD_POST (R337) -/
def execDrainRecordPost (slot : BitVec 3) (s : State) : Out := .next (postDrain s slot)

/-- SCOPY_RECORD_POST (R338): the oldest copy in flight finishes and posts its record. -/
def execScopyRecordPost (s : State) : Out :=
  match s.hart.copies with
  | [] => .next s
  | c :: t =>
    match engineRun { s with hart := { s.hart with copies := t } } c.cmdNo (runCopy c) with
    | (s1, some _) => .next s1
    | (s1, none) => .next { s1 with hart := { s1.hart with copies := s.hart.copies } }

/-- CQ_CAPACITY_WAKE (R341): with room in the completion queue, what was stalled for it may issue. -/
def execCqCapacityWake (s : State) : Out :=
  .next (if s.hart.hasRoom && s.hart.park == .stalled then { s with hart := { s.hart with park := .running } } else s)

end Sys2Proof.Machine
end

