-- ==== Sys2Proof/Machine/Pier.lean ====
section
/-! DEFINITION. Pier engines (spec/18): chase, pgather and walk, the steps of their walkers, results in fill mode, and completion records, with
the events by which they happen when the engines lag (log 4). -/

namespace Sys2Proof.Machine

/-! ### Parameters of a command -/

/-- HOPS (R351, R355) -/
def PierCmd.hops (c : PierCmd) : Nat :=
  if c.kind = 5 then (c.param.extractLsb' 144 8).toNat else if c.kind = 4 then (c.param.extractLsb' 0 8).toNat else 0

/-- OFF of chase and pgather (R351) -/
def PierCmd.off (c : PierCmd) : Word := (c.param.extractLsb' 8 12).setWidth 64

/-- MODE 1 of chase: the 32 bytes at the final pointer (R351) -/
def PierCmd.payload (c : PierCmd) : Bool := c.kind == 6 || c.param.getLsbD 20

/-- OFFBASE (R355) -/
def PierCmd.offbase (c : PierCmd) : Word := c.graph.extractLsb' 0 64
/-- NBRBASE -/
def PierCmd.nbrbase (c : PierCmd) : Word := c.graph.extractLsb' 64 64
/-- NCOUNT -/
def PierCmd.ncount (c : PierCmd) : Nat := (c.graph.extractLsb' 128 32).toNat
/-- SEED -/
def PierCmd.seed (c : PierCmd) : Word := c.param.extractLsb' 0 64
/-- STARTS -/
def PierCmd.starts (c : PierCmd) : Word := c.param.extractLsb' 64 64
/-- WBASE -/
def PierCmd.wbase (c : PierCmd) : BitVec 32 := c.param.extractLsb' 192 32

/-- The size of a result entry (R348, R352, R357). -/
def PierCmd.entry (c : PierCmd) : Nat := if c.kind = 5 then 4 else if c.payload then 32 else 8

/-- The result bytes of each walker. -/
def PierCmd.bytes (c : PierCmd) : Nat := if c.kind = 5 then (c.hops + 1) * 4 else c.entry

/-- The marker of an entry that a failed walker has not written (R348). -/
def PierCmd.marker (c : PierCmd) : List Byte := if c.kind = 5 then [0xFE, 0xFF, 0xFF, 0xFF] else List.replicate c.entry 0xFF

/-! ### One step of a walker (R353, R354, R357) -/

/-- The index of the neighbour that walker w takes at hop h among deg (R357). -/
def walkIndex (seed : Word) (g h : Word) (deg : Nat) : Nat :=
  let x := seed ^^^ (g * 0x9E3779B97F4A7C15) ^^^ (h * 0xC2B2AE3D27D4EB4F)
  let x := x ^^^ (x >>> 33)
  let x := x * 0xFF51AFD7ED558CCD
  let x := x ^^^ (x >>> 33)
  let x := x * 0xC4CEB9FE1A85EC53
  let x := x ^^^ (x >>> 33)
  ((x >>> 32).toNat * deg) >>> 32

/-- The address of the neighbour that a walker of a walk reads next (R357). -/
def PierCmd.neighbour (c : PierCmd) (w : Walker) : Word :=
  let g : Word := c.wbase.setWidth 64 + w.index.setWidth 64
  let ix := walkIndex c.seed g (w.hops.setWidth 64) (w.o1 - w.o0).toNat
  c.nbrbase + 4 * (w.o0 + BitVec.ofNat 64 ix)

/-- The next read of a walker: its address and size, which is also its alignment. -/
def PierCmd.nextRead (c : PierCmd) (w : Walker) : Option (Word × Nat) :=
  if w.finished then none
  else if c.kind = 5 then
    match w.phase with
    | 0 => some (c.starts + 4 * w.index.setWidth 64, 4)
    | 1 => some (c.offbase + 8 * w.ptr, 8)
    | 2 => some (c.offbase + 8 * w.ptr + 8, 8)
    | _ => some (c.neighbour w, 4)
  else if c.kind = 6 then some (w.ptr + c.off, 32)
  else if w.hops.toNat < c.hops && w.ptr != 0 then some (w.ptr + c.off, 8)
  else if c.payload && w.ptr != 0 then some (w.ptr, 32)
  else none

/-- A walker that has determined bytes of its result. -/
def Walker.give (w : Walker) (l : List Byte) : Walker := { w with pending := w.pending ++ l }

/-- A walker of a walk at its next node (R357). -/
def PierCmd.atNode (c : PierCmd) (w : Walker) (n : Nat) (hops : BitVec 8) : Walker :=
  { w.give (bytesOf n 4) with ptr := BitVec.ofNat 64 n, hops := hops, phase := 1, o0 := 0, o1 := 0, finished := decide (c.hops ≤ hops.toNat) }

/-- A walker after the value of its read, or the address that ENGFAULT reports (R346 last row, R353, R354, R357). -/
def PierCmd.take (c : PierCmd) (w : Walker) (x : Nat) : Except Word Walker :=
  if c.kind = 5 then
    match w.phase with
    | 0 => if c.ncount ≤ x then .error (c.starts + 4 * w.index.setWidth 64) else .ok (c.atNode w x w.hops)
    | 1 => .ok { w with phase := 2, o0 := BitVec.ofNat 64 x }
    | 2 =>
      if x < w.o0.toNat || 2 ^ 32 ≤ x - w.o0.toNat then .error (c.offbase + 8 * w.ptr)
      else if x = w.o0.toNat then
        .ok { w.give (List.replicate (4 * (c.hops - w.hops.toNat)) 0xFF) with finished := true }
      else .ok { w with phase := 3, o1 := BitVec.ofNat 64 x }
    | _ => if c.ncount ≤ x then .error (c.neighbour w) else .ok (c.atNode w x (w.hops + 1))
  else if c.kind = 6 || !decide (w.hops.toNat < c.hops) then .ok { w.give (bytesOf x 32) with finished := true }
  else .ok { w with ptr := BitVec.ofNat 64 x, hops := w.hops + 1 }

/-- A walker with no read left writes its pointer, or zeros for a null one (R353). -/
def PierCmd.close (c : PierCmd) (w : Walker) : Walker :=
  if w.finished then w
  else { w.give (if c.payload then List.replicate 32 0 else bytesOf w.ptr.toNat 8) with finished := true }

/-- The command with one walker replaced. -/
def PierCmd.put (c : PierCmd) (w : Walker) : PierCmd :=
  { c with walkers := c.walkers.map fun x => if x.index == w.index then w else x }

/-- The command after a walker has failed: markers in what it has not written; the failure with the lowest index is kept (R348, R349). -/
def PierCmd.fail (c : PierCmd) (w : Walker) (st : BitVec 8) (va : Word) : PierCmd :=
  let left := (c.bytes - w.written - w.pending.length) / c.entry
  let c1 := c.put { w.give ((List.replicate left c.marker).flatten) with finished := true }
  if c.status = 0 || w.index < c.fidx then { c1 with status := st, fva := va, fidx := w.index } else c1

/-- The command after a walker's step that did not fail. -/
def PierCmd.went (c : PierCmd) (w : Walker) : PierCmd :=
  { c.put w with done := if w.finished then c.done + 1 else c.done }

/-! ### Engine reads (R346, R347) -/

/-- The stack of a physical address of home memory: die and stack (R284). -/
def stackOf (pa : Nat) : BitVec 5 := BitVec.ofNat 3 (pa >>> 38) ++ (BitVec.ofNat 2 (pa >>> 8) : BitVec 2)

/-- The stack of an engine, and its number within its die (R480). -/
def engineStack (e : BitVec 7) : BitVec 5 := e.extractLsb' 2 5

/-- A walker's read translated and checked up to the engine's table (R346). -/
def engineAddr (c : PierCmd) (va : Word) (n : Nat) : M Nat := do
  let s ← get
  if va.toNat % n ≠ 0 then trap causeALIGN va
  else if inWindowRegion va then trap causeENGFAULT va
  else if !canonical va then trap causePAGER va
  else
    let (pa, near) ← walkFrom s.ring.jid va .r (c.level == .u) 4 0 (s.ring.ptbase.toNat <<< 17)
    if !near || paSpace1 pa || paModule pa != s.module then trap causeENGFAULT va
    else return pa

/-- A walker's read of n bytes at an engine, or of the 8 bytes of a payload's part at an offset (R346, R347). -/
def engineRead (c : PierCmd) (engine : BitVec 7) (va : Word) (n off : Nat) : M Nat := do
  let pa ← engineAddr c va n
  let s ← get
  let m : Master := { jid := s.ring.jid, module := s.module, ring := s.cur }
  let table := pierTable s (engine.extractLsb' 4 3).toNat (engine.extractLsb' 0 4).toNat
  if !spaceExists s pa || inReserve s pa n || (c.level == .u && !tableGrants s table m pa n .r) then trap causeACCESS va
  else if anyBad s (pa + off) (min n 8) then trap causeMCHK va
  else return readLE (memGet s.mem) (pa + off) (min n 8)

/-- The stack that holds a walker's next read, if it has one that translates (R345). -/
def readStack (c : PierCmd) (w : Walker) : M (Option (BitVec 5)) := do
  match c.nextRead w with
  | none => return none
  | some (va, n) =>
    match ← peekOnly (attempt (engineAddr c va n)) with
    | .ok pa => return some (stackOf pa)
    | .error _ => return none

/-- One step of a walker: a read and what follows from it, or its end. A 32-byte payload takes four reads of 8 bytes (R347). -/
def walkerStep (c : PierCmd) (w : Walker) : M PierCmd := do
  match c.nextRead w with
  | none => return c.went (c.close w)
  | some (va, n) =>
    match ← attempt (engineRead c w.engine va n w.part.length) with
    | .error (st, a) => return c.fail { w with part := [] } st a
    | .ok x =>
      let part := w.part ++ bytesOf x 8
      if n = 32 && part.length < 32 then return c.put { w with part := part }
      else
        match c.take { w with part := [] } (if n = 32 then ofBytes part else x) with
        | .error a => return c.fail w causeENGFAULT a
        | .ok w' => return c.went w'

/-! ### Results (R348) -/

/-- Whether some walker has a byte of an 8-byte word of the store still to write. -/
def PierCmd.wordOpen (c : PierCmd) (off : Nat) : Bool :=
  c.walkers.any fun w =>
    let lo := w.out.toNat + w.written
    let hi := w.out.toNat + c.bytes
    decide (lo < hi ∧ lo < off / 8 * 8 + 8 ∧ off / 8 * 8 < hi)

/-- Writes the determined bytes of a walker, at most n, each word's full bit with the last byte of the command in that word (R348). -/
def writeResults (k : Nat) (ix : BitVec 16) : Nat → PierCmd → State → PierCmd × State
  | 0, c, s => (c, s)
  | n + 1, c, s =>
    match c.walkers[k]? with
    | none => (c, s)
    | some w =>
      match w.pending with
      | [] => (c, s)
      | b :: t =>
        let off := w.out.toNat + w.written
        let c1 := { c with walkers := listSet c.walkers k { w with written := w.written + 1, pending := t } }
        writeResults k ix n c1 (engineByte s (selfStore s + off) b (!c1.wordOpen off))

/-- The place of a walker in a command. -/
def PierCmd.place (c : PierCmd) (ix : BitVec 16) : Nat := c.walkers.findIdx fun w => w.index == ix

/-- The record of a command (R349). -/
def PierCmd.record (c : PierCmd) : BitVec 128 := cqRecord c.kind c.status c.cmdNo c.done c.fva

/-! ### Commands -/

/-- Runs one walker to its end, writing what it determines. -/
def runWalker (k : Nat) : Nat → PierCmd → M PierCmd
  | 0, c => return c
  | n + 1, c =>
    match c.walkers[k]? with
    | none => return c
    | some w =>
      if w.finished then return c
      else do
        let stack := (← readStack c w).getD (engineStack w.engine)
        let w := { w with engine := stack ++ (BitVec.ofNat 2 w.index.toNat : BitVec 2), admitted := true }
        let c1 ← walkerStep (c.put w) w
        let s ← get
        let (c2, s1) := writeResults k w.index c.bytes c1 s
        set s1
        runWalker k n c2

/-- Runs the walkers of a command one after another. -/
def runWalkers (k : Nat) : Nat → PierCmd → M PierCmd
  | 0, c => return c
  | n + 1, c => do runWalkers (k + 1) n (← runWalker k (3 * c.hops + 6) c)

/-- Launches a command: it runs on, or, where the engines do not lag, it is done at once (log 4). -/
def launchPier (c : PierCmd) : M Unit := do
  if (← get).lag then modHart fun h => { h with piers := h.piers ++ [c] }
  else
    let c1 ← runWalkers 0 c.walkers.length c
    modHart fun h => h.post c1.record

/-- The lowest walker of a walk never admitted to a slot, or WCOUNT where all were; where walkers were admitted out of order, those below the highest
count as admitted (R398). -/
def PierCmd.nextWalker (c : PierCmd) : Nat :=
  if c.kind = 5 then c.walkers.foldl (fun m w => if w.admitted || w.finished then max m (w.index.toNat + 1) else m) c.next else 0

/-- A walker as it is launched. -/
def Walker.start (index : Nat) (ptr : Word) (out : Nat) : Walker :=
  { index := BitVec.ofNat 16 index, engine := 0, hops := 0, ptr := ptr, out := BitVec.ofNat 32 out, admitted := false, phase := 0,
    o0 := 0, o1 := 0, written := 0, pending := [], part := [], finished := false }

/-! ### chase and pgather (R351, R352) -/

/-- Whether the parameter word of chase or pgather is within its limits (R351). -/
def pierParamOk (gather : Bool) (par : Word) : Bool :=
  let off := (par.extractLsb' 8 12).toNat
  let ls := (par.extractLsb' 24 19).toNat
  par.extractLsb' 21 3 == 0 && par.extractLsb' 43 21 == 0
    && (if gather then par.extractLsb' 0 8 == 0 && !par.getLsbD 20 && off % 32 == 0 && ls % 32 == 0
        else off % 8 == 0 && ls % (if par.getLsbD 20 then 32 else 8) == 0)

/-- chase and pgather (R352) -/
def runPier (e : QEntry) (gather : Bool) (va : BitVec 6) (par : Word) : M Bool := do
  keystoneOnly
  beginCheck e
  let n := if gather || par.getLsbD 20 then 32 else 8
  let ls := (par.extractLsb' 24 19).toNat
  let act := activeIn (govMask (← get).hart e) 0 e.vl.toNat
  if !pierParamOk gather par || decide (524288 < ls + act.length * n) then ill e.word
  else
    awaitRoom
    let r ← prepare e none
    let outs := (numbered 0 r.env.act).map fun p => (p.2, ls + p.1 * n)
    let walkers := outs.map fun p => Walker.start p.1 (BitVec.ofNat 64 (r.env.el va p.1)) p.2
    let ok ← commit e r { VResult.none with elems := outs.map fun p => (p.1, 0x00FFFF0000000000 + p.2, r.env.flagsIn p.1) }
    let no ← takeCmdNo
    launchPier {
      kind := if gather then 6 else 4, cmdNo := no, status := 0, done := 0, fva := 0, fidx := 0, param := par.setWidth 256, graph := 0,
      walkers := walkers, level := (← get).hart.level }
    return ok

/-! ### walk (R355, R356) -/

/-- Whether the records of a walk are within their limits (step 3 of R356). -/
def walkRecordsOk (g p : BitVec 256) : Bool :=
  let ls := (p.extractLsb' 152 19).toNat
  g.extractLsb' 160 96 == 0 && decide ((g.extractLsb' 128 32).toNat ≤ 2 ^ 32 - 2)
    && p.extractLsb' 171 21 == 0 && p.extractLsb' 224 32 == 0
    && g.extractLsb' 0 3 == 0 && g.extractLsb' 64 2 == 0 && p.extractLsb' 64 2 == 0 && decide (ls % 4 = 0)
    && decide (ls + (p.extractLsb' 128 16).toNat * ((p.extractLsb' 144 8).toNat + 1) * 4 ≤ 524288)

/-- A record of 32 bytes: ALIGN unless its address is a multiple of 32, then four loads (steps 1 and 2 of R356). -/
def walkRecord (va : Word) : M (BitVec 256) := do
  let ws ← loadWords true va 4
  return BitVec.ofNat 256 (ws.foldr (fun w x => w.toNat + x * 2 ^ 64) 0)

/-- walk (R356) -/
def execWalk (a b : BitVec 5) (s : State) : Out :=
  runScalar (do
    let ga ← rdX a
    let pa ← rdX b
    emptyQueue
    keystoneOnly
    awaitRoom
    aligned ga 32
    aligned pa 32
    let g ← walkRecord ga
    let p ← walkRecord pa
    if !walkRecordsOk g p then ill (wordR 0x38 0 a b (9 <<< 6))
    else
      let hops := (p.extractLsb' 144 8).toNat
      let ls := (p.extractLsb' 152 19).toNat
      let no ← takeCmdNo
      launchPier {
        kind := 5, cmdNo := no, status := 0, done := 0, fva := 0, fidx := 0, param := p, graph := g,
        walkers := (List.range (p.extractLsb' 128 16).toNat).map fun w => Walker.start w 0 (ls + w * (hops + 1) * 4)
        level := (← get).hart.level }
      nextPc) s

/-! ### Events of engines that lag -/

/-- The strands of the module, with the executing one as it stands. -/
def allHarts (s : State) : List Hart := allRings.flatMap fun n => ((putBack s).rings[n.toNat]'n.isLt).chunks

/-- The walkers that hold slots of an engine (R345). -/
def engineUse (s : State) (e : BitVec 7) : Nat :=
  ((allHarts s).map fun h => (h.piers.map fun c =>
    (c.walkers.filter fun w => w.admitted && !w.finished && w.engine == e).length).sum).sum

/-- The engines of a stack with a free slot, of 256 (R345). -/
def freeEngines (s : State) (st : BitVec 5) : List (BitVec 7) :=
  ((List.range 4).map fun i => st ++ BitVec.ofNat 2 i).filter fun e => decide (engineUse s e < 256)

/-- A command in flight of the executing strand, and a walker of it. -/
def findWalker (s : State) (cmd ix : BitVec 16) : Option (PierCmd × Walker) :=
  match s.hart.piers.find? fun c => c.cmdNo == cmd with
  | none => none
  | some c => (c.walkers.find? fun w => w.index == ix).map fun w => (c, w)

/-- The executing strand with a command replaced. -/
def putPier (s : State) (c : PierCmd) : State :=
  { s with hart := { s.hart with piers := s.hart.piers.map fun x => if x.cmdNo == c.cmdNo then c else x } }

/-- The stack of a walker's next read as a value. -/
def stackNext (s : State) (c : PierCmd) (w : Walker) : Option (BitVec 5) :=
  match readStack c w s with
  | .ok r _ => r
  | .error _ _ => none

/-- WALKER_ADMIT (R345) -/
def execWalkerAdmit (cmd walker : BitVec 16) (s : State) : Out :=
  .next (match findWalker s cmd walker with
    | some (c, w) =>
      if w.admitted || w.finished then s
      else match freeEngines s ((stackNext s c w).getD (engineStack w.engine)) with
        | e :: _ => putPier s (c.put { w with engine := e, admitted := true })
        | [] => s
    | none => s)

/-- WALKER_MIGRATE (R345) -/
def execWalkerMigrate (cmd walker : BitVec 16) (engine : BitVec 7) (s : State) : Out :=
  .next (match findWalker s cmd walker with
    | some (c, w) =>
      if w.admitted && stackNext s c w == some (engineStack engine) && engineStack w.engine != engineStack engine
          && (freeEngines s (engineStack engine)).contains engine then
        putPier s (c.put { w with engine := engine })
      else s
    | none => s)

/-- WALKER_READ_DONE (R345 to R347, R353, R354, R357): at its own stack, or remotely while every slot of the target stack is full. -/
def execWalkerReadDone (cmd walker : BitVec 16) (s : State) : Out :=
  match findWalker s cmd walker with
  | none => .next s
  | some (c, w) =>
    let here := match stackNext s c w with
      | none => true
      | some st => st == engineStack w.engine || (freeEngines s st).isEmpty
    if !w.admitted || w.finished || !here then .next s
    else
      match engineRun s c.cmdNo (walkerStep c w) with
      | (s1, some c1) => .next (putPier s1 c1)
      | (s1, none) => .next s1

/-- RESULT_WRITE (R348): the next entry that a walker has determined. -/
def execResultWrite (cmd walker : BitVec 16) (s : State) : Out :=
  .next (match findWalker s cmd walker with
    | none => s
    | some (c, w) =>
      let r := writeResults (c.place w.index) w.index c.entry c s
      putPier r.2 r.1)

/-- PIER_RECORD_POST (R349) -/
def execPierRecordPost (cmd : BitVec 16) (s : State) : Out :=
  .next (match s.hart.piers.find? fun c => c.cmdNo == cmd with
    | none => s
    | some c =>
      if c.walkers.all fun w => w.finished && w.pending.isEmpty then
        { s with hart := { s.hart with piers := s.hart.piers.filter fun x => x.cmdNo != cmd }.post c.record }
      else s)

end Sys2Proof.Machine
end

