-- ==== Sys2Proof/Machine/VUnit.lean ====
section
/-! DEFINITION. The vector unit and its queue (spec/02 R37 to R45): the meaning of each queued instruction, the push, the oldest entry's
completion or trap (spec/19 R366), and the boundary at which an asynchronous event is taken (spec/19 R368). -/

namespace Sys2Proof.Machine

/-- What a queued instruction does; the answer is false where an interruption stopped it at a point of R368. -/
def vuBody (e : QEntry) (units : Option Nat) : M Bool :=
  match e.op with
  | .load k vd base mw _ => runLoad e units k vd base mw
  | .store k vd base _ => runStore e units k vd base
  | .tshape x => runTshape e x
  | .tzero zd => runTzero e zd
  | .tld b base stride none => runTld units b base stride
  | .tld b base stride (some mc) => runTldMc e b base stride mc
  | .tmma k zd => runTmma e units k zd
  | .tstz zd base stride => runTstz units zd base stride
  | .tmvz _ zd row => runTmvz e units zd row
  | .sbind v addr => runSbind e v addr
  | .sunbind v => runUnbind e v true
  | .sdrain v => runUnbind e v false
  | .sisectC d j m => runSisect e units none d j m
  | .sisectW v d j m => runSisect e units (some v) d j m
  | .chase _ va par _ => runPier e false va par
  | .pgather _ va par _ => runPier e true va par
  | .reshape .. => return true
  | _ => runElems e units

/-- The vector registers whose contents an instruction reads (R291): its sources, a destination that it also reads, and register groups. -/
def VOp.vReads (sew : BitVec 4) (op : VOp) : List (BitVec 6) :=
  op.sources sew ++ (if op.readsDest then op.vdest.toList else []) ++
    match op with
    | .store .. => op.groups sew
    | .cvt .. => op.groups sew
    | _ => []

/-- The mask registers that an instruction reads (R28, R29). -/
def QEntry.kReads (e : QEntry) : List (BitVec 3) :=
  e.op.km :: (if e.op.usesVE && e.ve then [7] else []) ++
    match e.op with
    | .mask _ _ ka kb _ => [ka, kb]
    | .cpop _ ka _ => [ka]
    | .first _ ka _ => [ka]
    | _ => []

/-- The accumulators that an instruction reads (R194, R200, R201). -/
def VOp.zReads : VOp → List (BitVec 2)
  | .tmma _ zd => [zd]
  | .tstz zd .. => [zd]
  | .tmvz _ zd _ => [zd]
  | _ => []

/-- The tile buffers that an entry reads, by their bits in Hart.tBad: both operands, and for mxf4 their scales (R198). -/
def QEntry.tReads (h : Hart) (e : QEntry) : BitVec 4 :=
  match e.op with
  | .tmma .. => if h.tkType = 14#4 then 15 else 3
  | _ => 0

/-- Whether an entry is in error, or reads a register or buffer that is; a stream-bound register supplies its strip (R291, R329). -/
def Hart.readsError (h : Hart) (e : QEntry) : Bool :=
  e.bad || (h.tBad &&& e.tReads h) != 0 || ((e.op.vReads e.sew).any fun v => (h.bindingOf v).isNone && h.vBad.getLsbD v.toNat) ||
    (e.kReads.any fun k => h.kBad.getLsbD k.toNat) || e.op.zReads.any fun z => h.zBad.getLsbD z.toNat

/-- The tile buffers that an entry writes, by their bits in Hart.tBad (R196). -/
def QEntry.tWrites (h : Hart) (e : QEntry) : BitVec 4 :=
  match e.op with
  | .tld b _ _ _ => (if b then 2 else 1) ||| (if h.tkType = 14#4 then (if b then 8 else 4) else 0)
  | _ => 0

/-- The strand with the registers and buffers that an entry writes free of error (log 48). -/
def Hart.mended (h : Hart) (e : QEntry) : Hart :=
  let dests := e.targets ++ e.op.vdest2.toList ++
    match e.op with
    | .widen .. => e.op.groups e.sew
    | .load .. => e.op.groups e.sew
    | _ => []
  { h with
    tBad := h.tBad &&& ~~~e.tWrites h
    vBad := dests.foldl (fun m v => m &&& ~~~(1#64 <<< v.toNat)) h.vBad
    kBad := match e.op.maskDest with
      | some (k, copies) =>
        (k :: if copies then e.copy.toList.map fun c => c.setWidth 3 else []).foldl (fun m k => m &&& ~~~(1#8 <<< k.toNat)) h.kBad
      | none => h.kBad
    zBad := match e.op with
      | .tzero z => (z :: e.copy.toList.map fun c => c.setWidth 2).foldl (fun m z => m &&& ~~~(1#4 <<< z.toNat)) h.zBad
      | .tmma _ z => (z :: e.copy.toList.map fun c => c.setWidth 2).foldl (fun m z => m &&& ~~~(1#4 <<< z.toNat)) h.zBad
      | _ => h.zBad }

/-- Runs a queued instruction: one that is in error, or reads a register or buffer that is, traps MCHK before it does anything (R291), with a free EVAL (log 48). -/
def vuRun (e : QEntry) (units : Option Nat) : M Bool := do
  let s ← get
  if s.hart.vBad = 0 ∧ s.hart.kBad = 0 ∧ s.hart.zBad = 0 ∧ s.hart.tBad = 0 ∧ e.bad = false then vuBody e units
  else if s.hart.readsError e then trap causeMCHK (Config.registerErrorVal s.fresh)
  else
    let done ← vuBody e units
    modHart fun h => h.mended e
    return done

/-- How a run of the oldest entry ends. -/
inductive VEnd where
  /-- it completed, and has left the queue -/
  | done (s : State)
  /-- it stopped at an interruption point, and is still the oldest -/
  | cut (s : State)
  /-- it trapped -/
  | trapped (s : State)
  /-- it waits -/
  | waits (s : State)

/-- The strand with the entries behind the oldest one only. -/
def Hart.popQueue (h : Hart) : Hart := { h with queue := h.queue.tail, vremote := [] }

/-- The strand at the trap point of the oldest entry: the scalar state, nesting depth and written live-ins of its push, with the prefix it carries, and
nothing queued (R40, R108, R218, R366). -/
def Hart.atOldest (h : Hart) : Hart :=
  match h.queue with
  | [] => h
  | e :: _ =>
    { h with
      sc := { e.back with pc := e.pc }
      depth := e.depth
      wroteReg := e.wrote
      pfx := e.pfx.map fun w => { word := w, fromEret := false }
      queue := [], convoy := [], remote := [], vremote := [], park := .running }

/-- The module with its executing strand at the trap point of its oldest entry: what the discarded changes of shape had applied waits again (R403), and a
stepped instruction that was queued has not completed (R406). -/
def State.atOldest (s : State) : State := { s with hart := s.hart.atOldest, ring := { s.hart.relatched s.ring with stepped := none } }

/-- Runs the oldest entry, whose remote accesses are kept apart from those of the scalar thread. -/
def runHead (units : Option Nat) (s : State) : VEnd :=
  match s.hart.queue with
  | [] => .waits s
  | e :: _ =>
    let was := s.hart.remote
    let s0 := { s with hart := { s.hart with remote := s.hart.vremote } }
    let back (t : State) : State := { t with hart := { t.hart with vremote := t.hart.remote, remote := was } }
    match vuRun e units s0 with
    | .ok true t =>
      let t0 := { back t with hart := (back t).hart.popQueue }
      let t1 := settleShape t0.hart.queue.length t0
      .done (if t1.lag then t1 else settleSlots t1)
    | .ok false t => .cut (back t)
    | .error (.trap code val) t =>
      .trapped (takeTrap (back t).atOldest code val e.pc true false)
    | .error (.wait w) t =>
      let s1 := waitingState s t
      (match w with
       | .remote wr pa pkt => .waits (issueRemote s1 wr pa pkt fun r h => { h with vremote := h.vremote ++ [r] })
       | .flush pa pkt => .waits (issueRemote s1 true pa pkt fun r h => { h with vremote := h.vremote ++ [{ r with flush := true }] })
       | .redo => .waits (redo s)
       | .hold r => .waits { s1 with hart := { s1.hart with state := .hold r } }
       | .park _ => .waits s1
       | .keep _ => .waits s1
       | .waiter _ _ => .waits s1)

/-- Runs entries until the queue is empty, one traps or one waits. -/
def drainQueue : Nat → State → Out
  | 0, s => .next s
  | n + 1, s =>
    if s.hart.queue.isEmpty then .next s
    else
      match runHead none s with
      | .done t => drainQueue n t
      | .cut t => .next t
      | .trapped t => .next t
      | .waits t => .next t

/-- The entry that a push makes (R38, R107, R366). -/
def entryOf (h : Hart) (word : Word32) (op : VOp) : QEntry :=
  { op := op, word := word, pc := h.sc.pc, vl := h.sc.vl, sew := h.sc.sew, slices := h.sc.slices, ve := h.sc.ve, rm := h.sc.rm,
    pfx := h.pfx.map (·.word), begun := false, back := h.sc, depth := h.depth, wrote := h.wroteReg, bad := false }

/-- Pushes a word of the vector queue: its checks (R150), its convoy (R44), room (R37), its scalar operands (R38, R39). -/
def pushV (word : Word32) (mk : M VOp) : M Unit := do
  noPfxConvoy word
  let s ← get
  if !vecLegal (vregCount s.hart.sc.nreg) s.hart.sc.sew word then ill word
  else
    let rest ← convoyRest word
    if !s.hart.imageDone || 64 ≤ s.hart.queued.length then wait (.park .stalled)
    else
      let op ← mk
      modHart fun h => { h with queue := h.queue ++ [entryOf h word op], convoy := rest }
      nextPc

/-- A vector or tile instruction as a step: it is pushed, and where the vector unit does not lag it runs at once (log 4). -/
def issueV (word : Word32) (mk : M VOp) (s : State) : Out :=
  match runScalar (pushV word mk) s with
  | .next t => if s.lag then .next t else drainQueue t.hart.queue.length t
  | r => r

/-! ### Boundaries (R368) -/

/-- Where a boundary is reached, with its trap point and whether that is a queued instruction; or the module as it stands short of it. -/
inductive Boundary where
  | here (s : State) (point : Word) (vec : Bool)
  | notYet (s : State)

/-- The strand with everything in its queue discarded, at its oldest entry or, with none, at the scalar thread (R368). -/
def discardQueue (s : State) : Boundary :=
  match s.hart.queue with
  | [] =>
    -- R385: a parked wfi leaves EPC at the word after it, and a prefix over it is used up (R108)
    let wfi := s.hart.park == .wfi
    let point := if wfi then s.hart.sc.pc + 4 else s.hart.sc.pc
    .here { s with hart := { s.hart with convoy := [], park := .running, pfx := if wfi then none else s.hart.pfx } } point false
  | e :: _ => .here s.atOldest e.pc true

/-- An instruction that is interrupted between two of its units (R368). -/
def VOp.byUnits : VOp → Bool
  | .tld _ _ _ none => true
  | .tmma .. => true
  | .tstz .. => true
  | .sisectC .. => true
  | .sisectW .. => true
  | op => op.byElement

/-- An instruction that is abandoned at a boundary (R368): those of R50, and the multicast loads. -/
def VOp.abandoned : VOp → Bool
  | .tld _ _ _ (some _) => true
  | op => op.restarts && !op.byUnits

/-- The strand whose oldest entry, cut at an interruption point, has not begun again. -/
def Hart.unbegun (h : Hart) : Hart := match h.queue with
  | [] => h
  | e :: t => { h with queue := { e with begun := false } :: t }

/-- The boundary at which an event is taken: the oldest entry runs to its next interruption point (R368). What the record of the keystone holds of other modules
is written before (log 22), and a served waiter completes (R313). -/
def reachBoundary (s : State) : Boundary :=
  if !recordsReady s then .notYet (withRecords s id)
  else
    match s.hart.queue with
    | [] => if s.hart.remote.isEmpty && (servedHere s).isNone then discardQueue s else .notYet s
    | e :: _ =>
      if s.hart.vremote.any fun r => r.reply.isNone then .notYet s
      else if e.op.abandoned && s.hart.vremote.isEmpty then discardQueue { s with hart := { s.hart with vstart := 0 } }
      else if e.op.byUnits && !e.begun && s.hart.vremote.isEmpty then discardQueue s
      else
        match runHead (if e.op.byUnits then some 1 else none) s with
        | .done t => if recordsReady t then discardQueue t else .notYet t
        | .cut t => if recordsReady t then discardQueue t else .notYet { t with hart := t.hart.unbegun }
        | .trapped t => .notYet t
        | .waits t => .notYet t

/-! ### Events -/

/-- VQUEUE_BEGIN (R37, R46): the vector unit begins the oldest entry; on a HALTED ring nothing executes (R405). -/
def execVqueueBegin (s : State) : Out :=
  .next (match s.hart.queue with
    | [] => s
    | e :: t => if s.ring.halted then s else { s with hart := { s.hart with queue := { e with begun := true } :: t } })

/-- VQUEUE_COMPLETE (R39, R49, R366): the oldest entry completes, or traps; on a HALTED ring nothing executes (R405). -/
def execVqueueComplete (s : State) : Out := if s.ring.halted then .next s else drainQueue 1 s

end Sys2Proof.Machine
end

