-- ==== Sys2Proof/Machine/VConfig.lean ====
section
/-! DEFINITION. The vector configuration instructions, which the scalar thread executes (spec/06 R144 to R146; spec/11 R257), and the change
of shape that they apply (spec/20 R402, R403; spec/10 R211). -/

namespace Sys2Proof.Machine

/-! ### Shape -/

/-- A waiting change of shape applied by the executing instruction (R403), which waits for no queued instruction (R146): VLCAP and RESHAPE change at
once, and with something queued the registers change when what was pushed before has completed. The ring as the instruction then sees it. -/
def applyShape (word : Word32) : M Ring := do
  let s ← get
  if reshapeDue s then
    if s.hart.queue.isEmpty then set (reshapeNow s)
    else
      let r := s.ring.applyShape
      set { s with
        ring := { s.ring with reshapePend := false }
        hart := { s.hart with queue := s.hart.queue ++ [{ entryOf s.hart word (.reshape r.gang r.vlcap) with pfx := none }] } }
  let t ← get
  return t.hart.shapeSeen t.ring

/-! ### vsetvli, vsetvl, vcfg, rgsetl -/

/-- The steps that vsetvli and vsetvl share (R145). -/
def opSetvl (word : Word32) (d a : BitVec 5) (sew slices : BitVec 4) : M Unit := do
  let avl ← rdX a
  if slices.toNat < 3 || 8 < slices.toNat then ill word
  else
    let r ← applyShape word
    let vlm := vlmaxOf r (← get).hart.sc.nreg sew
    let vl := min avl.toNat vlm
    modHart fun h => { h with sc := { h.sc with
      sew := sew, slices := slices, vlmax := BitVec.ofNat 16 vlm, vl := BitVec.ofNat 16 vl } }
    wrX d (BitVec.ofNat 64 vl)
    nextPc

/-- vsetvli (R145) -/
def execVsetvli (d a : BitVec 5) (slices sew : BitVec 4) (s : State) : Out :=
  runScalar (opSetvl (0x20#6 ++ 0#1 ++ d ++ 0#1 ++ a ++ slices ++ sew ++ 0#6) d a sew slices) s

/-- vsetvl (R145, R97) -/
def execVsetvl (d a b : BitVec 5) (s : State) : Out :=
  runScalar (do
    let word : Word32 := 0x20#6 ++ 0#1 ++ d ++ 0#1 ++ a ++ b ++ 0#4 ++ 1#4 ++ 0#1
    let ty ← rdX b
    if ty.extractLsb' 8 56 ≠ 0 then ill word
    else opSetvl word d a (ty.extractLsb' 0 4) (ty.extractLsb' 4 4)) s

/-- The strand after a change of the register count: registers and k1 to k6 zero, k7 all ones (R25, R144). -/
def Hart.recount (h : Hart) (n : BitVec 2) (vlmax : Nat) : Hart :=
  { h with
    sc := { h.sc with nreg := n, vlmax := BitVec.ofNat 16 vlmax }
    v := Vector.replicate 64 0
    k := startMasks
    vBad := 0, kBad := 0 }

/-- vcfg (R144, R334). With a slot bound it traps ILL whatever n is: R334 says ILL where R144 says that the current count has no effect (DESIGN CHOICE,
log 90). -/
def execVcfg (n : BitVec 2) (s : State) : Out :=
  runScalar (do
    let word : Word32 := 0x20#6 ++ 0#19 ++ n ++ 2#4 ++ 0#1
    emptyQueue
    let s ← get
    let h := s.hart
    let vlm := vlmaxOf s.ring n h.sc.sew
    if h.slots.toList.any fun sl => sl.bound then ill word
    else if n = h.sc.nreg then nextPc
    else if vlm < h.sc.vl.toNat then ill word
    else
      modHart fun h => h.recount n vlm
      nextPc) s

/-- The share and the offset of ring g of n (R257). -/
def groupShare (avl n g : Nat) : Nat × Nat := (avl / n + (if g < avl % n then 1 else 0), g * (avl / n) + min g (avl % n))

/-- rgsetl (R257) -/
def execRgsetl (d : BitVec 4) (a : BitVec 5) (s : State) : Out :=
  runScalar (do
    let avl ← rdX a
    let r ← applyShape (wordR 0x35 (d ++ 0#1) a 0 (6 <<< 6))
    let h := (← get).hart
    let p := groupShare avl.toNat ((h.widShape.extractLsb' 36 6).toNat + 1) h.wid.toNat
    let vlm := vlmaxOf r h.sc.nreg h.sc.sew
    modHart fun h => { h with sc := { h.sc with vlmax := BitVec.ofNat 16 vlm, vl := BitVec.ofNat 16 (min p.1 vlm) } }
    putX (d ++ 0#1) (BitVec.ofNat 64 p.1)
    putX (d ++ 1#1) (BitVec.ofNat 64 p.2)
    nextPc) s

end Sys2Proof.Machine
end

