-- ==== Sys2Proof/Machine/Fence.lean ====
section
/-! DEFINITION. Fences: major 0x1D (spec/04 R95; spec/15 R308 to R310; spec/02 R42). Accesses of the model perform in program order (log 5), so
that a fence has only its waits and its effect on streams. -/

namespace Sys2Proof.Machine

/-- Whether every access of an engine command issued so far has been performed (R309): copies and walkers are done, and what write streams
emitted is written. -/
def enginesQuiet (h : Hart) : Bool :=
  h.copies.isEmpty
    && (h.piers.all fun c => c.walkers.all fun w => w.finished && w.pending.isEmpty)
    && (h.slots.toList.all fun sl => sl.emitted.isEmpty && sl.awaits.isEmpty)

/-- The strand with every strip discarded that its read streams fetched ahead (R309). -/
def Hart.refetch (h : Hart) : Hart :=
  { h with slots := h.slots.map fun sl => if sl.writes then sl else { sl with fetched := [] } }

/-- A fence between sets of kinds: bit 2 r, bit 1 w, bit 0 e (R95, R308). -/
def opFence (pred succ : BitVec 3) : M Unit := do
  emptyQueue
  keystoneOnly
  let h := (← get).hart
  if pred.getLsbD 0 && !enginesQuiet h then wait (.park .stalled)
  else
    modHart fun h => if succ.getLsbD 0 then h.refetch else h
    nextPc

/-- fence (R308, R309) -/
def execFence (pred succ _scope : BitVec 3) (s : State) : Out := runScalar (opFence pred succ) s

/-- fence.sv (R310) -/
def execFenceSV (s : State) : Out := runScalar (opFence 0 0) s

/-- fence.vs (R310) -/
def execFenceVS (s : State) : Out := runScalar (opFence 0 0) s

/-- fence.vv (R310) -/
def execFenceVV (s : State) : Out := runScalar (opFence 0 0) s

end Sys2Proof.Machine
end

