-- ==== Sys2Proof/Machine/System.lean ====
section
/-! DEFINITION. Asynchronous events and their boundary (spec/19 R362, R363, R368 to R371; spec/20 R391, R392, R406), the system instructions of
majors 0x1E and 0x1F but for ctxsave and ctxload (spec/19 R382 to R388; spec/20 R393, R402), and the events of these rules. -/

namespace Sys2Proof.Machine

/-! ### Waiting and taking events -/

/-- Whether the executing strand takes asynchronous events (R370). -/
def asyncEnabled (s : State) : Bool := s.hart.level == .u || s.ring.ie

/-- Whether an asynchronous event is pending for the executing ring, or for the executing management core (R374, R385). -/
def eventPending (s : State) : Bool :=
  match s.onMgmt with
  | some a => !(s.mgmtAt a).events.isEmpty
  | none => s.ring.ppre || s.ring.pact || s.ring.ptmo

/-- EVAL of PREEMPT (R392). -/
def Ring.preemptVal (r : Ring) : Word := (0#56 : BitVec 56) ++ r.preSource ++ r.preSrc

/-- The pending event that is taken first, with its EVAL (R252, R365, R369); that of an ACTSTALL whose outbound buffer has emptied is 0 (DESIGN CHOICE,
log 100). -/
def asyncDue (s : State) : Option (BitVec 8 × Word) :=
  let r := s.ring
  if r.ppre then some (causePREEMPT, r.preemptVal)
  else if r.pact then some (causeACTSTALL, (r.outbound.head?.map fun o => o.msg.dest).getD 0)
  else if r.ptmo then some (causeTIMEOUT, zx (r.quantum.extractLsb' 32 16))
  else none

/-- The pending bit of an event cleared (R374). -/
def Ring.taken (r : Ring) (code : BitVec 8) : Ring :=
  if code = causePREEMPT then { r with ppre := false }
  else if code = causeACTSTALL then { r with pact := false }
  else { r with ptmo := false }

/-- The stop of R391 for PREEMPT and BREAK, at a boundary: younger chunks are squashed, SW sectors written, the bookkeeping of R363 done, and
nothing executes; PC and the level keep their values. -/
def bookStop (s : State) (code : BitVec 8) (val point : Word) (vec async : Bool) : State :=
  let s1 := bookTrap (settleTrap s) code val point vec async false
  { s1 with
    ring := { s1.ring with state := .stopped }
    hart := { s1.hart with state := s1.hart.state.stopped, park := .running, queue := [], convoy := [], remote := [], vremote := [] } }

/-- The executing ring with a strand: one between two handlers has none, and an event finds it about to run the word of done (R258; DESIGN
CHOICE, log 31). -/
def withStrand (s : State) : State :=
  if s.ring.chunks.isEmpty then
    let h := { Hart.start with
      sc := { Scal.start with pc := Config.exitWord }, slot := s.ring.lastSlot, seq := s.ring.lastSeq, wid := ((residentActor s).map fun a => zx a.wid).getD 0
      widShape := ((residentActor s).map (·.widShape)).getD 0 }
    { s with hart := h, ring := { s.ring with chunks := [h], active := 0 } }
  else s

/-- Takes the event that is due, once the executing strand, its ring's keystone, has reached its boundary (R368, R370, R391). -/
def takeAsync (s : State) (code : BitVec 8) (val : Word) : Out :=
  match reachBoundary (withStrand s) with
  | .notYet t => .next t
  | .here t point vec =>
    let t1 := { t with ring := t.ring.taken code }
    if code = causePREEMPT then .next (bookStop t1 code val point vec true)
    else .next (enterS (settleTrap t1) code val point vec true false)

/-- Whether the keystone of the executing ring holds with a deferred trap, which comes first (R369). -/
def trapDue (h : Hart) : Bool := match h.state with | .hold (.trap _) => true | _ => false

/-- The pending event of the executing ring is taken if it is enabled and the keystone executes (R370). -/
def serveAsync (s : State) : Out :=
  if s.onMgmt.isSome || s.ring.state != .running || s.ring.halted || !asyncEnabled s || trapDue s.hart then .next s
  else
    match asyncDue s with
    | some (code, val) => takeAsync s code val
    | none => .next s

/-- Does something with a ring's keystone as the executing strand, and comes back. -/
def onKeystone (s : State) (n : BitVec 6) (f : State → Out) : Out :=
  match f (turnTo s n 0) with
  | .next t => .next (turnBack s t)
  | r => r

/-- The pending event of a ring is taken if it can be now (R369, R370). -/
def serveRing (s : State) (n : BitVec 6) : Out := onKeystone s n serveAsync

/-- PREEMPT becomes pending for a ring, with its SRC and SOURCE (R392); those of one that is pending already are replaced (DESIGN CHOICE, log 100). -/
def raisePreempt (s : State) (n src : BitVec 6) (source : BitVec 2) : State :=
  s.modRingAt n fun r => { r with ppre := true, preSrc := src, preSource := source }

/-- MCAUSE of an asynchronous event (R378, R469): EXT but for LATEPKT and GSOVF. A slice's report of an uncorrectable write-back has EXT = 1 and RING = 0
(R378 gives neither: DESIGN CHOICE, log 43). -/
def mcauseOf (code : BitVec 8) (ring : BitVec 6) : BitVec 18 :=
  ring ++ BitVec.ofBool (code != causeLATEPKT && code != causeGSOVF) ++ 0#1 ++ 1#1 ++ 0#1 ++ code

/-- The executing management core takes its oldest event, if MSTAT.IE = 1 (R362, R363). A parked wfi leaves MEPC at the word after it. -/
def takeMEvent (s : State) (a : BitVec 1) : State :=
  let c := s.mgmtAt a
  match c.events with
  | [] => s
  | (code, ring, val, point) :: t =>
    if !c.mie || c.stopped || !s.hart.remote.isEmpty then s
    else
      let pc := if s.hart.park == .wfi then s.hart.sc.pc + 4 else s.hart.sc.pc
      enterM (s.modMgmt a fun c => { c with events := t }) a (mcauseOf code ring) val (point.getD pc) false

/-! ### The system instructions -/

/-- PRIV below S, with the word in EVAL (R51, R83). -/
def needS (w : Word32) : M Unit := do
  if (← get).hart.level = .u then trap causePRIV (w.setWidth 64) else pure ()

/-- What every instruction of major 0x1E begins with (R367, R388). -/
def systemStart (w : Word32) : M Unit := do
  needS w
  emptyQueue
  keystoneOnly

/-- eret (R384) -/
def execEret (s : State) : Out :=
  runThen (systemStart (wordR 0x1E 0 0 0 1)) (fun t =>
    match t.onMgmt with
    | some a => returnM t a
    | none => returnS t) s

/-- wfi (R385) -/
def execWfi (s : State) : Out :=
  runScalar (do
    systemStart (wordR 0x1E 0 0 0 2)
    if eventPending (← get) then nextPc else wait (.park .wfi)) s

/-- halt (R386) -/
def execHalt (s : State) : Out :=
  runThen (systemStart (wordR 0x1E 0 0 0 3)) (fun t =>
    match t.onMgmt with
    | some a => t.modMgmt a fun c => { c with stopped := true }
    | none => haltRing t 0 t.hart.sc.pc none) s

/-- Whether a cached entry is dropped by tlbinv (R387). -/
def tlbMatches (mode : BitVec 2) (jid : BitVec 16) (va : Word) (c : CachedPte) : Bool :=
  match mode with
  | 0#2 => c.jid == jid && c.prefix_ == BitVec.ofNat 64 (va.toNat >>> levelShift c.level.toNat)
  | 1#2 => c.jid == jid
  | _ => true

/-- Whether an access of any strand or management core that has used a translation has still to perform (R387). -/
def accessesOut (s : State) : Bool :=
  let t := putBack s
  (t.rings.toList.any fun r => r.chunks.any Hart.accessing) || t.mgmt.toList.any fun c => c.hart.accessing

/-- tlbinv (R387): it waits until every access that has used a translation has performed, be it one that the control word names or another. -/
def execTlbinv (a b : BitVec 5) (s : State) : Out :=
  runScalar (do
    let w := wordR 0x1E 0 a b 4
    systemStart w
    let va ← rdX a
    let x ← rdX b
    if x.extractLsb' 18 46 ≠ 0 || x.extractLsb' 16 2 == 3#2 then ill w
    else if accessesOut (← get) then wait (.park .stalled)
    else
      modify fun s => { s with ptes := s.ptes.filter fun c => !tlbMatches (x.extractLsb' 16 2) (x.extractLsb' 0 16) va c }
      nextPc) s

/-- trap (R383): EPC is the word after it. -/
def execTrap (imm : BitVec 16) (s : State) : Out :=
  if s.hart.queue.isEmpty then .next (takeTrap s causeTRAPI (zx imm) (s.hart.sc.pc + 4) false false)
  else .next (applyWait s (.park .stalled))

/-! ### preempt and reshape (R393, R402) -/

/-- Whether a ring number names the issuer's own ring; a management core has none (R379). -/
def ownRing (s : State) (n : BitVec 6) : Bool := s.onMgmt.isNone && n == s.cur

/-- A stopped ring resumes as by eret (R108, R393). -/
def resumeHere (s : State) : State :=
  let s1 := returnS s
  { s1 with
    ring := { s1.ring with state := .running, unavailable := false, stepped := none }
    hart := { s1.hart with state := s1.hart.state.stopped, park := .running } }

/-- What preempt with RESUME = 0 leaves to wait for (R393): the target runs on with the event enabled. -/
def stillRunning (s : State) (n : BitVec 6) : Bool :=
  let r := s.ringAt n
  r.state == .running && !r.halted && r.ppre && ((keystoneOf s n).level == .u || r.ie)

/-- preempt with RESUME = 0 on a ring that runs (R391 to R393). A HALTED ring is at its boundary, and stops there. -/
def stopOther (s : State) (n : BitVec 6) : Out :=
  let src : BitVec 6 := if s.onMgmt.isSome then 0 else s.cur
  let s1 := raisePreempt s n src (if s.onMgmt.isSome then 1 else 0)
  match onKeystone s1 n fun t =>
      if asyncEnabled t && !trapDue t.hart then takeAsync t causePREEMPT t.ring.preemptVal else .next t with
  | .next t =>
    if stillRunning t n then .next (applyWait t (.park .preempting))
    else runScalar nextPc t
  | r => r

/-- preempt (R393) -/
def execPreempt (a : BitVec 5) (s : State) : Out :=
  let w := wordR 0x1E 0 a 0 0x10
  let check : M Word := do
    systemStart w
    let x ← rdX a
    if x.extractLsb' 7 57 ≠ 0 || ownRing (← get) (x.extractLsb' 0 6) then ill w
    else if x.getLsbD 6 && ((← get).ringAt (x.extractLsb' 0 6)).state != .stopped then ill w
    else if x.getLsbD 6 && ((← get).ringAt (x.extractLsb' 0 6)).halted then ill w
    else return x
  match check s with
  | .error _ _ => runScalar (do let _ ← check) s
  | .ok x t =>
    let n : BitVec 6 := x.extractLsb' 0 6
    if x.getLsbD 6 then
      match onKeystone t n fun u => .next (resumeHere u) with
      | .next u => runScalar nextPc u
      | r => r
    else if (t.ringAt n).state = .running then stopOther t n
    else runScalar nextPc t

/-- A ring that applies its latched change at once because it is EMPTY (R403). -/
def Ring.applyIfEmpty (r : Ring) : Ring := if r.reshapePend && r.state == .empty then r.applyShape else r

/-- reshape (R402) -/
def execReshape (a b : BitVec 5) (s : State) : Out :=
  runScalar (do
    let w := wordR 0x1E 0 a b 0x13
    systemStart w
    let x ← rdX a
    let y ← rdX b
    let n : BitVec 6 := x.extractLsb' 0 6
    let cap : BitVec 16 := y.extractLsb' 16 16
    if x.extractLsb' 6 58 ≠ 0 || y.extractLsb' 1 15 != 0 || y.extractLsb' 32 32 != 0 || cap.toNat % 64 != 0
        || (y.getLsbD 0 && ((← get).ringAt n).retired) then ill w
    else
      modify fun s => s.modRingAt n fun r => (r.latch (y.extractLsb' 0 1) cap).applyIfEmpty
      nextPc) s

/-! ### Events -/

/-- Whether a cause is one that an instruction raises and trap entry takes: reserved codes are never raised, ENGFAULT is no trap, BREAK stops a ring
(R391), and the rest are asynchronous (R365). -/
def synchronousCause (c : BitVec 8) : Bool := decide (1 ≤ c.toNat ∧ c.toNat ≤ 9) || c == causeGRPREUSE || c == causeMCHK

/-- TRAP_ENTRY (R362, R363): a trap of the executing strand or core is taken at its trap point: for TRAPI the word after it (R365). -/
def execTrapEntry (cause : BitVec 8) (val : Word) (s : State) : Out :=
  .next (if synchronousCause cause then takeTrap s cause val (if cause = causeTRAPI then s.hart.sc.pc + 4 else s.hart.sc.pc) false false else s)

/-- M_EVENT_ENTRY (R362) -/
def execMEventEntry (core : BitVec 1) (s : State) : Out :=
  if s.onMgmt = some core then .next (takeMEvent s core)
  else .next (turnBack s (takeMEvent (loadMgmt (putBack s) core) core))

/-- ASYNC_BOUNDARY (R368, R370): the keystone of the executing ring takes the pending event. -/
def execAsyncBoundary (s : State) : Out := if s.onMgmt.isSome then .next s else serveRing s s.cur

/-- TIMEOUT_EXPIRY (R371, R405): with WDOG ≠ 0, a resident strand, not parked in wfi or waitmsg, and no debug pause of its JID. -/
def execTimeoutExpiry (ring : BitVec 6) (s : State) : Out :=
  let r := s.ringAt ring
  let p := (keystoneOf s ring).park
  .next (if r.state == .running && !r.chunks.isEmpty && r.quantum.extractLsb' 32 16 != 0 && p != .wfi && p != .waitmsg && !(s.paused.any fun q => q.1 == r.jid) then
      s.modRingAt ring fun r => { r with ptmo := true }
    else s)

/-- WFI_WAKE (R385): with an event pending, a parked core takes it or completes its wfi. -/
def execWfiWake (ring : BitVec 6) (s : State) : Out :=
  onKeystone s ring fun t =>
    if t.hart.park == .wfi && eventPending t && t.ring.state == .running && !t.ring.halted then
      if asyncEnabled t then serveAsync t
      else .next (finish { t with hart := { t.hart with sc := { t.hart.sc with pc := t.hart.sc.pc + 4 } } })
    else .next t

/-- The boundary at which the executing ring's keystone becomes HALTED (R391 step 1, R405): with nothing queued, where it stands; else at the interruption point of
its oldest queued instruction, from which the strand goes on when the halt ends. -/
def haltBoundary (s : State) : State :=
  let halt (t : State) : State := { t with ring := { t.ring with halted := true, haltReq := false } }
  if s.ring.chunks.isEmpty || (s.hart.queue.isEmpty && s.hart.remote.isEmpty && (servedHere s).isNone) then halt s
  else
    match reachBoundary s with
    | .notYet t => t
    | .here t _ _ => halt t

/-- DEBUG_HALT_REACHED (R405): a ring of a halting die becomes HALTED at its boundary, with no squash and no bookkeeping. -/
def execDebugHaltReached (ring : BitVec 6) (s : State) : Out :=
  if (s.ringAt ring).haltReq then onKeystone s ring fun t => .next (haltBoundary t) else .next s

/-- RING_STOPPED (R391): a ring with PREEMPT pending reaches its boundary and stops. -/
def execRingStopped (ring : BitVec 6) (s : State) : Out := if (s.ringAt ring).ppre then serveRing s ring else .next s

/-- DEBUG_STEP_BREAK (R406): once the stepped instruction has completed, in the vector unit too, the ring stops with BREAK, and a management core takes an event. -/
def execDebugStepBreak (ring : BitVec 6) (s : State) : Out :=
  onKeystone s ring fun t =>
    match (if t.ring.halted then none else t.ring.stepped) with
    | none => .next t
    | some va =>
      if t.hart.queue.isEmpty then
       match reachBoundary t with
       | .notYet u => .next u
       | .here u point vec =>
        let u1 := bookStop { u with ring := { u.ring with stepped := none } } causeBREAK va point vec false
        .next (postMEvent u1 0 causeBREAK ring va none)
      else .next t

end Sys2Proof.Machine
end

