-- ==== Sys2Proof/Machine/Chunk.lean ====
section
/-! DEFINITION. Forked regions (spec/10): fork, join and keywait (R214 to R218, R231, R232), the start of chunks, live-in values and
predictions (R221 to R223), squash, and commit (R229, R230, R233); messages in the stage and the outbound buffer (spec/11 R250). -/

namespace Sys2Proof.Machine

/-! ### fork (R214, R215, R218) -/

/-- The word of join (R231). -/
def joinWord : Word32 := 0xD4000000#32

/-- Whether a fork of the executing strand opens a region (R215, R218, R249, R406): it is in no chunk, or in a handler that holds the keystone
with no younger handler in flight; not while the ring is stepped. -/
def opensRegion (s : State) : Bool :=
  s.ring.region.isNone && !s.ring.stepping
    && (!s.hart.held || (s.hart.handler.isSome && s.ring.active == 0 && s.ring.chunks.length ≤ 1))

/-- What R335 forbids at a fork that opens a region. -/
def forkBarred (h : Hart) : Bool :=
  (h.slots.toList.any fun sl => sl.bound && sl.writes) || h.outstanding != 0 || !h.cq.isEmpty

/-- The region that a fork opens, with its next chunk 1 (R215, R219). -/
def regionOf (h : Hart) (d a : BitVec 5) (count grain : Word) (join : Word) : Region :=
  { forkPc := h.sc.pc, joinPc := join, dReg := d, aReg := a, count := count, grain := grain, total := ceilDiv count.toNat grain.toNat, next := 1,
    firstSeq := h.seq + 1, firstSlot := h.slot, kflags := 0, image := h, finals := [] }

/-- Chunk 0, which runs on the fork core; a handler's records, messages and binding to its message stay with it (R215, R217, R249). -/
def firstChunk (s : State) (g : Region) : Hart :=
  { chunkStart s.ring.size s.ring.stride g 0 true with
    written := g.image.written, sr := g.image.sr, precise := g.image.held && g.image.precise, stage := g.image.stage, handler := g.image.handler, imageDone := !s.lag }

/-- fork (R214, R215, R218, R335). With s[a] = 0 and a join that cannot be read, it traps ILL: the spec gives both causes no order (DESIGN CHOICE,
log 91). -/
def execFork (d a : BitVec 5) (imm : BitVec 16) (s : State) : Out :=
  runScalar (do
    let w := wordI 0x34 d a imm
    emptyQueue
    let count ← rdX d
    let grain ← rdX a
    let pc ← rdPc
    let join := pc + wordOff imm
    if grain = 0 then ill w
    else
      let jw ← fetchWord join
      if jw ≠ joinWord then ill w
      else if count = 0 then setPc (join + 4)
      else if opensRegion (← get) then
        let s ← get
        if forkBarred s.hart then ill w
        else
          let g := regionOf { s.hart with pfx := none } d a count grain join
          set { s with ring := { s.ring with region := some g }, hart := firstChunk s g }
      else
        putX a 0
        putX d count
        modHart fun h => { h with depth := h.depth + 1 }
        nextPc) s

/-! ### join, keywait -/

/-- The wait and the checks that end a chunk, a handler or an entry strand (R335). -/
def endCheck (w : Word32) (closes : Bool) : M Unit := do
  emptyQueue
  let h := (← get).hart
  if h.outstanding != 0 then wait (.park .stalled)
  else if !closes && ((h.slots.toList.any fun sl => sl.bound && sl.writes) || !h.cq.isEmpty) then ill w
  else pure ()

/-- join (R218, R221, R229, R231, R335) -/
def execJoin (s : State) : Out :=
  runScalar (do
    let s ← get
    if 0 < s.hart.depth then
      modHart fun h => { h with depth := h.depth - 1 }
      nextPc
    else
      match s.ring.region with
      | none => ill joinWord
      | some g =>
        endCheck joinWord (decide (s.hart.chunk + 1 = g.total))
        wait (.hold .join)) s

/-- keywait (R232) -/
def execKeywait (s : State) : Out :=
  runScalar (do
    let s ← get
    if s.ring.region.isNone then nextPc
    else if s.ring.active ≠ 0 then wait (.hold .keywait)
    else
      emptyQueue
      earlyWrite
      nextPc) s

/-! ### Live-in values (R221 to R223) -/

/-- Whether a chunk waits at its join with every live-in value known: its final values then leave (R221). -/
def finalsReady (h : Hart) : Bool :=
  h.awaiting == 0 && (match h.state with
    | .hold .join => true
    | .commit .join => true
    | _ => false)

/-- The final values of the chunk before the one at an index, if they have left it (R221). -/
def incoming (s : State) (i : Nat) : Option (Vector Word 32) :=
  match s.ring.region with
  | none => none
  | some g =>
    match i with
    | 0 => lookupKey g.finals ((s.ring.chunks.getD 0 Hart.start).chunk - 1)
    | k + 1 => match s.ring.chunks[k]? with
      | some p => if finalsReady p then some p.sc.x else none
      | none => none

/-- Whether a chunk has read a prediction that was wrong (R223). -/
def mispredicted (h : Hart) (y : Vector Word 32) : Bool :=
  (List.range 32).any fun r =>
    let b : BitVec 5 := BitVec.ofNat 5 r
    bit32 h.awaiting b && bit32 h.predicted b && bit32 h.readLive b && (h.liveVal[b.toNat]'b.isLt) != (y[b.toNat]'b.isLt)

/-- A chunk that has received its true live-in values (R221, R223): they replace what it has not written itself, also in the states that its queued
instructions would give back at a trap. -/
def withLiveins (h : Hart) (y : Vector Word 32) : Hart :=
  let fresh := h.awaiting &&& ~~~h.wroteReg
  { h with
    sc := { h.sc with x := overlay h.sc.x y fresh, bad := h.sc.bad &&& ~~~fresh }
    queue := h.queue.map fun e => { e with back := { e.back with x := overlay e.back.x y (h.awaiting &&& ~~~e.wrote) } }
    liveVal := overlay h.liveVal y h.awaiting
    awaiting := 0
    predicted := 0 }

/-- The live-in values reach the chunk at an index (R223): one that has read a wrong prediction is squashed with every younger one, and restarts with
the true values; the younger ones restart without predictions. -/
def deliverLiveins (s : State) (i : Nat) (y : Vector Word 32) : State :=
  match s.ring.chunks[i]? with
  | none => s
  | some h =>
    if h.awaiting = 0 then s
    else
      let s1 := if mispredicted h y then squashFrom s true i else s
      let take (l : List Hart) : List Hart := match l[i]? with
        | some c => listSet l i (withLiveins c y)
        | none => l
      { s1 with ring := { s1.ring with chunks := take s1.ring.chunks } }

/-- The live-in values reach the executing chunk, which does not hold the keystone (R223). -/
def receiveLiveins (s : State) : State :=
  if s.hart.awaiting = 0 || s.ring.active = 0 then s
  else
    match incoming s s.ring.active with
    | none => s
    | some y =>
      let t := deliverLiveins { s with ring := { s.ring with chunks := listSet s.ring.chunks s.ring.active s.hart } } s.ring.active y
      { t with hart := t.ring.chunks.getD s.ring.active s.hart }

/-! ### Messages on their way out (R250) -/

/-- A staged message in the outbound buffer, with the core of its sender. -/
def outMsg (core : BitVec 3) (m : Message) : OutMsg := { msg := m, sent := false, waiting := false, refusals := 0, core := core, rtag := 0 }

/-- Whether the outbound buffer has room for a strand's stage: it holds 256 (R250). -/
def stageFits (s : State) : Bool := decide (s.ring.outbound.length + s.hart.stage.length ≤ 256)

/-- The stage moved to the outbound buffer, in order (R250). -/
def moveStage (s : State) : State :=
  { s with
    ring := { s.ring with outbound := s.ring.outbound ++ s.hart.stage.map (outMsg (coreIx s)) }
    hart := { s.hart with stage := [] } }

/-! ### Start and restart of chunks -/

/-- Whether a slot of the executing ring is idle for the next unstarted chunk (R217). -/
def canStart (s : State) : Bool :=
  match s.ring.region with
  | none => false
  | some g => decide (g.next < g.total ∧ s.ring.chunks.length < s.ring.size)

/-- The next unstarted chunk starts (R215 to R217). -/
def startChunk (s : State) : State :=
  match s.ring.region with
  | none => s
  | some g =>
    if canStart s then
      let c := { chunkStart s.ring.size s.ring.stride g g.next true with imageDone := !s.lag }
      { s with ring := { s.ring with
          region := some { g with next := g.next + 1 }
          chunks := s.ring.chunks ++ [c] } }
    else s

/-- Whether a squashed chunk of the executing ring may restart: not while the keystone runs a trap handler (R234). -/
def mayRestart (s : State) : Bool := decide ((keystoneOf s s.cur).inTrap ≤ ((s.ring.region.map (·.image.inTrap)).getD 0))

/-- A chunk that restarts (R230, R236). -/
def Hart.restart (h : Hart) : Hart := match h.state with | .squash => { h with state := .start } | _ => h

/-! ### Commit (R229) and the end of a region -/

/-- The entry that the commit of chunk 0 writes to the stride table (R222). -/
def strideOf (g : Region) (h : Hart) : StrideEntry :=
  { tag := g.forkPc.extractLsb' 8 56, used := true
    stride := Vector.ofFn fun i => h.sc.x[i] - g.image.sc.x[i]
    valid := g.livein }

/-- The ring with its stride table as the commit of a chunk leaves it (R222). -/
def Ring.learn (r : Ring) (g : Region) (h : Hart) : Ring :=
  if h.chunk = 0 then
    let i := strideIndex g.forkPc
    { r with stride := r.stride.set i.toNat (strideOf g h) i.isLt }
  else r

/-- The strand as it continues when its region closes (R229); an exit branch has completed, and used up a prefix over it (R107, R108). -/
def closedStrand (g : Region) (h : Hart) (pc : Word) : Hart :=
  let v := match h.pfx with
    | some p => h.sc.pfxV && !p.fromEret
    | none => h.sc.pfxV
  { h with
    sc := { h.sc with pc := pc, flags := g.image.sc.flags ||| g.kflags ||| h.sc.flags, pfxV := v }
    pfx := none, state := .run, park := .running, held := g.image.held, handler := g.image.handler, depth := g.image.depth, chunk := g.image.chunk
    awaiting := 0, predicted := 0, readLive := 0, wroteReg := 0 }

/-- The region of the executing ring closes behind the executing chunk (R229, R233). -/
def closeRegion (s : State) (g : Region) (pc : Word) : State :=
  let h := closedStrand g s.hart pc
  { s with ring := { s.ring with region := none, chunks := [h], active := 0 }, hart := h }

/-- The executing chunk passes the keystone on (R229 step 4): its final values leave and reach the next chunk, which may be squashed for them before it
holds the keystone (R223), and is then the oldest; one that had found no slot starts. The strand's count of record-posting commands goes on from chunk to
chunk (R342). -/
def passKeystone (s : State) (g : Region) : State :=
  let g1 := { g with kflags := g.kflags ||| s.hart.sc.flags, finals := [(s.hart.chunk, s.hart.sc.x)] }
  let s0 := deliverLiveins { s with ring := { s.ring with region := some g1 } } 1 s.hart.sc.x
  let s1 := { s0 with ring := { s0.ring with chunks := s0.ring.chunks.tail } }
  let s2 := if s1.ring.chunks.isEmpty then startChunk s1 else s1
  { s2 with ring := { s2.ring with active := 0 }, hart := { s2.ring.chunks.headD Hart.start with
    cmdNo := s.hart.cmdNo, acquired := wmax (s2.ring.chunks.headD Hart.start).acquired s.hart.acquired } }

/-- The commit of a chunk of a region that holds the keystone in COMMIT (R229, R233, R250): it waits for its queue, its live-in values and room
for its messages. -/
def commitChunk (s : State) (g : Region) (r : HoldReason) : State :=
  if !s.hart.queue.isEmpty || s.hart.awaiting != 0 || !stageFits s then s
  else
    withRecords s fun s =>
      let s1 := moveStage (flushWritten s)
      let s2 := { s1 with ring := s1.ring.learn g s1.hart }
      match r with
      | .exit target => closeRegion s2 g target
      | _ => if s2.hart.chunk + 1 = g.total then closeRegion s2 g (g.joinPc + 4) else passKeystone s2 g

/-- The keystone reaches the executing chunk, the oldest (R236): join, exit and done go on to commit; a deferred trap is taken; any other hold
ends. Its live-in values have all come with the keystone (R221). -/
def keystoneReaches (s : State) : State :=
  if s.hart.awaiting ≠ 0 then s
  else
    match s.hart.state with
    | .hold (.trap t) => withRecords s fun s => takeTrap { s with hart := { s.hart with state := .run } } t.code t.val t.point t.vec t.spec
    | .hold .join => { s with hart := { s.hart with state := .commit .join } }
    | .hold (.exit a) => { s with hart := { s.hart with state := .commit (.exit a) } }
    | .hold .doneStrand => { s with hart := { s.hart with state := .commit .doneStrand } }
    | .hold _ => { s with hart := { s.hart with state := .run, park := .running } }
    | .squash => if mayRestart s then { s with hart := s.hart.restart } else s
    | _ => s

/-! ### Events -/

/-- The index of the chunk in a slot of the executing ring. -/
def chunkIn (s : State) (slot : BitVec 3) : Option Nat := s.ring.chunks.findIdx? fun h => h.slot == slot

/-- Does something with the chunk in a slot of the executing ring as the executing one. -/
def onSlot (s : State) (slot : BitVec 3) (f : State → State) : State :=
  let s1 := putBack s
  if s.onMgmt.isSome then s
  else
    match chunkIn s1 slot with
    | none => s
    | some i => turnBack s (f (loadRing s1 s.cur i))

/-- CHUNK_START (R217); on a HALTED ring none starts (R405). -/
def execChunkStart (s : State) : Out := .next (if s.onMgmt.isSome || s.ring.halted then s else startChunk s)

/-- IMAGE_COPY_DONE (R217) -/
def execImageCopyDone (slot : BitVec 3) (s : State) : Out :=
  .next (onSlot s slot fun t => { t with hart := { t.hart with imageDone := true } })

/-- LIVEIN_ARRIVAL (R221, R223) -/
def execLiveinArrival (slot : BitVec 3) (s : State) : Out := .next (onSlot s slot receiveLiveins)

/-- CHUNK_SQUASH (R230): the signal reaches a chunk without the keystone; every younger one is squashed as well. -/
def execChunkSquash (slot : BitVec 3) (s : State) : Out :=
  .next (onSlot s slot fun t =>
    if t.ring.active = 0 || !t.hart.held then t
    else { squashYounger t with hart := squashed t false t.hart })

/-- CHUNK_RESTART (R230) -/
def execChunkRestart (slot : BitVec 3) (s : State) : Out :=
  .next (onSlot s slot fun t => if mayRestart t && !t.ring.halted then { t with hart := t.hart.restart } else t)

/-- KEYSTONE_ARRIVAL (R234, R236); on a HALTED ring nothing executes (R405). -/
def execKeystoneArrival (s : State) : Out :=
  if s.onMgmt.isSome || s.ring.halted then .next s else onKeystone s s.cur fun t => .next (keystoneReaches t)

end Sys2Proof.Machine
end

