-- ==== Sys2Proof/Machine/Actor.lean ====
section
/-! DEFINITION. Mailboxes (spec/11 R238 to R245), the instructions of major 0x35 that serve actors (R253 to R259), and messages between the
outbound buffer and a mailbox (R241 to R243, R250 to R252; spec/25 R475). -/

namespace Sys2Proof.Machine

/-! ### Destination words and headers (R243, R244) -/

/-- MBX of a destination word -/
def destMbx (d : Word) : BitVec 5 := d.extractLsb' 0 5
/-- KIND: a host-visible mailbox -/
def destHost (d : Word) : Bool := d.getLsbD 5
/-- TARGET -/
def destTarget (d : Word) : BitVec 14 := d.extractLsb' 6 14
/-- MODULE -/
def destModule (d : Word) : BitVec 14 := d.extractLsb' 20 14
/-- TAG -/
def destTag (d : Word) : BitVec 16 := d.extractLsb' 34 16
/-- BEATS, the length less one -/
def destBeats (d : Word) : BitVec 3 := d.extractLsb' 50 3

/-- Whether a destination word has a nonzero bit where it must be zero (R243, R254). -/
def destBad (d : Word) : Bool :=
  d.extractLsb' 53 11 != 0 || (if destHost d then destMbx d != 0 else d.extractLsb' 18 2 != 0)

/-- The mailbox that a destination word names, with its module: what no later message may pass (R250). -/
def destKey (d : Word) : BitVec 34 := d.extractLsb' 0 34

/-- MSGHDR as its receiver would see it, with MBX still zero (R244). -/
def headerOf (tag : BitVec 16) (beats : BitVec 3) (dmbx : BitVec 5) (ret host : Bool) (src smod : BitVec 14) : Word :=
  (0#5 : BitVec 5) ++ smod ++ src ++ BitVec.ofBool host ++ BitVec.ofBool ret ++ dmbx ++ (0#5 : BitVec 5) ++ beats ++ tag

/-- A message of an actor (R244, R254). -/
def messageOf (s : State) (dest : Word) (payload : List Byte) : Message :=
  let aid : BitVec 12 := (s.ring.resident.map (·.2)).getD 0
  { dest := dest, payload := payload, time := 0
    hdr := headerOf (destTag dest) (destBeats dest) (destMbx dest) false false (aid.setWidth 14) s.module }

/-! ### Mailboxes (R240 to R242) -/

/-- A mailbox with nothing in it. -/
def Mailbox.isEmpty (b : Mailbox) : Bool := b.queue.isEmpty && b.spill.isEmpty

/-- The capacity of a spill area (R240). -/
def Mailbox.spillRoom (b : Mailbox) : Bool := decide (b.spill.length < 2 ^ b.splog.toNat)

/-- A mailbox after an arrival, if it accepts one (R242). -/
def Mailbox.accept (b : Mailbox) (resident : Bool) (m : Message) : Option Mailbox :=
  if resident && b.spill.isEmpty && decide (b.queue.length < 64) then some { b with queue := b.queue ++ [m] }
  else if b.spillRoom then some { b with spill := b.spill ++ [m] }
  else none

/-- The supervisor runtime's own actor (R238). -/
def runtimeAid : BitVec 12 := 4095#12

/-- Whether a mailbox takes messages of a type (R241). The runtime's command mailbox takes those of any type (DESIGN CHOICE, log 32). -/
def Actor.admits (a : Actor) (d : Word) : Bool :=
  let m := destMbx d
  let b := a.box m
  b.mode != 0 && m != 31 && ((a.aid == runtimeAid && m == 0) || (b.tag == destTag d && b.beats == destBeats d))

/-- A 16-bit counter that stops at its maximum. -/
def bump (c : BitVec 16) : BitVec 16 := if c = BitVec.allOnes 16 then c else c + 1

/-- Whether an actor is resident on its ring (R238); one that a save is releasing takes no more into its queues (R400). -/
def isResident (s : State) (a : Actor) : Bool := (s.ringAt a.ring).resident == some (a.jid, a.aid) && a.phase != .released

/-- The actor of the module with a number (R238); one that has finished exists no more for delivery (R243 is silent: DESIGN CHOICE, log 102). -/
def actorOf (s : State) (aid : BitVec 12) : Option Actor := s.actors.find? fun (a : Actor) => a.aid == aid && a.phase != .finished

/-- Whether an actor is runnable (R260); one that software has taken off its ring is not (DESIGN CHOICE, log 35). -/
def Actor.runnable (a : Actor) : Bool :=
  let mail := a.ctxQueued || a.mbx.toList.any fun b => b.mode == 1 && !b.isEmpty
  match a.phase with
  | .entry => true
  | .saved => true
  | .handlers => mail
  | .onRing => mail
  | .released => false
  | .swept => false
  | .finished => false

/-- An actor after something has changed: one that has become runnable by it waits from now on (R260). -/
def Actor.queueUp (was a : Actor) (order : Nat) : Actor := if !was.runnable && a.runnable then { a with since := order } else a

/-- What becomes of a message that is offered (R242, R243). -/
inductive Offer where
  | accepted (s : State)
  | refused
  | absent

/-- A message offered to an actor: to the mailbox it names, or to the reject mailbox, which counts it (R241, R242). -/
def offerActor (s : State) (a : Actor) (msg : Message) : Offer :=
  let fits := a.admits msg.dest
  let m := if fits then destMbx msg.dest else 31
  match (a.box m).accept (isResident s a) msg with
  | none => .refused
  | some b =>
    let a1 := a.setBox m b
    let a2 := if fits then a1 else { a1 with typeErr := bump a1.typeErr }
    .accepted { s.putActor (a.queueUp a2 s.order) with order := s.order + 1 }

/-- The queue pair that the binding of a host mailbox names: its port and QPN (R473). -/
def bindingPair (h : BitVec 14) (e : Word) : BitVec 3 × BitVec 24 := (BitVec.ofNat 3 (4 * (h.toNat / 8192) + bitsAt e.toNat 24 2), e.extractLsb' 0 24)

/-- A message that goes to the host: it takes a receive WQE of the queue pair to which its mailbox is bound (R475). -/
def offerHost (s : State) (h : BitVec 14) (msg : Message) : Offer :=
  let e := (lookupKey s.ctl (bindingPa s h.toNat + 8)).getD 0
  let qp := bindingPair h e
  if !e.getLsbD 26 then .absent
  else
    match lookupKey s.wqes qp with
    | some (n + 1) => .accepted { s with wqes := putKey s.wqes qp n, host := .send qp.1 qp.2 msg.payload :: s.host }
    | _ => .refused

/-- A message offered to a mailbox of this module (R242, R243, R475). -/
def offerHere (s : State) (msg : Message) : Offer :=
  if destHost msg.dest then offerHost s (destTarget msg.dest) msg
  else
    match actorOf s ((destTarget msg.dest).setWidth 12) with
    | some a => offerActor s a msg
    | none => .absent

/-- A message that names nothing returns to the reject mailbox of its sender (R243). -/
def offerBack (s : State) (msg : Message) : Offer :=
  match actorOf s ((msg.hdr.extractLsb' 31 14 : BitVec 14).setWidth 12) with
  | none => .absent
  | some a =>
    match (a.box 31).accept (isResident s a) { msg with hdr := msg.hdr ||| (1#64 <<< 29) } with
    | none => .refused
    | some b => .accepted { s.putActor (a.queueUp { a.setBox 31 b with undeliv := bump a.undeliv } s.order) with order := s.order + 1 }

/-- The oldest spilled message of a mailbox of a resident actor moves to its on-die queue while that has room, and SPHEAD goes on (R242, R397). -/
def Mailbox.refill (b : Mailbox) : Mailbox :=
  match b.spill with
  | m :: t =>
    if b.queue.length < 64 then
      { b with queue := b.queue ++ [m], spill := t, sphead := BitVec.ofNat 21 ((b.sphead.toNat + 1) % 2 ^ b.splog.toNat) }
    else b
  | [] => b

/-! ### send, sendi, widf (R254, R259) -/

/-- Puts a message on its way (R250): a chunk stages it, 32 at most; a strand outside any chunk has no commit to wait for. -/
def stageMessage (msg : Message) : M Unit := do
  let s ← get
  if !s.hart.held then
    if 256 ≤ s.ring.outbound.length then wait (.park .stalled)
    else modRing fun r => { r with outbound := r.outbound ++ [outMsg (coreIx s) msg] }
  else if s.hart.stage.length < 32 then modHart fun h => { h with stage := h.stage ++ [msg] }
  else if s.ring.active ≠ 0 then wait (.hold .stageFull)
  else if !stageFits s then wait (.park .stalled)
  else
    earlyWrite
    modify moveStage
    modHart fun h => { h with stage := [msg] }

/-- Whether n bytes at a physical address lie in the executing core's local store. -/
def inOwnStore (s : State) (pa n : Nat) : Bool := decide (selfStore s ≤ pa ∧ pa + n ≤ selfStore s + 0x80000)

/-- Checks that n beats from an address up lie in the executing core's local store, each where its page maps it: their physical addresses; else ACCESS, with the
address of the buffer (R254). -/
def sendBeats (buf : Word) : Nat → M (List (Word × Nat))
  | 0 => return []
  | n + 1 => do
    let rest ← sendBeats buf n
    let va := buf + BitVec.ofNat 64 (32 * n)
    match ← attempt (translate va 32 .r) with
    | .error _ => trap causeACCESS buf
    | .ok (pa, _) => if inOwnStore (← get) pa 32 then return rest ++ [(va, pa)] else trap causeACCESS buf

/-- Reads beats, as Tracked loads (R228, R254). -/
def readBeats : List (Word × Nat) → M (List Byte)
  | [] => return []
  | (va, pa) :: t => do
    lineRoom pa 32
    let x ← readPhys va pa 32
    let rest ← readBeats t
    return bytesOf x 32 ++ rest

/-- send (R254) -/
def execSend (a b : BitVec 5) (s : State) : Out :=
  runScalar (do
    let dest ← rdX a
    let buf ← rdX b
    emptyQueue
    if destBad dest then ill (wordR 0x35 0 a b (4 <<< 6))
    else
      aligned buf 32
      let beats ← sendBeats buf ((destBeats dest).toNat + 1)
      let data ← readBeats beats
      stageMessage (messageOf (← get) dest data)
      nextPc) s

/-- sendi (R254) -/
def execSendi (a b : BitVec 5) (s : State) : Out :=
  runScalar (do
    let dest ← rdX a
    let x0 ← rdX b
    let x1 ← rdX (b + 1)
    let x2 ← rdX (b + 2)
    let x3 ← rdX (b + 3)
    emptyQueue
    if destBad dest || destBeats dest != 0 then ill (wordR 0x35 0 a b (5 <<< 6))
    else
      stageMessage (messageOf (← get) dest ([x0, x1, x2, x3].flatMap fun x => bytesOf x.toNat 8))
      nextPc) s

/-- The bits of a field of WID (R258, R259): its low bit and its width. -/
def widField (shape : BitVec 42) (f : Nat) : Nat × Nat :=
  let w (i : Nat) : Nat := bitsAt shape.toNat (6 * i) 6
  (((List.range f).map w).sum, w f)

/-- widf (R259) -/
def execWidf (d : BitVec 5) (f : BitVec 6) (s : State) : Out :=
  runScalar (do
    let h := (← get).hart
    let p := widField h.widShape f.toNat
    wrX d (BitVec.ofNat 64 (bitsAt h.wid.toNat p.1 p.2))
    nextPc) s

/-! ### waitmsg (R256) -/

/-- The head message of a mailbox and the mailbox without it; where spilled messages refill at once, they do (log 4). -/
def Mailbox.take (b : Mailbox) (lag : Bool) : Option (Message × Mailbox) :=
  match (if b.queue.isEmpty && !lag then b.refill else b).queue with
  | [] => none
  | m :: t =>
    let b1 := if b.queue.isEmpty && !lag then b.refill else b
    some (m, { b1 with queue := t })

/-- A message taken by the executing strand: the receive buffer, MSGHDR and the floor (R248, R256, R316); one in error leaves the buffer in error (R291). -/
def takeMessage (s : State) (a : Actor) (m : BitVec 5) (b : Mailbox) (msg : Message) : State :=
  let s1 := raiseFloor (s.putActor (a.setBox m b)) msg.time
  let s2 := storeDirect s1 (selfStore s1 + 0x7FF00) (ofBytes msg.payload) 256
  let s3 := if msg.bad then s2.spoil (selfStore s2 + 0x7FF00) 256 else s2
  { s3 with hart := { s3.hart with msgHdr := seenHdr m msg } }

/-- Whether the executing strand is a handler, or a chunk of a region that a handler has forked (R249, R256). -/
def isHandler (s : State) : Bool :=
  s.hart.handler.isSome || match s.ring.region with
    | some g => g.image.handler.isSome
    | none => false

/-- waitmsg (R256) -/
def execWaitmsg (a : BitVec 5) (s : State) : Out :=
  runScalar (do
    let w := wordR 0x35 0 a 0 (3 <<< 6)
    let x ← rdX a
    emptyQueue
    keystoneOnly
    let s ← get
    let m : BitVec 5 := x.extractLsb' 0 5
    match residentActor s with
    | none => ill w
    | some act =>
      if x.extractLsb' 5 59 ≠ 0 || (act.box m).mode != 2 || isHandler s then ill w
      else
        match (act.box m).take s.lag with
        | none => wait (.park .waitmsg)
        | some (msg, b) =>
          set (takeMessage s act m b msg)
          nextPc) s

/-! ### done (R255, R335) -/

/-- Whether an actor is handler-driven: HMASK or HREJ is nonzero (R239, R255). -/
def Actor.handled (a : Actor) : Bool := a.mbx.toList.any fun b => b.mode == 1

/-- The executing ring without a strand. -/
def strandless (s : State) : State :=
  { s with
    ring := { s.ring with chunks := [], active := 0, region := none, inEntry := false, lastSlot := s.hart.slot, lastSeq := s.hart.seq }
    hart := { Hart.start with slot := s.hart.slot, seq := s.hart.seq } }

/-- A ring that becomes EMPTY; a latched change of shape applies at once (R390, R403). -/
def Ring.emptied (r : Ring) : Ring := { r with state := .empty, resident := none, inEntry := false, changeDue := false, overrun := false }.applyIfEmpty

/-- The end of an entry strand (R255): the actor becomes handler-driven, or finishes and leaves its ring. -/
def endEntry (s : State) : State :=
  let s1 := strandless s
  match residentActor s with
  | none => { s1 with ring := s1.ring.emptied }
  | some a =>
    if a.handled then s1.putActor { a with phase := .handlers, driven := true }
    else { s1.putActor { a with phase := .finished } with ring := s1.ring.emptied }

/-- done (R255, R335): a handler holds for its commit; an entry strand ends; in a forked loop, nested or not, it traps ILL. -/
def execDoneStrand (s : State) : Out :=
  let w := wordR 0x35 0 0 0 (2 <<< 6)
  let check : M Unit := do
    if (← get).ring.region.isSome || decide (0 < (← get).hart.depth) then ill w else endCheck w false
  if s.hart.handler.isSome then runScalar (do check; wait (.hold .doneStrand)) s
  else runThen check endEntry s

/-! ### Injection and retry (R250, R252) -/

/-- The outbound message at a place of a ring's buffer. -/
def outAt (r : Ring) (i : Nat) : Option OutMsg := r.outbound[i]?

/-- Whether the message at a place may be injected: it is neither sent nor waiting, and passes no earlier message to its mailbox (R250). -/
def mayInject (r : Ring) (i : Nat) : Bool :=
  match outAt r i with
  | none => false
  | some o => !o.sent && !o.waiting && (r.outbound.take i).all fun p => destKey p.msg.dest != destKey o.msg.dest

/-- The module with the outbound message at a place changed or removed. -/
def modOut (s : State) (n : BitVec 6) (i : Nat) (f : OutMsg → List OutMsg) : State :=
  s.modRingAt n fun r => { r with outbound := r.outbound.take i ++ (match r.outbound[i]? with | some o => f o | none => []) ++ r.outbound.drop (i + 1) }

/-- A message that was refused waits for its back-off (R250). -/
def OutMsg.refuse (o : OutMsg) : OutMsg := { o with sent := false, waiting := true, refusals := o.refusals + 1 }

/-- The outbound message at a place names nothing, and returns to its sender (R243). A sender that is gone takes nothing back. -/
def returnOut (s : State) (n : BitVec 6) (i : Nat) (msg : Message) : State :=
  match offerBack s msg with
  | .accepted t => modOut t n i fun _ => []
  | .refused => modOut s n i fun o => [o.refuse]
  | .absent => modOut s n i fun _ => []

/-- The packet of a message (R431). -/
def messagePkt (s : State) (n : BitVec 6) (msg : Message) : Packet :=
  { kind := 6, tc := 1, ord := true, resp := false, dmod := destModule msg.dest, smod := s.module, sring := n, upath := 0, slow := false, age := 0,
    jid := (s.ringAt n).jid, pseq := 0, status := 0, rtag := s.nextTag,
    payload := bytesOf msg.dest.toNat 8 ++ bytesOf msg.hdr.toNat 8 ++ msg.payload, time := msg.time }

/-- TIME of a core of a ring at an injection, which the message carries (R316, R317). -/
def ringTime (s : State) (n : BitVec 6) (core : BitVec 3) : Word := wmax (s.die (dieOf n)).count ((s.ringAt n).floor[core.toNat]'core.isLt)

/-- Injects the outbound message at a place of a ring's buffer (R250): one for another module goes as a packet, and so does one for this module while switches
lag (log 4). -/
def injectAt (s : State) (n : BitVec 6) (i : Nat) : State :=
  match outAt (s.ringAt n) i with
  | none => s
  | some o =>
    if !mayInject (s.ringAt n) i then s
    else
      let msg := { o.msg with time := ringTime s n o.core }
      let dm := destModule msg.dest
      if dm = s.module && !s.lag then
        match offerHere s msg with
        | .accepted t => modOut t n i fun _ => []
        | .refused => modOut s n i fun o => [o.refuse]
        | .absent => returnOut s n i msg
      else if dm = s.module || isPresent s dm then
        let s1 := queuePacket s (messagePkt s n msg)
        { modOut s1 n i fun o => [{ o with sent := true, rtag := s.nextTag }] with nextTag := s.nextTag + 1 }
      else returnOut s n i msg

/-! ### Events -/

/-- MESSAGE_ARRIVAL (R241, R242, R250): a message is offered to a mailbox of this module. -/
def execMessageArrival (msg : Message) (s : State) : Out :=
  .next (match offerHere s msg with
    | .accepted t => t
    | .refused => s
    | .absent => s)

/-- SPILL_REFILL (R242) -/
def execSpillRefill (aid : BitVec 12) (mbx : BitVec 5) (s : State) : Out :=
  .next (match actorOf s aid with
    | none => s
    | some a => if isResident s a then s.putActor (a.setBox mbx (a.box mbx).refill) else s)

/-- OUTBOUND_INJECT (R250) -/
def execOutboundInject (ring : BitVec 6) (idx : BitVec 8) (s : State) : Out := .next (injectAt s ring idx.toNat)

/-- RETRY_BACKOFF_EXPIRY (R250): the message is offered again. -/
def execRetryBackoffExpiry (ring : BitVec 6) (idx : BitVec 8) (s : State) : Out :=
  .next (injectAt (modOut s ring idx.toNat fun o => [{ o with waiting := false }]) ring idx.toNat)

/-- ACTSTALL_EXPIRY (R252); the count stands still in debug halt (R405). -/
def execActstallExpiry (ring : BitVec 6) (s : State) : Out :=
  .next (if (s.ringAt ring).outbound.isEmpty || (s.ringAt ring).halted then s else s.modRingAt ring fun r => { r with pact := true })

end Sys2Proof.Machine
end

