-- ==== Sys2Proof/Machine/Branch.lean ====
section
/-! DEFINITION. Branches and jumps: majors 0x14 to 0x17 (spec/05 R132 to R134), and the exit of a chunk from its region (spec/10 R233). -/

namespace Sys2Proof.Machine

/-- Whether a taken branch or j to an address leaves the forked region of the executing chunk (R233). Code of a trap handler is no part of
the loop (DEDUCED, log 23): from the trap entry to its eret, no branch leaves the region. -/
def leavesRegion (s : State) (target : Word) : Bool :=
  match s.ring.region with
  | none => false
  | some g =>
    s.hart.held && s.hart.inTrap == g.image.inTrap && !(decide (g.forkPc + 4 ≤ target) && decide (target ≤ g.joinPc))

/-- A taken conditional branch or j: it continues at the target, or holds for the keystone and exits the region (R132, R133, R233). -/
def jumpOrExit (target : Word) : M Unit := do
  if leavesRegion (← get) target then wait (.hold (.exit target)) else setPc target

/-- A conditional branch (R132). -/
def opBranch (a b : BitVec 5) (off : BitVec 13) (cond : Word → Word → Bool) : M Unit := do
  let x ← rdX a
  let y ← rdX b
  let pc ← rdPc
  if cond x y then jumpOrExit (pc + wordOff off) else nextPc

/-- j (R133) -/
def execJ (off : BitVec 26) (s : State) : Out :=
  runScalar (do jumpOrExit ((← rdPc) + wordOff off)) s

/-- jal (R133): the link goes to s1. -/
def execJal (off : BitVec 26) (s : State) : Out :=
  runScalar (do
    let pc ← rdPc
    wrX 1 (pc + 4)
    setPc (pc + wordOff off)) s

/-- jalr (R133): ALIGN on a target that is no multiple of 4, with no link written. -/
def execJalr (d a : BitVec 5) (imm : BitVec 16) (s : State) : Out :=
  runScalar (do
    let x ← rdX a
    let target := x + sx imm
    let pc ← rdPc
    if target.toNat % 4 ≠ 0 then trap causeALIGN target
    else
      wrX d (pc + 4)
      setPc target) s

/-- beq (R132) -/
def execBeq (a b : BitVec 5) (off : BitVec 13) (s : State) : Out :=
  runScalar (opBranch a b off fun x y => x == y) s

/-- bne (R132) -/
def execBne (a b : BitVec 5) (off : BitVec 13) (s : State) : Out :=
  runScalar (opBranch a b off fun x y => x != y) s

/-- blt (R132) -/
def execBlt (a b : BitVec 5) (off : BitVec 13) (s : State) : Out :=
  runScalar (opBranch a b off fun x y => decide (x.toInt < y.toInt)) s

/-- bge (R132) -/
def execBge (a b : BitVec 5) (off : BitVec 13) (s : State) : Out :=
  runScalar (opBranch a b off fun x y => decide (y.toInt ≤ x.toInt)) s

/-- bltu (R132) -/
def execBltu (a b : BitVec 5) (off : BitVec 13) (s : State) : Out :=
  runScalar (opBranch a b off fun x y => decide (x < y)) s

/-- bgeu (R132) -/
def execBgeu (a b : BitVec 5) (off : BitVec 13) (s : State) : Out :=
  runScalar (opBranch a b off fun x y => decide (y ≤ x)) s

end Sys2Proof.Machine
end

