-- ==== Sys2Proof/Machine/Context.lean ====
section
/-! DEFINITION. Contexts (spec/20 R395 to R401): the image that ctxsave writes and ctxload installs. -/

namespace Sys2Proof.Machine

/-! ### The parts of the image (R395 to R398) -/

/-- The words of a list as bytes. -/
def wordBytes (l : List Word) : List Byte := l.flatMap fun w => bytesOf w.toNat 8

/-- A list of bytes padded with zeros, or cut, to a length. -/
def padTo (n : Nat) (l : List Byte) : List Byte := (l ++ List.replicate (n - l.length) 0).take n

/-- The sixteen user CSRs of a context, in order (R396). -/
def savedCsrs : List Csr :=
  [.vl, .vtype, .vstart, .vcfg, .fcsr, .vmode, .pfxst, .tm, .tn, .tk, .livein, .chunkseq, .wid, .widshape, .mbxstat, .msghdr]

/-- The user CSRs of the executing strand as bytes. -/
def csrBytes (s : State) : List Byte := wordBytes (savedCsrs.map (csrGet s 0))

/-- The scalar registers of a strand, s0 as zero. -/
def scalarBytes (h : Hart) : List Byte := wordBytes ((List.range 32).map fun i => h.sc.get (BitVec.ofNat 5 i))

/-- A mailbox descriptor (R397). -/
def mailboxBytes (b : Mailbox) : List Byte :=
  wordBytes [
    (0#43 : BitVec 43) ++ b.mode ++ b.beats ++ b.tag, b.haddr, b.spbase,
    (0#17 : BitVec 17) ++ b.splog ++ BitVec.ofNat 21 b.spill.length ++ b.sphead]

/-- A mailbox that no actor has. -/
def Mailbox.closed : Mailbox := { tag := 0, beats := 0, mode := 0, haddr := 0, splog := 8, spbase := 0, sphead := 0, queue := [], spill := [] }

/-- A stream slot (R395). -/
def slotBytes (sl : StreamSlot) : List Byte :=
  bytesOf (if sl.bound then sl.record.toNat else 0) 64
    ++ wordBytes [(0#56 : BitVec 56) ++ BitVec.ofBool sl.ipend ++ BitVec.ofBool sl.bound ++ sl.reg, sl.pos.setWidth 64, sl.icnt.setWidth 64]
    ++ List.replicate 40 0

/-- The masks k0 to k7, k0 as zero. -/
def maskBytes (h : Hart) : List Byte :=
  List.replicate 4096 0 ++ (List.range 7).flatMap fun i => bytesOf (h.mask (BitVec.ofNat 3 (i + 1))).toNat 4096

/-- The vector registers, v(i) at i × W, in 128 KiB. -/
def vectorBytes (h : Hart) (w : Nat) : List Byte :=
  padTo 0x20000 ((List.range (vregCount h.sc.nreg)).flatMap fun i => bytesOf (h.vr (BitVec.ofNat 6 i)).toNat w)

/-- The tile state from 0x9000 to 0x3_6000. -/
def tileBytes (h : Hart) : List Byte :=
  bytesOf h.aScale.toNat 2048 ++ bytesOf h.bScale.toNat 1024 ++ List.replicate 1024 0 ++ bytesOf h.aBuf.toNat 0x8000
    ++ bytesOf h.bBuf.toNat 0x4000 ++ (List.range 4).flatMap fun i => bytesOf (h.z.toList.getD i 0).toNat 0x8000

/-- A message record (R398). -/
def messageBytes (m : Message) (hdr : Word) (sent : Bool) : List Byte :=
  wordBytes [m.dest, hdr, (BitVec.ofBool sent).setWidth 64, 0] ++ padTo 256 m.payload

/-- A pier-command record (R398). -/
def pierBytes (c : PierCmd) : List Byte :=
  wordBytes [
    c.done ++ c.cmdNo ++ c.status ++ c.kind, c.fva,
    (0#32 : BitVec 32) ++ c.fidx ++ BitVec.ofNat 16 c.nextWalker, 0]
    ++ bytesOf c.param.toNat 32 ++ bytesOf c.graph.toNat 32

/-- The walkers of a command that a context holds: those with work left, but for the walkers of a walk from NEXT up. -/
def PierCmd.savedWalkers (c : PierCmd) : List Walker :=
  c.walkers.filter fun w => !w.finished && (c.kind != 5 || decide (w.index.toNat < c.nextWalker))

/-- The walker records of the commands (R398). -/
def walkerBytes : Nat → List PierCmd → List Byte
  | _, [] => []
  | k, c :: t =>
    (c.savedWalkers.flatMap fun w =>
      wordBytes [(0#24 : BitVec 24) ++ w.hops ++ w.index ++ BitVec.ofNat 16 k, w.ptr, BitVec.ofNat 64 (w.out.toNat + w.written), 0])
      ++ walkerBytes (k + 1) t

/-- The region block (R398). The fork image stands as the executing strand to read its CSRs. -/
def regionBytes (s : State) (g : Region) (w : Nat) : List Byte :=
  padTo 0x100 (scalarBytes g.image) ++ padTo 0x100 (csrBytes { s with hart := g.image })
    ++ padTo 0x200 (wordBytes [g.forkPc, g.joinPc, g.count, g.grain, s.hart.seq.setWidth 64, g.kflags.setWidth 64])
    ++ padTo 0xC00 (g.image.slots.toList.flatMap slotBytes) ++ maskBytes g.image ++ vectorBytes g.image w

/-! ### Saving (R400) -/

/-- The resident actor as a save of the executing ring finds it: the handlers behind the keystone have returned their messages. -/
def savedActor (s : State) : Option Actor := (residentActor s).map fun a => returnMessages a (s.ring.chunks.tail)

/-- A walker of a walk at a read boundary that a record can hold: its start node has been read, at an engine of its stack (R359). A part of a payload is
read again. -/
def startRead (c : PierCmd) (ix : BitVec 16) : M PierCmd := do
  match c.walkers.find? fun w => w.index == ix with
  | none => return c
  | some w =>
    if w.finished then return c
    else if c.kind ≠ 5 then return c.put { w with part := [] }
    else if w.phase ≠ 0 then return c.put { w with phase := 1 }
    else
      let stack := (← readStack c w).getD (engineStack w.engine)
      walkerStep c (if w.admitted then w else { w with engine := stack ++ (BitVec.ofNat 2 w.index.toNat : BitVec 2) })

/-- Every walker of a command at such a boundary, with what it has determined written. -/
def quietWalkers (c : PierCmd) : List (BitVec 16) → M PierCmd
  | [] => return c
  | ix :: t => do
    let c1 ← startRead c ix
    let s ← get
    let (c2, s1) := writeResults (c1.place ix) ix c1.bytes c1 s
    set s1
    quietWalkers c2 t

/-- A command of the executing strand at read boundaries, or with a read of a page table in another module on its way. -/
def quietPier (s : State) (c : PierCmd) : State :=
  match engineRun s c.cmdNo (quietWalkers c ((c.walkers.map (·.index)).filter fun ix => c.kind != 5 || decide (ix.toNat < c.nextWalker))) with
  | (t, some d) => putPier t d
  | (t, none) => t

/-- Whether every walker of a command that a context holds is at a read boundary that its record can hold, and every result byte determined is written (R359,
R398). -/
def PierCmd.quiet (c : PierCmd) : Bool :=
  (c.walkers.all fun w => w.pending.isEmpty) && c.savedWalkers.all fun w => w.part.isEmpty && (c.kind != 5 || w.phase == 1)

/-- The copies in flight of the executing strand finish, as far as no other module holds them up (R338). -/
def settleCopies : Nat → State → State
  | 0, s => s
  | n + 1, s =>
    match execScopyRecordPost s with
    | .next t => if t.hart.copies.length < s.hart.copies.length then settleCopies n t else t
    | _ => s

/-- The executing strand as step 1 of R400 leaves it: copies finished, strips written or discarded, drain records posted, walkers at read boundaries, as
far as no response of another module is outstanding. -/
def quieted (s : State) : State :=
  let s1 := settleSlots (settleCopies s.hart.copies.length s)
  let s2 := { s1 with hart := s1.hart.refetch }
  s2.hart.piers.foldl quietPier s2

/-- Whether what R400 waits for has happened on the executing, stopped and quieted ring: no result of another module is outstanding, no strip, drain record
(R341) or live-in value (R221), no walker between read boundaries (R359), and no message that has left. -/
def saveReady (s : State) : Bool :=
  s.hart.remote.isEmpty && s.hart.vremote.isEmpty && s.hart.eremote.isEmpty && s.hart.copies.isEmpty && s.hart.awaiting == 0
    && s.hart.piers.all PierCmd.quiet
    && (s.hart.slots.toList.all fun sl => sl.emitted.isEmpty && sl.drains.isEmpty && sl.awaits.isEmpty)
    && !(s.ring.outbound.any (·.sent))

/-- Whether state of a strand holds an uncorrectable error (R291, R400). -/
def Hart.inError (h : Hart) : Bool :=
  h.sc.bad != 0 || h.vBad != 0 || h.kBad != 0 || h.zBad != 0 || h.tBad != 0 || h.cqBad != 0

/-- Whether the state of the executing, stopped ring does: its keystone's, or its region's fork image's (R400). -/
def targetInError (s : State) : Bool := s.hart.inError || match s.ring.region with
  | some g => g.image.inError
  | none => false

/-- Whether the keystone chunk is to start afresh from the fork image (R396, R401): it has not begun, or has been squashed. -/
def startsAfresh (s : State) : Bool := s.ring.region.isSome && (s.hart.state == .start || s.hart.state == .squash)

/-- The queue records of an actor: by mailbox, in queue order. -/
def queueRecords (a : Actor) : List (BitVec 5 × Message) :=
  (List.range 32).flatMap fun i => ((a.box (BitVec.ofNat 5 i)).queue).map fun m => (BitVec.ofNat 5 i, m)

/-- MSGHDR of a message on its way, as its receiver would see it: taken from the mailbox that its destination word names (R244, R398; DEDUCED, log 92). -/
def comingHdr (m : Message) : Word := seenHdr (destMbx m.dest) m

/-- The bytes of the context of the executing, stopped ring (R395 to R398). sent: an outbound message may have left (R462). -/
def contextBytes (s : State) : List Byte :=
  let h := s.hart
  let r := s.ring
  let a := savedActor s
  let boxes := match a with | some x => x.mbx.toList | none => List.replicate 32 Mailbox.closed
  let recs := match a with | some x => queueRecords x | none => []
  let w := regBytes r.gang h.sc.nreg
  let walkers := (h.piers.map fun c => c.savedWalkers.length).sum
  let len := 0x56000 + (if r.region.isSome then 0x29000 else 0)
    + 288 * (h.stage.length + r.outbound.length + recs.length) + 96 * h.piers.length + 32 * walkers
  let head := wordBytes ([
    (0#43 : BitVec 43) ++ BitVec.ofBool (startsAfresh s) ++ h.sc.nreg ++ BitVec.ofBool r.gang ++ BitVec.ofBool r.region.isSome ++ 1#16,
    BitVec.ofNat 64 len,
    (0#36 : BitVec 36) ++ ((r.resident.map (·.2)).getD 0) ++ r.jid,
    BitVec.ofNat 32 h.sc.vlmax.toNat ++ BitVec.ofNat 32 w,
    BitVec.ofNat 16 h.piers.length ++ BitVec.ofNat 16 recs.length ++ BitVec.ofNat 16 r.outbound.length ++ BitVec.ofNat 16 h.stage.length,
    BitVec.ofNat 64 walkers, strandTime s, (0#41 : BitVec 41) ++ BitVec.ofNat 7 h.cq.length ++ h.cmdNo]
    ++ savedCsrs.map (csrGet s 0) ++ [r.epc, r.ecause.setWidth 64, r.eval, r.estat])
  padTo 0x100 head ++ scalarBytes h ++ boxes.flatMap mailboxBytes ++ h.slots.toList.flatMap slotBytes
    ++ padTo 0x400 (h.cq.flatMap fun q => bytesOf q.toNat 16) ++ List.replicate 0x200 0 ++ maskBytes h ++ tileBytes h ++ vectorBytes h w
    ++ (match r.region with | some g => regionBytes s g w | none => [])
    ++ h.stage.flatMap (fun m => messageBytes m (comingHdr m) false) ++ r.outbound.flatMap (fun o => messageBytes o.msg (comingHdr o.msg) o.sent)
    ++ recs.flatMap (fun p => messageBytes p.2 (seenHdr p.1 p.2) false)
    ++ h.piers.flatMap pierBytes ++ walkerBytes 0 h.piers

/-- The sum of two 16-bit counters, which stops at the maximum (R245). -/
def sumCounts (a b : BitVec 16) : BitVec 16 := if a.toNat + b.toNat < 65536 then a + b else BitVec.allOnes 16

/-- The actor of the executing ring as a release finds it (step 4 of R400): what its queues and counters hold is in the context, and what comes from now on goes to
its spill areas. -/
def beginRelease (s : State) : State :=
  match savedActor s with
  | none => s
  | some a =>
    let waits := a.mbx.toList.any fun b => b.mode == 1 && !b.queue.isEmpty
    s.putActor { a with
      phase := .released, ctxQueued := waits, mbx := a.mbx.map fun b => { b with counted := b.spill.length }, typeErr := 0, undeliv := 0 }

/-- The executing ring EMPTY, with what its buffers held now in the context. -/
def endRelease (s : State) : State :=
  let s1 : State := match residentActor s with
    | none => s
    | some a => s.putActor { a with mbx := a.mbx.map fun b => { b with queue := [] } }
  { s1 with
    ring := { s1.ring with chunks := [], active := 0, region := none, outbound := [], ppre := false, pact := false, ptmo := false }.emptied
    hart := Hart.start }

/-- The executing ring released (step 4 of R400). -/
def releaseRing (s : State) : State := endRelease (beginRelease s)

/-- A release that does not come about: the actor is resident still, with the counts that the context holds. -/
def undoRelease (bytes : List Byte) (s : State) : State :=
  match residentActor s with
  | none => s
  | some a =>
    let n (off : Nat) : BitVec 16 := BitVec.ofNat 16 (readLE (fun i => bytes.getD i 0) off 2)
    s.putActor { a with phase := .onRing, typeErr := sumCounts (n (0x40 + 8 * 14)) a.typeErr, undeliv := sumCounts (n (0x42 + 8 * 14)) a.undeliv }

/-- What the context of the executing ring has no field for. -/
def keptOf (s : State) : Kept :=
  { depth := s.hart.depth, inTrap := s.hart.inTrap
    dReg := (s.ring.region.map (·.dReg)).getD 0, aReg := (s.ring.region.map (·.aReg)).getD 0 }

/-- The executing ring's actor keeps it (R380; log 92). -/
def noteKept (s : State) : State :=
  match residentActor s with
  | none => s
  | some a => s.putActor { a with kept := keptOf s }

/-- The bytes of a list from an address that is a multiple of 64, in blocks of 64. -/
def blocksOf (pa : Nat) (l : List Byte) : List (Nat × List Byte) :=
  (List.range (ceilDiv l.length 64)).map fun i => (pa + 64 * i, (l.drop (64 * i)).take 64)

/-- Writes blocks at physical addresses of another module, as a Keystone-only instruction does (R400 step 3, R434). -/
def writeBlocks : List (Nat × List Byte) → M Unit
  | [] => pure ()
  | (pa, l) :: t => do
    writePhys (BitVec.ofNat 64 pa) pa l.length (ofBytes l) true false
    writeBlocks t

/-- The checks of R399 on the operands of ctxsave and ctxload: the address, of which a nonzero bit in [63:56] traps ILL (DESIGN CHOICE, log 100), and RING, the
flag and PAGES. -/
def contextOperands (w : Word32) (a b : BitVec 5) : M (Nat × BitVec 6 × Bool × Nat) := do
  let x ← rdX a
  let y ← rdX b
  let n : BitVec 6 := y.extractLsb' 0 6
  if y.extractLsb' 7 5 ≠ 0 || y.extractLsb' 32 32 ≠ 0 || x.toNat % 4096 ≠ 0 || x.extractLsb' 56 8 ≠ 0 || paSpace1 x.toNat || ownRing (← get) n then
    ill w
  else return (x.toNat, n, y.getLsbD 6, (y.extractLsb' 12 20).toNat)

/-- A value of a ring's keystone as the executing strand. -/
def viewRing {α : Type} (s : State) (n : BitVec 6) (f : State → α) : α := f (turnTo s n 0)

/-- The writes of a context at another module, all of it as it was when the save began (R400 step 3); a denial leaves the target as it was. -/
def sendContext (pa : Nat) (n : BitVec 6) (release : Bool) : M Unit := do
  let l := (← get).hart.saving
  match ← attempt (writeBlocks (blocksOf pa l)) with
  | .error (c, v) =>
    modify fun t => if release then onRing t n 0 (undoRelease l) else t
    modHart fun h => { h with saving := [] }
    trap c v
  | .ok _ => modHart fun h => { h with saving := [] }

/-- ctxsave (R399, R400). An error in the target's state is found before LEN and the address are checked: the spec gives them no order (DESIGN CHOICE,
log 97). -/
def execCtxsave (a b : BitVec 5) (s : State) : Out :=
  runScalar (do
    let w := wordR 0x1E 0 a b 0x11
    systemStart w
    let (pa, n, release, pages) ← contextOperands w a b
    let s ← get
    let r := s.ringAt n
    if !s.hart.saving.isEmpty then
      sendContext pa n release
      modify fun t => if release then onRing t n 0 endRelease else t
      nextPc
    else if r.state ≠ .stopped || r.halted then ill w
    else
      let s1 := onRing s n 0 quieted
      if !viewRing s1 n saveReady then
        set s1
        wait (.keep .stalled)
      else if viewRing s1 n targetInError then trap causeMCHK (BitVec.ofNat 64 pa)
      else
        let l := viewRing s1 n contextBytes
        if pages * 4096 < l.length then trap causeACCESS (BitVec.ofNat 64 l.length)
        else if !physAllowed s pa l.length .w then trap causeACCESS (BitVec.ofNat 64 pa)
        else
          set (onRing s1 n 0 noteKept)
          if paModule pa = s.module then
            modify fun t => t.pokeBytes pa l
            modify fun t => if release then onRing t n 0 releaseRing else t
            nextPc
          else
            modify fun t => if release then onRing t n 0 beginRelease else t
            modHart fun h => { h with saving := l }
            wait (.keep .stalled)) s

/-! ### Loading (R401) -/

/-- A number of n bytes at an offset of an image. -/
def imgNum (rd : Nat → Byte) (off n : Nat) : Nat := readLE rd off n

/-- A word at an offset of an image. -/
def imgWord (rd : Nat → Byte) (off : Nat) : Word := BitVec.ofNat 64 (imgNum rd off 8)

/-- Whether n bytes of an image are zero. -/
def imgZero (rd : Nat → Byte) (off n : Nat) : Bool := (List.range n).all fun i => rd (off + i) == 0

/-- The header of a context (R396), with the offsets of the parts of its tail. -/
structure CtxHead where
  infork : Bool
  gang : Bool
  nreg : BitVec 2
  kstart : Bool
  len : Nat
  jid : BitVec 16
  aid : BitVec 12
  w : Nat
  vlmax : Nat
  stcnt : Nat
  ocnt : Nat
  qcnt : Nat
  pcmd : Nat
  pwlk : Nat
  tf : Word
  cmdNo : BitVec 16
  cqcnt : Nat
deriving DecidableEq, Repr

/-- The header of an image. -/
def ctxHead (rd : Nat → Byte) : CtxHead :=
  let w0 := imgWord rd 0
  { infork := w0.getLsbD 16, gang := w0.getLsbD 17, nreg := w0.extractLsb' 18 2, kstart := w0.getLsbD 20, len := imgNum rd 8 8
    jid := BitVec.ofNat 16 (imgNum rd 0x10 2), aid := BitVec.ofNat 12 (imgNum rd 0x12 2), w := imgNum rd 0x18 4
    vlmax := imgNum rd 0x1C 4, stcnt := imgNum rd 0x20 2, ocnt := imgNum rd 0x22 2, qcnt := imgNum rd 0x24 2
    pcmd := imgNum rd 0x26 2, pwlk := imgNum rd 0x28 4, tf := imgWord rd 0x30, cmdNo := BitVec.ofNat 16 (imgNum rd 0x38 2)
    cqcnt := imgNum rd 0x3A 2 % 128 }

/-- Where the message records of an image begin. -/
def CtxHead.messages (c : CtxHead) : Nat := 0x56000 + (if c.infork then 0x29000 else 0)
/-- Where the pier commands begin. -/
def CtxHead.piers (c : CtxHead) : Nat := c.messages + 288 * (c.stcnt + c.ocnt + c.qcnt)
/-- Where the walkers begin. -/
def CtxHead.walkers (c : CtxHead) : Nat := c.piers + 96 * c.pcmd

/-- Whether every field that R395 to R398 call zero is zero. -/
def ctxZeros (rd : Nat → Byte) (c : CtxHead) : Bool :=
  let n := vregCount c.nreg
  let slotZero (o : Nat) : Bool :=
    bitsAt (imgNum rd (o + 0x40) 8) 8 56 == 0 && imgZero rd (o + 0x4E) 2 && imgZero rd (o + 0x54) 44
  (imgWord rd 0).extractLsb' 21 43 == 0 && (imgWord rd 0x10).extractLsb' 28 36 == 0 && imgZero rd 0x2C 4 && (imgWord rd 0x38).extractLsb' 23 41 == 0
    && imgZero rd 0xE0 0x28
    && ((List.range 32).all fun m =>
      (imgWord rd (0x200 + 32 * m)).extractLsb' 21 43 == 0 && (imgWord rd (0x218 + 32 * m)).extractLsb' 47 17 == 0)
    && ((List.range 8).all fun j => slotZero (0x600 + 128 * j))
    && imgZero rd (0xA00 + 16 * c.cqcnt) (0x400 - 16 * c.cqcnt) && imgZero rd 0xE00 0x200 && imgZero rd 0x1000 0x1000 && imgZero rd 0x9C00 0x400
    && imgZero rd (0x36000 + n * c.w) (0x20000 - n * c.w)
    && ((List.range (c.stcnt + c.ocnt + c.qcnt)).all fun i =>
      (imgWord rd (c.messages + 288 * i + 16)).extractLsb' 1 63 == 0 && imgZero rd (c.messages + 288 * i + 24) 8)
    && ((List.range c.pcmd).all fun i =>
      let o := c.piers + 96 * i
      imgZero rd (o + 0x14) 12 && (rd o == 5 || (imgZero rd (o + 0x10) 2 && imgZero rd (o + 0x28) 0x38)))
    && (!c.infork || (imgZero rd 0x56000 8 && imgZero rd 0x57000 0x1000 && imgZero rd (0x5F000 + n * c.w) (0x20000 - n * c.w)
      && (List.range 8).all fun j => slotZero (0x56400 + 128 * j)))
    && ((List.range c.pwlk).all fun i => imgZero rd (c.walkers + 32 * i + 24) 8)

/-- A mailbox from its descriptor (R397): the first SPCNT of the messages that its context counted in the spill area, and those that have come since
(R262; DESIGN CHOICE, log 93). -/
def loadBox (rd : Nat → Byte) (o : Nat) (b : Mailbox) (q : List Message) : Mailbox :=
  let w0 := imgWord rd o
  let w3 := imgWord rd (o + 24)
  { tag := w0.extractLsb' 0 16, beats := w0.extractLsb' 16 3, mode := w0.extractLsb' 19 2, haddr := imgWord rd (o + 8)
    splog := w3.extractLsb' 42 5, spbase := imgWord rd (o + 16), sphead := w3.extractLsb' 0 21, queue := q
    spill := (b.spill.take b.counted).take (w3.extractLsb' 21 21 : BitVec 21).toNat ++ b.spill.drop b.counted }

/-- A message record (R398): the message, and SENT. -/
def loadMessage (rd : Nat → Byte) (o : Nat) : Message × Bool :=
  let dest := imgWord rd o
  let hdr := imgWord rd (o + 8)
  let n := 32 * ((hdr.extractLsb' 16 3 : BitVec 3).toNat + 1)
  ({ dest := dest, hdr := hdr &&& ~~~(0x1F#64 <<< 19), payload := (List.range n).map fun i => rd (o + 32 + i), time := 0 }, rd (o + 16) == 1)

/-- A stream slot (R395), with nothing fetched. -/
def loadSlot (rd : Nat → Byte) (o : Nat) : StreamSlot :=
  let x := imgNum rd (o + 0x40) 8
  if x.testBit 6 then
    { StreamSlot.free with
      bound := true, record := BitVec.ofNat 512 (imgNum rd o 64), reg := BitVec.ofNat 6 x, ipend := x.testBit 7
      pos := BitVec.ofNat 48 (imgNum rd (o + 0x48) 8), icnt := BitVec.ofNat 32 (imgNum rd (o + 0x50) 8) }
  else StreamSlot.free

/-- The slots of an image at an offset. -/
def loadSlots (rd : Nat → Byte) (o : Nat) : Vector StreamSlot 8 := Vector.ofFn fun i => loadSlot rd (o + 128 * i.val)

/-- The scalar state from the registers at one offset and the sixteen CSRs at another (R395, R396). -/
def loadScal (rd : Nat → Byte) (x c : Nat) (vlmax : BitVec 16) (pc : Word) : Scal :=
  let n (i : Nat) : Nat := imgNum rd (c + 8 * i) 8
  { x := Vector.ofFn fun i => if i.val = 0 then 0 else imgWord rd (x + 8 * i.val)
    pc := pc, vl := BitVec.ofNat 16 (n 0), sew := BitVec.ofNat 4 (n 1), slices := BitVec.ofNat 4 (n 1 >>> 4), vlmax := vlmax
    nreg := BitVec.ofNat 2 (n 3), rm := BitVec.ofNat 2 (n 4), flags := BitVec.ofNat 6 (n 4 >>> 2), ve := (n 5).testBit 0
    pfxWord := BitVec.ofNat 32 (n 6), pfxV := (n 6).testBit 32, livein := BitVec.ofNat 32 (n 10), bad := 0 }

/-- The masks at an offset; k0 is no storage. -/
def loadMasks (rd : Nat → Byte) (o : Nat) : Vector MaskReg 8 :=
  Vector.ofFn fun i => if i.val = 0 then 0 else BitVec.ofNat 32768 (imgNum rd (o + 4096 * i.val) 4096)

/-- The vector registers at an offset: the low min(W, W') bytes of each (R401). -/
def loadVectors (rd : Nat → Byte) (o n w w' : Nat) : Vector VReg 64 :=
  Vector.ofFn fun i => if i.val < n then BitVec.ofNat 131072 (imgNum rd (o + w * i.val) (min w w')) else 0

/-- The strand that an image holds (R401). -/
def loadHart (rd : Nat → Byte) (c : CtxHead) (w' : Nat) (size : Nat) : Hart :=
  let n (i : Nat) : Nat := imgNum rd (0x40 + 8 * i) 8
  let tk := n 9
  { Hart.start with
    sc := loadScal rd 0x100 0x40 (BitVec.ofNat 16 c.vlmax) (imgWord rd 0xC0)
    level := if (rd 0xD8).getLsbD 0 then .s else .u
    vstart := BitVec.ofNat 16 (n 2)
    v := loadVectors rd 0x36000 (vregCount c.nreg) c.w w'
    k := loadMasks rd 0x1000
    aScale := BitVec.ofNat 16384 (imgNum rd 0x9000 2048), bScale := BitVec.ofNat 8192 (imgNum rd 0x9800 1024)
    aBuf := BitVec.ofNat 262144 (imgNum rd 0xA000 0x8000), bBuf := BitVec.ofNat 131072 (imgNum rd 0x12000 0x4000)
    z := Vector.ofFn fun i => BitVec.ofNat 262144 (imgNum rd (0x16000 + 0x8000 * i.val) 0x8000)
    tm := BitVec.ofNat 8 (n 7), tn := BitVec.ofNat 7 (n 8), tk := BitVec.ofNat 10 tk, tkType := BitVec.ofNat 4 (tk >>> 16)
    wid := imgWord rd (0x40 + 8 * 12), widShape := BitVec.ofNat 42 (n 13), msgHdr := imgWord rd (0x40 + 8 * 15)
    slots := loadSlots rd 0x600
    cq := (List.range c.cqcnt).map fun i => BitVec.ofNat 128 (imgNum rd (0xA00 + 16 * i) 16)
    cmdNo := c.cmdNo
    stage := (List.range c.stcnt).map fun i => (loadMessage rd (c.messages + 288 * i)).1
    seq := BitVec.ofNat 16 (n 11), slot := BitVec.ofNat 3 ((n 11 >>> 16) % 8 % size) }

/-- A walker from its record: it goes on from its node or pointer (R398, R401). -/
def loadWalker (rd : Nat → Byte) (o : Nat) (c : PierCmd) : Walker :=
  let x := imgNum rd o 8
  let index := bitsAt x 16 16
  let off := imgNum rd (o + 16) 4
  let lo := if c.kind = 5 then (c.param.extractLsb' 152 19).toNat + index * c.bytes else off
  { Walker.start index (imgWord rd (o + 8)) lo with
    hops := BitVec.ofNat 8 (x >>> 32), phase := if c.kind = 5 then 1 else 0, written := off - lo }

/-- Pier command i of an image, with its walkers and those never admitted (R398). The record has no field for the level at which they read: it is that of the
loaded strand (DESIGN CHOICE, log 104). -/
def loadPier (rd : Nat → Byte) (c : CtxHead) (level : Level) (i : Nat) : PierCmd :=
  let o := c.piers + 96 * i
  let x := imgWord rd o
  let p : PierCmd := {
    kind := x.extractLsb' 0 8, status := x.extractLsb' 8 8, cmdNo := x.extractLsb' 16 16, done := x.extractLsb' 32 32, fva := imgWord rd (o + 8)
    fidx := BitVec.ofNat 16 (imgNum rd (o + 0x12) 2), param := BitVec.ofNat 256 (imgNum rd (o + 0x20) 32)
    graph := BitVec.ofNat 256 (imgNum rd (o + 0x40) 32), walkers := [], level := level, next := imgNum rd (o + 0x10) 2 }
  let mine := ((List.range c.pwlk).filter fun k => imgNum rd (c.walkers + 32 * k) 2 == i).map fun k => loadWalker rd (c.walkers + 32 * k) p
  let rest :=
    if p.kind = 5 then
      (span (imgNum rd (o + 0x10) 2) (p.param.extractLsb' 128 16).toNat).map fun w =>
        Walker.start w 0 ((p.param.extractLsb' 152 19).toNat + w * p.bytes)
    else []
  { p with walkers := mine ++ rest }

/-- The word of the fork at F, for the registers that the region block does not name; zeros where it cannot be read (DEDUCED, log 34). -/
def forkWord (va : Word) : M Word32 := do
  match ← attempt (fetchWord va) with
  | .ok w => return w
  | .error _ => return 0

/-- The handler's message of a driven actor's saved strand, as far as the image keeps it: its header (R244, R396). -/
def loadHandled (rd : Nat → Byte) : BitVec 5 × Message :=
  let hdr := imgWord rd (0x40 + 8 * 15)
  (hdr.extractLsb' 19 5, { dest := 0, hdr := hdr &&& ~~~(0x1F#64 <<< 19), payload := [], time := 0 })

/-- A loaded strand as the handler that it was when its actor was taken off the ring (R250, R261; DEDUCED, log 33). -/
def asHandler (rd : Nat → Byte) (driven : Bool) (h : Hart) : Hart := if driven then { h with handler := some (loadHandled rd), held := true } else h

/-- The region that an image reopens (R398, R401). NEXT gives the keystone's index modulo 65,536, and the least such index is taken (DEDUCED, log 92). -/
def loadRegion (rd : Nat → Byte) (c : CtxHead) (w' : Nat) (h : Hart) (fork : Word32) (kept : Kept) : Region :=
  let o := 0x56000
  let img : Hart := { Hart.start with
    sc := loadScal rd o (o + 0x100) (BitVec.ofNat 16 c.vlmax) (imgWord rd (o + 0x200))
    level := h.level, v := loadVectors rd (o + 0x9000) (vregCount c.nreg) c.w w', k := loadMasks rd (o + 0x1000)
    wid := h.wid, widShape := h.widShape, msgHdr := imgWord rd (o + 0x100 + 8 * 15), slots := loadSlots rd (o + 0x400)
    cmdNo := c.cmdNo, seq := BitVec.ofNat 16 (imgNum rd (o + 0x100 + 8 * 11) 2)
    slot := BitVec.ofNat 3 (imgNum rd (o + 0x100 + 8 * 11 + 2) 1 % 8) }
  let count := imgWord rd (o + 0x210)
  let grain := imgWord rd (o + 0x218)
  let seq : BitVec 16 := BitVec.ofNat 16 (imgNum rd (o + 0x220) 2)
  let k := (seq - (img.seq + 1)).toNat
  { forkPc := imgWord rd (o + 0x200), joinPc := imgWord rd (o + 0x208), dReg := if fork = 0 then kept.dReg else fld fork 21 5, aReg := if fork = 0 then kept.aReg else fld fork 16 5, count := count, grain := grain
    total := ceilDiv count.toNat grain.toNat, next := k + 1, firstSeq := img.seq + 1, firstSlot := img.slot
    kflags := BitVec.ofNat 6 (imgNum rd (o + 0x228) 1), image := img, finals := if k = 0 then [] else [(k - 1, h.sc.x)] }

/-- The keystone chunk of an image: it holds its place in its region, or starts afresh from the fork image (R401). -/
def loadKeystone (size : Nat) (table : Vector StrideEntry 64) (c : CtxHead) (g : Option Region) (h : Hart) : Hart :=
  match g with
  | none => h
  | some g =>
    if c.kstart then { chunkStart size table g (g.next - 1) false with cq := h.cq, stage := h.stage, piers := h.piers }
    else { h with held := true, handler := none, seq := g.firstSeq + BitVec.ofNat 16 (g.next - 1), chunk := g.next - 1 }

/-- Why ctxload refuses an image on the executing, EMPTY ring (R401). -/
def ctxRefused (s : State) (rd : Nat → Byte) (c : CtxHead) (pages : Nat) : Bool :=
  let w' := regBytes s.ring.gang c.nreg
  let sew : BitVec 4 := BitVec.ofNat 4 (imgNum rd 0x48 1)
  let many := (List.range 32).any fun m =>
    decide (64 < ((List.range c.qcnt).filter fun i =>
      bitsAt (imgNum rd (c.messages + 288 * (c.stcnt + c.ocnt + i) + 8) 8) 19 5 == m).length)
  imgNum rd 0 2 != 1 || decide (pages * 4096 < c.len) || !ctxZeros rd c
    || ((List.range 32).any fun m => bitsAt (imgNum rd (0x200 + 32 * m) 8) 19 2 == 3) || many
    || (c.gang && s.ring.retired) || (c.infork && c.gang != s.ring.gang)
    || decide (vlmaxOf s.ring c.nreg sew < c.vlmax)
    || decide (w' = 0)

/-- The actor of a context as the load leaves it: resident, with its mailboxes and counters from the context (R401); what was counted while it was away
is added (R241, R245). A message record has no field for TIME: what the queues held carries that of the load, which is no earlier (R317; log 92). -/
def loadActor (rd : Nat → Byte) (c : CtxHead) (ring : BitVec 6) (time : Word) (a : Actor) : Actor :=
  let recs := (List.range c.qcnt).map fun i => c.messages + 288 * (c.stcnt + c.ocnt + i)
  let box (m : Fin 32) : Mailbox :=
    loadBox rd (0x200 + 32 * m.val) a.mbx[m]
      ((recs.filter fun o => bitsAt (imgNum rd (o + 8) 8) 19 5 == m.val).map fun o => { (loadMessage rd o).1 with time := time })
  { a with
    ring := ring, phase := .onRing, ctxQueued := false, mbx := Vector.ofFn box
    typeErr := sumCounts (BitVec.ofNat 16 (imgNum rd (0x40 + 8 * 14) 2)) a.typeErr
    undeliv := sumCounts (BitVec.ofNat 16 (imgNum rd (0x42 + 8 * 14) 2)) a.undeliv }

/-- Installs an image on the executing, EMPTY ring (R401): the ring is then STOPPED. -/
def installContext (s : State) (rd : Nat → Byte) (fork : Word32) : State :=
  let c := ctxHead rd
  let w' := regBytes s.ring.gang c.nreg
  let sew : BitVec 4 := BitVec.ofNat 4 (imgNum rd 0x48 1)
  let a := s.actors.find? fun (a : Actor) => a.jid == c.jid && a.aid == c.aid && a.phase != .finished
  let driven := (a.map (·.driven)).getD false
  let kept := (a.map (·.kept)).getD {}
  let h0 := { loadHart rd c w' s.ring.size with depth := kept.depth, inTrap := kept.inTrap, acquired := c.tf }
  let h := asHandler rd driven { h0 with piers := (List.range c.pcmd).map (loadPier rd c h0.level) }
  let g := if c.infork then
      (let g0 := loadRegion rd c w' h fork kept
       some { g0 with image := asHandler rd driven g0.image })
    else none
  let hart := loadKeystone s.ring.size s.ring.stride c g h
  let es := imgWord rd 0xD8
  let outs := (List.range c.ocnt).map fun i =>
    let p := loadMessage rd (c.messages + 288 * (c.stcnt + i))
    { outMsg (coreIx { s with hart := hart }) p.1 with sent := p.2 }
  let changed := w' != c.w || vlmaxOf s.ring c.nreg sew != c.vlmax
  let r := { s.ring with
    state := .stopped, epc := align4 (imgWord rd 0xC0), ecause := BitVec.ofNat 11 (imgNum rd 0xC8 8), eval := imgWord rd 0xD0
    ppl := es.getLsbD 0, ie := es.getLsbD 1, pie := es.getLsbD 2, ppre := es.getLsbD 8, pact := es.getLsbD 9, ptmo := es.getLsbD 10
    jid := c.jid, region := g, chunks := [hart], active := 0, outbound := s.ring.outbound ++ outs, resident := a.map fun x => (x.jid, x.aid), lastSlot := hart.slot, lastSeq := hart.seq
    inEntry := !driven, changeDue := false, overrun := false, floor := s.ring.floor.map fun f => wmax f c.tf }
  let r := if changed then { r with reshapePend := true, reshapeShape := BitVec.ofBool r.gang, reshapeCap := r.vlcap } else r
  let s1 := { s with hart := hart, ring := r }
  match a with
  | some x => s1.putActor (loadActor rd c s.cur (wmax c.tf (s.die (dieOf s.cur)).count) x)
  | none => s1

/-- Reads n blocks of 64 bytes of an image from a physical address of another module (R434). -/
def readBlocks (pa : Nat) : Nat → M (List Byte)
  | 0 => return []
  | n + 1 => do
    let x ← readPhys (BitVec.ofNat 64 pa) pa 64
    let t ← readBlocks (pa + 64) n
    return bytesOf x 64 ++ t

/-- The bytes of an image at a physical address: those of this module's memory, or the first PAGES × 4,096 of another's. -/
def imageAt (pa len : Nat) : M (Nat → Byte) := do
  let s ← get
  if paModule pa = s.module then return fun i => memGet s.mem (pa + i)
  else
    let l ← readBlocks pa (len / 64)
    return fun i => l.getD i 0

/-- Changes the executing ring by a computation on another ring, and comes back. -/
def atRing {α : Type} (n : BitVec 6) (m : M α) : M α := fun s =>
  match m (turnTo s n 0) with
  | .ok a t => .ok a (turnBack s t)
  | .error e t => .error e (turnBack s t)

/-- ctxload (R399, R401) -/
def execCtxload (a b : BitVec 5) (s : State) : Out :=
  runScalar (do
    let w := wordR 0x1E 0 a b 0x12
    systemStart w
    let (pa, n, run, pages) ← contextOperands w a b
    let s ← get
    if (s.ringAt n).state ≠ .empty || (s.ringAt n).halted then ill w
    else
      let rd ← imageAt pa (pages * 4096)
      let s1 := s.modRingAt n Ring.applyIfEmpty
      let c := ctxHead rd
      if viewRing s1 n fun t => ctxRefused t rd c pages then ill w
      else if paModule pa = s.module && anyBad s pa c.len then trap causeMCHK (BitVec.ofNat 64 pa)
      else
        set s1
        -- the registers of the fork are read in the address space that the ring then has
        let fork ← (if c.infork then atRing n (do
            modRing fun r => { r with jid := c.jid }
            modHart fun h => { h with level := if (rd 0xD8).getLsbD 0 then .s else .u }
            let f ← forkWord (imgWord rd 0x56200)
            return f) else pure 0)
        modify fun t => onRing t n 0 fun u =>
          let v := installContext u rd fork
          if run then resumeHere v else v
        nextPc) s

end Sys2Proof.Machine
end

