-- ==== Sys2Proof/Machine/Dispatcher.lean ====
section
/-! DEFINITION. The actor dispatcher (spec/11 R246 to R249, R255, R258, R260 to R262): which actor a ring runs, the start and the commit of
handlers, and the commit of the chunks of a region (spec/10 R229). -/

namespace Sys2Proof.Machine

/-! ### Which actor (R260, R261) -/

/-- The better of two actors for a ring: the higher priority, then the longer wait (R260). -/
def betterActor (a b : Actor) : Bool := decide (a.prio < b.prio) || (a.prio == b.prio && decide (a.since < b.since))

/-- Whether a job's state on the module lets its rings run (R460). -/
def jobRuns (s : State) (jid : BitVec 16) : Bool :=
  match lookupKey s.jobs jid with
  | none => true
  | some .running => true
  | _ => false

/-- The runnable actor that waits for a ring, if there is one. -/
def nextActor (s : State) (n : BitVec 6) : Option Actor :=
  (s.actors.filter fun (a : Actor) => a.ring == n && a.runnable && !isResident s a && jobRuns s a.jid).foldl (fun best a =>
    match best with
    | none => some a
    | some b => if betterActor a b then some a else some b) none

/-- Whether the executing ring's resident actor gives way at its next handler boundary (R260, R261): to a higher priority; to an equal one after
its quantum; to any when it has nothing to run. -/
def changeNow (s : State) (a : Actor) : Bool :=
  match nextActor s s.cur with
  | none => false
  | some b => decide (b.prio < a.prio) || (s.ring.changeDue && b.prio == a.prio) || (s.ring.chunks.isEmpty && !a.runnable)

/-! ### Taking an actor off its ring (R261, R262) -/

/-- The executing, quieted ring's actor saved into its context, and the ring EMPTY. between: it was between two handlers. -/
def evict (s : State) (between : Bool) : State :=
  match residentActor s with
  | none => s
  | some a =>
    let s2 := releaseRing ((noteKept s).pokeBytes a.ctx.toNat (contextBytes s))
    match s2.actors.find? fun (x : Actor) => x.aid == a.aid && x.jid == a.jid with
    | none => s2
    | some x => { s2.putActor { x with phase := if between then .handlers else .saved, since := s2.order } with order := s2.order + 1 }

/-! ### Making an actor resident (R258, R260, R262) -/

/-- The state of a strand that begins on the executing ring (R36), for an actor. -/
def actorStrand (r : Ring) (a : Actor) : Hart :=
  let sc : Scal := { Scal.start with pc := a.entryPc, vlmax := BitVec.ofNat 16 (vlmaxOf r Scal.start.nreg Scal.start.sew) }
  { Hart.start with sc := (sc.put 1 Config.exitWord).put 2 a.stackTop, wid := a.wid.setWidth 64, widShape := a.widShape }

/-- A ring as an actor of a job becomes resident on it; events not taken stay pending (R369). -/
def Ring.receive (r : Ring) (a : Actor) : Ring :=
  { r with
    state := .running, jid := a.jid, ptbase := a.ptroot, resident := some (a.jid, a.aid), changeDue := false, overrun := false, inEntry := true,
    ie := false, pie := false, ppl := false }

/-- The entry strand of an actor starts on the executing, EMPTY ring (R258). -/
def startEntry (s : State) (a : Actor) : State :=
  let h := actorStrand s.ring a
  { s.putActor { a with phase := .onRing } with
    hart := h, joined := true
    ring := { s.ring.receive a with chunks := [h], active := 0, region := none, lastSlot := 0, lastSeq := 0 } }

/-- The word of the fork of a saved region, in the actor's address space. -/
def savedFork (s : State) (a : Actor) (rd : Nat → Byte) : Word32 :=
  if (ctxHead rd).infork then
    let t := { s with ring := s.ring.receive a, hart := { Hart.start with level := if (rd 0xD8).getLsbD 0 then .s else .u } }
    match forkWord (imgWord rd 0x56200) t with
    | .ok w _ => w
    | .error _ _ => 0
  else 0

/-- A saved actor continues on the executing, EMPTY ring (R261, R262): at the point of its pre-emption, or between its handlers. -/
def continueActor (s : State) (a : Actor) : State :=
  let rd : Nat → Byte := fun i => memGet s.mem (a.ctx.toNat + i)
  let s1 := resumeHere (installContext s rd (savedFork s a rd))
  let s2 := { s1 with ring := { s1.ring with ptbase := a.ptroot } }
  match a.phase, residentActor s2 with
  | .handlers, some x => (strandless s2).putActor { x with phase := .handlers, driven := true }
  | _, _ => s2

/-- The next runnable actor becomes resident on the executing, EMPTY ring. -/
def takeNext (s : State) : State :=
  if s.ring.state != .empty then s
  else
    match nextActor s s.cur with
    | none => s
    | some a => if a.phase = .entry then startEntry s a else continueActor s a

/-! ### Handlers (R246 to R249, R255) -/

/-- The lowest-numbered handled mailbox that holds a message, from a number up: its number, the message, and the mailbox after it. Where it waits for a
refill, no other is served before it (R242, R246). -/
def nextMessage (a : Actor) (lag : Bool) : List Nat → Option (BitVec 5 × Message × Mailbox)
  | [] => none
  | i :: t =>
    let m : BitVec 5 := BitVec.ofNat 5 i
    if (a.box m).mode = 1 && !(a.box m).isEmpty then ((a.box m).take lag).map fun p => (m, p.1, p.2)
    else nextMessage a lag t

/-- The slot and number of the next handler (R246). -/
def nextPlace (r : Ring) : BitVec 3 × BitVec 16 :=
  match r.chunks.getLast? with
  | some h => (BitVec.ofNat 3 ((h.slot.toNat + 1) % r.size), h.seq + 1)
  | none => (BitVec.ofNat 3 ((r.lastSlot.toNat + 1) % r.size), r.lastSeq + 1)

/-- A ring between handlers with a waiting change of shape applied (R247, R403). -/
def Ring.boundaryShape (r : Ring) : Ring :=
  if r.reshapePend then { r.applyShape with lastSlot := reslot r.gang r.applyShape.gang r.lastSlot } else r

/-- Dispatches the next handler of the executing ring's actor (R246, R291). With a change of shape waiting, or on a stepped ring, only once no handler is
in flight (R403, R406; DESIGN CHOICE, log 36). -/
def startHandler (s : State) (a : Actor) : State :=
  let r := s.ring
  if r.size ≤ r.chunks.length || ((r.stepping || r.reshapePend) && !r.chunks.isEmpty) then s
  else
    match nextMessage a s.lag (List.range 32) with
    | none => s
    | some (m, msg, b) =>
      let s1 := { s.putActor (a.setBox m b) with ring := r.boundaryShape }
      let (slot, seq) := nextPlace s1.ring
      let h := handlerStart s1 (a.setBox m b) slot seq m msg
      let s2 := raiseCoreFloor { s1 with hart := h } msg.time
      let s2 := if msg.bad then s2.spoil (selfStore s2 + 0x7FF00) 256 else s2
      { s2 with
        hart := if r.chunks.isEmpty then h else s.hart
        ring := { s2.ring with chunks := r.chunks ++ [h] } }

/-- The younger handlers in flight are squashed, and their messages return to the heads of their mailboxes (R261). -/
def recallHandlers (s : State) (a : Actor) : State :=
  { s.putActor (returnMessages a s.ring.chunks) with ring := { s.ring with chunks := [] }, hart := Hart.start }

/-- The commit of the handler that holds the keystone, in COMMIT (R229, R249, R250, R255, R261): it waits for its queue and for room for its
messages. -/
def commitHandler (s : State) : State :=
  if !s.hart.queue.isEmpty || !stageFits s then s
  else
    withRecords s fun s =>
      let s1 := moveStage (flushWritten s)
      let rest := s1.ring.chunks.tail
      let r := { s1.ring with chunks := rest, active := 0, lastSlot := s1.hart.slot, lastSeq := s1.hart.seq }
      let h := rest.headD Hart.start
      let s2 := { s1 with ring := r, hart := { h with acquired := wmax h.acquired s1.hart.acquired } }
      match residentActor s2 with
      | none => s2
      | some a => if changeNow s2 a then recallHandlers s2 a else s2

/-- What the dispatcher does for the executing ring: it starts a handler, or changes the resident actor (R246, R260, R261). -/
def dispatchHere (s : State) : State :=
  let r := s.ring
  if r.halted || r.unavailable || r.absent then s
  else
    match r.state with
    | .empty => takeNext s
    | .stopped =>
      if r.overrun then
        (let s1 := quieted s
         if saveReady s1 then takeNext (evict s1 false) else s1)
      else s
    | .running =>
      if r.inEntry || r.region.isSome then s
      else
        match residentActor s with
        | none => s
        | some a =>
          if changeNow s a then (if r.chunks.isEmpty && saveReady s then takeNext (evict (withStrand s) true) else s)
          else startHandler s a

/-- On a stepped ring, a chunk at U that has committed has completed the instruction at which it held, and its stop is due (R406). -/
def noteCommit (was t : State) : State :=
  if was.ring.stepping && was.hart.level == .u && was.ring.region.isSome && (t.ring.region.isNone || t.hart.seq != was.hart.seq)
      && t.ring.state == .running && !t.ring.chunks.isEmpty then
    { t with ring := { t.ring with stepped := some was.hart.sc.pc } }
  else t

/-- The commit of the executing chunk, its ring's keystone (R229, R249). -/
def commitKeystone (s : State) : State :=
  match s.hart.state with
  | .commit r =>
    (match s.ring.region with
     | some g => noteCommit s (commitChunk s g r)
     | none => if s.hart.handler.isSome then commitHandler s else s)
  | _ => s

/-! ### Events -/

/-- CHUNK_COMMIT (R229); on a HALTED ring nothing executes (R405). -/
def execChunkCommit (s : State) : Out :=
  if s.onMgmt.isSome || s.ring.halted then .next s else onKeystone s s.cur fun t => .next (commitKeystone t)

/-- DISPATCH (R246, R260) -/
def execDispatch (ring : BitVec 6) (s : State) : Out := onKeystone s ring fun t => .next (dispatchHere t)

/-- QUANTUM_EXPIRY (R261); ring time stands still in debug halt (R405). -/
def execQuantumExpiry (ring : BitVec 6) (s : State) : Out :=
  .next (if (s.ringAt ring).resident.isSome && !(s.ringAt ring).halted then s.modRingAt ring fun r => { r with changeDue := true } else s)

/-- OVERRUN_EXPIRY (R261, R392): PREEMPT with source 2. -/
def execOverrunExpiry (ring : BitVec 6) (s : State) : Out :=
  let r := s.ringAt ring
  .next (if r.resident.isSome && r.state == .running && !r.halted && !r.chunks.isEmpty then
      (raisePreempt s ring 0 2).modRingAt ring fun r => { r with overrun := true }
    else s)

end Sys2Proof.Machine
end

