-- ==== Sys2Proof/Machine/Collective.lean ====
section
/-! DEFINITION. Collectives (spec/24 R449 to R459, R469): groups and their tables, rounds and results, multicasts, grpset, grpfree, nred and
nmcast, and the collective packets. What happens within the module happens at once (log 4); packets go to and come from other modules. -/

namespace Sys2Proof

/-! ### Names and fields (R449, R455, R464, R466) -/

/-- The level of an on-module switch. -/
def SwitchId.level : SwitchId → Nat
  | .l0 _ _ => 0
  | .l1 _ => 1
  | .l2 _ => 2

/-- The number of an on-module switch (R466). -/
def SwitchId.number : SwitchId → Nat
  | .l0 d c => 5 * d.toNat + c.toNat
  | .l1 d => 5 * d.toNat + 4
  | .l2 a => 40 + a.toNat

/-- A SWID (R455). -/
def swidOf (level place number : Nat) : Word := BitVec.ofNat 64 (level + place * 8 + number * 2 ^ 17)

/-- The SWID of a switch of a module. -/
def SwitchId.swid (m : BitVec 14) (w : SwitchId) : Word := swidOf w.level m.toNat w.number

/-- GID of a collective packet -/
def Packet.gid (p : Packet) : BitVec 16 := BitVec.ofNat 16 (Machine.ofBytes (p.payload.take 2))
/-- its SUB, or that of a gang-switch packet -/
def Packet.sub (p : Packet) : Nat := (p.payload.getD 2 0).toNat
/-- TYPE -/
def Packet.cty (p : Packet) : BitVec 2 := (p.payload.getD 3 0).extractLsb' 0 2
/-- OP -/
def Packet.cop (p : Packet) : BitVec 2 := (p.payload.getD 3 0).extractLsb' 2 2
/-- STAT -/
def Packet.cstat (p : Packet) : Bool := (p.payload.getD 3 0).getLsbD 4
/-- SEQ -/
def Packet.cseq (p : Packet) : BitVec 32 := BitVec.ofNat 32 (Machine.ofBytes ((p.payload.drop 4).take 4))
/-- VALUE -/
def Packet.cval (p : Packet) : Word := BitVec.ofNat 64 (Machine.ofBytes ((p.payload.drop 8).take 8))
/-- DATA -/
def Packet.cdata (p : Packet) : List Byte := (p.payload.drop 16).take 32

end Sys2Proof

namespace Sys2Proof.Machine

/-! ### Names (R449, R455, R466) -/

/-- INDEX of a GID (R449) -/
def gidIndex (g : BitVec 16) : BitVec 12 := g.extractLsb' 0 12
/-- GEN of a GID -/
def gidGen (g : BitVec 16) : BitVec 4 := g.extractLsb' 12 4

/-- The L0 switch of a ring. -/
def ringSwitch (n : BitVec 6) : SwitchId := .l0 (dieOf n) (clusterOf n)

/-- The ring within its cluster, as a child number. -/
def ringChild (n : BitVec 6) : BitVec 1 := n.extractLsb' 0 1

/-! ### Replies (R432, R455) -/

/-- A wait with its reply, if it is the one that the tag names. -/
def RemoteWait.give (r : RemoteWait) (rtag : BitVec 16) (st : BitVec 4) (data : List Byte) (t : Word) : RemoteWait :=
  if r.rtag == rtag && r.reply.isNone then { r with reply := some (st, data), time := t } else r

/-- A strand with a reply given to the access that awaits it. -/
def Hart.give (h : Hart) (rtag : BitVec 16) (st : BitVec 4) (data : List Byte) (t : Word) : Hart :=
  { h with
    remote := h.remote.map fun r => r.give rtag st data t, vremote := h.vremote.map fun r => r.give rtag st data t
    eremote := h.eremote.map fun r => r.give rtag st data t }

/-- The module with a reply, and the TIME it carries (R317), given to whatever awaits it. -/
def answer (s : State) (rtag : BitVec 16) (st : BitVec 4) (data : List Byte) (t : Word) : State :=
  { s with
    hart := s.hart.give rtag st data t
    ring := { s.ring with chunks := s.ring.chunks.map fun h => h.give rtag st data t }
    rings := s.rings.map fun r => { r with chunks := r.chunks.map fun h => h.give rtag st data t }
    mgmt := s.mgmt.map fun c => { c with hart := c.hart.give rtag st data t }
    runtimeReads := s.runtimeReads.map fun r => r.give rtag st data t
    hostWaits := s.hostWaits.map fun h => { h with parts := h.parts.map fun p => if p.1 == rtag && p.2.isNone then (p.1, some (st, data)) else p } }

/-! ### Fill-mode writes (R314, R317, R452) -/

/-- A word of a local store written in fill mode, a release that carries a TIME. -/
def fillWord (s : State) (pa : Nat) (v t : Word) : State :=
  let s1 := s.pokeLE pa v.toNat 8
  setFull { s1 with released := carryTime s1.released pa t 8 } pa true

/-- The physical address of an offset of a core's local store of this module. -/
def coreStore (s : State) (d : BitVec 3) (c : BitVec 2) (core off : Nat) : Nat := storePa s.module d c core off

/-- Whether a strand of a job is resident on a ring (R452). -/
def jobOnRing (s : State) (n : BitVec 6) (jid : BitVec 16) : Bool := (s.ringAt n).state != .empty && (s.ringAt n).jid == jid

/-- A result at a member ring: written to the word that its nred named, or held (R452). -/
def giveResult (s : State) (d : BitVec 3) (c : BitVec 2) (r : RingResult) (v t : Word) : State :=
  let mine (x : RingResult) : Bool := x.index == r.index && x.gen == r.gen && x.ring == r.ring
  if jobOnRing s (d ++ c ++ r.ring) r.jid then
    fillWord (s.modSwitch (.l0 d c) fun w => { w with ringRes := w.ringRes.filter fun x => !mine x })
      (coreStore s d c r.core.toNat r.offset.toNat) v t
  else
    s.modSwitch (.l0 d c) fun w => { w with ringRes := w.ringRes.map fun x => if mine x then { x with value := some (v, t) } else x }

/-- Results that were held are written where a strand of the job is resident again (R452). -/
def serveHeld (s : State) : State :=
  s.switches.foldl (fun t w =>
    match w.id with
    | .l0 d c =>
      w.ringRes.foldl (fun u r =>
        match r.value with
        | some (v, tm) => giveResult u d c r v tm
        | none => u) t
    | _ => t) s

/-! ### Late packets (R454, R469) -/

/-- The port of a switch by which packets come down to it (R463). -/
def downPort (w : SwitchId) (upath : BitVec 12) : Nat :=
  match w with
  | .l0 _ _ => 16
  | .l1 _ => 9 + bitsAt upath.toNat 0 1
  | .l2 _ => 14 + bitsAt upath.toNat 1 4

/-- An asynchronous event of a switch at the management core of abutment die 0; one that is pending already takes it in (R469). -/
def postSwitchEvent (s : State) (a : BitVec 1) (code : BitVec 8) (val : Word) : State :=
  if (s.mgmtAt a).events.any fun e => e.1 == code then s else postMEvent s a code 0 val none

/-- MVAL of LATEPKT and GSOVF (R469). -/
def lateVal (jid gid : BitVec 16) (level port : Nat) (collective : Bool) : Word :=
  (0#22 : BitVec 22) ++ BitVec.ofBool collective ++ BitVec.ofNat 6 port ++ BitVec.ofNat 3 level ++ gid ++ jid

/-- A collective packet discarded at a switch: LATE counts it, and LATEPKT is raised (R454). -/
def discardLate (s : State) (w : SwitchId) (gid jid : BitVec 16) (port : Nat) : State :=
  let s1 := s.modSwitch w fun x =>
    { x with groups := putKey x.groups (gidIndex gid) { x.group (gidIndex gid) with late := bump (x.group (gidIndex gid)).late } }
  postSwitchEvent s1 0 causeLATEPKT (lateVal jid gid w.level port true)

/-- Whether a switch's entry takes packets of a group (R454). -/
def groupOpen (s : State) (w : SwitchId) (gid : BitVec 16) : Bool :=
  let e := (s.switchOf w).group (gidIndex gid)
  e.v && e.state == 1 && e.gen == gidGen gid

/-! ### Packets (R455) -/

/-- The payload of a collective packet. -/
def collectivePayload (gid : BitVec 16) (sub : Nat) (ty op : BitVec 2) (stat : Bool) (seq : BitVec 32) (val : Word) (data : List Byte) :
    List Byte :=
  bytesOf gid.toNat 2 ++ [BitVec.ofNat 8 sub, (0#3 : BitVec 3) ++ BitVec.ofBool stat ++ op ++ ty] ++ bytesOf seq.toNat 4 ++ bytesOf val.toNat 8
    ++ data ++ List.replicate (32 - data.length) 0

/-- A collective packet to a module (R453, R455). -/
def collectivePacket (s : State) (dmod : BitVec 14) (jid : BitVec 16) (upath : BitVec 12) (payload : List Byte) : Packet :=
  { kind := 10, tc := 0, ord := false, resp := false, dmod := dmod, smod := s.module, sring := if s.onMgmt.isSome then 0 else s.cur, upath := upath,
    slow := false, age := 0, jid := jid, pseq := 0, status := 0, rtag := 0, payload := payload, time := 0 }

/-! ### Results and multicasts on their way down (R452, R459) -/

/-- The on-module switches below a switch, by child number (R451). -/
def childSwitch (w : SwitchId) (c : Nat) : Option SwitchId :=
  match w with
  | .l0 _ _ => none
  | .l1 d => some (.l0 d (BitVec.ofNat 2 c))
  | .l2 _ => some (.l1 (BitVec.ofNat 3 c))

/-- The children of a mask, by number. -/
def childrenOf (m : BitVec 128) : List Nat := (List.range 128).filter fun c => m.getLsbD c

/-- A result descends from a switch, which it reaches by a port, to its member rings (R452, R454); jid is its packet's. -/
def pushResult : Nat → State → SwitchId → Nat → BitVec 16 → BitVec 16 → Word → Word → State
  | 0, s, _, _, _, _, _, _ => s
  | n + 1, s, w, port, gid, jid, v, t =>
    let ix := gidIndex gid
    let e := (s.switchOf w).group ix
    if !groupOpen s w gid then discardLate s w gid jid port
    else
      let s1 := s.modSwitch w fun x => { x with groups := putKey x.groups ix { e with round := e.round + 1 } }
      match w with
      | .l0 d c =>
        ((s1.switchOf w).ringRes.filter fun r => r.index == ix && r.gen == gidGen gid && r.value.isNone && e.child.getLsbD r.ring.toNat).foldl
          (fun u r => giveResult u d c r v t) s1
      | _ => (childrenOf e.child).foldl (fun u k =>
          match childSwitch w k with
          | some x => pushResult n u x (downPort x e.upath) gid jid v t
          | none => u) s1

/-- The 32 bytes of a multicast written to a member ring's lowest-numbered active core in fill mode (R459). -/
def giveMulticast (s : State) (d : BitVec 3) (c : BitVec 2) (ring off : Nat) (data : List Byte) (t : Word) : State :=
  let base := coreStore s d c (8 * ring) off
  (List.range 4).foldl (fun u i => fillWord u (base + 8 * i) (BitVec.ofNat 64 (ofBytes ((data.drop (8 * i)).take 8))) t) s

/-- A multicast descends from a switch, which it reaches by a port, to its member rings (R454, R459); jid is its packet's. -/
def pushMulticast : Nat → State → SwitchId → Nat → BitVec 16 → BitVec 16 → Nat → List Byte → Word → State
  | 0, s, _, _, _, _, _, _, _ => s
  | n + 1, s, w, port, gid, jid, off, data, t =>
    let e := (s.switchOf w).group (gidIndex gid)
    if !groupOpen s w gid then discardLate s w gid jid port
    else
      (childrenOf e.child).foldl (fun u k =>
        match w with
        | .l0 d c => giveMulticast u d c k off data t
        | _ =>
          match childSwitch w k with
          | some x => pushMulticast n u x (downPort x e.upath) gid jid off data t
          | none => u) s

/-! ### Contributions (R451, R452) -/

/-- Two values combined (R451); no flag is set. -/
def combineTwo (ty op : BitVec 2) (v c : Word) : Word :=
  let fp (f : FFmt) : Word :=
    let a := fpBits f v
    let b := fpBits f c
    BitVec.ofNat 64 (match op with
      | 0#2 => (addVal f rne (f.decode a) (f.decode b)).1
      | 1#2 => (minMaxBits f false a b).1
      | _ => (minMaxBits f true a b).1)
  match ty with
  | 0#2 =>
    let a := signedOf 32 (v.toNat % 2 ^ 32)
    let b := signedOf 32 (c.toNat % 2 ^ 32)
    let r : Int := match op with
      | 0#2 => a + b
      | 1#2 => if b < a then b else a
      | _ => if a < b then b else a
    zx (BitVec.ofInt 32 r)
  | 1#2 => fp fmtSingle
  | _ => fp fmtDouble

/-- A contribution or a result as a word (R452): sign-extended for si32. -/
def resultWord (ty : BitVec 2) (v : Word) : Word :=
  match ty with
  | 0#2 => sx (v.extractLsb' 0 32)
  | 1#2 => zx (v.extractLsb' 0 32)
  | _ => v

/-- What a round in which types or operations differ gives (R452). -/
def mismatchWord : Word := BitVec.allOnes 64

/-- The type that a partial of a mismatched round carries upward (DESIGN CHOICE, log 37). -/
def mismatchType : BitVec 2 := 3

/-- The values of a round's children combined in increasing child number: the type, the operation, the value and the greatest TIME. -/
def combineAll (l : List Contribution) : BitVec 2 × BitVec 2 × Word × Word :=
  match l with
  | [] => (mismatchType, 0, mismatchWord, 0)
  | a :: rest =>
    let t := rest.foldl (fun t c => wmax t c.time) a.time
    if a.ty == mismatchType || (rest.any fun c => c.ty != a.ty || c.op != a.op) then (mismatchType, a.op, mismatchWord, t)
    else (a.ty, a.op, rest.foldl (fun v c => combineTwo a.ty a.op v c.value) a.value, t)

/-- The parent of an on-module switch in a group's tree, and its child number there; none above an abutment switch. -/
def parentSwitch (w : SwitchId) (upath : BitVec 12) : Option (SwitchId × Nat) :=
  match w with
  | .l0 d c => some (.l1 d, c.toNat)
  | .l1 d => some (.l2 (upath.extractLsb' 0 1), d.toNat)
  | .l2 _ => none

/-- A child's value reaches a switch by a port (R452, R454): the round is combined once every child has delivered, and its partial climbs, or, at the
root, its result descends. jid is the packet's. -/
def addPart : Nat → State → SwitchId → BitVec 16 → BitVec 16 → Contribution → Nat → State
  | 0, s, _, _, _, _, _ => s
  | n + 1, s, w, gid, jid, p, port =>
    let ix := gidIndex gid
    let e := (s.switchOf w).group ix
    if !groupOpen s w gid then discardLate s w gid jid port
    else
      let others := (s.switchOf w).parts.filter fun q => !(q.index == ix && q.round == p.round && q.child == p.child)
      let all := p :: others.filter fun q => q.index == ix && q.round == p.round
      let inOrder := (childrenOf e.child).filterMap fun c => all.find? fun q => q.child.toNat == c
      if inOrder.length < (childrenOf e.child).length then s.modSwitch w fun x => { x with parts := p :: others }
      else
        let (ty, op, v, t) := combineAll inOrder
        let s1 := s.modSwitch w fun x =>
          { x with
            parts := others.filter fun q => !(q.index == ix && q.round == p.round)
            groups := putKey x.groups ix { e with err := e.err || ty == mismatchType } }
        if e.root then pushResult 3 s1 w port gid jid (if ty = mismatchType then mismatchWord else resultWord ty v) t
        else
          match parentSwitch w e.upath with
          | some (x, c) => addPart n s1 x gid jid { p with child := BitVec.ofNat 7 c, ty := ty, op := op, value := v, time := t } c
          | none =>
            queuePacket s1 { collectivePacket s1 s1.module e.jid e.upath
              (collectivePayload gid 0 ty op false p.round (if ty = 0 then resultWord ty v else v) []) with time := t }

/-! ### Multicasts on their way up (R455) -/

/-- The switch of the module that is a group's root above a switch, or none where the root is elsewhere. -/
def rootAbove : Nat → State → SwitchId → BitVec 12 → Option SwitchId
  | 0, _, _, _ => none
  | n + 1, s, w, ix =>
    let e := (s.switchOf w).group ix
    if e.root then some w
    else
      match parentSwitch w e.upath with
      | some (x, _) => rootAbove n s x ix
      | none => none

/-! ### Groups freed (R458) -/

/-- A round that has begun at a switch is abandoned (R458 step 2). -/
def abandon (s : State) (w : SwitchId) (gid : BitVec 16) : State :=
  let ix := gidIndex gid
  let x := s.switchOf w
  let e := x.group ix
  let waits := x.ringRes.filter fun r => r.index == ix && r.gen == gidGen gid && r.value.isNone
  let began := !waits.isEmpty || x.parts.any fun q => q.index == ix
  let s1 := s.modSwitch w fun y =>
    { y with parts := y.parts.filter fun q => q.index != ix, groups := putKey y.groups ix { e with err := e.err || began, state := 2 } }
  match w with
  | .l0 d c =>
    waits.foldl (fun u r =>
      if u.full.contains (coreStore u d c r.core.toNat r.offset.toNat) then
        u.modSwitch w fun y => { y with ringRes := y.ringRes.filter fun z => !(z.index == r.index && z.gen == r.gen && z.ring == r.ring) }
      else giveResult u d c r mismatchWord 0) s1
  | _ => s1

/-- Whether a switch's buffers hold a packet of a group. -/
def holdsGroup (x : Switch) (gid : BitVec 16) : Bool := (x.buf ++ x.overflow).any fun b => b.pkt.kind == 10 && b.pkt.gid == gid

/-- An entry freed (R458 step 4): the multicast counts of its group end with it (R455). -/
def freeEntry (s : State) (w : SwitchId) (gid : BitVec 16) : State :=
  s.modSwitch w fun x =>
    let e := x.group (gidIndex gid)
    { x with
      groups := putKey x.groups (gidIndex gid) { e with v := false, state := 0, lastgen := e.gen, lgv := true }
      mcasts := x.mcasts.filter fun m => gidIndex m.1.1 != gidIndex gid }

/-- A group drained from a switch down through the module: every entry DRAINING, its rounds abandoned, and FREE where no packet of the group is
held; the switches that have reported (R458). -/
def drainTree : Nat → State → SwitchId → BitVec 16 → State × List SwitchId
  | 0, s, _, _ => (s, [])
  | n + 1, s, w, gid =>
    let kids := (childrenOf ((s.switchOf w).group (gidIndex gid)).child).filterMap (childSwitch w)
    let s1 := abandon s w gid
    let (s2, rep) := if holdsGroup (s1.switchOf w) gid then (s1, []) else (freeEntry s1 w gid, [w])
    kids.foldl (fun acc k =>
      let (t, r) := drainTree n acc.1 k gid
      (t, acc.2 ++ r)) (s2, rep)

/-- Whether a switch of a group's tree, from one down through the module, is DRAINING still (R458 step 3). -/
def treeDraining : Nat → State → SwitchId → BitVec 16 → Bool
  | 0, _, _, _ => false
  | n + 1, s, w, gid =>
    let e := (s.switchOf w).group (gidIndex gid)
    (e.v && e.gen == gidGen gid && e.state == 2) || ((childrenOf e.child).filterMap (childSwitch w)).any fun k => treeDraining n s k gid

/-- The report of a drained switch to a root elsewhere (R455). -/
def reportDrained (s : State) (gid : BitVec 16) (w : SwitchId) : State :=
  let e := (s.switchOf w).group (gidIndex gid)
  queuePacket s (collectivePacket s s.module e.jid e.upath (collectivePayload gid 9 0 0 false 0 (w.swid s.module) []))

/-! ### Trees (R450, R451, R457) -/

/-- A switch of a group's tree: the module that a packet to it names, its SWID, its identity if it is on a module, and its entry's ROOT and
CHILD. -/
structure TreeSwitch where
  dmod : BitVec 14
  swid : Word
  id : Option SwitchId
  root : Bool
  child : BitVec 128
deriving DecidableEq, Repr

/-- The members on a cluster and on a die, of a RINGS mask (R390, R449). -/
def clusterMembers (rings : Word) (d c : Nat) : Nat := bitsAt rings.toNat (8 * d + 2 * c) 2
/-- on a die -/
def dieMembers (rings : Word) (d : Nat) : Nat := bitsAt rings.toNat (8 * d) 8

/-- The lowest level whose subtree holds every member of a list of modules (R450). -/
def rootLevel (l : List (BitVec 14 × Word)) : Nat :=
  match l with
  | [(_, rings)] =>
    let dies := (List.range 8).filter fun d => dieMembers rings d != 0
    let clusters := (List.range 32).filter fun k => clusterMembers rings (k / 4) (k % 4) != 0
    if clusters.length ≤ 1 then 0 else if dies.length ≤ 1 then 1 else 2
  | _ =>
    if ((l.map fun p => p.1.toNat / 128).eraseDups).length ≤ 1 then 3 else 4

/-- A set of children as a mask. -/
def maskOf (l : List Nat) : BitVec 128 := l.foldl (fun m c => m ||| (1#128 <<< c)) 0

/-- The switches of the tree on one module (R450). -/
def moduleTree (upath : BitVec 12) (level : Nat) (m : BitVec 14) (rings : Word) : List TreeSwitch :=
  let sw (id : SwitchId) (kids : List Nat) : TreeSwitch :=
    { dmod := m, swid := id.swid m, id := some id, root := id.level == level, child := maskOf kids }
  let dies := (List.range 8).filter fun d => dieMembers rings d != 0
  let kids (d : Nat) : List Nat := (List.range 4).filter fun c => clusterMembers rings d c != 0
  (dies.flatMap fun d => (kids d).map fun c =>
    sw (.l0 (BitVec.ofNat 3 d) (BitVec.ofNat 2 c)) ((List.range 2).filter fun r => (clusterMembers rings d c).testBit r))
    ++ (if 1 ≤ level then dies.map fun d => sw (.l1 (BitVec.ofNat 3 d)) (kids d) else [])
    ++ (if 2 ≤ level then [sw (.l2 (upath.extractLsb' 0 1)) dies] else [])

/-- The plane that an up-path names (R425, R426). -/
def planeOf (upath : BitVec 12) : Nat := 9 * bitsAt upath.toNat 0 1 + bitsAt upath.toNat 1 4

/-- The switches of a group's tree (R450, R451). -/
def groupTree (upath : BitVec 12) (l : List (BitVec 14 × Word)) : List TreeSwitch :=
  let level := rootLevel l
  let boards := (l.map fun p => p.1.toNat / 128).eraseDups
  let first (b : Nat) : BitVec 14 := ((l.find? fun p => p.1.toNat / 128 == b).map (·.1)).getD 0
  (l.flatMap fun p => moduleTree upath level p.1 p.2)
    ++ (if 3 ≤ level then boards.map fun b =>
      { dmod := first b, swid := swidOf 3 b (planeOf upath), id := none, root := level == 3
        child := maskOf ((l.filter fun p => p.1.toNat / 128 == b).map fun p => p.1.toNat % 128) } else [])
    ++ (if 4 ≤ level then
      [{ dmod := ((l.head?).map (·.1)).getD 0, swid := swidOf 4 (bitsAt upath.toNat 5 7) (planeOf upath), id := none, root := true, child := maskOf boards }]
      else [])

/-- Whether an entry may be reserved (R457). -/
def mayReserve (e : GroupEntry) (gen : BitVec 4) : Bool := e.state == 0 && !(e.lgv && e.lastgen == gen)

/-- An entry as grpset writes it (R457); LASTGEN and LGV stay. -/
def installed (old : GroupEntry) (gen : BitVec 4) (jid : BitVec 16) (upath : BitVec 12) (root : Bool) (child : BitVec 128) : GroupEntry :=
  { v := true, state := 1, gen := gen, lastgen := old.lastgen, lgv := old.lgv, jid := jid, upath := upath, root := root, err := false, child := child,
    round := 0, late := 0 }

/-! ### The instructions -/

/-- The GID of an operand (R449). -/
def gidOperand (w : Word32) (a : BitVec 5) : M (BitVec 16) := do
  let x ← rdX a
  if x.extractLsb' 16 48 ≠ 0 then ill w else return x.extractLsb' 0 16

/-- What every instruction of major 0x3C waits for (R456). -/
def collectiveStart : M Unit := do
  emptyQueue
  keystoneOnly

/-- The module entries of a descriptor (R449). -/
def readMembers (va : Word) : Nat → M (List (Word × Word × Word))
  | 0 => return []
  | n + 1 => do
    let m ← load va 8
    let r ← load (va + 8) 8
    let t ← readMembers (va + 16) n
    return (va, BitVec.ofNat 64 m, BitVec.ofNat 64 r) :: t

/-- Whether module numbers rise strictly. -/
def risingModules : List (Word × Word × Word) → Bool
  | [] => true
  | [_] => true
  | a :: b :: t => decide (a.2.1 < b.2.1) && risingModules (b :: t)

/-- The descriptor of a grpset: JID, UPATH and members (R449, R457). -/
def readDescriptor (w : Word32) (va : Word) : M (BitVec 16 × BitVec 12 × List (BitVec 14 × Word)) := do
  aligned va 8
  let h := BitVec.ofNat 64 (← load va 8)
  let n : Nat := (h.extractLsb' 0 14 : BitVec 14).toNat
  if n = 0 || 8192 < n || h.extractLsb' 14 2 ≠ 0 || h.extractLsb' 44 20 ≠ 0 then ill w
  else
    let l ← readMembers (va + 8) n
    if (l.any fun e => e.2.1.extractLsb' 14 50 != 0 || e.2.2 == 0) || !risingModules l then ill w
    else
      let s ← get
      match l.find? fun e => !isPresent s (e.2.1.extractLsb' 0 14) with
      | some e => trap causeACCESS e.1
      | none => return (h.extractLsb' 16 16, h.extractLsb' 32 12, l.map fun e => (e.2.1.extractLsb' 0 14, e.2.2))

/-- The local switches of a tree changed. -/
def modTree (s : State) (ix : BitVec 12) (l : List TreeSwitch) (f : TreeSwitch → GroupEntry → GroupEntry) : State :=
  l.foldl (fun t x =>
    match x.id with
    | some id => t.modSwitch id fun w => { w with groups := putKey w.groups ix (f x (w.group ix)) }
    | none => t) s

/-- The packet of grpset to a switch of another module or chip: a reservation, an entry write, or, with no children, a release (R455, R457;
DEDUCED, log 38). -/
def grpPacket (s : State) (gid jid : BitVec 16) (upath : BitVec 12) (x : TreeSwitch) (sub : Nat) (child : BitVec 128) : Packet :=
  let data : List Byte :=
    if sub = 6 then
      bytesOf ((0#31 : BitVec 31) ++ BitVec.ofBool x.root ++ gidGen gid ++ upath ++ jid).toNat 8 ++ bytesOf child.toNat 16
    else []
  collectivePacket s x.dmod jid upath (collectivePayload gid sub 0 0 false 0 x.swid data)

/-- Sends a packet to each switch and notes that its reply is awaited; write tells the second phase from the first. -/
def sendAll (s : State) (write : Bool) (l : List TreeSwitch) (mk : State → TreeSwitch → Packet) : State :=
  l.foldl (fun t x =>
    let t1 := queuePacket t { mk t x with rtag := t.nextTag }
    { t1 with
      nextTag := t1.nextTag + 1
      hart := { t1.hart with
        remote := t1.hart.remote ++ [{ rtag := t.nextTag, write := write, pa := x.swid.setWidth 56, reply := none, group := true }] } }) s

/-- The replies that a grpset or grpfree awaits, apart from the loads of its descriptor. -/
def Hart.groupWaits (h : Hart) : List RemoteWait := h.remote.filter (·.group)

/-- A strand without those. -/
def Hart.groupDone (h : Hart) : Hart := { h with remote := h.remote.filter fun r => !r.group }

/-- grpset (R457) -/
def execGrpset (a b : BitVec 5) (s : State) : Out :=
  runScalar (do
    let w := wordR 0x3C 0 a b 0
    needS w
    collectiveStart
    let x ← rdX a
    let gid ← gidOperand w a
    let va ← rdX b
    let (jid, upath, members) ← readDescriptor w va
    let tree := groupTree upath members
    let s ← get
    let ix := gidIndex gid
    let mine := tree.filter fun t => t.dmod == s.module && t.id.isSome
    let far := tree.filter fun t => !(t.dmod == s.module && t.id.isSome)
    let install (t : State) : State := modTree t ix mine fun x e => installed e (gidGen gid) jid upath x.root x.child
    match s.hart.groupWaits with
    | [] =>
      if mine.any fun t => match t.id with | some id => !mayReserve ((s.switchOf id).group ix) (gidGen gid) | none => false then
        trap causeGRPREUSE x
      else if far.isEmpty then
        set (install s)
        nextPc
      else
        let s1 := modTree s ix mine fun _ e => { e with state := 3 }
        set (sendAll s1 false far fun t y => grpPacket t gid jid upath y 4 0)
        wait (.keep .reply)
    | r :: rs =>
      if (r :: rs).any fun q => q.reply.isNone then wait (.park .reply)
      else if r.write then nextPc
      else if (r :: rs).any fun q => q.reply.any fun p => p.1 != 0 then
        let took := far.filter fun y => (r :: rs).any fun q => q.pa == y.swid.setWidth 56 && q.reply.any fun p => p.1 == 0
        let s1 := modTree s ix mine fun _ e => { e with state := 0 }
        set (took.foldl (fun t y => queuePacket t (grpPacket t gid jid upath y 6 0)) s1)
        trap causeGRPREUSE x
      else
        let s1 := install { s with hart := s.hart.groupDone }
        set (sendAll s1 true far fun t y => grpPacket t gid jid upath y 6 y.child)
        wait (.keep .reply)) s

/-- The L0 switch of the executing ring. -/
def ownSwitch (s : State) : SwitchId := ringSwitch s.cur

/-- Whether a group whose root is on the module is DRAINING still: some switch of its tree is (R458). -/
def stillDraining (s : State) (gid : BitVec 16) : Bool :=
  match rootAbove 3 s (ownSwitch s) (gidIndex gid) with
  | some root => treeDraining 3 s root gid
  | none => false

/-- The switch chip to which a grpfree climbs from this module, by its SWID: the board switch of the group's plane (R450, R455). -/
def boardSwid (s : State) (upath : BitVec 12) : Word := swidOf 3 (s.module.toNat / 128) (planeOf upath)

/-- grpfree (R458): the command to a root elsewhere climbs as a drain, and the root answers each, one that finds the entries DRAINING with the first (log 38). -/
def execGrpfree (a : BitVec 5) (s : State) : Out :=
  runScalar (do
    let w := wordR 0x3C 0 a 0 0x40
    needS w
    collectiveStart
    let x ← rdX a
    let gid ← gidOperand w a
    let s ← get
    let ix := gidIndex gid
    let e := (s.switchOf (ownSwitch s)).group ix
    let park (t : State) (write : Bool) (tag : BitVec 16) : State :=
      { t with hart := { t.hart with remote := [{ rtag := tag, write := write, pa := gid.setWidth 56, reply := none, group := true }] } }
    match s.hart.groupWaits with
    | r :: _ => if r.reply.isSome || (!r.write && !stillDraining s gid) then nextPc else wait (.park .reply)
    | [] =>
      if s.onMgmt.isSome || !e.v || e.gen != gidGen gid || (e.state != 1 && e.state != 2) then trap causeACCESS x
      else
        match rootAbove 3 s (ownSwitch s) ix with
        | some root =>
          let t := if e.state = 2 then s else (drainTree 3 s root gid).1
          if treeDraining 3 t root gid then
            set (park t false 0)
            wait (.keep .reply)
          else
            set t
            nextPc
        | none =>
          let p := collectivePacket s s.module e.jid e.upath (collectivePayload gid 8 0 0 false 0 (boardSwid s e.upath) [])
          set (park { queuePacket s { p with rtag := s.nextTag } with nextTag := s.nextTag + 1 } true s.nextTag)
          wait (.keep .reply)) s

/-- The entry of the executing ring's L0 switch, if the ring is a member of the group under its JID (R459). -/
def memberEntry (s : State) (gid : BitVec 16) : Option GroupEntry :=
  let e := (s.switchOf (ownSwitch s)).group (gidIndex gid)
  if groupOpen s (ownSwitch s) gid && e.jid == s.ring.jid && e.child.getLsbD (ringChild s.cur).toNat then some e else none

/-- The physical address of n bytes of the self window (R277, R459). -/
def selfWindow (va : Word) (n : Nat) : M Nat := do
  aligned va n
  let s ← get
  if 0x00FFFF0000000000#64 ≤ va && va < 0x00FFFF0000080000#64 then
    let pa := selfStore s + va.toNat % 0x80000
    if anyBad s pa n then trap causeMCHK va else return pa
  else trap causeACCESS va

/-- The result that a ring's nred awaits. -/
def pendingResult (s : State) (gid : BitVec 16) : Bool :=
  (s.switchOf (ownSwitch s)).ringRes.any fun r => r.index == gidIndex gid && r.gen == gidGen gid && r.ring == ringChild s.cur

/-- nred (R452, R459) -/
def execNred (a b : BitVec 5) (ty op : BitVec 2) (s : State) : Out :=
  runScalar (do
    let w := wordR 0x3C 0 a b ((2#5 : BitVec 5) ++ ty ++ op ++ (0#2 : BitVec 2))
    collectiveStart
    let x ← rdX a
    let gid ← gidOperand w a
    let va ← rdX b
    match memberEntry (← get) gid with
    | none => trap causeACCESS x
    | some e =>
      let pa ← selfWindow va 8
      let s ← get
      if pendingResult s gid then wait (.park .stalled)
      else
        let v := readLE s.peek pa 8
        let s1 := setFull s pa false
        let me : RingResult :=
          { index := gidIndex gid, gen := gidGen gid, jid := e.jid, ring := ringChild s.cur, core := BitVec.ofNat 4 (selfCore s)
            offset := BitVec.ofNat 19 va.toNat, value := none }
        let s2 := s1.modSwitch (ownSwitch s) fun y => { y with ringRes := y.ringRes ++ [me] }
        let p : Contribution :=
          { index := gidIndex gid, child := (ringChild s.cur).setWidth 7, round := e.round, ty := ty, op := op
            value := if ty = 2 then BitVec.ofNat 64 v else BitVec.ofNat 64 (v % 2 ^ 32), time := timeNow s }
        set (addPart 3 s2 (ownSwitch s) gid e.jid p (selfCore s))
        nextPc) s

/-- A ring's multicast on a group counted: its SEQ (R455). -/
def countMulticast (s : State) (gid : BitVec 16) : BitVec 32 × State :=
  let k := (gid, ringChild s.cur)
  let n := (lookupKey (s.switchOf (ownSwitch s)).mcasts k).getD 0
  (n, s.modSwitch (ownSwitch s) fun y => { y with mcasts := putKey y.mcasts k (n + 1) })

/-- The port of a switch by which what a core of a ring sends up comes to it (R463). -/
def upPort (w : SwitchId) (n : BitVec 6) (core : Nat) : Nat :=
  match w with
  | .l0 _ _ => core
  | .l1 _ => (clusterOf n).toNat
  | .l2 _ => (dieOf n).toNat

/-- nmcast (R453, R459) -/
def execNmcast (a b : BitVec 5) (s : State) : Out :=
  runScalar (do
    let w := wordR 0x3C 0 a b (3 <<< 6)
    collectiveStart
    let x ← rdX a
    let gid ← gidOperand w a
    let va ← rdX b
    match memberEntry (← get) gid with
    | none => trap causeACCESS x
    | some e =>
      let pa ← selfWindow va 32
      let s ← get
      let data := (List.range 32).map fun i => s.peek (pa + i)
      let off := va.toNat % 0x80000
      match rootAbove 3 s (ownSwitch s) (gidIndex gid) with
      | some root => set (pushMulticast 3 s root (upPort root s.cur (selfCore s)) gid e.jid off data (timeNow s))
      | none =>
        let (n, s1) := countMulticast s gid
        set (queuePacket s1 { collectivePacket s1 s1.module e.jid e.upath (collectivePayload gid 2 0 0 false n (BitVec.ofNat 64 off) data) with
          time := timeNow s })
      nextPc) s

/-! ### Events: collective packets -/

/-- A contribution at a switch, by the port that it reaches (R452, R454). -/
def contributionAt (s : State) (sw : SwitchId) (child : BitVec 7) (port : Nat) (p : Packet) : State :=
  addPart 3 s sw p.gid p.jid
    { index := gidIndex p.gid, child := child, round := p.cseq, ty := p.cty, op := p.cop
      value := if p.cty = 2 then p.cval else zx (p.cval.extractLsb' 0 32), time := p.time } port

/-- A result at a switch. -/
def resultAt (s : State) (sw : SwitchId) (port : Nat) (p : Packet) : State := pushResult 3 s sw port p.gid p.jid p.cval p.time

/-- A multicast on its way up at a switch: the root sends it down (R454, R455). -/
def multicastUpAt (s : State) (sw : SwitchId) (port : Nat) (p : Packet) : State :=
  if !groupOpen s sw p.gid then discardLate s sw p.gid p.jid port
  else
    match rootAbove 3 s sw (gidIndex p.gid) with
    | some root => pushMulticast 3 s root port p.gid p.jid (p.cval.toNat % 0x80000) p.cdata p.time
    | none => queuePacket s p

/-- A multicast on its way down at a switch. -/
def multicastDownAt (s : State) (sw : SwitchId) (port : Nat) (p : Packet) : State :=
  pushMulticast 3 s sw port p.gid p.jid (p.cval.toNat % 0x80000) p.cdata p.time

/-- CONTRIBUTION (R452, R454) -/
def execContribution (sw : SwitchId) (child : BitVec 7) (p : Packet) (s : State) : Out := .next (contributionAt s sw child child.toNat p)

/-- COLLECTIVE_RESULT (R452, R454) -/
def execCollectiveResult (sw : SwitchId) (p : Packet) (s : State) : Out := .next (resultAt s sw (downPort sw p.upath) p)

/-- MULTICAST_UP (R454, R455): the root sends it down. -/
def execMulticastUP (sw : SwitchId) (p : Packet) (s : State) : Out := .next (multicastUpAt s sw (downPort sw p.upath) p)

/-- MULTICAST_DOWN (R454, R459) -/
def execMulticastDown (sw : SwitchId) (p : Packet) (s : State) : Out := .next (multicastDownAt s sw (downPort sw p.upath) p)

/-- The answer of a switch to a grpset issuer (R455). -/
def answerGrpset (s : State) (sw : SwitchId) (p : Packet) (sub : Nat) (refused : Bool) : State :=
  queuePacket s { collectivePacket s p.smod p.jid p.upath (collectivePayload p.gid sub 0 0 refused 0 (sw.swid s.module) []) with
    sring := p.sring, rtag := p.rtag }

/-- RESERVE (R457) -/
def execReserve (sw : SwitchId) (p : Packet) (s : State) : Out :=
  let ix := gidIndex p.gid
  let e := (s.switchOf sw).group ix
  .next (if mayReserve e (gidGen p.gid) then
      answerGrpset (s.modSwitch sw fun w => { w with groups := putKey w.groups ix { e with state := 3 } }) sw p 5 false
    else answerGrpset s sw p 5 true)

/-- RESERVE_REPLY (R457) -/
def execReserveReply (p : Packet) (s : State) : Out := .next (answer s p.rtag (if p.cstat then 1 else 0) [] 0)

/-- ENTRY_WRITE (R457): with no children, the release of a reservation (log 38). -/
def execEntryWrite (sw : SwitchId) (p : Packet) (s : State) : Out :=
  let ix := gidIndex p.gid
  let e := (s.switchOf sw).group ix
  let w0 := BitVec.ofNat 64 (ofBytes (p.cdata.take 8))
  let child := BitVec.ofNat 128 (ofBytes ((p.cdata.drop 8).take 16))
  let put (x : GroupEntry) : State := s.modSwitch sw fun w => { w with groups := putKey w.groups ix x }
  .next (if e.state != 3 then s
    else if child = 0 then put { e with state := 0 }
    else answerGrpset (put (installed e (w0.extractLsb' 28 4) (w0.extractLsb' 0 16) (w0.extractLsb' 16 12) (w0.getLsbD 32) child)) sw p 7 false)

/-- ENTRY_ACKNOWLEDGE (R457, R458) -/
def execEntryAcknowledge (p : Packet) (s : State) : Out := .next (answer s p.rtag (if p.cstat then 1 else 0) [] 0)

/-- A drain at a switch: a group's tree below it is drained, and each switch reports (R454, R458). -/
def drainAt (s : State) (sw : SwitchId) (port : Nat) (p : Packet) : State :=
  if !groupOpen s sw p.gid then discardLate s sw p.gid p.jid port
  else
    let (t, rep) := drainTree 3 s sw p.gid
    rep.foldl (fun u w => reportDrained u p.gid w) t

/-- DRAIN (R454, R458) -/
def execDrain (sw : SwitchId) (p : Packet) (s : State) : Out := .next (drainAt s sw (downPort sw p.upath) p)

/-- Entries that were DRAINING for a packet that the switch still held are freed once it has gone, and reported to a root elsewhere (R458). -/
def settleDrains (s : State) (sw : SwitchId) : State :=
  (s.switchOf sw).groups.foldl (fun t g =>
    let gid : BitVec 16 := g.2.gen ++ g.1
    if g.2.v && g.2.state == 2 && !holdsGroup (t.switchOf sw) gid then
      let u := freeEntry t sw gid
      if (rootAbove 3 t sw g.1).isSome then u else reportDrained u gid sw
    else t) s

/-- Whether a switch's entry takes the report of a drained switch (R454): it has the group's GEN and is ACTIVE, or DRAINING, as every entry is while the
root awaits the reports (R458 step 1; DEDUCED, log 38). -/
def awaitsReport (s : State) (w : SwitchId) (gid : BitVec 16) : Bool :=
  let e := (s.switchOf w).group (gidIndex gid)
  e.v && (e.state == 1 || e.state == 2) && e.gen == gidGen gid

/-- A drained report at a switch: kept by the root (R454, R458). -/
def drainedAt (s : State) (sw : SwitchId) (port : Nat) (p : Packet) : State :=
  if awaitsReport s sw p.gid then s.modSwitch sw fun w => { w with drained := w.drained ++ [(p.gid, p.cval)] }
  else discardLate s sw p.gid p.jid port

/-- DRAINED_REPORT (R454, R458) -/
def execDrainedReport (sw : SwitchId) (p : Packet) (s : State) : Out := .next (drainedAt s sw (downPort sw p.upath) p)

end Sys2Proof.Machine
end

