-- ==== Sys2Proof/Machine/Prefix.lean ====
section
/-! DEFINITION. pfx (spec/04 R105 to R108; spec/02 R45): the checks of a pair, and the successor under its predicate. -/

namespace Sys2Proof.Machine

/-- What an instruction writes among registers (R105, R106). -/
inductive DestKind where
  | none | scalar | vector | mask | acc | many
deriving DecidableEq, Repr

/-- The destination of an instruction with an opcode and a word (R105, R106). vldseg of one field writes one register; a widening or a block
instruction writes two, or a mask besides. -/
def destKind (op : Opcode) (w : Word32) : DestKind :=
  match op with
  | .add | .sub | .and | .or | .xor | .andn | .orn | .xnor | .sll | .srl | .sra | .rol | .ror | .min | .minu | .max | .maxu | .seq
  | .sne | .slt | .sltu | .mul | .mulh | .mulhu | .div | .divu | .rem | .remu | .clz | .ctz | .popc | .bext | .bdep | .bswap | .sextB
  | .sextH | .sextW | .zextB | .zextH | .zextW | .addi | .andi | .ori | .xori | .slli | .srli | .srai | .slti | .sltiu | .movz | .movk
  | .fadd | .fsub | .fmul | .fdiv | .fsqrt | .fmin | .fmax | .feq | .flt | .fle | .fclass | .fsgnj | .fsgnjn | .fsgnjx | .fcvtFF
  | .fcvtFI | .fcvtIF | .fmadd | .fmsub | .fnmadd | .jal | .jalr | .ldb | .ldbu | .ldh | .ldhu | .ldw | .ldwu | .ldd | .ldbuAQ
  | .ldhuAQ | .ldwuAQ | .lddAQ | .amoadd | .amoand | .amoor | .amoxor | .amomin | .amomax | .amominu | .amomaxu | .amoswap | .cas
  | .ldsync | .ldtake | .csrr | .csrw | .csrs | .csrc | .vsetvli | .vsetvl | .vcpop | .vfirst | .vmvxs | .vredsum | .vredmin
  | .vredmax | .vredand | .vredor | .vfredsum | .vfredosum | .vfredmin | .vfredmax | .widf | .sisectC => .scalar
  | .vmseqVV | .vmsneVV | .vmsltVV | .vmsleVV | .vmfeqVV | .vmfltVV | .vmfleVV | .vmseqVS | .vmsneVS | .vmsltVS | .vmsleVS | .vmfeqVS
  | .vmfltVS | .vmfleVS | .vmand | .vmor | .vmxor | .vmandn | .vconfl => .mask
  | .tzero | .tmma | .tmmaSX | .tmmaSat => .acc
  | .vaddVV | .vsubVV | .vmulVV | .vmulhVV | .vdivVV | .vremVV | .vminVV | .vmaxVV | .vandVV | .vorVV | .vxorVV | .vsllVV | .vsrlVV
  | .vsraVV | .vsaddVV | .vssubVV | .vaddVS | .vsubVS | .vmulVS | .vmulhVS | .vdivVS | .vremVS | .vminVS | .vmaxVS | .vandVS | .vorVS
  | .vxorVS | .vsllVS | .vsrlVS | .vsraVS | .vsaddVS | .vssubVS | .vrsubVS | .vmaddVS | .vmsacVS | .vaddVI | .vrsubVI | .vandVI
  | .vorVI | .vxorVI | .vsllVI | .vsrlVI | .vsraVI | .vsaddVI | .vminVI | .vmaxVI | .vmaddVV | .vmsacVV | .vdot4 | .vdot4Sat
  | .vfaddVV | .vfsubVV | .vfmulVV | .vfdivVV | .vfsqrt | .vfrsqrt | .vfmaVV | .vfmsVV | .vfnmaVV | .vfminVV | .vfmaxVV | .vfclass
  | .vfsgnjVV | .vfsgnjnVV | .vfsgnjxVV | .vfaddVS | .vfsubVS | .vfmulVS | .vfdivVS | .vfmaVS | .vfmsVS | .vfnmaVS | .vfminVS
  | .vfmaxVS | .vfsgnjVS | .vfsgnjnVS | .vfsgnjxVS | .vmvVV | .vmvsx | .vslideupVS | .vslidednVS | .vslideupVI | .vslidednVI | .vperm
  | .vcompress | .viota | .vid | .vmvVI | .vmvVS | .vld | .vlds | .vldx | .vxpand | .tmvz | .chase | .pgather => .vector
  | .vcvt => if (fld w 8 4 : BitVec 4).toNat < 14 then .vector else .many
  | .vldseg => if fld w 8 6 = (0#6 : BitVec 6) then .vector else .many
  | .vwaddVS | .vwmulVS | .vwaddVV | .vwmulVV | .vnzscan | .vqblkF4 | .vqblkI8 | .vdqblkF4 | .vdqblkI8 | .rgsetl | .sisectW | .cqpop => .many
  | .j | .beq | .bne | .blt | .bge | .bltu | .bgeu | .stb | .sth | .stw | .std | .stbRL | .sthRL | .stwRL | .stdRL | .stfill | .feclr
  | .feset | .fence | .fenceSV | .fenceVS | .fenceVV | .eret | .wfi | .halt | .tlbinv | .preempt | .ctxsave | .ctxload | .reshape
  | .trap | .vcfg | .vst | .vsts | .vstx | .vstseg | .tshape | .tlda | .tldb | .tstz | .tldaMC | .tldbMC | .fork | .join | .keywait
  | .doneStrand | .waitmsg | .send | .sendi | .sbind | .sunbind | .sdrain | .scopy | .scopyF | .cqwait | .walk | .grpset | .grpfree
  | .nred | .nmcast | .gswOut | .gswIN | .pfx => .none

/-- Whether a copy register of a pfx word is one of a kind (R105). -/
def copyFits (k : DestKind) (n : Nat) (cd : BitVec 6) : Bool :=
  match k with
  | .scalar => !cd.getLsbD 5
  | .mask => decide (cd.toNat ≤ 7)
  | .acc => decide (cd.toNat ≤ 3)
  | .vector => decide (cd.toNat < n)
  | .none => false
  | .many => false

/-- The successors that no pfx may have (R106). -/
def pfxBarred (op : Opcode) : Bool :=
  op == .pfx || op == .fork || op == .join || op == .doneStrand || op == .trap || op == .eret

/-- Whether a pfx word and a successor form a legal pair (R105, R106), with n vector registers. -/
def pairLegal (n : Nat) (p : Word32) (op : Opcode) (w : Word32) : Bool :=
  !pfxBarred op && (match pfxCopy p with
    | some cd => copyFits (destKind op w) n cd
    | none => true)

/-- Whether a word is a legal pfx word (R105). -/
def isPfx (p : Word32) : Bool :=
  match decodeOp p with
  | .ok .pfx => true
  | _ => false

/-- pfx (R105 to R108): the pair is checked at the pfx; a successor that cannot be fetched or decoded traps at itself. -/
def execPfx (sense : BitVec 1) (p : BitVec 5) (ce : BitVec 1) (cd : BitVec 6) (s : State) : Out :=
  runThen (do
    let w : Word32 := 0x3F#6 ++ sense ++ p ++ ce ++ cd ++ 0#13
    let pc ← rdPc
    let was := (← get).hart.sr
    let next ← attempt (fetchWord (pc + 4))
    modHart fun h => { h with sr := was }
    match next with
    | .error _ => pure ()
    | .ok succ =>
      match decodeOp succ with
      | .error _ => pure ()
      | .ok op => if pairLegal (vregCount (← get).hart.sc.nreg) w op succ then pure () else ill w
    nextPc) (fun t => { t with hart := { t.hart with
      pfx := some { word := 0x3F#6 ++ sense ++ p ++ ce ++ cd ++ 0#13, fromEret := false } } }) s

/-- The least level that an instruction's entry names (R51, R388, R456). -/
def leastLevel (op : Opcode) (w : Word32) : Level :=
  match op with
  | .eret | .wfi | .halt | .tlbinv | .preempt | .ctxsave | .ctxload | .reshape | .grpset | .grpfree => .s
  | .gswOut | .gswIN => .m
  | .csrr | .csrw | .csrs | .csrc =>
    let c : BitVec 12 := fld w 0 12
    if c < 0x100#12 then .u else if c < 0x200#12 then .s else .m
  | _ => .u

/-- Whether a level reaches another. -/
def Level.reaches (l least : Level) : Bool :=
  match least, l with
  | .u, _ => true
  | .s, .u => false
  | .s, _ => true
  | .m, .m => true
  | .m, _ => false

/-- The checks of R83 on a successor that its predicate skips. A CSR access above the level's range is among them: check 3 cites R51, where R118 lists CSR
PRIV among the causes at execution (DESIGN CHOICE, log 95). -/
def skipChecks (op : Opcode) (w : Word32) : M Unit := do
  noPfxConvoy w
  let s ← get
  if csrUnassigned op w || !vecLegal (vregCount s.hart.sc.nreg) s.hart.sc.sew w then ill w
  else
    let _ ← convoyRest w
    if s.hart.level.reaches (leastLevel op w) then nextPc else trap causePRIV (w.setWidth 64)

/-- The predicate of a pfx word (R107). -/
def predicate (p : Word32) : M Bool := do
  let x ← rdX (fld p 20 5)
  return if fld p 25 1 = (1#1 : BitVec 1) then x != 0 else x == 0

/-- What happens to an instruction under a pending prefix (R106 to R108): it traps ILL where eret reapplied a prefix that is not legal for it; it is
skipped where the predicate is false; else it executes. -/
def underPrefix (p : Pending) (op : Opcode) (w : Word32) (run : State → Out) (s : State) : Out :=
  if p.fromEret && !(isPfx p.word && pairLegal (vregCount s.hart.sc.nreg) p.word op w) then
    runScalar (do modHart fun h => { h with pfx := none }; ill w) s
  else
    match predicate p.word s with
    | .ok true t => run t
    | .ok false t => runScalar (skipChecks op w) t
    | .error _ _ => runScalar (do let _ ← predicate p.word) s

end Sys2Proof.Machine
end

