-- ==== Sys2Proof/Machine/Packets.lean ====
section
/-! DEFINITION. Packets as flits (spec/23 R430), links (R425, R426), the buffers of switches (R433, R444), caissons (spec/24 R466) and late packets (R467, R468). -/

namespace Sys2Proof

/-- The flits of a packet (R430): 48 bytes of payload in the first, 64 in each other. -/
def Packet.flitCount (p : Packet) : Nat := if p.payload.length ≤ 48 then 1 else 1 + (p.payload.length - 48 + 63) / 64

/-- The 16-byte header (R430). -/
def Packet.header (p : Packet) : BitVec 128 :=
  p.rtag ++ p.status ++ BitVec.ofNat 9 p.payload.length ++ BitVec.ofNat 3 (p.flitCount - 1) ++ p.pseq ++ p.jid ++ p.age ++ (0#1 : BitVec 1)
    ++ BitVec.ofBool p.slow ++ p.upath ++ p.sring ++ p.smod ++ p.dmod ++ BitVec.ofBool p.resp ++ BitVec.ofBool p.ord ++ p.tc ++ p.kind

/-- The bytes of a packet's flits. -/
def Packet.bytes (p : Packet) : List Byte :=
  let l := Machine.bytesOf p.header.toNat 16 ++ p.payload
  l ++ List.replicate (64 * p.flitCount - l.length) 0

/-- The packet that the bytes of its flits hold (R430). -/
def Packet.ofBytes (l : List Byte) : Packet :=
  let h := Machine.ofBytes (l.take 16)
  let f (lo n : Nat) : Nat := bitsAt h lo n
  { kind := BitVec.ofNat 4 (f 0 4), tc := BitVec.ofNat 2 (f 4 2), ord := f 6 1 == 1, resp := f 7 1 == 1, dmod := BitVec.ofNat 14 (f 8 14)
    smod := BitVec.ofNat 14 (f 22 14), sring := BitVec.ofNat 6 (f 36 6), upath := BitVec.ofNat 12 (f 42 12), slow := f 54 1 == 1
    age := BitVec.ofNat 8 (f 56 8), jid := BitVec.ofNat 16 (f 64 16), pseq := BitVec.ofNat 16 (f 80 16), status := BitVec.ofNat 4 (f 108 4)
    rtag := BitVec.ofNat 16 (f 112 16), payload := (l.drop 16).take (f 99 9), time := 0 }

/-- The flits of a packet. -/
def Packet.flits (p : Packet) : List (BitVec 512) :=
  (List.range p.flitCount).map fun i => BitVec.ofNat 512 (Machine.ofBytes ((p.bytes.drop (64 * i)).take 64))

/-- The number of flits that a first flit announces: LEN + 1. -/
def flitsOf (first : BitVec 512) : Nat := bitsAt first.toNat 96 3 + 1

/-- The channel of a packet: TC and RESP (R433). -/
def Packet.chan (p : Packet) : BitVec 3 := BitVec.ofBool p.resp ++ p.tc

end Sys2Proof

namespace Sys2Proof.Machine

/-! ### Links (R425, R426) -/

/-- The link that an up-path names. -/
def linkOf (upath : BitVec 12) : Nat := 9 * bitsAt upath.toNat 0 1 + bitsAt upath.toNat 1 4

/-- The abutment die that an up-path names (R426). -/
def pathDie (upath : BitVec 12) : BitVec 1 := upath.extractLsb' 0 1

/-- Whether a link carries packets. -/
def linkUp (s : State) (i : Nat) : Bool := (s.link i).up && !(s.link i).recov && !(s.link i).failed

/-- The flits of a list of waiting packets. -/
def flitsIn (l : List Buffered) : Nat := (l.map (·.pkt.flitCount)).sum

/-- The flits that wait for a link. -/
def queuedFlits (s : State) (i : Nat) : Nat := flitsIn (s.link i).out

/-- Whether a channel's buffer that holds some flits has room for a packet (R428, R433): it always holds the largest packet (log 40). -/
def channelRoom (held : Nat) (p : Packet) : Bool :=
  decide (held + p.flitCount ≤ 6) || decide (held + p.flitCount ≤ 6 + Config.channelFlits p.chan.toNat)

/-- The link that carries packets and has the least load; of equals the lowest-numbered (R439; the measure of load is a DESIGN CHOICE, log 40). -/
def bestLink (s : State) : Option Nat :=
  (List.range 18).foldl (fun b i =>
    if linkUp s i then
      match b with
      | some j => if queuedFlits s i < queuedFlits s j then some i else b
      | none => some i
    else b) none

/-- TIME at the switches of the module (R439, R466): that of die 0 (log 82). -/
def switchTime (s : State) : Word := (s.die 0).count

/-- A packet as it waits for an external link, with the TIME at which it came to its switch (R439). -/
def atOutput (i : Nat) (p : Packet) (t : Word) : Buffered := { port := BitVec.ofNat 5 (14 + i % 9), chan := p.chan, time := t, pkt := p }

/-- A packet that came to its switch at some time goes to an external link's output (R439). -/
def linkOutAt (s : State) (i : Nat) (p : Packet) (t : Word) : State :=
  { s.modLink i fun l => { l with out := l.out ++ [atOutput i p t] } with fabOut := p :: s.fabOut }

/-- A packet leaves the module by a link. -/
def linkOut (s : State) (i : Nat) (p : Packet) : State := linkOutAt s i p (switchTime s)

/-- Adds one to a saturating 32-bit count. -/
def bump32 (c : BitVec 32) : BitVec 32 := if c = BitVec.allOnes 32 then c else c + 1

/-- A discarded packet counted in FABSTAT.BADPKT (R431, R440). -/
def badPacket (s : State) (a : BitVec 1) : State := { s with badpkt := s.badpkt.set a.toNat (bump32 (s.badpkt[a.toNat]'a.isLt)) a.isLt }

/-- A deflected packet counted (R440, R444). -/
def countDeflect (s : State) (a : BitVec 1) : State := { s with deflect := s.deflect.set a.toNat (bump32 (s.deflect[a.toNat]'a.isLt)) a.isLt }

/-- A packet deflected by a free port of an abutment switch (R444): AGE rises by 1, up to 255. -/
def deflectOut (s : State) (a : BitVec 1) (i : Nat) (p : Packet) (t : Word) : State :=
  countDeflect (linkOutAt s i { p with age := if p.age = 255 then 255 else p.age + 1 } t) a

/-- Whether an external port is free in deflection mode (R444): its link is up, and nothing waits for it (DESIGN CHOICE, log 40). -/
def portFree (s : State) (i : Nat) : Bool := linkUp s i && (s.link i).out.isEmpty

/-- The lowest-numbered free external port of an abutment switch, by its link. -/
def freePort (s : State) (a : BitVec 1) : Option Nat := ((List.range 9).map (9 * a.toNat + ·)).find? (portFree s)

/-- The buffer of a link direction given back as credit when a packet leaves a switch's external port (R428). -/
def creditBack (s : State) (w : SwitchId) (b : Buffered) : State :=
  match w with
  | .l2 a =>
    if 14 ≤ b.port.toNat && b.port.toNat < 23 then
      s.modLink (9 * a.toNat + (b.port.toNat - 14)) fun l =>
        let c := bitsAt l.freed.toNat (8 * b.chan.toNat) 8
        { l with freed := BitVec.ofNat 64 (l.freed.toNat + ((c + b.pkt.flitCount) % 256) * 2 ^ (8 * b.chan.toNat) - c * 2 ^ (8 * b.chan.toNat)) }
    else s
  | _ => s

/-! ### Buffers (R433, R444, R445) -/

/-- The flits that a deflection overflow area holds (R445). -/
def overflowFlits : Nat := 65536

/-- Whether a packet at an abutment switch finds its down port busy in deflection mode (R444): the down ports of a module that lags are, and a packet waits
behind those in the overflow area. -/
def downBusy (s : State) (w : SwitchId) (b : Buffered) : Bool :=
  match w with
  | .l2 _ => s.lag && decide (14 ≤ b.port.toNat) && b.pkt.dmod == s.module && (s.defl || !(s.switchOf w).overflow.isEmpty)
  | _ => false

/-- The overflow area of an abutment die (R445). -/
def overflowBase (s : State) (a : BitVec 1) : Nat := s.module.toNat * 2 ^ 42 + reserveBase + a.toNat * 0x400000

/-- Flits stored in the slots of an overflow area from one on, in order; the slots follow one another in a circle (R445; DESIGN CHOICE, log 40). -/
def storeFlits (s : State) (a : BitVec 1) : Nat → List (BitVec 512) → State
  | _, [] => s
  | k, f :: t => storeFlits (s.pokeBytes (overflowBase s a + 64 * (k % overflowFlits)) (bytesOf f.toNat 64)) a (k + 1) t

/-- A packet in the overflow area of an abutment die (R444, R445). -/
def overflowAt (s : State) (a : BitVec 1) (b : Buffered) : State :=
  let s1 := storeFlits s a (s.switchOf (.l2 a)).tail b.pkt.flits
  s1.modSwitch (.l2 a) fun x => { x with overflow := x.overflow ++ [b], tail := (x.tail + b.pkt.flitCount) % overflowFlits }

/-- A packet in a switch: in its buffer, or, where its down port is busy in deflection mode, in the overflow area while that has room, and else deflected
by a free port (R444). -/
def bufferAt (s : State) (w : SwitchId) (b : Buffered) : State :=
  if downBusy s w b then
    let a : BitVec 1 := match w with | .l2 a => a | _ => 0
    if flitsIn (s.switchOf w).overflow + b.pkt.flitCount ≤ overflowFlits then creditBack (overflowAt s a b) w b
    else
      match freePort s a with
      | some i => deflectOut (creditBack s w b) a i b.pkt b.time
      | none => s.modSwitch w fun x => { x with buf := x.buf ++ [b] }
  else s.modSwitch w fun x => { x with buf := x.buf ++ [b] }

/-! ### Caissons (R466) -/

/-- The physical address of a caisson slot. -/
def caissonSlot (s : State) (w : SwitchId) (k : Nat) : Nat := s.module.toNat * 2 ^ 42 + caissonBase + (16 * w.number + k) * 0x200000

/-- An 8-byte word of a slot. -/
def slotWord (s : State) (base off : Nat) : Word := BitVec.ofNat 64 (readLE (memGet s.mem) (base + off) 8)

/-- The slot of a switch that a job uses. -/
def jobSlot (s : State) (w : SwitchId) (jid : BitVec 16) : Option Nat :=
  ((List.range 16).map (caissonSlot s w)).find? fun b => (slotWord s b 0).getLsbD 16 && (slotWord s b 0).extractLsb' 0 16 == jid

/-- The memory with every byte of a slot zero (R466). -/
def clearSlot (s : State) (base : Nat) : State :=
  let out (a : Nat) : Bool := decide (a < base ∨ base + 0x200000 ≤ a)
  { s with mem := s.mem.filter fun c => out c.1, bad := s.bad.filter out }

/-- The first word of a slot that a job takes, and its TIME: those of a switch that has completed step 5 of R462 say so at once (R466). -/
def slotHead (s : State) (w : SwitchId) (jid : BitVec 16) : Nat × Word :=
  match (s.switchOf w).jobs.find? fun j => j.jid == jid && j.saved with
  | some j => (jid.toNat + 2 ^ 16 + 2 ^ 17, j.doneAt)
  | none => (jid.toNat + 2 ^ 16, 0)

/-- The slot of a job, taken if it has none; none where no slot is free. -/
def takeSlot (s : State) (w : SwitchId) (jid : BitVec 16) : Option (Nat × State) :=
  match jobSlot s w jid with
  | some b => some (b, s)
  | none =>
    match ((List.range 16).map (caissonSlot s w)).find? fun b => !(slotWord s b 0).getLsbD 16 with
    | some b =>
      let h := slotHead s w jid
      some (b, ((clearSlot s b).pokeLE b h.1 8).pokeLE (b + 16) h.2.toNat 8)
    | none => none

/-- The bytes of a record (R466). -/
def recordBytes (b : Buffered) : List Byte :=
  bytesOf (b.port.toNat + 2 ^ 8 * b.pkt.tc.toNat + 2 ^ 11 * b.pkt.resp.toNat + 2 ^ 12 * (b.pkt.flitCount - 1)) 8 ++ bytesOf b.time.toNat 8
    ++ List.replicate 48 0 ++ b.pkt.bytes

/-- Where the record after n records of an area lies. -/
def recordEnd (s : State) (off : Nat) : Nat → Nat
  | 0 => off
  | n + 1 => recordEnd s (off + 64 + 64 * (bitsAt (memGet s.mem (off + 1)).toNat 4 3 + 1)) n

/-- The n records of an area. The record has no field for the TIME that a release or a collective carries: one restored carries that of its arrival, which
is no earlier (R317, R453; DESIGN CHOICE, log 42). -/
def readRecords (s : State) (off : Nat) : Nat → List Buffered
  | 0 => []
  | n + 1 =>
    let d := BitVec.ofNat 64 (readLE (memGet s.mem) off 8)
    let len : Nat := (d.extractLsb' 12 3 : BitVec 3).toNat + 1
    let p := Packet.ofBytes ((List.range (64 * len)).map fun i => memGet s.mem (off + 64 + i))
    let t := BitVec.ofNat 64 (readLE (memGet s.mem) (off + 8) 8)
    { port := BitVec.ofNat 5 (d.extractLsb' 0 6 : BitVec 6).toNat, chan := p.chan, time := t, pkt := { p with time := if p.ord || p.resp || p.kind == 10 then t else 0 } }
      :: readRecords s (off + 64 + 64 * len) n

/-- A count of a slot raised by one: the low or the high half of a word. -/
def bumpCount (s : State) (a : Nat) (n : Nat) : State := s.pokeLE a (readLE (memGet s.mem) a n + 1) n

/-- A packet recorded in a slot's main or late area; none where the late area is full. -/
def recordPacket (s : State) (base : Nat) (late : Bool) (b : Buffered) : Option State :=
  let count := readLE (memGet s.mem) (base + (if late then 12 else 8)) 4
  let start := base + (if late then 0x101000 else 0x1000)
  let off := recordEnd s start count
  let l := recordBytes b
  if base + (if late then 0x200000 else 0x101000) < off + l.length then none
  else
    let s1 := s.pokeBytes off l
    let s2 := bumpCount s1 (base + (if late then 12 else 8)) 4
    some (bumpCount s2 (base + 0x40 + 8 * b.port.toNat + (if late then 2 else 0)) 2)

/-! ### Late packets and overflow (R467, R468) -/

/-- The module's state of a job set (R460). -/
def setJob (s : State) (jid : BitVec 16) (st : JobState) : State := { s with jobs := putKey s.jobs jid st }

/-- The modules of a job's domain, this one among them (R460; log 39). -/
def jobModules (s : State) (jid : BitVec 16) : List (BitVec 14) :=
  (s.module :: (s.elsewhere.filter fun e => e.1 == jid).map (·.2)).eraseDups

/-- The module of a job's root: the lowest-numbered of its domain (R460). -/
def rootModule (s : State) (jid : BitVec 16) : BitVec 14 := (jobModules s jid).foldl (fun a b => if b < a then b else a) s.module

/-- The payload of a gang-switch packet (R464). -/
def gangPayload (jid : BitVec 16) (sub : Nat) (flags : BitVec 8) (gseq count : BitVec 32) (src : Word) : List Byte :=
  bytesOf jid.toNat 2 ++ [BitVec.ofNat 8 sub, flags] ++ bytesOf gseq.toNat 4 ++ bytesOf count.toNat 4 ++ List.replicate 4 0 ++ bytesOf src.toNat 8
    ++ List.replicate 24 0

/-- A gang-switch packet to a module (R464). -/
def gangPacket (s : State) (dmod : BitVec 14) (jid : BitVec 16) (payload : List Byte) : Packet :=
  { kind := 11, tc := 0, ord := false, resp := false, dmod := dmod, smod := s.module, sring := 0, upath := 0, slow := false, age := 0, jid := jid,
    pseq := 0, status := 0, rtag := 0, payload := payload, time := 0 }

/-- A module and an up-path for each way by which a command of the root meets the switch chips of a job's domain (R460, R462): every plane, and every rack
switch where the domain has more than one board. -/
def chipPaths (s : State) (jid : BitVec 16) : List (Nat × BitVec 14 × BitVec 12) :=
  let others := (jobModules s jid).filter (· ≠ s.module)
  let far := others.filter fun m => m.toNat / 128 ≠ s.module.toNat / 128
  let path (p r : Nat) : BitVec 12 := BitVec.ofNat 12 (p / 9 + 2 * (p % 9) + 32 * r)
  if others.isEmpty then []
  else if far.isEmpty then (List.range 18).map fun p => (p, others.headD 0, path p 0)
  else (List.range 18).flatMap fun p => (List.range 128).map fun r => (p, far.getD (r % far.length) 0, path p r)

/-- A gang-switch packet to every other module of a job's domain, and by every way through its switch chips, each of which takes in the command that it
passes on (R462, R464; the layout of R464 names no target switch: DESIGN CHOICE, log 39). -/
def toDomain (s : State) (jid : BitVec 16) (sub : Nat) (gseq : BitVec 32) : State :=
  let mk (m : BitVec 14) : Packet := gangPacket s m jid (gangPayload jid sub 0 gseq 0 0)
  let s1 := ((jobModules s jid).filter (· ≠ s.module)).foldl (fun t m => queuePacket t (mk m)) s
  ((chipPaths s jid).filter fun c => (s.link c.1).up || (s.link c.1).recov).foldl (fun t c => linkOut t c.1 { mk c.2.1 with upath := c.2.2 }) s1

/-- The management cores of this module that have issued a gang switch of a job which is not complete (R461, R469). -/
def issuersHere (s : State) (jid : BitVec 16) : List (BitVec 1) :=
  ((s.gang.filter fun g => g.jid == jid && !g.far).map (·.issuer) ++ (s.gangAsked.filter fun g => g.1 == jid).map (·.2.1)).eraseDups

/-- GSEQ of the gang switch of a job that this module takes part in. -/
def gseqOf (s : State) (jid : BitVec 16) : BitVec 32 := (((s.switchOf (.l2 0)).jobs.find? fun j => j.jid == jid).map (·.gseq)).getD 0

/-- A late area overflows: OVF, GSOVF at the management core of abutment die 0 and at the issuer, and the job FAILED on every module of its domain (R468,
R469). -/
def overflowJob (s : State) (w : SwitchId) (jid : BitVec 16) (port : Nat) : State :=
  let s1 := match jobSlot s w jid with
    | some b => s.pokeLE b ((slotWord s b 0) ||| (1#64 <<< 18)).toNat 8
    | none => s
  let s2 := s1.modSwitch w fun x => { x with jobs := x.jobs.map fun j => if j.jid == jid then { j with discarding := true } else j }
  let val := lateVal jid 0 w.level port false
  let s3 := (0 :: (issuersHere s jid).filter (· ≠ 0)).foldl (fun t a => postSwitchEvent t a causeGSOVF val) s2
  toDomain (setJob { s3 with gang := s3.gang.map fun g => if g.jid == jid then { g with overflowed := true } else g } jid .failed) jid 6 (gseqOf s jid)

/-- A late packet at a switch (R467, R468). -/
def latePacket (s : State) (w : SwitchId) (b : Buffered) : State :=
  let jid := b.pkt.jid
  let raise (t : State) : State := postSwitchEvent t 0 causeLATEPKT (lateVal jid 0 w.level b.port.toNat false)
  match takeSlot s w jid with
  | none => overflowJob s w jid b.port.toNat
  | some (base, s1) =>
    match recordPacket s1 base true b with
    | some t => raise t
    | none => overflowJob s1 w jid b.port.toNat

/-- Whether a packet is one of a job (R462 to R467): a gang-switch packet, which carries the JID that it is about, is none, nor is a
control packet. -/
def ofJob (jid : BitVec 16) (p : Packet) : Bool := p.jid == jid && p.kind != 11 && p.kind != 12

/-- A packet arrives at an input port of a switch (R462, R467, R468): it is buffered, or late where the port is closed to its job. -/
def arrive (s : State) (w : SwitchId) (port : BitVec 5) (p : Packet) : State :=
  let b : Buffered := { port := port, chan := p.chan, time := switchTime s, pkt := p }
  match (s.switchOf w).jobs.find? fun j => ofJob j.jid p with
  | none => bufferAt s w b
  | some j =>
    if j.discarding then
      match jobSlot s w p.jid with
      | some base => bumpCount s (base + 12) 4
      | none => s
    else if j.closed.contains port then latePacket s w b
    else bufferAt s w b

end Sys2Proof.Machine
end

