-- ==== Sys2Proof/Machine/Gang.lean ====
section
/-! DEFINITION. The gang switch (spec/24 R460 to R469): gsw, the switch-out and the switch-in of a job on this module, sweep markers, reports and
the root's part. The modules of a job's domain besides this one are the world's (log 39). -/

namespace Sys2Proof.Machine

/-! ### Job states (R460) -/

/-- The rings of the module that hold a strand of a job. -/
def ringsOf (s : State) (jid : BitVec 16) : List (BitVec 6) := allRings.filter fun n => jobOnRing s n jid

/-- The state of a job on the module; none where it has no ring there (R460). -/
def jobState (s : State) (jid : BitVec 16) : Option JobState :=
  match lookupKey s.jobs jid with
  | some st => some st
  | none =>
    if !(ringsOf s jid).isEmpty || s.actors.any fun (a : Actor) => a.jid == jid && a.phase != .finished then some .running else none

/-- The module with a management core's strand changed. -/
def modCore (s : State) (a : BitVec 1) (f : Hart → Hart) : State :=
  if s.onMgmt = some a then { s with hart := f s.hart } else s.modMgmt a fun c => { c with hart := f c.hart }

/-- Posts a gang-switch record to a management core (R461). -/
def postGang (s : State) (a : BitVec 1) (status : BitVec 8) (cmdNo : BitVec 16) (done : BitVec 32) : State :=
  modCore s a fun h => h.post (cqRecord 7 status cmdNo done 0)

/-! ### Resuming (R465 step 4) -/

/-- The rings of a job resumed, its caisson slots freed, and the job RUNNING (R465, R466). One that is HALTED is RUNNING under the halt, which goes on (R390
does not say whether the resume waits: DESIGN CHOICE, log 100). -/
def resumeJob (s : State) (jid : BitVec 16) : State :=
  let s1 := (ringsOf s jid).foldl (fun t n => onRing t n 0 fun u => if u.ring.state = .stopped then resumeHere u else u) s
  let s2 := moduleSwitches.foldl (fun t w => match jobSlot t w jid with | some b => t.pokeLE b 0 8 | none => t) s1
  setJob { s2 with switches := s2.switches.map fun w => { w with jobs := w.jobs.filter fun j => j.jid != jid } } jid .running

/-! ### The root's part (R462 step 7, R465 step 4) -/

/-- A switch-out of a job is complete: the job is OUT, or FAILED on every module of its domain where a module fault asked for it (R462, R482 step 2). -/
def reachOut (s : State) (jid : BitVec 16) (gseq : BitVec 32) : State :=
  if s.failing.contains jid then toDomain (setJob { s with failing := s.failing.filter (· ≠ jid) } jid .failed) jid 6 gseq else setJob s jid .out

/-- The root has every report: it posts the record, and the job's state changes (R462, R465, R468). A record for a core of another module is the
world's (log 39). -/
def finishRun (s : State) (g : GangRun) : State :=
  let s1 := { s with gang := s.gang.filter fun x => x.jid != g.jid }
  let s2 := if g.far then s1 else postGang s1 g.issuer (if g.overflowed then 0x13 else 0) g.cmdNo g.count
  if g.overflowed then s2
  else if g.out then reachOut s2 g.jid g.gseq
  else toDomain (resumeJob s2 g.jid) g.jid 5 g.gseq

/-- The root hears a report of the gang switch that it runs, by its GSEQ (R464): of a switch, with its count, or of a module. -/
def rootHears (s : State) (jid : BitVec 16) (gseq : BitVec 32) (f : GangRun → GangRun) : State :=
  match s.gang.find? fun g => g.jid == jid && g.gseq == gseq with
  | none => s
  | some g =>
    let g1 := f g
    if g1.switches.isEmpty && g1.modules.isEmpty then finishRun s g1
    else { s with gang := s.gang.map fun x => if x.jid == jid then g1 else x }

/-- A saturating sum of two counts (R461). -/
def addCount (a b : BitVec 32) : BitVec 32 := saturate32 (a.toNat + b.toNat)

/-- A switch's report at the root. -/
def GangRun.hearSwitch (g : GangRun) (swid : Word) (count : BitVec 32) (stat : Bool) : GangRun :=
  if g.switches.contains swid then
    { g with switches := g.switches.filter (· ≠ swid), count := addCount g.count count, overflowed := g.overflowed || stat }
  else g

/-- A module's report at the root. -/
def GangRun.hearModule (g : GangRun) (m : BitVec 14) (stat : Bool) : GangRun :=
  { g with modules := g.modules.filter (· ≠ m), overflowed := g.overflowed || stat }

/-- STAT of a gang-switch packet. -/
def statFlag (stat : Bool) : BitVec 8 := (0#4 : BitVec 4) ++ BitVec.ofBool stat ++ (0#3 : BitVec 3)

/-- The report of an on-module switch (R462, R464). -/
def reportSwitch (s : State) (jid : BitVec 16) (gseq count : BitVec 32) (w : SwitchId) : State :=
  let stat := jobState s jid == some .failed
  if rootModule s jid = s.module then rootHears s jid gseq fun g => g.hearSwitch (w.swid s.module) count stat
  else queuePacket s (gangPacket s (rootModule s jid) jid (gangPayload jid 3 (statFlag stat) gseq count (w.swid s.module)))

/-- The report of this module. -/
def reportModule (s : State) (jid : BitVec 16) (gseq : BitVec 32) : State :=
  let stat := jobState s jid == some .failed
  if rootModule s jid = s.module then rootHears s jid gseq fun g => g.hearModule s.module stat
  else queuePacket s (gangPacket s (rootModule s jid) jid (gangPayload jid 4 (statFlag stat) gseq 0 (s.module.setWidth 64)))

/-! ### Switch-out (R462) -/

/-- The rings of a job are pre-empted with SOURCE 3 (R462 step 2). -/
def sweepPreempt (s : State) (jid : BitVec 16) : State :=
  (ringsOf s jid).foldl (fun t n =>
    if (t.ringAt n).state = .running then
      match serveRing (raisePreempt t n 0 3) n with
      | .next u => u
      | _ => raisePreempt t n 0 3
    else t) s

/-- A switch-out begins on this module (R462 step 1). -/
def beginOut (s : State) (jid : BitVec 16) (gseq : BitVec 32) : State :=
  let sj : SwitchJob := { jid := jid, gseq := gseq, markers := [], closed := [], raised := false, saved := false, count := 0, discarding := false }
  let s1 := setJob { s with ringsSaved := s.ringsSaved.filter (· ≠ jid) } jid .sweeping
  sweepPreempt { s1 with switches := s1.switches.map fun w => { w with jobs := w.jobs.filter (fun j => j.jid != jid) ++ [sj] } } jid

/-- Whether what a save waits for has happened on the executing, quieted ring; a halted one waits for the end of the halt (R390), and sent messages are
saved with SENT (R462 step 6). -/
def sweepReady (s : State) : Bool :=
  s.ring.state == .stopped && !s.ring.halted && saveReady { s with ring := { s.ring with outbound := [] } }

/-- The executing, stopped and quieted ring saved at the context address of its actor, and EMPTY (R462 step 6). -/
def sweepRing (s : State) : State :=
  match residentActor s with
  | none => s
  | some a =>
    let s2 := releaseRing ((noteKept s).pokeBytes a.ctx.toNat (contextBytes s))
    match s2.actors.find? fun (x : Actor) => x.aid == a.aid && x.jid == a.jid with
    | none => s2
    | some x => s2.putActor { x with phase := .swept }

/-- The external links of an abutment switch that carry frames, now or once their recovery ends (R462). -/
def liveLinks (s : State) (a : BitVec 1) : List Nat :=
  (List.range 9).filter fun i => (s.link (9 * a.toNat + i)).up || (s.link (9 * a.toNat + i)).recov

/-- The input ports of an on-module switch in a domain (R463): external links count where the domain has other modules. -/
def inputPorts (s : State) (jid : BitVec 16) (w : SwitchId) : List Nat :=
  match w with
  | .l0 _ _ => List.range 17
  | .l1 _ => List.range 11
  | .l2 a =>
    List.range 14 ++ (if (jobModules s jid).length ≤ 1 then []
      else (liveLinks s a).map (14 + ·))

/-- The endpoint ports of a switch (R462 step 3, R463). -/
def endpointPorts (w : SwitchId) : List Nat :=
  match w with
  | .l0 _ _ => List.range 16
  | .l1 _ => [4, 5, 6, 7, 8]
  | .l2 _ => [9, 10, 11, 12, 13]

/-- A switch's part with markers of all channels added at ports; a port with all eight is closed to the job (R462 step 4). -/
def SwitchJob.mark (j : SwitchJob) (ports : List Nat) (chans : List (BitVec 3)) : SwitchJob :=
  let new := (ports.flatMap fun p => chans.map fun c => ((BitVec.ofNat 5 p : BitVec 5), c)).filter fun x => !j.markers.contains x
  let all := j.markers ++ new
  { j with
    markers := all
    closed := ((List.range 32).map (BitVec.ofNat 5)).filter fun p => decide (8 ≤ (all.filter fun x => x.1 == p).length) }

/-- All channels. -/
def allChannels : List (BitVec 3) := (List.range 8).map (BitVec.ofNat 3)

/-- The module with a job's part of a switch changed. -/
def modSwitchJob (s : State) (w : SwitchId) (jid : BitVec 16) (f : SwitchJob → SwitchJob) : State :=
  s.modSwitch w fun x => { x with jobs := x.jobs.map fun j => if j.jid == jid then f j else j }

/-- A job's part of a switch. -/
def switchJob (s : State) (w : SwitchId) (jid : BitVec 16) : Option SwitchJob := (s.switchOf w).jobs.find? fun j => j.jid == jid

/-- Whether a switch has every marker at some of its ports. -/
def portsClosed (s : State) (w : SwitchId) (jid : BitVec 16) (ports : List Nat) : Bool :=
  match switchJob s w jid with
  | none => false
  | some j => ports.all fun p => j.closed.contains (BitVec.ofNat 5 p)

/-- All channels of one port of a switch marked. -/
def markPort (s : State) (w : SwitchId) (jid : BitVec 16) (port : Nat) : State := modSwitchJob s w jid fun j => j.mark [port] allChannels

/-- Markers climb from the L0 and L1 switches, cross the bridge, and descend (R462 step 4): one round. -/
def passMarkers (s : State) (jid : BitVec 16) : State :=
  let up0 := moduleSwitches.foldl (fun t w =>
    match w with
    | .l0 d c => if portsClosed t w jid (List.range 16) then markPort t (.l1 d) jid c.toNat else t
    | _ => t) s
  let up1 := moduleSwitches.foldl (fun t w =>
    match w with
    | .l1 d => if portsClosed t w jid (List.range 9) then markPort (markPort t (.l2 0) jid d.toNat) (.l2 1) jid d.toNat else t
    | _ => t) up0
  let bridge := moduleSwitches.foldl (fun t w =>
    match w with
    | .l2 a => if portsClosed t w jid (List.range 8 ++ [9, 10, 11, 12, 13]) then markPort t (.l2 (a + 1)) jid 8 else t
    | _ => t) up1
  moduleSwitches.foldl (fun t w =>
    match w with
    | .l2 a => if portsClosed t w jid (inputPorts t jid w) then allDies.foldl (fun u d => markPort u (.l1 d) jid (9 + a.toNat)) t else t
    | .l1 d =>
      if portsClosed t w jid (inputPorts t jid w) then
        ((List.range 4).map (BitVec.ofNat 2)).foldl (fun u c => markPort u (.l0 d c) jid 16) t
      else t
    | .l0 _ _ => t) bridge

/-- The sweep marker of a channel (R464). It is no packet for a module: each switch takes it in, and its DMOD says nothing (DESIGN CHOICE, log 39). -/
def markerPacket (s : State) (jid : BitVec 16) (gseq : BitVec 32) (chan : BitVec 3) : Packet :=
  { gangPacket s s.module jid (gangPayload jid 0 (chan.setWidth 8) gseq 0 0) with tc := chan.extractLsb' 0 2, resp := chan.getLsbD 2 }

/-- An abutment switch sends its markers by its external links, once every input from below and from the bridge has delivered them (R462 step 4). -/
def raiseMarkers (s : State) (jid : BitVec 16) (a : BitVec 1) : State :=
  match switchJob s (.l2 a) jid with
  | none => s
  | some j =>
    if j.raised || (jobModules s jid).length ≤ 1 || !portsClosed s (.l2 a) jid (List.range 14) then s
    else
      (liveLinks s a).foldl (fun t i => allChannels.foldl (fun u c => linkOut u (9 * a.toNat + i) (markerPacket s jid j.gseq c)) t)
        (modSwitchJob s (.l2 a) jid fun j => { j with raised := true })

/-- The order in which a switch saves a job's packets (R462 step 5): TC, then requests before responses, then input port, then arrival. -/
def sweepOrder (l : List Buffered) : List Buffered :=
  (List.range 4).flatMap fun tc => [false, true].flatMap fun resp => (List.range 32).flatMap fun p =>
    l.filter fun b => b.pkt.tc.toNat == tc && b.pkt.resp == resp && b.port.toNat == p

/-- A switch that has every marker saves the job's packets, and reports (R462 steps 5 and 7). -/
def sweepSwitch (s : State) (w : SwitchId) (jid : BitVec 16) : State :=
  match switchJob s w jid with
  | none => s
  | some j =>
    if j.saved || !portsClosed s w jid (inputPorts s jid w) then s
    else
      let mine := sweepOrder (((s.switchOf w).buf ++ (s.switchOf w).overflow).filter fun b => ofJob jid b.pkt)
      let s1 := s.modSwitch w fun x =>
        { x with buf := x.buf.filter (fun b => !ofJob jid b.pkt), overflow := x.overflow.filter fun b => !ofJob jid b.pkt }
      let s2 :=
        if mine.isEmpty then s1
        else
          match takeSlot s1 w jid with
          | none => overflowJob s1 w jid 0
          | some (base, t) => mine.foldl (fun u b => (recordPacket u base false b).getD u) t
      let s3 := match jobSlot s2 w jid with
        | some base => (s2.pokeLE base ((slotWord s2 base 0) ||| (1#64 <<< 17)).toNat 8).pokeLE (base + 16) (switchTime s2).toNat 8
        | none => s2
      reportSwitch (modSwitchJob s3 w jid fun j => { j with saved := true, doneAt := switchTime s3 }) jid j.gseq (BitVec.ofNat 32 mine.length) w

/-- Whether no ring of a job runs on the module. -/
def ringsQuiet (s : State) (jid : BitVec 16) : Bool := (ringsOf s jid).all fun n => (s.ringAt n).state == .stopped

/-- Steps 3 to 7 of a switch-out, as far as they can go now (R462): the endpoint ports inject their markers once step 2 has let everything of the job's
rings land. -/
def progressOut (s0 : State) (jid : BitVec 16) : State :=
  if !ringsQuiet s0 jid then s0
  else
    let s := if s0.ringsSaved.contains jid then s0 else (ringsOf s0 jid).foldl (fun t n => onRing t n 0 quieted) s0
    let s1 :=
      if s.ringsSaved.contains jid || !(ringsOf s jid).all fun n => viewRing s n sweepReady then s
      else
        let t := (ringsOf s jid).foldl (fun t n => onRing t n 0 sweepRing) s
        reportModule { t with ringsSaved := t.ringsSaved ++ [jid] } jid (gseqOf t jid)
    let s2 := if s1.ringsSaved.contains jid then moduleSwitches.foldl (fun t w => modSwitchJob t w jid fun j => j.mark (endpointPorts w) allChannels) s1 else s1
    let s3 := raiseMarkers (raiseMarkers (passMarkers (passMarkers s2 jid) jid) jid 0) jid 1
    let s4 := moduleSwitches.foldl (fun t w => sweepSwitch t w jid) s3
    let done := s4.ringsSaved.contains jid && moduleSwitches.all fun w => match switchJob s4 w jid with | some j => j.saved | none => true
    if done && rootModule s4 jid != s4.module && jobState s4 jid == some .sweeping then reachOut s4 jid (gseqOf s4 jid) else s4

/-! ### Switch-in (R465) -/

/-- A swept actor's context loaded on the executing, EMPTY ring, as ctxload with RUN = 0 loads it. -/
def restoreRing (s : State) (a : Actor) : State :=
  if s.ring.state != .empty || s.ring.halted then s
  else
    let rd : Nat → Byte := fun i => memGet s.mem (a.ctx.toNat + i)
    let t := installContext s rd (savedFork s a rd)
    { t with ring := { t.ring with ptbase := a.ptroot } }

/-- A switch reopens its ports: its saved packets, then its late ones, port by port, ahead of what arrives (R465 step 3). -/
def reopenSwitch (s : State) (w : SwitchId) (jid : BitVec 16) (gseq : BitVec 32) : State :=
  let l : List Buffered := match jobSlot s w jid with
    | none => []
    | some base =>
      let main := readRecords s (base + 0x1000) (readLE (memGet s.mem) (base + 8) 4)
      let late := readRecords s (base + 0x101000) (readLE (memGet s.mem) (base + 12) 4)
      (List.range 32).flatMap fun p => (main.filter fun b => b.port.toNat == p) ++ (late.filter fun b => b.port.toNat == p)
  let sj : SwitchJob :=
    { jid := jid, gseq := gseq, markers := [], closed := [], raised := false, saved := false, count := BitVec.ofNat 32 l.length, discarding := false }
  s.modSwitch w fun x => { x with buf := l ++ x.buf, jobs := x.jobs.filter (fun j => j.jid != jid) ++ [sj] }

/-- A switch-in begins on this module (R465 steps 1 to 3). -/
def beginIn (s : State) (jid : BitVec 16) (gseq : BitVec 32) : State :=
  let s1 := setJob { s with ringsSaved := s.ringsSaved.filter (· ≠ jid) } jid .restoring
  let s2 := (s1.actors.filter fun (a : Actor) => a.jid == jid && a.phase == .swept).foldl
    (fun t (a : Actor) => onRing t a.ring 0 fun u => restoreRing u a) s1
  moduleSwitches.foldl (fun t w => reopenSwitch t w jid gseq) s2

/-- A switch reports once every saved packet has left it; with the last, the module's rings are loaded too (R465 step 3). -/
def progressIn (s : State) (jid : BitVec 16) : State :=
  let gseq := gseqOf s jid
  let s0 := if s.ringsSaved.contains jid then s else reportModule { s with ringsSaved := s.ringsSaved ++ [jid] } jid gseq
  moduleSwitches.foldl (fun t w =>
    match switchJob t w jid with
    | none => t
    | some j =>
      if j.saved || ((t.switchOf w).buf ++ (t.switchOf w).overflow).any fun b => ofJob jid b.pkt then t
      else reportSwitch (modSwitchJob t w jid fun j => { j with saved := true }) jid gseq j.count w) s0

/-! ### Commands -/

/-- The switches of a domain: L0 to L2 of each module, and the switch chips between modules (R460). -/
def domainSwitches (s : State) (jid : BitVec 16) : List Word :=
  let ms := jobModules s jid
  let boards := (ms.map fun m => m.toNat / 128).eraseDups
  (ms.flatMap fun m => moduleSwitches.map fun w => w.swid m)
    ++ (if 1 < ms.length then boards.flatMap fun b => (List.range 18).map fun p => swidOf 3 b p else [])
    ++ (if 1 < boards.length then (List.range 128).flatMap fun r => (List.range 18).map fun p => swidOf 4 r p else [])

/-- A gang switch of a job that the root runs on the command of a core of this module or, far, of another. -/
def addRun (s : State) (jid : BitVec 16) (out far : Bool) (issuer : BitVec 1) (cmdNo : BitVec 16) : State :=
  let g : GangRun :=
    { jid := jid, out := out, gseq := s.nextGseq, far := far, issuer := issuer, cmdNo := cmdNo, switches := domainSwitches s jid
      modules := jobModules s jid, count := 0, overflowed := false }
  { s with gang := s.gang ++ [g], nextGseq := s.nextGseq + 1 }

/-- Whether the root runs a gang switch of a job (R461). -/
def runsGang (s : State) (jid : BitVec 16) : Bool := s.gang.any fun g => g.jid == jid

/-- The root starts a gang switch of a job for a core of this module (R462, R465); a sweep does not begin in deflection mode. -/
def startRun (s : State) (jid : BitVec 16) (out : Bool) (issuer : BitVec 1) (cmdNo : BitVec 16) : State :=
  if runsGang s jid then postGang s issuer 0x01 cmdNo 0 else addRun s jid out false issuer cmdNo

/-- A gsw of a core of this module sent to a root on another, whose record is awaited (R461; log 39). -/
def askRoot (s : State) (jid : BitVec 16) (out : Bool) (issuer : BitVec 1) (cmdNo : BitVec 16) : State :=
  queuePacket { s with gangAsked := s.gangAsked ++ [(jid, issuer, cmdNo)] }
    (gangPacket s (rootModule s jid) jid (gangPayload jid (if out then 1 else 2) 0 0 0 0))

/-- The record that a root on another module posts (R461; log 39); none is posted that no core awaits. -/
def gangRecord (s : State) (jid : BitVec 16) (status : BitVec 8) (done : BitVec 32) : State :=
  match s.gangAsked.find? fun g => g.1 == jid with
  | none => s
  | some g => postGang { s with gangAsked := removeFirst (fun x => x.1 == jid) s.gangAsked } g.2.1 status g.2.2 done

/-- A gang switch that the root has not begun begins where it can (R462); one of a job that has FAILED completes (R468). -/
def beginRun (s : State) (g : GangRun) : State :=
  if g.overflowed then finishRun s g
  else if g.out && jobState s g.jid == some .running && !s.defl then toDomain (beginOut s g.jid g.gseq) g.jid 1 g.gseq
  else if !g.out && jobState s g.jid == some .out then toDomain (beginIn s g.jid g.gseq) g.jid 2 g.gseq
  else s

/-- Gang switches go on as far as they can now. -/
def settleGang (s : State) : State :=
  let s1 := s.gang.foldl beginRun s
  s1.jobs.foldl (fun t p =>
    match lookupKey t.jobs p.1 with
    | some .sweeping => progressOut t p.1
    | some .restoring => progressIn t p.1
    | _ => t) s1

/-- A command reaches a module of the domain (R462, R465): at the root it is a gsw's of another module, which it runs unless it runs one of the job already
(R461); elsewhere it is the root's. -/
def hearCommand (s : State) (jid : BitVec 16) (out : Bool) (gseq : BitVec 32) : State :=
  if jobState s jid != some (if out then .running else .out) then s
  else if rootModule s jid = s.module then (if runsGang s jid then s else settleGang (addRun s jid out true 0 0))
  else settleGang (if out then beginOut s jid gseq else beginIn s jid gseq)

/-- gsw (R461) -/
def opGsw (w : Word32) (a : BitVec 5) (out : Bool) : M Unit := do
  if (← get).hart.level ≠ .m then trap causePRIV (w.setWidth 64)
  else
    collectiveStart
    let x ← rdX a
    let s ← get
    let jid : BitVec 16 := x.extractLsb' 0 16
    let st := jobState s jid
    if x.extractLsb' 16 48 ≠ 0 || (if out then st != some .running else st != some .out && st != some .failed) then ill w
    else if 64 ≤ outstandingOf s + s.hart.cq.length then wait (.park .stalled)
    else
      let n ← takeCmdNo
      let me := s.onMgmt.getD 0
      modify fun t =>
        if st = some .failed then postGang t me 0x13 n 0
        else if rootModule t jid = t.module then settleGang (startRun t jid out me n)
        else askRoot t jid out me n
      nextPc

/-- gsw out (R461, R462) -/
def execGswOut (a : BitVec 5) (s : State) : Out := runScalar (opGsw (wordR 0x3C 0 a 0 0x100) a true) s

/-- gsw in (R461, R465) -/
def execGswIN (a : BitVec 5) (s : State) : Out := runScalar (opGsw (wordR 0x3C 0 a 0 0x101) a false) s

/-! ### Events -/

/-- SWITCH_OUT_COMMAND (R461, R462) -/
def execSwitchOutCommand (jid : BitVec 16) (gseq : BitVec 32) (s : State) : Out := .next (hearCommand s jid true gseq)

/-- SWEEP_MARKER (R462 steps 4 and 5) -/
def execSweepMarker (sw : SwitchId) (port : BitVec 5) (chan : BitVec 3) (jid : BitVec 16) (s : State) : Out :=
  .next (if jobState s jid == some .sweeping then settleGang (modSwitchJob s sw jid fun j => j.mark [port.toNat] [chan]) else s)

/-- SWITCH_IN_COMMAND (R461, R465) -/
def execSwitchINCommand (jid : BitVec 16) (gseq : BitVec 32) (s : State) : Out := .next (hearCommand s jid false gseq)

/-- SWITCH_REPORT (R462, R465) -/
def execSwitchReport (p : Packet) (s : State) : Out :=
  .next (rootHears s p.jid p.cseq fun g =>
    g.hearSwitch (BitVec.ofNat 64 (ofBytes ((p.payload.drop 16).take 8))) (BitVec.ofNat 32 (ofBytes ((p.payload.drop 8).take 4)))
      ((p.payload.getD 3 0).getLsbD 3))

/-- MODULE_REPORT (R462, R465) -/
def execModuleReport (p : Packet) (s : State) : Out :=
  .next (rootHears s p.jid p.cseq fun g => g.hearModule (BitVec.ofNat 14 (ofBytes ((p.payload.drop 16).take 8))) ((p.payload.getD 3 0).getLsbD 3))

/-- GANG_RESUME (R465 step 4) -/
def execGangResume (jid : BitVec 16) (_gseq : BitVec 32) (s : State) : Out :=
  .next (if jobState s jid == some .restoring then resumeJob s jid else s)

/-- GANG_FAILED (R468): the management core that issued the gang switch takes GSOVF too (R469); the packet names no switch (DESIGN CHOICE, log 39). -/
def execGangFailed (jid : BitVec 16) (_gseq : BitVec 32) (s : State) : Out := .next (if (jobState s jid).isSome then
      let s1 := (issuersHere s jid).foldl (fun t a => postSwitchEvent t a causeGSOVF (lateVal jid 0 0 0 false)) s
      settleGang (setJob { s1 with gang := s1.gang.map fun g => if g.jid == jid then { g with overflowed := true } else g } jid .failed)
    else s)

/-! ### Recovery (R482) -/

/-- A module that does not answer is left out of the domains of jobs and of the gang switches under way (R482 step 2). -/
def dropModule (s : State) (m : BitVec 14) : State :=
  let gone (w : Word) : Bool := decide (bitsAt w.toNat 0 3 ≤ 2) && bitsAt w.toNat 3 14 == m.toNat
  let left (g : GangRun) : GangRun := { g with modules := g.modules.filter (· ≠ m), switches := g.switches.filter fun w => !gone w }
  let s1 : State := { s with elsewhere := s.elsewhere.filter fun e => e.2 != m, gang := s.gang.map left }
  s1.gang.foldl (fun t g => rootHears t g.jid g.gseq id) s1

/-- A job that a module fault affects is switched out, by its root, and becomes FAILED when that is complete; one that is not running, nor on its way out,
becomes FAILED at once (R482 step 2). -/
def failJob (s : State) (jid : BitVec 16) : State :=
  let failed (t : State) : State := toDomain (setJob t jid .failed) jid 6 (gseqOf t jid)
  let noted : State := { s with failing := if s.failing.contains jid then s.failing else s.failing ++ [jid] }
  match jobState s jid with
  | none => s
  | some .failed => s
  | some .running =>
    if rootModule s jid = s.module then (if runsGang s jid then noted else addRun noted jid true true 0 0)
    else queuePacket noted (gangPacket s (rootModule s jid) jid (gangPayload jid 1 0 0 0 0))
  | some .sweeping => noted
  | some .out => failed s
  | some .restoring => failed { s with gang := s.gang.map fun g => if g.jid == jid then { g with overflowed := true } else g }

/-- The firmware has written a job's checkpoint back to this module: its actors are as the checkpoint's switch-out left them, and the job is OUT, so that gsw
in resumes it (R482 steps 4 and 5; how the firmware makes the state OUT is a DESIGN CHOICE, log 99). Nothing happens while a ring of the module
holds the job. -/
def restoreJob (s : State) (jid : BitVec 16) (actors : List Actor) : State :=
  let others := s.actors.filter fun (a : Actor) => a.jid != jid || a.phase == .finished
  let back := (actors.filter fun (a : Actor) => a.jid == jid && !(others.any fun (x : Actor) => x.aid == a.aid && x.phase != .finished)).map
    fun (a : Actor) => { a with phase := .swept }
  let stays := match jobState s jid with
    | some .running => true
    | some .sweeping => true
    | some .restoring => true
    | _ => false
  if stays || !(ringsOf s jid).isEmpty then s
  else
    { setJob s jid .out with
      actors := others ++ back, failing := s.failing.filter (· ≠ jid)
      switches := s.switches.map fun w => { w with jobs := w.jobs.filter fun j => j.jid != jid } }

end Sys2Proof.Machine
end

