-- ==== Sys2Proof/Machine/Fabric.lean ====
section
/-! DEFINITION. The Trestle fabric as this module takes part in it (spec/23): sources and flows (R438 to R441), links and frames (R427 to R429,
R442, R446 to R448), switches and routes (R426, R435, R444), packets at their destination and responses at their source (R431, R432,
R434), and control packets (R443). -/

namespace Sys2Proof

/-! ### Fields of packets and frames (R428, R431, R443) -/

/-- Requests of R431: the kinds that draw a response. -/
def Packet.isRequest (p : Packet) : Bool := !p.resp && decide (p.kind.toNat < 10)

/-- PA of a request. -/
def Packet.pa (p : Packet) : Nat := Machine.ofBytes (p.payload.take 8) % 2 ^ 56

/-- The bytes that a request touches; a message touches none. -/
def Packet.span (p : Packet) : Nat :=
  match p.kind with
  | 0#4 => (p.payload.getD 8 0).toNat
  | 2#4 => p.payload.length - 8
  | 4#4 => (p.payload.getD 9 0).toNat
  | 8#4 => Machine.ofBytes ((p.payload.drop 10).take 2)
  | _ => 0

/-- What a request does to the memory that it names. -/
def Packet.access (p : Packet) : Machine.Access :=
  match p.kind with
  | 2#4 => .w
  | 4#4 => .a
  | 8#4 => if p.payload.getD 8 0 = 0 then .r else .w
  | _ => .r

/-- Requests that access memory; a message does not. -/
def Packet.isAccess (p : Packet) : Bool := p.isRequest && p.kind != 6

/-- SUB of a control packet (R443). -/
def Packet.control (p : Packet) : Nat := Machine.ofBytes (p.payload.take 8)

/-- Whether a packet is flooded to every module or switch (R443). -/
def Packet.flooded (p : Packet) : Bool := p.kind == 12 && decide (2 ≤ p.control ∧ p.control ≤ 5)

/-- A sweep marker (R464): each switch that it reaches takes it in. -/
def Packet.isMarker (p : Packet) : Bool := p.kind == 11 && p.sub == 0

/-- The value of a control packet. -/
def Packet.controlVal (p : Packet) : Word := BitVec.ofNat 64 (Machine.ofBytes ((p.payload.drop 8).take 8))

/-- Bytes 0 to 1,083 of a frame (R428). -/
def Frame.body (f : Frame) : List Byte :=
  (f.slots.take 16).flatMap (fun x => Machine.bytesOf x.toNat 64) ++ Machine.bytesOf f.fseq.toNat 4 ++ Machine.bytesOf f.ackseq.toNat 4 ++ Machine.bytesOf f.kidx.toNat 2
    ++ Machine.bytesOf f.valid.toNat 2
    ++ [(0#4 : BitVec 4) ++ BitVec.ofBool f.retire1 ++ BitVec.ofBool f.retire0 ++ BitVec.ofBool f.kready ++ BitVec.ofBool f.nak, 0, 0, 0]
    ++ Machine.bytesOf f.tag0.toNat 16 ++ Machine.bytesOf f.tag1.toNat 16 ++ Machine.bytesOf f.credit.toNat 8 ++ List.replicate 4 0

/-- The slots of a frame that hold a flit under a key index. -/
def Frame.under (f : Frame) (k : Bool) : List Nat := (List.range 16).filter fun i => f.valid.getLsbD i && f.kidx.getLsbD i == k

/-- The encrypted flits of a frame under a key index. -/
def Frame.flitsUnder (f : Frame) (k : Bool) : List (BitVec 512) := (f.under k).map fun i => f.slots.getD i 0

end Sys2Proof

namespace Sys2Proof.Machine

/-! ### Sources (R438 to R441) -/

/-- The up-path through a link; the rack switch is the one that the ring number names (the source's choice, R439; DESIGN CHOICE, log 40). -/
def upathOf (ring : BitVec 6) (link : Nat) : BitVec 12 := BitVec.ofNat 12 (link / 9 + 2 * (link % 9) + 32 * ring.toNat)

/-- Whether two packets belong to one flow (R438). -/
def sameFlow (p q : Packet) : Bool := p.sring == q.sring && p.dmod == q.dmod && p.jid == q.jid && p.tc == q.tc

/-- Whether two requests touch one 32-byte unit (R441). -/
def shareUnit (p q : Packet) : Bool :=
  decide (0 < p.span ∧ 0 < q.span ∧ p.pa / 32 ≤ (q.pa + q.span - 1) / 32 ∧ q.pa / 32 ≤ (p.pa + p.span - 1) / 32)

/-- Whether a flow is that of a packet. -/
def Flow.carries (f : Flow) (p : Packet) : Bool := f.sring == p.sring && f.dmod == p.dmod && f.jid == p.jid && f.tc == p.tc

/-- The flow of a packet, new if there is none. -/
def flowOf (s : State) (p : Packet) : Flow :=
  (s.flows.find? fun f => f.carries p).getD
    { sring := p.sring, dmod := p.dmod, jid := p.jid, tc := p.tc, pseq := 0, upath := 0, lastTime := 0, open_ := [], defl := false, slowUntil := 0 }

/-- The flows with one replaced. -/
def putFlow (s : State) (g : Flow) : State :=
  let same (f : Flow) : Bool := f.sring == g.sring && f.dmod == g.dmod && f.jid == g.jid && f.tc == g.tc
  { s with flows := s.flows.filter (fun f => !same f) ++ [g] }

/-- Requests without their response. -/
def openRequests (s : State) : List Packet := s.flows.flatMap (·.open_)

/-- Whether a packet is held in deflection mode, with the earlier requests to its module that have no response (R441, R442): it meets a condition now, or
has met one. -/
def meetsHold (s : State) (p : Packet) (sameModule : List Packet) : Bool :=
  p.waits || ((s.defl || (flowOf s p).defl) && (p.ord || p.kind == 6 || sameModule.any fun q => shareUnit p q))

/-- The earlier requests of a packet's source to its module. -/
def toSame (p : Packet) (earlier : List Packet) : List Packet := earlier.filter fun q => q.sring == p.sring && q.dmod == p.dmod

/-- Whether a packet may leave its source, with the earlier requests of the module that have no response (R438, R441). -/
def mayLeave (s : State) (p : Packet) (earlier : List Packet) : Bool :=
  let mine := earlier.filter fun q => q.sring == p.sring
  let ordered := !p.ord || mine.all fun q => sameFlow q p && q.kind != 6 && p.kind != 6 && bitsAt q.pa 38 3 == bitsAt p.pa 38 3
  !p.isRequest || (ordered && (!meetsHold s p (toSame p earlier) || (toSame p earlier).isEmpty))

/-- Whether a flow may change its path (R439): it has been idle for longer than FLOWGAP, and no SLOW response of the last 100 µs forbids it. -/
def mayChange (s : State) (f : Flow) : Bool :=
  let now := (s.die 0).count
  decide (s.flowgap.toNat < (now - f.lastTime).toNat) && (f.open_.isEmpty || decide (f.slowUntil ≤ now))

/-- The up-path by which a packet leaves (R426, R439, R453): a collective's own; that of its flow while the flow may not change it; else one by the link of
least load. None where no link carries packets; a packet for this module needs none, nor does a request for a module that is absent, to which no
switch has a route (R435). -/
def choosePath (s : State) (p : Packet) : Option (BitVec 12) :=
  let least := (bestLink s).map (upathOf p.sring)
  let new := if p.dmod == s.module || !isPresent s p.dmod then some (least.getD (upathOf p.sring 0)) else least
  if p.kind = 10 then least.map fun _ => p.upath
  else
    match s.flows.find? fun f => f.carries p with
    | some f => if p.isRequest && !mayChange s f then some f.upath else new
    | none => new

/-- The switch and port where a response to a tag comes home, which are those where its request starts: of a management core, of a host port, or of the
ring (R430, R463). -/
def tagHome (s : State) (rtag : BitVec 16) (ring : BitVec 6) : SwitchId × BitVec 5 :=
  let awaits (a : BitVec 1) : Bool :=
    (if s.onMgmt = some a then s.hart else (s.mgmtAt a).hart).remote.any fun r => r.rtag == rtag && r.reply.isNone
  if ring = 0 && awaits 0 then (.l2 0, 13)
  else if ring = 0 && awaits 1 then (.l2 1, 13)
  else if s.runtimeReads.any fun r => r.rtag == rtag && r.reply.isNone then (.l2 0, 13)
  else
    match s.hostWaits.find? fun h => h.parts.any fun p => p.1 == rtag && p.2.isNone with
    | some h => (.l2 (h.port.extractLsb' 2 1), 9 + (h.port.extractLsb' 0 2).setWidth 5)
    | none => (.l0 (dieOf ring) (clusterOf ring), BitVec.ofNat 5 (8 * ringInCluster ring))

/-- Marks a flooded packet as passed on at every switch of the module, each of which keeps the latest 1,024 (R443). -/
def markSeen (s : State) (p : Packet) : State :=
  let put (l : List (BitVec 14 × BitVec 16)) : List (BitVec 14 × BitVec 16) := (l ++ [(p.smod, p.pseq)]).drop (l.length + 1 - 1024)
  { s with switches := s.switches.map fun w => { w with seen := put w.seen } }

/-- A flooded packet passed on by every link but the one it came in by (R443). -/
def floodOn (s : State) (came : Option Nat) (p : Packet) : State :=
  ((List.range 18).filter fun i => linkUp s i && some i != came).foldl (fun t i => linkOut t i p) (markSeen s p)

/-- The die of the module that asks for its reference by a control packet, or that the reference answers (R443; log 40). -/
def clockDie (m : BitVec 14) (p : Packet) : Option (BitVec 3) :=
  if p.kind == 12 && decide (p.control ≤ 1) && p.rtag != 0 && p.smod == m && p.dmod == m then some ((p.rtag - 1).setWidth 3) else none

/-- A packet leaves its source: a request takes its number in its flow and its path, and enters the fabric at its source's port (R438, R439); a control,
collective or gang-switch packet leaves its abutment switch. -/
def depart (s : State) (p : Packet) (path : BitVec 12) : State :=
  if p.flooded then floodOn s none p
  else if (clockDie s.module p).isSome then arrive s (.l1 ((clockDie s.module p).getD 0)) 8 p
  else if !p.isRequest then
    linkOut s (if linkUp s (linkOf path) then linkOf path else (bestLink s).getD (linkOf path)) { p with upath := path }
  else
    let f := flowOf s p
    let q := { p with pseq := f.pseq, upath := path, waits := false }
    let s1 := putFlow s { f with pseq := f.pseq + 1, upath := path, lastTime := (s.die 0).count, open_ := f.open_ ++ [q] }
    let (w, port) := tagHome s p.rtag p.sring
    arrive s1 w port q

/-- The packets that wait at their sources leave, in order, where they may and have a path. -/
def releaseFrom : List Packet → List Packet → State → State
  | [], _, s => s
  | p :: t, kept, s =>
    let earlier := openRequests s ++ kept.filter (·.isRequest)
    let stay := { p with waits := p.isRequest && meetsHold s p (toSame p earlier) }
    match choosePath s p with
    | some path =>
      if mayLeave s p earlier then releaseFrom t kept (depart s p path)
      else releaseFrom t (kept ++ [stay]) { s with heldOut := s.heldOut ++ [stay] }
    | none => releaseFrom t (kept ++ [stay]) { s with heldOut := s.heldOut ++ [stay] }

/-- Packets leave their sources as far as they can now. -/
def releaseHeld (s : State) : State := if s.heldOut.isEmpty then s else releaseFrom s.heldOut [] { s with heldOut := [] }

/-! ### Responses at their source (R432) -/

/-- A flow without a request, once its response has come: the rules of deflection mode end for it with its last open request (R442), and a SLOW response
binds it to its path (R439). -/
def Flow.close (f : Flow) (now : Word) (p : Packet) : Flow :=
  if f.open_.any fun q => q.rtag == p.rtag then
    let rest := f.open_.filter fun q => q.rtag != p.rtag
    { f with open_ := rest, defl := f.defl && !rest.isEmpty, slowUntil := if p.slow then now + 100000 else f.slowUntil }
  else f

/-- The flows without the request of a response, and that request. -/
def closeRequest (s : State) (p : Packet) : State × Option Packet :=
  ({ s with flows := s.flows.map fun f => f.close (s.die 0).count p }, (openRequests s).find? fun q => q.rtag == p.rtag)

/-- Whether a response's STATUS is reserved: it is then discarded and counted (R432). -/
def reservedStatus (p : Packet) : Bool := decide (6 ≤ p.status.toNat)

/-- A data response reaches the access that awaits it, with the TIME it carries (R317, R432). -/
def takeReply (s : State) (p : Packet) : State :=
  if reservedStatus p then badPacket s (pathDie p.upath) else answer (closeRequest s p).1 p.rtag p.status p.payload p.time

/-- A message's response (R250, R432, R243). -/
def takeMessageReply (s : State) (p : Packet) : State :=
  if reservedStatus p then badPacket s (pathDie p.upath)
  else
    match closeRequest s p with
    | (s1, none) => answer s1 p.rtag p.status [] 0
    | (s1, some q) =>
      let mine (o : OutMsg) : Bool := o.sent && bytesOf o.msg.dest.toNat 8 ++ bytesOf o.msg.hdr.toNat 8 ++ o.msg.payload == q.payload
      let r := s1.ringAt q.sring
      let i := r.outbound.findIdx mine
      match r.outbound[i]? with
      | none => answer s1 p.rtag p.status [] 0
      | some o =>
        match p.status with
        | 5#4 => modOut s1 q.sring i fun _ => []
        | 4#4 => modOut s1 q.sring i fun o => [o.refuse]
        | 2#4 => returnOut s1 q.sring i o.msg
        | _ => s1

/-- The record STATUS of a write stream that a response's STATUS makes (R432). -/
def deniedCode (st : BitVec 4) : Option (BitVec 8) :=
  match st with
  | 1#4 => some 0x07
  | 2#4 => some 0x07
  | 3#4 => some 0x0F
  | _ => none

/-- A slot with the response of one of its strip writes (R333): an error is noted, that of the lowest element prevailing. -/
def StreamSlot.heard (sl : StreamSlot) (p : Packet) : StreamSlot :=
  match sl.awaits.find? fun a => a.1 == p.rtag with
  | none => sl
  | some (_, i, va) =>
    { sl with
      awaits := sl.awaits.filter fun a => a.1 != p.rtag
      denied := match deniedCode p.status, sl.denied with
        | some c, some d => if i < d.1 then some (i, c, va) else some d
        | some c, none => some (i, c, va)
        | none, d => d }

/-- A strip's response (R332, R333): a read's goes to what awaits it; a write's lets its drain record go on, with an error noted. -/
def takeStripReply (s : State) (p : Packet) : State :=
  if reservedStatus p then badPacket s (pathDie p.upath)
  else
    let hartOf (h : Hart) : Hart := { h with slots := h.slots.map fun sl => sl.heard p }
    let s1 := takeReply s p
    { s1 with
      hart := hartOf s1.hart
      ring := { s1.ring with chunks := s1.ring.chunks.map hartOf }
      rings := s1.rings.map fun r => { r with chunks := r.chunks.map hartOf } }

/-! ### Requests at their home (R434) -/

/-- Where a packet for this module ends, and the port by which its response starts (R426, R434, R463): the die switch before the slices or the control block
of a span die, the cluster switch before a local store or an actor's ring, or an abutment switch. -/
def sinkOf (s : State) (p : Packet) : SwitchId × BitVec 5 :=
  if p.resp then tagHome s p.rtag p.sring
  else if (clockDie s.module p).isSome then (if p.control = 0 then (.l2 0, 13) else (.l1 ((clockDie s.module p).getD 0), 8))
  else if p.kind = 6 then
    let dest : Word := BitVec.ofNat 64 (ofBytes (p.payload.take 8))
    match (if destHost dest then none else actorOf s ((destTarget dest).setWidth 12)) with
    | some a => (.l0 (dieOf a.ring) (clusterOf a.ring), BitVec.ofNat 5 (8 * ringInCluster a.ring))
    | none => (.l2 (pathDie p.upath), 13)
  else if p.isRequest then
    let d := homeDie p.pa
    if !paSpace1 p.pa then (.l1 d, 8)
    else if !paControl p.pa then (.l0 d (BitVec.ofNat 2 (p.pa >>> 36)), BitVec.ofNat 5 (bitsAt p.pa 32 4))
    else if bitsAt p.pa 0 31 < 0x60000000 then (.l1 d, 8)
    else (.l2 (BitVec.ofNat 1 (p.pa >>> 28)), 13)
  else (.l2 (pathDie p.upath), 13)

/-- A response to a request, which starts at a port of a switch (R431, R432): RTAG, class, flow number, path and SLOW are the request's. -/
def respondAt (s : State) (at_ : SwitchId × BitVec 5) (p : Packet) (st : BitVec 4) (data : List Byte) (t : Word) : State :=
  arrive s at_.1 at_.2
    { p with kind := p.kind + 1, resp := true, ord := false, dmod := p.smod, smod := s.module, age := 0, status := st, payload := data, time := t
             exempt := false, waits := false }

/-- A response from the home of a request. -/
def respond (s : State) (p : Packet) (st : BitVec 4) (data : List Byte) (t : Word) : State := respondAt s (sinkOf s p) p st data t

/-- The master ID of a request from another module (R434). -/
def Packet.master (p : Packet) : Master := { jid := p.jid, module := p.smod, ring := p.sring }

/-- Whether no table checks a request (R287): one made at S or M, as every read that travels in TC0 is (R431; the header has no field for the level:
DESIGN CHOICE, log 41). -/
def unchecked (p : Packet) : Bool := p.exempt || p.tc == 0

/-- Whether the Trestle port of a link admits an access (R434 step 1). -/
def trestleGrants (s : State) (link : Nat) (p : Packet) : Bool :=
  !p.isAccess || unchecked p || tableGrants s (trestleTable s (link / 9) (link % 9)) (Packet.master p) p.pa p.span p.access

/-- Whether the home of an access admits it (R434 step 2, R445). -/
def homeGrants (s : State) (p : Packet) : Bool :=
  spaceExists s p.pa && !inReserve s p.pa p.span
    && (unchecked p || paSpace1 p.pa || tableGrants s (sliceTable s (bitsAt p.pa 38 3)) (Packet.master p) p.pa p.span p.access)

/-- The bytes of n addresses of this module's memory. -/
def memBytes (s : State) (pa n : Nat) : List Byte := (List.range n).map fun i => memGet s.mem (pa + i)

/-- The home slices serve a read of n bytes (R283). -/
def sliceReads (s : State) (pa n : Nat) : State := (sectorsOf pa n).foldl (fun t q => sliceRequest t q false) s

/-- Bytes that something else than the executing strand's own store has written (R281, R283). -/
def writeHome (s : State) (pa : Nat) (data : List Byte) : State := uncache (s.pokeBytes pa data) pa data.length

/-- An ordered packet's bytes carry its TIME: it is a release (R317, R438). -/
def carryOrdered (s : State) (p : Packet) (pa n : Nat) : State := if p.ord then { s with released := carryTime s.released pa p.time n } else s

/-- A byte of a control block: of the register that holds it (R480). -/
def ctlByte (s : State) (pa : Nat) : Byte :=
  match ctlReg (homeDie pa) (bitsAt pa 0 31 / 8 * 8) with
  | none => 0
  | some .sram => memGet s.mem pa
  | some r => byteAt (ctlRead s (pa / 8 * 8) r).toNat (pa % 8)

/-- Whether every byte of a range of a control block lies in a register or in SRAM (R480). -/
def ctlThere (pa n : Nat) : Bool := (List.range n).all fun i => (ctlReg (homeDie (pa + i)) (bitsAt (pa + i) 0 31 / 8 * 8)).isSome

/-- A read at its home: its status and data, and the module after it. -/
def homeRead (s : State) (p : Packet) (n : Nat) : BitVec 4 × List Byte × State :=
  let pa := p.pa
  if !homeGrants s p then (1, [], s)
  else if paControl pa then
    if ctlThere pa n then (0, (List.range n).map fun i => ctlByte s (pa + i), s) else (1, [], s)
  else if anyBad s pa n then (3, [], s)
  else (0, memBytes s pa n, sliceReads s pa n)

/-- A write at its home: its status, and the module after it. -/
def homeWrite (s : State) (p : Packet) (data : List Byte) : BitVec 4 × State :=
  let pa := p.pa
  if !homeGrants s p then (1, s)
  else if paControl pa then
    match ctlReg (homeDie pa) (bitsAt pa 0 31 / 8 * 8) with
    | none => (1, s)
    | some .sram => (0, s.pokeBytes pa data)
    | some r => if data.length = 8 then (0, ctlWrite s pa r (BitVec.ofNat 64 (ofBytes data))) else (1, s)
  else (0, carryOrdered (writeHome (noteNear s pa data.length .w p.near) pa data) p pa data.length)

/-- READ packet at its home: the response carries the greatest TIME of a release that supplied a byte (R317). -/
def serveRead (s : State) (p : Packet) : State :=
  let (st, d, t) := homeRead s p p.span
  respond t p st d (if st = 0 then carriedTime s p.pa p.span else 0)

/-- WRITE packet at its home. -/
def serveWrite (s : State) (p : Packet) : State :=
  let (st, t) := homeWrite s p (p.payload.drop 8)
  respond t p st [] 0

/-- ATOMIC packet at its home (R306, R307, R431): the old value; a cas that does not find the expected value writes the unchanged one. -/
def serveAtomic (s : State) (p : Packet) : State :=
  let code := (p.payload.getD 8 0).toNat
  let w := (p.payload.getD 9 0).toNat
  let y := ofBytes ((p.payload.drop 16).take 8) % 2 ^ (8 * w)
  let e := ofBytes ((p.payload.drop 24).take 8) % 2 ^ (8 * w)
  if !homeGrants s p || paControl p.pa then respond s p 1 [] 0
  else if anyBad s p.pa w then respond s p 3 [] 0
  else
    let old := readLE (memGet s.mem) p.pa w
    let t := carriedTime s p.pa w
    let new := if code = 9 then (if old = e then y else old) else amoOp code (8 * w) old y
    let s1 := noteNear (sliceReads s p.pa w) p.pa w .a p.near
    respond (carryOrdered (writeHome s1 p.pa (bytesOf new w)) p p.pa w) p 0 (bytesOf old 8) t

/-- STRIP packet at its home: a denial writes no byte (R333). -/
def serveStrip (s : State) (p : Packet) : State :=
  if p.payload.getD 8 0 = 0 then serveRead s p
  else
    let (st, t) := homeWrite s p ((p.payload.drop 16).take p.span)
    respond t p st [] 0

/-- MESSAGE packet at its module (R242, R243, R432), with the TIME that it carries (R317). -/
def serveMessage (s : State) (p : Packet) : State :=
  let msg : Message :=
    { dest := BitVec.ofNat 64 (ofBytes (p.payload.take 8)), hdr := BitVec.ofNat 64 (ofBytes ((p.payload.drop 8).take 8)), payload := p.payload.drop 16
      time := p.time }
  match offerHere s msg with
  | .accepted t => respond t p 5 [] 0
  | .refused => respond s p 4 [] 0
  | .absent => respond s p 2 [] 0

/-! ### Control packets (R443) -/

/-- Whether a switch has passed a flooded packet on before (R443). -/
def floodSeen (s : State) (p : Packet) : Bool := (s.switchOf (.l2 0)).seen.contains (p.smod, p.pseq)

/-- The first copy of a flooded packet takes effect and is passed on; later copies are dropped (R443). -/
def onFlood (s : State) (came : Option Nat) (p : Packet) (f : State → State) : State := if floodSeen s p then s else floodOn (f s) came p

/-- A debug pause of a JID by a module (R405). -/
def pauseBy (s : State) (j : BitVec 16) (m : BitVec 14) : State :=
  { s with paused := if s.paused.contains (j, m) then s.paused else s.paused ++ [(j, m)] }

/-- Its end (R405). -/
def thawBy (s : State) (j : BitVec 16) (m : BitVec 14) : State := { s with paused := s.paused.filter (· ≠ (j, m)) }

/-- Deflection mode begins for a link of a module (R442). -/
def deflectFor (s : State) (m : BitVec 14) : State :=
  { s with defl := true, recovering := if m == s.module || s.recovering.contains m then s.recovering else s.recovering ++ [m] }

/-- Flowlet mode begins again (R442): a flow with an open request stays under the rules of deflection mode until it has none. -/
def flowletMode (s : State) : State :=
  { s with defl := false, recovering := [], flows := s.flows.map fun f => { f with defl := f.defl || (s.defl && !f.open_.isEmpty) } }

/-- A time request at abutment die 0 (R414, R443): the reference's D when it replies; a die of the module is answered within it. -/
def serveTimeRequest (s : State) (p : Packet) : State :=
  match clockDie s.module p with
  | some _ => arrive s (.l2 0) 13 { controlPacket s 1 (heldReference s) s.module with rtag := p.rtag }
  | none => queuePacket s (controlPacket s 1 s.reference p.smod)

/-- A time reply (R414, R443): at a die of the module, which slews its count, or at abutment die 0. -/
def serveTimeReply (s : State) (p : Packet) : State :=
  match clockDie s.module p with
  | some d => s.modDie d fun x => x.slew p.controlVal
  | none => takeReference s p.controlVal

/-- A control packet at this module, from a link if it came by one; an unknown SUB is discarded and counted (R443). -/
def serveControl (s : State) (came : Option Nat) (p : Packet) : State :=
  let j : BitVec 16 := p.controlVal.extractLsb' 0 16
  match p.control with
  | 0 => serveTimeRequest s p
  | 1 => serveTimeReply s p
  | 2 => onFlood s came p fun s => pauseBy s j p.smod
  | 3 => onFlood s came p fun s => thawBy s j p.smod
  | 4 => onFlood s came p fun s => deflectFor s (p.controlVal.extractLsb' 0 14)
  | 5 => onFlood s came p flowletMode
  | 6 => { s with heard := putKey s.heard p.smod s.reference }
  | _ => badPacket s (pathDie p.upath)

/-! ### Routes (R426, R431, R435, R444) -/

/-- The state that an operation of the device answers. -/
def outState (s : State) (o : Out) : State :=
  match o with
  | .next t => t
  | _ => s

/-- The on-module switch that a SWID names (R455). -/
def switchOfSwid (v : Word) : Option SwitchId :=
  moduleSwitches.find? fun w => decide (w.level = bitsAt v.toNat 0 3 ∧ w.number = bitsAt v.toNat 17 6)

/-- The abutment die of a switch, or of a packet's way out. -/
def outDie (w : SwitchId) (p : Packet) : BitVec 1 :=
  match w with
  | .l2 a => a
  | _ => pathDie p.upath

/-- A collective packet at this module, arriving at abutment switch w by a port (R454, R455). -/
def serveCollective (s : State) (w : SwitchId) (port : BitVec 5) (p : Packet) : State :=
  let target := (switchOfSwid p.cval).getD w
  match p.sub with
  | 0 => contributionAt s w 0 port.toNat p
  | 1 => resultAt s w port.toNat p
  | 2 => multicastUpAt s w port.toNat p
  | 3 => multicastDownAt s w port.toNat p
  | 4 => outState s (execReserve target p s)
  | 5 => outState s (execReserveReply p s)
  | 6 => outState s (execEntryWrite target p s)
  | 7 => outState s (execEntryAcknowledge p s)
  | 8 => drainAt s w port.toNat p
  | 9 => drainedAt s w port.toNat p
  | _ => badPacket s (outDie w p)

/-- A gang-switch packet at this module (R464): a marker marks the channel and the port it came by. -/
def serveGang (s : State) (w : SwitchId) (port : BitVec 5) (p : Packet) : State :=
  let gseq := p.cseq
  let fl := p.payload.getD 3 0
  match p.sub with
  | 0 => outState s (execSweepMarker w port (BitVec.ofBool (fl.getLsbD 2) ++ fl.extractLsb' 0 2) p.jid s)
  | 1 => outState s (execSwitchOutCommand p.jid gseq s)
  | 2 => outState s (execSwitchINCommand p.jid gseq s)
  | 3 => outState s (execSwitchReport p s)
  | 4 => outState s (execModuleReport p s)
  | 5 => outState s (execGangResume p.jid gseq s)
  | 6 => outState s (execGangFailed p.jid gseq s)
  | _ => badPacket s (outDie w p)

/-- The external link of a port of a switch. -/
def linkAt (w : SwitchId) (port : BitVec 5) : Option Nat :=
  match w with
  | .l2 a => if 14 ≤ port.toNat && port.toNat < 23 then some (9 * a.toNat + (port.toNat - 14)) else none
  | _ => none

/-- A packet performed at this module, its destination (R431). -/
def perform (s : State) (w : SwitchId) (port : BitVec 5) (p : Packet) : State :=
  match p.kind with
  | 0#4 => serveRead s p
  | 2#4 => serveWrite s p
  | 4#4 => serveAtomic s p
  | 6#4 => serveMessage s p
  | 8#4 => serveStrip s p
  | 1#4 | 3#4 | 5#4 => takeReply s p
  | 7#4 => takeMessageReply s p
  | 9#4 => takeStripReply s p
  | 10#4 => serveCollective s w port p
  | 11#4 => serveGang s w port p
  | 12#4 => serveControl s (linkAt w port) p
  | _ => badPacket s (outDie w p)

/-- The next switch on a packet's way within the module, and its input port there (R426, R463); none at the switch where the way ends. Between two dies the
way goes by the abutment switch that UPATH[0] names. -/
def towards (w home : SwitchId) (a : BitVec 1) : Option (SwitchId × BitVec 5) :=
  if w = home then none
  else
    match w with
    | .l0 d c => some (.l1 d, c.setWidth 5)
    | .l1 d =>
      (match home with
       | .l0 e c => if e = d then some (.l0 e c, 16) else some (.l2 a, d.setWidth 5)
       | .l1 _ => some (.l2 a, d.setWidth 5)
       | .l2 b => some (.l2 b, d.setWidth 5))
    | .l2 b =>
      (match home with
       | .l0 d _ => some (.l1 d, 9 + b.setWidth 5)
       | .l1 d => some (.l1 d, 9 + b.setWidth 5)
       | .l2 x => some (.l2 x, 8))

/-- Whether this module is where a packet takes effect (R426, R443, R464). -/
def endsHere (s : State) (p : Packet) : Bool := p.dmod == s.module || p.flooded || p.isMarker

/-- The next hop of a packet within the module (R426): that of a control, collective or gang-switch packet ends at the switch that it reached. -/
def hopOf (s : State) (w : SwitchId) (p : Packet) : Option (SwitchId × BitVec 5) :=
  if 10 ≤ p.kind.toNat && (clockDie s.module p).isNone then none
  else towards w (if endsHere s p then (sinkOf s p).1 else .l2 (pathDie p.upath)) (pathDie p.upath)

/-- The external link by which a packet for another module leaves its abutment switch, and whether that deflects it (R426, R433, R439, R444): its route's if
that is up and its output has room for it, or, in deflection mode, is free; else a free port, in deflection mode or where the route's link is
down. None where there is none. -/
def exitOf (s : State) (w : SwitchId) (p : Packet) : Option (Nat × Bool) :=
  let i := linkOf p.upath
  let held := flitsIn ((s.link i).out.filter fun b => b.chan == p.chan)
  if s.defl && portFree s i then some (i, false)
  else if !s.defl && linkUp s i then (if channelRoom held p then some (i, false) else none)
  else (freePort s (outDie w p)).map fun j => (j, true)

/-- A packet for another module passes through its abutment switch (R426, R435, R444); a request without a route is answered with STATUS 2. t is the TIME at
which it came to the switch. -/
def passThrough (s : State) (w : SwitchId) (p : Packet) (t : Word) : State :=
  if 13 ≤ p.kind.toNat then badPacket s (outDie w p)
  else if !isPresent s p.dmod then (if p.isRequest then respondAt s (w, 13) p 2 [] 0 else s)
  else
    match exitOf s w p with
    | some (i, true) => deflectOut s (outDie w p) i p t
    | some (i, false) => linkOutAt s i p t
    | none => s

/-- A packet goes on from a switch (R426, R434): one that enters by a Trestle port meets that port's table, is denied, hops on, is performed, or leaves. -/
def sendOn (s : State) (w : SwitchId) (port : BitVec 5) (p : Packet) (t : Word) : State :=
  if endsHere s p && (linkAt w port).any fun i => !trestleGrants s i p then respondAt s (w, 13) p 1 [] 0
  else
    match hopOf s w p with
    | some (x, q) => arrive s x q p
    | none => if endsHere s p then perform s w port p else passThrough s w p t

/-- Whether a packet of a job that is swept out stays for its switch's caisson (R462 steps 4 and 5): the marker has gone ahead of it by its port. One
from an external link that crosses the bridge goes on, and is late there. -/
def swept (s : State) (w : SwitchId) (port : BitVec 5) (p : Packet) : Bool :=
  jobState s p.jid == some .sweeping && ofJob p.jid p
    && match hopOf s w p with
      | some (x, q) => (switchJob s x p.jid).any (fun j => j.closed.contains q) && !((linkAt w port).isSome && x.level == 2)
      | none => !endsHere s p && (switchJob s w p.jid).any fun j => j.raised

/-- The flits of a channel that a switch holds at an input port. -/
def flitsAt (s : State) (w : SwitchId) (port : BitVec 5) (chan : BitVec 3) : Nat :=
  flitsIn ((s.switchOf w).buf.filter fun b => b.port == port && b.chan == chan)

/-- Whether a packet has to stay at its switch: the channel's buffer at the next has no room for it (R433), which deflection mode does not ask (R444); no
external port takes it; or its job is swept out. -/
def mustStay (s : State) (w : SwitchId) (port : BitVec 5) (p : Packet) : Bool :=
  (match hopOf s w p with
   | some (x, q) => !s.defl && !channelRoom (flitsAt s x q p.chan) p
   | none => decide (p.kind.toNat < 13) && !endsHere s p && isPresent s p.dmod && (exitOf s w p).isNone) || swept s w port p

/-- A buffered packet as it leaves a switch: one of TC1 to TC3 that was held longer than 40 ns carries SLOW (R439). -/
def sentOn (s : State) (b : Buffered) : Packet :=
  { b.pkt with slow := b.pkt.slow || (b.pkt.tc != 0 && decide (40#64 < switchTime s - b.time)) }

/-- The output by which a packet leaves its switch: the switch and port that it leads to, or the external port; none where the packet ends. -/
def outputOf (s : State) (w : SwitchId) (p : Packet) : Option (SwitchId × BitVec 5) :=
  match hopOf s w p with
  | some o => some o
  | none => if endsHere s p then none else (exitOf s w p).map fun e => (w, BitVec.ofNat 5 (14 + e.1 % 9))

/-- Whether a packet wins a port over another in deflection mode (R444): by AGE, SMOD, SRING and PSEQ. -/
def wins (p q : Packet) : Bool :=
  if p.age ≠ q.age then decide (q.age < p.age)
  else if p.smod ≠ q.smod then decide (p.smod < q.smod)
  else if p.sring ≠ q.sring then decide (p.sring < q.sring)
  else decide (p.pseq < q.pseq)

/-- The packets that a switch may send next as far as order within the switch goes: those that head a channel of a port in its buffer (R426), and those of the
overflow area that are first of their output (R444). -/
def headsOf (s : State) (w : Switch) : List Buffered :=
  (w.buf.filter fun b => (w.buf.find? fun x => x.port == b.port && x.chan == b.chan) == some b)
    ++ w.overflow.filter fun b => (w.overflow.find? fun x => outputOf s w.id x.pkt == outputOf s w.id b.pkt) == some b

/-- What a flit of TC1, TC2 or TC3 costs its class: their shares of an output are in the ratio 1 : 4 : 3 (R433). -/
def flitCost (tc : Nat) : Nat := match tc with | 1 => 12 | 2 => 3 | _ => 4

/-- What a class has had of an output, in costs. -/
def shareOf (v : Vector Nat 3) (tc : Nat) : Nat := v.toList.getD (tc - 1) 0

/-- The shares of an output that has taken some flits of a class; waits tells which classes have something to send: one with nothing cedes its share
(R433). -/
def takeShare (v : Vector Nat 3) (tc flits : Nat) (waits : Nat → Bool) : Vector Nat 3 :=
  let start := shareOf v tc
  if tc = 0 then v
  else Vector.ofFn fun i =>
    if i.val + 1 = tc then start + flitCost tc * flits
    else if waits (i.val + 1) then v[i]
    else max v[i] start

/-- The shares of an output of a switch. -/
def sharesAt (w : Switch) (o : SwitchId × BitVec 5) : Vector Nat 3 := (lookupKey w.shares o).getD (Vector.replicate 3 0)

/-- Whether a packet comes before another of the same output (R433, R444): it wins the port in deflection mode; else TC0 comes first, and of the other
classes the one that has had the least of its share. -/
def goesBefore (s : State) (w : Switch) (o : SwitchId × BitVec 5) (p q : Packet) : Bool :=
  if s.defl then wins p q
  else if q.tc = 0 then false
  else if p.tc = 0 then true
  else p.tc != q.tc && decide (shareOf (sharesAt w o) p.tc.toNat < shareOf (sharesAt w o) q.tc.toNat)

/-- The packets of a switch that can go on. -/
def goingOn (s : State) (w : Switch) : List Buffered := (headsOf s w).filter fun b => !mustStay s w.id b.port b.pkt

/-- Whether another packet that can go on comes before one at its output. -/
def outranked (s : State) (w : Switch) (b : Buffered) : Bool :=
  match outputOf s w.id b.pkt with
  | none => false
  | some o => (goingOn s w).any fun x => outputOf s w.id x.pkt == some o && goesBefore s w o x.pkt b.pkt

/-- A switch after it has sent a packet on by its output: the output's shares (R433). -/
def noteShare (s : State) (w : Switch) (b : Buffered) : State :=
  match outputOf s w.id b.pkt with
  | none => s
  | some o =>
    let waits (tc : Nat) : Bool := (w.buf ++ w.overflow).any fun x => x.pkt.tc.toNat == tc && x != b && outputOf s w.id x.pkt == some o
    s.modSwitch w.id fun x => { x with shares := putKey x.shares o (takeShare (sharesAt x o) b.pkt.tc.toNat b.pkt.flitCount waits) }

/-- A switch sends on a packet of its buffer or of its overflow area. -/
def sendFrom (s : State) (w : SwitchId) (b : Buffered) : State :=
  let x := s.switchOf w
  let s1 := noteShare s x b
  let s2 := if x.buf.contains b then creditBack (s1.modSwitch w fun x => { x with buf := x.buf.erase b }) w b
    else s1.modSwitch w fun x => { x with overflow := x.overflow.erase b }
  settleDrains (sendOn s2 w b.port (sentOn s b) b.time) w

/-- A switch forwards the packet that heads a port and channel (R426, R433, R444): nothing happens where there is none, it cannot go on, or another comes
before it at its output. -/
def forward (s : State) (w : SwitchId) (port : BitVec 5) (chan : BitVec 3) : State :=
  let x := s.switchOf w
  match (goingOn s x).find? fun b => b.port == port && b.chan == chan with
  | none => s
  | some b => if outranked s x b then s else sendFrom s w b

/-- The packet that a switch sends on next (R433, R444): of those that can go on and come first at their outputs, the oldest of TC0, else the oldest. -/
def nextBuffered (s : State) (w : Switch) : Option Buffered :=
  let free := (goingOn s w).filter fun b => !outranked s w b
  match free.find? fun b => b.pkt.tc == 0 with
  | some b => some b
  | none => free.head?

/-- Every buffered packet of the module goes on, as switches that do not lag do it (log 4). -/
def forwardAll : Nat → State → State
  | 0, s => s
  | n + 1, s =>
    match s.switches.findSome? fun w => (nextBuffered s w).map fun b => (w.id, b) with
    | none => s
    | some (w, b) => forwardAll n (sendFrom s w b)

/-- The packets in the switches of the module. -/
def packetsInside (s : State) : Nat := (s.switches.map fun w => w.buf.length + w.overflow.length).sum

/-- The switches of a module that does not lag send on what they hold: no packet takes more than 16 hops, its response's among them. -/
def advance (s : State) : State := if s.lag then s else forwardAll (16 * packetsInside s) s

/-- What the fabric does at once where nothing lags. -/
def settleFabric (s : State) : State := advance (releaseHeld (settleGang (serveHeld (advance s))))

/-! ### Frames (R427 to R429, R446, R447) -/

/-- One step of the CRC-32 of IEEE 802.3, low bit first. -/
def crcBits : Nat → BitVec 32 → BitVec 32
  | 0, c => c
  | n + 1, c => crcBits n (if c.getLsbD 0 then (c >>> 1) ^^^ 0xEDB88320#32 else c >>> 1)

/-- The CRC-32 of IEEE 802.3 of a list of bytes (R428). -/
def crc32 (l : List Byte) : BitVec 32 := ~~~(l.foldl (fun c b => crcBits 8 (c ^^^ b.setWidth 32)) (BitVec.allOnes 32))

/-- The LINKID of the direction in which this end sends: its top bit is 0 where this end's digest is the lower (R446). -/
def sentId (link : Nat) : BitVec 32 := BitVec.ofBool (!Config.linkLower link) ++ Config.linkId link true
/-- The LINKID of the direction in which this end receives. -/
def heardId (link : Nat) : BitVec 32 := BitVec.ofBool (Config.linkLower link) ++ Config.linkId link false

/-- A flit under a key: AES-GCM adds a keystream, so that a second time gives the flit back (R446). -/
def cipher (key : Nat) (id fseq : BitVec 32) (place : Nat) (x : BitVec 512) : BitVec 512 := x ^^^ Config.gcmStream key id fseq place

/-- The key of a slot. -/
def keyAt (v : Vector (Option Nat) 2) (k : BitVec 1) : Option Nat := v[k.toNat]'k.isLt

/-- Whether the buffer of a packet's channel at the far end has room for it (R428, R433). -/
def Link.creditFor (l : Link) (p : Packet) : Bool := channelRoom (l.inFlight.toList.getD p.chan.toNat 0) p

/-- The packet of a class that may go next: a response goes before a request (R433). -/
def Link.headOf (l : Link) (tc : Nat) : Option Packet :=
  let head (resp : Bool) : Option Packet :=
    ((l.out.find? fun b => b.pkt.resp == resp && b.pkt.tc.toNat == tc).map (·.pkt)).filter l.creditFor
  match head true with
  | some p => some p
  | none => head false

/-- The packet that a link sends next (R433): of TC0, else of the class that has had the least of its share. -/
def Link.nextOut (l : Link) : Option Packet :=
  match l.headOf 0 with
  | some p => some p
  | none =>
    ([1, 2, 3].filterMap l.headOf).foldl (fun (m : Option Packet) p => match m with
      | none => some p
      | some x => if shareOf l.share p.tc.toNat < shareOf l.share x.tc.toNat then some p else some x) none

/-- A link that has taken a packet (R433). -/
def Link.took (l : Link) (p : Packet) : Link :=
  { l with
    out := removeFirst (fun b => b.chan == p.chan) l.out
    inFlight := Vector.ofFn fun i => if i.val = p.chan.toNat then l.inFlight[i] + p.flitCount else l.inFlight[i]
    share := takeShare l.share p.tc.toNat p.flitCount fun tc => l.out.any fun b => b.pkt.tc.toNat == tc }

/-- The packets that go in n slots of the next frame, and the link without them; the first number bounds their count. -/
def takeFlits : Nat → Nat → Link → List Packet × Link
  | 0, _, l => ([], l)
  | k + 1, n, l =>
    match l.nextOut with
    | none => ([], l)
    | some p =>
      if p.flitCount ≤ n then
        let (a, l1) := takeFlits k (n - p.flitCount) (l.took p)
        (p :: a, l1)
      else ([], l)

/-- A link's output at a TIME: a packet of TC1 to TC3 that its switch has held for longer than 40 ns carries SLOW (R439). -/
def Link.overdue (l : Link) (now : Word) : Link :=
  { l with out := l.out.map fun b => { b with pkt := { b.pkt with slow := b.pkt.slow || (b.pkt.tc != 0 && decide (40#64 < now - b.time)) } } }

/-- The next new frame of a link, and the link after it is sent (R427, R428, R447): RETIRE stands in every frame until the slot is loaded again. -/
def newFrame (link : Nat) (l0 : Link) : Frame × Link :=
  let (now, l) := match keyAt l0.txKeys l0.ksel with | some _ => takeFlits 16 16 l0 | none => ([], l0)
  let key := (keyAt l.txKeys l.ksel).getD 0
  let plain := now.flatMap (·.flits)
  let n := plain.length
  let fl := (List.range n).map fun i => cipher key (sentId link) l.txSeq i (plain.getD i 0)
  let valid := BitVec.ofNat 16 (2 ^ n - 1)
  let kidx : BitVec 16 := if l.ksel = 1 then valid else 0
  let old : BitVec 1 := l.ksel + 1
  let retires := l.retire.getLsbD old.toNat && l.kept.all fun g => (g.under (old == 1)).isEmpty
  let tag (k : BitVec 1) : BitVec 128 :=
    match keyAt l.txKeys k with
    | some x => Config.gcmTag x (sentId link) l.txSeq kidx valid (if k == l.ksel then fl else [])
    | none => 0
  let f : Frame :=
    { slots := fl ++ List.replicate (16 - n) 0, fseq := l.txSeq, ackseq := l.rxSeq, kidx := kidx, valid := valid, nak := l.sendNak, kready := l.kready
      retire0 := retires && old == 0, retire1 := retires && old == 1, tag0 := tag 0, tag1 := tag 1, credit := l.freed, crc := 0
      carried := now.map fun p => { time := p.time, exempt := p.exempt, near := p.near } }
  let f := { f with crc := crc32 f.body }
  (f, { l with
    txSeq := l.txSeq + 1, kept := l.kept ++ [f], sendNak := false, freed := 0, keyUse := l.keyUse + 1
    txKeys := if retires then l.txKeys.set old.toNat none old.isLt else l.txKeys })

/-- A link starts recovery: the module enters deflection mode and says so to every other (R429, R442). -/
def startRecovery (s : State) (link : Nat) : State :=
  if linkUp s link then
    floodControl (deflectFor (s.modLink link fun l => { l with up := false, recov := true }) s.module) 4 (BitVec.ofNat 64 (s.module.toNat + 2 * 2 ^ 16))
  else s

/-- FRAME_SEND (R427, R429): a frame to be sent again first, bit for bit; else a new one, while fewer than 128 are kept and the key's use allows. -/
def sendFrame (s : State) (i : BitVec 5) : State :=
  let link := i.toNat
  let l := s.link link
  if !linkUp s link then s
  else
    match l.resend with
    | f :: t =>
      { s.modLink link fun l => { l with resend := t, replays := bump l.replays } with frames := s.frames ++ [(i, f)] }
    | [] =>
      if 2 ^ 31 ≤ l.keyUse + 1 then startRecovery s link
      else if 128 ≤ l.kept.length then s
      else
        let (f, l1) := newFrame link (l.overdue (switchTime s))
        { s.modLink link fun _ => l1 with frames := s.frames ++ [(i, f)] }

/-- Whether one tag of a frame passes (R428, R429, R447): with flits of that index, its slot must hold the key, and the tag must be that of the flits; without,
a tag is checked where both ends hold the key. -/
def tagPasses (link : Nat) (l : Link) (f : Frame) (k : BitVec 1) : Bool :=
  let tag := if k = 1 then f.tag1 else f.tag0
  match keyAt l.rxKeys k with
  | some x => Config.gcmTag x (heardId link) f.fseq f.kidx f.valid (f.flitsUnder (k == 1)) == tag || ((f.under (k == 1)).isEmpty && tag == 0)
  | none => (f.under (k == 1)).isEmpty

/-- The flits of an accepted frame, deciphered. -/
def openFlits (link : Nat) (l : Link) (f : Frame) : List (BitVec 512) :=
  ((List.range 16).filter fun i => f.valid.getLsbD i).map fun i =>
    let k := f.kidx.getLsbD i
    cipher ((keyAt l.rxKeys (BitVec.ofBool k)).getD 0) (heardId link) f.fseq ((f.under k).idxOf i) (f.slots.getD i 0)

/-- The whole packets at the head of a list of flits, and the flits left over. -/
def packetsOf : Nat → List (BitVec 512) → List Packet × List (BitVec 512)
  | 0, l => ([], l)
  | _, [] => ([], [])
  | n + 1, x :: t =>
    let k := flitsOf x
    if (x :: t).length < k then ([], x :: t)
    else
      let p := Packet.ofBytes (((x :: t).take k).flatMap fun y => bytesOf y.toNat 64)
      let (a, b) := packetsOf n ((x :: t).drop k)
      (p :: a, b)

/-- The sum of two CREDIT fields, byte by byte. -/
def addCredit (a b : BitVec 64) : BitVec 64 :=
  (List.range 8).foldl (fun (r : BitVec 64) i =>
    r ||| BitVec.ofNat 64 (((bitsAt a.toNat (8 * i) 8 + bitsAt b.toNat (8 * i) 8) % 256) * 2 ^ (8 * i))) 0

/-- Packets with what they carry beside their headers (R285, R287, R317). -/
def withCarried : List Packet → List Carried → List Packet
  | [], _ => []
  | ps, [] => ps
  | p :: t, c :: r => { p with time := c.time, exempt := c.exempt, near := c.near } :: withCarried t r

/-- Whether frame number a lies after b, modulo 2^32. -/
def seqAfter (a b : BitVec 32) : Bool := decide (0 < (a - b).toInt)

/-- Whether a receive slot holds a key that the other slot's has replaced (R447): a RETIRE bit speaks of that key alone, since it stands while the next key
is loaded. -/
def Link.holdsOld (l : Link) (k : BitVec 1) : Bool :=
  match keyAt l.rxKeys k, keyAt l.rxKeys (k + 1) with
  | some a, some b => decide (a < b)
  | _, _ => false

/-- A link after it has accepted a frame: its trailer is applied once (R429, R447). -/
def Link.accepted (l : Link) (f : Frame) (rest : List (BitVec 512)) (carried : List Carried) : Link :=
  let kept := l.kept.filter fun g => seqAfter g.fseq f.ackseq
  let idle : BitVec 1 := l.ksel + 1
  let fresh := match keyAt l.txKeys idle, keyAt l.txKeys l.ksel with
    | some a, some b => decide (b < a)
    | some _, none => true
    | none, _ => false
  let switch := f.kready && fresh
  let gone (k : BitVec 1) : Bool := (if k = 0 then f.retire0 else f.retire1) && l.holdsOld k
  let ends := gone 0 || gone 1
  { l with
    rxSeq := f.fseq, rxFlits := rest, rxCarried := carried, kept := kept, resend := if f.nak then kept else l.resend.filter fun g => seqAfter g.fseq f.ackseq, failures := 0
    credit := addCredit l.credit f.credit, inFlight := Vector.ofFn fun i => l.inFlight[i] - bitsAt f.credit.toNat (8 * i.val) 8
    ksel := if switch then idle else l.ksel, keyUse := if switch then 0 else l.keyUse
    retire := if switch then 1#2 <<< l.ksel.toNat else l.retire
    rxKeys := Vector.ofFn fun k => if gone (BitVec.ofNat 1 k.val) then none else l.rxKeys[k]
    kv0 := l.kv0 && !gone 0, kv1 := l.kv1 && !gone 1, rot := l.rot && !ends, kready := l.kready && !ends }

/-- A frame that fails a check is discarded with NAK; the sixteenth failure of the frame that is awaited starts recovery (R429). -/
def frameFails (s : State) (link : Nat) (f : Frame) : State :=
  let s1 := s.modLink link fun l => { l with sendNak := true, failures := if f.fseq = l.rxSeq + 1 then l.failures + 1 else l.failures }
  if 16 ≤ (s1.link link).failures then startRecovery s1 link else s1

/-- FRAME_RECEIVE (R429): CRC, then FSEQ, then both tags; a duplicate is discarded and changes nothing. -/
def receiveFrame (s : State) (i : BitVec 5) (f : Frame) : State :=
  let link := i.toNat
  let l := s.link link
  if !l.up then s
  else if crc32 f.body != f.crc then frameFails s link f
  else if !seqAfter f.fseq l.rxSeq then s
  else if f.fseq ≠ l.rxSeq + 1 || !tagPasses link l f 0 || !tagPasses link l f 1 then frameFails s link f
  else
    let (ps, rest) := packetsOf 17 (l.rxFlits ++ openFlits link l f)
    let carried := l.rxCarried ++ f.carried
    let s1 := s.modLink link fun l => l.accepted f rest (carried.drop ps.length)
    (withCarried ps carried).foldl (fun t p => arrive t (.l2 (BitVec.ofNat 1 (link / 9))) (BitVec.ofNat 5 (14 + link % 9)) p) s1

/-- A link that is declared failed: the packets of frames after the last that the other end accepted take another way, so that none is lost or
doubled, and this end reports the last that it accepted (R442). -/
def failLink (s : State) (link : Nat) (last : BitVec 32) : State :=
  let l := s.link link
  let frames := l.kept.filter fun g => seqAfter g.fseq last
  let again := frames.flatMap fun g =>
    ((List.range 16).filter fun i => g.valid.getLsbD i).map fun i =>
      let k := g.kidx.getLsbD i
      cipher ((keyAt l.txKeys (BitVec.ofBool k)).getD 0) (sentId link) g.fseq ((g.under k).idxOf i) (g.slots.getD i 0)
  let ps := withCarried (packetsOf again.length again).1 (frames.flatMap (·.carried)) ++ l.out.map (·.pkt)
  let s1 := s.modLink link fun l => { l with recov := false, up := false, failed := true, kept := [], resend := [], out := [] }
  let s2 := { s1 with linkReports := s1.linkReports ++ [(BitVec.ofNat 5 link, l.rxSeq)] }
  match bestLink s2 with
  | some j => s2.modLink j fun m => { m with out := m.out ++ ps.map fun p => atOutput j p (switchTime s) }
  | none => ps.foldl (fun t p => arrive t (.l2 (BitVec.ofNat 1 (link / 9))) 13 p) s2

/-- The return to flowlet mode, which this module broadcasts as the system's root, once every link is up or failed and none recovers (R442). -/
def flowletAgain (s : State) : State :=
  if s.defl && systemRoot s == s.module && s.recovering.isEmpty
      && (List.range 18).all fun i => !(s.link i).recov && ((s.link i).up || (s.link i).failed) then
    floodControl (flowletMode s) 5 0
  else s

/-- A link of another module has ended its recovery; no packet of R443 says so to the root (DESIGN CHOICE, log 40). -/
def recoveredAt (s : State) (m : BitVec 14) : State := flowletAgain { s with recovering := s.recovering.filter (· ≠ m) }

/-! ### Events -/

/-- FRAME_SEND (R427 to R429) -/
def execFrameSend (link : BitVec 5) (s : State) : Out := .next (sendFrame s link)

/-- FRAME_RECEIVE (R429) -/
def execFrameReceive (link : BitVec 5) (f : Frame) (s : State) : Out := .next (receiveFrame s link f)

/-- KEY_USE_LIMIT (R446) -/
def execKeyUseLimit (link : BitVec 5) (s : State) : Out :=
  .next (if 2 ^ 31 ≤ (s.link link.toNat).keyUse + 1 then startRecovery s link.toNat else s)

/-- LANE_LOCK_LOSS (R429, R442) -/
def execLaneLockLoss (link : BitVec 5) (s : State) : Out := .next (startRecovery s link.toNat)

/-- LINK_RETRAINED (R442): the kept frames are sent again. -/
def execLinkRetrained (link : BitVec 5) (s : State) : Out :=
  .next (if (s.link link.toNat).recov then
      flowletAgain (s.modLink link.toNat fun l => { l with recov := false, up := true, failures := 0, resend := l.kept })
    else s)

/-- LINK_RECOVERY_TIMEOUT (R442) -/
def execLinkRecoveryTimeout (link : BitVec 5) (lastAccepted : BitVec 32) (s : State) : Out :=
  .next (if (s.link link.toNat).recov then flowletAgain (failLink s link.toNat lastAccepted) else s)

/-- LINKCTL_NEWKEY (R447, R448) -/
def execLinkctlNewkey (link : BitVec 5) (s : State) : Out := .next (s.modLink link.toNat linkNewKey)

/-- FABCFG_FLOWGAP_WRITE (R440) -/
def execFabcfgFlowgapWrite (gap : BitVec 16) (s : State) : Out := .next (writeFlowgap s gap)

/-- PACKET_FORWARD (R426, R433, R444) -/
def execPacketForward (sw : SwitchId) (port : BitVec 5) (chan : BitVec 3) (s : State) : Out := .next (forward s sw port chan)

/-- A packet that comes by the external link that its path names, and has reached the switch where it ends (R426, R434). -/
def received (s : State) (p : Packet) (f : State → Packet → State) : State :=
  if trestleGrants s (linkOf p.upath) p then f s p else respondAt s (.l2 (pathDie p.upath), 13) p 1 [] 0

/-- READ_PACKET (R434) -/
def execReadPacket (p : Packet) (s : State) : Out := .next (received s p serveRead)
/-- READ_RESPONSE_PACKET (R432) -/
def execReadResponsePacket (p : Packet) (s : State) : Out := .next (takeReply s p)
/-- WRITE_PACKET (R434) -/
def execWritePacket (p : Packet) (s : State) : Out := .next (received s p serveWrite)
/-- WRITE_RESPONSE_PACKET (R432) -/
def execWriteResponsePacket (p : Packet) (s : State) : Out := .next (takeReply s p)
/-- ATOMIC_PACKET (R434) -/
def execAtomicPacket (p : Packet) (s : State) : Out := .next (received s p serveAtomic)
/-- ATOMIC_RESPONSE_PACKET (R432) -/
def execAtomicResponsePacket (p : Packet) (s : State) : Out := .next (takeReply s p)
/-- MESSAGE_PACKET (R431, R432) -/
def execMessagePacket (p : Packet) (s : State) : Out := .next (serveMessage s p)
/-- MESSAGE_RESPONSE_PACKET (R432) -/
def execMessageResponsePacket (p : Packet) (s : State) : Out := .next (takeMessageReply s p)
/-- STRIP_PACKET (R431) -/
def execStripPacket (p : Packet) (s : State) : Out := .next (received s p serveStrip)
/-- STRIP_RESPONSE_PACKET (R431) -/
def execStripResponsePacket (p : Packet) (s : State) : Out := .next (takeStripReply s p)

/-- TIME_REQUEST (R414, R443) -/
def execTimeRequest (p : Packet) (s : State) : Out := .next (serveTimeRequest s p)
/-- TIME_REPLY (R414, R443) -/
def execTimeReply (p : Packet) (s : State) : Out := .next (serveTimeReply s p)
/-- DEBUG_PAUSE (R405, R443) -/
def execDebugPause (p : Packet) (s : State) : Out :=
  .next (onFlood s (some (linkOf p.upath)) p fun s => pauseBy s (p.controlVal.extractLsb' 0 16) p.smod)
/-- DEBUG_THAW (R405, R443) -/
def execDebugThaw (p : Packet) (s : State) : Out :=
  .next (onFlood s (some (linkOf p.upath)) p fun s => thawBy s (p.controlVal.extractLsb' 0 16) p.smod)
/-- DEFLECTION_ENTRY (R442, R443) -/
def execDeflectionEntry (_sw : SwitchId) (p : Packet) (s : State) : Out :=
  .next (onFlood s (some (linkOf p.upath)) p fun s => deflectFor s (p.controlVal.extractLsb' 0 14))
/-- FLOWLET_RETURN (R442, R443) -/
def execFlowletReturn (_sw : SwitchId) (p : Packet) (s : State) : Out := .next (onFlood s (some (linkOf p.upath)) p flowletMode)
/-- HEARTBEAT (R443) -/
def execHeartbeat (p : Packet) (s : State) : Out := .next { s with heard := putKey s.heard p.smod s.reference }

/-- The lowest-numbered present module other than this one. -/
def lowestOther (s : State) : Option (BitVec 14) :=
  (s.present.filter fun m => m != s.module && decide (m.toNat < moduleLimit)).foldl (fun b m =>
    match b with
    | none => some m
    | some x => if m < x then some m else some x) none

/-- HEARTBEAT_SEND_TICK (R443): to the root module; the root's goes to the lowest-numbered other module. -/
def execHeartbeatSendTick (s : State) : Out :=
  .next (if systemRoot s = s.module then
      match lowestOther s with
      | some m => queuePacket s (controlPacket s 6 s.reference m)
      | none => s
    else queuePacket s (controlPacket s 6 s.reference (systemRoot s)))

end Sys2Proof.Machine
end

