-- ==== Sys2Proof/Machine/Slice.lean ====
section
/-! DEFINITION. Shared-cache slices and request permits (spec/14 R282 to R286, R291, R292), and the waiters of a local-store word (spec/15
R313). -/

namespace Sys2Proof.Machine

/-! ### Events -/

/-- A request that takes a permit and is served (R286). -/
def takePermit (s : State) (core : BitVec 9) (req : SliceReq) : State :=
  let k := permitKey core req.die (sliceOf req.off)
  serveSlice (setPermits s k (permitsHeld s k + 1)) req

/-- SLICE_REQUEST (R282 to R286): without a free permit the request waits, and it alone. -/
def execSliceRequest (core : BitVec 9) (req : SliceReq) (s : State) : Out :=
  let k := permitKey core req.die (sliceOf req.off)
  .next (if permitsHeld s k < permitLimit k then takePermit s core req else { s with permitWait := s.permitWait ++ [(core, req)] })

/-- Whether a waiting request is one for a permit. -/
def wantsPermit (k : BitVec 9 × BitVec 5) (w : BitVec 9 × SliceReq) : Bool := permitKey w.1 w.2.die (sliceOf w.2.off) == k

/-- MEMORY_REPLY (R286): the permit comes back, and the oldest request that waits for it takes it; slice 31 stands for the die switch. -/
def execMemoryReply (core : BitVec 9) (slice : BitVec 5) (s : State) : Out :=
  let k := (core, slice)
  let s1 := setPermits s k (permitsHeld s k - 1)
  .next (match s.permitWait.find? (wantsPermit k) with
    | some w => takePermit { s1 with permitWait := removeFirst (wantsPermit k) s.permitWait } w.1 w.2
    | none => s1)

/-- The waiters of a word that a full word serves: every ldsync up to the first ldtake, and that one (R313). -/
def servedBy (l : List Waiter) : List Waiter :=
  l.takeWhile (fun w => !w.take) ++ (l.dropWhile (fun w => !w.take)).take 1

/-- LDSYNC_WAKE (R313): the waiters that a full word serves go on to their instruction. -/
def execLdsyncWake (pa : BitVec 56) (s : State) : Out :=
  .next (if s.full.contains pa.toNat then
      let l := servedBy (s.waiters.filter fun w => w.pa == pa)
      let wake (n : BitVec 6) (h : Hart) : Hart :=
        if h.park == .ldsync && l.any fun w => w.ring == n && w.slot == h.slot then { h with park := .stalled } else h
      let s1 := putBack s
      turnBack s { s1 with
        hart := if s1.onMgmt.isSome then s1.hart else wake s1.cur s1.hart
        ring := { s1.ring with chunks := s1.ring.chunks.map (wake s1.cur) }
        rings := Vector.ofFn fun n => { s1.rings[n] with chunks := (s1.rings[n]).chunks.map (wake (BitVec.ofNat 6 n.val)) } }
    else s)

end Sys2Proof.Machine
end

