-- ==== Sys2Proof/Machine/Host.lean ====
section
/-! DEFINITION. The host (spec/25 R471 to R475), launches (R476, R477), boot and reset (spec/22 R415, R421, R422; spec/25 R478), attestation
(R479), module faults (R482; spec/23 R443), and writes of control registers (spec/00 R7; spec/25 R480, R481). -/

namespace Sys2Proof.Machine

/-! ### Queue pairs and keys (R471) -/

/-- What the host sees of its module, one thing added. -/
def tellHost (s : State) (o : HostOut) : State := { s with host := o :: s.host }

/-- The NAK "invalid request": the queue pair enters the error state (R471). -/
def nakHost (s : State) (port : BitVec 3) (qpn : BitVec 24) : State :=
  tellHost { s with qpErr := if s.qpErr.contains (port, qpn) then s.qpErr else s.qpErr ++ [(port, qpn)] } (.nakInvalid port qpn)

/-- Whether a queue pair exists on a port and is not in the error state (R471). -/
def qpReady (s : State) (port : BitVec 3) (qpn : BitVec 24) : Bool := decide (qpn.toNat < 4096) && !s.qpErr.contains (port, qpn)

/-- Whether an operation of a queue pair still awaits another module: a later one of the pair comes after it (R472). -/
def qpBusy (s : State) (port : BitVec 3) (qpn : BitVec 24) : Bool := s.hostWaits.any fun w => w.port == port && w.qpn == qpn

/-- The remote key of a port that an access uses, where it admits the access (R471). -/
def keyFor (s : State) (port : BitVec 3) (rkey : BitVec 32) (pa n : Nat) (write : Bool) : Option RemoteKey :=
  s.keys.find? fun k => k.port == port && k.key == rkey && (if write then k.w else k.r) && decide (k.base.toNat ≤ pa ∧ pa + n ≤ k.base.toNat + k.len.toNat)

/-- Whether a table grants a host access: by an entry with ANYRING = 1 (R472). -/
def hostGrants (s : State) (table : Nat) (m : Master) (pa n : Nat) (k : Access) : Bool :=
  s.ctl.any fun (a, w0) =>
    decide (table ≤ a ∧ a < table + 8192) && (a - table) % 32 == 0 && w0.getLsbD 3 && entryGrants s a w0 m pa n k

/-- Whether the DMA port's table admits a host access (R287, R472). -/
def dmaAllowed (s : State) (port : BitVec 3) (jid : BitVec 16) (pa n : Nat) (k : Access) : Bool :=
  hostGrants s (dmaTable s (port.toNat / 4) (port.toNat % 4)) { jid := jid, module := s.module, ring := 0 } pa n k

/-- Whether the home of an access on this module admits it (R287, R445, R472). -/
def homeAllowed (s : State) (jid : BitVec 16) (pa n : Nat) (k : Access) : Bool :=
  spaceExists s pa && !inReserve s pa n && !paSpace1 pa
    && hostGrants s (sliceTable s (bitsAt pa 38 3)) { jid := jid, module := s.module, ring := 0 } pa n k

/-! ### RDMA (R472) -/

/-- The ranges of n bytes from an address, none crossing a 64-byte boundary (R431): address and length. -/
def blocks64 : Nat → Nat → Nat → List (Nat × Nat)
  | 0, _, _ => []
  | k + 1, pa, n =>
    if n = 0 then []
    else
      let m := min n (64 - pa % 64)
      (pa, m) :: blocks64 k (pa + m) (n - m)

/-- A request of the host to another module, TC2 with SRING = 0 (R472). -/
def hostPacket (s : State) (kind : BitVec 4) (tc : BitVec 2) (ord : Bool) (dmod : BitVec 14) (jid rtag : BitVec 16) (payload : List Byte) : Packet :=
  { kind := kind, tc := tc, ord := ord, resp := false, dmod := dmod, smod := s.module, sring := 0, upath := 0, slow := false, age := 0, jid := jid
    pseq := 0, status := 0, rtag := rtag, payload := payload, time := 0 }

/-- Whether the host's packets of a job go by the abutment switch of their port, whose input port a gang switch closes, and are not performed at once: the
job's state is not RUNNING (R462 step 2, R467). -/
def hostBarred (s : State) (jid : BitVec 16) : Bool := match jobState s jid with | some st => st != .running | none => false

/-- The switch and port by which the packets of an Ethernet port enter (R463). -/
def etherPort (port : BitVec 3) : SwitchId × BitVec 5 := (.l2 (port.extractLsb' 2 1), 9 + (port.extractLsb' 0 2).setWidth 5)

/-- One packet of a host operation, with its tag, and its response's status and data once they have come. -/
abbrev HostPart := BitVec 16 × Option (BitVec 4 × List Byte)

/-- A packet of the host whose response is awaited: one for this module enters by the abutment switch of its port (R467, R492), one for another waits at its
source for its turn (R438). -/
def enterPart (s : State) (port : BitVec 3) (mk : BitVec 16 → Packet) : State × HostPart :=
  let tag := s.nextTag
  let s1 := { s with nextTag := tag + 1 }
  let p := mk tag
  (if p.dmod = s.module then arrive s1 (etherPort port).1 (etherPort port).2 { p with upath := (port.extractLsb' 2 1).setWidth 12 } else queuePacket s1 p, (tag, none))

/-- A host operation with every response: what the host is told. -/
def finishHost (s : State) (w : HostWait) : State :=
  let sts := w.parts.filterMap fun p => p.2.map (·.1)
  if w.send then
    if sts.all (· == 5) then tellHost s (.ack w.port w.qpn)
    else if sts.all (· == 4) then tellHost s (.rnrNak w.port w.qpn)
    else nakHost s w.port w.qpn
  else if sts.all (· == 0) then
    tellHost s (if w.read then .data w.port w.qpn (w.parts.flatMap fun p => (p.2.map (·.2)).getD []) else .ack w.port w.qpn)
  else nakHost s w.port w.qpn

/-- A host operation whose packets have been sent or performed: it ends if no response is awaited. -/
def awaitHost (s : State) (w : HostWait) : State :=
  if w.parts.all fun p => p.2.isSome then finishHost s w else { s with hostWaits := s.hostWaits ++ [w] }

/-- Host operations whose responses have all come end. -/
def settleHost (s : State) : State :=
  let done (w : HostWait) : Bool := w.parts.all fun p => p.2.isSome
  (s.hostWaits.filter done).foldl finishHost { s with hostWaits := s.hostWaits.filter fun w => !done w }

/-- One request of an RDMA access, a range that crosses no 64-byte boundary (R431, R472): the DMA port's table and the home's check it; on this module it is
performed at once where it can be. -/
def hostBlock (s : State) (port : BitVec 3) (jid : BitVec 16) (write : Bool) (pa n : Nat) (data : List Byte) : State × HostPart :=
  let k : Access := if write then .w else .r
  let mk (tag : BitVec 16) : Packet :=
    hostPacket s (if write then 2 else 0) 2 false (paModule pa) jid tag (bytesOf pa 8 ++ if write then data else [BitVec.ofNat 8 n])
  if !dmaAllowed s port jid pa n k then (s, (0, some (1, [])))
  else if paModule pa ≠ s.module then (if isPresent s (paModule pa) then enterPart s port mk else (s, (0, some (2, []))))
  else if hostBarred s jid then enterPart s port mk
  else if !homeAllowed s jid pa n k then (s, (0, some (1, [])))
  else if write then (writeHome s pa data, (0, some (0, [])))
  else if anyBad s pa n then (s, (0, some (3, [])))
  else (sliceReads s pa n, (0, some (0, memBytes s pa n)))

/-- The requests of an RDMA access in order, each with what becomes of it. -/
def hostBlocks (port : BitVec 3) (jid : BitVec 16) (write : Bool) : List (Nat × Nat) → List Byte → State → State × List HostPart
  | [], _, s => (s, [])
  | (pa, n) :: t, data, s =>
    let (s1, p) := hostBlock s port jid write pa n (data.take n)
    let (s2, l) := hostBlocks port jid write t (data.drop n) s1
    (s2, p :: l)

/-- An RDMA access of n bytes under a remote key (R471, R472): a request that is denied performs nothing, and the access is then refused. -/
def hostAccess (s : State) (port : BitVec 3) (qpn : BitVec 24) (rkey : BitVec 32) (write : Bool) (pa n : Nat) (data : List Byte) : State :=
  match keyFor s port rkey pa n write with
  | none => nakHost s port qpn
  | some k =>
    let (s1, parts) := hostBlocks port k.jid write (blocks64 n pa n) data s
    awaitHost s1 { port := port, qpn := qpn, send := false, read := !write, parts := parts }

/-- An RDMA WRITE (R471, R472). -/
def hostWrite (s : State) (port : BitVec 3) (qpn : BitVec 24) (rkey : BitVec 32) (pa : Nat) (data : List Byte) : State :=
  hostAccess s port qpn rkey true pa data.length data

/-- An RDMA READ answered with data; one of uncorrectable data is refused (R471, R472; DESIGN CHOICE, log 44). -/
def hostRead (s : State) (port : BitVec 3) (qpn : BitVec 24) (rkey : BitVec 32) (pa n : Nat) : State := hostAccess s port qpn rkey false pa n []

/-- RDMA_WRITE (R471, R472) -/
def execRdmaWrite (port : BitVec 3) (qpn : BitVec 24) (rkey : BitVec 32) (pa : BitVec 56) (data : List Byte) (s : State) : Out :=
  .next (if qpBusy s port qpn then s
    else if qpReady s port qpn then hostWrite s port qpn rkey pa.toNat data else nakHost s port qpn)

/-- RDMA_READ (R471, R472) -/
def execRdmaRead (port : BitVec 3) (qpn : BitVec 24) (rkey : BitVec 32) (pa : BitVec 56) (len : BitVec 32) (s : State) : Out :=
  .next (if qpBusy s port qpn then s
    else if qpReady s port qpn then hostRead s port qpn rkey pa.toNat len.toNat else nakHost s port qpn)

/-- A packet of the host that the table of R471 does not admit: an atomic, one with immediate data, an invalidate. -/
def hostInvalid (s : State) (port : BitVec 3) (qpn : BitVec 24) : State := if qpBusy s port qpn then s else nakHost s port qpn

/-! ### SEND (R473, R474) -/

/-- The lowest host mailbox that a queue pair of a port is bound to (R473). -/
def boundMailbox (s : State) (port : BitVec 3) (qpn : BitVec 24) : Option (BitVec 14) :=
  let base := bindingPa s (8192 * (port.toNat / 4))
  (s.ctl.filterMap fun (a, w) =>
    if base ≤ a ∧ a < base + 0x20000 ∧ (a - base) % 16 = 8 ∧ w.getLsbD 26 = true ∧ bitsAt w.toNat 0 24 = qpn.toNat
        ∧ bitsAt w.toNat 24 2 = port.toNat % 4 then
      some (BitVec.ofNat 14 (8192 * (port.toNat / 4) + (a - base) / 16))
    else none).head?

/-- A destination word with a number of beats, less one, in BEATS (R243). -/
def withBeats (d : Word) (beats : BitVec 3) : Word := (d &&& ~~~(7#64 <<< 50)) ||| (beats.setWidth 64 <<< 50)

/-- The message of a SEND (R474). -/
def hostMessage (s : State) (h : BitVec 14) (payload : List Byte) : Message :=
  let dest := (lookupKey s.ctl (bindingPa s h.toNat)).getD 0
  let beats : BitVec 3 := BitVec.ofNat 3 (payload.length / 32 - 1)
  { dest := withBeats dest beats, hdr := headerOf (destTag dest) beats (destMbx dest) false true h s.module, payload := payload, time := s.reference }

/-- The job of the actor that a message of the host names; 0 where there is none. No rule gives that of an actor of another module, whose module alone holds it:
it is a free value of the destination word (log 98). -/
def jobOfDest (s : State) (dest : Word) : BitVec 16 :=
  if destModule dest = s.module then ((actorOf s ((destTarget dest).setWidth 12)).map (·.jid)).getD 0 else Config.hostJob dest

/-- The packet of a SEND: a release of what its queue pair did before (R472). -/
def sendPacket (s : State) (msg : Message) (jid tag : BitVec 16) : Packet :=
  { hostPacket s 6 1 true (destModule msg.dest) jid tag (bytesOf msg.dest.toNat 8 ++ bytesOf msg.hdr.toNat 8 ++ msg.payload) with time := msg.time }

/-- A SEND (R474): its message is accepted, refused with RNR NAK, or names nothing; one for a job whose state is not RUNNING waits or is late (R467). -/
def hostSendTo (s : State) (port : BitVec 3) (qpn : BitVec 24) (payload : List Byte) : State :=
  match boundMailbox s port qpn with
  | none => nakHost s port qpn
  | some h =>
    if payload.length < 32 || 256 < payload.length || payload.length % 32 != 0 then nakHost s port qpn
    else
      let msg := hostMessage s h payload
      let dm := destModule msg.dest
      let jid := jobOfDest s msg.dest
      if destHost msg.dest then nakHost s port qpn
      else if dm = s.module && !hostBarred s jid then
        match offerHere s msg with
        | .accepted t => tellHost t (.ack port qpn)
        | .refused => tellHost s (.rnrNak port qpn)
        | .absent => nakHost s port qpn
      else if dm = s.module || isPresent s dm then
        let (s1, p) := enterPart s port (sendPacket s msg jid)
        awaitHost s1 { port := port, qpn := qpn, send := true, read := false, parts := [p] }
      else nakHost s port qpn

/-- HOST_SEND (R471, R473, R474) -/
def execHostSend (port : BitVec 3) (qpn : BitVec 24) (payload : List Byte) (s : State) : Out :=
  .next (if qpBusy s port qpn then s
    else if qpReady s port qpn then hostSendTo s port qpn payload else nakHost s port qpn)

/-! ### The supervisor runtime's actor (R238, R473; log 45) -/

/-- The ring through whose outbound buffer the runtime's messages leave (DESIGN CHOICE, log 45). -/
def runtimeRing : BitVec 6 := 63#6

/-- The runtime's own actor: its command mailbox 0 and its reject mailbox are polled (R238, R473). -/
def runtimeActor : Actor :=
  let polled : Mailbox := { Mailbox.closed with mode := 2 }
  { jid := 0, aid := runtimeAid, ring := runtimeRing, wid := 0, widShape := 0, prio := 0, phase := .released, ctxQueued := false, entryPc := 0
    stackTop := 0, ptroot := 0, ctx := 0, ctxPages := 0, typeErr := 0, undeliv := 0
    mbx := ((Vector.replicate 32 Mailbox.closed).set 0 polled).set 31 polled, since := 0 }

/-- The runtime's command mailbox without a message of some tag and payload; none if it holds none. -/
def takeCommand (s : State) (tag : BitVec 16) (payload : List Byte) : Option State :=
  match actorOf s runtimeAid with
  | none => none
  | some a =>
    let mine (m : Message) : Bool := (m.hdr.extractLsb' 0 16 : BitVec 16) == tag && m.payload == payload
    let b := a.box 0
    if b.queue.any mine then some (s.putActor (a.setBox 0 { b with queue := removeFirst mine b.queue }))
    else if b.spill.any mine then some (s.putActor (a.setBox 0 { b with spill := removeFirst mine b.spill }))
    else none

/-- A message of the runtime on its way (R473, R477). -/
def runtimeSends (s : State) (dest : Word) (beats : BitVec 3) (payload : List Byte) : State :=
  let msg : Message :=
    { dest := withBeats dest beats, hdr := headerOf (destTag dest) beats (destMbx dest) false false (runtimeAid.setWidth 14) s.module
      payload := payload, time := 0 }
  s.modRingAt runtimeRing fun r => { r with outbound := r.outbound ++ [outMsg 0 msg] }

/-! ### LAUNCH (R476, R477) -/

/-- len bits of a launch message from bit lo of the byte at an offset. -/
def msgField (msg : List Byte) (off lo len : Nat) : Nat := bitsAt (ofBytes (msg.drop off)) lo len

/-- The entry of mailbox m in a launch message. -/
def boxField (msg : List Byte) (m lo len : Nat) : Nat := msgField msg (0x80 + 4 * m) lo len

/-- Whether a SPLOG is in range. -/
def splogOk (n : Nat) : Bool := decide (8 ≤ n ∧ n ≤ 20)

/-- The fields of a launch message that must be zero (R476). -/
def launchZeros (msg : List Byte) : Bool :=
  msgField msg 0 25 7 == 0 && msgField msg 0 56 8 == 0 && msgField msg 0x08 56 8 == 0 && msgField msg 0x10 36 28 == 0
    && msgField msg 0x18 56 8 == 0 && msgField msg 0x20 56 8 == 0 && msgField msg 0x28 20 44 == 0 && msgField msg 0x40 32 32 == 0
    && msgField msg 0x48 0 448 == 0 && ((List.range 31).all fun m => boxField msg m 25 7 == 0)
    && msgField msg 0xFC 0 19 == 0 && msgField msg 0xFC 24 8 == 0

/-- The causes of status 1 (R477); the range of SPLOG is that of every mailbox's entry (DEDUCED, log 46). -/
def launchMalformed (msg : List Byte) : Bool :=
  let spl := msgField msg 0xFC 19 5
  !launchZeros msg || decide (64 < ((List.range 6).map fun i => msgField msg 0x10 (6 * i) 6).sum)
    || !((List.range 31).all fun m => splogOk (boxField msg m 19 5)) || !(spl == 0 || splogOk spl)
    || msgField msg 0x38 0 64 % 16 != 0 || msgField msg 0x40 0 32 % 16 != 0
    || decide (4094 < msgField msg 0 32 12 + msgField msg 0 16 6)

/-- What becomes of a read by the supervisor runtime: it waits for a response of another module, it is denied, or it gives a value. -/
inductive RuntimeRead (α : Type) where
  | waits
  | denied
  | value (x : α)

/-- A computation of the supervisor runtime, which reads as the management core of abutment die 0 does (R434). What it reads of another module comes by
packets: the module as it waits for them, or the outcome. -/
def runtimeRun {α : Type} (s : State) (m : M α) : State × RuntimeRead α :=
  let t : State := { s with hart := { Hart.start with level := .m, remote := s.runtimeReads }, onMgmt := some 0 }
  match m t with
  | .ok v _ => ({ s with runtimeReads := [] }, .value v)
  | .error (.trap _ _) _ => ({ s with runtimeReads := [] }, .denied)
  | .error (.wait (.remote wr pa pkt)) _ =>
    let u := applyWait t (.remote wr pa pkt)
    ({ s with runtimeReads := u.hart.remote, nextTag := u.nextTag, heldOut := u.heldOut }, .waits)
  | .error (.wait _) _ => (s, .waits)

/-- An 8-byte word at a virtual address of the job that a launch creates. -/
def launchWord (jid : BitVec 16) (root : Nat) (va : Word) : M Word := do
  let (pa, _) ← walkFrom jid va .r false 4 0 root
  return BitVec.ofNat 64 (← readPhys va pa 8)

/-- What a launch takes of its image: the entry point (R493), and of an actor's record HMASK, HREJ, HREJADDR, and by mailbox HADDR, TAG and BEATS (R239). -/
structure ActorRecord where
  entry : Word
  hmask : BitVec 31
  hrej : Bool
  hrejAddr : Word
  boxes : List (Word × BitVec 16 × Nat)
deriving DecidableEq, Repr

/-- The record of an image with no actor record (R476). -/
def ActorRecord.empty (entry : Word) : ActorRecord := { entry := entry, hmask := 0, hrej := false, hrejAddr := 0, boxes := List.replicate 31 (0, 0, 0) }

/-- The record of a launch (R239, R476, R493), from the image's header on; none where the message names none. -/
def launchRecord (msg : List Byte) : M (Option ActorRecord) := do
  let jid := BitVec.ofNat 16 (msgField msg 0 0 16)
  let root := msgField msg 0x18 17 39 * 2 ^ 17
  let image := msgField msg 0x08 0 56
  let actor := msgField msg 0 44 12
  let entry ← readPhys (BitVec.ofNat 64 image) image 8
  let tab ← readPhys (BitVec.ofNat 64 image) (image + 8) 8
  let count ← readPhys (BitVec.ofNat 64 image) (image + 16) 8
  let at_ (off : Nat) : M Word := launchWord jid root (BitVec.ofNat 64 (tab + 512 * actor + off))
  if tab = 0 then return if actor = 0 then some (ActorRecord.empty (BitVec.ofNat 64 entry)) else none
  else if count ≤ actor then return none
  else
    let w0 ← at_ 0
    let w1 ← at_ 8
    let boxes ← (List.range 31).mapM fun m => do
      let a ← at_ (0x10 + 16 * m)
      let b ← at_ (0x18 + 16 * m)
      return (a, (b.extractLsb' 0 16 : BitVec 16), bitsAt b.toNat 16 8)
    return some { entry := BitVec.ofNat 64 entry, hmask := w0.extractLsb' 0 31, hrej := w0.getLsbD 31, hrejAddr := w1, boxes := boxes }

/-- Whether each handled mailbox of a record is open with the record's type (R477). -/
def recordFits (msg : List Byte) (r : ActorRecord) : Bool :=
  (List.range 31).all fun m =>
    let b := r.boxes.getD m (0, 0, 0)
    !r.hmask.getLsbD m
      || (boxField msg m 24 1 == 1 && boxField msg m 0 16 == b.2.1.toNat && boxField msg m 16 3 + 1 == b.2.2)

/-- Whether the dispatcher may use a ring (R386, R421). -/
def ringAvailable (s : State) (n : BitVec 6) : Bool := !(s.ringAt n).unavailable && !(s.ringAt n).absent && (s.die (dieOf n)).available

/-- The status of a launch whose image has been read and, where it succeeds, its record (R477); an image that cannot be read holds no record (DEDUCED,
log 46). -/
def launchStatus (s : State) (msg : List Byte) (rec : Option ActorRecord) : Nat × Option ActorRecord :=
  let jid := BitVec.ofNat 16 (msgField msg 0 0 16)
  let n := msgField msg 0 16 6 + 1
  let base := msgField msg 0 32 12
  match rec with
  | none => (2, none)
  | some r =>
    if !recordFits msg r then (2, none)
    else if s.actors.any fun (a : Actor) => a.jid == jid && a.aid != runtimeAid && a.phase != .finished then (3, none)
    else if (allRings.filter (ringAvailable s)).length < n then (4, none)
    else if s.actors.any fun (a : Actor) => a.phase != .finished && decide (base ≤ a.aid.toNat ∧ a.aid.toNat < base + n) then (5, none)
    else (0, some r)

/-- A mailbox as a launch makes it (R240, R476): its spill area, whose place in HBM and layout the spec does not state, is a list beside memory, and SPBASE
and SPHEAD begin at 0 (DESIGN CHOICE, log 93). -/
def launchBox (msg : List Byte) (r : ActorRecord) (m : Nat) : Mailbox :=
  if m = 31 then
    let spl := msgField msg 0xFC 19 5
    { Mailbox.closed with mode := if r.hrej then 1 else 2, haddr := if r.hrej then r.hrejAddr else 0, splog := BitVec.ofNat 5 (if spl = 0 then 8 else spl) }
  else
    let handled := r.hmask.getLsbD m
    { Mailbox.closed with
      tag := BitVec.ofNat 16 (boxField msg m 0 16), beats := BitVec.ofNat 3 (boxField msg m 16 3)
      mode := if handled then 1 else if boxField msg m 24 1 = 1 then 2 else 0
      haddr := if handled then (r.boxes.getD m (0, 0, 0)).1 else 0, splog := BitVec.ofNat 5 (boxField msg m 19 5) }

/-- Member g of a ring group, on a ring (R258, R476). -/
def launchActor (s : State) (msg : List Byte) (r : ActorRecord) (g : Nat) (ring : BitVec 6) : Actor :=
  let pages := msgField msg 0x28 0 20
  { jid := BitVec.ofNat 16 (msgField msg 0 0 16), aid := BitVec.ofNat 12 (msgField msg 0 32 12 + g), ring := ring, wid := BitVec.ofNat 6 g
    widShape := BitVec.ofNat 42 (msgField msg 0x10 0 36 + msgField msg 0 16 6 * 2 ^ 36), prio := BitVec.ofNat 3 (msgField msg 0 22 3)
    phase := .entry, ctxQueued := false, entryPc := r.entry
    stackTop := BitVec.ofNat 64 (msgField msg 0x38 0 64 + (g + 1) * msgField msg 0x40 0 32), ptroot := BitVec.ofNat 39 (msgField msg 0x18 17 39)
    ctx := BitVec.ofNat 64 (msgField msg 0x20 0 56 + g * pages * 4096), ctxPages := BitVec.ofNat 20 pages, typeErr := 0, undeliv := 0
    mbx := Vector.ofFn fun m => launchBox msg r m.val, since := s.order + g }

/-- The members of a launch created on their rings. -/
def createMembers (s : State) (msg : List Byte) (r : ActorRecord) (rings : List (BitVec 6)) : State :=
  let made := (List.range rings.length).map fun g => launchActor s msg r g (rings.getD g 0)
  let keys := made.map (·.aid)
  { s with
    actors := (s.actors.filter fun (a : Actor) => !(a.phase == .finished && keys.contains a.aid)) ++ made, order := s.order + rings.length
    jobs := s.jobs.filter fun p => p.1 != BitVec.ofNat 16 (msgField msg 0 0 16) }

/-- The runtime ends a launch whose image it has read, or not needed to read: it creates the members on the rings that it has chosen, which must be distinct and
available, one for each member, and replies (R258, R477). t is the module without the message. -/
def endLaunch (s t : State) (msg : List Byte) (rings : List (BitVec 6)) (status : Nat × Option ActorRecord) : State :=
  let reply : Word := BitVec.ofNat 64 (msgField msg 0x30 0 64)
  match status with
  | (_, some r) =>
    if rings.length = msgField msg 0 16 6 + 1 ∧ rings.eraseDups = rings ∧ rings.all (ringAvailable t) = true then
      runtimeSends (createMembers t msg r rings) reply 0 (List.replicate 32 0)
    else s
  | (st, none) => runtimeSends t reply 0 (bytesOf st 32)

/-- LAUNCH (R258, R476, R477): the runtime takes the message from its command mailbox, reads the image, creates the members and replies. While it waits for
bytes of another module the event comes again (log 46). -/
def execLaunch (msg : List Byte) (rings : List (BitVec 6)) (s : State) : Out :=
  .next (match takeCommand s 1 msg with
    | none => s
    | some t =>
      if msg.length ≠ 256 then t
      else if launchMalformed msg then endLaunch s t msg rings (1, none)
      else
        match runtimeRun t (launchRecord msg) with
        | (u, .waits) => { s with runtimeReads := u.runtimeReads, nextTag := u.nextTag, heldOut := u.heldOut }
        | (u, .denied) => endLaunch s u msg rings (launchStatus u msg none)
        | (u, .value r) => endLaunch s u msg rings (launchStatus u msg r))

/-! ### Boot (R415, R421, R478) -/

/-- The flash bank whose image passes its checks (R478 step 2). -/
def bootBank : Option Nat :=
  let good (b : Nat) : Bool := Config.imageVerifies b && decide (Config.fusedCounter ≤ Config.imageVersion b)
  if good 0 then some 0 else if good 1 then some 1 else none

/-- The repair store after a boot: one that does not verify is ignored, and rebuilt from what the self-test finds (R478 step 3). -/
def bootRepair (s : State) (b : BootReport) : List (BitVec 3 × BitVec 2 × BitVec 5) :=
  if Config.repairVerifies s.repair then s.repair else b.failedCores.eraseDups

/-- The failed cores of a boot: those found, and those marked for retirement (R421, R422, R478). -/
def bootFailures (s : State) (b : BootReport) : List (BitVec 3 × BitVec 2 × BitVec 5) := (b.failedCores ++ bootRepair s b).eraseDups

/-- Whether the failures found leave a die in use (R421). -/
def dieUsable (b : BootReport) (d : BitVec 3) : Bool :=
  decide ((b.failedSlices.filter fun p => p.1 == d).length < 2) && !(b.failedStacks.any fun p => p.1 == d)

/-- A die as boot leaves it (R421): one that is unavailable holds no token. -/
def bootDie (s : State) (b : BootReport) (d : BitVec 3) : Die :=
  let x := s.die d
  let ok := dieUsable b d
  { x with
    available := ok, held := if ok then x.held else 0, wanted := if ok then x.wanted else 0
    failed := ((bootFailures s b).filter fun p => p.1 == d).map (·.2) }

/-- The cores of a ring in a cluster with a active cores (R421). -/
def ringCores (a : Nat) (ring : Nat) : Nat := if ring = 0 then min a 8 else a - min a 8

/-- A ring as boot leaves it (R210, R421). -/
def bootRing (s : State) (n : BitVec 6) : Ring :=
  let c := ringCores (activeCores s (dieOf n) (clusterOf n)) (ringInCluster n)
  let r := s.ringAt n
  { r with retired := c == 7, absent := decide (c < 7) || !(s.die (dieOf n)).available }

/-- A link as boot leaves it (R442, R478 step 5): up with its first keys in slot 0, or failed. -/
def bootLink (up : Bool) (l : Link) : Link :=
  if up then { l with up := true, failed := false, kv0 := true, txKeys := l.txKeys.set 0 (some 0), rxKeys := l.rxKeys.set 0 (some 1), nextKey := 1 }
  else { l with up := false, failed := true }

/-- The binding of host mailbox 0 to the runtime's command mailbox (R473), on queue pair 0 of port 0 and with the tag of LAUNCH (R476; DESIGN CHOICE,
log 45). -/
def bootBinding (s : State) : State :=
  let dest : Word := (runtimeAid.setWidth 64 <<< 6) ||| (s.module.setWidth 64 <<< 20) ||| (1#64 <<< 34)
  { s with ctl := ctlPut (ctlPut s.ctl (bindingPa s 0) dest) (bindingPa s 0 + 8) (1#64 <<< 26) }

/-- The ready message, a UDP datagram to destination port 47,210 (R478), from an Ethernet port. -/
def readyMessage (s : State) (status : Nat) (port : BitVec 3) : HostOut :=
  .ready port 47210 status Config.serial (allRings.filter fun n => (s.ringAt n).absent) (allDies.filter fun d => !(s.die d).available) Config.keyDigest

/-- The ready message from every port that is up (R478). -/
def tellReady (s : State) (ports : List (BitVec 3)) (status : Nat) : State := ports.eraseDups.foldl (fun t q => tellHost t (readyMessage s status q)) s

/-- The module halted in its boot. -/
def bootHalts (s : State) (b : BootReport) (status : Nat) : State :=
  tellReady { s with mode := .bootFailed, mgmt := s.mgmt.map fun c => { c with stopped := true } } b.portsUp status

/-- The module after self-test, training and link-up (R421, R425, R442, R478); the root then begins flowlet mode, once the links of every other
module too are up or failed (log 40). -/
def bootModule (s : State) (b : BootReport) : State :=
  let s1 := { s with dies := Vector.ofFn fun i => bootDie s b (BitVec.ofNat 3 i.val), repair := bootRepair s b, module := b.module
                     present := (if b.present.contains b.module then b.present else b.module :: b.present).filter fun m => decide (m.toNat < moduleLimit) }
  let s2 := { s1 with ring := bootRing s1 s1.cur, rings := Vector.ofFn fun i => bootRing s1 (BitVec.ofNat 6 i.val) }
  let s3 := { s2 with
    links := Vector.ofFn fun i => bootLink (b.linksUp.contains (BitVec.ofNat 5 i.val)) s2.links[i], defl := true
    actors := [runtimeActor], mode := .running, recovering := s2.present.filter (· ≠ s2.module) }
  tellReady (flowletAgain (bootBinding s3)) b.portsUp 0

/-- BOOT (R415, R421, R425, R478): from module reset, with a module number that link-up assigns. -/
def execBoot (b : BootReport) (s : State) : Out :=
  .next (if s.mode ≠ .inReset || moduleLimit ≤ b.module.toNat then s
    else
      match bootBank with
      | none => bootHalts s b 1
      | some _ => if b.sameImage then bootModule s b else bootHalts s b 2)

/-- MODULE_RESET (R415, R422): all state returns to its reset values, but for the repair store, what the host has seen, and the model's own
fields (log 3). -/
def execModuleReset (s : State) : Out :=
  .next { State.reset with repair := s.repair, host := s.host, agenda := s.agenda, lag := s.lag, keep := s.keep, fresh := s.fresh }

/-! ### ATTEST (R479) -/

/-- The bytes of a report before its signature: nonce, firmware digest, security version, repair-store digest, module number, TIME (R479; the
layout is a DESIGN CHOICE, log 47). -/
def attestBody (s : State) (nonce : List Byte) : List Byte :=
  let bank := bootBank.getD 0
  padTo 160 (nonce ++ bytesOf (Config.imageDigest bank).toNat 48 ++ bytesOf (Config.imageVersion bank) 8 ++ bytesOf (Config.repairDigest s.repair).toNat 48
    ++ bytesOf s.module.toNat 8 ++ bytesOf s.reference.toNat 8)

/-- ATTEST (R479): the runtime takes the message, and sends the report to the host by host mailbox 0 (DESIGN CHOICE, log 47). -/
def execAttest (msg : List Byte) (s : State) : Out :=
  .next (match takeCommand s 2 msg with
    | none => s
    | some t =>
      if msg.length ≠ 64 then t
      else
        let body := attestBody t (msg.take 32)
        let dest : Word := (1#64 <<< 5) ||| (t.module.setWidth 64 <<< 20) ||| (2#64 <<< 34)
        runtimeSends t dest 7 (body ++ bytesOf (Config.signature body).toNat 96))

/-! ### Module faults (R443, R468, R482) -/

/-- The jobs that a module fault affects. -/
def faultedJobs (s : State) (k : ModuleFaultKind) : List (BitVec 16) :=
  match k with
  | .writeback j => [j]
  | .gsovf j => [j]
  | .thermal => ((s.actors.filter fun (a : Actor) => a.phase != .finished && a.aid != runtimeAid).map (·.jid)).eraseDups
  | .noHeartbeat m => ((s.elsewhere.filter fun e => e.2 == m).map (·.1)).eraseDups

/-- Recovery starts (R482): the host is told, a module that does not answer is left out, and the affected jobs are switched out and fail. -/
def faultModule (s : State) (k : ModuleFaultKind) : State :=
  let s1 := tellHost s (.fault k)
  let s2 := match k with
    | .noHeartbeat m => dropModule s1 m
    | _ => s1
  settleGang ((faultedJobs s k).foldl failJob s2)

/-- The jobs whose access-table entries cover a sector of a die's home (R287): those that an uncorrectable write-back of it hits (DESIGN CHOICE, log 43). -/
def jobsOfSector (s : State) (q : Nat) : List (BitVec 16) :=
  let table := sliceTable s (homeDie (32 * q)).toNat
  (s.ctl.filterMap fun (a, w) =>
    if table ≤ a ∧ a < table + 8192 ∧ (a - table) % 32 = 0 ∧ w.getLsbD 0 = true
        ∧ ((lookupKey s.ctl (a + 8)).getD 0).toNat ≤ 32 * q ∧ 32 * q < ((lookupKey s.ctl (a + 16)).getD 0).toNat then
      some (w.extractLsb' 16 16)
    else none).eraseDups

/-- The jobs of sectors whose write-back was lost fail (R292, R482). -/
def failLost (s : State) : State :=
  s.lost.foldl (fun t q => (jobsOfSector t q).foldl (fun u j => faultModule u (.writeback j)) t) { s with lost := [] }

/-- MODULE_FAULT (R482) -/
def execModuleFault (kind : ModuleFaultKind) (s : State) : Out := .next (faultModule s kind)

/-- Whether this module is the one that takes a silent module's part for a fault (R443): the root, or, of the root, the lowest-numbered other. -/
def hearsFor (s : State) (m : BitVec 14) : Bool :=
  if m = systemRoot s then lowestOther { s with module := m } == some s.module else systemRoot s == s.module

/-- HEARTBEAT_TIMEOUT (R443, R482): 1 s without a heartbeat from a present module. -/
def execHeartbeatTimeout (module : BitVec 14) (s : State) : Out :=
  .next (if isPresent s module && module != s.module && hearsFor s module then faultModule s (.noHeartbeat module) else s)

/-- A physical address of this module under another number of the module. -/
def rebase (s : State) (m : BitVec 14) (a : Nat) : Nat := if paModule a = s.module then a % 2 ^ 42 + m.toNat * 2 ^ 42 else a

/-- A booted spare takes the number of a failed module (R482 step 3): its storage answers to the new number, and the runtime's mailbox is bound anew. Nothing
happens on a module that holds an actor or a strand, which is no spare (log 99). -/
def renumber (s : State) (m : BitVec 14) : State :=
  let r := rebase s m
  let cells (l : List Host.Cell) : List Host.Cell := l.foldl (fun l c => memSet l (r c.1) c.2) []
  let nats (l : List Nat) : List Nat := l.foldl (fun l a => insertNat l (r a)) []
  let sectors (l : List Nat) : List Nat := l.foldl (fun l q => insertNat l (r (32 * q) / 32)) []
  if anyStrand s || (s.actors.any fun (a : Actor) => a.aid != runtimeAid && a.phase != .finished) || moduleLimit ≤ m.toNat then s
  else
    bootBinding { s with
      module := m, present := s.present.filter (fun x => x != s.module && x != m) ++ [m]
      mem := cells s.mem, full := nats s.full, bad := nats s.bad, lost := sectors s.lost, through := sectors s.through
      released := s.released.map fun p => (r p.1, p.2), ctl := s.ctl.foldl (fun l p => ctlPut l (r p.1) p.2) []
      lines := s.lines.map fun x => { x with older := x.older.map fun c => (r c.1, c.2) }
      l1 := [], ptes := [] }

/-! ### Writes of the control region (R7, R480, R481) -/

/-- REGISTER_WRITE (R7, R420, R440, R448, R480): an 8-byte write of a control register of this module. -/
def execRegisterWrite (pa : BitVec 56) (val : Word) (s : State) : Out :=
  if paModule pa.toNat ≠ s.module || !paControl pa.toNat || bitsAt pa.toNat 32 6 != 0 || pa.toNat % 8 != 0 then .next s
  else
    match ctlReg (BitVec.ofNat 3 (pa.toNat >>> 38)) (bitsAt pa.toNat 0 31) with
    | some r => .next (ctlWrite s pa.toNat r val)
    | none => .next s

/-- ACCESS_TABLE_STORE (R288, R480, R481): an 8-byte store to a word of a table takes effect alone. -/
def execAccessTableStore (pa : BitVec 56) (val : Word) (s : State) : Out :=
  .next (if paModule pa.toNat ≠ s.module || !paControl pa.toNat || bitsAt pa.toNat 32 6 != 0 || pa.toNat % 8 != 0 then s
    else
      match ctlReg (BitVec.ofNat 3 (pa.toNat >>> 38)) (bitsAt pa.toNat 0 31) with
      | some .word => ctlWrite s pa.toNat .word val
      | _ => s)

end Sys2Proof.Machine
end

