-- ==== Sys2Proof/Machine/ScalarFp.lean ====
section
/-! DEFINITION. Scalar floating point: majors 0x10 to 0x13 (spec/05 R124 to R131; spec/04 R87, R88). -/

namespace Sys2Proof.Machine

/-- An instruction of two floating-point sources with a floating-point result (R24, R124). -/
def opFF (d a b : BitVec 5) (ty : BitVec 2) (rm : BitVec 3) (f : FFmt → RMode → Nat → Nat → Nat × Flags) : M Unit := do
  let x ← rdX a
  let y ← rdX b
  let mode := roundMode (← get).hart.sc rm
  let t := scalarFmt ty
  wrFp d (f t mode (fpBits t x) (fpBits t y))
  nextPc

/-- An instruction of one floating-point source with a floating-point result. -/
def opF (d a : BitVec 5) (ty : BitVec 2) (rm : BitVec 3) (f : FFmt → RMode → Nat → Nat × Flags) : M Unit := do
  let x ← rdX a
  let mode := roundMode (← get).hart.sc rm
  let t := scalarFmt ty
  wrFp d (f t mode (fpBits t x))
  nextPc

/-- A fused multiply-add: the exact result is rounded once (R126). -/
def opFma (d a b c : BitVec 5) (ty : BitVec 2) (rm : BitVec 3) (negProd negAdd : Bool) : M Unit := do
  let x ← rdX a
  let y ← rdX b
  let z ← rdX c
  let mode := roundMode (← get).hart.sc rm
  let t := scalarFmt ty
  let xv := t.decode (fpBits t x)
  let zv := t.decode (fpBits t z)
  wrFp d (fmaVal t mode (if negProd then xv.negate else xv) (t.decode (fpBits t y)) (if negAdd then zv.negate else zv))
  nextPc

/-- A compare of two data: the result and NV; a signalling compare sets NV for any NaN (R128). -/
def cmpFlags (test : Ordering → Bool) (signalling : Bool) (x y : FVal) : Bool × Flags :=
  if x.isNan || y.isNan then (false, if signalling then flagNV else x.nv ||| y.nv)
  else (test (cmpVal x y), 0)

/-- A floating-point compare with its result 0 or 1 in s[d] (R128). -/
def opFcmp (d a b : BitVec 5) (ty : BitVec 2) (test : Ordering → Bool) (signalling : Bool) : M Unit := do
  let x ← rdX a
  let y ← rdX b
  let t := scalarFmt ty
  let r := cmpFlags test signalling (t.decode (fpBits t x)) (t.decode (fpBits t y))
  wrFp d (if r.1 then 1 else 0, r.2)
  nextPc

/-- Sign injection: x[w−2:0] with a new sign bit; no flag (R130). -/
def signInject (f : FFmt) (op : Bool → Bool → Bool) (x y : Nat) : Nat :=
  x % 2 ^ (f.width - 1) + f.signBit (op (x.testBit (f.width - 1)) (y.testBit (f.width - 1)))

/-- The integer operand of a conversion: .l, .lu, .w, .wu (R87, R131). -/
def cvtInt (code : BitVec 2) (x : Word) : Int :=
  match code with
  | 0#2 => x.toInt
  | 1#2 => x.toNat
  | 2#2 => (x.setWidth 32).toInt
  | _ => (x.setWidth 32).toNat

/-- Signedness and width of the integer type of a conversion (R87). -/
def cvtType (code : BitVec 2) : Bool × Nat :=
  match code with
  | 0#2 => (true, 64)
  | 1#2 => (false, 64)
  | 2#2 => (true, 32)
  | _ => (false, 32)

/-- fadd (R125) -/
def execFadd (d a b : BitVec 5) (ty : BitVec 2) (rm : BitVec 3) (s : State) : Out :=
  runScalar (opFF d a b ty rm fun t m x y => addVal t m (t.decode x) (t.decode y)) s

/-- fsub (R125) -/
def execFsub (d a b : BitVec 5) (ty : BitVec 2) (rm : BitVec 3) (s : State) : Out :=
  runScalar (opFF d a b ty rm fun t m x y => addVal t m (t.decode x) (t.decode y).negate) s

/-- fmul (R125) -/
def execFmul (d a b : BitVec 5) (ty : BitVec 2) (rm : BitVec 3) (s : State) : Out :=
  runScalar (opFF d a b ty rm fun t m x y => mulVal t m (t.decode x) (t.decode y)) s

/-- fdiv (R125) -/
def execFdiv (d a b : BitVec 5) (ty : BitVec 2) (rm : BitVec 3) (s : State) : Out :=
  runScalar (opFF d a b ty rm fun t m x y => divVal t m (t.decode x) (t.decode y)) s

/-- fsqrt (R125, R77) -/
def execFsqrt (d a : BitVec 5) (ty : BitVec 2) (rm : BitVec 3) (s : State) : Out :=
  runScalar (opF d a ty rm fun t m x => sqrtVal t m (t.decode x)) s

/-- fmin (R127) -/
def execFmin (d a b : BitVec 5) (ty : BitVec 2) (s : State) : Out :=
  runScalar (opFF d a b ty 0 fun t _ x y => minMaxBits t false x y) s

/-- fmax (R127) -/
def execFmax (d a b : BitVec 5) (ty : BitVec 2) (s : State) : Out :=
  runScalar (opFF d a b ty 0 fun t _ x y => minMaxBits t true x y) s

/-- feq (R128) -/
def execFeq (d a b : BitVec 5) (ty : BitVec 2) (s : State) : Out :=
  runScalar (opFcmp d a b ty (fun o => o == .eq) false) s

/-- flt (R128) -/
def execFlt (d a b : BitVec 5) (ty : BitVec 2) (s : State) : Out :=
  runScalar (opFcmp d a b ty (fun o => o == .lt) true) s

/-- fle (R128) -/
def execFle (d a b : BitVec 5) (ty : BitVec 2) (s : State) : Out :=
  runScalar (opFcmp d a b ty (fun o => o != .gt) true) s

/-- fclass (R129) -/
def execFclass (d a : BitVec 5) (ty : BitVec 2) (s : State) : Out :=
  runScalar (opF d a ty 0 fun t _ x => (classBits t x, 0)) s

/-- fsgnj (R130) -/
def execFsgnj (d a b : BitVec 5) (ty : BitVec 2) (s : State) : Out :=
  runScalar (opFF d a b ty 0 fun t _ x y => (signInject t (fun _ q => q) x y, 0)) s

/-- fsgnjn (R130) -/
def execFsgnjn (d a b : BitVec 5) (ty : BitVec 2) (s : State) : Out :=
  runScalar (opFF d a b ty 0 fun t _ x y => (signInject t (fun _ q => !q) x y, 0)) s

/-- fsgnjx (R130) -/
def execFsgnjx (d a b : BitVec 5) (ty : BitVec 2) (s : State) : Out :=
  runScalar (opFF d a b ty 0 fun t _ x y => (signInject t (fun p q => p != q) x y, 0)) s

/-- fcvt fp ← fp (R131): src is the source type, ty the destination. -/
def execFcvtFF (d a : BitVec 5) (src ty : BitVec 2) (rm : BitVec 3) (s : State) : Out :=
  runScalar (do
    let x ← rdX a
    let mode := roundMode (← get).hart.sc rm
    wrFp d (convFF (scalarFmt src) (scalarFmt ty) mode (fpBits (scalarFmt src) x))
    nextPc) s

/-- fcvt fp ← integer (R131): src is the integer type, ty the destination. -/
def execFcvtFI (d a : BitVec 5) (src ty : BitVec 2) (rm : BitVec 3) (s : State) : Out :=
  runScalar (do
    let x ← rdX a
    let mode := roundMode (← get).hart.sc rm
    wrFp d (convIF (scalarFmt ty) mode (cvtInt src x))
    nextPc) s

/-- fcvt integer ← fp (R131): dst is the integer type, ty the source; the result is sign-extended for .w, zero-extended for .wu. -/
def execFcvtIF (d a : BitVec 5) (dst ty : BitVec 2) (rm : BitVec 3) (s : State) : Out :=
  runScalar (do
    let x ← rdX a
    let mode := roundMode (← get).hart.sc rm
    let r := convFI (scalarFmt ty) mode (cvtType dst).1 (cvtType dst).2 (fpBits (scalarFmt ty) x)
    wrX d (BitVec.ofInt 64 r.1)
    raiseFlags r.2
    nextPc) s

/-- fmadd (R126) -/
def execFmadd (d a b c : BitVec 5) (ty : BitVec 2) (rm : BitVec 3) (s : State) : Out :=
  runScalar (opFma d a b c ty rm false false) s

/-- fmsub (R126) -/
def execFmsub (d a b c : BitVec 5) (ty : BitVec 2) (rm : BitVec 3) (s : State) : Out :=
  runScalar (opFma d a b c ty rm false true) s

/-- fnmadd (R126) -/
def execFnmadd (d a b c : BitVec 5) (ty : BitVec 2) (rm : BitVec 3) (s : State) : Out :=
  runScalar (opFma d a b c ty rm true true) s

end Sys2Proof.Machine
end

