-- ==== Sys2Proof/Machine/VCvt.lean ====
section
/-! DEFINITION. Conversions and blocks: major 0x2D (spec/04 R98; spec/07 R178 to R182). -/

namespace Sys2Proof.Machine

/-- vcvt (R178) -/
def execVcvt (d a : BitVec 6) (ty : BitVec 4) (km : BitVec 3) (cv : BitVec 1) (s : State) : Out :=
  issueV (wordV 0x2D d a (ty.setWidth 6) km 0 cv) (pure (.cvt d a ty km)) s

/-- vxpand (R180) -/
def execVxpand (d a f : BitVec 6) (km : BitVec 3) (cv : BitVec 1) (s : State) : Out :=
  issueV (wordV 0x2D d a f km 1 cv) (pure (.xpand d a f km)) s

/-- vqblk.f4 (R181: elements to v[d], scales to v[b]) -/
def execVqblkF4 (d a b : BitVec 6) (km : BitVec 3) (cv : BitVec 1) (s : State) : Out :=
  issueV (wordV 0x2D d a b km 2 cv) (pure (.qblk false d b a km)) s

/-- vqblk.i8 (R181: elements to v[d], scales to v[b]) -/
def execVqblkI8 (d a b : BitVec 6) (km : BitVec 3) (cv : BitVec 1) (s : State) : Out :=
  issueV (wordV 0x2D d a b km 3 cv) (pure (.qblk true d b a km)) s

/-- vdqblk.f4 (R182) -/
def execVdqblkF4 (d a b : BitVec 6) (km : BitVec 3) (cv : BitVec 1) (s : State) : Out :=
  issueV (wordV 0x2D d a b km 4 cv) (pure (.dqblk false d a b km)) s

/-- vdqblk.i8 (R182) -/
def execVdqblkI8 (d a b : BitVec 6) (km : BitVec 3) (cv : BitVec 1) (s : State) : Out :=
  issueV (wordV 0x2D d a b km 5 cv) (pure (.dqblk true d a b km)) s

end Sys2Proof.Machine
end

