-- ==== Sys2Proof/Machine/VEngine.lean ====
section
/-! DEFINITION. The queued engine instructions: majors 0x38 and 0x39 (spec/17 R326, R337, R339; spec/18 R350 to R354). -/

namespace Sys2Proof.Machine

/-- sbind (R337) -/
def execSbind (a : BitVec 5) (v : BitVec 6) (s : State) : Out :=
  issueV (wordR 0x38 0 a 0 (0#5 ++ v)) (do return .sbind v (← rdX a)) s

/-- sunbind (R337) -/
def execSunbind (v : BitVec 6) (s : State) : Out :=
  issueV (wordR 0x38 0 0 0 (1#5 ++ v)) (pure (.sunbind v)) s

/-- sdrain (R337) -/
def execSdrain (v : BitVec 6) (s : State) : Out :=
  issueV (wordR 0x38 0 0 0 (2#5 ++ v)) (pure (.sdrain v)) s

/-- sisect.c (R339) -/
def execSisectC (d : BitVec 5) (j m : BitVec 3) (s : State) : Out :=
  issueV (wordR 0x38 d (j.setWidth 5) (m.setWidth 5) (5#5 ++ 0#6)) (pure (.sisectC d j m)) s

/-- sisect.w (R339) -/
def execSisectW (d : BitVec 5) (j m : BitVec 3) (v : BitVec 6) (s : State) : Out :=
  issueV (wordR 0x38 d (j.setWidth 5) (m.setWidth 5) (6#5 ++ v)) (pure (.sisectW v d j m)) s

/-- chase (R352) -/
def execChase (d a : BitVec 6) (b : BitVec 5) (km : BitVec 3) (s : State) : Out :=
  issueV (wordVS 0x39 d a b 0 km 0 0) (do return .chase d a (← rdX b) km) s

/-- pgather (R352) -/
def execPgather (d a : BitVec 6) (b : BitVec 5) (km : BitVec 3) (s : State) : Out :=
  issueV (wordVS 0x39 d a b 0 km 1 0) (do return .pgather d a (← rdX b) km) s

end Sys2Proof.Machine
end

