-- ==== Sys2Proof/Machine/VFp.lean ====
section
/-! DEFINITION. Vector floating-point arithmetic: majors 0x25 and 0x26 (spec/04 R98; spec/06 R156 to R160). -/

namespace Sys2Proof.Machine

/-- vfadd.vv (R156) -/
def execVfaddVV (d a b : BitVec 6) (km : BitVec 3) (cv : BitVec 1) (s : State) : Out :=
  issueV (wordV 0x25 d a b km 0 cv) (pure (.fp .add d a (.reg b) km)) s

/-- vfsub.vv (R156) -/
def execVfsubVV (d a b : BitVec 6) (km : BitVec 3) (cv : BitVec 1) (s : State) : Out :=
  issueV (wordV 0x25 d a b km 1 cv) (pure (.fp .sub d a (.reg b) km)) s

/-- vfmul.vv (R156) -/
def execVfmulVV (d a b : BitVec 6) (km : BitVec 3) (cv : BitVec 1) (s : State) : Out :=
  issueV (wordV 0x25 d a b km 2 cv) (pure (.fp .mul d a (.reg b) km)) s

/-- vfdiv.vv (R156) -/
def execVfdivVV (d a b : BitVec 6) (km : BitVec 3) (cv : BitVec 1) (s : State) : Out :=
  issueV (wordV 0x25 d a b km 3 cv) (pure (.fp .div d a (.reg b) km)) s

/-- vfsqrt (R158) -/
def execVfsqrt (d a : BitVec 6) (km : BitVec 3) (cv : BitVec 1) (s : State) : Out :=
  issueV (wordV 0x25 d a 0 km 4 cv) (pure (.fp .sqrt d a (.reg a) km)) s

/-- vfrsqrt (R158) -/
def execVfrsqrt (d a : BitVec 6) (km : BitVec 3) (cv : BitVec 1) (s : State) : Out :=
  issueV (wordV 0x25 d a 0 km 5 cv) (pure (.fp .rsqrt d a (.reg a) km)) s

/-- vfma.vv (R156) -/
def execVfmaVV (d a b : BitVec 6) (km : BitVec 3) (cv : BitVec 1) (s : State) : Out :=
  issueV (wordV 0x25 d a b km 6 cv) (pure (.fp .fma d a (.reg b) km)) s

/-- vfms.vv (R156) -/
def execVfmsVV (d a b : BitVec 6) (km : BitVec 3) (cv : BitVec 1) (s : State) : Out :=
  issueV (wordV 0x25 d a b km 7 cv) (pure (.fp .fms d a (.reg b) km)) s

/-- vfnma.vv (R156) -/
def execVfnmaVV (d a b : BitVec 6) (km : BitVec 3) (cv : BitVec 1) (s : State) : Out :=
  issueV (wordV 0x25 d a b km 8 cv) (pure (.fp .fnma d a (.reg b) km)) s

/-- vfmin.vv (R156) -/
def execVfminVV (d a b : BitVec 6) (km : BitVec 3) (cv : BitVec 1) (s : State) : Out :=
  issueV (wordV 0x25 d a b km 9 cv) (pure (.fp .min d a (.reg b) km)) s

/-- vfmax.vv (R156) -/
def execVfmaxVV (d a b : BitVec 6) (km : BitVec 3) (cv : BitVec 1) (s : State) : Out :=
  issueV (wordV 0x25 d a b km 10 cv) (pure (.fp .max d a (.reg b) km)) s

/-- vfclass (R157) -/
def execVfclass (d a : BitVec 6) (km : BitVec 3) (cv : BitVec 1) (s : State) : Out :=
  issueV (wordV 0x25 d a 0 km 11 cv) (pure (.fp .fclass d a (.reg a) km)) s

/-- vfsgnj.vv (R156) -/
def execVfsgnjVV (d a b : BitVec 6) (km : BitVec 3) (cv : BitVec 1) (s : State) : Out :=
  issueV (wordV 0x25 d a b km 12 cv) (pure (.fp .sgnj d a (.reg b) km)) s

/-- vfsgnjn.vv (R156) -/
def execVfsgnjnVV (d a b : BitVec 6) (km : BitVec 3) (cv : BitVec 1) (s : State) : Out :=
  issueV (wordV 0x25 d a b km 13 cv) (pure (.fp .sgnjn d a (.reg b) km)) s

/-- vfsgnjx.vv (R156) -/
def execVfsgnjxVV (d a b : BitVec 6) (km : BitVec 3) (cv : BitVec 1) (s : State) : Out :=
  issueV (wordV 0x25 d a b km 14 cv) (pure (.fp .sgnjx d a (.reg b) km)) s

/-- vfadd.vs (R156) -/
def execVfaddVS (d a : BitVec 6) (b : BitVec 5) (km : BitVec 3) (cv : BitVec 1) (s : State) : Out :=
  issueV (wordVS 0x26 d a b 0 km 0 cv) (do return .fp .add d a (.val (← rdX b)) km) s

/-- vfsub.vs (R156) -/
def execVfsubVS (d a : BitVec 6) (b : BitVec 5) (km : BitVec 3) (cv : BitVec 1) (s : State) : Out :=
  issueV (wordVS 0x26 d a b 0 km 1 cv) (do return .fp .sub d a (.val (← rdX b)) km) s

/-- vfmul.vs (R156) -/
def execVfmulVS (d a : BitVec 6) (b : BitVec 5) (km : BitVec 3) (cv : BitVec 1) (s : State) : Out :=
  issueV (wordVS 0x26 d a b 0 km 2 cv) (do return .fp .mul d a (.val (← rdX b)) km) s

/-- vfdiv.vs (R156) -/
def execVfdivVS (d a : BitVec 6) (b : BitVec 5) (km : BitVec 3) (cv : BitVec 1) (s : State) : Out :=
  issueV (wordVS 0x26 d a b 0 km 3 cv) (do return .fp .div d a (.val (← rdX b)) km) s

/-- vfma.vs (R156) -/
def execVfmaVS (d a : BitVec 6) (b : BitVec 5) (km : BitVec 3) (cv : BitVec 1) (s : State) : Out :=
  issueV (wordVS 0x26 d a b 0 km 6 cv) (do return .fp .fma d a (.val (← rdX b)) km) s

/-- vfms.vs (R156) -/
def execVfmsVS (d a : BitVec 6) (b : BitVec 5) (km : BitVec 3) (cv : BitVec 1) (s : State) : Out :=
  issueV (wordVS 0x26 d a b 0 km 7 cv) (do return .fp .fms d a (.val (← rdX b)) km) s

/-- vfnma.vs (R156) -/
def execVfnmaVS (d a : BitVec 6) (b : BitVec 5) (km : BitVec 3) (cv : BitVec 1) (s : State) : Out :=
  issueV (wordVS 0x26 d a b 0 km 8 cv) (do return .fp .fnma d a (.val (← rdX b)) km) s

/-- vfmin.vs (R156) -/
def execVfminVS (d a : BitVec 6) (b : BitVec 5) (km : BitVec 3) (cv : BitVec 1) (s : State) : Out :=
  issueV (wordVS 0x26 d a b 0 km 9 cv) (do return .fp .min d a (.val (← rdX b)) km) s

/-- vfmax.vs (R156) -/
def execVfmaxVS (d a : BitVec 6) (b : BitVec 5) (km : BitVec 3) (cv : BitVec 1) (s : State) : Out :=
  issueV (wordVS 0x26 d a b 0 km 10 cv) (do return .fp .max d a (.val (← rdX b)) km) s

/-- vfsgnj.vs (R156) -/
def execVfsgnjVS (d a : BitVec 6) (b : BitVec 5) (km : BitVec 3) (cv : BitVec 1) (s : State) : Out :=
  issueV (wordVS 0x26 d a b 0 km 12 cv) (do return .fp .sgnj d a (.val (← rdX b)) km) s

/-- vfsgnjn.vs (R156) -/
def execVfsgnjnVS (d a : BitVec 6) (b : BitVec 5) (km : BitVec 3) (cv : BitVec 1) (s : State) : Out :=
  issueV (wordVS 0x26 d a b 0 km 13 cv) (do return .fp .sgnjn d a (.val (← rdX b)) km) s

/-- vfsgnjx.vs (R156) -/
def execVfsgnjxVS (d a : BitVec 6) (b : BitVec 5) (km : BitVec 3) (cv : BitVec 1) (s : State) : Out :=
  issueV (wordVS 0x26 d a b 0 km 14 cv) (do return .fp .sgnjx d a (.val (← rdX b)) km) s

end Sys2Proof.Machine
end

