-- ==== Sys2Proof/Machine/VInt.lean ====
section
/-! DEFINITION. Vector integer arithmetic: majors 0x21 to 0x24 (spec/04 R98; spec/06 R147 to R155). -/

namespace Sys2Proof.Machine

/-- vadd.vv (R151) -/
def execVaddVV (d a b : BitVec 6) (km : BitVec 3) (cv : BitVec 1) (s : State) : Out :=
  issueV (wordV 0x21 d a b km 0 cv) (pure (.int .add d a (.reg b) km)) s

/-- vsub.vv (R151) -/
def execVsubVV (d a b : BitVec 6) (km : BitVec 3) (cv : BitVec 1) (s : State) : Out :=
  issueV (wordV 0x21 d a b km 1 cv) (pure (.int .sub d a (.reg b) km)) s

/-- vmul.vv (R151) -/
def execVmulVV (d a b : BitVec 6) (km : BitVec 3) (cv : BitVec 1) (s : State) : Out :=
  issueV (wordV 0x21 d a b km 2 cv) (pure (.int .mul d a (.reg b) km)) s

/-- vmulh.vv (R151) -/
def execVmulhVV (d a b : BitVec 6) (km : BitVec 3) (cv : BitVec 1) (s : State) : Out :=
  issueV (wordV 0x21 d a b km 3 cv) (pure (.int .mulh d a (.reg b) km)) s

/-- vdiv.vv (R151) -/
def execVdivVV (d a b : BitVec 6) (km : BitVec 3) (cv : BitVec 1) (s : State) : Out :=
  issueV (wordV 0x21 d a b km 4 cv) (pure (.int .div d a (.reg b) km)) s

/-- vrem.vv (R151) -/
def execVremVV (d a b : BitVec 6) (km : BitVec 3) (cv : BitVec 1) (s : State) : Out :=
  issueV (wordV 0x21 d a b km 5 cv) (pure (.int .rem d a (.reg b) km)) s

/-- vmin.vv (R151) -/
def execVminVV (d a b : BitVec 6) (km : BitVec 3) (cv : BitVec 1) (s : State) : Out :=
  issueV (wordV 0x21 d a b km 6 cv) (pure (.int .min d a (.reg b) km)) s

/-- vmax.vv (R151) -/
def execVmaxVV (d a b : BitVec 6) (km : BitVec 3) (cv : BitVec 1) (s : State) : Out :=
  issueV (wordV 0x21 d a b km 7 cv) (pure (.int .max d a (.reg b) km)) s

/-- vand.vv (R151) -/
def execVandVV (d a b : BitVec 6) (km : BitVec 3) (cv : BitVec 1) (s : State) : Out :=
  issueV (wordV 0x21 d a b km 8 cv) (pure (.int .and d a (.reg b) km)) s

/-- vor.vv (R151) -/
def execVorVV (d a b : BitVec 6) (km : BitVec 3) (cv : BitVec 1) (s : State) : Out :=
  issueV (wordV 0x21 d a b km 9 cv) (pure (.int .or d a (.reg b) km)) s

/-- vxor.vv (R151) -/
def execVxorVV (d a b : BitVec 6) (km : BitVec 3) (cv : BitVec 1) (s : State) : Out :=
  issueV (wordV 0x21 d a b km 10 cv) (pure (.int .xor d a (.reg b) km)) s

/-- vsll.vv (R151) -/
def execVsllVV (d a b : BitVec 6) (km : BitVec 3) (cv : BitVec 1) (s : State) : Out :=
  issueV (wordV 0x21 d a b km 11 cv) (pure (.int .sll d a (.reg b) km)) s

/-- vsrl.vv (R151) -/
def execVsrlVV (d a b : BitVec 6) (km : BitVec 3) (cv : BitVec 1) (s : State) : Out :=
  issueV (wordV 0x21 d a b km 12 cv) (pure (.int .srl d a (.reg b) km)) s

/-- vsra.vv (R151) -/
def execVsraVV (d a b : BitVec 6) (km : BitVec 3) (cv : BitVec 1) (s : State) : Out :=
  issueV (wordV 0x21 d a b km 13 cv) (pure (.int .sra d a (.reg b) km)) s

/-- vsadd.vv (R151) -/
def execVsaddVV (d a b : BitVec 6) (km : BitVec 3) (cv : BitVec 1) (s : State) : Out :=
  issueV (wordV 0x21 d a b km 14 cv) (pure (.int .sadd d a (.reg b) km)) s

/-- vssub.vv (R151) -/
def execVssubVV (d a b : BitVec 6) (km : BitVec 3) (cv : BitVec 1) (s : State) : Out :=
  issueV (wordV 0x21 d a b km 15 cv) (pure (.int .ssub d a (.reg b) km)) s

/-- vadd.vs (R151) -/
def execVaddVS (d a : BitVec 6) (b : BitVec 5) (km : BitVec 3) (cv : BitVec 1) (s : State) : Out :=
  issueV (wordVS 0x22 d a b 0 km 0 cv) (do return .int .add d a (.val (← rdX b)) km) s

/-- vsub.vs (R151) -/
def execVsubVS (d a : BitVec 6) (b : BitVec 5) (km : BitVec 3) (cv : BitVec 1) (s : State) : Out :=
  issueV (wordVS 0x22 d a b 0 km 1 cv) (do return .int .sub d a (.val (← rdX b)) km) s

/-- vmul.vs (R151) -/
def execVmulVS (d a : BitVec 6) (b : BitVec 5) (km : BitVec 3) (cv : BitVec 1) (s : State) : Out :=
  issueV (wordVS 0x22 d a b 0 km 2 cv) (do return .int .mul d a (.val (← rdX b)) km) s

/-- vmulh.vs (R151) -/
def execVmulhVS (d a : BitVec 6) (b : BitVec 5) (km : BitVec 3) (cv : BitVec 1) (s : State) : Out :=
  issueV (wordVS 0x22 d a b 0 km 3 cv) (do return .int .mulh d a (.val (← rdX b)) km) s

/-- vdiv.vs (R151) -/
def execVdivVS (d a : BitVec 6) (b : BitVec 5) (km : BitVec 3) (cv : BitVec 1) (s : State) : Out :=
  issueV (wordVS 0x22 d a b 0 km 4 cv) (do return .int .div d a (.val (← rdX b)) km) s

/-- vrem.vs (R151) -/
def execVremVS (d a : BitVec 6) (b : BitVec 5) (km : BitVec 3) (cv : BitVec 1) (s : State) : Out :=
  issueV (wordVS 0x22 d a b 0 km 5 cv) (do return .int .rem d a (.val (← rdX b)) km) s

/-- vmin.vs (R151) -/
def execVminVS (d a : BitVec 6) (b : BitVec 5) (km : BitVec 3) (cv : BitVec 1) (s : State) : Out :=
  issueV (wordVS 0x22 d a b 0 km 6 cv) (do return .int .min d a (.val (← rdX b)) km) s

/-- vmax.vs (R151) -/
def execVmaxVS (d a : BitVec 6) (b : BitVec 5) (km : BitVec 3) (cv : BitVec 1) (s : State) : Out :=
  issueV (wordVS 0x22 d a b 0 km 7 cv) (do return .int .max d a (.val (← rdX b)) km) s

/-- vand.vs (R151) -/
def execVandVS (d a : BitVec 6) (b : BitVec 5) (km : BitVec 3) (cv : BitVec 1) (s : State) : Out :=
  issueV (wordVS 0x22 d a b 0 km 8 cv) (do return .int .and d a (.val (← rdX b)) km) s

/-- vor.vs (R151) -/
def execVorVS (d a : BitVec 6) (b : BitVec 5) (km : BitVec 3) (cv : BitVec 1) (s : State) : Out :=
  issueV (wordVS 0x22 d a b 0 km 9 cv) (do return .int .or d a (.val (← rdX b)) km) s

/-- vxor.vs (R151) -/
def execVxorVS (d a : BitVec 6) (b : BitVec 5) (km : BitVec 3) (cv : BitVec 1) (s : State) : Out :=
  issueV (wordVS 0x22 d a b 0 km 10 cv) (do return .int .xor d a (.val (← rdX b)) km) s

/-- vsll.vs (R151) -/
def execVsllVS (d a : BitVec 6) (b : BitVec 5) (km : BitVec 3) (cv : BitVec 1) (s : State) : Out :=
  issueV (wordVS 0x22 d a b 0 km 11 cv) (do return .int .sll d a (.val (← rdX b)) km) s

/-- vsrl.vs (R151) -/
def execVsrlVS (d a : BitVec 6) (b : BitVec 5) (km : BitVec 3) (cv : BitVec 1) (s : State) : Out :=
  issueV (wordVS 0x22 d a b 0 km 12 cv) (do return .int .srl d a (.val (← rdX b)) km) s

/-- vsra.vs (R151) -/
def execVsraVS (d a : BitVec 6) (b : BitVec 5) (km : BitVec 3) (cv : BitVec 1) (s : State) : Out :=
  issueV (wordVS 0x22 d a b 0 km 13 cv) (do return .int .sra d a (.val (← rdX b)) km) s

/-- vsadd.vs (R151) -/
def execVsaddVS (d a : BitVec 6) (b : BitVec 5) (km : BitVec 3) (cv : BitVec 1) (s : State) : Out :=
  issueV (wordVS 0x22 d a b 0 km 14 cv) (do return .int .sadd d a (.val (← rdX b)) km) s

/-- vssub.vs (R151) -/
def execVssubVS (d a : BitVec 6) (b : BitVec 5) (km : BitVec 3) (cv : BitVec 1) (s : State) : Out :=
  issueV (wordVS 0x22 d a b 0 km 15 cv) (do return .int .ssub d a (.val (← rdX b)) km) s

/-- vrsub.vs (R151) -/
def execVrsubVS (d a : BitVec 6) (b : BitVec 5) (km : BitVec 3) (cv : BitVec 1) (s : State) : Out :=
  issueV (wordVS 0x22 d a b 1 km 0 cv) (do return .int .rsub d a (.val (← rdX b)) km) s

/-- vmadd.vs (R153) -/
def execVmaddVS (d a : BitVec 6) (b : BitVec 5) (km : BitVec 3) (cv : BitVec 1) (s : State) : Out :=
  issueV (wordVS 0x22 d a b 1 km 1 cv) (do return .macc false d a (.val (← rdX b)) km) s

/-- vmsac.vs (R153) -/
def execVmsacVS (d a : BitVec 6) (b : BitVec 5) (km : BitVec 3) (cv : BitVec 1) (s : State) : Out :=
  issueV (wordVS 0x22 d a b 1 km 2 cv) (do return .macc true d a (.val (← rdX b)) km) s

/-- vwadd.vs (R154) -/
def execVwaddVS (d a : BitVec 6) (b : BitVec 5) (km : BitVec 3) (cv : BitVec 1) (s : State) : Out :=
  issueV (wordVS 0x22 d a b 1 km 3 cv) (do return .widen false d a (.val (← rdX b)) km) s

/-- vwmul.vs (R154) -/
def execVwmulVS (d a : BitVec 6) (b : BitVec 5) (km : BitVec 3) (cv : BitVec 1) (s : State) : Out :=
  issueV (wordVS 0x22 d a b 1 km 4 cv) (do return .widen true d a (.val (← rdX b)) km) s

/-- vadd.vi (R151) -/
def execVaddVI (d a imm : BitVec 6) (km : BitVec 3) (cv : BitVec 1) (s : State) : Out :=
  issueV (wordV 0x23 d a imm km 0 cv) (pure (.int .add d a (.val (sx imm)) km)) s

/-- vrsub.vi (R151) -/
def execVrsubVI (d a imm : BitVec 6) (km : BitVec 3) (cv : BitVec 1) (s : State) : Out :=
  issueV (wordV 0x23 d a imm km 1 cv) (pure (.int .rsub d a (.val (sx imm)) km)) s

/-- vand.vi (R151) -/
def execVandVI (d a imm : BitVec 6) (km : BitVec 3) (cv : BitVec 1) (s : State) : Out :=
  issueV (wordV 0x23 d a imm km 2 cv) (pure (.int .and d a (.val (sx imm)) km)) s

/-- vor.vi (R151) -/
def execVorVI (d a imm : BitVec 6) (km : BitVec 3) (cv : BitVec 1) (s : State) : Out :=
  issueV (wordV 0x23 d a imm km 3 cv) (pure (.int .or d a (.val (sx imm)) km)) s

/-- vxor.vi (R151) -/
def execVxorVI (d a imm : BitVec 6) (km : BitVec 3) (cv : BitVec 1) (s : State) : Out :=
  issueV (wordV 0x23 d a imm km 4 cv) (pure (.int .xor d a (.val (sx imm)) km)) s

/-- vsll.vi (R151) -/
def execVsllVI (d a imm : BitVec 6) (km : BitVec 3) (cv : BitVec 1) (s : State) : Out :=
  issueV (wordV 0x23 d a imm km 5 cv) (pure (.int .sll d a (.val (zx imm)) km)) s

/-- vsrl.vi (R151) -/
def execVsrlVI (d a imm : BitVec 6) (km : BitVec 3) (cv : BitVec 1) (s : State) : Out :=
  issueV (wordV 0x23 d a imm km 6 cv) (pure (.int .srl d a (.val (zx imm)) km)) s

/-- vsra.vi (R151) -/
def execVsraVI (d a imm : BitVec 6) (km : BitVec 3) (cv : BitVec 1) (s : State) : Out :=
  issueV (wordV 0x23 d a imm km 7 cv) (pure (.int .sra d a (.val (zx imm)) km)) s

/-- vsadd.vi (R151) -/
def execVsaddVI (d a imm : BitVec 6) (km : BitVec 3) (cv : BitVec 1) (s : State) : Out :=
  issueV (wordV 0x23 d a imm km 8 cv) (pure (.int .sadd d a (.val (sx imm)) km)) s

/-- vmin.vi (R151) -/
def execVminVI (d a imm : BitVec 6) (km : BitVec 3) (cv : BitVec 1) (s : State) : Out :=
  issueV (wordV 0x23 d a imm km 9 cv) (pure (.int .min d a (.val (sx imm)) km)) s

/-- vmax.vi (R151) -/
def execVmaxVI (d a imm : BitVec 6) (km : BitVec 3) (cv : BitVec 1) (s : State) : Out :=
  issueV (wordV 0x23 d a imm km 10 cv) (pure (.int .max d a (.val (sx imm)) km)) s

/-- vmadd.vv (R153) -/
def execVmaddVV (d a b : BitVec 6) (km : BitVec 3) (cv : BitVec 1) (s : State) : Out :=
  issueV (wordV 0x24 d a b km 0 cv) (pure (.macc false d a (.reg b) km)) s

/-- vmsac.vv (R153) -/
def execVmsacVV (d a b : BitVec 6) (km : BitVec 3) (cv : BitVec 1) (s : State) : Out :=
  issueV (wordV 0x24 d a b km 1 cv) (pure (.macc true d a (.reg b) km)) s

/-- vwadd.vv (R154) -/
def execVwaddVV (d a b : BitVec 6) (km : BitVec 3) (cv : BitVec 1) (s : State) : Out :=
  issueV (wordV 0x24 d a b km 2 cv) (pure (.widen false d a (.reg b) km)) s

/-- vwmul.vv (R154) -/
def execVwmulVV (d a b : BitVec 6) (km : BitVec 3) (cv : BitVec 1) (s : State) : Out :=
  issueV (wordV 0x24 d a b km 3 cv) (pure (.widen true d a (.reg b) km)) s

/-- vdot4 (R155) -/
def execVdot4 (d a b : BitVec 6) (km : BitVec 3) (cv : BitVec 1) (s : State) : Out :=
  issueV (wordV 0x24 d a b km 4 cv) (pure (.dot4 false d a b km)) s

/-- vdot4.sat (R155) -/
def execVdot4Sat (d a b : BitVec 6) (km : BitVec 3) (cv : BitVec 1) (s : State) : Out :=
  issueV (wordV 0x24 d a b km 5 cv) (pure (.dot4 true d a b km)) s

end Sys2Proof.Machine
end

