-- ==== Sys2Proof/Machine/VMask.lean ====
section
/-! DEFINITION. Vector compares and mask instructions: majors 0x27 and 0x28 (spec/04 R98; spec/07 R161 to R164). -/

namespace Sys2Proof.Machine

/-- vmseq.vv (R161) -/
def execVmseqVV (d : BitVec 3) (a b : BitVec 6) (km : BitVec 3) (cv : BitVec 1) (s : State) : Out :=
  issueV (wordV 0x27 (d.setWidth 6) a b km 0 cv) (pure (.cmp .eq d a (.reg b) km)) s

/-- vmsne.vv (R161) -/
def execVmsneVV (d : BitVec 3) (a b : BitVec 6) (km : BitVec 3) (cv : BitVec 1) (s : State) : Out :=
  issueV (wordV 0x27 (d.setWidth 6) a b km 1 cv) (pure (.cmp .ne d a (.reg b) km)) s

/-- vmslt.vv (R161) -/
def execVmsltVV (d : BitVec 3) (a b : BitVec 6) (km : BitVec 3) (cv : BitVec 1) (s : State) : Out :=
  issueV (wordV 0x27 (d.setWidth 6) a b km 2 cv) (pure (.cmp .lt d a (.reg b) km)) s

/-- vmsle.vv (R161) -/
def execVmsleVV (d : BitVec 3) (a b : BitVec 6) (km : BitVec 3) (cv : BitVec 1) (s : State) : Out :=
  issueV (wordV 0x27 (d.setWidth 6) a b km 3 cv) (pure (.cmp .le d a (.reg b) km)) s

/-- vmfeq.vv (R161) -/
def execVmfeqVV (d : BitVec 3) (a b : BitVec 6) (km : BitVec 3) (cv : BitVec 1) (s : State) : Out :=
  issueV (wordV 0x27 (d.setWidth 6) a b km 4 cv) (pure (.cmp .feq d a (.reg b) km)) s

/-- vmflt.vv (R161) -/
def execVmfltVV (d : BitVec 3) (a b : BitVec 6) (km : BitVec 3) (cv : BitVec 1) (s : State) : Out :=
  issueV (wordV 0x27 (d.setWidth 6) a b km 5 cv) (pure (.cmp .flt d a (.reg b) km)) s

/-- vmfle.vv (R161) -/
def execVmfleVV (d : BitVec 3) (a b : BitVec 6) (km : BitVec 3) (cv : BitVec 1) (s : State) : Out :=
  issueV (wordV 0x27 (d.setWidth 6) a b km 6 cv) (pure (.cmp .fle d a (.reg b) km)) s

/-- vmseq.vs (R161) -/
def execVmseqVS (d : BitVec 3) (a : BitVec 6) (b : BitVec 5) (km : BitVec 3) (cv : BitVec 1) (s : State) : Out :=
  issueV (wordVS 0x27 (d.setWidth 6) a b 0 km 8 cv) (do return .cmp .eq d a (.val (← rdX b)) km) s

/-- vmsne.vs (R161) -/
def execVmsneVS (d : BitVec 3) (a : BitVec 6) (b : BitVec 5) (km : BitVec 3) (cv : BitVec 1) (s : State) : Out :=
  issueV (wordVS 0x27 (d.setWidth 6) a b 0 km 9 cv) (do return .cmp .ne d a (.val (← rdX b)) km) s

/-- vmslt.vs (R161) -/
def execVmsltVS (d : BitVec 3) (a : BitVec 6) (b : BitVec 5) (km : BitVec 3) (cv : BitVec 1) (s : State) : Out :=
  issueV (wordVS 0x27 (d.setWidth 6) a b 0 km 10 cv) (do return .cmp .lt d a (.val (← rdX b)) km) s

/-- vmsle.vs (R161) -/
def execVmsleVS (d : BitVec 3) (a : BitVec 6) (b : BitVec 5) (km : BitVec 3) (cv : BitVec 1) (s : State) : Out :=
  issueV (wordVS 0x27 (d.setWidth 6) a b 0 km 11 cv) (do return .cmp .le d a (.val (← rdX b)) km) s

/-- vmfeq.vs (R161) -/
def execVmfeqVS (d : BitVec 3) (a : BitVec 6) (b : BitVec 5) (km : BitVec 3) (cv : BitVec 1) (s : State) : Out :=
  issueV (wordVS 0x27 (d.setWidth 6) a b 0 km 12 cv) (do return .cmp .feq d a (.val (← rdX b)) km) s

/-- vmflt.vs (R161) -/
def execVmfltVS (d : BitVec 3) (a : BitVec 6) (b : BitVec 5) (km : BitVec 3) (cv : BitVec 1) (s : State) : Out :=
  issueV (wordVS 0x27 (d.setWidth 6) a b 0 km 13 cv) (do return .cmp .flt d a (.val (← rdX b)) km) s

/-- vmfle.vs (R161) -/
def execVmfleVS (d : BitVec 3) (a : BitVec 6) (b : BitVec 5) (km : BitVec 3) (cv : BitVec 1) (s : State) : Out :=
  issueV (wordVS 0x27 (d.setWidth 6) a b 0 km 14 cv) (do return .cmp .fle d a (.val (← rdX b)) km) s

/-- vmand (R163) -/
def execVmand (d a b km : BitVec 3) (cv : BitVec 1) (s : State) : Out :=
  issueV (wordV 0x28 (d.setWidth 6) (a.setWidth 6) (b.setWidth 6) km 0 cv) (pure (.mask .and d a b km)) s

/-- vmor (R163) -/
def execVmor (d a b km : BitVec 3) (cv : BitVec 1) (s : State) : Out :=
  issueV (wordV 0x28 (d.setWidth 6) (a.setWidth 6) (b.setWidth 6) km 1 cv) (pure (.mask .or d a b km)) s

/-- vmxor (R163) -/
def execVmxor (d a b km : BitVec 3) (cv : BitVec 1) (s : State) : Out :=
  issueV (wordV 0x28 (d.setWidth 6) (a.setWidth 6) (b.setWidth 6) km 2 cv) (pure (.mask .xor d a b km)) s

/-- vmandn (R163) -/
def execVmandn (d a b km : BitVec 3) (cv : BitVec 1) (s : State) : Out :=
  issueV (wordV 0x28 (d.setWidth 6) (a.setWidth 6) (b.setWidth 6) km 3 cv) (pure (.mask .andn d a b km)) s

/-- vcpop (R164) -/
def execVcpop (d : BitVec 5) (a km : BitVec 3) (cv : BitVec 1) (s : State) : Out :=
  issueV (wordV 0x28 (d.setWidth 6) (a.setWidth 6) 0 km 4 cv) (pure (.cpop d a km)) s

/-- vfirst (R164) -/
def execVfirst (d : BitVec 5) (a km : BitVec 3) (cv : BitVec 1) (s : State) : Out :=
  issueV (wordV 0x28 (d.setWidth 6) (a.setWidth 6) 0 km 5 cv) (pure (.first d a km)) s

end Sys2Proof.Machine
end

