-- ==== Sys2Proof/Machine/VMem.lean ====
section
/-! DEFINITION. Vector loads and stores: majors 0x2B and 0x2C (spec/04 R100; spec/07 R173 to R177). -/

namespace Sys2Proof.Machine

/-- vld (R173) -/
def execVld (d : BitVec 6) (a : BitVec 5) (km : BitVec 3) (mw : BitVec 2) (cv : BitVec 1) (s : State) : Out :=
  issueV (wordV 0x2B d (a.setWidth 6) 0 km (0#2 ++ mw) cv) (do return .load (.unit) d (← rdX a) mw km) s

/-- vlds (R173) -/
def execVlds (d : BitVec 6) (a b : BitVec 5) (km : BitVec 3) (mw : BitVec 2) (cv : BitVec 1) (s : State) : Out :=
  issueV (wordVS 0x2B d (a.setWidth 6) b 0 km (1#2 ++ mw) cv) (do return .load (.strided (← rdX b)) d (← rdX a) mw km) s

/-- vldx (R173) -/
def execVldx (d : BitVec 6) (a : BitVec 5) (b : BitVec 6) (km : BitVec 3) (mw : BitVec 2) (cv : BitVec 1) (s : State) : Out :=
  issueV (wordV 0x2B d (a.setWidth 6) b km (2#2 ++ mw) cv) (do return .load (.indexed b) d (← rdX a) mw km) s

/-- vldseg (R173) -/
def execVldseg (d : BitVec 6) (a : BitVec 5) (imm : BitVec 6) (km : BitVec 3) (mw : BitVec 2) (cv : BitVec 1) (s : State) : Out :=
  issueV (wordV 0x2B d (a.setWidth 6) imm km (3#2 ++ mw) cv) (do return .load (.segment (imm.toNat + 1)) d (← rdX a) mw km) s

/-- vst (R176) -/
def execVst (d : BitVec 6) (a : BitVec 5) (km : BitVec 3) (cv : BitVec 1) (s : State) : Out :=
  issueV (wordV 0x2C d (a.setWidth 6) 0 km (0#2 ++ 0#2) cv) (do return .store (.unit) d (← rdX a) km) s

/-- vsts (R176) -/
def execVsts (d : BitVec 6) (a b : BitVec 5) (km : BitVec 3) (cv : BitVec 1) (s : State) : Out :=
  issueV (wordVS 0x2C d (a.setWidth 6) b 0 km (1#2 ++ 0#2) cv) (do return .store (.strided (← rdX b)) d (← rdX a) km) s

/-- vstx (R176) -/
def execVstx (d : BitVec 6) (a : BitVec 5) (b : BitVec 6) (km : BitVec 3) (cv : BitVec 1) (s : State) : Out :=
  issueV (wordV 0x2C d (a.setWidth 6) b km (2#2 ++ 0#2) cv) (do return .store (.indexed b) d (← rdX a) km) s

/-- vstseg (R176) -/
def execVstseg (d : BitVec 6) (a : BitVec 5) (imm : BitVec 6) (km : BitVec 3) (cv : BitVec 1) (s : State) : Out :=
  issueV (wordV 0x2C d (a.setWidth 6) imm km (3#2 ++ 0#2) cv) (do return .store (.segment (imm.toNat + 1)) d (← rdX a) km) s

end Sys2Proof.Machine
end

