-- ==== Sys2Proof/Machine/VPerm.lean ====
section
/-! DEFINITION. Vector moves and permutes: major 0x29 (spec/04 R99; spec/07 R165 to R171). -/

namespace Sys2Proof.Machine

/-- vmv (R166) -/
def execVmvVV (d a : BitVec 6) (km : BitVec 3) (cv : BitVec 1) (s : State) : Out :=
  issueV (wordV 0x29 d a 0 km 0 cv) (pure (.mv d (.reg a) km)) s

/-- vmvsx (R166) -/
def execVmvsx (d : BitVec 6) (b : BitVec 5) (km : BitVec 3) (cv : BitVec 1) (s : State) : Out :=
  issueV (wordVS 0x29 d 0 b 0 km 1 cv) (do return .mvsx d (← rdX b) km) s

/-- vmvxs (R166) -/
def execVmvxs (d : BitVec 5) (a : BitVec 6) (km : BitVec 3) (cv : BitVec 1) (s : State) : Out :=
  issueV (wordV 0x29 (d.setWidth 6) a 0 km 2 cv) (pure (.mvxs d a km)) s

/-- vslideup (R167) -/
def execVslideupVS (d a : BitVec 6) (b : BitVec 5) (km : BitVec 3) (cv : BitVec 1) (s : State) : Out :=
  issueV (wordVS 0x29 d a b 0 km 3 cv) (do return .slide true d a (← rdX b) km) s

/-- vslidedn (R167) -/
def execVslidednVS (d a : BitVec 6) (b : BitVec 5) (km : BitVec 3) (cv : BitVec 1) (s : State) : Out :=
  issueV (wordVS 0x29 d a b 0 km 4 cv) (do return .slide false d a (← rdX b) km) s

/-- vslideup (R167) -/
def execVslideupVI (d a imm : BitVec 6) (km : BitVec 3) (cv : BitVec 1) (s : State) : Out :=
  issueV (wordV 0x29 d a imm km 5 cv) (pure (.slide true d a (zx imm) km)) s

/-- vslidedn (R167) -/
def execVslidednVI (d a imm : BitVec 6) (km : BitVec 3) (cv : BitVec 1) (s : State) : Out :=
  issueV (wordV 0x29 d a imm km 6 cv) (pure (.slide false d a (zx imm) km)) s

/-- vperm (R168) -/
def execVperm (d a b : BitVec 6) (km : BitVec 3) (cv : BitVec 1) (s : State) : Out :=
  issueV (wordV 0x29 d a b km 7 cv) (pure (.perm d a b km)) s

/-- vcompress (R169) -/
def execVcompress (d a : BitVec 6) (km : BitVec 3) (cv : BitVec 1) (s : State) : Out :=
  issueV (wordV 0x29 d a 0 km 8 cv) (pure (.compress d a km)) s

/-- viota (R166) -/
def execViota (d : BitVec 6) (km : BitVec 3) (cv : BitVec 1) (s : State) : Out :=
  issueV (wordV 0x29 d 0 0 km 9 cv) (pure (.iota d km)) s

/-- vid (R166) -/
def execVid (d : BitVec 6) (km : BitVec 3) (cv : BitVec 1) (s : State) : Out :=
  issueV (wordV 0x29 d 0 0 km 10 cv) (pure (.vid d km)) s

/-- vnzscan (R170: the count goes to s[b]) -/
def execVnzscan (d a : BitVec 6) (b : BitVec 5) (km : BitVec 3) (cv : BitVec 1) (s : State) : Out :=
  issueV (wordVS 0x29 d a b 0 km 11 cv) (pure (.nzscan d b a km)) s

/-- vconfl (R171) -/
def execVconfl (d : BitVec 3) (a : BitVec 6) (km : BitVec 3) (cv : BitVec 1) (s : State) : Out :=
  issueV (wordV 0x29 (d.setWidth 6) a 0 km 12 cv) (pure (.confl d a km)) s

/-- vmv (R166) -/
def execVmvVI (d imm : BitVec 6) (km : BitVec 3) (cv : BitVec 1) (s : State) : Out :=
  issueV (wordV 0x29 d 0 imm km 13 cv) (pure (.mv d (.val (sx imm)) km)) s

/-- vmv (R166) -/
def execVmvVS (d : BitVec 6) (b : BitVec 5) (km : BitVec 3) (cv : BitVec 1) (s : State) : Out :=
  issueV (wordVS 0x29 d 0 b 0 km 14 cv) (do return .mv d (.val (← rdX b)) km) s

end Sys2Proof.Machine
end

