-- ==== Sys2Proof/Machine/VRed.lean ====
section
/-! DEFINITION. Reductions: major 0x2A (spec/04 R98; spec/07 R172). -/

namespace Sys2Proof.Machine

/-- vredsum (R172) -/
def execVredsum (d : BitVec 5) (a : BitVec 6) (b : BitVec 5) (km : BitVec 3) (cv : BitVec 1) (s : State) : Out :=
  issueV (wordVS 0x2A (d.setWidth 6) a b 0 km 0 cv) (do return .red .sum d a (← rdX b) km) s

/-- vredmin (R172) -/
def execVredmin (d : BitVec 5) (a : BitVec 6) (b : BitVec 5) (km : BitVec 3) (cv : BitVec 1) (s : State) : Out :=
  issueV (wordVS 0x2A (d.setWidth 6) a b 0 km 1 cv) (do return .red .min d a (← rdX b) km) s

/-- vredmax (R172) -/
def execVredmax (d : BitVec 5) (a : BitVec 6) (b : BitVec 5) (km : BitVec 3) (cv : BitVec 1) (s : State) : Out :=
  issueV (wordVS 0x2A (d.setWidth 6) a b 0 km 2 cv) (do return .red .max d a (← rdX b) km) s

/-- vredand (R172) -/
def execVredand (d : BitVec 5) (a : BitVec 6) (b : BitVec 5) (km : BitVec 3) (cv : BitVec 1) (s : State) : Out :=
  issueV (wordVS 0x2A (d.setWidth 6) a b 0 km 3 cv) (do return .red .and d a (← rdX b) km) s

/-- vredor (R172) -/
def execVredor (d : BitVec 5) (a : BitVec 6) (b : BitVec 5) (km : BitVec 3) (cv : BitVec 1) (s : State) : Out :=
  issueV (wordVS 0x2A (d.setWidth 6) a b 0 km 4 cv) (do return .red .or d a (← rdX b) km) s

/-- vfredsum (R75) -/
def execVfredsum (d : BitVec 5) (a : BitVec 6) (b : BitVec 5) (km : BitVec 3) (cv : BitVec 1) (s : State) : Out :=
  issueV (wordVS 0x2A (d.setWidth 6) a b 0 km 5 cv) (do return .red .fsum d a (← rdX b) km) s

/-- vfredosum (R76) -/
def execVfredosum (d : BitVec 5) (a : BitVec 6) (b : BitVec 5) (km : BitVec 3) (cv : BitVec 1) (s : State) : Out :=
  issueV (wordVS 0x2A (d.setWidth 6) a b 0 km 6 cv) (do return .red .fosum d a (← rdX b) km) s

/-- vfredmin (R172) -/
def execVfredmin (d : BitVec 5) (a : BitVec 6) (b : BitVec 5) (km : BitVec 3) (cv : BitVec 1) (s : State) : Out :=
  issueV (wordVS 0x2A (d.setWidth 6) a b 0 km 7 cv) (do return .red .fmin d a (← rdX b) km) s

/-- vfredmax (R172) -/
def execVfredmax (d : BitVec 5) (a : BitVec 6) (b : BitVec 5) (km : BitVec 3) (cv : BitVec 1) (s : State) : Out :=
  issueV (wordVS 0x2A (d.setWidth 6) a b 0 km 8 cv) (do return .red .fmax d a (← rdX b) km) s

end Sys2Proof.Machine
end

