-- ==== Sys2Proof/Machine/VTile.lean ====
section
/-! DEFINITION. The tile instructions: major 0x30 (spec/04 R101; spec/08 R194 to R202). -/

namespace Sys2Proof.Machine

/-- tshape (R194) -/
def execTshape (a : BitVec 5) (s : State) : Out :=
  issueV (wordT 0 (a.setWidth 6) 0 (0#4 ++ 0#7)) (do return .tshape (← rdX a)) s

/-- tzero (R195) -/
def execTzero (z : BitVec 2) (s : State) : Out :=
  issueV (wordT z 0 0 (1#4 ++ 0#7)) (pure (.tzero z)) s

/-- tlda (R196) -/
def execTlda (a b : BitVec 5) (s : State) : Out :=
  issueV (wordT 0 (a.setWidth 6) (b.setWidth 6) (2#4 ++ 0#7)) (do return .tld false (← rdX a) (← rdX b) none) s

/-- tldb (R196) -/
def execTldb (a b : BitVec 5) (s : State) : Out :=
  issueV (wordT 0 (a.setWidth 6) (b.setWidth 6) (3#4 ++ 0#7)) (do return .tld true (← rdX a) (← rdX b) none) s

/-- tmma (R198) -/
def execTmma (z : BitVec 2) (s : State) : Out :=
  issueV (wordT z 0 0 (4#4 ++ 0#7)) (pure (.tmma .plain z)) s

/-- tmma.sx (R200) -/
def execTmmaSX (z : BitVec 2) (s : State) : Out :=
  issueV (wordT z 0 0 (5#4 ++ 0#7)) (pure (.tmma .sx z)) s

/-- tstz (R201) -/
def execTstz (z : BitVec 2) (a b : BitVec 5) (s : State) : Out :=
  issueV (wordT z (a.setWidth 6) (b.setWidth 6) (6#4 ++ 0#7)) (do return .tstz z (← rdX a) (← rdX b)) s

/-- tmvz (R202) -/
def execTmvz (z : BitVec 2) (d : BitVec 6) (b : BitVec 5) (s : State) : Out :=
  issueV (wordT z d (b.setWidth 6) (7#4 ++ 0#7)) (do return .tmvz d z (← rdX b)) s

/-- tlda.mc (R197) -/
def execTldaMC (a b c : BitVec 5) (s : State) : Out :=
  issueV (wordT 0 (a.setWidth 6) (b.setWidth 6) (8#4 ++ c ++ 0#2)) (do return .tld false (← rdX a) (← rdX b) (some (← rdX c))) s

/-- tldb.mc (R197) -/
def execTldbMC (a b c : BitVec 5) (s : State) : Out :=
  issueV (wordT 0 (a.setWidth 6) (b.setWidth 6) (9#4 ++ c ++ 0#2)) (do return .tld true (← rdX a) (← rdX b) (some (← rdX c))) s

/-- tmma.sat (R198) -/
def execTmmaSat (z : BitVec 2) (s : State) : Out :=
  issueV (wordT z 0 0 (10#4 ++ 0#7)) (pure (.tmma .sat z)) s

end Sys2Proof.Machine
end

