-- ==== Sys2Proof/Machine/Dispatch.lean ====
section
/-! DEFINITION. The meaning of every instruction and operation: one arm per constructor. -/

namespace Sys2Proof.Machine

/-- What an instruction or an operation does in a state. -/
def exec (i : Instr) (s : State) : Host.Outcome State Fault Refusal :=
  match i with
  | .add d a b => Sys2Proof.Machine.execAdd d a b s
  | .sub d a b => Sys2Proof.Machine.execSub d a b s
  | .and d a b => Sys2Proof.Machine.execAnd d a b s
  | .or d a b => Sys2Proof.Machine.execOr d a b s
  | .xor d a b => Sys2Proof.Machine.execXor d a b s
  | .andn d a b => Sys2Proof.Machine.execAndn d a b s
  | .orn d a b => Sys2Proof.Machine.execOrn d a b s
  | .xnor d a b => Sys2Proof.Machine.execXnor d a b s
  | .sll d a b => Sys2Proof.Machine.execSll d a b s
  | .srl d a b => Sys2Proof.Machine.execSrl d a b s
  | .sra d a b => Sys2Proof.Machine.execSra d a b s
  | .rol d a b => Sys2Proof.Machine.execRol d a b s
  | .ror d a b => Sys2Proof.Machine.execRor d a b s
  | .min d a b => Sys2Proof.Machine.execMin d a b s
  | .minu d a b => Sys2Proof.Machine.execMinu d a b s
  | .max d a b => Sys2Proof.Machine.execMax d a b s
  | .maxu d a b => Sys2Proof.Machine.execMaxu d a b s
  | .seq d a b => Sys2Proof.Machine.execSeq d a b s
  | .sne d a b => Sys2Proof.Machine.execSne d a b s
  | .slt d a b => Sys2Proof.Machine.execSlt d a b s
  | .sltu d a b => Sys2Proof.Machine.execSltu d a b s
  | .mul d a b => Sys2Proof.Machine.execMul d a b s
  | .mulh d a b => Sys2Proof.Machine.execMulh d a b s
  | .mulhu d a b => Sys2Proof.Machine.execMulhu d a b s
  | .div d a b => Sys2Proof.Machine.execDiv d a b s
  | .divu d a b => Sys2Proof.Machine.execDivu d a b s
  | .rem d a b => Sys2Proof.Machine.execRem d a b s
  | .remu d a b => Sys2Proof.Machine.execRemu d a b s
  | .clz d a => Sys2Proof.Machine.execClz d a s
  | .ctz d a => Sys2Proof.Machine.execCtz d a s
  | .popc d a => Sys2Proof.Machine.execPopc d a s
  | .bext d a b => Sys2Proof.Machine.execBext d a b s
  | .bdep d a b => Sys2Proof.Machine.execBdep d a b s
  | .bswap d a => Sys2Proof.Machine.execBswap d a s
  | .sextB d a => Sys2Proof.Machine.execSextB d a s
  | .sextH d a => Sys2Proof.Machine.execSextH d a s
  | .sextW d a => Sys2Proof.Machine.execSextW d a s
  | .zextB d a => Sys2Proof.Machine.execZextB d a s
  | .zextH d a => Sys2Proof.Machine.execZextH d a s
  | .zextW d a => Sys2Proof.Machine.execZextW d a s
  | .addi d a imm => Sys2Proof.Machine.execAddi d a imm s
  | .andi d a imm => Sys2Proof.Machine.execAndi d a imm s
  | .ori d a imm => Sys2Proof.Machine.execOri d a imm s
  | .xori d a imm => Sys2Proof.Machine.execXori d a imm s
  | .slli d a n => Sys2Proof.Machine.execSlli d a n s
  | .srli d a n => Sys2Proof.Machine.execSrli d a n s
  | .srai d a n => Sys2Proof.Machine.execSrai d a n s
  | .slti d a imm => Sys2Proof.Machine.execSlti d a imm s
  | .sltiu d a imm => Sys2Proof.Machine.execSltiu d a imm s
  | .movz d n imm => Sys2Proof.Machine.execMovz d n imm s
  | .movk d n imm => Sys2Proof.Machine.execMovk d n imm s
  | .fadd d a b ty rm => Sys2Proof.Machine.execFadd d a b ty rm s
  | .fsub d a b ty rm => Sys2Proof.Machine.execFsub d a b ty rm s
  | .fmul d a b ty rm => Sys2Proof.Machine.execFmul d a b ty rm s
  | .fdiv d a b ty rm => Sys2Proof.Machine.execFdiv d a b ty rm s
  | .fsqrt d a ty rm => Sys2Proof.Machine.execFsqrt d a ty rm s
  | .fmin d a b ty => Sys2Proof.Machine.execFmin d a b ty s
  | .fmax d a b ty => Sys2Proof.Machine.execFmax d a b ty s
  | .feq d a b ty => Sys2Proof.Machine.execFeq d a b ty s
  | .flt d a b ty => Sys2Proof.Machine.execFlt d a b ty s
  | .fle d a b ty => Sys2Proof.Machine.execFle d a b ty s
  | .fclass d a ty => Sys2Proof.Machine.execFclass d a ty s
  | .fsgnj d a b ty => Sys2Proof.Machine.execFsgnj d a b ty s
  | .fsgnjn d a b ty => Sys2Proof.Machine.execFsgnjn d a b ty s
  | .fsgnjx d a b ty => Sys2Proof.Machine.execFsgnjx d a b ty s
  | .fcvtFF d a src ty rm => Sys2Proof.Machine.execFcvtFF d a src ty rm s
  | .fcvtFI d a src ty rm => Sys2Proof.Machine.execFcvtFI d a src ty rm s
  | .fcvtIF d a src ty rm => Sys2Proof.Machine.execFcvtIF d a src ty rm s
  | .fmadd d a b c ty rm => Sys2Proof.Machine.execFmadd d a b c ty rm s
  | .fmsub d a b c ty rm => Sys2Proof.Machine.execFmsub d a b c ty rm s
  | .fnmadd d a b c ty rm => Sys2Proof.Machine.execFnmadd d a b c ty rm s
  | .j off => Sys2Proof.Machine.execJ off s
  | .jal off => Sys2Proof.Machine.execJal off s
  | .jalr d a imm => Sys2Proof.Machine.execJalr d a imm s
  | .beq a b off => Sys2Proof.Machine.execBeq a b off s
  | .bne a b off => Sys2Proof.Machine.execBne a b off s
  | .blt a b off => Sys2Proof.Machine.execBlt a b off s
  | .bge a b off => Sys2Proof.Machine.execBge a b off s
  | .bltu a b off => Sys2Proof.Machine.execBltu a b off s
  | .bgeu a b off => Sys2Proof.Machine.execBgeu a b off s
  | .ldb d a off => Sys2Proof.Machine.execLdb d a off s
  | .ldbu d a off => Sys2Proof.Machine.execLdbu d a off s
  | .ldh d a off => Sys2Proof.Machine.execLdh d a off s
  | .ldhu d a off => Sys2Proof.Machine.execLdhu d a off s
  | .ldw d a off => Sys2Proof.Machine.execLdw d a off s
  | .ldwu d a off => Sys2Proof.Machine.execLdwu d a off s
  | .ldd d a off => Sys2Proof.Machine.execLdd d a off s
  | .stb d a off => Sys2Proof.Machine.execStb d a off s
  | .sth d a off => Sys2Proof.Machine.execSth d a off s
  | .stw d a off => Sys2Proof.Machine.execStw d a off s
  | .std d a off => Sys2Proof.Machine.execStd d a off s
  | .ldbuAQ d a scope => Sys2Proof.Machine.execLdbuAQ d a scope s
  | .ldhuAQ d a scope => Sys2Proof.Machine.execLdhuAQ d a scope s
  | .ldwuAQ d a scope => Sys2Proof.Machine.execLdwuAQ d a scope s
  | .lddAQ d a scope => Sys2Proof.Machine.execLddAQ d a scope s
  | .stbRL a b scope => Sys2Proof.Machine.execStbRL a b scope s
  | .sthRL a b scope => Sys2Proof.Machine.execSthRL a b scope s
  | .stwRL a b scope => Sys2Proof.Machine.execStwRL a b scope s
  | .stdRL a b scope => Sys2Proof.Machine.execStdRL a b scope s
  | .amoadd d a b wd scope ord => Sys2Proof.Machine.execAmoadd d a b wd scope ord s
  | .amoand d a b wd scope ord => Sys2Proof.Machine.execAmoand d a b wd scope ord s
  | .amoor d a b wd scope ord => Sys2Proof.Machine.execAmoor d a b wd scope ord s
  | .amoxor d a b wd scope ord => Sys2Proof.Machine.execAmoxor d a b wd scope ord s
  | .amomin d a b wd scope ord => Sys2Proof.Machine.execAmomin d a b wd scope ord s
  | .amomax d a b wd scope ord => Sys2Proof.Machine.execAmomax d a b wd scope ord s
  | .amominu d a b wd scope ord => Sys2Proof.Machine.execAmominu d a b wd scope ord s
  | .amomaxu d a b wd scope ord => Sys2Proof.Machine.execAmomaxu d a b wd scope ord s
  | .amoswap d a b wd scope ord => Sys2Proof.Machine.execAmoswap d a b wd scope ord s
  | .cas d a b wd scope ord => Sys2Proof.Machine.execCas d a b wd scope ord s
  | .ldsync d a scope => Sys2Proof.Machine.execLdsync d a scope s
  | .ldtake d a scope => Sys2Proof.Machine.execLdtake d a scope s
  | .stfill a b scope => Sys2Proof.Machine.execStfill a b scope s
  | .feclr a b scope => Sys2Proof.Machine.execFeclr a b scope s
  | .feset a b scope => Sys2Proof.Machine.execFeset a b scope s
  | .csrr d csr => Sys2Proof.Machine.execCsrr d csr s
  | .csrw d a csr => Sys2Proof.Machine.execCsrw d a csr s
  | .csrs d a csr => Sys2Proof.Machine.execCsrs d a csr s
  | .csrc d a csr => Sys2Proof.Machine.execCsrc d a csr s
  | .fence pred succ scope => Sys2Proof.Machine.execFence pred succ scope s
  | .fenceSV => Sys2Proof.Machine.execFenceSV s
  | .fenceVS => Sys2Proof.Machine.execFenceVS s
  | .fenceVV => Sys2Proof.Machine.execFenceVV s
  | .eret => Sys2Proof.Machine.execEret s
  | .wfi => Sys2Proof.Machine.execWfi s
  | .halt => Sys2Proof.Machine.execHalt s
  | .tlbinv a b => Sys2Proof.Machine.execTlbinv a b s
  | .preempt a => Sys2Proof.Machine.execPreempt a s
  | .ctxsave a b => Sys2Proof.Machine.execCtxsave a b s
  | .ctxload a b => Sys2Proof.Machine.execCtxload a b s
  | .reshape a b => Sys2Proof.Machine.execReshape a b s
  | .trap imm => Sys2Proof.Machine.execTrap imm s
  | .vsetvli d a slices sew => Sys2Proof.Machine.execVsetvli d a slices sew s
  | .vsetvl d a b => Sys2Proof.Machine.execVsetvl d a b s
  | .vcfg n => Sys2Proof.Machine.execVcfg n s
  | .vaddVV d a b km cv => Sys2Proof.Machine.execVaddVV d a b km cv s
  | .vsubVV d a b km cv => Sys2Proof.Machine.execVsubVV d a b km cv s
  | .vmulVV d a b km cv => Sys2Proof.Machine.execVmulVV d a b km cv s
  | .vmulhVV d a b km cv => Sys2Proof.Machine.execVmulhVV d a b km cv s
  | .vdivVV d a b km cv => Sys2Proof.Machine.execVdivVV d a b km cv s
  | .vremVV d a b km cv => Sys2Proof.Machine.execVremVV d a b km cv s
  | .vminVV d a b km cv => Sys2Proof.Machine.execVminVV d a b km cv s
  | .vmaxVV d a b km cv => Sys2Proof.Machine.execVmaxVV d a b km cv s
  | .vandVV d a b km cv => Sys2Proof.Machine.execVandVV d a b km cv s
  | .vorVV d a b km cv => Sys2Proof.Machine.execVorVV d a b km cv s
  | .vxorVV d a b km cv => Sys2Proof.Machine.execVxorVV d a b km cv s
  | .vsllVV d a b km cv => Sys2Proof.Machine.execVsllVV d a b km cv s
  | .vsrlVV d a b km cv => Sys2Proof.Machine.execVsrlVV d a b km cv s
  | .vsraVV d a b km cv => Sys2Proof.Machine.execVsraVV d a b km cv s
  | .vsaddVV d a b km cv => Sys2Proof.Machine.execVsaddVV d a b km cv s
  | .vssubVV d a b km cv => Sys2Proof.Machine.execVssubVV d a b km cv s
  | .vaddVS d a b km cv => Sys2Proof.Machine.execVaddVS d a b km cv s
  | .vsubVS d a b km cv => Sys2Proof.Machine.execVsubVS d a b km cv s
  | .vmulVS d a b km cv => Sys2Proof.Machine.execVmulVS d a b km cv s
  | .vmulhVS d a b km cv => Sys2Proof.Machine.execVmulhVS d a b km cv s
  | .vdivVS d a b km cv => Sys2Proof.Machine.execVdivVS d a b km cv s
  | .vremVS d a b km cv => Sys2Proof.Machine.execVremVS d a b km cv s
  | .vminVS d a b km cv => Sys2Proof.Machine.execVminVS d a b km cv s
  | .vmaxVS d a b km cv => Sys2Proof.Machine.execVmaxVS d a b km cv s
  | .vandVS d a b km cv => Sys2Proof.Machine.execVandVS d a b km cv s
  | .vorVS d a b km cv => Sys2Proof.Machine.execVorVS d a b km cv s
  | .vxorVS d a b km cv => Sys2Proof.Machine.execVxorVS d a b km cv s
  | .vsllVS d a b km cv => Sys2Proof.Machine.execVsllVS d a b km cv s
  | .vsrlVS d a b km cv => Sys2Proof.Machine.execVsrlVS d a b km cv s
  | .vsraVS d a b km cv => Sys2Proof.Machine.execVsraVS d a b km cv s
  | .vsaddVS d a b km cv => Sys2Proof.Machine.execVsaddVS d a b km cv s
  | .vssubVS d a b km cv => Sys2Proof.Machine.execVssubVS d a b km cv s
  | .vrsubVS d a b km cv => Sys2Proof.Machine.execVrsubVS d a b km cv s
  | .vmaddVS d a b km cv => Sys2Proof.Machine.execVmaddVS d a b km cv s
  | .vmsacVS d a b km cv => Sys2Proof.Machine.execVmsacVS d a b km cv s
  | .vwaddVS d a b km cv => Sys2Proof.Machine.execVwaddVS d a b km cv s
  | .vwmulVS d a b km cv => Sys2Proof.Machine.execVwmulVS d a b km cv s
  | .vaddVI d a imm km cv => Sys2Proof.Machine.execVaddVI d a imm km cv s
  | .vrsubVI d a imm km cv => Sys2Proof.Machine.execVrsubVI d a imm km cv s
  | .vandVI d a imm km cv => Sys2Proof.Machine.execVandVI d a imm km cv s
  | .vorVI d a imm km cv => Sys2Proof.Machine.execVorVI d a imm km cv s
  | .vxorVI d a imm km cv => Sys2Proof.Machine.execVxorVI d a imm km cv s
  | .vsllVI d a imm km cv => Sys2Proof.Machine.execVsllVI d a imm km cv s
  | .vsrlVI d a imm km cv => Sys2Proof.Machine.execVsrlVI d a imm km cv s
  | .vsraVI d a imm km cv => Sys2Proof.Machine.execVsraVI d a imm km cv s
  | .vsaddVI d a imm km cv => Sys2Proof.Machine.execVsaddVI d a imm km cv s
  | .vminVI d a imm km cv => Sys2Proof.Machine.execVminVI d a imm km cv s
  | .vmaxVI d a imm km cv => Sys2Proof.Machine.execVmaxVI d a imm km cv s
  | .vmaddVV d a b km cv => Sys2Proof.Machine.execVmaddVV d a b km cv s
  | .vmsacVV d a b km cv => Sys2Proof.Machine.execVmsacVV d a b km cv s
  | .vwaddVV d a b km cv => Sys2Proof.Machine.execVwaddVV d a b km cv s
  | .vwmulVV d a b km cv => Sys2Proof.Machine.execVwmulVV d a b km cv s
  | .vdot4 d a b km cv => Sys2Proof.Machine.execVdot4 d a b km cv s
  | .vdot4Sat d a b km cv => Sys2Proof.Machine.execVdot4Sat d a b km cv s
  | .vfaddVV d a b km cv => Sys2Proof.Machine.execVfaddVV d a b km cv s
  | .vfsubVV d a b km cv => Sys2Proof.Machine.execVfsubVV d a b km cv s
  | .vfmulVV d a b km cv => Sys2Proof.Machine.execVfmulVV d a b km cv s
  | .vfdivVV d a b km cv => Sys2Proof.Machine.execVfdivVV d a b km cv s
  | .vfsqrt d a km cv => Sys2Proof.Machine.execVfsqrt d a km cv s
  | .vfrsqrt d a km cv => Sys2Proof.Machine.execVfrsqrt d a km cv s
  | .vfmaVV d a b km cv => Sys2Proof.Machine.execVfmaVV d a b km cv s
  | .vfmsVV d a b km cv => Sys2Proof.Machine.execVfmsVV d a b km cv s
  | .vfnmaVV d a b km cv => Sys2Proof.Machine.execVfnmaVV d a b km cv s
  | .vfminVV d a b km cv => Sys2Proof.Machine.execVfminVV d a b km cv s
  | .vfmaxVV d a b km cv => Sys2Proof.Machine.execVfmaxVV d a b km cv s
  | .vfclass d a km cv => Sys2Proof.Machine.execVfclass d a km cv s
  | .vfsgnjVV d a b km cv => Sys2Proof.Machine.execVfsgnjVV d a b km cv s
  | .vfsgnjnVV d a b km cv => Sys2Proof.Machine.execVfsgnjnVV d a b km cv s
  | .vfsgnjxVV d a b km cv => Sys2Proof.Machine.execVfsgnjxVV d a b km cv s
  | .vfaddVS d a b km cv => Sys2Proof.Machine.execVfaddVS d a b km cv s
  | .vfsubVS d a b km cv => Sys2Proof.Machine.execVfsubVS d a b km cv s
  | .vfmulVS d a b km cv => Sys2Proof.Machine.execVfmulVS d a b km cv s
  | .vfdivVS d a b km cv => Sys2Proof.Machine.execVfdivVS d a b km cv s
  | .vfmaVS d a b km cv => Sys2Proof.Machine.execVfmaVS d a b km cv s
  | .vfmsVS d a b km cv => Sys2Proof.Machine.execVfmsVS d a b km cv s
  | .vfnmaVS d a b km cv => Sys2Proof.Machine.execVfnmaVS d a b km cv s
  | .vfminVS d a b km cv => Sys2Proof.Machine.execVfminVS d a b km cv s
  | .vfmaxVS d a b km cv => Sys2Proof.Machine.execVfmaxVS d a b km cv s
  | .vfsgnjVS d a b km cv => Sys2Proof.Machine.execVfsgnjVS d a b km cv s
  | .vfsgnjnVS d a b km cv => Sys2Proof.Machine.execVfsgnjnVS d a b km cv s
  | .vfsgnjxVS d a b km cv => Sys2Proof.Machine.execVfsgnjxVS d a b km cv s
  | .vmseqVV d a b km cv => Sys2Proof.Machine.execVmseqVV d a b km cv s
  | .vmsneVV d a b km cv => Sys2Proof.Machine.execVmsneVV d a b km cv s
  | .vmsltVV d a b km cv => Sys2Proof.Machine.execVmsltVV d a b km cv s
  | .vmsleVV d a b km cv => Sys2Proof.Machine.execVmsleVV d a b km cv s
  | .vmfeqVV d a b km cv => Sys2Proof.Machine.execVmfeqVV d a b km cv s
  | .vmfltVV d a b km cv => Sys2Proof.Machine.execVmfltVV d a b km cv s
  | .vmfleVV d a b km cv => Sys2Proof.Machine.execVmfleVV d a b km cv s
  | .vmseqVS d a b km cv => Sys2Proof.Machine.execVmseqVS d a b km cv s
  | .vmsneVS d a b km cv => Sys2Proof.Machine.execVmsneVS d a b km cv s
  | .vmsltVS d a b km cv => Sys2Proof.Machine.execVmsltVS d a b km cv s
  | .vmsleVS d a b km cv => Sys2Proof.Machine.execVmsleVS d a b km cv s
  | .vmfeqVS d a b km cv => Sys2Proof.Machine.execVmfeqVS d a b km cv s
  | .vmfltVS d a b km cv => Sys2Proof.Machine.execVmfltVS d a b km cv s
  | .vmfleVS d a b km cv => Sys2Proof.Machine.execVmfleVS d a b km cv s
  | .vmand d a b km cv => Sys2Proof.Machine.execVmand d a b km cv s
  | .vmor d a b km cv => Sys2Proof.Machine.execVmor d a b km cv s
  | .vmxor d a b km cv => Sys2Proof.Machine.execVmxor d a b km cv s
  | .vmandn d a b km cv => Sys2Proof.Machine.execVmandn d a b km cv s
  | .vcpop d a km cv => Sys2Proof.Machine.execVcpop d a km cv s
  | .vfirst d a km cv => Sys2Proof.Machine.execVfirst d a km cv s
  | .vmvVV d a km cv => Sys2Proof.Machine.execVmvVV d a km cv s
  | .vmvsx d b km cv => Sys2Proof.Machine.execVmvsx d b km cv s
  | .vmvxs d a km cv => Sys2Proof.Machine.execVmvxs d a km cv s
  | .vslideupVS d a b km cv => Sys2Proof.Machine.execVslideupVS d a b km cv s
  | .vslidednVS d a b km cv => Sys2Proof.Machine.execVslidednVS d a b km cv s
  | .vslideupVI d a imm km cv => Sys2Proof.Machine.execVslideupVI d a imm km cv s
  | .vslidednVI d a imm km cv => Sys2Proof.Machine.execVslidednVI d a imm km cv s
  | .vperm d a b km cv => Sys2Proof.Machine.execVperm d a b km cv s
  | .vcompress d a km cv => Sys2Proof.Machine.execVcompress d a km cv s
  | .viota d km cv => Sys2Proof.Machine.execViota d km cv s
  | .vid d km cv => Sys2Proof.Machine.execVid d km cv s
  | .vnzscan d a b km cv => Sys2Proof.Machine.execVnzscan d a b km cv s
  | .vconfl d a km cv => Sys2Proof.Machine.execVconfl d a km cv s
  | .vmvVI d imm km cv => Sys2Proof.Machine.execVmvVI d imm km cv s
  | .vmvVS d b km cv => Sys2Proof.Machine.execVmvVS d b km cv s
  | .vredsum d a b km cv => Sys2Proof.Machine.execVredsum d a b km cv s
  | .vredmin d a b km cv => Sys2Proof.Machine.execVredmin d a b km cv s
  | .vredmax d a b km cv => Sys2Proof.Machine.execVredmax d a b km cv s
  | .vredand d a b km cv => Sys2Proof.Machine.execVredand d a b km cv s
  | .vredor d a b km cv => Sys2Proof.Machine.execVredor d a b km cv s
  | .vfredsum d a b km cv => Sys2Proof.Machine.execVfredsum d a b km cv s
  | .vfredosum d a b km cv => Sys2Proof.Machine.execVfredosum d a b km cv s
  | .vfredmin d a b km cv => Sys2Proof.Machine.execVfredmin d a b km cv s
  | .vfredmax d a b km cv => Sys2Proof.Machine.execVfredmax d a b km cv s
  | .vld d a km mw cv => Sys2Proof.Machine.execVld d a km mw cv s
  | .vlds d a b km mw cv => Sys2Proof.Machine.execVlds d a b km mw cv s
  | .vldx d a b km mw cv => Sys2Proof.Machine.execVldx d a b km mw cv s
  | .vldseg d a imm km mw cv => Sys2Proof.Machine.execVldseg d a imm km mw cv s
  | .vst d a km cv => Sys2Proof.Machine.execVst d a km cv s
  | .vsts d a b km cv => Sys2Proof.Machine.execVsts d a b km cv s
  | .vstx d a b km cv => Sys2Proof.Machine.execVstx d a b km cv s
  | .vstseg d a imm km cv => Sys2Proof.Machine.execVstseg d a imm km cv s
  | .vcvt d a src km cv => Sys2Proof.Machine.execVcvt d a src km cv s
  | .vxpand d a f km cv => Sys2Proof.Machine.execVxpand d a f km cv s
  | .vqblkF4 d a b km cv => Sys2Proof.Machine.execVqblkF4 d a b km cv s
  | .vqblkI8 d a b km cv => Sys2Proof.Machine.execVqblkI8 d a b km cv s
  | .vdqblkF4 d a b km cv => Sys2Proof.Machine.execVdqblkF4 d a b km cv s
  | .vdqblkI8 d a b km cv => Sys2Proof.Machine.execVdqblkI8 d a b km cv s
  | .tshape a => Sys2Proof.Machine.execTshape a s
  | .tzero z => Sys2Proof.Machine.execTzero z s
  | .tlda a b => Sys2Proof.Machine.execTlda a b s
  | .tldb a b => Sys2Proof.Machine.execTldb a b s
  | .tmma z => Sys2Proof.Machine.execTmma z s
  | .tmmaSX z => Sys2Proof.Machine.execTmmaSX z s
  | .tstz z a b => Sys2Proof.Machine.execTstz z a b s
  | .tmvz z d b => Sys2Proof.Machine.execTmvz z d b s
  | .tldaMC a b c => Sys2Proof.Machine.execTldaMC a b c s
  | .tldbMC a b c => Sys2Proof.Machine.execTldbMC a b c s
  | .tmmaSat z => Sys2Proof.Machine.execTmmaSat z s
  | .fork d a imm => Sys2Proof.Machine.execFork d a imm s
  | .join => Sys2Proof.Machine.execJoin s
  | .keywait => Sys2Proof.Machine.execKeywait s
  | .doneStrand => Sys2Proof.Machine.execDoneStrand s
  | .waitmsg a => Sys2Proof.Machine.execWaitmsg a s
  | .send a b => Sys2Proof.Machine.execSend a b s
  | .sendi a b => Sys2Proof.Machine.execSendi a b s
  | .rgsetl d a => Sys2Proof.Machine.execRgsetl d a s
  | .widf d f => Sys2Proof.Machine.execWidf d f s
  | .sbind a v => Sys2Proof.Machine.execSbind a v s
  | .sunbind v => Sys2Proof.Machine.execSunbind v s
  | .sdrain v => Sys2Proof.Machine.execSdrain v s
  | .scopy a b => Sys2Proof.Machine.execScopy a b s
  | .scopyF a b => Sys2Proof.Machine.execScopyF a b s
  | .sisectC d j m => Sys2Proof.Machine.execSisectC d j m s
  | .sisectW d j m v => Sys2Proof.Machine.execSisectW d j m v s
  | .cqwait => Sys2Proof.Machine.execCqwait s
  | .cqpop d => Sys2Proof.Machine.execCqpop d s
  | .walk a b => Sys2Proof.Machine.execWalk a b s
  | .chase d a b km => Sys2Proof.Machine.execChase d a b km s
  | .pgather d a b km => Sys2Proof.Machine.execPgather d a b km s
  | .grpset a b => Sys2Proof.Machine.execGrpset a b s
  | .grpfree a => Sys2Proof.Machine.execGrpfree a s
  | .nred a b ty op => Sys2Proof.Machine.execNred a b ty op s
  | .nmcast a b => Sys2Proof.Machine.execNmcast a b s
  | .gswOut a => Sys2Proof.Machine.execGswOut a s
  | .gswIN a => Sys2Proof.Machine.execGswIN a s
  | .pfx sense p ce cd => Sys2Proof.Machine.execPfx sense p ce cd s
  | .vqueueBegin => Sys2Proof.Machine.execVqueueBegin s
  | .vqueueComplete => Sys2Proof.Machine.execVqueueComplete s
  | .trapEntry cause val => Sys2Proof.Machine.execTrapEntry cause val s
  | .mEventEntry core => Sys2Proof.Machine.execMEventEntry core s
  | .asyncBoundary => Sys2Proof.Machine.execAsyncBoundary s
  | .timeoutExpiry ring => Sys2Proof.Machine.execTimeoutExpiry ring s
  | .wfiWake ring => Sys2Proof.Machine.execWfiWake ring s
  | .ringStopped ring => Sys2Proof.Machine.execRingStopped ring s
  | .chunkStart => Sys2Proof.Machine.execChunkStart s
  | .imageCopyDone slot => Sys2Proof.Machine.execImageCopyDone slot s
  | .liveinArrival slot => Sys2Proof.Machine.execLiveinArrival slot s
  | .chunkSquash slot => Sys2Proof.Machine.execChunkSquash slot s
  | .chunkRestart slot => Sys2Proof.Machine.execChunkRestart slot s
  | .keystoneArrival => Sys2Proof.Machine.execKeystoneArrival s
  | .chunkCommit => Sys2Proof.Machine.execChunkCommit s
  | .messageArrival msg => Sys2Proof.Machine.execMessageArrival msg s
  | .spillRefill aid mbx => Sys2Proof.Machine.execSpillRefill aid mbx s
  | .dispatch ring => Sys2Proof.Machine.execDispatch ring s
  | .outboundInject ring idx => Sys2Proof.Machine.execOutboundInject ring idx s
  | .retryBackoffExpiry ring idx => Sys2Proof.Machine.execRetryBackoffExpiry ring idx s
  | .actstallExpiry ring => Sys2Proof.Machine.execActstallExpiry ring s
  | .quantumExpiry ring => Sys2Proof.Machine.execQuantumExpiry ring s
  | .overrunExpiry ring => Sys2Proof.Machine.execOverrunExpiry ring s
  | .memoryReply core slice => Sys2Proof.Machine.execMemoryReply core slice s
  | .sliceRequest core req => Sys2Proof.Machine.execSliceRequest core req s
  | .ldsyncWake pa => Sys2Proof.Machine.execLdsyncWake pa s
  | .stripFetch slot => Sys2Proof.Machine.execStripFetch slot s
  | .stripFetchDone slot => Sys2Proof.Machine.execStripFetchDone slot s
  | .stripWrite slot => Sys2Proof.Machine.execStripWrite slot s
  | .drainRecordPost slot => Sys2Proof.Machine.execDrainRecordPost slot s
  | .scopyRecordPost => Sys2Proof.Machine.execScopyRecordPost s
  | .cqCapacityWake => Sys2Proof.Machine.execCqCapacityWake s
  | .walkerAdmit cmd walker => Sys2Proof.Machine.execWalkerAdmit cmd walker s
  | .walkerMigrate cmd walker engine => Sys2Proof.Machine.execWalkerMigrate cmd walker engine s
  | .walkerReadDone cmd walker => Sys2Proof.Machine.execWalkerReadDone cmd walker s
  | .resultWrite cmd walker => Sys2Proof.Machine.execResultWrite cmd walker s
  | .pierRecordPost cmd => Sys2Proof.Machine.execPierRecordPost cmd s
  | .dbgctlHalt core mask => Sys2Proof.Machine.execDbgctlHalt core mask s
  | .debugHaltReached ring => Sys2Proof.Machine.execDebugHaltReached ring s
  | .dbgctlStep core ring on => Sys2Proof.Machine.execDbgctlStep core ring on s
  | .debugStepBreak ring => Sys2Proof.Machine.execDebugStepBreak ring s
  | .gangcfgShapeWrite shape => Sys2Proof.Machine.execGangcfgShapeWrite shape s
  | .pwrcfgWrite core val => Sys2Proof.Machine.execPwrcfgWrite core val s
  | .linkctlNewkey link => Sys2Proof.Machine.execLinkctlNewkey link s
  | .fabcfgFlowgapWrite gap => Sys2Proof.Machine.execFabcfgFlowgapWrite gap s
  | .accessTableStore pa val => Sys2Proof.Machine.execAccessTableStore pa val s
  | .registerWrite pa val => Sys2Proof.Machine.execRegisterWrite pa val s
  | .moduleReset => Sys2Proof.Machine.execModuleReset s
  | .boot b => Sys2Proof.Machine.execBoot b s
  | .coreRetirementMark die cluster phys => Sys2Proof.Machine.execCoreRetirementMark die cluster phys s
  | .droopTrip die => Sys2Proof.Machine.execDroopTrip die s
  | .droopClear die => Sys2Proof.Machine.execDroopClear die s
  | .clockStepDone die => Sys2Proof.Machine.execClockStepDone die s
  | .borrow src dst n => Sys2Proof.Machine.execBorrow src dst n s
  | .grant src dst n => Sys2Proof.Machine.execGrant src dst n s
  | .deny src dst => Sys2Proof.Machine.execDeny src dst s
  | .repay src dst n => Sys2Proof.Machine.execRepay src dst n s
  | .recall src dst n => Sys2Proof.Machine.execRecall src dst n s
  | .borrowRetryExpiry die => Sys2Proof.Machine.execBorrowRetryExpiry die s
  | .timeSyncTick die => Sys2Proof.Machine.execTimeSyncTick die s
  | .thermalCap die => Sys2Proof.Machine.execThermalCap die s
  | .thermalShutdown => Sys2Proof.Machine.execThermalShutdown s
  | .frameReceive link f => Sys2Proof.Machine.execFrameReceive link f s
  | .keyUseLimit link => Sys2Proof.Machine.execKeyUseLimit link s
  | .laneLockLoss link => Sys2Proof.Machine.execLaneLockLoss link s
  | .linkRetrained link => Sys2Proof.Machine.execLinkRetrained link s
  | .linkRecoveryTimeout link lastAccepted => Sys2Proof.Machine.execLinkRecoveryTimeout link lastAccepted s
  | .packetForward sw port chan => Sys2Proof.Machine.execPacketForward sw port chan s
  | .readPacket p => Sys2Proof.Machine.execReadPacket p s
  | .readResponsePacket p => Sys2Proof.Machine.execReadResponsePacket p s
  | .writePacket p => Sys2Proof.Machine.execWritePacket p s
  | .writeResponsePacket p => Sys2Proof.Machine.execWriteResponsePacket p s
  | .atomicPacket p => Sys2Proof.Machine.execAtomicPacket p s
  | .atomicResponsePacket p => Sys2Proof.Machine.execAtomicResponsePacket p s
  | .messagePacket p => Sys2Proof.Machine.execMessagePacket p s
  | .messageResponsePacket p => Sys2Proof.Machine.execMessageResponsePacket p s
  | .stripPacket p => Sys2Proof.Machine.execStripPacket p s
  | .stripResponsePacket p => Sys2Proof.Machine.execStripResponsePacket p s
  | .timeRequest p => Sys2Proof.Machine.execTimeRequest p s
  | .timeReply p => Sys2Proof.Machine.execTimeReply p s
  | .debugPause p => Sys2Proof.Machine.execDebugPause p s
  | .debugThaw p => Sys2Proof.Machine.execDebugThaw p s
  | .deflectionEntry sw p => Sys2Proof.Machine.execDeflectionEntry sw p s
  | .flowletReturn sw p => Sys2Proof.Machine.execFlowletReturn sw p s
  | .heartbeat p => Sys2Proof.Machine.execHeartbeat p s
  | .heartbeatSendTick => Sys2Proof.Machine.execHeartbeatSendTick s
  | .heartbeatTimeout module => Sys2Proof.Machine.execHeartbeatTimeout module s
  | .contribution sw child p => Sys2Proof.Machine.execContribution sw child p s
  | .collectiveResult sw p => Sys2Proof.Machine.execCollectiveResult sw p s
  | .multicastUP sw p => Sys2Proof.Machine.execMulticastUP sw p s
  | .multicastDown sw p => Sys2Proof.Machine.execMulticastDown sw p s
  | .reserve sw p => Sys2Proof.Machine.execReserve sw p s
  | .reserveReply p => Sys2Proof.Machine.execReserveReply p s
  | .entryWrite sw p => Sys2Proof.Machine.execEntryWrite sw p s
  | .entryAcknowledge p => Sys2Proof.Machine.execEntryAcknowledge p s
  | .drain sw p => Sys2Proof.Machine.execDrain sw p s
  | .drainedReport sw p => Sys2Proof.Machine.execDrainedReport sw p s
  | .switchOutCommand jid gseq => Sys2Proof.Machine.execSwitchOutCommand jid gseq s
  | .sweepMarker sw port chan jid => Sys2Proof.Machine.execSweepMarker sw port chan jid s
  | .switchINCommand jid gseq => Sys2Proof.Machine.execSwitchINCommand jid gseq s
  | .switchReport p => Sys2Proof.Machine.execSwitchReport p s
  | .moduleReport p => Sys2Proof.Machine.execModuleReport p s
  | .gangResume jid gseq => Sys2Proof.Machine.execGangResume jid gseq s
  | .gangFailed jid gseq => Sys2Proof.Machine.execGangFailed jid gseq s
  | .rdmaWrite port qpn rkey pa data => Sys2Proof.Machine.execRdmaWrite port qpn rkey pa data s
  | .rdmaRead port qpn rkey pa len => Sys2Proof.Machine.execRdmaRead port qpn rkey pa len s
  | .hostSend port qpn payload => Sys2Proof.Machine.execHostSend port qpn payload s
  | .launch msg rings => Sys2Proof.Machine.execLaunch msg rings s
  | .attest msg => Sys2Proof.Machine.execAttest msg s
  | .moduleFault kind => Sys2Proof.Machine.execModuleFault kind s
  | .wantedPowerChange die watts => Sys2Proof.Machine.execWantedPowerChange die watts s
  | .frameSend link => Sys2Proof.Machine.execFrameSend link s

end Sys2Proof.Machine
end

