-- ==== Sys2Proof/Machine/RunWord.lean ====
section
/-! DEFINITION. The meaning of the instruction of a row and a word, as exec gives it, in a form that Lean can also compile: Lean compiles no term
of type Instr with more than 244 constructors that carry data (the kernel evaluates one). -/

namespace Sys2Proof.Machine

/-- What the instruction of a row does, with its operands read from a word. -/
def runOp (op : Opcode) (w : Word32) (s : State) : Out :=
  match op with
  | .add => execAdd (fld w 21 5) (fld w 16 5) (fld w 11 5) s
  | .sub => execSub (fld w 21 5) (fld w 16 5) (fld w 11 5) s
  | .and => execAnd (fld w 21 5) (fld w 16 5) (fld w 11 5) s
  | .or => execOr (fld w 21 5) (fld w 16 5) (fld w 11 5) s
  | .xor => execXor (fld w 21 5) (fld w 16 5) (fld w 11 5) s
  | .andn => execAndn (fld w 21 5) (fld w 16 5) (fld w 11 5) s
  | .orn => execOrn (fld w 21 5) (fld w 16 5) (fld w 11 5) s
  | .xnor => execXnor (fld w 21 5) (fld w 16 5) (fld w 11 5) s
  | .sll => execSll (fld w 21 5) (fld w 16 5) (fld w 11 5) s
  | .srl => execSrl (fld w 21 5) (fld w 16 5) (fld w 11 5) s
  | .sra => execSra (fld w 21 5) (fld w 16 5) (fld w 11 5) s
  | .rol => execRol (fld w 21 5) (fld w 16 5) (fld w 11 5) s
  | .ror => execRor (fld w 21 5) (fld w 16 5) (fld w 11 5) s
  | .min => execMin (fld w 21 5) (fld w 16 5) (fld w 11 5) s
  | .minu => execMinu (fld w 21 5) (fld w 16 5) (fld w 11 5) s
  | .max => execMax (fld w 21 5) (fld w 16 5) (fld w 11 5) s
  | .maxu => execMaxu (fld w 21 5) (fld w 16 5) (fld w 11 5) s
  | .seq => execSeq (fld w 21 5) (fld w 16 5) (fld w 11 5) s
  | .sne => execSne (fld w 21 5) (fld w 16 5) (fld w 11 5) s
  | .slt => execSlt (fld w 21 5) (fld w 16 5) (fld w 11 5) s
  | .sltu => execSltu (fld w 21 5) (fld w 16 5) (fld w 11 5) s
  | .mul => execMul (fld w 21 5) (fld w 16 5) (fld w 11 5) s
  | .mulh => execMulh (fld w 21 5) (fld w 16 5) (fld w 11 5) s
  | .mulhu => execMulhu (fld w 21 5) (fld w 16 5) (fld w 11 5) s
  | .div => execDiv (fld w 21 5) (fld w 16 5) (fld w 11 5) s
  | .divu => execDivu (fld w 21 5) (fld w 16 5) (fld w 11 5) s
  | .rem => execRem (fld w 21 5) (fld w 16 5) (fld w 11 5) s
  | .remu => execRemu (fld w 21 5) (fld w 16 5) (fld w 11 5) s
  | .clz => execClz (fld w 21 5) (fld w 16 5) s
  | .ctz => execCtz (fld w 21 5) (fld w 16 5) s
  | .popc => execPopc (fld w 21 5) (fld w 16 5) s
  | .bext => execBext (fld w 21 5) (fld w 16 5) (fld w 11 5) s
  | .bdep => execBdep (fld w 21 5) (fld w 16 5) (fld w 11 5) s
  | .bswap => execBswap (fld w 21 5) (fld w 16 5) s
  | .sextB => execSextB (fld w 21 5) (fld w 16 5) s
  | .sextH => execSextH (fld w 21 5) (fld w 16 5) s
  | .sextW => execSextW (fld w 21 5) (fld w 16 5) s
  | .zextB => execZextB (fld w 21 5) (fld w 16 5) s
  | .zextH => execZextH (fld w 21 5) (fld w 16 5) s
  | .zextW => execZextW (fld w 21 5) (fld w 16 5) s
  | .addi => execAddi (fld w 21 5) (fld w 16 5) (fld w 0 16) s
  | .andi => execAndi (fld w 21 5) (fld w 16 5) (fld w 0 16) s
  | .ori => execOri (fld w 21 5) (fld w 16 5) (fld w 0 16) s
  | .xori => execXori (fld w 21 5) (fld w 16 5) (fld w 0 16) s
  | .slli => execSlli (fld w 21 5) (fld w 16 5) (fld w 0 6) s
  | .srli => execSrli (fld w 21 5) (fld w 16 5) (fld w 0 6) s
  | .srai => execSrai (fld w 21 5) (fld w 16 5) (fld w 0 6) s
  | .slti => execSlti (fld w 21 5) (fld w 16 5) (fld w 0 16) s
  | .sltiu => execSltiu (fld w 21 5) (fld w 16 5) (fld w 0 16) s
  | .movz => execMovz (fld w 21 5) (fld w 16 2) (fld w 0 16) s
  | .movk => execMovk (fld w 21 5) (fld w 16 2) (fld w 0 16) s
  | .fadd => execFadd (fld w 21 5) (fld w 16 5) (fld w 11 5) (fld w 9 2) (fld w 6 3) s
  | .fsub => execFsub (fld w 21 5) (fld w 16 5) (fld w 11 5) (fld w 9 2) (fld w 6 3) s
  | .fmul => execFmul (fld w 21 5) (fld w 16 5) (fld w 11 5) (fld w 9 2) (fld w 6 3) s
  | .fdiv => execFdiv (fld w 21 5) (fld w 16 5) (fld w 11 5) (fld w 9 2) (fld w 6 3) s
  | .fsqrt => execFsqrt (fld w 21 5) (fld w 16 5) (fld w 9 2) (fld w 6 3) s
  | .fmin => execFmin (fld w 21 5) (fld w 16 5) (fld w 11 5) (fld w 9 2) s
  | .fmax => execFmax (fld w 21 5) (fld w 16 5) (fld w 11 5) (fld w 9 2) s
  | .feq => execFeq (fld w 21 5) (fld w 16 5) (fld w 11 5) (fld w 9 2) s
  | .flt => execFlt (fld w 21 5) (fld w 16 5) (fld w 11 5) (fld w 9 2) s
  | .fle => execFle (fld w 21 5) (fld w 16 5) (fld w 11 5) (fld w 9 2) s
  | .fclass => execFclass (fld w 21 5) (fld w 16 5) (fld w 9 2) s
  | .fsgnj => execFsgnj (fld w 21 5) (fld w 16 5) (fld w 11 5) (fld w 9 2) s
  | .fsgnjn => execFsgnjn (fld w 21 5) (fld w 16 5) (fld w 11 5) (fld w 9 2) s
  | .fsgnjx => execFsgnjx (fld w 21 5) (fld w 16 5) (fld w 11 5) (fld w 9 2) s
  | .fcvtFF => execFcvtFF (fld w 21 5) (fld w 16 5) (fld w 11 2) (fld w 9 2) (fld w 6 3) s
  | .fcvtFI => execFcvtFI (fld w 21 5) (fld w 16 5) (fld w 11 2) (fld w 9 2) (fld w 6 3) s
  | .fcvtIF => execFcvtIF (fld w 21 5) (fld w 16 5) (fld w 11 2) (fld w 9 2) (fld w 6 3) s
  | .fmadd => execFmadd (fld w 21 5) (fld w 16 5) (fld w 11 5) (fld w 6 5) (fld w 4 2) (fld w 1 3) s
  | .fmsub => execFmsub (fld w 21 5) (fld w 16 5) (fld w 11 5) (fld w 6 5) (fld w 4 2) (fld w 1 3) s
  | .fnmadd => execFnmadd (fld w 21 5) (fld w 16 5) (fld w 11 5) (fld w 6 5) (fld w 4 2) (fld w 1 3) s
  | .j => execJ (fld w 0 26) s
  | .jal => execJal (fld w 0 26) s
  | .jalr => execJalr (fld w 21 5) (fld w 16 5) (fld w 0 16) s
  | .beq => execBeq (fld w 21 5) (fld w 16 5) (fld w 0 13) s
  | .bne => execBne (fld w 21 5) (fld w 16 5) (fld w 0 13) s
  | .blt => execBlt (fld w 21 5) (fld w 16 5) (fld w 0 13) s
  | .bge => execBge (fld w 21 5) (fld w 16 5) (fld w 0 13) s
  | .bltu => execBltu (fld w 21 5) (fld w 16 5) (fld w 0 13) s
  | .bgeu => execBgeu (fld w 21 5) (fld w 16 5) (fld w 0 13) s
  | .ldb => execLdb (fld w 21 5) (fld w 16 5) (fld w 0 13) s
  | .ldbu => execLdbu (fld w 21 5) (fld w 16 5) (fld w 0 13) s
  | .ldh => execLdh (fld w 21 5) (fld w 16 5) (fld w 0 13) s
  | .ldhu => execLdhu (fld w 21 5) (fld w 16 5) (fld w 0 13) s
  | .ldw => execLdw (fld w 21 5) (fld w 16 5) (fld w 0 13) s
  | .ldwu => execLdwu (fld w 21 5) (fld w 16 5) (fld w 0 13) s
  | .ldd => execLdd (fld w 21 5) (fld w 16 5) (fld w 0 13) s
  | .stb => execStb (fld w 21 5) (fld w 16 5) (fld w 0 13) s
  | .sth => execSth (fld w 21 5) (fld w 16 5) (fld w 0 13) s
  | .stw => execStw (fld w 21 5) (fld w 16 5) (fld w 0 13) s
  | .std => execStd (fld w 21 5) (fld w 16 5) (fld w 0 13) s
  | .ldbuAQ => execLdbuAQ (fld w 21 5) (fld w 16 5) (fld w 5 3) s
  | .ldhuAQ => execLdhuAQ (fld w 21 5) (fld w 16 5) (fld w 5 3) s
  | .ldwuAQ => execLdwuAQ (fld w 21 5) (fld w 16 5) (fld w 5 3) s
  | .lddAQ => execLddAQ (fld w 21 5) (fld w 16 5) (fld w 5 3) s
  | .stbRL => execStbRL (fld w 16 5) (fld w 11 5) (fld w 5 3) s
  | .sthRL => execSthRL (fld w 16 5) (fld w 11 5) (fld w 5 3) s
  | .stwRL => execStwRL (fld w 16 5) (fld w 11 5) (fld w 5 3) s
  | .stdRL => execStdRL (fld w 16 5) (fld w 11 5) (fld w 5 3) s
  | .amoadd => execAmoadd (fld w 21 5) (fld w 16 5) (fld w 11 5) (fld w 5 1) (fld w 2 3) (fld w 0 2) s
  | .amoand => execAmoand (fld w 21 5) (fld w 16 5) (fld w 11 5) (fld w 5 1) (fld w 2 3) (fld w 0 2) s
  | .amoor => execAmoor (fld w 21 5) (fld w 16 5) (fld w 11 5) (fld w 5 1) (fld w 2 3) (fld w 0 2) s
  | .amoxor => execAmoxor (fld w 21 5) (fld w 16 5) (fld w 11 5) (fld w 5 1) (fld w 2 3) (fld w 0 2) s
  | .amomin => execAmomin (fld w 21 5) (fld w 16 5) (fld w 11 5) (fld w 5 1) (fld w 2 3) (fld w 0 2) s
  | .amomax => execAmomax (fld w 21 5) (fld w 16 5) (fld w 11 5) (fld w 5 1) (fld w 2 3) (fld w 0 2) s
  | .amominu => execAmominu (fld w 21 5) (fld w 16 5) (fld w 11 5) (fld w 5 1) (fld w 2 3) (fld w 0 2) s
  | .amomaxu => execAmomaxu (fld w 21 5) (fld w 16 5) (fld w 11 5) (fld w 5 1) (fld w 2 3) (fld w 0 2) s
  | .amoswap => execAmoswap (fld w 21 5) (fld w 16 5) (fld w 11 5) (fld w 5 1) (fld w 2 3) (fld w 0 2) s
  | .cas => execCas (fld w 21 5) (fld w 16 5) (fld w 11 5) (fld w 5 1) (fld w 2 3) (fld w 0 2) s
  | .ldsync => execLdsync (fld w 21 5) (fld w 16 5) (fld w 2 3) s
  | .ldtake => execLdtake (fld w 21 5) (fld w 16 5) (fld w 2 3) s
  | .stfill => execStfill (fld w 16 5) (fld w 11 5) (fld w 2 3) s
  | .feclr => execFeclr (fld w 16 5) (fld w 11 5) (fld w 2 3) s
  | .feset => execFeset (fld w 16 5) (fld w 11 5) (fld w 2 3) s
  | .csrr => execCsrr (fld w 21 5) (fld w 0 12) s
  | .csrw => execCsrw (fld w 21 5) (fld w 16 5) (fld w 0 12) s
  | .csrs => execCsrs (fld w 21 5) (fld w 16 5) (fld w 0 12) s
  | .csrc => execCsrc (fld w 21 5) (fld w 16 5) (fld w 0 12) s
  | .fence => execFence (fld w 6 3) (fld w 3 3) (fld w 0 3) s
  | .fenceSV => execFenceSV s
  | .fenceVS => execFenceVS s
  | .fenceVV => execFenceVV s
  | .eret => execEret s
  | .wfi => execWfi s
  | .halt => execHalt s
  | .tlbinv => execTlbinv (fld w 16 5) (fld w 11 5) s
  | .preempt => execPreempt (fld w 16 5) s
  | .ctxsave => execCtxsave (fld w 16 5) (fld w 11 5) s
  | .ctxload => execCtxload (fld w 16 5) (fld w 11 5) s
  | .reshape => execReshape (fld w 16 5) (fld w 11 5) s
  | .trap => execTrap (fld w 0 16) s
  | .vsetvli => execVsetvli (fld w 20 5) (fld w 14 5) (fld w 10 4) (fld w 6 4) s
  | .vsetvl => execVsetvl (fld w 20 5) (fld w 14 5) (fld w 9 5) s
  | .vcfg => execVcfg (fld w 5 2) s
  | .vaddVV => execVaddVV (fld w 20 6) (fld w 14 6) (fld w 8 6) (fld w 5 3) (fld w 0 1) s
  | .vsubVV => execVsubVV (fld w 20 6) (fld w 14 6) (fld w 8 6) (fld w 5 3) (fld w 0 1) s
  | .vmulVV => execVmulVV (fld w 20 6) (fld w 14 6) (fld w 8 6) (fld w 5 3) (fld w 0 1) s
  | .vmulhVV => execVmulhVV (fld w 20 6) (fld w 14 6) (fld w 8 6) (fld w 5 3) (fld w 0 1) s
  | .vdivVV => execVdivVV (fld w 20 6) (fld w 14 6) (fld w 8 6) (fld w 5 3) (fld w 0 1) s
  | .vremVV => execVremVV (fld w 20 6) (fld w 14 6) (fld w 8 6) (fld w 5 3) (fld w 0 1) s
  | .vminVV => execVminVV (fld w 20 6) (fld w 14 6) (fld w 8 6) (fld w 5 3) (fld w 0 1) s
  | .vmaxVV => execVmaxVV (fld w 20 6) (fld w 14 6) (fld w 8 6) (fld w 5 3) (fld w 0 1) s
  | .vandVV => execVandVV (fld w 20 6) (fld w 14 6) (fld w 8 6) (fld w 5 3) (fld w 0 1) s
  | .vorVV => execVorVV (fld w 20 6) (fld w 14 6) (fld w 8 6) (fld w 5 3) (fld w 0 1) s
  | .vxorVV => execVxorVV (fld w 20 6) (fld w 14 6) (fld w 8 6) (fld w 5 3) (fld w 0 1) s
  | .vsllVV => execVsllVV (fld w 20 6) (fld w 14 6) (fld w 8 6) (fld w 5 3) (fld w 0 1) s
  | .vsrlVV => execVsrlVV (fld w 20 6) (fld w 14 6) (fld w 8 6) (fld w 5 3) (fld w 0 1) s
  | .vsraVV => execVsraVV (fld w 20 6) (fld w 14 6) (fld w 8 6) (fld w 5 3) (fld w 0 1) s
  | .vsaddVV => execVsaddVV (fld w 20 6) (fld w 14 6) (fld w 8 6) (fld w 5 3) (fld w 0 1) s
  | .vssubVV => execVssubVV (fld w 20 6) (fld w 14 6) (fld w 8 6) (fld w 5 3) (fld w 0 1) s
  | .vaddVS => execVaddVS (fld w 20 6) (fld w 14 6) (fld w 9 5) (fld w 5 3) (fld w 0 1) s
  | .vsubVS => execVsubVS (fld w 20 6) (fld w 14 6) (fld w 9 5) (fld w 5 3) (fld w 0 1) s
  | .vmulVS => execVmulVS (fld w 20 6) (fld w 14 6) (fld w 9 5) (fld w 5 3) (fld w 0 1) s
  | .vmulhVS => execVmulhVS (fld w 20 6) (fld w 14 6) (fld w 9 5) (fld w 5 3) (fld w 0 1) s
  | .vdivVS => execVdivVS (fld w 20 6) (fld w 14 6) (fld w 9 5) (fld w 5 3) (fld w 0 1) s
  | .vremVS => execVremVS (fld w 20 6) (fld w 14 6) (fld w 9 5) (fld w 5 3) (fld w 0 1) s
  | .vminVS => execVminVS (fld w 20 6) (fld w 14 6) (fld w 9 5) (fld w 5 3) (fld w 0 1) s
  | .vmaxVS => execVmaxVS (fld w 20 6) (fld w 14 6) (fld w 9 5) (fld w 5 3) (fld w 0 1) s
  | .vandVS => execVandVS (fld w 20 6) (fld w 14 6) (fld w 9 5) (fld w 5 3) (fld w 0 1) s
  | .vorVS => execVorVS (fld w 20 6) (fld w 14 6) (fld w 9 5) (fld w 5 3) (fld w 0 1) s
  | .vxorVS => execVxorVS (fld w 20 6) (fld w 14 6) (fld w 9 5) (fld w 5 3) (fld w 0 1) s
  | .vsllVS => execVsllVS (fld w 20 6) (fld w 14 6) (fld w 9 5) (fld w 5 3) (fld w 0 1) s
  | .vsrlVS => execVsrlVS (fld w 20 6) (fld w 14 6) (fld w 9 5) (fld w 5 3) (fld w 0 1) s
  | .vsraVS => execVsraVS (fld w 20 6) (fld w 14 6) (fld w 9 5) (fld w 5 3) (fld w 0 1) s
  | .vsaddVS => execVsaddVS (fld w 20 6) (fld w 14 6) (fld w 9 5) (fld w 5 3) (fld w 0 1) s
  | .vssubVS => execVssubVS (fld w 20 6) (fld w 14 6) (fld w 9 5) (fld w 5 3) (fld w 0 1) s
  | .vrsubVS => execVrsubVS (fld w 20 6) (fld w 14 6) (fld w 9 5) (fld w 5 3) (fld w 0 1) s
  | .vmaddVS => execVmaddVS (fld w 20 6) (fld w 14 6) (fld w 9 5) (fld w 5 3) (fld w 0 1) s
  | .vmsacVS => execVmsacVS (fld w 20 6) (fld w 14 6) (fld w 9 5) (fld w 5 3) (fld w 0 1) s
  | .vwaddVS => execVwaddVS (fld w 20 6) (fld w 14 6) (fld w 9 5) (fld w 5 3) (fld w 0 1) s
  | .vwmulVS => execVwmulVS (fld w 20 6) (fld w 14 6) (fld w 9 5) (fld w 5 3) (fld w 0 1) s
  | .vaddVI => execVaddVI (fld w 20 6) (fld w 14 6) (fld w 8 6) (fld w 5 3) (fld w 0 1) s
  | .vrsubVI => execVrsubVI (fld w 20 6) (fld w 14 6) (fld w 8 6) (fld w 5 3) (fld w 0 1) s
  | .vandVI => execVandVI (fld w 20 6) (fld w 14 6) (fld w 8 6) (fld w 5 3) (fld w 0 1) s
  | .vorVI => execVorVI (fld w 20 6) (fld w 14 6) (fld w 8 6) (fld w 5 3) (fld w 0 1) s
  | .vxorVI => execVxorVI (fld w 20 6) (fld w 14 6) (fld w 8 6) (fld w 5 3) (fld w 0 1) s
  | .vsllVI => execVsllVI (fld w 20 6) (fld w 14 6) (fld w 8 6) (fld w 5 3) (fld w 0 1) s
  | .vsrlVI => execVsrlVI (fld w 20 6) (fld w 14 6) (fld w 8 6) (fld w 5 3) (fld w 0 1) s
  | .vsraVI => execVsraVI (fld w 20 6) (fld w 14 6) (fld w 8 6) (fld w 5 3) (fld w 0 1) s
  | .vsaddVI => execVsaddVI (fld w 20 6) (fld w 14 6) (fld w 8 6) (fld w 5 3) (fld w 0 1) s
  | .vminVI => execVminVI (fld w 20 6) (fld w 14 6) (fld w 8 6) (fld w 5 3) (fld w 0 1) s
  | .vmaxVI => execVmaxVI (fld w 20 6) (fld w 14 6) (fld w 8 6) (fld w 5 3) (fld w 0 1) s
  | .vmaddVV => execVmaddVV (fld w 20 6) (fld w 14 6) (fld w 8 6) (fld w 5 3) (fld w 0 1) s
  | .vmsacVV => execVmsacVV (fld w 20 6) (fld w 14 6) (fld w 8 6) (fld w 5 3) (fld w 0 1) s
  | .vwaddVV => execVwaddVV (fld w 20 6) (fld w 14 6) (fld w 8 6) (fld w 5 3) (fld w 0 1) s
  | .vwmulVV => execVwmulVV (fld w 20 6) (fld w 14 6) (fld w 8 6) (fld w 5 3) (fld w 0 1) s
  | .vdot4 => execVdot4 (fld w 20 6) (fld w 14 6) (fld w 8 6) (fld w 5 3) (fld w 0 1) s
  | .vdot4Sat => execVdot4Sat (fld w 20 6) (fld w 14 6) (fld w 8 6) (fld w 5 3) (fld w 0 1) s
  | .vfaddVV => execVfaddVV (fld w 20 6) (fld w 14 6) (fld w 8 6) (fld w 5 3) (fld w 0 1) s
  | .vfsubVV => execVfsubVV (fld w 20 6) (fld w 14 6) (fld w 8 6) (fld w 5 3) (fld w 0 1) s
  | .vfmulVV => execVfmulVV (fld w 20 6) (fld w 14 6) (fld w 8 6) (fld w 5 3) (fld w 0 1) s
  | .vfdivVV => execVfdivVV (fld w 20 6) (fld w 14 6) (fld w 8 6) (fld w 5 3) (fld w 0 1) s
  | .vfsqrt => execVfsqrt (fld w 20 6) (fld w 14 6) (fld w 5 3) (fld w 0 1) s
  | .vfrsqrt => execVfrsqrt (fld w 20 6) (fld w 14 6) (fld w 5 3) (fld w 0 1) s
  | .vfmaVV => execVfmaVV (fld w 20 6) (fld w 14 6) (fld w 8 6) (fld w 5 3) (fld w 0 1) s
  | .vfmsVV => execVfmsVV (fld w 20 6) (fld w 14 6) (fld w 8 6) (fld w 5 3) (fld w 0 1) s
  | .vfnmaVV => execVfnmaVV (fld w 20 6) (fld w 14 6) (fld w 8 6) (fld w 5 3) (fld w 0 1) s
  | .vfminVV => execVfminVV (fld w 20 6) (fld w 14 6) (fld w 8 6) (fld w 5 3) (fld w 0 1) s
  | .vfmaxVV => execVfmaxVV (fld w 20 6) (fld w 14 6) (fld w 8 6) (fld w 5 3) (fld w 0 1) s
  | .vfclass => execVfclass (fld w 20 6) (fld w 14 6) (fld w 5 3) (fld w 0 1) s
  | .vfsgnjVV => execVfsgnjVV (fld w 20 6) (fld w 14 6) (fld w 8 6) (fld w 5 3) (fld w 0 1) s
  | .vfsgnjnVV => execVfsgnjnVV (fld w 20 6) (fld w 14 6) (fld w 8 6) (fld w 5 3) (fld w 0 1) s
  | .vfsgnjxVV => execVfsgnjxVV (fld w 20 6) (fld w 14 6) (fld w 8 6) (fld w 5 3) (fld w 0 1) s
  | .vfaddVS => execVfaddVS (fld w 20 6) (fld w 14 6) (fld w 9 5) (fld w 5 3) (fld w 0 1) s
  | .vfsubVS => execVfsubVS (fld w 20 6) (fld w 14 6) (fld w 9 5) (fld w 5 3) (fld w 0 1) s
  | .vfmulVS => execVfmulVS (fld w 20 6) (fld w 14 6) (fld w 9 5) (fld w 5 3) (fld w 0 1) s
  | .vfdivVS => execVfdivVS (fld w 20 6) (fld w 14 6) (fld w 9 5) (fld w 5 3) (fld w 0 1) s
  | .vfmaVS => execVfmaVS (fld w 20 6) (fld w 14 6) (fld w 9 5) (fld w 5 3) (fld w 0 1) s
  | .vfmsVS => execVfmsVS (fld w 20 6) (fld w 14 6) (fld w 9 5) (fld w 5 3) (fld w 0 1) s
  | .vfnmaVS => execVfnmaVS (fld w 20 6) (fld w 14 6) (fld w 9 5) (fld w 5 3) (fld w 0 1) s
  | .vfminVS => execVfminVS (fld w 20 6) (fld w 14 6) (fld w 9 5) (fld w 5 3) (fld w 0 1) s
  | .vfmaxVS => execVfmaxVS (fld w 20 6) (fld w 14 6) (fld w 9 5) (fld w 5 3) (fld w 0 1) s
  | .vfsgnjVS => execVfsgnjVS (fld w 20 6) (fld w 14 6) (fld w 9 5) (fld w 5 3) (fld w 0 1) s
  | .vfsgnjnVS => execVfsgnjnVS (fld w 20 6) (fld w 14 6) (fld w 9 5) (fld w 5 3) (fld w 0 1) s
  | .vfsgnjxVS => execVfsgnjxVS (fld w 20 6) (fld w 14 6) (fld w 9 5) (fld w 5 3) (fld w 0 1) s
  | .vmseqVV => execVmseqVV (fld w 20 3) (fld w 14 6) (fld w 8 6) (fld w 5 3) (fld w 0 1) s
  | .vmsneVV => execVmsneVV (fld w 20 3) (fld w 14 6) (fld w 8 6) (fld w 5 3) (fld w 0 1) s
  | .vmsltVV => execVmsltVV (fld w 20 3) (fld w 14 6) (fld w 8 6) (fld w 5 3) (fld w 0 1) s
  | .vmsleVV => execVmsleVV (fld w 20 3) (fld w 14 6) (fld w 8 6) (fld w 5 3) (fld w 0 1) s
  | .vmfeqVV => execVmfeqVV (fld w 20 3) (fld w 14 6) (fld w 8 6) (fld w 5 3) (fld w 0 1) s
  | .vmfltVV => execVmfltVV (fld w 20 3) (fld w 14 6) (fld w 8 6) (fld w 5 3) (fld w 0 1) s
  | .vmfleVV => execVmfleVV (fld w 20 3) (fld w 14 6) (fld w 8 6) (fld w 5 3) (fld w 0 1) s
  | .vmseqVS => execVmseqVS (fld w 20 3) (fld w 14 6) (fld w 9 5) (fld w 5 3) (fld w 0 1) s
  | .vmsneVS => execVmsneVS (fld w 20 3) (fld w 14 6) (fld w 9 5) (fld w 5 3) (fld w 0 1) s
  | .vmsltVS => execVmsltVS (fld w 20 3) (fld w 14 6) (fld w 9 5) (fld w 5 3) (fld w 0 1) s
  | .vmsleVS => execVmsleVS (fld w 20 3) (fld w 14 6) (fld w 9 5) (fld w 5 3) (fld w 0 1) s
  | .vmfeqVS => execVmfeqVS (fld w 20 3) (fld w 14 6) (fld w 9 5) (fld w 5 3) (fld w 0 1) s
  | .vmfltVS => execVmfltVS (fld w 20 3) (fld w 14 6) (fld w 9 5) (fld w 5 3) (fld w 0 1) s
  | .vmfleVS => execVmfleVS (fld w 20 3) (fld w 14 6) (fld w 9 5) (fld w 5 3) (fld w 0 1) s
  | .vmand => execVmand (fld w 20 3) (fld w 14 3) (fld w 8 3) (fld w 5 3) (fld w 0 1) s
  | .vmor => execVmor (fld w 20 3) (fld w 14 3) (fld w 8 3) (fld w 5 3) (fld w 0 1) s
  | .vmxor => execVmxor (fld w 20 3) (fld w 14 3) (fld w 8 3) (fld w 5 3) (fld w 0 1) s
  | .vmandn => execVmandn (fld w 20 3) (fld w 14 3) (fld w 8 3) (fld w 5 3) (fld w 0 1) s
  | .vcpop => execVcpop (fld w 20 5) (fld w 14 3) (fld w 5 3) (fld w 0 1) s
  | .vfirst => execVfirst (fld w 20 5) (fld w 14 3) (fld w 5 3) (fld w 0 1) s
  | .vmvVV => execVmvVV (fld w 20 6) (fld w 14 6) (fld w 5 3) (fld w 0 1) s
  | .vmvsx => execVmvsx (fld w 20 6) (fld w 9 5) (fld w 5 3) (fld w 0 1) s
  | .vmvxs => execVmvxs (fld w 20 5) (fld w 14 6) (fld w 5 3) (fld w 0 1) s
  | .vslideupVS => execVslideupVS (fld w 20 6) (fld w 14 6) (fld w 9 5) (fld w 5 3) (fld w 0 1) s
  | .vslidednVS => execVslidednVS (fld w 20 6) (fld w 14 6) (fld w 9 5) (fld w 5 3) (fld w 0 1) s
  | .vslideupVI => execVslideupVI (fld w 20 6) (fld w 14 6) (fld w 8 6) (fld w 5 3) (fld w 0 1) s
  | .vslidednVI => execVslidednVI (fld w 20 6) (fld w 14 6) (fld w 8 6) (fld w 5 3) (fld w 0 1) s
  | .vperm => execVperm (fld w 20 6) (fld w 14 6) (fld w 8 6) (fld w 5 3) (fld w 0 1) s
  | .vcompress => execVcompress (fld w 20 6) (fld w 14 6) (fld w 5 3) (fld w 0 1) s
  | .viota => execViota (fld w 20 6) (fld w 5 3) (fld w 0 1) s
  | .vid => execVid (fld w 20 6) (fld w 5 3) (fld w 0 1) s
  | .vnzscan => execVnzscan (fld w 20 6) (fld w 14 6) (fld w 9 5) (fld w 5 3) (fld w 0 1) s
  | .vconfl => execVconfl (fld w 20 3) (fld w 14 6) (fld w 5 3) (fld w 0 1) s
  | .vmvVI => execVmvVI (fld w 20 6) (fld w 8 6) (fld w 5 3) (fld w 0 1) s
  | .vmvVS => execVmvVS (fld w 20 6) (fld w 9 5) (fld w 5 3) (fld w 0 1) s
  | .vredsum => execVredsum (fld w 20 5) (fld w 14 6) (fld w 9 5) (fld w 5 3) (fld w 0 1) s
  | .vredmin => execVredmin (fld w 20 5) (fld w 14 6) (fld w 9 5) (fld w 5 3) (fld w 0 1) s
  | .vredmax => execVredmax (fld w 20 5) (fld w 14 6) (fld w 9 5) (fld w 5 3) (fld w 0 1) s
  | .vredand => execVredand (fld w 20 5) (fld w 14 6) (fld w 9 5) (fld w 5 3) (fld w 0 1) s
  | .vredor => execVredor (fld w 20 5) (fld w 14 6) (fld w 9 5) (fld w 5 3) (fld w 0 1) s
  | .vfredsum => execVfredsum (fld w 20 5) (fld w 14 6) (fld w 9 5) (fld w 5 3) (fld w 0 1) s
  | .vfredosum => execVfredosum (fld w 20 5) (fld w 14 6) (fld w 9 5) (fld w 5 3) (fld w 0 1) s
  | .vfredmin => execVfredmin (fld w 20 5) (fld w 14 6) (fld w 9 5) (fld w 5 3) (fld w 0 1) s
  | .vfredmax => execVfredmax (fld w 20 5) (fld w 14 6) (fld w 9 5) (fld w 5 3) (fld w 0 1) s
  | .vld => execVld (fld w 20 6) (fld w 14 5) (fld w 5 3) (fld w 1 2) (fld w 0 1) s
  | .vlds => execVlds (fld w 20 6) (fld w 14 5) (fld w 9 5) (fld w 5 3) (fld w 1 2) (fld w 0 1) s
  | .vldx => execVldx (fld w 20 6) (fld w 14 5) (fld w 8 6) (fld w 5 3) (fld w 1 2) (fld w 0 1) s
  | .vldseg => execVldseg (fld w 20 6) (fld w 14 5) (fld w 8 6) (fld w 5 3) (fld w 1 2) (fld w 0 1) s
  | .vst => execVst (fld w 20 6) (fld w 14 5) (fld w 5 3) (fld w 0 1) s
  | .vsts => execVsts (fld w 20 6) (fld w 14 5) (fld w 9 5) (fld w 5 3) (fld w 0 1) s
  | .vstx => execVstx (fld w 20 6) (fld w 14 5) (fld w 8 6) (fld w 5 3) (fld w 0 1) s
  | .vstseg => execVstseg (fld w 20 6) (fld w 14 5) (fld w 8 6) (fld w 5 3) (fld w 0 1) s
  | .vcvt => execVcvt (fld w 20 6) (fld w 14 6) (fld w 8 4) (fld w 5 3) (fld w 0 1) s
  | .vxpand => execVxpand (fld w 20 6) (fld w 14 6) (fld w 8 6) (fld w 5 3) (fld w 0 1) s
  | .vqblkF4 => execVqblkF4 (fld w 20 6) (fld w 14 6) (fld w 8 6) (fld w 5 3) (fld w 0 1) s
  | .vqblkI8 => execVqblkI8 (fld w 20 6) (fld w 14 6) (fld w 8 6) (fld w 5 3) (fld w 0 1) s
  | .vdqblkF4 => execVdqblkF4 (fld w 20 6) (fld w 14 6) (fld w 8 6) (fld w 5 3) (fld w 0 1) s
  | .vdqblkI8 => execVdqblkI8 (fld w 20 6) (fld w 14 6) (fld w 8 6) (fld w 5 3) (fld w 0 1) s
  | .tshape => execTshape (fld w 18 5) s
  | .tzero => execTzero (fld w 24 2) s
  | .tlda => execTlda (fld w 18 5) (fld w 12 5) s
  | .tldb => execTldb (fld w 18 5) (fld w 12 5) s
  | .tmma => execTmma (fld w 24 2) s
  | .tmmaSX => execTmmaSX (fld w 24 2) s
  | .tstz => execTstz (fld w 24 2) (fld w 18 5) (fld w 12 5) s
  | .tmvz => execTmvz (fld w 24 2) (fld w 18 6) (fld w 12 5) s
  | .tldaMC => execTldaMC (fld w 18 5) (fld w 12 5) (fld w 3 5) s
  | .tldbMC => execTldbMC (fld w 18 5) (fld w 12 5) (fld w 3 5) s
  | .tmmaSat => execTmmaSat (fld w 24 2) s
  | .fork => execFork (fld w 21 5) (fld w 16 5) (fld w 0 16) s
  | .join => execJoin s
  | .keywait => execKeywait s
  | .doneStrand => execDoneStrand s
  | .waitmsg => execWaitmsg (fld w 16 5) s
  | .send => execSend (fld w 16 5) (fld w 11 5) s
  | .sendi => execSendi (fld w 16 5) (fld w 11 5) s
  | .rgsetl => execRgsetl (fld w 22 4) (fld w 16 5) s
  | .widf => execWidf (fld w 21 5) (fld w 0 6) s
  | .sbind => execSbind (fld w 16 5) (fld w 0 6) s
  | .sunbind => execSunbind (fld w 0 6) s
  | .sdrain => execSdrain (fld w 0 6) s
  | .scopy => execScopy (fld w 16 5) (fld w 11 5) s
  | .scopyF => execScopyF (fld w 16 5) (fld w 11 5) s
  | .sisectC => execSisectC (fld w 21 5) (fld w 16 3) (fld w 11 3) s
  | .sisectW => execSisectW (fld w 21 5) (fld w 16 3) (fld w 11 3) (fld w 0 6) s
  | .cqwait => execCqwait s
  | .cqpop => execCqpop (fld w 22 4) s
  | .walk => execWalk (fld w 16 5) (fld w 11 5) s
  | .chase => execChase (fld w 20 6) (fld w 14 6) (fld w 9 5) (fld w 5 3) s
  | .pgather => execPgather (fld w 20 6) (fld w 14 6) (fld w 9 5) (fld w 5 3) s
  | .grpset => execGrpset (fld w 16 5) (fld w 11 5) s
  | .grpfree => execGrpfree (fld w 16 5) s
  | .nred => execNred (fld w 16 5) (fld w 11 5) (fld w 4 2) (fld w 2 2) s
  | .nmcast => execNmcast (fld w 16 5) (fld w 11 5) s
  | .gswOut => execGswOut (fld w 16 5) s
  | .gswIN => execGswIN (fld w 16 5) s
  | .pfx => execPfx (fld w 25 1) (fld w 20 5) (fld w 19 1) (fld w 13 6) s

/-- The instruction of a row runs as exec gives it. -/
theorem runOp_eq (op : Opcode) (w : Word32) (s : State) : runOp op w s = exec (op.build w) s := by
  cases op <;> rfl

end Sys2Proof.Machine
end

