-- ==== Sys2Proof/Machine/Schedule.lean ====
section
/-! DEFINITION. What moves next, and the run of one instruction: the fetch (spec/02 R23; spec/14 R276), the word under its prefix and in its
convoy (spec/02 R43, R44; spec/04 R107), the instruction set of a management core (spec/19 R379), single steps (spec/20 R406), and the order in
which strands, engines, buffers and switches move where the agenda names nothing (DESIGN CHOICE, logs 3 to 6). -/

namespace Sys2Proof.Machine

/-! ### One instruction -/

/-- The meaning of the instruction of a row and a word. -/
noncomputable def execWord (op : Opcode) (w : Word32) (s : State) : Out := exec (op.build w) s

/-- Lean compiles it as runOp. -/
@[csimp] theorem execWord_eq_runOp : @execWord = @runOp := by
  funext op w s
  exact (runOp_eq op w s).symm

/-- The instructions of a management core (R379): majors 0x01 to 0x1F, cqwait, cqpop, grpset, grpfree and gsw. -/
def mgmtExecutes (op : Opcode) (w : Word32) : Bool :=
  decide ((fld w 26 6 : BitVec 6).toNat ≤ 0x1F) || op == .cqwait || op == .cqpop || op == .grpset || op == .grpfree || op == .gswOut || op == .gswIN

/-- Runs the instruction of a word (R83, R107, R379). -/
def runWord (w : Word32) (s : State) : Out :=
  match decodeOp w with
  | .error _ => runScalar (ill w) s
  | .ok op =>
    if s.onMgmt.isSome && !mgmtExecutes op w then runScalar (ill w) s
    else
      match s.hart.pfx with
      | some p => underPrefix p op w (execWord op w) s
      | none => execWord op w s

/-- The next instruction of the executing strand: the next member of its convoy, or the word at its pc, whose fetch may trap (R44, R83). -/
def runNext (s : State) : Out :=
  match s.hart.convoy with
  | w :: _ => runWord w s
  | [] =>
    match fetchWord s.hart.sc.pc s with
    | .ok w t => runWord w t
    | .error _ _ => runScalar (do let _ ← fetchWord s.hart.sc.pc) s

/-- A step's next state changed. -/
def mapNext (f : State → State) (o : Out) : Out :=
  match o with
  | .next t => .next (f t)
  | .fault r => .fault r
  | .refused r => .refused r

/-- On a stepped ring, an instruction of the keystone's strand at U that has completed is noted, and its stop is due (R406). -/
def noteStep (was t : State) : State :=
  if was.ring.stepping && was.onMgmt.isNone && was.ring.active == 0 && was.hart.level == .u && t.hart.level == .u && t.cur == was.cur && t.ring.state == .running
      && t.hart.park == .running && t.hart.state == .run && !t.ring.chunks.isEmpty then
    { t with ring := { t.ring with stepped := some was.hart.sc.pc } }
  else t

/-- The next instruction of the executing strand, stepped or not. -/
def runInstr (s : State) : Out := mapNext (noteStep s) (runNext s)

/-! ### Engines and the vector unit, where they do not lag -/

/-- Whether the executing strand has nothing in its engines. -/
def enginesIdle (h : Hart) : Bool :=
  h.copies.isEmpty && h.piers.isEmpty && h.slots.toList.all fun sl => sl.emitted.isEmpty && sl.drains.isEmpty

/-- A pier command of the executing strand runs to its end, if no other module holds it up. -/
def settlePier (s : State) : State :=
  match s.hart.piers with
  | [] => s
  | c :: t =>
    match engineRun s c.cmdNo (runWalkers 0 c.walkers.length c) with
    | (s1, some d) => { s1 with hart := { s1.hart with piers := t }.post d.record }
    | (s1, none) => s1

/-- The engines of the executing strand finish what they hold. -/
def settleEngines (s : State) : State :=
  if s.lag || enginesIdle s.hart then s
  else
    let s1 := match execScopyRecordPost s with
      | .next t => t
      | _ => s
    settleSlots (settlePier s1)

/-- Whether the scalar instruction in flight has all its replies: it is before any boundary, and its results land first (R391). -/
def Hart.landing (h : Hart) : Bool := !h.remote.isEmpty && h.remote.all fun r => r.reply.isSome

/-- The executing strand, in state RUN, moves: a due stop or live-in values first, then an instruction whose replies have come, then a pending event, then
the queue where the vector unit does not lag, then the scalar thread. -/
def moveStrand (s : State) : Out :=
  if s.ring.stepped.isSome then
    (if s.hart.queue.isEmpty then execDebugStepBreak s.cur s else if s.lag then .next s else drainQueue s.hart.queue.length s)
  else if !s.lag && s.hart.awaiting != 0 && (incoming s s.ring.active).isSome then .next (receiveLiveins s)
  else if s.hart.landing || (servedHere s).isSome then runInstr s
  else if s.ring.active == 0 && asyncEnabled s && (asyncDue s).isSome then serveAsync s
  else
    let s1 := settleEngines s
    if s1.hart.queue.isEmpty then runInstr s1
    else if s1.lag then (if s1.ring.stepping then .next s1 else runInstr s1)
    else
      match drainQueue s1.hart.queue.length s1 with
      | .next t => if t.hart.queue.length < s1.hart.queue.length || t.hart.state != .run then .next t else runInstr t
      | r => r

/-- The executing keystone in COMMIT moves: a pending event is taken at its done or join (R252, R369), what its vector queue holds completes, and then it
commits. -/
def moveCommit (s : State) : Out :=
  if asyncEnabled s && (asyncDue s).isSome then serveAsync s
  else if s.hart.queue.isEmpty || s.lag then .next (commitKeystone s)
  else drainQueue s.hart.queue.length s

/-- The executing chunk or strand moves, by its state (R236): in START it has its scalar image and goes to RUN. -/
def moveHart (s : State) : Out :=
  match s.hart.state with
  | .start => moveStrand { s with hart := { s.hart with state := .run } }
  | .run => moveStrand s
  | .hold _ => .next (if s.ring.active = 0 then keystoneReaches s else receiveLiveins s)
  | .commit _ => if s.ring.active = 0 then moveCommit s else .next s
  | .squash => .next (if mayRestart s then { s with hart := s.hart.restart } else s)

/-- The executing ring moves (R246, R390, R405). -/
def moveRing (s : State) : Out :=
  if s.ring.halted || s.ring.absent then .next s
  else if s.ring.haltReq then execDebugHaltReached s.cur s
  else
    match s.ring.state with
    | .empty => .next (dispatchHere s)
    | .stopped => .next (dispatchHere s)
    | .running =>
      if s.ring.chunks.isEmpty then (if (asyncDue s).isSome then serveAsync s else .next (dispatchHere s)) else moveHart s

/-- The executing management core moves: an event that is due first (R362). -/
def moveMgmt (s : State) (a : BitVec 1) : Out :=
  let c := s.mgmtAt a
  if c.stopped then .next s
  else if c.mie && !c.events.isEmpty && s.hart.remote.isEmpty then .next (takeMEvent s a)
  else runNext s

/-- The executing agent moves. -/
def move (s : State) : Out :=
  match s.onMgmt with
  | some a => moveMgmt s a
  | none => moveRing s

/-! ### Which agent (log 3) -/

/-- Whether a ring has something to do by itself. -/
def ringReady (s : State) (n : BitVec 6) : Bool :=
  let r := s.ringAt n
  if r.halted || r.absent then false
  else
    match r.state with
    | .empty => !r.unavailable && (nextActor s n).isSome
    | .stopped => r.overrun && !r.unavailable
    | .running =>
      !r.chunks.isEmpty || r.ppre || r.pact || r.ptmo || (nextActor s n).isSome
        || (s.actors.any fun (a : Actor) => r.resident == some (a.jid, a.aid) && a.runnable)

/-- Whether the executing agent goes on: it is not parked, and executes its ring's keystone. -/
def goesOn (s : State) : Bool :=
  match s.onMgmt with
  | some a => !(s.mgmtAt a).stopped && s.hart.park == .running
  | none => s.ring.active == 0 && s.hart.park == .running && ringReady s s.cur

/-- The agent that moves: the executing one if it goes on, else the next ring in number that is ready. -/
def chooseAgent (s : State) : State :=
  if goesOn s then s
  else
    match ((List.range 64).map fun i => s.cur + 1 + BitVec.ofNat 6 i).find? (ringReady s) with
    | some n => turnTo s n 0
    | none => s

/-! ### Buffers, switches and the host -/

/-- The first outbound message of a ring that may be injected is, up to n times. -/
def injectFrom (n : BitVec 6) : Nat → State → State
  | 0, s => s
  | k + 1, s =>
    match (List.range (s.ringAt n).outbound.length).find? (mayInject (s.ringAt n)) with
    | some i => injectFrom n k (injectAt s n i)
    | none => s

/-- The outbound messages of a ring are injected as far as they may be; those refused before are offered again (R250). -/
def injectRing (s : State) (n : BitVec 6) : State :=
  if (s.ringAt n).outbound.isEmpty then s
  else
    let s1 := s.modRingAt n fun r => { r with outbound := r.outbound.map fun o => { o with waiting := false } }
    injectFrom n (s1.ringAt n).outbound.length s1

/-- Waiters of a word whose core no longer waits are gone (R313). -/
def cleanWaiters (s : State) : State := { s with waiters := s.waiters.filter (Waiter.parked s) }

/-- Whether nothing waits in a buffer, a switch, a gang switch or a host operation. -/
def quiet (s : State) : Bool :=
  s.heldOut.isEmpty && s.hostWaits.isEmpty && s.gang.isEmpty && s.jobs.isEmpty && s.waiters.isEmpty && s.ring.outbound.isEmpty
    && (s.rings.toList.all fun r => r.outbound.isEmpty) && s.switches.all fun w => w.buf.isEmpty && w.overflow.isEmpty && w.ringRes.isEmpty

/-- What the management core's firmware and the debug pauses have to follow: pauses of halting dies (R405), marks for retirement (R422), and jobs whose
write-back was lost (R292). -/
def settleFirmware (s : State) : State :=
  let s1 := if (s.mgmtAt 0).dbgHalt = 0 && (s.mgmtAt 1).dbgHalt = 0 && s.paused.isEmpty then s else syncPauses s
  let s2 := s1.retireDue.foldl recordMark s1
  if s2.lost.isEmpty then s2 else failLost s2

/-- What buffers, switches and the host do by themselves. -/
def settle (s0 : State) : State :=
  let s := settleFirmware s0
  if quiet s then s
  else
    let s1 := if s.lag then s else allRings.foldl injectRing s
    cleanWaiters (settleHost (settleFabric s1))

/-! ### Time (R413, R414; log 6) -/

/-- A count and what it is held back by, after t nanoseconds (R414). -/
def advanceCount (count back t : Word) : Word × Word := if back < t then (count + (t - back), 0) else (count, back - t)

/-- Time passes (R411 to R414): the counts D and the reference move by a free value, each die's cycle count by one of its own clock's, and those of the
abutment dies by one of theirs. -/
def tick (s : State) : State :=
  let c := BitVec.ofNat 64 (Config.stepCycles s.fresh)
  let t := BitVec.ofNat 64 (Config.stepNanos s.fresh)
  let ref := advanceCount s.reference s.refBack t
  { s with
    dies := Vector.ofFn fun i =>
      let d := s.dies[i]
      let n := advanceCount d.count d.back t
      { d with
        count := n.1, back := n.2
        cycle := if dieHalted s (BitVec.ofNat 3 i.val) then d.cycle
          else d.cycle + BitVec.ofNat 64 (Config.dieCycles s.fresh i.val d.step d.stretched) }
    reference := ref.1
    refBack := ref.2
    joined := s.joined || anyStrand s
    mgmt := s.mgmt.map fun m => { m with cycle := m.cycle + c }
    fresh := s.fresh + 1 }

/-! ### The agenda (log 3) -/

/-- Runs the chunk in a slot of the executing ring once. -/
def moveSlot (s : State) (n : BitVec 3) : Out :=
  if s.onMgmt.isSome || s.ring.state != .running || s.ring.halted || s.ring.absent then .next s
  else
    let s1 := putBack s
    match chunkIn s1 n with
    | none => .next s
    | some i => mapNext (turnBack s) (moveHart (loadRing s1 s.cur i))

/-- A remote key posted by the host: one of its number on the port is replaced; a port holds 1,024, and each names a SPACE 0 range in units of 4 KiB (R471). -/
def putRemoteKey (s : State) (k : RemoteKey) : State :=
  let rest := s.keys.filter fun x => !(x.port == k.port && x.key == k.key)
  if 1024 ≤ (rest.filter fun x => x.port == k.port).length || k.base.toNat % 4096 != 0 || k.len.toNat % 4096 != 0 || paSpace1 k.base.toNat then s
  else { s with keys := rest ++ [k] }

/-- The bit of a tile buffer in Hart.tBad. -/
def tileBit (b scale : Bool) : BitVec 4 := 1#4 <<< ((if b then 1 else 0) + if scale then 2 else 0)

/-- An uncorrectable error in storage of a strand's core (R290, R291); s0 and k0 hold none. -/
def Hart.strike (h : Hart) : RegName → Hart
  | .x r => if r = 0 then h else { h with sc := { h.sc with bad := set32 h.sc.bad r } }
  | .v r => { h with vBad := h.vBad ||| (1#64 <<< r.toNat) }
  | .k r => if r = 0 then h else { h with kBad := h.kBad ||| (1#8 <<< r.toNat) }
  | .z r => { h with zBad := h.zBad ||| (1#4 <<< r.toNat) }
  | .tile b scale => { h with tBad := h.tBad ||| tileBit b scale }
  | .queue i => { h with queue := h.queue.modify i fun e => { e with bad := true } }
  | .record i => { h with cqBad := h.cqBad ||| (1#64 <<< i.toNat) }
  | .strip j pa => h.modSlot j fun sl => { sl with fetched := sl.fetched.map fun f =>
      if (recGet f.cells pa.toNat).isSome then { f with bad := insertNat f.bad pa.toNat } else f }
  | .staged i => { h with stage := h.stage.modify i fun m => { m with bad := true } }
  | .tlb _ => h
  | .l1 _ => h
  | .mailbox _ _ => h
  | .outbound _ => h

/-- Whether a place is in a core's register files (R422). -/
def RegName.inFile : RegName → Bool
  | .x _ | .v _ | .k _ | .z _ => true
  | _ => false

/-- An uncorrectable error strikes a place of the executing core (R290, R291); one in a register file is a cause of its retirement (R422). -/
def strike (s : State) (r : RegName) : State :=
  let s1 : State := match r with
    | .tlb i => { s with ptes := s.ptes.modify i fun c => { c with bad := true } }
    | .l1 pa => { s with l1 := s.l1.map fun x =>
        if x.core == l1Core s pa.toNat && x.line == pa.toNat / 128 then { x with bad := withBit x.bad (lineSector pa.toNat) true } else x }
    | .mailbox m i => match residentActor s with
      | some a => s.putActor (a.setBox m { a.box m with queue := (a.box m).queue.modify i fun x => { x with bad := true } })
      | none => s
    | .outbound i => { s with ring := { s.ring with outbound := s.ring.outbound.modify i fun o => { o with msg := { o.msg with bad := true } } } }
    | _ => { s with hart := s.hart.strike r }
  if r.inFile && s.onMgmt.isNone then retire s1 (dieOf s.cur) (clusterOf s.cur) (physCore s (dieOf s.cur) (clusterOf s.cur) (selfCore s)) else s1

/-- CESTAT with one more corrected error, each counter saturating (R290, R420): the low half counts those of SRAMs, the high half those of HBM4. -/
def countCorrected (c : Word) (hbm : Bool) : Word :=
  let lo : BitVec 32 := c.extractLsb' 0 32
  let hi : BitVec 32 := c.extractLsb' 32 32
  if hbm then (if hi = BitVec.allOnes 32 then hi else hi + 1) ++ lo else hi ++ (if lo = BitVec.allOnes 32 then lo else lo + 1)

/-- Whether a module without power, or one whose boot has failed, still meets something: its reset, and the model's own switches (R423, R478). -/
def Stim.reachesOff (x : Stim) : Bool :=
  match x with
  | .event .moduleReset => true
  | .lag _ => true
  | .keepTranslations _ => true
  | _ => false

/-- What the world outside the strands does to a module that has power. -/
def takeLive (s : State) (x : Stim) : Out :=
  match x with
  | .event i => exec i s
  | .turn (.ring n) => .next (turnTo s n 0)
  | .turn (.mgmt a) => .next (loadMgmt (putBack s) a)
  | .slot n => moveSlot s n
  | .lag b => .next { s with lag := b }
  | .keepTranslations b => .next { s with keep := b }
  | .dropTranslations => .next { s with ptes := [] }
  | .softError pa => .next { s with bad := insertNat s.bad pa.toNat }
  | .correctedError d hbm => .next (s.modDie d fun x => { x with cestat := countCorrected x.cestat hbm })
  | .coreError d c p => .next (logCoreError (s.modDie d fun x => { x with cestat := countCorrected x.cestat false }) d c p)
  | .recoveredAt m => .next (recoveredAt s m)
  | .registerError r => .next (strike s r)
  | .postReceive port qpn => .next { s with wqes := putKey s.wqes (port, qpn) ((lookupKey s.wqes (port, qpn)).getD 0 + 1) }
  | .hostInvalid port qpn => .next (hostInvalid s port qpn)
  | .remoteKey port key jid base len r w =>
    .next (putRemoteKey s { port := port, key := key, jid := jid, base := base, len := len, r := r, w := w })
  | .gangRecord jid status done => .next (gangRecord s jid status done)
  | .jobAt jid m on =>
    .next { s with elsewhere := s.elsewhere.filter (· ≠ (jid, m)) ++ (if on then [(jid, m)] else []) }
  | .chipEvent gsovf val => .next (if systemRoot s = s.module then postSwitchEvent s 0 (if gsovf then causeGSOVF else causeLATEPKT) val else s)
  | .renumber m => .next (renumber s m)
  | .restored jid actors => .next (settleGang (restoreJob s jid actors))

/-- What the world outside the strands does. -/
def takeStim (s : State) (x : Stim) : Out :=
  if (s.mode == .off || s.mode == .bootFailed) && !x.reachesOff then .next s else takeLive s x

/-- The boot that finds no failure and no other module (log 3). -/
def plainBoot : BootReport :=
  { failedCores := [], failedSlices := [], failedStacks := [], module := 0, present := [0], linksUp := [], portsUp := (List.range 8).map (BitVec.ofNat 3), sameImage := true }

/-- What the module does with nothing on its agenda. -/
def runModule (s : State) : Out :=
  match s.mode with
  | .inReset => execBoot plainBoot s
  | .running => mapNext tick (move (chooseAgent (settle s)))
  | .bootFailed => .next s
  | .off => .next s

/-! ### A program placed from outside (log 8) -/

/-- The cells of a page table at 0x20000 that maps virtual addresses below 2^30 to themselves, open to U, and of an instruction at 0x1000. -/
def placedCells (w : Word32) : List Host.Cell :=
  [(0x20000, 0x01), (0x20002, 0x04), (0x40000, 0x7F)] ++ (List.range 4).map fun i => (0x1000 + i, byteAt w.toNat i)

/-- A strand at U whose next instruction stands at 0x1000. -/
def placedHart : Hart := { Hart.start with sc := { Scal.start with pc := 0x1000 } }

/-- The module running a strand of job 1 on ring 0 whose next instruction is a word: its page table, an entry of die 0's access table that grants
the job all of the die's memory, and the word. -/
def placeWord (s : State) (w : Word32) : State :=
  let r := { s.ring with state := .running, jid := 1, ptbase := 1, chunks := [placedHart], active := 0 }
  let table := sliceTable s 0
  { s with
    mode := .running, agenda := [], onMgmt := none, hart := placedHart, ring := r
    mem := (placedCells w).foldl (fun m c => memSet m c.1 c.2) s.mem
    ctl := ctlPut (ctlPut s.ctl table 0x1001F#64) (table + 16) (1#64 <<< 38) }

/-- One step of the module. -/
def stepModule (s : State) : Out :=
  match s.agenda with
  | x :: rest => takeStim { s with agenda := rest } x
  | [] => runModule s

end Sys2Proof.Machine
end

