-- ==== Sys2Proof/Machine/Step.lean ====
section
/-! DEFINITION. One step of the machine, and an instruction placed where a step fetches it. -/

namespace Sys2Proof.Machine

/-- One step: what the agenda names first, or, with an empty agenda, the module's own next move (log 3): the executing strand fetches the word at
its pc, and exec gives the meaning of the instruction that it decodes to. -/
def step (s : State) : Host.Outcome State Fault Refusal := stepModule s

/-- The state with an instruction placed where its next step fetches: a program comes to run by a launch, for which this stands (log 8). -/
def State.withFetchWord (s : State) (nbits w : Nat) : State := placeWord s (BitVec.ofNat 32 (w % 2 ^ nbits))

end Sys2Proof.Machine
end

