-- ==== Sys2Proof/Safety.lean ====
section
/-! DEFINITION. The terms that claims use: the invariant that every step keeps, the conditions under which a strand executes an instruction
normally, and the state that an instruction with a register result leaves. -/

namespace Sys2Proof.Safety

open Sys2Proof.Machine

/-- The memory keeps its canonical form. -/
def memoryWf (s : State) : Prop := Memory.wf s.mem = true

/-- Each slice line stands in the slice and the set of its line number (R282). -/
def linesPlaced (s : State) : Prop := ∀ z ∈ s.lines, z.slice.toNat = z.line.toNat % 31 ∧ z.set.toNat = z.line.toNat / 31 % 1024

/-- The invariant that every step keeps: the memory and the stored words of the control region are in canonical form, the module has its 42
switches, and each slice line stands in its place. -/
def Inv (s : State) : Prop :=
  memoryWf s ∧ s.ctl.Pairwise (fun p q => p.1 < q.1) ∧ s.switches.map (·.id) = moduleSwitches ∧ linesPlaced s

/-- Nothing on the agenda, in a buffer, a switch, a host operation or the firmware's hands comes before the executing agent (log 3). -/
def undisturbed (s : State) : Prop :=
  s.agenda = [] ∧ s.mode = .running ∧ quiet s = true ∧ (s.mgmtAt 0).dbgHalt = 0 ∧ (s.mgmtAt 1).dbgHalt = 0 ∧ s.paused = [] ∧
    s.retireDue = [] ∧ s.lost = []

/-- The module's next step executes an instruction of the keystone that moves: its ring runs, unhalted and not stepped, no event is to be taken,
and nothing of its vector unit and engines goes first (log 3). -/
def executesKeystone (s : State) : Prop :=
  undisturbed s ∧ s.onMgmt = none ∧ s.ring.active = 0 ∧ s.ring.chunks ≠ [] ∧ s.ring.state = .running ∧ s.ring.halted = false ∧
    s.ring.absent = false ∧ s.ring.haltReq = false ∧ s.ring.stepping = false ∧ s.ring.stepped = none ∧ s.hart.state = .run ∧
    s.hart.park = .running ∧ s.hart.awaiting = 0 ∧ (asyncEnabled s = false ∨ asyncDue s = none) ∧
    (s.lag = true ∨ (s.hart.queue = [] ∧ enginesIdle s.hart = true))

/-- The module's next step executes an instruction of a management core: it is not stopped, and no event is to be taken. -/
def executesMgmt (s : State) (c : BitVec 1) : Prop :=
  undisturbed s ∧ s.onMgmt = some c ∧ (s.mgmtAt c).stopped = false ∧ s.hart.park = .running ∧
    ((s.mgmtAt c).mie = false ∨ (s.mgmtAt c).events = [] ∨ s.hart.remote ≠ [])

/-- The module's next step executes an instruction. -/
def executes (s : State) : Prop := executesKeystone s ∨ ∃ c, executesMgmt s c

/-- No operand is still to come: no queued instruction is to write a scalar register (R39), every live-in value has arrived (R221), and no scalar
register holds an error (R291). -/
def ready (s : State) : Prop := (∀ r, queueWrites s.hart.queue r = false) ∧ s.hart.awaiting = 0 ∧ s.hart.sc.bad = 0

/-- s[r] of the executing strand; s0 reads zero (R24). -/
def x (s : State) (r : BitVec 5) : Word := s.hart.sc.get r

/-- A strand with s[r] := v; s0 discards it (R24). A chunk also records that it has written the register (R221). -/
def putReg (r : BitVec 5) (v : Word) (h : Hart) : Hart :=
  { h with sc := h.sc.put r v, wroteReg := if h.held then set32 h.wroteReg r else h.wroteReg }

/-- A strand with the destination of the executing instruction written, and the copy register of a prefix over it (R107). -/
def putDest (d : BitVec 5) (v : Word) (h : Hart) : Hart :=
  match h.pfx with
  | none => putReg d v h
  | some p =>
    match pfxCopy p.word with
    | none => putReg d v h
    | some c => putReg (c.setWidth 5) v (putReg d v h)

/-- A strand with flags raised: they are only ever set (R35). -/
def raise (f : BitVec 6) (h : Hart) : Hart := { h with sc := { h.sc with flags := h.sc.flags ||| f } }

/-- The state after a scalar instruction that changed its strand: it goes on at an address, and a prefix is used up (R108). -/
def goTo (pc : Word) (f : Hart → Hart) (s : State) : State :=
  let h := f s.hart
  finish { s with hart := { h with sc := { h.sc with pc := pc } } }

/-- The state after a scalar instruction that changed its strand and goes on at the next word. -/
def next (f : Hart → Hart) (s : State) : State := goTo ((f s.hart).sc.pc + 4) f s

/-- Nothing is queued, every live-in value has arrived, and the strand or chunk holds the keystone: an instruction that is ordered with every
earlier one, or Keystone-only, executes at once (R235, R366, R367). No scalar register holds an error (R291), and what a chunk holds back can be
written at once: it is this module's, and permits are left (R229, R286). -/
def settled (s : State) : Prop :=
  s.hart.queue = [] ∧ s.hart.awaiting = 0 ∧ isKeystone s = true ∧ s.hart.sc.bad = 0 ∧ (s.hart.held = true → recordsReady s = true)

/-- A read of n bytes at a physical address reaches this module's memory: no control register, no byte in error, there or in the L1, and a permit for each
sector that the L1 does not hold (R270, R286, R291). -/
def inMemory (s : State) (pa n : Nat) : Prop :=
  paModule pa = s.module ∧ paControl pa = false ∧ anyBad s pa n = false ∧ readsBad s pa n = false ∧ readPermits s pa n = true

/-- A read of n bytes reaches this module's memory whatever the caches hold: there is a permit for every sector (R286). -/
def atHand (s : State) (pa n : Nat) : Prop := inMemory s pa n ∧ permitsFor s pa n = true

/-- A store of n bytes at a physical address reaches this module's memory: no control register, and, outside a chunk, whose stores go to its record, a permit
for each sector (R226, R270, R286). -/
def storable (s : State) (pa n : Nat) : Prop :=
  paModule pa = s.module ∧ paControl pa = false ∧ (s.hart.held = true ∨ permitsFor s pa n = true)

/-- No storage of memory or of an L1 holds an uncorrectable error (R291): no eviction then changes memory (R292). -/
def errorFree (s : State) : Prop := s.bad = [] ∧ ∀ l ∈ s.l1, l.bad = 0

/-- Two states that differ in nothing but the caches (R281, R283). -/
def cached (s t : State) : Prop := t = { s with lines := t.lines, l1 := t.l1, through := t.through }

/-- The state in which a Keystone-only instruction waits: the keystone chunk has written what it holds (R235). -/
def flushed (s : State) : State := if s.hart.held && !s.hart.written.isEmpty then flushWritten s else s

/-- The lines of an access have room in the L1 beside the records of the chunk (R228). -/
def linesFit (s : State) (pa n : Nat) : Prop :=
  s.hart.held = true → lineFits s.hart (pa / 128) = true ∧ lineFits s.hart ((pa + n - 1) / 128) = true

/-- The number that n bytes as a load of the executing strand takes them spell, low byte first (R4, R225). -/
def loaded (s : State) (pa n : Nat) : Nat := ∑ i ∈ Finset.range n, 256 ^ i * (s.peek (pa + i)).toNat

/-! ### Vector instructions -/

/-- The strand may push a vector instruction that the vector unit runs at once: nothing is queued or half done, no register is bound to a
stream, the vector unit and the engines do not lag, and no register holds an error (R37, R291, R334; log 4). -/
def vectorReady (s : State) : Prop :=
  s.hart.queue = [] ∧ s.hart.awaiting = 0 ∧ s.hart.imageDone = true ∧ s.lag = false ∧ s.hart.vremote = [] ∧
    (∀ j : BitVec 3, (s.hart.slotAt j).bound = false ∧ (s.hart.slotAt j).emitted = [] ∧ (s.hart.slotAt j).drains = []) ∧
    s.hart.sc.bad = 0 ∧ s.hart.vBad = 0 ∧ s.hart.kBad = 0 ∧ s.hart.zBad = 0 ∧ s.hart.tBad = 0

/-- What is left of the convoy after a word with a C bit: nothing after a word on its own, else the words that follow it in an assembled
convoy (R43, R44). -/
def convoyLeft (s : State) (c : BitVec 1) (rest : List Word32) : Prop :=
  (s.hart.convoy = [] ∧ c = 0 ∧ rest = []) ∨ ∃ w, s.hart.convoy = w :: rest

/-- The number of vector registers that the strand names (R25). -/
def regs (s : State) : Nat := vregCount s.hart.sc.nreg

/-- The width of one vector register in bits (R25, R211). -/
def regWidth (s : State) : Nat := 8 * regBytes s.ring.gang s.hart.sc.nreg

/-- The width of an element (R27). -/
def width (s : State) : Nat := sewBits s.hart.sc.sew

/-- VL -/
def vl (s : State) : Nat := s.hart.sc.vl.toNat

/-- Element i of a vector register, in the element width in force (R27). -/
def el (s : State) (r : BitVec 6) (i : Nat) : Nat := elemOf (s.hart.vr r) (width s) i

/-- Element i of an instruction is active: from VSTART on and below VL, selected by the governing mask, and, for an instruction that honours
VMODE.VE, by k7 while VE = 1 (R28, R29, R46). -/
def active (s : State) (km : BitVec 3) (honours : Bool) (i : Nat) : Bool :=
  decide (s.hart.vstart.toNat ≤ i ∧ i < vl s) && (s.hart.mask km).getLsbD i && (!(honours && s.hart.sc.ve) || (s.hart.mask 7).getLsbD i)

/-- The active elements of an instruction, in order. -/
def actives (s : State) (km : BitVec 3) (honours : Bool) : List Nat := (List.range (vl s)).filter (active s km honours)

/-- The copy register of a pending prefix (R105). -/
def copyOf (s : State) : Option (BitVec 6) := s.hart.pfx.bind fun p => pfxCopy p.word

/-- The registers that a result goes to: the destination, and the copy register of a prefix (R107). -/
def targets (s : State) (d : BitVec 6) : List (BitVec 6) := d :: (copyOf s).toList

/-- Instructions complete: each answers a next state, in which the strand goes on at the next word, and VSTART is 0 (R49). -/
def complete (l : List Instr) (s : State) : Prop :=
  ∀ i ∈ l, ∃ t, exec i s = .next t ∧ t.hart.sc.pc = s.hart.sc.pc + 4 ∧ t.hart.vstart = 0

/-- The state after a vector instruction that changed its strand: the scalar thread goes on at the next word, VSTART is 0, and a prefix is
used up (R49, R108). -/
def vnext (rest : List Word32) (f : Hart → Hart) (s : State) : State :=
  let h := f s.hart
  finish { s with hart := { h with sc := { h.sc with pc := s.hart.sc.pc + 4 }, vstart := 0, convoy := rest } }

/-- The flags that a list of elements raise. -/
def flagsOver (l : List Nat) (f : Nat → BitVec 6) : BitVec 6 := l.foldl (fun g i => g ||| f i) 0

/-- An instruction completes with a value in each of some elements of its destination, with every other element of it as before, with flags
raised, and with nothing else changed (R47, R49, R57, R149). -/
def givesElements (s : State) (rest : List Word32) (d : BitVec 6) (acts : List Nat) (i : Instr) (val : Nat → Nat) (flags : BitVec 6) : Prop :=
  ∃ v : BitVec 6 → VReg,
    exec i s = .next (vnext rest (fun h => raise flags ((targets s d).foldl (fun h r => h.setVr r (v r)) h)) s) ∧
    ∀ r ∈ targets s d, ∀ j, (j + 1) * width s ≤ 131072 → elemOf (v r) (width s) j = if j ∈ acts then val j else el s r j

/-- An instruction completes with a bit in each of some positions of its mask destination, with every other bit of it as before, with flags
raised, and with nothing else changed; k0 discards the bits (R28, R47, R57). -/
def givesBits (s : State) (rest : List Word32) (d : BitVec 3) (acts : List Nat) (i : Instr) (val : Nat → Bool) (flags : BitVec 6) : Prop :=
  ∃ m : BitVec 6 → MaskReg,
    exec i s = .next (vnext rest (fun h =>
      raise flags ((targets s (d.setWidth 6)).foldl (fun h r => h.setMask (r.setWidth 3) (m r)) h)) s) ∧
    ∀ r ∈ targets s (d.setWidth 6), ∀ j < 32768,
      (m r).getLsbD j = if j ∈ acts then val j else (s.hart.mask (r.setWidth 3)).getLsbD j

/-- An instruction completes with a value in its scalar destination and flags raised, and with nothing else changed. -/
def givesScalar (s : State) (rest : List Word32) (d : BitVec 5) (i : Instr) (val : Word) (flags : BitVec 6) : Prop :=
  exec i s = .next (vnext rest (fun h => putDest d val (raise flags h)) s)

/-- A load completes with a value in each of some elements of its destination, with every other element of it as before; the accesses go through
the caches, and nothing else changes (R173, R281, R283). -/
def loadsElements (s : State) (rest : List Word32) (d : BitVec 6) (acts : List Nat) (i : Instr) (val : Nat → Nat) : Prop :=
  ∃ (u : State) (v : BitVec 6 → VReg),
    cached s u ∧ exec i s = .next (vnext rest (fun h => (targets s d).foldl (fun h r => h.setVr r (v r)) h) u) ∧
    ∀ r ∈ targets s d, ∀ j, (j + 1) * width s ≤ 131072 → elemOf (v r) (width s) j = if j ∈ acts then val j else el s r j

/-- An access reaches a physical address however memory, its caches and the other registers of the strand stand, and keeps no translation. -/
def reaches (s : State) (va : Word) (n : Nat) (k : Access) (pa : Nat) : Prop :=
  ∀ t : State, t = { s with hart := t.hart, mem := t.mem, bad := t.bad, released := t.released, lines := t.lines, l1 := t.l1, through := t.through } →
    t.hart.level = s.hart.level → t.hart.slot = s.hart.slot → t.hart.held = s.hart.held →
    ∃ near, translate va n k t = .ok (pa, near) (noteNear t pa n k near)

end Sys2Proof.Safety
end

