-- ==== Sys2Proof/Certificates/Slice0/Obligations.lean ====
section
/-! DEFINITION. The statements for the provers. -/

open Sys2Proof Sys2Proof.Machine Sys2Proof.Safety

/-! ### Scalar instructions (spec/05) -/

/-- R119: the register-register instructions complete with the table's value in s[d] and in the copy register of a prefix (R107), and change nothing
else. R122 with the table of R60: multiply, divide and remainder. No case traps. R120, R121: immediates and constants. R123: counts, extracts
and deposits by the pseudocode of the rule, byte order and extensions. -/
def Obligations.IntegerResults : Prop :=
  (∀ (s : State) (d a b : BitVec 5), ready s →
     let u := x s a
     let w := x s b
     let sh := w.toNat % 64
     let one (p : Bool) : Word := if p then 1 else 0
     ∀ p ∈ ([(.add d a b, u + w), (.sub d a b, u - w), (.and d a b, u &&& w), (.or d a b, u ||| w), (.xor d a b, u ^^^ w),
         (.andn d a b, u &&& ~~~w), (.orn d a b, u ||| ~~~w), (.xnor d a b, ~~~(u ^^^ w)), (.sll d a b, u <<< sh), (.srl d a b, u >>> sh),
         (.sra d a b, u.sshiftRight sh), (.rol d a b, u.rotateLeft sh), (.ror d a b, u.rotateRight sh),
         (.min d a b, if u.slt w then u else w), (.minu d a b, if u.ult w then u else w), (.max d a b, if u.slt w then w else u),
         (.maxu d a b, if u.ult w then w else u), (.seq d a b, one (u == w)), (.sne d a b, one (u != w)), (.slt d a b, one (u.slt w)),
         (.sltu d a b, one (u.ult w))] : List (Instr × Word)),
       exec p.1 s = .next (next (putDest d p.2) s)) ∧
  (∀ (s : State) (d a b : BitVec 5), ready s →
     let u := x s a
     let w := x s b
     ∀ p ∈ ([(.mul d a b, u * w), (.mulh d a b, BitVec.ofInt 64 (u.toInt * w.toInt / 2 ^ 64)),
         (.mulhu d a b, BitVec.ofNat 64 (u.toNat * w.toNat / 2 ^ 64)),
         (.div d a b, if w = 0 then BitVec.allOnes 64 else BitVec.ofInt 64 (u.toInt.tdiv w.toInt)),
         (.divu d a b, if w = 0 then BitVec.allOnes 64 else u / w),
         (.rem d a b, if w = 0 then u else BitVec.ofInt 64 (u.toInt - u.toInt.tdiv w.toInt * w.toInt)),
         (.remu d a b, if w = 0 then u else u % w)] : List (Instr × Word)),
       exec p.1 s = .next (next (putDest d p.2) s)) ∧
  (∀ (s : State) (d a : BitVec 5) (imm : BitVec 16) (n : BitVec 6) (k : BitVec 2), ready s →
     let u := x s a
     let i : Word := imm.signExtend 64
     let z : Word := imm.setWidth 64
     let one (p : Bool) : Word := if p then 1 else 0
     ∀ p ∈ ([(.addi d a imm, u + i), (.andi d a imm, u &&& z), (.ori d a imm, u ||| z), (.xori d a imm, u ^^^ z), (.slti d a imm, one (u.slt i)),
         (.sltiu d a imm, one (u.ult i)), (.slli d a n, u <<< n.toNat), (.srli d a n, u >>> n.toNat), (.srai d a n, u.sshiftRight n.toNat),
         (.movz d k imm, z <<< (16 * k.toNat)),
         (.movk d k imm, (x s d &&& ~~~(0xFFFF#64 <<< (16 * k.toNat))) ||| z <<< (16 * k.toNat))] : List (Instr × Word)),
       exec p.1 s = .next (next (putDest d p.2) s)) ∧
  (∀ (s : State) (d a b : BitVec 5), ready s →
     let u := x s a
     let w := x s b
     (∃ n : Nat, n ≤ 64 ∧ (∀ i < n, u.getLsbD (63 - i) = false) ∧ (n < 64 → u.getLsbD (63 - n) = true) ∧
         exec (.clz d a) s = .next (next (putDest d (BitVec.ofNat 64 n)) s)) ∧
     (∃ n : Nat, n ≤ 64 ∧ (∀ i < n, u.getLsbD i = false) ∧ (n < 64 → u.getLsbD n = true) ∧
         exec (.ctz d a) s = .next (next (putDest d (BitVec.ofNat 64 n)) s)) ∧
     exec (.popc d a) s = .next (next (putDest d (BitVec.ofNat 64 ((List.range 64).filter u.getLsbD).length)) s) ∧
     exec (.bext d a b) s = .next (next (putDest d
       ((List.range 64).foldl (fun (p : Word × Nat) i =>
         if w.getLsbD i then (if u.getLsbD i then p.1 ||| (1#64 <<< p.2) else p.1, p.2 + 1) else p) (0, 0)).1) s) ∧
     exec (.bdep d a b) s = .next (next (putDest d
       ((List.range 64).foldl (fun (p : Word × Nat) i =>
         if w.getLsbD i then (if u.getLsbD p.2 then p.1 ||| (1#64 <<< i) else p.1, p.2 + 1) else p) (0, 0)).1) s) ∧
     (∃ v : Word, (∀ i < 8, v.extractLsb' (8 * (7 - i)) 8 = u.extractLsb' (8 * i) 8) ∧
         exec (.bswap d a) s = .next (next (putDest d v) s)) ∧
     ∀ p ∈ ([(.sextB d a, (u.setWidth 8).signExtend 64), (.sextH d a, (u.setWidth 16).signExtend 64),
         (.sextW d a, (u.setWidth 32).signExtend 64), (.zextB d a, u &&& 0xFF), (.zextH d a, u &&& 0xFFFF),
         (.zextW d a, u &&& 0xFFFFFFFF)] : List (Instr × Word)),
       exec p.1 s = .next (next (putDest d p.2) s))

/-! ### Scalar floating point (spec/05 R124 to R131) -/

/-- R124 to R131: every scalar floating-point instruction completes; it reads the low bits of its sources, writes its result with the bits above it
cleared, raises its flags, and changes nothing else. R130: sign injection writes every bit of x below the sign unchanged and raises nothing. -/
def Obligations.FloatResults : Prop :=
  (∀ (s : State) (d a b c : BitVec 5) (ty src : BitVec 2) (rm : BitVec 3), ready s →
     let t := scalarFmt ty
     let m := roundMode s.hart.sc rm
     let bits (f : FFmt) (r : BitVec 5) : Nat := (x s r).toNat % 2 ^ f.width
     let u := t.decode (bits t a)
     let w := t.decode (bits t b)
     let z := t.decode (bits t c)
     let test (sig : Bool) (p : Ordering → Bool) : Nat × Flags :=
       if u.isNan || w.isNan then (0, if sig then flagNV else u.nv ||| w.nv) else (if p (cmpVal u w) then 1 else 0, 0)
     let int : Int := match src.toNat with
       | 0 => (x s a).toInt
       | 1 => (x s a).toNat
       | 2 => ((x s a).setWidth 32).toInt
       | _ => ((x s a).setWidth 32).toNat
     (∀ p ∈ ([(.fadd d a b ty rm, addVal t m u w), (.fsub d a b ty rm, addVal t m u w.negate), (.fmul d a b ty rm, mulVal t m u w),
         (.fdiv d a b ty rm, divVal t m u w), (.fsqrt d a ty rm, sqrtVal t m u), (.fmadd d a b c ty rm, fmaVal t m u w z),
         (.fmsub d a b c ty rm, fmaVal t m u w z.negate), (.fnmadd d a b c ty rm, fmaVal t m u.negate w z.negate),
         (.fmin d a b ty, minMaxBits t false (bits t a) (bits t b)), (.fmax d a b ty, minMaxBits t true (bits t a) (bits t b)),
         (.feq d a b ty, test false (· == .eq)), (.flt d a b ty, test true (· == .lt)), (.fle d a b ty, test true (· != .gt)),
         (.fclass d a ty, (classBits t (bits t a), 0)),
         (.fcvtFF d a src ty rm, convFF (scalarFmt src) t m (bits (scalarFmt src) a)), (.fcvtFI d a src ty rm, convIF t m int)] :
         List (Instr × (Nat × Flags))),
       exec p.1 s = .next (next (fun h => raise p.2.2 (putDest d (BitVec.ofNat 64 p.2.1) h)) s)) ∧
     (∀ r, r = convFI t m (src.getLsbD 0 == false) (if src.getLsbD 1 then 32 else 64) (bits t a) →
       exec (.fcvtIF d a src ty rm) s = .next (next (fun h => raise r.2 (putDest d (BitVec.ofInt 64 r.1) h)) s))) ∧
  (∀ (s : State) (d a b : BitVec 5) (ty : BitVec 2), ready s →
     let w := (scalarFmt ty).width
     let sx := (x s a).getLsbD (w - 1)
     let sy := (x s b).getLsbD (w - 1)
     ∀ p ∈ ([(.fsgnj d a b ty, sy), (.fsgnjn d a b ty, !sy), (.fsgnjx d a b ty, sx != sy)] : List (Instr × Bool)),
       ∃ v : Word, (∀ i < w - 1, v.getLsbD i = (x s a).getLsbD i) ∧ v.getLsbD (w - 1) = p.2 ∧ (∀ i ≥ w, v.getLsbD i = false) ∧
         exec p.1 s = .next (next (putDest d v) s))

/-- R125 with R55 and R57: the special cases of the arithmetic forms, on the data of the operands and in every mode. -/
def Obligations.FloatSpecialCases : Prop :=
  ∀ (s : State) (d a b : BitVec 5) (ty : BitVec 2) (rm : BitVec 3), ready s →
    let t := scalarFmt ty
    let dat (r : BitVec 5) := t.decode ((x s r).toNat % 2 ^ t.width)
    let nan : Word := match ty.toNat with | 0 => 0x7FF8000000000000 | 1 => 0x7FC00000 | 2 => 0x7E00 | _ => 0x7FC0
    let inf : Word := match ty.toNat with | 0 => 0x7FF0000000000000 | 1 => 0x7F800000 | 2 => 0x7C00 | _ => 0x7F80
    let sign : Word := 1#64 <<< (t.width - 1)
    let signed (n : Bool) (v : Word) : Word := if n then v ||| sign else v
    let gives (i : Instr) (v : Word) (f : BitVec 6) : Prop := exec i s = .next (next (fun h => raise f (putDest d v h)) s)
    let nv : BitVec 6 := 0b010000
    let dz : BitVec 6 := 0b001000
    ((∃ n, dat a = .nan n ∨ dat b = .nan n) → ∀ i ∈ [Instr.fadd d a b ty rm, .fsub d a b ty rm, .fmul d a b ty rm, .fdiv d a b ty rm],
        gives i nan (if (dat a = .nan true ∨ dat b = .nan true) then nv else 0)) ∧
    (∀ p q, dat a = .inf p → dat b = .inf q →
      gives (.fadd d a b ty rm) (if p = q then signed p inf else nan) (if p = q then 0 else nv) ∧
      gives (.fsub d a b ty rm) (if p = q then nan else signed p inf) (if p = q then nv else 0) ∧
      gives (.fmul d a b ty rm) (signed (p != q) inf) 0 ∧ gives (.fdiv d a b ty rm) nan nv) ∧
    (∀ p q m e, dat a = .inf p → dat b = .fin q m e →
      gives (.fadd d a b ty rm) (signed p inf) 0 ∧ gives (.fsub d a b ty rm) (signed p inf) 0 ∧
      gives (.fmul d a b ty rm) (if m = 0 then nan else signed (p != q) inf) (if m = 0 then nv else 0) ∧
      gives (.fdiv d a b ty rm) (signed (p != q) inf) 0) ∧
    (∀ p q m e, dat a = .fin p m e → dat b = .inf q →
      gives (.fadd d a b ty rm) (signed q inf) 0 ∧ gives (.fsub d a b ty rm) (signed (!q) inf) 0 ∧
      gives (.fmul d a b ty rm) (if m = 0 then nan else signed (p != q) inf) (if m = 0 then nv else 0) ∧
      gives (.fdiv d a b ty rm) (signed (p != q) 0) 0) ∧
    (∀ p q m e g, dat a = .fin p m e → dat b = .fin q 0 g →
      gives (.fdiv d a b ty rm) (if m = 0 then nan else signed (p != q) inf) (if m = 0 then nv else dz)) ∧
    (∀ p q e g, dat a = .fin p 0 e → dat b = .fin q 0 g →
      gives (.fadd d a b ty rm) (signed (if p = q then p else roundMode s.hart.sc rm = 2) 0) 0 ∧
      gives (.fsub d a b ty rm) (signed (if p = q then roundMode s.hart.sc rm = 2 else p) 0) 0) ∧
    (∀ p e, dat a = .fin p 0 e → gives (.fsqrt d a ty rm) (signed p 0) 0) ∧
    (∀ m e, m ≠ 0 → dat a = .fin true m e → gives (.fsqrt d a ty rm) nan nv) ∧
    (dat a = .inf true → gives (.fsqrt d a ty rm) nan nv) ∧
    (dat a = .inf false → gives (.fsqrt d a ty rm) inf 0) ∧
    (∀ n, dat a = .nan n → gives (.fsqrt d a ty rm) nan (if n then nv else 0))

/-! ### Branches, loads, stores and atomics (spec/05 R132 to R136; spec/15) -/

/-- R132: a conditional branch goes on at its target or at the next word and writes no register. A taken branch that leaves the region of its chunk
holds for the keystone instead (R233). R133: the jumps, their links, and the target of jalr that is no multiple of 4. -/
def Obligations.ControlFlowResults : Prop :=
  (∀ (s : State) (a b : BitVec 5) (off : BitVec 13), ready s →
     let u := x s a
     let w := x s b
     let target := s.hart.sc.pc + off.signExtend 64 * 4
     ∀ p ∈ ([(.beq a b off, u == w), (.bne a b off, u != w), (.blt a b off, u.slt w), (.bge a b off, w.sle u), (.bltu a b off, u.ult w),
         (.bgeu a b off, w.ule u)] : List (Instr × Bool)),
       exec p.1 s =
         .next (if p.2 then (if leavesRegion s target then applyWait s (.hold (.exit target)) else goTo target id s)
           else goTo (s.hart.sc.pc + 4) id s)) ∧
  (∀ (s : State) (d a : BitVec 5) (off : BitVec 26) (imm : BitVec 16), ready s →
     let pc := s.hart.sc.pc
     let target := pc + off.signExtend 64 * 4
     let back := x s a + imm.signExtend 64
     exec (.j off) s = .next (if leavesRegion s target then applyWait s (.hold (.exit target)) else goTo target id s) ∧
     exec (.jal off) s = .next (goTo target (putDest 1 (pc + 4)) s) ∧
     (back.extractLsb' 0 2 = 0 → exec (.jalr d a imm) s = .next (goTo back (putDest d (pc + 4)) s)) ∧
     (back.extractLsb' 0 2 ≠ 0 → s.hart.queue = [] → exec (.jalr d a imm) s = .next (takeTrap s 0x03 back pc false false)))

/-- R4 and R225: after a store of n bytes, those bytes read as the low bytes of the value, low byte first, and every other byte reads as before,
whether the strand is a chunk or not. A byte that goes to memory goes there through a slice, which with no error anywhere restores nothing older
(R292). R269 and R277: the strand's own local store translates to the store of its core. -/
def Obligations.StoredBytes : Prop :=
  (∀ (s : State) (pa v n a : Nat), memoryWf s → s.hart.held = true ∨ s.bad = [] →
     (storeBytes s pa v n).peek a = (if pa ≤ a ∧ a < pa + n then BitVec.ofNat 8 (v / 256 ^ (a - pa)) else s.peek a) ∧
     (isKeystone s = true → s.hart.written = [] → s.bad = [] →
       (storeDirect s pa v n).peek a = if pa ≤ a ∧ a < pa + n then BitVec.ofNat 8 (v / 256 ^ (a - pa)) else s.peek a)) ∧
  (∀ (s : State) (off : BitVec 19) (n : Nat) (k : Access), s.onMgmt = none →
     translate (0x00FFFF0000000000 + off.setWidth 64) n k s =
       .ok (storePa s.module (dieOf s.cur) (clusterOf s.cur) (coreOfSlot s.cur s.ring.gang s.hart.slot) off.toNat, false) s)

/-- A strand outside any chunk sends one request of n bytes at an address of another module, and awaits its response (R286, R430, R431, R434). -/
def asksModule (s : State) (i : Instr) (kind : BitVec 4) (write : Bool) (pa n : Nat) (rest : List Byte) : Prop :=
  ∃ p : Packet, exec i s = .next { s with
      nextTag := s.nextTag + 1, heldOut := s.heldOut ++ [p]
      hart := { s.hart with
        park := .reply, remote := [{ rtag := s.nextTag, write := write, pa := BitVec.ofNat 56 pa, reply := none, size := n }] } } ∧
    p.kind = kind ∧ p.resp = false ∧ p.tc = 2 ∧ p.dmod = paModule pa ∧ p.smod = s.module ∧ p.rtag = s.nextTag ∧
    p.payload = (List.range 8).map (fun i => BitVec.ofNat 8 (pa / 256 ^ i)) ++ rest

/-- The one access of a strand to another module has its response, of n bytes at an address. -/
def answers (r : RemoteWait) (pa n : Nat) (st : BitVec 4) (l : List Byte) : Prop :=
  r.pa.toNat = pa ∧ r.size = n ∧ r.flush = false ∧ r.used = false ∧ r.own = [] ∧ r.reply = some (st, l)

/-- R135 and R136: an aligned load whose address translates to this module's memory completes with the bytes there, extended, and a load to s0
performs its read all the same. A chunk marks what it has read (R225). R135: an aligned store whose address translates to this module's memory
stores the low n bytes of s[d]. R135: a misaligned load or store traps ALIGN with the address, at itself, and accesses nothing. R434: outside any chunk, one
whose address is in another module that is present leaves as one request packet, where a permit is left (R286), and the strand awaits its response:
with STATUS 0 it completes, a load with the bytes of the response, with another STATUS it traps ACCESS, or MCHK with 3 (R432). R226: a chunk keeps such
a store in its record, as any other. -/
def Obligations.LoadStoreResults : Prop :=
  (∀ (s t : State) (d a : BitVec 5) (off : BitVec 13) (n pa : Nat) (near : Bool), ready s →
     let va := x s a + off.signExtend 64
     va.toNat % n = 0 → translate va n .r s = .ok (pa, near) t → inMemory t pa n → linesFit t pa n →
     let v : Word := BitVec.ofNat 64 (loaded s pa n)
     ∀ p ∈ ([(.ldb d a off, 1, (v.setWidth 8).signExtend 64), (.ldbu d a off, 1, v), (.ldh d a off, 2, (v.setWidth 16).signExtend 64),
         (.ldhu d a off, 2, v), (.ldw d a off, 4, (v.setWidth 32).signExtend 64), (.ldwu d a off, 4, v), (.ldd d a off, 8, v)] :
         List (Instr × Nat × Word)),
       p.2.1 = n → exec p.1 s = .next (next (putDest d p.2.2) (noteRead t pa n))) ∧
  (∀ (s t : State) (d a : BitVec 5) (off : BitVec 13) (n pa : Nat) (near : Bool), ready s → s.hart.queue = [] →
     let va := x s a + off.signExtend 64
     va.toNat % n = 0 → translate va n .w s = .ok (pa, near) t → storable t pa n → linesFit t pa n →
     ∀ p ∈ ([(.stb d a off, 1), (.sth d a off, 2), (.stw d a off, 4), (.std d a off, 8)] : List (Instr × Nat)),
       p.2 = n → exec p.1 s = .next (next id (storeBytes t pa (x s d).toNat n))) ∧
  (∀ (s : State) (d a : BitVec 5) (off : BitVec 13), ready s → s.hart.queue = [] →
     let va := x s a + off.signExtend 64
     ∀ p ∈ ([(.ldh d a off, 2), (.ldhu d a off, 2), (.ldw d a off, 4), (.ldwu d a off, 4), (.ldd d a off, 8), (.sth d a off, 2), (.stw d a off, 4),
         (.std d a off, 8)] : List (Instr × Nat)),
       va.toNat % p.2 ≠ 0 → exec p.1 s = .next (takeTrap s 0x03 va s.hart.sc.pc false false)) ∧
  (∀ (s t : State) (d a : BitVec 5) (off : BitVec 13) (n pa : Nat) (near : Bool), ready s → s.hart.queue = [] →
     let va := x s a + off.signExtend 64
     let loads : List (Instr × Nat × (Word → Word)) := [(.ldb d a off, 1, fun v => (v.setWidth 8).signExtend 64), (.ldbu d a off, 1, id),
       (.ldh d a off, 2, fun v => (v.setWidth 16).signExtend 64), (.ldhu d a off, 2, id), (.ldw d a off, 4, fun v => (v.setWidth 32).signExtend 64),
       (.ldwu d a off, 4, id), (.ldd d a off, 8, id)]
     let stores : List (Instr × Nat) := [(.stb d a off, 1), (.sth d a off, 2), (.stw d a off, 4), (.std d a off, 8)]
     va.toNat % n = 0 → pa < 2 ^ 56 → paModule pa ≠ s.module → paModule pa ∈ s.present → (paModule pa).toNat < 8192 → paControl pa = false →
     let trap (i : Instr) (st : BitVec 4) : Prop := exec i s = .next (takeTrap t (if st = 3 then 0x0F else 0x07) va s.hart.sc.pc false false)
     (s.hart.held = false → s.hart.written = [] → s.hart.remote = [] → permitLeft s = true →
       (translate va n .r s = .ok (pa, near) t → ∀ p ∈ loads, p.2.1 = n → asksModule s p.1 0 false pa n [BitVec.ofNat 8 n]) ∧
       (translate va n .w s = .ok (pa, near) t → ∀ p ∈ stores, p.2 = n →
         asksModule s p.1 2 true pa n ((List.range n).map fun i => BitVec.ofNat 8 ((x s d).toNat / 256 ^ i)))) ∧
     (∀ r st l, s.hart.held = false → s.hart.remote = [r] → answers r pa n st l →
       (r.write = false → translate va n .r s = .ok (pa, near) t → ∀ p ∈ loads, p.2.1 = n →
         (st = 0 → l.length = n → exec p.1 s = .next (next (putDest d (p.2.2 (BitVec.ofNat 64 (∑ i ∈ Finset.range n, 256 ^ i * (l.getD i 0).toNat)))) t)) ∧
         (st ≠ 0 → trap p.1 st)) ∧
       (r.write = true → translate va n .w s = .ok (pa, near) t → ∀ p ∈ stores, p.2 = n →
         (st = 0 → exec p.1 s = .next (next id t)) ∧ (st ≠ 0 → trap p.1 st))) ∧
     (s.hart.held = true → s.hart.precise = false → translate va n .w s = .ok (pa, near) t → linesFit t pa n →
       ∀ p ∈ stores, p.2 = n → exec p.1 s = .next (next id (storeBytes t pa (x s d).toNat n))))

/-- R304 and R317: acquire loads read and raise the core's floor to the TIME that the bytes carry; release stores write and mark their bytes with
the core's TIME. The keystone chunk first writes what it holds (R235). R305 to R307: an atomic returns the old value, sign-extended, and stores
the table's new value; a failed comparison stores the old one. R434: outside any chunk, an atomic on an address in another module that is present leaves
as one request packet, where a permit is left (R286); the response completes it, with the old value, an acquire raising the floor to its TIME, or traps
ACCESS, or MCHK where its STATUS is 3 (R432). -/
def Obligations.AtomicResults : Prop :=
  (∀ (s t : State) (d a b : BitVec 5) (scope : BitVec 3) (n pa : Nat) (near : Bool), settled s →
     (x s a).toNat % n = 0 → paModule pa = t.module → paControl pa = false →
     (translate (x s a) n .r (flushWritten s) = .ok (pa, near) t → inMemory t pa n →
       let u := noteRead t pa n
       ∀ p ∈ ([(.ldbuAQ d a scope, 1), (.ldhuAQ d a scope, 2), (.ldwuAQ d a scope, 4), (.lddAQ d a scope, 8)] : List (Instr × Nat)),
         p.2 = n → exec p.1 s = .next (next (putDest d (BitVec.ofNat 64 (loaded t pa n))) (raiseFloor u (carriedTime u pa n)))) ∧
     (translate (x s a) n .w (flushWritten s) = .ok (pa, near) t → permitsFor t pa n = true →
       let u := storeDirect t pa ((x s b).toNat % 2 ^ (8 * n)) n
       ∀ p ∈ ([(.stbRL a b scope, 1), (.sthRL a b scope, 2), (.stwRL a b scope, 4), (.stdRL a b scope, 8)] : List (Instr × Nat)),
         p.2 = n → exec p.1 s = .next (next id { u with released := carryTime u.released pa (timeNow u) n }))) ∧
  (∀ (s t : State) (d a b : BitVec 5) (wd : BitVec 1) (scope : BitVec 3) (ord : BitVec 2) (pa : Nat) (near : Bool), settled s →
     let n : Nat := if wd = 1 then 8 else 4
     let bits := 8 * n
     (x s a).toNat % n = 0 → translate (x s a) n .a (flushWritten s) = .ok (pa, near) t → inMemory t pa n → permitsFor t pa n = true →
     let o := loaded t pa n
     let y := (x s b).toNat % 2 ^ bits
     let si (v : Nat) : Int := if v < 2 ^ (bits - 1) then v else (v : Int) - 2 ^ bits
     let done (v : Nat) : State :=
       let u := storeDirect t pa v n
       let u := if ord.getLsbD 0 then raiseFloor u (carriedTime t pa n) else u
       let u := if ord.getLsbD 1 then { u with released := carryTime u.released pa (timeNow u) n } else u
       next (putDest d (BitVec.ofInt 64 (si o))) u
     ∀ p ∈ ([(.amoadd d a b wd scope ord, (o + y) % 2 ^ bits), (.amoand d a b wd scope ord, o &&& y), (.amoor d a b wd scope ord, o ||| y),
         (.amoxor d a b wd scope ord, o ^^^ y), (.amomin d a b wd scope ord, if si o ≤ si y then o else y),
         (.amomax d a b wd scope ord, if si o ≤ si y then y else o), (.amominu d a b wd scope ord, min o y),
         (.amomaxu d a b wd scope ord, max o y), (.amoswap d a b wd scope ord, y),
         (.cas d a b wd scope ord, if o = (x s d).toNat % 2 ^ bits then y else o)] : List (Instr × Nat)),
       exec p.1 s = .next (done p.2)) ∧
  (∀ (s t : State) (d a b : BitVec 5) (wd : BitVec 1) (scope : BitVec 3) (ord : BitVec 2) (pa : Nat) (near : Bool), settled s → s.hart.held = false →
     let n : Nat := if wd = 1 then 8 else 4
     let word (v : Word) : List Byte := (List.range 8).map fun i => BitVec.ofNat 8 (v.toNat / 256 ^ i)
     (x s a).toNat % n = 0 → translate (x s a) n .a s = .ok (pa, near) t → pa < 2 ^ 56 → paModule pa ≠ s.module → paModule pa ∈ s.present →
     (paModule pa).toNat < 8192 → paControl pa = false →
     ∀ p ∈ ([(.amoadd d a b wd scope ord, 0), (.amoand d a b wd scope ord, 1), (.amoor d a b wd scope ord, 2), (.amoxor d a b wd scope ord, 3),
         (.amomin d a b wd scope ord, 4), (.amomax d a b wd scope ord, 5), (.amominu d a b wd scope ord, 6), (.amomaxu d a b wd scope ord, 7),
         (.amoswap d a b wd scope ord, 8), (.cas d a b wd scope ord, 9)] : List (Instr × Nat)),
       (s.hart.remote = [] → permitLeft s = true → asksModule s p.1 4 true pa n
         ([BitVec.ofNat 8 p.2, BitVec.ofNat 8 n, 0, 0, 0, 0, 0, 0] ++ word (x s b) ++ word (if p.2 = 9 then x s d else 0))) ∧
       ∀ r st l, s.hart.remote = [r] → answers r pa n st l → r.write = true →
         (st = 0 → l.length = 8 →
           let o := (∑ i ∈ Finset.range 8, 256 ^ i * (l.getD i 0).toNat) % 2 ^ (8 * n)
           exec p.1 s = .next (next (putDest d (BitVec.ofInt 64 (if o < 2 ^ (8 * n - 1) then o else (o : Int) - 2 ^ (8 * n))))
             (if ord.getLsbD 0 then raiseFloor t r.time else t))) ∧
         (st ≠ 0 → exec p.1 s = .next (takeTrap t (if st = 3 then 0x0F else 0x07) (x s a) s.hart.sc.pc false false)))

/-- R311 to R313: the full/empty instructions on a word of an allowed window, where no earlier waiter stands before them; feset leaves what the word carries
of a release as it is (the model's choice, log 55). R299 and R313: stfill of a word for which one strand waits serves it in the same step, and
ldtake empties the word again; the strand that was served completes with the word as it was. -/
def Obligations.FullEmptyResults : Prop :=
  (∀ (s : State) (d a b : BitVec 5) (scope : BitVec 3) (pa : Nat), settled s → s.onMgmt = none →
    let u := flushWritten s
    let va := x s a
    va.toNat % 8 = 0 → inWindowRegion va = true → windowPa u va = some pa → anyBad u pa 8 = false → s.waiters = [] →
    let v : Word := BitVec.ofNat 64 (loaded u pa 8)
    (pa ∈ s.full →
      exec (.ldsync d a scope) s = .next (next (putDest d v) (raiseFloor u (carriedTime u pa 8))) ∧
      exec (.ldtake d a scope) s =
        .next (next (putDest d v) { raiseFloor u (carriedTime u pa 8) with full := u.full.filter (· ≠ pa) })) ∧
    (pa ∉ s.full → ∀ take : Bool, ∃ t, exec (if take then .ldtake d a scope else .ldsync d a scope) s = .next t ∧ t.hart.park = .ldsync ∧
      t.hart.sc = s.hart.sc ∧ t.mem = (flushed s).mem ∧ t.full = s.full ∧
      t.waiters = [{ pa := BitVec.ofNat 56 pa, ring := s.cur, slot := s.hart.slot, take := take }]) ∧
    (let w := storeDirect u pa (x s b).toNat 8
      let w := { w with full := insertNat w.full pa }
      exec (.stfill a b scope) s = .next (next id { w with released := carryTime w.released pa (timeNow w) 8 })) ∧
    (0 < (x s b).toNat → va.toNat % 0x80000 + 8 * (x s b).toNat ≤ 0x80000 → anyBad u pa (8 * (x s b).toNat) = false →
      (∃ t, exec (.feclr a b scope) s = .next t ∧ t = next id { u with full := t.full } ∧
        ∀ q, q ∈ t.full ↔ q ∈ s.full ∧ ¬ ∃ i < (x s b).toNat, q = pa + 8 * i) ∧
      (∃ t, exec (.feset a b scope) s = .next t ∧ t = next id { u with full := t.full } ∧
        ∀ q, q ∈ t.full ↔ q ∈ s.full ∨ ∃ i < (x s b).toNat, q = pa + 8 * i)) ∧
    (x s b = 0 → exec (.feclr a b scope) s = .next (next id u) ∧ exec (.feset a b scope) s = .next (next id u))) ∧
  (∀ (s : State) (a b : BitVec 5) (scope : BitVec 3) (pa : Nat) (w : Waiter), settled s → s.onMgmt = none → s.bad = [] → s.hart.held = false →
    let va := x s a
    va.toNat % 8 = 0 → inWindowRegion va = true → windowPa s va = some pa → pa ∉ s.full → s.waiters = [w] → w.pa.toNat = pa → w.got = none →
    w.ring ≠ s.cur → (s.ringAt w.ring).halted = false → (∃ h, (s.ringAt w.ring).chunks = [h] ∧ h.slot = w.slot ∧ h.park = .ldsync) → memoryWf s →
    ∃ t, exec (.stfill a b scope) s = .next t ∧ t.waiters = [{ w with got := some (x s b, timeNow s) }] ∧ (∀ q, q ∈ t.full ↔ q ∈ s.full ∨ (q = pa ∧ w.take = false)) ∧
      ∀ q, memGet t.mem q = if pa ≤ q ∧ q < pa + 8 then BitVec.ofNat 8 ((x s b).toNat / 256 ^ (q - pa)) else memGet s.mem q) ∧
  (∀ (s : State) (d a : BitVec 5) (scope : BitVec 3) (pa : Nat) (w : Waiter) (v t : Word), settled s → s.onMgmt = none →
    let u := flushWritten s
    let va := x s a
    va.toNat % 8 = 0 → inWindowRegion va = true → windowPa u va = some pa → s.waiters = [w] → w.ring = s.cur → w.slot = s.hart.slot → w.got = some (v, t) →
    ∀ i ∈ [Instr.ldsync d a scope, .ldtake d a scope], exec i s = .next (next (putDest d v) (raiseFloor { u with waiters := [] } t)))

/-! ### CSRs, system instructions and traps (spec/02 R31 to R35; spec/05 R138 to R141; spec/19; spec/20) -/

/-- The word of a CSR instruction: major 0x1C with op in fn (R94). -/
def csrWord (op : BitVec 4) (d a : BitVec 5) (csr : BitVec 12) : Word := (0#32 ++ (0x1C#6 ++ d ++ a ++ op ++ csr) : BitVec 64)

/-- R138 with the tables of R31, R372 and R378: the value that each CSR of a strand and of a management core reads. At 0x100 and above the instruction is
Keystone-only. R138 and R139: the writing forms store s[a], old OR s[a], old AND NOT s[a], field by field, and write to s[d] the old value, which is
what csrr reads. R377: a write of GANGCFG latches its shape with the current VLCAP; R210: RING4X2 on a ring with a retired core traps ILL. R404 and R419: a
write of DBGCTL does what its fields say, and one of PWRCFG reaches both cores or traps ILL. TIME reads the core's max(D, F) after the strand's acquires, and
nothing that the core reads afterwards is earlier (R317; the second is the model's reading, log 105). -/
def Obligations.CsrResults : Prop :=
  (∀ (s : State) (d : BitVec 5), settled s → s.onMgmt = none →
     let h := s.hart
     let r := s.ring
     let slots : BitVec 4 := if r.gang then 4 else if r.retired then 7 else 8
     (∀ p ∈ ([(0x000, h.sc.vl.setWidth 64), (0x001, (h.sc.slices ++ h.sc.sew).setWidth 64), (0x002, h.vstart.setWidth 64),
         (0x003, h.sc.vlmax.setWidth 64), (0x004, h.sc.nreg.setWidth 64), (0x005, h.sc.pc + 4), (0x006, (h.sc.flags ++ h.sc.rm).setWidth 64),
         (0x007, if h.sc.ve then 1 else 0), (0x008, (BitVec.ofBool h.sc.pfxV ++ h.sc.pfxWord).setWidth 64), (0x010, h.tm.setWidth 64),
         (0x011, h.tn.setWidth 64), (0x012, (h.tkType ++ (0#6 : BitVec 6) ++ h.tk).setWidth 64), (0x020, h.sc.livein.setWidth 64),
         (0x021, (BitVec.ofBool (r.region.isSome && h.held) ++ h.slot ++ h.seq).setWidth 64), (0x022, (BitVec.ofBool r.gang ++ slots).setWidth 64),
         (0x023, (s.module ++ s.cur).setWidth 64), (0x024, h.wid), (0x025, h.widShape.setWidth 64), (0x029, h.msgHdr),
         (0x031, (s.die (dieOf s.cur)).cycle)] : List (BitVec 12 × Word)),
       exec (.csrr d p.1) s = .next (next (putDest d p.2) s)) ∧
     (∀ a, residentActor s = some a → ∃ v : Word, exec (.csrr d 0x028) s = .next (next (putDest d v) s) ∧ v.extractLsb' 0 16 = a.typeErr ∧
       v.extractLsb' 16 16 = a.undeliv ∧ ∀ m : BitVec 5, v.getLsbD (32 + m.toNat) = (decide ((a.box m).queue ≠ []) || decide ((a.box m).spill ≠ []))) ∧
     (let t : Word := if timeNow s < h.acquired then h.acquired else timeNow s
       ∃ u, exec (.csrr d 0x030) s = .next (next (putDest d t) u) ∧ u = { s with ring := { r with floor := u.ring.floor } } ∧ t ≤ timeNow u) ∧
     (h.level ≠ .u →
       ∀ p ∈ ([(0x100, r.epc), (0x101, r.ecause.setWidth 64), (0x102, r.eval),
           (0x103, (BitVec.ofBool r.ptmo ++ BitVec.ofBool r.pact ++ BitVec.ofBool r.ppre ++ (0#5 : BitVec 5) ++ BitVec.ofBool r.pie
             ++ BitVec.ofBool r.ie ++ BitVec.ofBool r.ppl).setWidth 64),
           (0x104, r.evec), (0x108, r.vlcap.setWidth 64), (0x109, r.ptbase.setWidth 64 <<< 17), (0x10A, r.jid.setWidth 64),
           (0x10B, r.gangcfg.setWidth 64),
           (0x10C, (r.reshapeCap ++ (0#14 : BitVec 14) ++ r.reshapeShape ++ BitVec.ofBool r.reshapePend).setWidth 64),
           (0x10D, r.quantum.setWidth 64)] : List (BitVec 12 × Word)),
         exec (.csrr d p.1) s = .next (next (putDest d p.2) (flushWritten s))) ∧
     (∀ csr c, csrOf csr = some c → csrLevel h.level csr = true →
       exec (.csrs d 0 csr) s = exec (.csrr d csr) s ∧ exec (.csrc d 0 csr) s = exec (.csrr d csr) s)) ∧
  (∀ (s : State) (d a : BitVec 5), settled s → s.onMgmt = none →
     let v := x s a
     let hart (f : Word → Hart → Hart) : Word → State → State := fun w t => { t with hart := f w t.hart }
     let ring (f : Word → Ring → Ring) : Word → State → State := fun w t => { t with ring := f w t.ring }
     let sc (f : Word → Scal → Scal) : Word → State → State := hart fun w h => { h with sc := f w h.sc }
     let shapes : Word → State → State := ring fun w r =>
       { r with gangcfg := w.extractLsb' 0 1, reshapePend := true, reshapeShape := w.extractLsb' 0 1, reshapeCap := r.vlcap }
     (∀ p ∈ ([(0x002, hart fun w h => { h with vstart := w.extractLsb' 0 16 }),
         (0x006, sc fun w c => { c with rm := w.extractLsb' 0 2, flags := w.extractLsb' 2 6 }),
         (0x007, sc fun w c => { c with ve := w.getLsbD 0 }),
         (0x008, sc fun w c => { c with pfxWord := w.extractLsb' 0 32, pfxV := w.getLsbD 32 }),
         (0x020, sc fun w c => { c with livein := w.extractLsb' 0 32 }),
         (0x100, ring fun w r => { r with epc := w &&& ~~~3#64 }), (0x101, ring fun w r => { r with ecause := w.extractLsb' 0 11 }),
         (0x102, ring fun w r => { r with eval := w }),
         (0x103, ring fun w r => { r with ppl := w.getLsbD 0, ie := w.getLsbD 1, pie := w.getLsbD 2 }),
         (0x104, ring fun w r => { r with evec := w &&& ~~~3#64 }), (0x109, ring fun w r => { r with ptbase := w.extractLsb' 17 39 }),
         (0x10A, ring fun w r => { r with jid := w.extractLsb' 0 16 }), (0x10D, ring fun w r => { r with quantum := w.extractLsb' 0 48 })] :
         List (BitVec 12 × (Word → State → State))),
       (p.1 < 0x100#12 ∨ s.hart.level ≠ .u) →
       let u := if p.1 < 0x100#12 then s else flushWritten s
       ∃ old, exec (.csrr 1 p.1) s = .next (next (putDest 1 old) u) ∧
         exec (.csrw d a p.1) s = .next (next (putDest d old) (p.2 v u)) ∧
         (a ≠ 0 → exec (.csrs d a p.1) s = .next (next (putDest d old) (p.2 (old ||| v) u)) ∧
           exec (.csrc d a p.1) s = .next (next (putDest d old) (p.2 (old &&& ~~~v) u)))) ∧
     (s.hart.level ≠ .u →
       (s.ring.retired = false ∨ v.getLsbD 0 = false →
         exec (.csrw d a 0x10B) s = .next (next (putDest d (s.ring.gangcfg.setWidth 64)) (shapes v (flushWritten s)))) ∧
       (s.ring.retired = true → v.getLsbD 0 = true →
         exec (.csrw d a 0x10B) s = .next (takeTrap (flushWritten s) 0x01 (csrWord 1 d a 0x10B) s.hart.sc.pc false false)))) ∧
  ∀ (s : State) (d a : BitVec 5) (c : BitVec 1), settled s → s.onMgmt = some c → s.hart.level = .m → s.hart.held = false →
    let m := s.mgmtAt c
    let v := x s a
    let mg (f : Word → Mgmt → Mgmt) : Word → State := fun w => { s with mgmt := s.mgmt.set c.toNat (f w m) c.isLt }
    let flags := (s.hart.sc.flags ++ s.hart.sc.rm).setWidth 64
    let halted : BitVec 8 := BitVec.ofNat 8 (∑ j ∈ Finset.range 8, if dieHalted s (BitVec.ofNat 3 j) then 2 ^ j else 0)
    let dbgctl : Word := (BitVec.ofBool m.step ++ m.stepRing ++ halted ++ m.dbgHalt).setWidth 64
    let pwrcfg : Word := (BitVec.ofBool (s.mgmtAt 0).pwrBoost ++ (0#6 : BitVec 6) ++ (s.mgmtAt 0).pwrCeil ++ (0#6 : BitVec 6) ++ (s.mgmtAt 0).pwrFloor).setWidth 64
    (∀ p ∈ ([(0x006, flags), (0x031, m.cycle), (0x200, m.mepc), (0x201, m.mcause.setWidth 64), (0x202, m.mval),
        (0x203, (BitVec.ofBool m.mnest ++ BitVec.ofBool m.mpie ++ BitVec.ofBool m.mie).setWidth 64), (0x204, m.mvec), (0x208, dbgctl), (0x209, pwrcfg)] :
        List (BitVec 12 × Word)), exec (.csrr d p.1) s = .next (next (putDest d p.2) s)) ∧
    (∀ p ∈ ([(0x200, m.mepc, mg fun w m => { m with mepc := w &&& ~~~3#64 }),
        (0x201, m.mcause.setWidth 64, mg fun w m => { m with mcause := w.extractLsb' 0 18 }), (0x202, m.mval, mg fun w m => { m with mval := w }),
        (0x203, (BitVec.ofBool m.mnest ++ BitVec.ofBool m.mpie ++ BitVec.ofBool m.mie).setWidth 64,
          mg fun w m => { m with mie := w.getLsbD 0, mpie := w.getLsbD 1, mnest := w.getLsbD 2 }),
        (0x204, m.mvec, mg fun w m => { m with mvec := w &&& ~~~3#64 })] : List (BitVec 12 × Word × (Word → State))),
      exec (.csrw d a p.1) s = .next (next (putDest d p.2.1) (p.2.2 v)) ∧
      (a ≠ 0 → exec (.csrs d a p.1) s = .next (next (putDest d p.2.1) (p.2.2 (p.2.1 ||| v))) ∧
        exec (.csrc d a p.1) s = .next (next (putDest d p.2.1) (p.2.2 (p.2.1 &&& ~~~v))))) ∧
    (∃ t u, exec (.dbgctlHalt c (v.extractLsb' 0 8)) s = .next t ∧ exec (.dbgctlStep c (v.extractLsb' 16 6) (v.getLsbD 22)) t = .next u ∧
      exec (.csrw d a 0x208) s = .next (next (putDest d dbgctl) u)) ∧
    ((v.extractLsb' 0 10 : BitVec 10).toNat ≤ 420 → 420 ≤ (v.extractLsb' 16 10 : BitVec 10).toNat →
      ∃ u, exec (.pwrcfgWrite c v) s = .next u ∧ exec (.csrw d a 0x209) s = .next (next (putDest d pwrcfg) u)) ∧
    (420 < (v.extractLsb' 0 10 : BitVec 10).toNat ∨ (v.extractLsb' 16 10 : BitVec 10).toNat < 420 →
      exec (.csrw d a 0x209) s = .next (takeTrap s 0x01 (csrWord 1 d a 0x209) s.hart.sc.pc false false))

/-- R140, R51 and R139: a number that no chapter assigns traps ILL, one above the level traps PRIV, and a write to a register of read-only fields
traps ILL, each with the word in EVAL and nothing read or written. -/
def Obligations.CsrTraps : Prop :=
  ∀ (s : State) (d a : BitVec 5) (csr : BitVec 12), s.hart.queue = [] → s.onMgmt = none → a ≠ 0 →
    let forms : List (Instr × BitVec 4 × BitVec 5) := [(.csrr d csr, 0, 0), (.csrw d a csr, 1, a), (.csrs d a csr, 2, a), (.csrc d a csr, 3, a)]
    let assigned : List (BitVec 12) := [0x000, 0x001, 0x002, 0x003, 0x004, 0x005, 0x006, 0x007, 0x008, 0x010, 0x011, 0x012, 0x020, 0x021, 0x022,
      0x023, 0x024, 0x025, 0x028, 0x029, 0x030, 0x031, 0x100, 0x101, 0x102, 0x103, 0x104, 0x108, 0x109, 0x10A, 0x10B, 0x10C, 0x10D, 0x200, 0x201,
      0x202, 0x203, 0x204, 0x208, 0x209]
    let readOnly : List (BitVec 12) := [0x000, 0x001, 0x003, 0x004, 0x005, 0x010, 0x011, 0x012, 0x021, 0x022, 0x023, 0x024, 0x025, 0x028, 0x029,
      0x030, 0x031, 0x108, 0x10C]
    let traps (p : Instr × BitVec 4 × BitVec 5) (cause : BitVec 8) : Prop :=
      exec p.1 s = .next (takeTrap s cause (csrWord p.2.1 d p.2.2 csr) s.hart.sc.pc false false)
    (csr ∉ assigned → ∀ p ∈ forms, traps p 0x01) ∧
    (csr ∈ assigned → (s.hart.level = .u ∧ 0x100#12 ≤ csr ∨ s.hart.level = .s ∧ 0x200#12 ≤ csr) → ∀ p ∈ forms, traps p 0x02) ∧
    (csr ∈ readOnly → (csr < 0x100#12 ∨ s.hart.level = .s) → ∀ p ∈ forms.tail, traps p 0x01)

/-- R384: eret of the keystone at S, and of a management core. -/
def Obligations.EretResults : Prop :=
  ∀ s : State, settled s → s.hart.level ≠ .u →
    let u := finish (flushWritten s)
    (s.onMgmt = none →
      exec .eret s = .next { u with
        ring := { u.ring with ie := u.ring.pie }
        hart := { u.hart with
          sc := { u.hart.sc with pc := u.ring.epc }, level := if u.ring.ppl then .s else .u, inTrap := u.hart.inTrap - 1
          pfx := if u.hart.sc.pfxV then some { word := u.hart.sc.pfxWord, fromEret := true } else none } }) ∧
    (∀ c, s.onMgmt = some c →
      exec .eret s = .next { u with
        mgmt := u.mgmt.set c.toNat { (u.mgmtAt c) with mie := (u.mgmtAt c).mpie } c.isLt
        hart := { u.hart with sc := { u.hart.sc with pc := (u.mgmtAt c).mepc } } })

/-- R51 and R388: below S every instruction of major 0x1E traps PRIV with its word in EVAL. R385 and R386: wfi goes on where an event is pending and
parks where none is; halt stops the ring with its trap state unchanged, and the management core of abutment die 0 (log 19) gets an event with the address
of the halt. R387: tlbinv drops the kept translations that its control word selects, and no other; it waits for accesses in flight. -/
def Obligations.SystemResults : Prop :=
  (∀ (s : State) (a b : BitVec 5), s.hart.queue = [] → s.onMgmt = none → s.hart.level = .u →
     ∀ p ∈ ([(.eret, 0, 0, 1), (.wfi, 0, 0, 2), (.halt, 0, 0, 3), (.tlbinv a b, a, b, 4), (.preempt a, a, 0, 0x10), (.ctxsave a b, a, b, 0x11),
         (.ctxload a b, a, b, 0x12), (.reshape a b, a, b, 0x13)] : List (Instr × BitVec 5 × BitVec 5 × BitVec 11)),
       exec p.1 s = .next (takeTrap s 0x02 (0#32 ++ (0x1E#6 ++ 0#5 ++ p.2.1 ++ p.2.2.1 ++ p.2.2.2) : BitVec 64) s.hart.sc.pc false false)) ∧
  (∀ s : State, settled s → s.hart.level ≠ .u →
     ((s.onMgmt = none → (s.ring.ppre || s.ring.pact || s.ring.ptmo) = true → exec .wfi s = .next (next id (flushWritten s))) ∧
       (s.onMgmt = none → (s.ring.ppre || s.ring.pact || s.ring.ptmo) = false →
         exec .wfi s = .next { flushed s with hart := { (flushed s).hart with park := .wfi } })) ∧
     (s.onMgmt = none → ∃ t, exec .halt s = .next t ∧ t.ring.state = .stopped ∧ t.ring.unavailable = true ∧ t.ring.epc = s.ring.epc ∧
       t.ring.ecause = s.ring.ecause ∧ t.ring.eval = s.ring.eval ∧ t.ring.estat = s.ring.estat ∧ t.hart.level = s.hart.level ∧
       t.hart.sc.x = s.hart.sc.x ∧ t.hart.sc.pc = s.hart.sc.pc ∧
       (s.bad = [] → (t.mgmtAt 0).events = (s.mgmtAt 0).events ++ [(0, s.cur, s.hart.sc.pc, none)])) ∧
     (∀ c, s.onMgmt = some c → ∃ t, exec .halt s = .next t ∧ (t.mgmtAt c).stopped = true ∧ t.hart.sc.x = s.hart.sc.x ∧
       t.ring = (flushWritten s).ring)) ∧
  (∀ (s : State) (a b : BitVec 5), settled s → s.hart.level ≠ .u →
     let w := x s b
     let page (l : BitVec 2) : Nat := match l.toNat with | 0 => 43 | 1 => 30 | 2 => 21 | _ => 16
     let gone (c : CachedPte) : Prop := match (w.extractLsb' 16 2).toNat with
       | 0 => c.jid = w.extractLsb' 0 16 ∧ c.prefix_ = x s a >>> page c.level
       | 1 => c.jid = w.extractLsb' 0 16
       | _ => True
     (w.extractLsb' 18 46 = 0 → w.extractLsb' 16 2 ≠ 3 → accessesOut (flushWritten s) = true →
       exec (.tlbinv a b) s = .next (applyWait (flushed s) (.park .stalled))) ∧
     (w.extractLsb' 18 46 = 0 → w.extractLsb' 16 2 ≠ 3 → accessesOut (flushWritten s) = false →
       ∃ l, exec (.tlbinv a b) s = .next (next id { flushWritten s with ptes := l }) ∧ ∀ c, c ∈ l ↔ c ∈ s.ptes ∧ ¬ gone c) ∧
     (w.extractLsb' 18 46 ≠ 0 ∨ w.extractLsb' 16 2 = 3 →
       exec (.tlbinv a b) s = .next (takeTrap (flushWritten s) 0x01 (0#32 ++ (0x1E#6 ++ 0#5 ++ a ++ b ++ 4#11) : BitVec 64) s.hart.sc.pc false false)))

/-- R393: preempt has no effect on a ring that is EMPTY or STOPPED; it stops a running strand at U at its boundary, with the bookkeeping of R363;
with RESUME = 1 a STOPPED ring runs on from EPC, at the level and with the event enable that it saved; RESUME = 1 on a ring that is not STOPPED
traps ILL. (What the record of the strand that stops holds can be written at once, R286, and no ldsync of it has been served: log 22.) -/
def Obligations.PreemptResults : Prop :=
  ∀ (s : State) (a : BitVec 5), settled s → s.hart.level ≠ .u → s.onMgmt = none → s.hart.held = false → s.ring.active < s.ring.chunks.length →
    let n : BitVec 6 := (x s a).extractLsb' 0 6
    let r := s.ringAt n
    let k := keystoneOf s n
    (x s a).extractLsb' 7 57 = 0 → n ≠ s.cur → r.halted = false →
    ((x s a).getLsbD 6 = false → r.state ≠ .running → exec (.preempt a) s = .next (next id s)) ∧
    ((x s a).getLsbD 6 = true → r.state = .stopped → r.chunks ≠ [] →
      ∃ t, exec (.preempt a) s = .next t ∧ t.hart.sc.pc = s.hart.sc.pc + 4 ∧ t.hart.sc.x = s.hart.sc.x ∧ t.cur = s.cur ∧
        (t.ringAt n).state = .running ∧ (t.ringAt n).ie = r.pie ∧ (keystoneOf t n).sc.pc = r.epc ∧
        (keystoneOf t n).level = (if r.ppl then .s else .u) ∧ (keystoneOf t n).sc.x = (keystoneOf s n).sc.x ∧ t.mem = s.mem) ∧
    ((x s a).getLsbD 6 = false → r.state = .running → r.chunks ≠ [] → k.level = .u → k.queue = [] → k.remote = [] → k.park = .running →
      k.state = .run → k.pfx = none → recordsReady (turnTo s n 0) = true → servedHere (turnTo s n 0) = none →
      ∃ t, exec (.preempt a) s = .next t ∧ t.hart.sc.pc = s.hart.sc.pc + 4 ∧ t.cur = s.cur ∧ (t.ringAt n).state = .stopped ∧
        (t.ringAt n).ppre = false ∧ (t.ringAt n).epc = k.sc.pc &&& ~~~3#64 ∧ (t.ringAt n).ecause = 0x214 ∧
        (t.ringAt n).eval = s.cur.setWidth 64 ∧ (t.ringAt n).ppl = false ∧ (t.ringAt n).pie = r.ie ∧ (t.ringAt n).ie = false ∧
        (keystoneOf t n).sc.pc = k.sc.pc ∧ (keystoneOf t n).sc.x = k.sc.x ∧ (keystoneOf t n).level = .u) ∧
    ((x s a).getLsbD 6 = true → r.state ≠ .stopped →
      exec (.preempt a) s =
        .next (takeTrap s 0x01 (0#32 ++ (0x1E#6 ++ 0#5 ++ a ++ 0#5 ++ 0x10#11) : BitVec 64) s.hart.sc.pc false false))

/-- The synchronous causes of a span-die core that its instructions raise (R365); BREAK is taken by R406. -/
def synchronous (cause : BitVec 8) : Prop := 1 ≤ cause.toNat ∧ cause.toNat ≤ 9 ∨ cause = 0x0D ∨ cause = 0x0F

/-- The point of a synchronous trap at an instruction: the next word for TRAPI, else the instruction itself (R365). -/
def trapPoint (cause : BitVec 8) (s : State) : Word := if cause = 0x09 then s.hart.sc.pc + 4 else s.hart.sc.pc

/-- R363, R364 and R383: a synchronous trap at the keystone of a ring saves its point, cause and value, and goes on at EVEC at S with events
disabled; every other register and what the strand reads from memory stays. trap saves the address of the next word. (What its record holds of another
module is written before, log 22.) TRAP_ENTRY with a cause that no instruction of a strand raises, or with BREAK, which R406 takes by another way,
changes nothing: the model's choice (log 25). -/
def Obligations.TrapEntryAtS : Prop :=
  (∀ (s : State) (cause : BitVec 8) (val : Word), ¬ synchronous cause → exec (.trapEntry cause val) s = .next s) ∧
  ∀ (s : State) (cause : BitVec 8) (val : Word) (imm : BitVec 16), s.onMgmt = none → isKeystone s = true → recordsOut s = false →
    s.hart.queue = [] → (s.hart.level = .u ∨ s.hart.level = .s ∧ s.ring.ie = true) → synchronous cause →
    ∀ p ∈ ([(.trapEntry cause val, cause, val, trapPoint cause s), (.trap imm, 0x09, imm.setWidth 64, s.hart.sc.pc + 4)] :
        List (Instr × BitVec 8 × Word × Word)),
      ∃ t, exec p.1 s = .next t ∧
        t.ring.epc = p.2.2.2 &&& ~~~3#64 ∧ t.ring.ecause = (0#3 : BitVec 3) ++ p.2.1 ∧ t.ring.eval = p.2.2.1 ∧
        t.ring.ppl = decide (s.hart.level = .s) ∧ t.ring.pie = s.ring.ie ∧ t.ring.ie = false ∧ t.hart.level = .s ∧
        t.hart.sc.pc = s.ring.evec ∧ t.hart.sc.x = s.hart.sc.x ∧ t.hart.sc.flags = s.hart.sc.flags ∧ t.hart.sc.vl = s.hart.sc.vl ∧
        t.hart.v = s.hart.v ∧ t.hart.k = s.hart.k ∧ t.hart.z = s.hart.z ∧ t.hart.vstart = s.hart.vstart ∧
        t.hart.sc.pfxV = s.hart.pfx.isSome ∧ (∀ q, s.hart.pfx = some q → t.hart.sc.pfxWord = q.word) ∧
        (s.hart.held = false → t.mem = s.mem) ∧ t.ring.state = s.ring.state ∧ t.rings = s.rings

/-- R362: a synchronous trap at S with IE = 0 is a double trap: the ring stops, nothing is saved, and the management core of abutment die 0 (the model's choice, log 19) gets an
event. R234: a trap of a speculative chunk is recorded and deferred: the chunk holds for the keystone, and its ring saves nothing. -/
def Obligations.StoppedAndDeferredTraps : Prop :=
  (∀ (s : State) (cause : BitVec 8) (val : Word), s.onMgmt = none → isKeystone s = true → recordsOut s = false → s.hart.level = .s → s.ring.ie = false →
     synchronous cause → s.bad = [] →
     ∃ t, exec (.trapEntry cause val) s = .next t ∧ t.ring.state = .stopped ∧ t.ring.unavailable = true ∧ t.ring.epc = s.ring.epc ∧
       t.ring.ecause = s.ring.ecause ∧ t.ring.eval = s.ring.eval ∧ t.ring.estat = s.ring.estat ∧ t.hart.level = .s ∧ t.hart.sc = s.hart.sc ∧
       (t.mgmtAt 0).events = (s.mgmtAt 0).events ++ [(cause, s.cur, val, some (trapPoint cause s))]) ∧
  (∀ (s : State) (cause : BitVec 8) (val : Word), s.onMgmt = none → s.hart.held = true → s.ring.active ≠ 0 →
     synchronous cause →
     exec (.trapEntry cause val) s = .next { s with hart := { s.hart with
       state := .hold (.trap { code := cause, val := val, vec := false, point := trapPoint cause s, spec := true }), queue := [], convoy := [], remote := [],
       vremote := [] } })

/-- R363 and R378: a trap or an event of a management core saves into its machine CSRs and goes on at MVEC; a trap with IE = 0 sets NEST. -/
def Obligations.TrapEntryAtM : Prop :=
  ∀ (s : State) (c : BitVec 1) (cause : BitVec 8) (val : Word), s.onMgmt = some c → s.hart.remote = [] →
    (synchronous cause → ∃ t, exec (.trapEntry cause val) s = .next t ∧ (t.mgmtAt c).mepc = trapPoint cause s &&& ~~~3#64 ∧ (t.mgmtAt c).mcause = cause.setWidth 18 ∧
      (t.mgmtAt c).mval = val ∧ (t.mgmtAt c).mpie = (s.mgmtAt c).mie ∧ (t.mgmtAt c).mie = false ∧
      (t.mgmtAt c).mnest = ((s.mgmtAt c).mnest || !(s.mgmtAt c).mie) ∧ t.hart.sc.pc = (s.mgmtAt c).mvec ∧ t.hart.sc.x = s.hart.sc.x ∧
      t.mem = s.mem ∧ t.ring = s.ring) ∧
    (∀ code ring v rest, (s.mgmtAt c).events = (code, ring, v, none) :: rest → (s.mgmtAt c).mie = true → (s.mgmtAt c).stopped = false →
      s.hart.park ≠ .wfi → code ≠ 0x12 → code ≠ 0x13 →
      ∃ t, exec (.mEventEntry c) s = .next t ∧ (t.mgmtAt c).events = rest ∧ (t.mgmtAt c).mepc = s.hart.sc.pc &&& ~~~3#64 ∧
        (t.mgmtAt c).mcause = ring ++ 1#1 ++ 0#1 ++ 1#1 ++ 0#1 ++ code ∧ (t.mgmtAt c).mval = v ∧ (t.mgmtAt c).mpie = true ∧
        (t.mgmtAt c).mie = false ∧ (t.mgmtAt c).mnest = (s.mgmtAt c).mnest ∧ t.hart.sc.pc = (s.mgmtAt c).mvec ∧ t.hart.sc.x = s.hart.sc.x ∧
        t.mem = s.mem ∧ t.ring = s.ring)

/-! ### Vector instructions (spec/02 R36 to R50; spec/06; spec/07) -/

/-- R144 to R146 and R257 with R26: the vector configuration instructions. SLICES outside 3 to 8, and a type word with bits above 7, trap ILL. -/
def Obligations.VectorConfiguration : Prop :=
  ∀ (s : State) (d a b : BitVec 5) (g : BitVec 4) (slices sew : BitVec 4) (n : BitVec 2), ready s → s.ring.reshapePend = false → (∀ e ∈ s.hart.queue, e.op.shape = none) →
    let h := s.hart
    let bits (v : BitVec 4) : Nat := match v.toNat with
      | 0 | 1 | 12 | 13 | 15 => 8
      | 2 | 3 | 8 | 9 => 16
      | 4 | 5 | 10 => 32
      | 14 => 4
      | _ => 64
    let bytes (c : BitVec 2) : Nat := 65536 / (8 * 2 ^ c.toNat) * (if s.ring.gang then 2 else 1)
    let most (c : BitVec 2) (v : BitVec 4) : Nat := (if s.ring.vlcap = 0 then bytes c else min (bytes c) s.ring.vlcap.toNat) * 8 / bits v
    let avl := (x s a).toNat
    let typed (v w : BitVec 4) : State := { s with hart := { h with sc := { h.sc with
      sew := v, slices := w, vlmax := BitVec.ofNat 16 (most h.sc.nreg v), vl := BitVec.ofNat 16 (min avl (most h.sc.nreg v)) } } }
    let sets (v w : BitVec 4) : State := next (putDest d (BitVec.ofNat 64 (min avl (most h.sc.nreg v)))) (typed v w)
    let ty := x s b
    let rings := (h.widShape.extractLsb' 36 6).toNat + 1
    let share := avl / rings + (if h.wid.toNat < avl % rings then 1 else 0)
    let offset := h.wid.toNat * (avl / rings) + min h.wid.toNat (avl % rings)
    let most0 := most h.sc.nreg h.sc.sew
    let noted : State := { s with hart := { h with sc := { h.sc with vlmax := BitVec.ofNat 16 most0, vl := BitVec.ofNat 16 (min share most0) } } }
    (3 ≤ slices.toNat → slices.toNat ≤ 8 → exec (.vsetvli d a slices sew) s = .next (sets sew slices)) ∧
    (3 ≤ ty.toNat / 16 → ty.toNat / 16 ≤ 8 → exec (.vsetvl d a b) s = .next (sets (ty.extractLsb' 0 4) (ty.extractLsb' 4 4))) ∧
    (h.queue = [] → ¬(3 ≤ slices.toNat ∧ slices.toNat ≤ 8) →
      exec (.vsetvli d a slices sew) s =
        .next (takeTrap s 0x01 ((0x20#6 ++ 0#1 ++ d ++ 0#1 ++ a ++ slices ++ sew ++ 0#6 : Word32).setWidth 64) h.sc.pc false false)) ∧
    (h.queue = [] → ty.extractLsb' 8 56 ≠ 0 →
      exec (.vsetvl d a b) s =
        .next (takeTrap s 0x01 ((0x20#6 ++ 0#1 ++ d ++ 0#1 ++ a ++ b ++ 0#4 ++ 1#4 ++ 0#1 : Word32).setWidth 64) h.sc.pc false false)) ∧
    exec (.rgsetl g a) s =
      .next (next (fun h => putReg (g ++ 1#1) (BitVec.ofNat 64 offset) (putReg (g ++ 0#1) (BitVec.ofNat 64 share) h)) noted) ∧
    (h.queue = [] → (∀ j : BitVec 3, (h.slotAt j).bound = false) →
      (n = h.sc.nreg → exec (.vcfg n) s = .next (next id s)) ∧
      (n ≠ h.sc.nreg → h.sc.vl.toNat ≤ most n h.sc.sew → ∃ k : Vector MaskReg 8,
        exec (.vcfg n) s = .next (next (fun h => { h with
          sc := { h.sc with nreg := n, vlmax := BitVec.ofNat 16 (most n h.sc.sew) }, v := Vector.replicate 64 0, k := k, vBad := 0, kBad := 0 }) s) ∧
        ∀ i : Fin 8, i ≠ 0 → k[i] = if i = 7 then BitVec.allOnes 32768 else 0) ∧
      (n ≠ h.sc.nreg → most n h.sc.sew < h.sc.vl.toNat →
        exec (.vcfg n) s = .next (takeTrap s 0x01 ((0x20#6 ++ 0#19 ++ n ++ 2#4 ++ 0#1 : Word32).setWidth 64) h.sc.pc false false)))

/-- R402 and R403: reshape latches a shape and a cap on its target, and an EMPTY target takes them at once. R403 with R402: a latched change of
shape is applied by the strand's next vsetvli, outside any region, before that computes VL: the shape and the cap change, every register keeps its low bytes and
reads zero above them, and the masks stay. -/
def Obligations.ReshapeResults : Prop :=
  (∀ (s : State) (a b : BitVec 5), settled s → s.hart.level ≠ .u →
     let n : BitVec 6 := (x s a).extractLsb' 0 6
     let shape : BitVec 1 := (x s b).extractLsb' 0 1
     let cap : BitVec 16 := (x s b).extractLsb' 16 16
     (x s a).extractLsb' 6 58 = 0 → (x s b).extractLsb' 1 15 = 0 → (x s b).extractLsb' 32 32 = 0 → cap.toNat % 64 = 0 →
     (shape = 1 → (s.ringAt n).retired = false) →
     let u := flushWritten s
     ∃ t, exec (.reshape a b) s = .next t ∧ t.hart.sc.pc = s.hart.sc.pc + 4 ∧ t.hart.sc.x = s.hart.sc.x ∧
       t.ringAt n = (if (u.ringAt n).state = .empty then
           { (u.ringAt n) with reshapeShape := shape, reshapeCap := cap, reshapePend := false, gang := decide (shape = 1), vlcap := cap }
         else { (u.ringAt n) with reshapeShape := shape, reshapeCap := cap, reshapePend := true }) ∧
       ∀ m, m ≠ n → t.ringAt m = u.ringAt m) ∧
  (∀ (s : State) (d a : BitVec 5) (slices sew : BitVec 4), ready s → s.hart.queue = [] → s.onMgmt = none → s.ring.reshapePend = true →
     s.ring.region = none → s.ring.active = 0 → 3 ≤ slices.toNat → slices.toNat ≤ 8 →
     let r : Ring := { s.ring with
       gang := decide (s.ring.reshapeShape = 1), vlcap := s.ring.reshapeCap, reshapePend := false, chunks := s.ring.chunks.take 1 }
     let w := regBytes r.gang s.hart.sc.nreg
     let kept := min (regBytes s.ring.gang s.hart.sc.nreg) w
     let most := (if r.vlcap = 0 then w else min w r.vlcap.toNat) * 8 / sewBits sew
     ∃ t, exec (.vsetvli d a slices sew) s = .next t ∧ t.ring = r ∧ t.hart.sc.pc = s.hart.sc.pc + 4 ∧ t.hart.sc.sew = sew ∧
       t.hart.sc.slices = slices ∧ t.hart.sc.vl = BitVec.ofNat 16 (min (x s a).toNat most) ∧ t.hart.sc.vlmax = BitVec.ofNat 16 most ∧
       t.hart.k = s.hart.k ∧ t.hart.z = s.hart.z ∧ t.mem = s.mem ∧
       ∀ (v : BitVec 6) (i : Nat), (t.hart.vr v).getLsbD i = (decide (i < 8 * kept) && (s.hart.vr v).getLsbD i))

/-- R147 to R149, R151, R152 and R60: the integer forms, element by element, with the second operand from a vector register, a scalar register or
the immediate. No element sets a flag. -/
def Obligations.VectorIntegerResults : Prop :=
  ∀ (s : State) (rest : List Word32) (d a b imm : BitVec 6) (sb : BitVec 5) (km : BitVec 3) (c : BitVec 1),
    vectorReady s → convoyLeft s c rest → d.toNat < regs s → a.toNat < regs s →
    let n := width s
    let signed : Bool := s.hart.sc.sew.toNat % 2 == 0
    let low (z : Int) : Nat := (z % 2 ^ n).toNat
    let neg (v : Nat) : Int := if 2 ^ (n - 1) ≤ v then (v : Int) - 2 ^ n else v
    let int (v : Nat) : Int := if signed then neg v else v
    let clamp (z : Int) : Int := if signed then max (-2 ^ (n - 1)) (min (2 ^ (n - 1) - 1) z) else max 0 (min (2 ^ n - 1) z)
    let quot (u w : Nat) : Nat := if w = 0 then 2 ^ n - 1 else low ((int u).tdiv (int w))
    let remain (u w : Nat) : Nat := if w = 0 then u else low (int u - (int u).tdiv (int w) * int w)
    let least (u w : Nat) : Nat := if int u ≤ int w then u else w
    let most (u w : Nat) : Nat := if int u ≤ int w then w else u
    let y := (x s sb).toNat % 2 ^ n
    let k := low imm.toInt
    let gives (i : Instr) (f : Nat → Nat) : Prop := givesElements s rest d (actives s km true) i f 0
    (s.hart.sc.sew.toNat < 8 →
      (b.toNat < regs s →
        ∀ p ∈ ([(.vaddVV d a b km c, fun u w => low (u + w)), (.vsubVV d a b km c, fun u w => low ((u : Int) - w)),
            (.vmulVV d a b km c, fun u w => low (u * w)), (.vmulhVV d a b km c, fun u w => low (int u * int w / 2 ^ n)),
            (.vdivVV d a b km c, quot), (.vremVV d a b km c, remain), (.vminVV d a b km c, least), (.vmaxVV d a b km c, most),
            (.vsllVV d a b km c, fun u w => low (u * 2 ^ (w % n))), (.vsrlVV d a b km c, fun u w => u / 2 ^ (w % n)),
            (.vsraVV d a b km c, fun u w => low (neg u / 2 ^ (w % n))), (.vsaddVV d a b km c, fun u w => low (clamp (int u + int w))),
            (.vssubVV d a b km c, fun u w => low (clamp (int u - int w)))] : List (Instr × (Nat → Nat → Nat))),
          gives p.1 fun j => p.2 (el s a j) (el s b j)) ∧
      (∀ p ∈ ([(.vaddVS d a sb km c, fun u => low (u + y)), (.vsubVS d a sb km c, fun u => low ((u : Int) - y)),
          (.vrsubVS d a sb km c, fun u => low ((y : Int) - u)), (.vmulVS d a sb km c, fun u => low (u * y)),
          (.vmulhVS d a sb km c, fun u => low (int u * int y / 2 ^ n)), (.vdivVS d a sb km c, (quot · y)), (.vremVS d a sb km c, (remain · y)),
          (.vminVS d a sb km c, (least · y)), (.vmaxVS d a sb km c, (most · y)), (.vsllVS d a sb km c, fun u => low (u * 2 ^ (y % n))),
          (.vsrlVS d a sb km c, fun u => u / 2 ^ (y % n)), (.vsraVS d a sb km c, fun u => low (neg u / 2 ^ (y % n))),
          (.vsaddVS d a sb km c, fun u => low (clamp (int u + int y))), (.vssubVS d a sb km c, fun u => low (clamp (int u - int y))),
          (.vaddVI d a imm km c, fun u => low (u + k)), (.vrsubVI d a imm km c, fun u => low ((k : Int) - u)),
          (.vminVI d a imm km c, (least · k)), (.vmaxVI d a imm km c, (most · k)),
          (.vsllVI d a imm km c, fun u => low (u * 2 ^ (imm.toNat % n))), (.vsrlVI d a imm km c, fun u => u / 2 ^ (imm.toNat % n)),
          (.vsraVI d a imm km c, fun u => low (neg u / 2 ^ (imm.toNat % n))),
          (.vsaddVI d a imm km c, fun u => low (clamp (int u + int k)))] : List (Instr × (Nat → Nat))),
        gives p.1 fun j => p.2 (el s a j))) ∧
    (s.hart.sc.sew.toNat < 14 →
      (b.toNat < regs s →
        gives (.vandVV d a b km c) (fun j => el s a j &&& el s b j) ∧ gives (.vorVV d a b km c) (fun j => el s a j ||| el s b j) ∧
        gives (.vxorVV d a b km c) (fun j => el s a j ^^^ el s b j)) ∧
      ∀ p ∈ ([(.vandVS d a sb km c, (· &&& y)), (.vorVS d a sb km c, (· ||| y)), (.vxorVS d a sb km c, (· ^^^ y)),
          (.vandVI d a imm km c, (· &&& k)), (.vorVI d a imm km c, (· ||| k)), (.vxorVI d a imm km c, (· ^^^ k))] : List (Instr × (Nat → Nat))),
        gives p.1 fun j => p.2 (el s a j))

/-- R153 to R155: multiply-accumulate reads its destination; a four-way dot product saturates once, at the end; a widening form writes elements of
twice the width to the pair of registers at vd. -/
def Obligations.VectorAccumulateResults : Prop :=
  ∀ (s : State) (rest : List Word32) (d a b : BitVec 6) (sb : BitVec 5) (km : BitVec 3) (c : BitVec 1),
    vectorReady s → convoyLeft s c rest → d.toNat < regs s → a.toNat < regs s →
    let n := width s
    let signed : Bool := s.hart.sc.sew.toNat % 2 == 0
    let int (m v : Nat) : Int := if signed ∧ 2 ^ (m - 1) ≤ v then (v : Int) - 2 ^ m else v
    let low (m : Nat) (z : Int) : Nat := (z % 2 ^ m).toNat
    let y := (x s sb).toNat % 2 ^ n
    let acts := actives s km true
    let gives (i : Instr) (f : Nat → Nat) : Prop := givesElements s rest d acts i f 0
    let byte (v j : Nat) : Nat := v / 2 ^ (8 * j) % 256
    let dot (u w e : Nat) : Int := int 32 e + ∑ j ∈ Finset.range 4, int 8 (byte u j) * int 8 (byte w j)
    let clamp (z : Int) : Int := if signed then max (-2 ^ 31) (min (2 ^ 31 - 1) z) else max 0 (min (2 ^ 32 - 1) z)
    let wide (i : Instr) (f : Nat → Int) : Prop := ∃ lo hi : VReg,
      exec i s = .next (vnext rest (fun h => (h.setVr d lo).setVr (d + 1) hi) s) ∧
      ∀ j, (j + 1) * (2 * n) ≤ 2 * regWidth s →
        let q := j * (2 * n) % regWidth s / (2 * n)
        let first : Bool := decide (j * (2 * n) < regWidth s)
        elemOf (if first then lo else hi) (2 * n) q =
          if j ∈ acts then low (2 * n) (f j) else elemOf (s.hart.vr (if first then d else d + 1)) (2 * n) q
    (s.hart.sc.sew.toNat < 8 →
      gives (.vmaddVS d a sb km c) (fun j => low n (el s d j + el s a j * y)) ∧
      gives (.vmsacVS d a sb km c) (fun j => low n ((el s d j : Int) - el s a j * y)) ∧
      (b.toNat < regs s →
        gives (.vmaddVV d a b km c) (fun j => low n (el s d j + el s a j * el s b j)) ∧
        gives (.vmsacVV d a b km c) (fun j => low n ((el s d j : Int) - el s a j * el s b j)))) ∧
    (s.hart.sc.sew.toNat = 4 ∨ s.hart.sc.sew.toNat = 5 → b.toNat < regs s →
      gives (.vdot4 d a b km c) (fun j => low 32 (dot (el s a j) (el s b j) (el s d j))) ∧
      gives (.vdot4Sat d a b km c) (fun j => low 32 (clamp (dot (el s a j) (el s b j) (el s d j))))) ∧
    (s.hart.sc.sew.toNat < 6 → d.toNat % 2 = 0 → d.toNat + 1 < regs s → a ≠ d → a ≠ d + 1 → copyOf s = none → vl s * n ≤ regWidth s →
      wide (.vwaddVS d a sb km c) (fun j => int n (el s a j) + int n y) ∧
      wide (.vwmulVS d a sb km c) (fun j => int n (el s a j) * int n y) ∧
      (b.toNat < regs s → b ≠ d → b ≠ d + 1 →
        wide (.vwaddVV d a b km c) (fun j => int n (el s a j) + int n (el s b j)) ∧
        wide (.vwmulVV d a b km c) (fun j => int n (el s a j) * int n (el s b j))))

/-- R156 to R158: the floating-point forms, element by element, in the captured rounding mode, with the flags of the active elements. -/
def Obligations.VectorFloatResults : Prop :=
  ∀ (s : State) (rest : List Word32) (d a b : BitVec 6) (sb : BitVec 5) (km : BitVec 3) (c : BitVec 1) (t : FFmt),
    vectorReady s → convoyLeft s c rest → d.toNat < regs s → a.toNat < regs s →
    ([(8, fmtHalf), (9, fmtBf16), (10, fmtSingle), (11, fmtDouble)] : List (Nat × FFmt)).lookup s.hart.sc.sew.toNat = some t →
    let n := width s
    let m : RMode := s.hart.sc.rm
    let acts := actives s km true
    let gives (i : Instr) (f : Nat → Nat × BitVec 6) : Prop :=
      givesElements s rest d acts i (fun j => (f j).1) (flagsOver acts fun j => (f j).2)
    let withSign (u : Nat) (p : Bool) : Nat := u % 2 ^ (n - 1) + (if p then 2 ^ (n - 1) else 0)
    let sign (u : Nat) : Bool := u.testBit (n - 1)
    let forms (w : Nat → Nat) (l : List Instr) : Prop :=
      ∀ p ∈ l.zip ([fun u w _ => addVal t m (t.decode u) (t.decode w), fun u w _ => addVal t m (t.decode u) (t.decode w).negate,
          fun u w _ => mulVal t m (t.decode u) (t.decode w), fun u w _ => divVal t m (t.decode u) (t.decode w),
          fun u w z => fmaVal t m (t.decode u) (t.decode w) (t.decode z), fun u w z => fmaVal t m (t.decode u) (t.decode w) (t.decode z).negate,
          fun u w z => fmaVal t m (t.decode u).negate (t.decode w) (t.decode z).negate, fun u w _ => minMaxBits t false u w,
          fun u w _ => minMaxBits t true u w, fun u w _ => (withSign u (sign w), 0), fun u w _ => (withSign u (!sign w), 0),
          fun u w _ => (withSign u (sign u != sign w), 0)] : List (Nat → Nat → Nat → Nat × BitVec 6)),
        gives p.1 fun j => p.2 (el s a j) (w j) (el s d j)
    (b.toNat < regs s → forms (el s b) [.vfaddVV d a b km c, .vfsubVV d a b km c, .vfmulVV d a b km c, .vfdivVV d a b km c, .vfmaVV d a b km c,
      .vfmsVV d a b km c, .vfnmaVV d a b km c, .vfminVV d a b km c, .vfmaxVV d a b km c, .vfsgnjVV d a b km c, .vfsgnjnVV d a b km c,
      .vfsgnjxVV d a b km c]) ∧
    forms (fun _ => (x s sb).toNat % 2 ^ n) [.vfaddVS d a sb km c, .vfsubVS d a sb km c, .vfmulVS d a sb km c, .vfdivVS d a sb km c,
      .vfmaVS d a sb km c, .vfmsVS d a sb km c, .vfnmaVS d a sb km c, .vfminVS d a sb km c, .vfmaxVS d a sb km c, .vfsgnjVS d a sb km c,
      .vfsgnjnVS d a sb km c, .vfsgnjxVS d a sb km c] ∧
    gives (.vfsqrt d a km c) (fun j => sqrtVal t m (t.decode (el s a j))) ∧
    gives (.vfrsqrt d a km c) (fun j => rsqrtVal t m (t.decode (el s a j))) ∧
    gives (.vfclass d a km c) (fun j => (classBits t (el s a j), 0))

/-- R161 to R164 and R171: compares, mask logic and vconfl write one bit for each active element; vcpop counts and vfirst finds. -/
def Obligations.VectorMaskResults : Prop :=
  ∀ (s : State) (rest : List Word32) (d : BitVec 3) (a b : BitVec 6) (sb : BitVec 5) (ka kb km : BitVec 3) (c : BitVec 1),
    vectorReady s → convoyLeft s c rest →
    let n := width s
    let acts := actives s km true
    let bare := actives s km false
    let int (v : Nat) : Int := if s.hart.sc.sew.toNat % 2 = 0 ∧ 2 ^ (n - 1) ≤ v then (v : Int) - 2 ^ n else v
    let y := (x s sb).toNat % 2 ^ n
    let bit (k : BitVec 3) (j : Nat) : Bool := (s.hart.mask k).getLsbD j
    (a.toNat < regs s → s.hart.sc.sew.toNat < 8 →
      (b.toNat < regs s →
        givesBits s rest d acts (.vmseqVV d a b km c) (fun j => el s a j == el s b j) 0 ∧
        givesBits s rest d acts (.vmsneVV d a b km c) (fun j => el s a j != el s b j) 0 ∧
        givesBits s rest d acts (.vmsltVV d a b km c) (fun j => decide (int (el s a j) < int (el s b j))) 0 ∧
        givesBits s rest d acts (.vmsleVV d a b km c) (fun j => decide (int (el s a j) ≤ int (el s b j))) 0) ∧
      givesBits s rest d acts (.vmseqVS d a sb km c) (fun j => el s a j == y) 0 ∧
      givesBits s rest d acts (.vmsneVS d a sb km c) (fun j => el s a j != y) 0 ∧
      givesBits s rest d acts (.vmsltVS d a sb km c) (fun j => decide (int (el s a j) < int y)) 0 ∧
      givesBits s rest d acts (.vmsleVS d a sb km c) (fun j => decide (int (el s a j) ≤ int y)) 0) ∧
    (a.toNat < regs s →
      ∀ t, ([(8, fmtHalf), (9, fmtBf16), (10, fmtSingle), (11, fmtDouble)] : List (Nat × FFmt)).lookup s.hart.sc.sew.toNat = some t →
      let test (quiet : Bool) (p : Ordering → Bool) (u w : Nat) : Bool × BitVec 6 :=
        if (t.decode u).isNan || (t.decode w).isNan then (false, if quiet then (t.decode u).nv ||| (t.decode w).nv else flagNV)
        else (p (cmpVal (t.decode u) (t.decode w)), 0)
      let gives (i : Instr) (f : Nat → Bool × BitVec 6) : Prop :=
        givesBits s rest d acts i (fun j => (f j).1) (flagsOver acts fun j => (f j).2)
      (b.toNat < regs s →
        gives (.vmfeqVV d a b km c) (fun j => test true (· == .eq) (el s a j) (el s b j)) ∧
        gives (.vmfltVV d a b km c) (fun j => test false (· == .lt) (el s a j) (el s b j)) ∧
        gives (.vmfleVV d a b km c) (fun j => test false (· != .gt) (el s a j) (el s b j))) ∧
      gives (.vmfeqVS d a sb km c) (fun j => test true (· == .eq) (el s a j) y) ∧
      gives (.vmfltVS d a sb km c) (fun j => test false (· == .lt) (el s a j) y) ∧
      gives (.vmfleVS d a sb km c) (fun j => test false (· != .gt) (el s a j) y)) ∧
    (givesBits s rest d bare (.vmand d ka kb km c) (fun j => bit ka j && bit kb j) 0 ∧
      givesBits s rest d bare (.vmor d ka kb km c) (fun j => bit ka j || bit kb j) 0 ∧
      givesBits s rest d bare (.vmxor d ka kb km c) (fun j => bit ka j != bit kb j) 0 ∧
      givesBits s rest d bare (.vmandn d ka kb km c) (fun j => bit ka j && !bit kb j) 0) ∧
    (s.hart.vstart = 0 ∨ vl s = 0 →
      givesScalar s rest sb (.vcpop sb ka km c) (BitVec.ofNat 64 (bare.filter (bit ka)).length) 0 ∧
      givesScalar s rest sb (.vfirst sb ka km c) (((bare.find? (bit ka)).map (BitVec.ofNat 64)).getD (BitVec.allOnes 64)) 0 ∧
      (a.toNat < regs s → s.hart.sc.sew ≠ 14 →
        givesBits s rest d bare (.vconfl d a km c) (fun j => bare.all fun i => decide (j ≤ i) || el s a i != el s a j) 0))

/-- R165 to R170: moves, slides and permutes. Each form completes on every legal state and operands, and its result is as the rule gives it. -/
def Obligations.VectorMoveResults : Prop :=
  ∀ (s : State) (rest : List Word32) (d a b imm : BitVec 6) (sd sb : BitVec 5) (km : BitVec 3) (c : BitVec 1),
    vectorReady s → convoyLeft s c rest → d.toNat < regs s →
    let n := width s
    let acts := actives s km false
    let most := s.hart.sc.vlmax.toNat
    let y := (x s sb).toNat % 2 ^ n
    let gives (i : Instr) (f : Nat → Nat) : Prop := givesElements s rest d acts i f 0
    let up (off : Nat) (i : Instr) : Prop := givesElements s rest d (acts.filter (off ≤ ·)) i (fun j => el s a (j - off)) 0
    let down (off : Nat) (i : Instr) : Prop := gives i fun j => if j + off < most then el s a (j + off) else 0
    let chosen := (List.range (vl s)).filter fun i => (s.hart.mask km).getLsbD i
    let integer : Prop := s.hart.sc.sew.toNat < 8
    let apart : Prop := a.toNat < regs s ∧ s.hart.sc.sew ≠ 14 ∧ a ≠ d
    let fromStart : Prop := s.hart.vstart = 0 ∨ vl s = 0
    (a.toNat < regs s → complete [.vmvVV d a km c] s) ∧ (s.hart.sc.sew ≠ 14 → complete [.vmvVI d imm km c, .vmvVS d sb km c, .vmvsx d sb km c] s) ∧
    (s.hart.sc.sew ≠ 14 → a.toNat < regs s → complete [.vmvxs sd a 0 c] s) ∧ (integer → complete [.vid d km c] s ∧ (fromStart → complete [.viota d km c] s)) ∧
    (fromStart → apart →
      complete [.vslideupVS d a sb km c, .vslidednVS d a sb km c, .vslideupVI d a imm km c, .vslidednVI d a imm km c, .vcompress d a km c] s ∧
      (b.toNat < regs s → complete [.vperm d a b km c] s) ∧
      (2 ≤ s.hart.sc.sew.toNat → s.hart.sc.sew.toNat ≤ 11 → copyOf s = none → complete [.vnzscan d a sb km c] s)) ∧
    (a.toNat < regs s → gives (.vmvVV d a km c) (el s a)) ∧
    (s.hart.sc.sew ≠ 14 →
      gives (.vmvVI d imm km c) (fun _ => (imm.toInt % 2 ^ n).toNat) ∧ gives (.vmvVS d sb km c) (fun _ => y) ∧
      givesElements s rest d (acts.filter (· == 0)) (.vmvsx d sb km c) (fun _ => y) 0 ∧
      (a.toNat < regs s → givesScalar s rest sd (.vmvxs sd a 0 c)
        (if s.hart.sc.sew.toNat ∈ [0, 2, 4, 6] ∧ 2 ^ (n - 1) ≤ el s a 0 then BitVec.ofInt 64 ((el s a 0 : Int) - 2 ^ n)
          else BitVec.ofNat 64 (el s a 0)) 0)) ∧
    (s.hart.sc.sew.toNat < 8 → gives (.vid d km c) (fun j => j % 2 ^ n)) ∧
    (s.hart.vstart = 0 ∨ vl s = 0 →
      (s.hart.sc.sew.toNat < 8 → givesElements s rest d (List.range (vl s)) (.viota d km c)
        (fun j => ((List.range j).filter fun i => (s.hart.mask km).getLsbD i).length % 2 ^ n) 0) ∧
      (a.toNat < regs s → s.hart.sc.sew ≠ 14 → a ≠ d →
        up (x s sb).toNat (.vslideupVS d a sb km c) ∧ up imm.toNat (.vslideupVI d a imm km c) ∧
        down (x s sb).toNat (.vslidednVS d a sb km c) ∧ down imm.toNat (.vslidednVI d a imm km c) ∧
        (b.toNat < regs s → gives (.vperm d a b km c) (fun j => if el s b j < most then el s a (el s b j) else 0)) ∧
        givesElements s rest d (List.range chosen.length) (.vcompress d a km c) (fun j => el s a (chosen.getD j 0)) 0) ∧
      (a.toNat < regs s → 2 ≤ s.hart.sc.sew.toNat → s.hart.sc.sew.toNat ≤ 11 → a ≠ d → copyOf s = none →
        let nonzero (u : Nat) : Bool := match sewFmt s.hart.sc.sew with
          | some t => !(t.decode u).isZero
          | none => u != 0
        let found := acts.filter fun i => nonzero (el s a i)
        ∃ v : VReg, exec (.vnzscan d a sb km c) s =
            .next (vnext rest (fun h => putReg sb (BitVec.ofNat 64 found.length) (h.setVr d v)) s) ∧
          ∀ j, (j + 1) * n ≤ 131072 → elemOf v n j = if j < found.length then found.getD j 0 % 2 ^ n else el s d j))

/-- One level of the tree of R75: elements w apart are added at every multiple of 2w, where both are below n. -/
def treeLevel75 (add : Nat → Nat → Nat × BitVec 6) (n w : Nat) (t : Nat → Nat) : (Nat → Nat) × BitVec 6 :=
  (fun i => if i % (2 * w) = 0 ∧ i + w < n then (add (t i) (t (i + w))).1 else t i,
    flagsOver ((List.range n).filter fun i => decide (i % (2 * w) = 0 ∧ i + w < n)) fun i => (add (t i) (t (i + w))).2)

/-- R172, R55, R75 and R76: reductions over the active elements and the seed, each of which completes on every legal state and operands; a NaN result is
the canonical NaN. With VL = 0 the result is all of s[b]. With VL > 0 and no active element the ordered forms answer the seed, or the canonical NaN where it is
a NaN, and raise nothing (the model's reading of R172 and R55, log 49). -/
def Obligations.VectorReductionResults : Prop :=
  ∀ (s : State) (rest : List Word32) (a : BitVec 6) (d b : BitVec 5) (km : BitVec 3) (c : BitVec 1),
    vectorReady s → convoyLeft s c rest → a.toNat < regs s → s.hart.vstart = 0 ∨ vl s = 0 →
    let n := width s
    let acts := actives s km true
    let seed := (x s b).toNat % 2 ^ n
    let signed : Bool := s.hart.sc.sew.toNat % 2 == 0
    let int (v : Nat) : Int := if signed ∧ 2 ^ (n - 1) ≤ v then (v : Int) - 2 ^ n else v
    let all := seed :: acts.map (el s a)
    (s.hart.sc.sew.toNat < 8 → complete [.vredsum d a b km c, .vredmin d a b km c, .vredmax d a b km c, .vredand d a b km c, .vredor d a b km c] s) ∧
    (8 ≤ s.hart.sc.sew.toNat → s.hart.sc.sew.toNat ≤ 11 →
      complete [.vfredsum d a b km c, .vfredosum d a b km c, .vfredmin d a b km c, .vfredmax d a b km c] s) ∧
    (vl s = 0 → (s.hart.sc.sew.toNat < 8 →
        ∀ i ∈ [Instr.vredsum d a b km c, .vredmin d a b km c, .vredmax d a b km c, .vredand d a b km c, .vredor d a b km c],
          givesScalar s rest d i (x s b) 0) ∧
      (8 ≤ s.hart.sc.sew.toNat → s.hart.sc.sew.toNat ≤ 11 →
        ∀ i ∈ [Instr.vfredsum d a b km c, .vfredosum d a b km c, .vfredmin d a b km c, .vfredmax d a b km c],
          givesScalar s rest d i (x s b) 0)) ∧
    (vl s ≠ 0 → s.hart.sc.sew.toNat < 8 →
      givesScalar s rest d (.vredsum d a b km c) (BitVec.ofInt 64 (int (all.sum % 2 ^ n))) 0 ∧
      (∃ v ∈ all, (∀ w ∈ all, int v ≤ int w) ∧ givesScalar s rest d (.vredmin d a b km c) (BitVec.ofInt 64 (int v)) 0) ∧
      (∃ v ∈ all, (∀ w ∈ all, int w ≤ int v) ∧ givesScalar s rest d (.vredmax d a b km c) (BitVec.ofInt 64 (int v)) 0) ∧
      (∃ v : Nat, (∀ k, v.testBit k = all.all fun w => w.testBit k) ∧
        givesScalar s rest d (.vredand d a b km c) (BitVec.ofInt 64 (int v)) 0) ∧
      (∃ v : Nat, (∀ k, v.testBit k = all.any fun w => w.testBit k) ∧
        givesScalar s rest d (.vredor d a b km c) (BitVec.ofInt 64 (int v)) 0)) ∧
    (vl s ≠ 0 →
      ∀ t, ([(8, fmtHalf), (9, fmtBf16), (10, fmtSingle), (11, fmtDouble)] : List (Nat × FFmt)).lookup s.hart.sc.sew.toNat = some t →
      let add (u w : Nat) : Nat × BitVec 6 := addVal t s.hart.sc.rm (t.decode u) (t.decode w)
      let fold (op : Nat → Nat → Nat × BitVec 6) : Nat × BitVec 6 :=
        let r := acts.foldl (fun p j => ((op p.1 (el s a j)).1, p.2 ||| (op p.1 (el s a j)).2)) (seed, 0)
        (if (t.decode r.1).isNan then t.nan else r.1, r.2)
      let gives (i : Instr) (p : Nat × BitVec 6) : Prop := givesScalar s rest d i (BitVec.ofNat 64 p.1) p.2
      let start : Nat → Nat := fun i => if i ∈ acts then el s a i else 0
      let tree := (List.range 16).foldl (fun (p : (Nat → Nat) × BitVec 6) k =>
        ((treeLevel75 add (vl s) (2 ^ k) p.1).1, p.2 ||| (treeLevel75 add (vl s) (2 ^ k) p.1).2)) (start, 0)
      gives (.vfredsum d a b km c) ((add seed (tree.1 0)).1, tree.2 ||| (add seed (tree.1 0)).2) ∧
      gives (.vfredosum d a b km c) (fold add) ∧ gives (.vfredmin d a b km c) (fold (minMaxBits t false)) ∧
      gives (.vfredmax d a b km c) (fold (minMaxBits t true)))

/-- R178 to R182 with R59, R62, R67 and R70: conversions, block decoding with its bits of k7, expansion and quantisation;
each form completes on every legal state and operands. -/
def Obligations.VectorConversionResults : Prop :=
  ∀ (s : State) (rest : List Word32) (d a b f : BitVec 6) (ty : BitVec 4) (km : BitVec 3) (c : BitVec 1),
    vectorReady s → convoyLeft s c rest → d.toNat < regs s →
    let n := width s
    let acts := actives s km false
    let m : RMode := s.hart.sc.rm
    let sew := s.hart.sc.sew
    let fmt (v : BitVec 4) : Option FFmt :=
      ([(8, fmtHalf), (9, fmtBf16), (10, fmtSingle), (11, fmtDouble), (12, fmtE4M3), (13, fmtE5M2)] : List (Nat × FFmt)).lookup v.toNat
    let q := sewBits ty
    let g := if n < q then q / n else 1
    let low (z : Int) : Nat := (z % 2 ^ n).toNat
    let signed (v : BitVec 4) : Bool := v.toNat % 2 == 0
    let clamp (z : Int) : Int := if signed sew then max (-2 ^ (n - 1)) (min (2 ^ (n - 1) - 1) z) else max 0 (min (2 ^ n - 1) z)
    let src (j : Nat) : Nat := elemOf (s.hart.vr (a + BitVec.ofNat 6 (j * q / regWidth s))) q (j * q % regWidth s / q)
    let int (v : Nat) : Int := if signed ty ∧ 2 ^ (q - 1) ≤ v then (v : Int) - 2 ^ q else v
    let converted (j : Nat) : Nat × BitVec 6 := match fmt ty, fmt sew with
      | some u, some t => convFF u t m (src j)
      | some u, none => let r := convFI u m (signed sew) n (src j); (low r.1, r.2)
      | none, some t => convIF t m (int (src j))
      | none, none => (low (clamp (int (src j))), 0)
    let decodes (i : Instr) (i8 : Bool) (va vs : BitVec 6) : Prop :=
      let w := if i8 then 8 else 4
      let scale (j : Nat) : Nat := elemOf (s.hart.vr vs) 8 (j / 32)
      let r (j : Nat) : Nat × BitVec 6 := if scale j = 0xFF then (0, 0)
        else roundVal ((fmt sew).getD fmtDouble) m (scaledElem i8 (elemOf (s.hart.vr va) w j) (scale j))
      ∃ (v : BitVec 6 → VReg) (k : MaskReg),
        exec i s = .next (vnext rest (fun h => raise (flagsOver acts fun j => (r j).2)
          (((targets s d).foldl (fun h r => h.setVr r (v r)) h).setMask 7 k)) s) ∧
        (∀ t ∈ targets s d, ∀ j, (j + 1) * n ≤ 131072 → elemOf (v t) n j = if j ∈ acts then (r j).1 else el s t j) ∧
        ∀ j < 32768, k.getLsbD j = if j ∈ acts then scale j != 0xFF else (s.hart.mask 7).getLsbD j
    let quantises (i : Instr) (i8 : Bool) : Prop := ∀ t, (8 ≤ sew.toNat ∧ sew.toNat ≤ 11) → fmt sew = some t →
      let w := if i8 then 8 else 4
      let scale (k : Nat) : Nat × BitVec 6 × Int := groupScale i8 ((acts.filter fun i => i / 32 == k).map fun i => t.decode (el s a i))
      let code (j : Nat) : Nat × Bool :=
        if (scale (j / 32)).1 = 0xFF then (0, false) else quantElem i8 (scale (j / 32)).2.2 (t.decode (el s a j))
      ∃ (v u : VReg) (k : MaskReg),
        exec i s = .next (vnext rest (fun h =>
          raise (flagsOver (List.range ((vl s + 31) / 32)) (fun j => (scale j).2.1) ||| flagsOver acts fun j => if (code j).2 then flagNX else 0)
            (((h.setVr d v).setVr b u).setMask 7 k)) s) ∧
        (∀ j, (j + 1) * w ≤ 131072 → elemOf v w j = if j ∈ acts then (code j).1 else elemOf (s.hart.vr d) w j) ∧
        (∀ j, (j + 1) * 8 ≤ 131072 → elemOf u 8 j = if j < (vl s + 31) / 32 then (scale j).1 else elemOf (s.hart.vr b) 8 j) ∧
        ∀ j < 32768, k.getLsbD j = if j ∈ acts then (scale (j / 32)).1 != 0xFF else (s.hart.mask 7).getLsbD j
    (ty ≠ sew → ty.toNat < 14 → sew.toNat < 14 → a.toNat % g = 0 → a.toNat + g ≤ regs s → (q < n → d ≠ a) →
      (1 < g → d.toNat < a.toNat ∨ a.toNat + g ≤ d.toNat) → complete [.vcvt d a ty km c] s) ∧
    (a.toNat < regs s → d ≠ a → (sew = 12 → f.toNat < 3 → complete [.vxpand d a f km c] s) ∧
      (b.toNat < regs s → d ≠ b → (8 ≤ sew.toNat → sew.toNat < 14 → complete [.vdqblkF4 d a b km c, .vdqblkI8 d a b km c] s) ∧
        (8 ≤ sew.toNat → sew.toNat ≤ 11 → a ≠ b → copyOf s = none → s.hart.vstart = 0 ∨ vl s = 0 →
          complete [.vqblkF4 d a b km c, .vqblkI8 d a b km c] s))) ∧
    (ty ≠ sew → ty.toNat < 14 → sew.toNat < 14 → a.toNat % g = 0 → a.toNat + g ≤ regs s → (q < n → d ≠ a) →
      (1 < g → d.toNat < a.toNat ∨ a.toNat + g ≤ d.toNat) →
      givesElements s rest d acts (.vcvt d a ty km c) (fun j => (converted j).1) (flagsOver acts fun j => (converted j).2)) ∧
    (14 ≤ ty.toNat → 8 ≤ sew.toNat → sew.toNat < 14 → a.toNat + 1 < regs s → d ≠ a + 1 → (q < n → d ≠ a) →
      decodes (.vcvt d a ty km c) (decide (ty.toNat = 15)) a (a + 1)) ∧
    (8 ≤ sew.toNat → sew.toNat < 14 → a.toNat < regs s → b.toNat < regs s → d ≠ a → d ≠ b →
      decodes (.vdqblkF4 d a b km c) false a b ∧ decodes (.vdqblkI8 d a b km c) true a b) ∧
    (sew = 12 → a.toNat < regs s → d ≠ a → f.toNat < 3 →
      givesElements s rest d acts (.vxpand d a f km c) (fun j => (roundVal fmtE4M3 rne (storageVal f.toNat
        (elemOf (s.hart.vr a) (if f = 2 then 4 else 6) j))).1) 0) ∧
    (a.toNat < regs s → b.toNat < regs s → d ≠ a → d ≠ b → a ≠ b → copyOf s = none → s.hart.vstart = 0 ∨ vl s = 0 →
      quantises (.vqblkF4 d a b km c) false ∧ quantises (.vqblkI8 d a b km c) true)

/-- The addresses of R173 for field k of element j with m bytes an element; an mxf4 element lies in byte j / 2 (R175). -/
def elementAddress (base : Word) (m nf j k : Nat) : Word := base + BitVec.ofNat 64 ((j * nf + k) * m)

/-- R173 to R176: a vector load of a strand outside any chunk fills each active element with the memory element at its address, widened where mw
says so; nothing else changes. R173, R175 to R177: a vector store of a strand outside any chunk stores each active element, honouring VMODE.VE,
in increasing order at the address of the rule, so that of two elements that write one byte the higher stays; an mxf4 element changes its nibble
alone. The accesses go through the caches, and no storage is in error. R434: a load or store of one active element in another module, outside any chunk, is
queued (R37), and its access leaves as one request packet, where a permit is left (R286); a response of STATUS 0 completes it, a load with the
response's bytes in its element. -/
def Obligations.VectorMemoryResults : Prop :=
  (∀ (s : State) (rest : List Word32) (d b imm : BitVec 6) (a sb : BitVec 5) (km : BitVec 3) (mw : BitVec 2) (c : BitVec 1) (pa : Nat → Nat → Nat),
     vectorReady s → convoyLeft s c rest → s.hart.held = false → errorFree s → d.toNat < regs s →
     let n := width s
     let sew := s.hart.sc.sew
     let acts := actives s km false
     let bits := n / 2 ^ mw.toNat
     let m := bits / 8
     let base := x s a
     let narrow : Option FFmt := ([((8, 1), fmtE4M3), ((9, 1), fmtE5M2), ((10, 1), fmtHalf), ((10, 2), fmtE4M3), ((11, 1), fmtSingle),
       ((11, 2), fmtHalf)] : List ((Nat × Nat) × FFmt)).lookup (sew.toNat, mw.toNat)
     let wide : Option FFmt := ([(8, fmtHalf), (9, fmtBf16), (10, fmtSingle), (11, fmtDouble)] : List (Nat × FFmt)).lookup sew.toNat
     let widen (v : Nat) : Nat := if mw = 0 then v else match narrow, wide with
       | some u, some t => (convFF u t 0 v).1
       | _, _ => if sew.toNat % 2 = 0 ∧ 2 ^ (bits - 1) ≤ v then ((v : Int) - 2 ^ bits + 2 ^ n).toNat else v
     let there (va : Word) (p n : Nat) : Prop := va.toNat % n = 0 ∧ reaches s va n .r p ∧ atHand s p n
     let ok : Prop := mw = 0 ∨ mw = 1 ∧ 2 ≤ sew.toNat ∧ sew.toNat ≤ 11 ∨ mw = 2 ∧ (sew.toNat ∈ [4, 5, 6, 7, 10, 11])
     let gives (i : Instr) : Prop := loadsElements s rest d acts i fun j => widen (loaded s (pa j 0) m)
     (sew ≠ 14 → ok →
       ((∀ j ∈ acts, there (elementAddress base m 1 j 0) (pa j 0) m) → complete [.vld d a km mw c] s) ∧
       ((∀ j ∈ acts, there (base + BitVec.ofNat 64 j * x s sb) (pa j 0) m) → complete [.vlds d a sb km mw c] s) ∧
       ((∀ j ∈ acts, there (elementAddress base m 1 (el s b j) 0) (pa j 0) m) → b.toNat < regs s → b ≠ d → complete [.vldx d a b km mw c] s) ∧
       ((∀ j ∈ acts, ∀ k ≤ imm.toNat, there (elementAddress base m (imm.toNat + 1) j k) (pa j k) m) → imm.toNat < 7 →
         d.toNat + imm.toNat < regs s → copyOf s = none → complete [.vldseg d a imm km mw c] s) ∧
       ((∀ j ∈ acts, there (elementAddress base m 1 j 0) (pa j 0) m) → gives (.vld d a km mw c)) ∧
       ((∀ j ∈ acts, there (base + BitVec.ofNat 64 j * x s sb) (pa j 0) m) → gives (.vlds d a sb km mw c)) ∧
       ((∀ j ∈ acts, there (elementAddress base m 1 (el s b j) 0) (pa j 0) m) → b.toNat < regs s → b ≠ d → gives (.vldx d a b km mw c)) ∧
       ((∀ j ∈ acts, ∀ k ≤ imm.toNat, there (elementAddress base m (imm.toNat + 1) j k) (pa j k) m) → imm.toNat < 7 →
         d.toNat + imm.toNat < regs s → copyOf s = none →
         ∃ (u : State) (v : Nat → VReg), cached s u ∧
           exec (.vldseg d a imm km mw c) s =
             .next (vnext rest (fun h => (List.range (imm.toNat + 1)).foldl (fun h k => h.setVr (d + BitVec.ofNat 6 k) (v k)) h) u) ∧
           ∀ k ≤ imm.toNat, ∀ j, (j + 1) * n ≤ 131072 → elemOf (v k) n j =
             if j ∈ acts then widen (loaded s (pa j k) m) else el s (d + BitVec.ofNat 6 k) j)) ∧
     (sew = 14 → (∀ j ∈ acts, there (base + BitVec.ofNat 64 (j / 2)) (pa j 0) 1) →
       loadsElements s rest d acts (.vld d a km 0 c) fun j => (s.peek (pa j 0)).toNat / 16 ^ (j % 2) % 16)) ∧
  (∀ (s : State) (rest : List Word32) (d b imm : BitVec 6) (a sb : BitVec 5) (km : BitVec 3) (c : BitVec 1) (pa : Nat → Nat → Nat),
     vectorReady s → convoyLeft s c rest → s.hart.held = false → d.toNat < regs s →
     let n := width s
     let acts := actives s km true
     let m := n / 8
     let base := x s a
     let there (va : Word) (p n : Nat) : Prop :=
       va.toNat % n = 0 ∧ reaches s va n .w p ∧ paModule p = s.module ∧ paControl p = false ∧ permitsFor s p n = true
     let stored (nf : Nat) (u : State) : State := acts.foldl (fun t j => (List.range nf).foldl (fun t k =>
       storeDirect t (pa j k) (el s (d + BitVec.ofNat 6 k) j) m) t) u
     let gives (i : Instr) (nf : Nat) : Prop := ∃ l : List Nat, exec i s = .next (vnext rest id (stored nf { s with through := l }))
     let nibble (q : Nat) (old : Byte) : Byte := (acts.filter fun j => pa j 0 == q).foldl (fun o j => BitVec.ofNat 8
       (if j % 2 = 0 then o.toNat / 16 * 16 + el s d j else o.toNat % 16 + 16 * el s d j)) old
     (s.hart.sc.sew ≠ 14 →
       ((∀ j ∈ acts, there (elementAddress base m 1 j 0) (pa j 0) m) → complete [.vst d a km c] s) ∧
       ((∀ j ∈ acts, there (base + BitVec.ofNat 64 j * x s sb) (pa j 0) m) → complete [.vsts d a sb km c] s) ∧
       ((∀ j ∈ acts, there (elementAddress base m 1 (el s b j) 0) (pa j 0) m) → b.toNat < regs s → complete [.vstx d a b km c] s) ∧
       ((∀ j ∈ acts, ∀ k ≤ imm.toNat, there (elementAddress base m (imm.toNat + 1) j k) (pa j k) m) → imm.toNat < 7 →
         d.toNat + imm.toNat < regs s → complete [.vstseg d a imm km c] s) ∧
       ((∀ j ∈ acts, there (elementAddress base m 1 j 0) (pa j 0) m) → gives (.vst d a km c) 1) ∧
       ((∀ j ∈ acts, there (base + BitVec.ofNat 64 j * x s sb) (pa j 0) m) → gives (.vsts d a sb km c) 1) ∧
       ((∀ j ∈ acts, there (elementAddress base m 1 (el s b j) 0) (pa j 0) m) → b.toNat < regs s → gives (.vstx d a b km c) 1) ∧
       ((∀ j ∈ acts, ∀ k ≤ imm.toNat, there (elementAddress base m (imm.toNat + 1) j k) (pa j k) m) → imm.toNat < 7 →
         d.toNat + imm.toNat < regs s → gives (.vstseg d a imm km c) (imm.toNat + 1))) ∧
     (s.hart.sc.sew = 14 → memoryWf s → errorFree s →
       (∀ j ∈ acts, there (base + BitVec.ofNat 64 (j / 2)) (pa j 0) 1 ∧ atHand s (pa j 0) 1) →
       ∃ t, exec (.vst d a km c) s = .next (vnext rest id t) ∧
         t = { s with mem := t.mem, bad := t.bad, released := t.released, lines := t.lines, l1 := t.l1, through := t.through } ∧
         ∀ q, memGet t.mem q = nibble q (memGet s.mem q))) ∧
  (∀ (s : State) (d : BitVec 6) (a : BitVec 5) (km : BitVec 3) (j pa : Nat), vectorReady s → s.hart.convoy = [] → s.hart.held = false →
     s.hart.written = [] → s.hart.sc.sew ≠ 14 → d.toNat < regs s → s.ring.halted = false → permitLeft s = true →
     let n := width s
     let m := n / 8
     let va := elementAddress (x s a) m 1 j 0
     let there (k : Access) : Prop := ∀ u : State, u = { s with hart := u.hart, nextTag := u.nextTag, heldOut := u.heldOut } →
       u.hart.level = s.hart.level → u.hart.slot = s.hart.slot → u.hart.held = s.hart.held → u.hart.written = s.hart.written →
       ∃ near, translate va m k u = .ok (pa, near) (noteNear u pa m k near)
     va.toNat % m = 0 → pa < 2 ^ 56 → paModule pa ≠ s.module → paModule pa ∈ s.present → (paModule pa).toNat < 8192 → paControl pa = false →
     let wait (write : Bool) (reply : Option (BitVec 4 × List Byte)) : RemoteWait :=
       { rtag := s.nextTag, write := write, pa := BitVec.ofNat 56 pa, reply := reply, size := m }
     let leaves (i : Instr) (write : Bool) (kind : BitVec 4) (rest : List Byte) (t : State) : Prop :=
       exec i s = .next t ∧ t.mem = s.mem ∧ t.hart.v = s.hart.v ∧ t.hart.sc.pc = s.hart.sc.pc + 4 ∧ t.hart.vremote = [wait write none] ∧
         (∃ e, t.hart.queue = [e] ∧ e.pc = s.hart.sc.pc ∧ encode i = some e.word) ∧
         ∃ p, t.heldOut = s.heldOut ++ [p] ∧ p.kind = kind ∧ p.resp = false ∧ p.tc = 2 ∧ p.dmod = paModule pa ∧ p.smod = s.module ∧
           p.rtag = s.nextTag ∧ p.payload = (List.range 8).map (fun i => BitVec.ofNat 8 (pa / 256 ^ i)) ++ rest
     let answered (t : State) (write : Bool) (l : List Byte) : State :=
       { t with hart := { t.hart with vremote := [wait write (some (0, l))] } }
     (there .r → actives s km false = [j] → ∃ t, leaves (.vld d a km 0 0) false 0 [BitVec.ofNat 8 m] t ∧ ∀ l : List Byte, l.length = m →
       ∃ u, exec .vqueueComplete (answered t false l) = .next u ∧ u.hart.queue = [] ∧ ∀ r ∈ targets s d, ∀ i, (i + 1) * n ≤ 131072 →
         elemOf (u.hart.vr r) n i = if i = j then ∑ i ∈ Finset.range m, 256 ^ i * (l.getD i 0).toNat else el s r i) ∧
     (there .w → actives s km true = [j] →
       ∃ t, leaves (.vst d a km 0) true 2 ((List.range m).map fun i => BitVec.ofNat 8 (el s d j / 256 ^ i)) t ∧
         ∃ u, exec .vqueueComplete (answered t true []) = .next u ∧ u.hart.queue = [] ∧ u.hart.v = s.hart.v ∧ u.mem = s.mem))

/-- An instruction that the scalar thread pushes into the vector queue, with its word (R37): those of majors 0x21 to 0x2D and 0x30, the stream instructions,
and chase and pgather. -/
def queues (i : Instr) (w : Word32) : Prop :=
  encode i = some w ∧ match i with
    | .sbind .. | .sunbind .. | .sdrain .. | .sisectC .. | .sisectW .. | .chase .. | .pgather .. => True
    | _ => 0x21 ≤ (w.extractLsb' 26 6).toNat ∧ (w.extractLsb' 26 6).toNat ≤ 0x2D ∨ w.extractLsb' 26 6 = 0x30

/-- R25, R148 and R150: a vector word that names a register beyond the configured count, or meets an element type that it does not admit, traps ILL
at itself with its word, and changes nothing; so does every word of the vector queue that the checks of R150 refuse. -/
def Obligations.VectorPushTraps : Prop :=
  ∀ (s : State) (rest : List Word32) (d a b imm f : BitVec 6) (k : BitVec 3) (sb : BitVec 5) (km : BitVec 3) (c : BitVec 1) (mw z : BitVec 2)
    (ty : BitVec 4), s.hart.queue = [] → convoyLeft s c rest →
    let sew := s.hart.sc.sew.toNat
    let traps (i : Instr) : Prop := ∀ w, encode i = some w → exec i s = .next (takeTrap s 0x01 (w.setWidth 64) s.hart.sc.pc false false)
    let intVV : List Instr := [.vaddVV d a b km c, .vsubVV d a b km c, .vmulVV d a b km c, .vmulhVV d a b km c, .vdivVV d a b km c, .vremVV d a b km c,
      .vminVV d a b km c, .vmaxVV d a b km c, .vsllVV d a b km c, .vsrlVV d a b km c, .vsraVV d a b km c, .vsaddVV d a b km c, .vssubVV d a b km c,
      .vmaddVV d a b km c, .vmsacVV d a b km c]
    let intV : List Instr := [.vaddVS d a sb km c, .vsubVS d a sb km c, .vrsubVS d a sb km c, .vmulVS d a sb km c, .vmulhVS d a sb km c,
      .vdivVS d a sb km c, .vremVS d a sb km c, .vminVS d a sb km c, .vmaxVS d a sb km c, .vsllVS d a sb km c, .vsrlVS d a sb km c,
      .vsraVS d a sb km c, .vsaddVS d a sb km c, .vssubVS d a sb km c, .vmaddVS d a sb km c, .vmsacVS d a sb km c, .vaddVI d a imm km c,
      .vrsubVI d a imm km c, .vsllVI d a imm km c, .vsrlVI d a imm km c, .vsraVI d a imm km c, .vsaddVI d a imm km c, .vminVI d a imm km c,
      .vmaxVI d a imm km c]
    let floatVV : List Instr := [.vfaddVV d a b km c, .vfsubVV d a b km c, .vfmulVV d a b km c, .vfdivVV d a b km c, .vfmaVV d a b km c,
      .vfmsVV d a b km c, .vfnmaVV d a b km c, .vfminVV d a b km c, .vfmaxVV d a b km c, .vfsgnjVV d a b km c, .vfsgnjnVV d a b km c,
      .vfsgnjxVV d a b km c]
    let floatV : List Instr := [.vfaddVS d a sb km c, .vfsubVS d a sb km c, .vfmulVS d a sb km c, .vfdivVS d a sb km c, .vfmaVS d a sb km c,
      .vfmsVS d a sb km c, .vfnmaVS d a sb km c, .vfminVS d a sb km c, .vfmaxVS d a sb km c, .vfsgnjVS d a sb km c, .vfsgnjnVS d a sb km c,
      .vfsgnjxVS d a sb km c, .vfsqrt d a km c, .vfrsqrt d a km c, .vfclass d a km c]
    (regs s ≤ d.toNat ∨ regs s ≤ a.toNat → ∀ i ∈ intVV ++ floatVV ++ intV ++ floatV, traps i) ∧
    (regs s ≤ b.toNat → ∀ i ∈ intVV ++ floatVV ++ [.vmseqVV k a b km c, .vmfltVV k a b km c, .vperm d a b km c], traps i) ∧
    (8 ≤ sew → ∀ i ∈ intVV ++ intV ++ [.vmseqVV k a b km c, .vmsltVS k a sb km c, .vid d km c, .viota d km c, .vredsum sb a sb km c], traps i) ∧
    (sew < 8 ∨ 11 < sew → ∀ i ∈ floatVV ++ floatV ++ [.vmfeqVV k a b km c, .vfredsum sb a sb km c, .vqblkF4 d a b km c], traps i) ∧
    (6 ≤ sew → traps (.vwaddVV d a b km c) ∧ traps (.vwmulVS d a sb km c)) ∧
    (sew ≠ 4 → sew ≠ 5 → traps (.vdot4 d a b km c) ∧ traps (.vdot4Sat d a b km c)) ∧
    (∀ i w, queues i w → s.hart.pfx = none → vecLegal (regs s) s.hart.sc.sew w = false →
      exec i s = .next (takeTrap s 0x01 (w.setWidth 64) s.hart.sc.pc false false)) ∧
    (regs s ≤ d.toNat → ∀ i ∈ [Instr.vld d sb km mw c, .vlds d sb sb km mw c, .vldx d sb b km mw c, .vldseg d sb imm km mw c, .vst d sb km c, .vsts d sb sb km c,
      .vstx d sb b km c, .vstseg d sb imm km c, .vcvt d a ty km c, .vxpand d a f km c, .vqblkF4 d a b km c, .vqblkI8 d a b km c, .vdqblkF4 d a b km c,
      .vdqblkI8 d a b km c, .tmvz z d sb, .vmvVV d a km c, .vmvVI d imm km c, .vmvVS d sb km c, .vmvsx d sb km c, .vid d km c, .viota d km c], traps i) ∧
    (regs s ≤ b.toNat → ∀ i ∈ [Instr.vldx d sb b km mw c, .vstx d sb b km c, .vqblkF4 d a b km c, .vqblkI8 d a b km c, .vdqblkF4 d a b km c, .vdqblkI8 d a b km c],
      traps i) ∧
    (regs s ≤ a.toNat → ∀ i ∈ [Instr.vmseqVS k a sb km c, .vmfltVS k a sb km c, .vredsum sb a sb km c, .vfredmax sb a sb km c, .vconfl k a km c,
      .vmvxs sb a 0 c, .vcompress d a km c], traps i) ∧
    (regs s ≤ d.toNat + imm.toNat → traps (.vldseg d sb imm km mw c) ∧ traps (.vstseg d sb imm km c)) ∧
    (mw = 3 → ∀ i ∈ [Instr.vld d sb km mw c, .vlds d sb sb km mw c, .vldx d sb b km mw c, .vldseg d sb imm km mw c], traps i) ∧
    (sew = 14 → ∀ i ∈ [Instr.vlds d sb sb km 0 c, .vldx d sb b km 0 c, .vldseg d sb imm km 0 c, .vsts d sb sb km c, .vstx d sb b km c, .vstseg d sb imm km c,
      .vmvVI d imm km c, .vmvVS d sb km c, .vmvsx d sb km c, .vslideupVS d a sb km c, .vperm d a b km c], traps i) ∧
    (ty = s.hart.sc.sew → traps (.vcvt d a ty km c)) ∧ (sew ≠ 12 → traps (.vxpand d a f km c)) ∧
    (sew < 8 ∨ 13 < sew → traps (.vdqblkF4 d a b km c) ∧ traps (.vdqblkI8 d a b km c)) ∧
    (sew ∉ [0, 8, 9, 11, 12, 13, 14] → traps (.tshape sb)) ∧
    (a = d → traps (.vslideupVS d a sb km c) ∧ traps (.vperm d a b km c) ∧ traps (.vcompress d a km c) ∧ traps (.vnzscan d a sb km c))

/-- R43 to R45 and R83: a word with C = 1 opens a convoy with the words that follow it: it executes as the first member of the assembled run; a word
that is no member breaks the run with CONVOY and that word in EVAL, and so does a fifth member. R37 to R39 and R49: where the vector unit lags
(log 4), an instruction of the vector queue is queued while the scalar thread goes on, which changes nothing but the queue and the pc; vqueueBegin begins the
oldest entry, and vqueueComplete leaves what the instruction leaves at once where the unit does not lag; with nothing queued, or on a HALTED ring (R405),
neither changes anything. -/
def Obligations.ConvoysAndQueue : Prop :=
  (∀ (s : State) (i : Instr) (w : Word32), encode i = some w → isMember w = true → w.getLsbD 0 = true → vectorReady s → s.hart.pfx = none →
     s.hart.convoy = [] → vecLegal (regs s) s.hart.sc.sew w = true →
     let pc := s.hart.sc.pc
     let legal (v : Word32) : Prop := isMember v = true ∧ (∃ op, decodeOp v = .ok op) ∧ vecLegal (regs s) s.hart.sc.sew v = true
     (∀ v, fetchWord (pc + 4) s = .ok v s → legal v → v.getLsbD 0 = false → withinLimits [w, v] = true →
       exec i s = exec i { s with hart := { s.hart with convoy := [w, v] } }) ∧
     (∀ v op, fetchWord (pc + 4) s = .ok v s → decodeOp v = .ok op → isMember v = false →
       (∀ csr, op ∈ [Opcode.csrr, .csrw, .csrs, .csrc] → csr = fld v 0 12 → (csrOf csr).isSome = true) →
       exec i s = .next (takeTrap s 0x08 (v.setWidth 64) pc false false)) ∧
     (∀ v, fetchWord (pc + 4) s = .ok v s → legal v → withinLimits [w, v] = false →
       exec i s = .next (takeTrap s 0x08 (v.setWidth 64) pc false false)) ∧
     ∀ v e o k, fetchWord (pc + 4) s = .ok v s → fetchWord (pc + 8) s = .ok e s → fetchWord (pc + 12) s = .ok o s →
       fetchWord (pc + 16) s = .ok k s → legal v → legal e → legal o → legal k → v.getLsbD 0 = true → e.getLsbD 0 = true → o.getLsbD 0 = true →
       withinLimits [w, v] = true → withinLimits [w, v, e] = true → withinLimits [w, v, e, o] = true →
       exec i s = .next (takeTrap s 0x08 (k.setWidth 64) pc false false)) ∧
  (∀ (s : State) (i : Instr) (w : Word32), queues i w → s.lag = true → s.hart.awaiting = 0 → s.hart.sc.bad = 0 → (∀ r, queueWrites s.hart.queue r = false) →
     s.hart.imageDone = true → s.hart.pfx = none → s.hart.convoy = [] → (isMember w = true → w.getLsbD 0 = false) → vecLegal (regs s) s.hart.sc.sew w = true →
     s.hart.queue.length < 64 →
     ∃ e, exec i s = .next { s with hart := { s.hart with
         sc := { s.hart.sc with pc := s.hart.sc.pc + 4 }, queue := s.hart.queue ++ [e], park := .running, remote := [] } } ∧
       e.pc = s.hart.sc.pc ∧ e.word = w ∧ e.vl = s.hart.sc.vl ∧ e.sew = s.hart.sc.sew ∧ e.rm = s.hart.sc.rm ∧ e.begun = false ∧ e.back = s.hart.sc) ∧
  (∀ (s : State) (d a b : BitVec 6) (k : BitVec 3) (sb : BitVec 5) (km : BitVec 3) (c : BitVec 1), vectorReady s → s.hart.pfx = none →
     s.hart.convoy = [] → c = 0 → s.ring.halted = false →
     ∀ i ∈ [Instr.vaddVV d a b km c, .vmulVS d a sb km c, .vfaddVV d a b km c, .vmseqVV k a b km c, .vmvVV d a km c],
       (∀ w, encode i = some w → vecLegal (regs s) s.hart.sc.sew w = true) →
       ∃ t u, exec i s = .next t ∧ exec i { s with lag := true } = .next u ∧ exec .vqueueComplete u = .next { t with lag := true } ∧
         ∃ v, exec .vqueueBegin u = .next v ∧ exec .vqueueComplete v = .next { t with lag := true }) ∧
  ∀ s : State,
    (s.hart.queue = [] ∨ s.ring.halted = true → exec .vqueueBegin s = .next s ∧ exec .vqueueComplete s = .next s) ∧
    ∀ e q, s.hart.queue = e :: q → s.ring.halted = false →
      exec .vqueueBegin s = .next { s with hart := { s.hart with queue := { e with begun := true } :: q } } ∧ ∃ t, exec .vqueueComplete s = .next t

/-! ### The tile unit (spec/08) -/

/-- The bits of an operand buffer after rows are loaded: bit i belongs to row i / (8P), and a row supplies its first bits. -/
def rowBits (old : Nat → Bool) (pitch lo hi bits : Nat) (byte : Nat → Nat → BitVec 8) (i : Nat) : Bool :=
  let r := i / (8 * pitch)
  let o := i % (8 * pitch)
  if lo ≤ r ∧ r < hi ∧ o < bits then (byte r (o / 8)).getLsbD (o % 8) else old i

/-- R194 to R197 and R202: the shape that tshape grants, tzero, operand loads of a strand outside any chunk with every bit of the buffers, and tmvz.
A multicast form that names no other core loads as the plain form does; one whose every other core is active and runs a strand of the JID delivers the
same rows, laid out by the issuer's shape, to the strands of those cores, whose shapes do not change (R280). R198 to R201 with R72 to R74, R78 and R79: the multiplies add K-groups
VSTART to the last into every cell of the block, and leave every other cell; tstz stores the block row by row. -/
def Obligations.TileResults : Prop :=
  (∀ (s : State) (a b c : BitVec 5) (z : BitVec 2) (d : BitVec 6) (pa : Nat → Nat),
     vectorReady s → s.hart.convoy = [] →
     let h := s.hart
     let v := x s a
     let sew := h.sc.sew.toNat
     let most : Option (Nat × Nat × Nat) := ([(0, 128, 64, 256), (8, 128, 64, 128), (9, 128, 64, 128), (12, 128, 64, 256), (13, 128, 64, 256),
       (14, 128, 64, 512), (11, 64, 32, 64)] : List (Nat × Nat × Nat × Nat)).lookup sew
     let ty := h.tkType
     let e := if ty = 14 then 1 else sewBits ty / 8
     let pitch := if ty = 11 then 512 else 256
     let bits := h.tk.toNat * sewBits ty
     let count := (bits + 7) / 8 / e
     let blocks := (h.tk.toNat + 31) / 32
     let row (r : Nat) : Word := v + BitVec.ofNat 64 r * x s b
     let there (va : Word) (p n : Nat) : Prop := va.toNat % n = 0 ∧ reaches s va n .r p ∧ atHand s p n
     let readable (rows : Nat) : Prop := ∀ r, h.vstart.toNat ≤ r → r < rows →
       (ty ≠ 14 → (row r).toNat % e = 0) ∧ (∀ k < count, there (row r + BitVec.ofNat 64 (e * k)) (pa r + e * k) e) ∧
       (ty = 14 → ∀ k < blocks, there (row r + BitVec.ofNat 64 (count + k)) (pa r + count + k) 1)
     let loads (i : Instr) (rows : Nat) (col : Bool) : Prop :=
       ∃ (u : State) (m : BitVec 262144) (n : BitVec 131072) (p : BitVec 16384) (q : BitVec 8192), cached s u ∧
       exec i s = .next (vnext [] (fun h => if col then { h with bBuf := n, bScale := q } else { h with aBuf := m, aScale := p }) u) ∧
       (∀ i < 262144, m.getLsbD i = rowBits h.aBuf.getLsbD pitch h.vstart.toNat rows bits (fun r o => s.peek (pa r + o)) i) ∧
       (∀ i < 131072, n.getLsbD i = rowBits h.bBuf.getLsbD pitch h.vstart.toNat rows bits (fun r o => s.peek (pa r + o)) i) ∧
       (∀ i < 16384, p.getLsbD i =
         rowBits h.aScale.getLsbD 16 h.vstart.toNat rows (if ty = 14 then 8 * blocks else 0) (fun r o => s.peek (pa r + count + o)) i) ∧
       ∀ i < 8192, q.getLsbD i =
         rowBits h.bScale.getLsbD 16 h.vstart.toNat rows (if ty = 14 then 8 * blocks else 0) (fun r o => s.peek (pa r + count + o)) i
     let n := width s
     let cols := if n = 64 then 32 else 64
     let acc : BitVec 2 → BitVec 262144 := fun z => h.z[z.toNat]'z.isLt
     (∀ m k l, most = some (m, k, l) → h.vstart = 0 → v.extractLsb' 32 32 = 0 → complete [.tshape a] s) ∧
     (h.vstart = 0 → copyOf s = none → complete [.tzero z] s) ∧
     (h.held = false → errorFree s → bits ≤ 8 * pitch → blocks ≤ 16 →
       (readable h.tm.toNat → complete [.tlda a b] s ∧ (h.vstart = 0 → (x s c).toNat = 0 → complete [.tldaMC a b c] s)) ∧
       (readable h.tn.toNat → complete [.tldb a b] s ∧ (h.vstart = 0 → (x s c).toNat = 0 → complete [.tldbMC a b c] s))) ∧
     (∀ m k l, most = some (m, k, l) → h.vstart = 0 → v.extractLsb' 32 32 = 0 → exec (.tshape a) s = .next (vnext [] (fun h => { h with
       tm := BitVec.ofNat 8 (min (v.extractLsb' 0 8).toNat m), tn := BitVec.ofNat 7 (min (v.extractLsb' 8 8).toNat k)
       tk := BitVec.ofNat 10 (min (v.extractLsb' 16 16).toNat l), tkType := h.sc.sew }) s)) ∧
     (h.vstart = 0 → copyOf s = none → exec (.tzero z) s = .next (vnext [] (fun h => { h with z := h.z.set z.toNat 0 z.isLt }) s)) ∧
     (h.held = false → errorFree s → bits ≤ 8 * pitch → blocks ≤ 16 →
       (readable h.tm.toNat → loads (.tlda a b) h.tm.toNat false) ∧ (readable h.tn.toNat → loads (.tldb a b) h.tn.toNat true) ∧
       (h.vstart = 0 → (x s c).toNat = 0 → (readable h.tm.toNat → exec (.tldaMC a b c) s = exec (.tlda a b) s) ∧
         (readable h.tn.toNat → exec (.tldbMC a b c) s = exec (.tldb a b) s))) ∧
     (h.held = false → errorFree s → bits ≤ 8 * pitch → blocks ≤ 16 → h.vstart = 0 → (x s c).extractLsb' 16 48 = 0 →
       (∀ j < 16, (x s c).getLsbD j = true → j ≠ coreOfSlot s.cur s.ring.gang h.slot →
         coreExists s (dieOf s.cur) (clusterOf s.cur) j = true ∧ coreRuns s (dieOf s.cur) (clusterOf s.cur) j s.ring.jid = true) →
       let gets (n : BitVec 6) (g : Hart) : Bool :=
         let core := coreOfSlot n (s.ringAt n).gang g.slot
         (x s c).getLsbD core || (s.ringAt n).gang && (x s c).getLsbD (core + 1)
       let scale := if ty = 14 then 8 * blocks else 0
       let delivers (i : Instr) (rows : Nat) (col : Bool) : Prop := ∃ t, exec i s = .next t ∧ t.hart.sc.pc = h.sc.pc + 4 ∧
         ∀ q : BitVec 1, dieOf s.cur ++ clusterOf s.cur ++ q ≠ s.cur → ∀ (i : Nat) (g : Hart),
           (s.ringAt (dieOf s.cur ++ clusterOf s.cur ++ q)).chunks[i]? = some g →
           ∃ g', (t.ringAt (dieOf s.cur ++ clusterOf s.cur ++ q)).chunks[i]? = some g' ∧
             g' = { g with aBuf := g'.aBuf, aScale := g'.aScale, bBuf := g'.bBuf, bScale := g'.bScale } ∧
             (gets (dieOf s.cur ++ clusterOf s.cur ++ q) g = false → g' = g) ∧
             (gets (dieOf s.cur ++ clusterOf s.cur ++ q) g = true →
               let part (got : Bool) (old new : Nat → Bool) (pitch off bits size : Nat) : Prop := ∀ k < size,
                 new k = if got then rowBits old pitch 0 rows bits (fun r o => s.peek (pa r + off + o)) k else old k
               part (!col) g.aBuf.getLsbD g'.aBuf.getLsbD pitch 0 bits 262144 ∧ part col g.bBuf.getLsbD g'.bBuf.getLsbD pitch 0 bits 131072 ∧
                 part (!col) g.aScale.getLsbD g'.aScale.getLsbD 16 count scale 16384 ∧
                 part col g.bScale.getLsbD g'.bScale.getLsbD 16 count scale 8192)
       (readable h.tm.toNat → delivers (.tldaMC a b c) h.tm.toNat false) ∧ (readable h.tn.toNat → delivers (.tldbMC a b c) h.tn.toNat true)) ∧
     (d.toNat < regs s → (sew = 4 ∨ sew = 5 ∨ sew = 10 ∨ sew = 6 ∨ sew = 7 ∨ sew = 11) →
       (vl s ≤ h.vstart.toNat ∨ (x s b).toNat + (vl s - 1) / cols ≤ (if n = 64 then 63 else 127)) →
       givesElements s [] d (actives s 0 false) (.tmvz z d b)
         (fun j => elemOf (acc z) n ((if n = 64 then 32 else 64) * ((x s b).toNat + j / cols) + j % cols)) 0)) ∧
  (∀ (s : State) (a b : BitVec 5) (z : BitVec 2) (pa : Nat → Nat → Nat), vectorReady s → s.hart.convoy = [] → copyOf s = none →
     let h := s.hart
     let ty := h.tkType
     let acc : BitVec 262144 := h.z[z.toNat]'z.isLt
     let last := (h.tk.toNat + 31) / 32
     let pairs := (List.range h.tm.toNat).flatMap fun m => (List.range h.tn.toNat).map fun n => (m, n)
     let elemA (m k : Nat) : Nat := elemOf h.aBuf (sewBits ty) ((if ty = 11 then 512 else 256) * 8 / sewBits ty * m + k)
     let elemB (n k : Nat) : Nat := elemOf h.bBuf (sewBits ty) ((if ty = 11 then 512 else 256) * 8 / sewBits ty * n + k)
     let si (n v : Nat) : Int := if 2 ^ (n - 1) ≤ v then (v : Int) - 2 ^ n else v
     let total (m n : Nat) : Int := si 32 (elemOf acc 32 (64 * m + n)) +
       ∑ k ∈ Finset.Ico (32 * h.vstart.toNat) h.tk.toNat, si 8 (elemA m k) * si 8 (elemB n k)
     let low (v : Int) : Nat := (v % 2 ^ 32).toNat
     let value (x scale : Nat) : FVal := if ty = 14 then (if scale = 0xFF then .fin false 0 0 else scaledElem false x scale)
       else ((sewFmt ty).getD fmtHalf).decode x
     let group (g : Nat) : List Nat := (List.range 32).map (32 * g + ·) |>.filter (· < h.tk.toNat)
     let groups := (List.range last).filter (h.vstart.toNat ≤ ·)
     let float (m n : Nat) : Nat × BitVec 6 := groups.foldl (fun p g =>
       let r := addGroup p.1 (groupSum ((group g).map fun k => productVal
         (value (elemA m k) (elemOf h.aScale 8 (16 * m + k / 32))) (value (elemB n k) (elemOf h.bScale 8 (16 * n + k / 32)))))
       (r.1, p.2 ||| r.2)) (elemOf acc 32 (64 * m + n), 0)
     let split (m n : Nat) : Nat × BitVec 6 := groups.foldl (fun p g =>
       let r := splitGroup h.sc.slices.toNat p.1 ((group g).map fun k => fmtDouble.decode (elemA m k))
         ((group g).map fun k => fmtDouble.decode (elemB n k))
       (r.1, p.2 ||| r.2)) (elemOf acc 64 (32 * m + n), 0)
     let gives (i : Instr) (w cols : Nat) (f : Nat → Nat → Nat × BitVec 6) : Prop := ∃ v : BitVec 262144,
       exec i s = .next (vnext [] (fun h => raise (pairs.foldl (fun g p => g ||| (f p.1 p.2).2) 0)
         { h with z := h.z.set z.toNat v z.isLt }) s) ∧
       ∀ m n, m < 128 → n < 64 → w * (cols * m + n + 1) ≤ 262144 → n < cols →
         elemOf v w (cols * m + n) = if m < h.tm.toNat ∧ n < h.tn.toNat then (f m n).1 else elemOf acc w (cols * m + n)
     (h.tm.toNat ≤ 128 → h.tn.toNat ≤ 64 → h.tk.toNat * sewBits ty ≤ 2048 → (ty.toNat ∈ [0, 8, 9, 12, 13, 14] → complete [.tmma z] s) ∧
       (ty = 0 → complete [.tmmaSat z] s)) ∧
     (h.tm.toNat ≤ 64 → h.tn.toNat ≤ 32 → h.tk.toNat ≤ 64 → ty = 11 → complete [.tmmaSX z] s) ∧
     (last ≤ h.vstart.toNat → (ty.toNat ∈ [0, 8, 9, 12, 13, 14] → exec (.tmma z) s = .next (vnext [] id s)) ∧
       (ty = 0 → exec (.tmmaSat z) s = .next (vnext [] id s)) ∧ (ty = 11 → exec (.tmmaSX z) s = .next (vnext [] id s))) ∧
     (h.tm.toNat ≤ 128 → h.tn.toNat ≤ 64 → h.tk.toNat * sewBits ty ≤ 2048 → h.vstart.toNat < last →
       (ty = 0 → gives (.tmma z) 32 64 (fun m n => (low (total m n), 0)) ∧
         gives (.tmmaSat z) 32 64 (fun m n => (low (max (-2 ^ 31) (min (2 ^ 31 - 1) (total m n))), 0))) ∧
       (ty.toNat ∈ [8, 9, 12, 13, 14] → gives (.tmma z) 32 64 float)) ∧
     (h.tm.toNat ≤ 64 → h.tn.toNat ≤ 32 → h.tk.toNat ≤ 64 → ty = 11 → h.vstart.toNat < last → gives (.tmmaSX z) 64 32 split) ∧
     (h.held = false →
       let w := if ty = 11 then 64 else 32
       let cols := if ty = 11 then 32 else 64
       let row (m : Nat) : Word := x s a + BitVec.ofNat 64 m * x s b
       (∀ m n, h.vstart.toNat ≤ m → m < h.tm.toNat → n < h.tn.toNat → (row m).toNat % (w / 8) = 0 ∧
         reaches s (row m + BitVec.ofNat 64 (n * (w / 8))) (w / 8) .w (pa m n) ∧ paModule (pa m n) = s.module ∧ paControl (pa m n) = false ∧
         permitsFor s (pa m n) (w / 8) = true) →
       (h.tn.toNat = 0 → ∀ m, h.vstart.toNat ≤ m → m < h.tm.toNat → (row m).toNat % (w / 8) = 0) →
       ∃ l : List Nat, exec (.tstz z a b) s = .next (vnext [] id (((List.range h.tm.toNat).filter (h.vstart.toNat ≤ ·)).foldl (fun t m =>
         (List.range h.tn.toNat).foldl (fun t n => storeDirect t (pa m n) (elemOf acc w (cols * m + n)) (w / 8)) t) { s with through := l }))))

/-! ### Fences and prefixes (spec/04 R105 to R108; spec/15 R308 to R310) -/

/-- R308 to R310, R235: the fences complete at once where no engine access is outstanding; one with e in its successor set discards what read
streams fetched ahead; one with e in its predecessor set waits for copies in flight. -/
def Obligations.FenceResults : Prop :=
  ∀ (s : State) (pred succ scope : BitVec 3), settled s →
    let u := flushWritten s
    let done : State := next (fun h => if succ.getLsbD 0 then
      { h with slots := h.slots.map fun sl => if sl.record.getLsbD 324 then sl else { sl with fetched := [] } } else h) u
    (∀ i ∈ [Instr.fenceSV, .fenceVS, .fenceVV], exec i s = .next (next id u)) ∧
    (pred.getLsbD 0 = false → exec (.fence pred succ scope) s = .next done) ∧
    (s.hart.copies = [] → (∀ c ∈ s.hart.piers, ∀ w ∈ c.walkers, w.finished = true ∧ w.pending = []) →
      (∀ j, (s.hart.slotAt j).emitted = [] ∧ (s.hart.slotAt j).awaits = []) → exec (.fence pred succ scope) s = .next done) ∧
    (pred.getLsbD 0 = true → s.hart.copies ≠ [] → exec (.fence pred succ scope) s = .next (applyWait (flushed s) (.park .stalled)))

/-- R105, R106 and R108: pfx becomes the pending prefix of the next word where the pair is legal, or where that word decodes to nothing; where the
pair is illegal it traps ILL at itself; that a copy (ce = 1) of a vcvt from a block type is illegal is the model's reading (log 50). R107: the next word
is executed where the predicate holds, and skipped where it does not. -/
def Obligations.PrefixResults : Prop :=
  ∀ (s : State) (sense ce : BitVec 1) (p : BitVec 5) (cd : BitVec 6) (v : Word32),
    let w : Word32 := 0x3F#6 ++ sense ++ p ++ ce ++ cd ++ 0#13
    let pc := s.hart.sc.pc
    let done : State := { next id s with hart := { (next id s).hart with pfx := some { word := w, fromEret := false } } }
    let fails : Prop := exec (.pfx sense p ce cd) s = .next (takeTrap s 0x01 (w.setWidth 64) pc false false)
    (fetchWord (pc + 4) s = .ok v s →
      (∀ e, decodeOp v = .error e → exec (.pfx sense p ce cd) s = .next done) ∧
      ∀ op, decodeOp v = .ok op →
        (op ∈ [Opcode.pfx, .fork, .join, .doneStrand, .trap, .eret] → s.hart.queue = [] → fails) ∧
        (op ∉ [Opcode.pfx, .fork, .join, .doneStrand, .trap, .eret] → ce = 0 → exec (.pfx sense p ce cd) s = .next done) ∧
        (ce = 1 → op ∈ [Opcode.rgsetl, .cqpop, .sisectW, .vnzscan, .std, .beq, .fence, .vst, .wfi] → s.hart.queue = [] → fails) ∧
        (ce = 1 → op ∈ [Opcode.add, .ldd, .cas, .vredsum, .csrr] →
          (cd.toNat < 32 → exec (.pfx sense p ce cd) s = .next done) ∧ (32 ≤ cd.toNat → s.hart.queue = [] → fails)) ∧
        (ce = 1 → op ∈ [Opcode.vaddVV, .vld, .vmvVV] →
          (cd.toNat < regs s → exec (.pfx sense p ce cd) s = .next done) ∧ (regs s ≤ cd.toNat → s.hart.queue = [] → fails)) ∧
        (ce = 1 → op ∈ [Opcode.vmseqVV, .vmand] →
          (cd.toNat < 8 → exec (.pfx sense p ce cd) s = .next done) ∧ (8 ≤ cd.toNat → s.hart.queue = [] → fails)) ∧
        (ce = 1 → op = .vcvt → 14 ≤ (v.extractLsb' 8 4).toNat → s.hart.queue = [] → fails) ∧
        (ce = 1 → op = .tzero →
          (cd.toNat < 4 → exec (.pfx sense p ce cd) s = .next done) ∧ (4 ≤ cd.toNat → s.hart.queue = [] → fails))) ∧
    (s.hart.pfx = some { word := w, fromEret := false } → ready s → s.onMgmt = none →
      ∀ op, decodeOp v = .ok op →
        (decide (x s p ≠ 0) = (sense == 1) → runWord v s = exec (op.build v) s) ∧
        (decide (x s p ≠ 0) ≠ (sense == 1) → s.hart.convoy = [] → op ∈ [Opcode.add, .addi, .fadd, .beq, .ldd, .std, .cas, .scopy] →
          runWord v s = .next (next id s)))

/-! ### Streams (spec/17) -/

/-- A strand outside any chunk whose vector unit and engines hold nothing, bound streams apart. -/
def streamsReady (s : State) : Prop :=
  s.hart.queue = [] ∧ s.hart.awaiting = 0 ∧ s.hart.imageDone = true ∧ s.lag = false ∧ s.hart.vremote = [] ∧ s.hart.remote = [] ∧
    s.hart.park = .running ∧ s.hart.held = false ∧ s.hart.written = [] ∧ s.hart.convoy = [] ∧
    (∀ j : BitVec 3, (s.hart.slotAt j).emitted = [] ∧ (s.hart.slotAt j).drains = []) ∧
    s.hart.sc.bad = 0 ∧ s.hart.vBad = 0 ∧ s.hart.kBad = 0 ∧ s.hart.zBad = 0 ∧ s.hart.tBad = 0 ∧ s.hart.eremote = []

/-- The loop of R339 over two lists of elements, up to k common ones: the common elements, and what is left of each list. -/
def intersection : Nat → Nat → List Nat → List Nat → List Nat × List Nat × List Nat
  | 0, _, a, b => ([], a, b)
  | _, 0, a, b => ([], a, b)
  | _, _, [], b => ([], [], b)
  | _, _, a, [] => ([], a, [])
  | n + 1, k + 1, x :: a, y :: b =>
    if x < y then intersection n (k + 1) a (y :: b)
    else if y < x then intersection n (k + 1) (x :: a) b
    else
      let r := intersection n k a b
      (x :: r.1, r.2)

/-- R325, R326 and R337: sbind copies a legal record into its slot; sdrain and sunbind of a read stream discard what was fetched ahead, and of a
write stream post their record; sunbind frees the slot. A record address that is not a multiple of 64, and a register that is not bound, trap.
R339: sisect.c counts the common elements of two ui32 read streams from their positions on, sisect.w also writes up to VL of them; both leave
the positions where the loop stops. With VL = 0 they write 0 and read nothing. VSTART is cleared (R49). -/
def Obligations.StreamResults : Prop :=
  (∀ (s : State) (a : BitVec 5) (v : BitVec 6) (pa : Nat → Nat), streamsReady s → errorFree s → v.toNat < regs s →
     let h := s.hart
     let pc := h.sc.pc
     let rcd : BitVec 512 := BitVec.ofNat 512 (∑ k ∈ Finset.range 8, loaded s (pa k) 8 * 2 ^ (64 * k))
     let slot : BitVec 3 := rcd.extractLsb' 328 3
     let fmt : BitVec 4 := rcd.extractLsb' 320 4
     let m := sewBits fmt / 8
     let depth (r : BitVec 512) : Nat := (r.extractLsb' 325 3).toNat + 1
     let set (j : BitVec 3) (sl : StreamSlot) (h : Hart) : Hart := { h with slots := h.slots.set j.toNat sl j.isLt }
     ((x s a).toNat % 64 = 0 → (∀ k < 8, reaches s (x s a + BitVec.ofNat 64 (8 * k)) 8 .r (pa k) ∧ atHand s (pa k) 8) →
       rcd.extractLsb' 112 16 = 0 → rcd.extractLsb' 332 52 = 0 → rcd.extractLsb' 384 128 = 0 →
       (fmt.toNat < 14 → rcd.extractLsb' 192 64 = 0 ∧ rcd.extractLsb' 256 64 = 0 ∧ (rcd.extractLsb' 128 64).toNat % m = 0) →
       (14 ≤ fmt.toNat → rcd.extractLsb' 128 64 = 0 ∧ rcd.getLsbD 324 = false) →
       (rcd.getLsbD 324 = false → rcd.getLsbD 331 = false) → (fmt ≠ 14 → (rcd.extractLsb' 0 64).toNat % m = 0) →
       (h.slotAt slot).bound = false → (∀ j, (h.slotAt j).bound = true → (h.slotAt j).reg ≠ v) →
       ((h.slots.toList.map fun sl => if sl.bound then depth sl.record else 0).sum + depth rcd ≤ 8) →
       ∃ u, cached s u ∧
         exec (.sbind a v) s = .next (vnext [] (set slot { StreamSlot.free with bound := true, record := rcd, reg := v, vl := h.sc.vl }) u)) ∧
     ((x s a).toNat % 64 ≠ 0 → h.pfx = none → exec (.sbind a v) s = .next (takeTrap s 0x03 (x s a) pc true false)) ∧
     ((∀ j, (h.slotAt j).bound = true → (h.slotAt j).reg ≠ v) → h.pfx = none →
       ∀ i ∈ [Instr.sunbind v, .sdrain v], ∀ w, encode i = some w → exec i s = .next (takeTrap s 0x01 (w.setWidth 64) pc true false)) ∧
     ∀ j : BitVec 3, (h.slotAt j).bound = true → (h.slotAt j).reg = v → (∀ i, (h.slotAt i).bound = true → (h.slotAt i).reg = v → i = j) →
       let sl := h.slotAt j
       (sl.record.getLsbD 324 = false ∨ (h.copies = [] ∧ h.piers = [] ∧ h.cq.length < 64 ∧ sl.awaits = [] ∧ sl.denied = none) →
         complete [.sunbind v, .sdrain v] s) ∧
       (sl.record.getLsbD 324 = false →
         exec (.sunbind v) s = .next (vnext [] (set j StreamSlot.free) s) ∧
           exec (.sdrain v) s = .next (vnext [] (set j { sl with fetched := [] }) s)) ∧
       (sl.record.getLsbD 324 = true → h.copies = [] → h.piers = [] → h.cq.length < 64 → sl.awaits = [] → sl.denied = none →
         let done : BitVec 32 := BitVec.ofNat 32 (min sl.pos.toNat (2 ^ 32 - 1))
         let posted (h : Hart) : Hart := { h with cmdNo := h.cmdNo + 1, cq := h.cq ++ [0#64 ++ done ++ h.cmdNo ++ 0#8 ++ 3#8] }
         exec (.sunbind v) s = .next (vnext [] (fun h => set j StreamSlot.free (posted h)) s) ∧
           exec (.sdrain v) s = .next (vnext [] posted s))) ∧
  (∀ (s : State) (d : BitVec 5) (j m : BitVec 3) (v : BitVec 6) (pa : BitVec 3 → Nat → Nat), streamsReady s → errorFree s → j ≠ m → v.toNat < regs s →
     let h := s.hart
     let sl := h.slotAt
     (∀ i, i = j ∨ i = m → (sl i).bound = true ∧ (sl i).record.getLsbD 324 = false ∧ (sl i).record.extractLsb' 320 4 = (5 : BitVec 4) ∧
       (sl i).fetched = [] ∧ (sl i).pos.toNat ≤ ((sl i).record.extractLsb' 64 48).toNat ∧ ∀ q, (sl i).pos.toNat ≤ q → q < ((sl i).record.extractLsb' 64 48).toNat →
         reaches s ((sl i).elemVa q) 4 .r (pa i q) ∧ atHand s (pa i q) 4) →
     let rest (i : BitVec 3) : List Nat := (List.range (((sl i).record.extractLsb' 64 48).toNat - (sl i).pos.toNat)).map fun q =>
       loaded s (pa i ((sl i).pos.toNat + q)) 4
     let n := (rest j).length + (rest m).length
     let put (v : Word) (h : Hart) : Hart := match copyOf s with
       | none => putReg d v h
       | some c => putReg (c.setWidth 5) v (putReg d v h)
     let moved (r : List Nat × List Nat × List Nat) (h : Hart) : Hart := { h with slots := Vector.ofFn fun i =>
       if i.val = j.toNat then { sl j with pos := BitVec.ofNat 48 (((sl j).record.extractLsb' 64 48).toNat - r.2.1.length), ipend := false }
       else if i.val = m.toNat then { sl m with pos := BitVec.ofNat 48 (((sl m).record.extractLsb' 64 48).toNat - r.2.2.length) }
       else h.slots[i.val] }
     (h.vstart.toNat < vl s ∨ vl s = 0 → copyOf s = none → (h.vstart = 0 → complete [.sisectC d j m] s) ∧
       (h.sc.sew = 5 → (∀ q, (sl q).bound = true → (sl q).reg ≠ v) → complete [.sisectW d j m v] s)) ∧
     (vl s = 0 → copyOf s = none → exec (.sisectC d j m) s = .next (vnext [] (put 0) s) ∧
       (h.sc.sew = 5 → (∀ q, (sl q).bound = true → (sl q).reg ≠ v) → exec (.sisectW d j m v) s = .next (vnext [] (put 0) s))) ∧
     (0 < vl s → h.vstart = 0 →
       let r := intersection n n (rest j) (rest m)
       let c := (if (sl j).ipend then (sl j).icnt.toNat else 0) + r.1.length
       ∃ u, cached s u ∧ exec (.sisectC d j m) s = .next (vnext [] (fun h => moved r (put (BitVec.ofNat 64 c) h)) u)) ∧
     (h.vstart.toNat < vl s → h.sc.sew = 5 → copyOf s = none → (∀ q, (sl q).bound = true → (sl q).reg ≠ v) →
       let r := intersection n (vl s - h.vstart.toNat) (rest j) (rest m)
       ∃ (u : State) (y : VReg), cached s u ∧ exec (.sisectW d j m v) s =
           .next (vnext [] (fun h => (moved r (put (BitVec.ofNat 64 (h.vstart.toNat + r.1.length)) h)).setVr v y) u) ∧
         ∀ q < 4096, elemOf y 32 q = if h.vstart.toNat ≤ q ∧ q < h.vstart.toNat + r.1.length then r.1.getD (q - h.vstart.toNat) 0
           else elemOf (h.vr v) 32 q))

/-- The record-posting commands of a strand that are outstanding, and the records that it holds (R341). -/
def recordsHeld (h : Hart) : Nat := h.copies.length + h.piers.length + (h.slots.toList.map fun sl => sl.drains.length).sum + h.cq.length

/-- A strand with a completion record posted: KIND, STATUS, CMDNO, DONE and FVA (R342). -/
def withRecord (kind status : BitVec 8) (cmdNo : BitVec 16) (done : Nat) (fva : Word) (h : Hart) : Hart :=
  { h with cq := h.cq ++ [fva ++ BitVec.ofNat 32 (min done (2 ^ 32 - 1)) ++ cmdNo ++ status ++ kind] }

/-- R338, R341 and R342: a copy reads all of its source bytes, writes all of its destination bytes, in fill mode with the full bits, and posts its
record; each refused case writes nothing and says why. Where the engines lag (log 4), it is in flight until scopyRecordPost. R340: cqwait
completes where a record is queued or no command is outstanding, and parks otherwise; cqpop takes the head record into two registers, zeros from
an empty queue. -/
def Obligations.CopyResults : Prop :=
  (∀ (s : State) (a b : BitVec 5) (pa qa : Nat → Nat), streamsReady s → errorFree s → s.onMgmt = none → recordsHeld s.hart < 64 →
     let h := s.hart
     let dst := x s a
     let src := x s b
     let len := (vl s * width s + 7) / 8
     let counted (f : Hart → Hart) (t : State) : State := next (fun h => f { h with cmdNo := h.cmdNo + 1 }) t
     let readable (n : Nat) : Prop := ∀ k < n, reaches s (src + BitVec.ofNat 64 k) 1 .r (pa k) ∧ atHand s (pa k) 1
     let stored (u : State) : State := (List.range len).foldl (fun t k => storeDirect t (qa k) (s.peek (pa k)).toNat 1) u
     let filled (u : State) : State := (List.range len).foldl (fun t k =>
       let u := storeDirect t (qa k) (s.peek (pa k)).toNat 1
       let w := qa k / 8 * 8
       if k % 8 = 7 then { u with full := insertNat u.full w, released := carryTime u.released w (timeNow s) 8 } else u) u
     let gives (i : Instr) (f : Hart → Hart) (after : State → State) : Prop := ∃ u, cached s u ∧ exec i s = .next (counted f (after u))
     let writable : Prop := ∀ k < len,
       reaches s (dst + BitVec.ofNat 64 k) 1 .w (qa k) ∧ paModule (qa k) = s.module ∧ paControl (qa k) = false ∧ permitsFor s (qa k) 1 = true
     let windowed : Prop := ∀ k < len, inWindowRegion (dst + BitVec.ofNat 64 k) = true ∧ windowPa s (dst + BitVec.ofNat 64 k) = some (qa k)
     (len = 0 ∨ (readable len ∧ writable) → ∃ t, exec (.scopy a b) s = .next t ∧ t.hart.sc.pc = h.sc.pc + 4) ∧
     (len = 0 ∨ (dst.toNat % 8 = 0 ∧ len % 8 = 0 ∧ readable len ∧ windowed) → ∃ t, exec (.scopyF a b) s = .next t ∧ t.hart.sc.pc = h.sc.pc + 4) ∧
     (len = 0 → exec (.scopy a b) s = .next (counted (withRecord 1 0 h.cmdNo 0 0) s) ∧
       exec (.scopyF a b) s = .next (counted (withRecord 2 0 h.cmdNo 0 0) s)) ∧
     (0 < len → readable len → writable → gives (.scopy a b) (withRecord 1 0 h.cmdNo len 0) stored) ∧
     (0 < len → dst.toNat % 8 = 0 → len % 8 = 0 → readable len → windowed → s.waiters = [] →
       gives (.scopyF a b) (withRecord 2 0 h.cmdNo len 0) filled) ∧
     (0 < len → dst.toNat % 8 ≠ 0 ∨ len % 8 ≠ 0 → exec (.scopyF a b) s = .next (counted (withRecord 2 0x03 h.cmdNo 0 dst) s)) ∧
     (0 < len → dst.toNat % 8 = 0 → len % 8 = 0 → inWindowRegion dst = false →
       exec (.scopyF a b) s = .next (counted (withRecord 2 0x07 h.cmdNo 0 dst) s)) ∧
     (∀ n < len, ∀ st va, readable n → (∀ t : State, t = { s with hart := t.hart } → t.hart.level = h.level → t.hart.slot = h.slot →
       t.hart.held = h.held → translate (src + BitVec.ofNat 64 n) 1 .r t = .error (.trap st va) t) →
       gives (.scopy a b) (withRecord 1 st h.cmdNo 0 va) id) ∧
     (∀ fill, let c : CopyCmd := { fill := fill, dst := dst, src := src, len := len, cmdNo := h.cmdNo, level := h.level }
       exec (if fill then .scopyF a b else .scopy a b) { s with lag := true } =
         .next (counted (fun h => { h with copies := h.copies ++ [c] }) { s with lag := true }) ∧
       (0 < len → readable len → writable → fill = false → ∀ t, ∃ u, cached s u ∧
         exec .scopyRecordPost { s with hart := { h with copies := c :: t } } =
           .next { stored u with hart := withRecord 1 0 h.cmdNo len 0 { (stored u).hart with copies := t } }))) ∧
  (∀ (s : State) (d : BitVec 4), settled s → s.onMgmt = none → s.hart.cqBad = 0 →
     let u := flushWritten s
     let h := s.hart
     (h.cq ≠ [] ∨ recordsHeld h = 0 → ∃ t, exec .cqwait s = .next t ∧ t.hart.sc.pc = h.sc.pc + 4) ∧
     (∃ t, exec (.cqpop d) s = .next t ∧ t.hart.sc.pc = h.sc.pc + 4) ∧
     (h.cq ≠ [] ∨ recordsHeld h = 0 → exec .cqwait s = .next (next id u)) ∧
     (h.cq = [] → 0 < recordsHeld h → exec .cqwait s = .next (applyWait (flushed s) (.park .cqwait))) ∧
     (∀ r rest, h.cq = r :: rest → exec (.cqpop d) s =
       .next (next (fun h => putReg (d ++ 1#1) (r.extractLsb' 64 64) (putReg (d ++ 0#1) (r.extractLsb' 0 64) { h with cq := rest })) u)) ∧
     (h.cq = [] → exec (.cqpop d) s = .next (next (fun h => putReg (d ++ 1#1) 0 (putReg (d ++ 0#1) 0 h)) u)))

/-! ### Pier engines (spec/18) -/

/-- Another state of the module in which results have been written to the executing core's local store, and nothing else has changed but caches. -/
def besideStore (s t : State) : Prop :=
  t = { s with
    hart := t.hart, mem := t.mem, full := t.full, bad := t.bad, released := t.released, lines := t.lines, l1 := t.l1, through := t.through } ∧
    t.hart.level = s.hart.level ∧
    t.hart.slot = s.hart.slot ∧ t.hart.held = s.hart.held ∧ t.hart.written = s.hart.written ∧
    ∀ q, (q < selfStore s ∨ selfStore s + 524288 ≤ q) → memGet t.mem q = memGet s.mem q ∧ (q ∈ t.bad ↔ q ∈ s.bad)

/-- A walker's read of n bytes reaches a physical address, and gives a value, 8 bytes at a time, whatever has been written to the local store (R346,
R347). -/
def walkerReads (s : State) (va : Word) (n v : Nat) : Prop :=
  ∃ pa, ∀ t c, besideStore s t → c.level = s.hart.level → engineAddr c va n t = .ok pa t ∧
    ∀ e, engineStack e = stackOf pa → ∀ k, 8 * k < n → engineRead c e va n (8 * k) t = .ok (v / 2 ^ (64 * k) % 2 ^ 64) t

/-- The state after a command of the pier engines that failed nowhere: its results stand at an offset of the local store, byte by byte, every word of
them full, and its record is posted (R348, R349). -/
def pierDone (s t : State) (kind : BitVec 8) (f : Hart → Hart) (after : (Hart → Hart) → State → State) (ls size count : Nat)
    (byte : Nat → Nat → Byte) : Prop :=
  let base := selfStore s + ls
  t = { after (fun h => withRecord kind 0 s.hart.cmdNo count 0 { f h with cmdNo := h.cmdNo + 1 }) s with
          mem := t.mem, full := t.full, bad := t.bad, released := t.released } ∧
    (∀ r < count, ∀ i < size, memGet t.mem (base + r * size + i) = byte r i) ∧
    (∀ q, q < base ∨ base + count * size ≤ q → memGet t.mem q = memGet s.mem q) ∧
    ∀ q, q ∈ t.full ↔ q ∈ s.full ∨ ∃ i < count * size, q = (base + i) / 8 * 8

/-- R351 to R354: chase follows the pointers of its active elements for HOPS hops and writes the last pointers, or the 32 bytes at them; pgather
writes the 32 bytes at its elements' addresses. The vector destination receives the window addresses of the results. R355 to R357: walk reads
its two records and writes the paths of its walkers, whose neighbour at each hop is the one that R357's hash chooses. -/
def Obligations.PierResults : Prop :=
  (∀ (s : State) (d a : BitVec 6) (b : BitVec 5) (km : BitVec 3) (ptr : Nat → Nat → Word) (data : Nat → Nat),
    vectorReady s → s.hart.held = false → s.hart.convoy = [] → s.waiters = [] → recordsHeld s.hart < 64 → s.onMgmt = none → s.hart.vstart = 0 →
    (s.hart.sc.sew = 6 ∨ s.hart.sc.sew = 7) → d.toNat < regs s → a.toNat < regs s → memoryWf s →
    let par := x s b
    let acts := actives s km false
    let hops := (par.extractLsb' 0 8).toNat
    let off : Word := (par.extractLsb' 8 12).setWidth 64
    let ls := (par.extractLsb' 24 19).toNat
    let el0 (r : Nat) : Word := BitVec.ofNat 64 (el s a (acts.getD r 0))
    let writes (v : BitVec 6 → VReg) (h : Hart) : Hart := (targets s d).foldl (fun h r => h.setVr r (v r)) h
    let rank (i : Nat) : Nat := (acts.filter (· < i)).length
    let gives (i : Instr) (kind : BitVec 8) (size : Nat) (byte : Nat → Nat → Byte) : Prop := ∃ (t : State) (v : BitVec 6 → VReg),
      exec i s = .next t ∧ pierDone s t kind (writes v) (vnext []) ls size acts.length byte ∧
      ∀ r ∈ targets s d, ∀ j < 2048, elemOf (v r) 64 j = if j ∈ acts then 0x00FFFF0000000000 + ls + rank j * size else el s r j
    par.extractLsb' 21 3 = 0 → par.extractLsb' 43 21 = 0 →
    (off.toNat % 8 = 0 → (∀ r < acts.length, ptr r 0 = el0 r ∧ ∀ k < hops,
        (ptr r k = 0 → ptr r (k + 1) = 0) ∧ (ptr r k ≠ 0 → walkerReads s (ptr r k + off) 8 (ptr r (k + 1)).toNat)) →
      (par.getLsbD 20 = false → ls % 8 = 0 → ls + acts.length * 8 ≤ 524288 →
        gives (.chase d a b km) 4 8 (fun r i => BitVec.ofNat 8 ((ptr r hops).toNat / 256 ^ i))) ∧
      (par.getLsbD 20 = true → ls % 32 = 0 → ls + acts.length * 32 ≤ 524288 →
        (∀ r < acts.length, (ptr r hops = 0 → data r = 0) ∧ (ptr r hops ≠ 0 → walkerReads s (ptr r hops) 32 (data r))) →
        gives (.chase d a b km) 4 32 (fun r i => BitVec.ofNat 8 (data r / 256 ^ i)))) ∧
    (hops = 0 → par.getLsbD 20 = false → off.toNat % 32 = 0 → ls % 32 = 0 → ls + acts.length * 32 ≤ 524288 →
      (∀ r < acts.length, walkerReads s (el0 r + off) 32 (data r)) →
      gives (.pgather d a b km) 6 32 (fun r i => BitVec.ofNat 8 (data r / 256 ^ i)))) ∧
  ∀ (s : State) (a b : BitVec 5) (pa qa : Nat → Nat) (node o0 o1 : Nat → Nat → Nat),
    streamsReady s → errorFree s → recordsHeld s.hart < 64 → s.onMgmt = none → s.waiters = [] → memoryWf s →
    let word (p : Nat → Nat) : Word → (Nat → Prop) := fun va k => reaches s (va + BitVec.ofNat 64 (8 * k)) 8 .r (p k) ∧ atHand s (p k) 8
    let g : BitVec 256 := BitVec.ofNat 256 (∑ k ∈ Finset.range 4, loaded s (pa k) 8 * 2 ^ (64 * k))
    let p : BitVec 256 := BitVec.ofNat 256 (∑ k ∈ Finset.range 4, loaded s (qa k) 8 * 2 ^ (64 * k))
    let offbase : Word := g.extractLsb' 0 64
    let nbrbase : Word := g.extractLsb' 64 64
    let ncount := (g.extractLsb' 128 32).toNat
    let seed : Word := p.extractLsb' 0 64
    let starts : Word := p.extractLsb' 64 64
    let count := (p.extractLsb' 128 16).toNat
    let hops := (p.extractLsb' 144 8).toNat
    let ls := (p.extractLsb' 152 19).toNat
    (x s a).toNat % 32 = 0 → (x s b).toNat % 32 = 0 → (∀ k < 4, word pa (x s a) k ∧ word qa (x s b) k) →
    g.extractLsb' 160 96 = 0 → ncount ≤ 2 ^ 32 - 2 → p.extractLsb' 171 21 = 0 → p.extractLsb' 224 32 = 0 → offbase.toNat % 8 = 0 →
    nbrbase.toNat % 4 = 0 → starts.toNat % 4 = 0 → ls % 4 = 0 → ls + count * (hops + 1) * 4 ≤ 524288 →
    (∀ w < count, node w 0 < ncount ∧ walkerReads s (starts + BitVec.ofNat 64 (4 * w)) 4 (node w 0) ∧ ∀ k < hops,
      let at1 : Word := offbase + BitVec.ofNat 64 (8 * node w k)
      let g1 : Word := (p.extractLsb' 192 32).setWidth 64 + BitVec.ofNat 64 w
      let mix (x : Word) : Word := x ^^^ (x >>> 33)
      let h1 := seed ^^^ (g1 * 0x9E3779B97F4A7C15) ^^^ (BitVec.ofNat 64 k * 0xC2B2AE3D27D4EB4F)
      let hash := mix (mix (mix h1 * 0xFF51AFD7ED558CCD) * 0xC4CEB9FE1A85EC53)
      let ix := hash.toNat / 2 ^ 32 * (o1 w k - o0 w k) / 2 ^ 32
      (node w k = 0xFFFFFFFF → node w (k + 1) = 0xFFFFFFFF) ∧
      (node w k ≠ 0xFFFFFFFF → walkerReads s at1 8 (o0 w k) ∧ walkerReads s (at1 + 8) 8 (o1 w k) ∧ o0 w k ≤ o1 w k ∧ o1 w k - o0 w k < 2 ^ 32 ∧
        (o0 w k = o1 w k → node w (k + 1) = 0xFFFFFFFF) ∧
        (o0 w k < o1 w k → node w (k + 1) < ncount ∧ walkerReads s (nbrbase + BitVec.ofNat 64 (4 * (o0 w k + ix))) 4 (node w (k + 1))))) →
    ∃ u t, cached s u ∧ exec (.walk a b) s = .next t ∧
      pierDone u t 5 id next ls (4 * (hops + 1)) count (fun w i => BitVec.ofNat 8 (node w (i / 4) / 256 ^ (i % 4)))

/-- R328, R332, R333, R337 and R341: the acts of an engine that lags (log 4). A read stream asks for a further strip up to its depth, and the oldest
strip under way arrives; a write stream writes the oldest strip that it emitted, and its drain record is posted when the strips before it are
written; room in the completion queue wakes what stalled for it. An act that cannot occur changes nothing (the model's choice, log 25), and a strip's bytes are
taken when its fetch completes (the model's choice, log 61). R345 to R349: the steps of walkers
where the engines lag (log 4): admission to and migration between engines with a free slot, one read of a chase, results written with pending
bytes used up, and the record once every walker has finished. A step that cannot occur changes nothing (log 25). -/
def Obligations.EngineEvents : Prop :=
  (∀ (s : State) (j : BitVec 3),
     let h := s.hart
     let sl := h.slotAt j
     let set (x : StreamSlot) (h : Hart) : Hart := { h with slots := h.slots.set j.toNat x j.isLt }
     let writes := sl.record.getLsbD 324
     let depth := ((sl.record.extractLsb' 325 3 : BitVec 3).toNat) + 1
     let count := ((sl.record.extractLsb' 64 48 : BitVec 48).toNat)
     let first := match sl.fetched.getLast? with
       | some f => f.first + f.count
       | none => sl.pos.toNat
     let held := ((first - sl.pos.toNat + sl.vl.toNat) * sewBits (sl.record.extractLsb' 320 4) + 7) / 8
     (sl.bound = true → writes = false → sl.fetched.length < depth → held ≤ depth * 4096 → first < count → sl.vl ≠ 0 → exec (.stripFetch j) s =
       .next { s with hart := set { sl with fetched := sl.fetched ++ [{ first := first, count := sl.vl.toNat, cells := [], bad := [] }] } h }) ∧
     (sl.bound = false ∨ writes = true ∨ depth ≤ sl.fetched.length ∨ depth * 4096 < held ∨ count ≤ first ∨ sl.vl = 0 → exec (.stripFetch j) s = .next s) ∧
     ((∀ f ∈ sl.fetched, f.cells ≠ []) → exec (.stripFetchDone j) s = .next s) ∧
     (∀ l f r, sl.fetched = l ++ f :: r → f.cells = [] → (∀ f ∈ l, f.cells ≠ []) → exec (.stripFetchDone j) s =
       .next { s with hart := set { sl with fetched := l ++ snapshotOf s sl f.first f.count :: r } h }) ∧
     (∀ i n, (snapshotOf s sl i n).first = i ∧ (snapshotOf s sl i n).count = n ∧ ∀ a b, (a, b) ∈ (snapshotOf s sl i n).cells → b = memGet s.mem a) ∧
     (sl.emitted = [] → exec (.stripWrite j) s = .next s) ∧
     (∀ l t, sl.emitted = l :: t → (∀ b ∈ l, paModule b.pa = s.module) →
       let u := l.foldl (fun u b => engineByte u b.pa b.byte b.full) s
       let left : StreamSlot := { sl with emitted := t, drains := sl.drains.map fun d => { d with strips := d.strips - 1 } }
       exec (.stripWrite j) s = .next { u with hart := set left u.hart }) ∧
     ((∀ d t, sl.drains = d :: t → d.strips ≠ 0 ∨ sl.awaits ≠ []) → exec (.drainRecordPost j) s = .next s) ∧
     (∀ d t, sl.drains = d :: t → d.strips = 0 → sl.awaits = [] →
       let left := if d.frees then StreamSlot.free else { sl with drains := t, denied := none }
       exec (.drainRecordPost j) s = .next { s with hart := set left (match sl.denied with
         | none => withRecord 3 0 d.cmdNo d.done.toNat 0 h
         | some (_, st, va) => withRecord 3 st d.cmdNo d.done.toNat va h) }) ∧
     exec .cqCapacityWake s = .next (if recordsHeld h < 64 ∧ h.park = .stalled then { s with hart := { h with park := .running } } else s)) ∧
  (∀ (s : State) (cmd ix : BitVec 16) (e : BitVec 7) (c : PierCmd) (w : Walker),
     let replaced (c' : PierCmd) (t : State) : State :=
       { t with hart := { t.hart with piers := t.hart.piers.map fun y => if y.cmdNo = c.cmdNo then c' else y } }
     let walker (w' : Walker) : PierCmd := { c with walkers := c.walkers.map fun y => if y.index = w'.index then w' else y }
     let free (e : BitVec 7) : Prop := engineUse s e < 256
     let idle (i : Instr) : Prop := exec i s = .next s
     ((∀ c ∈ s.hart.piers, c.cmdNo = cmd → ∀ w ∈ c.walkers, w.index ≠ ix) →
       idle (.walkerAdmit cmd ix) ∧ idle (.walkerMigrate cmd ix e) ∧ idle (.walkerReadDone cmd ix) ∧ idle (.resultWrite cmd ix)) ∧
     (findWalker s cmd ix = some (c, w) →
       (w.admitted = true ∨ w.finished = true → idle (.walkerAdmit cmd ix)) ∧
       (w.admitted = false → w.finished = false →
         let stack := (stackNext s c w).getD (engineStack w.engine)
         (∀ k, ∃ n, engineStack n = stack ∧ n.extractLsb' 0 2 = (k : BitVec 2) ∧ ¬ free n) → idle (.walkerAdmit cmd ix)) ∧
       (w.admitted = false → w.finished = false → ∀ n, engineStack n = (stackNext s c w).getD (engineStack w.engine) → free n →
         ∃ m, engineStack m = engineStack n ∧ free m ∧
           exec (.walkerAdmit cmd ix) s = .next (replaced (walker { w with engine := m, admitted := true }) s)) ∧
       (w.admitted = true → stackNext s c w = some (engineStack e) → engineStack w.engine ≠ engineStack e → free e →
         exec (.walkerMigrate cmd ix e) s = .next (replaced (walker { w with engine := e }) s)) ∧
       (w.admitted = false ∨ stackNext s c w ≠ some (engineStack e) ∨ engineStack w.engine = engineStack e ∨ ¬ free e →
         idle (.walkerMigrate cmd ix e)) ∧
       (w.admitted = false ∨ w.finished = true → idle (.walkerReadDone cmd ix)) ∧
       (w.admitted = true → w.finished = false → c.kind = 4 → w.hops.toNat < (c.param.extractLsb' 0 8).toNat → w.ptr ≠ 0 → s.hart.remote = [] →
         s.hart.eremote = [] → w.part = [] → stackNext s c w = some (engineStack w.engine) →
         let va := w.ptr + (c.param.extractLsb' 8 12).setWidth 64
         (∀ v, engineRead c w.engine va 8 0 s = .ok v s →
           exec (.walkerReadDone cmd ix) s = .next (replaced (walker { w with ptr := BitVec.ofNat 64 v, hops := w.hops + 1 }) s)) ∧
         ∀ st a, engineRead c w.engine va 8 0 s = .error (.trap st a) s → c.status = 0 → w.pending = [] → w.written = 0 →
           let size := if c.param.getLsbD 20 then 32 else 8
           exec (.walkerReadDone cmd ix) s = .next (replaced { walker { w with pending := List.replicate size 0xFF, finished := true } with
             status := st, fva := a, fidx := ix } s)) ∧
       (w.pending = [] → ∃ t, exec (.resultWrite cmd ix) s = .next t ∧ t = { s with hart := t.hart } ∧ t.hart.sc = s.hart.sc) ∧
       (c.kind = 4 → c.param.getLsbD 20 = false → w.pending.length = 8 → s.hart.held = false → memoryWf s → (∀ y ∈ c.walkers, y.index = ix → y = w) →
         (c.walkers.filter fun y => y.index == ix).length = 1 → w.out.toNat + w.written + 8 ≤ 524288 →
         ∃ t, exec (.resultWrite cmd ix) s = .next t ∧
           (∀ q, memGet t.mem q = if selfStore s + w.out.toNat + w.written ≤ q ∧ q < selfStore s + w.out.toNat + w.written + 8
             then w.pending.getD (q - (selfStore s + w.out.toNat + w.written)) 0 else memGet s.mem q) ∧
           t.hart = (replaced (walker { w with pending := [], written := w.written + 8 }) s).hart)) ∧
     ((∀ c ∈ s.hart.piers, c.cmdNo = cmd → ∃ w ∈ c.walkers, w.finished = false ∨ w.pending ≠ []) → idle (.pierRecordPost cmd)) ∧
     (s.hart.piers = [c] → c.cmdNo = cmd → (∀ w ∈ c.walkers, w.finished = true ∧ w.pending = []) → exec (.pierRecordPost cmd) s =
       .next { s with hart := { s.hart with piers := [], cq := s.hart.cq ++ [c.fva ++ c.done ++ c.cmdNo ++ c.status ++ c.kind] } }))

/-! ### Forked regions (spec/10) -/

/-- Nothing is outstanding with the engines of a strand, and it holds no record and no write stream (R335). -/
def enginesClear (h : Hart) : Prop :=
  h.copies = [] ∧ h.piers = [] ∧ h.cq = [] ∧ ∀ j : BitVec 3, (h.slotAt j).drains = [] ∧ ((h.slotAt j).bound = true → (h.slotAt j).record.getLsbD 324 = false)

/-- R214, R215, R216 and R218: fork opens a region of ceil(count / grain) chunks and goes on as chunk 0; inside a region it is a loop of one chunk;
with a count of 0 it goes on behind the join. A grain of 0, and a target that holds no join, trap ILL; that a grain of 0 does whatever stands at the join is the
model's choice (log 91). R218, R231, R232 and R335: join ends a
nested loop, or holds its chunk for the keystone; outside any region it traps ILL. keywait completes outside a region, and in the keystone once
it has written what it holds; a speculative chunk holds there. -/
def Obligations.ForkResults : Prop :=
  (∀ (s : State) (d a : BitVec 5) (imm : BitVec 16) (v w : Word32), ready s → s.hart.queue = [] → encode (.fork d a imm) = some w →
     let h := s.hart
     let pc := h.sc.pc
     let join := pc + imm.signExtend 64 * 4
     let count := x s d
     let grain := x s a
     let fails : Prop := exec (.fork d a imm) s = .next (takeTrap s 0x01 (w.setWidth 64) pc false false)
     (grain = 0 → fails) ∧
     (grain ≠ 0 → fetchWord join s = .ok v s →
       (v ≠ 0xD4000000 → fails) ∧
       (v = 0xD4000000 →
         (count = 0 → exec (.fork d a imm) s = .next (goTo (join + 4) id s)) ∧
         (count ≠ 0 → s.ring.region ≠ none → exec (.fork d a imm) s =
           .next (next (fun h => { putReg d count (putReg a 0 h) with depth := h.depth + 1 }) s)) ∧
         (count ≠ 0 → s.ring.region = none → s.ring.stepping = false → h.held = false →
           (h.copies ≠ [] ∨ h.piers ≠ [] ∨ h.cq ≠ []) → fails) ∧
         (count ≠ 0 → s.ring.region = none → s.ring.stepping = false → h.held = false → enginesClear h → a ≠ 0 → d ≠ a →
           ∃ t g, exec (.fork d a imm) s = .next t ∧ t = { s with ring := { s.ring with region := some g }, hart := t.hart } ∧
             g.forkPc = pc ∧ g.joinPc = join ∧ g.dReg = d ∧ g.aReg = a ∧ g.count = count ∧ g.grain = grain ∧
             (g.total : Nat) * grain.toNat < count.toNat + grain.toNat ∧ count.toNat ≤ g.total * grain.toNat ∧ g.next = 1 ∧
             g.firstSeq = h.seq + 1 ∧ g.image = { h with pfx := none } ∧
             t.hart.held = true ∧ t.hart.seq = h.seq + 1 ∧ t.hart.sc.pc = pc + 4 ∧ t.hart.sc.flags = 0 ∧
             (∀ r, t.hart.sc.get r = if r = d then (if grain.toNat < count.toNat then grain else count) else if r = a then 0 else x s r) ∧
             t.hart.v = h.v ∧ t.hart.k = h.k ∧ t.hart.sc.vl = h.sc.vl ∧ t.hart.sc.sew = h.sc.sew ∧ t.hart.vstart = 0 ∧
             t.hart.z = Vector.replicate 4 0 ∧ t.hart.written = h.written)))) ∧
  (∀ (s : State), s.hart.queue = [] →
     let h := s.hart
     let fails : Prop := exec .join s = .next (takeTrap s 0x01 0xD4000000 h.sc.pc false false)
     (0 < h.depth → exec .join s = .next (next (fun h => { h with depth := h.depth - 1 }) s)) ∧
     (h.depth = 0 → s.ring.region = none → fails) ∧
     (∀ g, h.depth = 0 → s.ring.region = some g →
       (enginesClear h → exec .join s = .next (applyWait s (.hold .join))) ∧
       (h.copies ≠ [] → exec .join s = .next (applyWait s (.park .stalled))) ∧
       (h.copies = [] → h.piers = [] → (∀ j, (h.slotAt j).drains = []) → h.cq ≠ [] →
         (h.chunk + 1 = g.total → exec .join s = .next (applyWait s (.hold .join))) ∧
         (h.chunk + 1 ≠ g.total → fails))) ∧
     (s.ring.region = none → exec .keywait s = .next (next id s)) ∧
     (s.ring.region ≠ none → s.ring.active = 0 → exec .keywait s = .next (next id (flushWritten s))) ∧
     (s.ring.region ≠ none → s.ring.active ≠ 0 → exec .keywait s = .next (applyWait s (.hold .keywait))))

/-- The chunks in flight on the executing ring, oldest first, with the executing one as it stands. -/
def chunksOf (s : State) : List Hart := (putBack s).ring.chunks

/-- Chunk i of the executing ring is in a slot, and no older one is. -/
def inSlot (s : State) (i : Nat) (slot : BitVec 3) (h : Hart) : Prop :=
  s.onMgmt = none ∧ s.ring.active < s.ring.chunks.length ∧ (chunksOf s)[i]? = some h ∧ h.slot = slot ∧
    ∀ k < i, ∀ c, (chunksOf s)[k]? = some c → c.slot ≠ slot

/-- R215 to R217, R221, R223 and R230: a chunk starts in an idle slot with its part of the range; its image arrives; the final values of the chunk
before it become its live-ins, or squash it where it has read a wrong prediction; a squash takes it and every younger one back; it restarts.
R229, R233, R234 and R236: what the keystone's arrival makes of a chunk that holds, and the commit of the oldest chunk: its bytes and messages
leave, and the keystone passes to the next chunk, or the region closes behind its last chunk and the strand goes on behind the join. On a HALTED ring
none starts, restarts or commits (R405). chunkStart with nothing to start changes nothing (the model's choice, log 25). -/
def Obligations.ChunkEvents : Prop :=
  (∀ (s : State) (g : Region) (i : Nat) (slot : BitVec 3) (h : Hart), s.ring.region = some g →
     let live : BitVec 32 := g.image.sc.livein &&& ~~~(1#32) &&& ~~~(1#32 <<< g.dReg.toNat) &&& ~~~(1#32 <<< g.aReg.toNat)
     let start : Word := BitVec.ofNat 64 g.next * g.grain
     (s.onMgmt = none → s.ring.halted = false → g.next < g.total → s.ring.chunks.length < s.ring.size → 0 < g.next → g.aReg ≠ 0 → g.dReg ≠ 0 → g.dReg ≠ g.aReg →
       ∃ c : Hart, exec .chunkStart s = .next { s with ring := { s.ring with
           region := some { g with next := g.next + 1 }, chunks := s.ring.chunks ++ [c] } } ∧
         c.sc.pc = g.forkPc + 4 ∧ c.state = .start ∧ c.chunk = g.next ∧ c.seq = g.firstSeq + BitVec.ofNat 16 g.next ∧
         c.slot.toNat = (g.firstSlot.toNat + g.next) % s.ring.size ∧
         c.sc.get g.aReg = start ∧ c.sc.get g.dReg = (if g.grain.toNat < (g.count - start).toNat then g.grain else g.count - start) ∧
         (∀ r, r ≠ g.aReg → r ≠ g.dReg → live.getLsbD r.toNat = false → c.sc.get r = g.image.sc.get r) ∧
         (lookupKey g.finals (g.next - 1) = none → c.awaiting = live) ∧ c.held = true ∧ c.written = [] ∧ c.sc.flags = 0) ∧
     (s.onMgmt = none → g.total ≤ g.next ∨ s.ring.size ≤ s.ring.chunks.length → exec .chunkStart s = .next s) ∧
     (s.ring.halted = true → exec .chunkStart s = .next s ∧ exec .keystoneArrival s = .next s ∧ exec .chunkCommit s = .next s) ∧
     (inSlot s i slot h →
       (∃ t, exec (.imageCopyDone slot) s = .next t ∧ chunksOf t = (chunksOf s).set i { h with imageDone := true } ∧ t.mem = s.mem) ∧
       (h.awaiting ≠ 0 → h.queue = [] → h.predicted = 0 → ∀ p, 0 < i → (chunksOf s)[i - 1]? = some p → p.state = .hold .join → p.awaiting = 0 →
         ∃ t c, exec (.liveinArrival slot) s = .next t ∧ chunksOf t = (chunksOf s).set i c ∧ t.mem = s.mem ∧ c.awaiting = 0 ∧
           c.sc = { h.sc with x := c.sc.x, bad := c.sc.bad } ∧
           ∀ (r : Nat) (hr : r < 32), c.sc.x[r] = if h.awaiting.getLsbD r && !h.wroteReg.getLsbD r then p.sc.x[r] else h.sc.x[r]) ∧
       (h.awaiting ≠ 0 → h.queue = [] → h.held = true → ∀ p (r : BitVec 5), 0 < i → (chunksOf s)[i - 1]? = some p → p.state = .hold .join →
         p.awaiting = 0 → h.awaiting.getLsbD r.toNat = true → h.predicted.getLsbD r.toNat = true → h.readLive.getLsbD r.toNat = true →
         h.liveVal[r.toNat] ≠ p.sc.x[r.toNat] →
         ∃ t, exec (.liveinArrival slot) s = .next t ∧ t.mem = s.mem ∧ (chunksOf t).take i = (chunksOf s).take i ∧
           ∀ k, i ≤ k → ∀ c, (chunksOf t)[k]? = some c → c.state = .squash) ∧
       (0 < i → h.held = true →
         ∃ t, exec (.chunkSquash slot) s = .next t ∧ t.mem = s.mem ∧ (chunksOf t).take i = (chunksOf s).take i ∧
           (chunksOf t).length = (chunksOf s).length ∧ ∀ k, i ≤ k → ∀ c, (chunksOf t)[k]? = some c → c.state = .squash ∧
             ∀ o, (chunksOf s)[k]? = some o → o.handler = none → c.sc.pc = g.forkPc + 4 ∧ c.written = [] ∧ c.sr = [] ∧ c.chunk = o.chunk ∧
               c.seq = g.firstSeq + BitVec.ofNat 16 o.chunk) ∧
       (h.state = .squash → s.ring.halted = false → (∀ k, (chunksOf s)[0]? = some k → k.inTrap ≤ g.image.inTrap) →
         ∃ t, exec (.chunkRestart slot) s = .next t ∧ chunksOf t = (chunksOf s).set i { h with state := .start } ∧ t.mem = s.mem))) ∧
  (∀ (s : State) (g : Region), s.onMgmt = none → s.ring.halted = false → s.ring.active = 0 → s.ring.chunks ≠ [] →
     let h := s.hart
     let closed (pc : Word) : Scal := { h.sc with
       pc := pc, flags := g.image.sc.flags ||| g.kflags ||| h.sc.flags
       pfxV := match h.pfx with
         | some p => h.sc.pfxV && !p.fromEret
         | none => h.sc.pfxV }
     (h.awaiting ≠ 0 → ∃ t, exec .keystoneArrival s = .next t ∧ t.hart = h ∧ chunksOf t = chunksOf s ∧ t.mem = s.mem) ∧
     (h.awaiting = 0 →
     (∀ r ∈ [HoldReason.join, .doneStrand], h.state = .hold r → ∃ t, exec .keystoneArrival s = .next t ∧ t.hart = { h with state := .commit r } ∧
       chunksOf t = (chunksOf s).set 0 t.hart ∧ t.mem = s.mem) ∧
     (∀ a, h.state = .hold (.exit a) → ∃ t, exec .keystoneArrival s = .next t ∧ t.hart = { h with state := .commit (.exit a) }) ∧
     (∀ r ∈ [HoldReason.keystoneOnly, .setFull, .keywait, .stageFull], h.state = .hold r → ∃ t, exec .keystoneArrival s = .next t ∧
       t.hart = { h with state := .run, park := .running } ∧ chunksOf t = (chunksOf s).set 0 t.hart ∧ t.mem = s.mem) ∧
     (∀ d, h.state = .hold (.trap d) → h.held = true → h.level = .u → recordsReady s = true → ∃ t, exec .keystoneArrival s = .next t ∧ t.hart.sc.pc = s.ring.evec ∧
       t.hart.level = .s ∧ t.ring.epc = d.point &&& ~~~3#64 ∧ t.ring.eval = d.val ∧
       t.ring.ecause = (1#1 : BitVec 1) ++ (0#1 : BitVec 1) ++ BitVec.ofBool d.vec ++ d.code ∧ t.mem = (pokeCells s h.written).mem)) ∧
     (h.held = true → h.queue = [] → h.awaiting = 0 → recordsReady s = true → s.ring.outbound.length + h.stage.length ≤ 256 → s.ring.region = some g →
       (h.state = .commit .join → h.chunk + 1 = g.total → ∃ t, exec .chunkCommit s = .next t ∧ t.mem = (pokeCells s h.written).mem ∧
         t.ring.region = none ∧ t.ring.chunks = [t.hart] ∧ t.ring.outbound = s.ring.outbound ++ h.stage.map (outMsg (coreIx s)) ∧
         t.hart.sc = closed (g.joinPc + 4) ∧ t.hart.pfx = none ∧ t.hart.held = g.image.held ∧
         t.hart.state = .run ∧ t.hart.written = [] ∧ t.hart.sr = []) ∧
       (∀ a, h.state = .commit (.exit a) → ∃ t, exec .chunkCommit s = .next t ∧ t.mem = (pokeCells s h.written).mem ∧
         t.ring.region = none ∧ t.ring.chunks = [t.hart] ∧
         t.hart.sc = closed a ∧ t.hart.pfx = none) ∧
       (h.state = .commit .join → h.chunk + 1 ≠ g.total → ∀ u, (chunksOf s)[1]? = some u → u.awaiting = 0 → ∃ t, exec .chunkCommit s = .next t ∧
         t.mem = (pokeCells s h.written).mem ∧ t.hart = { u.overrideFetched h.written with cmdNo := h.cmdNo, acquired := wmax u.acquired h.acquired } ∧
         t.ring.chunks.length + 1 = s.ring.chunks.length ∧
         t.ring.region = some { g with kflags := g.kflags ||| h.sc.flags, finals := [(h.chunk, h.sc.x)] } ∧
         t.ring.outbound = s.ring.outbound ++ h.stage.map (outMsg (coreIx s)))) ∧
     (h.queue ≠ [] ∨ h.awaiting ≠ 0 ∨ 256 < s.ring.outbound.length + h.stage.length → s.ring.region = some g →
       ∀ r, h.state = .commit r → ∃ t, exec .chunkCommit s = .next t ∧ t.hart = h ∧ t.mem = s.mem ∧ chunksOf t = chunksOf s))

/-! ### Messages and actors (spec/11) -/

/-- The message that an actor of the executing ring sends (R244). -/
def sentMessage (s : State) (dest : Word) (payload : List Byte) : Message :=
  let src : BitVec 14 := match s.ring.resident with
    | some (_, aid) => aid.setWidth 14
    | none => 0
  { dest := dest, payload := payload, time := 0
    hdr := 0#5 ++ s.module ++ src ++ 0#1 ++ 0#1 ++ (dest.extractLsb' 0 5 : BitVec 5) ++ 0#5 ++ (dest.extractLsb' 50 3 : BitVec 3)
      ++ (dest.extractLsb' 34 16 : BitVec 16) }

/-- R250 and R254: send and sendi stage a message of a chunk, or put it in the outbound buffer of a strand outside any chunk; what they may not send
traps. R259: widf extracts a field of WID. R248, R255 and R256: waitmsg takes the head message of a polled mailbox into the receive buffer, or
parks; done holds a handler for its commit, and ends an entry strand: its actor becomes handler-driven, or finishes. -/
def Obligations.MessageResults : Prop :=
  (∀ (s : State) (d a b : BitVec 5) (f : BitVec 6) (pa : Nat → Nat), ready s → s.hart.queue = [] →
     let h := s.hart
     let dest := x s a
     let beats := (dest.extractLsb' 50 3 : BitVec 3).toNat + 1
     let beat (k : Nat) : Word := x s b + BitVec.ofNat 64 (32 * k)
     let read (k : Nat) : State := (List.range k).foldl (fun t i => noteRead t (pa i) 32) s
     let inStore (k : Nat) : Prop := selfStore s ≤ pa k ∧ pa k + 32 ≤ selfStore s + 524288
     let legal : Prop := dest.extractLsb' 53 11 = 0 ∧
       (dest.getLsbD 5 = true → dest.extractLsb' 0 5 = 0) ∧ (dest.getLsbD 5 = false → dest.extractLsb' 18 2 = 0)
     let room : Prop := (h.held = true → h.stage.length < 32) ∧ (h.held = false → s.ring.outbound.length < 256)
     let staged (m : Message) (t : State) : State :=
       if h.held then next (fun h => { h with stage := h.stage ++ [m] }) t
       else next id { t with ring := { t.ring with
         outbound := t.ring.outbound ++ [{ msg := m, sent := false, waiting := false, refusals := 0, core := coreIx s, rtag := 0 }] } }
     let traps (i : Instr) (code : BitVec 8) (val : Word) : Prop := exec i s = .next (takeTrap s code val h.sc.pc false false)
     (legal → room → dest.extractLsb' 50 3 = 0 → exec (.sendi a b) s = .next (staged (sentMessage s dest
       ((List.range 32).map fun i => BitVec.ofNat 8 ((x s (b + BitVec.ofNat 5 (i / 8))).toNat / 256 ^ (i % 8)))) s)) ∧
     (legal → room → (x s b).toNat % 32 = 0 → errorFree s →
       (∀ k < beats, reaches s (beat k) 32 .r (pa k) ∧ inStore k ∧ atHand s (pa k) 32 ∧ linesFit (read k) (pa k) 32) →
       exec (.send a b) s = .next (staged (sentMessage s dest ((List.range (32 * beats)).map fun i => s.peek (pa (i / 32) + i % 32))) (read beats))) ∧
     (¬ legal → ∀ i ∈ [Instr.send a b, .sendi a b], ∀ w, encode i = some w → traps i 0x01 (w.setWidth 64)) ∧
     (dest.extractLsb' 50 3 ≠ 0 → ∀ w, encode (.sendi a b) = some w → traps (.sendi a b) 0x01 (w.setWidth 64)) ∧
     (legal → (x s b).toNat % 32 ≠ 0 → traps (.send a b) 0x03 (x s b)) ∧
     (legal → (x s b).toNat % 32 = 0 → (∀ k < beats, ∃ near, translate (beat k) 32 .r s = .ok (pa k, near) s) → (∃ k < beats, ¬ inStore k) →
       traps (.send a b) 0x07 (x s b)) ∧
     (legal → (x s b).toNat % 32 = 0 → ∀ n < beats, ∀ st va, (∀ k < n, (∃ near, translate (beat k) 32 .r s = .ok (pa k, near) s) ∧ inStore k) →
       translate (beat n) 32 .r s = .error (.trap st va) s → traps (.send a b) 0x07 (x s b)) ∧
     (legal → ¬ room → h.held = false → dest.extractLsb' 50 3 = 0 → exec (.sendi a b) s = .next (applyWait s (.park .stalled))) ∧
     (legal → ¬ room → h.held = true → s.ring.active ≠ 0 → dest.extractLsb' 50 3 = 0 →
       exec (.sendi a b) s = .next (applyWait s (.hold .stageFull))) ∧
     let w (i : Nat) : Nat := (h.widShape.extractLsb' (6 * i) 6 : BitVec 6).toNat
     (f.toNat < 6 → exec (.widf d f) s = .next (next (putDest d
       (BitVec.ofNat 64 (h.wid.toNat / 2 ^ (∑ i ∈ Finset.range f.toNat, w i) % 2 ^ w f.toNat))) s))) ∧
  (∀ (s : State) (a : BitVec 5) (act : Actor), settled s → residentActor s = some act →
     let h := s.hart
     let u := flushWritten s
     let m : BitVec 5 := (x s a).extractLsb' 0 5
     let box := act.box m
     let serves : Prop := h.handler ≠ none ∨ ∃ g, s.ring.region = some g ∧ g.image.handler ≠ none
     let traps : Prop := ∀ w, encode (.waitmsg a) = some w → s.onMgmt = none → exec (.waitmsg a) s =
       .next (takeTrap u 0x01 (w.setWidth 64) h.sc.pc false false)
     (¬ serves → (x s a).toNat < 32 → box.mode = 2 →
       (∀ msg rest, box.queue = msg :: rest → msg.bad = false →
         let v := raiseFloor (u.putActor (act.setBox m { box with queue := rest })) msg.time
         let t := storeDirect v (selfStore s + 0x7FF00) (ofBytes msg.payload) 256
         exec (.waitmsg a) s = .next (next (fun h => { h with msgHdr := (msg.hdr &&& ~~~0xF80000#64) ||| (m.setWidth 64 <<< 19) }) t)) ∧
       (box.queue = [] → box.spill = [] → exec (.waitmsg a) s = .next (applyWait (flushed s) (.park .waitmsg)))) ∧
     (box.mode ≠ 2 ∨ 32 ≤ (x s a).toNat ∨ serves → traps) ∧
     (s.ring.region = none → h.depth = 0 → enginesClear h → h.handler ≠ none → exec .doneStrand s = .next (applyWait s (.hold .doneStrand))) ∧
     (s.ring.region ≠ none ∨ 0 < h.depth → s.onMgmt = none → exec .doneStrand s = .next (takeTrap s 0x01 0xD4000080 h.sc.pc false false)) ∧
     (s.ring.region = none → h.depth = 0 → enginesClear h → h.handler = none → ∃ t, exec .doneStrand s = .next t ∧ t.mem = s.mem ∧ t.ring.chunks = [] ∧
       ((∀ i, (act.box i).mode ≠ 1) → t.ring.state = .empty ∧ t.ring.resident = none ∧ t.actors = (s.putActor { act with phase := .finished }).actors) ∧
       ((∃ i, (act.box i).mode = 1) → t.ring.state = s.ring.state ∧ t.ring.resident = s.ring.resident ∧ t.ring.inEntry = false ∧
         t.actors = (s.putActor { act with phase := .handlers, driven := true }).actors)))

/-- R241 to R243 and R250 to R252: a message reaches the mailbox that it names, or the reject mailbox, or is not accepted; a spilled one moves up;
the outbound buffer injects what passes no earlier message to the same mailbox, keeps what is refused for another offer, and sends what names
another module as a packet; ACTSTALL becomes pending. R246 to R248, R258, R260 and R261: on an EMPTY ring the dispatcher starts the entry strand
of the runnable actor that comes first; on a ring with nothing in flight it starts the handler of the lowest mailbox that holds a message. At
the end of its quantum a resident actor is due to give way, and one that overruns is pre-empted. An event that cannot occur changes nothing (log 25), the slot of
a first handler (log 54), when an actor with nothing to run gives way (log 72), and how a response finds its message (log 73) are the model's choices. -/
def Obligations.MessageEvents : Prop :=
  (∀ (s : State) (msg : Message) (a : Actor) (aid : BitVec 12) (m : BitVec 5) (n : BitVec 6) (i : BitVec 8) (o : OutMsg),
     let box := a.mbx[m.toNat]
     let resident : Prop := (s.ringAt a.ring).resident = some (a.jid, a.aid)
     let named : BitVec 5 := msg.dest.extractLsb' 0 5
     let boxN := a.mbx[named.toNat]
     let fits : Prop := boxN.mode ≠ 0 ∧ named ≠ 31 ∧ boxN.tag = msg.dest.extractLsb' 34 16 ∧ boxN.beats = msg.dest.extractLsb' 50 3
     let set (b : Mailbox) (a : Actor) : Actor := { a with mbx := a.mbx.set m.toNat b m.isLt }
     let arrives (b : Mailbox) (e : BitVec 16) : Prop := ∃ t a', exec (.messageArrival msg) s = .next t ∧
       t = { s with actors := s.actors.map fun y => if y.aid = a.aid ∧ y.jid = a.jid then a' else y, order := s.order + 1 } ∧
       a' = { set b a with typeErr := e, since := a'.since }
     let count := if a.typeErr = 0xFFFF then a.typeErr else a.typeErr + 1
     (msg.dest.getLsbD 5 = false → actorOf s ((msg.dest.extractLsb' 6 14 : BitVec 14).setWidth 12) = some a → a.aid ≠ 4095 →
       ((fits ∧ m = named) ∨ (¬ fits ∧ m = 31)) →
       let e := if fits then a.typeErr else count
       (resident → box.spill = [] → box.queue.length < 64 → arrives { box with queue := box.queue ++ [msg] } e) ∧
       (¬ (resident ∧ box.spill = [] ∧ box.queue.length < 64) → box.spill.length < 2 ^ box.splog.toNat →
         arrives { box with spill := box.spill ++ [msg] } e) ∧
       (¬ (resident ∧ box.spill = [] ∧ box.queue.length < 64) → 2 ^ box.splog.toNat ≤ box.spill.length →
         exec (.messageArrival msg) s = .next s)) ∧
     (msg.dest.getLsbD 5 = false → actorOf s ((msg.dest.extractLsb' 6 14 : BitVec 14).setWidth 12) = none → exec (.messageArrival msg) s = .next s) ∧
     (actorOf s aid = some a → resident → ∀ y rest, box.spill = y :: rest → box.queue.length < 64 → exec (.spillRefill aid m) s =
       .next (s.putActor (set { box with
         queue := box.queue ++ [y], spill := rest, sphead := BitVec.ofNat 21 ((box.sphead.toNat + 1) % 2 ^ box.splog.toNat) } a))) ∧
     (actorOf s aid = none → exec (.spillRefill aid m) s = .next s) ∧
     (actorOf s aid = some a → ¬ resident → exec (.spillRefill aid m) s = .next s) ∧
     (let l := (s.ringAt n).outbound
       let put (o : List OutMsg) (t : State) : State := t.modRingAt n fun r =>
         { r with outbound := r.outbound.take i.toNat ++ o ++ r.outbound.drop (i.toNat + 1) }
       let tgt : BitVec 14 := o.msg.dest.extractLsb' 20 14
       let timed : Message := { o.msg with time := ringTime s n o.core }
       let free : Prop := o.sent = false ∧ o.waiting = false ∧ ∀ k < i.toNat, ∀ p, l[k]? = some p → p.msg.dest.extractLsb' 0 34 ≠ o.msg.dest.extractLsb' 0 34
       (l[i.toNat]? = none → exec (.outboundInject n i) s = .next s) ∧
       (l[i.toNat]? = some o → ¬ free → exec (.outboundInject n i) s = .next s) ∧
       (l[i.toNat]? = some o → free → tgt = s.module → s.lag = false → offerHere s timed = .refused → exec (.outboundInject n i) s =
         .next (put [{ o with sent := false, waiting := true, refusals := o.refusals + 1 }] s)) ∧
       (l[i.toNat]? = some o → free → tgt = s.module → s.lag = false → ∀ t, offerHere s timed = .accepted t → exec (.outboundInject n i) s = .next (put [] t)) ∧
       (l[i.toNat]? = some o → free → (tgt ≠ s.module ∧ tgt ∈ s.present ∧ tgt.toNat < 8192 ∨ tgt = s.module ∧ s.lag = true) → ∃ p : Packet, exec (.outboundInject n i) s =
           .next { put [{ o with sent := true, rtag := s.nextTag }] { s with heldOut := s.heldOut ++ [p] } with nextTag := s.nextTag + 1 } ∧
         p.kind = 6 ∧ p.dmod = tgt ∧ p.smod = s.module ∧ p.sring = n ∧ p.tc = 1 ∧ p.ord = true ∧ p.rtag = s.nextTag ∧ p.jid = (s.ringAt n).jid ∧
         p.payload = bytesOf o.msg.dest.toNat 8 ++ bytesOf o.msg.hdr.toNat 8 ++ o.msg.payload) ∧
       (l[i.toNat]? = some o → exec (.retryBackoffExpiry n i) s = exec (.outboundInject n i) (put [{ o with waiting := false }] s)) ∧
       (l = [] ∨ (s.ringAt n).halted = true → exec (.actstallExpiry n) s = .next s) ∧
       (l ≠ [] → (s.ringAt n).halted = false → exec (.actstallExpiry n) s = .next (s.modRingAt n fun r => { r with pact := true })))) ∧
  (∀ (s : State) (a : Actor) (m : BitVec 5) (msg : Message) (rest : List Message) (n : BitVec 6),
     let r := s.ring
     (s.onMgmt = none → r.halted = false → r.unavailable = false → r.absent = false → r.chunks = [] →
       (r.state = .empty → r.resident = none → r.reshapePend = false → a ∈ s.actors → a.ring = s.cur → a.phase = .entry → s.jobs = [] →
         (∀ b ∈ s.actors, b.ring = s.cur → b.runnable = true → b = a ∨ a.prio < b.prio ∨ a.prio = b.prio ∧ a.since < b.since) →
         ∃ t, exec (.dispatch s.cur) s = .next t ∧ t.ring.state = .running ∧ t.ring.resident = some (a.jid, a.aid) ∧ t.ring.jid = a.jid ∧
           t.ring.ptbase = a.ptroot ∧ t.ring.inEntry = true ∧ t.ring.chunks = [t.hart] ∧ t.mem = s.mem ∧ t.hart.level = .u ∧ t.hart.sc.pc = a.entryPc ∧
           (∀ q, t.hart.sc.get q = if q = 1 then Config.exitWord else if q = 2 then a.stackTop else 0) ∧ t.hart.wid = a.wid.setWidth 64 ∧
           t.hart.widShape = a.widShape ∧ t.hart.held = false) ∧
       (r.state = .running → r.inEntry = false → r.region = none → r.stepping = false → r.reshapePend = false → s.lag = true →
         residentActor s = some a → (∀ b ∈ s.actors, b.ring = s.cur → b = a ∨ b.runnable = false) → r.resident = some (a.jid, a.aid) → s.jobs = [] →
         (a.box m).mode = 1 → (a.box m).queue = msg :: rest → msg.bad = false → (∀ k, k.toNat < m.toNat → (a.box k).mode ≠ 1 ∨ (a.box k).queue = [] ∧ (a.box k).spill = []) →
         ∃ t, exec (.dispatch s.cur) s = .next t ∧ t.ring.chunks = [t.hart] ∧ t.mem = s.mem ∧
           t.actors = (s.putActor (a.setBox m { a.box m with queue := rest })).actors ∧ t.hart.handler = some (m, msg) ∧ t.hart.held = true ∧
           t.hart.sc.pc = (a.box m).haddr ∧ t.hart.sc.get 2 = a.stackTop ∧ t.hart.sc.get 4 = 0x00FFFF000007FF00 ∧
           t.hart.sc.get 5 = m.setWidth 64 ∧ t.hart.sc.get 3 = t.hart.msgHdr ∧
           t.hart.msgHdr = (msg.hdr &&& ~~~0xF80000#64) ||| (m.setWidth 64 <<< 19) ∧ t.hart.level = .u ∧
           ∀ i < 256, recGet t.hart.written (selfStore t + 0x7FF00 + i) = some (msg.payload.getD i 0))) ∧
     exec (.quantumExpiry n) s = .next (if (s.ringAt n).resident.isSome ∧ (s.ringAt n).halted = false then
       s.modRingAt n fun r => { r with changeDue := true } else s) ∧
     ((s.ringAt n).resident = none ∨ (s.ringAt n).state ≠ .running ∨ (s.ringAt n).halted = true ∨ (s.ringAt n).chunks = [] → exec (.overrunExpiry n) s = .next s) ∧
     ((s.ringAt n).resident ≠ none → (s.ringAt n).state = .running → (s.ringAt n).halted = false → (s.ringAt n).chunks ≠ [] → ∃ t, exec (.overrunExpiry n) s = .next t ∧
       t.mem = s.mem ∧ (t.ringAt n).overrun = true ∧ (t.ringAt n).ppre = true ∧ (t.ringAt n).preSource = 2))

/-! ### Contexts (spec/20 R395 to R401) -/

/-- The word at an offset of a context at a physical address: eight bytes, low byte first (R395). -/
def ctxWord (s : State) (pa off : Nat) : Nat := ∑ i ∈ Finset.range 8, 256 ^ i * (memGet s.mem (pa + off + i)).toNat

/-- R396 to R400: ctxsave writes the context of a STOPPED ring outside any region, each part at its offset, and with RELEASE = 1 empties the ring;
it traps ACCESS with the length where the area is too short. R401: ctxload installs a context that it admits on an EMPTY ring, which is then
STOPPED, or with RUN = 1 runs on from EPC. Either traps ILL where the ring is not so; that ctxload does on a ring that is not EMPTY is the model's reading (log
69). -/
def Obligations.ContextResults : Prop :=
  ∀ (s : State) (a b : BitVec 5), settled s → s.hart.level ≠ .u → s.hart.held = false → s.onMgmt = none → s.ring.active < s.ring.chunks.length →
    s.hart.saving = [] → memoryWf s →
    let pa := (x s a).toNat
    let n : BitVec 6 := (x s b).extractLsb' 0 6
    let flag := (x s b).getLsbD 6
    let pages := ((x s b).extractLsb' 12 20 : BitVec 20).toNat
    let r := s.ringAt n
    let k := keystoneOf s n
    let fails (i : Instr) : Prop := ∀ w, encode i = some w → exec i s = .next (takeTrap s 0x01 (w.setWidth 64) s.hart.sc.pc false false)
    let ends (t : State) : Prop := t.cur = s.cur ∧ t.hart.sc.pc = s.hart.sc.pc + 4 ∧ t.hart.sc.x = s.hart.sc.x ∧ t.hart.v = s.hart.v
    ((x s b).extractLsb' 7 5 = 0 → (x s b).extractLsb' 32 32 = 0 → pa % 4096 = 0 → pa < 2 ^ 56 → pa.testBit 41 = false → n ≠ s.cur →
      paModule pa = s.module → r.halted = false →
      (r.state ≠ .stopped → fails (.ctxsave a b)) ∧ (r.state ≠ .empty → fails (.ctxload a b)) ∧
      (r.state = .stopped → r.region = none → r.resident = none → r.chunks ≠ [] → k.remote = [] → k.vremote = [] → k.eremote = [] → enginesClear k → k.stage = [] →
        k.awaiting = 0 → k.inError = false → s.bad = [] → r.outbound = [] → (∀ j, (k.slotAt j).awaits = [] ∧ (k.slotAt j).emitted = [] ∧ (k.slotAt j).fetched = []) →
        (pages < 0x56 → exec (.ctxsave a b) s = .next (takeTrap s 0x07 0x56000 s.hart.sc.pc false false)) ∧
        (0x56 ≤ pages → physAllowed s pa 0x56000 .w = true →
          ∃ t, exec (.ctxsave a b) s = .next t ∧ ends t ∧
            (∀ q, q < pa ∨ pa + 0x56000 ≤ q → memGet t.mem q = memGet s.mem q) ∧
            ctxWord t pa 0 % 2 ^ 18 = 1 + (if r.gang then 2 ^ 17 else 0) ∧ ctxWord t pa 8 = 0x56000 ∧ ctxWord t pa 0x10 = r.jid.toNat ∧
            ctxWord t pa 0x40 = k.sc.vl.toNat ∧ ctxWord t pa 0xC0 = r.epc.toNat ∧ ctxWord t pa 0xC8 = r.ecause.toNat ∧ ctxWord t pa 0xD0 = r.eval.toNat ∧
            (∀ q : BitVec 5, ctxWord t pa (0x100 + 8 * q.toNat) = (k.sc.get q).toNat) ∧
            (∀ (j : BitVec 3) (o : Nat), o < 4096 → j ≠ 0 → memGet t.mem (pa + 0x1000 + 4096 * j.toNat + o) = byteAt (k.mask j).toNat o) ∧
            (∀ (z : Fin 4) (o : Nat), o < 32768 → memGet t.mem (pa + 0x16000 + 32768 * z.val + o) = byteAt k.z[z].toNat o) ∧
            (∀ (v : BitVec 6) (o : Nat), v.toNat < vregCount k.sc.nreg → o < regBytes r.gang k.sc.nreg →
              memGet t.mem (pa + 0x36000 + v.toNat * regBytes r.gang k.sc.nreg + o) = byteAt (k.vr v).toNat o) ∧
            (flag = true → (t.ringAt n).state = .empty ∧ (t.ringAt n).chunks = []) ∧
            (flag = false → (t.ringAt n).state = .stopped ∧ keystoneOf t n = k))) ∧
      (r.state = .empty → r.reshapePend = false → anyBad s pa (ctxWord s pa 8) = false → (memGet s.mem (pa + 2)).getLsbD 0 = false →
        let rd (o : Nat) : Byte := memGet s.mem (pa + o)
        let nreg : BitVec 2 := (memGet s.mem (pa + 2)).extractLsb' 2 2
        (ctxWord s pa 0 % 2 ^ 16 ≠ 1 ∨ pages * 4096 < ctxWord s pa 8 → fails (.ctxload a b)) ∧
        (viewRing s n (fun u => ctxRefused u rd (ctxHead rd) pages) = false →
          ∃ t, exec (.ctxload a b) s = .next t ∧ ends t ∧ t.mem = s.mem ∧
            let v := keystoneOf t n
            let q := t.ringAt n
            q.state = (if flag then .running else .stopped) ∧ q.epc.toNat = ctxWord s pa 0xC0 / 4 * 4 ∧ q.eval.toNat = ctxWord s pa 0xD0 ∧
            q.ecause.toNat = ctxWord s pa 0xC8 % 2 ^ 11 ∧ q.jid.toNat = ctxWord s pa 0x10 % 2 ^ 16 ∧ q.region = none ∧
            v.level = (if (ctxWord s pa 0xD8).testBit 0 then .s else .u) ∧ v.sc.vl.toNat = ctxWord s pa 0x40 % 2 ^ 16 ∧
            v.sc.nreg.toNat = ctxWord s pa 0x58 % 4 ∧ (flag = true → v.sc.pc = q.epc) ∧ ((∀ a ∈ s.actors, a.driven = false) → v.held = false) ∧
            (∀ i : BitVec 5, i ≠ 0 → (v.sc.get i).toNat = ctxWord s pa (0x100 + 8 * i.toNat)) ∧
            (∀ (j : BitVec 3) (o : Nat), o < 4096 → j ≠ 0 → byteAt (v.mask j).toNat o = rd (0x1000 + 4096 * j.toNat + o)) ∧
            (∀ (z : Fin 4) (o : Nat), o < 32768 → byteAt v.z[z].toNat o = rd (0x16000 + 32768 * z.val + o)) ∧
            ∀ (g : BitVec 6) (o : Nat), g.toNat < vregCount nreg → o < min (ctxWord s pa 0x18 % 2 ^ 32) (regBytes r.gang nreg) →
              byteAt (v.vr g).toNat o = rd (0x36000 + ctxWord s pa 0x18 % 2 ^ 32 * g.toNat + o))))

/-! ### Asynchronous events, stops and the debugger (spec/19 R368 to R371, R385; spec/20 R391, R404 to R406) -/

/-- R365, R368 to R371, R385 and R391: at its boundary an enabled keystone takes what is pending, a pre-emption first and a timeout last; PREEMPT
stops the ring, the others enter at S; with events disabled nothing is taken. A parked wfi goes on, and is taken at the word after it. R377 and
R402 to R406: a write of HALT asks the rings of the dies it names to halt, those without a running strand halt at once, and a ring asked to halt
is HALTED when it reaches its boundary; STEP marks its ring, and a stepped instruction stops its ring with BREAK and tells the management core
of abutment die 0; a write of GANGCFG latches its shape. That it is the core of die 0 (log 19), and that either core's HALT bit halts a die (log 28), are the
model's choices. -/
def Obligations.AsyncAndDebug : Prop :=
  (∀ (s : State) (n : BitVec 6), s.onMgmt = none → s.ring.state = .running → s.ring.halted = false → s.ring.chunks ≠ [] → s.ring.active = 0 →
     s.hart.queue = [] → s.hart.remote = [] → recordsReady s = true → servedHere s = none → (∀ d, s.hart.state ≠ .hold (.trap d)) →
     let h := s.hart
     let r := s.ring
     let point := (if h.park = .wfi then h.sc.pc + 4 else h.sc.pc) &&& ~~~3#64
     let booked (t : State) (code : BitVec 8) (val : Word) : Prop := t.ring.epc = point ∧ t.ring.eval = val ∧ t.ring.ecause = 2#3 ++ code ∧
       t.ring.ppl = decide (h.level = .s) ∧ t.ring.pie = r.ie ∧ t.ring.ie = false ∧ t.hart.sc.x = h.sc.x ∧ t.hart.sc.pfxV = (h.pfx.isSome && h.park != .wfi) ∧
       t.hart.park = .running
     let first : BitVec 8 × Word :=
       if r.pact then (0x0C, match r.outbound with | [] => 0 | o :: _ => o.msg.dest) else (0x11, (r.quantum.extractLsb' 32 16).setWidth 64)
     let same (i : Instr) : Prop := ∃ t, exec i s = .next t ∧ t.hart = h ∧ t.mem = s.mem ∧ t.ring.state = r.state ∧ t.ring.epc = r.epc ∧ t.ring.ppre = r.ppre
     (h.level = .u ∨ r.ie = true →
       (r.ppre = true → ∀ i ∈ [Instr.asyncBoundary, .ringStopped s.cur], ∃ t, exec i s = .next t ∧
         booked t 0x14 (r.preSource.setWidth 64 <<< 6 ||| r.preSrc.setWidth 64) ∧ t.ring.state = .stopped ∧ t.hart.level = h.level ∧
         t.hart.sc.pc = h.sc.pc ∧ t.ring.ppre = false ∧ t.ring.pact = r.pact) ∧
       (r.ppre = false → r.pact = true ∨ r.ptmo = true → ∃ t, exec .asyncBoundary s = .next t ∧ booked t first.1 first.2 ∧
         t.ring.state = .running ∧ t.hart.level = .s ∧ t.hart.sc.pc = r.evec ∧ t.ring.pact = false ∧ t.ring.ptmo = (r.ptmo && r.pact)) ∧
       (r.ppre = true ∨ r.pact = true ∨ r.ptmo = true → h.park = .wfi → exec (.wfiWake s.cur) s = exec .asyncBoundary s)) ∧
     (r.ppre = false → r.pact = false → r.ptmo = false → same .asyncBoundary ∧ same (.wfiWake s.cur)) ∧
     (h.level = .s → r.ie = false → same .asyncBoundary ∧
       (r.ppre = true ∨ r.pact = true ∨ r.ptmo = true → h.park = .wfi → ∃ t, exec (.wfiWake s.cur) s = .next t ∧ t.hart.sc.pc = h.sc.pc + 4 ∧
         t.hart.park = .running ∧ t.hart.level = .s ∧ t.hart.sc.x = h.sc.x)) ∧
     (h.park ≠ .wfi → same (.wfiWake s.cur)) ∧
     ((s.ringAt n).ppre = false → exec (.ringStopped n) s = .next s) ∧
     let p := (keystoneOf s n).park
     exec (.timeoutExpiry n) s = .next (if (s.ringAt n).state = .running ∧ (s.ringAt n).chunks ≠ [] ∧ (s.ringAt n).quantum.extractLsb' 32 16 ≠ 0 ∧ p ≠ .wfi ∧ p ≠ .waitmsg ∧
       (∀ m, ((s.ringAt n).jid, m) ∉ s.paused) then s.modRingAt n fun r => { r with ptmo := true } else s)) ∧
  (∀ (s : State) (c : BitVec 1) (mask : BitVec 8) (n : BitVec 6) (on : Bool) (shape : BitVec 1),
     let asked (t : State) (d : BitVec 3) : Prop := (t.mgmtAt 0).dbgHalt.getLsbD d.toNat = true ∨ (t.mgmtAt 1).dbgHalt.getLsbD d.toNat = true
     let d : BitVec 3 := n.extractLsb' 3 3
     let r := s.ringAt n
     (∃ t, exec (.dbgctlHalt c mask) s = .next t ∧ (t.mgmtAt c).dbgHalt = mask ∧ t.mem = s.mem ∧ t.hart = s.hart ∧
       (asked t d → ¬ asked s d → t.ringAt n = if r.halted then r else if r.state = .running then { r with haltReq := true } else { r with halted := true }) ∧
       (asked s d → ¬ asked t d → t.ringAt n = { r with haltReq := false, halted := false }) ∧ ((asked s d ↔ asked t d) → t.ringAt n = r)) ∧
     (r.haltReq = false → exec (.debugHaltReached n) s = .next s) ∧
     (∀ k, k = keystoneOf s n → r.haltReq = true → r.chunks = [] ∨ (k.queue = [] ∧ k.remote = [] ∧ ∀ w ∈ s.waiters, w.ring = n → w.slot = k.slot → w.got = none) →
       ∃ t, exec (.debugHaltReached n) s = .next t ∧ (t.ringAt n).halted = true ∧ (t.ringAt n).haltReq = false ∧ (t.ringAt n).state = r.state ∧
         (t.ringAt n).chunks.length = r.chunks.length ∧ t.mem = s.mem) ∧
     (∃ t, exec (.dbgctlStep c n on) s = .next t ∧ (t.mgmtAt c).stepRing = n ∧ (t.mgmtAt c).step = on ∧ t.mem = s.mem ∧ t.hart = s.hart ∧
       (on = true → (t.ringAt n).stepping = true) ∧
       ∀ m, ¬ (m = n ∧ on = true) → (t.ringAt m).stepping = ((s.ringAt m).stepping && !((s.mgmtAt c).step && (s.mgmtAt c).stepRing == m))) ∧
     (s.onMgmt = none → s.ring.active = 0 → s.ring.chunks ≠ [] → s.hart.queue = [] → s.hart.remote = [] → s.hart.park = .running →
       recordsReady s = true → servedHere s = none →
       (s.ring.stepped = none → ∃ t, exec (.debugStepBreak s.cur) s = .next t ∧ t.hart = s.hart ∧ t.mem = s.mem ∧ t.ring.state = s.ring.state ∧ t.mgmt = s.mgmt) ∧
       ∀ va, s.ring.stepped = some va → s.ring.halted = false → s.bad = [] → ∃ t, exec (.debugStepBreak s.cur) s = .next t ∧ t.ring.state = .stopped ∧ t.ring.stepped = none ∧
         t.ring.ecause = 0x10 ∧ t.ring.eval = va ∧ t.ring.epc = s.hart.sc.pc &&& ~~~3#64 ∧ t.ring.pie = s.ring.ie ∧ t.ring.ie = false ∧
         t.hart.sc.pc = s.hart.sc.pc ∧ t.hart.sc.x = s.hart.sc.x ∧ t.hart.level = s.hart.level ∧
         (t.mgmtAt 0).events = (s.mgmtAt 0).events ++ [(0x10, s.cur, va, none)]) ∧
     exec (.gangcfgShapeWrite shape) s = .next (if shape = 1 ∧ s.ring.retired = true then s else { s with ring := { s.ring with
       gangcfg := shape, reshapePend := true, reshapeShape := shape, reshapeCap := s.ring.vlcap } }))

/-! ### The memory system (spec/14 R282 to R286; spec/15 R313) -/

/-- R282 to R286 and R313: a request to a slice takes a permit, 64 for a slice of the core's own die and 256 for all others, or waits alone; the
sector that it names is then in the line, valid, and dirty where it was written on a page that is not NEAR; the reply gives the permit back, and
the oldest request that waits for that permit takes it. A full word wakes its waiters up to the first ldtake. -/
def Obligations.MemorySystemEvents : Prop :=
  ∀ (s : State) (core : BitVec 9) (req : SliceReq) (slice : BitVec 5) (pa : BitVec 56),
    let line := req.off.toNat / 128
    let wanted (w : BitVec 9 × SliceReq) : BitVec 5 := if w.2.die = w.1.extractLsb' 6 3 then BitVec.ofNat 5 (w.2.off.toNat / 128 % 31) else 31
    let key : BitVec 5 := wanted (core, req)
    let limit := if key = 31 then 256 else 64
    let used (t : State) (k : BitVec 5) : Nat := match t.permits.find? fun p => p.1 == core && p.2.1 == k with
      | some p => p.2.2
      | none => 0
    let sector := req.off.toNat / 32 % 4
    (limit ≤ used s key → exec (.sliceRequest core req) s = .next { s with permitWait := s.permitWait ++ [(core, req)] }) ∧
    ((∀ z ∈ s.lines, z.slice.toNat = z.line.toNat % 31 ∧ z.set.toNat = z.line.toNat / 31 % 1024) → used s key < limit → ∃ t x, exec (.sliceRequest core req) s = .next t ∧ used t key = used s key + 1 ∧ x ∈ t.lines ∧
      x.die = req.die ∧ x.slice.toNat = line % 31 ∧ x.set.toNat = line / 31 % 1024 ∧ x.line.toNat = line ∧ x.valid.getLsbD sector = true ∧
      (req.write = true → x.dirty.getLsbD sector = !req.near) ∧
      (∀ k, k ≠ sector → ∀ y ∈ s.lines, (∀ z ∈ s.lines, z.die = req.die → z.line.toNat = line → z = y) → y.die = req.die → y.line.toNat = line → y.valid ≠ 0 →
        x.valid.getLsbD k = y.valid.getLsbD k ∧ x.dirty.getLsbD k = y.dirty.getLsbD k)) ∧
    (let back (u : State) : Prop := u = { s with permits := u.permits } ∧ used u slice = used s slice - 1 ∧ ∀ k, k ≠ slice → used u k = used s k
     ((∀ w ∈ s.permitWait, ¬ (w.1 = core ∧ wanted w = slice)) → ∃ t, exec (.memoryReply core slice) s = .next t ∧ back t) ∧
     ∀ l m w, s.permitWait = l ++ w :: m → (∀ x ∈ l, ¬ (x.1 = core ∧ wanted x = slice)) → w.1 = core → wanted w = slice →
       used s slice ≤ (if slice = 31 then 256 else 64) →
       ∃ u, back u ∧ exec (.memoryReply core slice) s = exec (.sliceRequest core w.2) { u with permitWait := l ++ m }) ∧
    (pa.toNat ∉ s.full → exec (.ldsyncWake pa) s = .next s) ∧
    (pa.toNat ∈ s.full → s.onMgmt = none → s.ring.active < s.ring.chunks.length →
      let mine : List Waiter := s.waiters.filter fun w => w.pa == pa
      let served (h : Hart) : Prop := ∃ (k : Nat) (w : Waiter), mine[k]? = some w ∧ w.ring = s.cur ∧ w.slot = h.slot ∧ ∀ q < k, ∀ v : Waiter, mine[q]? = some v → v.take = false
      ∃ t, exec (.ldsyncWake pa) s = .next t ∧ t.mem = s.mem ∧ t.waiters = s.waiters ∧ (chunksOf t).length = (chunksOf s).length ∧
        ∀ (i : Nat) (h : Hart), (chunksOf s)[i]? = some h →
          (h.park = .ldsync ∧ served h → (chunksOf t)[i]? = some { h with park := .stalled }) ∧
          (¬ (h.park = .ldsync ∧ served h) → (chunksOf t)[i]? = some h))

/-! ### Clocks and power (spec/22) -/

/-- The tokens that the span dies hold, and those in transit in a GRANT or a REPAY, counted modulo 1024 (R415). -/
def tokensHeld (s : State) : BitVec 10 := (allDies.map fun d => (s.die d).held).sum

/-- The tokens in transit (R415). -/
def tokensMoving (s : State) : BitVec 10 := (s.power.map fun m => match m with
  | .grant _ _ n => n
  | .repay _ _ n => n
  | _ => 0).sum

/-- R415 to R418: every power message, and a change of the power that a die wants, completes, neither makes nor destroys a token, keeps H − OWED +
LENT of every die, and changes nothing else; BORROW is granted above FLOOR or denied, and a lender that is left with less than it wants recalls; GRANT and REPAY raise H; RECALL is repaid; DENY asks the
next die, and after the seventh the die rests. A message that is not the next to arrive changes nothing (the model's choice, log 25), and a RECALL of more
than is owed is repaid up to what is owed (the model's reading, log 27). R412, R414, R416, R419, R422
and R423: a legal write of PWRCFG reaches both copies, an illegal one changes nothing; a droop trip is counted and the period stretched until
the sensor clears; a change of step ends; each microsecond a die asks abutment die 0 for its reference, and with die 0's request the module asks the root
module for the system's (that RTAG names the die is the model's choice, log 40); the cap at 105 °C, the shutdown at
115 °C, and the mark of a core for whose retirement a cause has come. -/
def Obligations.PowerEvents : Prop :=
  (∀ (s : State) (a b : BitVec 3) (n : BitVec 10) (rest : List PowerMsg),
     let floor := (s.mgmtAt 0).pwrFloor
     let ceil := (s.mgmtAt 0).pwrCeil
     let x := s.die b
     let wants (n : BitVec 10) : Nat := max floor.toNat (min ceil.toNat n.toNat)
     let put (d : BitVec 3) (y : Die) : State := { s with dies := s.dies.set d.toNat y d.isLt }
     let acts : List Instr := [.borrow a b n, .grant a b n, .deny a b, .repay a b n, .recall a b n, .wantedPowerChange a n, .borrowRetryExpiry a]
     (∀ i ∈ acts, ∃ t, exec i s = .next t ∧ t = { s with dies := t.dies, power := t.power } ∧
       tokensHeld t + tokensMoving t = tokensHeld s + tokensMoving s ∧
       ∀ d, (t.die d).held - (t.die d).owed + (t.die d).lent = (s.die d).held - (s.die d).owed + (s.die d).lent) ∧
     (∀ p ∈ ([(.borrow a b n, .borrow a b n), (.grant a b n, .grant a b n), (.deny a b, .deny a b), (.repay a b n, .repay a b n),
         (.recall a b n, .recall a b n)] : List (Instr × PowerMsg)),
       p.2 ∉ s.power ∨ (∃ l m, s.power = l ++ p.2 :: m ∧ p.2 ∉ l ∧ ∃ q ∈ l, ∃ k, q ∈ [PowerMsg.borrow a b k, .grant a b k, .deny a b, .repay a b k, .recall a b k]) →
       exec p.1 s = .next s) ∧
     (s.power = .borrow a b n :: rest →
       (x.owed = 0 → x.asking = none → floor < x.held →
         let m := if n < x.held - floor then n else x.held - floor
         let lent (y : Die) : Prop := y.held = x.held - m ∧ y.lent = x.lent + m ∧ y.owed = x.owed ∧ y.loans = x.loans ++ [(a, m)] ∧ y.step ≤ x.step
         (wants x.wanted ≤ (x.held - m).toNat →
           ∃ y : Die, exec (.borrow a b n) s = .next { put b y with power := rest ++ [.grant b a m] } ∧ lent y ∧ y.recalls = x.recalls) ∧
         ((x.held - m).toNat < wants x.wanted → x.available = true → x.lent = 0 → x.loans = [] → x.recalls = [] → m ≠ 0 →
           let k : BitVec 10 := BitVec.ofNat 10 (min (wants x.wanted - (x.held - m).toNat) m.toNat)
           ∃ y : Die, exec (.borrow a b n) s = .next { put b y with power := rest ++ [.grant b a m, .recall b a k] } ∧ lent y ∧ y.recalls = [(a, k)])) ∧
       (x.owed ≠ 0 ∨ x.asking ≠ none ∨ x.held ≤ floor → exec (.borrow a b n) s = .next { s with power := rest ++ [.deny b a] })) ∧
     (s.power = .grant a b n :: rest →
       let got := x.held + n
       let w := wants x.wanted
       let k : BitVec 10 := if n.toNat < got.toNat - w then n else BitVec.ofNat 10 (got.toNat - w)
       ∃ (y : Die) (l : List PowerMsg), exec (.grant a b n) s = .next { put b y with power := rest ++ l } ∧ y.lent = x.lent ∧ y.wanted = x.wanted ∧
         (x.available = false ∨ w = got.toNat ∨ w < got.toNat ∧ x.owed + n = 0 ∨ got.toNat < w ∧ x.lent = 0 ∧ (x.resting = true ∨ ceil ≤ got) →
           l = [] ∧ y.held = got ∧ y.owed = x.owed + n ∧ y.asking = none ∧ y.grants = x.grants ++ [(a, n)]) ∧
         (x.available = true → got.toNat < w → x.lent = 0 → x.resting = false → got < ceil → (s.die (b + 1)).available = true →
           l = [.borrow b (b + 1) (BitVec.ofNat 10 (min w ceil.toNat - got.toNat))] ∧ y.held = got ∧ y.owed = x.owed + n ∧ y.asking = some (b + 1) ∧
             y.grants = x.grants ++ [(a, n)]) ∧
         (x.available = true → w < got.toNat → x.owed + n ≠ 0 → x.grants = [] → n ≠ 0 →
           l = [.repay b a k] ∧ y.held = got - k ∧ y.owed = x.owed + n - k ∧ y.asking = none)) ∧
     (s.power = .repay a b n :: rest →
       let got := x.held + n
       let left := x.lent - n
       let w := wants x.wanted
       ∃ (y : Die) (l : List PowerMsg), exec (.repay a b n) s = .next { put b y with power := rest ++ l } ∧ y.lent = left ∧ y.wanted = x.wanted ∧
         (x.available = false ∨ w = got.toNat ∨ w < got.toNat ∧ x.owed = 0 ∨
             got.toNat < w ∧ left = 0 ∧ (x.asking ≠ none ∨ x.resting = true ∨ ceil ≤ got) →
           l = [] ∧ y.held = got ∧ y.owed = x.owed ∧ y.asking = x.asking ∧ y.grants = x.grants) ∧
         (x.available = true → got.toNat < w → left = 0 → x.asking = none → x.resting = false → got < ceil → (s.die (b + 1)).available = true →
           l = [.borrow b (b + 1) (BitVec.ofNat 10 (min w ceil.toNat - got.toNat))] ∧ y.held = got ∧ y.owed = x.owed ∧ y.asking = some (b + 1)) ∧
         (x.available = true → got.toNat < w → n < x.lent → x.loans = [(a, x.lent)] → x.recalls = [] →
           let k : BitVec 10 := BitVec.ofNat 10 (min (w - got.toNat) left.toNat)
           l = [.recall b a k] ∧ y.held = got ∧ y.owed = x.owed ∧ y.recalls = [(a, k)]) ∧
         (∀ (c : BitVec 3) (g : BitVec 10), x.available = true → w < got.toNat → x.owed ≠ 0 → x.grants = [(c, g)] → g ≠ 0 →
           let k : BitVec 10 := if g.toNat < got.toNat - w then g else BitVec.ofNat 10 (got.toNat - w)
           l = [.repay b c k] ∧ y.held = got - k ∧ y.owed = x.owed - k)) ∧
     (s.power = .recall a b n :: rest →
       ((∀ p ∈ x.grants, p.1 ≠ a) → exec (.recall a b n) s = .next { s with power := rest }) ∧
       ∀ k : BitVec 10, x.grants = [(a, k)] → n ≠ 0 → k ≠ 0 →
         let m := if n < k then n else k
         ∃ y : Die, exec (.recall a b n) s = .next { put b y with power := rest ++ [.repay b a m] } ∧ y.held = x.held - m ∧ y.owed = x.owed - m ∧
           y.lent = x.lent ∧ y.step ≤ x.step) ∧
     (s.power = .deny a b :: rest → x.lent = 0 → x.held.toNat < wants x.wanted →
       (x.denies = 6 → exec (.deny a b) s = .next { put b { x with asking := none, denies := 7, resting := true } with power := rest }) ∧
       (x.denies ≠ 6 → (s.die (b + 2 + x.denies)).available = true → b + 2 + x.denies ≠ b → x.denies ≠ 7 →
         exec (.deny a b) s = .next { put b { x with asking := some (b + 2 + x.denies), denies := x.denies + 1 } with
           power := rest ++ [.borrow b (b + 2 + x.denies) (BitVec.ofNat 10 (min (wants x.wanted) ceil.toNat - x.held.toNat))] })) ∧
     (x.available = true → x.held.toNat < wants n →
       (x.lent = 0 → x.asking = none → x.resting = false → x.held < ceil → (s.die (b + 1)).available = true →
         exec (.wantedPowerChange b n) s = .next { put b { x with wanted := n, asking := some (b + 1), denies := 0 } with
           power := s.power ++ [.borrow b (b + 1) (BitVec.ofNat 10 (min (wants n) ceil.toNat - x.held.toNat))] }) ∧
       (x.lent ≠ 0 → x.recalls = [] → x.loans = [(a, x.lent)] →
         let m : BitVec 10 := BitVec.ofNat 10 (min (wants n - x.held.toNat) x.lent.toNat)
         exec (.wantedPowerChange b n) s = .next { put b { x with wanted := n, recalls := [(a, m)] } with power := s.power ++ [.recall b a m] })) ∧
     exec (.borrowRetryExpiry b) s = (if x.resting then exec (.wantedPowerChange b x.wanted) (put b { x with resting := false, denies := 0 }) else .next s)) ∧
  (∀ (s : State) (c : BitVec 1) (v : Word) (d : BitVec 3) (k : BitVec 2) (p : BitVec 5),
     let x := s.die d
     let put (y : Die) : State := { s with dies := s.dies.set d.toNat y d.isLt }
     let floor : BitVec 10 := v.extractLsb' 0 10
     let ceil : BitVec 10 := v.extractLsb' 16 10
     (floor.toNat ≤ 420 → 420 ≤ ceil.toNat → ∃ t, exec (.pwrcfgWrite c v) s = .next t ∧
       t = { s with mgmt := t.mgmt, dies := t.dies, power := t.power } ∧
       (∀ e, t.mgmtAt e = { s.mgmtAt e with pwrFloor := floor, pwrCeil := ceil, pwrBoost := v.getLsbD 32 }) ∧
       tokensHeld t + tokensMoving t = tokensHeld s + tokensMoving s) ∧
     (420 < floor.toNat ∨ ceil.toNat < 420 → exec (.pwrcfgWrite c v) s = .next s) ∧
     exec (.droopTrip d) s = .next (put { x with droop := x.droop + 1, stretched := true }) ∧
     exec (.droopClear d) s = .next (put { x with stretched := false }) ∧
     (∀ st, x.target = some st → exec (.clockStepDone d) s = .next (put { x with step := st, target := none })) ∧
     (x.target = none → exec (.clockStepDone d) s = .next s) ∧
     (∃ l m : List Packet, exec (.timeSyncTick d) s = .next { s with heldOut := s.heldOut ++ l ++ m } ∧ (x.available = false → l = []) ∧
       (x.available = true → ∃ p, l = [p] ∧ p.kind = 12 ∧ p.tc = 0 ∧ p.resp = false ∧ p.smod = s.module ∧ p.dmod = s.module ∧ clockDie s.module p = some d ∧
         p.payload.head? = some 0) ∧
       (d ≠ 0 ∨ systemRoot s = s.module → m = []) ∧
       (d = 0 → systemRoot s ≠ s.module → ∃ p, m = [p] ∧ p.kind = 12 ∧ p.resp = false ∧ p.smod = s.module ∧ p.dmod = systemRoot s ∧ p.payload.head? = some 0)) ∧
     exec (.thermalCap d) s = .next (put { x with capped := true, step := 0, target := none }) ∧
     exec .thermalShutdown s = .next { s with mode := .off, host := .fault .thermal :: s.host } ∧
     ((d, k, p) ∉ s.retireDue → exec (.coreRetirementMark d k p) s = .next s) ∧
     ((d, k, p) ∈ s.retireDue → ∃ l m, exec (.coreRetirementMark d k p) s = .next { s with repair := l, retireDue := m } ∧
       (∀ y, y ∈ l ↔ y ∈ s.repair ∨ y = (d, k, p)) ∧ ∀ y, y ∈ m ↔ y ∈ s.retireDue ∧ y ≠ (d, k, p)))

/-! ### Control registers and links (spec/23 R427 to R429, R440 to R448; spec/25 R480) -/

/-- A link in recovery: it is down, the module is in deflection mode, and where there is another module one packet goes out to tell them all, under
the next number of the module's floods (R442, R443). -/
def recovers (s : State) (i : BitVec 5) (t : State) : Prop :=
  t = { s with links := t.links, heldOut := t.heldOut, defl := true, floodSeq := t.floodSeq } ∧
    t.link i.toNat = { s.link i.toNat with up := false, recov := true } ∧ (∀ m, m ≠ i.toNat → t.link m = s.link m) ∧
    ∀ m ∈ s.present, m ≠ s.module → t.floodSeq = s.floodSeq + 1 ∧
      ∃ p, t.heldOut = s.heldOut ++ [p] ∧ p.kind = 12 ∧ p.resp = false ∧ p.smod = s.module ∧ p.pseq = s.floodSeq ∧ p.payload.head? = some 4

/-- R7, R288, R420, R440, R448 and R480: an 8-byte write reaches the register at its address, and a table word takes it whether it comes as a
register write or as an access-table store; RO fields and group tables discard it; at an address of a die's control half for which the spec
gives no register nothing is written (the model's reading, log 83). R427 to R429, R440, R442 and R446 to R448: a link sends kept frames again, bit
for bit, before it sends a new one, and keeps at most 128; a received frame is checked in order, its trailer applied once, a failing one answered with NAK, and a duplicate
discarded; the sixteenth failure of the frame that is awaited (that the awaited one alone is counted is the model's choice, log 40), the loss of a lane's lock and the limit of a key's use start recovery; a retrained
link sends its kept frames again, and one that does not retrain is failed: its packets take the link of least load, and it reports the last frame
that it accepted (the measure of load and the form of the report are log 40); NEWKEY keys the idle slots, and RETIRE stands in every frame until the slot is
loaded again. A write that is not aligned or names another module changes nothing (logs 25 and 79). -/
def Obligations.ControlAndLinks : Prop :=
  (∀ (s : State) (d : BitVec 3) (a : BitVec 1) (v : Word) (k : Nat),
     let at_ (d : BitVec 3) (off : Nat) : BitVec 56 := s.module ++ 1#1 ++ d ++ 0#6 ++ 1#1 ++ BitVec.ofNat 31 off
     let fab (off : Nat) : BitVec 56 := at_ 0 (0x60000000 + 0x10000000 * a.toNat + off)
     let w (pa : BitVec 56) : Host.Outcome State Fault Refusal := exec (.registerWrite pa v) s
     let link (l : Link) : Link := { l with replays := v.extractLsb' 16 16 }
     w (at_ d 0x40000000) = .next s ∧ w (at_ d 0x40000010) = .next s ∧
     w (at_ d 0x40000008) = .next { s with dies := s.dies.set d.toNat { s.die d with cestat := v } d.isLt } ∧
     (s.ctl.Pairwise (fun p q => p.1 < q.1) →
       ∀ p : BitVec 56, (k < 0x400 ∧ p = at_ d (0x41000000 + 8 * k)) ∨ (k < 0x4000 ∧ p = at_ d (0x42000000 + 8 * k)) ∨
           (k < 0x1000 ∧ p = fab (0x100000 + 8 * k)) ∨ (k < 0x2400 ∧ p = fab (0x300000 + 8 * k)) ∨ (k < 0x4000 ∧ p = fab (0x400000 + 8 * k)) →
         ∀ i ∈ [Instr.registerWrite p v, .accessTableStore p v], ∃ l : List (Nat × Word), exec i s = .next { s with ctl := l } ∧
           l.Pairwise (fun p q => p.1 < q.1) ∧ ∀ q, (lookupKey l q).getD 0 = if q = p.toNat then v else (lookupKey s.ctl q).getD 0) ∧
     (k < 9 → w (fab (0x100 * k)) = if v.getLsbD 4 then exec (.linkctlNewkey (BitVec.ofNat 5 (9 * a.toNat + k))) (s.modLink (9 * a.toNat + k) link)
       else .next (s.modLink (9 * a.toNat + k) link)) ∧
     w (fab 0x1000) = exec (.fabcfgFlowgapWrite (v.extractLsb' 0 16)) s ∧
     w (fab 0x1008) = .next { s with badpkt := s.badpkt.set a.toNat (v.extractLsb' 0 32) a.isLt
                                     deflect := s.deflect.set a.toNat (v.extractLsb' 32 32) a.isLt } ∧
     (k < 0x4000 → w (fab (0x200000 + 8 * k)) = .next s ∧ w (at_ d (0x45200000 + 8 * k)) = .next s) ∧
     (k < 0x80000 → memoryWf s → ∃ t, w (fab (0x8000000 + 8 * k)) = .next t ∧ t = { s with mem := t.mem, bad := t.bad, released := t.released } ∧
       ∀ q, memGet t.mem q = if (fab (0x8000000 + 8 * k)).toNat ≤ q ∧ q < (fab (0x8000000 + 8 * k)).toNat + 8
         then BitVec.ofNat 8 (v.toNat / 256 ^ (q - (fab (0x8000000 + 8 * k)).toNat)) else memGet s.mem q) ∧
     (0x40000018 ≤ 8 * k → 8 * k < 0x41000000 → w (at_ d (8 * k)) = .next s) ∧
     (∀ pa : BitVec 56, pa.toNat % 8 ≠ 0 ∨ pa.extractLsb' 42 14 ≠ s.module ∨ pa.getLsbD 41 = false ∨ pa.getLsbD 31 = false →
       exec (.registerWrite pa v) s = .next s ∧ exec (.accessTableStore pa v) s = .next s)) ∧
  (∀ (s : State) (i : BitVec 5) (f g : Frame) (rest : List Frame) (gap : BitVec 16) (last : BitVec 32),
     let n := i.toNat
     let l := s.link n
     let up : Prop := l.up = true ∧ l.recov = false ∧ l.failed = false
     let put (x : Link) : State := s.modLink n fun _ => x
     let recovery (i : Instr) (j : BitVec 5) : Prop := ∃ t, exec i s = .next t ∧ recovers s j t
     let worn : Prop := 2 ^ 31 ≤ l.keyUse + 1
     let next : Prop := f.fseq = l.rxSeq + 1
     let failing : State := put { l with sendNak := true, failures := if next then l.failures + 1 else l.failures }
     let tagsPass : Prop := tagPasses n l f 0 = true ∧ tagPasses n l f 1 = true
     let idle : BitVec 1 := l.ksel + 1
     exec (.fabcfgFlowgapWrite gap) s = .next (if gap.toNat < 401 then s else { s with flowgap := gap }) ∧
     (¬ up → exec (.frameSend i) s = .next s ∧ exec (.laneLockLoss i) s = .next s ∧ exec (.keyUseLimit i) s = .next s) ∧
     (¬ worn → exec (.keyUseLimit i) s = .next s) ∧
     (up → recovery (.laneLockLoss i) i ∧ (worn → recovery (.keyUseLimit i) i ∧ (l.resend = [] → recovery (.frameSend i) i)) ∧
       (l.resend = g :: rest → ∃ c : BitVec 16, exec (.frameSend i) s = .next { put { l with resend := rest, replays := c } with frames := s.frames ++ [(i, g)] } ∧
         c.toNat = min (l.replays.toNat + 1) 65535) ∧
       (l.resend = [] → ¬ worn → 128 ≤ l.kept.length → exec (.frameSend i) s = .next s) ∧
       (l.resend = [] → ¬ worn → l.kept.length < 128 → ∃ (x : Frame) (m : Link), exec (.frameSend i) s = .next { put m with frames := s.frames ++ [(i, x)] } ∧
         x.fseq = l.txSeq ∧ x.ackseq = l.rxSeq ∧ x.nak = l.sendNak ∧ x.kready = l.kready ∧ x.credit = l.freed ∧ x.slots.length = 16 ∧ x.crc = crc32 x.body ∧
         (∀ r : BitVec 1, (if r = 0 then x.retire0 else x.retire1) = true → r = idle ∧ l.retire.getLsbD r.toNat = true) ∧
         (∀ j < 16, x.valid.getLsbD j = false → x.slots.getD j 0 = 0) ∧ (∀ j < 16, x.valid.getLsbD j = true → x.kidx.getLsbD j = (l.ksel == 1)) ∧
         m.kept = l.kept ++ [x] ∧ m.txSeq = l.txSeq + 1 ∧ m.sendNak = false ∧ m.keyUse = l.keyUse + 1 ∧ m.rxSeq = l.rxSeq ∧ m.rxKeys = l.rxKeys)) ∧
     (l.up = false → exec (.frameReceive i f) s = .next s) ∧
     (l.up = true → crc32 f.body ≠ f.crc ∨ (next ∧ ¬ tagsPass) ∨ (0 < (f.fseq - l.rxSeq).toInt ∧ ¬ next) →
       (l.failures < 15 → exec (.frameReceive i f) s = .next failing) ∧ (l.failures = 15 → ¬ next → exec (.frameReceive i f) s = .next failing) ∧
       (15 ≤ l.failures → next → up → ∃ t, exec (.frameReceive i f) s = .next t ∧ recovers failing i t)) ∧
     (l.up = true → crc32 f.body = f.crc → (f.fseq - l.rxSeq).toInt ≤ 0 → exec (.frameReceive i f) s = .next s) ∧
     (l.up = true → crc32 f.body = f.crc → next → tagsPass → f.valid = 0 → l.rxFlits = [] → ∃ m : Link, exec (.frameReceive i f) s = .next (put m) ∧
       m.rxSeq = f.fseq ∧ m.failures = 0 ∧ (∀ y, y ∈ m.kept ↔ y ∈ l.kept ∧ 0 < (y.fseq - f.ackseq).toInt) ∧ (f.nak = true → m.resend = m.kept) ∧
       (f.kready = false → m.ksel = l.ksel) ∧
       (∀ a b, f.kready = true → l.txKeys[idle.toNat]'idle.isLt = some a → l.txKeys[l.ksel.toNat]'l.ksel.isLt = some b → b < a → m.ksel = idle) ∧
       m.rxKeys[0] = (if f.retire0 && l.holdsOld 0 then none else l.rxKeys[0]) ∧ m.rxKeys[1] = (if f.retire1 && l.holdsOld 1 then none else l.rxKeys[1]) ∧
       (f.retire0 && l.holdsOld 0 || f.retire1 && l.holdsOld 1 → m.rot = false)) ∧
     (l.recov = false → exec (.linkRetrained i) s = .next s ∧ exec (.linkRecoveryTimeout i last) s = .next s) ∧
     (l.recov = true →
       (∃ t, exec (.linkRetrained i) s = .next t ∧
         t = { s with links := t.links, heldOut := t.heldOut, defl := t.defl, flows := t.flows, recovering := t.recovering, floodSeq := t.floodSeq } ∧
         t.link n = { l with recov := false, up := true, failures := 0, resend := l.kept } ∧ ∀ m, m ≠ n → t.link m = s.link m) ∧
       ∃ t, exec (.linkRecoveryTimeout i last) s = .next t ∧ ((∃ j < 18, linkUp s j = true) ∨ (l.kept = [] ∧ l.out = []) →
         t = { s with links := t.links, heldOut := t.heldOut, defl := t.defl, flows := t.flows, recovering := t.recovering, floodSeq := t.floodSeq
                      linkReports := s.linkReports ++ [(i, l.rxSeq)] } ∧
         t.link n = { l with recov := false, up := false, failed := true, kept := [], resend := [], out := [] } ∧
         (l.kept = [] → ∀ j < 18, linkUp s j = true → (∀ k < 18, linkUp s k = true → queuedFlits s j ≤ queuedFlits s k ∧ (k < j → queuedFlits s j < queuedFlits s k)) →
           (t.link j).out = (s.link j).out ++ l.out.map fun b => atOutput j b.pkt (switchTime s)))) ∧
     (18 ≤ n → exec (.linkctlNewkey i) s = .next s) ∧
     (n < 18 → l.rot = true → exec (.linkctlNewkey i) s = .next s) ∧
     (n < 18 → l.rot = false → ∃ m : Link, exec (.linkctlNewkey i) s = .next (put m) ∧ m.rot = true ∧ m.kready = true ∧ m.newkey = false ∧ m.ksel = l.ksel ∧
       (m.txKeys[idle.toNat]'idle.isLt).isSome = true ∧ (m.rxKeys[idle.toNat]'idle.isLt).isSome = true ∧
       m.txKeys[l.ksel.toNat]'l.ksel.isLt = l.txKeys[l.ksel.toNat]'l.ksel.isLt ∧ m.rxKeys[l.ksel.toNat]'l.ksel.isLt = l.rxKeys[l.ksel.toNat]'l.ksel.isLt))

/-! ### Packets (spec/23 R431 to R434, R443, R444; spec/14 R287, R288) -/

/-- Some entry of an access table grants a request, field by field; one that grants host access has ANYRING = 1 (R287, R288, R472). -/
def granted (s : State) (table : Nat) (jid : BitVec 16) (module : BitVec 14) (ring : BitVec 6) (pa n : Nat) (read write host : Bool) : Prop :=
  ∃ e < 256,
    let w (k : Nat) : Word := (lookupKey s.ctl (table + 32 * e + 8 * k)).getD 0
    (w 0).getLsbD 0 = true ∧ (read = true → (w 0).getLsbD 1 = true) ∧ (write = true → (w 0).getLsbD 2 = true) ∧
      ((w 0).getLsbD 3 = true ∨ (host = false ∧ (w 0).extractLsb' 32 6 = ring)) ∧ ((w 0).getLsbD 4 = true ∨ (w 0).extractLsb' 38 14 = module) ∧
      (w 0).extractLsb' 16 16 = jid ∧ (w 1).toNat ≤ pa ∧ pa + n ≤ (w 2).toNat ∧ (w 0).extractLsb' 5 11 = 0 ∧ (w 0).extractLsb' 52 12 = 0 ∧
      (w 1).extractLsb' 56 8 = 0 ∧ (w 2).extractLsb' 56 8 = 0 ∧ w 3 = 0

/-- R287, R288, R317, R431, R432 and R434: a request of another module to the memory of an available die, outside the fabric reserve, is performed
where the table of the Trestle port it came by and that of the slice group grant it, and denied where one does not; its response starts at the
switch where it ended, and carries the TIME of a release that supplied its bytes; a message draws 5, 4 or 2. R250, R332, R333, R439, R442 and R432: a
response closes its request in its flow and reaches the access, message or strip that awaits it; one with a reserved STATUS is discarded and
counted on the abutment die of its path. (TIME and the level of a request travel beside the header: log 41, 42.) -/
def Obligations.PacketResults : Prop :=
  (∀ (s : State) (p : Packet) (pa n : Nat) (data : List Byte), memoryWf s → s.ctl.Pairwise (fun a b => a.1 < b.1) → pa < 2 ^ 56 →
     paModule pa = s.module → pa.testBit 41 = false → p.resp = false →
     let die : BitVec 3 := BitVec.ofNat 3 (pa / 2 ^ 38)
     (s.die die).available = true → (p.upath.extractLsb' 1 4 : BitVec 4).toNat < 9 → die ≠ 0 ∨ pa % 2 ^ 38 + n ≤ 0x3FAB800000 →
     let abut : BitVec 1 := p.upath.extractLsb' 0 1
     let ctl (d off : Nat) : Nat := s.module.toNat * 2 ^ 42 + 2 ^ 41 + d * 2 ^ 38 + 2 ^ 31 + off
     let free : Prop := p.exempt = true ∨ p.tc = 0
     let enters (r w : Bool) : Prop := free ∨
       granted s (ctl 0 (0x60300000 + 0x10000000 * abut.toNat + 0x2000 * (p.upath.extractLsb' 1 4 : BitVec 4).toNat)) p.jid p.smod p.sring pa n r w false
     let grants (r w : Bool) : Prop := enters r w ∧ (free ∨ granted s (ctl die.toNat 0x41000000) p.jid p.smod p.sring pa n r w false)
     let response (at_ : SwitchId × BitVec 5) (st : BitVec 4) (d : List Byte) (time : Word) (t : State) : State := arrive t at_.1 at_.2
       { p with kind := p.kind + 1, resp := true, ord := false, dmod := p.smod, smod := s.module, age := 0, status := st, payload := d, time := time
                exempt := false, waits := false }
     let reply : BitVec 4 → List Byte → Word → State → State := response (.l1 die, 8)
     let denied (r w : Bool) (i : Instr) : Prop := (¬ enters r w → exec i s = .next (response (.l2 abut, 13) 1 [] 0 s)) ∧
       (enters r w → ¬ grants r w → exec i s = .next (reply 1 [] 0 s))
     let here : List Byte := (List.range n).map fun i => memGet s.mem (pa + i)
     let old : Nat := ∑ i ∈ Finset.range n, 256 ^ i * (memGet s.mem (pa + i)).toNat
     let gets (i : Instr) : Prop := s.bad = [] → ∃ t, cached s t ∧ exec i s = .next (reply 0 here (carriedTime s pa n) t)
     let stored (v : Nat → Byte) (t : State) : Prop :=
       t = { s with mem := t.mem, bad := t.bad, released := t.released, lines := t.lines, l1 := t.l1, through := t.through } ∧
       ∀ q, memGet t.mem q = if pa ≤ q ∧ q < pa + n then v (q - pa) else memGet s.mem q
     let puts (i : Instr) : Prop := s.bad = [] → ∃ t, exec i s = .next (reply 0 [] 0 t) ∧ stored (fun i => data.getD i 0) t ∧
       ∀ q, pa ≤ q → q < pa + n → lookupKey t.released q = if p.ord = true then some p.time else none
     let addr : List Byte := (List.range 8).map fun i => BitVec.ofNat 8 (pa / 256 ^ i)
     let word (v : Word) : List Byte := (List.range 8).map fun i => BitVec.ofNat 8 (v.toNat / 256 ^ i)
     (p.kind = 0 → n ≤ 64 → p.payload = addr ++ [BitVec.ofNat 8 n] → denied true false (.readPacket p) ∧
       (grants true false → anyBad s pa n = true → exec (.readPacket p) s = .next (reply 3 [] 0 s)) ∧ (grants true false → gets (.readPacket p))) ∧
     (p.kind = 2 → data.length = n → p.payload = addr ++ data → denied false true (.writePacket p) ∧ (grants false true → puts (.writePacket p))) ∧
     (∀ (code : Nat) (y e : Word), p.kind = 4 → code < 10 → n = 4 ∨ n = 8 →
       p.payload = addr ++ [BitVec.ofNat 8 code, BitVec.ofNat 8 n, 0, 0, 0, 0, 0, 0] ++ word y ++ word e →
       let a := y.toNat % 2 ^ (8 * n)
       let new : Nat := match code with
         | 0 => (old + a) % 2 ^ (8 * n)
         | 1 => old &&& a
         | 2 => old ||| a
         | 3 => old ^^^ a
         | 4 => if (BitVec.ofNat (8 * n) old).sle (BitVec.ofNat (8 * n) a) then old else a
         | 5 => if (BitVec.ofNat (8 * n) old).sle (BitVec.ofNat (8 * n) a) then a else old
         | 6 => min old a
         | 7 => max old a
         | 8 => a
         | _ => if old = e.toNat % 2 ^ (8 * n) then a else old
       denied true true (.atomicPacket p) ∧
       (grants true true → anyBad s pa n = true → exec (.atomicPacket p) s = .next (reply 3 [] 0 s)) ∧
       (grants true true → s.bad = [] → ∃ t, exec (.atomicPacket p) s = .next (reply 0 (word (BitVec.ofNat 64 old)) (carriedTime s pa n) t) ∧
         stored (fun i => BitVec.ofNat 8 (new / 256 ^ i)) t ∧
         ∀ q, pa ≤ q → q < pa + n → lookupKey t.released q = if p.ord = true then some p.time else none)) ∧
     (p.kind = 8 → p.payload = addr ++ [0, 0, BitVec.ofNat 8 n, BitVec.ofNat 8 (n / 256), 0, 0, 0, 0] → n ≤ 256 →
       denied true false (.stripPacket p) ∧ (grants true false → gets (.stripPacket p))) ∧
     (p.kind = 8 → data.length = n → n ≤ 256 → p.payload = addr ++ [1, 0, BitVec.ofNat 8 n, BitVec.ofNat 8 (n / 256), 0, 0, 0, 0] ++ data →
       denied false true (.stripPacket p) ∧ (grants false true → puts (.stripPacket p))) ∧
     ∀ dest hdr : Word, p.kind = 6 → p.payload = word dest ++ word hdr ++ data →
       let msg : Message := { dest := dest, hdr := hdr, payload := data, time := p.time }
       (∀ t, offerHere s msg = .accepted t → exec (.messagePacket p) s = .next (response (sinkOf t p) 5 [] 0 t)) ∧
       (offerHere s msg = .refused → exec (.messagePacket p) s = .next (response (sinkOf s p) 4 [] 0 s)) ∧
       (offerHere s msg = .absent → exec (.messagePacket p) s = .next (response (sinkOf s p) 2 [] 0 s))) ∧
  (∀ (s : State) (p q : Packet) (f : Flow) (o : OutMsg) (j : BitVec 3) (k : Nat) (va : Word),
     let data : List Instr := [.readResponsePacket p, .writeResponsePacket p, .atomicResponsePacket p]
     let all : List Instr := data ++ [.messageResponsePacket p, .stripResponsePacket p]
     let abut : BitVec 1 := p.upath.extractLsb' 0 1
     let closed : List Flow := s.flows.map fun (f : Flow) =>
       let rest : List Packet := f.open_.filter fun q => q.rtag != p.rtag
       if rest.length < f.open_.length then
         { f with open_ := rest, defl := f.defl && !rest.isEmpty, slowUntil := if p.slow then (s.die 0).count + 100000 else f.slowUntil }
       else f
     let n := q.sring
     let sl := s.hart.slotAt j
     (6 ≤ p.status.toNat → ∀ i ∈ all, ∃ c : BitVec 32, exec i s = .next { s with badpkt := s.badpkt.set abut.toNat c abut.isLt } ∧
       c.toNat = min ((s.badpkt[abut.toNat]'abut.isLt).toNat + 1) (2 ^ 32 - 1)) ∧
     (p.status.toNat < 6 → ∀ i ∈ data, ∃ t, exec i s = .next t ∧ t.flows = closed ∧ t.mem = s.mem ∧ t.hart.sc = s.hart.sc ∧
       t.hart.remote.length = s.hart.remote.length ∧ ∀ (k : Nat) (w : RemoteWait), s.hart.remote[k]? = some w →
         t.hart.remote[k]? = some (if w.rtag = p.rtag ∧ w.reply = none then { w with reply := some (p.status, p.payload), time := p.time } else w)) ∧
     (p.status.toNat < 6 → s.flows = [f] → f.open_ = [q] → q.rtag = p.rtag → o.sent = true → (s.ringAt n).outbound = [o] →
       q.payload = (List.range 8).map (fun i => BitVec.ofNat 8 (o.msg.dest.toNat / 256 ^ i)) ++
         (List.range 8).map (fun i => BitVec.ofNat 8 (o.msg.hdr.toNat / 256 ^ i)) ++ o.msg.payload →
       (p.status = 5 → exec (.messageResponsePacket p) s = .next ({ s with flows := closed }.modRingAt n fun r => { r with outbound := [] })) ∧
       (p.status = 4 → exec (.messageResponsePacket p) s = .next ({ s with flows := closed }.modRingAt n fun r =>
         { r with outbound := [{ o with sent := false, waiting := true, refusals := o.refusals + 1 }] })) ∧
       (p.status = 2 → offerBack { s with flows := closed } o.msg = .absent →
         exec (.messageResponsePacket p) s = .next ({ s with flows := closed }.modRingAt n fun r => { r with outbound := [] }))) ∧
     (p.status.toNat < 6 → ∃ t, exec (.stripResponsePacket p) s = .next t ∧ t.flows = closed ∧ t.mem = s.mem ∧
       (sl.awaits = [(p.rtag, k, va)] →
         let error : Option (BitVec 8) := if p.status = 1 ∨ p.status = 2 then some 0x07 else if p.status = 3 then some 0x0F else none
         t.hart.slotAt j = { sl with awaits := [], denied := match error, sl.denied with
           | some c, some d => if k < d.1 then some (k, c, va) else some d
           | some c, none => some (k, c, va)
           | none, d => d }) ∧
       (sl.awaits = [] → t.hart.slotAt j = sl)))

/-- R405, R414, R426, R431, R435, R439 and R442 to R444: the control packets, with the first copy of a flooded one passed on by every other link that is
up (the form of the copies is the model's choice, log 71), and later copies dropped; a time request of a die or a module is answered with the reference; the
reference is stepped forward or held once, and then slewed, as each die's count is, half a nanosecond a reply, and never stepped back. A switch sends a
packet on to the next switch of its way where that has room; where it ends, a read is performed; one for another module leaves by the link of its path, or is
deflected by a free port where that is down or busy in deflection mode, and a request to a module that is not present is answered with STATUS 2; a reserved
KIND is discarded and counted; one that was held for more than 40 ns sets SLOW, by the count of die 0 (the model's reading, log 82). -/
def Obligations.ControlPackets : Prop :=
  (∀ (s : State) (w : SwitchId) (p : Packet),
    let j : BitVec 16 := BitVec.ofNat 16 (∑ i ∈ Finset.range 2, 256 ^ i * (p.payload.getD (8 + i) 0).toNat)
    let m : BitVec 14 := BitVec.ofNat 14 (∑ i ∈ Finset.range 2, 256 ^ i * (p.payload.getD (8 + i) 0).toNat)
    let v : Word := BitVec.ofNat 64 (∑ i ∈ Finset.range 8, 256 ^ i * (p.payload.getD (8 + i) 0).toNat)
    let came := 9 * (p.upath.extractLsb' 0 1 : BitVec 1).toNat + (p.upath.extractLsb' 1 4 : BitVec 4).toNat
    let word (v : Nat) : List Byte := (List.range 8).map fun i => BitVec.ofNat 8 (v / 256 ^ i)
    let seen : Bool := (s.switchOf (.l2 0)).seen.contains (p.smod, p.pseq)
    let flood (i : Instr) (f : State → State) : Prop := (seen = true → exec i s = .next s) ∧
      (seen = false → ∃ t, exec i s = .next t ∧ t = { f s with switches := t.switches, links := t.links, fabOut := t.fabOut } ∧
        (∀ k < 18, (t.link k).out = if linkUp s k = true ∧ k ≠ came then (s.link k).out ++ [atOutput k p (switchTime s)] else (s.link k).out) ∧
        ∀ z, (∃ x ∈ s.switches, x.id = z) → (p.smod, p.pseq) ∈ (t.switchOf z).seen)
    let beat (m : BitVec 14) : State := { s with heldOut := s.heldOut ++ [{ kind := 12, tc := 0, ord := false, resp := false, dmod := m, smod := s.module
                                                                            sring := 0, upath := 0, slow := false, age := 0, jid := 0, pseq := 0
                                                                            status := 0, rtag := 0, payload := word 6 ++ word s.reference.toNat
                                                                            time := 0 }] }
    let reply : Instr := .timeReply p
    let slews (c b : Word) (h : Option Bool) (c' b' : Word) (h' : Option Bool) : Prop :=
      (c - b = v → c' = c ∧ b' = b ∧ h' = none) ∧
      (c - b < v → (h = some true → h' = none ∧ (b = 0 → c' = c + 1 ∧ b' = 0) ∧ (b ≠ 0 → c' = c ∧ b' = b - 1)) ∧
        (h ≠ some true → c' = c ∧ b' = b ∧ h' = some true)) ∧
      (v < c - b → c' = c ∧ (h = some false → b' = b + 1 ∧ h' = none) ∧ (h ≠ some false → b' = b ∧ h' = some false))
    (16 ≤ p.payload.length →
      (clockDie s.module p = none → ∃ r, exec (.timeRequest p) s = .next { s with heldOut := s.heldOut ++ [r] } ∧ r.kind = 12 ∧ r.dmod = p.smod ∧
        r.smod = s.module ∧ r.tc = 0 ∧ r.payload = word 1 ++ word s.reference.toNat) ∧
      (∀ d, clockDie s.module p = some d → ∃ r, exec (.timeRequest p) s = .next (arrive s (.l2 0) 13 r) ∧ r.kind = 12 ∧ r.dmod = s.module ∧
        r.smod = s.module ∧ r.tc = 0 ∧ r.rtag = p.rtag ∧ r.payload = word 1 ++ word (s.reference - s.refBack).toNat) ∧
      (∀ d, clockDie s.module p = some d → ∃ y : Die, exec reply s = .next { s with dies := s.dies.set d.toNat y d.isLt } ∧
        y = { s.die d with count := y.count, back := y.back, half := y.half } ∧ slews (s.die d).count (s.die d).back (s.die d).half y.count y.back y.half) ∧
      (clockDie s.module p = none → s.joined = false → anyStrand s = false → ∃ t, exec reply s = .next t ∧
        t = { s with reference := t.reference, refBack := t.refBack, joined := true, dies := t.dies } ∧ ∀ d,
        (s.reference ≤ v → t.reference = v ∧ t.refBack = s.refBack ∧
          t.die d = { s.die d with count := if (s.die d).count < v then v else (s.die d).count }) ∧
        (v < s.reference → t.reference = s.reference ∧ t.refBack = s.reference - v ∧
          t.die d = { s.die d with back := if v < (s.die d).count then (s.die d).count - v else (s.die d).back })) ∧
      (clockDie s.module p = none → s.joined = true ∨ anyStrand s = true → ∃ t, exec reply s = .next t ∧
        t = { s with reference := t.reference, refBack := t.refBack, refHalf := t.refHalf } ∧
        slews s.reference s.refBack s.refHalf t.reference t.refBack t.refHalf) ∧
      flood (.debugPause p) (fun s => { s with paused := if s.paused.contains (j, p.smod) then s.paused else s.paused ++ [(j, p.smod)] }) ∧
      flood (.debugThaw p) (fun s => { s with paused := s.paused.filter (· ≠ (j, p.smod)) }) ∧
      flood (.deflectionEntry w p) (fun s => { s with
        defl := true, recovering := if m = s.module ∨ m ∈ s.recovering then s.recovering else s.recovering ++ [m] })) ∧
    flood (.flowletReturn w p) (fun s => { s with
      defl := false, recovering := [], flows := s.flows.map fun (f : Flow) => { f with defl := f.defl || (s.defl && !f.open_.isEmpty) } }) ∧
    (∃ l, exec (.heartbeat p) s = .next { s with heard := l } ∧ lookupKey l p.smod = some s.reference ∧ ∀ m, m ≠ p.smod → lookupKey l m = lookupKey s.heard m) ∧
    (∀ r ∈ s.present, (∀ m ∈ s.present, r ≤ m ∧ m.toNat < 8192) → s.module ∈ s.present →
      (r ≠ s.module → exec .heartbeatSendTick s = .next (beat r)) ∧
      (r = s.module → ((∀ m ∈ s.present, m = r) → exec .heartbeatSendTick s = .next s) ∧
        ∀ o ∈ s.present, o ≠ r → (∀ m ∈ s.present, m ≠ r → o ≤ m) → exec .heartbeatSendTick s = .next (beat o)))) ∧
  (∀ (s : State) (w : SwitchId) (port : BitVec 5) (chan : BitVec 3) (b : Buffered),
    let i : Instr := .packetForward w port chan
    let p := b.pkt
    let abut : BitVec 1 := p.upath.extractLsb' 0 1
    ((∀ x ∈ (s.switchOf w).buf ++ (s.switchOf w).overflow, x.port ≠ port ∨ x.chan ≠ chan) → exec i s = .next s) ∧
    ((∃ x ∈ s.switches, x.id = w) → (∀ x ∈ s.switches, x.id = w → x = s.switchOf w ∧ x.buf = [b] ∧ x.overflow = [] ∧ x.groups = []) → b.port = port → b.chan = chan →
      (∀ a, w = .l2 a → port.toNat < 14) → jobState s p.jid ≠ some .sweeping →
      let t : State := s.modSwitch w fun x => { x with buf := [] }
      let gone (f : State → Host.Outcome State Fault Refusal) : Prop := ∃ l, exec i s = f (t.modSwitch w fun x => { x with shares := l })
      let q : Packet := { p with slow := p.slow || (p.tc != 0 && decide (40#64 < (s.die 0).count - b.time)) }
      let home : SwitchId := if p.dmod = s.module then (sinkOf s q).1 else .l2 abut
      let way : SwitchId × BitVec 5 := match w, home with
        | .l0 d c, _ => (.l1 d, c.setWidth 5)
        | .l1 d, .l0 e c => if e = d then (.l0 e c, 16) else (.l2 abut, d.setWidth 5)
        | .l1 d, .l1 _ => (.l2 abut, d.setWidth 5)
        | .l1 d, .l2 a => (.l2 a, d.setWidth 5)
        | .l2 a, .l0 d _ => (.l1 d, 9 + a.setWidth 5)
        | .l2 a, .l1 d => (.l1 d, 9 + a.setWidth 5)
        | .l2 _, .l2 a => (.l2 a, 8)
      let room : Prop := s.defl = true ∨ channelRoom (flitsAt s way.1 way.2 p.chan) p = true
      (p.kind.toNat < 10 → w ≠ home → (room → gone fun u => .next (arrive u way.1 way.2 q)) ∧ (¬ room → exec i s = .next s)) ∧
      (p.kind = 0 → p.dmod = s.module → w = home → trestleGrants t (linkOf p.upath) q = true → exec i s = exec (.readPacket q) t) ∧
      (∀ a, w = .l2 a → 13 ≤ p.kind.toNat → ∃ c : BitVec 32, gone (fun u => .next { u with badpkt := s.badpkt.set a.toNat c a.isLt }) ∧
        c.toNat = min ((s.badpkt[a.toNat]'a.isLt).toNat + 1) (2 ^ 32 - 1)) ∧
      (p.kind.toNat < 11 → p.dmod ≠ s.module → w = .l2 abut →
        let out := 9 * abut.toNat + (p.upath.extractLsb' 1 4 : BitVec 4).toNat
        let free (k : Nat) : Prop := linkUp s k = true ∧ (s.link k).out = []
        let fits : Prop := channelRoom (flitsIn ((s.link out).out.filter fun x => x.chan == p.chan)) p = true
        let ports : List Nat := (List.range 9).map (9 * abut.toNat + ·)
        let sent (k : Nat) (x : Packet) (u : State) : State := { u.modLink k fun l => { l with out := l.out ++ [atOutput k x b.time] } with fabOut := x :: s.fabOut }
        let there : Prop := p.dmod ∈ s.present ∧ p.dmod.toNat < 8192
        (there → s.defl = true ∧ free out ∨ s.defl = false ∧ linkUp s out = true ∧ fits → gone fun u => .next (sent out q u)) ∧
        (there → s.defl = false → linkUp s out = true → ¬ fits → exec i s = .next s) ∧
        (there → s.defl = true ∧ ¬ free out ∨ linkUp s out = false →
          ((∀ k ∈ ports, ¬ free k) → exec i s = .next s) ∧
          ∀ k ∈ ports, free k → (∀ j ∈ ports, j < k → ¬ free j) → ∃ c : BitVec 32,
            gone (fun u => .next { sent k { q with age := if q.age = 255 then 255 else q.age + 1 } u with deflect := s.deflect.set abut.toNat c abut.isLt }) ∧
            c.toNat = min ((s.deflect[abut.toNat]'abut.isLt).toNat + 1) (2 ^ 32 - 1)) ∧
        (¬ there → p.resp = false → p.kind.toNat < 10 → gone fun u => .next (arrive u w 13
          { q with kind := q.kind + 1, resp := true, ord := false, dmod := q.smod, smod := s.module, age := 0, status := 2, payload := [], time := 0
                   exempt := false, waits := false })) ∧
        (¬ there → p.resp = true ∨ 10 ≤ p.kind.toNat → gone fun u => .next u))))

/-! ### Collectives (spec/24 R449 to R459) -/

/-- The group-table entry of a switch at an INDEX (R450). -/
def entryOf (s : State) (w : SwitchId) (ix : BitVec 12) : GroupEntry := (s.switchOf w).group ix

/-- A state that differs from another in one switch alone, and there in its entry at an INDEX and in what else a function says. -/
def entrySet (s : State) (w : SwitchId) (ix : BitVec 12) (e : GroupEntry) (t : State) : Prop :=
  t = { s with switches := t.switches } ∧ (t.switchOf w).group ix = e ∧ (∀ k, k ≠ ix → (t.switchOf w).group k = (s.switchOf w).group k) ∧
    (t.switchOf w).parts = (s.switchOf w).parts ∧ (t.switchOf w).ringRes = (s.switchOf w).ringRes ∧ (t.switchOf w).buf = (s.switchOf w).buf ∧
    (t.switchOf w).overflow = (s.switchOf w).overflow ∧
    ∀ v, v ≠ w → t.switchOf v = s.switchOf v

/-- A fill-mode write of bytes at an address: the bytes are there, each whole word of them is full, and no other byte or full bit has changed
(R314, R317). -/
def filled (s t : State) (pa n : Nat) (byte : Nat → Byte) : Prop :=
  (∀ q, memGet t.mem q = if pa ≤ q ∧ q < pa + n then byte (q - pa) else memGet s.mem q) ∧
    ∀ q, q ∈ t.full ↔ q ∈ s.full ∨ ∃ i < n / 8, q = pa + 8 * i

/-- R449 to R451 and R457: grpset of a group on this module alone writes the entry of every switch of its tree, with its children and its root, and
leaves every other entry; where a switch may not be reserved it traps GRPREUSE and writes none; what breaks R449 traps. R458: grpfree of a group
whose root is the ring's own switch frees the entry; one that is not a member's traps ACCESS, and one that finds it DRAINING waits. -/
def Obligations.GroupResults : Prop :=
  ∀ (s : State) (a b : BitVec 5) (pa : Nat → Nat), settled s → s.onMgmt = none → s.hart.level ≠ .u → s.hart.held = false → s.hart.remote = [] →
    s.switches.map (·.id) = moduleSwitches → s.module ∈ s.present → s.module.toNat < 8192 → errorFree s →
    let gid : BitVec 16 := (x s a).extractLsb' 0 16
    let ix : BitVec 12 := gid.extractLsb' 0 12
    let gen : BitVec 4 := gid.extractLsb' 12 4
    let va := x s b
    let traps (i : Instr) (code : BitVec 8) (val : Word) : Prop := ∃ u, cached s u ∧ exec i s = .next (takeTrap u code val s.hart.sc.pc false false)
    let atOnce (i : Instr) (code : BitVec 8) (val : Word) : Prop := exec i s = .next (takeTrap s code val s.hart.sc.pc false false)
    let w (k : Nat) : Word := BitVec.ofNat 64 (loaded s (pa k) 8)
    let upath : BitVec 12 := (w 0).extractLsb' 32 12
    let has (d : BitVec 3) (c : BitVec 2) (r : Nat) : Bool := (w 2).getLsbD (8 * d.toNat + 2 * c.toNat + r)
    let cluster (d : BitVec 3) (c : BitVec 2) : Bool := has d c 0 || has d c 1
    let die (d : BitVec 3) : Bool := cluster d 0 || cluster d 1 || cluster d 2 || cluster d 3
    let far : Prop := ∃ d e, d ≠ e ∧ die d = true ∧ die e = true
    let many : Prop := far ∨ ∃ d c k, c ≠ k ∧ cluster d c = true ∧ cluster d k = true
    let inTree (v : SwitchId) : Prop := match v with
      | .l0 d c => cluster d c = true
      | .l1 d => many ∧ die d = true
      | .l2 e => far ∧ e = upath.extractLsb' 0 1
    let isRoot (v : SwitchId) : Prop := match v with
      | .l0 _ _ => ¬ many
      | .l1 _ => many ∧ ¬ far
      | .l2 _ => far
    let child (v : SwitchId) (k : Nat) : Prop := match v with
      | .l0 d c => k < 2 ∧ has d c k = true
      | .l1 d => k < 4 ∧ cluster d (BitVec.ofNat 2 k) = true
      | .l2 _ => k < 8 ∧ die (BitVec.ofNat 3 k) = true
    let taken (v : SwitchId) : Prop := (entryOf s v ix).state ≠ 0 ∨ (entryOf s v ix).lgv = true ∧ (entryOf s v ix).lastgen = gen
    let e := entryOf s (.l0 (dieOf s.cur) (clusterOf s.cur)) ix
    ((x s a).extractLsb' 16 48 = 0 → va.toNat % 8 = 0 → (∀ k < 3, reaches s (va + BitVec.ofNat 64 (8 * k)) 8 .r (pa k) ∧ atHand s (pa k) 8) →
      (w 0).extractLsb' 0 14 = (1 : BitVec 14) → (w 0).extractLsb' 14 2 = 0 → (w 0).extractLsb' 44 20 = 0 → w 2 ≠ 0 →
      (w 1 = s.module.setWidth 64 → (∀ v ∈ moduleSwitches, inTree v → ¬ taken v) →
        ∃ u t, cached s u ∧ exec (.grpset a b) s = .next (next id t) ∧ t = { u with switches := t.switches } ∧ ∀ v ∈ moduleSwitches,
          (¬ inTree v → entryOf t v ix = entryOf s v ix) ∧
          (inTree v → ∀ y, y = entryOf t v ix →
            (y.v = true ∧ y.state = 1 ∧ y.gen = gen ∧ y.lastgen = (entryOf s v ix).lastgen ∧ y.lgv = (entryOf s v ix).lgv ∧
              y.jid = (w 0).extractLsb' 16 16 ∧ y.upath = upath ∧ (y.root = true ↔ isRoot v) ∧ y.err = false ∧ y.round = 0 ∧ y.late = 0 ∧
              ∀ k < 128, y.child.getLsbD k = true ↔ child v k))) ∧
      (w 1 = s.module.setWidth 64 → (∃ v ∈ moduleSwitches, inTree v ∧ taken v) → traps (.grpset a b) 0x0D (x s a)) ∧
      ((w 1).extractLsb' 14 50 = 0 → (w 1).extractLsb' 0 14 ∉ s.present → traps (.grpset a b) 0x07 (va + 8))) ∧
    ((x s a).extractLsb' 16 48 = 0 → va.toNat % 8 ≠ 0 → atOnce (.grpset a b) 0x03 va) ∧
    ((x s a).extractLsb' 16 48 ≠ 0 → ∀ i ∈ [Instr.grpset a b, .grpfree a], ∀ w, encode i = some w → atOnce i 0x01 (w.setWidth 64)) ∧
    ((x s a).extractLsb' 16 48 = 0 →
      (e.v = false ∨ e.gen ≠ gen ∨ e.state = 0 ∨ e.state = 3 → atOnce (.grpfree a) 0x07 (x s a)) ∧
      (e.v = true → e.gen = gen → e.state = 1 → e.root = true →
        let v := s.switchOf (.l0 (dieOf s.cur) (clusterOf s.cur))
        v.parts = [] → v.ringRes = [] → v.buf = [] → v.overflow = [] →
        ∃ t, exec (.grpfree a) s = .next (next id t) ∧
          entrySet s (.l0 (dieOf s.cur) (clusterOf s.cur)) ix { e with v := false, state := 0, lastgen := gen, lgv := true } t) ∧
      (e.v = true → e.gen = gen → e.state = 2 → e.root = true → ∃ t, exec (.grpfree a) s = .next t ∧ t.hart.park = .reply ∧ t.hart.sc = s.hart.sc ∧ t.mem = s.mem ∧
        t.switches = s.switches))

/-- R451, R452 and R459: nred of a member takes its word, empty from then on, as a contribution; the last member's completes the round, and every
member's word receives the combination in increasing child number, in fill mode. nmcast delivers 32 bytes to the local store of the
lowest-numbered core of every member ring. Here the group's root is the ring's own L0 switch. What is no member's traps ACCESS. -/
def Obligations.ReductionResults : Prop :=
  ∀ (s : State) (a b : BitVec 5) (ty op : BitVec 2) (q : Contribution) (r : RingResult), settled s → s.onMgmt = none → s.hart.held = false →
    s.waiters = [] → memoryWf s → s.switches.map (·.id) = moduleSwitches → (x s a).extractLsb' 16 48 = 0 → ty ≠ 3 → op ≠ 3 →
    (s.ring.gang = true → s.hart.slot.toNat < 4) →
    let gid : BitVec 16 := (x s a).extractLsb' 0 16
    let ix : BitVec 12 := gid.extractLsb' 0 12
    let gen : BitVec 4 := gid.extractLsb' 12 4
    let sw : SwitchId := .l0 (dieOf s.cur) (clusterOf s.cur)
    let v := s.switchOf sw
    let e := entryOf s sw ix
    let me : BitVec 1 := s.cur.extractLsb' 0 1
    let va := x s b
    let off := va.toNat % 0x80000
    let pa := selfStore s + off
    let own : Prop := 0x00FFFF0000000000#64 ≤ va ∧ va < 0x00FFFF0000080000#64
    let member : Prop := e.v = true ∧ e.state = 1 ∧ e.gen = gen ∧ e.jid = s.ring.jid ∧ e.child.getLsbD me.toNat = true
    let traps (i : Instr) (code : BitVec 8) (val : Word) : Prop := exec i s = .next (takeTrap s code val s.hart.sc.pc false false)
    let held : Nat := loaded s pa 8
    let si (n : Nat) : Int := if n % 2 ^ 32 < 2 ^ 31 then (n % 2 ^ 32 : Nat) else (n % 2 ^ 32 : Nat) - 2 ^ 32
    let two (x y : Nat) : Nat := match ty.toNat, op.toNat with
      | 0, 0 => (x + y) % 2 ^ 32
      | 0, 1 => if si y < si x then y % 2 ^ 32 else x % 2 ^ 32
      | 0, _ => if si x < si y then y % 2 ^ 32 else x % 2 ^ 32
      | t, 0 => (addVal (if t = 1 then fmtSingle else fmtDouble) rne ((if t = 1 then fmtSingle else fmtDouble).decode (if t = 1 then x % 2 ^ 32 else x))
          ((if t = 1 then fmtSingle else fmtDouble).decode (if t = 1 then y % 2 ^ 32 else y))).1
      | t, o => (minMaxBits (if t = 1 then fmtSingle else fmtDouble) (decide (o ≠ 1)) (if t = 1 then x % 2 ^ 32 else x) (if t = 1 then y % 2 ^ 32 else y)).1
    let result (n : Nat) : Word := match ty.toNat with
      | 0 => BitVec.ofInt 64 (si n)
      | 1 => BitVec.ofNat 64 (n % 2 ^ 32)
      | _ => BitVec.ofNat 64 n
    let sum : Word := result (if me = 0 then two held q.value.toNat else two q.value.toNat held)
    let bytes (w : Word) (i : Nat) : Byte := BitVec.ofNat 8 (w.toNat / 256 ^ i)
    let sent (c : Contribution) : Prop := c.index = ix ∧ c.child.toNat = me.toNat ∧ c.round = e.round ∧ c.ty = ty ∧ c.op = op ∧
      c.value = BitVec.ofNat 64 (if ty = 2 then held else held % 2 ^ 32)
    (¬ member → traps (.nred a b ty op) 0x07 (x s a) ∧ traps (.nmcast a b) 0x07 (x s a)) ∧
    (member →
      (va.toNat % 8 ≠ 0 → traps (.nred a b ty op) 0x03 va) ∧ (va.toNat % 32 ≠ 0 → traps (.nmcast a b) 0x03 va) ∧
      (va.toNat % 32 = 0 → ¬ own → traps (.nred a b ty op) 0x07 va ∧ traps (.nmcast a b) 0x07 va) ∧
      (va.toNat % 8 = 0 → own → (∃ y ∈ v.ringRes, y.index = ix ∧ y.gen = gen ∧ y.ring = me) → anyBad s pa 8 = false →
        exec (.nred a b ty op) s = .next (applyWait s (.park .stalled))) ∧
      (va.toNat % 8 = 0 → own → anyBad s pa 8 = false → e.root = true → v.ringRes = [] → v.parts = [] → s.ring.state ≠ .empty →
        (e.child = 1#128 <<< me.toNat → ∃ t, exec (.nred a b ty op) s = .next t ∧ t.hart.sc.pc = s.hart.sc.pc + 4 ∧ t.hart.sc.x = s.hart.sc.x ∧
          filled s t pa 8 (bytes (result held)) ∧ (entryOf t sw ix).round = e.round + 1 ∧ (t.switchOf sw).ringRes = [] ∧ (t.switchOf sw).parts = []) ∧
        (e.child = 3 → ∃ t c, exec (.nred a b ty op) s = .next t ∧ t.hart.sc.pc = s.hart.sc.pc + 4 ∧ t.mem = s.mem ∧ pa ∉ t.full ∧
          (t.switchOf sw).parts = [c] ∧ sent c ∧ (t.switchOf sw).ringRes.length = 1 ∧ entryOf t sw ix = e)) ∧
      (va.toNat % 8 = 0 → own → anyBad s pa 8 = false → e.root = true → e.child = 3 → v.ringRes = [r] → v.parts = [q] → s.ring.state ≠ .empty →
        q.index = ix → q.round = e.round → q.child.toNat = 1 - me.toNat → q.ty = ty → q.op = op → r.index = ix → r.gen = gen → r.ring = 1 - me →
        r.jid = s.ring.jid → r.value = none → (s.ringAt (s.cur ^^^ 1)).state ≠ .empty → (s.ringAt (s.cur ^^^ 1)).jid = s.ring.jid →
        let far := storePa s.module (dieOf s.cur) (clusterOf s.cur) r.core.toNat r.offset.toNat
        far + 8 ≤ pa ∨ pa + 8 ≤ far → ∃ t u, exec (.nred a b ty op) s = .next t ∧ t.hart.sc.pc = s.hart.sc.pc + 4 ∧
          filled s u pa 8 (bytes sum) ∧ filled u t far 8 (bytes sum) ∧
          (entryOf t sw ix).round = e.round + 1 ∧ (entryOf t sw ix).err = e.err ∧ (t.switchOf sw).parts = [] ∧ (t.switchOf sw).ringRes = []) ∧
      (va.toNat % 32 = 0 → own → anyBad s pa 32 = false → e.root = true → e.child = 1#128 <<< me.toNat → ∃ t, exec (.nmcast a b) s = .next t ∧
        t.hart.sc.pc = s.hart.sc.pc + 4 ∧
        filled s t (storePa s.module (dieOf s.cur) (clusterOf s.cur) (8 * me.toNat) off) 32 (fun i => s.peek (pa + i))))

/-- R452 to R455, R457 and R458: a collective packet at a switch whose entry is not ACTIVE, or of another generation, is discarded and counted in
LATE, and LATEPKT is raised once; else a contribution is kept until every child has delivered, a result and a multicast descend to the member
rings, a drain frees the entry and is reported. RESERVE, the entry write and their replies follow R457; that an
entry write without children releases the reservation, and that a DRAINING entry takes a drained report, is the model's reading (log 38). A word that a packet of
another module brings carries the packet's TIME (log 42). -/
def Obligations.CollectivePackets : Prop :=
  ∀ (s : State) (sw : SwitchId) (p : Packet) (c : BitVec 7) (d : BitVec 3) (k : BitVec 2) (r : RingResult), memoryWf s →
    s.waiters = [] → s.switches.map (·.id) = moduleSwitches → sw ∈ moduleSwitches →
    let field (o n : Nat) : Nat := ∑ i ∈ Finset.range n, 256 ^ i * (p.payload.getD (o + i) 0).toNat
    let gid : BitVec 16 := BitVec.ofNat 16 (field 0 2)
    let ix : BitVec 12 := gid.extractLsb' 0 12
    let gen : BitVec 4 := gid.extractLsb' 12 4
    let stat : Bool := (p.payload.getD 3 0).getLsbD 4
    let val : Word := BitVec.ofNat 64 (field 8 8)
    let data (i : Nat) : Byte := p.payload.getD (16 + i) 0
    let e := entryOf s sw ix
    let v := s.switchOf sw
    let opened : Prop := e.v = true ∧ e.state = 1 ∧ e.gen = gen
    let off := val.toNat % 0x80000
    let late (i : Instr) : Prop := ∃ t, exec i s = .next t ∧ t = { s with switches := t.switches, mgmt := t.mgmt } ∧
      (∃ y, (t.switchOf sw).group ix = { e with late := y } ∧ y.toNat = min (e.late.toNat + 1) 65535) ∧ (∀ x, x ≠ sw → t.switchOf x = s.switchOf x) ∧
      ((∀ y ∈ (s.mgmtAt 0).events, y.1 ≠ 0x12) → ∃ m, (t.mgmtAt 0).events = (s.mgmtAt 0).events ++ [(0x12, 0, m, none)]) ∧
      ((∃ y ∈ (s.mgmtAt 0).events, y.1 = 0x12) → t.mgmt = s.mgmt)
    let answered (sub : Nat) (refused : Bool) (t : State) : Prop := ∃ m, t.heldOut = s.heldOut ++ [m] ∧ m.kind = 10 ∧ m.dmod = p.smod ∧ m.sring = p.sring ∧
      m.rtag = p.rtag ∧ m.payload.getD 2 0 = BitVec.ofNat 8 sub ∧ (m.payload.getD 3 0).getLsbD 4 = refused
    let replied (i : Instr) : Prop := ∃ t, exec i s = .next t ∧ t.mem = s.mem ∧ t.hart.sc = s.hart.sc ∧ t.hart.remote.length = s.hart.remote.length ∧
      ∀ (k : Nat) (w : RemoteWait), s.hart.remote[k]? = some w →
        t.hart.remote[k]? = some (if w.rtag = p.rtag ∧ w.reply = none then { w with reply := some (if stat then 1 else 0, []), time := 0 } else w)
    (48 ≤ p.payload.length → ¬ opened → late (.contribution sw c p) ∧ late (.collectiveResult sw p) ∧
      late (.multicastUP sw p) ∧ late (.drain sw p) ∧ late (.multicastDown sw p)) ∧
    (48 ≤ p.payload.length → opened →
      (v.parts = [] → (∃ i < 128, e.child.getLsbD i = true ∧ i ≠ c.toNat) → ∃ t y, exec (.contribution sw c p) s = .next t ∧
        t = { s with switches := t.switches } ∧ (t.switchOf sw).parts = [y] ∧ y.index = ix ∧ y.child = c ∧ y.round.toNat = field 4 4 ∧
        y.ty = (p.payload.getD 3 0).extractLsb' 0 2 ∧ y.op = (p.payload.getD 3 0).extractLsb' 2 2 ∧
        y.value = (if y.ty = 2 then val else (val.extractLsb' 0 32 : BitVec 32).setWidth 64) ∧ y.time = p.time ∧ (t.switchOf sw).groups = v.groups ∧
        ∀ x, x ≠ sw → t.switchOf x = s.switchOf x) ∧
      (sw = .l0 d k → v.ringRes = [r] → r.index = ix → r.gen = gen → r.value = none → e.child.getLsbD r.ring.toNat = true →
        (s.ringAt (d ++ k ++ r.ring)).state ≠ .empty → (s.ringAt (d ++ k ++ r.ring)).jid = r.jid → ∃ t, exec (.collectiveResult sw p) s = .next t ∧
          filled s t (storePa s.module d k r.core.toNat r.offset.toNat) 8 (fun i => BitVec.ofNat 8 (val.toNat / 256 ^ i)) ∧
          (entryOf t sw ix).round = e.round + 1 ∧ (t.switchOf sw).ringRes = [] ∧ t.hart = s.hart) ∧
      (sw = .l0 d k → ∀ m : Nat, m < 2 → e.child = 1#128 <<< m → ∃ t, exec (.multicastDown sw p) s = .next t ∧ t.hart = s.hart ∧
        filled s t (storePa s.module d k (8 * m) off) 32 data ∧ (e.root = true → exec (.multicastUP sw p) s = exec (.multicastDown sw p) s)) ∧
      (sw = .l0 d k → v.ringRes = [] → v.parts = [] → v.buf = [] → v.overflow = [] → ∃ t m, exec (.drain sw p) s = .next { t with heldOut := s.heldOut ++ [m] } ∧
        entrySet s sw ix { e with v := false, state := 0, lastgen := gen, lgv := true } t ∧ m.kind = 10 ∧ m.payload.getD 2 0 = 9)) ∧
    (e.state = 0 → ¬ (e.lgv = true ∧ e.lastgen = gen) → 16 ≤ p.payload.length → ∃ t, exec (.reserve sw p) s = .next t ∧ answered 5 false t ∧
      entrySet s sw ix { e with state := 3 } { t with heldOut := s.heldOut }) ∧
    (e.state ≠ 0 ∨ (e.lgv = true ∧ e.lastgen = gen) → 16 ≤ p.payload.length → ∃ t, exec (.reserve sw p) s = .next t ∧ answered 5 true t ∧
      t = { s with heldOut := t.heldOut }) ∧
    (16 ≤ p.payload.length → replied (.reserveReply p) ∧ replied (.entryAcknowledge p)) ∧
    (48 ≤ p.payload.length →
      let child : BitVec 128 := BitVec.ofNat 128 (field 24 16)
      (e.state ≠ 3 → exec (.entryWrite sw p) s = .next s) ∧
      (e.state = 3 → child = 0 → ∃ t, exec (.entryWrite sw p) s = .next t ∧ entrySet s sw ix { e with state := 0 } t) ∧
      (e.state = 3 → child ≠ 0 → ∃ t, exec (.entryWrite sw p) s = .next t ∧ answered 7 false t ∧
        entrySet s sw ix { v := true, state := 1, gen := BitVec.ofNat 4 (field 16 4 / 2 ^ 28), lastgen := e.lastgen, lgv := e.lgv
                           jid := BitVec.ofNat 16 (field 16 2), upath := BitVec.ofNat 12 (field 16 4 / 2 ^ 16), root := (data 4).getLsbD 0, err := false
                           child := child, round := 0, late := 0 } { t with heldOut := s.heldOut })) ∧
    (16 ≤ p.payload.length → ¬ (e.v = true ∧ (e.state = 1 ∨ e.state = 2) ∧ e.gen = gen) → late (.drainedReport sw p)) ∧
    (16 ≤ p.payload.length → e.v = true → e.state = 1 ∨ e.state = 2 → e.gen = gen → ∃ t, exec (.drainedReport sw p) s = .next t ∧ t = { s with switches := t.switches } ∧
      (t.switchOf sw).drained = v.drained ++ [(gid, val)] ∧ (t.switchOf sw).groups = v.groups ∧ ∀ x, x ≠ sw → t.switchOf x = s.switchOf x)

/-! ### The gang switch and module faults (spec/24 R460 to R469; spec/25 R482) -/

/-- R456 and R461: gsw on a management core sends its command to the job's root and completes; a gsw in of a FAILED job posts STATUS 0x13 and
changes nothing else; in the wrong state, or with bits above the JID, it traps ILL; on every span-die core it traps PRIV. At the root a sweep
does not begin in deflection mode (R462). R460, R462, R465 and R468: the commands, markers and reports of a gang switch. A switch-out command
of a root elsewhere takes a RUNNING job into its sweep at every switch, and one that reaches the root is a gsw's of another module, which the root
runs, unless it runs one of the job (R461); markers are kept by port and channel, and a port with all eight is closed; a switch-in
command takes a job that is OUT into RESTORING; the root adds what the switches report, and with the last report posts the record, for a core of its own module, and changes
the job's state; resume and failed end it. A command for a job in another state changes nothing (log 25). R443 and R482: a module
fault, which a silent module is to the root, is told to the host; the silent module leaves the domains of jobs, and an affected job is switched out to fail, or
fails at once where it is out. -/
def Obligations.GangSwitchResults : Prop :=
  (∀ (s : State) (a : BitVec 5) (c : BitVec 1) (root : BitVec 14) (st : JobState), settled s →
     let h := s.hart
     let jid : BitVec 16 := (x s a).extractLsb' 0 16
     let forms : List (Instr × Bool × Nat) := [(.gswOut a, true, 1), (.gswIN a, false, 2)]
     let trap (i : Instr) (code : BitVec 8) : Prop := ∀ w, encode i = some w → exec i s = .next (takeTrap s code (w.setWidth 64) h.sc.pc false false)
     let begun (t : State) : Prop := t.hart.sc.pc = h.sc.pc + 4 ∧ t.hart.sc.x = h.sc.x ∧ t.hart.cmdNo = h.cmdNo + 1 ∧ t.mem = s.mem
     (s.onMgmt = none → h.level ≠ .m → ∀ f ∈ forms, trap f.1 0x02) ∧
     (s.onMgmt = some c → h.level = .m → h.held = false →
       ((x s a).extractLsb' 16 48 ≠ 0 → ∀ f ∈ forms, trap f.1 0x01) ∧
       ((x s a).extractLsb' 16 48 = 0 → lookupKey s.jobs jid = some st →
         (st ≠ .running → trap (.gswOut a) 0x01) ∧ (st ≠ .out → st ≠ .failed → trap (.gswIN a) 0x01) ∧
         (recordsHeld h = 0 → s.gang = [] → s.gangAsked = [] →
           (st = .failed → ∃ t, exec (.gswIN a) s = .next t ∧ begun t ∧ t.hart.cq = h.cq ++ [0#64 ++ 0#32 ++ h.cmdNo ++ 0x13#8 ++ 7#8] ∧
             t.jobs = s.jobs ∧ t.switches = s.switches ∧ t.heldOut = s.heldOut) ∧
           ((jid, root) ∈ s.elsewhere → root < s.module → (∀ p ∈ s.elsewhere, p.1 = jid → root ≤ p.2) →
             ∀ f ∈ forms, st = (if f.2.1 then .running else .out) → ∃ t m, exec f.1 s = .next t ∧ begun t ∧ t.heldOut = s.heldOut ++ [m] ∧ m.kind = 11 ∧
               m.dmod = root ∧ m.jid = jid ∧ m.payload.getD 2 0 = BitVec.ofNat 8 f.2.2 ∧ t.jobs = s.jobs ∧ t.hart.cq = h.cq ∧
               t.gangAsked = [(jid, c, h.cmdNo)]) ∧
           ((∀ p ∈ s.elsewhere, p.1 = jid → s.module ≤ p.2) → st = .running → s.defl = true → s.jobs = [(jid, st)] →
             ∃ t g, exec (.gswOut a) s = .next t ∧ begun t ∧ t.jobs = s.jobs ∧ t.gang = [g] ∧ g.jid = jid ∧ g.out = true ∧ g.far = false ∧ g.issuer = c ∧
               g.cmdNo = h.cmdNo ∧ g.gseq = s.nextGseq ∧ g.count = 0 ∧ (∀ w ∈ moduleSwitches, w.swid s.module ∈ g.switches) ∧
               (∀ p, (jid, p) ∈ s.elsewhere → p ∈ g.modules) ∧ s.module ∈ g.modules))))) ∧
  (∀ (s : State) (jid : BitVec 16) (gseq : BitVec 32) (sw : SwitchId) (port : BitVec 5) (chan : BitVec 3) (j : SwitchJob) (g : GangRun) (p : Packet)
     (m : BitVec 14) (n : BitVec 6) (st : JobState), s.switches.map (·.id) = moduleSwitches → sw ∈ moduleSwitches →
     let field (o n : Nat) : Nat := ∑ i ∈ Finset.range n, 256 ^ i * (p.payload.getD (o + i) 0).toNat
     let state (t : State) : Option JobState := lookupKey t.jobs jid
     let counted : BitVec 32 := BitVec.ofNat 32 (min (g.count.toNat + field 8 4) (2 ^ 32 - 1))
     let stat : Bool := (p.payload.getD 3 0).getLsbD 3
     let rootHere : Prop := ∀ q ∈ s.elsewhere, q.1 = jid → s.module ≤ q.2
     (state s = some st → (st ≠ .running → exec (.switchOutCommand jid gseq) s = .next s) ∧ (st ≠ .sweeping → exec (.sweepMarker sw port chan jid) s = .next s) ∧
       (st ≠ .out → exec (.switchINCommand jid gseq) s = .next s) ∧ (st ≠ .restoring → exec (.gangResume jid gseq) s = .next s)) ∧
     (s.gang = [] → s.jobs = [(jid, st)] →
       (st = .running → rootHere → s.defl = true → ∃ t y, exec (.switchOutCommand jid gseq) s = .next t ∧ t.jobs = s.jobs ∧ t.switches = s.switches ∧
         t.gang = [y] ∧ y.jid = jid ∧ y.out = true ∧ y.far = true ∧ y.gseq = s.nextGseq ∧ y.count = 0 ∧
         (∀ w ∈ moduleSwitches, w.swid s.module ∈ y.switches) ∧ s.module ∈ y.modules) ∧
       (st = .running → ¬ rootHere → ∃ t, exec (.switchOutCommand jid gseq) s = .next t ∧
         (state t = some .sweeping ∨ state t = some .out ∨ state t = some .failed) ∧
         ∀ w ∈ moduleSwitches, ∃ y ∈ (t.switchOf w).jobs, y.jid = jid ∧ y.gseq = gseq) ∧
       (st = .sweeping → (s.switchOf sw).jobs = [j] → j.jid = jid → (s.ringAt n).state = .running → (s.ringAt n).jid = jid →
         ∃ t y, exec (.sweepMarker sw port chan jid) s = .next t ∧ t = { s with switches := t.switches } ∧ (t.switchOf sw).jobs = [y] ∧
           (∀ q, q ∈ y.markers ↔ q ∈ j.markers ∨ q = (port, chan)) ∧
           (∀ q, q ∈ y.closed ↔ 8 ≤ (y.markers.filter fun z => z.1 == q).length) ∧ ∀ w, w ≠ sw → t.switchOf w = s.switchOf w) ∧
       (st = .out → ¬ rootHere → (∀ a ∈ s.actors, a.jid = jid → a.phase ≠ .swept) → ∃ t, exec (.switchINCommand jid gseq) s = .next t ∧ state t = some .restoring ∧
         t.mem = s.mem ∧ t.hart = s.hart ∧ ∀ w ∈ moduleSwitches, ∃ y ∈ (t.switchOf w).jobs, y.jid = jid ∧ y.gseq = gseq) ∧
       (st = .restoring → (∀ k, (s.ringAt k).jid ≠ jid ∨ (s.ringAt k).state = .empty) → ∃ t, exec (.gangResume jid gseq) s = .next t ∧ state t = some .running ∧
         t.hart = s.hart ∧ ∀ w ∈ moduleSwitches, ∀ y ∈ (t.switchOf w).jobs, y.jid ≠ jid) ∧
       (∃ t, exec (.gangFailed jid gseq) s = .next t ∧ state t = some .failed ∧ t.hart = s.hart ∧ t.mem = s.mem)) ∧
     (s.gang = [g] → g.jid = jid → rootHere → s.defl = true → g.out = true → g.overflowed = false → s.jobs = [(jid, .running)] →
       exec (.switchOutCommand jid gseq) s = .next s) ∧
     (p.jid = jid → 24 ≤ p.payload.length →
       ((∀ y ∈ s.gang, y.jid ≠ jid) → exec (.switchReport p) s = .next s ∧ exec (.moduleReport p) s = .next s) ∧
       (s.gang = [g] → field 4 4 ≠ g.gseq.toNat → exec (.switchReport p) s = .next s ∧ exec (.moduleReport p) s = .next s) ∧
       (s.gang = [g] → g.jid = jid → field 4 4 = g.gseq.toNat → jid ∉ s.failing → s.onMgmt ≠ some g.issuer →
         let from_ : Word := BitVec.ofNat 64 (field 16 8)
         let heard : GangRun := { g with switches := g.switches.filter (· ≠ from_), count := counted, overflowed := g.overflowed || stat }
         let module : GangRun := { g with modules := g.modules.filter (· ≠ BitVec.ofNat 14 (field 16 8)), overflowed := g.overflowed || stat }
         let ends (t : State) (k : BitVec 32) : Prop := t.gang = [] ∧ (t.mgmtAt g.issuer).hart.cq = (s.mgmtAt g.issuer).hart.cq ++
           (if g.far then [] else [0#64 ++ k ++ g.cmdNo ++ (if g.overflowed || stat then 0x13#8 else 0#8) ++ 7#8]) ∧
           (g.out = true → g.overflowed = false → stat = false → state t = some .out) ∧ t.mem = s.mem
         (from_ ∈ g.switches → (heard.switches ≠ [] ∨ g.modules ≠ []) → exec (.switchReport p) s = .next { s with gang := [heard] }) ∧
         (from_ ∉ g.switches → (g.switches ≠ [] ∨ g.modules ≠ []) → exec (.switchReport p) s = .next s) ∧
         (g.switches = [from_] → g.modules = [] → g.out = true ∨ stat = true → ∃ t, exec (.switchReport p) s = .next t ∧ ends t counted) ∧
         (module.modules ≠ [] ∨ g.switches ≠ [] → exec (.moduleReport p) s = .next { s with gang := [module] }) ∧
         (g.switches = [] → module.modules = [] → g.out = true ∨ stat = true → ∃ t, exec (.moduleReport p) s = .next t ∧ ends t g.count))) ∧
     (s.gang = [] → s.jobs = [(jid, st)] →
       let fault : Instr := .moduleFault (.gsovf jid)
       let told : List HostOut := .fault (.gsovf jid) :: s.host
       (st = .out ∨ st = .restoring → ∃ t, exec fault s = .next t ∧ t.host = told ∧ state t = some .failed ∧ t.mem = s.mem ∧ t.hart = s.hart ∧
         (∀ k, (jid, k) ∈ s.elsewhere → k ≠ s.module → ∃ y ∈ t.heldOut, y.kind = 11 ∧ y.dmod = k ∧ y.jid = jid ∧ y.payload.getD 2 0 = 6)) ∧
       (st = .failed → exec fault s = .next { s with host := told }) ∧
       (st = .running → rootHere → s.defl = true → ∃ t y, exec fault s = .next t ∧ t.host = told ∧ jid ∈ t.failing ∧ t.jobs = s.jobs ∧ t.gang = [y] ∧
         y.jid = jid ∧ y.out = true ∧ y.far = true ∧ t.mem = s.mem ∧ t.hart = s.hart) ∧
       (st = .running → ¬ rootHere → ∃ t y, exec fault s = .next t ∧ t.host = told ∧ jid ∈ t.failing ∧ t.jobs = s.jobs ∧ t.heldOut = s.heldOut ++ [y] ∧
         y.kind = 11 ∧ y.jid = jid ∧ y.payload.getD 2 0 = 1 ∧ (jid, y.dmod) ∈ s.elsewhere ∧ t.mem = s.mem ∧ t.hart = s.hart) ∧
       (st = .sweeping → (s.ringAt n).state = .running → (s.ringAt n).jid = jid → ∃ t, exec fault s = .next t ∧ t.host = told ∧ jid ∈ t.failing ∧
         t.jobs = s.jobs ∧ t.mem = s.mem ∧ t.hart = s.hart)) ∧
     (m ∉ s.present ∨ m = s.module → exec (.heartbeatTimeout m) s = .next s) ∧
     (m ∈ s.present → m.toNat < 8192 → m ≠ s.module → s.module ∈ s.present → (∀ k ∈ s.present, s.module ≤ k) →
       exec (.heartbeatTimeout m) s = exec (.moduleFault (.noHeartbeat m)) s ∧
      (s.gang = [] → s.defl = true → (∀ q ∈ s.jobs, q.2 ≠ .sweeping ∧ q.2 ≠ .restoring) → ∃ t, exec (.heartbeatTimeout m) s = .next t ∧
        t.host = .fault (.noHeartbeat m) :: s.host ∧ t.mem = s.mem ∧ t.hart = s.hart ∧ (∀ q, q ∈ t.elsewhere ↔ q ∈ s.elsewhere ∧ q.2 ≠ m) ∧
        ∀ q ∈ s.elsewhere, q.2 = m → (jobState s q.1 = some .running → q.1 ∈ t.failing) ∧
          (lookupKey s.jobs q.1 = some .out → lookupKey t.jobs q.1 = some .failed))))

/-! ### The host (spec/25 R471 to R479; spec/22 R415, R421) -/

/-- R471, R472, R474 and R475: an RDMA write is performed where the key and, for each range that crosses no 64-byte boundary, the DMA port's table
and the home's table admit it, and acknowledged; a read returns the bytes; what is not admitted draws the NAK "invalid request", and its queue pair
takes nothing more; an access to another module leaves as packets; a SEND becomes one message, which is acknowledged, refused with RNR NAK, or
names nothing; a message to the host takes a receive WQE of the queue pair of its mailbox. For a job whose state is not RUNNING an operation enters
by the port's switch, where it may be late (R467), and is answered when its packets are. An operation waits behind one of its queue pair that awaits
another module. The model's choices: a queue pair in error and a READ of uncorrectable data draw the NAK too, and what the tables admit of an access
that is refused is performed (log 44); the runtime's messages leave by ring 63 (log 45). R258, R476 and R477: LAUNCH creates the members of its ring
group on the rings that the runtime chooses (log 11) and replies with status 0; a launch that fails creates nothing and replies with its cause, of
several the lowest, the causes as log 46 reads them; while the runtime waits for bytes of another module it comes again (log 46). R479: ATTEST
replies with the nonce and a signature of what stands before it (its layout is log 47's). A message that the command mailbox does not hold
changes nothing. -/
def Obligations.HostResults : Prop :=
  (∀ (s : State) (port : BitVec 3) (qpn : BitVec 24) (key : BitVec 32) (pa : BitVec 56) (n : Nat) (data : List Byte) (k : RemoteKey), memoryWf s →
     s.ctl.Pairwise (fun a b => a.1 < b.1) → data.length = n → n < 2 ^ 32 → s.keys = [k] → k.port = port →
     let qp := (port, qpn)
     let p := pa.toNat
     let write : Instr := .rdmaWrite port qpn key pa data
     let read : Instr := .rdmaRead port qpn key pa (BitVec.ofNat 32 n)
     let send : Instr := .hostSend port qpn data
     let busy : Prop := ∃ w ∈ s.hostWaits, w.port = port ∧ w.qpn = qpn
     let live : Prop := ¬ busy ∧ qpn.toNat < 4096 ∧ qp ∉ s.qpErr
     let running (j : BitVec 16) : Prop := ∀ st, lookupKey s.jobs j = some st → st = .running
     let enters (i : Instr) : Prop := ∃ t w, exec i s = .next t ∧ t.host = s.host ∧ t.hostWaits = s.hostWaits ++ [w] ∧ w.port = port ∧ w.qpn = qpn
     let inError (l : List (BitVec 3 × BitVec 24)) : Prop := ∀ q, q ∈ l ↔ q ∈ s.qpErr ∨ q = qp
     let nak (i : Instr) : Prop := ∃ l, inError l ∧ exec i s = .next { s with qpErr := l, host := .nakInvalid port qpn :: s.host }
     let abut := port.toNat / 4
     let ctl (d off : Nat) : Nat := s.module.toNat * 2 ^ 42 + 2 ^ 41 + d * 2 ^ 38 + 2 ^ 31 + off
     let keyed (w : Bool) : Prop := k.key = key ∧ (if w then k.w else k.r) = true ∧ k.base.toNat ≤ p ∧ p + n ≤ k.base.toNat + k.len.toNat
     let part (a m : Nat) : Prop := 0 < m ∧ p ≤ a ∧ a + m ≤ p + n ∧ a % 64 + m ≤ 64 ∧ (a = p ∨ a % 64 = 0) ∧ (a + m = p + n ∨ (a + m) % 64 = 0)
     let ported (w : Bool) (a m : Nat) : Prop :=
       granted s (ctl 0 (0x60100000 + 0x10000000 * abut + 0x2000 * (port.toNat % 4))) k.jid s.module 0 a m (!w) w true
     let die (a : Nat) : BitVec 3 := BitVec.ofNat 3 (a / 2 ^ 38)
     let home (w : Bool) (a m : Nat) : Prop := (s.die (die a)).available = true ∧ (die a ≠ 0 ∨ a % 2 ^ 38 + m ≤ 0x3FAB800000) ∧
       granted s (ctl (die a).toNat 0x41000000) k.jid s.module 0 a m (!w) w true
     let admitted (w : Bool) (a m : Nat) : Prop := ported w a m ∧ home w a m
     let here : Prop := ∀ a m, part a m → paModule a = s.module ∧ a.testBit 41 = false
     let whole (w : Bool) : Prop := ∀ a m, part a m → admitted w a m
     (busy → ∀ i ∈ [write, read, send], exec i s = .next s) ∧
     (¬ busy → (4096 ≤ qpn.toNat ∨ qp ∈ s.qpErr) → ∀ i ∈ [write, read, send], nak i) ∧
     (live → (¬ keyed true → nak write) ∧ (¬ keyed false → nak read) ∧
       (0 < n → here → ¬ running k.jid → (keyed true → (∀ a m, part a m → ported true a m) → enters write) ∧
         (keyed false → (∀ a m, part a m → ported false a m) → enters read)) ∧
       (keyed true → here → running k.jid → s.bad = [] → ∃ (t : State) (l : List (BitVec 3 × BitVec 24)) (o : HostOut),
         exec write s = .next { t with qpErr := l, host := o :: s.host } ∧
         t = { s with mem := t.mem, bad := t.bad, released := t.released, lines := t.lines, l1 := t.l1, through := t.through } ∧
         (whole true → l = s.qpErr ∧ o = .ack port qpn) ∧ (¬ whole true → inError l ∧ o = .nakInvalid port qpn) ∧
         ∀ q, ((∃ a m, part a m ∧ admitted true a m ∧ a ≤ q ∧ q < a + m) → memGet t.mem q = data.getD (q - p) 0) ∧
           ((¬ ∃ a m, part a m ∧ admitted true a m ∧ a ≤ q ∧ q < a + m) → memGet t.mem q = memGet s.mem q)) ∧
       (keyed false → here → running k.jid → ∃ t, cached s t ∧
         (whole false → anyBad s p n = false → exec read s = .next { t with host := .data port qpn ((List.range n).map fun i => memGet s.mem (p + i)) :: s.host }) ∧
         (¬ whole false ∨ anyBad s p n = true → ∃ l, inError l ∧ exec read s = .next { t with qpErr := l, host := .nakInvalid port qpn :: s.host })) ∧
       (paModule p ≠ s.module → 0 < n → p % 64 + n ≤ 64 → keyed true →
         (paModule p ∉ s.present ∨ 8192 ≤ (paModule p).toNat ∨ ¬ ported true p n → nak write) ∧
         (paModule p ∈ s.present → (paModule p).toNat < 8192 → ported true p n → ∃ t m, exec write s = .next t ∧ t.heldOut = s.heldOut ++ [m] ∧ t.host = s.host ∧ m.kind = 2 ∧
           m.tc = 2 ∧ m.sring = 0 ∧ m.dmod = paModule p ∧ m.jid = k.jid ∧ m.rtag = s.nextTag ∧ m.payload = bytesOf p 8 ++ data ∧ t.nextTag = s.nextTag + 1 ∧
           t.hostWaits = s.hostWaits ++ [{ port := port, qpn := qpn, send := false, read := false, parts := [(s.nextTag, none)] }] ∧ t.mem = s.mem))) ∧
     (live → (n < 32 ∨ 256 < n ∨ n % 32 ≠ 0 ∨ boundMailbox s port qpn = none → nak send) ∧
       ∀ h, boundMailbox s port qpn = some h → 32 ≤ n → n ≤ 256 → n % 32 = 0 →
         let msg := hostMessage s h data
         msg.dest.getLsbD 5 = false → msg.dest.extractLsb' 20 14 = s.module → (¬ running (jobOfDest s msg.dest) → enters send) ∧
           (running (jobOfDest s msg.dest) → ∀ t, offerHere s msg = .accepted t → exec send s = .next { t with host := .ack port qpn :: t.host }) ∧
           (running (jobOfDest s msg.dest) → offerHere s msg = .refused → exec send s = .next { s with host := .rnrNak port qpn :: s.host }) ∧
           (running (jobOfDest s msg.dest) → offerHere s msg = .absent → nak send)) ∧
     ∀ h : BitVec 14, (hostMessage s h data).payload = data ∧ (hostMessage s h data).hdr.getLsbD 30 = true ∧
       (hostMessage s h data).hdr.extractLsb' 31 14 = h ∧ (hostMessage s h data).hdr.extractLsb' 45 14 = s.module ∧
       (32 ≤ n → n ≤ 256 → (hostMessage s h data).dest.extractLsb' 50 3 = BitVec.ofNat 3 (n / 32 - 1))) ∧
  (∀ (s : State) (h : BitVec 14) (msg : Message),
     let e := (lookupKey s.ctl (bindingPa s h.toNat + 8)).getD 0
     let qp : BitVec 3 × BitVec 24 := (BitVec.ofNat 3 (4 * (h.toNat / 8192) + (e.extractLsb' 24 2).toNat), e.extractLsb' 0 24)
     (e.getLsbD 26 = false → offerHost s h msg = .absent) ∧
     (e.getLsbD 26 = true → ((lookupKey s.wqes qp).getD 0 = 0 → offerHost s h msg = .refused) ∧
       ∀ n, lookupKey s.wqes qp = some (n + 1) → ∃ t, offerHost s h msg = .accepted t ∧ t = { s with wqes := t.wqes, host := t.host } ∧
         t.host = .send qp.1 qp.2 msg.payload :: s.host ∧ lookupKey t.wqes qp = some n ∧ ∀ x, x ≠ qp → lookupKey t.wqes x = lookupKey s.wqes x)) ∧
  (∀ (s t : State) (msg : List Byte) (rings : List (BitVec 6)),
     let field (o lo len : Nat) : Nat := (∑ i ∈ Finset.range 8, 256 ^ i * (msg.getD (o + i) 0).toNat) / 2 ^ lo % 2 ^ len
     let jid : BitVec 16 := BitVec.ofNat 16 (field 0 0 16)
     let size := field 0 16 6 + 1
     let base := field 0 32 12
     let run : Instr := .launch msg rings
     let replied (u : State) (p : List Byte) : Prop := ∃ o, (u.ringAt 63).outbound = (t.ringAt 63).outbound ++ [o] ∧ o.msg.payload = p ∧
       o.msg.dest = (BitVec.ofNat 64 (field 0x30 0 64) &&& ~~~(7#64 <<< 50)) ∧ o.sent = false
     let word (v n : Nat) : List Byte := (List.range n).map fun i => BitVec.ofNat 8 (v / 256 ^ i)
     let fails (st : Nat) : Prop := ∃ u, exec run s = .next u ∧ u.actors = t.actors ∧ u.mem = t.mem ∧ replied u (word st 32)
     (takeCommand s 1 msg = none → exec run s = .next s) ∧
     (takeCommand s 2 msg = none → exec (.attest msg) s = .next s) ∧
     (takeCommand s 1 msg = some t → msg.length = 256 →
       (4094 < base + size - 1 ∨ field 0x38 0 4 ≠ 0 ∨ field 0x40 0 4 ≠ 0 ∨ field 0x40 32 32 ≠ 0 → launchMalformed msg = true) ∧
       (launchMalformed msg = true → fails 1) ∧
       (launchMalformed msg = false → ∀ u : State,
         (runtimeRun t (launchRecord msg) = (u, .waits) →
           exec run s = .next { s with runtimeReads := u.runtimeReads, nextTag := u.nextTag, heldOut := u.heldOut }) ∧
         (runtimeRun t (launchRecord msg) = (u, .denied) ∨ runtimeRun t (launchRecord msg) = (u, .value none) → fails 2) ∧
         ∀ r, runtimeRun t (launchRecord msg) = (u, .value (some r)) →
           let fits : Prop := ∀ m < 31, r.hmask.getLsbD m = true → field (0x80 + 4 * m) 24 1 = 1 ∧ field (0x80 + 4 * m) 0 16 = (r.boxes.getD m (0, 0, 0)).2.1.toNat ∧
             field (0x80 + 4 * m) 16 3 + 1 = (r.boxes.getD m (0, 0, 0)).2.2
           let taken : Prop := ∃ a ∈ t.actors, a.jid = jid ∧ a.aid ≠ 4095 ∧ a.phase ≠ .finished
           let held : Prop := ∃ a ∈ t.actors, a.phase ≠ .finished ∧ base ≤ a.aid.toNat ∧ a.aid.toNat < base + size
           let few : Prop := (((List.range 64).map (BitVec.ofNat 6)).filter (ringAvailable t)).length < size
           (¬ fits → fails 2) ∧ (fits → taken → fails 3) ∧ (fits → ¬ taken → few → fails 4) ∧ (fits → ¬ taken → ¬ few → held → fails 5) ∧
           (fits → ¬ taken → ¬ few → ¬ held → rings.length = size → rings.Nodup → rings.all (ringAvailable t) = true →
             ∃ v, exec run s = .next v ∧ v.mem = t.mem ∧ replied v (List.replicate 32 0) ∧ ∀ g < size, ∀ n, rings[g]? = some n →
               ∃ a ∈ v.actors, a.jid = jid ∧ a.aid.toNat = base + g ∧ a.ring = n ∧ a.wid.toNat = g ∧ a.prio.toNat = field 0 22 3 ∧ a.phase = .entry ∧
                 a.entryPc = r.entry ∧
                 a.stackTop = BitVec.ofNat 64 (field 0x38 0 64 + (g + 1) * field 0x40 0 32) ∧ a.ptroot.toNat = field 0x18 17 39 ∧
                 a.ctx = BitVec.ofNat 64 (field 0x20 0 56 + g * field 0x28 0 20 * 4096) ∧
                 ∀ m : Nat, (hm : m < 31) → (a.mbx[m]).mode = (if r.hmask.getLsbD m then 1 else if field (0x80 + 4 * m) 24 1 = 1 then 2 else 0) ∧
                   (a.mbx[m]).tag.toNat = field (0x80 + 4 * m) 0 16 ∧ (a.mbx[m]).beats.toNat = field (0x80 + 4 * m) 16 3))) ∧
     (∀ (v w : State) (r : ActorRecord), launchRecord msg v = .ok (some r) w → inMemory v (field 8 0 56) 8 →
       r.entry = BitVec.ofNat 64 (loaded v (field 8 0 56) 8)) ∧
     (takeCommand s 2 msg = some t → msg.length = 64 → ∃ u o, exec (.attest msg) s = .next u ∧ u.mem = t.mem ∧ u.actors = t.actors ∧
       (u.ringAt 63).outbound = (t.ringAt 63).outbound ++ [o] ∧ o.msg.payload.length = 256 ∧ o.msg.payload.take 32 = msg.take 32 ∧
       o.msg.payload.drop 160 = word (Config.signature (o.msg.payload.take 160)).toNat 96))

/-- R415, R421, R425, R442 and R478: boot from module reset takes the failures found and the cores marked for retirement in a repair store that
verifies out of use, rebuilds a store that does not from what it found, brings the
links up or declares them failed, takes its module number, below 8,192, ends deflection mode where it is the root, and sends the ready message to UDP port 47,210 from every port that is up; with no image that verifies, or
with two images, the module halts. R415 and R422: module reset leaves the reset state but for the repair store and what the host has seen. -/
def Obligations.BootResults : Prop :=
  ∀ (s : State) (b : BootReport),
    let usable (d : BitVec 3) : Prop := (b.failedSlices.filter fun p => p.1 == d).length < 2 ∧ ∀ p ∈ b.failedStacks, p.1 ≠ d
    let ready (t : State) (n : Nat) : Prop := ∃ l : List HostOut, t.host = l ++ s.host ∧ l.length = b.portsUp.dedup.length ∧
      ∀ o, o ∈ l ↔ ∃ q ∈ b.portsUp, o = .ready q 47210 n Config.serial (((List.range 64).map (BitVec.ofNat 6)).filter fun k => (t.ringAt k).absent)
        (((List.range 8).map (BitVec.ofNat 3)).filter fun d => !(t.die d).available) Config.keyDigest
    let halts (t : State) (n : Nat) : Prop := t.mode = .bootFailed ∧ (∀ c, (t.mgmtAt c).stopped = true) ∧ t.rings = s.rings ∧ t.mem = s.mem ∧ ready t n
    (s.mode ≠ .inReset ∨ 8192 ≤ b.module.toNat → exec (.boot b) s = .next s) ∧
    (s.mode = .inReset → b.module.toNat < 8192 → ∃ t, exec (.boot b) s = .next t ∧
      (match bootBank, b.sameImage with
        | none, _ => halts t 1
        | some _, false => halts t 2
        | some _, true => t.mode = .running ∧ t.module = b.module ∧ t.mem = s.mem ∧
          (∀ m, m ∈ t.present ↔ m = b.module ∨ (m ∈ b.present ∧ m.toNat < 8192)) ∧
          (s.recovering = [] → (∀ i < 18, (s.link i).recov = false) → (t.defl = false ↔ ∀ m ∈ t.present, b.module ≤ m)) ∧
          (∀ d, ((t.die d).available = true ↔ usable d) ∧ (t.die d).held = (if (t.die d).available then (s.die d).held else 0) ∧
            ∀ c, c ∈ (t.die d).failed ↔ (d, c.1, c.2) ∈ b.failedCores ∨ (Config.repairVerifies s.repair = true ∧ (d, c.1, c.2) ∈ s.repair)) ∧
          (if Config.repairVerifies s.repair then t.repair = s.repair else ∀ c, c ∈ t.repair ↔ c ∈ b.failedCores) ∧
          (∀ i : BitVec 5, i.toNat < 18 → ((t.link i.toNat).up = true ↔ i ∈ b.linksUp) ∧ ((t.link i.toNat).failed = true ↔ i ∉ b.linksUp)) ∧
          (∀ n, (t.die (dieOf n)).available = false → (t.ringAt n).absent = true) ∧
          ready t 0)) ∧
    ∃ t, exec .moduleReset s = .next t ∧ t.repair = s.repair ∧ t.host = s.host ∧ t.agenda = s.agenda ∧ t.lag = s.lag ∧ t.keep = s.keep ∧ t.fresh = s.fresh ∧
      { t with repair := [], host := [], agenda := [], lag := false, keep := false, fresh := 0 } = State.reset

/-! ### Decoding, the step and the whole machine (spec/02 R23; spec/04; spec/14 R276) -/

/-- R80 to R118: words written out from the spec's encodings decode to the instructions that they stand for, and words with an unassigned major, a
fixed field that is not zero or an operand that the entry refuses decode to none. -/
def Obligations.DecodedWords : Prop :=
  (∀ p ∈ ([(0x04A55800, .add 5 5 11), (0x08642801, .mulh 3 4 5), (0x20640085, .srai 3 4 5), (0x10A50001, .addi 5 5 1), (0x2CE000FF, .movz 7 0 0xFF),
      (0x30E30001, .movk 7 3 1), (0x5D800011, .beq 12 0 17), (0x58010000, .jalr 0 1 0), (0x6105C008, .ldd 8 5 8), (0x64626010, .std 3 2 16),
      (0x68AA0360, .lddAQ 5 10 3), (0x6CF40430, .ldsync 7 20 4), (0x70A00024, .csrr 5 0x024), (0x78000001, .eret), (0x780A5804, .tlbinv 10 11),
      (0x7C000005, .trap 5), (0x80631940, .vsetvli 6 12 6 5), (0x90824A2A, .vdot4Sat 8 9 10 1 0), (0x9C31052A, .vmfltVV 3 4 5 1 0),
      (0xAC328000, .vld 3 10 0 0 0), (0xC028B200, .tlda 10 11), (0xC1246700, .tmvz 1 9 6), (0xD195000B, .fork 12 21 11), (0xD4000080, .doneStrand),
      (0xD4053100, .send 5 6), (0xE00A0009, .sbind 10 9), (0xE0A11183, .sisectW 5 1 2 3), (0xE4615220, .chase 6 5 9 1),
      (0xF00AA090, .nred 10 20 1 0)] : List (Word32 × Instr)), decode p.1 = .ok p.2) ∧
    ∀ w ∈ ([0x00000000, 0xD8000000, 0x0400001F, 0x04A55840, 0x78000000, 0x7C010000, 0x74000000, 0x6C640018] : List Word32), (decode w).toOption = none

/-- R80 to R118: the encoding of a well-formed instruction decodes to that instruction, with every operand at every value. -/
def Obligations.EncodingsDecode : Prop :=
  ∀ (i : Instr) (w : Word32), i.wellFormed = true → encode i = some w → decode w = .ok i

/-- R80 to R118: a word that decodes is the encoding of the well-formed instruction that it decodes to: no bit of it goes unread. -/
def Obligations.DecodedAreEncodings : Prop :=
  ∀ (i : Instr) (w : Word32), decode w = .ok i → i.wellFormed = true ∧ encode i = some w

/-- R23, R44, R83, R107 and R379 (the order of agents is log 3's): a step at which a strand executes is exec of the instruction that the word at its
pc decodes to, or the next word of its convoy, and then time passes; under a pending prefix the word runs as the prefix lets it; a word that
decodes to nothing, and one that a management core does not execute, trap ILL with the word, and a failed fetch traps. An event on the agenda is
exec of it, but that a module without power, or whose boot has failed, meets nothing but its reset (R423, R478). -/
def Obligations.StepRunsDecoded : Prop :=
  ∀ s : State,
    let pc := s.hart.sc.pc
    let allowed (w : Word32) : Prop := s.onMgmt = none ∨ ∃ op, decodeOp w = .ok op ∧ mgmtExecutes op w = true
    (∀ i rest, s.agenda = .event i :: rest → (s.mode ≠ .off → s.mode ≠ .bootFailed → step s = exec i { s with agenda := rest }) ∧
      (s.mode = .off ∨ s.mode = .bootFailed → step s = if i = .moduleReset then exec i { s with agenda := rest } else .next { s with agenda := rest })) ∧
    (executes s →
      (s.hart.convoy = [] → ∀ w t, fetchWord pc s = .ok w t →
        (s.hart.pfx = none → allowed w → ∀ i, decode w = .ok i → step s = mapNext tick (exec i t)) ∧
        (s.hart.pfx ≠ none → step s = mapNext tick (runWord w t)) ∧
        (s.hart.queue = [] → (∃ e, decode w = .error e) ∨ ¬ allowed w → step s = .next (tick (takeTrap t 0x01 (w.setWidth 64) pc false false)))) ∧
      (s.hart.convoy = [] → s.hart.queue = [] → ∀ c v t, fetchWord pc s = .error (.trap c v) t → step s = .next (tick (takeTrap t c v pc false false))) ∧
      (s.hart.pfx = none → ∀ w rest i, s.hart.convoy = w :: rest → allowed w → decode w = .ok i → step s = mapNext tick (exec i s))) ∧
    (∀ t pa near, translate pc 4 .x s = .ok (pa, near) t → inMemory t pa 4 → fetchWord pc s = .ok (BitVec.ofNat 32 (loaded s pa 4)) t) ∧
    (∃ (l : Vector Die 8) (m : Vector Mgmt 2) (r b : Word) (j : Bool),
      tick s = { s with dies := l, mgmt := m, reference := r, refBack := b, joined := j, fresh := s.fresh + 1 } ∧ (j = true ↔ s.joined = true ∨ s.ring.state ≠ .empty ∨ ∃ r ∈ s.rings.toList, r.state ≠ .empty) ∧
      (∀ d : BitVec 3, ∃ n c b, (tick s).die d = { s.die d with count := n, cycle := c, back := b } ∧ (dieHalted s d = true → c = (s.die d).cycle)) ∧
      ∀ c, ∃ n, (tick s).mgmtAt c = { s.mgmtAt c with cycle := n })

/-- R36, R373 to R378, R404, R415, R419, R420, R440, R448 and R450: what reset leaves, at the values that the spec gives; the invariant holds. -/
def Obligations.ResetState : Prop :=
  let s := State.reset
  Inv s ∧ s.mode = .inReset ∧ s.onMgmt = none ∧ s.defl = true ∧ s.flowgap = 500 ∧ s.full = [] ∧ s.ctl = [] ∧ s.frames = [] ∧ s.jobs = [] ∧ s.reference = 0 ∧
    (∀ r, Hart.start.sc.get r = 0) ∧ Hart.start.sc.vl = 0 ∧ Hart.start.sc.sew = 0 ∧ Hart.start.sc.slices = 6 ∧ Hart.start.sc.vlmax = 2048 ∧
    Hart.start.sc.nreg = 2 ∧ Hart.start.sc.flags = 0 ∧ Hart.start.sc.ve = false ∧ Hart.start.vstart = 0 ∧ (∀ v, Hart.start.vr v = 0) ∧
    (∀ k, Hart.start.mask k = if k = 0 ∨ k = 7 then BitVec.allOnes 32768 else 0) ∧
    (∀ j, (Hart.start.slotAt j).bound = false) ∧ Hart.start.queue = [] ∧ Hart.start.cq = [] ∧ Hart.start.pfx = none ∧
    (∀ n, let r := s.ringAt n
      r.state = .empty ∧ r.halted = false ∧ r.epc = 0 ∧ r.ecause = 0 ∧ r.eval = 0 ∧ r.estat = 0 ∧ r.evec = 0 ∧ r.ptbase = 0 ∧ r.jid = 0 ∧
        r.quantum.extractLsb' 0 32 = (1000000 : BitVec 32) ∧ r.quantum.extractLsb' 32 16 = (1000 : BitVec 16) ∧ r.vlcap = 0 ∧ r.gangcfg = 0 ∧ r.reshapePend = false ∧
        r.gang = false ∧ r.chunks = [] ∧ r.outbound = [] ∧ r.region = none ∧ ∀ i : Fin 64, r.stride[i] = StrideEntry.cold) ∧
    (∀ c, let m := s.mgmtAt c
      m.mepc = 0 ∧ m.mcause = 0 ∧ m.mval = 0 ∧ m.mvec = 0 ∧ m.dbgHalt = 0 ∧ m.step = false ∧ m.pwrFloor = 300 ∧ m.pwrCeil = 520 ∧ m.pwrBoost = true ∧
        m.hart.level = .m) ∧
    (∀ d, let x := s.die d
      x.held = 420 ∧ x.owed = 0 ∧ x.lent = 0 ∧ x.step = 15 ∧ x.cestat = 0 ∧ x.droop = 0 ∧ x.count = 0) ∧
    (∀ i < 18, s.link i = Link.reset) ∧ Link.reset.up = false ∧ Link.reset.kept = [] ∧ Link.reset.replays = 0 ∧
    ∀ w ∈ moduleSwitches, (s.switchOf w).groups = [] ∧ (s.switchOf w).buf = [] ∧ (s.switchOf w).jobs = []

/-- Every step keeps the invariant: the canonical form of the memory (log 1) and of the control region, the module's switches (R424, R466), and the
place of every slice line (R282). -/
def Obligations.InvariantKept : Prop :=
  ∀ s t : State, Inv s → step s = .next t → Inv t

/-- R24, R35, R107 and R135: the frames of the scalar instructions. One that has a register result leaves every other register but the copy register
of a prefix, every flag that it is not said to raise, every CSR, the vector, mask and tile registers, every special register and every byte of
memory; a store leaves every register, and every byte but the ones at the address that it translates to. (The store of a chunk may squash
younger chunks of its ring, R226; no storage of memory or the L1 holds an error, which an eviction may undo, R292.) -/
def Obligations.ScalarFrames : Prop :=
  ∀ (s t : State) (d a b c : BitVec 5) (imm : BitVec 16) (off : BitVec 13) (sh : BitVec 6) (k q : BitVec 2) (ty : BitVec 2) (rm : BitVec 3), memoryWf s → ready s →
    let beside : Prop := t.hart.sc.vl = s.hart.sc.vl ∧ t.hart.sc.sew = s.hart.sc.sew ∧ t.hart.sc.slices = s.hart.sc.slices ∧
      t.hart.sc.vlmax = s.hart.sc.vlmax ∧ t.hart.sc.nreg = s.hart.sc.nreg ∧ t.hart.sc.rm = s.hart.sc.rm ∧ t.hart.sc.ve = s.hart.sc.ve ∧
      t.hart.sc.livein = s.hart.sc.livein ∧ t.hart.vstart = s.hart.vstart ∧ t.hart.v = s.hart.v ∧ t.hart.k = s.hart.k ∧ t.hart.z = s.hart.z ∧
      t.hart.aBuf = s.hart.aBuf ∧ t.hart.bBuf = s.hart.bBuf ∧ t.hart.slots = s.hart.slots ∧ t.hart.cq = s.hart.cq ∧ t.hart.level = s.hart.level ∧
      t.rings = s.rings ∧ t.mgmt = s.mgmt ∧ t.full = s.full ∧ t.ctl = s.ctl ∧ t.dies = s.dies
    let others : Prop := ∀ r, r ≠ d → copyOf s ≠ some (r.setWidth 6) → t.hart.sc.get r = s.hart.sc.get r
    let bytes : Prop := ∀ p, t.peek p = s.peek p
    let va := x s a + off.signExtend 64
    (∀ i ∈ [Instr.add d a b, .sub d a b, .and d a b, .or d a b, .xor d a b, .andn d a b, .orn d a b, .xnor d a b, .sll d a b, .srl d a b, .sra d a b,
        .rol d a b, .ror d a b, .min d a b, .minu d a b, .max d a b, .maxu d a b, .seq d a b, .sne d a b, .slt d a b, .sltu d a b, .mul d a b, .mulh d a b,
        .mulhu d a b, .div d a b, .divu d a b, .rem d a b, .remu d a b, .clz d a, .ctz d a, .popc d a, .bext d a b, .bdep d a b, .bswap d a, .sextB d a,
        .sextH d a, .sextW d a, .zextB d a, .zextH d a, .zextW d a, .addi d a imm, .andi d a imm, .ori d a imm, .xori d a imm, .slti d a imm,
        .sltiu d a imm, .slli d a sh, .srli d a sh, .srai d a sh, .movz d k imm, .movk d k imm, .fsgnj d a b ty, .fsgnjn d a b ty, .fsgnjx d a b ty,
        .fclass d a ty],
      exec i s = .next t → beside ∧ t.ring = s.ring ∧ others ∧ bytes ∧ t.hart.sc.flags = s.hart.sc.flags) ∧
    (∀ i ∈ [Instr.fadd d a b ty rm, .fsub d a b ty rm, .fmul d a b ty rm, .fdiv d a b ty rm, .fsqrt d a ty rm, .fmin d a b ty, .fmax d a b ty,
        .feq d a b ty, .flt d a b ty, .fle d a b ty, .fcvtFF d a q ty rm, .fcvtFI d a q ty rm, .fcvtIF d a q ty rm, .fmadd d a b c ty rm,
        .fmsub d a b c ty rm, .fnmadd d a b c ty rm],
      exec i s = .next t → beside ∧ t.ring = s.ring ∧ others ∧ bytes ∧ s.hart.sc.flags &&& ~~~t.hart.sc.flags = 0) ∧
    (∀ p ∈ ([(.ldb d a off, 1), (.ldbu d a off, 1), (.ldh d a off, 2), (.ldhu d a off, 2), (.ldw d a off, 4), (.ldwu d a off, 4), (.ldd d a off, 8)] :
        List (Instr × Nat)),
      errorFree s → va.toNat % p.2 = 0 → ∀ pa near u, translate va p.2 .r s = .ok (pa, near) u → inMemory u pa p.2 → linesFit u pa p.2 →
        exec p.1 s = .next t → beside ∧ t.ring = s.ring ∧ others ∧ bytes ∧ t.hart.sc.flags = s.hart.sc.flags) ∧
    (∀ p ∈ ([(.stb d a off, 1), (.sth d a off, 2), (.stw d a off, 4), (.std d a off, 8)] : List (Instr × Nat)),
      errorFree s → s.hart.queue = [] → va.toNat % p.2 = 0 → ∀ pa near u, translate va p.2 .w s = .ok (pa, near) u → storable u pa p.2 →
        linesFit u pa p.2 → exec p.1 s = .next t →
          beside ∧ (s.hart.held = false → t.ring = s.ring) ∧ (∀ r, t.hart.sc.get r = s.hart.sc.get r) ∧ t.hart.sc.flags = s.hart.sc.flags ∧
          ∀ p', p' < pa ∨ pa + p.2 ≤ p' → t.peek p' = s.peek p')

/-- R291: a load that takes a byte with an uncorrectable error from memory traps MCHK at itself with the address of the access in EVAL; an instruction that reads a
scalar, vector or mask register in error traps MCHK at itself, a queued one with VEC (the value in EVAL is log 48's); one whose source registers
are sound completes, and what it writes holds no error. -/
def Obligations.UncorrectableErrors : Prop :=
  (∀ (s t : State) (d a : BitVec 5) (off : BitVec 13) (n pa : Nat) (near : Bool), ready s → s.hart.queue = [] →
     let va := x s a + off.signExtend 64
     va.toNat % n = 0 → translate va n .r s = .ok (pa, near) t → paModule pa = t.module → paControl pa = false → linesFit t pa n →
     (∃ b ∈ t.bad, pa ≤ b ∧ b < pa + n ∧ fromMemory t b = true) →
     ∀ i ∈ ([(.ldb d a off, 1), (.ldbu d a off, 1), (.ldh d a off, 2), (.ldhu d a off, 2), (.ldw d a off, 4), (.ldwu d a off, 4), (.ldd d a off, 8)] :
         List (Instr × Nat)), i.2 = n → exec i.1 s = .next (takeTrap t 0x0F va s.hart.sc.pc false false)) ∧
  (∀ (s : State) (d a b : BitVec 5) (imm : BitVec 16) (off : BitVec 13), s.hart.queue = [] → s.hart.awaiting = 0 →
     let bad (r : BitVec 5) : Bool := s.hart.sc.bad.getLsbD r.toNat
     (bad a = true → ∃ v, ∀ i ∈ [Instr.add d a b, .sub d a b, .mul d a b, .popc d a, .addi d a imm, .ldd d a off, .std d a off, .beq a b off,
         .jalr d a imm], exec i s = .next (takeTrap s 0x0F v s.hart.sc.pc false false)) ∧
     (bad a = false → bad b = false → ∃ t, exec (.add d a b) s = .next t ∧ t = next (putDest d (x s a + x s b)) s ∧
       (d ≠ 0 → t.hart.sc.bad.getLsbD d.toNat = false))) ∧
  ∀ (s : State) (d a b : BitVec 6) (km : BitVec 3), s.hart.queue = [] → s.hart.awaiting = 0 → s.hart.imageDone = true → s.lag = false →
    s.hart.vremote = [] → s.hart.remote = [] → s.hart.park = .running → s.hart.pfx = none → s.hart.convoy = [] →
    (∀ j : BitVec 3, (s.hart.slotAt j).bound = false) → d.toNat < regs s → a.toNat < regs s → b.toNat < regs s → s.hart.sc.sew.toNat < 8 →
    (s.hart.vBad.getLsbD a.toNat || s.hart.vBad.getLsbD b.toNat || s.hart.kBad.getLsbD km.toNat) = true →
    ∃ v, ∀ i ∈ [Instr.vaddVV d a b km 0, .vsubVV d a b km 0, .vmulVV d a b km 0], exec i s = .next (takeTrap s 0x0F v s.hart.sc.pc true false)
end

