-- ==== Sys2Proof/Laws/Memory.lean ====
section
/-! SUPPORT. Laws of memory: a read after a write, the bytes a write leaves alone, and the canonical form that every memory operation keeps
(spec/14; spec/01 R4). -/

namespace Sys2Proof.Machine

/-- A list that is canonical above a bound is canonical above a lower one. -/
theorem cellsAbove_mono {m : List Host.Cell} {a b : Nat} (h : a ≤ b) (hm : cellsAbove (some b) m = true) : cellsAbove (some a) m = true := by
  cases m with
  | nil => rfl
  | cons c t =>
    simp only [cellsAbove, Bool.and_eq_true, decide_eq_true_eq] at *
    exact ⟨⟨by omega, hm.1.2⟩, hm.2⟩

/-- A list canonical above a bound is canonical. -/
theorem cellsAbove_none {m : List Host.Cell} {a : Option Nat} (hm : cellsAbove a m = true) : cellsAbove none m = true := by
  cases m with
  | nil => rfl
  | cons c t =>
    simp only [cellsAbove, Bool.and_eq_true] at *
    exact ⟨⟨trivial, hm.1.2⟩, hm.2⟩

/-- A byte stored above a bound leaves the list canonical above it. -/
theorem memSet_above (x : Byte) {a b : Nat} (h : b < a) :
    ∀ {m : List Host.Cell}, cellsAbove (some b) m = true → cellsAbove (some b) (memSet m a x) = true
  | [], _ => by
    unfold memSet
    split
    · rfl
    · simp_all [cellsAbove]
  | (c, y) :: t, hm => by
    simp only [cellsAbove, Bool.and_eq_true, decide_eq_true_eq] at hm
    obtain ⟨⟨h1, h2⟩, h3⟩ := hm
    unfold memSet
    split
    · rename_i hac
      split <;> simp_all [cellsAbove]
    · split
      · rename_i hac
        subst hac
        split
        · exact cellsAbove_mono (by omega) h3
        · simp_all [cellsAbove]
      · have : c < a := by omega
        simp [cellsAbove, h1, memSet_above x this h3]
        exact bne_iff_ne.mp h2

/-- A stored byte keeps the canonical form. -/
theorem memSet_wf (m : List Host.Cell) (a : Nat) (x : Byte) (hm : Memory.wf m = true) : Memory.wf (memSet m a x) = true := by
  unfold Memory.wf at *
  cases m with
  | nil => unfold memSet; split <;> simp_all [cellsAbove]
  | cons c t =>
    obtain ⟨b, y⟩ := c
    simp only [cellsAbove, Bool.and_eq_true, Bool.true_and] at hm
    obtain ⟨h2, h3⟩ := hm
    have hy : y ≠ unwrittenByte := bne_iff_ne.mp h2
    unfold memSet
    split
    · split <;> simp_all [cellsAbove]
    · split
      · rename_i hac
        subst hac
        split
        · exact cellsAbove_none h3
        · simp_all [cellsAbove]
      · have : b < a := by omega
        simp [cellsAbove, hy, memSet_above x this h3]

/-- Nothing is listed below the bound of a canonical list. -/
theorem memGet_below {m : List Host.Cell} {a b : Nat} (hm : cellsAbove (some b) m = true) (h : a ≤ b) : memGet m a = unwrittenByte := by
  cases m with
  | nil => rfl
  | cons c t =>
    obtain ⟨d, y⟩ := c
    simp only [cellsAbove, Bool.and_eq_true, decide_eq_true_eq] at hm
    unfold memGet
    rw [if_neg (by omega), if_pos (by omega)]

/-- Reading a byte of a canonical list after a byte is stored above its bound. -/
theorem memGet_memSet_above (x : Byte) (a c : Nat) :
    ∀ {m : List Host.Cell} {b : Option Nat}, cellsAbove b m = true → memGet (memSet m a x) c = if c = a then x else memGet m c
  | [], _, _ => by
    unfold memSet
    split
    · simp_all [memGet]
    · simp only [memGet]; split <;> simp_all
  | (d, y) :: t, _, hm => by
    simp only [cellsAbove, Bool.and_eq_true] at hm
    have h3 := hm.2
    unfold memSet
    split
    · rename_i had
      split
      · rename_i hx
        by_cases hc : c = a
        · subst hc
          simp only [memGet, if_pos]
          rw [if_neg (by omega), if_pos had, hx]
        · simp [hc]
      · by_cases hc : c = a
        · simp [memGet, hc]
        · simp only [memGet, hc, if_false]
          split
          · rw [if_neg (by omega), if_pos (by omega)]
          · rfl
    · split
      · rename_i had
        subst had
        split
        · rename_i hx
          by_cases hc : c = a
          · subst hc
            simp [hx, memGet_below h3 (Nat.le_refl c)]
          · simp only [memGet, hc, if_false]
            split
            · exact memGet_below h3 (by omega)
            · rfl
        · by_cases hc : c = a <;> simp [memGet, hc]
      · simp only [memGet]
        split
        · rw [if_neg (by omega)]
        · split
          · rw [if_neg (by omega)]
          · exact memGet_memSet_above x a c h3

/-- A read after a write of one byte: the byte written, at its address; what was there, at every other (R4). -/
theorem memGet_memSet {m : List Host.Cell} (hm : Memory.wf m = true) (a c : Nat) (x : Byte) :
    memGet (memSet m a x) c = if c = a then x else memGet m c := memGet_memSet_above x a c hm

/-! ### Slices and the L1: what a read or a write through them may change (R281 to R285, R292) -/

theorem foldl_memSet_wf (l : List Host.Cell) : ∀ {m : List Host.Cell}, Memory.wf m = true → Memory.wf (l.foldl (fun m c => memSet m c.1 c.2) m) = true := by
  induction l with
  | nil => exact id
  | cons c t ih => exact fun h => ih (memSet_wf _ _ _ h)

/-- Two states that differ in nothing but what an eviction from a slice may change: the lines, and what an uncorrectable sector leaves (R292). -/
def sameButLines (s t : State) : Prop :=
  t = { s with mem := t.mem, bad := t.bad, released := t.released, lines := t.lines, mgmt := t.mgmt, lost := t.lost }

theorem sameButLines_rfl (s : State) : sameButLines s s := rfl

theorem sameButLines_trans {s t u : State} (h : sameButLines s t) (g : sameButLines t u) : sameButLines s u := by
  unfold sameButLines at *
  rw [g, h]

/-- Something that holds of a state and is kept by each step of a fold holds after it. -/
theorem foldl_keeps {α β : Type} (p : β → Prop) (f : β → α → β) (hf : ∀ b a, p b → p (f b a)) : ∀ (l : List α) {b : β}, p b → p (l.foldl f b)
  | [], _, h => h
  | a :: t, _, h => foldl_keeps p f hf t (hf _ a h)

theorem writeBackSector_same (s : State) (x : SliceLine) (i : Nat) : sameButLines s (writeBackSector s x i) := by
  unfold writeBackSector
  dsimp only
  split <;> rfl

theorem evictLine_same (s : State) (x : SliceLine) : sameButLines s (evictLine s x) :=
  foldl_keeps (sameButLines s) _ (fun b i h => sameButLines_trans h (writeBackSector_same b x i)) _ rfl

theorem lineFor_same (s : State) (r : SliceReq) : sameButLines s (lineFor s r).1 := by
  unfold lineFor
  split
  · rfl
  · dsimp only
    split
    · exact evictLine_same s _
    · rfl

/-- What a slice serves changes its lines, beside what an eviction leaves. -/
theorem serveSlice_lines (s : State) (r : SliceReq) : serveSlice s r = { (lineFor s r).1 with lines := (serveSlice s r).lines } := by
  unfold serveSlice
  rcases lineFor s r with ⟨t, x⟩
  rfl

theorem serveSlice_same (s : State) (r : SliceReq) : sameButLines s (serveSlice s r) := by
  rw [serveSlice_lines]
  exact sameButLines_trans (lineFor_same s r) rfl

theorem sliceRequest_same (s : State) (pa : Nat) (w : Bool) : sameButLines s (sliceRequest s pa w) := by
  unfold sliceRequest
  split
  · exact serveSlice_same _ _
  · rfl

/-- The same, and the L1 lines. -/
def sameButCaches (s t : State) : Prop :=
  t = { s with mem := t.mem, bad := t.bad, released := t.released, lines := t.lines, mgmt := t.mgmt, lost := t.lost, l1 := t.l1 }

theorem sameButCaches_rfl (s : State) : sameButCaches s s := rfl

theorem sameButCaches_trans {s t u : State} (h : sameButCaches s t) (g : sameButCaches t u) : sameButCaches s u := by
  unfold sameButCaches at *
  rw [g, h]

theorem sameButCaches_lines {s t : State} (h : sameButLines s t) : sameButCaches s t := by
  unfold sameButLines at h
  unfold sameButCaches
  rw [h]

theorem cacheSector_same (s : State) (pa : Nat) : sameButCaches s (cacheSector s pa) := by
  unfold cacheSector
  split
  · rfl
  · split
    · dsimp only
      split
      · rfl
      · exact sameButCaches_trans (sameButCaches_lines (sliceRequest_same s pa false)) rfl
    · exact sameButCaches_lines (sliceRequest_same s pa false)

/-- A read through the caches changes nothing but the caches and what an eviction leaves. -/
theorem cacheRead_same (s : State) (pa n : Nat) : sameButCaches s (cacheRead s pa n) :=
  foldl_keeps (sameButCaches s) _ (fun b q h => sameButCaches_trans h (cacheSector_same b q)) _ rfl

theorem cacheWrite_same (s : State) (pa : Nat) : sameButCaches s (cacheWrite s pa) := by
  unfold cacheWrite
  split
  · exact sameButCaches_trans (sameButCaches_lines (sliceRequest_same s pa true)) rfl
  · rfl

/-- A stored byte changes memory, what is kept of its bytes, the caches, and what an eviction leaves. -/
theorem poke_same (s : State) (a : Nat) (x : Byte) : sameButCaches s (s.poke a x) := sameButCaches_trans (cacheWrite_same s a) rfl

/-! Every one keeps the canonical form of memory. -/

theorem writeBackSector_wf {s : State} (hm : Memory.wf s.mem = true) (x : SliceLine) (i : Nat) : Memory.wf (writeBackSector s x i).mem = true := by
  unfold writeBackSector
  dsimp only
  split
  · exact foldl_memSet_wf _ hm
  · exact hm

theorem evictLine_wf {s : State} (hm : Memory.wf s.mem = true) (x : SliceLine) : Memory.wf (evictLine s x).mem = true :=
  foldl_keeps (fun t : State => Memory.wf t.mem = true) _ (fun _ i h => writeBackSector_wf h x i) _ hm

theorem sliceRequest_wf {s : State} (hm : Memory.wf s.mem = true) (pa : Nat) (w : Bool) : Memory.wf (sliceRequest s pa w).mem = true := by
  unfold sliceRequest
  split
  · dsimp only
    rw [serveSlice_lines]
    unfold lineFor
    split
    · exact hm
    · dsimp only
      split
      · exact evictLine_wf hm _
      · exact hm
  · exact hm

theorem cacheRead_wf {s : State} (hm : Memory.wf s.mem = true) (pa n : Nat) : Memory.wf (cacheRead s pa n).mem = true := by
  refine foldl_keeps (fun t : State => Memory.wf t.mem = true) _ (fun t q h => ?_) _ hm
  unfold cacheSector
  split
  · exact h
  · split
    · dsimp only
      split
      · exact h
      · exact sliceRequest_wf h q false
    · exact sliceRequest_wf h q false

theorem cacheWrite_wf {s : State} (hm : Memory.wf s.mem = true) (pa : Nat) : Memory.wf (cacheWrite s pa).mem = true := by
  unfold cacheWrite
  split
  · exact sliceRequest_wf hm pa true
  · exact hm

/-! Where no byte is in error, the caches leave memory as it is. -/

theorem anyBad_none {s : State} (h : s.bad = []) (pa n : Nat) : anyBad s pa n = false := by simp [anyBad, h]

theorem evictLine_clean {s : State} (h : s.bad = []) (x : SliceLine) : evictLine s x = { s with lines := s.lines.filter (· ≠ x) } := by
  have (t : State) (i : Nat) (ht : t.bad = []) : writeBackSector t x i = t := by simp [writeBackSector, anyBad_none ht]
  unfold evictLine
  have key : ∀ (l : List Nat) (t : State), t.bad = [] → l.foldl (fun t i => writeBackSector t x i) t = t := by
    intro l
    induction l with
    | nil => exact fun _ _ => rfl
    | cons i l ih => exact fun t ht => by rw [List.foldl_cons, this t i ht, ih t ht]
  exact key _ _ h

theorem sliceRequest_clean {s : State} (h : s.bad = []) (pa : Nat) (w : Bool) :
    sliceRequest s pa w = { s with lines := (sliceRequest s pa w).lines } := by
  have key (r : SliceReq) : (lineFor s r).1 = { s with lines := (lineFor s r).1.lines } := by
    unfold lineFor
    split
    · rfl
    · dsimp only
      split
      · rw [evictLine_clean h]
      · rfl
  unfold sliceRequest
  split
  · dsimp only
    rw [serveSlice_lines, key]
  · rfl

theorem cacheRead_clean (s : State) (h : s.bad = []) (pa n : Nat) :
    cacheRead s pa n = { s with lines := (cacheRead s pa n).lines, l1 := (cacheRead s pa n).l1 } := by
  refine (foldl_keeps (fun t : State => t = { s with lines := t.lines, l1 := t.l1 }) _ (fun t q ht => ?_) _ rfl)
  have hb : t.bad = [] := by rw [ht]; exact h
  have key (w : Bool) : sliceRequest t q w = { s with lines := (sliceRequest t q w).lines, l1 := t.l1 } := by
    rw [sliceRequest_clean hb q w, ht]
  unfold cacheSector
  split
  · exact ht
  · split
    · dsimp only
      split
      · rw [ht]
      · rw [key false]
    · rw [key false]

theorem cacheWrite_clean (s : State) (h : s.bad = []) (pa : Nat) :
    cacheWrite s pa = { s with lines := (cacheWrite s pa).lines, l1 := (cacheWrite s pa).l1 } := by
  unfold cacheWrite
  split
  · dsimp only
    rw [sliceRequest_clean h pa true]
  · rfl

/-- A read after a write of one byte, in a module where no byte is in error. -/
theorem poke_get {s : State} (hm : Memory.wf s.mem = true) (hb : s.bad = []) (a c : Nat) (x : Byte) :
    memGet (s.poke a x).mem c = if c = a then x else memGet s.mem c := by
  have : (s.poke a x).mem = memSet s.mem a x := by
    unfold State.poke
    dsimp only
    rw [cacheWrite_clean s hb a]
  rw [this]
  exact memGet_memSet hm a c x

theorem poke_wf {s : State} (hm : Memory.wf s.mem = true) (a : Nat) (x : Byte) : Memory.wf (s.poke a x).mem = true :=
  memSet_wf _ _ _ (cacheWrite_wf hm a)

theorem pokeLE_wf : ∀ (n : Nat) {s : State} (a x : Nat), Memory.wf s.mem = true → Memory.wf (s.pokeLE a x n).mem = true
  | 0, _, _, _, h => h
  | n + 1, _, _, _, h => pokeLE_wf n _ _ (poke_wf h _ _)

theorem pokeBytes_wf : ∀ (l : List Byte) {s : State} (a : Nat), Memory.wf s.mem = true → Memory.wf (s.pokeBytes a l).mem = true
  | [], _, _, h => h
  | _ :: t, _, _, h => pokeBytes_wf t _ (poke_wf h _ _)

theorem pokeCells_wf : ∀ (l : List Host.Cell) {s : State}, Memory.wf s.mem = true → Memory.wf (pokeCells s l).mem = true
  | [], _, h => h
  | _ :: t, _, h => pokeCells_wf t (poke_wf h _ _)

theorem writeLE_wf : ∀ (n : Nat) {m : List Host.Cell} (a x : Nat), Memory.wf m = true → Memory.wf (writeLE m a x n) = true
  | 0, _, _, _, h => h
  | n + 1, _, _, _, h => writeLE_wf n _ _ (memSet_wf _ _ _ h)

/-- Cells left out of a canonical list leave it canonical. -/
theorem cellsAbove_filter (f : Host.Cell → Bool) : ∀ {m : List Host.Cell} {a : Nat}, cellsAbove (some a) m = true → cellsAbove (some a) (m.filter f) = true
  | [], _, _ => rfl
  | c :: t, a, h => by
    simp only [cellsAbove, Bool.and_eq_true, decide_eq_true_eq] at h
    by_cases hc : f c = true
    · simp only [List.filter_cons, hc, if_true, cellsAbove, Bool.and_eq_true, decide_eq_true_eq]
      exact ⟨h.1, cellsAbove_filter f h.2⟩
    · simp only [List.filter_cons, hc]
      exact cellsAbove_filter f (cellsAbove_mono (Nat.le_of_lt h.1.1) h.2)

theorem filter_wf (f : Host.Cell → Bool) {m : List Host.Cell} (h : Memory.wf m = true) : Memory.wf (m.filter f) = true := by
  cases m with
  | nil => rfl
  | cons c t =>
    simp only [Memory.wf, cellsAbove, Bool.and_eq_true] at h
    by_cases hc : f c = true
    · simp only [List.filter_cons, hc, if_true, Memory.wf, cellsAbove, Bool.and_eq_true]
      exact ⟨h.1, cellsAbove_filter f h.2⟩
    · simp only [List.filter_cons, hc]
      exact cellsAbove_none (cellsAbove_filter f h.2)

theorem clearSlot_wf {s : State} (h : Memory.wf s.mem = true) (b : Nat) : Memory.wf (clearSlot s b).mem = true := filter_wf _ h

theorem squashReaders_same (s : State) (q : Nat) : squashReaders s q = { s with ring := (squashReaders s q).ring } := by
  unfold squashReaders
  split
  · split <;> rfl
  · rfl

theorem overrideYounger_same (s : State) (l : List Host.Cell) : overrideYounger s l = { s with ring := (overrideYounger s l).ring } := by
  unfold overrideYounger
  split <;> rfl

/-- A chunk's store leaves memory as it is (R226). -/
theorem storeByte_chunk {s : State} (h : s.hart.held = true) (a : Nat) (x : Byte) : (storeByte s a x).mem = s.mem := by
  unfold storeByte
  rw [if_pos h, squashReaders_same]

theorem storeByte_wf {s : State} (hm : Memory.wf s.mem = true) (a : Nat) (x : Byte) : Memory.wf (storeByte s a x).mem = true := by
  rcases h : s.hart.held with _ | _
  · unfold storeByte
    simpa [h] using poke_wf hm a x
  · rw [storeByte_chunk h]
    exact hm

theorem storeBytes_wf : ∀ (n : Nat) {s : State} (a x : Nat), Memory.wf s.mem = true → Memory.wf (storeBytes s a x n).mem = true
  | 0, _, _, _, h => h
  | n + 1, _, _, _, h => storeBytes_wf n _ _ (storeByte_wf h _ _)

theorem storeDirect_wf : ∀ (n : Nat) {s : State} (a x : Nat), Memory.wf s.mem = true → Memory.wf (storeDirect s a x n).mem = true
  | 0, _, _, _, h => h
  | n + 1, s, a, x, h => by
    unfold storeDirect
    apply storeDirect_wf n
    apply poke_wf
    rw [overrideYounger_same, squashReaders_same]
    exact h

theorem flushWritten_wf {s : State} (hm : Memory.wf s.mem = true) : Memory.wf (flushWritten s).mem = true := by
  unfold flushWritten
  split
  · refine pokeCells_wf _ ?_
    rw [overrideYounger_same]
    exact hm
  · exact hm

/-- Reset memory lists nothing. -/
theorem reset_memory : State.reset.mem = [] := rfl

theorem reset_wf : Memory.wf State.reset.mem = true := rfl

/-- The bytes of a written number, read back: at each of its n addresses the byte it has there, elsewhere what was there (R4). -/
theorem memGet_writeLE : ∀ (n : Nat) {m : List Host.Cell}, Memory.wf m = true → ∀ (a x c : Nat),
    memGet (writeLE m a x n) c = if a ≤ c ∧ c < a + n then BitVec.ofNat 8 (x >>> (8 * (c - a))) else memGet m c
  | 0, _, _, a, _, c => by simp [writeLE]
  | n + 1, m, hm, a, x, c => by
    rw [writeLE, memGet_writeLE n (memSet_wf _ _ _ hm), memGet_memSet hm]
    by_cases h1 : c = a
    · subst h1
      simp
    · by_cases h2 : a + 1 ≤ c ∧ c < a + 1 + n
      · have h3 : a ≤ c ∧ c < a + (n + 1) := by omega
        rw [if_pos h2, if_pos h3]
        have : c - a = c - (a + 1) + 1 := by omega
        rw [this, Nat.mul_add, Nat.shiftRight_eq_div_pow, Nat.shiftRight_eq_div_pow, Nat.div_div_eq_div_mul]
        congr 2
        rw [show (8 * (c - (a + 1)) + 8 * 1) = 8 + 8 * (c - (a + 1)) by omega, Nat.pow_add]
      · rw [if_neg h2, if_neg h1, if_neg (by omega)]

end Sys2Proof.Machine
end

