-- ==== Sys2Proof/Laws/Scalar.lean ====
section
/-! SUPPORT. Laws of the computations that meanings are written in: what each elementary computation answers, what reading and writing registers
answers when every operand is there, and the state that a scalar instruction of each shape leaves. -/

namespace Sys2Proof.Machine

open Sys2Proof.Safety

/-! ### Computations -/

@[simp] theorem bind_ok {α β : Type} {m : M α} {f : α → M β} {s t : State} {a : α} (h : m s = .ok a t) : (m >>= f) s = f a t := by
  simp [bind, EStateM.bind, h]

@[simp] theorem bind_error {α β : Type} {m : M α} {f : α → M β} {s t : State} {e : Stop} (h : m s = .error e t) :
    (m >>= f) s = .error e t := by
  simp [bind, EStateM.bind, h]

/-- The value and the state that a sequence answers come from a value and a state of its first part. -/
theorem bind_eq_ok {α β : Type} {m : M α} {f : α → M β} {s t : State} {b : β} (h : (m >>= f) s = .ok b t) :
    ∃ a u, m s = .ok a u ∧ f a u = .ok b t := by
  simp only [bind, EStateM.bind] at h
  split at h
  · exact ⟨_, _, ‹_›, h⟩
  · cases h

@[simp] theorem pure_apply {α : Type} (a : α) (s : State) : (pure a : M α) s = .ok a s := rfl
@[simp] theorem get_apply (s : State) : (get : M State) s = .ok s s := rfl
@[simp] theorem set_apply (s t : State) : (set t : M PUnit) s = .ok ⟨⟩ t := rfl
@[simp] theorem modify_apply (f : State → State) (s : State) : (modify f : M PUnit) s = .ok ⟨⟩ (f s) := rfl
@[simp] theorem modHart_apply (f : Hart → Hart) (s : State) : modHart f s = .ok () { s with hart := f s.hart } := rfl
@[simp] theorem modRing_apply (f : Ring → Ring) (s : State) : modRing f s = .ok () { s with ring := f s.ring } := rfl
@[simp] theorem trap_apply {α : Type} (c : BitVec 8) (v : Word) (s : State) : (trap c v : M α) s = .error (.trap c v) s := rfl
@[simp] theorem ill_apply {α : Type} (w : Word32) (s : State) : (ill w : M α) s = .error (.trap causeILL (w.setWidth 64)) s := rfl
@[simp] theorem wait_apply {α : Type} (w : Wait) (s : State) : (wait w : M α) s = .error (.wait w) s := rfl
@[simp] theorem throw_apply {α : Type} (e : Stop) (s : State) : (throw e : M α) s = .error e s := rfl
@[simp] theorem rdPc_apply (s : State) : rdPc s = .ok s.hart.sc.pc s := rfl
@[simp] theorem setPc_apply (a : Word) (s : State) :
    setPc a s = .ok () { s with hart := { s.hart with sc := { s.hart.sc with pc := a } } } := rfl
@[simp] theorem nextPc_apply (s : State) :
    nextPc s = .ok () { s with hart := { s.hart with sc := { s.hart.sc with pc := s.hart.sc.pc + 4 } } } := rfl
@[simp] theorem raiseFlags_apply (f : BitVec 6) (s : State) : raiseFlags f s = .ok () { s with hart := raise f s.hart } := rfl

/-! ### Scalar registers (R24, R39, R107, R221) -/

/-- s0 reads zero. -/
@[simp] theorem get_zero (c : Scal) : c.get 0 = 0 := rfl

/-- A register that is written reads as written; every other one, and s0, as before (R24). -/
theorem get_put (c : Scal) (r q : BitVec 5) (v : Word) : (c.put r v).get q = if q = r ∧ r ≠ 0 then v else c.get q := by
  by_cases hr : r = 0
  · simp [Scal.put, hr]
  · by_cases hq : q = 0
    · subst hq
      rw [get_zero, get_zero]
      split
      · rename_i e
        exact absurd e.1.symm hr
      · rfl
    · by_cases h : q = r
      · subst h
        rw [if_pos ⟨rfl, hr⟩]
        unfold Scal.put Scal.get
        rw [if_neg hr, if_neg hr]
        exact Vector.getElem_set_self _
      · simp only [Scal.put, Scal.get, if_neg hr, if_neg hq, h, false_and, if_false]
        apply Vector.getElem_set_ne
        intro e
        exact h (BitVec.eq_of_toNat_eq e.symm)

@[simp] theorem put_pc (c : Scal) (r : BitVec 5) (v : Word) : (c.put r v).pc = c.pc := by unfold Scal.put; split <;> rfl
@[simp] theorem put_flags (c : Scal) (r : BitVec 5) (v : Word) : (c.put r v).flags = c.flags := by unfold Scal.put; split <;> rfl
@[simp] theorem put_rm (c : Scal) (r : BitVec 5) (v : Word) : (c.put r v).rm = c.rm := by unfold Scal.put; split <;> rfl

/-- An operand that is there is read, and nothing changes. -/
theorem rdX_ready {s : State} (h : ready s) (r : BitVec 5) : rdX r s = .ok (x s r) s := by
  obtain ⟨h1, h2⟩ := h
  simp [rdX, bind, EStateM.bind, h1, h2, bit32, x]

/-- A register that no queued instruction is to write is written. -/
theorem putX_ready {s : State} {r : BitVec 5} (h : queueWrites s.hart.queue r = false) (v : Word) :
    putX r v s = .ok () { s with hart := putReg r v s.hart } := by
  simp [putX, bind, EStateM.bind, h, putReg]

/-- The destination and its copy are written. -/
theorem wrX_ready {s : State} (h : ∀ r, queueWrites s.hart.queue r = false) (d : BitVec 5) (v : Word) :
    wrX d v s = .ok () { s with hart := putDest d v s.hart } := by
  rcases hp : s.hart.pfx with _ | p
  · simp [wrX, putX, bind, EStateM.bind, h, hp, putDest, putReg]
  · rcases hc : pfxCopy p.word with _ | c <;> simp [wrX, putX, bind, EStateM.bind, h, hp, hc, putDest, putReg]

/-! ### Scalar instructions as steps -/

/-- A computation that ends at an address leaves the state that goes on there. -/
theorem runScalar_ok {s t : State} {m : M Unit} (h : m s = .ok () t) : runScalar m s = .next (finish t) := by
  simp [runScalar, runThen, h]

/-- A computation that traps, with nothing queued, takes its trap at itself (R363, R366). -/
theorem runScalar_trap {s t : State} {m : M Unit} {c : BitVec 8} {v : Word} (hq : s.hart.queue = []) (h : m s = .error (.trap c v) t) :
    runScalar m s = .next (takeTrap t c v s.hart.sc.pc false false) := by
  simp [runScalar, runThen, h, hq]

/-- A computation that waits leaves its wait, and what its strand has read and flushed before it. -/
theorem runScalar_park {s t : State} {m : M Unit} {p : Park} (h : m s = .error (.wait (.park p)) t) :
    runScalar m s = .next (applyWait (waitingState s t) (.park p)) := by
  simp [runScalar, runThen, h]

/-- A computation that holds leaves its chunk in HOLD, and what its strand has read and flushed before it. -/
theorem runScalar_hold {s t : State} {m : M Unit} {p : HoldReason} (h : m s = .error (.wait (.hold p)) t) :
    runScalar m s = .next (applyWait (waitingState s t) (.hold p)) := by
  simp [runScalar, runThen, h]

/-- Writing the destination and going on. -/
theorem wr_next {s : State} (h : ∀ r, queueWrites s.hart.queue r = false) (d : BitVec 5) (v : Word) :
    runScalar (do wrX d v; nextPc) s = .next (next (putDest d v) s) :=
  runScalar_ok (by simp [bind, EStateM.bind, wrX_ready h])

/-- An instruction of two sources (R115). -/
theorem opRR_next {s : State} (h : ready s) (d a b : BitVec 5) (f : Word → Word → Word) :
    runScalar (opRR d a b f) s = .next (next (putDest d (f (x s a) (x s b))) s) :=
  runScalar_ok (by simp [opRR, bind, EStateM.bind, rdX_ready h, wrX_ready h.1])

/-- An instruction of one source. -/
theorem opR_next {s : State} (h : ready s) (d a : BitVec 5) (f : Word → Word) :
    runScalar (opR d a f) s = .next (next (putDest d (f (x s a))) s) :=
  runScalar_ok (by simp [opR, bind, EStateM.bind, rdX_ready h, wrX_ready h.1])

/-- A floating-point result: it is written, and its flags are raised (R124). -/
theorem wrFp_ready {s : State} (h : ∀ r, queueWrites s.hart.queue r = false) (d : BitVec 5) (r : Nat × Flags) :
    wrFp d r s = .ok () { s with hart := raise r.2 (putDest d (BitVec.ofNat 64 r.1) s.hart) } := by
  simp [wrFp, bind, EStateM.bind, wrX_ready h]

/-- The state that a floating-point result leaves. -/
def fpNext (d : BitVec 5) (r : Nat × Flags) (s : State) : State :=
  next (fun h => raise r.2 (putDest d (BitVec.ofNat 64 r.1) h)) s

/-- A floating-point instruction of two sources (R124). -/
theorem opFF_next {s : State} (h : ready s) (d a b : BitVec 5) (ty : BitVec 2) (rm : BitVec 3) (f : FFmt → RMode → Nat → Nat → Nat × Flags) :
    runScalar (opFF d a b ty rm f) s = .next (fpNext d (f (scalarFmt ty) (roundMode s.hart.sc rm) (fpBits (scalarFmt ty) (x s a))
      (fpBits (scalarFmt ty) (x s b))) s) :=
  runScalar_ok (by simp [opFF, bind, EStateM.bind, rdX_ready h, wrFp_ready h.1])

/-- A floating-point instruction of one source. -/
theorem opF_next {s : State} (h : ready s) (d a : BitVec 5) (ty : BitVec 2) (rm : BitVec 3) (f : FFmt → RMode → Nat → Nat × Flags) :
    runScalar (opF d a ty rm f) s = .next (fpNext d (f (scalarFmt ty) (roundMode s.hart.sc rm) (fpBits (scalarFmt ty) (x s a))) s) :=
  runScalar_ok (by simp [opF, bind, EStateM.bind, rdX_ready h, wrFp_ready h.1])

/-- A fused multiply-add (R126). -/
theorem opFma_next {s : State} (h : ready s) (d a b c : BitVec 5) (ty : BitVec 2) (rm : BitVec 3) (p q : Bool) :
    runScalar (opFma d a b c ty rm p q) s =
      .next (fpNext d (
        let t := scalarFmt ty
        let u := t.decode (fpBits t (x s a))
        let w := t.decode (fpBits t (x s b))
        let z := t.decode (fpBits t (x s c))
        fmaVal t (roundMode s.hart.sc rm) (if p then u.negate else u) w (if q then z.negate else z)) s) :=
  runScalar_ok (by simp [opFma, bind, EStateM.bind, rdX_ready h, wrFp_ready h.1])

/-- A floating-point compare (R128). -/
theorem opFcmp_next {s : State} (h : ready s) (d a b : BitVec 5) (ty : BitVec 2) (test : Ordering → Bool) (sig : Bool) :
    runScalar (opFcmp d a b ty test sig) s =
      .next (fpNext d (
        let t := scalarFmt ty
        let r := cmpFlags test sig (t.decode (fpBits t (x s a))) (t.decode (fpBits t (x s b)))
        (if r.1 then 1 else 0, r.2)) s) :=
  runScalar_ok (by simp [opFcmp, bind, EStateM.bind, rdX_ready h, wrFp_ready h.1])

end Sys2Proof.Machine
end

