-- ==== Sys2Proof/Laws/Mem.lean ====
section
/-! SUPPORT. Laws of the path to memory: what a translation may change, and what the loads and stores of a strand answer when their checks pass. -/

namespace Sys2Proof.Machine

open Sys2Proof.Safety

/-- Two states that differ in nothing but kept translations, and the note of what was stored through NEAR pages. -/
def samePtes (s t : State) : Prop := t = { s with ptes := t.ptes, through := t.through }

theorem samePtes_rfl (s : State) : samePtes s s := rfl

theorem samePtes_trans {s t u : State} (h : samePtes s t) (g : samePtes t u) : samePtes s u := by
  unfold samePtes at *
  rw [g, h]

/-- Reading the state leaves it. -/
theorem get_eq_ok {α : Type} {f : State → M α} {s t : State} {a : α} (h : (get >>= f) s = .ok a t) : f s s = .ok a t := h

theorem pure_eq_ok {α : Type} {s t : State} {a b : α} (h : (pure a : M α) s = .ok b t) : a = b ∧ s = t := by
  simpa using h

theorem modify_eq_ok {f : State → State} {s t : State} {u : PUnit} (h : (modify f : M PUnit) s = .ok u t) : f s = t := by
  simpa using h

theorem set_eq_ok {r s t : State} {u : PUnit} (h : (set r : M PUnit) s = .ok u t) : r = t := by
  simpa using h

/-- Two states that differ in nothing but the replies that the strand has used. -/
def sameReplies (s t : State) : Prop := t = { s with hart := { s.hart with remote := t.hart.remote } }

/-- A reply or an error of a remote access leaves the state, but for the reply's use. -/
theorem remoteAccess_frame {w : Bool} {pa n : Nat} {p : Packet} {va : Word} {s t : State} {d : List Byte}
    (h : remoteAccess w pa n p va s = .ok d t) : sameReplies s t := by
  unfold remoteAccess at h
  have h := get_eq_ok h
  rcases hr : madeBefore s.hart.remote w pa n with _ | i <;> simp only [hr] at h
  · split at h
    · simp at h
    · split at h <;> simp at h
  · rcases hi : s.hart.remote[i]? with _ | r <;> simp only [hi] at h
    · simp at h
    · rcases hp : r.reply with _ | ⟨st, d'⟩ <;> simp only [hp] at h
      · simp at h
      · split at h
        · split at h
          · obtain ⟨_, u, e, h⟩ := bind_eq_ok h
            simp only [modHart_apply, EStateM.Result.ok.injEq, true_and] at e
            rw [← (pure_eq_ok h).2, ← e]
            rfl
          · rw [← (pure_eq_ok h).2]
            rfl
        · split at h <;> simp at h

/-- A read leaves the replies as they are: it takes one as often as it asks (R177). -/
theorem remoteAccess_read {pa n : Nat} {p : Packet} {va : Word} {s t : State} {d : List Byte} (h : remoteAccess false pa n p va s = .ok d t) :
    t = s := by
  unfold remoteAccess at h
  have h := get_eq_ok h
  rcases hr : madeBefore s.hart.remote false pa n with _ | i <;> simp only [hr] at h
  · split at h
    · simp at h
    · split at h <;> simp at h
  · rcases hi : s.hart.remote[i]? with _ | r <;> simp only [hi] at h
    · simp at h
    · rcases hp : r.reply with _ | ⟨st, d'⟩ <;> simp only [hp] at h
      · simp at h
      · split at h
        · rw [if_neg (by simp)] at h
          exact (pure_eq_ok h).2.symm
        · split at h <;> simp at h

theorem ctlAt_frame {va : Word} {pa : Nat} {s t : State} {r : CtlReg} (h : ctlAt va pa s = .ok r t) : t = s := by
  unfold ctlAt at h
  rcases hr : ctlReg (BitVec.ofNat 3 (pa >>> 38)) (bitsAt pa 0 31 / 8 * 8) with _ | r' <;> simp only [hr] at h
  · simp at h
  · exact (pure_eq_ok h).2.symm

/-- Two states that differ in nothing but the sectors that the strand has read, the caches, and what an eviction leaves. -/
def sameReads (s t : State) : Prop :=
  t = { s with
    hart := { s.hart with sr := t.hart.sr }
    mem := t.mem, bad := t.bad, released := t.released, lines := t.lines, mgmt := t.mgmt, lost := t.lost, l1 := t.l1 }

theorem sameReads_rfl (s : State) : sameReads s s := rfl

theorem noteRead_frame (s : State) (pa n : Nat) : sameReads s (noteRead s pa n) := by
  have h := cacheRead_same (setRead s pa n) pa n
  unfold sameButCaches at h
  unfold sameReads noteRead
  rw [h]
  unfold setRead
  split <;> rfl

theorem setRead_frame (s : State) (pa n : Nat) : sameReads s (setRead s pa n) := by
  unfold sameReads setRead
  split <;> rfl

/-- A read of another module changes the sectors that the strand has read at most (R225). -/
theorem remoteRead_frame {pa n : Nat} {p : Packet} {va : Word} {s t : State} {d : List Byte} (h : remoteRead pa n p va s = .ok d t) :
    sameReads s t := by
  unfold remoteRead at h
  have h := get_eq_ok h
  split at h
  · obtain ⟨_, u, e, h⟩ := bind_eq_ok h
    rw [← (pure_eq_ok h).2, ← set_eq_ok e]
    exact setRead_frame s pa n
  · rw [remoteAccess_read h]
    exact sameReads_rfl s

/-- Outside a chunk a read is noted by the caches alone. -/
theorem noteRead_free {s : State} (h : s.hart.held = false) (pa n : Nat) : noteRead s pa n = cacheRead s pa n := by
  simp [noteRead, setRead, h]

/-- A physical read records the read of a chunk and goes through the caches, and changes nothing else. -/
theorem readPhys_frame {va : Word} {pa n : Nat} {s t : State} {v : Nat} (h : readPhys va pa n s = .ok v t) : sameReads s t := by
  unfold readPhys at h
  split at h
  · have h := get_eq_ok h
    obtain ⟨r, u, e, h⟩ := bind_eq_ok h
    rw [ctlAt_frame e] at h
    split at h
    · simp at h
    · split at h
      · obtain ⟨d, u, e, h⟩ := bind_eq_ok h
        unfold readRemote at e
        rw [← (pure_eq_ok h).2]
        exact remoteRead_frame (get_eq_ok e)
      · split at h <;> exact (pure_eq_ok h).2 ▸ sameReads_rfl s
  · have h := get_eq_ok h
    split at h
    · obtain ⟨d, u, e, h⟩ := bind_eq_ok h
      unfold readRemote at e
      rw [← (pure_eq_ok h).2]
      exact remoteRead_frame (get_eq_ok e)
    · split at h
      · simp at h
      · split at h
        · simp at h
        · obtain ⟨_, u, e, h⟩ := bind_eq_ok h
          rw [← (pure_eq_ok h).2, ← set_eq_ok e]
          exact noteRead_frame s pa n

theorem walkerRead_frame {va : Word} {pa : Nat} {s t : State} {v : Nat} (h : walkerRead va pa s = .ok v t) : t = s := by
  unfold walkerRead at h
  have h := get_eq_ok h
  split at h
  · split at h
    · exact (pure_eq_ok h).2.symm
    · obtain ⟨d, u, e, h⟩ := bind_eq_ok h
      rw [← (pure_eq_ok h).2, remoteAccess_read e]
  · split at h
    · simp at h
    · split at h
      · simp at h
      · exact (pure_eq_ok h).2.symm

/-- Reading an entry keeps it at most. -/
theorem readPte_frame {j : BitVec 16} {va : Word} {l pa : Nat} {s t : State} {v : Word} (h : readPte j va l pa s = .ok v t) :
    samePtes s t := by
  unfold readPte at h
  have h := get_eq_ok h
  dsimp only at h
  rcases hc : s.ptes.find? (fun c => s.keep && c.jid == j && c.level.toNat == l && c.prefix_ == BitVec.ofNat 64 (va.toNat >>> levelShift l))
    with _ | c <;> simp only [hc] at h
  rotate_left
  · split at h
    · simp at h
    · rw [← (pure_eq_ok h).2]
      rfl
  · obtain ⟨w, u, e, h⟩ := bind_eq_ok h
    have f := walkerRead_frame e
    obtain ⟨_, r, e, h⟩ := bind_eq_ok h
    rw [← (pure_eq_ok h).2, ← modify_eq_ok e, f]
    rfl

theorem walkFrom_frame {j : BitVec 16} {va : Word} {k : Access} {user : Bool} :
    ∀ {n l table : Nat} {s t : State} {p : Nat × Bool}, walkFrom j va k user n l table s = .ok p t → samePtes s t
  | 0, _, _, _, _, _, h => by simp [walkFrom] at h
  | n + 1, l, table, s, t, p, h => by
    unfold walkFrom at h
    obtain ⟨v, u, e, h⟩ := bind_eq_ok h
    have f := readPte_frame e
    rcases hk : pteKind l v with _ | q | q <;> simp only [hk] at h
    · simp at h
    · exact samePtes_trans f (walkFrom_frame h)
    · split at h
      · rw [← (pure_eq_ok h).2]
        exact f
      · simp at h

theorem noteNear_frame (s : State) (pa n : Nat) (k : Access) (near : Bool) : samePtes s (noteNear s pa n k near) := by
  unfold noteNear
  split <;> rfl

/-- A read or a fetch notes nothing of its page. -/
@[simp] theorem noteNear_read (s : State) (pa n : Nat) (near : Bool) : noteNear s pa n .r near = s := rfl
@[simp] theorem noteNear_fetch (s : State) (pa n : Nat) (near : Bool) : noteNear s pa n .x near = s := rfl

/-- A translation changes nothing but the kept translations and the note of NEAR pages (R274, R285). -/
theorem translate_frame {va : Word} {n : Nat} {k : Access} {s t : State} {p : Nat × Bool} (h : translate va n k s = .ok p t) :
    samePtes s t := by
  unfold translate at h
  have h := get_eq_ok h
  split at h
  · split at h
    · simp at h
    · obtain ⟨_, u, e, h⟩ := bind_eq_ok h
      rw [← (pure_eq_ok h).2, ← modify_eq_ok e]
      exact noteNear_frame s _ n k false
  · split at h
    · simp at h
    · split at h
      · rcases hw : windowPa s va with _ | q <;> simp only [hw] at h
        · simp at h
        · exact (pure_eq_ok h).2 ▸ samePtes_rfl s
      · obtain ⟨q, u, e, h⟩ := bind_eq_ok h
        have f := walkFrom_frame e
        have h := get_eq_ok h
        split at h
        · obtain ⟨_, r, e, h⟩ := bind_eq_ok h
          rw [← (pure_eq_ok h).2, ← modify_eq_ok e]
          exact samePtes_trans f (noteNear_frame u _ n k _)
        · simp at h

/-- What a load reads is what the bytes spell (R4). -/
theorem readLE_loaded (s : State) : ∀ (n pa : Nat), readLE s.peek pa n = loaded s pa n
  | 0, _ => rfl
  | n + 1, pa => by
    unfold readLE loaded
    rw [readLE_loaded s n, Finset.sum_range_succ', loaded, Finset.mul_sum, add_comm]
    simp only [Nat.pow_zero, Nat.one_mul, Nat.add_zero]
    congr 1
    apply Finset.sum_congr rfl
    intro i _
    rw [Nat.pow_succ]
    have : pa + 1 + i = pa + (i + 1) := by omega
    rw [this]
    ring

/-- Kept translations are no part of what a load takes. -/
theorem loaded_samePtes {s t : State} (h : samePtes s t) (pa n : Nat) : loaded t pa n = loaded s pa n := by
  rw [h]
  rfl

theorem lineRoom_fits {s : State} {pa n : Nat} (h : linesFit s pa n) : lineRoom pa n s = .ok () s := by
  unfold lineRoom
  rcases hh : s.hart.held with _ | _
  · simp [bind, EStateM.bind, hh]
  · simp [bind, EStateM.bind, hh, h hh]

theorem controlWaits_memory {s : State} {pa : Nat} (h : paControl pa = false) : controlWaits pa s = .ok () s := by
  simp [controlWaits, h]

theorem aligned_ok {s : State} {va : Word} {n : Nat} (h : va.toNat % n = 0) : aligned va n s = .ok () s := by
  simp [aligned, h]

theorem readPhys_memory {s : State} {va : Word} {pa n : Nat} (h : inMemory s pa n) :
    readPhys va pa n s = .ok (loaded s pa n) (noteRead s pa n) := by
  obtain ⟨h1, h2, _, h3, h4⟩ := h
  simp [readPhys, bind, EStateM.bind, h1, h2, h3, h4, readLE_loaded]

/-- An instruction word in memory is fetched past the L1 data cache (R225, R281; log 84). -/
theorem fetchPhys_memory {s : State} {va : Word} {pa n : Nat} (h : inMemory s pa n) : fetchPhys va pa n s = .ok (loaded s pa n) s := by
  obtain ⟨h1, h2, _, h3, _⟩ := h
  have h4 : memoryBad s pa n = false := by
    simp only [readsBad, Bool.or_eq_false_iff] at h3
    exact h3.1
  simp [fetchPhys, bind, EStateM.bind, h1, h2, h4, readLE_loaded]

/-- A load whose checks pass (R276). -/
theorem load_ok {s t : State} {va : Word} {n pa : Nat} {near : Bool} (ha : va.toNat % n = 0) (ht : translate va n .r s = .ok (pa, near) t)
    (hm : inMemory t pa n) (hl : linesFit t pa n) : load va n s = .ok (loaded t pa n) (noteRead t pa n) := by
  simp [load, loadAs, bind, EStateM.bind, aligned_ok ha, ht, controlWaits_memory hm.2.1, lineRoom_fits hl, readPhys_memory hm]

theorem settled_ready {s : State} (h : settled s) : ready s := ⟨fun r => by simp [queueWrites, h.1], h.2.1, h.2.2.2.1⟩

theorem emptyQueue_ok {s : State} (h : s.hart.queue = []) : emptyQueue s = .ok () s := by
  simp [emptyQueue, bind, EStateM.bind, h]

/-- Outside a chunk nothing is held back. -/
theorem flushWritten_free {s : State} (h : s.hart.held = false) : flushWritten s = s := by
  simp [flushWritten, h]

theorem settleRecords_ok {s : State} (h : recordsReady s = true) : settleRecords s = .ok () s := by
  simp [settleRecords, bind, EStateM.bind, h]

theorem keystoneOnly_ok {s : State} (h : isKeystone s = true) (hr : s.hart.held = true → recordsReady s = true) :
    keystoneOnly s = .ok () (flushWritten s) := by
  rcases hh : s.hart.held with _ | _
  · simp [keystoneOnly, bind, EStateM.bind, hh, flushWritten_free]
  · have ha : s.ring.active = 0 := by simpa [isKeystone, hh] using h
    simp [keystoneOnly, earlyWrite, bind, EStateM.bind, hh, ha, settleRecords_ok (hr hh)]

theorem pokeCells_same : ∀ (l : List Host.Cell) (s : State), sameButCaches s (pokeCells s l)
  | [], s => sameButCaches_rfl s
  | (a, x) :: t, s => sameButCaches_trans (poke_same s a x) (pokeCells_same t _)

theorem flushWritten_frame (s : State) :
    flushWritten s = { s with
      mem := (flushWritten s).mem, bad := (flushWritten s).bad, released := (flushWritten s).released, lines := (flushWritten s).lines
      mgmt := (flushWritten s).mgmt, lost := (flushWritten s).lost, l1 := (flushWritten s).l1
      ring := { s.ring with chunks := (flushWritten s).ring.chunks }
      hart := { s.hart with
        written := (flushWritten s).hart.written, sr := (flushWritten s).hart.sr, precise := (flushWritten s).hart.precise
        remote := (flushWritten s).hart.remote } } := by
  unfold flushWritten
  split
  · have h := pokeCells_same (s.hereCells s.hart.written) (overrideYounger s s.hart.written)
    unfold sameButCaches at h
    dsimp only
    rw [h]
    unfold overrideYounger
    split <;> rfl
  · rfl

@[simp] theorem flushWritten_sc (s : State) : (flushWritten s).hart.sc = s.hart.sc := by rw [flushWritten_frame]
@[simp] theorem flushWritten_queue (s : State) : (flushWritten s).hart.queue = s.hart.queue := by rw [flushWritten_frame]
@[simp] theorem flushWritten_awaiting (s : State) : (flushWritten s).hart.awaiting = s.hart.awaiting := by rw [flushWritten_frame]
@[simp] theorem flushWritten_level (s : State) : (flushWritten s).hart.level = s.hart.level := by rw [flushWritten_frame]
@[simp] theorem flushWritten_slots (s : State) : (flushWritten s).hart.slots = s.hart.slots := by rw [flushWritten_frame]
@[simp] theorem flushWritten_active (s : State) : (flushWritten s).ring.active = s.ring.active := by rw [flushWritten_frame]
@[simp] theorem flushWritten_gang (s : State) : (flushWritten s).ring.gang = s.ring.gang := by rw [flushWritten_frame]
@[simp] theorem flushWritten_region (s : State) : (flushWritten s).ring.region = s.ring.region := by rw [flushWritten_frame]
@[simp] theorem flushWritten_rings (s : State) : (flushWritten s).rings = s.rings := by rw [flushWritten_frame]
@[simp] theorem flushWritten_cur (s : State) : (flushWritten s).cur = s.cur := by rw [flushWritten_frame]
@[simp] theorem flushWritten_onMgmt (s : State) : (flushWritten s).onMgmt = s.onMgmt := by rw [flushWritten_frame]
@[simp] theorem flushWritten_waiters (s : State) : (flushWritten s).waiters = s.waiters := by rw [flushWritten_frame]
@[simp] theorem flushWritten_full (s : State) : (flushWritten s).full = s.full := by rw [flushWritten_frame]
@[simp] theorem flushWritten_module (s : State) : (flushWritten s).module = s.module := by rw [flushWritten_frame]

theorem flushWritten_ready {s : State} (h : ready s) : ready (flushWritten s) := by
  unfold ready at *
  simpa using h

theorem flushWritten_records {s : State} (h : s.hart.held = true) : recordsReady (flushWritten s) = true := by
  simp [recordsReady, recordsOut, flushWritten, h]

theorem flushWritten_settled {s : State} (h : settled s) : settled (flushWritten s) := by
  obtain ⟨h1, h2, h3, h4, _⟩ := h
  refine ⟨by simpa using h1, by simpa using h2, ?_, by simpa using h4, fun hh => flushWritten_records ?_⟩
  · unfold isKeystone at *
    rw [flushWritten_frame]
    exact h3
  · rw [flushWritten_frame] at hh
    exact hh

@[simp] theorem x_flushWritten (s : State) (r : BitVec 5) : x (flushWritten s) r = x s r := by simp [x]

end Sys2Proof.Machine
end

