-- ==== Sys2Proof/Laws/Vector.lean ====
section
/-! SUPPORT. Laws of the vector unit: elements of registers and bits of masks, the state that an instruction over elements leaves where no
register is bound to a stream, and its parts. -/

namespace Sys2Proof.Machine

open Sys2Proof.Safety

/-! ### No streams -/

theorem bindingOf_none {h : Hart} (hb : ∀ j : BitVec 3, (h.slotAt j).bound = false) (v : BitVec 6) : h.bindingOf v = none := by
  unfold Hart.bindingOf
  rw [List.find?_eq_none]
  intro j _
  simp [hb j]

theorem settleSlot_idle {s : State} (j : BitVec 3) (n : Nat) (h1 : (s.hart.slotAt j).emitted = []) (h2 : (s.hart.slotAt j).drains = []) :
    settleSlot j n s = s := by
  cases n with
  | zero => rfl
  | succ n => simp [settleSlot, h1, h2]

/-- Slots with nothing to write and no record to post stay as they are. -/
theorem settleSlots_idle {s : State} (h : ∀ j : BitVec 3, (s.hart.slotAt j).emitted = [] ∧ (s.hart.slotAt j).drains = []) :
    settleSlots s = s := by
  have key : ∀ l : List (BitVec 3),
      l.foldl (fun t j => settleSlot j ((t.hart.slotAt j).emitted.length + (t.hart.slotAt j).drains.length) t) s = s := by
    intro l
    induction l with
    | nil => rfl
    | cons j t ih =>
      rw [List.foldl_cons, settleSlot_idle j _ (h j).1 (h j).2]
      exact ih
  exact key _

/-! ### The run of an instruction over elements -/

/-- The environment of an entry that begins in a state with no register bound. -/
def entryEnv (s : State) (e : QEntry) : VEnv :=
  { sew := e.sew, b := sewBits e.sew, rm := e.rm, vl := e.vl.toNat, vlmax := e.back.vlmax.toNat, w8 := regBits s
    act := activeIn (effMask s.hart e.op.km (e.op.usesVE && e.ve)) s.hart.vstart.toNat e.vl.toNat
    src := s.hart.vr, mask := s.hart.mask, flagsIn := fun _ => 0 }

/-- An instruction that restarts from element 0 does not find VSTART ≠ 0 with elements to process (R50). -/
def startsWell (s : State) (e : QEntry) : Prop := e.op.restarts = true → s.hart.vstart = 0 ∨ e.vl = 0

theorem beginCheck_ok {s : State} (e : QEntry) (hb : ∀ j : BitVec 3, (s.hart.slotAt j).bound = false) (hv : startsWell s e) :
    beginCheck e s = .ok () s := by
  have hn := bindingOf_none hb
  have hw : ∀ v, s.hart.writeBound v = false := fun v => by simp [Hart.writeBound, hn v]
  have hr : ∀ v, s.hart.readBound v = false := fun v => by simp [Hart.readBound, hn v]
  have ho : Option.any s.hart.writeBound e.op.vdest = false := by cases e.op.vdest <;> simp [hw]
  have he : Option.any (s.hart.emitsIll e.sew) e.op.vdest = false := by cases e.op.vdest <;> simp [Hart.emitsIll, hn]
  have h0 : ¬((e.op.restarts = true ∧ ¬s.hart.vstart = 0#16) ∧ ¬e.vl = 0#16) := by
    rintro ⟨⟨h, h1⟩, h2⟩
    rcases hv h with h3 | h3
    · exact h1 h3
    · exact h2 h3
  simp [beginCheck, bind, EStateM.bind, h0, hw, hr, hn, ho, he]

theorem openStrips_none {s : State} (w : Word32) (sew : BitVec 4) (rm : RMode) (vl : Nat) (f : Nat → Bool)
    (hb : ∀ j : BitVec 3, (s.hart.slotAt j).bound = false) : ∀ l : List (BitVec 6), openStrips w sew rm vl f l s = .ok [] s
  | [] => rfl
  | v :: t => by
    unfold openStrips
    simp [bind, EStateM.bind, openStrips_none w sew rm vl f hb t, bindingOf_none hb v]

theorem firstFail_none (m : MaskReg) : ∀ l : List Nat, firstFail [] m l = none
  | [] => rfl
  | _ :: t => firstFail_none m t

theorem sourceOf_none {h : Hart} (hb : ∀ j : BitVec 3, (h.slotAt j).bound = false) (b : Nat) : sourceOf h [] b = h.vr := by
  funext v
  simp [sourceOf, bindingOf_none hb v]

theorem emitsTo_none {h : Hart} (hb : ∀ j : BitVec 3, (h.slotAt j).bound = false) (e : QEntry) : emitsTo h e = none := by
  unfold emitsTo
  cases e.op.vdest <;> simp [bindingOf_none hb]

theorem prepare_ok {s : State} (e : QEntry) (hb : ∀ j : BitVec 3, (s.hart.slotAt j).bound = false) (hv : startsWell s e) :
    prepare e none s = .ok { strips := [], stop := e.vl.toNat, fail := none, env := entryEnv s e, k7 := s.hart.mask 7 } s := by
  unfold prepare
  simp only [bind, EStateM.bind, beginCheck_ok e hb hv, get_apply, openStrips_none _ _ _ _ _ hb, blockBits, List.filter_nil,
    List.isEmpty_nil, if_true, modHart_apply, pure_apply]
  simp [entryEnv, effective, sourceOf_none hb, firstFail_none]

/-- The strand as an instruction over elements leaves it, still the oldest. -/
def committed (e : QEntry) (w8 : Nat) (res : VResult) (h : Hart) : Hart :=
  let h1 := h.take e w8 res.elems res.bits res.flags
  let h2 := match e.op.vdest2 with
    | some v => h1.setVr v (putElems (h1.vr v) 8 res.second)
    | none => h1
  match e.op.scalarDest, res.scalar with
    | some d, some x => h2.vuScalar e d x
    | _, _ => h2

/-- A change of registers, masks, scalar state and queued copies of it alone. -/
def vuOnly (h g : Hart) : Prop :=
  g = { h with v := g.v, k := g.k, sc := g.sc, queue := g.queue, wroteReg := g.wroteReg } ∧ g.queue.length = h.queue.length

theorem vuOnly_rfl (h : Hart) : vuOnly h h := ⟨rfl, rfl⟩

theorem vuOnly_trans {a b c : Hart} (h : vuOnly a b) (g : vuOnly b c) : vuOnly a c := by
  obtain ⟨h1, h2⟩ := h
  obtain ⟨g1, g2⟩ := g
  refine ⟨?_, g2.trans h2⟩
  rw [g1, h1]

theorem vuOnly_setVr (h : Hart) (n : BitVec 6) (x : VReg) : vuOnly h (h.setVr n x) := ⟨rfl, rfl⟩

theorem vuOnly_setMask (h : Hart) (k : BitVec 3) (m : MaskReg) : vuOnly h (h.setMask k m) := by
  unfold Hart.setMask
  split
  · exact vuOnly_rfl h
  · exact ⟨rfl, rfl⟩

theorem vuOnly_vuFlags (h : Hart) (f : Flags) : vuOnly h (h.vuFlags f) := ⟨rfl, by simp [Hart.vuFlags]⟩

theorem vuOnly_vuPut (h : Hart) (d : BitVec 5) (x : Word) : vuOnly h (h.vuPut d x) := ⟨rfl, by simp [Hart.vuPut]⟩

theorem vuOnly_vuScalar (h : Hart) (e : QEntry) (d : BitVec 5) (x : Word) : vuOnly h (h.vuScalar e d x) := by
  unfold Hart.vuScalar
  dsimp only
  split
  · exact vuOnly_trans (vuOnly_vuPut h d x) (vuOnly_vuPut _ _ _)
  · exact vuOnly_vuPut h d x

/-- A fold of changes is one. -/
theorem vuOnly_foldl {α : Type} (f : Hart → α → Hart) (hf : ∀ h a, vuOnly h (f h a)) : ∀ (l : List α) (h : Hart), vuOnly h (l.foldl f h)
  | [], h => vuOnly_rfl h
  | a :: t, h => vuOnly_trans (hf h a) (vuOnly_foldl f hf t _)

theorem vuOnly_writeElems (h : Hart) (e : QEntry) (w8 n : Nat) (l : List (Nat × Nat)) : vuOnly h (h.writeElems e w8 n l) := by
  unfold Hart.writeElems
  split
  · exact vuOnly_foldl _ (fun h v => vuOnly_foldl _ (fun h p => vuOnly_setVr h _ _) l h) _ h
  · exact vuOnly_foldl _ (fun h v => vuOnly_setVr h _ _) _ h

theorem vuOnly_writeBits (h : Hart) (e : QEntry) (l : List (Nat × Bool)) : vuOnly h (h.writeBits e l) := by
  unfold Hart.writeBits
  split
  · exact vuOnly_rfl h
  · split
    · exact vuOnly_rfl h
    · dsimp only
      split
      · split
        · exact vuOnly_trans (vuOnly_setMask h _ _) (vuOnly_setMask _ _ _)
        · exact vuOnly_setMask h _ _
      · exact vuOnly_setMask h _ _

theorem vuOnly_take (e : QEntry) (w8 : Nat) (els : List (Nat × Nat × Flags)) (bs : List (Nat × Bool × Flags)) (f : Flags) (h : Hart) :
    vuOnly h (h.take e w8 els bs f) :=
  vuOnly_trans (vuOnly_trans (vuOnly_writeElems _ e w8 _ _) (vuOnly_writeBits _ e _)) (vuOnly_vuFlags _ _)

/-- Only registers, masks, flags and scalars are written. -/
theorem committed_frame (e : QEntry) (w8 : Nat) (res : VResult) (h : Hart) : vuOnly h (committed e w8 res h) := by
  have h2 : ∀ h1 : Hart, vuOnly h1 (match e.op.vdest2 with | some v => h1.setVr v (putElems (h1.vr v) 8 res.second) | none => h1) := by
    intro h1
    split
    · exact vuOnly_setVr _ _ _
    · exact vuOnly_rfl _
  have h4 := vuOnly_trans (vuOnly_take e w8 res.elems res.bits res.flags h) (h2 _)
  unfold committed
  dsimp only
  split
  · exact vuOnly_trans h4 (vuOnly_vuScalar _ _ _ _)
  · exact h4

theorem committed_slots (e : QEntry) (w8 : Nat) (res : VResult) (h : Hart) : (committed e w8 res h).slots = h.slots := by
  rw [(committed_frame e w8 res h).1]

theorem slotAt_slots {g h : Hart} (e : g.slots = h.slots) (j : BitVec 3) : g.slotAt j = h.slotAt j := by
  unfold Hart.slotAt
  rw [e]

/-- An instruction over elements, with no register bound, commits and leaves VSTART 0. -/
theorem runElems_ok {s : State} (e : QEntry) (hb : ∀ j : BitVec 3, (s.hart.slotAt j).bound = false) (hv : startsWell s e) :
    runElems e none s = .ok true
      { s with hart := { committed e (regBits s) ((entryEnv s e).compute e.op) s.hart with vstart := 0 } } := by
  have hn := emitsTo_none (h := committed e (regBits s) ((entryEnv s e).compute e.op) s.hart)
    (fun j => by rw [slotAt_slots (committed_slots _ _ _ _)]; exact hb j) e
  unfold runElems
  simp only [bind, EStateM.bind, prepare_ok e hb hv]
  unfold commit
  simp only [Option.isSome_none, Bool.false_and, Bool.false_eq_true, if_false, bind, EStateM.bind, get_apply, emitsTo_none hb e,
    modHart_apply]
  unfold conclude
  simp only [Nat.lt_irrefl, decide_false, Bool.false_and, Bool.false_eq_true, if_false, bind, EStateM.bind, modHart_apply, pure_apply,
    List.foldl_nil]
  have hc : ∀ h : Hart, h = committed e (regBits s) ((entryEnv s e).compute e.op) s.hart →
      (match emitsTo h e with
        | some j => h.modSlot j fun sl => sl.advance e.vl.toNat
        | none => h) = h := by
    rintro h rfl
    rw [hn]
  congr 2
  exact congrArg (fun h : Hart => { h with vstart := 0 }) (hc _ rfl)

/-! ### The push, and the whole instruction -/

/-- The strand as the push of a word leaves it, apart from the queue: the scalar thread stands at the next word, runs, and has used up its
prefix. -/
def standing (pc : Word) (pv : Bool) (rest : List Word32) (h : Hart) : Hart :=
  { h with sc := { h.sc with pc := pc, pfxV := pv }, convoy := rest, pfx := none, park := .running, remote := [] }

/-- PFXST.V after an instruction: a prefix that eret reapplied is used up (R108). -/
def leftV (h : Hart) : Bool :=
  match h.pfx with
  | some p => if p.fromEret then false else h.sc.pfxV
  | none => h.sc.pfxV

theorem finish_standing (s : State) (pc : Word) (rest : List Word32) (q : List QEntry) :
    finish { s with hart := { s.hart with queue := q, convoy := rest, sc := { s.hart.sc with pc := pc } } } =
      { s with hart := { standing pc (leftV s.hart) rest s.hart with queue := q } } := by
  unfold finish standing leftV
  dsimp only
  cases s.hart.pfx with
  | none => rfl
  | some p => dsimp only; split <;> rfl

/-- The module with one instruction queued and the scalar thread at the next word. -/
def pushed (s : State) (word : Word32) (op : VOp) (rest : List Word32) : State :=
  { s with hart := { standing (s.hart.sc.pc + 4) (leftV s.hart) rest s.hart with queue := [entryOf s.hart word op] } }

/-- A legal word is pushed, with the operands that its meaning captures. -/
theorem pushV_ok {s : State} {word : Word32} {mk : M VOp} {op : VOp} {c : BitVec 1} {rest : List Word32} (hv : vectorReady s)
    (hl : vecLegal (regs s) s.hart.sc.sew word = true) (hc : convoyLeft s c rest)
    (hw : c = 0 → isMember word = true → word.getLsbD 0 = false) (hm : mk s = .ok op s) :
    runScalar (pushV word mk) s = .next (pushed s word op rest) := by
  obtain ⟨hq, ha, hi, hlag, hvr, hs, -⟩ := hv
  have hcr : convoyRest word s = .ok rest s := by
    rcases hc with ⟨h1, h2, rfl⟩ | ⟨w, h1⟩
    · have : (isMember word && word.getLsbD 0) = false := by
        cases h : isMember word
        · rfl
        · rw [hw h2 h]; rfl
      simp only [convoyRest, bind, EStateM.bind, get_apply, h1, this]
      rfl
    · simp [convoyRest, bind, EStateM.bind, h1]
  have h0 : noPfxConvoy word s = .ok () s := by
    unfold noPfxConvoy
    simp only [bind, EStateM.bind, get_apply]
    cases s.hart.pfx with
    | none => rfl
    | some p =>
      have : (s.hart.convoy.isEmpty && isMember word && word.getLsbD 0) = false := by
        rcases hc with ⟨h1, h2, rfl⟩ | ⟨w, h1⟩
        · cases h : isMember word
          · simp
          · rw [hw h2 h]; simp
        · simp [h1]
      dsimp only
      rw [this]
      rfl
  unfold regs at hl
  refine (runScalar_ok (t := { s with hart := { s.hart with
    queue := [entryOf s.hart word op], convoy := rest, sc := { s.hart.sc with pc := s.hart.sc.pc + 4 } } }) ?_).trans ?_
  · have hqd : s.hart.queued = [] := by simp [Hart.queued, hq]
    simp [pushV, bind, EStateM.bind, h0, hl, hcr, hi, hq, hqd, hm]
  · rw [finish_standing]
    rfl

/-- The strand without its queue. -/
def unqueued (h : Hart) : Hart := { h with queue := [] }

/-- A change of a strand does not see, and does not touch, another. -/
def commutes (g f : Hart → Hart) : Prop := ∀ h, g (f h) = f (g h)

theorem commutes_foldl {α : Type} {g : Hart → Hart} {f : Hart → α → Hart} (hf : ∀ a h, g (f h a) = f (g h) a) :
    ∀ (l : List α) (h : Hart), g (l.foldl f h) = l.foldl f (g h)
  | [], _ => rfl
  | a :: t, h => by
    rw [List.foldl_cons, List.foldl_cons, ← hf a h]
    exact commutes_foldl hf t (f h a)

/-- What commits a result sees registers, masks, flags, scalar registers and the queued copies of them alone: a change of anything else
commutes with it. -/
theorem committed_commutes {g : Hart → Hart} (e : QEntry) (w8 : Nat) (res : VResult) (hv : ∀ h, (g h).v = h.v) (hk : ∀ h, (g h).k = h.k)
    (h1 : ∀ n x, commutes g fun h => h.setVr n x) (h2 : ∀ k (m : MaskReg), commutes g fun h => h.setMask k m)
    (h3 : ∀ f, commutes g fun h => h.vuFlags f) (h4 : ∀ d x, commutes g fun h => h.vuPut d x) : commutes g (committed e w8 res) := by
  have ev : ∀ h v, (g h).vr v = h.vr v := fun h v => by unfold Hart.vr; simp [hv]
  have em : ∀ h v, (g h).mask v = h.mask v := fun h v => by unfold Hart.mask; simp [hk]
  have eg : ∀ v n i x, commutes g fun h => h.putGroup v w8 n i x := by
    intro v n i x h
    unfold Hart.putGroup
    dsimp only
    rw [ev]
    exact h1 _ _ h
  have ee : ∀ n l, commutes g fun h => h.writeElems e w8 n l := by
    intro n l h
    unfold Hart.writeElems
    have e0 : ∀ (v : BitVec 6) (h : Hart), g (l.foldl (fun h p => h.putGroup v w8 n p.1 p.2) h) =
        l.foldl (fun h p => h.putGroup v w8 n p.1 p.2) (g h) := by
      intro v
      apply commutes_foldl
      intro p h
      exact eg v n p.1 p.2 h
    have e1 : ∀ (ts : List (BitVec 6)) (h : Hart),
        g (ts.foldl (fun h v => l.foldl (fun h p => h.putGroup v w8 n p.1 p.2) h) h) =
          ts.foldl (fun h v => l.foldl (fun h p => h.putGroup v w8 n p.1 p.2) h) (g h) := by
      apply commutes_foldl
      intro v h
      exact e0 v h
    have e2 : ∀ (ts : List (BitVec 6)) (h : Hart),
        g (ts.foldl (fun h v => h.setVr v (putElems (h.vr v) n l)) h) = ts.foldl (fun h v => h.setVr v (putElems (h.vr v) n l)) (g h) := by
      apply commutes_foldl
      intro v h
      rw [ev]
      exact h1 _ _ h
    generalize e.targets = ts
    generalize e.op = o
    cases o with
    | widen => exact e1 ts h
    | _ => exact e2 ts h
  have eb : ∀ l, commutes g fun h => h.writeBits e l := by
    intro l h
    unfold Hart.writeBits
    dsimp only
    split
    · rfl
    · split
      · rfl
      · rw [em]
        split
        · split
          · rw [em, h2, h2]
          · exact h2 _ _ h
        · exact h2 _ _ h
  have es : ∀ d x, commutes g fun h => h.vuScalar e d x := by
    intro d x h
    unfold Hart.vuScalar
    dsimp only
    split
    · rw [h4, h4]
    · exact h4 _ _ h
  have et : ∀ els bs f, commutes g fun h => h.take e w8 els bs f := by
    intro els bs f h
    unfold Hart.take
    dsimp only
    rw [h3, eb, ee]
  intro h
  unfold committed
  dsimp only
  have e2 : ∀ h1' : Hart, g (match e.op.vdest2 with | some v => h1'.setVr v (putElems (h1'.vr v) 8 res.second) | none => h1') =
      match e.op.vdest2 with
      | some v => (g h1').setVr v (putElems ((g h1').vr v) 8 res.second)
      | none => g h1' := by
    intro h'
    split
    · rw [ev]; exact h1 _ _ h'
    · rfl
  split
  · rw [es, e2, et]
  · rw [e2, et]

theorem unqueued_committed (e : QEntry) (w8 : Nat) (res : VResult) : commutes unqueued (committed e w8 res) :=
  committed_commutes e w8 res (fun _ => rfl) (fun _ => rfl) (fun _ _ _ => rfl)
    (fun k m h => by dsimp only; unfold Hart.setMask; split <;> rfl) (fun _ _ => rfl) (fun _ _ _ => rfl)

/-- A scalar register is written whatever stands in the other fields. -/
theorem put_standing (c : Scal) (d : BitVec 5) (x pc : Word) (pv : Bool) :
    { c.put d x with pc := pc, pfxV := pv } = Scal.put { c with pc := pc, pfxV := pv } d x := by
  unfold Scal.put
  split <;> rfl

theorem standing_committed (pc : Word) (pv : Bool) (rest : List Word32) (e : QEntry) (w8 : Nat) (res : VResult) :
    commutes (standing pc pv rest) (committed e w8 res) :=
  committed_commutes e w8 res (fun _ => rfl) (fun _ => rfl) (fun _ _ _ => rfl)
    (fun k m h => by dsimp only; unfold Hart.setMask; split <;> rfl) (fun _ _ => rfl)
    (fun d x h => by unfold Hart.vuPut standing; dsimp only; rw [put_standing])

/-- The strand that a result over elements leaves, in its plain form. -/
theorem vnext_eq {s : State} {rest : List Word32} {f : Hart → Hart} (hp : (f s.hart).pfx = s.hart.pfx)
    (hs : (f s.hart).sc.pfxV = s.hart.sc.pfxV) :
    vnext rest f s = { s with hart := { standing (s.hart.sc.pc + 4) (leftV s.hart) rest (f s.hart) with vstart := 0 } } := by
  unfold vnext finish standing leftV
  dsimp only
  rw [hp]
  cases s.hart.pfx with
  | none => dsimp only; rw [← hs]
  | some p => dsimp only; split <;> simp [hs]

theorem committed_pfxV (e : QEntry) (w8 : Nat) (res : VResult) (h : Hart) : (committed e w8 res h).sc.pfxV = h.sc.pfxV := by
  have hg : commutes (fun h : Hart => { h with sc := { h.sc with pfxV := false } }) (committed e w8 res) :=
    committed_commutes e w8 res (fun _ => rfl) (fun _ => rfl) (fun _ _ _ => rfl)
      (fun k m h => by dsimp only; unfold Hart.setMask; split <;> rfl) (fun _ _ => rfl)
      (fun d x h => by unfold Hart.vuPut Scal.put; dsimp only; split <;> rfl)
  have hg' : commutes (fun h : Hart => { h with sc := { h.sc with pfxV := true } }) (committed e w8 res) :=
    committed_commutes e w8 res (fun _ => rfl) (fun _ => rfl) (fun _ _ _ => rfl)
      (fun k m h => by dsimp only; unfold Hart.setMask; split <;> rfl) (fun _ _ => rfl)
      (fun d x h => by unfold Hart.vuPut Scal.put; dsimp only; split <;> rfl)
  cases hb : h.sc.pfxV
  · have : h = { h with sc := { h.sc with pfxV := false } } := by rw [← hb]
    rw [this, ← hg h]
  · have : h = { h with sc := { h.sc with pfxV := true } } := by rw [← hb]
    rw [this, ← hg' h]

/-- Where no register holds an error, an entry runs as it is. -/
theorem vuRun_clean {s : State} (h1 : s.hart.vBad = 0) (h2 : s.hart.kBad = 0) (h3 : s.hart.zBad = 0) (h4 : s.hart.tBad = 0)
    {e : QEntry} (h5 : e.bad = false) (u : Option Nat) : vuRun e u s = vuBody e u s := by
  simp [vuRun, bind, EStateM.bind, h1, h2, h3, h4, h5]

/-- An instruction over elements completes: its result is written, and the scalar thread goes on. -/
theorem issueV_elems {s : State} {word : Word32} {mk : M VOp} {op : VOp} {c : BitVec 1} {rest : List Word32} (hv : vectorReady s)
    (hl : vecLegal (regs s) s.hart.sc.sew word = true) (hc : convoyLeft s c rest)
    (hw : c = 0 → isMember word = true → word.getLsbD 0 = false) (hm : mk s = .ok op s)
    (hst : startsWell s (entryOf s.hart word op)) (hb : ∀ e u, e.op = op → vuBody e u = runElems e u) :
    issueV word mk s =
      .next (vnext rest (committed (entryOf s.hart word op) (regWidth s)
        ((entryEnv s (entryOf s.hart word op)).compute op)) s) := by
  have hpush := pushV_ok hv hl hc hw hm
  obtain ⟨hq, ha, hi, hlag, hvr, hs, -, hbv, hbk, hbz, hbt⟩ := hv
  let e := entryOf s.hart word op
  let res := (entryEnv s e).compute op
  let w := regWidth s
  let C := committed e w res (pushed s word op rest).hart
  let W := committed e w res s.hart
  have hfW : vuOnly s.hart W := committed_frame e w res s.hart
  have hq1 : (pushed s word op rest).hart.queue = [e] := rfl
  have htail : C.queue.tail = [] := by
    have := (committed_frame e w res (pushed s word op rest).hart).2
    rw [hq1] at this
    obtain ⟨a, ha⟩ := List.length_eq_one_iff.mp this
    show C.queue.tail = []
    rw [show C.queue = [a] from ha]
    rfl
  have hun : unqueued (pushed s word op rest).hart = standing (s.hart.sc.pc + 4) (leftV s.hart) rest s.hart := by
    simp [unqueued, pushed, standing, hq]
  have hCW : unqueued C = standing (s.hart.sc.pc + 4) (leftV s.hart) rest W := by
    show unqueued (committed e w res (pushed s word op rest).hart) = _
    rw [unqueued_committed, hun, ← standing_committed]
  have hWv : W.vremote = [] := by rw [hfW.1]; exact hvr
  have hvn : vnext rest (committed e w res) s =
      { s with hart := { standing (s.hart.sc.pc + 4) (leftV s.hart) rest W with vstart := 0 } } :=
    vnext_eq (by show W.pfx = _; rw [hfW.1]) (committed_pfxV e w res s.hart)
  have ht : { pushed s word op rest with hart := { C with vstart := 0, remote := [], vremote := [], queue := C.queue.tail } } =
      vnext rest (committed e w res) s := by
    rw [htail, hvn, ← hCW]
    have hCr : C.remote = [] := by
      have := (committed_frame e w res (pushed s word op rest).hart).1
      show C.remote = []
      rw [show C = _ from this]
      rfl
    have hCv : C.vremote = [] := by
      have := (committed_frame e w res (pushed s word op rest).hart).1
      show C.vremote = []
      rw [show C = _ from this]
      exact hvr
    have : { C with vstart := 0, remote := [], vremote := [], queue := [] } = { unqueued C with vstart := 0 } := by
      unfold unqueued
      cases hh : C
      rw [hh] at hCr hCv
      dsimp only at hCr hCv
      subst hCr hCv
      rfl
    exact congrArg (fun h : Hart => { s with hart := h }) this
  have hrun : runHead none (pushed s word op rest) = .done (vnext rest (committed e w res) s) := by
    have hbody := runElems_ok (s := pushed s word op rest) e (fun j => (hs j).1) hst
    have h0 : { pushed s word op rest with
        hart := { (pushed s word op rest).hart with remote := (pushed s word op rest).hart.vremote } } = pushed s word op rest := by
      simp [pushed, standing, hvr]
    unfold runHead
    rw [hq1]
    dsimp only
    have hclean : vuRun e none (pushed s word op rest) = vuBody e none (pushed s word op rest) :=
      vuRun_clean (s := pushed s word op rest) hbv hbk hbz hbt (e := e) rfl none
    rw [h0, hclean, hb e none rfl, hbody]
    have hset : settleSlots (vnext rest (committed e w res) s) = vnext rest (committed e w res) s := by
      apply settleSlots_idle
      intro j
      have : (vnext rest (committed e w res) s).hart.slots = s.hart.slots := by
        rw [hvn]
        show W.slots = s.hart.slots
        rw [hfW.1]
      rw [slotAt_slots this]
      exact (hs j).2
    have hqC : C.queue.tail = [] := by
      rw [← List.length_eq_zero_iff, List.length_tail, (committed_frame e w res (pushed s word op rest).hart).2]
      rfl
    have hlag2 : { pushed s word op rest with hart := { C with vstart := 0, remote := [], vremote := [], queue := C.queue.tail } }.lag = false := hlag
    have hshape : settleShape C.queue.tail.length
        { pushed s word op rest with hart := { C with vstart := 0, remote := [], vremote := [], queue := C.queue.tail } } =
          { pushed s word op rest with hart := { C with vstart := 0, remote := [], vremote := [], queue := C.queue.tail } } := by
      rw [hqC]
      rfl
    show VEnd.done (if (settleShape C.queue.tail.length
        { pushed s word op rest with hart := { C with vstart := 0, remote := [], vremote := [], queue := C.queue.tail } }).lag = true
      then _ else settleSlots (settleShape C.queue.tail.length
        { pushed s word op rest with hart := { C with vstart := 0, remote := [], vremote := [], queue := C.queue.tail } })) = _
    rw [hshape, hlag2, ht, hset]
    rfl
  unfold issueV
  rw [hpush]
  show (if (pushed s word op rest).lag = true then _ else _) = _
  rw [show (pushed s word op rest).lag = false from hlag]
  simp only [Bool.false_eq_true, if_false]
  rw [show (pushed s word op rest).hart.queue.length = 1 from rfl]
  unfold drainQueue
  rw [show (pushed s word op rest).hart.queue.isEmpty = false from rfl]
  simp only [Bool.false_eq_true, if_false, hrun]
  rfl

end Sys2Proof.Machine
end

