-- ==== Sys2Proof/Laws/Elements.lean ====
section
/-! SUPPORT. Laws of elements and mask bits that are written, and the strand that a result over elements, a mask result or a scalar result leaves. -/


namespace Sys2Proof.Machine
open Sys2Proof.Safety

theorem setBitsAt_form (x lo len v : Nat) :
    setBitsAt x lo len v = 2 ^ lo * (2 ^ len * (x / 2 ^ (lo + len)) + v % 2 ^ len) + x % 2 ^ lo := by
  unfold setBitsAt bitsAt lowBits
  rw [Nat.shiftRight_eq_div_pow, Nat.shiftLeft_eq, Nat.shiftLeft_eq]
  have h1 : x = 2 ^ lo * (x / 2 ^ lo) + x % 2 ^ lo := (Nat.div_add_mod x _).symm
  have h2 : x / 2 ^ lo = 2 ^ len * (x / 2 ^ lo / 2 ^ len) + x / 2 ^ lo % 2 ^ len := (Nat.div_add_mod _ _).symm
  have h3 : x / 2 ^ (lo + len) = x / 2 ^ lo / 2 ^ len := by rw [Nat.pow_add, Nat.div_div_eq_div_mul]
  rw [h3]
  generalize hq : x / 2 ^ lo / 2 ^ len = q at *
  generalize hm : x / 2 ^ lo % 2 ^ len = m at *
  generalize hr : x % 2 ^ lo = r at *
  have h4 : x = 2 ^ lo * (2 ^ len * q + m) + r := by rw [← h2]; exact h1
  have : 2 ^ lo * (2 ^ len * q + m) = 2 ^ lo * (2 ^ len * q) + m * 2 ^ lo := by ring
  have : 2 ^ lo * (2 ^ len * q + v % 2 ^ len) = 2 ^ lo * (2 ^ len * q) + v % 2 ^ len * 2 ^ lo := by ring
  omega

/-- The bits of a number with a field replaced. -/
theorem testBit_setBitsAt (x lo len v i : Nat) :
    (setBitsAt x lo len v).testBit i = if lo ≤ i ∧ i < lo + len then v.testBit (i - lo) else x.testBit i := by
  rw [setBitsAt_form, Nat.testBit_two_pow_mul_add _ (Nat.mod_lt _ (Nat.two_pow_pos lo))]
  by_cases h1 : i < lo
  · rw [if_pos h1, if_neg (by omega), Nat.testBit_mod_two_pow]
    simp [h1]
  · rw [if_neg h1, Nat.testBit_two_pow_mul_add _ (Nat.mod_lt _ (Nat.two_pow_pos len))]
    by_cases h2 : i < lo + len
    · rw [if_pos (by omega), if_pos (by omega), Nat.testBit_mod_two_pow]
      simp [show i - lo < len by omega]
    · rw [if_neg (by omega), if_neg (by omega), Nat.testBit_div_two_pow]
      congr 1
      omega

theorem testBit_elemOf {n : Nat} (v : BitVec n) (b i k : Nat) : (elemOf v b i).testBit k = (decide (k < b) && v.toNat.testBit (i * b + k)) := by
  unfold elemOf
  rw [Nat.testBit_mod_two_pow, Nat.testBit_shiftRight]

/-- Element j of a register with element i replaced (R27). -/
theorem elemOf_setElem {n : Nat} (v : BitVec n) (b i x j : Nat) (hj : (j + 1) * b ≤ n) :
    elemOf (setElem v b i x) b j = if j = i then x % 2 ^ b else elemOf v b j := by
  apply Nat.eq_of_testBit_eq
  intro k
  rw [testBit_elemOf]
  by_cases hk : k < b
  · have hjk : j * b + k < n := by
      have : (j + 1) * b = j * b + b := by ring
      omega
    unfold setElem
    rw [BitVec.toNat_ofNat, Nat.testBit_mod_two_pow, testBit_setBitsAt]
    by_cases h : j = i
    · subst h
      rw [if_pos rfl, Nat.testBit_mod_two_pow, if_pos (by omega)]
      simp [hk, hjk]
    · have : ¬(i * b ≤ j * b + k ∧ j * b + k < i * b + b) := by
        rcases Nat.lt_or_gt_of_ne h with h | h
        · have : j * b + b ≤ i * b := by
            rw [← Nat.succ_mul]
            exact Nat.mul_le_mul_right b h
          omega
        · have : i * b + b ≤ j * b := by
            rw [← Nat.succ_mul]
            exact Nat.mul_le_mul_right b h
          omega
      rw [if_neg h, if_neg this, testBit_elemOf]
      simp [hk, hjk]
  · split
    · rw [Nat.testBit_mod_two_pow]
      simp [hk]
    · rw [testBit_elemOf]
      simp [hk]

/-- The elements of a register with a list of elements written. -/
theorem elemOf_putElems (b : Nat) (f : Nat → Nat) (j : Nat) (hj : (j + 1) * b ≤ 131072) : ∀ (l : List Nat) (v : VReg),
    elemOf (putElems v b (l.map fun i => (i, f i))) b j = if j ∈ l then f j % 2 ^ b else elemOf v b j
  | [], v => by simp [putElems]
  | i :: t, v => by
    show elemOf (putElems (setElem v b i (f i)) b (t.map fun i => (i, f i))) b j = _
    rw [elemOf_putElems b f j hj t, elemOf_setElem v b i (f i) j hj]
    by_cases h : j = i
    · subst h
      by_cases ht : j ∈ t <;> simp [ht]
    · simp [h]

theorem getLsbD_setMaskBit (m : MaskReg) (i : Nat) (b : Bool) (j : Nat) (hj : j < 32768) :
    (setMaskBit m i b).getLsbD j = if j = i then b else m.getLsbD j := by
  unfold setMaskBit
  have h1 : (1#32768 <<< i).getLsbD j = decide (j = i) := by
    rw [BitVec.getLsbD_shiftLeft]
    simp only [hj, decide_true, Bool.true_and]
    by_cases h : j = i
    · subst h; simp
    · by_cases h2 : j < i
      · simp [h, h2]
      · have : j - i ≠ 0 := by omega
        simp [h, BitVec.getLsbD_one, this]
  cases b
  · simp only [Bool.false_eq_true, if_false, BitVec.getLsbD_and, BitVec.getLsbD_not, h1, hj]
    by_cases h : j = i <;> simp [h]
  · simp only [if_true, BitVec.getLsbD_or, h1]
    by_cases h : j = i <;> simp [h]

/-- The bits of a mask with a list of bits written. -/
theorem getLsbD_putBits (f : Nat → Bool) (j : Nat) (hj : j < 32768) : ∀ (l : List Nat) (m : MaskReg),
    (putBits m (l.map fun i => (i, f i))).getLsbD j = if j ∈ l then f j else m.getLsbD j
  | [], m => by simp [putBits]
  | i :: t, m => by
    show (putBits (setMaskBit m i (f i)) (t.map fun i => (i, f i))).getLsbD j = _
    rw [getLsbD_putBits f j hj t, getLsbD_setMaskBit m i (f i) j hj]
    by_cases h : j = i
    · subst h
      by_cases ht : j ∈ t <;> simp [ht]
    · simp [h]

/-- The active elements that an entry sees are those of the statement. -/
theorem activeIn_actives {s : State} {km : BitVec 3} {honours : Bool} :
    activeIn (effMask s.hart km (honours && s.hart.sc.ve)) s.hart.vstart.toNat s.hart.sc.vl.toNat = actives s km honours := by
  unfold activeIn actives active effMask
  have hspan : ∀ (lo hi : Nat) (p : Nat → Bool), (span lo hi).filter p = (List.range hi).filter fun i => decide (lo ≤ i ∧ i < hi) && p i := by
    intro lo hi p
    unfold span
    by_cases h : lo ≤ hi
    · have : List.range hi = List.range lo ++ (List.range (hi - lo)).map (lo + ·) := by
        rw [← List.range_add]; congr 1; omega
      rw [this, List.filter_append]
      have e1 : (List.range lo).filter (fun i => decide (lo ≤ i ∧ i < hi) && p i) = [] := by
        rw [List.filter_eq_nil_iff]
        intro i hi'
        have := List.mem_range.mp hi'
        simp
        omega
      rw [e1, List.nil_append]
      have e2 : (List.range (hi - lo)).map (· + lo) = (List.range (hi - lo)).map (lo + ·) := by
        apply List.map_congr_left; intro i _; exact Nat.add_comm _ _
      rw [e2]
      apply List.filter_congr
      intro i hi'
      obtain ⟨k, hk, rfl⟩ := List.mem_map.mp hi'
      have := List.mem_range.mp hk
      have : (lo ≤ lo + k ∧ lo + k < hi) := by omega
      simp [this]
    · have : hi - lo = 0 := by omega
      rw [this]
      symm
      simp only [List.range_zero, List.map_nil, List.filter_nil]
      rw [List.filter_eq_nil_iff]
      intro i hi'
      have : ¬ (lo ≤ i ∧ i < hi) := by omega
      simp [this]
  rw [hspan]
  unfold vl
  apply List.filter_congr
  intro i _
  cases honours <;> cases s.hart.sc.ve <;> simp [BitVec.getLsbD_and, Bool.and_assoc]

theorem mem_actives {s : State} {km : BitVec 3} {honours : Bool} {j : Nat} :
    j ∈ actives s km honours ↔ active s km honours j = true := by
  unfold actives
  rw [List.mem_filter]
  constructor
  · exact fun h => h.2
  · intro h
    refine ⟨?_, h⟩
    unfold active at h
    simp at h
    exact List.mem_range.mpr h.1.1.2

/-! ### The strand that a result leaves -/

theorem entryOf_copy (s : State) (word : Word32) (op : VOp) : (entryOf s.hart word op).copy = copyOf s := by
  unfold QEntry.copy entryOf copyOf
  cases s.hart.pfx <;> rfl

theorem setVr_setVr (h : Hart) (d : BitVec 6) (a b : VReg) : (h.setVr d a).setVr d b = h.setVr d b := by
  unfold Hart.setVr
  simp

theorem vr_setVr (h : Hart) (d r : BitVec 6) (a : VReg) : (h.setVr d a).vr r = if r = d then a else h.vr r := by
  unfold Hart.setVr Hart.vr
  by_cases hr : r = d
  · subst hr
    simp
  · rw [if_neg hr]
    refine Vector.getElem_set_ne d.isLt r.isLt ?_
    intro e
    exact hr (BitVec.eq_of_toNat_eq e.symm)

theorem mask_setMask (h : Hart) (d r : BitVec 3) (m : MaskReg) :
    (h.setMask d m).mask r = if r = d ∧ d ≠ 0 then m else h.mask r := by
  unfold Hart.setMask
  by_cases h0 : d = 0
  · rw [if_pos h0, if_neg fun e => e.2 h0]
  · rw [if_neg h0]
    unfold Hart.mask
    by_cases hr : r = d
    · subst hr
      rw [if_neg h0, if_pos ⟨rfl, h0⟩]
      exact Vector.getElem_set_self _
    · rw [if_neg fun e : r = d ∧ d ≠ 0 => hr e.1]
      split
      · rfl
      · refine Vector.getElem_set_ne d.isLt r.isLt ?_
        intro e
        exact hr (BitVec.eq_of_toNat_eq e.symm)

theorem setMask_mask (h : Hart) (d : BitVec 3) : h.setMask d (h.mask d) = h := by
  unfold Hart.setMask
  by_cases h0 : d = 0
  · rw [if_pos h0]
  · rw [if_neg h0]
    unfold Hart.mask
    rw [if_neg h0]
    simp only [Vector.set_getElem_self]

theorem vuFlags_raise {h : Hart} (hq : h.queue = []) (f : Flags) : h.vuFlags f = raise f h := by
  unfold Hart.vuFlags raise
  rw [hq]
  cases h
  dsimp only at hq
  subst hq
  rfl

theorem vuPut_put {h : Hart} (hq : h.queue = []) (d : BitVec 5) (v : Word) : h.vuPut d v = putReg d v h := by
  unfold Hart.vuPut putReg
  rw [hq]
  cases h
  dsimp only at hq
  subst hq
  rfl

theorem raise_zero (h : Hart) : raise 0 h = h := by
  unfold raise
  simp

/-- The elements of the destination and of the copy register after an instruction over elements, and nothing else changed. -/
theorem committed_elements {s : State} {word : Word32} {op : VOp} {d : BitVec 6} {res : VResult} {acts : List Nat} {val : Nat → Nat}
    {flags : Nat → BitVec 6} (w8 : Nat) (hq : s.hart.queue = []) (hd : op.vdest = some d) (h2 : op.vdest2 = none)
    (hm : op.maskDest = none ∨ res.bits = []) (hs : res.scalar = none) (hn : op.width s.hart.sc.sew = width s)
    (hop : ∀ m a b c k, op ≠ .widen m a b c k)
    (hr : res.elems = acts.map fun i => (i, val i, flags i)) (hb : res.bits = []) (hf : res.flags = 0) :
    ∃ v : BitVec 6 → VReg,
      committed (entryOf s.hart word op) w8 res s.hart =
        raise (flagsOver acts flags) ((targets s d).foldl (fun h r => h.setVr r (v r)) s.hart) ∧
      ∀ r ∈ targets s d, ∀ j, (j + 1) * width s ≤ 131072 →
        elemOf (v r) (width s) j = if j ∈ acts then val j % 2 ^ width s else el s r j := by
  let l := acts.map fun i => (i, val i)
  have hl : (res.elems.map fun p => (p.1, p.2.1)) = l := by rw [hr, List.map_map]; rfl
  have hfl : (res.elems.foldl (fun g p => g ||| p.2.2) (res.bits.foldl (fun g p => g ||| p.2.2) res.flags)) = flagsOver acts flags := by
    rw [hr, hb, hf]
    unfold flagsOver
    rw [List.foldl_map]
    rfl
  have hcommon : ∀ v : BitVec 6 → VReg,
      s.hart.writeElems (entryOf s.hart word op) w8 (width s) l = (targets s d).foldl (fun h r => h.setVr r (v r)) s.hart →
      committed (entryOf s.hart word op) w8 res s.hart =
        raise (flagsOver acts flags) ((targets s d).foldl (fun h r => h.setVr r (v r)) s.hart) := by
    intro v hv
    have hqv : ((targets s d).foldl (fun h r => h.setVr r (v r)) s.hart).queue = [] := by
      have := vuOnly_foldl (fun h r => h.setVr r (v r)) (fun h r => vuOnly_setVr h r _) (targets s d) s.hart
      have := this.2
      rw [hq] at this
      exact List.length_eq_zero_iff.mp this
    unfold committed Hart.take
    dsimp only
    rw [show (entryOf s.hart word op).op = op from rfl, show (entryOf s.hart word op).sew = s.hart.sc.sew from rfl, hn, hl, hv, h2, hfl, hb]
    dsimp only [List.map_nil]
    have hwb : ∀ h : Hart, h.writeBits (entryOf s.hart word op) [] = h := by
      intro h
      unfold Hart.writeBits
      split <;> rfl
    rw [List.map_nil, hwb, vuFlags_raise hqv, hs]
    cases op.scalarDest <;> rfl
  have hwe : s.hart.writeElems (entryOf s.hart word op) w8 (width s) l =
      (targets s d).foldl (fun h r => h.setVr r (putElems (h.vr r) (width s) l)) s.hart := by
    have ht : (entryOf s.hart word op).targets = targets s d := by
      unfold QEntry.targets
      rw [entryOf_copy, show (entryOf s.hart word op).op = op from rfl, hd]
      simp [targets]
    unfold Hart.writeElems
    rw [ht, show (entryOf s.hart word op).op = op from rfl]
    cases op <;> first | rfl | exact absurd rfl (hop _ _ _ _ _)
  have hel : ∀ v : VReg, ∀ j, (j + 1) * width s ≤ 131072 →
      elemOf (putElems v (width s) l) (width s) j = if j ∈ acts then val j % 2 ^ width s else elemOf v (width s) j :=
    fun v j hj => elemOf_putElems (width s) val j hj acts v
  unfold targets at hwe hcommon ⊢
  cases hc : copyOf s with
  | none =>
    rw [hc] at hwe hcommon
    refine ⟨fun r => putElems (s.hart.vr r) (width s) l, hcommon _ hwe, ?_⟩
    intro r _ j hj
    exact hel _ j hj
  | some c =>
    rw [hc] at hwe hcommon
    by_cases hcd : c = d
    · subst hcd
      refine ⟨fun r => putElems (putElems (s.hart.vr r) (width s) l) (width s) l, hcommon _ ?_, ?_⟩
      · rw [hwe]
        simp only [Option.toList_some, List.foldl_cons, List.foldl_nil, setVr_setVr, vr_setVr, if_true]
      · intro r _ j hj
        rw [hel _ j hj, hel _ j hj]
        split <;> rfl
    · refine ⟨fun r => putElems (s.hart.vr r) (width s) l, hcommon _ ?_, ?_⟩
      · rw [hwe]
        simp only [Option.toList_some, List.foldl_cons, List.foldl_nil, vr_setVr, if_neg hcd]
      · intro r _ j hj
        exact hel _ j hj

/-- The same for mask bits. -/
theorem committed_bits {s : State} {word : Word32} {op : VOp} {d : BitVec 3} {res : VResult} {acts : List Nat} {val : Nat → Bool}
    {flags : Nat → BitVec 6} (w8 : Nat) (hq : s.hart.queue = []) (hd : op.vdest = none) (h2 : op.vdest2 = none)
    (hm : op.maskDest = some (d, true)) (hs : res.scalar = none)
    (hr : res.bits = acts.map fun i => (i, val i, flags i)) (hb : res.elems = []) (hf : res.flags = 0) :
    ∃ m : BitVec 6 → MaskReg,
      committed (entryOf s.hart word op) w8 res s.hart =
        raise (flagsOver acts flags) ((targets s (d.setWidth 6)).foldl (fun h r => h.setMask (r.setWidth 3) (m r)) s.hart) ∧
      ∀ r ∈ targets s (d.setWidth 6), ∀ j < 32768,
        (m r).getLsbD j = if j ∈ acts then val j else (s.hart.mask (r.setWidth 3)).getLsbD j := by
  let l := acts.map fun i => (i, val i)
  have hl : (res.bits.map fun p => (p.1, p.2.1)) = l := by rw [hr, List.map_map]; rfl
  have hfl : (res.elems.foldl (fun g p => g ||| p.2.2) (res.bits.foldl (fun g p => g ||| p.2.2) res.flags)) = flagsOver acts flags := by
    rw [hr, hb, hf]
    unfold flagsOver
    rw [List.foldl_map]
    rfl
  have hd3 : (d.setWidth 6).setWidth 3 = d := by
    apply BitVec.eq_of_getLsbD_eq
    intro i hi
    simp [hi]
  refine ⟨fun r => putBits (s.hart.mask (r.setWidth 3)) l, ?_, fun r _ j hj => getLsbD_putBits val j hj acts _⟩
  have hq' : (s.hart.writeBits (entryOf s.hart word op) l).queue = [] := by
    have := (vuOnly_writeBits s.hart (entryOf s.hart word op) l).2
    rw [hq] at this
    exact List.length_eq_zero_iff.mp this
  have hwe : s.hart.writeElems (entryOf s.hart word op) w8 (op.width s.hart.sc.sew) [] = s.hart := by
    have ht : (entryOf s.hart word op).targets = [] := by
      unfold QEntry.targets
      rw [show (entryOf s.hart word op).op = op from rfl, hd]
      rfl
    unfold Hart.writeElems
    rw [ht]
    split <;> rfl
  unfold committed Hart.take
  dsimp only
  rw [show (entryOf s.hart word op).op = op from rfl, show (entryOf s.hart word op).sew = s.hart.sc.sew from rfl, hl, h2, hfl, hb]
  rw [List.map_nil, hwe, hs, vuFlags_raise hq']
  have hsd : ∀ a : Hart, (match op.scalarDest, (none : Option Word) with
      | some d, some x => a.vuScalar (entryOf s.hart word op) d x
      | _, _ => a) = a := by
    intro a
    cases op.scalarDest <;> rfl
  refine (hsd _).trans ?_
  unfold Hart.writeBits targets
  rw [entryOf_copy, show (entryOf s.hart word op).op = op from rfl, hm]
  dsimp only
  have hid : ∀ (r : BitVec 3) (h : Hart), (∀ k, h.mask k = s.hart.mask k) → acts = [] → h.setMask r (putBits (s.hart.mask r) l) = h := by
    intro r h hk he
    have : l = [] := by show acts.map _ = []; rw [he]; rfl
    rw [this]
    show h.setMask r (s.hart.mask r) = h
    rw [← hk]
    exact setMask_mask h r
  cases hc : copyOf s with
  | none =>
    simp only [Option.toList_none, List.foldl_cons, List.foldl_nil, hd3]
    split
    · rename_i he
      have he' : acts = [] := by simpa [l] using he
      rw [hid d _ (fun _ => rfl) he']
    · rfl
  | some c =>
    simp only [Option.toList_some, List.foldl_cons, List.foldl_nil, hd3, if_true]
    split
    · rename_i he
      have he' : acts = [] := by simpa [l] using he
      rw [hid d _ (fun _ => rfl) he', hid (c.setWidth 3) _ (fun _ => rfl) he']
    · rfl

/-- The same for a scalar result. -/
theorem committed_scalar {s : State} {word : Word32} {op : VOp} {d : BitVec 5} {res : VResult} {v : Word} (w8 : Nat)
    (hq : s.hart.queue = []) (hd : op.vdest = none) (h2 : op.vdest2 = none) (hm : op.maskDest = none) (hsd : op.scalarDest = some d)
    (hs : res.scalar = some v) (hb : res.elems = []) (hb2 : res.bits = []) :
    committed (entryOf s.hart word op) w8 res s.hart = putDest d v (raise res.flags s.hart) := by
  have hwe : s.hart.writeElems (entryOf s.hart word op) w8 (op.width s.hart.sc.sew) [] = s.hart := by
    have ht : (entryOf s.hart word op).targets = [] := by
      unfold QEntry.targets
      rw [show (entryOf s.hart word op).op = op from rfl, hd]
      rfl
    unfold Hart.writeElems
    rw [ht]
    split <;> rfl
  have hwb : s.hart.writeBits (entryOf s.hart word op) [] = s.hart := by
    unfold Hart.writeBits
    rw [show (entryOf s.hart word op).op = op from rfl, hm]
  unfold committed Hart.take
  dsimp only
  rw [show (entryOf s.hart word op).op = op from rfl, show (entryOf s.hart word op).sew = s.hart.sc.sew from rfl, h2, hb, hb2, hsd, hs]
  rw [List.map_nil, List.map_nil, List.foldl_nil, List.foldl_nil, hwe, hwb, vuFlags_raise hq]
  unfold Hart.vuScalar putDest
  rw [entryOf_copy]
  dsimp only
  rw [vuPut_put (h := raise res.flags s.hart) hq]
  unfold copyOf
  show (match s.hart.pfx.bind (fun p => pfxCopy p.word) with | some c => _ | none => _) =
    match s.hart.pfx with
      | none => putReg d v (raise res.flags s.hart)
      | some p => match pfxCopy p.word with
        | none => putReg d v (raise res.flags s.hart)
        | some c => putReg (c.setWidth 5) v (putReg d v (raise res.flags s.hart))
  cases s.hart.pfx with
  | none => rfl
  | some p =>
    simp only [Option.bind_some]
    rcases pfxCopy p.word with _ | c
    · rfl
    · exact vuPut_put (h := putReg d v (raise res.flags s.hart)) hq _ _

end Sys2Proof.Machine
end

