-- ==== Sys2Proof/Laws/Issue.lean ====
section
/-! SUPPORT. The fields of the words that the vector meanings build (spec/04 R80), and an instruction over elements as the statements put it. -/

namespace Sys2Proof.Machine

open Sys2Proof.Safety
@[simp] theorem wordV_op (op vd va vb : BitVec 6) (km : BitVec 3) (fn : BitVec 4) (c : BitVec 1) : fld (wordV op vd va vb km fn c) 26 6 = op := by
  apply BitVec.eq_of_getLsbD_eq
  intro i hi
  simp only [fld, wordV, BitVec.getLsbD_extractLsb', BitVec.getLsbD_append]
  rcases i with _|_|_|_|_|_|i
  · simp
  · simp
  · simp
  · simp
  · simp
  · simp
  · omega

@[simp] theorem wordV_vd (op vd va vb : BitVec 6) (km : BitVec 3) (fn : BitVec 4) (c : BitVec 1) : fld (wordV op vd va vb km fn c) 20 6 = vd := by
  apply BitVec.eq_of_getLsbD_eq
  intro i hi
  simp only [fld, wordV, BitVec.getLsbD_extractLsb', BitVec.getLsbD_append]
  rcases i with _|_|_|_|_|_|i
  · simp
  · simp
  · simp
  · simp
  · simp
  · simp
  · omega

@[simp] theorem wordV_va (op vd va vb : BitVec 6) (km : BitVec 3) (fn : BitVec 4) (c : BitVec 1) : fld (wordV op vd va vb km fn c) 14 6 = va := by
  apply BitVec.eq_of_getLsbD_eq
  intro i hi
  simp only [fld, wordV, BitVec.getLsbD_extractLsb', BitVec.getLsbD_append]
  rcases i with _|_|_|_|_|_|i
  · simp
  · simp
  · simp
  · simp
  · simp
  · simp
  · omega

@[simp] theorem wordV_vb (op vd va vb : BitVec 6) (km : BitVec 3) (fn : BitVec 4) (c : BitVec 1) : fld (wordV op vd va vb km fn c) 8 6 = vb := by
  apply BitVec.eq_of_getLsbD_eq
  intro i hi
  simp only [fld, wordV, BitVec.getLsbD_extractLsb', BitVec.getLsbD_append]
  rcases i with _|_|_|_|_|_|i
  · simp
  · simp
  · simp
  · simp
  · simp
  · simp
  · omega

@[simp] theorem wordV_km (op vd va vb : BitVec 6) (km : BitVec 3) (fn : BitVec 4) (c : BitVec 1) : fld (wordV op vd va vb km fn c) 5 3 = km := by
  apply BitVec.eq_of_getLsbD_eq
  intro i hi
  simp only [fld, wordV, BitVec.getLsbD_extractLsb', BitVec.getLsbD_append]
  rcases i with _|_|_|i
  · simp
  · simp
  · simp
  · omega

@[simp] theorem wordV_fn (op vd va vb : BitVec 6) (km : BitVec 3) (fn : BitVec 4) (c : BitVec 1) : fld (wordV op vd va vb km fn c) 1 4 = fn := by
  apply BitVec.eq_of_getLsbD_eq
  intro i hi
  simp only [fld, wordV, BitVec.getLsbD_extractLsb', BitVec.getLsbD_append]
  rcases i with _|_|_|_|i
  · simp
  · simp
  · simp
  · simp
  · omega

@[simp] theorem wordV_c (op vd va vb : BitVec 6) (km : BitVec 3) (fn : BitVec 4) (c : BitVec 1) : (wordV op vd va vb km fn c).getLsbD 0 = c.getLsbD 0 := by
  simp only [wordV, BitVec.getLsbD_append]
  simp

@[simp] theorem wordVS_op (op vd va : BitVec 6) (sb : BitVec 5) (f5 : BitVec 1) (km : BitVec 3) (fn : BitVec 4) (c : BitVec 1) : fld (wordVS op vd va sb f5 km fn c) 26 6 = op := by
  apply BitVec.eq_of_getLsbD_eq
  intro i hi
  simp only [fld, wordVS, BitVec.getLsbD_extractLsb', BitVec.getLsbD_append]
  rcases i with _|_|_|_|_|_|i
  · simp
  · simp
  · simp
  · simp
  · simp
  · simp
  · omega

@[simp] theorem wordVS_vd (op vd va : BitVec 6) (sb : BitVec 5) (f5 : BitVec 1) (km : BitVec 3) (fn : BitVec 4) (c : BitVec 1) : fld (wordVS op vd va sb f5 km fn c) 20 6 = vd := by
  apply BitVec.eq_of_getLsbD_eq
  intro i hi
  simp only [fld, wordVS, BitVec.getLsbD_extractLsb', BitVec.getLsbD_append]
  rcases i with _|_|_|_|_|_|i
  · simp
  · simp
  · simp
  · simp
  · simp
  · simp
  · omega

@[simp] theorem wordVS_va (op vd va : BitVec 6) (sb : BitVec 5) (f5 : BitVec 1) (km : BitVec 3) (fn : BitVec 4) (c : BitVec 1) : fld (wordVS op vd va sb f5 km fn c) 14 6 = va := by
  apply BitVec.eq_of_getLsbD_eq
  intro i hi
  simp only [fld, wordVS, BitVec.getLsbD_extractLsb', BitVec.getLsbD_append]
  rcases i with _|_|_|_|_|_|i
  · simp
  · simp
  · simp
  · simp
  · simp
  · simp
  · omega

@[simp] theorem wordVS_sb (op vd va : BitVec 6) (sb : BitVec 5) (f5 : BitVec 1) (km : BitVec 3) (fn : BitVec 4) (c : BitVec 1) : fld (wordVS op vd va sb f5 km fn c) 9 5 = sb := by
  apply BitVec.eq_of_getLsbD_eq
  intro i hi
  simp only [fld, wordVS, BitVec.getLsbD_extractLsb', BitVec.getLsbD_append]
  rcases i with _|_|_|_|_|i
  · simp
  · simp
  · simp
  · simp
  · simp
  · omega

@[simp] theorem wordVS_km (op vd va : BitVec 6) (sb : BitVec 5) (f5 : BitVec 1) (km : BitVec 3) (fn : BitVec 4) (c : BitVec 1) : fld (wordVS op vd va sb f5 km fn c) 5 3 = km := by
  apply BitVec.eq_of_getLsbD_eq
  intro i hi
  simp only [fld, wordVS, BitVec.getLsbD_extractLsb', BitVec.getLsbD_append]
  rcases i with _|_|_|i
  · simp
  · simp
  · simp
  · omega

@[simp] theorem wordVS_fn (op vd va : BitVec 6) (sb : BitVec 5) (f5 : BitVec 1) (km : BitVec 3) (fn : BitVec 4) (c : BitVec 1) : fld (wordVS op vd va sb f5 km fn c) 1 4 = fn := by
  apply BitVec.eq_of_getLsbD_eq
  intro i hi
  simp only [fld, wordVS, BitVec.getLsbD_extractLsb', BitVec.getLsbD_append]
  rcases i with _|_|_|_|i
  · simp
  · simp
  · simp
  · simp
  · omega

@[simp] theorem wordVS_c (op vd va : BitVec 6) (sb : BitVec 5) (f5 : BitVec 1) (km : BitVec 3) (fn : BitVec 4) (c : BitVec 1) : (wordVS op vd va sb f5 km fn c).getLsbD 0 = c.getLsbD 0 := by
  simp only [wordVS, BitVec.getLsbD_append]
  simp

@[simp] theorem wordVS_f5 (op vd va : BitVec 6) (sb : BitVec 5) (f5 : BitVec 1) (km : BitVec 3) (fn : BitVec 4) (c : BitVec 1) : (wordVS op vd va sb f5 km fn c).getLsbD 8 = f5.getLsbD 0 := by
  simp only [wordVS, BitVec.getLsbD_append]
  simp

/-- The entry of an instruction sees exactly the active elements. -/
theorem entry_act {s : State} {word : Word32} {op : VOp} :
    (entryEnv s (entryOf s.hart word op)).act = actives s op.km op.usesVE := activeIn_actives

/-- Results element by element, where no register is bound to a stream. -/
theorem entry_each {s : State} {word : Word32} {op : VOp} (f : Nat → Nat × Flags) :
    (entryEnv s (entryOf s.hart word op)).each f =
      { VResult.none with elems := (actives s op.km op.usesVE).map fun i => (i, (f i).1, (f i).2) } := by
  unfold VEnv.each
  rw [entry_act]
  have h : ∀ x : Flags, x ||| 0 = x := by decide
  simp only [entryEnv, h]

/-- Mask bits element by element. -/
theorem entry_eachBit {s : State} {word : Word32} {op : VOp} (f : Nat → Bool × Flags) :
    (entryEnv s (entryOf s.hart word op)).eachBit f =
      { VResult.none with bits := (actives s op.km op.usesVE).map fun i => (i, (f i).1, (f i).2) } := by
  unfold VEnv.eachBit
  rw [entry_act]
  have h : ∀ x : Flags, x ||| 0 = x := by decide
  simp only [entryEnv, h]

/-- An element-wise instruction with one destination completes as the statements put it: the value and the flags of each active element. -/
theorem gives_each {s : State} {rest : List Word32} {word : Word32} {mk : M VOp} {op : VOp} {c : BitVec 1} {d : BitVec 6} {i : Instr}
    {val : Nat → Nat} {flags : Nat → BitVec 6} (hv : vectorReady s) (hc : convoyLeft s c rest) (hi : exec i s = issueV word mk s)
    (hl : vecLegal (regs s) s.hart.sc.sew word = true) (hw : c = 0 → isMember word = true → word.getLsbD 0 = false) (hm : mk s = .ok op s)
    (hst : startsWell s (entryOf s.hart word op)) (hb : ∀ e u, e.op = op → vuBody e u = runElems e u)
    (hd : op.vdest = some d) (h2 : op.vdest2 = none) (hn : op.width s.hart.sc.sew = width s)
    (hop : ∀ m a b c k, op ≠ .widen m a b c k) (acts : List Nat)
    (hr : (entryEnv s (entryOf s.hart word op)).compute op =
      { VResult.none with elems := acts.map fun j => (j, val j, flags j) }) (hval : ∀ j ∈ acts, val j < 2 ^ width s) :
    givesElements s rest d acts i val (flagsOver acts flags) := by
  obtain ⟨v, h1, h2⟩ := committed_elements (word := word) (regWidth s) hv.1 hd h2 (.inr rfl) rfl hn hop rfl rfl rfl
    (res := { VResult.none with elems := acts.map fun j => (j, val j, flags j) }) (acts := acts) (val := val) (flags := flags)
  refine ⟨v, ?_, ?_⟩
  · rw [hi, issueV_elems hv hl hc hw hm hst hb, hr]
    unfold vnext
    rw [h1]
  · intro r hr j hj
    rw [h2 r hr j hj]
    split
    · exact Nat.mod_eq_of_lt (hval j ‹_›)
    · rfl

/-- The same for an instruction with a mask destination. -/
theorem gives_bits {s : State} {rest : List Word32} {word : Word32} {mk : M VOp} {op : VOp} {c : BitVec 1} {d : BitVec 3} {i : Instr}
    {val : Nat → Bool} {flags : Nat → BitVec 6} (hv : vectorReady s) (hc : convoyLeft s c rest) (hi : exec i s = issueV word mk s)
    (hl : vecLegal (regs s) s.hart.sc.sew word = true) (hw : c = 0 → isMember word = true → word.getLsbD 0 = false) (hm : mk s = .ok op s)
    (hst : startsWell s (entryOf s.hart word op)) (hb : ∀ e u, e.op = op → vuBody e u = runElems e u)
    (hd : op.vdest = none) (h2 : op.vdest2 = none) (hk : op.maskDest = some (d, true)) (acts : List Nat)
    (hr : (entryEnv s (entryOf s.hart word op)).compute op =
      { VResult.none with bits := acts.map fun j => (j, val j, flags j) }) :
    givesBits s rest d acts i val (flagsOver acts flags) := by
  obtain ⟨m, h1, h2⟩ := committed_bits (word := word) (regWidth s) hv.1 hd h2 hk rfl rfl rfl rfl
    (res := { VResult.none with bits := acts.map fun j => (j, val j, flags j) }) (acts := acts) (val := val) (flags := flags)
  refine ⟨m, ?_, h2⟩
  rw [hi, issueV_elems hv hl hc hw hm hst hb, hr]
  unfold vnext
  rw [h1]

/-- The same for an instruction with a scalar destination alone. -/
theorem gives_scalar {s : State} {rest : List Word32} {word : Word32} {mk : M VOp} {op : VOp} {c : BitVec 1} {d : BitVec 5} {i : Instr}
    {val : Word} {flags : BitVec 6} (hv : vectorReady s) (hc : convoyLeft s c rest) (hi : exec i s = issueV word mk s)
    (hl : vecLegal (regs s) s.hart.sc.sew word = true) (hw : c = 0 → isMember word = true → word.getLsbD 0 = false) (hm : mk s = .ok op s)
    (hst : startsWell s (entryOf s.hart word op)) (hb : ∀ e u, e.op = op → vuBody e u = runElems e u)
    (hd : op.vdest = none) (h2 : op.vdest2 = none) (hk : op.maskDest = none) (hs : op.scalarDest = some d)
    (hr : (entryEnv s (entryOf s.hart word op)).compute op = { VResult.none with scalar := some val, flags := flags }) :
    givesScalar s rest d i val flags := by
  unfold givesScalar
  rw [hi, issueV_elems hv hl hc hw hm hst hb, hr]
  unfold vnext
  rw [committed_scalar (res := { VResult.none with scalar := some val, flags := flags }) (regWidth s) hv.1 hd h2 hk hs rfl rfl rfl]

end Sys2Proof.Machine
end

