-- ==== Sys2Proof/Laws/PerInstr.lean ====
section
/-! SUPPORT. The families of statements made for every instruction: Encoding, that the decoder reads every field of an instruction's word as
encode wrote it, one lemma for each constructor. -/

namespace Sys2Proof.Laws

/-- A field below the join of two parts. -/
theorem lo {n m k l : Nat} {x : BitVec n} {y : BitVec m} {v : BitVec l} (h : Nat.ble (k + l) m = true) (e : y.extractLsb' k l = v) :
    (x ++ y).extractLsb' k l = v := (BitVec.extractLsb'_append_eq_of_add_le (Nat.le_of_ble_eq_true h)).trans e

/-- A field above the join of two parts. -/
theorem hi {n m k l : Nat} {x : BitVec n} {y : BitVec m} {v : BitVec l} (h : Nat.ble m k = true) (e : x.extractLsb' (k - m) l = v) :
    (x ++ y).extractLsb' k l = v := (BitVec.extractLsb'_append_eq_of_le (Nat.le_of_ble_eq_true h)).trans e

/-- All of a part. -/
theorem whole {n : Nat} (x : BitVec n) : x.extractLsb' 0 n = x := by simp

/-- A field of a word that is known. -/
theorem rd {w c : Word32} {k l : Nat} {v : BitVec l} (e : w = c) (h : fld c k l = v) : fld w k l = v := e ▸ h

/-- The decoder selects an instruction's row from its word, builds the instruction, and checks what its entry checks. -/
def Encoding.Statement (i : Instr) : Prop :=
  ∀ w, encode i = some w → ∃ op : Opcode, selectOp w = .ok op ∧ op.build w = i ∧ op.legal w = i.wellFormed

theorem select01 {w : Word32} (h : fld w 26 6 = 0x1#6) : selectOp w = decodeMajor01 w := by delta selectOp; rw [h]; rfl
theorem select02 {w : Word32} (h : fld w 26 6 = 0x2#6) : selectOp w = decodeMajor02 w := by delta selectOp; rw [h]; rfl
theorem select03 {w : Word32} (h : fld w 26 6 = 0x3#6) : selectOp w = decodeMajor03 w := by delta selectOp; rw [h]; rfl
theorem select08 {w : Word32} (h : fld w 26 6 = 0x8#6) : selectOp w = decodeMajor08 w := by delta selectOp; rw [h]; rfl
theorem select10 {w : Word32} (h : fld w 26 6 = 0x10#6) : selectOp w = decodeMajor10 w := by delta selectOp; rw [h]; rfl
theorem select17 {w : Word32} (h : fld w 26 6 = 0x17#6) : selectOp w = decodeMajor17 w := by delta selectOp; rw [h]; rfl
theorem select18 {w : Word32} (h : fld w 26 6 = 0x18#6) : selectOp w = decodeMajor18 w := by delta selectOp; rw [h]; rfl
theorem select19 {w : Word32} (h : fld w 26 6 = 0x19#6) : selectOp w = decodeMajor19 w := by delta selectOp; rw [h]; rfl
theorem select1A {w : Word32} (h : fld w 26 6 = 0x1A#6) : selectOp w = decodeMajor1A w := by delta selectOp; rw [h]; rfl
theorem select1B {w : Word32} (h : fld w 26 6 = 0x1B#6) : selectOp w = decodeMajor1B w := by delta selectOp; rw [h]; rfl
theorem select1C {w : Word32} (h : fld w 26 6 = 0x1C#6) : selectOp w = decodeMajor1C w := by delta selectOp; rw [h]; rfl
theorem select1D {w : Word32} (h : fld w 26 6 = 0x1D#6) : selectOp w = decodeMajor1D w := by delta selectOp; rw [h]; rfl
theorem select1E {w : Word32} (h : fld w 26 6 = 0x1E#6) : selectOp w = decodeMajor1E w := by delta selectOp; rw [h]; rfl
theorem select20 {w : Word32} (h : fld w 26 6 = 0x20#6) : selectOp w = decodeMajor20 w := by delta selectOp; rw [h]; rfl
theorem select21 {w : Word32} (h : fld w 26 6 = 0x21#6) : selectOp w = decodeMajor21 w := by delta selectOp; rw [h]; rfl
theorem select22 {w : Word32} (h : fld w 26 6 = 0x22#6) : selectOp w = decodeMajor22 w := by delta selectOp; rw [h]; rfl
theorem select23 {w : Word32} (h : fld w 26 6 = 0x23#6) : selectOp w = decodeMajor23 w := by delta selectOp; rw [h]; rfl
theorem select24 {w : Word32} (h : fld w 26 6 = 0x24#6) : selectOp w = decodeMajor24 w := by delta selectOp; rw [h]; rfl
theorem select25 {w : Word32} (h : fld w 26 6 = 0x25#6) : selectOp w = decodeMajor25 w := by delta selectOp; rw [h]; rfl
theorem select26 {w : Word32} (h : fld w 26 6 = 0x26#6) : selectOp w = decodeMajor26 w := by delta selectOp; rw [h]; rfl
theorem select27 {w : Word32} (h : fld w 26 6 = 0x27#6) : selectOp w = decodeMajor27 w := by delta selectOp; rw [h]; rfl
theorem select28 {w : Word32} (h : fld w 26 6 = 0x28#6) : selectOp w = decodeMajor28 w := by delta selectOp; rw [h]; rfl
theorem select29 {w : Word32} (h : fld w 26 6 = 0x29#6) : selectOp w = decodeMajor29 w := by delta selectOp; rw [h]; rfl
theorem select2A {w : Word32} (h : fld w 26 6 = 0x2A#6) : selectOp w = decodeMajor2A w := by delta selectOp; rw [h]; rfl
theorem select2B {w : Word32} (h : fld w 26 6 = 0x2B#6) : selectOp w = decodeMajor2B w := by delta selectOp; rw [h]; rfl
theorem select2C {w : Word32} (h : fld w 26 6 = 0x2C#6) : selectOp w = decodeMajor2C w := by delta selectOp; rw [h]; rfl
theorem select2D {w : Word32} (h : fld w 26 6 = 0x2D#6) : selectOp w = decodeMajor2D w := by delta selectOp; rw [h]; rfl
theorem select30 {w : Word32} (h : fld w 26 6 = 0x30#6) : selectOp w = decodeMajor30 w := by delta selectOp; rw [h]; rfl
theorem select35 {w : Word32} (h : fld w 26 6 = 0x35#6) : selectOp w = decodeMajor35 w := by delta selectOp; rw [h]; rfl
theorem select38 {w : Word32} (h : fld w 26 6 = 0x38#6) : selectOp w = decodeMajor38 w := by delta selectOp; rw [h]; rfl
theorem select39 {w : Word32} (h : fld w 26 6 = 0x39#6) : selectOp w = decodeMajor39 w := by delta selectOp; rw [h]; rfl
theorem select3C {w : Word32} (h : fld w 26 6 = 0x3C#6) : selectOp w = decodeMajor3C w := by delta selectOp; rw [h]; rfl

theorem Encoding.add (d a b : BitVec 5) : Encoding.Statement (.add d a b) := by
  intro w hw
  have e : w = 0x1#6 ++ d ++ a ++ b ++ 0x0#11 := (Option.some.inj hw).symm
  have h26_6 : fld w 26 6 = 0x1#6 := rd e (hi rfl (hi rfl (hi rfl (hi rfl (whole _)))))
  have h0_11 : fld w 0 11 = 0x0#11 := rd e (lo rfl (whole _))
  have h21_5 : fld w 21 5 = d := rd e (hi rfl (hi rfl (hi rfl (lo rfl (whole _)))))
  have h16_5 : fld w 16 5 = a := rd e (hi rfl (hi rfl (lo rfl (whole _))))
  have h11_5 : fld w 11 5 = b := rd e (hi rfl (lo rfl (whole _)))
  exact ⟨.add, (select01 h26_6).trans (by delta decodeMajor01; rw [h0_11]; rfl), by show Instr.add _ _ _ = _; rw [h21_5, h16_5, h11_5], rfl⟩

theorem Encoding.sub (d a b : BitVec 5) : Encoding.Statement (.sub d a b) := by
  intro w hw
  have e : w = 0x1#6 ++ d ++ a ++ b ++ 0x1#11 := (Option.some.inj hw).symm
  have h26_6 : fld w 26 6 = 0x1#6 := rd e (hi rfl (hi rfl (hi rfl (hi rfl (whole _)))))
  have h0_11 : fld w 0 11 = 0x1#11 := rd e (lo rfl (whole _))
  have h21_5 : fld w 21 5 = d := rd e (hi rfl (hi rfl (hi rfl (lo rfl (whole _)))))
  have h16_5 : fld w 16 5 = a := rd e (hi rfl (hi rfl (lo rfl (whole _))))
  have h11_5 : fld w 11 5 = b := rd e (hi rfl (lo rfl (whole _)))
  exact ⟨.sub, (select01 h26_6).trans (by delta decodeMajor01; rw [h0_11]; rfl), by show Instr.sub _ _ _ = _; rw [h21_5, h16_5, h11_5], rfl⟩

theorem Encoding.and (d a b : BitVec 5) : Encoding.Statement (.and d a b) := by
  intro w hw
  have e : w = 0x1#6 ++ d ++ a ++ b ++ 0x2#11 := (Option.some.inj hw).symm
  have h26_6 : fld w 26 6 = 0x1#6 := rd e (hi rfl (hi rfl (hi rfl (hi rfl (whole _)))))
  have h0_11 : fld w 0 11 = 0x2#11 := rd e (lo rfl (whole _))
  have h21_5 : fld w 21 5 = d := rd e (hi rfl (hi rfl (hi rfl (lo rfl (whole _)))))
  have h16_5 : fld w 16 5 = a := rd e (hi rfl (hi rfl (lo rfl (whole _))))
  have h11_5 : fld w 11 5 = b := rd e (hi rfl (lo rfl (whole _)))
  exact ⟨.and, (select01 h26_6).trans (by delta decodeMajor01; rw [h0_11]; rfl), by show Instr.and _ _ _ = _; rw [h21_5, h16_5, h11_5], rfl⟩

theorem Encoding.or (d a b : BitVec 5) : Encoding.Statement (.or d a b) := by
  intro w hw
  have e : w = 0x1#6 ++ d ++ a ++ b ++ 0x3#11 := (Option.some.inj hw).symm
  have h26_6 : fld w 26 6 = 0x1#6 := rd e (hi rfl (hi rfl (hi rfl (hi rfl (whole _)))))
  have h0_11 : fld w 0 11 = 0x3#11 := rd e (lo rfl (whole _))
  have h21_5 : fld w 21 5 = d := rd e (hi rfl (hi rfl (hi rfl (lo rfl (whole _)))))
  have h16_5 : fld w 16 5 = a := rd e (hi rfl (hi rfl (lo rfl (whole _))))
  have h11_5 : fld w 11 5 = b := rd e (hi rfl (lo rfl (whole _)))
  exact ⟨.or, (select01 h26_6).trans (by delta decodeMajor01; rw [h0_11]; rfl), by show Instr.or _ _ _ = _; rw [h21_5, h16_5, h11_5], rfl⟩

theorem Encoding.xor (d a b : BitVec 5) : Encoding.Statement (.xor d a b) := by
  intro w hw
  have e : w = 0x1#6 ++ d ++ a ++ b ++ 0x4#11 := (Option.some.inj hw).symm
  have h26_6 : fld w 26 6 = 0x1#6 := rd e (hi rfl (hi rfl (hi rfl (hi rfl (whole _)))))
  have h0_11 : fld w 0 11 = 0x4#11 := rd e (lo rfl (whole _))
  have h21_5 : fld w 21 5 = d := rd e (hi rfl (hi rfl (hi rfl (lo rfl (whole _)))))
  have h16_5 : fld w 16 5 = a := rd e (hi rfl (hi rfl (lo rfl (whole _))))
  have h11_5 : fld w 11 5 = b := rd e (hi rfl (lo rfl (whole _)))
  exact ⟨.xor, (select01 h26_6).trans (by delta decodeMajor01; rw [h0_11]; rfl), by show Instr.xor _ _ _ = _; rw [h21_5, h16_5, h11_5], rfl⟩

theorem Encoding.andn (d a b : BitVec 5) : Encoding.Statement (.andn d a b) := by
  intro w hw
  have e : w = 0x1#6 ++ d ++ a ++ b ++ 0x5#11 := (Option.some.inj hw).symm
  have h26_6 : fld w 26 6 = 0x1#6 := rd e (hi rfl (hi rfl (hi rfl (hi rfl (whole _)))))
  have h0_11 : fld w 0 11 = 0x5#11 := rd e (lo rfl (whole _))
  have h21_5 : fld w 21 5 = d := rd e (hi rfl (hi rfl (hi rfl (lo rfl (whole _)))))
  have h16_5 : fld w 16 5 = a := rd e (hi rfl (hi rfl (lo rfl (whole _))))
  have h11_5 : fld w 11 5 = b := rd e (hi rfl (lo rfl (whole _)))
  exact ⟨.andn, (select01 h26_6).trans (by delta decodeMajor01; rw [h0_11]; rfl), by show Instr.andn _ _ _ = _; rw [h21_5, h16_5, h11_5], rfl⟩

theorem Encoding.orn (d a b : BitVec 5) : Encoding.Statement (.orn d a b) := by
  intro w hw
  have e : w = 0x1#6 ++ d ++ a ++ b ++ 0x6#11 := (Option.some.inj hw).symm
  have h26_6 : fld w 26 6 = 0x1#6 := rd e (hi rfl (hi rfl (hi rfl (hi rfl (whole _)))))
  have h0_11 : fld w 0 11 = 0x6#11 := rd e (lo rfl (whole _))
  have h21_5 : fld w 21 5 = d := rd e (hi rfl (hi rfl (hi rfl (lo rfl (whole _)))))
  have h16_5 : fld w 16 5 = a := rd e (hi rfl (hi rfl (lo rfl (whole _))))
  have h11_5 : fld w 11 5 = b := rd e (hi rfl (lo rfl (whole _)))
  exact ⟨.orn, (select01 h26_6).trans (by delta decodeMajor01; rw [h0_11]; rfl), by show Instr.orn _ _ _ = _; rw [h21_5, h16_5, h11_5], rfl⟩

theorem Encoding.xnor (d a b : BitVec 5) : Encoding.Statement (.xnor d a b) := by
  intro w hw
  have e : w = 0x1#6 ++ d ++ a ++ b ++ 0x7#11 := (Option.some.inj hw).symm
  have h26_6 : fld w 26 6 = 0x1#6 := rd e (hi rfl (hi rfl (hi rfl (hi rfl (whole _)))))
  have h0_11 : fld w 0 11 = 0x7#11 := rd e (lo rfl (whole _))
  have h21_5 : fld w 21 5 = d := rd e (hi rfl (hi rfl (hi rfl (lo rfl (whole _)))))
  have h16_5 : fld w 16 5 = a := rd e (hi rfl (hi rfl (lo rfl (whole _))))
  have h11_5 : fld w 11 5 = b := rd e (hi rfl (lo rfl (whole _)))
  exact ⟨.xnor, (select01 h26_6).trans (by delta decodeMajor01; rw [h0_11]; rfl), by show Instr.xnor _ _ _ = _; rw [h21_5, h16_5, h11_5], rfl⟩

theorem Encoding.sll (d a b : BitVec 5) : Encoding.Statement (.sll d a b) := by
  intro w hw
  have e : w = 0x1#6 ++ d ++ a ++ b ++ 0x8#11 := (Option.some.inj hw).symm
  have h26_6 : fld w 26 6 = 0x1#6 := rd e (hi rfl (hi rfl (hi rfl (hi rfl (whole _)))))
  have h0_11 : fld w 0 11 = 0x8#11 := rd e (lo rfl (whole _))
  have h21_5 : fld w 21 5 = d := rd e (hi rfl (hi rfl (hi rfl (lo rfl (whole _)))))
  have h16_5 : fld w 16 5 = a := rd e (hi rfl (hi rfl (lo rfl (whole _))))
  have h11_5 : fld w 11 5 = b := rd e (hi rfl (lo rfl (whole _)))
  exact ⟨.sll, (select01 h26_6).trans (by delta decodeMajor01; rw [h0_11]; rfl), by show Instr.sll _ _ _ = _; rw [h21_5, h16_5, h11_5], rfl⟩

theorem Encoding.srl (d a b : BitVec 5) : Encoding.Statement (.srl d a b) := by
  intro w hw
  have e : w = 0x1#6 ++ d ++ a ++ b ++ 0x9#11 := (Option.some.inj hw).symm
  have h26_6 : fld w 26 6 = 0x1#6 := rd e (hi rfl (hi rfl (hi rfl (hi rfl (whole _)))))
  have h0_11 : fld w 0 11 = 0x9#11 := rd e (lo rfl (whole _))
  have h21_5 : fld w 21 5 = d := rd e (hi rfl (hi rfl (hi rfl (lo rfl (whole _)))))
  have h16_5 : fld w 16 5 = a := rd e (hi rfl (hi rfl (lo rfl (whole _))))
  have h11_5 : fld w 11 5 = b := rd e (hi rfl (lo rfl (whole _)))
  exact ⟨.srl, (select01 h26_6).trans (by delta decodeMajor01; rw [h0_11]; rfl), by show Instr.srl _ _ _ = _; rw [h21_5, h16_5, h11_5], rfl⟩

theorem Encoding.sra (d a b : BitVec 5) : Encoding.Statement (.sra d a b) := by
  intro w hw
  have e : w = 0x1#6 ++ d ++ a ++ b ++ 0xA#11 := (Option.some.inj hw).symm
  have h26_6 : fld w 26 6 = 0x1#6 := rd e (hi rfl (hi rfl (hi rfl (hi rfl (whole _)))))
  have h0_11 : fld w 0 11 = 0xA#11 := rd e (lo rfl (whole _))
  have h21_5 : fld w 21 5 = d := rd e (hi rfl (hi rfl (hi rfl (lo rfl (whole _)))))
  have h16_5 : fld w 16 5 = a := rd e (hi rfl (hi rfl (lo rfl (whole _))))
  have h11_5 : fld w 11 5 = b := rd e (hi rfl (lo rfl (whole _)))
  exact ⟨.sra, (select01 h26_6).trans (by delta decodeMajor01; rw [h0_11]; rfl), by show Instr.sra _ _ _ = _; rw [h21_5, h16_5, h11_5], rfl⟩

theorem Encoding.rol (d a b : BitVec 5) : Encoding.Statement (.rol d a b) := by
  intro w hw
  have e : w = 0x1#6 ++ d ++ a ++ b ++ 0xB#11 := (Option.some.inj hw).symm
  have h26_6 : fld w 26 6 = 0x1#6 := rd e (hi rfl (hi rfl (hi rfl (hi rfl (whole _)))))
  have h0_11 : fld w 0 11 = 0xB#11 := rd e (lo rfl (whole _))
  have h21_5 : fld w 21 5 = d := rd e (hi rfl (hi rfl (hi rfl (lo rfl (whole _)))))
  have h16_5 : fld w 16 5 = a := rd e (hi rfl (hi rfl (lo rfl (whole _))))
  have h11_5 : fld w 11 5 = b := rd e (hi rfl (lo rfl (whole _)))
  exact ⟨.rol, (select01 h26_6).trans (by delta decodeMajor01; rw [h0_11]; rfl), by show Instr.rol _ _ _ = _; rw [h21_5, h16_5, h11_5], rfl⟩

theorem Encoding.ror (d a b : BitVec 5) : Encoding.Statement (.ror d a b) := by
  intro w hw
  have e : w = 0x1#6 ++ d ++ a ++ b ++ 0xC#11 := (Option.some.inj hw).symm
  have h26_6 : fld w 26 6 = 0x1#6 := rd e (hi rfl (hi rfl (hi rfl (hi rfl (whole _)))))
  have h0_11 : fld w 0 11 = 0xC#11 := rd e (lo rfl (whole _))
  have h21_5 : fld w 21 5 = d := rd e (hi rfl (hi rfl (hi rfl (lo rfl (whole _)))))
  have h16_5 : fld w 16 5 = a := rd e (hi rfl (hi rfl (lo rfl (whole _))))
  have h11_5 : fld w 11 5 = b := rd e (hi rfl (lo rfl (whole _)))
  exact ⟨.ror, (select01 h26_6).trans (by delta decodeMajor01; rw [h0_11]; rfl), by show Instr.ror _ _ _ = _; rw [h21_5, h16_5, h11_5], rfl⟩

theorem Encoding.min (d a b : BitVec 5) : Encoding.Statement (.min d a b) := by
  intro w hw
  have e : w = 0x1#6 ++ d ++ a ++ b ++ 0xD#11 := (Option.some.inj hw).symm
  have h26_6 : fld w 26 6 = 0x1#6 := rd e (hi rfl (hi rfl (hi rfl (hi rfl (whole _)))))
  have h0_11 : fld w 0 11 = 0xD#11 := rd e (lo rfl (whole _))
  have h21_5 : fld w 21 5 = d := rd e (hi rfl (hi rfl (hi rfl (lo rfl (whole _)))))
  have h16_5 : fld w 16 5 = a := rd e (hi rfl (hi rfl (lo rfl (whole _))))
  have h11_5 : fld w 11 5 = b := rd e (hi rfl (lo rfl (whole _)))
  exact ⟨.min, (select01 h26_6).trans (by delta decodeMajor01; rw [h0_11]; rfl), by show Instr.min _ _ _ = _; rw [h21_5, h16_5, h11_5], rfl⟩

theorem Encoding.minu (d a b : BitVec 5) : Encoding.Statement (.minu d a b) := by
  intro w hw
  have e : w = 0x1#6 ++ d ++ a ++ b ++ 0xE#11 := (Option.some.inj hw).symm
  have h26_6 : fld w 26 6 = 0x1#6 := rd e (hi rfl (hi rfl (hi rfl (hi rfl (whole _)))))
  have h0_11 : fld w 0 11 = 0xE#11 := rd e (lo rfl (whole _))
  have h21_5 : fld w 21 5 = d := rd e (hi rfl (hi rfl (hi rfl (lo rfl (whole _)))))
  have h16_5 : fld w 16 5 = a := rd e (hi rfl (hi rfl (lo rfl (whole _))))
  have h11_5 : fld w 11 5 = b := rd e (hi rfl (lo rfl (whole _)))
  exact ⟨.minu, (select01 h26_6).trans (by delta decodeMajor01; rw [h0_11]; rfl), by show Instr.minu _ _ _ = _; rw [h21_5, h16_5, h11_5], rfl⟩

theorem Encoding.max (d a b : BitVec 5) : Encoding.Statement (.max d a b) := by
  intro w hw
  have e : w = 0x1#6 ++ d ++ a ++ b ++ 0xF#11 := (Option.some.inj hw).symm
  have h26_6 : fld w 26 6 = 0x1#6 := rd e (hi rfl (hi rfl (hi rfl (hi rfl (whole _)))))
  have h0_11 : fld w 0 11 = 0xF#11 := rd e (lo rfl (whole _))
  have h21_5 : fld w 21 5 = d := rd e (hi rfl (hi rfl (hi rfl (lo rfl (whole _)))))
  have h16_5 : fld w 16 5 = a := rd e (hi rfl (hi rfl (lo rfl (whole _))))
  have h11_5 : fld w 11 5 = b := rd e (hi rfl (lo rfl (whole _)))
  exact ⟨.max, (select01 h26_6).trans (by delta decodeMajor01; rw [h0_11]; rfl), by show Instr.max _ _ _ = _; rw [h21_5, h16_5, h11_5], rfl⟩

theorem Encoding.maxu (d a b : BitVec 5) : Encoding.Statement (.maxu d a b) := by
  intro w hw
  have e : w = 0x1#6 ++ d ++ a ++ b ++ 0x10#11 := (Option.some.inj hw).symm
  have h26_6 : fld w 26 6 = 0x1#6 := rd e (hi rfl (hi rfl (hi rfl (hi rfl (whole _)))))
  have h0_11 : fld w 0 11 = 0x10#11 := rd e (lo rfl (whole _))
  have h21_5 : fld w 21 5 = d := rd e (hi rfl (hi rfl (hi rfl (lo rfl (whole _)))))
  have h16_5 : fld w 16 5 = a := rd e (hi rfl (hi rfl (lo rfl (whole _))))
  have h11_5 : fld w 11 5 = b := rd e (hi rfl (lo rfl (whole _)))
  exact ⟨.maxu, (select01 h26_6).trans (by delta decodeMajor01; rw [h0_11]; rfl), by show Instr.maxu _ _ _ = _; rw [h21_5, h16_5, h11_5], rfl⟩

theorem Encoding.seq (d a b : BitVec 5) : Encoding.Statement (.seq d a b) := by
  intro w hw
  have e : w = 0x1#6 ++ d ++ a ++ b ++ 0x11#11 := (Option.some.inj hw).symm
  have h26_6 : fld w 26 6 = 0x1#6 := rd e (hi rfl (hi rfl (hi rfl (hi rfl (whole _)))))
  have h0_11 : fld w 0 11 = 0x11#11 := rd e (lo rfl (whole _))
  have h21_5 : fld w 21 5 = d := rd e (hi rfl (hi rfl (hi rfl (lo rfl (whole _)))))
  have h16_5 : fld w 16 5 = a := rd e (hi rfl (hi rfl (lo rfl (whole _))))
  have h11_5 : fld w 11 5 = b := rd e (hi rfl (lo rfl (whole _)))
  exact ⟨.seq, (select01 h26_6).trans (by delta decodeMajor01; rw [h0_11]; rfl), by show Instr.seq _ _ _ = _; rw [h21_5, h16_5, h11_5], rfl⟩

theorem Encoding.sne (d a b : BitVec 5) : Encoding.Statement (.sne d a b) := by
  intro w hw
  have e : w = 0x1#6 ++ d ++ a ++ b ++ 0x12#11 := (Option.some.inj hw).symm
  have h26_6 : fld w 26 6 = 0x1#6 := rd e (hi rfl (hi rfl (hi rfl (hi rfl (whole _)))))
  have h0_11 : fld w 0 11 = 0x12#11 := rd e (lo rfl (whole _))
  have h21_5 : fld w 21 5 = d := rd e (hi rfl (hi rfl (hi rfl (lo rfl (whole _)))))
  have h16_5 : fld w 16 5 = a := rd e (hi rfl (hi rfl (lo rfl (whole _))))
  have h11_5 : fld w 11 5 = b := rd e (hi rfl (lo rfl (whole _)))
  exact ⟨.sne, (select01 h26_6).trans (by delta decodeMajor01; rw [h0_11]; rfl), by show Instr.sne _ _ _ = _; rw [h21_5, h16_5, h11_5], rfl⟩

theorem Encoding.slt (d a b : BitVec 5) : Encoding.Statement (.slt d a b) := by
  intro w hw
  have e : w = 0x1#6 ++ d ++ a ++ b ++ 0x13#11 := (Option.some.inj hw).symm
  have h26_6 : fld w 26 6 = 0x1#6 := rd e (hi rfl (hi rfl (hi rfl (hi rfl (whole _)))))
  have h0_11 : fld w 0 11 = 0x13#11 := rd e (lo rfl (whole _))
  have h21_5 : fld w 21 5 = d := rd e (hi rfl (hi rfl (hi rfl (lo rfl (whole _)))))
  have h16_5 : fld w 16 5 = a := rd e (hi rfl (hi rfl (lo rfl (whole _))))
  have h11_5 : fld w 11 5 = b := rd e (hi rfl (lo rfl (whole _)))
  exact ⟨.slt, (select01 h26_6).trans (by delta decodeMajor01; rw [h0_11]; rfl), by show Instr.slt _ _ _ = _; rw [h21_5, h16_5, h11_5], rfl⟩

theorem Encoding.sltu (d a b : BitVec 5) : Encoding.Statement (.sltu d a b) := by
  intro w hw
  have e : w = 0x1#6 ++ d ++ a ++ b ++ 0x14#11 := (Option.some.inj hw).symm
  have h26_6 : fld w 26 6 = 0x1#6 := rd e (hi rfl (hi rfl (hi rfl (hi rfl (whole _)))))
  have h0_11 : fld w 0 11 = 0x14#11 := rd e (lo rfl (whole _))
  have h21_5 : fld w 21 5 = d := rd e (hi rfl (hi rfl (hi rfl (lo rfl (whole _)))))
  have h16_5 : fld w 16 5 = a := rd e (hi rfl (hi rfl (lo rfl (whole _))))
  have h11_5 : fld w 11 5 = b := rd e (hi rfl (lo rfl (whole _)))
  exact ⟨.sltu, (select01 h26_6).trans (by delta decodeMajor01; rw [h0_11]; rfl), by show Instr.sltu _ _ _ = _; rw [h21_5, h16_5, h11_5], rfl⟩

theorem Encoding.mul (d a b : BitVec 5) : Encoding.Statement (.mul d a b) := by
  intro w hw
  have e : w = 0x2#6 ++ d ++ a ++ b ++ 0x0#11 := (Option.some.inj hw).symm
  have h26_6 : fld w 26 6 = 0x2#6 := rd e (hi rfl (hi rfl (hi rfl (hi rfl (whole _)))))
  have h0_11 : fld w 0 11 = 0x0#11 := rd e (lo rfl (whole _))
  have h21_5 : fld w 21 5 = d := rd e (hi rfl (hi rfl (hi rfl (lo rfl (whole _)))))
  have h16_5 : fld w 16 5 = a := rd e (hi rfl (hi rfl (lo rfl (whole _))))
  have h11_5 : fld w 11 5 = b := rd e (hi rfl (lo rfl (whole _)))
  exact ⟨.mul, (select02 h26_6).trans (by delta decodeMajor02; rw [h0_11]; rfl), by show Instr.mul _ _ _ = _; rw [h21_5, h16_5, h11_5], rfl⟩

theorem Encoding.mulh (d a b : BitVec 5) : Encoding.Statement (.mulh d a b) := by
  intro w hw
  have e : w = 0x2#6 ++ d ++ a ++ b ++ 0x1#11 := (Option.some.inj hw).symm
  have h26_6 : fld w 26 6 = 0x2#6 := rd e (hi rfl (hi rfl (hi rfl (hi rfl (whole _)))))
  have h0_11 : fld w 0 11 = 0x1#11 := rd e (lo rfl (whole _))
  have h21_5 : fld w 21 5 = d := rd e (hi rfl (hi rfl (hi rfl (lo rfl (whole _)))))
  have h16_5 : fld w 16 5 = a := rd e (hi rfl (hi rfl (lo rfl (whole _))))
  have h11_5 : fld w 11 5 = b := rd e (hi rfl (lo rfl (whole _)))
  exact ⟨.mulh, (select02 h26_6).trans (by delta decodeMajor02; rw [h0_11]; rfl), by show Instr.mulh _ _ _ = _; rw [h21_5, h16_5, h11_5], rfl⟩

theorem Encoding.mulhu (d a b : BitVec 5) : Encoding.Statement (.mulhu d a b) := by
  intro w hw
  have e : w = 0x2#6 ++ d ++ a ++ b ++ 0x2#11 := (Option.some.inj hw).symm
  have h26_6 : fld w 26 6 = 0x2#6 := rd e (hi rfl (hi rfl (hi rfl (hi rfl (whole _)))))
  have h0_11 : fld w 0 11 = 0x2#11 := rd e (lo rfl (whole _))
  have h21_5 : fld w 21 5 = d := rd e (hi rfl (hi rfl (hi rfl (lo rfl (whole _)))))
  have h16_5 : fld w 16 5 = a := rd e (hi rfl (hi rfl (lo rfl (whole _))))
  have h11_5 : fld w 11 5 = b := rd e (hi rfl (lo rfl (whole _)))
  exact ⟨.mulhu, (select02 h26_6).trans (by delta decodeMajor02; rw [h0_11]; rfl), by show Instr.mulhu _ _ _ = _; rw [h21_5, h16_5, h11_5], rfl⟩

theorem Encoding.div (d a b : BitVec 5) : Encoding.Statement (.div d a b) := by
  intro w hw
  have e : w = 0x2#6 ++ d ++ a ++ b ++ 0x3#11 := (Option.some.inj hw).symm
  have h26_6 : fld w 26 6 = 0x2#6 := rd e (hi rfl (hi rfl (hi rfl (hi rfl (whole _)))))
  have h0_11 : fld w 0 11 = 0x3#11 := rd e (lo rfl (whole _))
  have h21_5 : fld w 21 5 = d := rd e (hi rfl (hi rfl (hi rfl (lo rfl (whole _)))))
  have h16_5 : fld w 16 5 = a := rd e (hi rfl (hi rfl (lo rfl (whole _))))
  have h11_5 : fld w 11 5 = b := rd e (hi rfl (lo rfl (whole _)))
  exact ⟨.div, (select02 h26_6).trans (by delta decodeMajor02; rw [h0_11]; rfl), by show Instr.div _ _ _ = _; rw [h21_5, h16_5, h11_5], rfl⟩

theorem Encoding.divu (d a b : BitVec 5) : Encoding.Statement (.divu d a b) := by
  intro w hw
  have e : w = 0x2#6 ++ d ++ a ++ b ++ 0x4#11 := (Option.some.inj hw).symm
  have h26_6 : fld w 26 6 = 0x2#6 := rd e (hi rfl (hi rfl (hi rfl (hi rfl (whole _)))))
  have h0_11 : fld w 0 11 = 0x4#11 := rd e (lo rfl (whole _))
  have h21_5 : fld w 21 5 = d := rd e (hi rfl (hi rfl (hi rfl (lo rfl (whole _)))))
  have h16_5 : fld w 16 5 = a := rd e (hi rfl (hi rfl (lo rfl (whole _))))
  have h11_5 : fld w 11 5 = b := rd e (hi rfl (lo rfl (whole _)))
  exact ⟨.divu, (select02 h26_6).trans (by delta decodeMajor02; rw [h0_11]; rfl), by show Instr.divu _ _ _ = _; rw [h21_5, h16_5, h11_5], rfl⟩

theorem Encoding.rem (d a b : BitVec 5) : Encoding.Statement (.rem d a b) := by
  intro w hw
  have e : w = 0x2#6 ++ d ++ a ++ b ++ 0x5#11 := (Option.some.inj hw).symm
  have h26_6 : fld w 26 6 = 0x2#6 := rd e (hi rfl (hi rfl (hi rfl (hi rfl (whole _)))))
  have h0_11 : fld w 0 11 = 0x5#11 := rd e (lo rfl (whole _))
  have h21_5 : fld w 21 5 = d := rd e (hi rfl (hi rfl (hi rfl (lo rfl (whole _)))))
  have h16_5 : fld w 16 5 = a := rd e (hi rfl (hi rfl (lo rfl (whole _))))
  have h11_5 : fld w 11 5 = b := rd e (hi rfl (lo rfl (whole _)))
  exact ⟨.rem, (select02 h26_6).trans (by delta decodeMajor02; rw [h0_11]; rfl), by show Instr.rem _ _ _ = _; rw [h21_5, h16_5, h11_5], rfl⟩

theorem Encoding.remu (d a b : BitVec 5) : Encoding.Statement (.remu d a b) := by
  intro w hw
  have e : w = 0x2#6 ++ d ++ a ++ b ++ 0x6#11 := (Option.some.inj hw).symm
  have h26_6 : fld w 26 6 = 0x2#6 := rd e (hi rfl (hi rfl (hi rfl (hi rfl (whole _)))))
  have h0_11 : fld w 0 11 = 0x6#11 := rd e (lo rfl (whole _))
  have h21_5 : fld w 21 5 = d := rd e (hi rfl (hi rfl (hi rfl (lo rfl (whole _)))))
  have h16_5 : fld w 16 5 = a := rd e (hi rfl (hi rfl (lo rfl (whole _))))
  have h11_5 : fld w 11 5 = b := rd e (hi rfl (lo rfl (whole _)))
  exact ⟨.remu, (select02 h26_6).trans (by delta decodeMajor02; rw [h0_11]; rfl), by show Instr.remu _ _ _ = _; rw [h21_5, h16_5, h11_5], rfl⟩

theorem Encoding.clz (d a : BitVec 5) : Encoding.Statement (.clz d a) := by
  intro w hw
  have e : w = 0x3#6 ++ d ++ a ++ 0x0#16 := (Option.some.inj hw).symm
  have h26_6 : fld w 26 6 = 0x3#6 := rd e (hi rfl (hi rfl (hi rfl (whole _))))
  have h0_11 : fld w 0 11 = 0x0#11 := rd e (lo rfl (by decide))
  have h11_5 : fld w 11 5 = 0x0#5 := rd e (lo rfl (by decide))
  have h21_5 : fld w 21 5 = d := rd e (hi rfl (hi rfl (lo rfl (whole _))))
  have h16_5 : fld w 16 5 = a := rd e (hi rfl (lo rfl (whole _)))
  exact ⟨.clz, (select03 h26_6).trans (by delta decodeMajor03; rw [h0_11, h11_5]; rfl), by show Instr.clz _ _ = _; rw [h21_5, h16_5], rfl⟩

theorem Encoding.ctz (d a : BitVec 5) : Encoding.Statement (.ctz d a) := by
  intro w hw
  have e : w = 0x3#6 ++ d ++ a ++ 0x1#16 := (Option.some.inj hw).symm
  have h26_6 : fld w 26 6 = 0x3#6 := rd e (hi rfl (hi rfl (hi rfl (whole _))))
  have h0_11 : fld w 0 11 = 0x1#11 := rd e (lo rfl (by decide))
  have h11_5 : fld w 11 5 = 0x0#5 := rd e (lo rfl (by decide))
  have h21_5 : fld w 21 5 = d := rd e (hi rfl (hi rfl (lo rfl (whole _))))
  have h16_5 : fld w 16 5 = a := rd e (hi rfl (lo rfl (whole _)))
  exact ⟨.ctz, (select03 h26_6).trans (by delta decodeMajor03; rw [h0_11, h11_5]; rfl), by show Instr.ctz _ _ = _; rw [h21_5, h16_5], rfl⟩

theorem Encoding.popc (d a : BitVec 5) : Encoding.Statement (.popc d a) := by
  intro w hw
  have e : w = 0x3#6 ++ d ++ a ++ 0x2#16 := (Option.some.inj hw).symm
  have h26_6 : fld w 26 6 = 0x3#6 := rd e (hi rfl (hi rfl (hi rfl (whole _))))
  have h0_11 : fld w 0 11 = 0x2#11 := rd e (lo rfl (by decide))
  have h11_5 : fld w 11 5 = 0x0#5 := rd e (lo rfl (by decide))
  have h21_5 : fld w 21 5 = d := rd e (hi rfl (hi rfl (lo rfl (whole _))))
  have h16_5 : fld w 16 5 = a := rd e (hi rfl (lo rfl (whole _)))
  exact ⟨.popc, (select03 h26_6).trans (by delta decodeMajor03; rw [h0_11, h11_5]; rfl), by show Instr.popc _ _ = _; rw [h21_5, h16_5], rfl⟩

theorem Encoding.bext (d a b : BitVec 5) : Encoding.Statement (.bext d a b) := by
  intro w hw
  have e : w = 0x3#6 ++ d ++ a ++ b ++ 0x3#11 := (Option.some.inj hw).symm
  have h26_6 : fld w 26 6 = 0x3#6 := rd e (hi rfl (hi rfl (hi rfl (hi rfl (whole _)))))
  have h0_11 : fld w 0 11 = 0x3#11 := rd e (lo rfl (whole _))
  have h21_5 : fld w 21 5 = d := rd e (hi rfl (hi rfl (hi rfl (lo rfl (whole _)))))
  have h16_5 : fld w 16 5 = a := rd e (hi rfl (hi rfl (lo rfl (whole _))))
  have h11_5 : fld w 11 5 = b := rd e (hi rfl (lo rfl (whole _)))
  exact ⟨.bext, (select03 h26_6).trans (by delta decodeMajor03; rw [h0_11]; rfl), by show Instr.bext _ _ _ = _; rw [h21_5, h16_5, h11_5], rfl⟩

theorem Encoding.bdep (d a b : BitVec 5) : Encoding.Statement (.bdep d a b) := by
  intro w hw
  have e : w = 0x3#6 ++ d ++ a ++ b ++ 0x4#11 := (Option.some.inj hw).symm
  have h26_6 : fld w 26 6 = 0x3#6 := rd e (hi rfl (hi rfl (hi rfl (hi rfl (whole _)))))
  have h0_11 : fld w 0 11 = 0x4#11 := rd e (lo rfl (whole _))
  have h21_5 : fld w 21 5 = d := rd e (hi rfl (hi rfl (hi rfl (lo rfl (whole _)))))
  have h16_5 : fld w 16 5 = a := rd e (hi rfl (hi rfl (lo rfl (whole _))))
  have h11_5 : fld w 11 5 = b := rd e (hi rfl (lo rfl (whole _)))
  exact ⟨.bdep, (select03 h26_6).trans (by delta decodeMajor03; rw [h0_11]; rfl), by show Instr.bdep _ _ _ = _; rw [h21_5, h16_5, h11_5], rfl⟩

theorem Encoding.bswap (d a : BitVec 5) : Encoding.Statement (.bswap d a) := by
  intro w hw
  have e : w = 0x3#6 ++ d ++ a ++ 0x5#16 := (Option.some.inj hw).symm
  have h26_6 : fld w 26 6 = 0x3#6 := rd e (hi rfl (hi rfl (hi rfl (whole _))))
  have h0_11 : fld w 0 11 = 0x5#11 := rd e (lo rfl (by decide))
  have h11_5 : fld w 11 5 = 0x0#5 := rd e (lo rfl (by decide))
  have h21_5 : fld w 21 5 = d := rd e (hi rfl (hi rfl (lo rfl (whole _))))
  have h16_5 : fld w 16 5 = a := rd e (hi rfl (lo rfl (whole _)))
  exact ⟨.bswap, (select03 h26_6).trans (by delta decodeMajor03; rw [h0_11, h11_5]; rfl), by show Instr.bswap _ _ = _; rw [h21_5, h16_5], rfl⟩

theorem Encoding.sextB (d a : BitVec 5) : Encoding.Statement (.sextB d a) := by
  intro w hw
  have e : w = 0x3#6 ++ d ++ a ++ 0x6#16 := (Option.some.inj hw).symm
  have h26_6 : fld w 26 6 = 0x3#6 := rd e (hi rfl (hi rfl (hi rfl (whole _))))
  have h0_11 : fld w 0 11 = 0x6#11 := rd e (lo rfl (by decide))
  have h11_5 : fld w 11 5 = 0x0#5 := rd e (lo rfl (by decide))
  have h21_5 : fld w 21 5 = d := rd e (hi rfl (hi rfl (lo rfl (whole _))))
  have h16_5 : fld w 16 5 = a := rd e (hi rfl (lo rfl (whole _)))
  exact ⟨.sextB, (select03 h26_6).trans (by delta decodeMajor03; rw [h0_11, h11_5]; rfl), by show Instr.sextB _ _ = _; rw [h21_5, h16_5], rfl⟩

theorem Encoding.sextH (d a : BitVec 5) : Encoding.Statement (.sextH d a) := by
  intro w hw
  have e : w = 0x3#6 ++ d ++ a ++ 0x7#16 := (Option.some.inj hw).symm
  have h26_6 : fld w 26 6 = 0x3#6 := rd e (hi rfl (hi rfl (hi rfl (whole _))))
  have h0_11 : fld w 0 11 = 0x7#11 := rd e (lo rfl (by decide))
  have h11_5 : fld w 11 5 = 0x0#5 := rd e (lo rfl (by decide))
  have h21_5 : fld w 21 5 = d := rd e (hi rfl (hi rfl (lo rfl (whole _))))
  have h16_5 : fld w 16 5 = a := rd e (hi rfl (lo rfl (whole _)))
  exact ⟨.sextH, (select03 h26_6).trans (by delta decodeMajor03; rw [h0_11, h11_5]; rfl), by show Instr.sextH _ _ = _; rw [h21_5, h16_5], rfl⟩

theorem Encoding.sextW (d a : BitVec 5) : Encoding.Statement (.sextW d a) := by
  intro w hw
  have e : w = 0x3#6 ++ d ++ a ++ 0x8#16 := (Option.some.inj hw).symm
  have h26_6 : fld w 26 6 = 0x3#6 := rd e (hi rfl (hi rfl (hi rfl (whole _))))
  have h0_11 : fld w 0 11 = 0x8#11 := rd e (lo rfl (by decide))
  have h11_5 : fld w 11 5 = 0x0#5 := rd e (lo rfl (by decide))
  have h21_5 : fld w 21 5 = d := rd e (hi rfl (hi rfl (lo rfl (whole _))))
  have h16_5 : fld w 16 5 = a := rd e (hi rfl (lo rfl (whole _)))
  exact ⟨.sextW, (select03 h26_6).trans (by delta decodeMajor03; rw [h0_11, h11_5]; rfl), by show Instr.sextW _ _ = _; rw [h21_5, h16_5], rfl⟩

theorem Encoding.zextB (d a : BitVec 5) : Encoding.Statement (.zextB d a) := by
  intro w hw
  have e : w = 0x3#6 ++ d ++ a ++ 0x9#16 := (Option.some.inj hw).symm
  have h26_6 : fld w 26 6 = 0x3#6 := rd e (hi rfl (hi rfl (hi rfl (whole _))))
  have h0_11 : fld w 0 11 = 0x9#11 := rd e (lo rfl (by decide))
  have h11_5 : fld w 11 5 = 0x0#5 := rd e (lo rfl (by decide))
  have h21_5 : fld w 21 5 = d := rd e (hi rfl (hi rfl (lo rfl (whole _))))
  have h16_5 : fld w 16 5 = a := rd e (hi rfl (lo rfl (whole _)))
  exact ⟨.zextB, (select03 h26_6).trans (by delta decodeMajor03; rw [h0_11, h11_5]; rfl), by show Instr.zextB _ _ = _; rw [h21_5, h16_5], rfl⟩

theorem Encoding.zextH (d a : BitVec 5) : Encoding.Statement (.zextH d a) := by
  intro w hw
  have e : w = 0x3#6 ++ d ++ a ++ 0xA#16 := (Option.some.inj hw).symm
  have h26_6 : fld w 26 6 = 0x3#6 := rd e (hi rfl (hi rfl (hi rfl (whole _))))
  have h0_11 : fld w 0 11 = 0xA#11 := rd e (lo rfl (by decide))
  have h11_5 : fld w 11 5 = 0x0#5 := rd e (lo rfl (by decide))
  have h21_5 : fld w 21 5 = d := rd e (hi rfl (hi rfl (lo rfl (whole _))))
  have h16_5 : fld w 16 5 = a := rd e (hi rfl (lo rfl (whole _)))
  exact ⟨.zextH, (select03 h26_6).trans (by delta decodeMajor03; rw [h0_11, h11_5]; rfl), by show Instr.zextH _ _ = _; rw [h21_5, h16_5], rfl⟩

theorem Encoding.zextW (d a : BitVec 5) : Encoding.Statement (.zextW d a) := by
  intro w hw
  have e : w = 0x3#6 ++ d ++ a ++ 0xB#16 := (Option.some.inj hw).symm
  have h26_6 : fld w 26 6 = 0x3#6 := rd e (hi rfl (hi rfl (hi rfl (whole _))))
  have h0_11 : fld w 0 11 = 0xB#11 := rd e (lo rfl (by decide))
  have h11_5 : fld w 11 5 = 0x0#5 := rd e (lo rfl (by decide))
  have h21_5 : fld w 21 5 = d := rd e (hi rfl (hi rfl (lo rfl (whole _))))
  have h16_5 : fld w 16 5 = a := rd e (hi rfl (lo rfl (whole _)))
  exact ⟨.zextW, (select03 h26_6).trans (by delta decodeMajor03; rw [h0_11, h11_5]; rfl), by show Instr.zextW _ _ = _; rw [h21_5, h16_5], rfl⟩

theorem Encoding.addi (d a : BitVec 5) (imm : BitVec 16) : Encoding.Statement (.addi d a imm) := by
  intro w hw
  have e : w = 0x4#6 ++ d ++ a ++ imm := (Option.some.inj hw).symm
  have h26_6 : fld w 26 6 = 0x4#6 := rd e (hi rfl (hi rfl (hi rfl (whole _))))
  have h21_5 : fld w 21 5 = d := rd e (hi rfl (hi rfl (lo rfl (whole _))))
  have h16_5 : fld w 16 5 = a := rd e (hi rfl (lo rfl (whole _)))
  have h0_16 : fld w 0 16 = imm := rd e (lo rfl (whole _))
  exact ⟨.addi, by delta selectOp; rw [h26_6]; rfl, by show Instr.addi _ _ _ = _; rw [h21_5, h16_5, h0_16], rfl⟩

theorem Encoding.andi (d a : BitVec 5) (imm : BitVec 16) : Encoding.Statement (.andi d a imm) := by
  intro w hw
  have e : w = 0x5#6 ++ d ++ a ++ imm := (Option.some.inj hw).symm
  have h26_6 : fld w 26 6 = 0x5#6 := rd e (hi rfl (hi rfl (hi rfl (whole _))))
  have h21_5 : fld w 21 5 = d := rd e (hi rfl (hi rfl (lo rfl (whole _))))
  have h16_5 : fld w 16 5 = a := rd e (hi rfl (lo rfl (whole _)))
  have h0_16 : fld w 0 16 = imm := rd e (lo rfl (whole _))
  exact ⟨.andi, by delta selectOp; rw [h26_6]; rfl, by show Instr.andi _ _ _ = _; rw [h21_5, h16_5, h0_16], rfl⟩

theorem Encoding.ori (d a : BitVec 5) (imm : BitVec 16) : Encoding.Statement (.ori d a imm) := by
  intro w hw
  have e : w = 0x6#6 ++ d ++ a ++ imm := (Option.some.inj hw).symm
  have h26_6 : fld w 26 6 = 0x6#6 := rd e (hi rfl (hi rfl (hi rfl (whole _))))
  have h21_5 : fld w 21 5 = d := rd e (hi rfl (hi rfl (lo rfl (whole _))))
  have h16_5 : fld w 16 5 = a := rd e (hi rfl (lo rfl (whole _)))
  have h0_16 : fld w 0 16 = imm := rd e (lo rfl (whole _))
  exact ⟨.ori, by delta selectOp; rw [h26_6]; rfl, by show Instr.ori _ _ _ = _; rw [h21_5, h16_5, h0_16], rfl⟩

theorem Encoding.xori (d a : BitVec 5) (imm : BitVec 16) : Encoding.Statement (.xori d a imm) := by
  intro w hw
  have e : w = 0x7#6 ++ d ++ a ++ imm := (Option.some.inj hw).symm
  have h26_6 : fld w 26 6 = 0x7#6 := rd e (hi rfl (hi rfl (hi rfl (whole _))))
  have h21_5 : fld w 21 5 = d := rd e (hi rfl (hi rfl (lo rfl (whole _))))
  have h16_5 : fld w 16 5 = a := rd e (hi rfl (lo rfl (whole _)))
  have h0_16 : fld w 0 16 = imm := rd e (lo rfl (whole _))
  exact ⟨.xori, by delta selectOp; rw [h26_6]; rfl, by show Instr.xori _ _ _ = _; rw [h21_5, h16_5, h0_16], rfl⟩

theorem Encoding.slli (d a : BitVec 5) (n : BitVec 6) : Encoding.Statement (.slli d a n) := by
  intro w hw
  have e : w = 0x8#6 ++ d ++ a ++ 0x0#10 ++ n := (Option.some.inj hw).symm
  have h26_6 : fld w 26 6 = 0x8#6 := rd e (hi rfl (hi rfl (hi rfl (hi rfl (whole _)))))
  have h6_2 : fld w 6 2 = 0x0#2 := rd e (hi rfl (lo rfl (by decide)))
  have h8_8 : fld w 8 8 = 0x0#8 := rd e (hi rfl (lo rfl (by decide)))
  have h21_5 : fld w 21 5 = d := rd e (hi rfl (hi rfl (hi rfl (lo rfl (whole _)))))
  have h16_5 : fld w 16 5 = a := rd e (hi rfl (hi rfl (lo rfl (whole _))))
  have h0_6 : fld w 0 6 = n := rd e (lo rfl (whole _))
  exact ⟨.slli, (select08 h26_6).trans (by delta decodeMajor08; rw [h6_2, h8_8]; rfl), by show Instr.slli _ _ _ = _; rw [h21_5, h16_5, h0_6], rfl⟩

theorem Encoding.srli (d a : BitVec 5) (n : BitVec 6) : Encoding.Statement (.srli d a n) := by
  intro w hw
  have e : w = 0x8#6 ++ d ++ a ++ 0x1#10 ++ n := (Option.some.inj hw).symm
  have h26_6 : fld w 26 6 = 0x8#6 := rd e (hi rfl (hi rfl (hi rfl (hi rfl (whole _)))))
  have h6_2 : fld w 6 2 = 0x1#2 := rd e (hi rfl (lo rfl (by decide)))
  have h8_8 : fld w 8 8 = 0x0#8 := rd e (hi rfl (lo rfl (by decide)))
  have h21_5 : fld w 21 5 = d := rd e (hi rfl (hi rfl (hi rfl (lo rfl (whole _)))))
  have h16_5 : fld w 16 5 = a := rd e (hi rfl (hi rfl (lo rfl (whole _))))
  have h0_6 : fld w 0 6 = n := rd e (lo rfl (whole _))
  exact ⟨.srli, (select08 h26_6).trans (by delta decodeMajor08; rw [h6_2, h8_8]; rfl), by show Instr.srli _ _ _ = _; rw [h21_5, h16_5, h0_6], rfl⟩

theorem Encoding.srai (d a : BitVec 5) (n : BitVec 6) : Encoding.Statement (.srai d a n) := by
  intro w hw
  have e : w = 0x8#6 ++ d ++ a ++ 0x2#10 ++ n := (Option.some.inj hw).symm
  have h26_6 : fld w 26 6 = 0x8#6 := rd e (hi rfl (hi rfl (hi rfl (hi rfl (whole _)))))
  have h6_2 : fld w 6 2 = 0x2#2 := rd e (hi rfl (lo rfl (by decide)))
  have h8_8 : fld w 8 8 = 0x0#8 := rd e (hi rfl (lo rfl (by decide)))
  have h21_5 : fld w 21 5 = d := rd e (hi rfl (hi rfl (hi rfl (lo rfl (whole _)))))
  have h16_5 : fld w 16 5 = a := rd e (hi rfl (hi rfl (lo rfl (whole _))))
  have h0_6 : fld w 0 6 = n := rd e (lo rfl (whole _))
  exact ⟨.srai, (select08 h26_6).trans (by delta decodeMajor08; rw [h6_2, h8_8]; rfl), by show Instr.srai _ _ _ = _; rw [h21_5, h16_5, h0_6], rfl⟩

theorem Encoding.slti (d a : BitVec 5) (imm : BitVec 16) : Encoding.Statement (.slti d a imm) := by
  intro w hw
  have e : w = 0x9#6 ++ d ++ a ++ imm := (Option.some.inj hw).symm
  have h26_6 : fld w 26 6 = 0x9#6 := rd e (hi rfl (hi rfl (hi rfl (whole _))))
  have h21_5 : fld w 21 5 = d := rd e (hi rfl (hi rfl (lo rfl (whole _))))
  have h16_5 : fld w 16 5 = a := rd e (hi rfl (lo rfl (whole _)))
  have h0_16 : fld w 0 16 = imm := rd e (lo rfl (whole _))
  exact ⟨.slti, by delta selectOp; rw [h26_6]; rfl, by show Instr.slti _ _ _ = _; rw [h21_5, h16_5, h0_16], rfl⟩

theorem Encoding.sltiu (d a : BitVec 5) (imm : BitVec 16) : Encoding.Statement (.sltiu d a imm) := by
  intro w hw
  have e : w = 0xA#6 ++ d ++ a ++ imm := (Option.some.inj hw).symm
  have h26_6 : fld w 26 6 = 0xA#6 := rd e (hi rfl (hi rfl (hi rfl (whole _))))
  have h21_5 : fld w 21 5 = d := rd e (hi rfl (hi rfl (lo rfl (whole _))))
  have h16_5 : fld w 16 5 = a := rd e (hi rfl (lo rfl (whole _)))
  have h0_16 : fld w 0 16 = imm := rd e (lo rfl (whole _))
  exact ⟨.sltiu, by delta selectOp; rw [h26_6]; rfl, by show Instr.sltiu _ _ _ = _; rw [h21_5, h16_5, h0_16], rfl⟩

theorem Encoding.movz (d : BitVec 5) (n : BitVec 2) (imm : BitVec 16) : Encoding.Statement (.movz d n imm) := by
  intro w hw
  have e : w = 0xB#6 ++ d ++ 0x0#3 ++ n ++ imm := (Option.some.inj hw).symm
  have h26_6 : fld w 26 6 = 0xB#6 := rd e (hi rfl (hi rfl (hi rfl (hi rfl (whole _)))))
  have h18_3 : fld w 18 3 = 0x0#3 := rd e (hi rfl (hi rfl (lo rfl (whole _))))
  have h21_5 : fld w 21 5 = d := rd e (hi rfl (hi rfl (hi rfl (lo rfl (whole _)))))
  have h16_2 : fld w 16 2 = n := rd e (hi rfl (lo rfl (whole _)))
  have h0_16 : fld w 0 16 = imm := rd e (lo rfl (whole _))
  exact ⟨.movz, by delta selectOp; rw [h26_6, h18_3]; rfl, by show Instr.movz _ _ _ = _; rw [h21_5, h16_2, h0_16], rfl⟩

theorem Encoding.movk (d : BitVec 5) (n : BitVec 2) (imm : BitVec 16) : Encoding.Statement (.movk d n imm) := by
  intro w hw
  have e : w = 0xC#6 ++ d ++ 0x0#3 ++ n ++ imm := (Option.some.inj hw).symm
  have h26_6 : fld w 26 6 = 0xC#6 := rd e (hi rfl (hi rfl (hi rfl (hi rfl (whole _)))))
  have h18_3 : fld w 18 3 = 0x0#3 := rd e (hi rfl (hi rfl (lo rfl (whole _))))
  have h21_5 : fld w 21 5 = d := rd e (hi rfl (hi rfl (hi rfl (lo rfl (whole _)))))
  have h16_2 : fld w 16 2 = n := rd e (hi rfl (lo rfl (whole _)))
  have h0_16 : fld w 0 16 = imm := rd e (lo rfl (whole _))
  exact ⟨.movk, by delta selectOp; rw [h26_6, h18_3]; rfl, by show Instr.movk _ _ _ = _; rw [h21_5, h16_2, h0_16], rfl⟩

theorem Encoding.fadd (d a b : BitVec 5) (ty : BitVec 2) (rm : BitVec 3) : Encoding.Statement (.fadd d a b ty rm) := by
  intro w hw
  have e : w = 0x10#6 ++ d ++ a ++ b ++ ty ++ rm ++ 0x0#6 := (Option.some.inj hw).symm
  have h26_6 : fld w 26 6 = 0x10#6 := rd e (hi rfl (hi rfl (hi rfl (hi rfl (hi rfl (hi rfl (whole _)))))))
  have h0_6 : fld w 0 6 = 0x0#6 := rd e (lo rfl (whole _))
  have h21_5 : fld w 21 5 = d := rd e (hi rfl (hi rfl (hi rfl (hi rfl (hi rfl (lo rfl (whole _)))))))
  have h16_5 : fld w 16 5 = a := rd e (hi rfl (hi rfl (hi rfl (hi rfl (lo rfl (whole _))))))
  have h11_5 : fld w 11 5 = b := rd e (hi rfl (hi rfl (hi rfl (lo rfl (whole _)))))
  have h9_2 : fld w 9 2 = ty := rd e (hi rfl (hi rfl (lo rfl (whole _))))
  have h6_3 : fld w 6 3 = rm := rd e (hi rfl (lo rfl (whole _)))
  exact ⟨.fadd, (select10 h26_6).trans (by delta decodeMajor10; rw [h0_6]; rfl), by show Instr.fadd _ _ _ _ _ = _; rw [h21_5, h16_5, h11_5, h9_2, h6_3], by show (roundOk (fld w 6 3)) = _; rw [h6_3]; rfl⟩

theorem Encoding.fsub (d a b : BitVec 5) (ty : BitVec 2) (rm : BitVec 3) : Encoding.Statement (.fsub d a b ty rm) := by
  intro w hw
  have e : w = 0x10#6 ++ d ++ a ++ b ++ ty ++ rm ++ 0x1#6 := (Option.some.inj hw).symm
  have h26_6 : fld w 26 6 = 0x10#6 := rd e (hi rfl (hi rfl (hi rfl (hi rfl (hi rfl (hi rfl (whole _)))))))
  have h0_6 : fld w 0 6 = 0x1#6 := rd e (lo rfl (whole _))
  have h21_5 : fld w 21 5 = d := rd e (hi rfl (hi rfl (hi rfl (hi rfl (hi rfl (lo rfl (whole _)))))))
  have h16_5 : fld w 16 5 = a := rd e (hi rfl (hi rfl (hi rfl (hi rfl (lo rfl (whole _))))))
  have h11_5 : fld w 11 5 = b := rd e (hi rfl (hi rfl (hi rfl (lo rfl (whole _)))))
  have h9_2 : fld w 9 2 = ty := rd e (hi rfl (hi rfl (lo rfl (whole _))))
  have h6_3 : fld w 6 3 = rm := rd e (hi rfl (lo rfl (whole _)))
  exact ⟨.fsub, (select10 h26_6).trans (by delta decodeMajor10; rw [h0_6]; rfl), by show Instr.fsub _ _ _ _ _ = _; rw [h21_5, h16_5, h11_5, h9_2, h6_3], by show (roundOk (fld w 6 3)) = _; rw [h6_3]; rfl⟩

theorem Encoding.fmul (d a b : BitVec 5) (ty : BitVec 2) (rm : BitVec 3) : Encoding.Statement (.fmul d a b ty rm) := by
  intro w hw
  have e : w = 0x10#6 ++ d ++ a ++ b ++ ty ++ rm ++ 0x2#6 := (Option.some.inj hw).symm
  have h26_6 : fld w 26 6 = 0x10#6 := rd e (hi rfl (hi rfl (hi rfl (hi rfl (hi rfl (hi rfl (whole _)))))))
  have h0_6 : fld w 0 6 = 0x2#6 := rd e (lo rfl (whole _))
  have h21_5 : fld w 21 5 = d := rd e (hi rfl (hi rfl (hi rfl (hi rfl (hi rfl (lo rfl (whole _)))))))
  have h16_5 : fld w 16 5 = a := rd e (hi rfl (hi rfl (hi rfl (hi rfl (lo rfl (whole _))))))
  have h11_5 : fld w 11 5 = b := rd e (hi rfl (hi rfl (hi rfl (lo rfl (whole _)))))
  have h9_2 : fld w 9 2 = ty := rd e (hi rfl (hi rfl (lo rfl (whole _))))
  have h6_3 : fld w 6 3 = rm := rd e (hi rfl (lo rfl (whole _)))
  exact ⟨.fmul, (select10 h26_6).trans (by delta decodeMajor10; rw [h0_6]; rfl), by show Instr.fmul _ _ _ _ _ = _; rw [h21_5, h16_5, h11_5, h9_2, h6_3], by show (roundOk (fld w 6 3)) = _; rw [h6_3]; rfl⟩

theorem Encoding.fdiv (d a b : BitVec 5) (ty : BitVec 2) (rm : BitVec 3) : Encoding.Statement (.fdiv d a b ty rm) := by
  intro w hw
  have e : w = 0x10#6 ++ d ++ a ++ b ++ ty ++ rm ++ 0x3#6 := (Option.some.inj hw).symm
  have h26_6 : fld w 26 6 = 0x10#6 := rd e (hi rfl (hi rfl (hi rfl (hi rfl (hi rfl (hi rfl (whole _)))))))
  have h0_6 : fld w 0 6 = 0x3#6 := rd e (lo rfl (whole _))
  have h21_5 : fld w 21 5 = d := rd e (hi rfl (hi rfl (hi rfl (hi rfl (hi rfl (lo rfl (whole _)))))))
  have h16_5 : fld w 16 5 = a := rd e (hi rfl (hi rfl (hi rfl (hi rfl (lo rfl (whole _))))))
  have h11_5 : fld w 11 5 = b := rd e (hi rfl (hi rfl (hi rfl (lo rfl (whole _)))))
  have h9_2 : fld w 9 2 = ty := rd e (hi rfl (hi rfl (lo rfl (whole _))))
  have h6_3 : fld w 6 3 = rm := rd e (hi rfl (lo rfl (whole _)))
  exact ⟨.fdiv, (select10 h26_6).trans (by delta decodeMajor10; rw [h0_6]; rfl), by show Instr.fdiv _ _ _ _ _ = _; rw [h21_5, h16_5, h11_5, h9_2, h6_3], by show (roundOk (fld w 6 3)) = _; rw [h6_3]; rfl⟩

theorem Encoding.fsqrt (d a : BitVec 5) (ty : BitVec 2) (rm : BitVec 3) : Encoding.Statement (.fsqrt d a ty rm) := by
  intro w hw
  have e : w = 0x10#6 ++ d ++ a ++ 0x0#5 ++ ty ++ rm ++ 0x4#6 := (Option.some.inj hw).symm
  have h26_6 : fld w 26 6 = 0x10#6 := rd e (hi rfl (hi rfl (hi rfl (hi rfl (hi rfl (hi rfl (whole _)))))))
  have h0_6 : fld w 0 6 = 0x4#6 := rd e (lo rfl (whole _))
  have h11_5 : fld w 11 5 = 0x0#5 := rd e (hi rfl (hi rfl (hi rfl (lo rfl (whole _)))))
  have h21_5 : fld w 21 5 = d := rd e (hi rfl (hi rfl (hi rfl (hi rfl (hi rfl (lo rfl (whole _)))))))
  have h16_5 : fld w 16 5 = a := rd e (hi rfl (hi rfl (hi rfl (hi rfl (lo rfl (whole _))))))
  have h9_2 : fld w 9 2 = ty := rd e (hi rfl (hi rfl (lo rfl (whole _))))
  have h6_3 : fld w 6 3 = rm := rd e (hi rfl (lo rfl (whole _)))
  exact ⟨.fsqrt, (select10 h26_6).trans (by delta decodeMajor10; rw [h0_6, h11_5]; rfl), by show Instr.fsqrt _ _ _ _ = _; rw [h21_5, h16_5, h9_2, h6_3], by show (roundOk (fld w 6 3)) = _; rw [h6_3]; rfl⟩

theorem Encoding.fmin (d a b : BitVec 5) (ty : BitVec 2) : Encoding.Statement (.fmin d a b ty) := by
  intro w hw
  have e : w = 0x10#6 ++ d ++ a ++ b ++ ty ++ 0x5#9 := (Option.some.inj hw).symm
  have h26_6 : fld w 26 6 = 0x10#6 := rd e (hi rfl (hi rfl (hi rfl (hi rfl (hi rfl (whole _))))))
  have h0_6 : fld w 0 6 = 0x5#6 := rd e (lo rfl (by decide))
  have h6_3 : fld w 6 3 = 0x0#3 := rd e (lo rfl (by decide))
  have h21_5 : fld w 21 5 = d := rd e (hi rfl (hi rfl (hi rfl (hi rfl (lo rfl (whole _))))))
  have h16_5 : fld w 16 5 = a := rd e (hi rfl (hi rfl (hi rfl (lo rfl (whole _)))))
  have h11_5 : fld w 11 5 = b := rd e (hi rfl (hi rfl (lo rfl (whole _))))
  have h9_2 : fld w 9 2 = ty := rd e (hi rfl (lo rfl (whole _)))
  exact ⟨.fmin, (select10 h26_6).trans (by delta decodeMajor10; rw [h0_6, h6_3]; rfl), by show Instr.fmin _ _ _ _ = _; rw [h21_5, h16_5, h11_5, h9_2], rfl⟩

theorem Encoding.fmax (d a b : BitVec 5) (ty : BitVec 2) : Encoding.Statement (.fmax d a b ty) := by
  intro w hw
  have e : w = 0x10#6 ++ d ++ a ++ b ++ ty ++ 0x6#9 := (Option.some.inj hw).symm
  have h26_6 : fld w 26 6 = 0x10#6 := rd e (hi rfl (hi rfl (hi rfl (hi rfl (hi rfl (whole _))))))
  have h0_6 : fld w 0 6 = 0x6#6 := rd e (lo rfl (by decide))
  have h6_3 : fld w 6 3 = 0x0#3 := rd e (lo rfl (by decide))
  have h21_5 : fld w 21 5 = d := rd e (hi rfl (hi rfl (hi rfl (hi rfl (lo rfl (whole _))))))
  have h16_5 : fld w 16 5 = a := rd e (hi rfl (hi rfl (hi rfl (lo rfl (whole _)))))
  have h11_5 : fld w 11 5 = b := rd e (hi rfl (hi rfl (lo rfl (whole _))))
  have h9_2 : fld w 9 2 = ty := rd e (hi rfl (lo rfl (whole _)))
  exact ⟨.fmax, (select10 h26_6).trans (by delta decodeMajor10; rw [h0_6, h6_3]; rfl), by show Instr.fmax _ _ _ _ = _; rw [h21_5, h16_5, h11_5, h9_2], rfl⟩

theorem Encoding.feq (d a b : BitVec 5) (ty : BitVec 2) : Encoding.Statement (.feq d a b ty) := by
  intro w hw
  have e : w = 0x10#6 ++ d ++ a ++ b ++ ty ++ 0x7#9 := (Option.some.inj hw).symm
  have h26_6 : fld w 26 6 = 0x10#6 := rd e (hi rfl (hi rfl (hi rfl (hi rfl (hi rfl (whole _))))))
  have h0_6 : fld w 0 6 = 0x7#6 := rd e (lo rfl (by decide))
  have h6_3 : fld w 6 3 = 0x0#3 := rd e (lo rfl (by decide))
  have h21_5 : fld w 21 5 = d := rd e (hi rfl (hi rfl (hi rfl (hi rfl (lo rfl (whole _))))))
  have h16_5 : fld w 16 5 = a := rd e (hi rfl (hi rfl (hi rfl (lo rfl (whole _)))))
  have h11_5 : fld w 11 5 = b := rd e (hi rfl (hi rfl (lo rfl (whole _))))
  have h9_2 : fld w 9 2 = ty := rd e (hi rfl (lo rfl (whole _)))
  exact ⟨.feq, (select10 h26_6).trans (by delta decodeMajor10; rw [h0_6, h6_3]; rfl), by show Instr.feq _ _ _ _ = _; rw [h21_5, h16_5, h11_5, h9_2], rfl⟩

theorem Encoding.flt (d a b : BitVec 5) (ty : BitVec 2) : Encoding.Statement (.flt d a b ty) := by
  intro w hw
  have e : w = 0x10#6 ++ d ++ a ++ b ++ ty ++ 0x8#9 := (Option.some.inj hw).symm
  have h26_6 : fld w 26 6 = 0x10#6 := rd e (hi rfl (hi rfl (hi rfl (hi rfl (hi rfl (whole _))))))
  have h0_6 : fld w 0 6 = 0x8#6 := rd e (lo rfl (by decide))
  have h6_3 : fld w 6 3 = 0x0#3 := rd e (lo rfl (by decide))
  have h21_5 : fld w 21 5 = d := rd e (hi rfl (hi rfl (hi rfl (hi rfl (lo rfl (whole _))))))
  have h16_5 : fld w 16 5 = a := rd e (hi rfl (hi rfl (hi rfl (lo rfl (whole _)))))
  have h11_5 : fld w 11 5 = b := rd e (hi rfl (hi rfl (lo rfl (whole _))))
  have h9_2 : fld w 9 2 = ty := rd e (hi rfl (lo rfl (whole _)))
  exact ⟨.flt, (select10 h26_6).trans (by delta decodeMajor10; rw [h0_6, h6_3]; rfl), by show Instr.flt _ _ _ _ = _; rw [h21_5, h16_5, h11_5, h9_2], rfl⟩

theorem Encoding.fle (d a b : BitVec 5) (ty : BitVec 2) : Encoding.Statement (.fle d a b ty) := by
  intro w hw
  have e : w = 0x10#6 ++ d ++ a ++ b ++ ty ++ 0x9#9 := (Option.some.inj hw).symm
  have h26_6 : fld w 26 6 = 0x10#6 := rd e (hi rfl (hi rfl (hi rfl (hi rfl (hi rfl (whole _))))))
  have h0_6 : fld w 0 6 = 0x9#6 := rd e (lo rfl (by decide))
  have h6_3 : fld w 6 3 = 0x0#3 := rd e (lo rfl (by decide))
  have h21_5 : fld w 21 5 = d := rd e (hi rfl (hi rfl (hi rfl (hi rfl (lo rfl (whole _))))))
  have h16_5 : fld w 16 5 = a := rd e (hi rfl (hi rfl (hi rfl (lo rfl (whole _)))))
  have h11_5 : fld w 11 5 = b := rd e (hi rfl (hi rfl (lo rfl (whole _))))
  have h9_2 : fld w 9 2 = ty := rd e (hi rfl (lo rfl (whole _)))
  exact ⟨.fle, (select10 h26_6).trans (by delta decodeMajor10; rw [h0_6, h6_3]; rfl), by show Instr.fle _ _ _ _ = _; rw [h21_5, h16_5, h11_5, h9_2], rfl⟩

theorem Encoding.fclass (d a : BitVec 5) (ty : BitVec 2) : Encoding.Statement (.fclass d a ty) := by
  intro w hw
  have e : w = 0x10#6 ++ d ++ a ++ 0x0#5 ++ ty ++ 0xA#9 := (Option.some.inj hw).symm
  have h26_6 : fld w 26 6 = 0x10#6 := rd e (hi rfl (hi rfl (hi rfl (hi rfl (hi rfl (whole _))))))
  have h0_6 : fld w 0 6 = 0xA#6 := rd e (lo rfl (by decide))
  have h11_5 : fld w 11 5 = 0x0#5 := rd e (hi rfl (hi rfl (lo rfl (whole _))))
  have h6_3 : fld w 6 3 = 0x0#3 := rd e (lo rfl (by decide))
  have h21_5 : fld w 21 5 = d := rd e (hi rfl (hi rfl (hi rfl (hi rfl (lo rfl (whole _))))))
  have h16_5 : fld w 16 5 = a := rd e (hi rfl (hi rfl (hi rfl (lo rfl (whole _)))))
  have h9_2 : fld w 9 2 = ty := rd e (hi rfl (lo rfl (whole _)))
  exact ⟨.fclass, (select10 h26_6).trans (by delta decodeMajor10; rw [h0_6, h11_5, h6_3]; rfl), by show Instr.fclass _ _ _ = _; rw [h21_5, h16_5, h9_2], rfl⟩

theorem Encoding.fsgnj (d a b : BitVec 5) (ty : BitVec 2) : Encoding.Statement (.fsgnj d a b ty) := by
  intro w hw
  have e : w = 0x10#6 ++ d ++ a ++ b ++ ty ++ 0xB#9 := (Option.some.inj hw).symm
  have h26_6 : fld w 26 6 = 0x10#6 := rd e (hi rfl (hi rfl (hi rfl (hi rfl (hi rfl (whole _))))))
  have h0_6 : fld w 0 6 = 0xB#6 := rd e (lo rfl (by decide))
  have h6_3 : fld w 6 3 = 0x0#3 := rd e (lo rfl (by decide))
  have h21_5 : fld w 21 5 = d := rd e (hi rfl (hi rfl (hi rfl (hi rfl (lo rfl (whole _))))))
  have h16_5 : fld w 16 5 = a := rd e (hi rfl (hi rfl (hi rfl (lo rfl (whole _)))))
  have h11_5 : fld w 11 5 = b := rd e (hi rfl (hi rfl (lo rfl (whole _))))
  have h9_2 : fld w 9 2 = ty := rd e (hi rfl (lo rfl (whole _)))
  exact ⟨.fsgnj, (select10 h26_6).trans (by delta decodeMajor10; rw [h0_6, h6_3]; rfl), by show Instr.fsgnj _ _ _ _ = _; rw [h21_5, h16_5, h11_5, h9_2], rfl⟩

theorem Encoding.fsgnjn (d a b : BitVec 5) (ty : BitVec 2) : Encoding.Statement (.fsgnjn d a b ty) := by
  intro w hw
  have e : w = 0x10#6 ++ d ++ a ++ b ++ ty ++ 0xC#9 := (Option.some.inj hw).symm
  have h26_6 : fld w 26 6 = 0x10#6 := rd e (hi rfl (hi rfl (hi rfl (hi rfl (hi rfl (whole _))))))
  have h0_6 : fld w 0 6 = 0xC#6 := rd e (lo rfl (by decide))
  have h6_3 : fld w 6 3 = 0x0#3 := rd e (lo rfl (by decide))
  have h21_5 : fld w 21 5 = d := rd e (hi rfl (hi rfl (hi rfl (hi rfl (lo rfl (whole _))))))
  have h16_5 : fld w 16 5 = a := rd e (hi rfl (hi rfl (hi rfl (lo rfl (whole _)))))
  have h11_5 : fld w 11 5 = b := rd e (hi rfl (hi rfl (lo rfl (whole _))))
  have h9_2 : fld w 9 2 = ty := rd e (hi rfl (lo rfl (whole _)))
  exact ⟨.fsgnjn, (select10 h26_6).trans (by delta decodeMajor10; rw [h0_6, h6_3]; rfl), by show Instr.fsgnjn _ _ _ _ = _; rw [h21_5, h16_5, h11_5, h9_2], rfl⟩

theorem Encoding.fsgnjx (d a b : BitVec 5) (ty : BitVec 2) : Encoding.Statement (.fsgnjx d a b ty) := by
  intro w hw
  have e : w = 0x10#6 ++ d ++ a ++ b ++ ty ++ 0xD#9 := (Option.some.inj hw).symm
  have h26_6 : fld w 26 6 = 0x10#6 := rd e (hi rfl (hi rfl (hi rfl (hi rfl (hi rfl (whole _))))))
  have h0_6 : fld w 0 6 = 0xD#6 := rd e (lo rfl (by decide))
  have h6_3 : fld w 6 3 = 0x0#3 := rd e (lo rfl (by decide))
  have h21_5 : fld w 21 5 = d := rd e (hi rfl (hi rfl (hi rfl (hi rfl (lo rfl (whole _))))))
  have h16_5 : fld w 16 5 = a := rd e (hi rfl (hi rfl (hi rfl (lo rfl (whole _)))))
  have h11_5 : fld w 11 5 = b := rd e (hi rfl (hi rfl (lo rfl (whole _))))
  have h9_2 : fld w 9 2 = ty := rd e (hi rfl (lo rfl (whole _)))
  exact ⟨.fsgnjx, (select10 h26_6).trans (by delta decodeMajor10; rw [h0_6, h6_3]; rfl), by show Instr.fsgnjx _ _ _ _ = _; rw [h21_5, h16_5, h11_5, h9_2], rfl⟩

theorem Encoding.fcvtFF (d a : BitVec 5) (s ty : BitVec 2) (rm : BitVec 3) : Encoding.Statement (.fcvtFF d a s ty rm) := by
  intro w hw
  have e : w = 0x10#6 ++ d ++ a ++ 0x0#3 ++ s ++ ty ++ rm ++ 0x10#6 := (Option.some.inj hw).symm
  have h26_6 : fld w 26 6 = 0x10#6 := rd e (hi rfl (hi rfl (hi rfl (hi rfl (hi rfl (hi rfl (hi rfl (whole _))))))))
  have h0_6 : fld w 0 6 = 0x10#6 := rd e (lo rfl (whole _))
  have h13_3 : fld w 13 3 = 0x0#3 := rd e (hi rfl (hi rfl (hi rfl (hi rfl (lo rfl (whole _))))))
  have h21_5 : fld w 21 5 = d := rd e (hi rfl (hi rfl (hi rfl (hi rfl (hi rfl (hi rfl (lo rfl (whole _))))))))
  have h16_5 : fld w 16 5 = a := rd e (hi rfl (hi rfl (hi rfl (hi rfl (hi rfl (lo rfl (whole _)))))))
  have h11_2 : fld w 11 2 = s := rd e (hi rfl (hi rfl (hi rfl (lo rfl (whole _)))))
  have h9_2 : fld w 9 2 = ty := rd e (hi rfl (hi rfl (lo rfl (whole _))))
  have h6_3 : fld w 6 3 = rm := rd e (hi rfl (lo rfl (whole _)))
  exact ⟨.fcvtFF, (select10 h26_6).trans (by delta decodeMajor10; rw [h0_6, h13_3]; rfl), by show Instr.fcvtFF _ _ _ _ _ = _; rw [h21_5, h16_5, h11_2, h9_2, h6_3], by show ((fld w 11 2) != (fld w 9 2) && roundOk (fld w 6 3)) = _; rw [h11_2, h9_2, h6_3]; rfl⟩

theorem Encoding.fcvtFI (d a : BitVec 5) (s ty : BitVec 2) (rm : BitVec 3) : Encoding.Statement (.fcvtFI d a s ty rm) := by
  intro w hw
  have e : w = 0x10#6 ++ d ++ a ++ 0x0#3 ++ s ++ ty ++ rm ++ 0x11#6 := (Option.some.inj hw).symm
  have h26_6 : fld w 26 6 = 0x10#6 := rd e (hi rfl (hi rfl (hi rfl (hi rfl (hi rfl (hi rfl (hi rfl (whole _))))))))
  have h0_6 : fld w 0 6 = 0x11#6 := rd e (lo rfl (whole _))
  have h13_3 : fld w 13 3 = 0x0#3 := rd e (hi rfl (hi rfl (hi rfl (hi rfl (lo rfl (whole _))))))
  have h21_5 : fld w 21 5 = d := rd e (hi rfl (hi rfl (hi rfl (hi rfl (hi rfl (hi rfl (lo rfl (whole _))))))))
  have h16_5 : fld w 16 5 = a := rd e (hi rfl (hi rfl (hi rfl (hi rfl (hi rfl (lo rfl (whole _)))))))
  have h11_2 : fld w 11 2 = s := rd e (hi rfl (hi rfl (hi rfl (lo rfl (whole _)))))
  have h9_2 : fld w 9 2 = ty := rd e (hi rfl (hi rfl (lo rfl (whole _))))
  have h6_3 : fld w 6 3 = rm := rd e (hi rfl (lo rfl (whole _)))
  exact ⟨.fcvtFI, (select10 h26_6).trans (by delta decodeMajor10; rw [h0_6, h13_3]; rfl), by show Instr.fcvtFI _ _ _ _ _ = _; rw [h21_5, h16_5, h11_2, h9_2, h6_3], by show (roundOk (fld w 6 3)) = _; rw [h6_3]; rfl⟩

theorem Encoding.fcvtIF (d a : BitVec 5) (s ty : BitVec 2) (rm : BitVec 3) : Encoding.Statement (.fcvtIF d a s ty rm) := by
  intro w hw
  have e : w = 0x10#6 ++ d ++ a ++ 0x0#3 ++ s ++ ty ++ rm ++ 0x12#6 := (Option.some.inj hw).symm
  have h26_6 : fld w 26 6 = 0x10#6 := rd e (hi rfl (hi rfl (hi rfl (hi rfl (hi rfl (hi rfl (hi rfl (whole _))))))))
  have h0_6 : fld w 0 6 = 0x12#6 := rd e (lo rfl (whole _))
  have h13_3 : fld w 13 3 = 0x0#3 := rd e (hi rfl (hi rfl (hi rfl (hi rfl (lo rfl (whole _))))))
  have h21_5 : fld w 21 5 = d := rd e (hi rfl (hi rfl (hi rfl (hi rfl (hi rfl (hi rfl (lo rfl (whole _))))))))
  have h16_5 : fld w 16 5 = a := rd e (hi rfl (hi rfl (hi rfl (hi rfl (hi rfl (lo rfl (whole _)))))))
  have h11_2 : fld w 11 2 = s := rd e (hi rfl (hi rfl (hi rfl (lo rfl (whole _)))))
  have h9_2 : fld w 9 2 = ty := rd e (hi rfl (hi rfl (lo rfl (whole _))))
  have h6_3 : fld w 6 3 = rm := rd e (hi rfl (lo rfl (whole _)))
  exact ⟨.fcvtIF, (select10 h26_6).trans (by delta decodeMajor10; rw [h0_6, h13_3]; rfl), by show Instr.fcvtIF _ _ _ _ _ = _; rw [h21_5, h16_5, h11_2, h9_2, h6_3], by show (roundOk (fld w 6 3)) = _; rw [h6_3]; rfl⟩

theorem Encoding.fmadd (d a b c : BitVec 5) (ty : BitVec 2) (rm : BitVec 3) : Encoding.Statement (.fmadd d a b c ty rm) := by
  intro w hw
  have e : w = 0x11#6 ++ d ++ a ++ b ++ c ++ ty ++ rm ++ 0x0#1 := (Option.some.inj hw).symm
  have h26_6 : fld w 26 6 = 0x11#6 := rd e (hi rfl (hi rfl (hi rfl (hi rfl (hi rfl (hi rfl (hi rfl (whole _))))))))
  have h0_1 : fld w 0 1 = 0x0#1 := rd e (lo rfl (whole _))
  have h21_5 : fld w 21 5 = d := rd e (hi rfl (hi rfl (hi rfl (hi rfl (hi rfl (hi rfl (lo rfl (whole _))))))))
  have h16_5 : fld w 16 5 = a := rd e (hi rfl (hi rfl (hi rfl (hi rfl (hi rfl (lo rfl (whole _)))))))
  have h11_5 : fld w 11 5 = b := rd e (hi rfl (hi rfl (hi rfl (hi rfl (lo rfl (whole _))))))
  have h6_5 : fld w 6 5 = c := rd e (hi rfl (hi rfl (hi rfl (lo rfl (whole _)))))
  have h4_2 : fld w 4 2 = ty := rd e (hi rfl (hi rfl (lo rfl (whole _))))
  have h1_3 : fld w 1 3 = rm := rd e (hi rfl (lo rfl (whole _)))
  exact ⟨.fmadd, by delta selectOp; rw [h26_6, h0_1]; rfl, by show Instr.fmadd _ _ _ _ _ _ = _; rw [h21_5, h16_5, h11_5, h6_5, h4_2, h1_3], by show (roundOk (fld w 1 3)) = _; rw [h1_3]; rfl⟩

theorem Encoding.fmsub (d a b c : BitVec 5) (ty : BitVec 2) (rm : BitVec 3) : Encoding.Statement (.fmsub d a b c ty rm) := by
  intro w hw
  have e : w = 0x12#6 ++ d ++ a ++ b ++ c ++ ty ++ rm ++ 0x0#1 := (Option.some.inj hw).symm
  have h26_6 : fld w 26 6 = 0x12#6 := rd e (hi rfl (hi rfl (hi rfl (hi rfl (hi rfl (hi rfl (hi rfl (whole _))))))))
  have h0_1 : fld w 0 1 = 0x0#1 := rd e (lo rfl (whole _))
  have h21_5 : fld w 21 5 = d := rd e (hi rfl (hi rfl (hi rfl (hi rfl (hi rfl (hi rfl (lo rfl (whole _))))))))
  have h16_5 : fld w 16 5 = a := rd e (hi rfl (hi rfl (hi rfl (hi rfl (hi rfl (lo rfl (whole _)))))))
  have h11_5 : fld w 11 5 = b := rd e (hi rfl (hi rfl (hi rfl (hi rfl (lo rfl (whole _))))))
  have h6_5 : fld w 6 5 = c := rd e (hi rfl (hi rfl (hi rfl (lo rfl (whole _)))))
  have h4_2 : fld w 4 2 = ty := rd e (hi rfl (hi rfl (lo rfl (whole _))))
  have h1_3 : fld w 1 3 = rm := rd e (hi rfl (lo rfl (whole _)))
  exact ⟨.fmsub, by delta selectOp; rw [h26_6, h0_1]; rfl, by show Instr.fmsub _ _ _ _ _ _ = _; rw [h21_5, h16_5, h11_5, h6_5, h4_2, h1_3], by show (roundOk (fld w 1 3)) = _; rw [h1_3]; rfl⟩

theorem Encoding.fnmadd (d a b c : BitVec 5) (ty : BitVec 2) (rm : BitVec 3) : Encoding.Statement (.fnmadd d a b c ty rm) := by
  intro w hw
  have e : w = 0x13#6 ++ d ++ a ++ b ++ c ++ ty ++ rm ++ 0x0#1 := (Option.some.inj hw).symm
  have h26_6 : fld w 26 6 = 0x13#6 := rd e (hi rfl (hi rfl (hi rfl (hi rfl (hi rfl (hi rfl (hi rfl (whole _))))))))
  have h0_1 : fld w 0 1 = 0x0#1 := rd e (lo rfl (whole _))
  have h21_5 : fld w 21 5 = d := rd e (hi rfl (hi rfl (hi rfl (hi rfl (hi rfl (hi rfl (lo rfl (whole _))))))))
  have h16_5 : fld w 16 5 = a := rd e (hi rfl (hi rfl (hi rfl (hi rfl (hi rfl (lo rfl (whole _)))))))
  have h11_5 : fld w 11 5 = b := rd e (hi rfl (hi rfl (hi rfl (hi rfl (lo rfl (whole _))))))
  have h6_5 : fld w 6 5 = c := rd e (hi rfl (hi rfl (hi rfl (lo rfl (whole _)))))
  have h4_2 : fld w 4 2 = ty := rd e (hi rfl (hi rfl (lo rfl (whole _))))
  have h1_3 : fld w 1 3 = rm := rd e (hi rfl (lo rfl (whole _)))
  exact ⟨.fnmadd, by delta selectOp; rw [h26_6, h0_1]; rfl, by show Instr.fnmadd _ _ _ _ _ _ = _; rw [h21_5, h16_5, h11_5, h6_5, h4_2, h1_3], by show (roundOk (fld w 1 3)) = _; rw [h1_3]; rfl⟩

theorem Encoding.j (off : BitVec 26) : Encoding.Statement (.j off) := by
  intro w hw
  have e : w = 0x14#6 ++ off := (Option.some.inj hw).symm
  have h26_6 : fld w 26 6 = 0x14#6 := rd e (hi rfl (whole _))
  have h0_26 : fld w 0 26 = off := rd e (lo rfl (whole _))
  exact ⟨.j, by delta selectOp; rw [h26_6]; rfl, by show Instr.j _ = _; rw [h0_26], rfl⟩

theorem Encoding.jal (off : BitVec 26) : Encoding.Statement (.jal off) := by
  intro w hw
  have e : w = 0x15#6 ++ off := (Option.some.inj hw).symm
  have h26_6 : fld w 26 6 = 0x15#6 := rd e (hi rfl (whole _))
  have h0_26 : fld w 0 26 = off := rd e (lo rfl (whole _))
  exact ⟨.jal, by delta selectOp; rw [h26_6]; rfl, by show Instr.jal _ = _; rw [h0_26], rfl⟩

theorem Encoding.jalr (d a : BitVec 5) (imm : BitVec 16) : Encoding.Statement (.jalr d a imm) := by
  intro w hw
  have e : w = 0x16#6 ++ d ++ a ++ imm := (Option.some.inj hw).symm
  have h26_6 : fld w 26 6 = 0x16#6 := rd e (hi rfl (hi rfl (hi rfl (whole _))))
  have h21_5 : fld w 21 5 = d := rd e (hi rfl (hi rfl (lo rfl (whole _))))
  have h16_5 : fld w 16 5 = a := rd e (hi rfl (lo rfl (whole _)))
  have h0_16 : fld w 0 16 = imm := rd e (lo rfl (whole _))
  exact ⟨.jalr, by delta selectOp; rw [h26_6]; rfl, by show Instr.jalr _ _ _ = _; rw [h21_5, h16_5, h0_16], rfl⟩

theorem Encoding.beq (a b : BitVec 5) (off : BitVec 13) : Encoding.Statement (.beq a b off) := by
  intro w hw
  have e : w = 0x17#6 ++ a ++ b ++ 0x0#3 ++ off := (Option.some.inj hw).symm
  have h26_6 : fld w 26 6 = 0x17#6 := rd e (hi rfl (hi rfl (hi rfl (hi rfl (whole _)))))
  have h13_3 : fld w 13 3 = 0x0#3 := rd e (hi rfl (lo rfl (whole _)))
  have h21_5 : fld w 21 5 = a := rd e (hi rfl (hi rfl (hi rfl (lo rfl (whole _)))))
  have h16_5 : fld w 16 5 = b := rd e (hi rfl (hi rfl (lo rfl (whole _))))
  have h0_13 : fld w 0 13 = off := rd e (lo rfl (whole _))
  exact ⟨.beq, (select17 h26_6).trans (by delta decodeMajor17; rw [h13_3]; rfl), by show Instr.beq _ _ _ = _; rw [h21_5, h16_5, h0_13], rfl⟩

theorem Encoding.bne (a b : BitVec 5) (off : BitVec 13) : Encoding.Statement (.bne a b off) := by
  intro w hw
  have e : w = 0x17#6 ++ a ++ b ++ 0x1#3 ++ off := (Option.some.inj hw).symm
  have h26_6 : fld w 26 6 = 0x17#6 := rd e (hi rfl (hi rfl (hi rfl (hi rfl (whole _)))))
  have h13_3 : fld w 13 3 = 0x1#3 := rd e (hi rfl (lo rfl (whole _)))
  have h21_5 : fld w 21 5 = a := rd e (hi rfl (hi rfl (hi rfl (lo rfl (whole _)))))
  have h16_5 : fld w 16 5 = b := rd e (hi rfl (hi rfl (lo rfl (whole _))))
  have h0_13 : fld w 0 13 = off := rd e (lo rfl (whole _))
  exact ⟨.bne, (select17 h26_6).trans (by delta decodeMajor17; rw [h13_3]; rfl), by show Instr.bne _ _ _ = _; rw [h21_5, h16_5, h0_13], rfl⟩

theorem Encoding.blt (a b : BitVec 5) (off : BitVec 13) : Encoding.Statement (.blt a b off) := by
  intro w hw
  have e : w = 0x17#6 ++ a ++ b ++ 0x2#3 ++ off := (Option.some.inj hw).symm
  have h26_6 : fld w 26 6 = 0x17#6 := rd e (hi rfl (hi rfl (hi rfl (hi rfl (whole _)))))
  have h13_3 : fld w 13 3 = 0x2#3 := rd e (hi rfl (lo rfl (whole _)))
  have h21_5 : fld w 21 5 = a := rd e (hi rfl (hi rfl (hi rfl (lo rfl (whole _)))))
  have h16_5 : fld w 16 5 = b := rd e (hi rfl (hi rfl (lo rfl (whole _))))
  have h0_13 : fld w 0 13 = off := rd e (lo rfl (whole _))
  exact ⟨.blt, (select17 h26_6).trans (by delta decodeMajor17; rw [h13_3]; rfl), by show Instr.blt _ _ _ = _; rw [h21_5, h16_5, h0_13], rfl⟩

theorem Encoding.bge (a b : BitVec 5) (off : BitVec 13) : Encoding.Statement (.bge a b off) := by
  intro w hw
  have e : w = 0x17#6 ++ a ++ b ++ 0x3#3 ++ off := (Option.some.inj hw).symm
  have h26_6 : fld w 26 6 = 0x17#6 := rd e (hi rfl (hi rfl (hi rfl (hi rfl (whole _)))))
  have h13_3 : fld w 13 3 = 0x3#3 := rd e (hi rfl (lo rfl (whole _)))
  have h21_5 : fld w 21 5 = a := rd e (hi rfl (hi rfl (hi rfl (lo rfl (whole _)))))
  have h16_5 : fld w 16 5 = b := rd e (hi rfl (hi rfl (lo rfl (whole _))))
  have h0_13 : fld w 0 13 = off := rd e (lo rfl (whole _))
  exact ⟨.bge, (select17 h26_6).trans (by delta decodeMajor17; rw [h13_3]; rfl), by show Instr.bge _ _ _ = _; rw [h21_5, h16_5, h0_13], rfl⟩

theorem Encoding.bltu (a b : BitVec 5) (off : BitVec 13) : Encoding.Statement (.bltu a b off) := by
  intro w hw
  have e : w = 0x17#6 ++ a ++ b ++ 0x4#3 ++ off := (Option.some.inj hw).symm
  have h26_6 : fld w 26 6 = 0x17#6 := rd e (hi rfl (hi rfl (hi rfl (hi rfl (whole _)))))
  have h13_3 : fld w 13 3 = 0x4#3 := rd e (hi rfl (lo rfl (whole _)))
  have h21_5 : fld w 21 5 = a := rd e (hi rfl (hi rfl (hi rfl (lo rfl (whole _)))))
  have h16_5 : fld w 16 5 = b := rd e (hi rfl (hi rfl (lo rfl (whole _))))
  have h0_13 : fld w 0 13 = off := rd e (lo rfl (whole _))
  exact ⟨.bltu, (select17 h26_6).trans (by delta decodeMajor17; rw [h13_3]; rfl), by show Instr.bltu _ _ _ = _; rw [h21_5, h16_5, h0_13], rfl⟩

theorem Encoding.bgeu (a b : BitVec 5) (off : BitVec 13) : Encoding.Statement (.bgeu a b off) := by
  intro w hw
  have e : w = 0x17#6 ++ a ++ b ++ 0x5#3 ++ off := (Option.some.inj hw).symm
  have h26_6 : fld w 26 6 = 0x17#6 := rd e (hi rfl (hi rfl (hi rfl (hi rfl (whole _)))))
  have h13_3 : fld w 13 3 = 0x5#3 := rd e (hi rfl (lo rfl (whole _)))
  have h21_5 : fld w 21 5 = a := rd e (hi rfl (hi rfl (hi rfl (lo rfl (whole _)))))
  have h16_5 : fld w 16 5 = b := rd e (hi rfl (hi rfl (lo rfl (whole _))))
  have h0_13 : fld w 0 13 = off := rd e (lo rfl (whole _))
  exact ⟨.bgeu, (select17 h26_6).trans (by delta decodeMajor17; rw [h13_3]; rfl), by show Instr.bgeu _ _ _ = _; rw [h21_5, h16_5, h0_13], rfl⟩

theorem Encoding.ldb (d a : BitVec 5) (off : BitVec 13) : Encoding.Statement (.ldb d a off) := by
  intro w hw
  have e : w = 0x18#6 ++ d ++ a ++ 0x0#3 ++ off := (Option.some.inj hw).symm
  have h26_6 : fld w 26 6 = 0x18#6 := rd e (hi rfl (hi rfl (hi rfl (hi rfl (whole _)))))
  have h13_3 : fld w 13 3 = 0x0#3 := rd e (hi rfl (lo rfl (whole _)))
  have h21_5 : fld w 21 5 = d := rd e (hi rfl (hi rfl (hi rfl (lo rfl (whole _)))))
  have h16_5 : fld w 16 5 = a := rd e (hi rfl (hi rfl (lo rfl (whole _))))
  have h0_13 : fld w 0 13 = off := rd e (lo rfl (whole _))
  exact ⟨.ldb, (select18 h26_6).trans (by delta decodeMajor18; rw [h13_3]; rfl), by show Instr.ldb _ _ _ = _; rw [h21_5, h16_5, h0_13], rfl⟩

theorem Encoding.ldbu (d a : BitVec 5) (off : BitVec 13) : Encoding.Statement (.ldbu d a off) := by
  intro w hw
  have e : w = 0x18#6 ++ d ++ a ++ 0x1#3 ++ off := (Option.some.inj hw).symm
  have h26_6 : fld w 26 6 = 0x18#6 := rd e (hi rfl (hi rfl (hi rfl (hi rfl (whole _)))))
  have h13_3 : fld w 13 3 = 0x1#3 := rd e (hi rfl (lo rfl (whole _)))
  have h21_5 : fld w 21 5 = d := rd e (hi rfl (hi rfl (hi rfl (lo rfl (whole _)))))
  have h16_5 : fld w 16 5 = a := rd e (hi rfl (hi rfl (lo rfl (whole _))))
  have h0_13 : fld w 0 13 = off := rd e (lo rfl (whole _))
  exact ⟨.ldbu, (select18 h26_6).trans (by delta decodeMajor18; rw [h13_3]; rfl), by show Instr.ldbu _ _ _ = _; rw [h21_5, h16_5, h0_13], rfl⟩

theorem Encoding.ldh (d a : BitVec 5) (off : BitVec 13) : Encoding.Statement (.ldh d a off) := by
  intro w hw
  have e : w = 0x18#6 ++ d ++ a ++ 0x2#3 ++ off := (Option.some.inj hw).symm
  have h26_6 : fld w 26 6 = 0x18#6 := rd e (hi rfl (hi rfl (hi rfl (hi rfl (whole _)))))
  have h13_3 : fld w 13 3 = 0x2#3 := rd e (hi rfl (lo rfl (whole _)))
  have h21_5 : fld w 21 5 = d := rd e (hi rfl (hi rfl (hi rfl (lo rfl (whole _)))))
  have h16_5 : fld w 16 5 = a := rd e (hi rfl (hi rfl (lo rfl (whole _))))
  have h0_13 : fld w 0 13 = off := rd e (lo rfl (whole _))
  exact ⟨.ldh, (select18 h26_6).trans (by delta decodeMajor18; rw [h13_3]; rfl), by show Instr.ldh _ _ _ = _; rw [h21_5, h16_5, h0_13], rfl⟩

theorem Encoding.ldhu (d a : BitVec 5) (off : BitVec 13) : Encoding.Statement (.ldhu d a off) := by
  intro w hw
  have e : w = 0x18#6 ++ d ++ a ++ 0x3#3 ++ off := (Option.some.inj hw).symm
  have h26_6 : fld w 26 6 = 0x18#6 := rd e (hi rfl (hi rfl (hi rfl (hi rfl (whole _)))))
  have h13_3 : fld w 13 3 = 0x3#3 := rd e (hi rfl (lo rfl (whole _)))
  have h21_5 : fld w 21 5 = d := rd e (hi rfl (hi rfl (hi rfl (lo rfl (whole _)))))
  have h16_5 : fld w 16 5 = a := rd e (hi rfl (hi rfl (lo rfl (whole _))))
  have h0_13 : fld w 0 13 = off := rd e (lo rfl (whole _))
  exact ⟨.ldhu, (select18 h26_6).trans (by delta decodeMajor18; rw [h13_3]; rfl), by show Instr.ldhu _ _ _ = _; rw [h21_5, h16_5, h0_13], rfl⟩

theorem Encoding.ldw (d a : BitVec 5) (off : BitVec 13) : Encoding.Statement (.ldw d a off) := by
  intro w hw
  have e : w = 0x18#6 ++ d ++ a ++ 0x4#3 ++ off := (Option.some.inj hw).symm
  have h26_6 : fld w 26 6 = 0x18#6 := rd e (hi rfl (hi rfl (hi rfl (hi rfl (whole _)))))
  have h13_3 : fld w 13 3 = 0x4#3 := rd e (hi rfl (lo rfl (whole _)))
  have h21_5 : fld w 21 5 = d := rd e (hi rfl (hi rfl (hi rfl (lo rfl (whole _)))))
  have h16_5 : fld w 16 5 = a := rd e (hi rfl (hi rfl (lo rfl (whole _))))
  have h0_13 : fld w 0 13 = off := rd e (lo rfl (whole _))
  exact ⟨.ldw, (select18 h26_6).trans (by delta decodeMajor18; rw [h13_3]; rfl), by show Instr.ldw _ _ _ = _; rw [h21_5, h16_5, h0_13], rfl⟩

theorem Encoding.ldwu (d a : BitVec 5) (off : BitVec 13) : Encoding.Statement (.ldwu d a off) := by
  intro w hw
  have e : w = 0x18#6 ++ d ++ a ++ 0x5#3 ++ off := (Option.some.inj hw).symm
  have h26_6 : fld w 26 6 = 0x18#6 := rd e (hi rfl (hi rfl (hi rfl (hi rfl (whole _)))))
  have h13_3 : fld w 13 3 = 0x5#3 := rd e (hi rfl (lo rfl (whole _)))
  have h21_5 : fld w 21 5 = d := rd e (hi rfl (hi rfl (hi rfl (lo rfl (whole _)))))
  have h16_5 : fld w 16 5 = a := rd e (hi rfl (hi rfl (lo rfl (whole _))))
  have h0_13 : fld w 0 13 = off := rd e (lo rfl (whole _))
  exact ⟨.ldwu, (select18 h26_6).trans (by delta decodeMajor18; rw [h13_3]; rfl), by show Instr.ldwu _ _ _ = _; rw [h21_5, h16_5, h0_13], rfl⟩

theorem Encoding.ldd (d a : BitVec 5) (off : BitVec 13) : Encoding.Statement (.ldd d a off) := by
  intro w hw
  have e : w = 0x18#6 ++ d ++ a ++ 0x6#3 ++ off := (Option.some.inj hw).symm
  have h26_6 : fld w 26 6 = 0x18#6 := rd e (hi rfl (hi rfl (hi rfl (hi rfl (whole _)))))
  have h13_3 : fld w 13 3 = 0x6#3 := rd e (hi rfl (lo rfl (whole _)))
  have h21_5 : fld w 21 5 = d := rd e (hi rfl (hi rfl (hi rfl (lo rfl (whole _)))))
  have h16_5 : fld w 16 5 = a := rd e (hi rfl (hi rfl (lo rfl (whole _))))
  have h0_13 : fld w 0 13 = off := rd e (lo rfl (whole _))
  exact ⟨.ldd, (select18 h26_6).trans (by delta decodeMajor18; rw [h13_3]; rfl), by show Instr.ldd _ _ _ = _; rw [h21_5, h16_5, h0_13], rfl⟩

theorem Encoding.stb (d a : BitVec 5) (off : BitVec 13) : Encoding.Statement (.stb d a off) := by
  intro w hw
  have e : w = 0x19#6 ++ d ++ a ++ 0x0#3 ++ off := (Option.some.inj hw).symm
  have h26_6 : fld w 26 6 = 0x19#6 := rd e (hi rfl (hi rfl (hi rfl (hi rfl (whole _)))))
  have h13_3 : fld w 13 3 = 0x0#3 := rd e (hi rfl (lo rfl (whole _)))
  have h21_5 : fld w 21 5 = d := rd e (hi rfl (hi rfl (hi rfl (lo rfl (whole _)))))
  have h16_5 : fld w 16 5 = a := rd e (hi rfl (hi rfl (lo rfl (whole _))))
  have h0_13 : fld w 0 13 = off := rd e (lo rfl (whole _))
  exact ⟨.stb, (select19 h26_6).trans (by delta decodeMajor19; rw [h13_3]; rfl), by show Instr.stb _ _ _ = _; rw [h21_5, h16_5, h0_13], rfl⟩

theorem Encoding.sth (d a : BitVec 5) (off : BitVec 13) : Encoding.Statement (.sth d a off) := by
  intro w hw
  have e : w = 0x19#6 ++ d ++ a ++ 0x1#3 ++ off := (Option.some.inj hw).symm
  have h26_6 : fld w 26 6 = 0x19#6 := rd e (hi rfl (hi rfl (hi rfl (hi rfl (whole _)))))
  have h13_3 : fld w 13 3 = 0x1#3 := rd e (hi rfl (lo rfl (whole _)))
  have h21_5 : fld w 21 5 = d := rd e (hi rfl (hi rfl (hi rfl (lo rfl (whole _)))))
  have h16_5 : fld w 16 5 = a := rd e (hi rfl (hi rfl (lo rfl (whole _))))
  have h0_13 : fld w 0 13 = off := rd e (lo rfl (whole _))
  exact ⟨.sth, (select19 h26_6).trans (by delta decodeMajor19; rw [h13_3]; rfl), by show Instr.sth _ _ _ = _; rw [h21_5, h16_5, h0_13], rfl⟩

theorem Encoding.stw (d a : BitVec 5) (off : BitVec 13) : Encoding.Statement (.stw d a off) := by
  intro w hw
  have e : w = 0x19#6 ++ d ++ a ++ 0x2#3 ++ off := (Option.some.inj hw).symm
  have h26_6 : fld w 26 6 = 0x19#6 := rd e (hi rfl (hi rfl (hi rfl (hi rfl (whole _)))))
  have h13_3 : fld w 13 3 = 0x2#3 := rd e (hi rfl (lo rfl (whole _)))
  have h21_5 : fld w 21 5 = d := rd e (hi rfl (hi rfl (hi rfl (lo rfl (whole _)))))
  have h16_5 : fld w 16 5 = a := rd e (hi rfl (hi rfl (lo rfl (whole _))))
  have h0_13 : fld w 0 13 = off := rd e (lo rfl (whole _))
  exact ⟨.stw, (select19 h26_6).trans (by delta decodeMajor19; rw [h13_3]; rfl), by show Instr.stw _ _ _ = _; rw [h21_5, h16_5, h0_13], rfl⟩

theorem Encoding.std (d a : BitVec 5) (off : BitVec 13) : Encoding.Statement (.std d a off) := by
  intro w hw
  have e : w = 0x19#6 ++ d ++ a ++ 0x3#3 ++ off := (Option.some.inj hw).symm
  have h26_6 : fld w 26 6 = 0x19#6 := rd e (hi rfl (hi rfl (hi rfl (hi rfl (whole _)))))
  have h13_3 : fld w 13 3 = 0x3#3 := rd e (hi rfl (lo rfl (whole _)))
  have h21_5 : fld w 21 5 = d := rd e (hi rfl (hi rfl (hi rfl (lo rfl (whole _)))))
  have h16_5 : fld w 16 5 = a := rd e (hi rfl (hi rfl (lo rfl (whole _))))
  have h0_13 : fld w 0 13 = off := rd e (lo rfl (whole _))
  exact ⟨.std, (select19 h26_6).trans (by delta decodeMajor19; rw [h13_3]; rfl), by show Instr.std _ _ _ = _; rw [h21_5, h16_5, h0_13], rfl⟩

theorem Encoding.ldbuAQ (d a : BitVec 5) (scope : BitVec 3) : Encoding.Statement (.ldbuAQ d a scope) := by
  intro w hw
  have e : w = 0x1A#6 ++ d ++ a ++ 0x0#8 ++ scope ++ 0x0#5 := (Option.some.inj hw).symm
  have h26_6 : fld w 26 6 = 0x1A#6 := rd e (hi rfl (hi rfl (hi rfl (hi rfl (hi rfl (whole _))))))
  have h8_3 : fld w 8 3 = 0x0#3 := rd e (hi rfl (hi rfl (lo rfl (by decide))))
  have h11_5 : fld w 11 5 = 0x0#5 := rd e (hi rfl (hi rfl (lo rfl (by decide))))
  have h0_5 : fld w 0 5 = 0x0#5 := rd e (lo rfl (whole _))
  have h21_5 : fld w 21 5 = d := rd e (hi rfl (hi rfl (hi rfl (hi rfl (lo rfl (whole _))))))
  have h16_5 : fld w 16 5 = a := rd e (hi rfl (hi rfl (hi rfl (lo rfl (whole _)))))
  have h5_3 : fld w 5 3 = scope := rd e (hi rfl (lo rfl (whole _)))
  exact ⟨.ldbuAQ, (select1A h26_6).trans (by delta decodeMajor1A; rw [h8_3, h11_5, h0_5]; rfl), by show Instr.ldbuAQ _ _ _ = _; rw [h21_5, h16_5, h5_3], by show (scopeOk (fld w 5 3)) = _; rw [h5_3]; rfl⟩

theorem Encoding.ldhuAQ (d a : BitVec 5) (scope : BitVec 3) : Encoding.Statement (.ldhuAQ d a scope) := by
  intro w hw
  have e : w = 0x1A#6 ++ d ++ a ++ 0x1#8 ++ scope ++ 0x0#5 := (Option.some.inj hw).symm
  have h26_6 : fld w 26 6 = 0x1A#6 := rd e (hi rfl (hi rfl (hi rfl (hi rfl (hi rfl (whole _))))))
  have h8_3 : fld w 8 3 = 0x1#3 := rd e (hi rfl (hi rfl (lo rfl (by decide))))
  have h11_5 : fld w 11 5 = 0x0#5 := rd e (hi rfl (hi rfl (lo rfl (by decide))))
  have h0_5 : fld w 0 5 = 0x0#5 := rd e (lo rfl (whole _))
  have h21_5 : fld w 21 5 = d := rd e (hi rfl (hi rfl (hi rfl (hi rfl (lo rfl (whole _))))))
  have h16_5 : fld w 16 5 = a := rd e (hi rfl (hi rfl (hi rfl (lo rfl (whole _)))))
  have h5_3 : fld w 5 3 = scope := rd e (hi rfl (lo rfl (whole _)))
  exact ⟨.ldhuAQ, (select1A h26_6).trans (by delta decodeMajor1A; rw [h8_3, h11_5, h0_5]; rfl), by show Instr.ldhuAQ _ _ _ = _; rw [h21_5, h16_5, h5_3], by show (scopeOk (fld w 5 3)) = _; rw [h5_3]; rfl⟩

theorem Encoding.ldwuAQ (d a : BitVec 5) (scope : BitVec 3) : Encoding.Statement (.ldwuAQ d a scope) := by
  intro w hw
  have e : w = 0x1A#6 ++ d ++ a ++ 0x2#8 ++ scope ++ 0x0#5 := (Option.some.inj hw).symm
  have h26_6 : fld w 26 6 = 0x1A#6 := rd e (hi rfl (hi rfl (hi rfl (hi rfl (hi rfl (whole _))))))
  have h8_3 : fld w 8 3 = 0x2#3 := rd e (hi rfl (hi rfl (lo rfl (by decide))))
  have h11_5 : fld w 11 5 = 0x0#5 := rd e (hi rfl (hi rfl (lo rfl (by decide))))
  have h0_5 : fld w 0 5 = 0x0#5 := rd e (lo rfl (whole _))
  have h21_5 : fld w 21 5 = d := rd e (hi rfl (hi rfl (hi rfl (hi rfl (lo rfl (whole _))))))
  have h16_5 : fld w 16 5 = a := rd e (hi rfl (hi rfl (hi rfl (lo rfl (whole _)))))
  have h5_3 : fld w 5 3 = scope := rd e (hi rfl (lo rfl (whole _)))
  exact ⟨.ldwuAQ, (select1A h26_6).trans (by delta decodeMajor1A; rw [h8_3, h11_5, h0_5]; rfl), by show Instr.ldwuAQ _ _ _ = _; rw [h21_5, h16_5, h5_3], by show (scopeOk (fld w 5 3)) = _; rw [h5_3]; rfl⟩

theorem Encoding.lddAQ (d a : BitVec 5) (scope : BitVec 3) : Encoding.Statement (.lddAQ d a scope) := by
  intro w hw
  have e : w = 0x1A#6 ++ d ++ a ++ 0x3#8 ++ scope ++ 0x0#5 := (Option.some.inj hw).symm
  have h26_6 : fld w 26 6 = 0x1A#6 := rd e (hi rfl (hi rfl (hi rfl (hi rfl (hi rfl (whole _))))))
  have h8_3 : fld w 8 3 = 0x3#3 := rd e (hi rfl (hi rfl (lo rfl (by decide))))
  have h11_5 : fld w 11 5 = 0x0#5 := rd e (hi rfl (hi rfl (lo rfl (by decide))))
  have h0_5 : fld w 0 5 = 0x0#5 := rd e (lo rfl (whole _))
  have h21_5 : fld w 21 5 = d := rd e (hi rfl (hi rfl (hi rfl (hi rfl (lo rfl (whole _))))))
  have h16_5 : fld w 16 5 = a := rd e (hi rfl (hi rfl (hi rfl (lo rfl (whole _)))))
  have h5_3 : fld w 5 3 = scope := rd e (hi rfl (lo rfl (whole _)))
  exact ⟨.lddAQ, (select1A h26_6).trans (by delta decodeMajor1A; rw [h8_3, h11_5, h0_5]; rfl), by show Instr.lddAQ _ _ _ = _; rw [h21_5, h16_5, h5_3], by show (scopeOk (fld w 5 3)) = _; rw [h5_3]; rfl⟩

theorem Encoding.stbRL (a b : BitVec 5) (scope : BitVec 3) : Encoding.Statement (.stbRL a b scope) := by
  intro w hw
  have e : w = 0x1A#6 ++ 0x0#5 ++ a ++ b ++ 0x4#3 ++ scope ++ 0x0#5 := (Option.some.inj hw).symm
  have h26_6 : fld w 26 6 = 0x1A#6 := rd e (hi rfl (hi rfl (hi rfl (hi rfl (hi rfl (hi rfl (whole _)))))))
  have h8_3 : fld w 8 3 = 0x4#3 := rd e (hi rfl (hi rfl (lo rfl (whole _))))
  have h21_5 : fld w 21 5 = 0x0#5 := rd e (hi rfl (hi rfl (hi rfl (hi rfl (hi rfl (lo rfl (whole _)))))))
  have h0_5 : fld w 0 5 = 0x0#5 := rd e (lo rfl (whole _))
  have h16_5 : fld w 16 5 = a := rd e (hi rfl (hi rfl (hi rfl (hi rfl (lo rfl (whole _))))))
  have h11_5 : fld w 11 5 = b := rd e (hi rfl (hi rfl (hi rfl (lo rfl (whole _)))))
  have h5_3 : fld w 5 3 = scope := rd e (hi rfl (lo rfl (whole _)))
  exact ⟨.stbRL, (select1A h26_6).trans (by delta decodeMajor1A; rw [h8_3, h21_5, h0_5]; rfl), by show Instr.stbRL _ _ _ = _; rw [h16_5, h11_5, h5_3], by show (scopeOk (fld w 5 3)) = _; rw [h5_3]; rfl⟩

theorem Encoding.sthRL (a b : BitVec 5) (scope : BitVec 3) : Encoding.Statement (.sthRL a b scope) := by
  intro w hw
  have e : w = 0x1A#6 ++ 0x0#5 ++ a ++ b ++ 0x5#3 ++ scope ++ 0x0#5 := (Option.some.inj hw).symm
  have h26_6 : fld w 26 6 = 0x1A#6 := rd e (hi rfl (hi rfl (hi rfl (hi rfl (hi rfl (hi rfl (whole _)))))))
  have h8_3 : fld w 8 3 = 0x5#3 := rd e (hi rfl (hi rfl (lo rfl (whole _))))
  have h21_5 : fld w 21 5 = 0x0#5 := rd e (hi rfl (hi rfl (hi rfl (hi rfl (hi rfl (lo rfl (whole _)))))))
  have h0_5 : fld w 0 5 = 0x0#5 := rd e (lo rfl (whole _))
  have h16_5 : fld w 16 5 = a := rd e (hi rfl (hi rfl (hi rfl (hi rfl (lo rfl (whole _))))))
  have h11_5 : fld w 11 5 = b := rd e (hi rfl (hi rfl (hi rfl (lo rfl (whole _)))))
  have h5_3 : fld w 5 3 = scope := rd e (hi rfl (lo rfl (whole _)))
  exact ⟨.sthRL, (select1A h26_6).trans (by delta decodeMajor1A; rw [h8_3, h21_5, h0_5]; rfl), by show Instr.sthRL _ _ _ = _; rw [h16_5, h11_5, h5_3], by show (scopeOk (fld w 5 3)) = _; rw [h5_3]; rfl⟩

theorem Encoding.stwRL (a b : BitVec 5) (scope : BitVec 3) : Encoding.Statement (.stwRL a b scope) := by
  intro w hw
  have e : w = 0x1A#6 ++ 0x0#5 ++ a ++ b ++ 0x6#3 ++ scope ++ 0x0#5 := (Option.some.inj hw).symm
  have h26_6 : fld w 26 6 = 0x1A#6 := rd e (hi rfl (hi rfl (hi rfl (hi rfl (hi rfl (hi rfl (whole _)))))))
  have h8_3 : fld w 8 3 = 0x6#3 := rd e (hi rfl (hi rfl (lo rfl (whole _))))
  have h21_5 : fld w 21 5 = 0x0#5 := rd e (hi rfl (hi rfl (hi rfl (hi rfl (hi rfl (lo rfl (whole _)))))))
  have h0_5 : fld w 0 5 = 0x0#5 := rd e (lo rfl (whole _))
  have h16_5 : fld w 16 5 = a := rd e (hi rfl (hi rfl (hi rfl (hi rfl (lo rfl (whole _))))))
  have h11_5 : fld w 11 5 = b := rd e (hi rfl (hi rfl (hi rfl (lo rfl (whole _)))))
  have h5_3 : fld w 5 3 = scope := rd e (hi rfl (lo rfl (whole _)))
  exact ⟨.stwRL, (select1A h26_6).trans (by delta decodeMajor1A; rw [h8_3, h21_5, h0_5]; rfl), by show Instr.stwRL _ _ _ = _; rw [h16_5, h11_5, h5_3], by show (scopeOk (fld w 5 3)) = _; rw [h5_3]; rfl⟩

theorem Encoding.stdRL (a b : BitVec 5) (scope : BitVec 3) : Encoding.Statement (.stdRL a b scope) := by
  intro w hw
  have e : w = 0x1A#6 ++ 0x0#5 ++ a ++ b ++ 0x7#3 ++ scope ++ 0x0#5 := (Option.some.inj hw).symm
  have h26_6 : fld w 26 6 = 0x1A#6 := rd e (hi rfl (hi rfl (hi rfl (hi rfl (hi rfl (hi rfl (whole _)))))))
  have h8_3 : fld w 8 3 = 0x7#3 := rd e (hi rfl (hi rfl (lo rfl (whole _))))
  have h21_5 : fld w 21 5 = 0x0#5 := rd e (hi rfl (hi rfl (hi rfl (hi rfl (hi rfl (lo rfl (whole _)))))))
  have h0_5 : fld w 0 5 = 0x0#5 := rd e (lo rfl (whole _))
  have h16_5 : fld w 16 5 = a := rd e (hi rfl (hi rfl (hi rfl (hi rfl (lo rfl (whole _))))))
  have h11_5 : fld w 11 5 = b := rd e (hi rfl (hi rfl (hi rfl (lo rfl (whole _)))))
  have h5_3 : fld w 5 3 = scope := rd e (hi rfl (lo rfl (whole _)))
  exact ⟨.stdRL, (select1A h26_6).trans (by delta decodeMajor1A; rw [h8_3, h21_5, h0_5]; rfl), by show Instr.stdRL _ _ _ = _; rw [h16_5, h11_5, h5_3], by show (scopeOk (fld w 5 3)) = _; rw [h5_3]; rfl⟩

theorem Encoding.amoadd (d a b : BitVec 5) (wd : BitVec 1) (scope : BitVec 3) (ord : BitVec 2) : Encoding.Statement (.amoadd d a b wd scope ord) := by
  intro w hw
  have e : w = 0x1B#6 ++ d ++ a ++ b ++ 0x0#5 ++ wd ++ scope ++ ord := (Option.some.inj hw).symm
  have h26_6 : fld w 26 6 = 0x1B#6 := rd e (hi rfl (hi rfl (hi rfl (hi rfl (hi rfl (hi rfl (hi rfl (whole _))))))))
  have h6_5 : fld w 6 5 = 0x0#5 := rd e (hi rfl (hi rfl (hi rfl (lo rfl (whole _)))))
  have h21_5 : fld w 21 5 = d := rd e (hi rfl (hi rfl (hi rfl (hi rfl (hi rfl (hi rfl (lo rfl (whole _))))))))
  have h16_5 : fld w 16 5 = a := rd e (hi rfl (hi rfl (hi rfl (hi rfl (hi rfl (lo rfl (whole _)))))))
  have h11_5 : fld w 11 5 = b := rd e (hi rfl (hi rfl (hi rfl (hi rfl (lo rfl (whole _))))))
  have h5_1 : fld w 5 1 = wd := rd e (hi rfl (hi rfl (lo rfl (whole _))))
  have h2_3 : fld w 2 3 = scope := rd e (hi rfl (lo rfl (whole _)))
  have h0_2 : fld w 0 2 = ord := rd e (lo rfl (whole _))
  exact ⟨.amoadd, (select1B h26_6).trans (by delta decodeMajor1B; rw [h6_5]; rfl), by show Instr.amoadd _ _ _ _ _ _ = _; rw [h21_5, h16_5, h11_5, h5_1, h2_3, h0_2], by show (scopeOk (fld w 2 3)) = _; rw [h2_3]; rfl⟩

theorem Encoding.amoand (d a b : BitVec 5) (wd : BitVec 1) (scope : BitVec 3) (ord : BitVec 2) : Encoding.Statement (.amoand d a b wd scope ord) := by
  intro w hw
  have e : w = 0x1B#6 ++ d ++ a ++ b ++ 0x1#5 ++ wd ++ scope ++ ord := (Option.some.inj hw).symm
  have h26_6 : fld w 26 6 = 0x1B#6 := rd e (hi rfl (hi rfl (hi rfl (hi rfl (hi rfl (hi rfl (hi rfl (whole _))))))))
  have h6_5 : fld w 6 5 = 0x1#5 := rd e (hi rfl (hi rfl (hi rfl (lo rfl (whole _)))))
  have h21_5 : fld w 21 5 = d := rd e (hi rfl (hi rfl (hi rfl (hi rfl (hi rfl (hi rfl (lo rfl (whole _))))))))
  have h16_5 : fld w 16 5 = a := rd e (hi rfl (hi rfl (hi rfl (hi rfl (hi rfl (lo rfl (whole _)))))))
  have h11_5 : fld w 11 5 = b := rd e (hi rfl (hi rfl (hi rfl (hi rfl (lo rfl (whole _))))))
  have h5_1 : fld w 5 1 = wd := rd e (hi rfl (hi rfl (lo rfl (whole _))))
  have h2_3 : fld w 2 3 = scope := rd e (hi rfl (lo rfl (whole _)))
  have h0_2 : fld w 0 2 = ord := rd e (lo rfl (whole _))
  exact ⟨.amoand, (select1B h26_6).trans (by delta decodeMajor1B; rw [h6_5]; rfl), by show Instr.amoand _ _ _ _ _ _ = _; rw [h21_5, h16_5, h11_5, h5_1, h2_3, h0_2], by show (scopeOk (fld w 2 3)) = _; rw [h2_3]; rfl⟩

theorem Encoding.amoor (d a b : BitVec 5) (wd : BitVec 1) (scope : BitVec 3) (ord : BitVec 2) : Encoding.Statement (.amoor d a b wd scope ord) := by
  intro w hw
  have e : w = 0x1B#6 ++ d ++ a ++ b ++ 0x2#5 ++ wd ++ scope ++ ord := (Option.some.inj hw).symm
  have h26_6 : fld w 26 6 = 0x1B#6 := rd e (hi rfl (hi rfl (hi rfl (hi rfl (hi rfl (hi rfl (hi rfl (whole _))))))))
  have h6_5 : fld w 6 5 = 0x2#5 := rd e (hi rfl (hi rfl (hi rfl (lo rfl (whole _)))))
  have h21_5 : fld w 21 5 = d := rd e (hi rfl (hi rfl (hi rfl (hi rfl (hi rfl (hi rfl (lo rfl (whole _))))))))
  have h16_5 : fld w 16 5 = a := rd e (hi rfl (hi rfl (hi rfl (hi rfl (hi rfl (lo rfl (whole _)))))))
  have h11_5 : fld w 11 5 = b := rd e (hi rfl (hi rfl (hi rfl (hi rfl (lo rfl (whole _))))))
  have h5_1 : fld w 5 1 = wd := rd e (hi rfl (hi rfl (lo rfl (whole _))))
  have h2_3 : fld w 2 3 = scope := rd e (hi rfl (lo rfl (whole _)))
  have h0_2 : fld w 0 2 = ord := rd e (lo rfl (whole _))
  exact ⟨.amoor, (select1B h26_6).trans (by delta decodeMajor1B; rw [h6_5]; rfl), by show Instr.amoor _ _ _ _ _ _ = _; rw [h21_5, h16_5, h11_5, h5_1, h2_3, h0_2], by show (scopeOk (fld w 2 3)) = _; rw [h2_3]; rfl⟩

theorem Encoding.amoxor (d a b : BitVec 5) (wd : BitVec 1) (scope : BitVec 3) (ord : BitVec 2) : Encoding.Statement (.amoxor d a b wd scope ord) := by
  intro w hw
  have e : w = 0x1B#6 ++ d ++ a ++ b ++ 0x3#5 ++ wd ++ scope ++ ord := (Option.some.inj hw).symm
  have h26_6 : fld w 26 6 = 0x1B#6 := rd e (hi rfl (hi rfl (hi rfl (hi rfl (hi rfl (hi rfl (hi rfl (whole _))))))))
  have h6_5 : fld w 6 5 = 0x3#5 := rd e (hi rfl (hi rfl (hi rfl (lo rfl (whole _)))))
  have h21_5 : fld w 21 5 = d := rd e (hi rfl (hi rfl (hi rfl (hi rfl (hi rfl (hi rfl (lo rfl (whole _))))))))
  have h16_5 : fld w 16 5 = a := rd e (hi rfl (hi rfl (hi rfl (hi rfl (hi rfl (lo rfl (whole _)))))))
  have h11_5 : fld w 11 5 = b := rd e (hi rfl (hi rfl (hi rfl (hi rfl (lo rfl (whole _))))))
  have h5_1 : fld w 5 1 = wd := rd e (hi rfl (hi rfl (lo rfl (whole _))))
  have h2_3 : fld w 2 3 = scope := rd e (hi rfl (lo rfl (whole _)))
  have h0_2 : fld w 0 2 = ord := rd e (lo rfl (whole _))
  exact ⟨.amoxor, (select1B h26_6).trans (by delta decodeMajor1B; rw [h6_5]; rfl), by show Instr.amoxor _ _ _ _ _ _ = _; rw [h21_5, h16_5, h11_5, h5_1, h2_3, h0_2], by show (scopeOk (fld w 2 3)) = _; rw [h2_3]; rfl⟩

theorem Encoding.amomin (d a b : BitVec 5) (wd : BitVec 1) (scope : BitVec 3) (ord : BitVec 2) : Encoding.Statement (.amomin d a b wd scope ord) := by
  intro w hw
  have e : w = 0x1B#6 ++ d ++ a ++ b ++ 0x4#5 ++ wd ++ scope ++ ord := (Option.some.inj hw).symm
  have h26_6 : fld w 26 6 = 0x1B#6 := rd e (hi rfl (hi rfl (hi rfl (hi rfl (hi rfl (hi rfl (hi rfl (whole _))))))))
  have h6_5 : fld w 6 5 = 0x4#5 := rd e (hi rfl (hi rfl (hi rfl (lo rfl (whole _)))))
  have h21_5 : fld w 21 5 = d := rd e (hi rfl (hi rfl (hi rfl (hi rfl (hi rfl (hi rfl (lo rfl (whole _))))))))
  have h16_5 : fld w 16 5 = a := rd e (hi rfl (hi rfl (hi rfl (hi rfl (hi rfl (lo rfl (whole _)))))))
  have h11_5 : fld w 11 5 = b := rd e (hi rfl (hi rfl (hi rfl (hi rfl (lo rfl (whole _))))))
  have h5_1 : fld w 5 1 = wd := rd e (hi rfl (hi rfl (lo rfl (whole _))))
  have h2_3 : fld w 2 3 = scope := rd e (hi rfl (lo rfl (whole _)))
  have h0_2 : fld w 0 2 = ord := rd e (lo rfl (whole _))
  exact ⟨.amomin, (select1B h26_6).trans (by delta decodeMajor1B; rw [h6_5]; rfl), by show Instr.amomin _ _ _ _ _ _ = _; rw [h21_5, h16_5, h11_5, h5_1, h2_3, h0_2], by show (scopeOk (fld w 2 3)) = _; rw [h2_3]; rfl⟩

theorem Encoding.amomax (d a b : BitVec 5) (wd : BitVec 1) (scope : BitVec 3) (ord : BitVec 2) : Encoding.Statement (.amomax d a b wd scope ord) := by
  intro w hw
  have e : w = 0x1B#6 ++ d ++ a ++ b ++ 0x5#5 ++ wd ++ scope ++ ord := (Option.some.inj hw).symm
  have h26_6 : fld w 26 6 = 0x1B#6 := rd e (hi rfl (hi rfl (hi rfl (hi rfl (hi rfl (hi rfl (hi rfl (whole _))))))))
  have h6_5 : fld w 6 5 = 0x5#5 := rd e (hi rfl (hi rfl (hi rfl (lo rfl (whole _)))))
  have h21_5 : fld w 21 5 = d := rd e (hi rfl (hi rfl (hi rfl (hi rfl (hi rfl (hi rfl (lo rfl (whole _))))))))
  have h16_5 : fld w 16 5 = a := rd e (hi rfl (hi rfl (hi rfl (hi rfl (hi rfl (lo rfl (whole _)))))))
  have h11_5 : fld w 11 5 = b := rd e (hi rfl (hi rfl (hi rfl (hi rfl (lo rfl (whole _))))))
  have h5_1 : fld w 5 1 = wd := rd e (hi rfl (hi rfl (lo rfl (whole _))))
  have h2_3 : fld w 2 3 = scope := rd e (hi rfl (lo rfl (whole _)))
  have h0_2 : fld w 0 2 = ord := rd e (lo rfl (whole _))
  exact ⟨.amomax, (select1B h26_6).trans (by delta decodeMajor1B; rw [h6_5]; rfl), by show Instr.amomax _ _ _ _ _ _ = _; rw [h21_5, h16_5, h11_5, h5_1, h2_3, h0_2], by show (scopeOk (fld w 2 3)) = _; rw [h2_3]; rfl⟩

theorem Encoding.amominu (d a b : BitVec 5) (wd : BitVec 1) (scope : BitVec 3) (ord : BitVec 2) : Encoding.Statement (.amominu d a b wd scope ord) := by
  intro w hw
  have e : w = 0x1B#6 ++ d ++ a ++ b ++ 0x6#5 ++ wd ++ scope ++ ord := (Option.some.inj hw).symm
  have h26_6 : fld w 26 6 = 0x1B#6 := rd e (hi rfl (hi rfl (hi rfl (hi rfl (hi rfl (hi rfl (hi rfl (whole _))))))))
  have h6_5 : fld w 6 5 = 0x6#5 := rd e (hi rfl (hi rfl (hi rfl (lo rfl (whole _)))))
  have h21_5 : fld w 21 5 = d := rd e (hi rfl (hi rfl (hi rfl (hi rfl (hi rfl (hi rfl (lo rfl (whole _))))))))
  have h16_5 : fld w 16 5 = a := rd e (hi rfl (hi rfl (hi rfl (hi rfl (hi rfl (lo rfl (whole _)))))))
  have h11_5 : fld w 11 5 = b := rd e (hi rfl (hi rfl (hi rfl (hi rfl (lo rfl (whole _))))))
  have h5_1 : fld w 5 1 = wd := rd e (hi rfl (hi rfl (lo rfl (whole _))))
  have h2_3 : fld w 2 3 = scope := rd e (hi rfl (lo rfl (whole _)))
  have h0_2 : fld w 0 2 = ord := rd e (lo rfl (whole _))
  exact ⟨.amominu, (select1B h26_6).trans (by delta decodeMajor1B; rw [h6_5]; rfl), by show Instr.amominu _ _ _ _ _ _ = _; rw [h21_5, h16_5, h11_5, h5_1, h2_3, h0_2], by show (scopeOk (fld w 2 3)) = _; rw [h2_3]; rfl⟩

theorem Encoding.amomaxu (d a b : BitVec 5) (wd : BitVec 1) (scope : BitVec 3) (ord : BitVec 2) : Encoding.Statement (.amomaxu d a b wd scope ord) := by
  intro w hw
  have e : w = 0x1B#6 ++ d ++ a ++ b ++ 0x7#5 ++ wd ++ scope ++ ord := (Option.some.inj hw).symm
  have h26_6 : fld w 26 6 = 0x1B#6 := rd e (hi rfl (hi rfl (hi rfl (hi rfl (hi rfl (hi rfl (hi rfl (whole _))))))))
  have h6_5 : fld w 6 5 = 0x7#5 := rd e (hi rfl (hi rfl (hi rfl (lo rfl (whole _)))))
  have h21_5 : fld w 21 5 = d := rd e (hi rfl (hi rfl (hi rfl (hi rfl (hi rfl (hi rfl (lo rfl (whole _))))))))
  have h16_5 : fld w 16 5 = a := rd e (hi rfl (hi rfl (hi rfl (hi rfl (hi rfl (lo rfl (whole _)))))))
  have h11_5 : fld w 11 5 = b := rd e (hi rfl (hi rfl (hi rfl (hi rfl (lo rfl (whole _))))))
  have h5_1 : fld w 5 1 = wd := rd e (hi rfl (hi rfl (lo rfl (whole _))))
  have h2_3 : fld w 2 3 = scope := rd e (hi rfl (lo rfl (whole _)))
  have h0_2 : fld w 0 2 = ord := rd e (lo rfl (whole _))
  exact ⟨.amomaxu, (select1B h26_6).trans (by delta decodeMajor1B; rw [h6_5]; rfl), by show Instr.amomaxu _ _ _ _ _ _ = _; rw [h21_5, h16_5, h11_5, h5_1, h2_3, h0_2], by show (scopeOk (fld w 2 3)) = _; rw [h2_3]; rfl⟩

theorem Encoding.amoswap (d a b : BitVec 5) (wd : BitVec 1) (scope : BitVec 3) (ord : BitVec 2) : Encoding.Statement (.amoswap d a b wd scope ord) := by
  intro w hw
  have e : w = 0x1B#6 ++ d ++ a ++ b ++ 0x8#5 ++ wd ++ scope ++ ord := (Option.some.inj hw).symm
  have h26_6 : fld w 26 6 = 0x1B#6 := rd e (hi rfl (hi rfl (hi rfl (hi rfl (hi rfl (hi rfl (hi rfl (whole _))))))))
  have h6_5 : fld w 6 5 = 0x8#5 := rd e (hi rfl (hi rfl (hi rfl (lo rfl (whole _)))))
  have h21_5 : fld w 21 5 = d := rd e (hi rfl (hi rfl (hi rfl (hi rfl (hi rfl (hi rfl (lo rfl (whole _))))))))
  have h16_5 : fld w 16 5 = a := rd e (hi rfl (hi rfl (hi rfl (hi rfl (hi rfl (lo rfl (whole _)))))))
  have h11_5 : fld w 11 5 = b := rd e (hi rfl (hi rfl (hi rfl (hi rfl (lo rfl (whole _))))))
  have h5_1 : fld w 5 1 = wd := rd e (hi rfl (hi rfl (lo rfl (whole _))))
  have h2_3 : fld w 2 3 = scope := rd e (hi rfl (lo rfl (whole _)))
  have h0_2 : fld w 0 2 = ord := rd e (lo rfl (whole _))
  exact ⟨.amoswap, (select1B h26_6).trans (by delta decodeMajor1B; rw [h6_5]; rfl), by show Instr.amoswap _ _ _ _ _ _ = _; rw [h21_5, h16_5, h11_5, h5_1, h2_3, h0_2], by show (scopeOk (fld w 2 3)) = _; rw [h2_3]; rfl⟩

theorem Encoding.cas (d a b : BitVec 5) (wd : BitVec 1) (scope : BitVec 3) (ord : BitVec 2) : Encoding.Statement (.cas d a b wd scope ord) := by
  intro w hw
  have e : w = 0x1B#6 ++ d ++ a ++ b ++ 0x9#5 ++ wd ++ scope ++ ord := (Option.some.inj hw).symm
  have h26_6 : fld w 26 6 = 0x1B#6 := rd e (hi rfl (hi rfl (hi rfl (hi rfl (hi rfl (hi rfl (hi rfl (whole _))))))))
  have h6_5 : fld w 6 5 = 0x9#5 := rd e (hi rfl (hi rfl (hi rfl (lo rfl (whole _)))))
  have h21_5 : fld w 21 5 = d := rd e (hi rfl (hi rfl (hi rfl (hi rfl (hi rfl (hi rfl (lo rfl (whole _))))))))
  have h16_5 : fld w 16 5 = a := rd e (hi rfl (hi rfl (hi rfl (hi rfl (hi rfl (lo rfl (whole _)))))))
  have h11_5 : fld w 11 5 = b := rd e (hi rfl (hi rfl (hi rfl (hi rfl (lo rfl (whole _))))))
  have h5_1 : fld w 5 1 = wd := rd e (hi rfl (hi rfl (lo rfl (whole _))))
  have h2_3 : fld w 2 3 = scope := rd e (hi rfl (lo rfl (whole _)))
  have h0_2 : fld w 0 2 = ord := rd e (lo rfl (whole _))
  exact ⟨.cas, (select1B h26_6).trans (by delta decodeMajor1B; rw [h6_5]; rfl), by show Instr.cas _ _ _ _ _ _ = _; rw [h21_5, h16_5, h11_5, h5_1, h2_3, h0_2], by show (scopeOk (fld w 2 3)) = _; rw [h2_3]; rfl⟩

theorem Encoding.ldsync (d a : BitVec 5) (scope : BitVec 3) : Encoding.Statement (.ldsync d a scope) := by
  intro w hw
  have e : w = 0x1B#6 ++ d ++ a ++ 0x21#11 ++ scope ++ 0x0#2 := (Option.some.inj hw).symm
  have h26_6 : fld w 26 6 = 0x1B#6 := rd e (hi rfl (hi rfl (hi rfl (hi rfl (hi rfl (whole _))))))
  have h6_5 : fld w 6 5 = 0x10#5 := rd e (hi rfl (hi rfl (lo rfl (by decide))))
  have h11_5 : fld w 11 5 = 0x0#5 := rd e (hi rfl (hi rfl (lo rfl (by decide))))
  have h5_1 : fld w 5 1 = 0x1#1 := rd e (hi rfl (hi rfl (lo rfl (by decide))))
  have h0_2 : fld w 0 2 = 0x0#2 := rd e (lo rfl (whole _))
  have h21_5 : fld w 21 5 = d := rd e (hi rfl (hi rfl (hi rfl (hi rfl (lo rfl (whole _))))))
  have h16_5 : fld w 16 5 = a := rd e (hi rfl (hi rfl (hi rfl (lo rfl (whole _)))))
  have h2_3 : fld w 2 3 = scope := rd e (hi rfl (lo rfl (whole _)))
  exact ⟨.ldsync, (select1B h26_6).trans (by delta decodeMajor1B; rw [h6_5, h11_5, h5_1, h0_2]; rfl), by show Instr.ldsync _ _ _ = _; rw [h21_5, h16_5, h2_3], by show (scopeOk (fld w 2 3)) = _; rw [h2_3]; rfl⟩

theorem Encoding.ldtake (d a : BitVec 5) (scope : BitVec 3) : Encoding.Statement (.ldtake d a scope) := by
  intro w hw
  have e : w = 0x1B#6 ++ d ++ a ++ 0x23#11 ++ scope ++ 0x0#2 := (Option.some.inj hw).symm
  have h26_6 : fld w 26 6 = 0x1B#6 := rd e (hi rfl (hi rfl (hi rfl (hi rfl (hi rfl (whole _))))))
  have h6_5 : fld w 6 5 = 0x11#5 := rd e (hi rfl (hi rfl (lo rfl (by decide))))
  have h11_5 : fld w 11 5 = 0x0#5 := rd e (hi rfl (hi rfl (lo rfl (by decide))))
  have h5_1 : fld w 5 1 = 0x1#1 := rd e (hi rfl (hi rfl (lo rfl (by decide))))
  have h0_2 : fld w 0 2 = 0x0#2 := rd e (lo rfl (whole _))
  have h21_5 : fld w 21 5 = d := rd e (hi rfl (hi rfl (hi rfl (hi rfl (lo rfl (whole _))))))
  have h16_5 : fld w 16 5 = a := rd e (hi rfl (hi rfl (hi rfl (lo rfl (whole _)))))
  have h2_3 : fld w 2 3 = scope := rd e (hi rfl (lo rfl (whole _)))
  exact ⟨.ldtake, (select1B h26_6).trans (by delta decodeMajor1B; rw [h6_5, h11_5, h5_1, h0_2]; rfl), by show Instr.ldtake _ _ _ = _; rw [h21_5, h16_5, h2_3], by show (scopeOk (fld w 2 3)) = _; rw [h2_3]; rfl⟩

theorem Encoding.stfill (a b : BitVec 5) (scope : BitVec 3) : Encoding.Statement (.stfill a b scope) := by
  intro w hw
  have e : w = 0x1B#6 ++ 0x0#5 ++ a ++ b ++ 0x25#6 ++ scope ++ 0x0#2 := (Option.some.inj hw).symm
  have h26_6 : fld w 26 6 = 0x1B#6 := rd e (hi rfl (hi rfl (hi rfl (hi rfl (hi rfl (hi rfl (whole _)))))))
  have h6_5 : fld w 6 5 = 0x12#5 := rd e (hi rfl (hi rfl (lo rfl (by decide))))
  have h21_5 : fld w 21 5 = 0x0#5 := rd e (hi rfl (hi rfl (hi rfl (hi rfl (hi rfl (lo rfl (whole _)))))))
  have h5_1 : fld w 5 1 = 0x1#1 := rd e (hi rfl (hi rfl (lo rfl (by decide))))
  have h0_2 : fld w 0 2 = 0x0#2 := rd e (lo rfl (whole _))
  have h16_5 : fld w 16 5 = a := rd e (hi rfl (hi rfl (hi rfl (hi rfl (lo rfl (whole _))))))
  have h11_5 : fld w 11 5 = b := rd e (hi rfl (hi rfl (hi rfl (lo rfl (whole _)))))
  have h2_3 : fld w 2 3 = scope := rd e (hi rfl (lo rfl (whole _)))
  exact ⟨.stfill, (select1B h26_6).trans (by delta decodeMajor1B; rw [h6_5, h21_5, h5_1, h0_2]; rfl), by show Instr.stfill _ _ _ = _; rw [h16_5, h11_5, h2_3], by show (scopeOk (fld w 2 3)) = _; rw [h2_3]; rfl⟩

theorem Encoding.feclr (a b : BitVec 5) (scope : BitVec 3) : Encoding.Statement (.feclr a b scope) := by
  intro w hw
  have e : w = 0x1B#6 ++ 0x0#5 ++ a ++ b ++ 0x27#6 ++ scope ++ 0x0#2 := (Option.some.inj hw).symm
  have h26_6 : fld w 26 6 = 0x1B#6 := rd e (hi rfl (hi rfl (hi rfl (hi rfl (hi rfl (hi rfl (whole _)))))))
  have h6_5 : fld w 6 5 = 0x13#5 := rd e (hi rfl (hi rfl (lo rfl (by decide))))
  have h21_5 : fld w 21 5 = 0x0#5 := rd e (hi rfl (hi rfl (hi rfl (hi rfl (hi rfl (lo rfl (whole _)))))))
  have h5_1 : fld w 5 1 = 0x1#1 := rd e (hi rfl (hi rfl (lo rfl (by decide))))
  have h0_2 : fld w 0 2 = 0x0#2 := rd e (lo rfl (whole _))
  have h16_5 : fld w 16 5 = a := rd e (hi rfl (hi rfl (hi rfl (hi rfl (lo rfl (whole _))))))
  have h11_5 : fld w 11 5 = b := rd e (hi rfl (hi rfl (hi rfl (lo rfl (whole _)))))
  have h2_3 : fld w 2 3 = scope := rd e (hi rfl (lo rfl (whole _)))
  exact ⟨.feclr, (select1B h26_6).trans (by delta decodeMajor1B; rw [h6_5, h21_5, h5_1, h0_2]; rfl), by show Instr.feclr _ _ _ = _; rw [h16_5, h11_5, h2_3], by show (scopeOk (fld w 2 3)) = _; rw [h2_3]; rfl⟩

theorem Encoding.feset (a b : BitVec 5) (scope : BitVec 3) : Encoding.Statement (.feset a b scope) := by
  intro w hw
  have e : w = 0x1B#6 ++ 0x0#5 ++ a ++ b ++ 0x29#6 ++ scope ++ 0x0#2 := (Option.some.inj hw).symm
  have h26_6 : fld w 26 6 = 0x1B#6 := rd e (hi rfl (hi rfl (hi rfl (hi rfl (hi rfl (hi rfl (whole _)))))))
  have h6_5 : fld w 6 5 = 0x14#5 := rd e (hi rfl (hi rfl (lo rfl (by decide))))
  have h21_5 : fld w 21 5 = 0x0#5 := rd e (hi rfl (hi rfl (hi rfl (hi rfl (hi rfl (lo rfl (whole _)))))))
  have h5_1 : fld w 5 1 = 0x1#1 := rd e (hi rfl (hi rfl (lo rfl (by decide))))
  have h0_2 : fld w 0 2 = 0x0#2 := rd e (lo rfl (whole _))
  have h16_5 : fld w 16 5 = a := rd e (hi rfl (hi rfl (hi rfl (hi rfl (lo rfl (whole _))))))
  have h11_5 : fld w 11 5 = b := rd e (hi rfl (hi rfl (hi rfl (lo rfl (whole _)))))
  have h2_3 : fld w 2 3 = scope := rd e (hi rfl (lo rfl (whole _)))
  exact ⟨.feset, (select1B h26_6).trans (by delta decodeMajor1B; rw [h6_5, h21_5, h5_1, h0_2]; rfl), by show Instr.feset _ _ _ = _; rw [h16_5, h11_5, h2_3], by show (scopeOk (fld w 2 3)) = _; rw [h2_3]; rfl⟩

theorem Encoding.csrr (d : BitVec 5) (csr : BitVec 12) : Encoding.Statement (.csrr d csr) := by
  intro w hw
  have e : w = 0x1C#6 ++ d ++ 0x0#9 ++ csr := (Option.some.inj hw).symm
  have h26_6 : fld w 26 6 = 0x1C#6 := rd e (hi rfl (hi rfl (hi rfl (whole _))))
  have h12_2 : fld w 12 2 = 0x0#2 := rd e (hi rfl (lo rfl (by decide)))
  have h14_7 : fld w 14 7 = 0x0#7 := rd e (hi rfl (lo rfl (by decide)))
  have h21_5 : fld w 21 5 = d := rd e (hi rfl (hi rfl (lo rfl (whole _))))
  have h0_12 : fld w 0 12 = csr := rd e (lo rfl (whole _))
  exact ⟨.csrr, (select1C h26_6).trans (by delta decodeMajor1C; rw [h12_2, h14_7]; rfl), by show Instr.csrr _ _ = _; rw [h21_5, h0_12], rfl⟩

theorem Encoding.csrw (d a : BitVec 5) (csr : BitVec 12) : Encoding.Statement (.csrw d a csr) := by
  intro w hw
  have e : w = 0x1C#6 ++ d ++ a ++ 0x1#4 ++ csr := (Option.some.inj hw).symm
  have h26_6 : fld w 26 6 = 0x1C#6 := rd e (hi rfl (hi rfl (hi rfl (hi rfl (whole _)))))
  have h12_2 : fld w 12 2 = 0x1#2 := rd e (hi rfl (lo rfl (by decide)))
  have h14_2 : fld w 14 2 = 0x0#2 := rd e (hi rfl (lo rfl (by decide)))
  have h21_5 : fld w 21 5 = d := rd e (hi rfl (hi rfl (hi rfl (lo rfl (whole _)))))
  have h16_5 : fld w 16 5 = a := rd e (hi rfl (hi rfl (lo rfl (whole _))))
  have h0_12 : fld w 0 12 = csr := rd e (lo rfl (whole _))
  exact ⟨.csrw, (select1C h26_6).trans (by delta decodeMajor1C; rw [h12_2, h14_2]; rfl), by show Instr.csrw _ _ _ = _; rw [h21_5, h16_5, h0_12], rfl⟩

theorem Encoding.csrs (d a : BitVec 5) (csr : BitVec 12) : Encoding.Statement (.csrs d a csr) := by
  intro w hw
  have e : w = 0x1C#6 ++ d ++ a ++ 0x2#4 ++ csr := (Option.some.inj hw).symm
  have h26_6 : fld w 26 6 = 0x1C#6 := rd e (hi rfl (hi rfl (hi rfl (hi rfl (whole _)))))
  have h12_2 : fld w 12 2 = 0x2#2 := rd e (hi rfl (lo rfl (by decide)))
  have h14_2 : fld w 14 2 = 0x0#2 := rd e (hi rfl (lo rfl (by decide)))
  have h21_5 : fld w 21 5 = d := rd e (hi rfl (hi rfl (hi rfl (lo rfl (whole _)))))
  have h16_5 : fld w 16 5 = a := rd e (hi rfl (hi rfl (lo rfl (whole _))))
  have h0_12 : fld w 0 12 = csr := rd e (lo rfl (whole _))
  exact ⟨.csrs, (select1C h26_6).trans (by delta decodeMajor1C; rw [h12_2, h14_2]; rfl), by show Instr.csrs _ _ _ = _; rw [h21_5, h16_5, h0_12], rfl⟩

theorem Encoding.csrc (d a : BitVec 5) (csr : BitVec 12) : Encoding.Statement (.csrc d a csr) := by
  intro w hw
  have e : w = 0x1C#6 ++ d ++ a ++ 0x3#4 ++ csr := (Option.some.inj hw).symm
  have h26_6 : fld w 26 6 = 0x1C#6 := rd e (hi rfl (hi rfl (hi rfl (hi rfl (whole _)))))
  have h12_2 : fld w 12 2 = 0x3#2 := rd e (hi rfl (lo rfl (by decide)))
  have h14_2 : fld w 14 2 = 0x0#2 := rd e (hi rfl (lo rfl (by decide)))
  have h21_5 : fld w 21 5 = d := rd e (hi rfl (hi rfl (hi rfl (lo rfl (whole _)))))
  have h16_5 : fld w 16 5 = a := rd e (hi rfl (hi rfl (lo rfl (whole _))))
  have h0_12 : fld w 0 12 = csr := rd e (lo rfl (whole _))
  exact ⟨.csrc, (select1C h26_6).trans (by delta decodeMajor1C; rw [h12_2, h14_2]; rfl), by show Instr.csrc _ _ _ = _; rw [h21_5, h16_5, h0_12], rfl⟩

theorem Encoding.fence (pred succ scope : BitVec 3) : Encoding.Statement (.fence pred succ scope) := by
  intro w hw
  have e : w = 0x1D#6 ++ 0x0#17 ++ pred ++ succ ++ scope := (Option.some.inj hw).symm
  have h26_6 : fld w 26 6 = 0x1D#6 := rd e (hi rfl (hi rfl (hi rfl (hi rfl (whole _)))))
  have h9_2 : fld w 9 2 = 0x0#2 := rd e (hi rfl (hi rfl (hi rfl (lo rfl (by decide)))))
  have h11_15 : fld w 11 15 = 0x0#15 := rd e (hi rfl (hi rfl (hi rfl (lo rfl (by decide)))))
  have h6_3 : fld w 6 3 = pred := rd e (hi rfl (hi rfl (lo rfl (whole _))))
  have h3_3 : fld w 3 3 = succ := rd e (hi rfl (lo rfl (whole _)))
  have h0_3 : fld w 0 3 = scope := rd e (lo rfl (whole _))
  exact ⟨.fence, (select1D h26_6).trans (by delta decodeMajor1D; rw [h9_2, h11_15]; rfl), by show Instr.fence _ _ _ = _; rw [h6_3, h3_3, h0_3], by show ((fld w 6 3) != 0 && (fld w 3 3) != 0 && scopeOk (fld w 0 3)) = _; rw [h6_3, h3_3, h0_3]; rfl⟩

theorem Encoding.fenceSV : Encoding.Statement (.fenceSV) := by
  intro w hw
  have e : w = 0x1D#6 ++ 0x200#26 := (Option.some.inj hw).symm
  have h26_6 : fld w 26 6 = 0x1D#6 := rd e (hi rfl (whole _))
  have h9_2 : fld w 9 2 = 0x1#2 := rd e (lo rfl (by decide))
  have h11_15 : fld w 11 15 = 0x0#15 := rd e (lo rfl (by decide))
  have h0_9 : fld w 0 9 = 0x0#9 := rd e (lo rfl (by decide))
  exact ⟨.fenceSV, (select1D h26_6).trans (by delta decodeMajor1D; rw [h9_2, h11_15, h0_9]; rfl), rfl, rfl⟩

theorem Encoding.fenceVS : Encoding.Statement (.fenceVS) := by
  intro w hw
  have e : w = 0x1D#6 ++ 0x400#26 := (Option.some.inj hw).symm
  have h26_6 : fld w 26 6 = 0x1D#6 := rd e (hi rfl (whole _))
  have h9_2 : fld w 9 2 = 0x2#2 := rd e (lo rfl (by decide))
  have h11_15 : fld w 11 15 = 0x0#15 := rd e (lo rfl (by decide))
  have h0_9 : fld w 0 9 = 0x0#9 := rd e (lo rfl (by decide))
  exact ⟨.fenceVS, (select1D h26_6).trans (by delta decodeMajor1D; rw [h9_2, h11_15, h0_9]; rfl), rfl, rfl⟩

theorem Encoding.fenceVV : Encoding.Statement (.fenceVV) := by
  intro w hw
  have e : w = 0x1D#6 ++ 0x600#26 := (Option.some.inj hw).symm
  have h26_6 : fld w 26 6 = 0x1D#6 := rd e (hi rfl (whole _))
  have h9_2 : fld w 9 2 = 0x3#2 := rd e (lo rfl (by decide))
  have h11_15 : fld w 11 15 = 0x0#15 := rd e (lo rfl (by decide))
  have h0_9 : fld w 0 9 = 0x0#9 := rd e (lo rfl (by decide))
  exact ⟨.fenceVV, (select1D h26_6).trans (by delta decodeMajor1D; rw [h9_2, h11_15, h0_9]; rfl), rfl, rfl⟩

theorem Encoding.eret : Encoding.Statement (.eret) := by
  intro w hw
  have e : w = 0x1E#6 ++ 0x1#26 := (Option.some.inj hw).symm
  have h26_6 : fld w 26 6 = 0x1E#6 := rd e (hi rfl (whole _))
  have h0_11 : fld w 0 11 = 0x1#11 := rd e (lo rfl (by decide))
  have h11_15 : fld w 11 15 = 0x0#15 := rd e (lo rfl (by decide))
  exact ⟨.eret, (select1E h26_6).trans (by delta decodeMajor1E; rw [h0_11, h11_15]; rfl), rfl, rfl⟩

theorem Encoding.wfi : Encoding.Statement (.wfi) := by
  intro w hw
  have e : w = 0x1E#6 ++ 0x2#26 := (Option.some.inj hw).symm
  have h26_6 : fld w 26 6 = 0x1E#6 := rd e (hi rfl (whole _))
  have h0_11 : fld w 0 11 = 0x2#11 := rd e (lo rfl (by decide))
  have h11_15 : fld w 11 15 = 0x0#15 := rd e (lo rfl (by decide))
  exact ⟨.wfi, (select1E h26_6).trans (by delta decodeMajor1E; rw [h0_11, h11_15]; rfl), rfl, rfl⟩

theorem Encoding.halt : Encoding.Statement (.halt) := by
  intro w hw
  have e : w = 0x1E#6 ++ 0x3#26 := (Option.some.inj hw).symm
  have h26_6 : fld w 26 6 = 0x1E#6 := rd e (hi rfl (whole _))
  have h0_11 : fld w 0 11 = 0x3#11 := rd e (lo rfl (by decide))
  have h11_15 : fld w 11 15 = 0x0#15 := rd e (lo rfl (by decide))
  exact ⟨.halt, (select1E h26_6).trans (by delta decodeMajor1E; rw [h0_11, h11_15]; rfl), rfl, rfl⟩

theorem Encoding.tlbinv (a b : BitVec 5) : Encoding.Statement (.tlbinv a b) := by
  intro w hw
  have e : w = 0x1E#6 ++ 0x0#5 ++ a ++ b ++ 0x4#11 := (Option.some.inj hw).symm
  have h26_6 : fld w 26 6 = 0x1E#6 := rd e (hi rfl (hi rfl (hi rfl (hi rfl (whole _)))))
  have h0_11 : fld w 0 11 = 0x4#11 := rd e (lo rfl (whole _))
  have h21_5 : fld w 21 5 = 0x0#5 := rd e (hi rfl (hi rfl (hi rfl (lo rfl (whole _)))))
  have h16_5 : fld w 16 5 = a := rd e (hi rfl (hi rfl (lo rfl (whole _))))
  have h11_5 : fld w 11 5 = b := rd e (hi rfl (lo rfl (whole _)))
  exact ⟨.tlbinv, (select1E h26_6).trans (by delta decodeMajor1E; rw [h0_11, h21_5]; rfl), by show Instr.tlbinv _ _ = _; rw [h16_5, h11_5], rfl⟩

theorem Encoding.preempt (a : BitVec 5) : Encoding.Statement (.preempt a) := by
  intro w hw
  have e : w = 0x1E#6 ++ 0x0#5 ++ a ++ 0x10#16 := (Option.some.inj hw).symm
  have h26_6 : fld w 26 6 = 0x1E#6 := rd e (hi rfl (hi rfl (hi rfl (whole _))))
  have h0_11 : fld w 0 11 = 0x10#11 := rd e (lo rfl (by decide))
  have h21_5 : fld w 21 5 = 0x0#5 := rd e (hi rfl (hi rfl (lo rfl (whole _))))
  have h11_5 : fld w 11 5 = 0x0#5 := rd e (lo rfl (by decide))
  have h16_5 : fld w 16 5 = a := rd e (hi rfl (lo rfl (whole _)))
  exact ⟨.preempt, (select1E h26_6).trans (by delta decodeMajor1E; rw [h0_11, h21_5, h11_5]; rfl), by show Instr.preempt _ = _; rw [h16_5], rfl⟩

theorem Encoding.ctxsave (a b : BitVec 5) : Encoding.Statement (.ctxsave a b) := by
  intro w hw
  have e : w = 0x1E#6 ++ 0x0#5 ++ a ++ b ++ 0x11#11 := (Option.some.inj hw).symm
  have h26_6 : fld w 26 6 = 0x1E#6 := rd e (hi rfl (hi rfl (hi rfl (hi rfl (whole _)))))
  have h0_11 : fld w 0 11 = 0x11#11 := rd e (lo rfl (whole _))
  have h21_5 : fld w 21 5 = 0x0#5 := rd e (hi rfl (hi rfl (hi rfl (lo rfl (whole _)))))
  have h16_5 : fld w 16 5 = a := rd e (hi rfl (hi rfl (lo rfl (whole _))))
  have h11_5 : fld w 11 5 = b := rd e (hi rfl (lo rfl (whole _)))
  exact ⟨.ctxsave, (select1E h26_6).trans (by delta decodeMajor1E; rw [h0_11, h21_5]; rfl), by show Instr.ctxsave _ _ = _; rw [h16_5, h11_5], rfl⟩

theorem Encoding.ctxload (a b : BitVec 5) : Encoding.Statement (.ctxload a b) := by
  intro w hw
  have e : w = 0x1E#6 ++ 0x0#5 ++ a ++ b ++ 0x12#11 := (Option.some.inj hw).symm
  have h26_6 : fld w 26 6 = 0x1E#6 := rd e (hi rfl (hi rfl (hi rfl (hi rfl (whole _)))))
  have h0_11 : fld w 0 11 = 0x12#11 := rd e (lo rfl (whole _))
  have h21_5 : fld w 21 5 = 0x0#5 := rd e (hi rfl (hi rfl (hi rfl (lo rfl (whole _)))))
  have h16_5 : fld w 16 5 = a := rd e (hi rfl (hi rfl (lo rfl (whole _))))
  have h11_5 : fld w 11 5 = b := rd e (hi rfl (lo rfl (whole _)))
  exact ⟨.ctxload, (select1E h26_6).trans (by delta decodeMajor1E; rw [h0_11, h21_5]; rfl), by show Instr.ctxload _ _ = _; rw [h16_5, h11_5], rfl⟩

theorem Encoding.reshape (a b : BitVec 5) : Encoding.Statement (.reshape a b) := by
  intro w hw
  have e : w = 0x1E#6 ++ 0x0#5 ++ a ++ b ++ 0x13#11 := (Option.some.inj hw).symm
  have h26_6 : fld w 26 6 = 0x1E#6 := rd e (hi rfl (hi rfl (hi rfl (hi rfl (whole _)))))
  have h0_11 : fld w 0 11 = 0x13#11 := rd e (lo rfl (whole _))
  have h21_5 : fld w 21 5 = 0x0#5 := rd e (hi rfl (hi rfl (hi rfl (lo rfl (whole _)))))
  have h16_5 : fld w 16 5 = a := rd e (hi rfl (hi rfl (lo rfl (whole _))))
  have h11_5 : fld w 11 5 = b := rd e (hi rfl (lo rfl (whole _)))
  exact ⟨.reshape, (select1E h26_6).trans (by delta decodeMajor1E; rw [h0_11, h21_5]; rfl), by show Instr.reshape _ _ = _; rw [h16_5, h11_5], rfl⟩

theorem Encoding.trap (imm : BitVec 16) : Encoding.Statement (.trap imm) := by
  intro w hw
  have e : w = 0x1F#6 ++ 0x0#10 ++ imm := (Option.some.inj hw).symm
  have h26_6 : fld w 26 6 = 0x1F#6 := rd e (hi rfl (hi rfl (whole _)))
  have h16_10 : fld w 16 10 = 0x0#10 := rd e (hi rfl (lo rfl (whole _)))
  have h0_16 : fld w 0 16 = imm := rd e (lo rfl (whole _))
  exact ⟨.trap, by delta selectOp; rw [h26_6, h16_10]; rfl, by show Instr.trap _ = _; rw [h0_16], rfl⟩

theorem Encoding.vsetvli (d a : BitVec 5) (slices sew : BitVec 4) : Encoding.Statement (.vsetvli d a slices sew) := by
  intro w hw
  have e : w = 0x20#6 ++ 0x0#1 ++ d ++ 0x0#1 ++ a ++ slices ++ sew ++ 0x0#6 := (Option.some.inj hw).symm
  have h26_6 : fld w 26 6 = 0x20#6 := rd e (hi rfl (hi rfl (hi rfl (hi rfl (hi rfl (hi rfl (hi rfl (whole _))))))))
  have h1_4 : fld w 1 4 = 0x0#4 := rd e (lo rfl (by decide))
  have h25_1 : fld w 25 1 = 0x0#1 := rd e (hi rfl (hi rfl (hi rfl (hi rfl (hi rfl (hi rfl (lo rfl (whole _))))))))
  have h19_1 : fld w 19 1 = 0x0#1 := rd e (hi rfl (hi rfl (hi rfl (hi rfl (lo rfl (whole _))))))
  have h5_1 : fld w 5 1 = 0x0#1 := rd e (lo rfl (by decide))
  have h0_1 : fld w 0 1 = 0x0#1 := rd e (lo rfl (by decide))
  have h20_5 : fld w 20 5 = d := rd e (hi rfl (hi rfl (hi rfl (hi rfl (hi rfl (lo rfl (whole _)))))))
  have h14_5 : fld w 14 5 = a := rd e (hi rfl (hi rfl (hi rfl (lo rfl (whole _)))))
  have h10_4 : fld w 10 4 = slices := rd e (hi rfl (hi rfl (lo rfl (whole _))))
  have h6_4 : fld w 6 4 = sew := rd e (hi rfl (lo rfl (whole _)))
  exact ⟨.vsetvli, (select20 h26_6).trans (by delta decodeMajor20; rw [h1_4, h25_1, h19_1, h5_1, h0_1]; rfl), by show Instr.vsetvli _ _ _ _ = _; rw [h20_5, h14_5, h10_4, h6_4], rfl⟩

theorem Encoding.vsetvl (d a b : BitVec 5) : Encoding.Statement (.vsetvl d a b) := by
  intro w hw
  have e : w = 0x20#6 ++ 0x0#1 ++ d ++ 0x0#1 ++ a ++ b ++ 0x2#9 := (Option.some.inj hw).symm
  have h26_6 : fld w 26 6 = 0x20#6 := rd e (hi rfl (hi rfl (hi rfl (hi rfl (hi rfl (hi rfl (whole _)))))))
  have h1_4 : fld w 1 4 = 0x1#4 := rd e (lo rfl (by decide))
  have h25_1 : fld w 25 1 = 0x0#1 := rd e (hi rfl (hi rfl (hi rfl (hi rfl (hi rfl (lo rfl (whole _)))))))
  have h19_1 : fld w 19 1 = 0x0#1 := rd e (hi rfl (hi rfl (hi rfl (lo rfl (whole _)))))
  have h5_4 : fld w 5 4 = 0x0#4 := rd e (lo rfl (by decide))
  have h0_1 : fld w 0 1 = 0x0#1 := rd e (lo rfl (by decide))
  have h20_5 : fld w 20 5 = d := rd e (hi rfl (hi rfl (hi rfl (hi rfl (lo rfl (whole _))))))
  have h14_5 : fld w 14 5 = a := rd e (hi rfl (hi rfl (lo rfl (whole _))))
  have h9_5 : fld w 9 5 = b := rd e (hi rfl (lo rfl (whole _)))
  exact ⟨.vsetvl, (select20 h26_6).trans (by delta decodeMajor20; rw [h1_4, h25_1, h19_1, h5_4, h0_1]; rfl), by show Instr.vsetvl _ _ _ = _; rw [h20_5, h14_5, h9_5], rfl⟩

theorem Encoding.vcfg (n : BitVec 2) : Encoding.Statement (.vcfg n) := by
  intro w hw
  have e : w = 0x20#6 ++ 0x0#19 ++ n ++ 0x4#5 := (Option.some.inj hw).symm
  have h26_6 : fld w 26 6 = 0x20#6 := rd e (hi rfl (hi rfl (hi rfl (whole _))))
  have h1_4 : fld w 1 4 = 0x2#4 := rd e (lo rfl (by decide))
  have h7_19 : fld w 7 19 = 0x0#19 := rd e (hi rfl (hi rfl (lo rfl (whole _))))
  have h0_1 : fld w 0 1 = 0x0#1 := rd e (lo rfl (by decide))
  have h5_2 : fld w 5 2 = n := rd e (hi rfl (lo rfl (whole _)))
  exact ⟨.vcfg, (select20 h26_6).trans (by delta decodeMajor20; rw [h1_4, h7_19, h0_1]; rfl), by show Instr.vcfg _ = _; rw [h5_2], rfl⟩

theorem Encoding.vaddVV (d a b : BitVec 6) (km : BitVec 3) (cv : BitVec 1) : Encoding.Statement (.vaddVV d a b km cv) := by
  intro w hw
  have e : w = 0x21#6 ++ d ++ a ++ b ++ km ++ 0x0#4 ++ cv := (Option.some.inj hw).symm
  have h26_6 : fld w 26 6 = 0x21#6 := rd e (hi rfl (hi rfl (hi rfl (hi rfl (hi rfl (hi rfl (whole _)))))))
  have h1_4 : fld w 1 4 = 0x0#4 := rd e (hi rfl (lo rfl (whole _)))
  have h20_6 : fld w 20 6 = d := rd e (hi rfl (hi rfl (hi rfl (hi rfl (hi rfl (lo rfl (whole _)))))))
  have h14_6 : fld w 14 6 = a := rd e (hi rfl (hi rfl (hi rfl (hi rfl (lo rfl (whole _))))))
  have h8_6 : fld w 8 6 = b := rd e (hi rfl (hi rfl (hi rfl (lo rfl (whole _)))))
  have h5_3 : fld w 5 3 = km := rd e (hi rfl (hi rfl (lo rfl (whole _))))
  have h0_1 : fld w 0 1 = cv := rd e (lo rfl (whole _))
  exact ⟨.vaddVV, (select21 h26_6).trans (by delta decodeMajor21; rw [h1_4]; rfl), by show Instr.vaddVV _ _ _ _ _ = _; rw [h20_6, h14_6, h8_6, h5_3, h0_1], rfl⟩

theorem Encoding.vsubVV (d a b : BitVec 6) (km : BitVec 3) (cv : BitVec 1) : Encoding.Statement (.vsubVV d a b km cv) := by
  intro w hw
  have e : w = 0x21#6 ++ d ++ a ++ b ++ km ++ 0x1#4 ++ cv := (Option.some.inj hw).symm
  have h26_6 : fld w 26 6 = 0x21#6 := rd e (hi rfl (hi rfl (hi rfl (hi rfl (hi rfl (hi rfl (whole _)))))))
  have h1_4 : fld w 1 4 = 0x1#4 := rd e (hi rfl (lo rfl (whole _)))
  have h20_6 : fld w 20 6 = d := rd e (hi rfl (hi rfl (hi rfl (hi rfl (hi rfl (lo rfl (whole _)))))))
  have h14_6 : fld w 14 6 = a := rd e (hi rfl (hi rfl (hi rfl (hi rfl (lo rfl (whole _))))))
  have h8_6 : fld w 8 6 = b := rd e (hi rfl (hi rfl (hi rfl (lo rfl (whole _)))))
  have h5_3 : fld w 5 3 = km := rd e (hi rfl (hi rfl (lo rfl (whole _))))
  have h0_1 : fld w 0 1 = cv := rd e (lo rfl (whole _))
  exact ⟨.vsubVV, (select21 h26_6).trans (by delta decodeMajor21; rw [h1_4]; rfl), by show Instr.vsubVV _ _ _ _ _ = _; rw [h20_6, h14_6, h8_6, h5_3, h0_1], rfl⟩

theorem Encoding.vmulVV (d a b : BitVec 6) (km : BitVec 3) (cv : BitVec 1) : Encoding.Statement (.vmulVV d a b km cv) := by
  intro w hw
  have e : w = 0x21#6 ++ d ++ a ++ b ++ km ++ 0x2#4 ++ cv := (Option.some.inj hw).symm
  have h26_6 : fld w 26 6 = 0x21#6 := rd e (hi rfl (hi rfl (hi rfl (hi rfl (hi rfl (hi rfl (whole _)))))))
  have h1_4 : fld w 1 4 = 0x2#4 := rd e (hi rfl (lo rfl (whole _)))
  have h20_6 : fld w 20 6 = d := rd e (hi rfl (hi rfl (hi rfl (hi rfl (hi rfl (lo rfl (whole _)))))))
  have h14_6 : fld w 14 6 = a := rd e (hi rfl (hi rfl (hi rfl (hi rfl (lo rfl (whole _))))))
  have h8_6 : fld w 8 6 = b := rd e (hi rfl (hi rfl (hi rfl (lo rfl (whole _)))))
  have h5_3 : fld w 5 3 = km := rd e (hi rfl (hi rfl (lo rfl (whole _))))
  have h0_1 : fld w 0 1 = cv := rd e (lo rfl (whole _))
  exact ⟨.vmulVV, (select21 h26_6).trans (by delta decodeMajor21; rw [h1_4]; rfl), by show Instr.vmulVV _ _ _ _ _ = _; rw [h20_6, h14_6, h8_6, h5_3, h0_1], rfl⟩

theorem Encoding.vmulhVV (d a b : BitVec 6) (km : BitVec 3) (cv : BitVec 1) : Encoding.Statement (.vmulhVV d a b km cv) := by
  intro w hw
  have e : w = 0x21#6 ++ d ++ a ++ b ++ km ++ 0x3#4 ++ cv := (Option.some.inj hw).symm
  have h26_6 : fld w 26 6 = 0x21#6 := rd e (hi rfl (hi rfl (hi rfl (hi rfl (hi rfl (hi rfl (whole _)))))))
  have h1_4 : fld w 1 4 = 0x3#4 := rd e (hi rfl (lo rfl (whole _)))
  have h20_6 : fld w 20 6 = d := rd e (hi rfl (hi rfl (hi rfl (hi rfl (hi rfl (lo rfl (whole _)))))))
  have h14_6 : fld w 14 6 = a := rd e (hi rfl (hi rfl (hi rfl (hi rfl (lo rfl (whole _))))))
  have h8_6 : fld w 8 6 = b := rd e (hi rfl (hi rfl (hi rfl (lo rfl (whole _)))))
  have h5_3 : fld w 5 3 = km := rd e (hi rfl (hi rfl (lo rfl (whole _))))
  have h0_1 : fld w 0 1 = cv := rd e (lo rfl (whole _))
  exact ⟨.vmulhVV, (select21 h26_6).trans (by delta decodeMajor21; rw [h1_4]; rfl), by show Instr.vmulhVV _ _ _ _ _ = _; rw [h20_6, h14_6, h8_6, h5_3, h0_1], rfl⟩

theorem Encoding.vdivVV (d a b : BitVec 6) (km : BitVec 3) (cv : BitVec 1) : Encoding.Statement (.vdivVV d a b km cv) := by
  intro w hw
  have e : w = 0x21#6 ++ d ++ a ++ b ++ km ++ 0x4#4 ++ cv := (Option.some.inj hw).symm
  have h26_6 : fld w 26 6 = 0x21#6 := rd e (hi rfl (hi rfl (hi rfl (hi rfl (hi rfl (hi rfl (whole _)))))))
  have h1_4 : fld w 1 4 = 0x4#4 := rd e (hi rfl (lo rfl (whole _)))
  have h20_6 : fld w 20 6 = d := rd e (hi rfl (hi rfl (hi rfl (hi rfl (hi rfl (lo rfl (whole _)))))))
  have h14_6 : fld w 14 6 = a := rd e (hi rfl (hi rfl (hi rfl (hi rfl (lo rfl (whole _))))))
  have h8_6 : fld w 8 6 = b := rd e (hi rfl (hi rfl (hi rfl (lo rfl (whole _)))))
  have h5_3 : fld w 5 3 = km := rd e (hi rfl (hi rfl (lo rfl (whole _))))
  have h0_1 : fld w 0 1 = cv := rd e (lo rfl (whole _))
  exact ⟨.vdivVV, (select21 h26_6).trans (by delta decodeMajor21; rw [h1_4]; rfl), by show Instr.vdivVV _ _ _ _ _ = _; rw [h20_6, h14_6, h8_6, h5_3, h0_1], rfl⟩

theorem Encoding.vremVV (d a b : BitVec 6) (km : BitVec 3) (cv : BitVec 1) : Encoding.Statement (.vremVV d a b km cv) := by
  intro w hw
  have e : w = 0x21#6 ++ d ++ a ++ b ++ km ++ 0x5#4 ++ cv := (Option.some.inj hw).symm
  have h26_6 : fld w 26 6 = 0x21#6 := rd e (hi rfl (hi rfl (hi rfl (hi rfl (hi rfl (hi rfl (whole _)))))))
  have h1_4 : fld w 1 4 = 0x5#4 := rd e (hi rfl (lo rfl (whole _)))
  have h20_6 : fld w 20 6 = d := rd e (hi rfl (hi rfl (hi rfl (hi rfl (hi rfl (lo rfl (whole _)))))))
  have h14_6 : fld w 14 6 = a := rd e (hi rfl (hi rfl (hi rfl (hi rfl (lo rfl (whole _))))))
  have h8_6 : fld w 8 6 = b := rd e (hi rfl (hi rfl (hi rfl (lo rfl (whole _)))))
  have h5_3 : fld w 5 3 = km := rd e (hi rfl (hi rfl (lo rfl (whole _))))
  have h0_1 : fld w 0 1 = cv := rd e (lo rfl (whole _))
  exact ⟨.vremVV, (select21 h26_6).trans (by delta decodeMajor21; rw [h1_4]; rfl), by show Instr.vremVV _ _ _ _ _ = _; rw [h20_6, h14_6, h8_6, h5_3, h0_1], rfl⟩

theorem Encoding.vminVV (d a b : BitVec 6) (km : BitVec 3) (cv : BitVec 1) : Encoding.Statement (.vminVV d a b km cv) := by
  intro w hw
  have e : w = 0x21#6 ++ d ++ a ++ b ++ km ++ 0x6#4 ++ cv := (Option.some.inj hw).symm
  have h26_6 : fld w 26 6 = 0x21#6 := rd e (hi rfl (hi rfl (hi rfl (hi rfl (hi rfl (hi rfl (whole _)))))))
  have h1_4 : fld w 1 4 = 0x6#4 := rd e (hi rfl (lo rfl (whole _)))
  have h20_6 : fld w 20 6 = d := rd e (hi rfl (hi rfl (hi rfl (hi rfl (hi rfl (lo rfl (whole _)))))))
  have h14_6 : fld w 14 6 = a := rd e (hi rfl (hi rfl (hi rfl (hi rfl (lo rfl (whole _))))))
  have h8_6 : fld w 8 6 = b := rd e (hi rfl (hi rfl (hi rfl (lo rfl (whole _)))))
  have h5_3 : fld w 5 3 = km := rd e (hi rfl (hi rfl (lo rfl (whole _))))
  have h0_1 : fld w 0 1 = cv := rd e (lo rfl (whole _))
  exact ⟨.vminVV, (select21 h26_6).trans (by delta decodeMajor21; rw [h1_4]; rfl), by show Instr.vminVV _ _ _ _ _ = _; rw [h20_6, h14_6, h8_6, h5_3, h0_1], rfl⟩

theorem Encoding.vmaxVV (d a b : BitVec 6) (km : BitVec 3) (cv : BitVec 1) : Encoding.Statement (.vmaxVV d a b km cv) := by
  intro w hw
  have e : w = 0x21#6 ++ d ++ a ++ b ++ km ++ 0x7#4 ++ cv := (Option.some.inj hw).symm
  have h26_6 : fld w 26 6 = 0x21#6 := rd e (hi rfl (hi rfl (hi rfl (hi rfl (hi rfl (hi rfl (whole _)))))))
  have h1_4 : fld w 1 4 = 0x7#4 := rd e (hi rfl (lo rfl (whole _)))
  have h20_6 : fld w 20 6 = d := rd e (hi rfl (hi rfl (hi rfl (hi rfl (hi rfl (lo rfl (whole _)))))))
  have h14_6 : fld w 14 6 = a := rd e (hi rfl (hi rfl (hi rfl (hi rfl (lo rfl (whole _))))))
  have h8_6 : fld w 8 6 = b := rd e (hi rfl (hi rfl (hi rfl (lo rfl (whole _)))))
  have h5_3 : fld w 5 3 = km := rd e (hi rfl (hi rfl (lo rfl (whole _))))
  have h0_1 : fld w 0 1 = cv := rd e (lo rfl (whole _))
  exact ⟨.vmaxVV, (select21 h26_6).trans (by delta decodeMajor21; rw [h1_4]; rfl), by show Instr.vmaxVV _ _ _ _ _ = _; rw [h20_6, h14_6, h8_6, h5_3, h0_1], rfl⟩

theorem Encoding.vandVV (d a b : BitVec 6) (km : BitVec 3) (cv : BitVec 1) : Encoding.Statement (.vandVV d a b km cv) := by
  intro w hw
  have e : w = 0x21#6 ++ d ++ a ++ b ++ km ++ 0x8#4 ++ cv := (Option.some.inj hw).symm
  have h26_6 : fld w 26 6 = 0x21#6 := rd e (hi rfl (hi rfl (hi rfl (hi rfl (hi rfl (hi rfl (whole _)))))))
  have h1_4 : fld w 1 4 = 0x8#4 := rd e (hi rfl (lo rfl (whole _)))
  have h20_6 : fld w 20 6 = d := rd e (hi rfl (hi rfl (hi rfl (hi rfl (hi rfl (lo rfl (whole _)))))))
  have h14_6 : fld w 14 6 = a := rd e (hi rfl (hi rfl (hi rfl (hi rfl (lo rfl (whole _))))))
  have h8_6 : fld w 8 6 = b := rd e (hi rfl (hi rfl (hi rfl (lo rfl (whole _)))))
  have h5_3 : fld w 5 3 = km := rd e (hi rfl (hi rfl (lo rfl (whole _))))
  have h0_1 : fld w 0 1 = cv := rd e (lo rfl (whole _))
  exact ⟨.vandVV, (select21 h26_6).trans (by delta decodeMajor21; rw [h1_4]; rfl), by show Instr.vandVV _ _ _ _ _ = _; rw [h20_6, h14_6, h8_6, h5_3, h0_1], rfl⟩

theorem Encoding.vorVV (d a b : BitVec 6) (km : BitVec 3) (cv : BitVec 1) : Encoding.Statement (.vorVV d a b km cv) := by
  intro w hw
  have e : w = 0x21#6 ++ d ++ a ++ b ++ km ++ 0x9#4 ++ cv := (Option.some.inj hw).symm
  have h26_6 : fld w 26 6 = 0x21#6 := rd e (hi rfl (hi rfl (hi rfl (hi rfl (hi rfl (hi rfl (whole _)))))))
  have h1_4 : fld w 1 4 = 0x9#4 := rd e (hi rfl (lo rfl (whole _)))
  have h20_6 : fld w 20 6 = d := rd e (hi rfl (hi rfl (hi rfl (hi rfl (hi rfl (lo rfl (whole _)))))))
  have h14_6 : fld w 14 6 = a := rd e (hi rfl (hi rfl (hi rfl (hi rfl (lo rfl (whole _))))))
  have h8_6 : fld w 8 6 = b := rd e (hi rfl (hi rfl (hi rfl (lo rfl (whole _)))))
  have h5_3 : fld w 5 3 = km := rd e (hi rfl (hi rfl (lo rfl (whole _))))
  have h0_1 : fld w 0 1 = cv := rd e (lo rfl (whole _))
  exact ⟨.vorVV, (select21 h26_6).trans (by delta decodeMajor21; rw [h1_4]; rfl), by show Instr.vorVV _ _ _ _ _ = _; rw [h20_6, h14_6, h8_6, h5_3, h0_1], rfl⟩

theorem Encoding.vxorVV (d a b : BitVec 6) (km : BitVec 3) (cv : BitVec 1) : Encoding.Statement (.vxorVV d a b km cv) := by
  intro w hw
  have e : w = 0x21#6 ++ d ++ a ++ b ++ km ++ 0xA#4 ++ cv := (Option.some.inj hw).symm
  have h26_6 : fld w 26 6 = 0x21#6 := rd e (hi rfl (hi rfl (hi rfl (hi rfl (hi rfl (hi rfl (whole _)))))))
  have h1_4 : fld w 1 4 = 0xA#4 := rd e (hi rfl (lo rfl (whole _)))
  have h20_6 : fld w 20 6 = d := rd e (hi rfl (hi rfl (hi rfl (hi rfl (hi rfl (lo rfl (whole _)))))))
  have h14_6 : fld w 14 6 = a := rd e (hi rfl (hi rfl (hi rfl (hi rfl (lo rfl (whole _))))))
  have h8_6 : fld w 8 6 = b := rd e (hi rfl (hi rfl (hi rfl (lo rfl (whole _)))))
  have h5_3 : fld w 5 3 = km := rd e (hi rfl (hi rfl (lo rfl (whole _))))
  have h0_1 : fld w 0 1 = cv := rd e (lo rfl (whole _))
  exact ⟨.vxorVV, (select21 h26_6).trans (by delta decodeMajor21; rw [h1_4]; rfl), by show Instr.vxorVV _ _ _ _ _ = _; rw [h20_6, h14_6, h8_6, h5_3, h0_1], rfl⟩

theorem Encoding.vsllVV (d a b : BitVec 6) (km : BitVec 3) (cv : BitVec 1) : Encoding.Statement (.vsllVV d a b km cv) := by
  intro w hw
  have e : w = 0x21#6 ++ d ++ a ++ b ++ km ++ 0xB#4 ++ cv := (Option.some.inj hw).symm
  have h26_6 : fld w 26 6 = 0x21#6 := rd e (hi rfl (hi rfl (hi rfl (hi rfl (hi rfl (hi rfl (whole _)))))))
  have h1_4 : fld w 1 4 = 0xB#4 := rd e (hi rfl (lo rfl (whole _)))
  have h20_6 : fld w 20 6 = d := rd e (hi rfl (hi rfl (hi rfl (hi rfl (hi rfl (lo rfl (whole _)))))))
  have h14_6 : fld w 14 6 = a := rd e (hi rfl (hi rfl (hi rfl (hi rfl (lo rfl (whole _))))))
  have h8_6 : fld w 8 6 = b := rd e (hi rfl (hi rfl (hi rfl (lo rfl (whole _)))))
  have h5_3 : fld w 5 3 = km := rd e (hi rfl (hi rfl (lo rfl (whole _))))
  have h0_1 : fld w 0 1 = cv := rd e (lo rfl (whole _))
  exact ⟨.vsllVV, (select21 h26_6).trans (by delta decodeMajor21; rw [h1_4]; rfl), by show Instr.vsllVV _ _ _ _ _ = _; rw [h20_6, h14_6, h8_6, h5_3, h0_1], rfl⟩

theorem Encoding.vsrlVV (d a b : BitVec 6) (km : BitVec 3) (cv : BitVec 1) : Encoding.Statement (.vsrlVV d a b km cv) := by
  intro w hw
  have e : w = 0x21#6 ++ d ++ a ++ b ++ km ++ 0xC#4 ++ cv := (Option.some.inj hw).symm
  have h26_6 : fld w 26 6 = 0x21#6 := rd e (hi rfl (hi rfl (hi rfl (hi rfl (hi rfl (hi rfl (whole _)))))))
  have h1_4 : fld w 1 4 = 0xC#4 := rd e (hi rfl (lo rfl (whole _)))
  have h20_6 : fld w 20 6 = d := rd e (hi rfl (hi rfl (hi rfl (hi rfl (hi rfl (lo rfl (whole _)))))))
  have h14_6 : fld w 14 6 = a := rd e (hi rfl (hi rfl (hi rfl (hi rfl (lo rfl (whole _))))))
  have h8_6 : fld w 8 6 = b := rd e (hi rfl (hi rfl (hi rfl (lo rfl (whole _)))))
  have h5_3 : fld w 5 3 = km := rd e (hi rfl (hi rfl (lo rfl (whole _))))
  have h0_1 : fld w 0 1 = cv := rd e (lo rfl (whole _))
  exact ⟨.vsrlVV, (select21 h26_6).trans (by delta decodeMajor21; rw [h1_4]; rfl), by show Instr.vsrlVV _ _ _ _ _ = _; rw [h20_6, h14_6, h8_6, h5_3, h0_1], rfl⟩

theorem Encoding.vsraVV (d a b : BitVec 6) (km : BitVec 3) (cv : BitVec 1) : Encoding.Statement (.vsraVV d a b km cv) := by
  intro w hw
  have e : w = 0x21#6 ++ d ++ a ++ b ++ km ++ 0xD#4 ++ cv := (Option.some.inj hw).symm
  have h26_6 : fld w 26 6 = 0x21#6 := rd e (hi rfl (hi rfl (hi rfl (hi rfl (hi rfl (hi rfl (whole _)))))))
  have h1_4 : fld w 1 4 = 0xD#4 := rd e (hi rfl (lo rfl (whole _)))
  have h20_6 : fld w 20 6 = d := rd e (hi rfl (hi rfl (hi rfl (hi rfl (hi rfl (lo rfl (whole _)))))))
  have h14_6 : fld w 14 6 = a := rd e (hi rfl (hi rfl (hi rfl (hi rfl (lo rfl (whole _))))))
  have h8_6 : fld w 8 6 = b := rd e (hi rfl (hi rfl (hi rfl (lo rfl (whole _)))))
  have h5_3 : fld w 5 3 = km := rd e (hi rfl (hi rfl (lo rfl (whole _))))
  have h0_1 : fld w 0 1 = cv := rd e (lo rfl (whole _))
  exact ⟨.vsraVV, (select21 h26_6).trans (by delta decodeMajor21; rw [h1_4]; rfl), by show Instr.vsraVV _ _ _ _ _ = _; rw [h20_6, h14_6, h8_6, h5_3, h0_1], rfl⟩

theorem Encoding.vsaddVV (d a b : BitVec 6) (km : BitVec 3) (cv : BitVec 1) : Encoding.Statement (.vsaddVV d a b km cv) := by
  intro w hw
  have e : w = 0x21#6 ++ d ++ a ++ b ++ km ++ 0xE#4 ++ cv := (Option.some.inj hw).symm
  have h26_6 : fld w 26 6 = 0x21#6 := rd e (hi rfl (hi rfl (hi rfl (hi rfl (hi rfl (hi rfl (whole _)))))))
  have h1_4 : fld w 1 4 = 0xE#4 := rd e (hi rfl (lo rfl (whole _)))
  have h20_6 : fld w 20 6 = d := rd e (hi rfl (hi rfl (hi rfl (hi rfl (hi rfl (lo rfl (whole _)))))))
  have h14_6 : fld w 14 6 = a := rd e (hi rfl (hi rfl (hi rfl (hi rfl (lo rfl (whole _))))))
  have h8_6 : fld w 8 6 = b := rd e (hi rfl (hi rfl (hi rfl (lo rfl (whole _)))))
  have h5_3 : fld w 5 3 = km := rd e (hi rfl (hi rfl (lo rfl (whole _))))
  have h0_1 : fld w 0 1 = cv := rd e (lo rfl (whole _))
  exact ⟨.vsaddVV, (select21 h26_6).trans (by delta decodeMajor21; rw [h1_4]; rfl), by show Instr.vsaddVV _ _ _ _ _ = _; rw [h20_6, h14_6, h8_6, h5_3, h0_1], rfl⟩

theorem Encoding.vssubVV (d a b : BitVec 6) (km : BitVec 3) (cv : BitVec 1) : Encoding.Statement (.vssubVV d a b km cv) := by
  intro w hw
  have e : w = 0x21#6 ++ d ++ a ++ b ++ km ++ 0xF#4 ++ cv := (Option.some.inj hw).symm
  have h26_6 : fld w 26 6 = 0x21#6 := rd e (hi rfl (hi rfl (hi rfl (hi rfl (hi rfl (hi rfl (whole _)))))))
  have h1_4 : fld w 1 4 = 0xF#4 := rd e (hi rfl (lo rfl (whole _)))
  have h20_6 : fld w 20 6 = d := rd e (hi rfl (hi rfl (hi rfl (hi rfl (hi rfl (lo rfl (whole _)))))))
  have h14_6 : fld w 14 6 = a := rd e (hi rfl (hi rfl (hi rfl (hi rfl (lo rfl (whole _))))))
  have h8_6 : fld w 8 6 = b := rd e (hi rfl (hi rfl (hi rfl (lo rfl (whole _)))))
  have h5_3 : fld w 5 3 = km := rd e (hi rfl (hi rfl (lo rfl (whole _))))
  have h0_1 : fld w 0 1 = cv := rd e (lo rfl (whole _))
  exact ⟨.vssubVV, (select21 h26_6).trans (by delta decodeMajor21; rw [h1_4]; rfl), by show Instr.vssubVV _ _ _ _ _ = _; rw [h20_6, h14_6, h8_6, h5_3, h0_1], rfl⟩

theorem Encoding.vaddVS (d a : BitVec 6) (b : BitVec 5) (km : BitVec 3) (cv : BitVec 1) : Encoding.Statement (.vaddVS d a b km cv) := by
  intro w hw
  have e : w = 0x22#6 ++ d ++ a ++ b ++ 0x0#1 ++ km ++ 0x0#4 ++ cv := (Option.some.inj hw).symm
  have h26_6 : fld w 26 6 = 0x22#6 := rd e (hi rfl (hi rfl (hi rfl (hi rfl (hi rfl (hi rfl (hi rfl (whole _))))))))
  have h8_1 : fld w 8 1 = 0x0#1 := rd e (hi rfl (hi rfl (hi rfl (lo rfl (whole _)))))
  have h1_4 : fld w 1 4 = 0x0#4 := rd e (hi rfl (lo rfl (whole _)))
  have h20_6 : fld w 20 6 = d := rd e (hi rfl (hi rfl (hi rfl (hi rfl (hi rfl (hi rfl (lo rfl (whole _))))))))
  have h14_6 : fld w 14 6 = a := rd e (hi rfl (hi rfl (hi rfl (hi rfl (hi rfl (lo rfl (whole _)))))))
  have h9_5 : fld w 9 5 = b := rd e (hi rfl (hi rfl (hi rfl (hi rfl (lo rfl (whole _))))))
  have h5_3 : fld w 5 3 = km := rd e (hi rfl (hi rfl (lo rfl (whole _))))
  have h0_1 : fld w 0 1 = cv := rd e (lo rfl (whole _))
  exact ⟨.vaddVS, (select22 h26_6).trans (by delta decodeMajor22; rw [h8_1, h1_4]; rfl), by show Instr.vaddVS _ _ _ _ _ = _; rw [h20_6, h14_6, h9_5, h5_3, h0_1], rfl⟩

theorem Encoding.vsubVS (d a : BitVec 6) (b : BitVec 5) (km : BitVec 3) (cv : BitVec 1) : Encoding.Statement (.vsubVS d a b km cv) := by
  intro w hw
  have e : w = 0x22#6 ++ d ++ a ++ b ++ 0x0#1 ++ km ++ 0x1#4 ++ cv := (Option.some.inj hw).symm
  have h26_6 : fld w 26 6 = 0x22#6 := rd e (hi rfl (hi rfl (hi rfl (hi rfl (hi rfl (hi rfl (hi rfl (whole _))))))))
  have h8_1 : fld w 8 1 = 0x0#1 := rd e (hi rfl (hi rfl (hi rfl (lo rfl (whole _)))))
  have h1_4 : fld w 1 4 = 0x1#4 := rd e (hi rfl (lo rfl (whole _)))
  have h20_6 : fld w 20 6 = d := rd e (hi rfl (hi rfl (hi rfl (hi rfl (hi rfl (hi rfl (lo rfl (whole _))))))))
  have h14_6 : fld w 14 6 = a := rd e (hi rfl (hi rfl (hi rfl (hi rfl (hi rfl (lo rfl (whole _)))))))
  have h9_5 : fld w 9 5 = b := rd e (hi rfl (hi rfl (hi rfl (hi rfl (lo rfl (whole _))))))
  have h5_3 : fld w 5 3 = km := rd e (hi rfl (hi rfl (lo rfl (whole _))))
  have h0_1 : fld w 0 1 = cv := rd e (lo rfl (whole _))
  exact ⟨.vsubVS, (select22 h26_6).trans (by delta decodeMajor22; rw [h8_1, h1_4]; rfl), by show Instr.vsubVS _ _ _ _ _ = _; rw [h20_6, h14_6, h9_5, h5_3, h0_1], rfl⟩

theorem Encoding.vmulVS (d a : BitVec 6) (b : BitVec 5) (km : BitVec 3) (cv : BitVec 1) : Encoding.Statement (.vmulVS d a b km cv) := by
  intro w hw
  have e : w = 0x22#6 ++ d ++ a ++ b ++ 0x0#1 ++ km ++ 0x2#4 ++ cv := (Option.some.inj hw).symm
  have h26_6 : fld w 26 6 = 0x22#6 := rd e (hi rfl (hi rfl (hi rfl (hi rfl (hi rfl (hi rfl (hi rfl (whole _))))))))
  have h8_1 : fld w 8 1 = 0x0#1 := rd e (hi rfl (hi rfl (hi rfl (lo rfl (whole _)))))
  have h1_4 : fld w 1 4 = 0x2#4 := rd e (hi rfl (lo rfl (whole _)))
  have h20_6 : fld w 20 6 = d := rd e (hi rfl (hi rfl (hi rfl (hi rfl (hi rfl (hi rfl (lo rfl (whole _))))))))
  have h14_6 : fld w 14 6 = a := rd e (hi rfl (hi rfl (hi rfl (hi rfl (hi rfl (lo rfl (whole _)))))))
  have h9_5 : fld w 9 5 = b := rd e (hi rfl (hi rfl (hi rfl (hi rfl (lo rfl (whole _))))))
  have h5_3 : fld w 5 3 = km := rd e (hi rfl (hi rfl (lo rfl (whole _))))
  have h0_1 : fld w 0 1 = cv := rd e (lo rfl (whole _))
  exact ⟨.vmulVS, (select22 h26_6).trans (by delta decodeMajor22; rw [h8_1, h1_4]; rfl), by show Instr.vmulVS _ _ _ _ _ = _; rw [h20_6, h14_6, h9_5, h5_3, h0_1], rfl⟩

theorem Encoding.vmulhVS (d a : BitVec 6) (b : BitVec 5) (km : BitVec 3) (cv : BitVec 1) : Encoding.Statement (.vmulhVS d a b km cv) := by
  intro w hw
  have e : w = 0x22#6 ++ d ++ a ++ b ++ 0x0#1 ++ km ++ 0x3#4 ++ cv := (Option.some.inj hw).symm
  have h26_6 : fld w 26 6 = 0x22#6 := rd e (hi rfl (hi rfl (hi rfl (hi rfl (hi rfl (hi rfl (hi rfl (whole _))))))))
  have h8_1 : fld w 8 1 = 0x0#1 := rd e (hi rfl (hi rfl (hi rfl (lo rfl (whole _)))))
  have h1_4 : fld w 1 4 = 0x3#4 := rd e (hi rfl (lo rfl (whole _)))
  have h20_6 : fld w 20 6 = d := rd e (hi rfl (hi rfl (hi rfl (hi rfl (hi rfl (hi rfl (lo rfl (whole _))))))))
  have h14_6 : fld w 14 6 = a := rd e (hi rfl (hi rfl (hi rfl (hi rfl (hi rfl (lo rfl (whole _)))))))
  have h9_5 : fld w 9 5 = b := rd e (hi rfl (hi rfl (hi rfl (hi rfl (lo rfl (whole _))))))
  have h5_3 : fld w 5 3 = km := rd e (hi rfl (hi rfl (lo rfl (whole _))))
  have h0_1 : fld w 0 1 = cv := rd e (lo rfl (whole _))
  exact ⟨.vmulhVS, (select22 h26_6).trans (by delta decodeMajor22; rw [h8_1, h1_4]; rfl), by show Instr.vmulhVS _ _ _ _ _ = _; rw [h20_6, h14_6, h9_5, h5_3, h0_1], rfl⟩

theorem Encoding.vdivVS (d a : BitVec 6) (b : BitVec 5) (km : BitVec 3) (cv : BitVec 1) : Encoding.Statement (.vdivVS d a b km cv) := by
  intro w hw
  have e : w = 0x22#6 ++ d ++ a ++ b ++ 0x0#1 ++ km ++ 0x4#4 ++ cv := (Option.some.inj hw).symm
  have h26_6 : fld w 26 6 = 0x22#6 := rd e (hi rfl (hi rfl (hi rfl (hi rfl (hi rfl (hi rfl (hi rfl (whole _))))))))
  have h8_1 : fld w 8 1 = 0x0#1 := rd e (hi rfl (hi rfl (hi rfl (lo rfl (whole _)))))
  have h1_4 : fld w 1 4 = 0x4#4 := rd e (hi rfl (lo rfl (whole _)))
  have h20_6 : fld w 20 6 = d := rd e (hi rfl (hi rfl (hi rfl (hi rfl (hi rfl (hi rfl (lo rfl (whole _))))))))
  have h14_6 : fld w 14 6 = a := rd e (hi rfl (hi rfl (hi rfl (hi rfl (hi rfl (lo rfl (whole _)))))))
  have h9_5 : fld w 9 5 = b := rd e (hi rfl (hi rfl (hi rfl (hi rfl (lo rfl (whole _))))))
  have h5_3 : fld w 5 3 = km := rd e (hi rfl (hi rfl (lo rfl (whole _))))
  have h0_1 : fld w 0 1 = cv := rd e (lo rfl (whole _))
  exact ⟨.vdivVS, (select22 h26_6).trans (by delta decodeMajor22; rw [h8_1, h1_4]; rfl), by show Instr.vdivVS _ _ _ _ _ = _; rw [h20_6, h14_6, h9_5, h5_3, h0_1], rfl⟩

theorem Encoding.vremVS (d a : BitVec 6) (b : BitVec 5) (km : BitVec 3) (cv : BitVec 1) : Encoding.Statement (.vremVS d a b km cv) := by
  intro w hw
  have e : w = 0x22#6 ++ d ++ a ++ b ++ 0x0#1 ++ km ++ 0x5#4 ++ cv := (Option.some.inj hw).symm
  have h26_6 : fld w 26 6 = 0x22#6 := rd e (hi rfl (hi rfl (hi rfl (hi rfl (hi rfl (hi rfl (hi rfl (whole _))))))))
  have h8_1 : fld w 8 1 = 0x0#1 := rd e (hi rfl (hi rfl (hi rfl (lo rfl (whole _)))))
  have h1_4 : fld w 1 4 = 0x5#4 := rd e (hi rfl (lo rfl (whole _)))
  have h20_6 : fld w 20 6 = d := rd e (hi rfl (hi rfl (hi rfl (hi rfl (hi rfl (hi rfl (lo rfl (whole _))))))))
  have h14_6 : fld w 14 6 = a := rd e (hi rfl (hi rfl (hi rfl (hi rfl (hi rfl (lo rfl (whole _)))))))
  have h9_5 : fld w 9 5 = b := rd e (hi rfl (hi rfl (hi rfl (hi rfl (lo rfl (whole _))))))
  have h5_3 : fld w 5 3 = km := rd e (hi rfl (hi rfl (lo rfl (whole _))))
  have h0_1 : fld w 0 1 = cv := rd e (lo rfl (whole _))
  exact ⟨.vremVS, (select22 h26_6).trans (by delta decodeMajor22; rw [h8_1, h1_4]; rfl), by show Instr.vremVS _ _ _ _ _ = _; rw [h20_6, h14_6, h9_5, h5_3, h0_1], rfl⟩

theorem Encoding.vminVS (d a : BitVec 6) (b : BitVec 5) (km : BitVec 3) (cv : BitVec 1) : Encoding.Statement (.vminVS d a b km cv) := by
  intro w hw
  have e : w = 0x22#6 ++ d ++ a ++ b ++ 0x0#1 ++ km ++ 0x6#4 ++ cv := (Option.some.inj hw).symm
  have h26_6 : fld w 26 6 = 0x22#6 := rd e (hi rfl (hi rfl (hi rfl (hi rfl (hi rfl (hi rfl (hi rfl (whole _))))))))
  have h8_1 : fld w 8 1 = 0x0#1 := rd e (hi rfl (hi rfl (hi rfl (lo rfl (whole _)))))
  have h1_4 : fld w 1 4 = 0x6#4 := rd e (hi rfl (lo rfl (whole _)))
  have h20_6 : fld w 20 6 = d := rd e (hi rfl (hi rfl (hi rfl (hi rfl (hi rfl (hi rfl (lo rfl (whole _))))))))
  have h14_6 : fld w 14 6 = a := rd e (hi rfl (hi rfl (hi rfl (hi rfl (hi rfl (lo rfl (whole _)))))))
  have h9_5 : fld w 9 5 = b := rd e (hi rfl (hi rfl (hi rfl (hi rfl (lo rfl (whole _))))))
  have h5_3 : fld w 5 3 = km := rd e (hi rfl (hi rfl (lo rfl (whole _))))
  have h0_1 : fld w 0 1 = cv := rd e (lo rfl (whole _))
  exact ⟨.vminVS, (select22 h26_6).trans (by delta decodeMajor22; rw [h8_1, h1_4]; rfl), by show Instr.vminVS _ _ _ _ _ = _; rw [h20_6, h14_6, h9_5, h5_3, h0_1], rfl⟩

theorem Encoding.vmaxVS (d a : BitVec 6) (b : BitVec 5) (km : BitVec 3) (cv : BitVec 1) : Encoding.Statement (.vmaxVS d a b km cv) := by
  intro w hw
  have e : w = 0x22#6 ++ d ++ a ++ b ++ 0x0#1 ++ km ++ 0x7#4 ++ cv := (Option.some.inj hw).symm
  have h26_6 : fld w 26 6 = 0x22#6 := rd e (hi rfl (hi rfl (hi rfl (hi rfl (hi rfl (hi rfl (hi rfl (whole _))))))))
  have h8_1 : fld w 8 1 = 0x0#1 := rd e (hi rfl (hi rfl (hi rfl (lo rfl (whole _)))))
  have h1_4 : fld w 1 4 = 0x7#4 := rd e (hi rfl (lo rfl (whole _)))
  have h20_6 : fld w 20 6 = d := rd e (hi rfl (hi rfl (hi rfl (hi rfl (hi rfl (hi rfl (lo rfl (whole _))))))))
  have h14_6 : fld w 14 6 = a := rd e (hi rfl (hi rfl (hi rfl (hi rfl (hi rfl (lo rfl (whole _)))))))
  have h9_5 : fld w 9 5 = b := rd e (hi rfl (hi rfl (hi rfl (hi rfl (lo rfl (whole _))))))
  have h5_3 : fld w 5 3 = km := rd e (hi rfl (hi rfl (lo rfl (whole _))))
  have h0_1 : fld w 0 1 = cv := rd e (lo rfl (whole _))
  exact ⟨.vmaxVS, (select22 h26_6).trans (by delta decodeMajor22; rw [h8_1, h1_4]; rfl), by show Instr.vmaxVS _ _ _ _ _ = _; rw [h20_6, h14_6, h9_5, h5_3, h0_1], rfl⟩

theorem Encoding.vandVS (d a : BitVec 6) (b : BitVec 5) (km : BitVec 3) (cv : BitVec 1) : Encoding.Statement (.vandVS d a b km cv) := by
  intro w hw
  have e : w = 0x22#6 ++ d ++ a ++ b ++ 0x0#1 ++ km ++ 0x8#4 ++ cv := (Option.some.inj hw).symm
  have h26_6 : fld w 26 6 = 0x22#6 := rd e (hi rfl (hi rfl (hi rfl (hi rfl (hi rfl (hi rfl (hi rfl (whole _))))))))
  have h8_1 : fld w 8 1 = 0x0#1 := rd e (hi rfl (hi rfl (hi rfl (lo rfl (whole _)))))
  have h1_4 : fld w 1 4 = 0x8#4 := rd e (hi rfl (lo rfl (whole _)))
  have h20_6 : fld w 20 6 = d := rd e (hi rfl (hi rfl (hi rfl (hi rfl (hi rfl (hi rfl (lo rfl (whole _))))))))
  have h14_6 : fld w 14 6 = a := rd e (hi rfl (hi rfl (hi rfl (hi rfl (hi rfl (lo rfl (whole _)))))))
  have h9_5 : fld w 9 5 = b := rd e (hi rfl (hi rfl (hi rfl (hi rfl (lo rfl (whole _))))))
  have h5_3 : fld w 5 3 = km := rd e (hi rfl (hi rfl (lo rfl (whole _))))
  have h0_1 : fld w 0 1 = cv := rd e (lo rfl (whole _))
  exact ⟨.vandVS, (select22 h26_6).trans (by delta decodeMajor22; rw [h8_1, h1_4]; rfl), by show Instr.vandVS _ _ _ _ _ = _; rw [h20_6, h14_6, h9_5, h5_3, h0_1], rfl⟩

theorem Encoding.vorVS (d a : BitVec 6) (b : BitVec 5) (km : BitVec 3) (cv : BitVec 1) : Encoding.Statement (.vorVS d a b km cv) := by
  intro w hw
  have e : w = 0x22#6 ++ d ++ a ++ b ++ 0x0#1 ++ km ++ 0x9#4 ++ cv := (Option.some.inj hw).symm
  have h26_6 : fld w 26 6 = 0x22#6 := rd e (hi rfl (hi rfl (hi rfl (hi rfl (hi rfl (hi rfl (hi rfl (whole _))))))))
  have h8_1 : fld w 8 1 = 0x0#1 := rd e (hi rfl (hi rfl (hi rfl (lo rfl (whole _)))))
  have h1_4 : fld w 1 4 = 0x9#4 := rd e (hi rfl (lo rfl (whole _)))
  have h20_6 : fld w 20 6 = d := rd e (hi rfl (hi rfl (hi rfl (hi rfl (hi rfl (hi rfl (lo rfl (whole _))))))))
  have h14_6 : fld w 14 6 = a := rd e (hi rfl (hi rfl (hi rfl (hi rfl (hi rfl (lo rfl (whole _)))))))
  have h9_5 : fld w 9 5 = b := rd e (hi rfl (hi rfl (hi rfl (hi rfl (lo rfl (whole _))))))
  have h5_3 : fld w 5 3 = km := rd e (hi rfl (hi rfl (lo rfl (whole _))))
  have h0_1 : fld w 0 1 = cv := rd e (lo rfl (whole _))
  exact ⟨.vorVS, (select22 h26_6).trans (by delta decodeMajor22; rw [h8_1, h1_4]; rfl), by show Instr.vorVS _ _ _ _ _ = _; rw [h20_6, h14_6, h9_5, h5_3, h0_1], rfl⟩

theorem Encoding.vxorVS (d a : BitVec 6) (b : BitVec 5) (km : BitVec 3) (cv : BitVec 1) : Encoding.Statement (.vxorVS d a b km cv) := by
  intro w hw
  have e : w = 0x22#6 ++ d ++ a ++ b ++ 0x0#1 ++ km ++ 0xA#4 ++ cv := (Option.some.inj hw).symm
  have h26_6 : fld w 26 6 = 0x22#6 := rd e (hi rfl (hi rfl (hi rfl (hi rfl (hi rfl (hi rfl (hi rfl (whole _))))))))
  have h8_1 : fld w 8 1 = 0x0#1 := rd e (hi rfl (hi rfl (hi rfl (lo rfl (whole _)))))
  have h1_4 : fld w 1 4 = 0xA#4 := rd e (hi rfl (lo rfl (whole _)))
  have h20_6 : fld w 20 6 = d := rd e (hi rfl (hi rfl (hi rfl (hi rfl (hi rfl (hi rfl (lo rfl (whole _))))))))
  have h14_6 : fld w 14 6 = a := rd e (hi rfl (hi rfl (hi rfl (hi rfl (hi rfl (lo rfl (whole _)))))))
  have h9_5 : fld w 9 5 = b := rd e (hi rfl (hi rfl (hi rfl (hi rfl (lo rfl (whole _))))))
  have h5_3 : fld w 5 3 = km := rd e (hi rfl (hi rfl (lo rfl (whole _))))
  have h0_1 : fld w 0 1 = cv := rd e (lo rfl (whole _))
  exact ⟨.vxorVS, (select22 h26_6).trans (by delta decodeMajor22; rw [h8_1, h1_4]; rfl), by show Instr.vxorVS _ _ _ _ _ = _; rw [h20_6, h14_6, h9_5, h5_3, h0_1], rfl⟩

theorem Encoding.vsllVS (d a : BitVec 6) (b : BitVec 5) (km : BitVec 3) (cv : BitVec 1) : Encoding.Statement (.vsllVS d a b km cv) := by
  intro w hw
  have e : w = 0x22#6 ++ d ++ a ++ b ++ 0x0#1 ++ km ++ 0xB#4 ++ cv := (Option.some.inj hw).symm
  have h26_6 : fld w 26 6 = 0x22#6 := rd e (hi rfl (hi rfl (hi rfl (hi rfl (hi rfl (hi rfl (hi rfl (whole _))))))))
  have h8_1 : fld w 8 1 = 0x0#1 := rd e (hi rfl (hi rfl (hi rfl (lo rfl (whole _)))))
  have h1_4 : fld w 1 4 = 0xB#4 := rd e (hi rfl (lo rfl (whole _)))
  have h20_6 : fld w 20 6 = d := rd e (hi rfl (hi rfl (hi rfl (hi rfl (hi rfl (hi rfl (lo rfl (whole _))))))))
  have h14_6 : fld w 14 6 = a := rd e (hi rfl (hi rfl (hi rfl (hi rfl (hi rfl (lo rfl (whole _)))))))
  have h9_5 : fld w 9 5 = b := rd e (hi rfl (hi rfl (hi rfl (hi rfl (lo rfl (whole _))))))
  have h5_3 : fld w 5 3 = km := rd e (hi rfl (hi rfl (lo rfl (whole _))))
  have h0_1 : fld w 0 1 = cv := rd e (lo rfl (whole _))
  exact ⟨.vsllVS, (select22 h26_6).trans (by delta decodeMajor22; rw [h8_1, h1_4]; rfl), by show Instr.vsllVS _ _ _ _ _ = _; rw [h20_6, h14_6, h9_5, h5_3, h0_1], rfl⟩

theorem Encoding.vsrlVS (d a : BitVec 6) (b : BitVec 5) (km : BitVec 3) (cv : BitVec 1) : Encoding.Statement (.vsrlVS d a b km cv) := by
  intro w hw
  have e : w = 0x22#6 ++ d ++ a ++ b ++ 0x0#1 ++ km ++ 0xC#4 ++ cv := (Option.some.inj hw).symm
  have h26_6 : fld w 26 6 = 0x22#6 := rd e (hi rfl (hi rfl (hi rfl (hi rfl (hi rfl (hi rfl (hi rfl (whole _))))))))
  have h8_1 : fld w 8 1 = 0x0#1 := rd e (hi rfl (hi rfl (hi rfl (lo rfl (whole _)))))
  have h1_4 : fld w 1 4 = 0xC#4 := rd e (hi rfl (lo rfl (whole _)))
  have h20_6 : fld w 20 6 = d := rd e (hi rfl (hi rfl (hi rfl (hi rfl (hi rfl (hi rfl (lo rfl (whole _))))))))
  have h14_6 : fld w 14 6 = a := rd e (hi rfl (hi rfl (hi rfl (hi rfl (hi rfl (lo rfl (whole _)))))))
  have h9_5 : fld w 9 5 = b := rd e (hi rfl (hi rfl (hi rfl (hi rfl (lo rfl (whole _))))))
  have h5_3 : fld w 5 3 = km := rd e (hi rfl (hi rfl (lo rfl (whole _))))
  have h0_1 : fld w 0 1 = cv := rd e (lo rfl (whole _))
  exact ⟨.vsrlVS, (select22 h26_6).trans (by delta decodeMajor22; rw [h8_1, h1_4]; rfl), by show Instr.vsrlVS _ _ _ _ _ = _; rw [h20_6, h14_6, h9_5, h5_3, h0_1], rfl⟩

theorem Encoding.vsraVS (d a : BitVec 6) (b : BitVec 5) (km : BitVec 3) (cv : BitVec 1) : Encoding.Statement (.vsraVS d a b km cv) := by
  intro w hw
  have e : w = 0x22#6 ++ d ++ a ++ b ++ 0x0#1 ++ km ++ 0xD#4 ++ cv := (Option.some.inj hw).symm
  have h26_6 : fld w 26 6 = 0x22#6 := rd e (hi rfl (hi rfl (hi rfl (hi rfl (hi rfl (hi rfl (hi rfl (whole _))))))))
  have h8_1 : fld w 8 1 = 0x0#1 := rd e (hi rfl (hi rfl (hi rfl (lo rfl (whole _)))))
  have h1_4 : fld w 1 4 = 0xD#4 := rd e (hi rfl (lo rfl (whole _)))
  have h20_6 : fld w 20 6 = d := rd e (hi rfl (hi rfl (hi rfl (hi rfl (hi rfl (hi rfl (lo rfl (whole _))))))))
  have h14_6 : fld w 14 6 = a := rd e (hi rfl (hi rfl (hi rfl (hi rfl (hi rfl (lo rfl (whole _)))))))
  have h9_5 : fld w 9 5 = b := rd e (hi rfl (hi rfl (hi rfl (hi rfl (lo rfl (whole _))))))
  have h5_3 : fld w 5 3 = km := rd e (hi rfl (hi rfl (lo rfl (whole _))))
  have h0_1 : fld w 0 1 = cv := rd e (lo rfl (whole _))
  exact ⟨.vsraVS, (select22 h26_6).trans (by delta decodeMajor22; rw [h8_1, h1_4]; rfl), by show Instr.vsraVS _ _ _ _ _ = _; rw [h20_6, h14_6, h9_5, h5_3, h0_1], rfl⟩

theorem Encoding.vsaddVS (d a : BitVec 6) (b : BitVec 5) (km : BitVec 3) (cv : BitVec 1) : Encoding.Statement (.vsaddVS d a b km cv) := by
  intro w hw
  have e : w = 0x22#6 ++ d ++ a ++ b ++ 0x0#1 ++ km ++ 0xE#4 ++ cv := (Option.some.inj hw).symm
  have h26_6 : fld w 26 6 = 0x22#6 := rd e (hi rfl (hi rfl (hi rfl (hi rfl (hi rfl (hi rfl (hi rfl (whole _))))))))
  have h8_1 : fld w 8 1 = 0x0#1 := rd e (hi rfl (hi rfl (hi rfl (lo rfl (whole _)))))
  have h1_4 : fld w 1 4 = 0xE#4 := rd e (hi rfl (lo rfl (whole _)))
  have h20_6 : fld w 20 6 = d := rd e (hi rfl (hi rfl (hi rfl (hi rfl (hi rfl (hi rfl (lo rfl (whole _))))))))
  have h14_6 : fld w 14 6 = a := rd e (hi rfl (hi rfl (hi rfl (hi rfl (hi rfl (lo rfl (whole _)))))))
  have h9_5 : fld w 9 5 = b := rd e (hi rfl (hi rfl (hi rfl (hi rfl (lo rfl (whole _))))))
  have h5_3 : fld w 5 3 = km := rd e (hi rfl (hi rfl (lo rfl (whole _))))
  have h0_1 : fld w 0 1 = cv := rd e (lo rfl (whole _))
  exact ⟨.vsaddVS, (select22 h26_6).trans (by delta decodeMajor22; rw [h8_1, h1_4]; rfl), by show Instr.vsaddVS _ _ _ _ _ = _; rw [h20_6, h14_6, h9_5, h5_3, h0_1], rfl⟩

theorem Encoding.vssubVS (d a : BitVec 6) (b : BitVec 5) (km : BitVec 3) (cv : BitVec 1) : Encoding.Statement (.vssubVS d a b km cv) := by
  intro w hw
  have e : w = 0x22#6 ++ d ++ a ++ b ++ 0x0#1 ++ km ++ 0xF#4 ++ cv := (Option.some.inj hw).symm
  have h26_6 : fld w 26 6 = 0x22#6 := rd e (hi rfl (hi rfl (hi rfl (hi rfl (hi rfl (hi rfl (hi rfl (whole _))))))))
  have h8_1 : fld w 8 1 = 0x0#1 := rd e (hi rfl (hi rfl (hi rfl (lo rfl (whole _)))))
  have h1_4 : fld w 1 4 = 0xF#4 := rd e (hi rfl (lo rfl (whole _)))
  have h20_6 : fld w 20 6 = d := rd e (hi rfl (hi rfl (hi rfl (hi rfl (hi rfl (hi rfl (lo rfl (whole _))))))))
  have h14_6 : fld w 14 6 = a := rd e (hi rfl (hi rfl (hi rfl (hi rfl (hi rfl (lo rfl (whole _)))))))
  have h9_5 : fld w 9 5 = b := rd e (hi rfl (hi rfl (hi rfl (hi rfl (lo rfl (whole _))))))
  have h5_3 : fld w 5 3 = km := rd e (hi rfl (hi rfl (lo rfl (whole _))))
  have h0_1 : fld w 0 1 = cv := rd e (lo rfl (whole _))
  exact ⟨.vssubVS, (select22 h26_6).trans (by delta decodeMajor22; rw [h8_1, h1_4]; rfl), by show Instr.vssubVS _ _ _ _ _ = _; rw [h20_6, h14_6, h9_5, h5_3, h0_1], rfl⟩

theorem Encoding.vrsubVS (d a : BitVec 6) (b : BitVec 5) (km : BitVec 3) (cv : BitVec 1) : Encoding.Statement (.vrsubVS d a b km cv) := by
  intro w hw
  have e : w = 0x22#6 ++ d ++ a ++ b ++ 0x1#1 ++ km ++ 0x0#4 ++ cv := (Option.some.inj hw).symm
  have h26_6 : fld w 26 6 = 0x22#6 := rd e (hi rfl (hi rfl (hi rfl (hi rfl (hi rfl (hi rfl (hi rfl (whole _))))))))
  have h8_1 : fld w 8 1 = 0x1#1 := rd e (hi rfl (hi rfl (hi rfl (lo rfl (whole _)))))
  have h1_4 : fld w 1 4 = 0x0#4 := rd e (hi rfl (lo rfl (whole _)))
  have h20_6 : fld w 20 6 = d := rd e (hi rfl (hi rfl (hi rfl (hi rfl (hi rfl (hi rfl (lo rfl (whole _))))))))
  have h14_6 : fld w 14 6 = a := rd e (hi rfl (hi rfl (hi rfl (hi rfl (hi rfl (lo rfl (whole _)))))))
  have h9_5 : fld w 9 5 = b := rd e (hi rfl (hi rfl (hi rfl (hi rfl (lo rfl (whole _))))))
  have h5_3 : fld w 5 3 = km := rd e (hi rfl (hi rfl (lo rfl (whole _))))
  have h0_1 : fld w 0 1 = cv := rd e (lo rfl (whole _))
  exact ⟨.vrsubVS, (select22 h26_6).trans (by delta decodeMajor22; rw [h8_1, h1_4]; rfl), by show Instr.vrsubVS _ _ _ _ _ = _; rw [h20_6, h14_6, h9_5, h5_3, h0_1], rfl⟩

theorem Encoding.vmaddVS (d a : BitVec 6) (b : BitVec 5) (km : BitVec 3) (cv : BitVec 1) : Encoding.Statement (.vmaddVS d a b km cv) := by
  intro w hw
  have e : w = 0x22#6 ++ d ++ a ++ b ++ 0x1#1 ++ km ++ 0x1#4 ++ cv := (Option.some.inj hw).symm
  have h26_6 : fld w 26 6 = 0x22#6 := rd e (hi rfl (hi rfl (hi rfl (hi rfl (hi rfl (hi rfl (hi rfl (whole _))))))))
  have h8_1 : fld w 8 1 = 0x1#1 := rd e (hi rfl (hi rfl (hi rfl (lo rfl (whole _)))))
  have h1_4 : fld w 1 4 = 0x1#4 := rd e (hi rfl (lo rfl (whole _)))
  have h20_6 : fld w 20 6 = d := rd e (hi rfl (hi rfl (hi rfl (hi rfl (hi rfl (hi rfl (lo rfl (whole _))))))))
  have h14_6 : fld w 14 6 = a := rd e (hi rfl (hi rfl (hi rfl (hi rfl (hi rfl (lo rfl (whole _)))))))
  have h9_5 : fld w 9 5 = b := rd e (hi rfl (hi rfl (hi rfl (hi rfl (lo rfl (whole _))))))
  have h5_3 : fld w 5 3 = km := rd e (hi rfl (hi rfl (lo rfl (whole _))))
  have h0_1 : fld w 0 1 = cv := rd e (lo rfl (whole _))
  exact ⟨.vmaddVS, (select22 h26_6).trans (by delta decodeMajor22; rw [h8_1, h1_4]; rfl), by show Instr.vmaddVS _ _ _ _ _ = _; rw [h20_6, h14_6, h9_5, h5_3, h0_1], rfl⟩

theorem Encoding.vmsacVS (d a : BitVec 6) (b : BitVec 5) (km : BitVec 3) (cv : BitVec 1) : Encoding.Statement (.vmsacVS d a b km cv) := by
  intro w hw
  have e : w = 0x22#6 ++ d ++ a ++ b ++ 0x1#1 ++ km ++ 0x2#4 ++ cv := (Option.some.inj hw).symm
  have h26_6 : fld w 26 6 = 0x22#6 := rd e (hi rfl (hi rfl (hi rfl (hi rfl (hi rfl (hi rfl (hi rfl (whole _))))))))
  have h8_1 : fld w 8 1 = 0x1#1 := rd e (hi rfl (hi rfl (hi rfl (lo rfl (whole _)))))
  have h1_4 : fld w 1 4 = 0x2#4 := rd e (hi rfl (lo rfl (whole _)))
  have h20_6 : fld w 20 6 = d := rd e (hi rfl (hi rfl (hi rfl (hi rfl (hi rfl (hi rfl (lo rfl (whole _))))))))
  have h14_6 : fld w 14 6 = a := rd e (hi rfl (hi rfl (hi rfl (hi rfl (hi rfl (lo rfl (whole _)))))))
  have h9_5 : fld w 9 5 = b := rd e (hi rfl (hi rfl (hi rfl (hi rfl (lo rfl (whole _))))))
  have h5_3 : fld w 5 3 = km := rd e (hi rfl (hi rfl (lo rfl (whole _))))
  have h0_1 : fld w 0 1 = cv := rd e (lo rfl (whole _))
  exact ⟨.vmsacVS, (select22 h26_6).trans (by delta decodeMajor22; rw [h8_1, h1_4]; rfl), by show Instr.vmsacVS _ _ _ _ _ = _; rw [h20_6, h14_6, h9_5, h5_3, h0_1], rfl⟩

theorem Encoding.vwaddVS (d a : BitVec 6) (b : BitVec 5) (km : BitVec 3) (cv : BitVec 1) : Encoding.Statement (.vwaddVS d a b km cv) := by
  intro w hw
  have e : w = 0x22#6 ++ d ++ a ++ b ++ 0x1#1 ++ km ++ 0x3#4 ++ cv := (Option.some.inj hw).symm
  have h26_6 : fld w 26 6 = 0x22#6 := rd e (hi rfl (hi rfl (hi rfl (hi rfl (hi rfl (hi rfl (hi rfl (whole _))))))))
  have h8_1 : fld w 8 1 = 0x1#1 := rd e (hi rfl (hi rfl (hi rfl (lo rfl (whole _)))))
  have h1_4 : fld w 1 4 = 0x3#4 := rd e (hi rfl (lo rfl (whole _)))
  have h20_6 : fld w 20 6 = d := rd e (hi rfl (hi rfl (hi rfl (hi rfl (hi rfl (hi rfl (lo rfl (whole _))))))))
  have h14_6 : fld w 14 6 = a := rd e (hi rfl (hi rfl (hi rfl (hi rfl (hi rfl (lo rfl (whole _)))))))
  have h9_5 : fld w 9 5 = b := rd e (hi rfl (hi rfl (hi rfl (hi rfl (lo rfl (whole _))))))
  have h5_3 : fld w 5 3 = km := rd e (hi rfl (hi rfl (lo rfl (whole _))))
  have h0_1 : fld w 0 1 = cv := rd e (lo rfl (whole _))
  exact ⟨.vwaddVS, (select22 h26_6).trans (by delta decodeMajor22; rw [h8_1, h1_4]; rfl), by show Instr.vwaddVS _ _ _ _ _ = _; rw [h20_6, h14_6, h9_5, h5_3, h0_1], rfl⟩

theorem Encoding.vwmulVS (d a : BitVec 6) (b : BitVec 5) (km : BitVec 3) (cv : BitVec 1) : Encoding.Statement (.vwmulVS d a b km cv) := by
  intro w hw
  have e : w = 0x22#6 ++ d ++ a ++ b ++ 0x1#1 ++ km ++ 0x4#4 ++ cv := (Option.some.inj hw).symm
  have h26_6 : fld w 26 6 = 0x22#6 := rd e (hi rfl (hi rfl (hi rfl (hi rfl (hi rfl (hi rfl (hi rfl (whole _))))))))
  have h8_1 : fld w 8 1 = 0x1#1 := rd e (hi rfl (hi rfl (hi rfl (lo rfl (whole _)))))
  have h1_4 : fld w 1 4 = 0x4#4 := rd e (hi rfl (lo rfl (whole _)))
  have h20_6 : fld w 20 6 = d := rd e (hi rfl (hi rfl (hi rfl (hi rfl (hi rfl (hi rfl (lo rfl (whole _))))))))
  have h14_6 : fld w 14 6 = a := rd e (hi rfl (hi rfl (hi rfl (hi rfl (hi rfl (lo rfl (whole _)))))))
  have h9_5 : fld w 9 5 = b := rd e (hi rfl (hi rfl (hi rfl (hi rfl (lo rfl (whole _))))))
  have h5_3 : fld w 5 3 = km := rd e (hi rfl (hi rfl (lo rfl (whole _))))
  have h0_1 : fld w 0 1 = cv := rd e (lo rfl (whole _))
  exact ⟨.vwmulVS, (select22 h26_6).trans (by delta decodeMajor22; rw [h8_1, h1_4]; rfl), by show Instr.vwmulVS _ _ _ _ _ = _; rw [h20_6, h14_6, h9_5, h5_3, h0_1], rfl⟩

theorem Encoding.vaddVI (d a imm : BitVec 6) (km : BitVec 3) (cv : BitVec 1) : Encoding.Statement (.vaddVI d a imm km cv) := by
  intro w hw
  have e : w = 0x23#6 ++ d ++ a ++ imm ++ km ++ 0x0#4 ++ cv := (Option.some.inj hw).symm
  have h26_6 : fld w 26 6 = 0x23#6 := rd e (hi rfl (hi rfl (hi rfl (hi rfl (hi rfl (hi rfl (whole _)))))))
  have h1_4 : fld w 1 4 = 0x0#4 := rd e (hi rfl (lo rfl (whole _)))
  have h20_6 : fld w 20 6 = d := rd e (hi rfl (hi rfl (hi rfl (hi rfl (hi rfl (lo rfl (whole _)))))))
  have h14_6 : fld w 14 6 = a := rd e (hi rfl (hi rfl (hi rfl (hi rfl (lo rfl (whole _))))))
  have h8_6 : fld w 8 6 = imm := rd e (hi rfl (hi rfl (hi rfl (lo rfl (whole _)))))
  have h5_3 : fld w 5 3 = km := rd e (hi rfl (hi rfl (lo rfl (whole _))))
  have h0_1 : fld w 0 1 = cv := rd e (lo rfl (whole _))
  exact ⟨.vaddVI, (select23 h26_6).trans (by delta decodeMajor23; rw [h1_4]; rfl), by show Instr.vaddVI _ _ _ _ _ = _; rw [h20_6, h14_6, h8_6, h5_3, h0_1], rfl⟩

theorem Encoding.vrsubVI (d a imm : BitVec 6) (km : BitVec 3) (cv : BitVec 1) : Encoding.Statement (.vrsubVI d a imm km cv) := by
  intro w hw
  have e : w = 0x23#6 ++ d ++ a ++ imm ++ km ++ 0x1#4 ++ cv := (Option.some.inj hw).symm
  have h26_6 : fld w 26 6 = 0x23#6 := rd e (hi rfl (hi rfl (hi rfl (hi rfl (hi rfl (hi rfl (whole _)))))))
  have h1_4 : fld w 1 4 = 0x1#4 := rd e (hi rfl (lo rfl (whole _)))
  have h20_6 : fld w 20 6 = d := rd e (hi rfl (hi rfl (hi rfl (hi rfl (hi rfl (lo rfl (whole _)))))))
  have h14_6 : fld w 14 6 = a := rd e (hi rfl (hi rfl (hi rfl (hi rfl (lo rfl (whole _))))))
  have h8_6 : fld w 8 6 = imm := rd e (hi rfl (hi rfl (hi rfl (lo rfl (whole _)))))
  have h5_3 : fld w 5 3 = km := rd e (hi rfl (hi rfl (lo rfl (whole _))))
  have h0_1 : fld w 0 1 = cv := rd e (lo rfl (whole _))
  exact ⟨.vrsubVI, (select23 h26_6).trans (by delta decodeMajor23; rw [h1_4]; rfl), by show Instr.vrsubVI _ _ _ _ _ = _; rw [h20_6, h14_6, h8_6, h5_3, h0_1], rfl⟩

theorem Encoding.vandVI (d a imm : BitVec 6) (km : BitVec 3) (cv : BitVec 1) : Encoding.Statement (.vandVI d a imm km cv) := by
  intro w hw
  have e : w = 0x23#6 ++ d ++ a ++ imm ++ km ++ 0x2#4 ++ cv := (Option.some.inj hw).symm
  have h26_6 : fld w 26 6 = 0x23#6 := rd e (hi rfl (hi rfl (hi rfl (hi rfl (hi rfl (hi rfl (whole _)))))))
  have h1_4 : fld w 1 4 = 0x2#4 := rd e (hi rfl (lo rfl (whole _)))
  have h20_6 : fld w 20 6 = d := rd e (hi rfl (hi rfl (hi rfl (hi rfl (hi rfl (lo rfl (whole _)))))))
  have h14_6 : fld w 14 6 = a := rd e (hi rfl (hi rfl (hi rfl (hi rfl (lo rfl (whole _))))))
  have h8_6 : fld w 8 6 = imm := rd e (hi rfl (hi rfl (hi rfl (lo rfl (whole _)))))
  have h5_3 : fld w 5 3 = km := rd e (hi rfl (hi rfl (lo rfl (whole _))))
  have h0_1 : fld w 0 1 = cv := rd e (lo rfl (whole _))
  exact ⟨.vandVI, (select23 h26_6).trans (by delta decodeMajor23; rw [h1_4]; rfl), by show Instr.vandVI _ _ _ _ _ = _; rw [h20_6, h14_6, h8_6, h5_3, h0_1], rfl⟩

theorem Encoding.vorVI (d a imm : BitVec 6) (km : BitVec 3) (cv : BitVec 1) : Encoding.Statement (.vorVI d a imm km cv) := by
  intro w hw
  have e : w = 0x23#6 ++ d ++ a ++ imm ++ km ++ 0x3#4 ++ cv := (Option.some.inj hw).symm
  have h26_6 : fld w 26 6 = 0x23#6 := rd e (hi rfl (hi rfl (hi rfl (hi rfl (hi rfl (hi rfl (whole _)))))))
  have h1_4 : fld w 1 4 = 0x3#4 := rd e (hi rfl (lo rfl (whole _)))
  have h20_6 : fld w 20 6 = d := rd e (hi rfl (hi rfl (hi rfl (hi rfl (hi rfl (lo rfl (whole _)))))))
  have h14_6 : fld w 14 6 = a := rd e (hi rfl (hi rfl (hi rfl (hi rfl (lo rfl (whole _))))))
  have h8_6 : fld w 8 6 = imm := rd e (hi rfl (hi rfl (hi rfl (lo rfl (whole _)))))
  have h5_3 : fld w 5 3 = km := rd e (hi rfl (hi rfl (lo rfl (whole _))))
  have h0_1 : fld w 0 1 = cv := rd e (lo rfl (whole _))
  exact ⟨.vorVI, (select23 h26_6).trans (by delta decodeMajor23; rw [h1_4]; rfl), by show Instr.vorVI _ _ _ _ _ = _; rw [h20_6, h14_6, h8_6, h5_3, h0_1], rfl⟩

theorem Encoding.vxorVI (d a imm : BitVec 6) (km : BitVec 3) (cv : BitVec 1) : Encoding.Statement (.vxorVI d a imm km cv) := by
  intro w hw
  have e : w = 0x23#6 ++ d ++ a ++ imm ++ km ++ 0x4#4 ++ cv := (Option.some.inj hw).symm
  have h26_6 : fld w 26 6 = 0x23#6 := rd e (hi rfl (hi rfl (hi rfl (hi rfl (hi rfl (hi rfl (whole _)))))))
  have h1_4 : fld w 1 4 = 0x4#4 := rd e (hi rfl (lo rfl (whole _)))
  have h20_6 : fld w 20 6 = d := rd e (hi rfl (hi rfl (hi rfl (hi rfl (hi rfl (lo rfl (whole _)))))))
  have h14_6 : fld w 14 6 = a := rd e (hi rfl (hi rfl (hi rfl (hi rfl (lo rfl (whole _))))))
  have h8_6 : fld w 8 6 = imm := rd e (hi rfl (hi rfl (hi rfl (lo rfl (whole _)))))
  have h5_3 : fld w 5 3 = km := rd e (hi rfl (hi rfl (lo rfl (whole _))))
  have h0_1 : fld w 0 1 = cv := rd e (lo rfl (whole _))
  exact ⟨.vxorVI, (select23 h26_6).trans (by delta decodeMajor23; rw [h1_4]; rfl), by show Instr.vxorVI _ _ _ _ _ = _; rw [h20_6, h14_6, h8_6, h5_3, h0_1], rfl⟩

theorem Encoding.vsllVI (d a imm : BitVec 6) (km : BitVec 3) (cv : BitVec 1) : Encoding.Statement (.vsllVI d a imm km cv) := by
  intro w hw
  have e : w = 0x23#6 ++ d ++ a ++ imm ++ km ++ 0x5#4 ++ cv := (Option.some.inj hw).symm
  have h26_6 : fld w 26 6 = 0x23#6 := rd e (hi rfl (hi rfl (hi rfl (hi rfl (hi rfl (hi rfl (whole _)))))))
  have h1_4 : fld w 1 4 = 0x5#4 := rd e (hi rfl (lo rfl (whole _)))
  have h20_6 : fld w 20 6 = d := rd e (hi rfl (hi rfl (hi rfl (hi rfl (hi rfl (lo rfl (whole _)))))))
  have h14_6 : fld w 14 6 = a := rd e (hi rfl (hi rfl (hi rfl (hi rfl (lo rfl (whole _))))))
  have h8_6 : fld w 8 6 = imm := rd e (hi rfl (hi rfl (hi rfl (lo rfl (whole _)))))
  have h5_3 : fld w 5 3 = km := rd e (hi rfl (hi rfl (lo rfl (whole _))))
  have h0_1 : fld w 0 1 = cv := rd e (lo rfl (whole _))
  exact ⟨.vsllVI, (select23 h26_6).trans (by delta decodeMajor23; rw [h1_4]; rfl), by show Instr.vsllVI _ _ _ _ _ = _; rw [h20_6, h14_6, h8_6, h5_3, h0_1], rfl⟩

theorem Encoding.vsrlVI (d a imm : BitVec 6) (km : BitVec 3) (cv : BitVec 1) : Encoding.Statement (.vsrlVI d a imm km cv) := by
  intro w hw
  have e : w = 0x23#6 ++ d ++ a ++ imm ++ km ++ 0x6#4 ++ cv := (Option.some.inj hw).symm
  have h26_6 : fld w 26 6 = 0x23#6 := rd e (hi rfl (hi rfl (hi rfl (hi rfl (hi rfl (hi rfl (whole _)))))))
  have h1_4 : fld w 1 4 = 0x6#4 := rd e (hi rfl (lo rfl (whole _)))
  have h20_6 : fld w 20 6 = d := rd e (hi rfl (hi rfl (hi rfl (hi rfl (hi rfl (lo rfl (whole _)))))))
  have h14_6 : fld w 14 6 = a := rd e (hi rfl (hi rfl (hi rfl (hi rfl (lo rfl (whole _))))))
  have h8_6 : fld w 8 6 = imm := rd e (hi rfl (hi rfl (hi rfl (lo rfl (whole _)))))
  have h5_3 : fld w 5 3 = km := rd e (hi rfl (hi rfl (lo rfl (whole _))))
  have h0_1 : fld w 0 1 = cv := rd e (lo rfl (whole _))
  exact ⟨.vsrlVI, (select23 h26_6).trans (by delta decodeMajor23; rw [h1_4]; rfl), by show Instr.vsrlVI _ _ _ _ _ = _; rw [h20_6, h14_6, h8_6, h5_3, h0_1], rfl⟩

theorem Encoding.vsraVI (d a imm : BitVec 6) (km : BitVec 3) (cv : BitVec 1) : Encoding.Statement (.vsraVI d a imm km cv) := by
  intro w hw
  have e : w = 0x23#6 ++ d ++ a ++ imm ++ km ++ 0x7#4 ++ cv := (Option.some.inj hw).symm
  have h26_6 : fld w 26 6 = 0x23#6 := rd e (hi rfl (hi rfl (hi rfl (hi rfl (hi rfl (hi rfl (whole _)))))))
  have h1_4 : fld w 1 4 = 0x7#4 := rd e (hi rfl (lo rfl (whole _)))
  have h20_6 : fld w 20 6 = d := rd e (hi rfl (hi rfl (hi rfl (hi rfl (hi rfl (lo rfl (whole _)))))))
  have h14_6 : fld w 14 6 = a := rd e (hi rfl (hi rfl (hi rfl (hi rfl (lo rfl (whole _))))))
  have h8_6 : fld w 8 6 = imm := rd e (hi rfl (hi rfl (hi rfl (lo rfl (whole _)))))
  have h5_3 : fld w 5 3 = km := rd e (hi rfl (hi rfl (lo rfl (whole _))))
  have h0_1 : fld w 0 1 = cv := rd e (lo rfl (whole _))
  exact ⟨.vsraVI, (select23 h26_6).trans (by delta decodeMajor23; rw [h1_4]; rfl), by show Instr.vsraVI _ _ _ _ _ = _; rw [h20_6, h14_6, h8_6, h5_3, h0_1], rfl⟩

theorem Encoding.vsaddVI (d a imm : BitVec 6) (km : BitVec 3) (cv : BitVec 1) : Encoding.Statement (.vsaddVI d a imm km cv) := by
  intro w hw
  have e : w = 0x23#6 ++ d ++ a ++ imm ++ km ++ 0x8#4 ++ cv := (Option.some.inj hw).symm
  have h26_6 : fld w 26 6 = 0x23#6 := rd e (hi rfl (hi rfl (hi rfl (hi rfl (hi rfl (hi rfl (whole _)))))))
  have h1_4 : fld w 1 4 = 0x8#4 := rd e (hi rfl (lo rfl (whole _)))
  have h20_6 : fld w 20 6 = d := rd e (hi rfl (hi rfl (hi rfl (hi rfl (hi rfl (lo rfl (whole _)))))))
  have h14_6 : fld w 14 6 = a := rd e (hi rfl (hi rfl (hi rfl (hi rfl (lo rfl (whole _))))))
  have h8_6 : fld w 8 6 = imm := rd e (hi rfl (hi rfl (hi rfl (lo rfl (whole _)))))
  have h5_3 : fld w 5 3 = km := rd e (hi rfl (hi rfl (lo rfl (whole _))))
  have h0_1 : fld w 0 1 = cv := rd e (lo rfl (whole _))
  exact ⟨.vsaddVI, (select23 h26_6).trans (by delta decodeMajor23; rw [h1_4]; rfl), by show Instr.vsaddVI _ _ _ _ _ = _; rw [h20_6, h14_6, h8_6, h5_3, h0_1], rfl⟩

theorem Encoding.vminVI (d a imm : BitVec 6) (km : BitVec 3) (cv : BitVec 1) : Encoding.Statement (.vminVI d a imm km cv) := by
  intro w hw
  have e : w = 0x23#6 ++ d ++ a ++ imm ++ km ++ 0x9#4 ++ cv := (Option.some.inj hw).symm
  have h26_6 : fld w 26 6 = 0x23#6 := rd e (hi rfl (hi rfl (hi rfl (hi rfl (hi rfl (hi rfl (whole _)))))))
  have h1_4 : fld w 1 4 = 0x9#4 := rd e (hi rfl (lo rfl (whole _)))
  have h20_6 : fld w 20 6 = d := rd e (hi rfl (hi rfl (hi rfl (hi rfl (hi rfl (lo rfl (whole _)))))))
  have h14_6 : fld w 14 6 = a := rd e (hi rfl (hi rfl (hi rfl (hi rfl (lo rfl (whole _))))))
  have h8_6 : fld w 8 6 = imm := rd e (hi rfl (hi rfl (hi rfl (lo rfl (whole _)))))
  have h5_3 : fld w 5 3 = km := rd e (hi rfl (hi rfl (lo rfl (whole _))))
  have h0_1 : fld w 0 1 = cv := rd e (lo rfl (whole _))
  exact ⟨.vminVI, (select23 h26_6).trans (by delta decodeMajor23; rw [h1_4]; rfl), by show Instr.vminVI _ _ _ _ _ = _; rw [h20_6, h14_6, h8_6, h5_3, h0_1], rfl⟩

theorem Encoding.vmaxVI (d a imm : BitVec 6) (km : BitVec 3) (cv : BitVec 1) : Encoding.Statement (.vmaxVI d a imm km cv) := by
  intro w hw
  have e : w = 0x23#6 ++ d ++ a ++ imm ++ km ++ 0xA#4 ++ cv := (Option.some.inj hw).symm
  have h26_6 : fld w 26 6 = 0x23#6 := rd e (hi rfl (hi rfl (hi rfl (hi rfl (hi rfl (hi rfl (whole _)))))))
  have h1_4 : fld w 1 4 = 0xA#4 := rd e (hi rfl (lo rfl (whole _)))
  have h20_6 : fld w 20 6 = d := rd e (hi rfl (hi rfl (hi rfl (hi rfl (hi rfl (lo rfl (whole _)))))))
  have h14_6 : fld w 14 6 = a := rd e (hi rfl (hi rfl (hi rfl (hi rfl (lo rfl (whole _))))))
  have h8_6 : fld w 8 6 = imm := rd e (hi rfl (hi rfl (hi rfl (lo rfl (whole _)))))
  have h5_3 : fld w 5 3 = km := rd e (hi rfl (hi rfl (lo rfl (whole _))))
  have h0_1 : fld w 0 1 = cv := rd e (lo rfl (whole _))
  exact ⟨.vmaxVI, (select23 h26_6).trans (by delta decodeMajor23; rw [h1_4]; rfl), by show Instr.vmaxVI _ _ _ _ _ = _; rw [h20_6, h14_6, h8_6, h5_3, h0_1], rfl⟩

theorem Encoding.vmaddVV (d a b : BitVec 6) (km : BitVec 3) (cv : BitVec 1) : Encoding.Statement (.vmaddVV d a b km cv) := by
  intro w hw
  have e : w = 0x24#6 ++ d ++ a ++ b ++ km ++ 0x0#4 ++ cv := (Option.some.inj hw).symm
  have h26_6 : fld w 26 6 = 0x24#6 := rd e (hi rfl (hi rfl (hi rfl (hi rfl (hi rfl (hi rfl (whole _)))))))
  have h1_4 : fld w 1 4 = 0x0#4 := rd e (hi rfl (lo rfl (whole _)))
  have h20_6 : fld w 20 6 = d := rd e (hi rfl (hi rfl (hi rfl (hi rfl (hi rfl (lo rfl (whole _)))))))
  have h14_6 : fld w 14 6 = a := rd e (hi rfl (hi rfl (hi rfl (hi rfl (lo rfl (whole _))))))
  have h8_6 : fld w 8 6 = b := rd e (hi rfl (hi rfl (hi rfl (lo rfl (whole _)))))
  have h5_3 : fld w 5 3 = km := rd e (hi rfl (hi rfl (lo rfl (whole _))))
  have h0_1 : fld w 0 1 = cv := rd e (lo rfl (whole _))
  exact ⟨.vmaddVV, (select24 h26_6).trans (by delta decodeMajor24; rw [h1_4]; rfl), by show Instr.vmaddVV _ _ _ _ _ = _; rw [h20_6, h14_6, h8_6, h5_3, h0_1], rfl⟩

theorem Encoding.vmsacVV (d a b : BitVec 6) (km : BitVec 3) (cv : BitVec 1) : Encoding.Statement (.vmsacVV d a b km cv) := by
  intro w hw
  have e : w = 0x24#6 ++ d ++ a ++ b ++ km ++ 0x1#4 ++ cv := (Option.some.inj hw).symm
  have h26_6 : fld w 26 6 = 0x24#6 := rd e (hi rfl (hi rfl (hi rfl (hi rfl (hi rfl (hi rfl (whole _)))))))
  have h1_4 : fld w 1 4 = 0x1#4 := rd e (hi rfl (lo rfl (whole _)))
  have h20_6 : fld w 20 6 = d := rd e (hi rfl (hi rfl (hi rfl (hi rfl (hi rfl (lo rfl (whole _)))))))
  have h14_6 : fld w 14 6 = a := rd e (hi rfl (hi rfl (hi rfl (hi rfl (lo rfl (whole _))))))
  have h8_6 : fld w 8 6 = b := rd e (hi rfl (hi rfl (hi rfl (lo rfl (whole _)))))
  have h5_3 : fld w 5 3 = km := rd e (hi rfl (hi rfl (lo rfl (whole _))))
  have h0_1 : fld w 0 1 = cv := rd e (lo rfl (whole _))
  exact ⟨.vmsacVV, (select24 h26_6).trans (by delta decodeMajor24; rw [h1_4]; rfl), by show Instr.vmsacVV _ _ _ _ _ = _; rw [h20_6, h14_6, h8_6, h5_3, h0_1], rfl⟩

theorem Encoding.vwaddVV (d a b : BitVec 6) (km : BitVec 3) (cv : BitVec 1) : Encoding.Statement (.vwaddVV d a b km cv) := by
  intro w hw
  have e : w = 0x24#6 ++ d ++ a ++ b ++ km ++ 0x2#4 ++ cv := (Option.some.inj hw).symm
  have h26_6 : fld w 26 6 = 0x24#6 := rd e (hi rfl (hi rfl (hi rfl (hi rfl (hi rfl (hi rfl (whole _)))))))
  have h1_4 : fld w 1 4 = 0x2#4 := rd e (hi rfl (lo rfl (whole _)))
  have h20_6 : fld w 20 6 = d := rd e (hi rfl (hi rfl (hi rfl (hi rfl (hi rfl (lo rfl (whole _)))))))
  have h14_6 : fld w 14 6 = a := rd e (hi rfl (hi rfl (hi rfl (hi rfl (lo rfl (whole _))))))
  have h8_6 : fld w 8 6 = b := rd e (hi rfl (hi rfl (hi rfl (lo rfl (whole _)))))
  have h5_3 : fld w 5 3 = km := rd e (hi rfl (hi rfl (lo rfl (whole _))))
  have h0_1 : fld w 0 1 = cv := rd e (lo rfl (whole _))
  exact ⟨.vwaddVV, (select24 h26_6).trans (by delta decodeMajor24; rw [h1_4]; rfl), by show Instr.vwaddVV _ _ _ _ _ = _; rw [h20_6, h14_6, h8_6, h5_3, h0_1], rfl⟩

theorem Encoding.vwmulVV (d a b : BitVec 6) (km : BitVec 3) (cv : BitVec 1) : Encoding.Statement (.vwmulVV d a b km cv) := by
  intro w hw
  have e : w = 0x24#6 ++ d ++ a ++ b ++ km ++ 0x3#4 ++ cv := (Option.some.inj hw).symm
  have h26_6 : fld w 26 6 = 0x24#6 := rd e (hi rfl (hi rfl (hi rfl (hi rfl (hi rfl (hi rfl (whole _)))))))
  have h1_4 : fld w 1 4 = 0x3#4 := rd e (hi rfl (lo rfl (whole _)))
  have h20_6 : fld w 20 6 = d := rd e (hi rfl (hi rfl (hi rfl (hi rfl (hi rfl (lo rfl (whole _)))))))
  have h14_6 : fld w 14 6 = a := rd e (hi rfl (hi rfl (hi rfl (hi rfl (lo rfl (whole _))))))
  have h8_6 : fld w 8 6 = b := rd e (hi rfl (hi rfl (hi rfl (lo rfl (whole _)))))
  have h5_3 : fld w 5 3 = km := rd e (hi rfl (hi rfl (lo rfl (whole _))))
  have h0_1 : fld w 0 1 = cv := rd e (lo rfl (whole _))
  exact ⟨.vwmulVV, (select24 h26_6).trans (by delta decodeMajor24; rw [h1_4]; rfl), by show Instr.vwmulVV _ _ _ _ _ = _; rw [h20_6, h14_6, h8_6, h5_3, h0_1], rfl⟩

theorem Encoding.vdot4 (d a b : BitVec 6) (km : BitVec 3) (cv : BitVec 1) : Encoding.Statement (.vdot4 d a b km cv) := by
  intro w hw
  have e : w = 0x24#6 ++ d ++ a ++ b ++ km ++ 0x4#4 ++ cv := (Option.some.inj hw).symm
  have h26_6 : fld w 26 6 = 0x24#6 := rd e (hi rfl (hi rfl (hi rfl (hi rfl (hi rfl (hi rfl (whole _)))))))
  have h1_4 : fld w 1 4 = 0x4#4 := rd e (hi rfl (lo rfl (whole _)))
  have h20_6 : fld w 20 6 = d := rd e (hi rfl (hi rfl (hi rfl (hi rfl (hi rfl (lo rfl (whole _)))))))
  have h14_6 : fld w 14 6 = a := rd e (hi rfl (hi rfl (hi rfl (hi rfl (lo rfl (whole _))))))
  have h8_6 : fld w 8 6 = b := rd e (hi rfl (hi rfl (hi rfl (lo rfl (whole _)))))
  have h5_3 : fld w 5 3 = km := rd e (hi rfl (hi rfl (lo rfl (whole _))))
  have h0_1 : fld w 0 1 = cv := rd e (lo rfl (whole _))
  exact ⟨.vdot4, (select24 h26_6).trans (by delta decodeMajor24; rw [h1_4]; rfl), by show Instr.vdot4 _ _ _ _ _ = _; rw [h20_6, h14_6, h8_6, h5_3, h0_1], rfl⟩

theorem Encoding.vdot4Sat (d a b : BitVec 6) (km : BitVec 3) (cv : BitVec 1) : Encoding.Statement (.vdot4Sat d a b km cv) := by
  intro w hw
  have e : w = 0x24#6 ++ d ++ a ++ b ++ km ++ 0x5#4 ++ cv := (Option.some.inj hw).symm
  have h26_6 : fld w 26 6 = 0x24#6 := rd e (hi rfl (hi rfl (hi rfl (hi rfl (hi rfl (hi rfl (whole _)))))))
  have h1_4 : fld w 1 4 = 0x5#4 := rd e (hi rfl (lo rfl (whole _)))
  have h20_6 : fld w 20 6 = d := rd e (hi rfl (hi rfl (hi rfl (hi rfl (hi rfl (lo rfl (whole _)))))))
  have h14_6 : fld w 14 6 = a := rd e (hi rfl (hi rfl (hi rfl (hi rfl (lo rfl (whole _))))))
  have h8_6 : fld w 8 6 = b := rd e (hi rfl (hi rfl (hi rfl (lo rfl (whole _)))))
  have h5_3 : fld w 5 3 = km := rd e (hi rfl (hi rfl (lo rfl (whole _))))
  have h0_1 : fld w 0 1 = cv := rd e (lo rfl (whole _))
  exact ⟨.vdot4Sat, (select24 h26_6).trans (by delta decodeMajor24; rw [h1_4]; rfl), by show Instr.vdot4Sat _ _ _ _ _ = _; rw [h20_6, h14_6, h8_6, h5_3, h0_1], rfl⟩

theorem Encoding.vfaddVV (d a b : BitVec 6) (km : BitVec 3) (cv : BitVec 1) : Encoding.Statement (.vfaddVV d a b km cv) := by
  intro w hw
  have e : w = 0x25#6 ++ d ++ a ++ b ++ km ++ 0x0#4 ++ cv := (Option.some.inj hw).symm
  have h26_6 : fld w 26 6 = 0x25#6 := rd e (hi rfl (hi rfl (hi rfl (hi rfl (hi rfl (hi rfl (whole _)))))))
  have h1_4 : fld w 1 4 = 0x0#4 := rd e (hi rfl (lo rfl (whole _)))
  have h20_6 : fld w 20 6 = d := rd e (hi rfl (hi rfl (hi rfl (hi rfl (hi rfl (lo rfl (whole _)))))))
  have h14_6 : fld w 14 6 = a := rd e (hi rfl (hi rfl (hi rfl (hi rfl (lo rfl (whole _))))))
  have h8_6 : fld w 8 6 = b := rd e (hi rfl (hi rfl (hi rfl (lo rfl (whole _)))))
  have h5_3 : fld w 5 3 = km := rd e (hi rfl (hi rfl (lo rfl (whole _))))
  have h0_1 : fld w 0 1 = cv := rd e (lo rfl (whole _))
  exact ⟨.vfaddVV, (select25 h26_6).trans (by delta decodeMajor25; rw [h1_4]; rfl), by show Instr.vfaddVV _ _ _ _ _ = _; rw [h20_6, h14_6, h8_6, h5_3, h0_1], rfl⟩

theorem Encoding.vfsubVV (d a b : BitVec 6) (km : BitVec 3) (cv : BitVec 1) : Encoding.Statement (.vfsubVV d a b km cv) := by
  intro w hw
  have e : w = 0x25#6 ++ d ++ a ++ b ++ km ++ 0x1#4 ++ cv := (Option.some.inj hw).symm
  have h26_6 : fld w 26 6 = 0x25#6 := rd e (hi rfl (hi rfl (hi rfl (hi rfl (hi rfl (hi rfl (whole _)))))))
  have h1_4 : fld w 1 4 = 0x1#4 := rd e (hi rfl (lo rfl (whole _)))
  have h20_6 : fld w 20 6 = d := rd e (hi rfl (hi rfl (hi rfl (hi rfl (hi rfl (lo rfl (whole _)))))))
  have h14_6 : fld w 14 6 = a := rd e (hi rfl (hi rfl (hi rfl (hi rfl (lo rfl (whole _))))))
  have h8_6 : fld w 8 6 = b := rd e (hi rfl (hi rfl (hi rfl (lo rfl (whole _)))))
  have h5_3 : fld w 5 3 = km := rd e (hi rfl (hi rfl (lo rfl (whole _))))
  have h0_1 : fld w 0 1 = cv := rd e (lo rfl (whole _))
  exact ⟨.vfsubVV, (select25 h26_6).trans (by delta decodeMajor25; rw [h1_4]; rfl), by show Instr.vfsubVV _ _ _ _ _ = _; rw [h20_6, h14_6, h8_6, h5_3, h0_1], rfl⟩

theorem Encoding.vfmulVV (d a b : BitVec 6) (km : BitVec 3) (cv : BitVec 1) : Encoding.Statement (.vfmulVV d a b km cv) := by
  intro w hw
  have e : w = 0x25#6 ++ d ++ a ++ b ++ km ++ 0x2#4 ++ cv := (Option.some.inj hw).symm
  have h26_6 : fld w 26 6 = 0x25#6 := rd e (hi rfl (hi rfl (hi rfl (hi rfl (hi rfl (hi rfl (whole _)))))))
  have h1_4 : fld w 1 4 = 0x2#4 := rd e (hi rfl (lo rfl (whole _)))
  have h20_6 : fld w 20 6 = d := rd e (hi rfl (hi rfl (hi rfl (hi rfl (hi rfl (lo rfl (whole _)))))))
  have h14_6 : fld w 14 6 = a := rd e (hi rfl (hi rfl (hi rfl (hi rfl (lo rfl (whole _))))))
  have h8_6 : fld w 8 6 = b := rd e (hi rfl (hi rfl (hi rfl (lo rfl (whole _)))))
  have h5_3 : fld w 5 3 = km := rd e (hi rfl (hi rfl (lo rfl (whole _))))
  have h0_1 : fld w 0 1 = cv := rd e (lo rfl (whole _))
  exact ⟨.vfmulVV, (select25 h26_6).trans (by delta decodeMajor25; rw [h1_4]; rfl), by show Instr.vfmulVV _ _ _ _ _ = _; rw [h20_6, h14_6, h8_6, h5_3, h0_1], rfl⟩

theorem Encoding.vfdivVV (d a b : BitVec 6) (km : BitVec 3) (cv : BitVec 1) : Encoding.Statement (.vfdivVV d a b km cv) := by
  intro w hw
  have e : w = 0x25#6 ++ d ++ a ++ b ++ km ++ 0x3#4 ++ cv := (Option.some.inj hw).symm
  have h26_6 : fld w 26 6 = 0x25#6 := rd e (hi rfl (hi rfl (hi rfl (hi rfl (hi rfl (hi rfl (whole _)))))))
  have h1_4 : fld w 1 4 = 0x3#4 := rd e (hi rfl (lo rfl (whole _)))
  have h20_6 : fld w 20 6 = d := rd e (hi rfl (hi rfl (hi rfl (hi rfl (hi rfl (lo rfl (whole _)))))))
  have h14_6 : fld w 14 6 = a := rd e (hi rfl (hi rfl (hi rfl (hi rfl (lo rfl (whole _))))))
  have h8_6 : fld w 8 6 = b := rd e (hi rfl (hi rfl (hi rfl (lo rfl (whole _)))))
  have h5_3 : fld w 5 3 = km := rd e (hi rfl (hi rfl (lo rfl (whole _))))
  have h0_1 : fld w 0 1 = cv := rd e (lo rfl (whole _))
  exact ⟨.vfdivVV, (select25 h26_6).trans (by delta decodeMajor25; rw [h1_4]; rfl), by show Instr.vfdivVV _ _ _ _ _ = _; rw [h20_6, h14_6, h8_6, h5_3, h0_1], rfl⟩

theorem Encoding.vfsqrt (d a : BitVec 6) (km : BitVec 3) (cv : BitVec 1) : Encoding.Statement (.vfsqrt d a km cv) := by
  intro w hw
  have e : w = 0x25#6 ++ d ++ a ++ 0x0#6 ++ km ++ 0x4#4 ++ cv := (Option.some.inj hw).symm
  have h26_6 : fld w 26 6 = 0x25#6 := rd e (hi rfl (hi rfl (hi rfl (hi rfl (hi rfl (hi rfl (whole _)))))))
  have h1_4 : fld w 1 4 = 0x4#4 := rd e (hi rfl (lo rfl (whole _)))
  have h8_6 : fld w 8 6 = 0x0#6 := rd e (hi rfl (hi rfl (hi rfl (lo rfl (whole _)))))
  have h20_6 : fld w 20 6 = d := rd e (hi rfl (hi rfl (hi rfl (hi rfl (hi rfl (lo rfl (whole _)))))))
  have h14_6 : fld w 14 6 = a := rd e (hi rfl (hi rfl (hi rfl (hi rfl (lo rfl (whole _))))))
  have h5_3 : fld w 5 3 = km := rd e (hi rfl (hi rfl (lo rfl (whole _))))
  have h0_1 : fld w 0 1 = cv := rd e (lo rfl (whole _))
  exact ⟨.vfsqrt, (select25 h26_6).trans (by delta decodeMajor25; rw [h1_4, h8_6]; rfl), by show Instr.vfsqrt _ _ _ _ = _; rw [h20_6, h14_6, h5_3, h0_1], rfl⟩

theorem Encoding.vfrsqrt (d a : BitVec 6) (km : BitVec 3) (cv : BitVec 1) : Encoding.Statement (.vfrsqrt d a km cv) := by
  intro w hw
  have e : w = 0x25#6 ++ d ++ a ++ 0x0#6 ++ km ++ 0x5#4 ++ cv := (Option.some.inj hw).symm
  have h26_6 : fld w 26 6 = 0x25#6 := rd e (hi rfl (hi rfl (hi rfl (hi rfl (hi rfl (hi rfl (whole _)))))))
  have h1_4 : fld w 1 4 = 0x5#4 := rd e (hi rfl (lo rfl (whole _)))
  have h8_6 : fld w 8 6 = 0x0#6 := rd e (hi rfl (hi rfl (hi rfl (lo rfl (whole _)))))
  have h20_6 : fld w 20 6 = d := rd e (hi rfl (hi rfl (hi rfl (hi rfl (hi rfl (lo rfl (whole _)))))))
  have h14_6 : fld w 14 6 = a := rd e (hi rfl (hi rfl (hi rfl (hi rfl (lo rfl (whole _))))))
  have h5_3 : fld w 5 3 = km := rd e (hi rfl (hi rfl (lo rfl (whole _))))
  have h0_1 : fld w 0 1 = cv := rd e (lo rfl (whole _))
  exact ⟨.vfrsqrt, (select25 h26_6).trans (by delta decodeMajor25; rw [h1_4, h8_6]; rfl), by show Instr.vfrsqrt _ _ _ _ = _; rw [h20_6, h14_6, h5_3, h0_1], rfl⟩

theorem Encoding.vfmaVV (d a b : BitVec 6) (km : BitVec 3) (cv : BitVec 1) : Encoding.Statement (.vfmaVV d a b km cv) := by
  intro w hw
  have e : w = 0x25#6 ++ d ++ a ++ b ++ km ++ 0x6#4 ++ cv := (Option.some.inj hw).symm
  have h26_6 : fld w 26 6 = 0x25#6 := rd e (hi rfl (hi rfl (hi rfl (hi rfl (hi rfl (hi rfl (whole _)))))))
  have h1_4 : fld w 1 4 = 0x6#4 := rd e (hi rfl (lo rfl (whole _)))
  have h20_6 : fld w 20 6 = d := rd e (hi rfl (hi rfl (hi rfl (hi rfl (hi rfl (lo rfl (whole _)))))))
  have h14_6 : fld w 14 6 = a := rd e (hi rfl (hi rfl (hi rfl (hi rfl (lo rfl (whole _))))))
  have h8_6 : fld w 8 6 = b := rd e (hi rfl (hi rfl (hi rfl (lo rfl (whole _)))))
  have h5_3 : fld w 5 3 = km := rd e (hi rfl (hi rfl (lo rfl (whole _))))
  have h0_1 : fld w 0 1 = cv := rd e (lo rfl (whole _))
  exact ⟨.vfmaVV, (select25 h26_6).trans (by delta decodeMajor25; rw [h1_4]; rfl), by show Instr.vfmaVV _ _ _ _ _ = _; rw [h20_6, h14_6, h8_6, h5_3, h0_1], rfl⟩

theorem Encoding.vfmsVV (d a b : BitVec 6) (km : BitVec 3) (cv : BitVec 1) : Encoding.Statement (.vfmsVV d a b km cv) := by
  intro w hw
  have e : w = 0x25#6 ++ d ++ a ++ b ++ km ++ 0x7#4 ++ cv := (Option.some.inj hw).symm
  have h26_6 : fld w 26 6 = 0x25#6 := rd e (hi rfl (hi rfl (hi rfl (hi rfl (hi rfl (hi rfl (whole _)))))))
  have h1_4 : fld w 1 4 = 0x7#4 := rd e (hi rfl (lo rfl (whole _)))
  have h20_6 : fld w 20 6 = d := rd e (hi rfl (hi rfl (hi rfl (hi rfl (hi rfl (lo rfl (whole _)))))))
  have h14_6 : fld w 14 6 = a := rd e (hi rfl (hi rfl (hi rfl (hi rfl (lo rfl (whole _))))))
  have h8_6 : fld w 8 6 = b := rd e (hi rfl (hi rfl (hi rfl (lo rfl (whole _)))))
  have h5_3 : fld w 5 3 = km := rd e (hi rfl (hi rfl (lo rfl (whole _))))
  have h0_1 : fld w 0 1 = cv := rd e (lo rfl (whole _))
  exact ⟨.vfmsVV, (select25 h26_6).trans (by delta decodeMajor25; rw [h1_4]; rfl), by show Instr.vfmsVV _ _ _ _ _ = _; rw [h20_6, h14_6, h8_6, h5_3, h0_1], rfl⟩

theorem Encoding.vfnmaVV (d a b : BitVec 6) (km : BitVec 3) (cv : BitVec 1) : Encoding.Statement (.vfnmaVV d a b km cv) := by
  intro w hw
  have e : w = 0x25#6 ++ d ++ a ++ b ++ km ++ 0x8#4 ++ cv := (Option.some.inj hw).symm
  have h26_6 : fld w 26 6 = 0x25#6 := rd e (hi rfl (hi rfl (hi rfl (hi rfl (hi rfl (hi rfl (whole _)))))))
  have h1_4 : fld w 1 4 = 0x8#4 := rd e (hi rfl (lo rfl (whole _)))
  have h20_6 : fld w 20 6 = d := rd e (hi rfl (hi rfl (hi rfl (hi rfl (hi rfl (lo rfl (whole _)))))))
  have h14_6 : fld w 14 6 = a := rd e (hi rfl (hi rfl (hi rfl (hi rfl (lo rfl (whole _))))))
  have h8_6 : fld w 8 6 = b := rd e (hi rfl (hi rfl (hi rfl (lo rfl (whole _)))))
  have h5_3 : fld w 5 3 = km := rd e (hi rfl (hi rfl (lo rfl (whole _))))
  have h0_1 : fld w 0 1 = cv := rd e (lo rfl (whole _))
  exact ⟨.vfnmaVV, (select25 h26_6).trans (by delta decodeMajor25; rw [h1_4]; rfl), by show Instr.vfnmaVV _ _ _ _ _ = _; rw [h20_6, h14_6, h8_6, h5_3, h0_1], rfl⟩

theorem Encoding.vfminVV (d a b : BitVec 6) (km : BitVec 3) (cv : BitVec 1) : Encoding.Statement (.vfminVV d a b km cv) := by
  intro w hw
  have e : w = 0x25#6 ++ d ++ a ++ b ++ km ++ 0x9#4 ++ cv := (Option.some.inj hw).symm
  have h26_6 : fld w 26 6 = 0x25#6 := rd e (hi rfl (hi rfl (hi rfl (hi rfl (hi rfl (hi rfl (whole _)))))))
  have h1_4 : fld w 1 4 = 0x9#4 := rd e (hi rfl (lo rfl (whole _)))
  have h20_6 : fld w 20 6 = d := rd e (hi rfl (hi rfl (hi rfl (hi rfl (hi rfl (lo rfl (whole _)))))))
  have h14_6 : fld w 14 6 = a := rd e (hi rfl (hi rfl (hi rfl (hi rfl (lo rfl (whole _))))))
  have h8_6 : fld w 8 6 = b := rd e (hi rfl (hi rfl (hi rfl (lo rfl (whole _)))))
  have h5_3 : fld w 5 3 = km := rd e (hi rfl (hi rfl (lo rfl (whole _))))
  have h0_1 : fld w 0 1 = cv := rd e (lo rfl (whole _))
  exact ⟨.vfminVV, (select25 h26_6).trans (by delta decodeMajor25; rw [h1_4]; rfl), by show Instr.vfminVV _ _ _ _ _ = _; rw [h20_6, h14_6, h8_6, h5_3, h0_1], rfl⟩

theorem Encoding.vfmaxVV (d a b : BitVec 6) (km : BitVec 3) (cv : BitVec 1) : Encoding.Statement (.vfmaxVV d a b km cv) := by
  intro w hw
  have e : w = 0x25#6 ++ d ++ a ++ b ++ km ++ 0xA#4 ++ cv := (Option.some.inj hw).symm
  have h26_6 : fld w 26 6 = 0x25#6 := rd e (hi rfl (hi rfl (hi rfl (hi rfl (hi rfl (hi rfl (whole _)))))))
  have h1_4 : fld w 1 4 = 0xA#4 := rd e (hi rfl (lo rfl (whole _)))
  have h20_6 : fld w 20 6 = d := rd e (hi rfl (hi rfl (hi rfl (hi rfl (hi rfl (lo rfl (whole _)))))))
  have h14_6 : fld w 14 6 = a := rd e (hi rfl (hi rfl (hi rfl (hi rfl (lo rfl (whole _))))))
  have h8_6 : fld w 8 6 = b := rd e (hi rfl (hi rfl (hi rfl (lo rfl (whole _)))))
  have h5_3 : fld w 5 3 = km := rd e (hi rfl (hi rfl (lo rfl (whole _))))
  have h0_1 : fld w 0 1 = cv := rd e (lo rfl (whole _))
  exact ⟨.vfmaxVV, (select25 h26_6).trans (by delta decodeMajor25; rw [h1_4]; rfl), by show Instr.vfmaxVV _ _ _ _ _ = _; rw [h20_6, h14_6, h8_6, h5_3, h0_1], rfl⟩

theorem Encoding.vfclass (d a : BitVec 6) (km : BitVec 3) (cv : BitVec 1) : Encoding.Statement (.vfclass d a km cv) := by
  intro w hw
  have e : w = 0x25#6 ++ d ++ a ++ 0x0#6 ++ km ++ 0xB#4 ++ cv := (Option.some.inj hw).symm
  have h26_6 : fld w 26 6 = 0x25#6 := rd e (hi rfl (hi rfl (hi rfl (hi rfl (hi rfl (hi rfl (whole _)))))))
  have h1_4 : fld w 1 4 = 0xB#4 := rd e (hi rfl (lo rfl (whole _)))
  have h8_6 : fld w 8 6 = 0x0#6 := rd e (hi rfl (hi rfl (hi rfl (lo rfl (whole _)))))
  have h20_6 : fld w 20 6 = d := rd e (hi rfl (hi rfl (hi rfl (hi rfl (hi rfl (lo rfl (whole _)))))))
  have h14_6 : fld w 14 6 = a := rd e (hi rfl (hi rfl (hi rfl (hi rfl (lo rfl (whole _))))))
  have h5_3 : fld w 5 3 = km := rd e (hi rfl (hi rfl (lo rfl (whole _))))
  have h0_1 : fld w 0 1 = cv := rd e (lo rfl (whole _))
  exact ⟨.vfclass, (select25 h26_6).trans (by delta decodeMajor25; rw [h1_4, h8_6]; rfl), by show Instr.vfclass _ _ _ _ = _; rw [h20_6, h14_6, h5_3, h0_1], rfl⟩

theorem Encoding.vfsgnjVV (d a b : BitVec 6) (km : BitVec 3) (cv : BitVec 1) : Encoding.Statement (.vfsgnjVV d a b km cv) := by
  intro w hw
  have e : w = 0x25#6 ++ d ++ a ++ b ++ km ++ 0xC#4 ++ cv := (Option.some.inj hw).symm
  have h26_6 : fld w 26 6 = 0x25#6 := rd e (hi rfl (hi rfl (hi rfl (hi rfl (hi rfl (hi rfl (whole _)))))))
  have h1_4 : fld w 1 4 = 0xC#4 := rd e (hi rfl (lo rfl (whole _)))
  have h20_6 : fld w 20 6 = d := rd e (hi rfl (hi rfl (hi rfl (hi rfl (hi rfl (lo rfl (whole _)))))))
  have h14_6 : fld w 14 6 = a := rd e (hi rfl (hi rfl (hi rfl (hi rfl (lo rfl (whole _))))))
  have h8_6 : fld w 8 6 = b := rd e (hi rfl (hi rfl (hi rfl (lo rfl (whole _)))))
  have h5_3 : fld w 5 3 = km := rd e (hi rfl (hi rfl (lo rfl (whole _))))
  have h0_1 : fld w 0 1 = cv := rd e (lo rfl (whole _))
  exact ⟨.vfsgnjVV, (select25 h26_6).trans (by delta decodeMajor25; rw [h1_4]; rfl), by show Instr.vfsgnjVV _ _ _ _ _ = _; rw [h20_6, h14_6, h8_6, h5_3, h0_1], rfl⟩

theorem Encoding.vfsgnjnVV (d a b : BitVec 6) (km : BitVec 3) (cv : BitVec 1) : Encoding.Statement (.vfsgnjnVV d a b km cv) := by
  intro w hw
  have e : w = 0x25#6 ++ d ++ a ++ b ++ km ++ 0xD#4 ++ cv := (Option.some.inj hw).symm
  have h26_6 : fld w 26 6 = 0x25#6 := rd e (hi rfl (hi rfl (hi rfl (hi rfl (hi rfl (hi rfl (whole _)))))))
  have h1_4 : fld w 1 4 = 0xD#4 := rd e (hi rfl (lo rfl (whole _)))
  have h20_6 : fld w 20 6 = d := rd e (hi rfl (hi rfl (hi rfl (hi rfl (hi rfl (lo rfl (whole _)))))))
  have h14_6 : fld w 14 6 = a := rd e (hi rfl (hi rfl (hi rfl (hi rfl (lo rfl (whole _))))))
  have h8_6 : fld w 8 6 = b := rd e (hi rfl (hi rfl (hi rfl (lo rfl (whole _)))))
  have h5_3 : fld w 5 3 = km := rd e (hi rfl (hi rfl (lo rfl (whole _))))
  have h0_1 : fld w 0 1 = cv := rd e (lo rfl (whole _))
  exact ⟨.vfsgnjnVV, (select25 h26_6).trans (by delta decodeMajor25; rw [h1_4]; rfl), by show Instr.vfsgnjnVV _ _ _ _ _ = _; rw [h20_6, h14_6, h8_6, h5_3, h0_1], rfl⟩

theorem Encoding.vfsgnjxVV (d a b : BitVec 6) (km : BitVec 3) (cv : BitVec 1) : Encoding.Statement (.vfsgnjxVV d a b km cv) := by
  intro w hw
  have e : w = 0x25#6 ++ d ++ a ++ b ++ km ++ 0xE#4 ++ cv := (Option.some.inj hw).symm
  have h26_6 : fld w 26 6 = 0x25#6 := rd e (hi rfl (hi rfl (hi rfl (hi rfl (hi rfl (hi rfl (whole _)))))))
  have h1_4 : fld w 1 4 = 0xE#4 := rd e (hi rfl (lo rfl (whole _)))
  have h20_6 : fld w 20 6 = d := rd e (hi rfl (hi rfl (hi rfl (hi rfl (hi rfl (lo rfl (whole _)))))))
  have h14_6 : fld w 14 6 = a := rd e (hi rfl (hi rfl (hi rfl (hi rfl (lo rfl (whole _))))))
  have h8_6 : fld w 8 6 = b := rd e (hi rfl (hi rfl (hi rfl (lo rfl (whole _)))))
  have h5_3 : fld w 5 3 = km := rd e (hi rfl (hi rfl (lo rfl (whole _))))
  have h0_1 : fld w 0 1 = cv := rd e (lo rfl (whole _))
  exact ⟨.vfsgnjxVV, (select25 h26_6).trans (by delta decodeMajor25; rw [h1_4]; rfl), by show Instr.vfsgnjxVV _ _ _ _ _ = _; rw [h20_6, h14_6, h8_6, h5_3, h0_1], rfl⟩

theorem Encoding.vfaddVS (d a : BitVec 6) (b : BitVec 5) (km : BitVec 3) (cv : BitVec 1) : Encoding.Statement (.vfaddVS d a b km cv) := by
  intro w hw
  have e : w = 0x26#6 ++ d ++ a ++ b ++ 0x0#1 ++ km ++ 0x0#4 ++ cv := (Option.some.inj hw).symm
  have h26_6 : fld w 26 6 = 0x26#6 := rd e (hi rfl (hi rfl (hi rfl (hi rfl (hi rfl (hi rfl (hi rfl (whole _))))))))
  have h1_4 : fld w 1 4 = 0x0#4 := rd e (hi rfl (lo rfl (whole _)))
  have h8_1 : fld w 8 1 = 0x0#1 := rd e (hi rfl (hi rfl (hi rfl (lo rfl (whole _)))))
  have h20_6 : fld w 20 6 = d := rd e (hi rfl (hi rfl (hi rfl (hi rfl (hi rfl (hi rfl (lo rfl (whole _))))))))
  have h14_6 : fld w 14 6 = a := rd e (hi rfl (hi rfl (hi rfl (hi rfl (hi rfl (lo rfl (whole _)))))))
  have h9_5 : fld w 9 5 = b := rd e (hi rfl (hi rfl (hi rfl (hi rfl (lo rfl (whole _))))))
  have h5_3 : fld w 5 3 = km := rd e (hi rfl (hi rfl (lo rfl (whole _))))
  have h0_1 : fld w 0 1 = cv := rd e (lo rfl (whole _))
  exact ⟨.vfaddVS, (select26 h26_6).trans (by delta decodeMajor26; rw [h1_4, h8_1]; rfl), by show Instr.vfaddVS _ _ _ _ _ = _; rw [h20_6, h14_6, h9_5, h5_3, h0_1], rfl⟩

theorem Encoding.vfsubVS (d a : BitVec 6) (b : BitVec 5) (km : BitVec 3) (cv : BitVec 1) : Encoding.Statement (.vfsubVS d a b km cv) := by
  intro w hw
  have e : w = 0x26#6 ++ d ++ a ++ b ++ 0x0#1 ++ km ++ 0x1#4 ++ cv := (Option.some.inj hw).symm
  have h26_6 : fld w 26 6 = 0x26#6 := rd e (hi rfl (hi rfl (hi rfl (hi rfl (hi rfl (hi rfl (hi rfl (whole _))))))))
  have h1_4 : fld w 1 4 = 0x1#4 := rd e (hi rfl (lo rfl (whole _)))
  have h8_1 : fld w 8 1 = 0x0#1 := rd e (hi rfl (hi rfl (hi rfl (lo rfl (whole _)))))
  have h20_6 : fld w 20 6 = d := rd e (hi rfl (hi rfl (hi rfl (hi rfl (hi rfl (hi rfl (lo rfl (whole _))))))))
  have h14_6 : fld w 14 6 = a := rd e (hi rfl (hi rfl (hi rfl (hi rfl (hi rfl (lo rfl (whole _)))))))
  have h9_5 : fld w 9 5 = b := rd e (hi rfl (hi rfl (hi rfl (hi rfl (lo rfl (whole _))))))
  have h5_3 : fld w 5 3 = km := rd e (hi rfl (hi rfl (lo rfl (whole _))))
  have h0_1 : fld w 0 1 = cv := rd e (lo rfl (whole _))
  exact ⟨.vfsubVS, (select26 h26_6).trans (by delta decodeMajor26; rw [h1_4, h8_1]; rfl), by show Instr.vfsubVS _ _ _ _ _ = _; rw [h20_6, h14_6, h9_5, h5_3, h0_1], rfl⟩

theorem Encoding.vfmulVS (d a : BitVec 6) (b : BitVec 5) (km : BitVec 3) (cv : BitVec 1) : Encoding.Statement (.vfmulVS d a b km cv) := by
  intro w hw
  have e : w = 0x26#6 ++ d ++ a ++ b ++ 0x0#1 ++ km ++ 0x2#4 ++ cv := (Option.some.inj hw).symm
  have h26_6 : fld w 26 6 = 0x26#6 := rd e (hi rfl (hi rfl (hi rfl (hi rfl (hi rfl (hi rfl (hi rfl (whole _))))))))
  have h1_4 : fld w 1 4 = 0x2#4 := rd e (hi rfl (lo rfl (whole _)))
  have h8_1 : fld w 8 1 = 0x0#1 := rd e (hi rfl (hi rfl (hi rfl (lo rfl (whole _)))))
  have h20_6 : fld w 20 6 = d := rd e (hi rfl (hi rfl (hi rfl (hi rfl (hi rfl (hi rfl (lo rfl (whole _))))))))
  have h14_6 : fld w 14 6 = a := rd e (hi rfl (hi rfl (hi rfl (hi rfl (hi rfl (lo rfl (whole _)))))))
  have h9_5 : fld w 9 5 = b := rd e (hi rfl (hi rfl (hi rfl (hi rfl (lo rfl (whole _))))))
  have h5_3 : fld w 5 3 = km := rd e (hi rfl (hi rfl (lo rfl (whole _))))
  have h0_1 : fld w 0 1 = cv := rd e (lo rfl (whole _))
  exact ⟨.vfmulVS, (select26 h26_6).trans (by delta decodeMajor26; rw [h1_4, h8_1]; rfl), by show Instr.vfmulVS _ _ _ _ _ = _; rw [h20_6, h14_6, h9_5, h5_3, h0_1], rfl⟩

theorem Encoding.vfdivVS (d a : BitVec 6) (b : BitVec 5) (km : BitVec 3) (cv : BitVec 1) : Encoding.Statement (.vfdivVS d a b km cv) := by
  intro w hw
  have e : w = 0x26#6 ++ d ++ a ++ b ++ 0x0#1 ++ km ++ 0x3#4 ++ cv := (Option.some.inj hw).symm
  have h26_6 : fld w 26 6 = 0x26#6 := rd e (hi rfl (hi rfl (hi rfl (hi rfl (hi rfl (hi rfl (hi rfl (whole _))))))))
  have h1_4 : fld w 1 4 = 0x3#4 := rd e (hi rfl (lo rfl (whole _)))
  have h8_1 : fld w 8 1 = 0x0#1 := rd e (hi rfl (hi rfl (hi rfl (lo rfl (whole _)))))
  have h20_6 : fld w 20 6 = d := rd e (hi rfl (hi rfl (hi rfl (hi rfl (hi rfl (hi rfl (lo rfl (whole _))))))))
  have h14_6 : fld w 14 6 = a := rd e (hi rfl (hi rfl (hi rfl (hi rfl (hi rfl (lo rfl (whole _)))))))
  have h9_5 : fld w 9 5 = b := rd e (hi rfl (hi rfl (hi rfl (hi rfl (lo rfl (whole _))))))
  have h5_3 : fld w 5 3 = km := rd e (hi rfl (hi rfl (lo rfl (whole _))))
  have h0_1 : fld w 0 1 = cv := rd e (lo rfl (whole _))
  exact ⟨.vfdivVS, (select26 h26_6).trans (by delta decodeMajor26; rw [h1_4, h8_1]; rfl), by show Instr.vfdivVS _ _ _ _ _ = _; rw [h20_6, h14_6, h9_5, h5_3, h0_1], rfl⟩

theorem Encoding.vfmaVS (d a : BitVec 6) (b : BitVec 5) (km : BitVec 3) (cv : BitVec 1) : Encoding.Statement (.vfmaVS d a b km cv) := by
  intro w hw
  have e : w = 0x26#6 ++ d ++ a ++ b ++ 0x0#1 ++ km ++ 0x6#4 ++ cv := (Option.some.inj hw).symm
  have h26_6 : fld w 26 6 = 0x26#6 := rd e (hi rfl (hi rfl (hi rfl (hi rfl (hi rfl (hi rfl (hi rfl (whole _))))))))
  have h1_4 : fld w 1 4 = 0x6#4 := rd e (hi rfl (lo rfl (whole _)))
  have h8_1 : fld w 8 1 = 0x0#1 := rd e (hi rfl (hi rfl (hi rfl (lo rfl (whole _)))))
  have h20_6 : fld w 20 6 = d := rd e (hi rfl (hi rfl (hi rfl (hi rfl (hi rfl (hi rfl (lo rfl (whole _))))))))
  have h14_6 : fld w 14 6 = a := rd e (hi rfl (hi rfl (hi rfl (hi rfl (hi rfl (lo rfl (whole _)))))))
  have h9_5 : fld w 9 5 = b := rd e (hi rfl (hi rfl (hi rfl (hi rfl (lo rfl (whole _))))))
  have h5_3 : fld w 5 3 = km := rd e (hi rfl (hi rfl (lo rfl (whole _))))
  have h0_1 : fld w 0 1 = cv := rd e (lo rfl (whole _))
  exact ⟨.vfmaVS, (select26 h26_6).trans (by delta decodeMajor26; rw [h1_4, h8_1]; rfl), by show Instr.vfmaVS _ _ _ _ _ = _; rw [h20_6, h14_6, h9_5, h5_3, h0_1], rfl⟩

theorem Encoding.vfmsVS (d a : BitVec 6) (b : BitVec 5) (km : BitVec 3) (cv : BitVec 1) : Encoding.Statement (.vfmsVS d a b km cv) := by
  intro w hw
  have e : w = 0x26#6 ++ d ++ a ++ b ++ 0x0#1 ++ km ++ 0x7#4 ++ cv := (Option.some.inj hw).symm
  have h26_6 : fld w 26 6 = 0x26#6 := rd e (hi rfl (hi rfl (hi rfl (hi rfl (hi rfl (hi rfl (hi rfl (whole _))))))))
  have h1_4 : fld w 1 4 = 0x7#4 := rd e (hi rfl (lo rfl (whole _)))
  have h8_1 : fld w 8 1 = 0x0#1 := rd e (hi rfl (hi rfl (hi rfl (lo rfl (whole _)))))
  have h20_6 : fld w 20 6 = d := rd e (hi rfl (hi rfl (hi rfl (hi rfl (hi rfl (hi rfl (lo rfl (whole _))))))))
  have h14_6 : fld w 14 6 = a := rd e (hi rfl (hi rfl (hi rfl (hi rfl (hi rfl (lo rfl (whole _)))))))
  have h9_5 : fld w 9 5 = b := rd e (hi rfl (hi rfl (hi rfl (hi rfl (lo rfl (whole _))))))
  have h5_3 : fld w 5 3 = km := rd e (hi rfl (hi rfl (lo rfl (whole _))))
  have h0_1 : fld w 0 1 = cv := rd e (lo rfl (whole _))
  exact ⟨.vfmsVS, (select26 h26_6).trans (by delta decodeMajor26; rw [h1_4, h8_1]; rfl), by show Instr.vfmsVS _ _ _ _ _ = _; rw [h20_6, h14_6, h9_5, h5_3, h0_1], rfl⟩

theorem Encoding.vfnmaVS (d a : BitVec 6) (b : BitVec 5) (km : BitVec 3) (cv : BitVec 1) : Encoding.Statement (.vfnmaVS d a b km cv) := by
  intro w hw
  have e : w = 0x26#6 ++ d ++ a ++ b ++ 0x0#1 ++ km ++ 0x8#4 ++ cv := (Option.some.inj hw).symm
  have h26_6 : fld w 26 6 = 0x26#6 := rd e (hi rfl (hi rfl (hi rfl (hi rfl (hi rfl (hi rfl (hi rfl (whole _))))))))
  have h1_4 : fld w 1 4 = 0x8#4 := rd e (hi rfl (lo rfl (whole _)))
  have h8_1 : fld w 8 1 = 0x0#1 := rd e (hi rfl (hi rfl (hi rfl (lo rfl (whole _)))))
  have h20_6 : fld w 20 6 = d := rd e (hi rfl (hi rfl (hi rfl (hi rfl (hi rfl (hi rfl (lo rfl (whole _))))))))
  have h14_6 : fld w 14 6 = a := rd e (hi rfl (hi rfl (hi rfl (hi rfl (hi rfl (lo rfl (whole _)))))))
  have h9_5 : fld w 9 5 = b := rd e (hi rfl (hi rfl (hi rfl (hi rfl (lo rfl (whole _))))))
  have h5_3 : fld w 5 3 = km := rd e (hi rfl (hi rfl (lo rfl (whole _))))
  have h0_1 : fld w 0 1 = cv := rd e (lo rfl (whole _))
  exact ⟨.vfnmaVS, (select26 h26_6).trans (by delta decodeMajor26; rw [h1_4, h8_1]; rfl), by show Instr.vfnmaVS _ _ _ _ _ = _; rw [h20_6, h14_6, h9_5, h5_3, h0_1], rfl⟩

theorem Encoding.vfminVS (d a : BitVec 6) (b : BitVec 5) (km : BitVec 3) (cv : BitVec 1) : Encoding.Statement (.vfminVS d a b km cv) := by
  intro w hw
  have e : w = 0x26#6 ++ d ++ a ++ b ++ 0x0#1 ++ km ++ 0x9#4 ++ cv := (Option.some.inj hw).symm
  have h26_6 : fld w 26 6 = 0x26#6 := rd e (hi rfl (hi rfl (hi rfl (hi rfl (hi rfl (hi rfl (hi rfl (whole _))))))))
  have h1_4 : fld w 1 4 = 0x9#4 := rd e (hi rfl (lo rfl (whole _)))
  have h8_1 : fld w 8 1 = 0x0#1 := rd e (hi rfl (hi rfl (hi rfl (lo rfl (whole _)))))
  have h20_6 : fld w 20 6 = d := rd e (hi rfl (hi rfl (hi rfl (hi rfl (hi rfl (hi rfl (lo rfl (whole _))))))))
  have h14_6 : fld w 14 6 = a := rd e (hi rfl (hi rfl (hi rfl (hi rfl (hi rfl (lo rfl (whole _)))))))
  have h9_5 : fld w 9 5 = b := rd e (hi rfl (hi rfl (hi rfl (hi rfl (lo rfl (whole _))))))
  have h5_3 : fld w 5 3 = km := rd e (hi rfl (hi rfl (lo rfl (whole _))))
  have h0_1 : fld w 0 1 = cv := rd e (lo rfl (whole _))
  exact ⟨.vfminVS, (select26 h26_6).trans (by delta decodeMajor26; rw [h1_4, h8_1]; rfl), by show Instr.vfminVS _ _ _ _ _ = _; rw [h20_6, h14_6, h9_5, h5_3, h0_1], rfl⟩

theorem Encoding.vfmaxVS (d a : BitVec 6) (b : BitVec 5) (km : BitVec 3) (cv : BitVec 1) : Encoding.Statement (.vfmaxVS d a b km cv) := by
  intro w hw
  have e : w = 0x26#6 ++ d ++ a ++ b ++ 0x0#1 ++ km ++ 0xA#4 ++ cv := (Option.some.inj hw).symm
  have h26_6 : fld w 26 6 = 0x26#6 := rd e (hi rfl (hi rfl (hi rfl (hi rfl (hi rfl (hi rfl (hi rfl (whole _))))))))
  have h1_4 : fld w 1 4 = 0xA#4 := rd e (hi rfl (lo rfl (whole _)))
  have h8_1 : fld w 8 1 = 0x0#1 := rd e (hi rfl (hi rfl (hi rfl (lo rfl (whole _)))))
  have h20_6 : fld w 20 6 = d := rd e (hi rfl (hi rfl (hi rfl (hi rfl (hi rfl (hi rfl (lo rfl (whole _))))))))
  have h14_6 : fld w 14 6 = a := rd e (hi rfl (hi rfl (hi rfl (hi rfl (hi rfl (lo rfl (whole _)))))))
  have h9_5 : fld w 9 5 = b := rd e (hi rfl (hi rfl (hi rfl (hi rfl (lo rfl (whole _))))))
  have h5_3 : fld w 5 3 = km := rd e (hi rfl (hi rfl (lo rfl (whole _))))
  have h0_1 : fld w 0 1 = cv := rd e (lo rfl (whole _))
  exact ⟨.vfmaxVS, (select26 h26_6).trans (by delta decodeMajor26; rw [h1_4, h8_1]; rfl), by show Instr.vfmaxVS _ _ _ _ _ = _; rw [h20_6, h14_6, h9_5, h5_3, h0_1], rfl⟩

theorem Encoding.vfsgnjVS (d a : BitVec 6) (b : BitVec 5) (km : BitVec 3) (cv : BitVec 1) : Encoding.Statement (.vfsgnjVS d a b km cv) := by
  intro w hw
  have e : w = 0x26#6 ++ d ++ a ++ b ++ 0x0#1 ++ km ++ 0xC#4 ++ cv := (Option.some.inj hw).symm
  have h26_6 : fld w 26 6 = 0x26#6 := rd e (hi rfl (hi rfl (hi rfl (hi rfl (hi rfl (hi rfl (hi rfl (whole _))))))))
  have h1_4 : fld w 1 4 = 0xC#4 := rd e (hi rfl (lo rfl (whole _)))
  have h8_1 : fld w 8 1 = 0x0#1 := rd e (hi rfl (hi rfl (hi rfl (lo rfl (whole _)))))
  have h20_6 : fld w 20 6 = d := rd e (hi rfl (hi rfl (hi rfl (hi rfl (hi rfl (hi rfl (lo rfl (whole _))))))))
  have h14_6 : fld w 14 6 = a := rd e (hi rfl (hi rfl (hi rfl (hi rfl (hi rfl (lo rfl (whole _)))))))
  have h9_5 : fld w 9 5 = b := rd e (hi rfl (hi rfl (hi rfl (hi rfl (lo rfl (whole _))))))
  have h5_3 : fld w 5 3 = km := rd e (hi rfl (hi rfl (lo rfl (whole _))))
  have h0_1 : fld w 0 1 = cv := rd e (lo rfl (whole _))
  exact ⟨.vfsgnjVS, (select26 h26_6).trans (by delta decodeMajor26; rw [h1_4, h8_1]; rfl), by show Instr.vfsgnjVS _ _ _ _ _ = _; rw [h20_6, h14_6, h9_5, h5_3, h0_1], rfl⟩

theorem Encoding.vfsgnjnVS (d a : BitVec 6) (b : BitVec 5) (km : BitVec 3) (cv : BitVec 1) : Encoding.Statement (.vfsgnjnVS d a b km cv) := by
  intro w hw
  have e : w = 0x26#6 ++ d ++ a ++ b ++ 0x0#1 ++ km ++ 0xD#4 ++ cv := (Option.some.inj hw).symm
  have h26_6 : fld w 26 6 = 0x26#6 := rd e (hi rfl (hi rfl (hi rfl (hi rfl (hi rfl (hi rfl (hi rfl (whole _))))))))
  have h1_4 : fld w 1 4 = 0xD#4 := rd e (hi rfl (lo rfl (whole _)))
  have h8_1 : fld w 8 1 = 0x0#1 := rd e (hi rfl (hi rfl (hi rfl (lo rfl (whole _)))))
  have h20_6 : fld w 20 6 = d := rd e (hi rfl (hi rfl (hi rfl (hi rfl (hi rfl (hi rfl (lo rfl (whole _))))))))
  have h14_6 : fld w 14 6 = a := rd e (hi rfl (hi rfl (hi rfl (hi rfl (hi rfl (lo rfl (whole _)))))))
  have h9_5 : fld w 9 5 = b := rd e (hi rfl (hi rfl (hi rfl (hi rfl (lo rfl (whole _))))))
  have h5_3 : fld w 5 3 = km := rd e (hi rfl (hi rfl (lo rfl (whole _))))
  have h0_1 : fld w 0 1 = cv := rd e (lo rfl (whole _))
  exact ⟨.vfsgnjnVS, (select26 h26_6).trans (by delta decodeMajor26; rw [h1_4, h8_1]; rfl), by show Instr.vfsgnjnVS _ _ _ _ _ = _; rw [h20_6, h14_6, h9_5, h5_3, h0_1], rfl⟩

theorem Encoding.vfsgnjxVS (d a : BitVec 6) (b : BitVec 5) (km : BitVec 3) (cv : BitVec 1) : Encoding.Statement (.vfsgnjxVS d a b km cv) := by
  intro w hw
  have e : w = 0x26#6 ++ d ++ a ++ b ++ 0x0#1 ++ km ++ 0xE#4 ++ cv := (Option.some.inj hw).symm
  have h26_6 : fld w 26 6 = 0x26#6 := rd e (hi rfl (hi rfl (hi rfl (hi rfl (hi rfl (hi rfl (hi rfl (whole _))))))))
  have h1_4 : fld w 1 4 = 0xE#4 := rd e (hi rfl (lo rfl (whole _)))
  have h8_1 : fld w 8 1 = 0x0#1 := rd e (hi rfl (hi rfl (hi rfl (lo rfl (whole _)))))
  have h20_6 : fld w 20 6 = d := rd e (hi rfl (hi rfl (hi rfl (hi rfl (hi rfl (hi rfl (lo rfl (whole _))))))))
  have h14_6 : fld w 14 6 = a := rd e (hi rfl (hi rfl (hi rfl (hi rfl (hi rfl (lo rfl (whole _)))))))
  have h9_5 : fld w 9 5 = b := rd e (hi rfl (hi rfl (hi rfl (hi rfl (lo rfl (whole _))))))
  have h5_3 : fld w 5 3 = km := rd e (hi rfl (hi rfl (lo rfl (whole _))))
  have h0_1 : fld w 0 1 = cv := rd e (lo rfl (whole _))
  exact ⟨.vfsgnjxVS, (select26 h26_6).trans (by delta decodeMajor26; rw [h1_4, h8_1]; rfl), by show Instr.vfsgnjxVS _ _ _ _ _ = _; rw [h20_6, h14_6, h9_5, h5_3, h0_1], rfl⟩

theorem Encoding.vmseqVV (d : BitVec 3) (a b : BitVec 6) (km : BitVec 3) (cv : BitVec 1) : Encoding.Statement (.vmseqVV d a b km cv) := by
  intro w hw
  have e : w = 0x27#6 ++ 0x0#3 ++ d ++ a ++ b ++ km ++ 0x0#4 ++ cv := (Option.some.inj hw).symm
  have h26_6 : fld w 26 6 = 0x27#6 := rd e (hi rfl (hi rfl (hi rfl (hi rfl (hi rfl (hi rfl (hi rfl (whole _))))))))
  have h1_4 : fld w 1 4 = 0x0#4 := rd e (hi rfl (lo rfl (whole _)))
  have h23_3 : fld w 23 3 = 0x0#3 := rd e (hi rfl (hi rfl (hi rfl (hi rfl (hi rfl (hi rfl (lo rfl (whole _))))))))
  have h20_3 : fld w 20 3 = d := rd e (hi rfl (hi rfl (hi rfl (hi rfl (hi rfl (lo rfl (whole _)))))))
  have h14_6 : fld w 14 6 = a := rd e (hi rfl (hi rfl (hi rfl (hi rfl (lo rfl (whole _))))))
  have h8_6 : fld w 8 6 = b := rd e (hi rfl (hi rfl (hi rfl (lo rfl (whole _)))))
  have h5_3 : fld w 5 3 = km := rd e (hi rfl (hi rfl (lo rfl (whole _))))
  have h0_1 : fld w 0 1 = cv := rd e (lo rfl (whole _))
  exact ⟨.vmseqVV, (select27 h26_6).trans (by delta decodeMajor27; rw [h1_4, h23_3]; rfl), by show Instr.vmseqVV _ _ _ _ _ = _; rw [h20_3, h14_6, h8_6, h5_3, h0_1], rfl⟩

theorem Encoding.vmsneVV (d : BitVec 3) (a b : BitVec 6) (km : BitVec 3) (cv : BitVec 1) : Encoding.Statement (.vmsneVV d a b km cv) := by
  intro w hw
  have e : w = 0x27#6 ++ 0x0#3 ++ d ++ a ++ b ++ km ++ 0x1#4 ++ cv := (Option.some.inj hw).symm
  have h26_6 : fld w 26 6 = 0x27#6 := rd e (hi rfl (hi rfl (hi rfl (hi rfl (hi rfl (hi rfl (hi rfl (whole _))))))))
  have h1_4 : fld w 1 4 = 0x1#4 := rd e (hi rfl (lo rfl (whole _)))
  have h23_3 : fld w 23 3 = 0x0#3 := rd e (hi rfl (hi rfl (hi rfl (hi rfl (hi rfl (hi rfl (lo rfl (whole _))))))))
  have h20_3 : fld w 20 3 = d := rd e (hi rfl (hi rfl (hi rfl (hi rfl (hi rfl (lo rfl (whole _)))))))
  have h14_6 : fld w 14 6 = a := rd e (hi rfl (hi rfl (hi rfl (hi rfl (lo rfl (whole _))))))
  have h8_6 : fld w 8 6 = b := rd e (hi rfl (hi rfl (hi rfl (lo rfl (whole _)))))
  have h5_3 : fld w 5 3 = km := rd e (hi rfl (hi rfl (lo rfl (whole _))))
  have h0_1 : fld w 0 1 = cv := rd e (lo rfl (whole _))
  exact ⟨.vmsneVV, (select27 h26_6).trans (by delta decodeMajor27; rw [h1_4, h23_3]; rfl), by show Instr.vmsneVV _ _ _ _ _ = _; rw [h20_3, h14_6, h8_6, h5_3, h0_1], rfl⟩

theorem Encoding.vmsltVV (d : BitVec 3) (a b : BitVec 6) (km : BitVec 3) (cv : BitVec 1) : Encoding.Statement (.vmsltVV d a b km cv) := by
  intro w hw
  have e : w = 0x27#6 ++ 0x0#3 ++ d ++ a ++ b ++ km ++ 0x2#4 ++ cv := (Option.some.inj hw).symm
  have h26_6 : fld w 26 6 = 0x27#6 := rd e (hi rfl (hi rfl (hi rfl (hi rfl (hi rfl (hi rfl (hi rfl (whole _))))))))
  have h1_4 : fld w 1 4 = 0x2#4 := rd e (hi rfl (lo rfl (whole _)))
  have h23_3 : fld w 23 3 = 0x0#3 := rd e (hi rfl (hi rfl (hi rfl (hi rfl (hi rfl (hi rfl (lo rfl (whole _))))))))
  have h20_3 : fld w 20 3 = d := rd e (hi rfl (hi rfl (hi rfl (hi rfl (hi rfl (lo rfl (whole _)))))))
  have h14_6 : fld w 14 6 = a := rd e (hi rfl (hi rfl (hi rfl (hi rfl (lo rfl (whole _))))))
  have h8_6 : fld w 8 6 = b := rd e (hi rfl (hi rfl (hi rfl (lo rfl (whole _)))))
  have h5_3 : fld w 5 3 = km := rd e (hi rfl (hi rfl (lo rfl (whole _))))
  have h0_1 : fld w 0 1 = cv := rd e (lo rfl (whole _))
  exact ⟨.vmsltVV, (select27 h26_6).trans (by delta decodeMajor27; rw [h1_4, h23_3]; rfl), by show Instr.vmsltVV _ _ _ _ _ = _; rw [h20_3, h14_6, h8_6, h5_3, h0_1], rfl⟩

theorem Encoding.vmsleVV (d : BitVec 3) (a b : BitVec 6) (km : BitVec 3) (cv : BitVec 1) : Encoding.Statement (.vmsleVV d a b km cv) := by
  intro w hw
  have e : w = 0x27#6 ++ 0x0#3 ++ d ++ a ++ b ++ km ++ 0x3#4 ++ cv := (Option.some.inj hw).symm
  have h26_6 : fld w 26 6 = 0x27#6 := rd e (hi rfl (hi rfl (hi rfl (hi rfl (hi rfl (hi rfl (hi rfl (whole _))))))))
  have h1_4 : fld w 1 4 = 0x3#4 := rd e (hi rfl (lo rfl (whole _)))
  have h23_3 : fld w 23 3 = 0x0#3 := rd e (hi rfl (hi rfl (hi rfl (hi rfl (hi rfl (hi rfl (lo rfl (whole _))))))))
  have h20_3 : fld w 20 3 = d := rd e (hi rfl (hi rfl (hi rfl (hi rfl (hi rfl (lo rfl (whole _)))))))
  have h14_6 : fld w 14 6 = a := rd e (hi rfl (hi rfl (hi rfl (hi rfl (lo rfl (whole _))))))
  have h8_6 : fld w 8 6 = b := rd e (hi rfl (hi rfl (hi rfl (lo rfl (whole _)))))
  have h5_3 : fld w 5 3 = km := rd e (hi rfl (hi rfl (lo rfl (whole _))))
  have h0_1 : fld w 0 1 = cv := rd e (lo rfl (whole _))
  exact ⟨.vmsleVV, (select27 h26_6).trans (by delta decodeMajor27; rw [h1_4, h23_3]; rfl), by show Instr.vmsleVV _ _ _ _ _ = _; rw [h20_3, h14_6, h8_6, h5_3, h0_1], rfl⟩

theorem Encoding.vmfeqVV (d : BitVec 3) (a b : BitVec 6) (km : BitVec 3) (cv : BitVec 1) : Encoding.Statement (.vmfeqVV d a b km cv) := by
  intro w hw
  have e : w = 0x27#6 ++ 0x0#3 ++ d ++ a ++ b ++ km ++ 0x4#4 ++ cv := (Option.some.inj hw).symm
  have h26_6 : fld w 26 6 = 0x27#6 := rd e (hi rfl (hi rfl (hi rfl (hi rfl (hi rfl (hi rfl (hi rfl (whole _))))))))
  have h1_4 : fld w 1 4 = 0x4#4 := rd e (hi rfl (lo rfl (whole _)))
  have h23_3 : fld w 23 3 = 0x0#3 := rd e (hi rfl (hi rfl (hi rfl (hi rfl (hi rfl (hi rfl (lo rfl (whole _))))))))
  have h20_3 : fld w 20 3 = d := rd e (hi rfl (hi rfl (hi rfl (hi rfl (hi rfl (lo rfl (whole _)))))))
  have h14_6 : fld w 14 6 = a := rd e (hi rfl (hi rfl (hi rfl (hi rfl (lo rfl (whole _))))))
  have h8_6 : fld w 8 6 = b := rd e (hi rfl (hi rfl (hi rfl (lo rfl (whole _)))))
  have h5_3 : fld w 5 3 = km := rd e (hi rfl (hi rfl (lo rfl (whole _))))
  have h0_1 : fld w 0 1 = cv := rd e (lo rfl (whole _))
  exact ⟨.vmfeqVV, (select27 h26_6).trans (by delta decodeMajor27; rw [h1_4, h23_3]; rfl), by show Instr.vmfeqVV _ _ _ _ _ = _; rw [h20_3, h14_6, h8_6, h5_3, h0_1], rfl⟩

theorem Encoding.vmfltVV (d : BitVec 3) (a b : BitVec 6) (km : BitVec 3) (cv : BitVec 1) : Encoding.Statement (.vmfltVV d a b km cv) := by
  intro w hw
  have e : w = 0x27#6 ++ 0x0#3 ++ d ++ a ++ b ++ km ++ 0x5#4 ++ cv := (Option.some.inj hw).symm
  have h26_6 : fld w 26 6 = 0x27#6 := rd e (hi rfl (hi rfl (hi rfl (hi rfl (hi rfl (hi rfl (hi rfl (whole _))))))))
  have h1_4 : fld w 1 4 = 0x5#4 := rd e (hi rfl (lo rfl (whole _)))
  have h23_3 : fld w 23 3 = 0x0#3 := rd e (hi rfl (hi rfl (hi rfl (hi rfl (hi rfl (hi rfl (lo rfl (whole _))))))))
  have h20_3 : fld w 20 3 = d := rd e (hi rfl (hi rfl (hi rfl (hi rfl (hi rfl (lo rfl (whole _)))))))
  have h14_6 : fld w 14 6 = a := rd e (hi rfl (hi rfl (hi rfl (hi rfl (lo rfl (whole _))))))
  have h8_6 : fld w 8 6 = b := rd e (hi rfl (hi rfl (hi rfl (lo rfl (whole _)))))
  have h5_3 : fld w 5 3 = km := rd e (hi rfl (hi rfl (lo rfl (whole _))))
  have h0_1 : fld w 0 1 = cv := rd e (lo rfl (whole _))
  exact ⟨.vmfltVV, (select27 h26_6).trans (by delta decodeMajor27; rw [h1_4, h23_3]; rfl), by show Instr.vmfltVV _ _ _ _ _ = _; rw [h20_3, h14_6, h8_6, h5_3, h0_1], rfl⟩

theorem Encoding.vmfleVV (d : BitVec 3) (a b : BitVec 6) (km : BitVec 3) (cv : BitVec 1) : Encoding.Statement (.vmfleVV d a b km cv) := by
  intro w hw
  have e : w = 0x27#6 ++ 0x0#3 ++ d ++ a ++ b ++ km ++ 0x6#4 ++ cv := (Option.some.inj hw).symm
  have h26_6 : fld w 26 6 = 0x27#6 := rd e (hi rfl (hi rfl (hi rfl (hi rfl (hi rfl (hi rfl (hi rfl (whole _))))))))
  have h1_4 : fld w 1 4 = 0x6#4 := rd e (hi rfl (lo rfl (whole _)))
  have h23_3 : fld w 23 3 = 0x0#3 := rd e (hi rfl (hi rfl (hi rfl (hi rfl (hi rfl (hi rfl (lo rfl (whole _))))))))
  have h20_3 : fld w 20 3 = d := rd e (hi rfl (hi rfl (hi rfl (hi rfl (hi rfl (lo rfl (whole _)))))))
  have h14_6 : fld w 14 6 = a := rd e (hi rfl (hi rfl (hi rfl (hi rfl (lo rfl (whole _))))))
  have h8_6 : fld w 8 6 = b := rd e (hi rfl (hi rfl (hi rfl (lo rfl (whole _)))))
  have h5_3 : fld w 5 3 = km := rd e (hi rfl (hi rfl (lo rfl (whole _))))
  have h0_1 : fld w 0 1 = cv := rd e (lo rfl (whole _))
  exact ⟨.vmfleVV, (select27 h26_6).trans (by delta decodeMajor27; rw [h1_4, h23_3]; rfl), by show Instr.vmfleVV _ _ _ _ _ = _; rw [h20_3, h14_6, h8_6, h5_3, h0_1], rfl⟩

theorem Encoding.vmseqVS (d : BitVec 3) (a : BitVec 6) (b : BitVec 5) (km : BitVec 3) (cv : BitVec 1) : Encoding.Statement (.vmseqVS d a b km cv) := by
  intro w hw
  have e : w = 0x27#6 ++ 0x0#3 ++ d ++ a ++ b ++ 0x0#1 ++ km ++ 0x8#4 ++ cv := (Option.some.inj hw).symm
  have h26_6 : fld w 26 6 = 0x27#6 := rd e (hi rfl (hi rfl (hi rfl (hi rfl (hi rfl (hi rfl (hi rfl (hi rfl (whole _)))))))))
  have h1_4 : fld w 1 4 = 0x8#4 := rd e (hi rfl (lo rfl (whole _)))
  have h23_3 : fld w 23 3 = 0x0#3 := rd e (hi rfl (hi rfl (hi rfl (hi rfl (hi rfl (hi rfl (hi rfl (lo rfl (whole _)))))))))
  have h8_1 : fld w 8 1 = 0x0#1 := rd e (hi rfl (hi rfl (hi rfl (lo rfl (whole _)))))
  have h20_3 : fld w 20 3 = d := rd e (hi rfl (hi rfl (hi rfl (hi rfl (hi rfl (hi rfl (lo rfl (whole _))))))))
  have h14_6 : fld w 14 6 = a := rd e (hi rfl (hi rfl (hi rfl (hi rfl (hi rfl (lo rfl (whole _)))))))
  have h9_5 : fld w 9 5 = b := rd e (hi rfl (hi rfl (hi rfl (hi rfl (lo rfl (whole _))))))
  have h5_3 : fld w 5 3 = km := rd e (hi rfl (hi rfl (lo rfl (whole _))))
  have h0_1 : fld w 0 1 = cv := rd e (lo rfl (whole _))
  exact ⟨.vmseqVS, (select27 h26_6).trans (by delta decodeMajor27; rw [h1_4, h23_3, h8_1]; rfl), by show Instr.vmseqVS _ _ _ _ _ = _; rw [h20_3, h14_6, h9_5, h5_3, h0_1], rfl⟩

theorem Encoding.vmsneVS (d : BitVec 3) (a : BitVec 6) (b : BitVec 5) (km : BitVec 3) (cv : BitVec 1) : Encoding.Statement (.vmsneVS d a b km cv) := by
  intro w hw
  have e : w = 0x27#6 ++ 0x0#3 ++ d ++ a ++ b ++ 0x0#1 ++ km ++ 0x9#4 ++ cv := (Option.some.inj hw).symm
  have h26_6 : fld w 26 6 = 0x27#6 := rd e (hi rfl (hi rfl (hi rfl (hi rfl (hi rfl (hi rfl (hi rfl (hi rfl (whole _)))))))))
  have h1_4 : fld w 1 4 = 0x9#4 := rd e (hi rfl (lo rfl (whole _)))
  have h23_3 : fld w 23 3 = 0x0#3 := rd e (hi rfl (hi rfl (hi rfl (hi rfl (hi rfl (hi rfl (hi rfl (lo rfl (whole _)))))))))
  have h8_1 : fld w 8 1 = 0x0#1 := rd e (hi rfl (hi rfl (hi rfl (lo rfl (whole _)))))
  have h20_3 : fld w 20 3 = d := rd e (hi rfl (hi rfl (hi rfl (hi rfl (hi rfl (hi rfl (lo rfl (whole _))))))))
  have h14_6 : fld w 14 6 = a := rd e (hi rfl (hi rfl (hi rfl (hi rfl (hi rfl (lo rfl (whole _)))))))
  have h9_5 : fld w 9 5 = b := rd e (hi rfl (hi rfl (hi rfl (hi rfl (lo rfl (whole _))))))
  have h5_3 : fld w 5 3 = km := rd e (hi rfl (hi rfl (lo rfl (whole _))))
  have h0_1 : fld w 0 1 = cv := rd e (lo rfl (whole _))
  exact ⟨.vmsneVS, (select27 h26_6).trans (by delta decodeMajor27; rw [h1_4, h23_3, h8_1]; rfl), by show Instr.vmsneVS _ _ _ _ _ = _; rw [h20_3, h14_6, h9_5, h5_3, h0_1], rfl⟩

theorem Encoding.vmsltVS (d : BitVec 3) (a : BitVec 6) (b : BitVec 5) (km : BitVec 3) (cv : BitVec 1) : Encoding.Statement (.vmsltVS d a b km cv) := by
  intro w hw
  have e : w = 0x27#6 ++ 0x0#3 ++ d ++ a ++ b ++ 0x0#1 ++ km ++ 0xA#4 ++ cv := (Option.some.inj hw).symm
  have h26_6 : fld w 26 6 = 0x27#6 := rd e (hi rfl (hi rfl (hi rfl (hi rfl (hi rfl (hi rfl (hi rfl (hi rfl (whole _)))))))))
  have h1_4 : fld w 1 4 = 0xA#4 := rd e (hi rfl (lo rfl (whole _)))
  have h23_3 : fld w 23 3 = 0x0#3 := rd e (hi rfl (hi rfl (hi rfl (hi rfl (hi rfl (hi rfl (hi rfl (lo rfl (whole _)))))))))
  have h8_1 : fld w 8 1 = 0x0#1 := rd e (hi rfl (hi rfl (hi rfl (lo rfl (whole _)))))
  have h20_3 : fld w 20 3 = d := rd e (hi rfl (hi rfl (hi rfl (hi rfl (hi rfl (hi rfl (lo rfl (whole _))))))))
  have h14_6 : fld w 14 6 = a := rd e (hi rfl (hi rfl (hi rfl (hi rfl (hi rfl (lo rfl (whole _)))))))
  have h9_5 : fld w 9 5 = b := rd e (hi rfl (hi rfl (hi rfl (hi rfl (lo rfl (whole _))))))
  have h5_3 : fld w 5 3 = km := rd e (hi rfl (hi rfl (lo rfl (whole _))))
  have h0_1 : fld w 0 1 = cv := rd e (lo rfl (whole _))
  exact ⟨.vmsltVS, (select27 h26_6).trans (by delta decodeMajor27; rw [h1_4, h23_3, h8_1]; rfl), by show Instr.vmsltVS _ _ _ _ _ = _; rw [h20_3, h14_6, h9_5, h5_3, h0_1], rfl⟩

theorem Encoding.vmsleVS (d : BitVec 3) (a : BitVec 6) (b : BitVec 5) (km : BitVec 3) (cv : BitVec 1) : Encoding.Statement (.vmsleVS d a b km cv) := by
  intro w hw
  have e : w = 0x27#6 ++ 0x0#3 ++ d ++ a ++ b ++ 0x0#1 ++ km ++ 0xB#4 ++ cv := (Option.some.inj hw).symm
  have h26_6 : fld w 26 6 = 0x27#6 := rd e (hi rfl (hi rfl (hi rfl (hi rfl (hi rfl (hi rfl (hi rfl (hi rfl (whole _)))))))))
  have h1_4 : fld w 1 4 = 0xB#4 := rd e (hi rfl (lo rfl (whole _)))
  have h23_3 : fld w 23 3 = 0x0#3 := rd e (hi rfl (hi rfl (hi rfl (hi rfl (hi rfl (hi rfl (hi rfl (lo rfl (whole _)))))))))
  have h8_1 : fld w 8 1 = 0x0#1 := rd e (hi rfl (hi rfl (hi rfl (lo rfl (whole _)))))
  have h20_3 : fld w 20 3 = d := rd e (hi rfl (hi rfl (hi rfl (hi rfl (hi rfl (hi rfl (lo rfl (whole _))))))))
  have h14_6 : fld w 14 6 = a := rd e (hi rfl (hi rfl (hi rfl (hi rfl (hi rfl (lo rfl (whole _)))))))
  have h9_5 : fld w 9 5 = b := rd e (hi rfl (hi rfl (hi rfl (hi rfl (lo rfl (whole _))))))
  have h5_3 : fld w 5 3 = km := rd e (hi rfl (hi rfl (lo rfl (whole _))))
  have h0_1 : fld w 0 1 = cv := rd e (lo rfl (whole _))
  exact ⟨.vmsleVS, (select27 h26_6).trans (by delta decodeMajor27; rw [h1_4, h23_3, h8_1]; rfl), by show Instr.vmsleVS _ _ _ _ _ = _; rw [h20_3, h14_6, h9_5, h5_3, h0_1], rfl⟩

theorem Encoding.vmfeqVS (d : BitVec 3) (a : BitVec 6) (b : BitVec 5) (km : BitVec 3) (cv : BitVec 1) : Encoding.Statement (.vmfeqVS d a b km cv) := by
  intro w hw
  have e : w = 0x27#6 ++ 0x0#3 ++ d ++ a ++ b ++ 0x0#1 ++ km ++ 0xC#4 ++ cv := (Option.some.inj hw).symm
  have h26_6 : fld w 26 6 = 0x27#6 := rd e (hi rfl (hi rfl (hi rfl (hi rfl (hi rfl (hi rfl (hi rfl (hi rfl (whole _)))))))))
  have h1_4 : fld w 1 4 = 0xC#4 := rd e (hi rfl (lo rfl (whole _)))
  have h23_3 : fld w 23 3 = 0x0#3 := rd e (hi rfl (hi rfl (hi rfl (hi rfl (hi rfl (hi rfl (hi rfl (lo rfl (whole _)))))))))
  have h8_1 : fld w 8 1 = 0x0#1 := rd e (hi rfl (hi rfl (hi rfl (lo rfl (whole _)))))
  have h20_3 : fld w 20 3 = d := rd e (hi rfl (hi rfl (hi rfl (hi rfl (hi rfl (hi rfl (lo rfl (whole _))))))))
  have h14_6 : fld w 14 6 = a := rd e (hi rfl (hi rfl (hi rfl (hi rfl (hi rfl (lo rfl (whole _)))))))
  have h9_5 : fld w 9 5 = b := rd e (hi rfl (hi rfl (hi rfl (hi rfl (lo rfl (whole _))))))
  have h5_3 : fld w 5 3 = km := rd e (hi rfl (hi rfl (lo rfl (whole _))))
  have h0_1 : fld w 0 1 = cv := rd e (lo rfl (whole _))
  exact ⟨.vmfeqVS, (select27 h26_6).trans (by delta decodeMajor27; rw [h1_4, h23_3, h8_1]; rfl), by show Instr.vmfeqVS _ _ _ _ _ = _; rw [h20_3, h14_6, h9_5, h5_3, h0_1], rfl⟩

theorem Encoding.vmfltVS (d : BitVec 3) (a : BitVec 6) (b : BitVec 5) (km : BitVec 3) (cv : BitVec 1) : Encoding.Statement (.vmfltVS d a b km cv) := by
  intro w hw
  have e : w = 0x27#6 ++ 0x0#3 ++ d ++ a ++ b ++ 0x0#1 ++ km ++ 0xD#4 ++ cv := (Option.some.inj hw).symm
  have h26_6 : fld w 26 6 = 0x27#6 := rd e (hi rfl (hi rfl (hi rfl (hi rfl (hi rfl (hi rfl (hi rfl (hi rfl (whole _)))))))))
  have h1_4 : fld w 1 4 = 0xD#4 := rd e (hi rfl (lo rfl (whole _)))
  have h23_3 : fld w 23 3 = 0x0#3 := rd e (hi rfl (hi rfl (hi rfl (hi rfl (hi rfl (hi rfl (hi rfl (lo rfl (whole _)))))))))
  have h8_1 : fld w 8 1 = 0x0#1 := rd e (hi rfl (hi rfl (hi rfl (lo rfl (whole _)))))
  have h20_3 : fld w 20 3 = d := rd e (hi rfl (hi rfl (hi rfl (hi rfl (hi rfl (hi rfl (lo rfl (whole _))))))))
  have h14_6 : fld w 14 6 = a := rd e (hi rfl (hi rfl (hi rfl (hi rfl (hi rfl (lo rfl (whole _)))))))
  have h9_5 : fld w 9 5 = b := rd e (hi rfl (hi rfl (hi rfl (hi rfl (lo rfl (whole _))))))
  have h5_3 : fld w 5 3 = km := rd e (hi rfl (hi rfl (lo rfl (whole _))))
  have h0_1 : fld w 0 1 = cv := rd e (lo rfl (whole _))
  exact ⟨.vmfltVS, (select27 h26_6).trans (by delta decodeMajor27; rw [h1_4, h23_3, h8_1]; rfl), by show Instr.vmfltVS _ _ _ _ _ = _; rw [h20_3, h14_6, h9_5, h5_3, h0_1], rfl⟩

theorem Encoding.vmfleVS (d : BitVec 3) (a : BitVec 6) (b : BitVec 5) (km : BitVec 3) (cv : BitVec 1) : Encoding.Statement (.vmfleVS d a b km cv) := by
  intro w hw
  have e : w = 0x27#6 ++ 0x0#3 ++ d ++ a ++ b ++ 0x0#1 ++ km ++ 0xE#4 ++ cv := (Option.some.inj hw).symm
  have h26_6 : fld w 26 6 = 0x27#6 := rd e (hi rfl (hi rfl (hi rfl (hi rfl (hi rfl (hi rfl (hi rfl (hi rfl (whole _)))))))))
  have h1_4 : fld w 1 4 = 0xE#4 := rd e (hi rfl (lo rfl (whole _)))
  have h23_3 : fld w 23 3 = 0x0#3 := rd e (hi rfl (hi rfl (hi rfl (hi rfl (hi rfl (hi rfl (hi rfl (lo rfl (whole _)))))))))
  have h8_1 : fld w 8 1 = 0x0#1 := rd e (hi rfl (hi rfl (hi rfl (lo rfl (whole _)))))
  have h20_3 : fld w 20 3 = d := rd e (hi rfl (hi rfl (hi rfl (hi rfl (hi rfl (hi rfl (lo rfl (whole _))))))))
  have h14_6 : fld w 14 6 = a := rd e (hi rfl (hi rfl (hi rfl (hi rfl (hi rfl (lo rfl (whole _)))))))
  have h9_5 : fld w 9 5 = b := rd e (hi rfl (hi rfl (hi rfl (hi rfl (lo rfl (whole _))))))
  have h5_3 : fld w 5 3 = km := rd e (hi rfl (hi rfl (lo rfl (whole _))))
  have h0_1 : fld w 0 1 = cv := rd e (lo rfl (whole _))
  exact ⟨.vmfleVS, (select27 h26_6).trans (by delta decodeMajor27; rw [h1_4, h23_3, h8_1]; rfl), by show Instr.vmfleVS _ _ _ _ _ = _; rw [h20_3, h14_6, h9_5, h5_3, h0_1], rfl⟩

theorem Encoding.vmand (d a b km : BitVec 3) (cv : BitVec 1) : Encoding.Statement (.vmand d a b km cv) := by
  intro w hw
  have e : w = 0x28#6 ++ 0x0#3 ++ d ++ 0x0#3 ++ a ++ 0x0#3 ++ b ++ km ++ 0x0#4 ++ cv := (Option.some.inj hw).symm
  have h26_6 : fld w 26 6 = 0x28#6 := rd e (hi rfl (hi rfl (hi rfl (hi rfl (hi rfl (hi rfl (hi rfl (hi rfl (hi rfl (whole _))))))))))
  have h1_4 : fld w 1 4 = 0x0#4 := rd e (hi rfl (lo rfl (whole _)))
  have h23_3 : fld w 23 3 = 0x0#3 := rd e (hi rfl (hi rfl (hi rfl (hi rfl (hi rfl (hi rfl (hi rfl (hi rfl (lo rfl (whole _))))))))))
  have h17_3 : fld w 17 3 = 0x0#3 := rd e (hi rfl (hi rfl (hi rfl (hi rfl (hi rfl (hi rfl (lo rfl (whole _))))))))
  have h11_3 : fld w 11 3 = 0x0#3 := rd e (hi rfl (hi rfl (hi rfl (hi rfl (lo rfl (whole _))))))
  have h20_3 : fld w 20 3 = d := rd e (hi rfl (hi rfl (hi rfl (hi rfl (hi rfl (hi rfl (hi rfl (lo rfl (whole _)))))))))
  have h14_3 : fld w 14 3 = a := rd e (hi rfl (hi rfl (hi rfl (hi rfl (hi rfl (lo rfl (whole _)))))))
  have h8_3 : fld w 8 3 = b := rd e (hi rfl (hi rfl (hi rfl (lo rfl (whole _)))))
  have h5_3 : fld w 5 3 = km := rd e (hi rfl (hi rfl (lo rfl (whole _))))
  have h0_1 : fld w 0 1 = cv := rd e (lo rfl (whole _))
  exact ⟨.vmand, (select28 h26_6).trans (by delta decodeMajor28; rw [h1_4, h23_3, h17_3, h11_3]; rfl), by show Instr.vmand _ _ _ _ _ = _; rw [h20_3, h14_3, h8_3, h5_3, h0_1], rfl⟩

theorem Encoding.vmor (d a b km : BitVec 3) (cv : BitVec 1) : Encoding.Statement (.vmor d a b km cv) := by
  intro w hw
  have e : w = 0x28#6 ++ 0x0#3 ++ d ++ 0x0#3 ++ a ++ 0x0#3 ++ b ++ km ++ 0x1#4 ++ cv := (Option.some.inj hw).symm
  have h26_6 : fld w 26 6 = 0x28#6 := rd e (hi rfl (hi rfl (hi rfl (hi rfl (hi rfl (hi rfl (hi rfl (hi rfl (hi rfl (whole _))))))))))
  have h1_4 : fld w 1 4 = 0x1#4 := rd e (hi rfl (lo rfl (whole _)))
  have h23_3 : fld w 23 3 = 0x0#3 := rd e (hi rfl (hi rfl (hi rfl (hi rfl (hi rfl (hi rfl (hi rfl (hi rfl (lo rfl (whole _))))))))))
  have h17_3 : fld w 17 3 = 0x0#3 := rd e (hi rfl (hi rfl (hi rfl (hi rfl (hi rfl (hi rfl (lo rfl (whole _))))))))
  have h11_3 : fld w 11 3 = 0x0#3 := rd e (hi rfl (hi rfl (hi rfl (hi rfl (lo rfl (whole _))))))
  have h20_3 : fld w 20 3 = d := rd e (hi rfl (hi rfl (hi rfl (hi rfl (hi rfl (hi rfl (hi rfl (lo rfl (whole _)))))))))
  have h14_3 : fld w 14 3 = a := rd e (hi rfl (hi rfl (hi rfl (hi rfl (hi rfl (lo rfl (whole _)))))))
  have h8_3 : fld w 8 3 = b := rd e (hi rfl (hi rfl (hi rfl (lo rfl (whole _)))))
  have h5_3 : fld w 5 3 = km := rd e (hi rfl (hi rfl (lo rfl (whole _))))
  have h0_1 : fld w 0 1 = cv := rd e (lo rfl (whole _))
  exact ⟨.vmor, (select28 h26_6).trans (by delta decodeMajor28; rw [h1_4, h23_3, h17_3, h11_3]; rfl), by show Instr.vmor _ _ _ _ _ = _; rw [h20_3, h14_3, h8_3, h5_3, h0_1], rfl⟩

theorem Encoding.vmxor (d a b km : BitVec 3) (cv : BitVec 1) : Encoding.Statement (.vmxor d a b km cv) := by
  intro w hw
  have e : w = 0x28#6 ++ 0x0#3 ++ d ++ 0x0#3 ++ a ++ 0x0#3 ++ b ++ km ++ 0x2#4 ++ cv := (Option.some.inj hw).symm
  have h26_6 : fld w 26 6 = 0x28#6 := rd e (hi rfl (hi rfl (hi rfl (hi rfl (hi rfl (hi rfl (hi rfl (hi rfl (hi rfl (whole _))))))))))
  have h1_4 : fld w 1 4 = 0x2#4 := rd e (hi rfl (lo rfl (whole _)))
  have h23_3 : fld w 23 3 = 0x0#3 := rd e (hi rfl (hi rfl (hi rfl (hi rfl (hi rfl (hi rfl (hi rfl (hi rfl (lo rfl (whole _))))))))))
  have h17_3 : fld w 17 3 = 0x0#3 := rd e (hi rfl (hi rfl (hi rfl (hi rfl (hi rfl (hi rfl (lo rfl (whole _))))))))
  have h11_3 : fld w 11 3 = 0x0#3 := rd e (hi rfl (hi rfl (hi rfl (hi rfl (lo rfl (whole _))))))
  have h20_3 : fld w 20 3 = d := rd e (hi rfl (hi rfl (hi rfl (hi rfl (hi rfl (hi rfl (hi rfl (lo rfl (whole _)))))))))
  have h14_3 : fld w 14 3 = a := rd e (hi rfl (hi rfl (hi rfl (hi rfl (hi rfl (lo rfl (whole _)))))))
  have h8_3 : fld w 8 3 = b := rd e (hi rfl (hi rfl (hi rfl (lo rfl (whole _)))))
  have h5_3 : fld w 5 3 = km := rd e (hi rfl (hi rfl (lo rfl (whole _))))
  have h0_1 : fld w 0 1 = cv := rd e (lo rfl (whole _))
  exact ⟨.vmxor, (select28 h26_6).trans (by delta decodeMajor28; rw [h1_4, h23_3, h17_3, h11_3]; rfl), by show Instr.vmxor _ _ _ _ _ = _; rw [h20_3, h14_3, h8_3, h5_3, h0_1], rfl⟩

theorem Encoding.vmandn (d a b km : BitVec 3) (cv : BitVec 1) : Encoding.Statement (.vmandn d a b km cv) := by
  intro w hw
  have e : w = 0x28#6 ++ 0x0#3 ++ d ++ 0x0#3 ++ a ++ 0x0#3 ++ b ++ km ++ 0x3#4 ++ cv := (Option.some.inj hw).symm
  have h26_6 : fld w 26 6 = 0x28#6 := rd e (hi rfl (hi rfl (hi rfl (hi rfl (hi rfl (hi rfl (hi rfl (hi rfl (hi rfl (whole _))))))))))
  have h1_4 : fld w 1 4 = 0x3#4 := rd e (hi rfl (lo rfl (whole _)))
  have h23_3 : fld w 23 3 = 0x0#3 := rd e (hi rfl (hi rfl (hi rfl (hi rfl (hi rfl (hi rfl (hi rfl (hi rfl (lo rfl (whole _))))))))))
  have h17_3 : fld w 17 3 = 0x0#3 := rd e (hi rfl (hi rfl (hi rfl (hi rfl (hi rfl (hi rfl (lo rfl (whole _))))))))
  have h11_3 : fld w 11 3 = 0x0#3 := rd e (hi rfl (hi rfl (hi rfl (hi rfl (lo rfl (whole _))))))
  have h20_3 : fld w 20 3 = d := rd e (hi rfl (hi rfl (hi rfl (hi rfl (hi rfl (hi rfl (hi rfl (lo rfl (whole _)))))))))
  have h14_3 : fld w 14 3 = a := rd e (hi rfl (hi rfl (hi rfl (hi rfl (hi rfl (lo rfl (whole _)))))))
  have h8_3 : fld w 8 3 = b := rd e (hi rfl (hi rfl (hi rfl (lo rfl (whole _)))))
  have h5_3 : fld w 5 3 = km := rd e (hi rfl (hi rfl (lo rfl (whole _))))
  have h0_1 : fld w 0 1 = cv := rd e (lo rfl (whole _))
  exact ⟨.vmandn, (select28 h26_6).trans (by delta decodeMajor28; rw [h1_4, h23_3, h17_3, h11_3]; rfl), by show Instr.vmandn _ _ _ _ _ = _; rw [h20_3, h14_3, h8_3, h5_3, h0_1], rfl⟩

theorem Encoding.vcpop (d : BitVec 5) (a km : BitVec 3) (cv : BitVec 1) : Encoding.Statement (.vcpop d a km cv) := by
  intro w hw
  have e : w = 0x28#6 ++ 0x0#1 ++ d ++ 0x0#3 ++ a ++ 0x0#6 ++ km ++ 0x4#4 ++ cv := (Option.some.inj hw).symm
  have h26_6 : fld w 26 6 = 0x28#6 := rd e (hi rfl (hi rfl (hi rfl (hi rfl (hi rfl (hi rfl (hi rfl (hi rfl (whole _)))))))))
  have h1_4 : fld w 1 4 = 0x4#4 := rd e (hi rfl (lo rfl (whole _)))
  have h25_1 : fld w 25 1 = 0x0#1 := rd e (hi rfl (hi rfl (hi rfl (hi rfl (hi rfl (hi rfl (hi rfl (lo rfl (whole _)))))))))
  have h17_3 : fld w 17 3 = 0x0#3 := rd e (hi rfl (hi rfl (hi rfl (hi rfl (hi rfl (lo rfl (whole _)))))))
  have h8_6 : fld w 8 6 = 0x0#6 := rd e (hi rfl (hi rfl (hi rfl (lo rfl (whole _)))))
  have h20_5 : fld w 20 5 = d := rd e (hi rfl (hi rfl (hi rfl (hi rfl (hi rfl (hi rfl (lo rfl (whole _))))))))
  have h14_3 : fld w 14 3 = a := rd e (hi rfl (hi rfl (hi rfl (hi rfl (lo rfl (whole _))))))
  have h5_3 : fld w 5 3 = km := rd e (hi rfl (hi rfl (lo rfl (whole _))))
  have h0_1 : fld w 0 1 = cv := rd e (lo rfl (whole _))
  exact ⟨.vcpop, (select28 h26_6).trans (by delta decodeMajor28; rw [h1_4, h25_1, h17_3, h8_6]; rfl), by show Instr.vcpop _ _ _ _ = _; rw [h20_5, h14_3, h5_3, h0_1], rfl⟩

theorem Encoding.vfirst (d : BitVec 5) (a km : BitVec 3) (cv : BitVec 1) : Encoding.Statement (.vfirst d a km cv) := by
  intro w hw
  have e : w = 0x28#6 ++ 0x0#1 ++ d ++ 0x0#3 ++ a ++ 0x0#6 ++ km ++ 0x5#4 ++ cv := (Option.some.inj hw).symm
  have h26_6 : fld w 26 6 = 0x28#6 := rd e (hi rfl (hi rfl (hi rfl (hi rfl (hi rfl (hi rfl (hi rfl (hi rfl (whole _)))))))))
  have h1_4 : fld w 1 4 = 0x5#4 := rd e (hi rfl (lo rfl (whole _)))
  have h25_1 : fld w 25 1 = 0x0#1 := rd e (hi rfl (hi rfl (hi rfl (hi rfl (hi rfl (hi rfl (hi rfl (lo rfl (whole _)))))))))
  have h17_3 : fld w 17 3 = 0x0#3 := rd e (hi rfl (hi rfl (hi rfl (hi rfl (hi rfl (lo rfl (whole _)))))))
  have h8_6 : fld w 8 6 = 0x0#6 := rd e (hi rfl (hi rfl (hi rfl (lo rfl (whole _)))))
  have h20_5 : fld w 20 5 = d := rd e (hi rfl (hi rfl (hi rfl (hi rfl (hi rfl (hi rfl (lo rfl (whole _))))))))
  have h14_3 : fld w 14 3 = a := rd e (hi rfl (hi rfl (hi rfl (hi rfl (lo rfl (whole _))))))
  have h5_3 : fld w 5 3 = km := rd e (hi rfl (hi rfl (lo rfl (whole _))))
  have h0_1 : fld w 0 1 = cv := rd e (lo rfl (whole _))
  exact ⟨.vfirst, (select28 h26_6).trans (by delta decodeMajor28; rw [h1_4, h25_1, h17_3, h8_6]; rfl), by show Instr.vfirst _ _ _ _ = _; rw [h20_5, h14_3, h5_3, h0_1], rfl⟩

theorem Encoding.vmvVV (d a : BitVec 6) (km : BitVec 3) (cv : BitVec 1) : Encoding.Statement (.vmvVV d a km cv) := by
  intro w hw
  have e : w = 0x29#6 ++ d ++ a ++ 0x0#6 ++ km ++ 0x0#4 ++ cv := (Option.some.inj hw).symm
  have h26_6 : fld w 26 6 = 0x29#6 := rd e (hi rfl (hi rfl (hi rfl (hi rfl (hi rfl (hi rfl (whole _)))))))
  have h1_4 : fld w 1 4 = 0x0#4 := rd e (hi rfl (lo rfl (whole _)))
  have h8_6 : fld w 8 6 = 0x0#6 := rd e (hi rfl (hi rfl (hi rfl (lo rfl (whole _)))))
  have h20_6 : fld w 20 6 = d := rd e (hi rfl (hi rfl (hi rfl (hi rfl (hi rfl (lo rfl (whole _)))))))
  have h14_6 : fld w 14 6 = a := rd e (hi rfl (hi rfl (hi rfl (hi rfl (lo rfl (whole _))))))
  have h5_3 : fld w 5 3 = km := rd e (hi rfl (hi rfl (lo rfl (whole _))))
  have h0_1 : fld w 0 1 = cv := rd e (lo rfl (whole _))
  exact ⟨.vmvVV, (select29 h26_6).trans (by delta decodeMajor29; rw [h1_4, h8_6]; rfl), by show Instr.vmvVV _ _ _ _ = _; rw [h20_6, h14_6, h5_3, h0_1], rfl⟩

theorem Encoding.vmvsx (d : BitVec 6) (b : BitVec 5) (km : BitVec 3) (cv : BitVec 1) : Encoding.Statement (.vmvsx d b km cv) := by
  intro w hw
  have e : w = 0x29#6 ++ d ++ 0x0#6 ++ b ++ 0x0#1 ++ km ++ 0x1#4 ++ cv := (Option.some.inj hw).symm
  have h26_6 : fld w 26 6 = 0x29#6 := rd e (hi rfl (hi rfl (hi rfl (hi rfl (hi rfl (hi rfl (hi rfl (whole _))))))))
  have h1_4 : fld w 1 4 = 0x1#4 := rd e (hi rfl (lo rfl (whole _)))
  have h14_6 : fld w 14 6 = 0x0#6 := rd e (hi rfl (hi rfl (hi rfl (hi rfl (hi rfl (lo rfl (whole _)))))))
  have h8_1 : fld w 8 1 = 0x0#1 := rd e (hi rfl (hi rfl (hi rfl (lo rfl (whole _)))))
  have h20_6 : fld w 20 6 = d := rd e (hi rfl (hi rfl (hi rfl (hi rfl (hi rfl (hi rfl (lo rfl (whole _))))))))
  have h9_5 : fld w 9 5 = b := rd e (hi rfl (hi rfl (hi rfl (hi rfl (lo rfl (whole _))))))
  have h5_3 : fld w 5 3 = km := rd e (hi rfl (hi rfl (lo rfl (whole _))))
  have h0_1 : fld w 0 1 = cv := rd e (lo rfl (whole _))
  exact ⟨.vmvsx, (select29 h26_6).trans (by delta decodeMajor29; rw [h1_4, h14_6, h8_1]; rfl), by show Instr.vmvsx _ _ _ _ = _; rw [h20_6, h9_5, h5_3, h0_1], rfl⟩

theorem Encoding.vmvxs (d : BitVec 5) (a : BitVec 6) (km : BitVec 3) (cv : BitVec 1) : Encoding.Statement (.vmvxs d a km cv) := by
  intro w hw
  have e : w = 0x29#6 ++ 0x0#1 ++ d ++ a ++ 0x0#6 ++ km ++ 0x2#4 ++ cv := (Option.some.inj hw).symm
  have h26_6 : fld w 26 6 = 0x29#6 := rd e (hi rfl (hi rfl (hi rfl (hi rfl (hi rfl (hi rfl (hi rfl (whole _))))))))
  have h1_4 : fld w 1 4 = 0x2#4 := rd e (hi rfl (lo rfl (whole _)))
  have h25_1 : fld w 25 1 = 0x0#1 := rd e (hi rfl (hi rfl (hi rfl (hi rfl (hi rfl (hi rfl (lo rfl (whole _))))))))
  have h8_6 : fld w 8 6 = 0x0#6 := rd e (hi rfl (hi rfl (hi rfl (lo rfl (whole _)))))
  have h20_5 : fld w 20 5 = d := rd e (hi rfl (hi rfl (hi rfl (hi rfl (hi rfl (lo rfl (whole _)))))))
  have h14_6 : fld w 14 6 = a := rd e (hi rfl (hi rfl (hi rfl (hi rfl (lo rfl (whole _))))))
  have h5_3 : fld w 5 3 = km := rd e (hi rfl (hi rfl (lo rfl (whole _))))
  have h0_1 : fld w 0 1 = cv := rd e (lo rfl (whole _))
  exact ⟨.vmvxs, (select29 h26_6).trans (by delta decodeMajor29; rw [h1_4, h25_1, h8_6]; rfl), by show Instr.vmvxs _ _ _ _ = _; rw [h20_5, h14_6, h5_3, h0_1], rfl⟩

theorem Encoding.vslideupVS (d a : BitVec 6) (b : BitVec 5) (km : BitVec 3) (cv : BitVec 1) : Encoding.Statement (.vslideupVS d a b km cv) := by
  intro w hw
  have e : w = 0x29#6 ++ d ++ a ++ b ++ 0x0#1 ++ km ++ 0x3#4 ++ cv := (Option.some.inj hw).symm
  have h26_6 : fld w 26 6 = 0x29#6 := rd e (hi rfl (hi rfl (hi rfl (hi rfl (hi rfl (hi rfl (hi rfl (whole _))))))))
  have h1_4 : fld w 1 4 = 0x3#4 := rd e (hi rfl (lo rfl (whole _)))
  have h8_1 : fld w 8 1 = 0x0#1 := rd e (hi rfl (hi rfl (hi rfl (lo rfl (whole _)))))
  have h20_6 : fld w 20 6 = d := rd e (hi rfl (hi rfl (hi rfl (hi rfl (hi rfl (hi rfl (lo rfl (whole _))))))))
  have h14_6 : fld w 14 6 = a := rd e (hi rfl (hi rfl (hi rfl (hi rfl (hi rfl (lo rfl (whole _)))))))
  have h9_5 : fld w 9 5 = b := rd e (hi rfl (hi rfl (hi rfl (hi rfl (lo rfl (whole _))))))
  have h5_3 : fld w 5 3 = km := rd e (hi rfl (hi rfl (lo rfl (whole _))))
  have h0_1 : fld w 0 1 = cv := rd e (lo rfl (whole _))
  exact ⟨.vslideupVS, (select29 h26_6).trans (by delta decodeMajor29; rw [h1_4, h8_1]; rfl), by show Instr.vslideupVS _ _ _ _ _ = _; rw [h20_6, h14_6, h9_5, h5_3, h0_1], rfl⟩

theorem Encoding.vslidednVS (d a : BitVec 6) (b : BitVec 5) (km : BitVec 3) (cv : BitVec 1) : Encoding.Statement (.vslidednVS d a b km cv) := by
  intro w hw
  have e : w = 0x29#6 ++ d ++ a ++ b ++ 0x0#1 ++ km ++ 0x4#4 ++ cv := (Option.some.inj hw).symm
  have h26_6 : fld w 26 6 = 0x29#6 := rd e (hi rfl (hi rfl (hi rfl (hi rfl (hi rfl (hi rfl (hi rfl (whole _))))))))
  have h1_4 : fld w 1 4 = 0x4#4 := rd e (hi rfl (lo rfl (whole _)))
  have h8_1 : fld w 8 1 = 0x0#1 := rd e (hi rfl (hi rfl (hi rfl (lo rfl (whole _)))))
  have h20_6 : fld w 20 6 = d := rd e (hi rfl (hi rfl (hi rfl (hi rfl (hi rfl (hi rfl (lo rfl (whole _))))))))
  have h14_6 : fld w 14 6 = a := rd e (hi rfl (hi rfl (hi rfl (hi rfl (hi rfl (lo rfl (whole _)))))))
  have h9_5 : fld w 9 5 = b := rd e (hi rfl (hi rfl (hi rfl (hi rfl (lo rfl (whole _))))))
  have h5_3 : fld w 5 3 = km := rd e (hi rfl (hi rfl (lo rfl (whole _))))
  have h0_1 : fld w 0 1 = cv := rd e (lo rfl (whole _))
  exact ⟨.vslidednVS, (select29 h26_6).trans (by delta decodeMajor29; rw [h1_4, h8_1]; rfl), by show Instr.vslidednVS _ _ _ _ _ = _; rw [h20_6, h14_6, h9_5, h5_3, h0_1], rfl⟩

theorem Encoding.vslideupVI (d a imm : BitVec 6) (km : BitVec 3) (cv : BitVec 1) : Encoding.Statement (.vslideupVI d a imm km cv) := by
  intro w hw
  have e : w = 0x29#6 ++ d ++ a ++ imm ++ km ++ 0x5#4 ++ cv := (Option.some.inj hw).symm
  have h26_6 : fld w 26 6 = 0x29#6 := rd e (hi rfl (hi rfl (hi rfl (hi rfl (hi rfl (hi rfl (whole _)))))))
  have h1_4 : fld w 1 4 = 0x5#4 := rd e (hi rfl (lo rfl (whole _)))
  have h20_6 : fld w 20 6 = d := rd e (hi rfl (hi rfl (hi rfl (hi rfl (hi rfl (lo rfl (whole _)))))))
  have h14_6 : fld w 14 6 = a := rd e (hi rfl (hi rfl (hi rfl (hi rfl (lo rfl (whole _))))))
  have h8_6 : fld w 8 6 = imm := rd e (hi rfl (hi rfl (hi rfl (lo rfl (whole _)))))
  have h5_3 : fld w 5 3 = km := rd e (hi rfl (hi rfl (lo rfl (whole _))))
  have h0_1 : fld w 0 1 = cv := rd e (lo rfl (whole _))
  exact ⟨.vslideupVI, (select29 h26_6).trans (by delta decodeMajor29; rw [h1_4]; rfl), by show Instr.vslideupVI _ _ _ _ _ = _; rw [h20_6, h14_6, h8_6, h5_3, h0_1], rfl⟩

theorem Encoding.vslidednVI (d a imm : BitVec 6) (km : BitVec 3) (cv : BitVec 1) : Encoding.Statement (.vslidednVI d a imm km cv) := by
  intro w hw
  have e : w = 0x29#6 ++ d ++ a ++ imm ++ km ++ 0x6#4 ++ cv := (Option.some.inj hw).symm
  have h26_6 : fld w 26 6 = 0x29#6 := rd e (hi rfl (hi rfl (hi rfl (hi rfl (hi rfl (hi rfl (whole _)))))))
  have h1_4 : fld w 1 4 = 0x6#4 := rd e (hi rfl (lo rfl (whole _)))
  have h20_6 : fld w 20 6 = d := rd e (hi rfl (hi rfl (hi rfl (hi rfl (hi rfl (lo rfl (whole _)))))))
  have h14_6 : fld w 14 6 = a := rd e (hi rfl (hi rfl (hi rfl (hi rfl (lo rfl (whole _))))))
  have h8_6 : fld w 8 6 = imm := rd e (hi rfl (hi rfl (hi rfl (lo rfl (whole _)))))
  have h5_3 : fld w 5 3 = km := rd e (hi rfl (hi rfl (lo rfl (whole _))))
  have h0_1 : fld w 0 1 = cv := rd e (lo rfl (whole _))
  exact ⟨.vslidednVI, (select29 h26_6).trans (by delta decodeMajor29; rw [h1_4]; rfl), by show Instr.vslidednVI _ _ _ _ _ = _; rw [h20_6, h14_6, h8_6, h5_3, h0_1], rfl⟩

theorem Encoding.vperm (d a b : BitVec 6) (km : BitVec 3) (cv : BitVec 1) : Encoding.Statement (.vperm d a b km cv) := by
  intro w hw
  have e : w = 0x29#6 ++ d ++ a ++ b ++ km ++ 0x7#4 ++ cv := (Option.some.inj hw).symm
  have h26_6 : fld w 26 6 = 0x29#6 := rd e (hi rfl (hi rfl (hi rfl (hi rfl (hi rfl (hi rfl (whole _)))))))
  have h1_4 : fld w 1 4 = 0x7#4 := rd e (hi rfl (lo rfl (whole _)))
  have h20_6 : fld w 20 6 = d := rd e (hi rfl (hi rfl (hi rfl (hi rfl (hi rfl (lo rfl (whole _)))))))
  have h14_6 : fld w 14 6 = a := rd e (hi rfl (hi rfl (hi rfl (hi rfl (lo rfl (whole _))))))
  have h8_6 : fld w 8 6 = b := rd e (hi rfl (hi rfl (hi rfl (lo rfl (whole _)))))
  have h5_3 : fld w 5 3 = km := rd e (hi rfl (hi rfl (lo rfl (whole _))))
  have h0_1 : fld w 0 1 = cv := rd e (lo rfl (whole _))
  exact ⟨.vperm, (select29 h26_6).trans (by delta decodeMajor29; rw [h1_4]; rfl), by show Instr.vperm _ _ _ _ _ = _; rw [h20_6, h14_6, h8_6, h5_3, h0_1], rfl⟩

theorem Encoding.vcompress (d a : BitVec 6) (km : BitVec 3) (cv : BitVec 1) : Encoding.Statement (.vcompress d a km cv) := by
  intro w hw
  have e : w = 0x29#6 ++ d ++ a ++ 0x0#6 ++ km ++ 0x8#4 ++ cv := (Option.some.inj hw).symm
  have h26_6 : fld w 26 6 = 0x29#6 := rd e (hi rfl (hi rfl (hi rfl (hi rfl (hi rfl (hi rfl (whole _)))))))
  have h1_4 : fld w 1 4 = 0x8#4 := rd e (hi rfl (lo rfl (whole _)))
  have h8_6 : fld w 8 6 = 0x0#6 := rd e (hi rfl (hi rfl (hi rfl (lo rfl (whole _)))))
  have h20_6 : fld w 20 6 = d := rd e (hi rfl (hi rfl (hi rfl (hi rfl (hi rfl (lo rfl (whole _)))))))
  have h14_6 : fld w 14 6 = a := rd e (hi rfl (hi rfl (hi rfl (hi rfl (lo rfl (whole _))))))
  have h5_3 : fld w 5 3 = km := rd e (hi rfl (hi rfl (lo rfl (whole _))))
  have h0_1 : fld w 0 1 = cv := rd e (lo rfl (whole _))
  exact ⟨.vcompress, (select29 h26_6).trans (by delta decodeMajor29; rw [h1_4, h8_6]; rfl), by show Instr.vcompress _ _ _ _ = _; rw [h20_6, h14_6, h5_3, h0_1], rfl⟩

theorem Encoding.viota (d : BitVec 6) (km : BitVec 3) (cv : BitVec 1) : Encoding.Statement (.viota d km cv) := by
  intro w hw
  have e : w = 0x29#6 ++ d ++ 0x0#12 ++ km ++ 0x9#4 ++ cv := (Option.some.inj hw).symm
  have h26_6 : fld w 26 6 = 0x29#6 := rd e (hi rfl (hi rfl (hi rfl (hi rfl (hi rfl (whole _))))))
  have h1_4 : fld w 1 4 = 0x9#4 := rd e (hi rfl (lo rfl (whole _)))
  have h8_12 : fld w 8 12 = 0x0#12 := rd e (hi rfl (hi rfl (hi rfl (lo rfl (whole _)))))
  have h20_6 : fld w 20 6 = d := rd e (hi rfl (hi rfl (hi rfl (hi rfl (lo rfl (whole _))))))
  have h5_3 : fld w 5 3 = km := rd e (hi rfl (hi rfl (lo rfl (whole _))))
  have h0_1 : fld w 0 1 = cv := rd e (lo rfl (whole _))
  exact ⟨.viota, (select29 h26_6).trans (by delta decodeMajor29; rw [h1_4, h8_12]; rfl), by show Instr.viota _ _ _ = _; rw [h20_6, h5_3, h0_1], rfl⟩

theorem Encoding.vid (d : BitVec 6) (km : BitVec 3) (cv : BitVec 1) : Encoding.Statement (.vid d km cv) := by
  intro w hw
  have e : w = 0x29#6 ++ d ++ 0x0#12 ++ km ++ 0xA#4 ++ cv := (Option.some.inj hw).symm
  have h26_6 : fld w 26 6 = 0x29#6 := rd e (hi rfl (hi rfl (hi rfl (hi rfl (hi rfl (whole _))))))
  have h1_4 : fld w 1 4 = 0xA#4 := rd e (hi rfl (lo rfl (whole _)))
  have h8_12 : fld w 8 12 = 0x0#12 := rd e (hi rfl (hi rfl (hi rfl (lo rfl (whole _)))))
  have h20_6 : fld w 20 6 = d := rd e (hi rfl (hi rfl (hi rfl (hi rfl (lo rfl (whole _))))))
  have h5_3 : fld w 5 3 = km := rd e (hi rfl (hi rfl (lo rfl (whole _))))
  have h0_1 : fld w 0 1 = cv := rd e (lo rfl (whole _))
  exact ⟨.vid, (select29 h26_6).trans (by delta decodeMajor29; rw [h1_4, h8_12]; rfl), by show Instr.vid _ _ _ = _; rw [h20_6, h5_3, h0_1], rfl⟩

theorem Encoding.vnzscan (d a : BitVec 6) (b : BitVec 5) (km : BitVec 3) (cv : BitVec 1) : Encoding.Statement (.vnzscan d a b km cv) := by
  intro w hw
  have e : w = 0x29#6 ++ d ++ a ++ b ++ 0x0#1 ++ km ++ 0xB#4 ++ cv := (Option.some.inj hw).symm
  have h26_6 : fld w 26 6 = 0x29#6 := rd e (hi rfl (hi rfl (hi rfl (hi rfl (hi rfl (hi rfl (hi rfl (whole _))))))))
  have h1_4 : fld w 1 4 = 0xB#4 := rd e (hi rfl (lo rfl (whole _)))
  have h8_1 : fld w 8 1 = 0x0#1 := rd e (hi rfl (hi rfl (hi rfl (lo rfl (whole _)))))
  have h20_6 : fld w 20 6 = d := rd e (hi rfl (hi rfl (hi rfl (hi rfl (hi rfl (hi rfl (lo rfl (whole _))))))))
  have h14_6 : fld w 14 6 = a := rd e (hi rfl (hi rfl (hi rfl (hi rfl (hi rfl (lo rfl (whole _)))))))
  have h9_5 : fld w 9 5 = b := rd e (hi rfl (hi rfl (hi rfl (hi rfl (lo rfl (whole _))))))
  have h5_3 : fld w 5 3 = km := rd e (hi rfl (hi rfl (lo rfl (whole _))))
  have h0_1 : fld w 0 1 = cv := rd e (lo rfl (whole _))
  exact ⟨.vnzscan, (select29 h26_6).trans (by delta decodeMajor29; rw [h1_4, h8_1]; rfl), by show Instr.vnzscan _ _ _ _ _ = _; rw [h20_6, h14_6, h9_5, h5_3, h0_1], rfl⟩

theorem Encoding.vconfl (d : BitVec 3) (a : BitVec 6) (km : BitVec 3) (cv : BitVec 1) : Encoding.Statement (.vconfl d a km cv) := by
  intro w hw
  have e : w = 0x29#6 ++ 0x0#3 ++ d ++ a ++ 0x0#6 ++ km ++ 0xC#4 ++ cv := (Option.some.inj hw).symm
  have h26_6 : fld w 26 6 = 0x29#6 := rd e (hi rfl (hi rfl (hi rfl (hi rfl (hi rfl (hi rfl (hi rfl (whole _))))))))
  have h1_4 : fld w 1 4 = 0xC#4 := rd e (hi rfl (lo rfl (whole _)))
  have h23_3 : fld w 23 3 = 0x0#3 := rd e (hi rfl (hi rfl (hi rfl (hi rfl (hi rfl (hi rfl (lo rfl (whole _))))))))
  have h8_6 : fld w 8 6 = 0x0#6 := rd e (hi rfl (hi rfl (hi rfl (lo rfl (whole _)))))
  have h20_3 : fld w 20 3 = d := rd e (hi rfl (hi rfl (hi rfl (hi rfl (hi rfl (lo rfl (whole _)))))))
  have h14_6 : fld w 14 6 = a := rd e (hi rfl (hi rfl (hi rfl (hi rfl (lo rfl (whole _))))))
  have h5_3 : fld w 5 3 = km := rd e (hi rfl (hi rfl (lo rfl (whole _))))
  have h0_1 : fld w 0 1 = cv := rd e (lo rfl (whole _))
  exact ⟨.vconfl, (select29 h26_6).trans (by delta decodeMajor29; rw [h1_4, h23_3, h8_6]; rfl), by show Instr.vconfl _ _ _ _ = _; rw [h20_3, h14_6, h5_3, h0_1], rfl⟩

theorem Encoding.vmvVI (d imm : BitVec 6) (km : BitVec 3) (cv : BitVec 1) : Encoding.Statement (.vmvVI d imm km cv) := by
  intro w hw
  have e : w = 0x29#6 ++ d ++ 0x0#6 ++ imm ++ km ++ 0xD#4 ++ cv := (Option.some.inj hw).symm
  have h26_6 : fld w 26 6 = 0x29#6 := rd e (hi rfl (hi rfl (hi rfl (hi rfl (hi rfl (hi rfl (whole _)))))))
  have h1_4 : fld w 1 4 = 0xD#4 := rd e (hi rfl (lo rfl (whole _)))
  have h14_6 : fld w 14 6 = 0x0#6 := rd e (hi rfl (hi rfl (hi rfl (hi rfl (lo rfl (whole _))))))
  have h20_6 : fld w 20 6 = d := rd e (hi rfl (hi rfl (hi rfl (hi rfl (hi rfl (lo rfl (whole _)))))))
  have h8_6 : fld w 8 6 = imm := rd e (hi rfl (hi rfl (hi rfl (lo rfl (whole _)))))
  have h5_3 : fld w 5 3 = km := rd e (hi rfl (hi rfl (lo rfl (whole _))))
  have h0_1 : fld w 0 1 = cv := rd e (lo rfl (whole _))
  exact ⟨.vmvVI, (select29 h26_6).trans (by delta decodeMajor29; rw [h1_4, h14_6]; rfl), by show Instr.vmvVI _ _ _ _ = _; rw [h20_6, h8_6, h5_3, h0_1], rfl⟩

theorem Encoding.vmvVS (d : BitVec 6) (b : BitVec 5) (km : BitVec 3) (cv : BitVec 1) : Encoding.Statement (.vmvVS d b km cv) := by
  intro w hw
  have e : w = 0x29#6 ++ d ++ 0x0#6 ++ b ++ 0x0#1 ++ km ++ 0xE#4 ++ cv := (Option.some.inj hw).symm
  have h26_6 : fld w 26 6 = 0x29#6 := rd e (hi rfl (hi rfl (hi rfl (hi rfl (hi rfl (hi rfl (hi rfl (whole _))))))))
  have h1_4 : fld w 1 4 = 0xE#4 := rd e (hi rfl (lo rfl (whole _)))
  have h14_6 : fld w 14 6 = 0x0#6 := rd e (hi rfl (hi rfl (hi rfl (hi rfl (hi rfl (lo rfl (whole _)))))))
  have h8_1 : fld w 8 1 = 0x0#1 := rd e (hi rfl (hi rfl (hi rfl (lo rfl (whole _)))))
  have h20_6 : fld w 20 6 = d := rd e (hi rfl (hi rfl (hi rfl (hi rfl (hi rfl (hi rfl (lo rfl (whole _))))))))
  have h9_5 : fld w 9 5 = b := rd e (hi rfl (hi rfl (hi rfl (hi rfl (lo rfl (whole _))))))
  have h5_3 : fld w 5 3 = km := rd e (hi rfl (hi rfl (lo rfl (whole _))))
  have h0_1 : fld w 0 1 = cv := rd e (lo rfl (whole _))
  exact ⟨.vmvVS, (select29 h26_6).trans (by delta decodeMajor29; rw [h1_4, h14_6, h8_1]; rfl), by show Instr.vmvVS _ _ _ _ = _; rw [h20_6, h9_5, h5_3, h0_1], rfl⟩

theorem Encoding.vredsum (d : BitVec 5) (a : BitVec 6) (b : BitVec 5) (km : BitVec 3) (cv : BitVec 1) : Encoding.Statement (.vredsum d a b km cv) := by
  intro w hw
  have e : w = 0x2A#6 ++ 0x0#1 ++ d ++ a ++ b ++ 0x0#1 ++ km ++ 0x0#4 ++ cv := (Option.some.inj hw).symm
  have h26_6 : fld w 26 6 = 0x2A#6 := rd e (hi rfl (hi rfl (hi rfl (hi rfl (hi rfl (hi rfl (hi rfl (hi rfl (whole _)))))))))
  have h1_4 : fld w 1 4 = 0x0#4 := rd e (hi rfl (lo rfl (whole _)))
  have h25_1 : fld w 25 1 = 0x0#1 := rd e (hi rfl (hi rfl (hi rfl (hi rfl (hi rfl (hi rfl (hi rfl (lo rfl (whole _)))))))))
  have h8_1 : fld w 8 1 = 0x0#1 := rd e (hi rfl (hi rfl (hi rfl (lo rfl (whole _)))))
  have h20_5 : fld w 20 5 = d := rd e (hi rfl (hi rfl (hi rfl (hi rfl (hi rfl (hi rfl (lo rfl (whole _))))))))
  have h14_6 : fld w 14 6 = a := rd e (hi rfl (hi rfl (hi rfl (hi rfl (hi rfl (lo rfl (whole _)))))))
  have h9_5 : fld w 9 5 = b := rd e (hi rfl (hi rfl (hi rfl (hi rfl (lo rfl (whole _))))))
  have h5_3 : fld w 5 3 = km := rd e (hi rfl (hi rfl (lo rfl (whole _))))
  have h0_1 : fld w 0 1 = cv := rd e (lo rfl (whole _))
  exact ⟨.vredsum, (select2A h26_6).trans (by delta decodeMajor2A; rw [h1_4, h25_1, h8_1]; rfl), by show Instr.vredsum _ _ _ _ _ = _; rw [h20_5, h14_6, h9_5, h5_3, h0_1], rfl⟩

theorem Encoding.vredmin (d : BitVec 5) (a : BitVec 6) (b : BitVec 5) (km : BitVec 3) (cv : BitVec 1) : Encoding.Statement (.vredmin d a b km cv) := by
  intro w hw
  have e : w = 0x2A#6 ++ 0x0#1 ++ d ++ a ++ b ++ 0x0#1 ++ km ++ 0x1#4 ++ cv := (Option.some.inj hw).symm
  have h26_6 : fld w 26 6 = 0x2A#6 := rd e (hi rfl (hi rfl (hi rfl (hi rfl (hi rfl (hi rfl (hi rfl (hi rfl (whole _)))))))))
  have h1_4 : fld w 1 4 = 0x1#4 := rd e (hi rfl (lo rfl (whole _)))
  have h25_1 : fld w 25 1 = 0x0#1 := rd e (hi rfl (hi rfl (hi rfl (hi rfl (hi rfl (hi rfl (hi rfl (lo rfl (whole _)))))))))
  have h8_1 : fld w 8 1 = 0x0#1 := rd e (hi rfl (hi rfl (hi rfl (lo rfl (whole _)))))
  have h20_5 : fld w 20 5 = d := rd e (hi rfl (hi rfl (hi rfl (hi rfl (hi rfl (hi rfl (lo rfl (whole _))))))))
  have h14_6 : fld w 14 6 = a := rd e (hi rfl (hi rfl (hi rfl (hi rfl (hi rfl (lo rfl (whole _)))))))
  have h9_5 : fld w 9 5 = b := rd e (hi rfl (hi rfl (hi rfl (hi rfl (lo rfl (whole _))))))
  have h5_3 : fld w 5 3 = km := rd e (hi rfl (hi rfl (lo rfl (whole _))))
  have h0_1 : fld w 0 1 = cv := rd e (lo rfl (whole _))
  exact ⟨.vredmin, (select2A h26_6).trans (by delta decodeMajor2A; rw [h1_4, h25_1, h8_1]; rfl), by show Instr.vredmin _ _ _ _ _ = _; rw [h20_5, h14_6, h9_5, h5_3, h0_1], rfl⟩

theorem Encoding.vredmax (d : BitVec 5) (a : BitVec 6) (b : BitVec 5) (km : BitVec 3) (cv : BitVec 1) : Encoding.Statement (.vredmax d a b km cv) := by
  intro w hw
  have e : w = 0x2A#6 ++ 0x0#1 ++ d ++ a ++ b ++ 0x0#1 ++ km ++ 0x2#4 ++ cv := (Option.some.inj hw).symm
  have h26_6 : fld w 26 6 = 0x2A#6 := rd e (hi rfl (hi rfl (hi rfl (hi rfl (hi rfl (hi rfl (hi rfl (hi rfl (whole _)))))))))
  have h1_4 : fld w 1 4 = 0x2#4 := rd e (hi rfl (lo rfl (whole _)))
  have h25_1 : fld w 25 1 = 0x0#1 := rd e (hi rfl (hi rfl (hi rfl (hi rfl (hi rfl (hi rfl (hi rfl (lo rfl (whole _)))))))))
  have h8_1 : fld w 8 1 = 0x0#1 := rd e (hi rfl (hi rfl (hi rfl (lo rfl (whole _)))))
  have h20_5 : fld w 20 5 = d := rd e (hi rfl (hi rfl (hi rfl (hi rfl (hi rfl (hi rfl (lo rfl (whole _))))))))
  have h14_6 : fld w 14 6 = a := rd e (hi rfl (hi rfl (hi rfl (hi rfl (hi rfl (lo rfl (whole _)))))))
  have h9_5 : fld w 9 5 = b := rd e (hi rfl (hi rfl (hi rfl (hi rfl (lo rfl (whole _))))))
  have h5_3 : fld w 5 3 = km := rd e (hi rfl (hi rfl (lo rfl (whole _))))
  have h0_1 : fld w 0 1 = cv := rd e (lo rfl (whole _))
  exact ⟨.vredmax, (select2A h26_6).trans (by delta decodeMajor2A; rw [h1_4, h25_1, h8_1]; rfl), by show Instr.vredmax _ _ _ _ _ = _; rw [h20_5, h14_6, h9_5, h5_3, h0_1], rfl⟩

theorem Encoding.vredand (d : BitVec 5) (a : BitVec 6) (b : BitVec 5) (km : BitVec 3) (cv : BitVec 1) : Encoding.Statement (.vredand d a b km cv) := by
  intro w hw
  have e : w = 0x2A#6 ++ 0x0#1 ++ d ++ a ++ b ++ 0x0#1 ++ km ++ 0x3#4 ++ cv := (Option.some.inj hw).symm
  have h26_6 : fld w 26 6 = 0x2A#6 := rd e (hi rfl (hi rfl (hi rfl (hi rfl (hi rfl (hi rfl (hi rfl (hi rfl (whole _)))))))))
  have h1_4 : fld w 1 4 = 0x3#4 := rd e (hi rfl (lo rfl (whole _)))
  have h25_1 : fld w 25 1 = 0x0#1 := rd e (hi rfl (hi rfl (hi rfl (hi rfl (hi rfl (hi rfl (hi rfl (lo rfl (whole _)))))))))
  have h8_1 : fld w 8 1 = 0x0#1 := rd e (hi rfl (hi rfl (hi rfl (lo rfl (whole _)))))
  have h20_5 : fld w 20 5 = d := rd e (hi rfl (hi rfl (hi rfl (hi rfl (hi rfl (hi rfl (lo rfl (whole _))))))))
  have h14_6 : fld w 14 6 = a := rd e (hi rfl (hi rfl (hi rfl (hi rfl (hi rfl (lo rfl (whole _)))))))
  have h9_5 : fld w 9 5 = b := rd e (hi rfl (hi rfl (hi rfl (hi rfl (lo rfl (whole _))))))
  have h5_3 : fld w 5 3 = km := rd e (hi rfl (hi rfl (lo rfl (whole _))))
  have h0_1 : fld w 0 1 = cv := rd e (lo rfl (whole _))
  exact ⟨.vredand, (select2A h26_6).trans (by delta decodeMajor2A; rw [h1_4, h25_1, h8_1]; rfl), by show Instr.vredand _ _ _ _ _ = _; rw [h20_5, h14_6, h9_5, h5_3, h0_1], rfl⟩

theorem Encoding.vredor (d : BitVec 5) (a : BitVec 6) (b : BitVec 5) (km : BitVec 3) (cv : BitVec 1) : Encoding.Statement (.vredor d a b km cv) := by
  intro w hw
  have e : w = 0x2A#6 ++ 0x0#1 ++ d ++ a ++ b ++ 0x0#1 ++ km ++ 0x4#4 ++ cv := (Option.some.inj hw).symm
  have h26_6 : fld w 26 6 = 0x2A#6 := rd e (hi rfl (hi rfl (hi rfl (hi rfl (hi rfl (hi rfl (hi rfl (hi rfl (whole _)))))))))
  have h1_4 : fld w 1 4 = 0x4#4 := rd e (hi rfl (lo rfl (whole _)))
  have h25_1 : fld w 25 1 = 0x0#1 := rd e (hi rfl (hi rfl (hi rfl (hi rfl (hi rfl (hi rfl (hi rfl (lo rfl (whole _)))))))))
  have h8_1 : fld w 8 1 = 0x0#1 := rd e (hi rfl (hi rfl (hi rfl (lo rfl (whole _)))))
  have h20_5 : fld w 20 5 = d := rd e (hi rfl (hi rfl (hi rfl (hi rfl (hi rfl (hi rfl (lo rfl (whole _))))))))
  have h14_6 : fld w 14 6 = a := rd e (hi rfl (hi rfl (hi rfl (hi rfl (hi rfl (lo rfl (whole _)))))))
  have h9_5 : fld w 9 5 = b := rd e (hi rfl (hi rfl (hi rfl (hi rfl (lo rfl (whole _))))))
  have h5_3 : fld w 5 3 = km := rd e (hi rfl (hi rfl (lo rfl (whole _))))
  have h0_1 : fld w 0 1 = cv := rd e (lo rfl (whole _))
  exact ⟨.vredor, (select2A h26_6).trans (by delta decodeMajor2A; rw [h1_4, h25_1, h8_1]; rfl), by show Instr.vredor _ _ _ _ _ = _; rw [h20_5, h14_6, h9_5, h5_3, h0_1], rfl⟩

theorem Encoding.vfredsum (d : BitVec 5) (a : BitVec 6) (b : BitVec 5) (km : BitVec 3) (cv : BitVec 1) : Encoding.Statement (.vfredsum d a b km cv) := by
  intro w hw
  have e : w = 0x2A#6 ++ 0x0#1 ++ d ++ a ++ b ++ 0x0#1 ++ km ++ 0x5#4 ++ cv := (Option.some.inj hw).symm
  have h26_6 : fld w 26 6 = 0x2A#6 := rd e (hi rfl (hi rfl (hi rfl (hi rfl (hi rfl (hi rfl (hi rfl (hi rfl (whole _)))))))))
  have h1_4 : fld w 1 4 = 0x5#4 := rd e (hi rfl (lo rfl (whole _)))
  have h25_1 : fld w 25 1 = 0x0#1 := rd e (hi rfl (hi rfl (hi rfl (hi rfl (hi rfl (hi rfl (hi rfl (lo rfl (whole _)))))))))
  have h8_1 : fld w 8 1 = 0x0#1 := rd e (hi rfl (hi rfl (hi rfl (lo rfl (whole _)))))
  have h20_5 : fld w 20 5 = d := rd e (hi rfl (hi rfl (hi rfl (hi rfl (hi rfl (hi rfl (lo rfl (whole _))))))))
  have h14_6 : fld w 14 6 = a := rd e (hi rfl (hi rfl (hi rfl (hi rfl (hi rfl (lo rfl (whole _)))))))
  have h9_5 : fld w 9 5 = b := rd e (hi rfl (hi rfl (hi rfl (hi rfl (lo rfl (whole _))))))
  have h5_3 : fld w 5 3 = km := rd e (hi rfl (hi rfl (lo rfl (whole _))))
  have h0_1 : fld w 0 1 = cv := rd e (lo rfl (whole _))
  exact ⟨.vfredsum, (select2A h26_6).trans (by delta decodeMajor2A; rw [h1_4, h25_1, h8_1]; rfl), by show Instr.vfredsum _ _ _ _ _ = _; rw [h20_5, h14_6, h9_5, h5_3, h0_1], rfl⟩

theorem Encoding.vfredosum (d : BitVec 5) (a : BitVec 6) (b : BitVec 5) (km : BitVec 3) (cv : BitVec 1) : Encoding.Statement (.vfredosum d a b km cv) := by
  intro w hw
  have e : w = 0x2A#6 ++ 0x0#1 ++ d ++ a ++ b ++ 0x0#1 ++ km ++ 0x6#4 ++ cv := (Option.some.inj hw).symm
  have h26_6 : fld w 26 6 = 0x2A#6 := rd e (hi rfl (hi rfl (hi rfl (hi rfl (hi rfl (hi rfl (hi rfl (hi rfl (whole _)))))))))
  have h1_4 : fld w 1 4 = 0x6#4 := rd e (hi rfl (lo rfl (whole _)))
  have h25_1 : fld w 25 1 = 0x0#1 := rd e (hi rfl (hi rfl (hi rfl (hi rfl (hi rfl (hi rfl (hi rfl (lo rfl (whole _)))))))))
  have h8_1 : fld w 8 1 = 0x0#1 := rd e (hi rfl (hi rfl (hi rfl (lo rfl (whole _)))))
  have h20_5 : fld w 20 5 = d := rd e (hi rfl (hi rfl (hi rfl (hi rfl (hi rfl (hi rfl (lo rfl (whole _))))))))
  have h14_6 : fld w 14 6 = a := rd e (hi rfl (hi rfl (hi rfl (hi rfl (hi rfl (lo rfl (whole _)))))))
  have h9_5 : fld w 9 5 = b := rd e (hi rfl (hi rfl (hi rfl (hi rfl (lo rfl (whole _))))))
  have h5_3 : fld w 5 3 = km := rd e (hi rfl (hi rfl (lo rfl (whole _))))
  have h0_1 : fld w 0 1 = cv := rd e (lo rfl (whole _))
  exact ⟨.vfredosum, (select2A h26_6).trans (by delta decodeMajor2A; rw [h1_4, h25_1, h8_1]; rfl), by show Instr.vfredosum _ _ _ _ _ = _; rw [h20_5, h14_6, h9_5, h5_3, h0_1], rfl⟩

theorem Encoding.vfredmin (d : BitVec 5) (a : BitVec 6) (b : BitVec 5) (km : BitVec 3) (cv : BitVec 1) : Encoding.Statement (.vfredmin d a b km cv) := by
  intro w hw
  have e : w = 0x2A#6 ++ 0x0#1 ++ d ++ a ++ b ++ 0x0#1 ++ km ++ 0x7#4 ++ cv := (Option.some.inj hw).symm
  have h26_6 : fld w 26 6 = 0x2A#6 := rd e (hi rfl (hi rfl (hi rfl (hi rfl (hi rfl (hi rfl (hi rfl (hi rfl (whole _)))))))))
  have h1_4 : fld w 1 4 = 0x7#4 := rd e (hi rfl (lo rfl (whole _)))
  have h25_1 : fld w 25 1 = 0x0#1 := rd e (hi rfl (hi rfl (hi rfl (hi rfl (hi rfl (hi rfl (hi rfl (lo rfl (whole _)))))))))
  have h8_1 : fld w 8 1 = 0x0#1 := rd e (hi rfl (hi rfl (hi rfl (lo rfl (whole _)))))
  have h20_5 : fld w 20 5 = d := rd e (hi rfl (hi rfl (hi rfl (hi rfl (hi rfl (hi rfl (lo rfl (whole _))))))))
  have h14_6 : fld w 14 6 = a := rd e (hi rfl (hi rfl (hi rfl (hi rfl (hi rfl (lo rfl (whole _)))))))
  have h9_5 : fld w 9 5 = b := rd e (hi rfl (hi rfl (hi rfl (hi rfl (lo rfl (whole _))))))
  have h5_3 : fld w 5 3 = km := rd e (hi rfl (hi rfl (lo rfl (whole _))))
  have h0_1 : fld w 0 1 = cv := rd e (lo rfl (whole _))
  exact ⟨.vfredmin, (select2A h26_6).trans (by delta decodeMajor2A; rw [h1_4, h25_1, h8_1]; rfl), by show Instr.vfredmin _ _ _ _ _ = _; rw [h20_5, h14_6, h9_5, h5_3, h0_1], rfl⟩

theorem Encoding.vfredmax (d : BitVec 5) (a : BitVec 6) (b : BitVec 5) (km : BitVec 3) (cv : BitVec 1) : Encoding.Statement (.vfredmax d a b km cv) := by
  intro w hw
  have e : w = 0x2A#6 ++ 0x0#1 ++ d ++ a ++ b ++ 0x0#1 ++ km ++ 0x8#4 ++ cv := (Option.some.inj hw).symm
  have h26_6 : fld w 26 6 = 0x2A#6 := rd e (hi rfl (hi rfl (hi rfl (hi rfl (hi rfl (hi rfl (hi rfl (hi rfl (whole _)))))))))
  have h1_4 : fld w 1 4 = 0x8#4 := rd e (hi rfl (lo rfl (whole _)))
  have h25_1 : fld w 25 1 = 0x0#1 := rd e (hi rfl (hi rfl (hi rfl (hi rfl (hi rfl (hi rfl (hi rfl (lo rfl (whole _)))))))))
  have h8_1 : fld w 8 1 = 0x0#1 := rd e (hi rfl (hi rfl (hi rfl (lo rfl (whole _)))))
  have h20_5 : fld w 20 5 = d := rd e (hi rfl (hi rfl (hi rfl (hi rfl (hi rfl (hi rfl (lo rfl (whole _))))))))
  have h14_6 : fld w 14 6 = a := rd e (hi rfl (hi rfl (hi rfl (hi rfl (hi rfl (lo rfl (whole _)))))))
  have h9_5 : fld w 9 5 = b := rd e (hi rfl (hi rfl (hi rfl (hi rfl (lo rfl (whole _))))))
  have h5_3 : fld w 5 3 = km := rd e (hi rfl (hi rfl (lo rfl (whole _))))
  have h0_1 : fld w 0 1 = cv := rd e (lo rfl (whole _))
  exact ⟨.vfredmax, (select2A h26_6).trans (by delta decodeMajor2A; rw [h1_4, h25_1, h8_1]; rfl), by show Instr.vfredmax _ _ _ _ _ = _; rw [h20_5, h14_6, h9_5, h5_3, h0_1], rfl⟩

theorem Encoding.vld (d : BitVec 6) (a : BitVec 5) (km : BitVec 3) (mw : BitVec 2) (cv : BitVec 1) : Encoding.Statement (.vld d a km mw cv) := by
  intro w hw
  have e : w = 0x2B#6 ++ d ++ 0x0#1 ++ a ++ 0x0#6 ++ km ++ 0x0#2 ++ mw ++ cv := (Option.some.inj hw).symm
  have h26_6 : fld w 26 6 = 0x2B#6 := rd e (hi rfl (hi rfl (hi rfl (hi rfl (hi rfl (hi rfl (hi rfl (hi rfl (whole _)))))))))
  have h3_2 : fld w 3 2 = 0x0#2 := rd e (hi rfl (hi rfl (lo rfl (whole _))))
  have h19_1 : fld w 19 1 = 0x0#1 := rd e (hi rfl (hi rfl (hi rfl (hi rfl (hi rfl (hi rfl (lo rfl (whole _))))))))
  have h8_6 : fld w 8 6 = 0x0#6 := rd e (hi rfl (hi rfl (hi rfl (hi rfl (lo rfl (whole _))))))
  have h20_6 : fld w 20 6 = d := rd e (hi rfl (hi rfl (hi rfl (hi rfl (hi rfl (hi rfl (hi rfl (lo rfl (whole _)))))))))
  have h14_5 : fld w 14 5 = a := rd e (hi rfl (hi rfl (hi rfl (hi rfl (hi rfl (lo rfl (whole _)))))))
  have h5_3 : fld w 5 3 = km := rd e (hi rfl (hi rfl (hi rfl (lo rfl (whole _)))))
  have h1_2 : fld w 1 2 = mw := rd e (hi rfl (lo rfl (whole _)))
  have h0_1 : fld w 0 1 = cv := rd e (lo rfl (whole _))
  exact ⟨.vld, (select2B h26_6).trans (by delta decodeMajor2B; rw [h3_2, h19_1, h8_6]; rfl), by show Instr.vld _ _ _ _ _ = _; rw [h20_6, h14_5, h5_3, h1_2, h0_1], by show (widthOk (fld w 1 2)) = _; rw [h1_2]; rfl⟩

theorem Encoding.vlds (d : BitVec 6) (a b : BitVec 5) (km : BitVec 3) (mw : BitVec 2) (cv : BitVec 1) : Encoding.Statement (.vlds d a b km mw cv) := by
  intro w hw
  have e : w = 0x2B#6 ++ d ++ 0x0#1 ++ a ++ b ++ 0x0#1 ++ km ++ 0x1#2 ++ mw ++ cv := (Option.some.inj hw).symm
  have h26_6 : fld w 26 6 = 0x2B#6 := rd e (hi rfl (hi rfl (hi rfl (hi rfl (hi rfl (hi rfl (hi rfl (hi rfl (hi rfl (whole _))))))))))
  have h3_2 : fld w 3 2 = 0x1#2 := rd e (hi rfl (hi rfl (lo rfl (whole _))))
  have h19_1 : fld w 19 1 = 0x0#1 := rd e (hi rfl (hi rfl (hi rfl (hi rfl (hi rfl (hi rfl (hi rfl (lo rfl (whole _)))))))))
  have h8_1 : fld w 8 1 = 0x0#1 := rd e (hi rfl (hi rfl (hi rfl (hi rfl (lo rfl (whole _))))))
  have h20_6 : fld w 20 6 = d := rd e (hi rfl (hi rfl (hi rfl (hi rfl (hi rfl (hi rfl (hi rfl (hi rfl (lo rfl (whole _))))))))))
  have h14_5 : fld w 14 5 = a := rd e (hi rfl (hi rfl (hi rfl (hi rfl (hi rfl (hi rfl (lo rfl (whole _))))))))
  have h9_5 : fld w 9 5 = b := rd e (hi rfl (hi rfl (hi rfl (hi rfl (hi rfl (lo rfl (whole _)))))))
  have h5_3 : fld w 5 3 = km := rd e (hi rfl (hi rfl (hi rfl (lo rfl (whole _)))))
  have h1_2 : fld w 1 2 = mw := rd e (hi rfl (lo rfl (whole _)))
  have h0_1 : fld w 0 1 = cv := rd e (lo rfl (whole _))
  exact ⟨.vlds, (select2B h26_6).trans (by delta decodeMajor2B; rw [h3_2, h19_1, h8_1]; rfl), by show Instr.vlds _ _ _ _ _ _ = _; rw [h20_6, h14_5, h9_5, h5_3, h1_2, h0_1], by show (widthOk (fld w 1 2)) = _; rw [h1_2]; rfl⟩

theorem Encoding.vldx (d : BitVec 6) (a : BitVec 5) (b : BitVec 6) (km : BitVec 3) (mw : BitVec 2) (cv : BitVec 1) : Encoding.Statement (.vldx d a b km mw cv) := by
  intro w hw
  have e : w = 0x2B#6 ++ d ++ 0x0#1 ++ a ++ b ++ km ++ 0x2#2 ++ mw ++ cv := (Option.some.inj hw).symm
  have h26_6 : fld w 26 6 = 0x2B#6 := rd e (hi rfl (hi rfl (hi rfl (hi rfl (hi rfl (hi rfl (hi rfl (hi rfl (whole _)))))))))
  have h3_2 : fld w 3 2 = 0x2#2 := rd e (hi rfl (hi rfl (lo rfl (whole _))))
  have h19_1 : fld w 19 1 = 0x0#1 := rd e (hi rfl (hi rfl (hi rfl (hi rfl (hi rfl (hi rfl (lo rfl (whole _))))))))
  have h20_6 : fld w 20 6 = d := rd e (hi rfl (hi rfl (hi rfl (hi rfl (hi rfl (hi rfl (hi rfl (lo rfl (whole _)))))))))
  have h14_5 : fld w 14 5 = a := rd e (hi rfl (hi rfl (hi rfl (hi rfl (hi rfl (lo rfl (whole _)))))))
  have h8_6 : fld w 8 6 = b := rd e (hi rfl (hi rfl (hi rfl (hi rfl (lo rfl (whole _))))))
  have h5_3 : fld w 5 3 = km := rd e (hi rfl (hi rfl (hi rfl (lo rfl (whole _)))))
  have h1_2 : fld w 1 2 = mw := rd e (hi rfl (lo rfl (whole _)))
  have h0_1 : fld w 0 1 = cv := rd e (lo rfl (whole _))
  exact ⟨.vldx, (select2B h26_6).trans (by delta decodeMajor2B; rw [h3_2, h19_1]; rfl), by show Instr.vldx _ _ _ _ _ _ = _; rw [h20_6, h14_5, h8_6, h5_3, h1_2, h0_1], by show (widthOk (fld w 1 2)) = _; rw [h1_2]; rfl⟩

theorem Encoding.vldseg (d : BitVec 6) (a : BitVec 5) (imm : BitVec 6) (km : BitVec 3) (mw : BitVec 2) (cv : BitVec 1) : Encoding.Statement (.vldseg d a imm km mw cv) := by
  intro w hw
  have e : w = 0x2B#6 ++ d ++ 0x0#1 ++ a ++ imm ++ km ++ 0x3#2 ++ mw ++ cv := (Option.some.inj hw).symm
  have h26_6 : fld w 26 6 = 0x2B#6 := rd e (hi rfl (hi rfl (hi rfl (hi rfl (hi rfl (hi rfl (hi rfl (hi rfl (whole _)))))))))
  have h3_2 : fld w 3 2 = 0x3#2 := rd e (hi rfl (hi rfl (lo rfl (whole _))))
  have h19_1 : fld w 19 1 = 0x0#1 := rd e (hi rfl (hi rfl (hi rfl (hi rfl (hi rfl (hi rfl (lo rfl (whole _))))))))
  have h20_6 : fld w 20 6 = d := rd e (hi rfl (hi rfl (hi rfl (hi rfl (hi rfl (hi rfl (hi rfl (lo rfl (whole _)))))))))
  have h14_5 : fld w 14 5 = a := rd e (hi rfl (hi rfl (hi rfl (hi rfl (hi rfl (lo rfl (whole _)))))))
  have h8_6 : fld w 8 6 = imm := rd e (hi rfl (hi rfl (hi rfl (hi rfl (lo rfl (whole _))))))
  have h5_3 : fld w 5 3 = km := rd e (hi rfl (hi rfl (hi rfl (lo rfl (whole _)))))
  have h1_2 : fld w 1 2 = mw := rd e (hi rfl (lo rfl (whole _)))
  have h0_1 : fld w 0 1 = cv := rd e (lo rfl (whole _))
  exact ⟨.vldseg, (select2B h26_6).trans (by delta decodeMajor2B; rw [h3_2, h19_1]; rfl), by show Instr.vldseg _ _ _ _ _ _ = _; rw [h20_6, h14_5, h8_6, h5_3, h1_2, h0_1], by show (widthOk (fld w 1 2) && segOk (fld w 8 6)) = _; rw [h1_2, h8_6]; rfl⟩

theorem Encoding.vst (d : BitVec 6) (a : BitVec 5) (km : BitVec 3) (cv : BitVec 1) : Encoding.Statement (.vst d a km cv) := by
  intro w hw
  have e : w = 0x2C#6 ++ d ++ 0x0#1 ++ a ++ 0x0#6 ++ km ++ 0x0#4 ++ cv := (Option.some.inj hw).symm
  have h26_6 : fld w 26 6 = 0x2C#6 := rd e (hi rfl (hi rfl (hi rfl (hi rfl (hi rfl (hi rfl (hi rfl (whole _))))))))
  have h3_2 : fld w 3 2 = 0x0#2 := rd e (hi rfl (lo rfl (by decide)))
  have h19_1 : fld w 19 1 = 0x0#1 := rd e (hi rfl (hi rfl (hi rfl (hi rfl (hi rfl (lo rfl (whole _)))))))
  have h8_6 : fld w 8 6 = 0x0#6 := rd e (hi rfl (hi rfl (hi rfl (lo rfl (whole _)))))
  have h1_2 : fld w 1 2 = 0x0#2 := rd e (hi rfl (lo rfl (by decide)))
  have h20_6 : fld w 20 6 = d := rd e (hi rfl (hi rfl (hi rfl (hi rfl (hi rfl (hi rfl (lo rfl (whole _))))))))
  have h14_5 : fld w 14 5 = a := rd e (hi rfl (hi rfl (hi rfl (hi rfl (lo rfl (whole _))))))
  have h5_3 : fld w 5 3 = km := rd e (hi rfl (hi rfl (lo rfl (whole _))))
  have h0_1 : fld w 0 1 = cv := rd e (lo rfl (whole _))
  exact ⟨.vst, (select2C h26_6).trans (by delta decodeMajor2C; rw [h3_2, h19_1, h8_6, h1_2]; rfl), by show Instr.vst _ _ _ _ = _; rw [h20_6, h14_5, h5_3, h0_1], rfl⟩

theorem Encoding.vsts (d : BitVec 6) (a b : BitVec 5) (km : BitVec 3) (cv : BitVec 1) : Encoding.Statement (.vsts d a b km cv) := by
  intro w hw
  have e : w = 0x2C#6 ++ d ++ 0x0#1 ++ a ++ b ++ 0x0#1 ++ km ++ 0x4#4 ++ cv := (Option.some.inj hw).symm
  have h26_6 : fld w 26 6 = 0x2C#6 := rd e (hi rfl (hi rfl (hi rfl (hi rfl (hi rfl (hi rfl (hi rfl (hi rfl (whole _)))))))))
  have h3_2 : fld w 3 2 = 0x1#2 := rd e (hi rfl (lo rfl (by decide)))
  have h19_1 : fld w 19 1 = 0x0#1 := rd e (hi rfl (hi rfl (hi rfl (hi rfl (hi rfl (hi rfl (lo rfl (whole _))))))))
  have h8_1 : fld w 8 1 = 0x0#1 := rd e (hi rfl (hi rfl (hi rfl (lo rfl (whole _)))))
  have h1_2 : fld w 1 2 = 0x0#2 := rd e (hi rfl (lo rfl (by decide)))
  have h20_6 : fld w 20 6 = d := rd e (hi rfl (hi rfl (hi rfl (hi rfl (hi rfl (hi rfl (hi rfl (lo rfl (whole _)))))))))
  have h14_5 : fld w 14 5 = a := rd e (hi rfl (hi rfl (hi rfl (hi rfl (hi rfl (lo rfl (whole _)))))))
  have h9_5 : fld w 9 5 = b := rd e (hi rfl (hi rfl (hi rfl (hi rfl (lo rfl (whole _))))))
  have h5_3 : fld w 5 3 = km := rd e (hi rfl (hi rfl (lo rfl (whole _))))
  have h0_1 : fld w 0 1 = cv := rd e (lo rfl (whole _))
  exact ⟨.vsts, (select2C h26_6).trans (by delta decodeMajor2C; rw [h3_2, h19_1, h8_1, h1_2]; rfl), by show Instr.vsts _ _ _ _ _ = _; rw [h20_6, h14_5, h9_5, h5_3, h0_1], rfl⟩

theorem Encoding.vstx (d : BitVec 6) (a : BitVec 5) (b : BitVec 6) (km : BitVec 3) (cv : BitVec 1) : Encoding.Statement (.vstx d a b km cv) := by
  intro w hw
  have e : w = 0x2C#6 ++ d ++ 0x0#1 ++ a ++ b ++ km ++ 0x8#4 ++ cv := (Option.some.inj hw).symm
  have h26_6 : fld w 26 6 = 0x2C#6 := rd e (hi rfl (hi rfl (hi rfl (hi rfl (hi rfl (hi rfl (hi rfl (whole _))))))))
  have h3_2 : fld w 3 2 = 0x2#2 := rd e (hi rfl (lo rfl (by decide)))
  have h19_1 : fld w 19 1 = 0x0#1 := rd e (hi rfl (hi rfl (hi rfl (hi rfl (hi rfl (lo rfl (whole _)))))))
  have h1_2 : fld w 1 2 = 0x0#2 := rd e (hi rfl (lo rfl (by decide)))
  have h20_6 : fld w 20 6 = d := rd e (hi rfl (hi rfl (hi rfl (hi rfl (hi rfl (hi rfl (lo rfl (whole _))))))))
  have h14_5 : fld w 14 5 = a := rd e (hi rfl (hi rfl (hi rfl (hi rfl (lo rfl (whole _))))))
  have h8_6 : fld w 8 6 = b := rd e (hi rfl (hi rfl (hi rfl (lo rfl (whole _)))))
  have h5_3 : fld w 5 3 = km := rd e (hi rfl (hi rfl (lo rfl (whole _))))
  have h0_1 : fld w 0 1 = cv := rd e (lo rfl (whole _))
  exact ⟨.vstx, (select2C h26_6).trans (by delta decodeMajor2C; rw [h3_2, h19_1, h1_2]; rfl), by show Instr.vstx _ _ _ _ _ = _; rw [h20_6, h14_5, h8_6, h5_3, h0_1], rfl⟩

theorem Encoding.vstseg (d : BitVec 6) (a : BitVec 5) (imm : BitVec 6) (km : BitVec 3) (cv : BitVec 1) : Encoding.Statement (.vstseg d a imm km cv) := by
  intro w hw
  have e : w = 0x2C#6 ++ d ++ 0x0#1 ++ a ++ imm ++ km ++ 0xC#4 ++ cv := (Option.some.inj hw).symm
  have h26_6 : fld w 26 6 = 0x2C#6 := rd e (hi rfl (hi rfl (hi rfl (hi rfl (hi rfl (hi rfl (hi rfl (whole _))))))))
  have h3_2 : fld w 3 2 = 0x3#2 := rd e (hi rfl (lo rfl (by decide)))
  have h19_1 : fld w 19 1 = 0x0#1 := rd e (hi rfl (hi rfl (hi rfl (hi rfl (hi rfl (lo rfl (whole _)))))))
  have h1_2 : fld w 1 2 = 0x0#2 := rd e (hi rfl (lo rfl (by decide)))
  have h20_6 : fld w 20 6 = d := rd e (hi rfl (hi rfl (hi rfl (hi rfl (hi rfl (hi rfl (lo rfl (whole _))))))))
  have h14_5 : fld w 14 5 = a := rd e (hi rfl (hi rfl (hi rfl (hi rfl (lo rfl (whole _))))))
  have h8_6 : fld w 8 6 = imm := rd e (hi rfl (hi rfl (hi rfl (lo rfl (whole _)))))
  have h5_3 : fld w 5 3 = km := rd e (hi rfl (hi rfl (lo rfl (whole _))))
  have h0_1 : fld w 0 1 = cv := rd e (lo rfl (whole _))
  exact ⟨.vstseg, (select2C h26_6).trans (by delta decodeMajor2C; rw [h3_2, h19_1, h1_2]; rfl), by show Instr.vstseg _ _ _ _ _ = _; rw [h20_6, h14_5, h8_6, h5_3, h0_1], by show (segOk (fld w 8 6)) = _; rw [h8_6]; rfl⟩

theorem Encoding.vcvt (d a : BitVec 6) (s : BitVec 4) (km : BitVec 3) (cv : BitVec 1) : Encoding.Statement (.vcvt d a s km cv) := by
  intro w hw
  have e : w = 0x2D#6 ++ d ++ a ++ 0x0#2 ++ s ++ km ++ 0x0#4 ++ cv := (Option.some.inj hw).symm
  have h26_6 : fld w 26 6 = 0x2D#6 := rd e (hi rfl (hi rfl (hi rfl (hi rfl (hi rfl (hi rfl (hi rfl (whole _))))))))
  have h1_4 : fld w 1 4 = 0x0#4 := rd e (hi rfl (lo rfl (whole _)))
  have h12_2 : fld w 12 2 = 0x0#2 := rd e (hi rfl (hi rfl (hi rfl (hi rfl (lo rfl (whole _))))))
  have h20_6 : fld w 20 6 = d := rd e (hi rfl (hi rfl (hi rfl (hi rfl (hi rfl (hi rfl (lo rfl (whole _))))))))
  have h14_6 : fld w 14 6 = a := rd e (hi rfl (hi rfl (hi rfl (hi rfl (hi rfl (lo rfl (whole _)))))))
  have h8_4 : fld w 8 4 = s := rd e (hi rfl (hi rfl (hi rfl (lo rfl (whole _)))))
  have h5_3 : fld w 5 3 = km := rd e (hi rfl (hi rfl (lo rfl (whole _))))
  have h0_1 : fld w 0 1 = cv := rd e (lo rfl (whole _))
  exact ⟨.vcvt, (select2D h26_6).trans (by delta decodeMajor2D; rw [h1_4, h12_2]; rfl), by show Instr.vcvt _ _ _ _ _ = _; rw [h20_6, h14_6, h8_4, h5_3, h0_1], rfl⟩

theorem Encoding.vxpand (d a f : BitVec 6) (km : BitVec 3) (cv : BitVec 1) : Encoding.Statement (.vxpand d a f km cv) := by
  intro w hw
  have e : w = 0x2D#6 ++ d ++ a ++ f ++ km ++ 0x1#4 ++ cv := (Option.some.inj hw).symm
  have h26_6 : fld w 26 6 = 0x2D#6 := rd e (hi rfl (hi rfl (hi rfl (hi rfl (hi rfl (hi rfl (whole _)))))))
  have h1_4 : fld w 1 4 = 0x1#4 := rd e (hi rfl (lo rfl (whole _)))
  have h20_6 : fld w 20 6 = d := rd e (hi rfl (hi rfl (hi rfl (hi rfl (hi rfl (lo rfl (whole _)))))))
  have h14_6 : fld w 14 6 = a := rd e (hi rfl (hi rfl (hi rfl (hi rfl (lo rfl (whole _))))))
  have h8_6 : fld w 8 6 = f := rd e (hi rfl (hi rfl (hi rfl (lo rfl (whole _)))))
  have h5_3 : fld w 5 3 = km := rd e (hi rfl (hi rfl (lo rfl (whole _))))
  have h0_1 : fld w 0 1 = cv := rd e (lo rfl (whole _))
  exact ⟨.vxpand, (select2D h26_6).trans (by delta decodeMajor2D; rw [h1_4]; rfl), by show Instr.vxpand _ _ _ _ _ = _; rw [h20_6, h14_6, h8_6, h5_3, h0_1], by show (decide ((fld w 8 6).toNat < 3)) = _; rw [h8_6]; rfl⟩

theorem Encoding.vqblkF4 (d a b : BitVec 6) (km : BitVec 3) (cv : BitVec 1) : Encoding.Statement (.vqblkF4 d a b km cv) := by
  intro w hw
  have e : w = 0x2D#6 ++ d ++ a ++ b ++ km ++ 0x2#4 ++ cv := (Option.some.inj hw).symm
  have h26_6 : fld w 26 6 = 0x2D#6 := rd e (hi rfl (hi rfl (hi rfl (hi rfl (hi rfl (hi rfl (whole _)))))))
  have h1_4 : fld w 1 4 = 0x2#4 := rd e (hi rfl (lo rfl (whole _)))
  have h20_6 : fld w 20 6 = d := rd e (hi rfl (hi rfl (hi rfl (hi rfl (hi rfl (lo rfl (whole _)))))))
  have h14_6 : fld w 14 6 = a := rd e (hi rfl (hi rfl (hi rfl (hi rfl (lo rfl (whole _))))))
  have h8_6 : fld w 8 6 = b := rd e (hi rfl (hi rfl (hi rfl (lo rfl (whole _)))))
  have h5_3 : fld w 5 3 = km := rd e (hi rfl (hi rfl (lo rfl (whole _))))
  have h0_1 : fld w 0 1 = cv := rd e (lo rfl (whole _))
  exact ⟨.vqblkF4, (select2D h26_6).trans (by delta decodeMajor2D; rw [h1_4]; rfl), by show Instr.vqblkF4 _ _ _ _ _ = _; rw [h20_6, h14_6, h8_6, h5_3, h0_1], rfl⟩

theorem Encoding.vqblkI8 (d a b : BitVec 6) (km : BitVec 3) (cv : BitVec 1) : Encoding.Statement (.vqblkI8 d a b km cv) := by
  intro w hw
  have e : w = 0x2D#6 ++ d ++ a ++ b ++ km ++ 0x3#4 ++ cv := (Option.some.inj hw).symm
  have h26_6 : fld w 26 6 = 0x2D#6 := rd e (hi rfl (hi rfl (hi rfl (hi rfl (hi rfl (hi rfl (whole _)))))))
  have h1_4 : fld w 1 4 = 0x3#4 := rd e (hi rfl (lo rfl (whole _)))
  have h20_6 : fld w 20 6 = d := rd e (hi rfl (hi rfl (hi rfl (hi rfl (hi rfl (lo rfl (whole _)))))))
  have h14_6 : fld w 14 6 = a := rd e (hi rfl (hi rfl (hi rfl (hi rfl (lo rfl (whole _))))))
  have h8_6 : fld w 8 6 = b := rd e (hi rfl (hi rfl (hi rfl (lo rfl (whole _)))))
  have h5_3 : fld w 5 3 = km := rd e (hi rfl (hi rfl (lo rfl (whole _))))
  have h0_1 : fld w 0 1 = cv := rd e (lo rfl (whole _))
  exact ⟨.vqblkI8, (select2D h26_6).trans (by delta decodeMajor2D; rw [h1_4]; rfl), by show Instr.vqblkI8 _ _ _ _ _ = _; rw [h20_6, h14_6, h8_6, h5_3, h0_1], rfl⟩

theorem Encoding.vdqblkF4 (d a b : BitVec 6) (km : BitVec 3) (cv : BitVec 1) : Encoding.Statement (.vdqblkF4 d a b km cv) := by
  intro w hw
  have e : w = 0x2D#6 ++ d ++ a ++ b ++ km ++ 0x4#4 ++ cv := (Option.some.inj hw).symm
  have h26_6 : fld w 26 6 = 0x2D#6 := rd e (hi rfl (hi rfl (hi rfl (hi rfl (hi rfl (hi rfl (whole _)))))))
  have h1_4 : fld w 1 4 = 0x4#4 := rd e (hi rfl (lo rfl (whole _)))
  have h20_6 : fld w 20 6 = d := rd e (hi rfl (hi rfl (hi rfl (hi rfl (hi rfl (lo rfl (whole _)))))))
  have h14_6 : fld w 14 6 = a := rd e (hi rfl (hi rfl (hi rfl (hi rfl (lo rfl (whole _))))))
  have h8_6 : fld w 8 6 = b := rd e (hi rfl (hi rfl (hi rfl (lo rfl (whole _)))))
  have h5_3 : fld w 5 3 = km := rd e (hi rfl (hi rfl (lo rfl (whole _))))
  have h0_1 : fld w 0 1 = cv := rd e (lo rfl (whole _))
  exact ⟨.vdqblkF4, (select2D h26_6).trans (by delta decodeMajor2D; rw [h1_4]; rfl), by show Instr.vdqblkF4 _ _ _ _ _ = _; rw [h20_6, h14_6, h8_6, h5_3, h0_1], rfl⟩

theorem Encoding.vdqblkI8 (d a b : BitVec 6) (km : BitVec 3) (cv : BitVec 1) : Encoding.Statement (.vdqblkI8 d a b km cv) := by
  intro w hw
  have e : w = 0x2D#6 ++ d ++ a ++ b ++ km ++ 0x5#4 ++ cv := (Option.some.inj hw).symm
  have h26_6 : fld w 26 6 = 0x2D#6 := rd e (hi rfl (hi rfl (hi rfl (hi rfl (hi rfl (hi rfl (whole _)))))))
  have h1_4 : fld w 1 4 = 0x5#4 := rd e (hi rfl (lo rfl (whole _)))
  have h20_6 : fld w 20 6 = d := rd e (hi rfl (hi rfl (hi rfl (hi rfl (hi rfl (lo rfl (whole _)))))))
  have h14_6 : fld w 14 6 = a := rd e (hi rfl (hi rfl (hi rfl (hi rfl (lo rfl (whole _))))))
  have h8_6 : fld w 8 6 = b := rd e (hi rfl (hi rfl (hi rfl (lo rfl (whole _)))))
  have h5_3 : fld w 5 3 = km := rd e (hi rfl (hi rfl (lo rfl (whole _))))
  have h0_1 : fld w 0 1 = cv := rd e (lo rfl (whole _))
  exact ⟨.vdqblkI8, (select2D h26_6).trans (by delta decodeMajor2D; rw [h1_4]; rfl), by show Instr.vdqblkI8 _ _ _ _ _ = _; rw [h20_6, h14_6, h8_6, h5_3, h0_1], rfl⟩

theorem Encoding.tshape (a : BitVec 5) : Encoding.Statement (.tshape a) := by
  intro w hw
  have e : w = 0x30#6 ++ 0x0#3 ++ a ++ 0x0#18 := (Option.some.inj hw).symm
  have h26_6 : fld w 26 6 = 0x30#6 := rd e (hi rfl (hi rfl (hi rfl (whole _))))
  have h8_4 : fld w 8 4 = 0x0#4 := rd e (lo rfl (by decide))
  have h23_3 : fld w 23 3 = 0x0#3 := rd e (hi rfl (hi rfl (lo rfl (whole _))))
  have h12_6 : fld w 12 6 = 0x0#6 := rd e (lo rfl (by decide))
  have h0_8 : fld w 0 8 = 0x0#8 := rd e (lo rfl (by decide))
  have h18_5 : fld w 18 5 = a := rd e (hi rfl (lo rfl (whole _)))
  exact ⟨.tshape, (select30 h26_6).trans (by delta decodeMajor30; rw [h8_4, h23_3, h12_6, h0_8]; rfl), by show Instr.tshape _ = _; rw [h18_5], rfl⟩

theorem Encoding.tzero (z : BitVec 2) : Encoding.Statement (.tzero z) := by
  intro w hw
  have e : w = 0x30#6 ++ z ++ 0x100#24 := (Option.some.inj hw).symm
  have h26_6 : fld w 26 6 = 0x30#6 := rd e (hi rfl (hi rfl (whole _)))
  have h8_4 : fld w 8 4 = 0x1#4 := rd e (lo rfl (by decide))
  have h12_12 : fld w 12 12 = 0x0#12 := rd e (lo rfl (by decide))
  have h0_8 : fld w 0 8 = 0x0#8 := rd e (lo rfl (by decide))
  have h24_2 : fld w 24 2 = z := rd e (hi rfl (lo rfl (whole _)))
  exact ⟨.tzero, (select30 h26_6).trans (by delta decodeMajor30; rw [h8_4, h12_12, h0_8]; rfl), by show Instr.tzero _ = _; rw [h24_2], rfl⟩

theorem Encoding.tlda (a b : BitVec 5) : Encoding.Statement (.tlda a b) := by
  intro w hw
  have e : w = 0x30#6 ++ 0x0#3 ++ a ++ 0x0#1 ++ b ++ 0x200#12 := (Option.some.inj hw).symm
  have h26_6 : fld w 26 6 = 0x30#6 := rd e (hi rfl (hi rfl (hi rfl (hi rfl (hi rfl (whole _))))))
  have h8_4 : fld w 8 4 = 0x2#4 := rd e (lo rfl (by decide))
  have h23_3 : fld w 23 3 = 0x0#3 := rd e (hi rfl (hi rfl (hi rfl (hi rfl (lo rfl (whole _))))))
  have h17_1 : fld w 17 1 = 0x0#1 := rd e (hi rfl (hi rfl (lo rfl (whole _))))
  have h0_8 : fld w 0 8 = 0x0#8 := rd e (lo rfl (by decide))
  have h18_5 : fld w 18 5 = a := rd e (hi rfl (hi rfl (hi rfl (lo rfl (whole _)))))
  have h12_5 : fld w 12 5 = b := rd e (hi rfl (lo rfl (whole _)))
  exact ⟨.tlda, (select30 h26_6).trans (by delta decodeMajor30; rw [h8_4, h23_3, h17_1, h0_8]; rfl), by show Instr.tlda _ _ = _; rw [h18_5, h12_5], rfl⟩

theorem Encoding.tldb (a b : BitVec 5) : Encoding.Statement (.tldb a b) := by
  intro w hw
  have e : w = 0x30#6 ++ 0x0#3 ++ a ++ 0x0#1 ++ b ++ 0x300#12 := (Option.some.inj hw).symm
  have h26_6 : fld w 26 6 = 0x30#6 := rd e (hi rfl (hi rfl (hi rfl (hi rfl (hi rfl (whole _))))))
  have h8_4 : fld w 8 4 = 0x3#4 := rd e (lo rfl (by decide))
  have h23_3 : fld w 23 3 = 0x0#3 := rd e (hi rfl (hi rfl (hi rfl (hi rfl (lo rfl (whole _))))))
  have h17_1 : fld w 17 1 = 0x0#1 := rd e (hi rfl (hi rfl (lo rfl (whole _))))
  have h0_8 : fld w 0 8 = 0x0#8 := rd e (lo rfl (by decide))
  have h18_5 : fld w 18 5 = a := rd e (hi rfl (hi rfl (hi rfl (lo rfl (whole _)))))
  have h12_5 : fld w 12 5 = b := rd e (hi rfl (lo rfl (whole _)))
  exact ⟨.tldb, (select30 h26_6).trans (by delta decodeMajor30; rw [h8_4, h23_3, h17_1, h0_8]; rfl), by show Instr.tldb _ _ = _; rw [h18_5, h12_5], rfl⟩

theorem Encoding.tmma (z : BitVec 2) : Encoding.Statement (.tmma z) := by
  intro w hw
  have e : w = 0x30#6 ++ z ++ 0x400#24 := (Option.some.inj hw).symm
  have h26_6 : fld w 26 6 = 0x30#6 := rd e (hi rfl (hi rfl (whole _)))
  have h8_4 : fld w 8 4 = 0x4#4 := rd e (lo rfl (by decide))
  have h12_12 : fld w 12 12 = 0x0#12 := rd e (lo rfl (by decide))
  have h0_8 : fld w 0 8 = 0x0#8 := rd e (lo rfl (by decide))
  have h24_2 : fld w 24 2 = z := rd e (hi rfl (lo rfl (whole _)))
  exact ⟨.tmma, (select30 h26_6).trans (by delta decodeMajor30; rw [h8_4, h12_12, h0_8]; rfl), by show Instr.tmma _ = _; rw [h24_2], rfl⟩

theorem Encoding.tmmaSX (z : BitVec 2) : Encoding.Statement (.tmmaSX z) := by
  intro w hw
  have e : w = 0x30#6 ++ z ++ 0x500#24 := (Option.some.inj hw).symm
  have h26_6 : fld w 26 6 = 0x30#6 := rd e (hi rfl (hi rfl (whole _)))
  have h8_4 : fld w 8 4 = 0x5#4 := rd e (lo rfl (by decide))
  have h12_12 : fld w 12 12 = 0x0#12 := rd e (lo rfl (by decide))
  have h0_8 : fld w 0 8 = 0x0#8 := rd e (lo rfl (by decide))
  have h24_2 : fld w 24 2 = z := rd e (hi rfl (lo rfl (whole _)))
  exact ⟨.tmmaSX, (select30 h26_6).trans (by delta decodeMajor30; rw [h8_4, h12_12, h0_8]; rfl), by show Instr.tmmaSX _ = _; rw [h24_2], rfl⟩

theorem Encoding.tstz (z : BitVec 2) (a b : BitVec 5) : Encoding.Statement (.tstz z a b) := by
  intro w hw
  have e : w = 0x30#6 ++ z ++ 0x0#1 ++ a ++ 0x0#1 ++ b ++ 0x600#12 := (Option.some.inj hw).symm
  have h26_6 : fld w 26 6 = 0x30#6 := rd e (hi rfl (hi rfl (hi rfl (hi rfl (hi rfl (hi rfl (whole _)))))))
  have h8_4 : fld w 8 4 = 0x6#4 := rd e (lo rfl (by decide))
  have h23_1 : fld w 23 1 = 0x0#1 := rd e (hi rfl (hi rfl (hi rfl (hi rfl (lo rfl (whole _))))))
  have h17_1 : fld w 17 1 = 0x0#1 := rd e (hi rfl (hi rfl (lo rfl (whole _))))
  have h0_8 : fld w 0 8 = 0x0#8 := rd e (lo rfl (by decide))
  have h24_2 : fld w 24 2 = z := rd e (hi rfl (hi rfl (hi rfl (hi rfl (hi rfl (lo rfl (whole _)))))))
  have h18_5 : fld w 18 5 = a := rd e (hi rfl (hi rfl (hi rfl (lo rfl (whole _)))))
  have h12_5 : fld w 12 5 = b := rd e (hi rfl (lo rfl (whole _)))
  exact ⟨.tstz, (select30 h26_6).trans (by delta decodeMajor30; rw [h8_4, h23_1, h17_1, h0_8]; rfl), by show Instr.tstz _ _ _ = _; rw [h24_2, h18_5, h12_5], rfl⟩

theorem Encoding.tmvz (z : BitVec 2) (d : BitVec 6) (b : BitVec 5) : Encoding.Statement (.tmvz z d b) := by
  intro w hw
  have e : w = 0x30#6 ++ z ++ d ++ 0x0#1 ++ b ++ 0x700#12 := (Option.some.inj hw).symm
  have h26_6 : fld w 26 6 = 0x30#6 := rd e (hi rfl (hi rfl (hi rfl (hi rfl (hi rfl (whole _))))))
  have h8_4 : fld w 8 4 = 0x7#4 := rd e (lo rfl (by decide))
  have h17_1 : fld w 17 1 = 0x0#1 := rd e (hi rfl (hi rfl (lo rfl (whole _))))
  have h0_8 : fld w 0 8 = 0x0#8 := rd e (lo rfl (by decide))
  have h24_2 : fld w 24 2 = z := rd e (hi rfl (hi rfl (hi rfl (hi rfl (lo rfl (whole _))))))
  have h18_6 : fld w 18 6 = d := rd e (hi rfl (hi rfl (hi rfl (lo rfl (whole _)))))
  have h12_5 : fld w 12 5 = b := rd e (hi rfl (lo rfl (whole _)))
  exact ⟨.tmvz, (select30 h26_6).trans (by delta decodeMajor30; rw [h8_4, h17_1, h0_8]; rfl), by show Instr.tmvz _ _ _ = _; rw [h24_2, h18_6, h12_5], rfl⟩

theorem Encoding.tldaMC (a b c : BitVec 5) : Encoding.Statement (.tldaMC a b c) := by
  intro w hw
  have e : w = 0x30#6 ++ 0x0#3 ++ a ++ 0x0#1 ++ b ++ 0x8#4 ++ c ++ 0x0#3 := (Option.some.inj hw).symm
  have h26_6 : fld w 26 6 = 0x30#6 := rd e (hi rfl (hi rfl (hi rfl (hi rfl (hi rfl (hi rfl (hi rfl (whole _))))))))
  have h8_4 : fld w 8 4 = 0x8#4 := rd e (hi rfl (hi rfl (lo rfl (whole _))))
  have h23_3 : fld w 23 3 = 0x0#3 := rd e (hi rfl (hi rfl (hi rfl (hi rfl (hi rfl (hi rfl (lo rfl (whole _))))))))
  have h17_1 : fld w 17 1 = 0x0#1 := rd e (hi rfl (hi rfl (hi rfl (hi rfl (lo rfl (whole _))))))
  have h0_3 : fld w 0 3 = 0x0#3 := rd e (lo rfl (whole _))
  have h18_5 : fld w 18 5 = a := rd e (hi rfl (hi rfl (hi rfl (hi rfl (hi rfl (lo rfl (whole _)))))))
  have h12_5 : fld w 12 5 = b := rd e (hi rfl (hi rfl (hi rfl (lo rfl (whole _)))))
  have h3_5 : fld w 3 5 = c := rd e (hi rfl (lo rfl (whole _)))
  exact ⟨.tldaMC, (select30 h26_6).trans (by delta decodeMajor30; rw [h8_4, h23_3, h17_1, h0_3]; rfl), by show Instr.tldaMC _ _ _ = _; rw [h18_5, h12_5, h3_5], rfl⟩

theorem Encoding.tldbMC (a b c : BitVec 5) : Encoding.Statement (.tldbMC a b c) := by
  intro w hw
  have e : w = 0x30#6 ++ 0x0#3 ++ a ++ 0x0#1 ++ b ++ 0x9#4 ++ c ++ 0x0#3 := (Option.some.inj hw).symm
  have h26_6 : fld w 26 6 = 0x30#6 := rd e (hi rfl (hi rfl (hi rfl (hi rfl (hi rfl (hi rfl (hi rfl (whole _))))))))
  have h8_4 : fld w 8 4 = 0x9#4 := rd e (hi rfl (hi rfl (lo rfl (whole _))))
  have h23_3 : fld w 23 3 = 0x0#3 := rd e (hi rfl (hi rfl (hi rfl (hi rfl (hi rfl (hi rfl (lo rfl (whole _))))))))
  have h17_1 : fld w 17 1 = 0x0#1 := rd e (hi rfl (hi rfl (hi rfl (hi rfl (lo rfl (whole _))))))
  have h0_3 : fld w 0 3 = 0x0#3 := rd e (lo rfl (whole _))
  have h18_5 : fld w 18 5 = a := rd e (hi rfl (hi rfl (hi rfl (hi rfl (hi rfl (lo rfl (whole _)))))))
  have h12_5 : fld w 12 5 = b := rd e (hi rfl (hi rfl (hi rfl (lo rfl (whole _)))))
  have h3_5 : fld w 3 5 = c := rd e (hi rfl (lo rfl (whole _)))
  exact ⟨.tldbMC, (select30 h26_6).trans (by delta decodeMajor30; rw [h8_4, h23_3, h17_1, h0_3]; rfl), by show Instr.tldbMC _ _ _ = _; rw [h18_5, h12_5, h3_5], rfl⟩

theorem Encoding.tmmaSat (z : BitVec 2) : Encoding.Statement (.tmmaSat z) := by
  intro w hw
  have e : w = 0x30#6 ++ z ++ 0xA00#24 := (Option.some.inj hw).symm
  have h26_6 : fld w 26 6 = 0x30#6 := rd e (hi rfl (hi rfl (whole _)))
  have h8_4 : fld w 8 4 = 0xA#4 := rd e (lo rfl (by decide))
  have h12_12 : fld w 12 12 = 0x0#12 := rd e (lo rfl (by decide))
  have h0_8 : fld w 0 8 = 0x0#8 := rd e (lo rfl (by decide))
  have h24_2 : fld w 24 2 = z := rd e (hi rfl (lo rfl (whole _)))
  exact ⟨.tmmaSat, (select30 h26_6).trans (by delta decodeMajor30; rw [h8_4, h12_12, h0_8]; rfl), by show Instr.tmmaSat _ = _; rw [h24_2], rfl⟩

theorem Encoding.fork (d a : BitVec 5) (imm : BitVec 16) : Encoding.Statement (.fork d a imm) := by
  intro w hw
  have e : w = 0x34#6 ++ d ++ a ++ imm := (Option.some.inj hw).symm
  have h26_6 : fld w 26 6 = 0x34#6 := rd e (hi rfl (hi rfl (hi rfl (whole _))))
  have h21_5 : fld w 21 5 = d := rd e (hi rfl (hi rfl (lo rfl (whole _))))
  have h16_5 : fld w 16 5 = a := rd e (hi rfl (lo rfl (whole _)))
  have h0_16 : fld w 0 16 = imm := rd e (lo rfl (whole _))
  exact ⟨.fork, by delta selectOp; rw [h26_6]; rfl, by show Instr.fork _ _ _ = _; rw [h21_5, h16_5, h0_16], by show (0 < (fld w 0 16).toInt && (fld w 21 5) != (fld w 16 5) && (fld w 16 5) != 0) = _; rw [h0_16, h21_5, h16_5]; rfl⟩

theorem Encoding.join : Encoding.Statement (.join) := by
  intro w hw
  have e : w = 0x35#6 ++ 0x0#26 := (Option.some.inj hw).symm
  have h26_6 : fld w 26 6 = 0x35#6 := rd e (hi rfl (whole _))
  have h6_5 : fld w 6 5 = 0x0#5 := rd e (lo rfl (by decide))
  have h11_15 : fld w 11 15 = 0x0#15 := rd e (lo rfl (by decide))
  have h0_6 : fld w 0 6 = 0x0#6 := rd e (lo rfl (by decide))
  exact ⟨.join, (select35 h26_6).trans (by delta decodeMajor35; rw [h6_5, h11_15, h0_6]; rfl), rfl, rfl⟩

theorem Encoding.keywait : Encoding.Statement (.keywait) := by
  intro w hw
  have e : w = 0x35#6 ++ 0x40#26 := (Option.some.inj hw).symm
  have h26_6 : fld w 26 6 = 0x35#6 := rd e (hi rfl (whole _))
  have h6_5 : fld w 6 5 = 0x1#5 := rd e (lo rfl (by decide))
  have h11_15 : fld w 11 15 = 0x0#15 := rd e (lo rfl (by decide))
  have h0_6 : fld w 0 6 = 0x0#6 := rd e (lo rfl (by decide))
  exact ⟨.keywait, (select35 h26_6).trans (by delta decodeMajor35; rw [h6_5, h11_15, h0_6]; rfl), rfl, rfl⟩

theorem Encoding.doneStrand : Encoding.Statement (.doneStrand) := by
  intro w hw
  have e : w = 0x35#6 ++ 0x80#26 := (Option.some.inj hw).symm
  have h26_6 : fld w 26 6 = 0x35#6 := rd e (hi rfl (whole _))
  have h6_5 : fld w 6 5 = 0x2#5 := rd e (lo rfl (by decide))
  have h11_15 : fld w 11 15 = 0x0#15 := rd e (lo rfl (by decide))
  have h0_6 : fld w 0 6 = 0x0#6 := rd e (lo rfl (by decide))
  exact ⟨.doneStrand, (select35 h26_6).trans (by delta decodeMajor35; rw [h6_5, h11_15, h0_6]; rfl), rfl, rfl⟩

theorem Encoding.waitmsg (a : BitVec 5) : Encoding.Statement (.waitmsg a) := by
  intro w hw
  have e : w = 0x35#6 ++ 0x0#5 ++ a ++ 0xC0#16 := (Option.some.inj hw).symm
  have h26_6 : fld w 26 6 = 0x35#6 := rd e (hi rfl (hi rfl (hi rfl (whole _))))
  have h6_5 : fld w 6 5 = 0x3#5 := rd e (lo rfl (by decide))
  have h21_5 : fld w 21 5 = 0x0#5 := rd e (hi rfl (hi rfl (lo rfl (whole _))))
  have h11_5 : fld w 11 5 = 0x0#5 := rd e (lo rfl (by decide))
  have h0_6 : fld w 0 6 = 0x0#6 := rd e (lo rfl (by decide))
  have h16_5 : fld w 16 5 = a := rd e (hi rfl (lo rfl (whole _)))
  exact ⟨.waitmsg, (select35 h26_6).trans (by delta decodeMajor35; rw [h6_5, h21_5, h11_5, h0_6]; rfl), by show Instr.waitmsg _ = _; rw [h16_5], rfl⟩

theorem Encoding.send (a b : BitVec 5) : Encoding.Statement (.send a b) := by
  intro w hw
  have e : w = 0x35#6 ++ 0x0#5 ++ a ++ b ++ 0x100#11 := (Option.some.inj hw).symm
  have h26_6 : fld w 26 6 = 0x35#6 := rd e (hi rfl (hi rfl (hi rfl (hi rfl (whole _)))))
  have h6_5 : fld w 6 5 = 0x4#5 := rd e (lo rfl (by decide))
  have h21_5 : fld w 21 5 = 0x0#5 := rd e (hi rfl (hi rfl (hi rfl (lo rfl (whole _)))))
  have h0_6 : fld w 0 6 = 0x0#6 := rd e (lo rfl (by decide))
  have h16_5 : fld w 16 5 = a := rd e (hi rfl (hi rfl (lo rfl (whole _))))
  have h11_5 : fld w 11 5 = b := rd e (hi rfl (lo rfl (whole _)))
  exact ⟨.send, (select35 h26_6).trans (by delta decodeMajor35; rw [h6_5, h21_5, h0_6]; rfl), by show Instr.send _ _ = _; rw [h16_5, h11_5], rfl⟩

theorem Encoding.sendi (a b : BitVec 5) : Encoding.Statement (.sendi a b) := by
  intro w hw
  have e : w = 0x35#6 ++ 0x0#5 ++ a ++ b ++ 0x140#11 := (Option.some.inj hw).symm
  have h26_6 : fld w 26 6 = 0x35#6 := rd e (hi rfl (hi rfl (hi rfl (hi rfl (whole _)))))
  have h6_5 : fld w 6 5 = 0x5#5 := rd e (lo rfl (by decide))
  have h21_5 : fld w 21 5 = 0x0#5 := rd e (hi rfl (hi rfl (hi rfl (lo rfl (whole _)))))
  have h0_6 : fld w 0 6 = 0x0#6 := rd e (lo rfl (by decide))
  have h16_5 : fld w 16 5 = a := rd e (hi rfl (hi rfl (lo rfl (whole _))))
  have h11_5 : fld w 11 5 = b := rd e (hi rfl (lo rfl (whole _)))
  exact ⟨.sendi, (select35 h26_6).trans (by delta decodeMajor35; rw [h6_5, h21_5, h0_6]; rfl), by show Instr.sendi _ _ = _; rw [h16_5, h11_5], by show (decide ((fld w 11 5).toNat ≤ 28)) = _; rw [h11_5]; rfl⟩

theorem Encoding.rgsetl (d : BitVec 4) (a : BitVec 5) : Encoding.Statement (.rgsetl d a) := by
  intro w hw
  have e : w = 0x35#6 ++ d ++ 0x0#1 ++ a ++ 0x180#16 := (Option.some.inj hw).symm
  have h26_6 : fld w 26 6 = 0x35#6 := rd e (hi rfl (hi rfl (hi rfl (hi rfl (whole _)))))
  have h6_5 : fld w 6 5 = 0x6#5 := rd e (lo rfl (by decide))
  have h21_1 : fld w 21 1 = 0x0#1 := rd e (hi rfl (hi rfl (lo rfl (whole _))))
  have h11_5 : fld w 11 5 = 0x0#5 := rd e (lo rfl (by decide))
  have h0_6 : fld w 0 6 = 0x0#6 := rd e (lo rfl (by decide))
  have h22_4 : fld w 22 4 = d := rd e (hi rfl (hi rfl (hi rfl (lo rfl (whole _)))))
  have h16_5 : fld w 16 5 = a := rd e (hi rfl (lo rfl (whole _)))
  exact ⟨.rgsetl, (select35 h26_6).trans (by delta decodeMajor35; rw [h6_5, h21_1, h11_5, h0_6]; rfl), by show Instr.rgsetl _ _ = _; rw [h22_4, h16_5], rfl⟩

theorem Encoding.widf (d : BitVec 5) (f : BitVec 6) : Encoding.Statement (.widf d f) := by
  intro w hw
  have e : w = 0x35#6 ++ d ++ 0x7#15 ++ f := (Option.some.inj hw).symm
  have h26_6 : fld w 26 6 = 0x35#6 := rd e (hi rfl (hi rfl (hi rfl (whole _))))
  have h6_5 : fld w 6 5 = 0x7#5 := rd e (hi rfl (lo rfl (by decide)))
  have h11_10 : fld w 11 10 = 0x0#10 := rd e (hi rfl (lo rfl (by decide)))
  have h21_5 : fld w 21 5 = d := rd e (hi rfl (hi rfl (lo rfl (whole _))))
  have h0_6 : fld w 0 6 = f := rd e (lo rfl (whole _))
  exact ⟨.widf, (select35 h26_6).trans (by delta decodeMajor35; rw [h6_5, h11_10]; rfl), by show Instr.widf _ _ = _; rw [h21_5, h0_6], by show (decide ((fld w 0 6).toNat ≤ 5)) = _; rw [h0_6]; rfl⟩

theorem Encoding.sbind (a : BitVec 5) (v : BitVec 6) : Encoding.Statement (.sbind a v) := by
  intro w hw
  have e : w = 0x38#6 ++ 0x0#5 ++ a ++ 0x0#10 ++ v := (Option.some.inj hw).symm
  have h26_6 : fld w 26 6 = 0x38#6 := rd e (hi rfl (hi rfl (hi rfl (hi rfl (whole _)))))
  have h6_5 : fld w 6 5 = 0x0#5 := rd e (hi rfl (lo rfl (by decide)))
  have h21_5 : fld w 21 5 = 0x0#5 := rd e (hi rfl (hi rfl (hi rfl (lo rfl (whole _)))))
  have h11_5 : fld w 11 5 = 0x0#5 := rd e (hi rfl (lo rfl (by decide)))
  have h16_5 : fld w 16 5 = a := rd e (hi rfl (hi rfl (lo rfl (whole _))))
  have h0_6 : fld w 0 6 = v := rd e (lo rfl (whole _))
  exact ⟨.sbind, (select38 h26_6).trans (by delta decodeMajor38; rw [h6_5, h21_5, h11_5]; rfl), by show Instr.sbind _ _ = _; rw [h16_5, h0_6], rfl⟩

theorem Encoding.sunbind (v : BitVec 6) : Encoding.Statement (.sunbind v) := by
  intro w hw
  have e : w = 0x38#6 ++ 0x1#20 ++ v := (Option.some.inj hw).symm
  have h26_6 : fld w 26 6 = 0x38#6 := rd e (hi rfl (hi rfl (whole _)))
  have h6_5 : fld w 6 5 = 0x1#5 := rd e (hi rfl (lo rfl (by decide)))
  have h11_15 : fld w 11 15 = 0x0#15 := rd e (hi rfl (lo rfl (by decide)))
  have h0_6 : fld w 0 6 = v := rd e (lo rfl (whole _))
  exact ⟨.sunbind, (select38 h26_6).trans (by delta decodeMajor38; rw [h6_5, h11_15]; rfl), by show Instr.sunbind _ = _; rw [h0_6], rfl⟩

theorem Encoding.sdrain (v : BitVec 6) : Encoding.Statement (.sdrain v) := by
  intro w hw
  have e : w = 0x38#6 ++ 0x2#20 ++ v := (Option.some.inj hw).symm
  have h26_6 : fld w 26 6 = 0x38#6 := rd e (hi rfl (hi rfl (whole _)))
  have h6_5 : fld w 6 5 = 0x2#5 := rd e (hi rfl (lo rfl (by decide)))
  have h11_15 : fld w 11 15 = 0x0#15 := rd e (hi rfl (lo rfl (by decide)))
  have h0_6 : fld w 0 6 = v := rd e (lo rfl (whole _))
  exact ⟨.sdrain, (select38 h26_6).trans (by delta decodeMajor38; rw [h6_5, h11_15]; rfl), by show Instr.sdrain _ = _; rw [h0_6], rfl⟩

theorem Encoding.scopy (a b : BitVec 5) : Encoding.Statement (.scopy a b) := by
  intro w hw
  have e : w = 0x38#6 ++ 0x0#5 ++ a ++ b ++ 0xC0#11 := (Option.some.inj hw).symm
  have h26_6 : fld w 26 6 = 0x38#6 := rd e (hi rfl (hi rfl (hi rfl (hi rfl (whole _)))))
  have h6_5 : fld w 6 5 = 0x3#5 := rd e (lo rfl (by decide))
  have h21_5 : fld w 21 5 = 0x0#5 := rd e (hi rfl (hi rfl (hi rfl (lo rfl (whole _)))))
  have h0_6 : fld w 0 6 = 0x0#6 := rd e (lo rfl (by decide))
  have h16_5 : fld w 16 5 = a := rd e (hi rfl (hi rfl (lo rfl (whole _))))
  have h11_5 : fld w 11 5 = b := rd e (hi rfl (lo rfl (whole _)))
  exact ⟨.scopy, (select38 h26_6).trans (by delta decodeMajor38; rw [h6_5, h21_5, h0_6]; rfl), by show Instr.scopy _ _ = _; rw [h16_5, h11_5], rfl⟩

theorem Encoding.scopyF (a b : BitVec 5) : Encoding.Statement (.scopyF a b) := by
  intro w hw
  have e : w = 0x38#6 ++ 0x0#5 ++ a ++ b ++ 0x100#11 := (Option.some.inj hw).symm
  have h26_6 : fld w 26 6 = 0x38#6 := rd e (hi rfl (hi rfl (hi rfl (hi rfl (whole _)))))
  have h6_5 : fld w 6 5 = 0x4#5 := rd e (lo rfl (by decide))
  have h21_5 : fld w 21 5 = 0x0#5 := rd e (hi rfl (hi rfl (hi rfl (lo rfl (whole _)))))
  have h0_6 : fld w 0 6 = 0x0#6 := rd e (lo rfl (by decide))
  have h16_5 : fld w 16 5 = a := rd e (hi rfl (hi rfl (lo rfl (whole _))))
  have h11_5 : fld w 11 5 = b := rd e (hi rfl (lo rfl (whole _)))
  exact ⟨.scopyF, (select38 h26_6).trans (by delta decodeMajor38; rw [h6_5, h21_5, h0_6]; rfl), by show Instr.scopyF _ _ = _; rw [h16_5, h11_5], rfl⟩

theorem Encoding.sisectC (d : BitVec 5) (j m : BitVec 3) : Encoding.Statement (.sisectC d j m) := by
  intro w hw
  have e : w = 0x38#6 ++ d ++ 0x0#2 ++ j ++ 0x0#2 ++ m ++ 0x140#11 := (Option.some.inj hw).symm
  have h26_6 : fld w 26 6 = 0x38#6 := rd e (hi rfl (hi rfl (hi rfl (hi rfl (hi rfl (hi rfl (whole _)))))))
  have h6_5 : fld w 6 5 = 0x5#5 := rd e (lo rfl (by decide))
  have h19_2 : fld w 19 2 = 0x0#2 := rd e (hi rfl (hi rfl (hi rfl (hi rfl (lo rfl (whole _))))))
  have h14_2 : fld w 14 2 = 0x0#2 := rd e (hi rfl (hi rfl (lo rfl (whole _))))
  have h0_6 : fld w 0 6 = 0x0#6 := rd e (lo rfl (by decide))
  have h21_5 : fld w 21 5 = d := rd e (hi rfl (hi rfl (hi rfl (hi rfl (hi rfl (lo rfl (whole _)))))))
  have h16_3 : fld w 16 3 = j := rd e (hi rfl (hi rfl (hi rfl (lo rfl (whole _)))))
  have h11_3 : fld w 11 3 = m := rd e (hi rfl (lo rfl (whole _)))
  exact ⟨.sisectC, (select38 h26_6).trans (by delta decodeMajor38; rw [h6_5, h19_2, h14_2, h0_6]; rfl), by show Instr.sisectC _ _ _ = _; rw [h21_5, h16_3, h11_3], rfl⟩

theorem Encoding.sisectW (d : BitVec 5) (j m : BitVec 3) (v : BitVec 6) : Encoding.Statement (.sisectW d j m v) := by
  intro w hw
  have e : w = 0x38#6 ++ d ++ 0x0#2 ++ j ++ 0x0#2 ++ m ++ 0x6#5 ++ v := (Option.some.inj hw).symm
  have h26_6 : fld w 26 6 = 0x38#6 := rd e (hi rfl (hi rfl (hi rfl (hi rfl (hi rfl (hi rfl (hi rfl (whole _))))))))
  have h6_5 : fld w 6 5 = 0x6#5 := rd e (hi rfl (lo rfl (whole _)))
  have h19_2 : fld w 19 2 = 0x0#2 := rd e (hi rfl (hi rfl (hi rfl (hi rfl (hi rfl (lo rfl (whole _)))))))
  have h14_2 : fld w 14 2 = 0x0#2 := rd e (hi rfl (hi rfl (hi rfl (lo rfl (whole _)))))
  have h21_5 : fld w 21 5 = d := rd e (hi rfl (hi rfl (hi rfl (hi rfl (hi rfl (hi rfl (lo rfl (whole _))))))))
  have h16_3 : fld w 16 3 = j := rd e (hi rfl (hi rfl (hi rfl (hi rfl (lo rfl (whole _))))))
  have h11_3 : fld w 11 3 = m := rd e (hi rfl (hi rfl (lo rfl (whole _))))
  have h0_6 : fld w 0 6 = v := rd e (lo rfl (whole _))
  exact ⟨.sisectW, (select38 h26_6).trans (by delta decodeMajor38; rw [h6_5, h19_2, h14_2]; rfl), by show Instr.sisectW _ _ _ _ = _; rw [h21_5, h16_3, h11_3, h0_6], rfl⟩

theorem Encoding.cqwait : Encoding.Statement (.cqwait) := by
  intro w hw
  have e : w = 0x38#6 ++ 0x1C0#26 := (Option.some.inj hw).symm
  have h26_6 : fld w 26 6 = 0x38#6 := rd e (hi rfl (whole _))
  have h6_5 : fld w 6 5 = 0x7#5 := rd e (lo rfl (by decide))
  have h11_15 : fld w 11 15 = 0x0#15 := rd e (lo rfl (by decide))
  have h0_6 : fld w 0 6 = 0x0#6 := rd e (lo rfl (by decide))
  exact ⟨.cqwait, (select38 h26_6).trans (by delta decodeMajor38; rw [h6_5, h11_15, h0_6]; rfl), rfl, rfl⟩

theorem Encoding.cqpop (d : BitVec 4) : Encoding.Statement (.cqpop d) := by
  intro w hw
  have e : w = 0x38#6 ++ d ++ 0x200#22 := (Option.some.inj hw).symm
  have h26_6 : fld w 26 6 = 0x38#6 := rd e (hi rfl (hi rfl (whole _)))
  have h6_5 : fld w 6 5 = 0x8#5 := rd e (lo rfl (by decide))
  have h11_11 : fld w 11 11 = 0x0#11 := rd e (lo rfl (by decide))
  have h0_6 : fld w 0 6 = 0x0#6 := rd e (lo rfl (by decide))
  have h22_4 : fld w 22 4 = d := rd e (hi rfl (lo rfl (whole _)))
  exact ⟨.cqpop, (select38 h26_6).trans (by delta decodeMajor38; rw [h6_5, h11_11, h0_6]; rfl), by show Instr.cqpop _ = _; rw [h22_4], rfl⟩

theorem Encoding.walk (a b : BitVec 5) : Encoding.Statement (.walk a b) := by
  intro w hw
  have e : w = 0x38#6 ++ 0x0#5 ++ a ++ b ++ 0x240#11 := (Option.some.inj hw).symm
  have h26_6 : fld w 26 6 = 0x38#6 := rd e (hi rfl (hi rfl (hi rfl (hi rfl (whole _)))))
  have h6_5 : fld w 6 5 = 0x9#5 := rd e (lo rfl (by decide))
  have h21_5 : fld w 21 5 = 0x0#5 := rd e (hi rfl (hi rfl (hi rfl (lo rfl (whole _)))))
  have h0_6 : fld w 0 6 = 0x0#6 := rd e (lo rfl (by decide))
  have h16_5 : fld w 16 5 = a := rd e (hi rfl (hi rfl (lo rfl (whole _))))
  have h11_5 : fld w 11 5 = b := rd e (hi rfl (lo rfl (whole _)))
  exact ⟨.walk, (select38 h26_6).trans (by delta decodeMajor38; rw [h6_5, h21_5, h0_6]; rfl), by show Instr.walk _ _ = _; rw [h16_5, h11_5], rfl⟩

theorem Encoding.chase (d a : BitVec 6) (b : BitVec 5) (km : BitVec 3) : Encoding.Statement (.chase d a b km) := by
  intro w hw
  have e : w = 0x39#6 ++ d ++ a ++ b ++ 0x0#1 ++ km ++ 0x0#5 := (Option.some.inj hw).symm
  have h26_6 : fld w 26 6 = 0x39#6 := rd e (hi rfl (hi rfl (hi rfl (hi rfl (hi rfl (hi rfl (whole _)))))))
  have h1_4 : fld w 1 4 = 0x0#4 := rd e (lo rfl (by decide))
  have h8_1 : fld w 8 1 = 0x0#1 := rd e (hi rfl (hi rfl (lo rfl (whole _))))
  have h0_1 : fld w 0 1 = 0x0#1 := rd e (lo rfl (by decide))
  have h20_6 : fld w 20 6 = d := rd e (hi rfl (hi rfl (hi rfl (hi rfl (hi rfl (lo rfl (whole _)))))))
  have h14_6 : fld w 14 6 = a := rd e (hi rfl (hi rfl (hi rfl (hi rfl (lo rfl (whole _))))))
  have h9_5 : fld w 9 5 = b := rd e (hi rfl (hi rfl (hi rfl (lo rfl (whole _)))))
  have h5_3 : fld w 5 3 = km := rd e (hi rfl (lo rfl (whole _)))
  exact ⟨.chase, (select39 h26_6).trans (by delta decodeMajor39; rw [h1_4, h8_1, h0_1]; rfl), by show Instr.chase _ _ _ _ = _; rw [h20_6, h14_6, h9_5, h5_3], rfl⟩

theorem Encoding.pgather (d a : BitVec 6) (b : BitVec 5) (km : BitVec 3) : Encoding.Statement (.pgather d a b km) := by
  intro w hw
  have e : w = 0x39#6 ++ d ++ a ++ b ++ 0x0#1 ++ km ++ 0x2#5 := (Option.some.inj hw).symm
  have h26_6 : fld w 26 6 = 0x39#6 := rd e (hi rfl (hi rfl (hi rfl (hi rfl (hi rfl (hi rfl (whole _)))))))
  have h1_4 : fld w 1 4 = 0x1#4 := rd e (lo rfl (by decide))
  have h8_1 : fld w 8 1 = 0x0#1 := rd e (hi rfl (hi rfl (lo rfl (whole _))))
  have h0_1 : fld w 0 1 = 0x0#1 := rd e (lo rfl (by decide))
  have h20_6 : fld w 20 6 = d := rd e (hi rfl (hi rfl (hi rfl (hi rfl (hi rfl (lo rfl (whole _)))))))
  have h14_6 : fld w 14 6 = a := rd e (hi rfl (hi rfl (hi rfl (hi rfl (lo rfl (whole _))))))
  have h9_5 : fld w 9 5 = b := rd e (hi rfl (hi rfl (hi rfl (lo rfl (whole _)))))
  have h5_3 : fld w 5 3 = km := rd e (hi rfl (lo rfl (whole _)))
  exact ⟨.pgather, (select39 h26_6).trans (by delta decodeMajor39; rw [h1_4, h8_1, h0_1]; rfl), by show Instr.pgather _ _ _ _ = _; rw [h20_6, h14_6, h9_5, h5_3], rfl⟩

theorem Encoding.grpset (a b : BitVec 5) : Encoding.Statement (.grpset a b) := by
  intro w hw
  have e : w = 0x3C#6 ++ 0x0#5 ++ a ++ b ++ 0x0#11 := (Option.some.inj hw).symm
  have h26_6 : fld w 26 6 = 0x3C#6 := rd e (hi rfl (hi rfl (hi rfl (hi rfl (whole _)))))
  have h6_5 : fld w 6 5 = 0x0#5 := rd e (lo rfl (by decide))
  have h21_5 : fld w 21 5 = 0x0#5 := rd e (hi rfl (hi rfl (hi rfl (lo rfl (whole _)))))
  have h0_6 : fld w 0 6 = 0x0#6 := rd e (lo rfl (by decide))
  have h16_5 : fld w 16 5 = a := rd e (hi rfl (hi rfl (lo rfl (whole _))))
  have h11_5 : fld w 11 5 = b := rd e (hi rfl (lo rfl (whole _)))
  exact ⟨.grpset, (select3C h26_6).trans (by delta decodeMajor3C; rw [h6_5, h21_5, h0_6]; rfl), by show Instr.grpset _ _ = _; rw [h16_5, h11_5], rfl⟩

theorem Encoding.grpfree (a : BitVec 5) : Encoding.Statement (.grpfree a) := by
  intro w hw
  have e : w = 0x3C#6 ++ 0x0#5 ++ a ++ 0x40#16 := (Option.some.inj hw).symm
  have h26_6 : fld w 26 6 = 0x3C#6 := rd e (hi rfl (hi rfl (hi rfl (whole _))))
  have h6_5 : fld w 6 5 = 0x1#5 := rd e (lo rfl (by decide))
  have h21_5 : fld w 21 5 = 0x0#5 := rd e (hi rfl (hi rfl (lo rfl (whole _))))
  have h11_5 : fld w 11 5 = 0x0#5 := rd e (lo rfl (by decide))
  have h0_6 : fld w 0 6 = 0x0#6 := rd e (lo rfl (by decide))
  have h16_5 : fld w 16 5 = a := rd e (hi rfl (lo rfl (whole _)))
  exact ⟨.grpfree, (select3C h26_6).trans (by delta decodeMajor3C; rw [h6_5, h21_5, h11_5, h0_6]; rfl), by show Instr.grpfree _ = _; rw [h16_5], rfl⟩

theorem Encoding.nred (a b : BitVec 5) (ty op : BitVec 2) : Encoding.Statement (.nred a b ty op) := by
  intro w hw
  have e : w = 0x3C#6 ++ 0x0#5 ++ a ++ b ++ 0x2#5 ++ ty ++ op ++ 0x0#2 := (Option.some.inj hw).symm
  have h26_6 : fld w 26 6 = 0x3C#6 := rd e (hi rfl (hi rfl (hi rfl (hi rfl (hi rfl (hi rfl (hi rfl (whole _))))))))
  have h6_5 : fld w 6 5 = 0x2#5 := rd e (hi rfl (hi rfl (hi rfl (lo rfl (whole _)))))
  have h21_5 : fld w 21 5 = 0x0#5 := rd e (hi rfl (hi rfl (hi rfl (hi rfl (hi rfl (hi rfl (lo rfl (whole _))))))))
  have h0_2 : fld w 0 2 = 0x0#2 := rd e (lo rfl (whole _))
  have h16_5 : fld w 16 5 = a := rd e (hi rfl (hi rfl (hi rfl (hi rfl (hi rfl (lo rfl (whole _)))))))
  have h11_5 : fld w 11 5 = b := rd e (hi rfl (hi rfl (hi rfl (hi rfl (lo rfl (whole _))))))
  have h4_2 : fld w 4 2 = ty := rd e (hi rfl (hi rfl (lo rfl (whole _))))
  have h2_2 : fld w 2 2 = op := rd e (hi rfl (lo rfl (whole _)))
  exact ⟨.nred, (select3C h26_6).trans (by delta decodeMajor3C; rw [h6_5, h21_5, h0_2]; rfl), by show Instr.nred _ _ _ _ = _; rw [h16_5, h11_5, h4_2, h2_2], by show ((fld w 4 2) != 3 && (fld w 2 2) != 3) = _; rw [h4_2, h2_2]; rfl⟩

theorem Encoding.nmcast (a b : BitVec 5) : Encoding.Statement (.nmcast a b) := by
  intro w hw
  have e : w = 0x3C#6 ++ 0x0#5 ++ a ++ b ++ 0xC0#11 := (Option.some.inj hw).symm
  have h26_6 : fld w 26 6 = 0x3C#6 := rd e (hi rfl (hi rfl (hi rfl (hi rfl (whole _)))))
  have h6_5 : fld w 6 5 = 0x3#5 := rd e (lo rfl (by decide))
  have h21_5 : fld w 21 5 = 0x0#5 := rd e (hi rfl (hi rfl (hi rfl (lo rfl (whole _)))))
  have h0_6 : fld w 0 6 = 0x0#6 := rd e (lo rfl (by decide))
  have h16_5 : fld w 16 5 = a := rd e (hi rfl (hi rfl (lo rfl (whole _))))
  have h11_5 : fld w 11 5 = b := rd e (hi rfl (lo rfl (whole _)))
  exact ⟨.nmcast, (select3C h26_6).trans (by delta decodeMajor3C; rw [h6_5, h21_5, h0_6]; rfl), by show Instr.nmcast _ _ = _; rw [h16_5, h11_5], rfl⟩

theorem Encoding.gswOut (a : BitVec 5) : Encoding.Statement (.gswOut a) := by
  intro w hw
  have e : w = 0x3C#6 ++ 0x0#5 ++ a ++ 0x100#16 := (Option.some.inj hw).symm
  have h26_6 : fld w 26 6 = 0x3C#6 := rd e (hi rfl (hi rfl (hi rfl (whole _))))
  have h6_5 : fld w 6 5 = 0x4#5 := rd e (lo rfl (by decide))
  have h0_1 : fld w 0 1 = 0x0#1 := rd e (lo rfl (by decide))
  have h21_5 : fld w 21 5 = 0x0#5 := rd e (hi rfl (hi rfl (lo rfl (whole _))))
  have h11_5 : fld w 11 5 = 0x0#5 := rd e (lo rfl (by decide))
  have h1_5 : fld w 1 5 = 0x0#5 := rd e (lo rfl (by decide))
  have h16_5 : fld w 16 5 = a := rd e (hi rfl (lo rfl (whole _)))
  exact ⟨.gswOut, (select3C h26_6).trans (by delta decodeMajor3C; rw [h6_5, h0_1, h21_5, h11_5, h1_5]; rfl), by show Instr.gswOut _ = _; rw [h16_5], rfl⟩

theorem Encoding.gswIN (a : BitVec 5) : Encoding.Statement (.gswIN a) := by
  intro w hw
  have e : w = 0x3C#6 ++ 0x0#5 ++ a ++ 0x101#16 := (Option.some.inj hw).symm
  have h26_6 : fld w 26 6 = 0x3C#6 := rd e (hi rfl (hi rfl (hi rfl (whole _))))
  have h6_5 : fld w 6 5 = 0x4#5 := rd e (lo rfl (by decide))
  have h0_1 : fld w 0 1 = 0x1#1 := rd e (lo rfl (by decide))
  have h21_5 : fld w 21 5 = 0x0#5 := rd e (hi rfl (hi rfl (lo rfl (whole _))))
  have h11_5 : fld w 11 5 = 0x0#5 := rd e (lo rfl (by decide))
  have h1_5 : fld w 1 5 = 0x0#5 := rd e (lo rfl (by decide))
  have h16_5 : fld w 16 5 = a := rd e (hi rfl (lo rfl (whole _)))
  exact ⟨.gswIN, (select3C h26_6).trans (by delta decodeMajor3C; rw [h6_5, h0_1, h21_5, h11_5, h1_5]; rfl), by show Instr.gswIN _ = _; rw [h16_5], rfl⟩

theorem Encoding.pfx (sense : BitVec 1) (p : BitVec 5) (ce : BitVec 1) (cd : BitVec 6) : Encoding.Statement (.pfx sense p ce cd) := by
  intro w hw
  have e : w = 0x3F#6 ++ sense ++ p ++ ce ++ cd ++ 0x0#13 := (Option.some.inj hw).symm
  have h26_6 : fld w 26 6 = 0x3F#6 := rd e (hi rfl (hi rfl (hi rfl (hi rfl (hi rfl (whole _))))))
  have h0_13 : fld w 0 13 = 0x0#13 := rd e (lo rfl (whole _))
  have h25_1 : fld w 25 1 = sense := rd e (hi rfl (hi rfl (hi rfl (hi rfl (lo rfl (whole _))))))
  have h20_5 : fld w 20 5 = p := rd e (hi rfl (hi rfl (hi rfl (lo rfl (whole _)))))
  have h19_1 : fld w 19 1 = ce := rd e (hi rfl (hi rfl (lo rfl (whole _))))
  have h13_6 : fld w 13 6 = cd := rd e (hi rfl (lo rfl (whole _)))
  exact ⟨.pfx, by delta selectOp; rw [h26_6, h0_13]; rfl, by show Instr.pfx _ _ _ _ = _; rw [h25_1, h20_5, h19_1, h13_6], by show ((fld w 19 1) == 1 || (fld w 13 6) == 0) = _; rw [h19_1, h13_6]; rfl⟩

theorem Encoding.vqueueBegin : Encoding.Statement (.vqueueBegin) := fun _ h => nomatch h

theorem Encoding.vqueueComplete : Encoding.Statement (.vqueueComplete) := fun _ h => nomatch h

theorem Encoding.trapEntry (cause : BitVec 8) (val : Word) : Encoding.Statement (.trapEntry cause val) := fun _ h => nomatch h

theorem Encoding.mEventEntry (core : BitVec 1) : Encoding.Statement (.mEventEntry core) := fun _ h => nomatch h

theorem Encoding.asyncBoundary : Encoding.Statement (.asyncBoundary) := fun _ h => nomatch h

theorem Encoding.timeoutExpiry (ring : BitVec 6) : Encoding.Statement (.timeoutExpiry ring) := fun _ h => nomatch h

theorem Encoding.wfiWake (ring : BitVec 6) : Encoding.Statement (.wfiWake ring) := fun _ h => nomatch h

theorem Encoding.ringStopped (ring : BitVec 6) : Encoding.Statement (.ringStopped ring) := fun _ h => nomatch h

theorem Encoding.chunkStart : Encoding.Statement (.chunkStart) := fun _ h => nomatch h

theorem Encoding.imageCopyDone (slot : BitVec 3) : Encoding.Statement (.imageCopyDone slot) := fun _ h => nomatch h

theorem Encoding.liveinArrival (slot : BitVec 3) : Encoding.Statement (.liveinArrival slot) := fun _ h => nomatch h

theorem Encoding.chunkSquash (slot : BitVec 3) : Encoding.Statement (.chunkSquash slot) := fun _ h => nomatch h

theorem Encoding.chunkRestart (slot : BitVec 3) : Encoding.Statement (.chunkRestart slot) := fun _ h => nomatch h

theorem Encoding.keystoneArrival : Encoding.Statement (.keystoneArrival) := fun _ h => nomatch h

theorem Encoding.chunkCommit : Encoding.Statement (.chunkCommit) := fun _ h => nomatch h

theorem Encoding.messageArrival (msg : Message) : Encoding.Statement (.messageArrival msg) := fun _ h => nomatch h

theorem Encoding.spillRefill (aid : BitVec 12) (mbx : BitVec 5) : Encoding.Statement (.spillRefill aid mbx) := fun _ h => nomatch h

theorem Encoding.dispatch (ring : BitVec 6) : Encoding.Statement (.dispatch ring) := fun _ h => nomatch h

theorem Encoding.outboundInject (ring : BitVec 6) (idx : BitVec 8) : Encoding.Statement (.outboundInject ring idx) := fun _ h => nomatch h

theorem Encoding.retryBackoffExpiry (ring : BitVec 6) (idx : BitVec 8) : Encoding.Statement (.retryBackoffExpiry ring idx) := fun _ h => nomatch h

theorem Encoding.actstallExpiry (ring : BitVec 6) : Encoding.Statement (.actstallExpiry ring) := fun _ h => nomatch h

theorem Encoding.quantumExpiry (ring : BitVec 6) : Encoding.Statement (.quantumExpiry ring) := fun _ h => nomatch h

theorem Encoding.overrunExpiry (ring : BitVec 6) : Encoding.Statement (.overrunExpiry ring) := fun _ h => nomatch h

theorem Encoding.memoryReply (core : BitVec 9) (slice : BitVec 5) : Encoding.Statement (.memoryReply core slice) := fun _ h => nomatch h

theorem Encoding.sliceRequest (core : BitVec 9) (req : SliceReq) : Encoding.Statement (.sliceRequest core req) := fun _ h => nomatch h

theorem Encoding.ldsyncWake (pa : BitVec 56) : Encoding.Statement (.ldsyncWake pa) := fun _ h => nomatch h

theorem Encoding.stripFetch (slot : BitVec 3) : Encoding.Statement (.stripFetch slot) := fun _ h => nomatch h

theorem Encoding.stripFetchDone (slot : BitVec 3) : Encoding.Statement (.stripFetchDone slot) := fun _ h => nomatch h

theorem Encoding.stripWrite (slot : BitVec 3) : Encoding.Statement (.stripWrite slot) := fun _ h => nomatch h

theorem Encoding.drainRecordPost (slot : BitVec 3) : Encoding.Statement (.drainRecordPost slot) := fun _ h => nomatch h

theorem Encoding.scopyRecordPost : Encoding.Statement (.scopyRecordPost) := fun _ h => nomatch h

theorem Encoding.cqCapacityWake : Encoding.Statement (.cqCapacityWake) := fun _ h => nomatch h

theorem Encoding.walkerAdmit (cmd walker : BitVec 16) : Encoding.Statement (.walkerAdmit cmd walker) := fun _ h => nomatch h

theorem Encoding.walkerMigrate (cmd walker : BitVec 16) (engine : BitVec 7) : Encoding.Statement (.walkerMigrate cmd walker engine) := fun _ h => nomatch h

theorem Encoding.walkerReadDone (cmd walker : BitVec 16) : Encoding.Statement (.walkerReadDone cmd walker) := fun _ h => nomatch h

theorem Encoding.resultWrite (cmd walker : BitVec 16) : Encoding.Statement (.resultWrite cmd walker) := fun _ h => nomatch h

theorem Encoding.pierRecordPost (cmd : BitVec 16) : Encoding.Statement (.pierRecordPost cmd) := fun _ h => nomatch h

theorem Encoding.dbgctlHalt (core : BitVec 1) (mask : BitVec 8) : Encoding.Statement (.dbgctlHalt core mask) := fun _ h => nomatch h

theorem Encoding.debugHaltReached (ring : BitVec 6) : Encoding.Statement (.debugHaltReached ring) := fun _ h => nomatch h

theorem Encoding.dbgctlStep (core : BitVec 1) (ring : BitVec 6) (on : Bool) : Encoding.Statement (.dbgctlStep core ring on) := fun _ h => nomatch h

theorem Encoding.debugStepBreak (ring : BitVec 6) : Encoding.Statement (.debugStepBreak ring) := fun _ h => nomatch h

theorem Encoding.gangcfgShapeWrite (shape : BitVec 1) : Encoding.Statement (.gangcfgShapeWrite shape) := fun _ h => nomatch h

theorem Encoding.pwrcfgWrite (core : BitVec 1) (val : Word) : Encoding.Statement (.pwrcfgWrite core val) := fun _ h => nomatch h

theorem Encoding.linkctlNewkey (link : BitVec 5) : Encoding.Statement (.linkctlNewkey link) := fun _ h => nomatch h

theorem Encoding.fabcfgFlowgapWrite (gap : BitVec 16) : Encoding.Statement (.fabcfgFlowgapWrite gap) := fun _ h => nomatch h

theorem Encoding.accessTableStore (pa : BitVec 56) (val : Word) : Encoding.Statement (.accessTableStore pa val) := fun _ h => nomatch h

theorem Encoding.registerWrite (pa : BitVec 56) (val : Word) : Encoding.Statement (.registerWrite pa val) := fun _ h => nomatch h

theorem Encoding.moduleReset : Encoding.Statement (.moduleReset) := fun _ h => nomatch h

theorem Encoding.boot (b : BootReport) : Encoding.Statement (.boot b) := fun _ h => nomatch h

theorem Encoding.coreRetirementMark (die : BitVec 3) (cluster : BitVec 2) (phys : BitVec 5) : Encoding.Statement (.coreRetirementMark die cluster phys) := fun _ h => nomatch h

theorem Encoding.droopTrip (die : BitVec 3) : Encoding.Statement (.droopTrip die) := fun _ h => nomatch h

theorem Encoding.droopClear (die : BitVec 3) : Encoding.Statement (.droopClear die) := fun _ h => nomatch h

theorem Encoding.clockStepDone (die : BitVec 3) : Encoding.Statement (.clockStepDone die) := fun _ h => nomatch h

theorem Encoding.borrow (src dst : BitVec 3) (n : BitVec 10) : Encoding.Statement (.borrow src dst n) := fun _ h => nomatch h

theorem Encoding.grant (src dst : BitVec 3) (n : BitVec 10) : Encoding.Statement (.grant src dst n) := fun _ h => nomatch h

theorem Encoding.deny (src dst : BitVec 3) : Encoding.Statement (.deny src dst) := fun _ h => nomatch h

theorem Encoding.repay (src dst : BitVec 3) (n : BitVec 10) : Encoding.Statement (.repay src dst n) := fun _ h => nomatch h

theorem Encoding.recall (src dst : BitVec 3) (n : BitVec 10) : Encoding.Statement (.recall src dst n) := fun _ h => nomatch h

theorem Encoding.borrowRetryExpiry (die : BitVec 3) : Encoding.Statement (.borrowRetryExpiry die) := fun _ h => nomatch h

theorem Encoding.timeSyncTick (die : BitVec 3) : Encoding.Statement (.timeSyncTick die) := fun _ h => nomatch h

theorem Encoding.thermalCap (die : BitVec 3) : Encoding.Statement (.thermalCap die) := fun _ h => nomatch h

theorem Encoding.thermalShutdown : Encoding.Statement (.thermalShutdown) := fun _ h => nomatch h

theorem Encoding.frameReceive (link : BitVec 5) (f : Frame) : Encoding.Statement (.frameReceive link f) := fun _ h => nomatch h

theorem Encoding.keyUseLimit (link : BitVec 5) : Encoding.Statement (.keyUseLimit link) := fun _ h => nomatch h

theorem Encoding.laneLockLoss (link : BitVec 5) : Encoding.Statement (.laneLockLoss link) := fun _ h => nomatch h

theorem Encoding.linkRetrained (link : BitVec 5) : Encoding.Statement (.linkRetrained link) := fun _ h => nomatch h

theorem Encoding.linkRecoveryTimeout (link : BitVec 5) (lastAccepted : BitVec 32) : Encoding.Statement (.linkRecoveryTimeout link lastAccepted) := fun _ h => nomatch h

theorem Encoding.packetForward (sw : SwitchId) (port : BitVec 5) (chan : BitVec 3) : Encoding.Statement (.packetForward sw port chan) := fun _ h => nomatch h

theorem Encoding.readPacket (p : Packet) : Encoding.Statement (.readPacket p) := fun _ h => nomatch h

theorem Encoding.readResponsePacket (p : Packet) : Encoding.Statement (.readResponsePacket p) := fun _ h => nomatch h

theorem Encoding.writePacket (p : Packet) : Encoding.Statement (.writePacket p) := fun _ h => nomatch h

theorem Encoding.writeResponsePacket (p : Packet) : Encoding.Statement (.writeResponsePacket p) := fun _ h => nomatch h

theorem Encoding.atomicPacket (p : Packet) : Encoding.Statement (.atomicPacket p) := fun _ h => nomatch h

theorem Encoding.atomicResponsePacket (p : Packet) : Encoding.Statement (.atomicResponsePacket p) := fun _ h => nomatch h

theorem Encoding.messagePacket (p : Packet) : Encoding.Statement (.messagePacket p) := fun _ h => nomatch h

theorem Encoding.messageResponsePacket (p : Packet) : Encoding.Statement (.messageResponsePacket p) := fun _ h => nomatch h

theorem Encoding.stripPacket (p : Packet) : Encoding.Statement (.stripPacket p) := fun _ h => nomatch h

theorem Encoding.stripResponsePacket (p : Packet) : Encoding.Statement (.stripResponsePacket p) := fun _ h => nomatch h

theorem Encoding.timeRequest (p : Packet) : Encoding.Statement (.timeRequest p) := fun _ h => nomatch h

theorem Encoding.timeReply (p : Packet) : Encoding.Statement (.timeReply p) := fun _ h => nomatch h

theorem Encoding.debugPause (p : Packet) : Encoding.Statement (.debugPause p) := fun _ h => nomatch h

theorem Encoding.debugThaw (p : Packet) : Encoding.Statement (.debugThaw p) := fun _ h => nomatch h

theorem Encoding.deflectionEntry (sw : SwitchId) (p : Packet) : Encoding.Statement (.deflectionEntry sw p) := fun _ h => nomatch h

theorem Encoding.flowletReturn (sw : SwitchId) (p : Packet) : Encoding.Statement (.flowletReturn sw p) := fun _ h => nomatch h

theorem Encoding.heartbeat (p : Packet) : Encoding.Statement (.heartbeat p) := fun _ h => nomatch h

theorem Encoding.heartbeatSendTick : Encoding.Statement (.heartbeatSendTick) := fun _ h => nomatch h

theorem Encoding.heartbeatTimeout (module : BitVec 14) : Encoding.Statement (.heartbeatTimeout module) := fun _ h => nomatch h

theorem Encoding.contribution (sw : SwitchId) (child : BitVec 7) (p : Packet) : Encoding.Statement (.contribution sw child p) := fun _ h => nomatch h

theorem Encoding.collectiveResult (sw : SwitchId) (p : Packet) : Encoding.Statement (.collectiveResult sw p) := fun _ h => nomatch h

theorem Encoding.multicastUP (sw : SwitchId) (p : Packet) : Encoding.Statement (.multicastUP sw p) := fun _ h => nomatch h

theorem Encoding.multicastDown (sw : SwitchId) (p : Packet) : Encoding.Statement (.multicastDown sw p) := fun _ h => nomatch h

theorem Encoding.reserve (sw : SwitchId) (p : Packet) : Encoding.Statement (.reserve sw p) := fun _ h => nomatch h

theorem Encoding.reserveReply (p : Packet) : Encoding.Statement (.reserveReply p) := fun _ h => nomatch h

theorem Encoding.entryWrite (sw : SwitchId) (p : Packet) : Encoding.Statement (.entryWrite sw p) := fun _ h => nomatch h

theorem Encoding.entryAcknowledge (p : Packet) : Encoding.Statement (.entryAcknowledge p) := fun _ h => nomatch h

theorem Encoding.drain (sw : SwitchId) (p : Packet) : Encoding.Statement (.drain sw p) := fun _ h => nomatch h

theorem Encoding.drainedReport (sw : SwitchId) (p : Packet) : Encoding.Statement (.drainedReport sw p) := fun _ h => nomatch h

theorem Encoding.switchOutCommand (jid : BitVec 16) (gseq : BitVec 32) : Encoding.Statement (.switchOutCommand jid gseq) := fun _ h => nomatch h

theorem Encoding.sweepMarker (sw : SwitchId) (port : BitVec 5) (chan : BitVec 3) (jid : BitVec 16) : Encoding.Statement (.sweepMarker sw port chan jid) := fun _ h => nomatch h

theorem Encoding.switchINCommand (jid : BitVec 16) (gseq : BitVec 32) : Encoding.Statement (.switchINCommand jid gseq) := fun _ h => nomatch h

theorem Encoding.switchReport (p : Packet) : Encoding.Statement (.switchReport p) := fun _ h => nomatch h

theorem Encoding.moduleReport (p : Packet) : Encoding.Statement (.moduleReport p) := fun _ h => nomatch h

theorem Encoding.gangResume (jid : BitVec 16) (gseq : BitVec 32) : Encoding.Statement (.gangResume jid gseq) := fun _ h => nomatch h

theorem Encoding.gangFailed (jid : BitVec 16) (gseq : BitVec 32) : Encoding.Statement (.gangFailed jid gseq) := fun _ h => nomatch h

theorem Encoding.rdmaWrite (port : BitVec 3) (qpn : BitVec 24) (rkey : BitVec 32) (pa : BitVec 56) (data : List Byte) : Encoding.Statement (.rdmaWrite port qpn rkey pa data) := fun _ h => nomatch h

theorem Encoding.rdmaRead (port : BitVec 3) (qpn : BitVec 24) (rkey : BitVec 32) (pa : BitVec 56) (len : BitVec 32) : Encoding.Statement (.rdmaRead port qpn rkey pa len) := fun _ h => nomatch h

theorem Encoding.hostSend (port : BitVec 3) (qpn : BitVec 24) (payload : List Byte) : Encoding.Statement (.hostSend port qpn payload) := fun _ h => nomatch h

theorem Encoding.launch (msg : List Byte) (rings : List (BitVec 6)) : Encoding.Statement (.launch msg rings) := fun _ h => nomatch h

theorem Encoding.attest (msg : List Byte) : Encoding.Statement (.attest msg) := fun _ h => nomatch h

theorem Encoding.moduleFault (kind : ModuleFaultKind) : Encoding.Statement (.moduleFault kind) := fun _ h => nomatch h

theorem Encoding.wantedPowerChange (die : BitVec 3) (watts : BitVec 10) : Encoding.Statement (.wantedPowerChange die watts) := fun _ h => nomatch h

theorem Encoding.frameSend (link : BitVec 5) : Encoding.Statement (.frameSend link) := fun _ h => nomatch h

end Sys2Proof.Laws
end

