-- ==== Sys2Proof/Laws/State.lean ====
section
/-! SUPPORT. What each named update of the state leaves: one lemma for a field and an update, true by definition. -/

namespace Sys2Proof.Laws.Updates

open Sys2Proof.Machine

/-- A full bit's change leaves everything but the full bits and the waiters (R299, R311). -/
theorem setFull_frame (s : State) (pa : Nat) (b : Bool) :
    setFull s pa b = { s with full := (setFull s pa b).full, waiters := (setFull s pa b).waiters } := by
  unfold setFull
  split
  · dsimp only
    split <;> rfl
  · rfl

@[simp] theorem state_poke_hart (s : State) (pa : Nat) (b : Byte) : (s.poke pa b).hart = s.hart := by rw [poke_same s pa b]
@[simp] theorem state_poke_ring (s : State) (pa : Nat) (b : Byte) : (s.poke pa b).ring = s.ring := by rw [poke_same s pa b]
@[simp] theorem state_poke_rings (s : State) (pa : Nat) (b : Byte) : (s.poke pa b).rings = s.rings := by rw [poke_same s pa b]
@[simp] theorem state_poke_cur (s : State) (pa : Nat) (b : Byte) : (s.poke pa b).cur = s.cur := by rw [poke_same s pa b]
@[simp] theorem state_poke_onMgmt (s : State) (pa : Nat) (b : Byte) : (s.poke pa b).onMgmt = s.onMgmt := by rw [poke_same s pa b]
@[simp] theorem state_poke_full (s : State) (pa : Nat) (b : Byte) : (s.poke pa b).full = s.full := by rw [poke_same s pa b]
@[simp] theorem state_poke_ctl (s : State) (pa : Nat) (b : Byte) : (s.poke pa b).ctl = s.ctl := by rw [poke_same s pa b]
@[simp] theorem state_poke_switches (s : State) (pa : Nat) (b : Byte) : (s.poke pa b).switches = s.switches := by rw [poke_same s pa b]
@[simp] theorem state_poke_dies (s : State) (pa : Nat) (b : Byte) : (s.poke pa b).dies = s.dies := by rw [poke_same s pa b]
@[simp] theorem state_poke_actors (s : State) (pa : Nat) (b : Byte) : (s.poke pa b).actors = s.actors := by rw [poke_same s pa b]
@[simp] theorem state_poke_module (s : State) (pa : Nat) (b : Byte) : (s.poke pa b).module = s.module := by rw [poke_same s pa b]

@[simp] theorem noteRead_ring (s : State) (pa n : Nat) : (noteRead s pa n).ring = s.ring := by rw [noteRead_frame s pa n]
@[simp] theorem noteRead_rings (s : State) (pa n : Nat) : (noteRead s pa n).rings = s.rings := by rw [noteRead_frame s pa n]
@[simp] theorem noteRead_cur (s : State) (pa n : Nat) : (noteRead s pa n).cur = s.cur := by rw [noteRead_frame s pa n]
@[simp] theorem noteRead_onMgmt (s : State) (pa n : Nat) : (noteRead s pa n).onMgmt = s.onMgmt := by rw [noteRead_frame s pa n]
@[simp] theorem noteRead_full (s : State) (pa n : Nat) : (noteRead s pa n).full = s.full := by rw [noteRead_frame s pa n]
@[simp] theorem noteRead_ctl (s : State) (pa n : Nat) : (noteRead s pa n).ctl = s.ctl := by rw [noteRead_frame s pa n]
@[simp] theorem noteRead_switches (s : State) (pa n : Nat) : (noteRead s pa n).switches = s.switches := by rw [noteRead_frame s pa n]
@[simp] theorem noteRead_dies (s : State) (pa n : Nat) : (noteRead s pa n).dies = s.dies := by rw [noteRead_frame s pa n]
@[simp] theorem noteRead_actors (s : State) (pa n : Nat) : (noteRead s pa n).actors = s.actors := by rw [noteRead_frame s pa n]
@[simp] theorem noteRead_module (s : State) (pa n : Nat) : (noteRead s pa n).module = s.module := by rw [noteRead_frame s pa n]

@[simp] theorem state_putActor_hart (s : State) (a : Actor) : (s.putActor a).hart = s.hart := rfl
@[simp] theorem state_putActor_ring (s : State) (a : Actor) : (s.putActor a).ring = s.ring := rfl
@[simp] theorem state_putActor_rings (s : State) (a : Actor) : (s.putActor a).rings = s.rings := rfl
@[simp] theorem state_putActor_cur (s : State) (a : Actor) : (s.putActor a).cur = s.cur := rfl
@[simp] theorem state_putActor_onMgmt (s : State) (a : Actor) : (s.putActor a).onMgmt = s.onMgmt := rfl
@[simp] theorem state_putActor_mgmt (s : State) (a : Actor) : (s.putActor a).mgmt = s.mgmt := rfl
@[simp] theorem state_putActor_mem (s : State) (a : Actor) : (s.putActor a).mem = s.mem := rfl
@[simp] theorem state_putActor_full (s : State) (a : Actor) : (s.putActor a).full = s.full := rfl
@[simp] theorem state_putActor_ctl (s : State) (a : Actor) : (s.putActor a).ctl = s.ctl := rfl
@[simp] theorem state_putActor_switches (s : State) (a : Actor) : (s.putActor a).switches = s.switches := rfl
@[simp] theorem state_putActor_lines (s : State) (a : Actor) : (s.putActor a).lines = s.lines := rfl
@[simp] theorem state_putActor_dies (s : State) (a : Actor) : (s.putActor a).dies = s.dies := rfl
@[simp] theorem state_putActor_module (s : State) (a : Actor) : (s.putActor a).module = s.module := rfl

@[simp] theorem state_modMgmt_hart (s : State) (a : BitVec 1) (f : Mgmt → Mgmt) : (s.modMgmt a f).hart = s.hart := rfl
@[simp] theorem state_modMgmt_ring (s : State) (a : BitVec 1) (f : Mgmt → Mgmt) : (s.modMgmt a f).ring = s.ring := rfl
@[simp] theorem state_modMgmt_rings (s : State) (a : BitVec 1) (f : Mgmt → Mgmt) : (s.modMgmt a f).rings = s.rings := rfl
@[simp] theorem state_modMgmt_cur (s : State) (a : BitVec 1) (f : Mgmt → Mgmt) : (s.modMgmt a f).cur = s.cur := rfl
@[simp] theorem state_modMgmt_onMgmt (s : State) (a : BitVec 1) (f : Mgmt → Mgmt) : (s.modMgmt a f).onMgmt = s.onMgmt := rfl
@[simp] theorem state_modMgmt_mem (s : State) (a : BitVec 1) (f : Mgmt → Mgmt) : (s.modMgmt a f).mem = s.mem := rfl
@[simp] theorem state_modMgmt_full (s : State) (a : BitVec 1) (f : Mgmt → Mgmt) : (s.modMgmt a f).full = s.full := rfl
@[simp] theorem state_modMgmt_ctl (s : State) (a : BitVec 1) (f : Mgmt → Mgmt) : (s.modMgmt a f).ctl = s.ctl := rfl
@[simp] theorem state_modMgmt_switches (s : State) (a : BitVec 1) (f : Mgmt → Mgmt) : (s.modMgmt a f).switches = s.switches := rfl
@[simp] theorem state_modMgmt_lines (s : State) (a : BitVec 1) (f : Mgmt → Mgmt) : (s.modMgmt a f).lines = s.lines := rfl
@[simp] theorem state_modMgmt_dies (s : State) (a : BitVec 1) (f : Mgmt → Mgmt) : (s.modMgmt a f).dies = s.dies := rfl
@[simp] theorem state_modMgmt_actors (s : State) (a : BitVec 1) (f : Mgmt → Mgmt) : (s.modMgmt a f).actors = s.actors := rfl
@[simp] theorem state_modMgmt_module (s : State) (a : BitVec 1) (f : Mgmt → Mgmt) : (s.modMgmt a f).module = s.module := rfl

@[simp] theorem state_modDie_hart (s : State) (d : BitVec 3) (f : Die → Die) : (s.modDie d f).hart = s.hart := rfl
@[simp] theorem state_modDie_ring (s : State) (d : BitVec 3) (f : Die → Die) : (s.modDie d f).ring = s.ring := rfl
@[simp] theorem state_modDie_rings (s : State) (d : BitVec 3) (f : Die → Die) : (s.modDie d f).rings = s.rings := rfl
@[simp] theorem state_modDie_cur (s : State) (d : BitVec 3) (f : Die → Die) : (s.modDie d f).cur = s.cur := rfl
@[simp] theorem state_modDie_onMgmt (s : State) (d : BitVec 3) (f : Die → Die) : (s.modDie d f).onMgmt = s.onMgmt := rfl
@[simp] theorem state_modDie_mgmt (s : State) (d : BitVec 3) (f : Die → Die) : (s.modDie d f).mgmt = s.mgmt := rfl
@[simp] theorem state_modDie_mem (s : State) (d : BitVec 3) (f : Die → Die) : (s.modDie d f).mem = s.mem := rfl
@[simp] theorem state_modDie_full (s : State) (d : BitVec 3) (f : Die → Die) : (s.modDie d f).full = s.full := rfl
@[simp] theorem state_modDie_ctl (s : State) (d : BitVec 3) (f : Die → Die) : (s.modDie d f).ctl = s.ctl := rfl
@[simp] theorem state_modDie_switches (s : State) (d : BitVec 3) (f : Die → Die) : (s.modDie d f).switches = s.switches := rfl
@[simp] theorem state_modDie_lines (s : State) (d : BitVec 3) (f : Die → Die) : (s.modDie d f).lines = s.lines := rfl
@[simp] theorem state_modDie_actors (s : State) (d : BitVec 3) (f : Die → Die) : (s.modDie d f).actors = s.actors := rfl
@[simp] theorem state_modDie_module (s : State) (d : BitVec 3) (f : Die → Die) : (s.modDie d f).module = s.module := rfl

@[simp] theorem state_modSwitch_hart (s : State) (i : SwitchId) (f : Switch → Switch) : (s.modSwitch i f).hart = s.hart := rfl
@[simp] theorem state_modSwitch_ring (s : State) (i : SwitchId) (f : Switch → Switch) : (s.modSwitch i f).ring = s.ring := rfl
@[simp] theorem state_modSwitch_rings (s : State) (i : SwitchId) (f : Switch → Switch) : (s.modSwitch i f).rings = s.rings := rfl
@[simp] theorem state_modSwitch_cur (s : State) (i : SwitchId) (f : Switch → Switch) : (s.modSwitch i f).cur = s.cur := rfl
@[simp] theorem state_modSwitch_onMgmt (s : State) (i : SwitchId) (f : Switch → Switch) : (s.modSwitch i f).onMgmt = s.onMgmt := rfl
@[simp] theorem state_modSwitch_mgmt (s : State) (i : SwitchId) (f : Switch → Switch) : (s.modSwitch i f).mgmt = s.mgmt := rfl
@[simp] theorem state_modSwitch_mem (s : State) (i : SwitchId) (f : Switch → Switch) : (s.modSwitch i f).mem = s.mem := rfl
@[simp] theorem state_modSwitch_full (s : State) (i : SwitchId) (f : Switch → Switch) : (s.modSwitch i f).full = s.full := rfl
@[simp] theorem state_modSwitch_ctl (s : State) (i : SwitchId) (f : Switch → Switch) : (s.modSwitch i f).ctl = s.ctl := rfl
@[simp] theorem state_modSwitch_lines (s : State) (i : SwitchId) (f : Switch → Switch) : (s.modSwitch i f).lines = s.lines := rfl
@[simp] theorem state_modSwitch_dies (s : State) (i : SwitchId) (f : Switch → Switch) : (s.modSwitch i f).dies = s.dies := rfl
@[simp] theorem state_modSwitch_actors (s : State) (i : SwitchId) (f : Switch → Switch) : (s.modSwitch i f).actors = s.actors := rfl
@[simp] theorem state_modSwitch_module (s : State) (i : SwitchId) (f : Switch → Switch) : (s.modSwitch i f).module = s.module := rfl

@[simp] theorem queuePacket_hart (s : State) (p : Packet) : (queuePacket s p).hart = s.hart := rfl
@[simp] theorem queuePacket_ring (s : State) (p : Packet) : (queuePacket s p).ring = s.ring := rfl
@[simp] theorem queuePacket_rings (s : State) (p : Packet) : (queuePacket s p).rings = s.rings := rfl
@[simp] theorem queuePacket_cur (s : State) (p : Packet) : (queuePacket s p).cur = s.cur := rfl
@[simp] theorem queuePacket_onMgmt (s : State) (p : Packet) : (queuePacket s p).onMgmt = s.onMgmt := rfl
@[simp] theorem queuePacket_mgmt (s : State) (p : Packet) : (queuePacket s p).mgmt = s.mgmt := rfl
@[simp] theorem queuePacket_mem (s : State) (p : Packet) : (queuePacket s p).mem = s.mem := rfl
@[simp] theorem queuePacket_full (s : State) (p : Packet) : (queuePacket s p).full = s.full := rfl
@[simp] theorem queuePacket_ctl (s : State) (p : Packet) : (queuePacket s p).ctl = s.ctl := rfl
@[simp] theorem queuePacket_switches (s : State) (p : Packet) : (queuePacket s p).switches = s.switches := rfl
@[simp] theorem queuePacket_lines (s : State) (p : Packet) : (queuePacket s p).lines = s.lines := rfl
@[simp] theorem queuePacket_dies (s : State) (p : Packet) : (queuePacket s p).dies = s.dies := rfl
@[simp] theorem queuePacket_actors (s : State) (p : Packet) : (queuePacket s p).actors = s.actors := rfl
@[simp] theorem queuePacket_module (s : State) (p : Packet) : (queuePacket s p).module = s.module := rfl

@[simp] theorem leaveWaiters_hart (s : State) : (leaveWaiters s).hart = s.hart := rfl
@[simp] theorem leaveWaiters_ring (s : State) : (leaveWaiters s).ring = s.ring := rfl
@[simp] theorem leaveWaiters_rings (s : State) : (leaveWaiters s).rings = s.rings := rfl
@[simp] theorem leaveWaiters_cur (s : State) : (leaveWaiters s).cur = s.cur := rfl
@[simp] theorem leaveWaiters_onMgmt (s : State) : (leaveWaiters s).onMgmt = s.onMgmt := rfl
@[simp] theorem leaveWaiters_mgmt (s : State) : (leaveWaiters s).mgmt = s.mgmt := rfl
@[simp] theorem leaveWaiters_mem (s : State) : (leaveWaiters s).mem = s.mem := rfl
@[simp] theorem leaveWaiters_full (s : State) : (leaveWaiters s).full = s.full := rfl
@[simp] theorem leaveWaiters_ctl (s : State) : (leaveWaiters s).ctl = s.ctl := rfl
@[simp] theorem leaveWaiters_switches (s : State) : (leaveWaiters s).switches = s.switches := rfl
@[simp] theorem leaveWaiters_lines (s : State) : (leaveWaiters s).lines = s.lines := rfl
@[simp] theorem leaveWaiters_dies (s : State) : (leaveWaiters s).dies = s.dies := rfl
@[simp] theorem leaveWaiters_actors (s : State) : (leaveWaiters s).actors = s.actors := rfl
@[simp] theorem leaveWaiters_module (s : State) : (leaveWaiters s).module = s.module := rfl

@[simp] theorem setFull_hart (s : State) (pa : Nat) (b : Bool) : (setFull s pa b).hart = s.hart := by rw [setFull_frame s pa b]
@[simp] theorem setFull_ring (s : State) (pa : Nat) (b : Bool) : (setFull s pa b).ring = s.ring := by rw [setFull_frame s pa b]
@[simp] theorem setFull_rings (s : State) (pa : Nat) (b : Bool) : (setFull s pa b).rings = s.rings := by rw [setFull_frame s pa b]
@[simp] theorem setFull_cur (s : State) (pa : Nat) (b : Bool) : (setFull s pa b).cur = s.cur := by rw [setFull_frame s pa b]
@[simp] theorem setFull_onMgmt (s : State) (pa : Nat) (b : Bool) : (setFull s pa b).onMgmt = s.onMgmt := by rw [setFull_frame s pa b]
@[simp] theorem setFull_mgmt (s : State) (pa : Nat) (b : Bool) : (setFull s pa b).mgmt = s.mgmt := by rw [setFull_frame s pa b]
@[simp] theorem setFull_mem (s : State) (pa : Nat) (b : Bool) : (setFull s pa b).mem = s.mem := by rw [setFull_frame s pa b]
@[simp] theorem setFull_ctl (s : State) (pa : Nat) (b : Bool) : (setFull s pa b).ctl = s.ctl := by rw [setFull_frame s pa b]
@[simp] theorem setFull_switches (s : State) (pa : Nat) (b : Bool) : (setFull s pa b).switches = s.switches := by rw [setFull_frame s pa b]
@[simp] theorem setFull_lines (s : State) (pa : Nat) (b : Bool) : (setFull s pa b).lines = s.lines := by rw [setFull_frame s pa b]
@[simp] theorem setFull_dies (s : State) (pa : Nat) (b : Bool) : (setFull s pa b).dies = s.dies := by rw [setFull_frame s pa b]
@[simp] theorem setFull_actors (s : State) (pa : Nat) (b : Bool) : (setFull s pa b).actors = s.actors := by rw [setFull_frame s pa b]
@[simp] theorem setFull_module (s : State) (pa : Nat) (b : Bool) : (setFull s pa b).module = s.module := by rw [setFull_frame s pa b]

@[simp] theorem clearSlot_hart (s : State) (b : Nat) : (clearSlot s b).hart = s.hart := rfl
@[simp] theorem clearSlot_ring (s : State) (b : Nat) : (clearSlot s b).ring = s.ring := rfl
@[simp] theorem clearSlot_rings (s : State) (b : Nat) : (clearSlot s b).rings = s.rings := rfl
@[simp] theorem clearSlot_cur (s : State) (b : Nat) : (clearSlot s b).cur = s.cur := rfl
@[simp] theorem clearSlot_onMgmt (s : State) (b : Nat) : (clearSlot s b).onMgmt = s.onMgmt := rfl
@[simp] theorem clearSlot_mgmt (s : State) (b : Nat) : (clearSlot s b).mgmt = s.mgmt := rfl
@[simp] theorem clearSlot_full (s : State) (b : Nat) : (clearSlot s b).full = s.full := rfl
@[simp] theorem clearSlot_ctl (s : State) (b : Nat) : (clearSlot s b).ctl = s.ctl := rfl
@[simp] theorem clearSlot_switches (s : State) (b : Nat) : (clearSlot s b).switches = s.switches := rfl
@[simp] theorem clearSlot_lines (s : State) (b : Nat) : (clearSlot s b).lines = s.lines := rfl
@[simp] theorem clearSlot_dies (s : State) (b : Nat) : (clearSlot s b).dies = s.dies := rfl
@[simp] theorem clearSlot_actors (s : State) (b : Nat) : (clearSlot s b).actors = s.actors := rfl
@[simp] theorem clearSlot_module (s : State) (b : Nat) : (clearSlot s b).module = s.module := rfl

@[simp] theorem addRun_hart (s : State) (j : BitVec 16) (o f : Bool) (i : BitVec 1) (n : BitVec 16) : (addRun s j o f i n).hart = s.hart := rfl
@[simp] theorem addRun_ring (s : State) (j : BitVec 16) (o f : Bool) (i : BitVec 1) (n : BitVec 16) : (addRun s j o f i n).ring = s.ring := rfl
@[simp] theorem addRun_rings (s : State) (j : BitVec 16) (o f : Bool) (i : BitVec 1) (n : BitVec 16) : (addRun s j o f i n).rings = s.rings := rfl
@[simp] theorem addRun_cur (s : State) (j : BitVec 16) (o f : Bool) (i : BitVec 1) (n : BitVec 16) : (addRun s j o f i n).cur = s.cur := rfl
@[simp] theorem addRun_onMgmt (s : State) (j : BitVec 16) (o f : Bool) (i : BitVec 1) (n : BitVec 16) : (addRun s j o f i n).onMgmt = s.onMgmt := rfl
@[simp] theorem addRun_mgmt (s : State) (j : BitVec 16) (o f : Bool) (i : BitVec 1) (n : BitVec 16) : (addRun s j o f i n).mgmt = s.mgmt := rfl
@[simp] theorem addRun_mem (s : State) (j : BitVec 16) (o f : Bool) (i : BitVec 1) (n : BitVec 16) : (addRun s j o f i n).mem = s.mem := rfl
@[simp] theorem addRun_full (s : State) (j : BitVec 16) (o f : Bool) (i : BitVec 1) (n : BitVec 16) : (addRun s j o f i n).full = s.full := rfl
@[simp] theorem addRun_ctl (s : State) (j : BitVec 16) (o f : Bool) (i : BitVec 1) (n : BitVec 16) : (addRun s j o f i n).ctl = s.ctl := rfl
@[simp] theorem addRun_switches (s : State) (j : BitVec 16) (o f : Bool) (i : BitVec 1) (n : BitVec 16) : (addRun s j o f i n).switches = s.switches := rfl
@[simp] theorem addRun_lines (s : State) (j : BitVec 16) (o f : Bool) (i : BitVec 1) (n : BitVec 16) : (addRun s j o f i n).lines = s.lines := rfl
@[simp] theorem addRun_dies (s : State) (j : BitVec 16) (o f : Bool) (i : BitVec 1) (n : BitVec 16) : (addRun s j o f i n).dies = s.dies := rfl
@[simp] theorem addRun_actors (s : State) (j : BitVec 16) (o f : Bool) (i : BitVec 1) (n : BitVec 16) : (addRun s j o f i n).actors = s.actors := rfl
@[simp] theorem addRun_module (s : State) (j : BitVec 16) (o f : Bool) (i : BitVec 1) (n : BitVec 16) : (addRun s j o f i n).module = s.module := rfl

@[simp] theorem askRoot_hart (s : State) (j : BitVec 16) (o : Bool) (i : BitVec 1) (n : BitVec 16) : (askRoot s j o i n).hart = s.hart := rfl
@[simp] theorem askRoot_ring (s : State) (j : BitVec 16) (o : Bool) (i : BitVec 1) (n : BitVec 16) : (askRoot s j o i n).ring = s.ring := rfl
@[simp] theorem askRoot_rings (s : State) (j : BitVec 16) (o : Bool) (i : BitVec 1) (n : BitVec 16) : (askRoot s j o i n).rings = s.rings := rfl
@[simp] theorem askRoot_cur (s : State) (j : BitVec 16) (o : Bool) (i : BitVec 1) (n : BitVec 16) : (askRoot s j o i n).cur = s.cur := rfl
@[simp] theorem askRoot_onMgmt (s : State) (j : BitVec 16) (o : Bool) (i : BitVec 1) (n : BitVec 16) : (askRoot s j o i n).onMgmt = s.onMgmt := rfl
@[simp] theorem askRoot_mgmt (s : State) (j : BitVec 16) (o : Bool) (i : BitVec 1) (n : BitVec 16) : (askRoot s j o i n).mgmt = s.mgmt := rfl
@[simp] theorem askRoot_mem (s : State) (j : BitVec 16) (o : Bool) (i : BitVec 1) (n : BitVec 16) : (askRoot s j o i n).mem = s.mem := rfl
@[simp] theorem askRoot_full (s : State) (j : BitVec 16) (o : Bool) (i : BitVec 1) (n : BitVec 16) : (askRoot s j o i n).full = s.full := rfl
@[simp] theorem askRoot_ctl (s : State) (j : BitVec 16) (o : Bool) (i : BitVec 1) (n : BitVec 16) : (askRoot s j o i n).ctl = s.ctl := rfl
@[simp] theorem askRoot_switches (s : State) (j : BitVec 16) (o : Bool) (i : BitVec 1) (n : BitVec 16) : (askRoot s j o i n).switches = s.switches := rfl
@[simp] theorem askRoot_lines (s : State) (j : BitVec 16) (o : Bool) (i : BitVec 1) (n : BitVec 16) : (askRoot s j o i n).lines = s.lines := rfl
@[simp] theorem askRoot_dies (s : State) (j : BitVec 16) (o : Bool) (i : BitVec 1) (n : BitVec 16) : (askRoot s j o i n).dies = s.dies := rfl
@[simp] theorem askRoot_actors (s : State) (j : BitVec 16) (o : Bool) (i : BitVec 1) (n : BitVec 16) : (askRoot s j o i n).actors = s.actors := rfl
@[simp] theorem askRoot_module (s : State) (j : BitVec 16) (o : Bool) (i : BitVec 1) (n : BitVec 16) : (askRoot s j o i n).module = s.module := rfl

@[simp] theorem setJob_hart (s : State) (j : BitVec 16) (st : JobState) : (setJob s j st).hart = s.hart := rfl
@[simp] theorem setJob_ring (s : State) (j : BitVec 16) (st : JobState) : (setJob s j st).ring = s.ring := rfl
@[simp] theorem setJob_rings (s : State) (j : BitVec 16) (st : JobState) : (setJob s j st).rings = s.rings := rfl
@[simp] theorem setJob_cur (s : State) (j : BitVec 16) (st : JobState) : (setJob s j st).cur = s.cur := rfl
@[simp] theorem setJob_onMgmt (s : State) (j : BitVec 16) (st : JobState) : (setJob s j st).onMgmt = s.onMgmt := rfl
@[simp] theorem setJob_mgmt (s : State) (j : BitVec 16) (st : JobState) : (setJob s j st).mgmt = s.mgmt := rfl
@[simp] theorem setJob_mem (s : State) (j : BitVec 16) (st : JobState) : (setJob s j st).mem = s.mem := rfl
@[simp] theorem setJob_full (s : State) (j : BitVec 16) (st : JobState) : (setJob s j st).full = s.full := rfl
@[simp] theorem setJob_ctl (s : State) (j : BitVec 16) (st : JobState) : (setJob s j st).ctl = s.ctl := rfl
@[simp] theorem setJob_switches (s : State) (j : BitVec 16) (st : JobState) : (setJob s j st).switches = s.switches := rfl
@[simp] theorem setJob_lines (s : State) (j : BitVec 16) (st : JobState) : (setJob s j st).lines = s.lines := rfl
@[simp] theorem setJob_dies (s : State) (j : BitVec 16) (st : JobState) : (setJob s j st).dies = s.dies := rfl
@[simp] theorem setJob_actors (s : State) (j : BitVec 16) (st : JobState) : (setJob s j st).actors = s.actors := rfl
@[simp] theorem setJob_module (s : State) (j : BitVec 16) (st : JobState) : (setJob s j st).module = s.module := rfl

@[simp] theorem tellHost_hart (s : State) (o : HostOut) : (tellHost s o).hart = s.hart := rfl
@[simp] theorem tellHost_ring (s : State) (o : HostOut) : (tellHost s o).ring = s.ring := rfl
@[simp] theorem tellHost_rings (s : State) (o : HostOut) : (tellHost s o).rings = s.rings := rfl
@[simp] theorem tellHost_cur (s : State) (o : HostOut) : (tellHost s o).cur = s.cur := rfl
@[simp] theorem tellHost_onMgmt (s : State) (o : HostOut) : (tellHost s o).onMgmt = s.onMgmt := rfl
@[simp] theorem tellHost_mgmt (s : State) (o : HostOut) : (tellHost s o).mgmt = s.mgmt := rfl
@[simp] theorem tellHost_mem (s : State) (o : HostOut) : (tellHost s o).mem = s.mem := rfl
@[simp] theorem tellHost_full (s : State) (o : HostOut) : (tellHost s o).full = s.full := rfl
@[simp] theorem tellHost_ctl (s : State) (o : HostOut) : (tellHost s o).ctl = s.ctl := rfl
@[simp] theorem tellHost_switches (s : State) (o : HostOut) : (tellHost s o).switches = s.switches := rfl
@[simp] theorem tellHost_lines (s : State) (o : HostOut) : (tellHost s o).lines = s.lines := rfl
@[simp] theorem tellHost_dies (s : State) (o : HostOut) : (tellHost s o).dies = s.dies := rfl
@[simp] theorem tellHost_actors (s : State) (o : HostOut) : (tellHost s o).actors = s.actors := rfl
@[simp] theorem tellHost_module (s : State) (o : HostOut) : (tellHost s o).module = s.module := rfl

@[simp] theorem sendPower_hart (s : State) (m : PowerMsg) : (sendPower s m).hart = s.hart := rfl
@[simp] theorem sendPower_ring (s : State) (m : PowerMsg) : (sendPower s m).ring = s.ring := rfl
@[simp] theorem sendPower_rings (s : State) (m : PowerMsg) : (sendPower s m).rings = s.rings := rfl
@[simp] theorem sendPower_cur (s : State) (m : PowerMsg) : (sendPower s m).cur = s.cur := rfl
@[simp] theorem sendPower_onMgmt (s : State) (m : PowerMsg) : (sendPower s m).onMgmt = s.onMgmt := rfl
@[simp] theorem sendPower_mgmt (s : State) (m : PowerMsg) : (sendPower s m).mgmt = s.mgmt := rfl
@[simp] theorem sendPower_mem (s : State) (m : PowerMsg) : (sendPower s m).mem = s.mem := rfl
@[simp] theorem sendPower_full (s : State) (m : PowerMsg) : (sendPower s m).full = s.full := rfl
@[simp] theorem sendPower_ctl (s : State) (m : PowerMsg) : (sendPower s m).ctl = s.ctl := rfl
@[simp] theorem sendPower_switches (s : State) (m : PowerMsg) : (sendPower s m).switches = s.switches := rfl
@[simp] theorem sendPower_lines (s : State) (m : PowerMsg) : (sendPower s m).lines = s.lines := rfl
@[simp] theorem sendPower_dies (s : State) (m : PowerMsg) : (sendPower s m).dies = s.dies := rfl
@[simp] theorem sendPower_actors (s : State) (m : PowerMsg) : (sendPower s m).actors = s.actors := rfl
@[simp] theorem sendPower_module (s : State) (m : PowerMsg) : (sendPower s m).module = s.module := rfl

@[simp] theorem tookPower_hart (s : State) (m : PowerMsg) : (tookPower s m).hart = s.hart := rfl
@[simp] theorem tookPower_ring (s : State) (m : PowerMsg) : (tookPower s m).ring = s.ring := rfl
@[simp] theorem tookPower_rings (s : State) (m : PowerMsg) : (tookPower s m).rings = s.rings := rfl
@[simp] theorem tookPower_cur (s : State) (m : PowerMsg) : (tookPower s m).cur = s.cur := rfl
@[simp] theorem tookPower_onMgmt (s : State) (m : PowerMsg) : (tookPower s m).onMgmt = s.onMgmt := rfl
@[simp] theorem tookPower_mgmt (s : State) (m : PowerMsg) : (tookPower s m).mgmt = s.mgmt := rfl
@[simp] theorem tookPower_mem (s : State) (m : PowerMsg) : (tookPower s m).mem = s.mem := rfl
@[simp] theorem tookPower_full (s : State) (m : PowerMsg) : (tookPower s m).full = s.full := rfl
@[simp] theorem tookPower_ctl (s : State) (m : PowerMsg) : (tookPower s m).ctl = s.ctl := rfl
@[simp] theorem tookPower_switches (s : State) (m : PowerMsg) : (tookPower s m).switches = s.switches := rfl
@[simp] theorem tookPower_lines (s : State) (m : PowerMsg) : (tookPower s m).lines = s.lines := rfl
@[simp] theorem tookPower_dies (s : State) (m : PowerMsg) : (tookPower s m).dies = s.dies := rfl
@[simp] theorem tookPower_actors (s : State) (m : PowerMsg) : (tookPower s m).actors = s.actors := rfl
@[simp] theorem tookPower_module (s : State) (m : PowerMsg) : (tookPower s m).module = s.module := rfl

@[simp] theorem badPacket_hart (s : State) (a : BitVec 1) : (badPacket s a).hart = s.hart := rfl
@[simp] theorem badPacket_ring (s : State) (a : BitVec 1) : (badPacket s a).ring = s.ring := rfl
@[simp] theorem badPacket_rings (s : State) (a : BitVec 1) : (badPacket s a).rings = s.rings := rfl
@[simp] theorem badPacket_cur (s : State) (a : BitVec 1) : (badPacket s a).cur = s.cur := rfl
@[simp] theorem badPacket_onMgmt (s : State) (a : BitVec 1) : (badPacket s a).onMgmt = s.onMgmt := rfl
@[simp] theorem badPacket_mgmt (s : State) (a : BitVec 1) : (badPacket s a).mgmt = s.mgmt := rfl
@[simp] theorem badPacket_mem (s : State) (a : BitVec 1) : (badPacket s a).mem = s.mem := rfl
@[simp] theorem badPacket_full (s : State) (a : BitVec 1) : (badPacket s a).full = s.full := rfl
@[simp] theorem badPacket_ctl (s : State) (a : BitVec 1) : (badPacket s a).ctl = s.ctl := rfl
@[simp] theorem badPacket_switches (s : State) (a : BitVec 1) : (badPacket s a).switches = s.switches := rfl
@[simp] theorem badPacket_lines (s : State) (a : BitVec 1) : (badPacket s a).lines = s.lines := rfl
@[simp] theorem badPacket_dies (s : State) (a : BitVec 1) : (badPacket s a).dies = s.dies := rfl
@[simp] theorem badPacket_actors (s : State) (a : BitVec 1) : (badPacket s a).actors = s.actors := rfl
@[simp] theorem badPacket_module (s : State) (a : BitVec 1) : (badPacket s a).module = s.module := rfl

@[simp] theorem countDeflect_hart (s : State) (a : BitVec 1) : (countDeflect s a).hart = s.hart := rfl
@[simp] theorem countDeflect_ring (s : State) (a : BitVec 1) : (countDeflect s a).ring = s.ring := rfl
@[simp] theorem countDeflect_rings (s : State) (a : BitVec 1) : (countDeflect s a).rings = s.rings := rfl
@[simp] theorem countDeflect_cur (s : State) (a : BitVec 1) : (countDeflect s a).cur = s.cur := rfl
@[simp] theorem countDeflect_onMgmt (s : State) (a : BitVec 1) : (countDeflect s a).onMgmt = s.onMgmt := rfl
@[simp] theorem countDeflect_mgmt (s : State) (a : BitVec 1) : (countDeflect s a).mgmt = s.mgmt := rfl
@[simp] theorem countDeflect_mem (s : State) (a : BitVec 1) : (countDeflect s a).mem = s.mem := rfl
@[simp] theorem countDeflect_full (s : State) (a : BitVec 1) : (countDeflect s a).full = s.full := rfl
@[simp] theorem countDeflect_ctl (s : State) (a : BitVec 1) : (countDeflect s a).ctl = s.ctl := rfl
@[simp] theorem countDeflect_switches (s : State) (a : BitVec 1) : (countDeflect s a).switches = s.switches := rfl
@[simp] theorem countDeflect_lines (s : State) (a : BitVec 1) : (countDeflect s a).lines = s.lines := rfl
@[simp] theorem countDeflect_dies (s : State) (a : BitVec 1) : (countDeflect s a).dies = s.dies := rfl
@[simp] theorem countDeflect_actors (s : State) (a : BitVec 1) : (countDeflect s a).actors = s.actors := rfl
@[simp] theorem countDeflect_module (s : State) (a : BitVec 1) : (countDeflect s a).module = s.module := rfl

@[simp] theorem putPier_ring (s : State) (c : PierCmd) : (putPier s c).ring = s.ring := rfl
@[simp] theorem putPier_rings (s : State) (c : PierCmd) : (putPier s c).rings = s.rings := rfl
@[simp] theorem putPier_cur (s : State) (c : PierCmd) : (putPier s c).cur = s.cur := rfl
@[simp] theorem putPier_onMgmt (s : State) (c : PierCmd) : (putPier s c).onMgmt = s.onMgmt := rfl
@[simp] theorem putPier_mgmt (s : State) (c : PierCmd) : (putPier s c).mgmt = s.mgmt := rfl
@[simp] theorem putPier_mem (s : State) (c : PierCmd) : (putPier s c).mem = s.mem := rfl
@[simp] theorem putPier_full (s : State) (c : PierCmd) : (putPier s c).full = s.full := rfl
@[simp] theorem putPier_ctl (s : State) (c : PierCmd) : (putPier s c).ctl = s.ctl := rfl
@[simp] theorem putPier_switches (s : State) (c : PierCmd) : (putPier s c).switches = s.switches := rfl
@[simp] theorem putPier_lines (s : State) (c : PierCmd) : (putPier s c).lines = s.lines := rfl
@[simp] theorem putPier_dies (s : State) (c : PierCmd) : (putPier s c).dies = s.dies := rfl
@[simp] theorem putPier_actors (s : State) (c : PierCmd) : (putPier s c).actors = s.actors := rfl
@[simp] theorem putPier_module (s : State) (c : PierCmd) : (putPier s c).module = s.module := rfl

@[simp] theorem moveStage_rings (s : State) : (moveStage s).rings = s.rings := rfl
@[simp] theorem moveStage_cur (s : State) : (moveStage s).cur = s.cur := rfl
@[simp] theorem moveStage_onMgmt (s : State) : (moveStage s).onMgmt = s.onMgmt := rfl
@[simp] theorem moveStage_mgmt (s : State) : (moveStage s).mgmt = s.mgmt := rfl
@[simp] theorem moveStage_mem (s : State) : (moveStage s).mem = s.mem := rfl
@[simp] theorem moveStage_full (s : State) : (moveStage s).full = s.full := rfl
@[simp] theorem moveStage_ctl (s : State) : (moveStage s).ctl = s.ctl := rfl
@[simp] theorem moveStage_switches (s : State) : (moveStage s).switches = s.switches := rfl
@[simp] theorem moveStage_lines (s : State) : (moveStage s).lines = s.lines := rfl
@[simp] theorem moveStage_dies (s : State) : (moveStage s).dies = s.dies := rfl
@[simp] theorem moveStage_actors (s : State) : (moveStage s).actors = s.actors := rfl
@[simp] theorem moveStage_module (s : State) : (moveStage s).module = s.module := rfl

@[simp] theorem strandless_cur (s : State) : (strandless s).cur = s.cur := rfl
@[simp] theorem strandless_onMgmt (s : State) : (strandless s).onMgmt = s.onMgmt := rfl
@[simp] theorem strandless_mgmt (s : State) : (strandless s).mgmt = s.mgmt := rfl
@[simp] theorem strandless_mem (s : State) : (strandless s).mem = s.mem := rfl
@[simp] theorem strandless_full (s : State) : (strandless s).full = s.full := rfl
@[simp] theorem strandless_ctl (s : State) : (strandless s).ctl = s.ctl := rfl
@[simp] theorem strandless_switches (s : State) : (strandless s).switches = s.switches := rfl
@[simp] theorem strandless_lines (s : State) : (strandless s).lines = s.lines := rfl
@[simp] theorem strandless_dies (s : State) : (strandless s).dies = s.dies := rfl
@[simp] theorem strandless_actors (s : State) : (strandless s).actors = s.actors := rfl
@[simp] theorem strandless_module (s : State) : (strandless s).module = s.module := rfl

@[simp] theorem loadMgmt_ring (s : State) (a : BitVec 1) : (loadMgmt s a).ring = s.ring := rfl
@[simp] theorem loadMgmt_rings (s : State) (a : BitVec 1) : (loadMgmt s a).rings = s.rings := rfl
@[simp] theorem loadMgmt_cur (s : State) (a : BitVec 1) : (loadMgmt s a).cur = s.cur := rfl
@[simp] theorem loadMgmt_mgmt (s : State) (a : BitVec 1) : (loadMgmt s a).mgmt = s.mgmt := rfl
@[simp] theorem loadMgmt_mem (s : State) (a : BitVec 1) : (loadMgmt s a).mem = s.mem := rfl
@[simp] theorem loadMgmt_full (s : State) (a : BitVec 1) : (loadMgmt s a).full = s.full := rfl
@[simp] theorem loadMgmt_ctl (s : State) (a : BitVec 1) : (loadMgmt s a).ctl = s.ctl := rfl
@[simp] theorem loadMgmt_switches (s : State) (a : BitVec 1) : (loadMgmt s a).switches = s.switches := rfl
@[simp] theorem loadMgmt_lines (s : State) (a : BitVec 1) : (loadMgmt s a).lines = s.lines := rfl
@[simp] theorem loadMgmt_dies (s : State) (a : BitVec 1) : (loadMgmt s a).dies = s.dies := rfl
@[simp] theorem loadMgmt_actors (s : State) (a : BitVec 1) : (loadMgmt s a).actors = s.actors := rfl
@[simp] theorem loadMgmt_module (s : State) (a : BitVec 1) : (loadMgmt s a).module = s.module := rfl

@[simp] theorem squashFrom_hart (s : State) (b : Bool) (i : Nat) : (squashFrom s b i).hart = s.hart := rfl
@[simp] theorem squashFrom_rings (s : State) (b : Bool) (i : Nat) : (squashFrom s b i).rings = s.rings := rfl
@[simp] theorem squashFrom_cur (s : State) (b : Bool) (i : Nat) : (squashFrom s b i).cur = s.cur := rfl
@[simp] theorem squashFrom_onMgmt (s : State) (b : Bool) (i : Nat) : (squashFrom s b i).onMgmt = s.onMgmt := rfl
@[simp] theorem squashFrom_mgmt (s : State) (b : Bool) (i : Nat) : (squashFrom s b i).mgmt = s.mgmt := rfl
@[simp] theorem squashFrom_mem (s : State) (b : Bool) (i : Nat) : (squashFrom s b i).mem = s.mem := rfl
@[simp] theorem squashFrom_full (s : State) (b : Bool) (i : Nat) : (squashFrom s b i).full = s.full := rfl
@[simp] theorem squashFrom_ctl (s : State) (b : Bool) (i : Nat) : (squashFrom s b i).ctl = s.ctl := rfl
@[simp] theorem squashFrom_switches (s : State) (b : Bool) (i : Nat) : (squashFrom s b i).switches = s.switches := rfl
@[simp] theorem squashFrom_lines (s : State) (b : Bool) (i : Nat) : (squashFrom s b i).lines = s.lines := rfl
@[simp] theorem squashFrom_dies (s : State) (b : Bool) (i : Nat) : (squashFrom s b i).dies = s.dies := rfl
@[simp] theorem squashFrom_actors (s : State) (b : Bool) (i : Nat) : (squashFrom s b i).actors = s.actors := rfl
@[simp] theorem squashFrom_module (s : State) (b : Bool) (i : Nat) : (squashFrom s b i).module = s.module := rfl

@[simp] theorem tick_hart (s : State) : (tick s).hart = s.hart := rfl
@[simp] theorem tick_ring (s : State) : (tick s).ring = s.ring := rfl
@[simp] theorem tick_rings (s : State) : (tick s).rings = s.rings := rfl
@[simp] theorem tick_cur (s : State) : (tick s).cur = s.cur := rfl
@[simp] theorem tick_onMgmt (s : State) : (tick s).onMgmt = s.onMgmt := rfl
@[simp] theorem tick_mem (s : State) : (tick s).mem = s.mem := rfl
@[simp] theorem tick_full (s : State) : (tick s).full = s.full := rfl
@[simp] theorem tick_ctl (s : State) : (tick s).ctl = s.ctl := rfl
@[simp] theorem tick_switches (s : State) : (tick s).switches = s.switches := rfl
@[simp] theorem tick_lines (s : State) : (tick s).lines = s.lines := rfl
@[simp] theorem tick_actors (s : State) : (tick s).actors = s.actors := rfl
@[simp] theorem tick_module (s : State) : (tick s).module = s.module := rfl

@[simp] theorem hart_setVr_sc (h : Hart) (n : BitVec 6) (x : VReg) : (h.setVr n x).sc = h.sc := rfl
@[simp] theorem hart_setVr_level (h : Hart) (n : BitVec 6) (x : VReg) : (h.setVr n x).level = h.level := rfl
@[simp] theorem hart_setVr_vstart (h : Hart) (n : BitVec 6) (x : VReg) : (h.setVr n x).vstart = h.vstart := rfl
@[simp] theorem hart_setVr_k (h : Hart) (n : BitVec 6) (x : VReg) : (h.setVr n x).k = h.k := rfl
@[simp] theorem hart_setVr_z (h : Hart) (n : BitVec 6) (x : VReg) : (h.setVr n x).z = h.z := rfl
@[simp] theorem hart_setVr_queue (h : Hart) (n : BitVec 6) (x : VReg) : (h.setVr n x).queue = h.queue := rfl
@[simp] theorem hart_setVr_convoy (h : Hart) (n : BitVec 6) (x : VReg) : (h.setVr n x).convoy = h.convoy := rfl
@[simp] theorem hart_setVr_pfx (h : Hart) (n : BitVec 6) (x : VReg) : (h.setVr n x).pfx = h.pfx := rfl
@[simp] theorem hart_setVr_park (h : Hart) (n : BitVec 6) (x : VReg) : (h.setVr n x).park = h.park := rfl
@[simp] theorem hart_setVr_slots (h : Hart) (n : BitVec 6) (x : VReg) : (h.setVr n x).slots = h.slots := rfl
@[simp] theorem hart_setVr_cq (h : Hart) (n : BitVec 6) (x : VReg) : (h.setVr n x).cq = h.cq := rfl
@[simp] theorem hart_setVr_held (h : Hart) (n : BitVec 6) (x : VReg) : (h.setVr n x).held = h.held := rfl
@[simp] theorem hart_setVr_written (h : Hart) (n : BitVec 6) (x : VReg) : (h.setVr n x).written = h.written := rfl
@[simp] theorem hart_setVr_slot (h : Hart) (n : BitVec 6) (x : VReg) : (h.setVr n x).slot = h.slot := rfl
@[simp] theorem hart_setVr_state (h : Hart) (n : BitVec 6) (x : VReg) : (h.setVr n x).state = h.state := rfl

@[simp] theorem hart_setAcc_sc (h : Hart) (a : BitVec 2) (x : Acc) : (h.setAcc a x).sc = h.sc := rfl
@[simp] theorem hart_setAcc_level (h : Hart) (a : BitVec 2) (x : Acc) : (h.setAcc a x).level = h.level := rfl
@[simp] theorem hart_setAcc_vstart (h : Hart) (a : BitVec 2) (x : Acc) : (h.setAcc a x).vstart = h.vstart := rfl
@[simp] theorem hart_setAcc_v (h : Hart) (a : BitVec 2) (x : Acc) : (h.setAcc a x).v = h.v := rfl
@[simp] theorem hart_setAcc_k (h : Hart) (a : BitVec 2) (x : Acc) : (h.setAcc a x).k = h.k := rfl
@[simp] theorem hart_setAcc_queue (h : Hart) (a : BitVec 2) (x : Acc) : (h.setAcc a x).queue = h.queue := rfl
@[simp] theorem hart_setAcc_convoy (h : Hart) (a : BitVec 2) (x : Acc) : (h.setAcc a x).convoy = h.convoy := rfl
@[simp] theorem hart_setAcc_pfx (h : Hart) (a : BitVec 2) (x : Acc) : (h.setAcc a x).pfx = h.pfx := rfl
@[simp] theorem hart_setAcc_park (h : Hart) (a : BitVec 2) (x : Acc) : (h.setAcc a x).park = h.park := rfl
@[simp] theorem hart_setAcc_slots (h : Hart) (a : BitVec 2) (x : Acc) : (h.setAcc a x).slots = h.slots := rfl
@[simp] theorem hart_setAcc_cq (h : Hart) (a : BitVec 2) (x : Acc) : (h.setAcc a x).cq = h.cq := rfl
@[simp] theorem hart_setAcc_held (h : Hart) (a : BitVec 2) (x : Acc) : (h.setAcc a x).held = h.held := rfl
@[simp] theorem hart_setAcc_written (h : Hart) (a : BitVec 2) (x : Acc) : (h.setAcc a x).written = h.written := rfl
@[simp] theorem hart_setAcc_slot (h : Hart) (a : BitVec 2) (x : Acc) : (h.setAcc a x).slot = h.slot := rfl
@[simp] theorem hart_setAcc_state (h : Hart) (a : BitVec 2) (x : Acc) : (h.setAcc a x).state = h.state := rfl

@[simp] theorem hart_modSlot_sc (h : Hart) (j : BitVec 3) (f : StreamSlot → StreamSlot) : (h.modSlot j f).sc = h.sc := rfl
@[simp] theorem hart_modSlot_level (h : Hart) (j : BitVec 3) (f : StreamSlot → StreamSlot) : (h.modSlot j f).level = h.level := rfl
@[simp] theorem hart_modSlot_vstart (h : Hart) (j : BitVec 3) (f : StreamSlot → StreamSlot) : (h.modSlot j f).vstart = h.vstart := rfl
@[simp] theorem hart_modSlot_v (h : Hart) (j : BitVec 3) (f : StreamSlot → StreamSlot) : (h.modSlot j f).v = h.v := rfl
@[simp] theorem hart_modSlot_k (h : Hart) (j : BitVec 3) (f : StreamSlot → StreamSlot) : (h.modSlot j f).k = h.k := rfl
@[simp] theorem hart_modSlot_z (h : Hart) (j : BitVec 3) (f : StreamSlot → StreamSlot) : (h.modSlot j f).z = h.z := rfl
@[simp] theorem hart_modSlot_queue (h : Hart) (j : BitVec 3) (f : StreamSlot → StreamSlot) : (h.modSlot j f).queue = h.queue := rfl
@[simp] theorem hart_modSlot_convoy (h : Hart) (j : BitVec 3) (f : StreamSlot → StreamSlot) : (h.modSlot j f).convoy = h.convoy := rfl
@[simp] theorem hart_modSlot_pfx (h : Hart) (j : BitVec 3) (f : StreamSlot → StreamSlot) : (h.modSlot j f).pfx = h.pfx := rfl
@[simp] theorem hart_modSlot_park (h : Hart) (j : BitVec 3) (f : StreamSlot → StreamSlot) : (h.modSlot j f).park = h.park := rfl
@[simp] theorem hart_modSlot_cq (h : Hart) (j : BitVec 3) (f : StreamSlot → StreamSlot) : (h.modSlot j f).cq = h.cq := rfl
@[simp] theorem hart_modSlot_held (h : Hart) (j : BitVec 3) (f : StreamSlot → StreamSlot) : (h.modSlot j f).held = h.held := rfl
@[simp] theorem hart_modSlot_written (h : Hart) (j : BitVec 3) (f : StreamSlot → StreamSlot) : (h.modSlot j f).written = h.written := rfl
@[simp] theorem hart_modSlot_slot (h : Hart) (j : BitVec 3) (f : StreamSlot → StreamSlot) : (h.modSlot j f).slot = h.slot := rfl
@[simp] theorem hart_modSlot_state (h : Hart) (j : BitVec 3) (f : StreamSlot → StreamSlot) : (h.modSlot j f).state = h.state := rfl

@[simp] theorem hart_post_sc (h : Hart) (r : BitVec 128) : (h.post r).sc = h.sc := rfl
@[simp] theorem hart_post_level (h : Hart) (r : BitVec 128) : (h.post r).level = h.level := rfl
@[simp] theorem hart_post_vstart (h : Hart) (r : BitVec 128) : (h.post r).vstart = h.vstart := rfl
@[simp] theorem hart_post_v (h : Hart) (r : BitVec 128) : (h.post r).v = h.v := rfl
@[simp] theorem hart_post_k (h : Hart) (r : BitVec 128) : (h.post r).k = h.k := rfl
@[simp] theorem hart_post_z (h : Hart) (r : BitVec 128) : (h.post r).z = h.z := rfl
@[simp] theorem hart_post_queue (h : Hart) (r : BitVec 128) : (h.post r).queue = h.queue := rfl
@[simp] theorem hart_post_convoy (h : Hart) (r : BitVec 128) : (h.post r).convoy = h.convoy := rfl
@[simp] theorem hart_post_pfx (h : Hart) (r : BitVec 128) : (h.post r).pfx = h.pfx := rfl
@[simp] theorem hart_post_park (h : Hart) (r : BitVec 128) : (h.post r).park = h.park := rfl
@[simp] theorem hart_post_slots (h : Hart) (r : BitVec 128) : (h.post r).slots = h.slots := rfl
@[simp] theorem hart_post_held (h : Hart) (r : BitVec 128) : (h.post r).held = h.held := rfl
@[simp] theorem hart_post_written (h : Hart) (r : BitVec 128) : (h.post r).written = h.written := rfl
@[simp] theorem hart_post_slot (h : Hart) (r : BitVec 128) : (h.post r).slot = h.slot := rfl
@[simp] theorem hart_post_state (h : Hart) (r : BitVec 128) : (h.post r).state = h.state := rfl

@[simp] theorem hart_popQueue_sc (h : Hart) : h.popQueue.sc = h.sc := rfl
@[simp] theorem hart_popQueue_level (h : Hart) : h.popQueue.level = h.level := rfl
@[simp] theorem hart_popQueue_vstart (h : Hart) : h.popQueue.vstart = h.vstart := rfl
@[simp] theorem hart_popQueue_v (h : Hart) : h.popQueue.v = h.v := rfl
@[simp] theorem hart_popQueue_k (h : Hart) : h.popQueue.k = h.k := rfl
@[simp] theorem hart_popQueue_z (h : Hart) : h.popQueue.z = h.z := rfl
@[simp] theorem hart_popQueue_convoy (h : Hart) : h.popQueue.convoy = h.convoy := rfl
@[simp] theorem hart_popQueue_pfx (h : Hart) : h.popQueue.pfx = h.pfx := rfl
@[simp] theorem hart_popQueue_park (h : Hart) : h.popQueue.park = h.park := rfl
@[simp] theorem hart_popQueue_slots (h : Hart) : h.popQueue.slots = h.slots := rfl
@[simp] theorem hart_popQueue_cq (h : Hart) : h.popQueue.cq = h.cq := rfl
@[simp] theorem hart_popQueue_held (h : Hart) : h.popQueue.held = h.held := rfl
@[simp] theorem hart_popQueue_written (h : Hart) : h.popQueue.written = h.written := rfl
@[simp] theorem hart_popQueue_slot (h : Hart) : h.popQueue.slot = h.slot := rfl
@[simp] theorem hart_popQueue_state (h : Hart) : h.popQueue.state = h.state := rfl

@[simp] theorem hart_refetch_sc (h : Hart) : h.refetch.sc = h.sc := rfl
@[simp] theorem hart_refetch_level (h : Hart) : h.refetch.level = h.level := rfl
@[simp] theorem hart_refetch_vstart (h : Hart) : h.refetch.vstart = h.vstart := rfl
@[simp] theorem hart_refetch_v (h : Hart) : h.refetch.v = h.v := rfl
@[simp] theorem hart_refetch_k (h : Hart) : h.refetch.k = h.k := rfl
@[simp] theorem hart_refetch_z (h : Hart) : h.refetch.z = h.z := rfl
@[simp] theorem hart_refetch_queue (h : Hart) : h.refetch.queue = h.queue := rfl
@[simp] theorem hart_refetch_convoy (h : Hart) : h.refetch.convoy = h.convoy := rfl
@[simp] theorem hart_refetch_pfx (h : Hart) : h.refetch.pfx = h.pfx := rfl
@[simp] theorem hart_refetch_park (h : Hart) : h.refetch.park = h.park := rfl
@[simp] theorem hart_refetch_cq (h : Hart) : h.refetch.cq = h.cq := rfl
@[simp] theorem hart_refetch_held (h : Hart) : h.refetch.held = h.held := rfl
@[simp] theorem hart_refetch_written (h : Hart) : h.refetch.written = h.written := rfl
@[simp] theorem hart_refetch_slot (h : Hart) : h.refetch.slot = h.slot := rfl
@[simp] theorem hart_refetch_state (h : Hart) : h.refetch.state = h.state := rfl

@[simp] theorem hart_recount_level (h : Hart) (n : BitVec 2) (m : Nat) : (h.recount n m).level = h.level := rfl
@[simp] theorem hart_recount_vstart (h : Hart) (n : BitVec 2) (m : Nat) : (h.recount n m).vstart = h.vstart := rfl
@[simp] theorem hart_recount_z (h : Hart) (n : BitVec 2) (m : Nat) : (h.recount n m).z = h.z := rfl
@[simp] theorem hart_recount_queue (h : Hart) (n : BitVec 2) (m : Nat) : (h.recount n m).queue = h.queue := rfl
@[simp] theorem hart_recount_convoy (h : Hart) (n : BitVec 2) (m : Nat) : (h.recount n m).convoy = h.convoy := rfl
@[simp] theorem hart_recount_pfx (h : Hart) (n : BitVec 2) (m : Nat) : (h.recount n m).pfx = h.pfx := rfl
@[simp] theorem hart_recount_park (h : Hart) (n : BitVec 2) (m : Nat) : (h.recount n m).park = h.park := rfl
@[simp] theorem hart_recount_slots (h : Hart) (n : BitVec 2) (m : Nat) : (h.recount n m).slots = h.slots := rfl
@[simp] theorem hart_recount_cq (h : Hart) (n : BitVec 2) (m : Nat) : (h.recount n m).cq = h.cq := rfl
@[simp] theorem hart_recount_held (h : Hart) (n : BitVec 2) (m : Nat) : (h.recount n m).held = h.held := rfl
@[simp] theorem hart_recount_written (h : Hart) (n : BitVec 2) (m : Nat) : (h.recount n m).written = h.written := rfl
@[simp] theorem hart_recount_slot (h : Hart) (n : BitVec 2) (m : Nat) : (h.recount n m).slot = h.slot := rfl
@[simp] theorem hart_recount_state (h : Hart) (n : BitVec 2) (m : Nat) : (h.recount n m).state = h.state := rfl

@[simp] theorem hart_rewidth_sc (h : Hart) (o n : Nat) : (h.rewidth o n).sc = h.sc := rfl
@[simp] theorem hart_rewidth_level (h : Hart) (o n : Nat) : (h.rewidth o n).level = h.level := rfl
@[simp] theorem hart_rewidth_vstart (h : Hart) (o n : Nat) : (h.rewidth o n).vstart = h.vstart := rfl
@[simp] theorem hart_rewidth_k (h : Hart) (o n : Nat) : (h.rewidth o n).k = h.k := rfl
@[simp] theorem hart_rewidth_z (h : Hart) (o n : Nat) : (h.rewidth o n).z = h.z := rfl
@[simp] theorem hart_rewidth_queue (h : Hart) (o n : Nat) : (h.rewidth o n).queue = h.queue := rfl
@[simp] theorem hart_rewidth_convoy (h : Hart) (o n : Nat) : (h.rewidth o n).convoy = h.convoy := rfl
@[simp] theorem hart_rewidth_pfx (h : Hart) (o n : Nat) : (h.rewidth o n).pfx = h.pfx := rfl
@[simp] theorem hart_rewidth_park (h : Hart) (o n : Nat) : (h.rewidth o n).park = h.park := rfl
@[simp] theorem hart_rewidth_slots (h : Hart) (o n : Nat) : (h.rewidth o n).slots = h.slots := rfl
@[simp] theorem hart_rewidth_cq (h : Hart) (o n : Nat) : (h.rewidth o n).cq = h.cq := rfl
@[simp] theorem hart_rewidth_held (h : Hart) (o n : Nat) : (h.rewidth o n).held = h.held := rfl
@[simp] theorem hart_rewidth_written (h : Hart) (o n : Nat) : (h.rewidth o n).written = h.written := rfl
@[simp] theorem hart_rewidth_slot (h : Hart) (o n : Nat) : (h.rewidth o n).slot = h.slot := rfl
@[simp] theorem hart_rewidth_state (h : Hart) (o n : Nat) : (h.rewidth o n).state = h.state := rfl

@[simp] theorem hart_vuFlags_level (h : Hart) (f : Flags) : (h.vuFlags f).level = h.level := rfl
@[simp] theorem hart_vuFlags_vstart (h : Hart) (f : Flags) : (h.vuFlags f).vstart = h.vstart := rfl
@[simp] theorem hart_vuFlags_v (h : Hart) (f : Flags) : (h.vuFlags f).v = h.v := rfl
@[simp] theorem hart_vuFlags_k (h : Hart) (f : Flags) : (h.vuFlags f).k = h.k := rfl
@[simp] theorem hart_vuFlags_z (h : Hart) (f : Flags) : (h.vuFlags f).z = h.z := rfl
@[simp] theorem hart_vuFlags_convoy (h : Hart) (f : Flags) : (h.vuFlags f).convoy = h.convoy := rfl
@[simp] theorem hart_vuFlags_pfx (h : Hart) (f : Flags) : (h.vuFlags f).pfx = h.pfx := rfl
@[simp] theorem hart_vuFlags_park (h : Hart) (f : Flags) : (h.vuFlags f).park = h.park := rfl
@[simp] theorem hart_vuFlags_slots (h : Hart) (f : Flags) : (h.vuFlags f).slots = h.slots := rfl
@[simp] theorem hart_vuFlags_cq (h : Hart) (f : Flags) : (h.vuFlags f).cq = h.cq := rfl
@[simp] theorem hart_vuFlags_held (h : Hart) (f : Flags) : (h.vuFlags f).held = h.held := rfl
@[simp] theorem hart_vuFlags_written (h : Hart) (f : Flags) : (h.vuFlags f).written = h.written := rfl
@[simp] theorem hart_vuFlags_slot (h : Hart) (f : Flags) : (h.vuFlags f).slot = h.slot := rfl
@[simp] theorem hart_vuFlags_state (h : Hart) (f : Flags) : (h.vuFlags f).state = h.state := rfl

@[simp] theorem hart_vuPut_level (h : Hart) (d : BitVec 5) (x : Word) : (h.vuPut d x).level = h.level := rfl
@[simp] theorem hart_vuPut_vstart (h : Hart) (d : BitVec 5) (x : Word) : (h.vuPut d x).vstart = h.vstart := rfl
@[simp] theorem hart_vuPut_v (h : Hart) (d : BitVec 5) (x : Word) : (h.vuPut d x).v = h.v := rfl
@[simp] theorem hart_vuPut_k (h : Hart) (d : BitVec 5) (x : Word) : (h.vuPut d x).k = h.k := rfl
@[simp] theorem hart_vuPut_z (h : Hart) (d : BitVec 5) (x : Word) : (h.vuPut d x).z = h.z := rfl
@[simp] theorem hart_vuPut_convoy (h : Hart) (d : BitVec 5) (x : Word) : (h.vuPut d x).convoy = h.convoy := rfl
@[simp] theorem hart_vuPut_pfx (h : Hart) (d : BitVec 5) (x : Word) : (h.vuPut d x).pfx = h.pfx := rfl
@[simp] theorem hart_vuPut_park (h : Hart) (d : BitVec 5) (x : Word) : (h.vuPut d x).park = h.park := rfl
@[simp] theorem hart_vuPut_slots (h : Hart) (d : BitVec 5) (x : Word) : (h.vuPut d x).slots = h.slots := rfl
@[simp] theorem hart_vuPut_cq (h : Hart) (d : BitVec 5) (x : Word) : (h.vuPut d x).cq = h.cq := rfl
@[simp] theorem hart_vuPut_held (h : Hart) (d : BitVec 5) (x : Word) : (h.vuPut d x).held = h.held := rfl
@[simp] theorem hart_vuPut_written (h : Hart) (d : BitVec 5) (x : Word) : (h.vuPut d x).written = h.written := rfl
@[simp] theorem hart_vuPut_slot (h : Hart) (d : BitVec 5) (x : Word) : (h.vuPut d x).slot = h.slot := rfl
@[simp] theorem hart_vuPut_state (h : Hart) (d : BitVec 5) (x : Word) : (h.vuPut d x).state = h.state := rfl

@[simp] theorem ring_latch_state (r : Ring) (b : BitVec 1) (c : BitVec 16) : (r.latch b c).state = r.state := rfl
@[simp] theorem ring_latch_halted (r : Ring) (b : BitVec 1) (c : BitVec 16) : (r.latch b c).halted = r.halted := rfl
@[simp] theorem ring_latch_epc (r : Ring) (b : BitVec 1) (c : BitVec 16) : (r.latch b c).epc = r.epc := rfl
@[simp] theorem ring_latch_ecause (r : Ring) (b : BitVec 1) (c : BitVec 16) : (r.latch b c).ecause = r.ecause := rfl
@[simp] theorem ring_latch_eval (r : Ring) (b : BitVec 1) (c : BitVec 16) : (r.latch b c).eval = r.eval := rfl
@[simp] theorem ring_latch_ie (r : Ring) (b : BitVec 1) (c : BitVec 16) : (r.latch b c).ie = r.ie := rfl
@[simp] theorem ring_latch_evec (r : Ring) (b : BitVec 1) (c : BitVec 16) : (r.latch b c).evec = r.evec := rfl
@[simp] theorem ring_latch_ptbase (r : Ring) (b : BitVec 1) (c : BitVec 16) : (r.latch b c).ptbase = r.ptbase := rfl
@[simp] theorem ring_latch_jid (r : Ring) (b : BitVec 1) (c : BitVec 16) : (r.latch b c).jid = r.jid := rfl
@[simp] theorem ring_latch_chunks (r : Ring) (b : BitVec 1) (c : BitVec 16) : (r.latch b c).chunks = r.chunks := rfl
@[simp] theorem ring_latch_active (r : Ring) (b : BitVec 1) (c : BitVec 16) : (r.latch b c).active = r.active := rfl
@[simp] theorem ring_latch_region (r : Ring) (b : BitVec 1) (c : BitVec 16) : (r.latch b c).region = r.region := rfl
@[simp] theorem ring_latch_outbound (r : Ring) (b : BitVec 1) (c : BitVec 16) : (r.latch b c).outbound = r.outbound := rfl
@[simp] theorem ring_latch_resident (r : Ring) (b : BitVec 1) (c : BitVec 16) : (r.latch b c).resident = r.resident := rfl
@[simp] theorem ring_latch_gang (r : Ring) (b : BitVec 1) (c : BitVec 16) : (r.latch b c).gang = r.gang := rfl

@[simp] theorem ring_applyShape_state (r : Ring) : r.applyShape.state = r.state := rfl
@[simp] theorem ring_applyShape_halted (r : Ring) : r.applyShape.halted = r.halted := rfl
@[simp] theorem ring_applyShape_epc (r : Ring) : r.applyShape.epc = r.epc := rfl
@[simp] theorem ring_applyShape_ecause (r : Ring) : r.applyShape.ecause = r.ecause := rfl
@[simp] theorem ring_applyShape_eval (r : Ring) : r.applyShape.eval = r.eval := rfl
@[simp] theorem ring_applyShape_ie (r : Ring) : r.applyShape.ie = r.ie := rfl
@[simp] theorem ring_applyShape_evec (r : Ring) : r.applyShape.evec = r.evec := rfl
@[simp] theorem ring_applyShape_ptbase (r : Ring) : r.applyShape.ptbase = r.ptbase := rfl
@[simp] theorem ring_applyShape_jid (r : Ring) : r.applyShape.jid = r.jid := rfl
@[simp] theorem ring_applyShape_chunks (r : Ring) : r.applyShape.chunks = r.chunks := rfl
@[simp] theorem ring_applyShape_active (r : Ring) : r.applyShape.active = r.active := rfl
@[simp] theorem ring_applyShape_region (r : Ring) : r.applyShape.region = r.region := rfl
@[simp] theorem ring_applyShape_outbound (r : Ring) : r.applyShape.outbound = r.outbound := rfl
@[simp] theorem ring_applyShape_resident (r : Ring) : r.applyShape.resident = r.resident := rfl

@[simp] theorem scal_setFcsr_x (c : Scal) (v : Word) : (c.setFcsr v).x = c.x := rfl
@[simp] theorem scal_setFcsr_pc (c : Scal) (v : Word) : (c.setFcsr v).pc = c.pc := rfl
@[simp] theorem scal_setFcsr_vl (c : Scal) (v : Word) : (c.setFcsr v).vl = c.vl := rfl
@[simp] theorem scal_setFcsr_sew (c : Scal) (v : Word) : (c.setFcsr v).sew = c.sew := rfl
@[simp] theorem scal_setFcsr_nreg (c : Scal) (v : Word) : (c.setFcsr v).nreg = c.nreg := rfl

end Sys2Proof.Laws.Updates
end

