-- ==== Sys2Proof/Laws/Step.lean ====
section
/-! SUPPORT. The step at which an instruction is executed. -/

namespace Sys2Proof.Laws.Step

open Sys2Proof.Machine Sys2Proof.Safety

/-- Where nothing waits in a buffer or on the firmware, nothing is done before the executing agent moves. -/
theorem settle_quiet {s : State} (h : undisturbed s) : settle s = s := by
  obtain ⟨-, -, hq, h0, h1, hp, hr, hl⟩ := h
  have hf : settleFirmware s = s := by
    unfold settleFirmware
    rw [h0, h1, hp]
    simp [hr, hl]
  simp [settle, hf, hq]

/-- With nothing on the agenda and nothing waiting, a step is a move of the chosen agent, and time passes. -/
theorem step_running {s : State} (h : undisturbed s) : step s = mapNext tick (move (chooseAgent s)) := by
  simp [step, stepModule, h.1, runModule, h.2.1, settle_quiet h]

/-- The executing ring, by its number. -/
theorem ringAt_cur (s : State) : s.ringAt s.cur = s.ring := by simp [State.ringAt]

/-- A ring that is not stepped notes nothing. -/
theorem noteStep_off {s t : State} (h : s.ring.stepping = false) : noteStep s t = t := by simp [noteStep, h]
/-- A change that changes nothing. -/
theorem mapNext_id {f : State → State} (hf : ∀ t, f t = t) (o : Out) : mapNext f o = o := by cases o <;> simp [mapNext, hf]

/-- A step at which the keystone executes. -/
theorem step_keystone {s : State} (h : executesKeystone s) : step s = mapNext tick (runNext s) := by
  obtain ⟨hu, hm, ha, hc, hr, hh, hab, hq, hst, hsd, hs, hp, haw, hev, hl⟩ := h
  have hc' : s.ring.chunks.isEmpty = false := by cases hx : s.ring.chunks <;> simp_all
  have hready : ringReady s s.cur = true := by simp [ringReady, ringAt_cur, hh, hab, hr, hc']
  have hgo : goesOn s = true := by simp [goesOn, hm, ha, hp, hready]
  have hstrand : moveStrand s = runNext s := by
    have he : settleEngines s = s := by rcases hl with h | h <;> simp [settleEngines, h]
    have h1 : (s.ring.active == 0 && asyncEnabled s && (asyncDue s).isSome) = false := by rcases hev with h | h <;> simp [h]
    have hi : runInstr s = runNext s := mapNext_id (fun t => noteStep_off hst) _
    simp only [moveStrand, hsd, haw, he, h1]
    rcases hl with h | h
    · by_cases hq : s.hart.queue = [] <;> simp [h, hst, hi, hq]
    · simp [h.1, hi]
  rw [step_running hu]
  simp only [chooseAgent, hgo, if_true]
  simp [move, hm, moveRing, hh, hab, hq, hr, hc', moveHart, hs, hstrand]

/-- A step at which a management core executes. -/
theorem step_mgmt {s : State} {c : BitVec 1} (h : executesMgmt s c) : step s = mapNext tick (runNext s) := by
  obtain ⟨hu, hm, hs, hp, he⟩ := h
  have hgo : goesOn s = true := by simp [goesOn, hm, hs, hp]
  rw [step_running hu]
  simp only [chooseAgent, hgo, if_true, move, hm, moveMgmt, hs]
  rcases he with h | h | h <;> simp [h]

/-- A step at which an instruction is executed runs the next word, and time passes. -/
theorem step_executes {s : State} (h : executes s) : step s = mapNext tick (runNext s) := by
  rcases h with h | ⟨c, h⟩
  · exact step_keystone h
  · exact step_mgmt h

end Sys2Proof.Laws.Step
end

