-- ==== Sys2Proof/Tests/Slice0.lean ====
section
/-! SUPPORT. Tests: ill-formed terms that WellFormed refuses, words that decode as the spec's encodings say, single steps with results taken from
the spec, and for each obligation with hypotheses a state and operands that meet them. -/

namespace Sys2Proof.Tests

open Sys2Proof Sys2Proof.Machine Sys2Proof.Safety

set_option maxRecDepth 20000
set_option Elab.async false

/-! ### Small states -/

/-- A module that runs a strand of job 1 at U on ring 0, its pc at 0x1000, over an identity map of the first GiB. -/
def base : State := placeWord State.reset 0

/-- The executing strand changed. -/
def onHart (f : Hart → Hart) (s : State) : State := { s with hart := f s.hart }

/-- The executing ring changed. -/
def onRing (f : Ring → Ring) (s : State) : State := { s with ring := f s.ring }

/-- Scalar registers set. -/
def withX (l : List (BitVec 5 × Word)) (s : State) : State :=
  onHart (fun h => { h with sc := l.foldl (fun c p => c.put p.1 p.2) h.sc }) s

/-- A register that is set holds no error. -/
theorem puts_bad (l : List (BitVec 5 × Word)) : ∀ c : Scal, c.bad = 0 → (l.foldl (fun c p => c.put p.1 p.2) c).bad = 0 := by
  induction l with
  | nil => exact fun _ h => h
  | cons p t ih =>
    intro c h
    apply ih
    show (c.put p.1 p.2).bad = 0
    unfold Scal.put
    split
    · exact h
    · simp [h]

theorem withX_bad (l : List (BitVec 5 × Word)) (s : State) (h : s.hart.sc.bad = 0) : (withX l s).hart.sc.bad = 0 := puts_bad l _ h

/-- The strand at S. -/
def atS (s : State) : State := onHart (fun h => { h with level := .s }) s

/-- The strand's element width, VL and VLMAX set as vsetvli sets them. -/
def withV (sew : BitVec 4) (vl : BitVec 16) (s : State) : State :=
  onHart (fun h => { h with sc := { h.sc with sew := sew, vl := vl, vlmax := 2048 } }) s

/-- The same strand as the oldest chunk of a ring with a younger chunk behind it. -/
def asChunk (s : State) : State :=
  let h := { s.hart with held := true }
  { s with hart := h, ring := { s.ring with chunks := [h, { h with slot := 1, seq := 1, chunk := 1 }] } }

/-- The same strand as the younger of two chunks. -/
def asYounger (s : State) : State :=
  let h := { s.hart with held := true }
  let y := { h with slot := 1, seq := 1, chunk := 1 }
  { s with hart := y, ring := { s.ring with chunks := [h, y], active := 1 } }

/-- Management core 0, executing. -/
def onM : State := loadMgmt (putBack { State.reset with mode := .running }) 0

/-- The base of the strand's own local store window (R277). -/
def window : Word := 0x00FFFF0000000000

/-- The physical address of an offset in the local store of core 0 of ring 0 (R270). -/
def own (off : Nat) : Nat := 2 ^ 41 + off

/-- A register of the next state. -/
def reg (r : BitVec 5) (o : Host.Outcome State Fault Refusal) : Word :=
  match o with
  | .next t => t.hart.sc.get r
  | _ => 0xDEAD

/-- Something of the next state. -/
def after {α : Type} (d : α) (f : State → α) (o : Host.Outcome State Fault Refusal) : α :=
  match o with
  | .next t => f t
  | _ => d


/-! ### Ill-formed terms, which WellFormed refuses and no word encodes (spec/04 R83) -/

theorem test_illformed_round : (Instr.fadd 3 5 7 1 3).wellFormed = false ∧ (Instr.fmadd 3 5 7 9 1 1).wellFormed = false := by decide
theorem test_illformed_convert : (Instr.fcvtFF 3 5 2 2 0).wellFormed = false := by decide
theorem test_illformed_scope : (Instr.amoadd 3 5 7 1 5 0).wellFormed = false ∧ (Instr.ldsync 3 5 7).wellFormed = false := by decide
theorem test_illformed_width : (Instr.vld 3 5 0 3 0).wellFormed = false := by decide
theorem test_illformed_segments : (Instr.vldseg 3 5 7 0 0 0).wellFormed = false ∧ (Instr.vstseg 3 5 63 0 0).wellFormed = false := by decide
theorem test_illformed_fence : (Instr.fence 0 1 0).wellFormed = false ∧ (Instr.fence 1 0 0).wellFormed = false ∧ (Instr.fence 1 1 5).wellFormed = false := by decide
theorem test_illformed_format : (Instr.vxpand 3 5 3 0 0).wellFormed = false := by decide
theorem test_illformed_fork : (Instr.fork 5 5 7).wellFormed = false ∧ (Instr.fork 5 0 7).wellFormed = false ∧ (Instr.fork 5 6 0xFFFF).wellFormed = false := by decide
theorem test_illformed_sendi : (Instr.sendi 5 29).wellFormed = false ∧ (Instr.widf 3 6).wellFormed = false := by decide
theorem test_illformed_nred : (Instr.nred 3 5 3 0).wellFormed = false ∧ (Instr.nred 3 5 0 3).wellFormed = false := by decide
theorem test_illformed_prefix : (Instr.pfx 0 3 0 1).wellFormed = false := by decide

/-- Words of an unassigned major, of an unassigned function, with a fixed field that is not zero, and with an ill-formed operand. -/
theorem test_decode_refuses : ([0x00000000, 0xD8000000, 0xFFFFFFFF, 0x0400001F, 0x04A55840, 0x78000000, 0x7C010000, 0x40A5581B, 0xAC328006, 0xD0A50007] : List Word32).all
    (fun w => (decode w).toOption.isNone) = true := by decide +kernel


/-! ### A word of every instruction, written out from the encodings of spec/04 R80 to R118 -/

theorem test_decode_01 : (([(0x04653800, .add 3 5 7), (0x04653801, .sub 3 5 7), (0x04653802, .and 3 5 7), (0x04653803, .or 3 5 7),
    (0x04653804, .xor 3 5 7), (0x04653805, .andn 3 5 7), (0x04653806, .orn 3 5 7), (0x04653807, .xnor 3 5 7),
    (0x04653808, .sll 3 5 7), (0x04653809, .srl 3 5 7), (0x0465380A, .sra 3 5 7), (0x0465380B, .rol 3 5 7),
    (0x0465380C, .ror 3 5 7), (0x0465380D, .min 3 5 7), (0x0465380E, .minu 3 5 7), (0x0465380F, .max 3 5 7)] : List (Word32 × Instr)).all fun p => decide (decode p.1 = .ok p.2)) = true := by decide +kernel

theorem test_decode_01_1 : (([(0x04653810, .maxu 3 5 7), (0x04653811, .seq 3 5 7), (0x04653812, .sne 3 5 7), (0x04653813, .slt 3 5 7),
    (0x04653814, .sltu 3 5 7)] : List (Word32 × Instr)).all fun p => decide (decode p.1 = .ok p.2)) = true := by decide +kernel

theorem test_decode_02 : (([(0x08653800, .mul 3 5 7), (0x08653801, .mulh 3 5 7), (0x08653802, .mulhu 3 5 7), (0x08653803, .div 3 5 7),
    (0x08653804, .divu 3 5 7), (0x08653805, .rem 3 5 7), (0x08653806, .remu 3 5 7)] : List (Word32 × Instr)).all fun p => decide (decode p.1 = .ok p.2)) = true := by decide +kernel

theorem test_decode_03 : (([(0x0C650000, .clz 3 5), (0x0C650001, .ctz 3 5), (0x0C650002, .popc 3 5), (0x0C653803, .bext 3 5 7),
    (0x0C653804, .bdep 3 5 7), (0x0C650005, .bswap 3 5), (0x0C650006, .sextB 3 5), (0x0C650007, .sextH 3 5),
    (0x0C650008, .sextW 3 5), (0x0C650009, .zextB 3 5), (0x0C65000A, .zextH 3 5), (0x0C65000B, .zextW 3 5)] : List (Word32 × Instr)).all fun p => decide (decode p.1 = .ok p.2)) = true := by decide +kernel

theorem test_decode_04 : (([(0x10651236, .addi 3 5 4662)] : List (Word32 × Instr)).all fun p => decide (decode p.1 = .ok p.2)) = true := by decide +kernel

theorem test_decode_05 : (([(0x14651236, .andi 3 5 4662)] : List (Word32 × Instr)).all fun p => decide (decode p.1 = .ok p.2)) = true := by decide +kernel

theorem test_decode_06 : (([(0x18651236, .ori 3 5 4662)] : List (Word32 × Instr)).all fun p => decide (decode p.1 = .ok p.2)) = true := by decide +kernel

theorem test_decode_07 : (([(0x1C651236, .xori 3 5 4662)] : List (Word32 × Instr)).all fun p => decide (decode p.1 = .ok p.2)) = true := by decide +kernel

theorem test_decode_08 : (([(0x20650007, .slli 3 5 7), (0x20650047, .srli 3 5 7), (0x20650087, .srai 3 5 7)] : List (Word32 × Instr)).all fun p => decide (decode p.1 = .ok p.2)) = true := by decide +kernel

theorem test_decode_09 : (([(0x24651236, .slti 3 5 4662)] : List (Word32 × Instr)).all fun p => decide (decode p.1 = .ok p.2)) = true := by decide +kernel

theorem test_decode_0A : (([(0x28651236, .sltiu 3 5 4662)] : List (Word32 × Instr)).all fun p => decide (decode p.1 = .ok p.2)) = true := by decide +kernel

theorem test_decode_0B : (([(0x2C621236, .movz 3 2 4662)] : List (Word32 × Instr)).all fun p => decide (decode p.1 = .ok p.2)) = true := by decide +kernel

theorem test_decode_0C : (([(0x30621236, .movk 3 2 4662)] : List (Word32 × Instr)).all fun p => decide (decode p.1 = .ok p.2)) = true := by decide +kernel

theorem test_decode_10 : (([(0x40653D40, .fadd 3 5 7 2 5), (0x40653D41, .fsub 3 5 7 2 5), (0x40653D42, .fmul 3 5 7 2 5), (0x40653D43, .fdiv 3 5 7 2 5),
    (0x40650344, .fsqrt 3 5 1 5), (0x40653C05, .fmin 3 5 7 2), (0x40653C06, .fmax 3 5 7 2), (0x40653C07, .feq 3 5 7 2),
    (0x40653C08, .flt 3 5 7 2), (0x40653C09, .fle 3 5 7 2), (0x4065020A, .fclass 3 5 1), (0x40653C0B, .fsgnj 3 5 7 2),
    (0x40653C0C, .fsgnjn 3 5 7 2), (0x40653C0D, .fsgnjx 3 5 7 2), (0x40650D50, .fcvtFF 3 5 1 2 5),
    (0x40650D51, .fcvtFI 3 5 1 2 5)] : List (Word32 × Instr)).all fun p => decide (decode p.1 = .ok p.2)) = true := by decide +kernel

theorem test_decode_10_1 : (([(0x40650D52, .fcvtIF 3 5 1 2 5)] : List (Word32 × Instr)).all fun p => decide (decode p.1 = .ok p.2)) = true := by decide +kernel

theorem test_decode_11 : (([(0x44653A5A, .fmadd 3 5 7 9 1 5)] : List (Word32 × Instr)).all fun p => decide (decode p.1 = .ok p.2)) = true := by decide +kernel

theorem test_decode_12 : (([(0x48653A5A, .fmsub 3 5 7 9 1 5)] : List (Word32 × Instr)).all fun p => decide (decode p.1 = .ok p.2)) = true := by decide +kernel

theorem test_decode_13 : (([(0x4C653A5A, .fnmadd 3 5 7 9 1 5)] : List (Word32 × Instr)).all fun p => decide (decode p.1 = .ok p.2)) = true := by decide +kernel

theorem test_decode_14 : (([(0x50001234, .j 4660)] : List (Word32 × Instr)).all fun p => decide (decode p.1 = .ok p.2)) = true := by decide +kernel

theorem test_decode_15 : (([(0x54001234, .jal 4660)] : List (Word32 × Instr)).all fun p => decide (decode p.1 = .ok p.2)) = true := by decide +kernel

theorem test_decode_16 : (([(0x58651236, .jalr 3 5 4662)] : List (Word32 × Instr)).all fun p => decide (decode p.1 = .ok p.2)) = true := by decide +kernel

theorem test_decode_17 : (([(0x5C651236, .beq 3 5 4662), (0x5C653236, .bne 3 5 4662), (0x5C655236, .blt 3 5 4662), (0x5C657236, .bge 3 5 4662),
    (0x5C659236, .bltu 3 5 4662), (0x5C65B236, .bgeu 3 5 4662)] : List (Word32 × Instr)).all fun p => decide (decode p.1 = .ok p.2)) = true := by decide +kernel

theorem test_decode_18 : (([(0x60651236, .ldb 3 5 4662), (0x60653236, .ldbu 3 5 4662), (0x60655236, .ldh 3 5 4662), (0x60657236, .ldhu 3 5 4662),
    (0x60659236, .ldw 3 5 4662), (0x6065B236, .ldwu 3 5 4662), (0x6065D236, .ldd 3 5 4662)] : List (Word32 × Instr)).all fun p => decide (decode p.1 = .ok p.2)) = true := by decide +kernel

theorem test_decode_19 : (([(0x64651236, .stb 3 5 4662), (0x64653236, .sth 3 5 4662), (0x64655236, .stw 3 5 4662), (0x64657236, .std 3 5 4662)] : List (Word32 × Instr)).all fun p => decide (decode p.1 = .ok p.2)) = true := by decide +kernel

theorem test_decode_1A : (([(0x68650080, .ldbuAQ 3 5 4), (0x68650180, .ldhuAQ 3 5 4), (0x68650280, .ldwuAQ 3 5 4), (0x68650380, .lddAQ 3 5 4),
    (0x68032C80, .stbRL 3 5 4), (0x68032D80, .sthRL 3 5 4), (0x68032E80, .stwRL 3 5 4), (0x68032F80, .stdRL 3 5 4)] : List (Word32 × Instr)).all fun p => decide (decode p.1 = .ok p.2)) = true := by decide +kernel

theorem test_decode_1B : (([(0x6C65382E, .amoadd 3 5 7 1 3 2), (0x6C65386E, .amoand 3 5 7 1 3 2), (0x6C6538AE, .amoor 3 5 7 1 3 2),
    (0x6C6538EE, .amoxor 3 5 7 1 3 2), (0x6C65392E, .amomin 3 5 7 1 3 2), (0x6C65396E, .amomax 3 5 7 1 3 2),
    (0x6C6539AE, .amominu 3 5 7 1 3 2), (0x6C6539EE, .amomaxu 3 5 7 1 3 2), (0x6C653A2E, .amoswap 3 5 7 1 3 2),
    (0x6C653A6E, .cas 3 5 7 1 3 2), (0x6C650430, .ldsync 3 5 4), (0x6C650470, .ldtake 3 5 4), (0x6C032CB0, .stfill 3 5 4),
    (0x6C032CF0, .feclr 3 5 4), (0x6C032D30, .feset 3 5 4)] : List (Word32 × Instr)).all fun p => decide (decode p.1 = .ok p.2)) = true := by decide +kernel

theorem test_decode_1C : (([(0x70600235, .csrr 3 565), (0x70651236, .csrw 3 5 566), (0x70652236, .csrs 3 5 566), (0x70653236, .csrc 3 5 566)] : List (Word32 × Instr)).all fun p => decide (decode p.1 = .ok p.2)) = true := by decide +kernel

theorem test_decode_1D : (([(0x7400009C, .fence 2 3 4), (0x74000200, .fenceSV), (0x74000400, .fenceVS), (0x74000600, .fenceVV)] : List (Word32 × Instr)).all fun p => decide (decode p.1 = .ok p.2)) = true := by decide +kernel

theorem test_decode_1E : (([(0x78000001, .eret), (0x78000002, .wfi), (0x78000003, .halt), (0x78032804, .tlbinv 3 5), (0x78030010, .preempt 3),
    (0x78032811, .ctxsave 3 5), (0x78032812, .ctxload 3 5), (0x78032813, .reshape 3 5)] : List (Word32 × Instr)).all fun p => decide (decode p.1 = .ok p.2)) = true := by decide +kernel

theorem test_decode_1F : (([(0x7C001234, .trap 4660)] : List (Word32 × Instr)).all fun p => decide (decode p.1 = .ok p.2)) = true := by decide +kernel

theorem test_decode_20 : (([(0x80315E40, .vsetvli 3 5 7 9), (0x80314E02, .vsetvl 3 5 7), (0x80000024, .vcfg 1)] : List (Word32 × Instr)).all fun p => decide (decode p.1 = .ok p.2)) = true := by decide +kernel

theorem test_decode_21 : (([(0x84314740, .vaddVV 3 5 7 2 0), (0x84314742, .vsubVV 3 5 7 2 0), (0x84314744, .vmulVV 3 5 7 2 0),
    (0x84314746, .vmulhVV 3 5 7 2 0), (0x84314748, .vdivVV 3 5 7 2 0), (0x8431474A, .vremVV 3 5 7 2 0),
    (0x8431474C, .vminVV 3 5 7 2 0), (0x8431474E, .vmaxVV 3 5 7 2 0), (0x84314750, .vandVV 3 5 7 2 0),
    (0x84314752, .vorVV 3 5 7 2 0), (0x84314754, .vxorVV 3 5 7 2 0), (0x84314756, .vsllVV 3 5 7 2 0),
    (0x84314758, .vsrlVV 3 5 7 2 0), (0x8431475A, .vsraVV 3 5 7 2 0), (0x8431475C, .vsaddVV 3 5 7 2 0),
    (0x8431475E, .vssubVV 3 5 7 2 0)] : List (Word32 × Instr)).all fun p => decide (decode p.1 = .ok p.2)) = true := by decide +kernel

theorem test_decode_22 : (([(0x88314E40, .vaddVS 3 5 7 2 0), (0x88314E42, .vsubVS 3 5 7 2 0), (0x88314E44, .vmulVS 3 5 7 2 0),
    (0x88314E46, .vmulhVS 3 5 7 2 0), (0x88314E48, .vdivVS 3 5 7 2 0), (0x88314E4A, .vremVS 3 5 7 2 0),
    (0x88314E4C, .vminVS 3 5 7 2 0), (0x88314E4E, .vmaxVS 3 5 7 2 0), (0x88314E50, .vandVS 3 5 7 2 0),
    (0x88314E52, .vorVS 3 5 7 2 0), (0x88314E54, .vxorVS 3 5 7 2 0), (0x88314E56, .vsllVS 3 5 7 2 0),
    (0x88314E58, .vsrlVS 3 5 7 2 0), (0x88314E5A, .vsraVS 3 5 7 2 0), (0x88314E5C, .vsaddVS 3 5 7 2 0),
    (0x88314E5E, .vssubVS 3 5 7 2 0)] : List (Word32 × Instr)).all fun p => decide (decode p.1 = .ok p.2)) = true := by decide +kernel

theorem test_decode_22_1 : (([(0x88314F40, .vrsubVS 3 5 7 2 0), (0x88314F42, .vmaddVS 3 5 7 2 0), (0x88314F44, .vmsacVS 3 5 7 2 0),
    (0x88314F46, .vwaddVS 3 5 7 2 0), (0x88314F48, .vwmulVS 3 5 7 2 0)] : List (Word32 × Instr)).all fun p => decide (decode p.1 = .ok p.2)) = true := by decide +kernel

theorem test_decode_23 : (([(0x8C314740, .vaddVI 3 5 7 2 0), (0x8C314742, .vrsubVI 3 5 7 2 0), (0x8C314744, .vandVI 3 5 7 2 0),
    (0x8C314746, .vorVI 3 5 7 2 0), (0x8C314748, .vxorVI 3 5 7 2 0), (0x8C31474A, .vsllVI 3 5 7 2 0),
    (0x8C31474C, .vsrlVI 3 5 7 2 0), (0x8C31474E, .vsraVI 3 5 7 2 0), (0x8C314750, .vsaddVI 3 5 7 2 0),
    (0x8C314752, .vminVI 3 5 7 2 0), (0x8C314754, .vmaxVI 3 5 7 2 0)] : List (Word32 × Instr)).all fun p => decide (decode p.1 = .ok p.2)) = true := by decide +kernel

theorem test_decode_24 : (([(0x90314740, .vmaddVV 3 5 7 2 0), (0x90314742, .vmsacVV 3 5 7 2 0), (0x90314744, .vwaddVV 3 5 7 2 0),
    (0x90314746, .vwmulVV 3 5 7 2 0), (0x90314748, .vdot4 3 5 7 2 0), (0x9031474A, .vdot4Sat 3 5 7 2 0)] : List (Word32 × Instr)).all fun p => decide (decode p.1 = .ok p.2)) = true := by decide +kernel

theorem test_decode_25 : (([(0x94314740, .vfaddVV 3 5 7 2 0), (0x94314742, .vfsubVV 3 5 7 2 0), (0x94314744, .vfmulVV 3 5 7 2 0),
    (0x94314746, .vfdivVV 3 5 7 2 0), (0x94314088, .vfsqrt 3 5 4 0), (0x9431408A, .vfrsqrt 3 5 4 0),
    (0x9431474C, .vfmaVV 3 5 7 2 0), (0x9431474E, .vfmsVV 3 5 7 2 0), (0x94314750, .vfnmaVV 3 5 7 2 0),
    (0x94314752, .vfminVV 3 5 7 2 0), (0x94314754, .vfmaxVV 3 5 7 2 0), (0x94314096, .vfclass 3 5 4 0),
    (0x94314758, .vfsgnjVV 3 5 7 2 0), (0x9431475A, .vfsgnjnVV 3 5 7 2 0), (0x9431475C, .vfsgnjxVV 3 5 7 2 0)] : List (Word32 × Instr)).all fun p => decide (decode p.1 = .ok p.2)) = true := by decide +kernel

theorem test_decode_26 : (([(0x98314E40, .vfaddVS 3 5 7 2 0), (0x98314E42, .vfsubVS 3 5 7 2 0), (0x98314E44, .vfmulVS 3 5 7 2 0),
    (0x98314E46, .vfdivVS 3 5 7 2 0), (0x98314E4C, .vfmaVS 3 5 7 2 0), (0x98314E4E, .vfmsVS 3 5 7 2 0),
    (0x98314E50, .vfnmaVS 3 5 7 2 0), (0x98314E52, .vfminVS 3 5 7 2 0), (0x98314E54, .vfmaxVS 3 5 7 2 0),
    (0x98314E58, .vfsgnjVS 3 5 7 2 0), (0x98314E5A, .vfsgnjnVS 3 5 7 2 0), (0x98314E5C, .vfsgnjxVS 3 5 7 2 0)] : List (Word32 × Instr)).all fun p => decide (decode p.1 = .ok p.2)) = true := by decide +kernel

theorem test_decode_27 : (([(0x9C214740, .vmseqVV 2 5 7 2 0), (0x9C214742, .vmsneVV 2 5 7 2 0), (0x9C214744, .vmsltVV 2 5 7 2 0),
    (0x9C214746, .vmsleVV 2 5 7 2 0), (0x9C214748, .vmfeqVV 2 5 7 2 0), (0x9C21474A, .vmfltVV 2 5 7 2 0),
    (0x9C21474C, .vmfleVV 2 5 7 2 0), (0x9C214E50, .vmseqVS 2 5 7 2 0), (0x9C214E52, .vmsneVS 2 5 7 2 0),
    (0x9C214E54, .vmsltVS 2 5 7 2 0), (0x9C214E56, .vmsleVS 2 5 7 2 0), (0x9C214E58, .vmfeqVS 2 5 7 2 0),
    (0x9C214E5A, .vmfltVS 2 5 7 2 0), (0x9C214E5C, .vmfleVS 2 5 7 2 0)] : List (Word32 × Instr)).all fun p => decide (decode p.1 = .ok p.2)) = true := by decide +kernel

theorem test_decode_28 : (([(0xA020C440, .vmand 2 3 4 2 0), (0xA020C442, .vmor 2 3 4 2 0), (0xA020C444, .vmxor 2 3 4 2 0),
    (0xA020C446, .vmandn 2 3 4 2 0), (0xA030C088, .vcpop 3 3 4 0), (0xA030C08A, .vfirst 3 3 4 0)] : List (Word32 × Instr)).all fun p => decide (decode p.1 = .ok p.2)) = true := by decide +kernel

theorem test_decode_29 : (([(0xA4314080, .vmvVV 3 5 4 0), (0xA4300A82, .vmvsx 3 5 4 0), (0xA4314084, .vmvxs 3 5 4 0),
    (0xA4314E46, .vslideupVS 3 5 7 2 0), (0xA4314E48, .vslidednVS 3 5 7 2 0), (0xA431474A, .vslideupVI 3 5 7 2 0),
    (0xA431474C, .vslidednVI 3 5 7 2 0), (0xA431474E, .vperm 3 5 7 2 0), (0xA4314090, .vcompress 3 5 4 0),
    (0xA4300072, .viota 3 3 0), (0xA4300074, .vid 3 3 0), (0xA4314E56, .vnzscan 3 5 7 2 0), (0xA4214098, .vconfl 2 5 4 0),
    (0xA430059A, .vmvVI 3 5 4 0), (0xA4300A9C, .vmvVS 3 5 4 0)] : List (Word32 × Instr)).all fun p => decide (decode p.1 = .ok p.2)) = true := by decide +kernel

theorem test_decode_2A : (([(0xA8314E40, .vredsum 3 5 7 2 0), (0xA8314E42, .vredmin 3 5 7 2 0), (0xA8314E44, .vredmax 3 5 7 2 0),
    (0xA8314E46, .vredand 3 5 7 2 0), (0xA8314E48, .vredor 3 5 7 2 0), (0xA8314E4A, .vfredsum 3 5 7 2 0),
    (0xA8314E4C, .vfredosum 3 5 7 2 0), (0xA8314E4E, .vfredmin 3 5 7 2 0), (0xA8314E50, .vfredmax 3 5 7 2 0)] : List (Word32 × Instr)).all fun p => decide (decode p.1 = .ok p.2)) = true := by decide +kernel

theorem test_decode_2B : (([(0xAC314084, .vld 3 5 4 2 0), (0xAC314E4A, .vlds 3 5 7 2 1 0), (0xAC314752, .vldx 3 5 7 2 1 0),
    (0xAC31435A, .vldseg 3 5 3 2 1 0)] : List (Word32 × Instr)).all fun p => decide (decode p.1 = .ok p.2)) = true := by decide +kernel

theorem test_decode_2C : (([(0xB0314080, .vst 3 5 4 0), (0xB0314E48, .vsts 3 5 7 2 0), (0xB0314750, .vstx 3 5 7 2 0), (0xB0314358, .vstseg 3 5 3 2 0)] : List (Word32 × Instr)).all fun p => decide (decode p.1 = .ok p.2)) = true := by decide +kernel

theorem test_decode_2D : (([(0xB4314740, .vcvt 3 5 7 2 0), (0xB4314242, .vxpand 3 5 2 2 0), (0xB4314744, .vqblkF4 3 5 7 2 0),
    (0xB4314746, .vqblkI8 3 5 7 2 0), (0xB4314748, .vdqblkF4 3 5 7 2 0), (0xB431474A, .vdqblkI8 3 5 7 2 0)] : List (Word32 × Instr)).all fun p => decide (decode p.1 = .ok p.2)) = true := by decide +kernel

theorem test_decode_30 : (([(0xC00C0000, .tshape 3), (0xC1000100, .tzero 1), (0xC00C5200, .tlda 3 5), (0xC00C5300, .tldb 3 5), (0xC1000400, .tmma 1),
    (0xC1000500, .tmmaSX 1), (0xC1147600, .tstz 1 5 7), (0xC1147700, .tmvz 1 5 7), (0xC00C5838, .tldaMC 3 5 7),
    (0xC00C5938, .tldbMC 3 5 7), (0xC1000A00, .tmmaSat 1)] : List (Word32 × Instr)).all fun p => decide (decode p.1 = .ok p.2)) = true := by decide +kernel

theorem test_decode_34 : (([(0xD0651236, .fork 3 5 4662)] : List (Word32 × Instr)).all fun p => decide (decode p.1 = .ok p.2)) = true := by decide +kernel

theorem test_decode_35 : (([(0xD4000000, .join), (0xD4000040, .keywait), (0xD4000080, .doneStrand), (0xD40300C0, .waitmsg 3), (0xD4032900, .send 3 5),
    (0xD4032940, .sendi 3 5), (0xD4C50180, .rgsetl 3 5), (0xD46001C5, .widf 3 5)] : List (Word32 × Instr)).all fun p => decide (decode p.1 = .ok p.2)) = true := by decide +kernel

theorem test_decode_38 : (([(0xE0030005, .sbind 3 5), (0xE0000043, .sunbind 3), (0xE0000083, .sdrain 3), (0xE00328C0, .scopy 3 5),
    (0xE0032900, .scopyF 3 5), (0xE0632140, .sisectC 3 3 4), (0xE0632189, .sisectW 3 3 4 9), (0xE00001C0, .cqwait),
    (0xE0C00200, .cqpop 3), (0xE0032A40, .walk 3 5)] : List (Word32 × Instr)).all fun p => decide (decode p.1 = .ok p.2)) = true := by decide +kernel

theorem test_decode_39 : (([(0xE4314E40, .chase 3 5 7 2), (0xE4314E42, .pgather 3 5 7 2)] : List (Word32 × Instr)).all fun p => decide (decode p.1 = .ok p.2)) = true := by decide +kernel

theorem test_decode_3C : (([(0xF0032800, .grpset 3 5), (0xF0030040, .grpfree 3), (0xF0032898, .nred 3 5 1 2), (0xF00328C0, .nmcast 3 5),
    (0xF0030100, .gswOut 3), (0xF0030101, .gswIN 3)] : List (Word32 × Instr)).all fun p => decide (decode p.1 = .ok p.2)) = true := by decide +kernel

theorem test_decode_3F : (([(0xFE592000, .pfx 1 5 1 9)] : List (Word32 × Instr)).all fun p => decide (decode p.1 = .ok p.2)) = true := by decide +kernel


/-! ### Single steps, with results that the spec states -/

/-- The small machine with values in s5, s6 and s7. -/
def regs3 (a b c : Word) : State := withX [(5, a), (6, b), (7, c)] base

/-- Elements of b bits, the lowest first, as a register. -/
def packed (b : Nat) (l : List Nat) : VReg := BitVec.ofNat 131072 (l.foldr (fun e n => e % 2 ^ b + 2 ^ b * n) 0)

/-- Vector registers set, at an element type and a VL. -/
def vec (sew : BitVec 4) (vl : BitVec 16) (l : List (BitVec 6 × VReg)) : State :=
  onHart (fun h => l.foldl (fun h p => h.setVr p.1 p.2) h) (withV sew vl base)

/-- The first n elements of b bits of a vector register of the next state. -/
def elems (b n : Nat) (r : BitVec 6) (o : Host.Outcome State Fault Refusal) : List Nat :=
  after [] (fun t => (List.range n).map fun i => elemOf (t.hart.vr r) b i) o

def flagsOf (o : Host.Outcome State Fault Refusal) : BitVec 6 := after 0 (fun t => t.hart.sc.flags) o

-- spec/05, the srai example
theorem test_srai : reg 3 (exec (.srai 3 5 5) (regs3 0xFFFFFFFFFFFFFF00 0 0)) = 0xFFFFFFFFFFFFFFF8 := by decide +kernel
-- spec/05 R122, the table of values
theorem test_div : reg 3 (exec (.div 3 5 6) (regs3 (-7) 2 0)) = -3 ∧ reg 3 (exec (.div 3 5 6) (regs3 7 (-2) 0)) = -3 := by decide +kernel
theorem test_rem : reg 3 (exec (.rem 3 5 6) (regs3 (-7) 2 0)) = -1 ∧ reg 3 (exec (.rem 3 5 6) (regs3 7 (-2) 0)) = 1 := by decide +kernel
theorem test_div_overflow : reg 3 (exec (.div 3 5 6) (regs3 (1 <<< 63) (-1) 0)) = 1 <<< 63 ∧ reg 3 (exec (.rem 3 5 6) (regs3 (1 <<< 63) (-1) 0)) = 0 := by decide +kernel
theorem test_divu_zero : reg 3 (exec (.divu 3 5 6) (regs3 7 0 0)) = -1 ∧ reg 3 (exec (.remu 3 5 6) (regs3 7 0 0)) = 7 := by decide +kernel
theorem test_mulh : reg 3 (exec (.mulh 3 5 6) (regs3 (-1) (-1) 0)) = 0 ∧ reg 3 (exec (.mulhu 3 5 6) (regs3 (-1) (-1) 0)) = 0xFFFFFFFFFFFFFFFE := by decide +kernel
-- spec/05 R123, by hand from its pseudocode
theorem test_bext : reg 3 (exec (.bext 3 5 6) (regs3 0xB4 0xAA 0)) = 0xC := by decide +kernel
theorem test_bdep : reg 3 (exec (.bdep 3 5 6) (regs3 0xF 0xAA 0)) = 0xAA := by decide +kernel
theorem test_clz_zero : reg 3 (exec (.clz 3 5) (regs3 0 0 0)) = 64 ∧ reg 3 (exec (.ctz 3 5) (regs3 0 0 0)) = 64 := by decide +kernel
theorem test_bswap : reg 3 (exec (.bswap 3 5) (regs3 0x0102030405060708 0 0)) = 0x0807060504030201 := by decide +kernel
-- spec/05 R121: movk keeps the other halfwords
theorem test_movk : reg 5 (exec (.movk 5 1 0x1234) (regs3 (-1) 0 0)) = 0xFFFFFFFF1234FFFF := by decide +kernel
-- R24: s0 discards
theorem test_s0 : reg 0 (exec (.addi 0 5 1) (regs3 1 0 0)) = 0 := by decide +kernel
-- spec/05 R129 and R131, the examples
theorem test_fclass : reg 3 (exec (.fclass 3 5 1) (regs3 0x80000000 0 0)) = 8 ∧ reg 3 (exec (.fclass 3 5 1) (regs3 0x7FC00000 0 0)) = 4 := by decide +kernel
theorem test_fcvt_unsigned_rtz : (let o := exec (.fcvtIF 3 5 1 1 5) (regs3 0xBF333333 0 0); (reg 3 o, flagsOf o)) = (0, 1) := by decide +kernel
theorem test_fcvt_unsigned_rdn : (let o := exec (.fcvtIF 3 5 1 1 6) (regs3 0xBF333333 0 0); (reg 3 o, flagsOf o)) = (0, 16) := by decide +kernel
-- spec/06 R154, the example of vwmul.vs
theorem test_vwmul : elems 32 3 6 (exec (.vwmulVS 6 3 7 0 0) (withX [(7, 30000)] (vec 2 3 [(3, packed 16 [30000, 35536, 7])]))) =
    [900000000, 2 ^ 32 - 900000000, 210000] := by decide +kernel
-- spec/06 R155, the example of vdot4
def dots : State := vec 4 2 [(8, packed 32 [2147483000, 2147483000]), (9, packed 8 [127, 127, 128, 128, 127, 127, 127, 127]),
  (10, packed 8 [127, 127, 127, 127, 127, 127, 127, 127])]
theorem test_vdot4_sat : elems 32 2 8 (exec (.vdot4Sat 8 9 10 0 0) dots) = [2147482746, 2147483647] := by decide +kernel
theorem test_vdot4 : elems 32 2 8 (exec (.vdot4 8 9 10 0 0) dots) = [2147482746, 2 ^ 32 - 2147419780] := by decide +kernel
-- spec/06 R158, the examples of vfrsqrt
theorem test_vfrsqrt : (let o := exec (.vfrsqrt 7 8 0 0) (vec 10 2 [(8, packed 32 [0x40800000, 0x40000000])])
    (elems 32 2 7 o, flagsOf o)) = ([0x3F000000, 0x3F3504F3], 1) := by decide +kernel
-- spec/06, the masked fused multiply-add, with VE = 1 and VE = 0
def fused (ve : Bool) : State :=
  onHart (fun h => { (h.setMask 2 0xB).setMask 7 0x7 with sc := { h.sc with ve := ve } })
    (vec 10 4 [(5, packed 32 [0x3FC00000, 0x7F800000, 0x7F800001, 0x7F000000]), (6, packed 32 [0x40000000, 0, 0x3F800000, 0x40800000]),
      (4, packed 32 [0x3E800000, 0x3F800000, 0x40A00000, 0])])
theorem test_vfma_ve : (let o := exec (.vfmaVV 4 5 6 2 0) (fused true); (elems 32 4 4 o, flagsOf o)) =
    ([0x40500000, 0x7FC00000, 0x40A00000, 0], 16) := by decide +kernel
theorem test_vfma : (let o := exec (.vfmaVV 4 5 6 2 0) (fused false); (elems 32 4 4 o, flagsOf o)) =
    ([0x40500000, 0x7FC00000, 0x40A00000, 0x7F800000], 16 + 4 + 1) := by decide +kernel
-- spec/07 R170, the example of vnzscan
theorem test_vnzscan : (let o := exec (.vnzscan 2 4 9 0 0) (vec 8 10 [(4, packed 16 [0, 0x8000, 0, 0x3C00, 0, 0, 0, 1, 0, 0])])
    (elems 16 2 2 o, reg 9 o)) = ([3, 7], 2) := by decide +kernel
-- R55, R172: a NaN seed with no active element gives the canonical NaN
theorem test_vfredmin_nan : reg 3 (exec (.vfredmin 3 2 9 1 0) (onHart (fun h => h.setMask 1 0) (withX [(9, 0x7F800001)] (vec 10 2 [])))) = 0x7FC00000 := by
  decide +kernel
-- R73, by hand: infinite products of both signs set NV beside a quiet NaN
theorem test_group_sum : (groupSum [(.nan false, 0), (.inf false, 0), (.inf true, 0)]).2 = 16 := by decide +kernel
-- spec/07 R178, the examples of vcvt
theorem test_vcvt : elems 8 1 6 (exec (.vcvt 6 2 2 0 0) (vec 1 1 [(2, packed 16 [0xFFFF])])) = [0] ∧
    elems 8 1 8 (exec (.vcvt 8 4 4 0 0) (vec 0 1 [(4, packed 32 [300])])) = [127] := by decide +kernel
-- spec/03 R62, the example of a conversion into e4m3
theorem test_vcvt_e4m3 : (let o := exec (.vcvt 8 4 10 0 0) (vec 12 1 [(4, packed 32 [0x43F00000])]); (elems 8 1 8 o, flagsOf o)) = ([0x7E], 33) ∧
    (let o := exec (.vcvt 8 4 10 0 0) (vec 12 1 [(4, packed 32 [0x43E80000])]); (elems 8 1 8 o, flagsOf o)) = ([0x7E], 1) := by decide +kernel
-- spec/03 R70 and R71, the example of a quantised group
def blockIn : VReg := packed 32 ([0x40A00000, 0xC0266666, 0x3E99999A] ++ List.replicate 29 0)
theorem test_vqblk_f4 : (let o := exec (.vqblkF4 4 2 3 0 0) (vec 10 32 [(2, blockIn)]); (elems 8 2 4 o, elems 8 1 3 o)) = ([0xD6, 0x01], [0x7F]) := by decide +kernel
theorem test_vqblk_i8 : (let o := exec (.vqblkI8 4 2 3 0 0) (vec 10 32 [(2, blockIn)]); (elems 8 3 4 o, elems 8 1 3 o)) = ([0x50, 0xD6, 0x05], [0x81]) := by decide +kernel
-- spec/07 R182, the example of vdqblk
def blockCodes : State :=
  vec 10 64 [(2, packed 8 ([0x80, 0x40, 0x81] ++ List.replicate 29 0 ++ List.replicate 32 0x7F)), (3, packed 32 [0xFF80])]
theorem test_vdqblk : elems 32 3 4 (exec (.vdqblkI8 4 2 3 0 0) blockCodes) = [0xC0800000, 0x40000000, 0xC07E0000] := by decide +kernel
theorem test_vdqblk_mask : after 0#64 (fun t => (t.hart.mask 7).extractLsb' 0 64) (exec (.vdqblkI8 4 2 3 0 0) blockCodes) = 0xFFFFFFFF#64 := by decide +kernel
-- R132, R133: a taken branch and a link
theorem test_beq : after 0 (fun t => t.hart.sc.pc) (exec (.beq 5 6 0x3FFF) (regs3 4 4 0)) = 0xFFC := by decide +kernel
theorem test_jalr : (let o := exec (.jalr 1 5 4) (regs3 0x2000 0 0); (after 0 (fun t => t.hart.sc.pc) o, reg 1 o)) = (0x2004, 0x1004) := by decide +kernel
-- R135, R225: a byte stored and loaded with its sign
theorem test_store : after 0 (fun t => memGet t.mem (own 9)) (exec (.stb 6 5 9) (regs3 window 0x1FE 0)) = 0xFE := by decide +kernel
theorem test_load : reg 3 (exec (.ldb 3 5 9) { (regs3 window 0 0) with mem := memSet base.mem (own 9) 0x80 }) = 0xFFFFFFFFFFFFFF80 := by decide +kernel
theorem test_load_align : after 0 (fun t => t.ring.eval) (exec (.ldd 3 5 4) (regs3 window 0 0)) = window + 4 := by decide +kernel
-- R138: cas writes only where memory holds the comparand
theorem test_cas : (let o := exec (.cas 5 6 7 3 0 0) (withX [(8, 0)] { (regs3 0 window 0x55) with mem := memSet base.mem (own 0) 0 })
    (reg 5 o, after 0 (fun t => memGet t.mem (own 0)) o)) = (0, 0x55) := by decide +kernel
-- R383: trap takes the exception with its number, and EPC behind it
theorem test_trap : (let o := exec (.trap 5) base; (after 0 (fun t => t.ring.epc) o, after 0 (fun t => t.ring.eval) o, after .m (fun t => t.hart.level) o)) =
    (0x1004, 5, .s) := by decide +kernel
-- R51: vsetvli grants min(AVL, VLMAX)
theorem test_vsetvli : reg 6 (exec (.vsetvli 6 5 5 10) (regs3 100000 0 0)) = 512 := by decide +kernel
-- R195: tzero clears one accumulator
theorem test_tzero : after 1#64 (fun t => t.hart.z[1].extractLsb' 0 64) (exec (.tzero 1) (onHart (fun h => { h with z := Vector.replicate 4 (BitVec.allOnes 262144) }) base)) = 0#64 := by decide +kernel
-- spec/11 R244, the destination word of the example
theorem test_destination : after 0 (fun t => (t.ring.outbound.head?.map fun o => (o.msg.hdr.extractLsb' 0 16).toNat).getD 0) (exec (.sendi 5 8) (regs3 0x0000280C00000444 0 0)) = 0x0A03 := by decide +kernel
-- the step fetches, decodes and executes the word at the pc; a word that decodes to nothing traps ILL with the word
theorem test_step : reg 3 (step (State.reset.withFetchWord 32 0x10600005)) = 5 := by decide +kernel
theorem test_step_ill : after 0 (fun t => t.ring.eval) (step (State.reset.withFetchWord 32 0x0400001F)) = 0x0400001F := by decide +kernel
/-! ### States that meet the hypotheses of the obligations -/

theorem base_ready : ready base := ⟨by decide +kernel, rfl, rfl⟩
/-- A strand outside any chunk, with nothing queued and no live-in to come, is settled. -/
theorem settles {s : State} (hq : s.hart.queue = []) (ha : s.hart.awaiting = 0) (hk : isKeystone s = true) (hb : s.hart.sc.bad = 0)
    (hh : s.hart.held = false) : settled s := ⟨hq, ha, hk, hb, by simp [hh]⟩

theorem base_settled : settled base := (settles rfl rfl rfl rfl rfl)
theorem atS_settled : settled (atS base) ∧ (atS base).hart.level ≠ .u := ⟨(settles rfl rfl rfl rfl rfl), by decide⟩
theorem onM_settled : settled onM ∧ onM.hart.level ≠ .u ∧ onM.onMgmt = some 0 := ⟨(settles rfl rfl rfl rfl rfl), by decide, rfl⟩
theorem base_memory : memoryWf base := by unfold memoryWf; decide +kernel

/-- A module in which nothing is in error, and no L1 holds a line. -/
theorem noErrors {s : State} (h : s.bad = []) (g : s.l1 = []) : errorFree s := ⟨h, by rw [g]; simp⟩

/-- A place in the strand's own store translates to itself. -/
theorem own_translates : translate (window + 8) 8 .r base = .ok (own 8, false) base ∧ translate (window + 0x7FFF8) 8 .w base = .ok (own 0x7FFF8, false) base ∧
    translate (window + 3) 1 .r base = .ok (own 3, false) base ∧ translate (window + 4) 4 .a base = .ok (own 4, false) base := ⟨rfl, rfl, rfl, rfl⟩

theorem own_memory : inMemory base (own 8) 8 ∧ inMemory base (own 3) 1 ∧ inMemory base (own 4) 4 ∧ inMemory base (own 0x7FFF8) 8 := by
  refine ⟨⟨?_, ?_, ?_⟩, ⟨?_, ?_, ?_⟩, ⟨?_, ?_, ?_⟩, ⟨?_, ?_, ?_⟩⟩ <;> decide +kernel

theorem witness_IntegerResults : ready base := base_ready
theorem witness_FloatResults : ready base ∧ ready (asYounger base) := ⟨base_ready, by decide +kernel, rfl, rfl⟩

/-- fp32 NaN, infinities, zeros and finite numbers in registers. -/
def floats : State := withX [(5, 0x7F800001), (6, 0x7FC00000), (7, 0x7F800000), (8, 0xFF800000), (9, 0), (10, 0x80000000), (11, 0x3F800000), (12, 0xBF800000)] base

theorem witness_FloatSpecialCases : ready floats ∧
    (let dat (r : BitVec 5) := (scalarFmt 1).decode ((x floats r).toNat % 2 ^ (scalarFmt 1).width)
     dat 5 = .nan true ∧ dat 6 = .nan false ∧ dat 7 = .inf false ∧ dat 8 = .inf true ∧ (∃ e, dat 9 = .fin false 0 e) ∧ (∃ e, dat 10 = .fin true 0 e) ∧
       (∃ m e, m ≠ 0 ∧ dat 11 = .fin false m e) ∧ ∃ m e, m ≠ 0 ∧ dat 12 = .fin true m e) :=
  ⟨⟨by decide +kernel, rfl, rfl⟩, rfl, rfl, rfl, rfl, ⟨_, rfl⟩, ⟨_, rfl⟩, ⟨_, _, by decide, rfl⟩, ⟨_, _, by decide, rfl⟩⟩

theorem witness_ControlFlowResults : ready base ∧ base.hart.queue = [] ∧ (x base 5 + (0x10 : BitVec 16).signExtend 64).extractLsb' 0 2 = 0#2 ∧
    (x base 5 + (1 : BitVec 16).signExtend 64).extractLsb' 0 2 ≠ 0#2 ∧ (x base 5 + (2 : BitVec 16).signExtend 64).extractLsb' 0 2 ≠ 0#2 :=
  ⟨base_ready, rfl, by decide +kernel, by decide +kernel, by decide +kernel⟩

theorem witness_StoredBytes : memoryWf base ∧ isKeystone base = true ∧ base.hart.written = [] ∧ base.onMgmt = none ∧ base.bad = [] ∧
    (asChunk base).hart.held = true := ⟨base_memory, rfl, rfl, rfl, rfl, rfl⟩

def pointing (v : Word) : State := withX [(5, v), (6, 1)] base

theorem witness_LoadStoreResults : ready (pointing window) ∧ (pointing window).hart.queue = [] ∧
    (∀ n ∈ [1, 2, 4, 8], (x (pointing window) 5 + (8 : BitVec 13).signExtend 64).toNat % n = 0) ∧
    translate (x (pointing window) 5 + (8 : BitVec 13).signExtend 64) 8 .r (pointing window) = .ok (own 8, false) (pointing window) ∧
    translate (x (pointing window) 5 + (8 : BitVec 13).signExtend 64) 1 .w (pointing window) = .ok (own 8, false) (pointing window) ∧
    inMemory (pointing window) (own 8) 8 ∧ paModule (own 8) = (pointing window).module ∧ linesFit (pointing window) (own 8) 8 ∧
    (x (pointing window) 5 + (1 : BitVec 13).signExtend 64).toNat % 2 ≠ 0 ∧ (x (pointing window) 5 + (2 : BitVec 13).signExtend 64).toNat % 4 ≠ 0 ∧
    (x (pointing window) 5 + (4 : BitVec 13).signExtend 64).toNat % 8 ≠ 0 :=
  ⟨⟨by decide +kernel, rfl, rfl⟩, rfl, by decide +kernel, rfl, rfl, ⟨rfl, by decide +kernel, by decide +kernel⟩, by decide +kernel, (fun h => nomatch h),
    by decide +kernel, by decide +kernel, by decide +kernel⟩

theorem witness_AtomicResults : settled (pointing window) ∧ settled (asChunk base) ∧ (x (pointing window) 5).toNat % 8 = 0 ∧
    translate (x (pointing window) 5) 8 .a (flushWritten (pointing window)) = .ok (own 0, false) (pointing window) ∧
    translate (x (pointing window) 5) 4 .r (flushWritten (pointing window)) = .ok (own 0, false) (pointing window) ∧
    translate (x (pointing window) 5) 1 .w (flushWritten (pointing window)) = .ok (own 0, false) (pointing window) ∧
    inMemory (pointing window) (own 0) 8 ∧ inMemory (pointing window) (own 0) 4 :=
  ⟨(settles rfl rfl rfl rfl rfl), ⟨rfl, rfl, rfl, rfl, by decide +kernel⟩, by decide +kernel, rfl, rfl, rfl, ⟨rfl, by decide +kernel, by decide +kernel⟩,
    ⟨rfl, by decide +kernel, by decide +kernel⟩⟩

theorem witness_FullEmptyResults : settled (pointing (window + 0x7FFF8)) ∧ (pointing (window + 0x7FFF8)).onMgmt = none ∧
    (let s := pointing (window + 0x7FFF8)
     (x s 5).toNat % 8 = 0 ∧ inWindowRegion (x s 5) = true ∧ windowPa (flushWritten s) (x s 5) = some (own 0x7FFF8) ∧
       anyBad (flushWritten s) (own 0x7FFF8) 8 = false ∧ s.waiters = [] ∧ own 0x7FFF8 ∉ s.full ∧ own 0x7FFF8 ∈ (setFull s (own 0x7FFF8) true).full ∧
       0 < (x s 6).toNat ∧ (x s 5).toNat % 0x80000 + 8 * (x s 6).toNat ≤ 0x80000 ∧ anyBad (flushWritten s) (own 0x7FFF8) (8 * (x s 6).toNat) = false ∧
       x s 0 = 0) :=
  ⟨(settles rfl rfl rfl rfl rfl), rfl, by decide +kernel, by decide +kernel, by decide +kernel, by decide +kernel, rfl, by decide +kernel, by decide +kernel,
    by decide +kernel, by decide +kernel, by decide +kernel, rfl⟩

theorem witness_CsrResults : settled base ∧ base.onMgmt = none ∧ settled (atS base) ∧ (atS base).hart.level ≠ .u ∧ (0x030#12 < 0x100#12) ∧
    csrOf 0x030 = some .time ∧ csrLevel base.hart.level 0x030 = true :=
  ⟨base_settled, rfl, atS_settled.1, atS_settled.2, by decide, rfl, rfl⟩

theorem witness_CsrTraps : base.hart.queue = [] ∧ base.onMgmt = none ∧ (1 : BitVec 5) ≠ 0 ∧ base.hart.level = .u ∧ (atS base).hart.level = .s ∧
    (0x009#12) ∉ ([0x008, 0x010] : List (BitVec 12)) ∧ (0x100#12 ≤ 0x100#12) ∧ (0x200#12 ≤ 0x200#12) ∧ (0x031#12 < 0x100#12) := by
  refine ⟨rfl, rfl, ?_, rfl, rfl, ?_, ?_, ?_, ?_⟩ <;> decide

theorem witness_EretResults : settled (atS base) ∧ (atS base).hart.level ≠ .u ∧ (atS base).onMgmt = none ∧ settled onM ∧ onM.hart.level ≠ .u ∧
    onM.onMgmt = some 0 := ⟨atS_settled.1, atS_settled.2, rfl, onM_settled⟩

theorem witness_SystemResults : base.hart.queue = [] ∧ base.onMgmt = none ∧ base.hart.level = .u ∧ settled (atS base) ∧ (atS base).hart.level ≠ .u ∧
    (atS base).onMgmt = none ∧ ((atS base).ring.ppre || (atS base).ring.pact || (atS base).ring.ptmo) = false ∧
    settled (onRing (fun r => { r with ptmo := true }) (atS base)) ∧ onM.onMgmt = some 0 ∧ settled onM ∧ (atS base).bad = [] ∧
    accessesOut (flushWritten (atS base)) = false ∧
    (let s := onHart (fun h => { h with eremote := [{ rtag := 7, write := false, pa := 0, reply := none, owner := 3 }] }) (atS base)
     settled s ∧ s.hart.level ≠ .u ∧ accessesOut (flushWritten s) = true) ∧
    (let w (v : Word) : Word := x (withX [(6, v)] (atS base)) 6
     (w 0x2FFFF).extractLsb' 18 46 = 0#46 ∧ (w 0x2FFFF).extractLsb' 16 2 ≠ 3#2 ∧ (w 0x30000).extractLsb' 16 2 = 3#2 ∧
       (w 0x40000).extractLsb' 18 46 ≠ 0#46) := by
  refine ⟨rfl, rfl, rfl, atS_settled.1, atS_settled.2, rfl, rfl, (settles rfl rfl rfl rfl rfl), rfl, onM_settled.1, rfl, ?_, ⟨(settles rfl rfl rfl rfl rfl), ?_, ?_⟩, ?_, ?_, ?_, ?_⟩ <;>
    decide +kernel

/-- Ring 1 as given, beside the strand at S on ring 0. -/
def beside (r : Ring) (v : Word) : State := withX [(5, v)] { (atS base) with rings := (atS base).rings.set 1 r }

/-- The hypotheses of PreemptResults about ring 1, in a state and with a RESUME bit. -/
def preemptable (s : State) (st : RingState) (resume : Bool) : Prop :=
  s.hart.level ≠ .u ∧ s.onMgmt = none ∧ s.hart.held = false ∧ s.ring.active < s.ring.chunks.length ∧ (x s 5).extractLsb' 0 6 = 1#6 ∧
    (x s 5).extractLsb' 7 57 = 0#57 ∧ 1#6 ≠ s.cur ∧ (s.ringAt 1).halted = false ∧ (s.ringAt 1).state = st ∧ (x s 5).getLsbD 6 = resume ∧
    (keystoneOf s 1).level = .u ∧ (keystoneOf s 1).queue = [] ∧ (keystoneOf s 1).remote = [] ∧ (keystoneOf s 1).park = .running ∧
    (keystoneOf s 1).state = .run ∧ (keystoneOf s 1).pfx = none

/-- A ring with a strand, in a state. -/
def ringIn (st : RingState) : Ring := { Ring.reset with state := st, chunks := [Hart.start] }

theorem witness_PreemptResults : preemptable (beside (ringIn .empty) 1) .empty false ∧ preemptable (beside (ringIn .stopped) 0x41) .stopped true ∧
    preemptable (beside (ringIn .running) 1) .running false ∧ preemptable (beside (ringIn .running) 0x41) .running true ∧
    settled (beside (ringIn .running) 1) := by
  unfold preemptable
  exact ⟨by decide +kernel, by decide +kernel, by decide +kernel, by decide +kernel, (settles rfl rfl rfl rfl rfl)⟩

theorem witness_TrapEntryAtS : synchronous 0x09 ∧ synchronous 0x0F ∧ ¬ synchronous 0x0A ∧ base.onMgmt = none ∧ isKeystone base = true ∧ base.hart.queue = [] ∧ base.hart.level = .u ∧
    (let s := onRing (fun r => { r with ie := true }) (atS base)
     s.onMgmt = none ∧ isKeystone s = true ∧ s.hart.queue = [] ∧ s.hart.level = .s ∧ s.ring.ie = true) := by
  refine ⟨?_, ?_, ?_, rfl, rfl, rfl, rfl, rfl, rfl, rfl, rfl, rfl⟩ <;> unfold synchronous <;> decide

theorem witness_StoppedAndDeferredTraps : synchronous 0x01 ∧ (atS base).bad = [] ∧ (atS base).onMgmt = none ∧ isKeystone (atS base) = true ∧ (atS base).hart.level = .s ∧
    (atS base).ring.ie = false ∧ (asYounger base).onMgmt = none ∧ (asYounger base).hart.held = true ∧ (asYounger base).ring.active ≠ 0 := by
  refine ⟨?_, rfl, rfl, rfl, rfl, rfl, rfl, rfl, ?_⟩ <;> try unfold synchronous
  all_goals decide

theorem witness_TrapEntryAtM : synchronous 0x09 ∧ onM.onMgmt = some 0 ∧ onM.hart.remote = [] ∧
    (let s := onM.modMgmt 0 fun m => { m with mie := true, events := [(0x0B, 3, 7, none)] }
     s.onMgmt = some 0 ∧ s.hart.remote = [] ∧ (s.mgmtAt 0).events = [(0x0B, 3, 7, none)] ∧ (s.mgmtAt 0).mie = true ∧ (s.mgmtAt 0).stopped = false ∧
       s.hart.park ≠ .wfi ∧ (0x0B : BitVec 8) ≠ 0x12 ∧ (0x0B : BitVec 8) ≠ 0x13) := by
  refine ⟨by unfold synchronous; decide, rfl, rfl, rfl, rfl, rfl, rfl, rfl, ?_, ?_, ?_⟩ <;> decide

theorem witness_VectorConfiguration : ready base ∧ base.ring.reshapePend = false ∧ base.hart.queue = [] ∧
    (∀ j : BitVec 3, (base.hart.slotAt j).bound = false) ∧ (2 : BitVec 2) = base.hart.sc.nreg ∧
    (3 ≤ (0x30 : Word).toNat / 16 ∧ (0x8F : Word).toNat / 16 ≤ 8 ∧ (0x100 : Word).extractLsb' 8 56 ≠ 0#56) ∧
    (3 : BitVec 2) ≠ (withV 0 1024 base).hart.sc.nreg ∧ (withV 0 1024 base).hart.sc.vl.toNat ≤ 65536 / (8 * 2 ^ 3) * 8 / 8 ∧
    65536 / (8 * 2 ^ 3) * 8 / 8 < (withV 0 1025 base).hart.sc.vl.toNat :=
  ⟨base_ready, rfl, rfl, by decide +kernel, rfl, by decide +kernel, by decide +kernel, by decide +kernel, by decide +kernel⟩

/-- The hypotheses of ReshapeResults about ring 1. -/
def reshapable (s : State) (shape : BitVec 1) : Prop :=
  s.hart.level ≠ .u ∧ (x s 5).extractLsb' 6 58 = 0#58 ∧ (x s 6).extractLsb' 0 1 = shape ∧ (x s 6).extractLsb' 1 15 = 0#15 ∧
    (x s 6).extractLsb' 32 32 = 0#32 ∧ ((x s 6).extractLsb' 16 16 : BitVec 16).toNat % 64 = 0 ∧ (s.ringAt 1).retired = false

theorem witness_ReshapeResults : reshapable (withX [(6, 0x08000000)] (beside (ringIn .empty) 1)) 0 ∧
    reshapable (withX [(6, 0xFFC00001)] (beside (ringIn .running) 1)) 1 ∧ settled (withX [(6, 0x08000000)] (beside (ringIn .empty) 1)) ∧
    (let s := onRing (fun r => { r with reshapePend := true }) base
     ready s ∧ s.hart.queue = [] ∧ s.onMgmt = none ∧ s.ring.reshapePend = true ∧ s.ring.region = none ∧ s.ring.active = 0) := by
  unfold reshapable
  exact ⟨by decide +kernel, by decide +kernel, (settles rfl rfl rfl rfl rfl), ⟨by decide +kernel, rfl, rfl⟩, rfl, rfl, rfl, rfl, rfl⟩

/-- An address of the strand's own store is reached, however its memory and registers stand. -/
theorem reaches_own {s : State} {va : Word} {n : Nat} {k : Access} {pa : Nat} (hm : s.onMgmt = none) (hc : canonical va = true)
    (hw : inWindowRegion va = true) (lo : 0xFF0000000000 ≤ bitsAt va.toNat 0 48) (hi : bitsAt va.toNat 0 48 < 0xFF0000080000)
    (hp : selfStore s + (bitsAt va.toNat 0 48 - 0xFF0000000000) = pa) (h1 : paSpace1 pa = true := by decide +kernel) : reaches s va n k pa := by
  intro t ht _ hs _
  have e : selfStore t = selfStore s := by
    unfold selfStore
    rw [hs, ht]
  have hm' : t.onMgmt = none := by rw [ht]; exact hm
  have hwin : windowPa t va = some pa := by simp [windowPa, lo, hi, e, hp]
  refine ⟨false, ?_⟩
  unfold Machine.translate
  rw [bind_ok (get_apply t)]
  simp [hm', hc, hw, hwin, noteNear, h1]

theorem vector_ready (sew : BitVec 4) (vl : BitVec 16) : vectorReady (withV sew vl base) ∧ convoyLeft (withV sew vl base) 0 [] :=
  ⟨⟨rfl, rfl, rfl, rfl, rfl, (by decide +kernel : ∀ j : BitVec 3, (base.hart.slotAt j).bound = false ∧ (base.hart.slotAt j).emitted = [] ∧
    (base.hart.slotAt j).drains = []), rfl, rfl, rfl, rfl, rfl⟩, .inl ⟨rfl, rfl, rfl⟩⟩

/-- In a convoy, with one member left. -/
theorem convoy_ready : vectorReady (onHart (fun h => { h with convoy := [0x84000001, 0x84000000] }) (withV 0 4 base)) ∧
    convoyLeft (onHart (fun h => { h with convoy := [0x84000001, 0x84000000] }) (withV 0 4 base)) 1 [0x84000000] :=
  ⟨⟨rfl, rfl, rfl, rfl, rfl, by decide +kernel, rfl, rfl, rfl, rfl, rfl⟩, .inr ⟨_, rfl⟩⟩

theorem regs_base (sew : BitVec 4) (vl : BitVec 16) : regs (withV sew vl base) = 32 := rfl

theorem witness_VectorIntegerResults : vectorReady (withV 7 4 base) ∧ convoyLeft (withV 7 4 base) 0 [] ∧ (31 : BitVec 6).toNat < regs (withV 7 4 base) ∧
    (withV 7 4 base).hart.sc.sew.toNat < 8 ∧ vectorReady (withV 13 4 base) ∧ (withV 13 4 base).hart.sc.sew.toNat < 14 :=
  ⟨(vector_ready 7 4).1, (vector_ready 7 4).2, by decide +kernel, by decide +kernel, (vector_ready 13 4).1, by decide +kernel⟩

theorem witness_VectorAccumulateResults : vectorReady (withV 4 512 base) ∧ convoyLeft (withV 4 512 base) 0 [] ∧
    (30 : BitVec 6).toNat + 1 < regs (withV 4 512 base) ∧ (30 : BitVec 6).toNat % 2 = 0 ∧ (withV 4 512 base).hart.sc.sew.toNat = 4 ∧
    (4 : BitVec 6) ≠ 30 ∧ (4 : BitVec 6) ≠ 30 + 1 ∧ copyOf (withV 4 512 base) = none ∧
    vl (withV 4 512 base) * width (withV 4 512 base) ≤ regWidth (withV 4 512 base) :=
  ⟨(vector_ready 4 512).1, (vector_ready 4 512).2, by decide +kernel, by decide, by decide +kernel, by decide, by decide, rfl, by decide +kernel⟩

theorem witness_VectorFloatResults : vectorReady (withV 8 4 base) ∧ convoyLeft (withV 8 4 base) 0 [] ∧
    (∀ p ∈ ([(8, fmtHalf), (9, fmtBf16), (10, fmtSingle), (11, fmtDouble)] : List (Nat × FFmt)),
      ([(8, fmtHalf), (9, fmtBf16), (10, fmtSingle), (11, fmtDouble)] : List (Nat × FFmt)).lookup (BitVec.ofNat 4 p.1).toNat = some p.2) ∧
    vectorReady (withV 11 4 base) := ⟨(vector_ready 8 4).1, (vector_ready 8 4).2, by decide, (vector_ready 11 4).1⟩

theorem witness_VectorMaskResults : vectorReady (withV 0 4 base) ∧ convoyLeft (withV 0 4 base) 0 [] ∧ (31 : BitVec 6).toNat < regs (withV 0 4 base) ∧
    (withV 0 4 base).hart.sc.sew.toNat < 8 ∧ (withV 0 4 base).hart.vstart = 0 ∧ (withV 0 4 base).hart.sc.sew ≠ 14 ∧ vectorReady (withV 10 4 base) ∧
    (withV 10 4 base).hart.sc.sew.toNat = 10 :=
  ⟨(vector_ready 0 4).1, (vector_ready 0 4).2, by decide +kernel, by decide +kernel, rfl, by decide +kernel, (vector_ready 10 4).1, by decide +kernel⟩

theorem witness_VectorMoveResults : vectorReady (withV 2 4 base) ∧ convoyLeft (withV 2 4 base) 0 [] ∧ (withV 2 4 base).hart.vstart = 0 ∧
    (withV 2 4 base).hart.sc.sew.toNat < 8 ∧ 2 ≤ (withV 2 4 base).hart.sc.sew.toNat ∧ (withV 2 4 base).hart.sc.sew ≠ 14 ∧
    (withV 11 4 base).hart.sc.sew.toNat ≤ 11 ∧ (3 : BitVec 6) ≠ 4 ∧ (31 : BitVec 6).toNat < regs (withV 2 4 base) ∧ copyOf (withV 2 4 base) = none :=
  ⟨(vector_ready 2 4).1, (vector_ready 2 4).2, rfl, by decide +kernel, by decide +kernel, by decide +kernel, by decide +kernel, by decide, by decide +kernel, rfl⟩

theorem witness_VectorReductionResults : vectorReady (withV 0 0 base) ∧ convoyLeft (withV 0 0 base) 0 [] ∧ vl (withV 0 0 base) = 0 ∧
    (withV 0 0 base).hart.sc.sew.toNat < 8 ∧ vectorReady (withV 8 0 base) ∧ vl (withV 8 0 base) = 0 ∧ 8 ≤ (withV 8 0 base).hart.sc.sew.toNat ∧
    (withV 8 0 base).hart.sc.sew.toNat ≤ 11 ∧ vectorReady (withV 7 4 base) ∧ vl (withV 7 4 base) ≠ 0 ∧ (withV 7 4 base).hart.vstart = 0 ∧
    vl (withV 10 4 base) ≠ 0 ∧ (withV 10 4 base).hart.sc.sew.toNat = 10 :=
  ⟨(vector_ready 0 0).1, (vector_ready 0 0).2, by decide +kernel, by decide +kernel, (vector_ready 8 0).1, by decide +kernel, by decide +kernel,
    by decide +kernel, (vector_ready 7 4).1, by decide +kernel, rfl, by decide +kernel, by decide +kernel⟩

theorem witness_VectorConversionResults : vectorReady (withV 8 4 base) ∧ convoyLeft (withV 8 4 base) 0 [] ∧
    ((10 : BitVec 4) ≠ (withV 8 4 base).hart.sc.sew ∧ (withV 8 4 base).hart.sc.sew.toNat = 8 ∧ sewBits 10 / width (withV 8 4 base) = 2 ∧
      (4 : BitVec 6).toNat % 2 = 0 ∧ (4 : BitVec 6).toNat + 2 ≤ regs (withV 8 4 base) ∧ (3 : BitVec 6).toNat < (4 : BitVec 6).toNat) ∧
    (sewBits 8 < width (withV 10 4 base) ∧ (3 : BitVec 6) ≠ 4 ∧ vectorReady (withV 10 4 base)) ∧
    (14 ≤ (15 : BitVec 4).toNat ∧ (4 : BitVec 6).toNat + 1 < regs (withV 8 4 base) ∧ (3 : BitVec 6) ≠ 4 + 1 ∧ sewBits 15 < width (withV 8 4 base)) ∧
    ((withV 12 4 base).hart.sc.sew = 12 ∧ vectorReady (withV 12 4 base) ∧ (2 : BitVec 6).toNat < 3) ∧
    ((3 : BitVec 6) ≠ 5 ∧ (4 : BitVec 6) ≠ 5 ∧ copyOf (withV 8 4 base) = none ∧ (withV 8 4 base).hart.vstart = 0) :=
  ⟨(vector_ready 8 4).1, (vector_ready 8 4).2, ⟨by decide +kernel, by decide +kernel, by decide +kernel, by decide, by decide +kernel, by decide⟩,
    ⟨by decide +kernel, by decide, (vector_ready 10 4).1⟩, ⟨by decide, by decide +kernel, by decide, by decide +kernel⟩,
    ⟨rfl, (vector_ready 12 4).1, by decide⟩, by decide, by decide, rfl, rfl⟩

/-- Two 32-bit elements at the window. -/
def vmem (sew : BitVec 4) (v : Word) : State := withX [(5, v), (6, 8)] (withV sew 2 base)

theorem vmem_ready (sew : BitVec 4) (v : Word) : vectorReady (vmem sew v) ∧ convoyLeft (vmem sew v) 0 [] ∧ (vmem sew v).hart.held = false :=
  ⟨⟨rfl, rfl, rfl, rfl, rfl, by intro j; exact (vector_ready sew 2).1.2.2.2.2.2.1 j, withX_bad _ _ rfl, rfl, rfl, rfl, rfl⟩, .inl ⟨rfl, rfl, rfl⟩, rfl⟩

theorem witness_VectorMemoryResults : errorFree (vmem 4 window) ∧ errorFree (vmem 14 window) ∧ memoryWf (vmem 14 window) ∧ vectorReady (vmem 4 window) ∧ convoyLeft (vmem 4 window) 0 [] ∧ (vmem 4 window).hart.held = false ∧
    (30 : BitVec 6).toNat + (1 : BitVec 6).toNat < regs (vmem 4 window) ∧ (1 : BitVec 6).toNat < 7 ∧ (vmem 4 window).hart.sc.sew ≠ 14 ∧
    copyOf (vmem 4 window) = none ∧ actives (vmem 4 window) 0 false = [0, 1] ∧ actives (vmem 4 window) 0 true = [0, 1] ∧
    (∀ j ∈ [0, 1], ∀ k ≤ 1, ∀ acc : Access,
      (x (vmem 4 window) 5 + BitVec.ofNat 64 ((j * 2 + k) * 4)).toNat % 4 = 0 ∧ reaches (vmem 4 window) (x (vmem 4 window) 5 + BitVec.ofNat 64 ((j * 2 + k) * 4)) 4 acc (own (4 * (2 * j + k))) ∧
        inMemory (vmem 4 window) (own (4 * (2 * j + k))) 4) ∧
    (∀ j ∈ [0, 1], ∀ acc : Access, reaches (vmem 4 window) (x (vmem 4 window) 5 + BitVec.ofNat 64 j * x (vmem 4 window) 6) 4 acc (own (8 * j))) ∧
    vectorReady (vmem 14 window) ∧ (∀ j ∈ [0, 1], ∀ acc : Access, reaches (vmem 14 window) (x (vmem 14 window) 5 + BitVec.ofNat 64 (j / 2)) 1 acc (own 0)) ∧
    inMemory (vmem 14 window) (own 0) 1 := by
  refine ⟨noErrors rfl rfl, noErrors rfl rfl, base_memory, (vmem_ready 4 window).1, (vmem_ready 4 window).2.1, rfl, by decide +kernel, by decide, by decide +kernel, rfl, by decide +kernel, by decide +kernel,
    ?_, ?_, (vmem_ready 14 window).1, ?_, rfl, by decide +kernel, by decide +kernel⟩
  · intro j hj k hk acc
    have hj' : j = 0 ∨ j = 1 := by simpa using hj
    have hk' : k = 0 ∨ k = 1 := by omega
    rcases hj' with rfl | rfl <;> rcases hk' with rfl | rfl <;>
      exact ⟨by decide +kernel, reaches_own rfl (by decide +kernel) (by decide +kernel) (by decide +kernel) (by decide +kernel) (by decide +kernel),
        rfl, by decide +kernel, by decide +kernel⟩
  · intro j hj acc
    have hj' : j = 0 ∨ j = 1 := by simpa using hj
    rcases hj' with rfl | rfl <;>
      exact reaches_own rfl (by decide +kernel) (by decide +kernel) (by decide +kernel) (by decide +kernel) (by decide +kernel)
  · intro j hj acc
    have hj' : j = 0 ∨ j = 1 := by simpa using hj
    rcases hj' with rfl | rfl <;>
      exact reaches_own rfl (by decide +kernel) (by decide +kernel) (by decide +kernel) (by decide +kernel) (by decide +kernel)

theorem witness_VectorPushTraps : base.hart.queue = [] ∧ convoyLeft base 0 [] ∧ regs base ≤ (32 : BitVec 6).toNat ∧
    8 ≤ (withV 8 4 base).hart.sc.sew.toNat ∧ (withV 7 4 base).hart.sc.sew.toNat < 8 ∧ 11 < (withV 12 4 base).hart.sc.sew.toNat ∧
    6 ≤ (withV 6 4 base).hart.sc.sew.toNat ∧ (withV 6 4 base).hart.sc.sew.toNat ≠ 4 ∧ (withV 6 4 base).hart.sc.sew.toNat ≠ 5 ∧
    (encode (.vaddVV 32 1 2 0 0)).isSome = true :=
  ⟨rfl, .inl ⟨rfl, rfl, rfl⟩, by decide +kernel, by decide +kernel, by decide +kernel, by decide +kernel, by decide +kernel, by decide +kernel,
    by decide +kernel, rfl⟩

/-- Words in the strand's own store from its pc on. -/
def coded (l : List Word32) (s : State) : State :=
  let s := onHart (fun h => { h with sc := { h.sc with pc := window + 0x100 } }) s
  { s with mem := (List.range l.length).foldl (fun m i => writeLE m (own 0x100 + 4 * i) ((l.getD i 0).toNat) 4) s.mem }

/-- Two vector additions, a load and a move, each with C = 1, and a fifth member. -/
def convoyCode : State := coded [0x84108201, 0x84208301, 0xAC414001, 0xA4518001, 0x84508600] (withV 0 4 base)

theorem fetch_own {s : State} {va : Word} {pa : Nat} {v : Word32} (ht : Machine.translate va 4 .x s = .ok (pa, false) s) (hi : inMemory s pa 4)
    (hv : BitVec.ofNat 32 (readLE s.peek pa 4) = v) : fetchWord va s = .ok v s := by
  unfold fetchWord
  rw [bind_ok ht]
  simp only
  rw [bind_ok (fetchPhys_memory hi), pure_apply, ← hv, readLE_loaded]

theorem fetch_convoyCode : fetchWord (convoyCode.hart.sc.pc + 4) convoyCode = .ok 0x84208301 convoyCode ∧
    fetchWord (convoyCode.hart.sc.pc + 8) convoyCode = .ok 0xAC414001 convoyCode ∧
    fetchWord (convoyCode.hart.sc.pc + 12) convoyCode = .ok 0xA4518001 convoyCode ∧
    fetchWord (convoyCode.hart.sc.pc + 16) convoyCode = .ok 0x84508600 convoyCode :=
  ⟨fetch_own (pa := own 0x104) rfl ⟨rfl, by decide +kernel, by decide +kernel⟩ (by decide +kernel),
    fetch_own (pa := own 0x108) rfl ⟨rfl, by decide +kernel, by decide +kernel⟩ (by decide +kernel),
    fetch_own (pa := own 0x10C) rfl ⟨rfl, by decide +kernel, by decide +kernel⟩ (by decide +kernel),
    fetch_own (pa := own 0x110) rfl ⟨rfl, by decide +kernel, by decide +kernel⟩ (by decide +kernel)⟩

theorem fetch_scalar : fetchWord ((coded [0x84108201, 0x04A55800] (withV 0 4 base)).hart.sc.pc + 4) (coded [0x84108201, 0x04A55800] (withV 0 4 base)) =
    .ok 0x04A55800 (coded [0x84108201, 0x04A55800] (withV 0 4 base)) :=
  fetch_own (pa := own 0x104) rfl ⟨rfl, by decide +kernel, by decide +kernel⟩ (by decide +kernel)

theorem witness_ConvoysAndQueue : encode (.vaddVV 1 2 2 0 1) = some 0x84108201 ∧ isMember 0x84108201 = true ∧ (0x84108201 : Word32).getLsbD 0 = true ∧
    vectorReady convoyCode ∧ convoyCode.hart.pfx = none ∧ convoyCode.hart.convoy = [] ∧
    isMember 0x84508600 = true ∧ decodeOp 0x84508600 = .ok .vaddVV ∧ vecLegal (regs convoyCode) convoyCode.hart.sc.sew 0x84508600 = true ∧
    withinLimits [0x84108201, 0x84208300] = true ∧ withinLimits [0x84108201, 0x84208301, 0xAC414001, 0xA4518001] = true ∧
    withinLimits [0x84108201, 0x84208301, 0xAC414001] = true ∧ withinLimits [0x84108201, 0x84108201, 0x84108201] = false ∧
    vecLegal (regs convoyCode) convoyCode.hart.sc.sew 0xAC414001 = true ∧ vecLegal (regs convoyCode) convoyCode.hart.sc.sew 0xA4518001 = true ∧
    isMember 0x04A55800 = false ∧ decodeOp 0x04A55800 = .ok .add ∧ vectorReady (withV 0 4 base) ∧ (withV 0 4 base).hart.pfx = none ∧
    (withV 0 4 base).hart.convoy = [] ∧ after false (fun _ => true) (exec (.vaddVV 3 1 2 0 0) (withV 0 4 base)) = true ∧
    encode (.vaddVV 3 1 2 0 0) = some 0x84304200 ∧ vecLegal (regs (withV 0 4 base)) (withV 0 4 base).hart.sc.sew 0x84304200 = true :=
  ⟨rfl, rfl, rfl, ⟨rfl, rfl, rfl, rfl, rfl, (vector_ready 0 4).1.2.2.2.2.2.1, rfl, rfl, rfl, rfl, rfl⟩, rfl, rfl, rfl, rfl, by decide +kernel, by decide +kernel, by decide +kernel, by decide +kernel, by decide +kernel, by decide +kernel, by decide +kernel,
    rfl, rfl, (vector_ready 0 4).1, rfl, rfl, by decide +kernel, rfl, by decide +kernel⟩

/-- One row and one column of a tile of si8, or of another type. -/
def tiled (ty : BitVec 4) (k : BitVec 10) : State :=
  onHart (fun h => { h with tm := 1, tn := 1, tk := k, tkType := ty }) (withX [(5, window), (6, 64)] (withV 4 4 base))

theorem tiled_ready (ty : BitVec 4) (k : BitVec 10) : vectorReady (tiled ty k) ∧ (tiled ty k).hart.convoy = [] ∧ copyOf (tiled ty k) = none :=
  ⟨⟨rfl, rfl, rfl, rfl, rfl, (vector_ready 4 4).1.2.2.2.2.2.1, rfl, rfl, rfl, rfl, rfl⟩, rfl, rfl⟩

theorem witness_TileResults : errorFree (tiled 0 1) ∧ vectorReady (tiled 0 1) ∧ (tiled 0 1).hart.convoy = [] ∧ (tiled 0 1).hart.vstart = 0 ∧
    (withV 0 4 base).hart.sc.sew = 0 ∧ (0x01004080 : Word).extractLsb' 32 32 = 0#32 ∧ (tiled 0 1).hart.held = false ∧
    (∀ acc : Access, (window + BitVec.ofNat 64 0 * x (tiled 0 1) 6).toNat % 1 = 0 ∧
      reaches (tiled 0 1) (x (tiled 0 1) 5 + BitVec.ofNat 64 0 * x (tiled 0 1) 6 + BitVec.ofNat 64 (1 * 0)) 1 acc (own 0) ∧ inMemory (tiled 0 1) (own 0) 1) ∧
    x (tiled 0 1) 0 = 0 ∧ (tiled 0 1).hart.sc.sew.toNat = 4 ∧ (x (tiled 0 1) 0).toNat + (vl (tiled 0 1) - 1) / 64 ≤ 127 ∧
    ((tiled 0 0).hart.tk.toNat + 31) / 32 ≤ (tiled 0 0).hart.vstart.toNat ∧ (tiled 0 256).hart.tk.toNat * sewBits (tiled 0 256).hart.tkType = 2048 ∧
    (tiled 0 256).hart.vstart.toNat < ((tiled 0 256).hart.tk.toNat + 31) / 32 ∧ (tiled 11 64).hart.tkType = 11 ∧ (tiled 11 64).hart.tk.toNat ≤ 64 ∧
    (tiled 14 32).hart.tkType = 14 ∧ vectorReady (tiled 11 64) ∧ copyOf (tiled 11 64) = none ∧
    (∀ acc : Access, (x (tiled 0 1) 5).toNat % 4 = 0 ∧ reaches (tiled 0 1) (x (tiled 0 1) 5 + BitVec.ofNat 64 0 * x (tiled 0 1) 6 + BitVec.ofNat 64 (0 * (32 / 8))) 4 acc (own 0)) := by
  refine ⟨noErrors rfl rfl, (tiled_ready 0 1).1, rfl, rfl, rfl, by decide, rfl, fun acc => ⟨by decide +kernel, ?_, rfl, by decide +kernel, by decide +kernel⟩, rfl,
    by decide +kernel, by decide +kernel, by decide +kernel, by decide +kernel, by decide +kernel, rfl, by decide +kernel, rfl, (tiled_ready 11 64).1, rfl,
    fun acc => ⟨by decide +kernel, ?_⟩⟩ <;>
    exact reaches_own rfl (by decide +kernel) (by decide +kernel) (by decide +kernel) (by decide +kernel) (by decide +kernel)

/-- A strand with a copy in flight. -/
def copying : State := onHart (fun h => { h with copies := [{ fill := false, dst := 0, src := 0, len := 8, cmdNo := 0, level := .u }] }) base

theorem witness_FenceResults : settled base ∧ (2 : BitVec 3).getLsbD 0 = false ∧ (1 : BitVec 3).getLsbD 0 = true ∧ base.hart.copies = [] ∧
    base.hart.piers = [] ∧ (∀ j, (base.hart.slotAt j).emitted = [] ∧ (base.hart.slotAt j).awaits = []) ∧ settled copying ∧ copying.hart.copies ≠ [] :=
  ⟨base_settled, by decide, by decide, rfl, rfl, by decide +kernel, (settles rfl rfl rfl rfl rfl), by decide +kernel⟩

/-- A strand about to execute a pfx, with a word behind it. -/
def prefixed (v : Word32) : State := coded [0, v] base

theorem witness_PrefixResults :
    (fetchWord ((prefixed 0).hart.sc.pc + 4) (prefixed 0) = .ok 0 (prefixed 0) ∧ ∃ e, decodeOp 0 = .error e) ∧
    (fetchWord ((prefixed 0x04A55800).hart.sc.pc + 4) (prefixed 0x04A55800) = .ok 0x04A55800 (prefixed 0x04A55800) ∧ decodeOp 0x04A55800 = .ok .add) ∧
    (prefixed 0).hart.queue = [] ∧ decodeOp 0xFE080000 = .ok .pfx ∧ decodeOp 0x7C000005 = .ok .trap ∧ decodeOp 0x5D800011 = .ok .beq ∧
    decodeOp 0x84108200 = .ok .vaddVV ∧ decodeOp 0xB4314F40 = .ok .vcvt ∧ 14 ≤ ((0xB4314F40 : Word32).extractLsb' 8 4).toNat ∧
    (31 : BitVec 6).toNat < regs (prefixed 0x84108200) ∧ regs (prefixed 0x84108200) ≤ (32 : BitVec 6).toNat ∧
    (7 : BitVec 6).toNat < 8 ∧ 8 ≤ (8 : BitVec 6).toNat ∧ (3 : BitVec 6).toNat < 4 ∧ 4 ≤ (4 : BitVec 6).toNat ∧
    (let s := onHart (fun h => { h with pfx := some { word := 0x3F#6 ++ 1#1 ++ 5#5 ++ 0#1 ++ 0#6 ++ 0#13, fromEret := false } }) base
     ready s ∧ s.onMgmt = none ∧ s.hart.convoy = [] ∧ decide (x s 5 ≠ 0) ≠ ((1 : BitVec 1) == 1)) ∧
    (let s := onHart (fun h => { h with pfx := some { word := 0x3F#6 ++ 0#1 ++ 5#5 ++ 0#1 ++ 0#6 ++ 0#13, fromEret := false } }) base
     ready s ∧ decide (x s 5 ≠ 0) = ((0 : BitVec 1) == 1)) :=
  ⟨⟨fetch_own (pa := own 0x104) rfl ⟨rfl, by decide +kernel, by decide +kernel⟩ (by decide +kernel), _, rfl⟩,
    ⟨fetch_own (pa := own 0x104) rfl ⟨rfl, by decide +kernel, by decide +kernel⟩ (by decide +kernel), rfl⟩, rfl, rfl, rfl, rfl, rfl, rfl, by decide, by decide +kernel, by decide +kernel, by decide, by decide, by decide, by decide,
    ⟨⟨by decide +kernel, rfl, rfl⟩, rfl, rfl, by decide +kernel⟩, ⟨by decide +kernel, rfl, rfl⟩, by decide +kernel⟩


/-- Registers 5 and 6 as given, and words in the strand's own store from its base on. -/
def holding (a b : Word) (l : List Word) : State :=
  let s := withX [(5, a), (6, b)] (withV 0 4 base)
  { s with mem := (List.range l.length).foldl (fun m i => writeLE m (own 0 + 8 * i) (l.getD i 0).toNat 8) s.mem }

/-- A record of a read stream over four ui32 elements in slot 7, and a write stream's. -/
def readRecord : List Word := [window + 0x1000, 4, 4, 0, 0, 0x705, 0, 0]
def writeRecord : List Word := [window + 0x1000, 4, 4, 0, 0, 0x71E, 0, 0]

def recordOf (l : List Word) : BitVec 512 := BitVec.ofNat 512 ((l.map (·.toNat)).foldr (fun w n => w + 2 ^ 64 * n) 0)

theorem holding_ready (a b : Word) (l : List Word) : streamsReady (holding a b l) :=
  ⟨rfl, rfl, rfl, rfl, rfl, rfl, rfl, rfl, rfl, rfl, (by decide +kernel : ∀ j : BitVec 3, (base.hart.slotAt j).emitted = [] ∧
    (base.hart.slotAt j).drains = []), withX_bad _ _ rfl, rfl, rfl, rfl, rfl, rfl⟩

theorem holding_wide (a b : Word) (l : List Word) : streamsReady (withV 0 8 (holding a b l)) :=
  ⟨rfl, rfl, rfl, rfl, rfl, rfl, rfl, rfl, rfl, rfl, (by decide +kernel : ∀ j : BitVec 3, (base.hart.slotAt j).emitted = [] ∧
    (base.hart.slotAt j).drains = []), (holding_ready a b l).2.2.2.2.2.2.2.2.2.2.2.1, rfl, rfl, rfl, rfl, rfl⟩

/-- Streams bound to v31 in slot 7, and to v1 in slot 0. -/
def bound (l : List Word) (pos : BitVec 48) (s : State) : State :=
  let sl : StreamSlot := { StreamSlot.free with bound := true, record := recordOf l, vl := 4, pos := pos }
  onHart (fun h => { h with slots := (h.slots.set 7 { sl with reg := 31 }).set 0 { sl with reg := 1 } }) s

theorem bound_ready (l : List Word) (pos : BitVec 48) : streamsReady (bound l pos (withV 5 4 base)) := by
  refine ⟨rfl, rfl, rfl, rfl, rfl, rfl, rfl, rfl, rfl, rfl, fun j => ?_, rfl, rfl, rfl, rfl, rfl, rfl⟩
  have : j = 0 ∨ j = 7 ∨ (j ≠ 0 ∧ j ≠ 7) := by decide +revert
  rcases this with rfl | rfl | h
  · exact ⟨rfl, rfl⟩
  · exact ⟨rfl, rfl⟩
  · have e : (bound l pos (withV 5 4 base)).hart.slotAt j = base.hart.slotAt j := by
      have h0 : j.toNat ≠ 0 := fun e => h.1 (BitVec.eq_of_toNat_eq e)
      have h7 : j.toNat ≠ 7 := fun e => h.2 (BitVec.eq_of_toNat_eq e)
      simp [bound, onHart, withV, Hart.slotAt, Ne.symm h0, Ne.symm h7]
    rw [e]
    exact (by decide +kernel : ∀ j : BitVec 3, (base.hart.slotAt j).emitted = [] ∧ (base.hart.slotAt j).drains = []) j

/-- R325: the reserved fields, the format, the alignment and the unused fields of the record of a ui32 read stream in slot 7. -/
def legalRecord (r : BitVec 512) : Prop :=
  (r.extractLsb' 112 16 = 0#16 ∧ r.extractLsb' 332 52 = 0#52 ∧ r.extractLsb' 384 128 = 0#128) ∧ (r.extractLsb' 328 3 = 7#3 ∧ r.extractLsb' 320 4 = 5#4) ∧
    (r.getLsbD 324 = false ∧ r.getLsbD 331 = false) ∧ (r.extractLsb' 192 64 = 0#64 ∧ r.extractLsb' 256 64 = 0#64) ∧
    (r.extractLsb' 128 64).toNat % 4 = 0 ∧ (r.extractLsb' 0 64).toNat % 4 = 0

theorem readRecord_legal : legalRecord (recordOf readRecord) := by
  unfold legalRecord
  decide +kernel

theorem witness_StreamResults :
    (let s := holding window 0 readRecord
     streamsReady s ∧ errorFree s ∧ (31 : BitVec 6).toNat < regs s ∧ (x s 5).toNat % 64 = 0 ∧
       (∀ k < 8, reaches s (x s 5 + BitVec.ofNat 64 (8 * k)) 8 .r (own (8 * k)) ∧ inMemory s (own (8 * k)) 8) ∧
       BitVec.ofNat 512 (∑ k ∈ Finset.range 8, loaded s (own (8 * k)) 8 * 2 ^ (64 * k)) = recordOf readRecord ∧
       legalRecord (recordOf readRecord) ∧ (s.hart.slotAt 7).bound = false ∧ (∀ j, (s.hart.slotAt j).bound = false)) ∧
    (let s := holding (window + 1) 0 readRecord
     streamsReady s ∧ (x s 5).toNat % 64 ≠ 0 ∧ s.hart.pfx = none) ∧
    (let s := bound readRecord 0 (withV 5 4 base)
     streamsReady s ∧ errorFree s ∧ (s.hart.slotAt 7).bound = true ∧ (s.hart.slotAt 7).reg = 31 ∧ (s.hart.slotAt 7).record.getLsbD 324 = false ∧
       (∀ i, (s.hart.slotAt i).bound = true → (s.hart.slotAt i).reg = 31 → i = 7) ∧ (∀ q, (s.hart.slotAt q).bound = true → (s.hart.slotAt q).reg ≠ 2) ∧
       (∀ i, i = (0 : BitVec 3) ∨ i = 7 → (s.hart.slotAt i).bound = true ∧ (s.hart.slotAt i).record.getLsbD 324 = false ∧
         (s.hart.slotAt i).record.extractLsb' 320 4 = (5 : BitVec 4) ∧ (s.hart.slotAt i).fetched = [] ∧
         (s.hart.slotAt i).pos.toNat ≤ ((s.hart.slotAt i).record.extractLsb' 64 48).toNat ∧
         ∀ q, (s.hart.slotAt i).pos.toNat ≤ q → q < ((s.hart.slotAt i).record.extractLsb' 64 48).toNat →
           reaches s ((s.hart.slotAt i).elemVa q) 4 .r (own (0x1000 + 4 * q)) ∧ inMemory s (own (0x1000 + 4 * q)) 4) ∧
       0 < vl s ∧ s.hart.vstart = 0 ∧ s.hart.sc.sew = 5 ∧ copyOf s = none) ∧
    (let s := bound writeRecord 3 (withV 5 0 base)
     streamsReady s ∧ vl s = 0 ∧ (s.hart.slotAt 7).record.getLsbD 324 = true ∧ s.hart.copies = [] ∧ s.hart.piers = [] ∧ s.hart.cq.length < 64 ∧
       (s.hart.slotAt 7).awaits = [] ∧ (s.hart.slotAt 7).denied = none) := by
  refine ⟨⟨holding_ready _ _ _, noErrors rfl rfl, by decide +kernel, by decide +kernel, fun k hk => ⟨?_, ?_⟩, by decide +kernel, readRecord_legal, rfl,
      by decide +kernel⟩,
    ⟨holding_ready _ _ _, by decide +kernel, rfl⟩,
    ⟨bound_ready _ _, noErrors rfl rfl, rfl, rfl, by decide +kernel, by decide +kernel, by decide +kernel, ?_, by decide +kernel, rfl, rfl, rfl⟩,
    ⟨bound_ready _ _, rfl, by decide +kernel, rfl, rfl, by decide +kernel, rfl, rfl⟩⟩
  · have : k = 0 ∨ k = 1 ∨ k = 2 ∨ k = 3 ∨ k = 4 ∨ k = 5 ∨ k = 6 ∨ k = 7 := by omega
    rcases this with rfl | rfl | rfl | rfl | rfl | rfl | rfl | rfl <;>
      exact reaches_own rfl (by decide +kernel) (by decide +kernel) (by decide +kernel) (by decide +kernel) (by decide +kernel)
  · have : k = 0 ∨ k = 1 ∨ k = 2 ∨ k = 3 ∨ k = 4 ∨ k = 5 ∨ k = 6 ∨ k = 7 := by omega
    rcases this with rfl | rfl | rfl | rfl | rfl | rfl | rfl | rfl <;> exact ⟨rfl, by decide +kernel, by decide +kernel⟩
  · rintro i hi
    have : ∀ q, q < 4 → q = 0 ∨ q = 1 ∨ q = 2 ∨ q = 3 := by omega
    rcases hi with rfl | rfl <;> refine ⟨rfl, by decide +kernel, by decide +kernel, rfl, by decide +kernel, fun q _ hq => ?_⟩ <;>
      rcases this q hq with rfl | rfl | rfl | rfl <;>
      exact ⟨reaches_own rfl (by decide +kernel) (by decide +kernel) (by decide +kernel) (by decide +kernel) (by decide +kernel),
        rfl, by decide +kernel, by decide +kernel⟩

theorem witness_CopyResults :
    (let s := holding window (window + 0x1000) []
     streamsReady s ∧ errorFree s ∧ s.onMgmt = none ∧ recordsHeld s.hart < 64 ∧ (vl s * width s + 7) / 8 = 4 ∧
       (∀ k < 4, (reaches s (x s 6 + BitVec.ofNat 64 k) 1 .r (own (0x1000 + k)) ∧ inMemory s (own (0x1000 + k)) 1) ∧
         reaches s (x s 5 + BitVec.ofNat 64 k) 1 .w (own k) ∧ paModule (own k) = s.module ∧ paControl (own k) = false)) ∧
    (let s := withV 0 8 (holding window (window + 0x1000) [])
     streamsReady s ∧ (vl s * width s + 7) / 8 = 8 ∧ (x s 5).toNat % 8 = 0 ∧ (∀ k < 8, inWindowRegion (x s 5 + BitVec.ofNat 64 k) = true ∧
       windowPa s (x s 5 + BitVec.ofNat 64 k) = some (own k)) ∧
       ∀ k < 8, reaches s (x s 6 + BitVec.ofNat 64 k) 1 .r (own (0x1000 + k)) ∧ inMemory s (own (0x1000 + k)) 1) ∧
    (let s := withV 0 8 (holding (window + 4) 0 [])
     (x s 5).toNat % 8 ≠ 0) ∧
    (let s := withV 0 8 (holding 0x1000 0x4000000000000000 [])
     inWindowRegion (x s 5) = false ∧ ∀ t : State, t = { s with hart := t.hart } → t.hart.level = s.hart.level → t.hart.slot = s.hart.slot →
       t.hart.held = s.hart.held → t.hart.written = s.hart.written → translate (x s 6 + BitVec.ofNat 64 0) 1 .r t = .error (.trap causePAGER 0x4000000000000000) t) ∧
    (vl (withV 0 0 base) * width (withV 0 0 base) + 7) / 8 = 0 ∧
    (let s := onHart (fun h => { h with cq := [1] }) base
     settled s ∧ s.hart.cq ≠ []) ∧
    settled base ∧ base.hart.cqBad = 0 ∧ base.hart.cq = [] ∧ recordsHeld base.hart = 0 ∧ settled copying ∧ copying.hart.cq = [] ∧ 0 < recordsHeld copying.hart := by
  refine ⟨⟨holding_ready _ _ _, noErrors rfl rfl, rfl, by decide +kernel, by decide +kernel, fun k hk => ?_⟩,
    ⟨holding_wide _ _ _, by decide +kernel, by decide +kernel, by decide +kernel, fun k hk => ?_⟩,
    by decide +kernel, ⟨by decide +kernel, ?_⟩, by decide +kernel, ⟨(settles rfl rfl rfl rfl rfl), by decide⟩, base_settled, rfl, rfl, rfl, (settles rfl rfl rfl rfl rfl), rfl,
    by decide +kernel⟩
  · have : k = 0 ∨ k = 1 ∨ k = 2 ∨ k = 3 := by omega
    rcases this with rfl | rfl | rfl | rfl <;>
      exact ⟨⟨reaches_own rfl (by decide +kernel) (by decide +kernel) (by decide +kernel) (by decide +kernel) (by decide +kernel),
          rfl, by decide +kernel, by decide +kernel⟩,
        reaches_own rfl (by decide +kernel) (by decide +kernel) (by decide +kernel) (by decide +kernel) (by decide +kernel), by decide +kernel, by decide +kernel⟩
  · have : k = 0 ∨ k = 1 ∨ k = 2 ∨ k = 3 ∨ k = 4 ∨ k = 5 ∨ k = 6 ∨ k = 7 := by omega
    rcases this with rfl | rfl | rfl | rfl | rfl | rfl | rfl | rfl <;>
      exact ⟨reaches_own rfl (by decide +kernel) (by decide +kernel) (by decide +kernel) (by decide +kernel) (by decide +kernel),
        rfl, by decide +kernel, by decide +kernel⟩
  · intro t ht hl hs hh hw
    have hm : t.onMgmt = none := by rw [ht]; rfl
    have hv : x (withV 0 8 (holding 0x1000 0x4000000000000000 [])) 6 + BitVec.ofNat 64 0 = 0x4000000000000000 := by decide +kernel
    rw [hv]
    unfold Machine.translate
    rw [bind_ok (get_apply t)]
    simp [hm, Access.pageCause]
    rfl

/-- A strand at S of the small machine, its parameters in s5 and s6. -/
def walking (a b : Word) (cells : List (Nat × Nat)) : State :=
  let s := atS (withX [(5, a), (6, b)] (withV 7 1 base))
  { s with mem := cells.foldl (fun m c => writeLE m c.1 c.2 8) s.mem }

theorem readLE_same {f g : Nat → Byte} (n : Nat) : ∀ a, (∀ i < n, f (a + i) = g (a + i)) → readLE f a n = readLE g a n := by
  induction n with
  | zero => intros; rfl
  | succ n ih =>
    intro a h
    have e : readLE f (a + 1) n = readLE g (a + 1) n := ih (a + 1) fun i hi => by
      have := h (i + 1) (by omega)
      rwa [← Nat.add_assoc, Nat.add_right_comm] at this
    unfold readLE
    rw [e, show f a = g a from h 0 (by omega)]

theorem beside_reads {s t : State} {pa n : Nat} (hb : besideStore s t) (hh : s.hart.held = false) (hw : s.hart.written = []) (hd : s.bad = [])
    (hp : pa + n ≤ selfStore s ∨ selfStore s + 524288 ≤ pa) :
    anyBad t pa n = false ∧ (∀ i < n, t.peek (pa + i) = memGet s.mem (pa + i)) ∧ ∀ i < n, memGet t.mem (pa + i) = memGet s.mem (pa + i) := by
  obtain ⟨-, -, -, h3, h4, h5⟩ := hb
  have hm : ∀ i < n, memGet t.mem (pa + i) = memGet s.mem (pa + i) := fun i hi => (h5 _ (by omega)).1
  refine ⟨?_, fun i hi => ?_, hm⟩
  · simp only [anyBad, List.any_eq_false, decide_eq_true_eq]
    intro q hq ⟨h6, h7⟩
    have := (h5 q (by omega)).2.1 hq
    rw [hd] at this
    exact absurd this (by simp)
  · simp [State.peek, olderRecords, h3, h4, hh, hw, recGet, firstRecord, hm i hi]

theorem readPte_beside {s t : State} {j : BitVec 16} {va : Word} {l pa : Nat} (hb : besideStore s t) (hh : s.hart.held = false)
    (hw : s.hart.written = []) (hd : s.bad = []) (hk : s.keep = false) (hp : pa + 8 ≤ selfStore s ∨ selfStore s + 524288 ≤ pa)
    (hm : paModule pa = s.module) (hi : bitsAt pa 0 38 + 8 ≤ reserveBase) :
    readPte j va l pa t = .ok (BitVec.ofNat 64 (readLE (memGet s.mem) pa 8)) t := by
  obtain ⟨h1, h2, -⟩ := beside_reads hb hh hw hd hp
  have hkt : t.keep = false := by rw [hb.1]; exact hk
  have hmt : t.module = s.module := by rw [hb.1]
  have hr : walkerRead va pa t = .ok (readLE (memGet s.mem) pa 8) t := by
    unfold walkerRead
    rw [bind_ok (get_apply t)]
    have h3 : inReserve t pa 8 = false := by
      simp only [inReserve, Bool.and_eq_false_imp, decide_eq_false_iff_not]
      intro _
      omega
    simp [hm, hmt, h1, h3, readLE_same 8 pa h2]
  have hf : (t.ptes.find? fun c => t.keep && c.jid == j && c.level.toNat == l && c.prefix_ == BitVec.ofNat 64 (va.toNat >>> levelShift l)) = none := by
    simp [hkt]
  unfold readPte
  rw [bind_ok (get_apply t)]
  simp only [hf]
  rw [bind_ok hr, bind_ok (modify_apply _ _), pure_apply]
  simp only [show ∀ b, ¬ (t.keep && b) = true from fun b => by simp [hkt]]
  rfl

theorem walking_reads {s : State} {va : Word} {n v : Nat} (hh : s.hart.held = false) (hw : s.hart.written = []) (hd : s.bad = [])
    (hk : s.keep = false) (ha : va.toNat % n = 0) (hv : va.toNat + n ≤ 2 ^ 30) (hl : s.hart.level = .s) (hr : s.ring.ptbase = 1)
    (hs : selfStore s = own 0) (hm : s.module = 0) (h0 : readLE (memGet s.mem) 0x20000 8 = 0x40001) (h1 : readLE (memGet s.mem) 0x40000 8 = 0x7F)
    (hx : (s.dies[(0 : Nat)]).available = true) (hn : 0 < n) 
    (hvv : ∀ k < (n + 7) / 8, readLE (memGet s.mem) (va.toNat + 8 * k) (min n 8) = v / 2 ^ (64 * k) % 2 ^ 64) : walkerReads s va n v := by
  have small : va.toNat < 2 ^ 30 := by omega
  have hp : va.toNat + n ≤ selfStore s ∨ selfStore s + 524288 ≤ va.toNat := .inl (by rw [hs]; exact Nat.le_trans hv (by decide))
  have z : ∀ k, 30 ≤ k → va.toNat >>> k = 0 := fun k h => by
    rw [Nat.shiftRight_eq_div_pow]
    exact Nat.div_eq_of_lt (Nat.lt_of_lt_of_le small (Nat.pow_le_pow_right (by decide) h))
  have hsm : paModule va.toNat = 0 := by rw [paModule, z 42 (by decide)]; rfl
  have hsp : paSpace1 va.toNat = false := Nat.testBit_lt_two_pow (Nat.lt_of_lt_of_le small (by decide))
  have key : ∀ (t : State) (c : PierCmd), besideStore s t → c.level = s.hart.level → engineAddr c va n t = .ok va.toNat t := by
    intro t c hb hc
    have e : t.ring = s.ring ∧ t.module = s.module := by rw [hb.1]; exact ⟨rfl, rfl⟩
    have r0 := @readPte_beside s t s.ring.jid va 0 0x20000 hb hh hw hd hk (.inl (by rw [hs]; decide)) (by rw [hm]; decide) (by decide)
    have r1 := @readPte_beside s t s.ring.jid va 1 0x40000 hb hh hw hd hk (.inl (by rw [hs]; decide)) (by rw [hm]; decide) (by decide)
    have i0 : bitsAt va.toNat (levelShift 0) (levelBits 0) = 0 := by rw [bitsAt, z _ (by decide)]; rfl
    have i1 : bitsAt va.toNat (levelShift 1) (levelBits 1) = 0 := by rw [bitsAt, z _ (by decide)]; rfl
    have c1 : canonical va = true := by
      have : va.extractLsb' 56 8 = 0#8 := by
        apply BitVec.eq_of_toNat_eq
        rw [BitVec.extractLsb'_toNat, z _ (by decide)]
        rfl
      simp [canonical, this]
    have c2 : inWindowRegion va = false := by
      have : va.extractLsb' 48 16 = 0#16 := by
        apply BitVec.eq_of_toNat_eq
        rw [BitVec.extractLsb'_toNat, z _ (by decide)]
        rfl
      simp [inWindowRegion, this]
    have m1 : va.toNat % 2 ^ levelShift 1 = va.toNat := by rw [show levelShift 1 = 30 from rfl, Nat.mod_eq_of_lt small]
    unfold engineAddr
    rw [bind_ok (get_apply t)]
    simp only [ha, c1, c2, hc, hl, e.1, e.2, hm, hr, ne_eq, not_true_eq_false, if_false, Bool.false_eq_true, Bool.not_true]
    have w1 : walkFrom s.ring.jid va .r false 3 1 0x40000 t = .ok (va.toNat, true) t := by
      unfold walkFrom
      rw [i1, bind_ok r1, h1]
      have : pteKind 1 (BitVec.ofNat 64 0x7F) = .leaf 0 := by decide +kernel
      simp [this, leafGrants, m1]
    have w0 : walkFrom s.ring.jid va .r false 4 0 0x20000 t = .ok (va.toNat, true) t := by
      unfold walkFrom
      rw [i0, bind_ok r0, h0]
      have : pteKind 0 (BitVec.ofNat 64 0x40001) = .next 0x40000 := by decide +kernel
      simp only [this]
      exact w1
    rw [show ((Level.s == Level.u) = false) from rfl, show (1 : BitVec 39).toNat <<< 17 = 0x20000 from by decide, bind_ok w0]
    simp [hsm, hsp]
  refine ⟨va.toNat, fun t c hb hc => ⟨key t c hb hc, fun e _ k hk => ?_⟩⟩
  have hp' : va.toNat + 8 * k + min n 8 ≤ selfStore s ∨ selfStore s + 524288 ≤ va.toNat + 8 * k :=
    .inl (by rw [hs]; exact Nat.le_trans (by omega : va.toNat + 8 * k + min n 8 ≤ 2 ^ 30 + 8) (by decide))
  obtain ⟨b1, -, b3⟩ := beside_reads hb hh hw hd hp'
  have e : t.module = s.module ∧ t.dies = s.dies := by rw [hb.1]; exact ⟨rfl, rfl⟩
  have hdie : (BitVec.ofNat 3 (va.toNat >>> 38)) = 0#3 := by
    rw [z 38 (by decide)]
  have s1 : spaceExists t va.toNat = true := by
    simp [spaceExists, e.1, e.2, hm, hsm, hsp, hdie, hx]
  have s2 : inReserve t va.toNat n = false := by
    have : bitsAt va.toNat 0 38 = va.toNat := Nat.mod_eq_of_lt (Nat.lt_of_lt_of_le small (by decide))
    simp only [inReserve, this, reserveBase, Bool.and_eq_false_imp, decide_eq_false_iff_not]
    intro _
    omega
  unfold engineRead
  rw [bind_ok (key t c hb hc), bind_ok (get_apply t)]
  simp only [s1, s2, b1, hc, hl]
  simp [readLE_same _ _ b3, hvv k (by omega)]

/-- One active pointer of 64 bits in v1, which links to a record that links to null, and walker parameters in s6. -/
def chasing (par : Word) : State :=
  onHart (fun h => h.setVr 1 0x100000) (walking 0 par [(0x100000, 0x100020), (0x100020, 0), (0x100028, 0x1122334455667788)])

theorem chasing_reads (par : Word) : walkerReads (chasing par) 0x100000 8 0x100020 ∧ walkerReads (chasing par) 0x100020 8 0 ∧
    walkerReads (chasing par) 0x100020 32 0x11223344556677880000000000000000 := by
  have e : (chasing par).mem = (chasing 0).mem := rfl
  refine ⟨?_, ?_, ?_⟩ <;>
    exact walking_reads rfl rfl rfl rfl (by decide) (by decide) rfl rfl (by decide +kernel : selfStore (chasing 0) = own 0) rfl
      (by rw [e]; decide +kernel) (by rw [e]; decide +kernel) rfl (by decide) (by rw [e]; decide +kernel)

/-- Two hops, no data line, results at 0x8000 of the store; one hop with the line; and no hop. -/
def chaseParams : List Word := [0x0000008000000002, 0x0000008000100001, 0x0000008000000000]

theorem witness_PierResults_chase : ∀ par ∈ chaseParams,
    vectorReady (chasing par) ∧ (chasing par).hart.held = false ∧ (chasing par).hart.convoy = [] ∧ recordsHeld (chasing par).hart < 64 ∧
    (chasing par).onMgmt = none ∧ (chasing par).hart.vstart = 0 ∧ (chasing par).hart.sc.sew = 7 ∧ (2 : BitVec 6).toNat < regs (chasing par) ∧
    memoryWf (chasing par) ∧ actives (chasing par) 0 false = [0] ∧ x (chasing par) 6 = par ∧ par.extractLsb' 21 3 = 0 ∧ par.extractLsb' 43 21 = 0 ∧
    (par.extractLsb' 8 12 : BitVec 12) = 0 ∧ (par.extractLsb' 24 19 : BitVec 19) = 0x8000 ∧ el (chasing par) 1 0 = 0x100000 := by
  intro par h
  simp only [chaseParams, List.mem_cons, List.not_mem_nil, or_false] at h
  rcases h with rfl | rfl | rfl <;>
    exact ⟨⟨rfl, rfl, rfl, rfl, rfl, by decide +kernel⟩, rfl, rfl, by decide +kernel, rfl, rfl, rfl, by decide +kernel, by unfold memoryWf; decide +kernel,
      by decide +kernel, rfl, by decide +kernel, by decide +kernel, by decide +kernel, by decide +kernel, by decide +kernel⟩

/-- A graph of two nodes with an edge from node 0 to node 1, and a walk of one hop from node 0. -/
def walkState : State :=
  walking window (window + 0x40) [(own 0, 0x110000), (own 8, 0x120000), (own 16, 2), (own 24, 0), (own 0x40, 7), (own 0x48, 0x100000),
    (own 0x50, 0x8000010001), (own 0x58, 0), (0x100000, 0), (0x110000, 0), (0x110008, 1), (0x120000, 1)]

theorem walkState_reads : walkerReads walkState 0x100000 4 0 ∧ walkerReads walkState 0x110000 8 0 ∧ walkerReads walkState 0x110008 8 1 ∧
    walkerReads walkState 0x120000 4 1 := by
  refine ⟨?_, ?_, ?_, ?_⟩ <;>
    exact walking_reads rfl rfl rfl rfl (by decide) (by decide) rfl rfl (by decide +kernel) rfl (by decide +kernel) (by decide +kernel) rfl (by decide)
      (by decide +kernel)

/-- R353, R354: the record of a graph of two nodes, and the parameters of one walk of one hop whose node numbers go to 0x8000 of the store. -/
def legalWalk (g p : BitVec 256) : Prop :=
  (g.extractLsb' 160 96 = 0 ∧ (g.extractLsb' 128 32).toNat = 2 ∧ p.extractLsb' 171 21 = 0 ∧ p.extractLsb' 224 32 = 0) ∧
    ((g.extractLsb' 0 64 : Word) = 0x110000 ∧ (g.extractLsb' 64 64 : Word) = 0x120000 ∧ (p.extractLsb' 64 64 : Word) = 0x100000) ∧
    (p.extractLsb' 128 16).toNat = 1 ∧ (p.extractLsb' 144 8).toNat = 1 ∧ (p.extractLsb' 152 19).toNat = 0x8000 ∧
    walkIndex (p.extractLsb' 0 64) 0 0 1 = 0

/-- Four words of a state's memory as one record. -/
def record256 (s : State) (pa : Nat) : BitVec 256 := BitVec.ofNat 256 (∑ k ∈ Finset.range 4, loaded s (pa + 8 * k) 8 * 2 ^ (64 * k))

theorem walkState_legal : legalWalk (record256 walkState (own 0)) (record256 walkState (own 0x40)) := by
  unfold legalWalk
  decide +kernel

theorem witness_PierResults_walk :
    let s := walkState
    streamsReady s ∧ errorFree s ∧ recordsHeld s.hart < 64 ∧ s.onMgmt = none ∧ memoryWf s ∧ (x s 5).toNat % 32 = 0 ∧ (x s 6).toNat % 32 = 0 ∧
      (∀ k < 4, (reaches s (x s 5 + BitVec.ofNat 64 (8 * k)) 8 .r (own (8 * k)) ∧ inMemory s (own (8 * k)) 8) ∧
        reaches s (x s 6 + BitVec.ofNat 64 (8 * k)) 8 .r (own (0x40 + 8 * k)) ∧ inMemory s (own (0x40 + 8 * k)) 8) ∧
      legalWalk (record256 s (own 0)) (record256 s (own 0x40)) := by
  refine ⟨⟨rfl, rfl, rfl, rfl, rfl, rfl, rfl, rfl, rfl, rfl, by decide +kernel⟩, noErrors rfl rfl, by decide +kernel, rfl,
    by unfold memoryWf; decide +kernel, by decide +kernel, by decide +kernel, fun k hk => ?_, walkState_legal⟩
  have : k = 0 ∨ k = 1 ∨ k = 2 ∨ k = 3 := by omega
  rcases this with rfl | rfl | rfl | rfl <;>
    exact ⟨⟨reaches_own rfl (by decide +kernel) (by decide +kernel) (by decide +kernel) (by decide +kernel) (by decide +kernel),
        rfl, by decide +kernel, by decide +kernel⟩,
      reaches_own rfl (by decide +kernel) (by decide +kernel) (by decide +kernel) (by decide +kernel) (by decide +kernel),
      rfl, by decide +kernel, by decide +kernel⟩

/-- Streams of an engine that lags: nothing asked for, a strip under way, a strip emitted, and a drain waiting, in four slots. -/
def streaming : State :=
  let sl : StreamSlot := { StreamSlot.free with bound := true, record := recordOf readRecord, vl := 2, reg := 1 }
  let w : StreamSlot := { StreamSlot.free with bound := true, record := recordOf writeRecord, vl := 2, reg := 2 }
  let b : Emitted := { index := 0, va := window + 0x1000, pa := own 0x1000, byte := 0x5A, full := false }
  let d : Drain := { cmdNo := 5, done := 2, strips := 0, frees := true }
  let put (v : Vector StreamSlot 8) : Vector StreamSlot 8 :=
    (((v.set 0 sl).set 1 { sl with fetched := [{ first := 0, count := 2, cells := [], bad := [] }] }).set 2 { w with emitted := [[b]] }).set 3 { w with drains := [d] }
  onHart (fun h => { h with slots := put h.slots, park := .stalled }) { base with lag := true }

/-- A walker of a chase of one hop at 0x100000, at an engine of its pointer's stack, before its admission. -/
def walkerOf : Walker :=
  { index := 0, engine := 0, hops := 0, ptr := 0x100000, out := 0x8000, admitted := false, phase := 1, o0 := 0, o1 := 0, written := 0, pending := [],
    finished := false, part := [] }

def chaseCmd (w : Walker) : PierCmd :=
  { kind := 4, cmdNo := 9, status := 0, done := 1, fva := 0, fidx := 0, param := 0x8000000001, graph := 0, walkers := [w], level := .s }

/-- The chasing strand with the command in flight, its engines lagging. -/
def lagging (w : Walker) : State := onHart (fun h => { h with piers := [chaseCmd w] }) { chasing 0 with lag := true }

theorem beside_refl (s : State) : besideStore s s := ⟨rfl, rfl, rfl, rfl, rfl, fun _ _ => ⟨rfl, Iff.rfl⟩⟩

theorem lagging_reads (w : Walker) : walkerReads (lagging w) 0x100000 8 0x100020 := by
  have e : (lagging w).mem = (chasing 0).mem := rfl
  exact walking_reads rfl rfl rfl rfl (by decide) (by decide) rfl rfl (by decide +kernel : selfStore (chasing 0) = own 0) rfl
    (by rw [e]; decide +kernel) (by rw [e]; decide +kernel) rfl (by decide) (by rw [e]; decide +kernel)

theorem witness_EngineEvents :
    (let s := streaming
     (s.hart.slotAt 0).bound = true ∧ (s.hart.slotAt 0).record.getLsbD 324 = false ∧ (s.hart.slotAt 0).fetched = [] ∧
       ((s.hart.slotAt 0).record.extractLsb' 64 48).toNat = 4 ∧ (s.hart.slotAt 0).vl = 2 ∧ sewBits ((s.hart.slotAt 0).record.extractLsb' 320 4) = 32 ∧ (s.hart.slotAt 1).fetched = [{ first := 0, count := 2, cells := [], bad := [] }] ∧
       (s.hart.slotAt 4).bound = false ∧ ((s.hart.slotAt 2).emitted.length = 1 ∧ ∀ l ∈ (s.hart.slotAt 2).emitted, ∀ b ∈ l, paModule b.pa = s.module) ∧
       (∃ d, (s.hart.slotAt 3).drains = [d] ∧ d.strips = 0 ∧ (s.hart.slotAt 3).awaits = []) ∧ recordsHeld s.hart < 64 ∧ s.hart.park = .stalled) ∧
    (let w := walkerOf
     findWalker (lagging w) 9 0 = some (chaseCmd w, w) ∧ w.admitted = false ∧ w.finished = false ∧
       engineStack 0 = (stackNext (lagging w) (chaseCmd w) w).getD (engineStack w.engine) ∧ engineUse (lagging w) 0 < 256) ∧
    (let w := { walkerOf with engine := 0x7F, admitted := true }
     findWalker (lagging w) 9 0 = some (chaseCmd w, w) ∧ stackNext (lagging w) (chaseCmd w) w = some (engineStack 0) ∧
       engineStack w.engine ≠ engineStack 0 ∧ engineUse (lagging w) 0 < 256) ∧
    (let w := { walkerOf with admitted := true }
     findWalker (lagging w) 9 0 = some (chaseCmd w, w) ∧ w.hops.toNat < ((chaseCmd w).param.extractLsb' 0 8).toNat ∧ w.ptr ≠ 0 ∧
       (lagging w).hart.remote = [] ∧ (lagging w).hart.eremote = [] ∧ w.part = [] ∧ stackNext (lagging w) (chaseCmd w) w = some (engineStack w.engine) ∧
       engineRead (chaseCmd w) w.engine (w.ptr + ((chaseCmd w).param.extractLsb' 8 12).setWidth 64) 8 0 (lagging w) = .ok 0x100020 (lagging w)) ∧
    (let w := { walkerOf with admitted := true, finished := true, pending := List.replicate 8 0x11 }
     findWalker (lagging w) 9 0 = some (chaseCmd w, w) ∧ (chaseCmd w).param.getLsbD 20 = false ∧ w.pending.length = 8 ∧
       w.out.toNat + w.written + 8 ≤ 524288 ∧ (lagging w).hart.held = false ∧ memoryWf (lagging w) ∧ (∀ y ∈ (chaseCmd w).walkers, y.index = 0 → y = w) ∧
       ((chaseCmd w).walkers.filter fun y => y.index == 0).length = 1) ∧
    (let w := { walkerOf with admitted := true, finished := true }
     (lagging w).hart.piers = [chaseCmd w] ∧ ∀ y ∈ (chaseCmd w).walkers, y.finished = true ∧ y.pending = []) := by
  refine ⟨⟨rfl, by decide +kernel, rfl, by decide +kernel, rfl, by decide +kernel, rfl, rfl, ⟨rfl, by decide +kernel⟩, ⟨_, rfl, rfl, rfl⟩, by decide +kernel, rfl⟩,
    ⟨rfl, rfl, rfl, by decide +kernel, by decide +kernel⟩, ⟨rfl, by decide +kernel, by decide, by decide +kernel⟩,
    ⟨rfl, by decide +kernel, by decide, rfl, rfl, rfl, by decide +kernel, ?_⟩,
    ⟨rfl, by decide +kernel, rfl, by decide, rfl, by unfold memoryWf; decide +kernel, ?_, by decide⟩, ⟨rfl, ?_⟩⟩
  · obtain ⟨pa, h⟩ := lagging_reads { walkerOf with admitted := true }
    have e : pa = 0x100000 := by
      have h1 := (h _ (chaseCmd { walkerOf with admitted := true }) (beside_refl _) rfl).1
      have h2 : engineAddr (chaseCmd { walkerOf with admitted := true }) 0x100000 8 (lagging { walkerOf with admitted := true }) = .ok 0x100000 _ := rfl
      exact (EStateM.Result.ok.inj (h1.symm.trans h2)).1
    have := (h _ (chaseCmd { walkerOf with admitted := true }) (beside_refl _) rfl).2 0 (by rw [e]; decide +kernel) 0 (by decide)
    exact this
  · simp [chaseCmd]
  · simp [chaseCmd, walkerOf]

/-- A fork at the pc whose target, seven words on, holds a join or another word; s5 counts and s6 is the grain. -/
def forking (count grain : Word) (target : Word32) : State :=
  let s := withX [(5, count), (6, grain)] (coded [0, 0, 0, 0, 0, 0, 0, target] base)
  s

theorem fetch_forking : (let s := forking 3 2 0xD4000000
     fetchWord (s.hart.sc.pc + (7 : BitVec 16).signExtend 64 * 4) s = .ok 0xD4000000 s) ∧ (let s := forking 0 2 0xD4000000
     fetchWord (s.hart.sc.pc + (7 : BitVec 16).signExtend 64 * 4) s = .ok 0xD4000000 s) ∧ (let s := forking 3 2 0
     fetchWord (s.hart.sc.pc + (7 : BitVec 16).signExtend 64 * 4) s = .ok 0 s) :=
  ⟨fetch_own (pa := own 0x11C) rfl ⟨rfl, by decide +kernel, by decide +kernel⟩ (by decide +kernel),
    fetch_own (pa := own 0x11C) rfl ⟨rfl, by decide +kernel, by decide +kernel⟩ (by decide +kernel),
    fetch_own (pa := own 0x11C) rfl ⟨rfl, by decide +kernel, by decide +kernel⟩ (by decide +kernel)⟩

theorem forking_ready (count grain : Word) (target : Word32) : ready (forking count grain target) ∧ (forking count grain target).hart.queue = [] :=
  ⟨⟨(by decide +kernel : ∀ r, queueWrites base.hart.queue r = false), rfl, withX_bad _ _ rfl⟩, rfl⟩

/-- A region of two chunks of which chunk 0 has started, forked by the strand at the pc. -/
def region2 (next : Nat) : Region :=
  { forkPc := 0x1000, joinPc := 0x1010, dReg := 5, aReg := 6, count := 2, grain := 1, total := 2, next := next, firstSeq := 0, firstSlot := 0, kflags := 0,
    image := base.hart, finals := [] }

/-- Chunk 0 in a state, and a younger chunk behind it, in a region of two chunks. -/
def inRegion (f g : Hart → Hart) : State :=
  let h := f { base.hart with held := true }
  let y := g { base.hart with held := true, slot := 1, seq := 1, chunk := 1 }
  { base with hart := h, ring := { base.ring with region := some (region2 2), chunks := [h, y] } }

/-- The last chunk of a region, alone in flight. -/
def lastChunk (f : Hart → Hart) : State :=
  let h := f { base.hart with held := true, slot := 1, seq := 1, chunk := 1 }
  { base with hart := h, ring := { base.ring with region := some (region2 2), chunks := [h] } }

theorem clear_base : enginesClear base.hart := ⟨rfl, rfl, rfl, by decide +kernel⟩

theorem witness_ForkResults :
    encode (.fork 5 6 7) = some 0xD0A60007 ∧ ready (forking 3 2 0xD4000000) ∧ (forking 3 2 0xD4000000).hart.queue = [] ∧
    x (forking 3 2 0xD4000000) 5 = 3 ∧ x (forking 3 2 0xD4000000) 6 = 2 ∧ x (forking 3 0 0) 6 = 0 ∧ x (forking 0 2 0xD4000000) 5 = 0 ∧
    (forking 3 2 0xD4000000).ring.region = none ∧ (forking 3 2 0xD4000000).ring.stepping = false ∧ (forking 3 2 0xD4000000).hart.held = false ∧
    enginesClear (forking 3 2 0xD4000000).hart ∧ (inRegion id id).ring.region ≠ none ∧ ready (inRegion id id) ∧ copying.hart.copies ≠ [] ∧
    base.hart.queue = [] ∧ base.hart.depth = 0 ∧ base.ring.region = none ∧ 0 < (onHart (fun h => { h with depth := 1 }) base).hart.depth ∧
    (inRegion id id).hart.depth = 0 ∧ enginesClear (inRegion id id).hart ∧
    (let s := onHart (fun h => { h with cq := [1] }) (lastChunk id)
     s.hart.cq ≠ [] ∧ s.hart.copies = [] ∧ s.hart.chunk + 1 = (region2 2).total) ∧
    (let s := onHart (fun h => { h with cq := [1] }) (inRegion id id)
     s.hart.cq ≠ [] ∧ s.hart.chunk + 1 ≠ (region2 2).total) ∧
    (inRegion id id).ring.active = 0 ∧ (asYounger base).ring.active ≠ 0 :=
  ⟨rfl, (forking_ready _ _ _).1, rfl, rfl, rfl, rfl, rfl, rfl, rfl, rfl,
    ⟨rfl, rfl, rfl, (by decide +kernel)⟩, (fun h => nomatch h), ⟨by decide +kernel, rfl, rfl⟩, (fun h => nomatch h), rfl, rfl, rfl, by decide, rfl,
    ⟨rfl, rfl, rfl, by decide +kernel⟩, ⟨(fun h => nomatch h), rfl, by decide +kernel⟩, ⟨(fun h => nomatch h), by decide +kernel⟩, rfl, by decide⟩

/-- A younger chunk that waits for s7, s8 predicted and read, with the older one's values final. -/
def awaitingIn : State :=
  inRegion (fun h => { h with state := .hold .join, sc := h.sc.put 8 1 }) fun h => { h with awaiting := 0x180, predicted := 0x100, readLive := 0x100 }

theorem witness_ChunkEvents :
    (let s := { base with ring := { base.ring with region := some (region2 1), chunks := [base.hart] } }
     s.onMgmt = none ∧ (region2 1).next < (region2 1).total ∧ s.ring.chunks.length < s.ring.size ∧ 0 < (region2 1).next) ∧
    (region2 2).total ≤ (region2 2).next ∧
    (∃ h, inSlot (inRegion id id) 1 1 h ∧ h.held = true) ∧
    (∃ h, inSlot (inRegion (fun h => { h with state := .hold .join }) fun h => { h with awaiting := 0x80 }) 1 1 h ∧ h.awaiting ≠ 0 ∧ h.queue = [] ∧
      h.predicted = 0) ∧
    (∃ h p, inSlot awaitingIn 1 1 h ∧ (chunksOf awaitingIn)[0]? = some p ∧ p.state = .hold .join ∧ p.awaiting = 0 ∧ h.held = true ∧ h.queue = [] ∧
      h.awaiting.getLsbD 8 = true ∧ h.predicted.getLsbD 8 = true ∧ h.readLive.getLsbD 8 = true ∧ h.liveVal[8] ≠ p.sc.x[8]) ∧
    (∃ h, inSlot (inRegion id fun h => { h with state := .squash }) 1 1 h ∧ h.state = .squash ∧ base.hart.inTrap ≤ (region2 2).image.inTrap) ∧
    (∀ r : HoldReason, let s := lastChunk fun h => { h with state := .hold r }
      s.onMgmt = none ∧ s.ring.active = 0 ∧ s.ring.chunks ≠ [] ∧ s.hart.state = .hold r ∧ s.hart.held = true ∧ s.hart.level = .u) ∧
    (∀ r : HoldReason, let s := lastChunk fun h => { h with state := .commit r }
      s.hart.held = true ∧ s.hart.queue = [] ∧ s.hart.awaiting = 0 ∧ s.ring.outbound.length + s.hart.stage.length ≤ 256 ∧
        s.ring.region = some (region2 2) ∧ s.hart.state = .commit r ∧ s.hart.chunk + 1 = (region2 2).total) ∧
    (let s := inRegion (fun h => { h with state := .commit .join }) id
     s.hart.state = .commit .join ∧ s.hart.chunk + 1 ≠ (region2 2).total ∧ ∃ u, (chunksOf s)[1]? = some u ∧ u.awaiting = 0) ∧
    (let s := lastChunk fun h => { h with state := .commit .join, awaiting := 1 }
     s.hart.awaiting ≠ 0 ∧ s.hart.state = .commit .join) := by
  refine ⟨⟨rfl, by decide, by decide +kernel, by decide⟩, by decide, ⟨_, ⟨rfl, by decide +kernel, rfl, rfl, ?_⟩, rfl⟩,
    ⟨_, ⟨rfl, by decide +kernel, rfl, rfl, ?_⟩, by decide, rfl, rfl⟩,
    ⟨_, _, ⟨rfl, by decide +kernel, rfl, rfl, ?_⟩, rfl, rfl, rfl, rfl, rfl, by decide, by decide, by decide, ?_⟩,
    ⟨_, ⟨rfl, by decide +kernel, rfl, rfl, ?_⟩, rfl, Nat.le_refl _⟩, fun r => ⟨rfl, rfl, (fun h => nomatch h), rfl, rfl, rfl⟩,
    fun r => ⟨rfl, rfl, rfl, (by decide +kernel : base.ring.outbound.length + base.hart.stage.length ≤ 256), rfl, rfl,
      rfl⟩,
    ⟨rfl, by decide +kernel, _, rfl, rfl⟩, ⟨by decide +kernel, rfl⟩⟩
  all_goals first
    | (intro k hk c hc
       have : k = 0 := by omega
       subst this
       cases hc
       exact (by decide : (0 : BitVec 3) ≠ 1))
    | decide +kernel

/-- A destination word of TYPE 5, module 0, actor 3, mailbox 4, and a size in 32-byte beats. -/
def destTo (beats : BitVec 3) : Word := beats.setWidth 64 <<< 50 ||| 0x1400000000 ||| 3 <<< 6 ||| 4

/-- s5 a destination and s6 an address of the strand's own store. -/
def sending (dest b : Word) : State := withX [(5, dest), (6, b)] base

/-- The oldest of no, the younger of two chunks, with its stage full. -/
def fullStage (s : State) : State :=
  let m : Message := { dest := 0, payload := [], time := 0, hdr := 0 }
  onHart (fun h => { h with stage := List.replicate 32 m }) s

/-- An outbound buffer of 256 messages. -/
def fullOut (s : State) : State :=
  let m : OutMsg := { msg := { dest := 0, payload := [], time := 0, hdr := 0 }, sent := false, waiting := true, refusals := 0, core := 0, rtag := 0 }
  onRing (fun r => { r with outbound := List.replicate 256 m }) s

def aMessage : Message := { dest := destTo 0, payload := List.replicate 32 0x5A, time := 9, hdr := 5 }

/-- An actor 3 of job 1 on ring 0 with mailbox 4 in a mode, and messages in it. -/
def actorWith (mode : BitVec 2) (phase : ActorPhase) (q sp : List Message) : Actor :=
  let b : Mailbox := { tag := 0, beats := 0, mode := 0, haddr := 0x2000, splog := 2, spbase := 0, sphead := 0, queue := [], spill := [] }
  { jid := 1, aid := 3, ring := 0, wid := 0, widShape := 0, prio := 2, phase := phase, ctxQueued := false, entryPc := 0x3000, stackTop := 0x8000,
    ptroot := 1, ctx := 0, ctxPages := 0, typeErr := 0, undeliv := 0, since := 0
    mbx := (Vector.replicate 32 b).set 4 { b with tag := 5, mode := mode, queue := q, spill := sp } }

/-- The actor resident on ring 0, running its strand or a handler. -/
def resident (a : Actor) : State :=
  let s := withX [(5, 4)] base
  { s with actors := [a], ring := { s.ring with resident := some (1, 3) } }

theorem witness_MessageResults :
    (let s := sending (destTo 0) 0
     ready s ∧ s.hart.queue = [] ∧ (x s 5).extractLsb' 53 11 = 0#11 ∧ (x s 5).getLsbD 5 = false ∧ (x s 5).extractLsb' 18 2 = 0#2 ∧
       (x s 5).extractLsb' 50 3 = 0#3 ∧ s.hart.held = false ∧ s.ring.outbound.length < 256) ∧
    (let s := sending (destTo 7) (window + 0x7FF00)
     (x s 6).toNat % 32 = 0 ∧ translate (x s 6) 256 .r s = .ok (own 0x7FF00, false) s ∧ selfStore s ≤ own 0x7FF00 ∧
       own 0x7FF00 + 256 ≤ selfStore s + 524288 ∧ inMemory s (own 0x7FF00) 256 ∧ (x s 5).extractLsb' 50 3 ≠ 0#3) ∧
    (let s := sending (destTo 7) (window + 0x7FF20)
     (x s 6).toNat % 32 = 0 ∧ translate (x s 6) 256 .r s = .ok (own 0x7FF20, false) s ∧ selfStore s + 524288 < own 0x7FF20 + 256) ∧
    ¬ (x (sending (1 <<< 53) 0) 5).extractLsb' 53 11 = 0#11 ∧ (x (sending (destTo 0) (window + 1)) 6).toNat % 32 ≠ 0 ∧
    (let s := fullOut (sending (destTo 0) 0)
     ready s ∧ s.hart.held = false ∧ ¬ s.ring.outbound.length < 256) ∧
    (let s := fullStage (asYounger (sending (destTo 0) 0))
     ready s ∧ s.hart.held = true ∧ ¬ s.hart.stage.length < 32 ∧ s.ring.active ≠ 0) ∧
    (let s := resident (actorWith 2 .entry [aMessage] [])
     settled s ∧ residentActor s = some (actorWith 2 .entry [aMessage] []) ∧ s.hart.handler = none ∧ (x s 5).toNat < 32 ∧
       ((actorWith 2 .entry [aMessage] []).box 4).mode = 2 ∧ ((actorWith 2 .entry [aMessage] []).box 4).queue = [aMessage] ∧ s.ring.region = none ∧
       enginesClear s.hart) ∧
    ((actorWith 2 .entry [] []).box 4).queue = [] ∧ ((actorWith 2 .entry [] []).box 4).spill = [] ∧ ((actorWith 1 .entry [] []).box 4).mode ≠ 2 ∧
    ((actorWith 1 .entry [] []).box 4).mode = 1 ∧ (∀ i, ((actorWith 2 .entry [] []).box i).mode ≠ 1) ∧
    (let s := onHart (fun h => { h with handler := some (4, aMessage), held := true }) (resident (actorWith 1 .handlers [] []))
     settled s ∧ residentActor s = some (actorWith 1 .handlers [] []) ∧ s.ring.region = none ∧ s.hart.depth = 0 ∧ enginesClear s.hart ∧ s.hart.handler ≠ none) ∧
    (let s := { (resident (actorWith 2 .entry [] [])) with ring := { (resident (actorWith 2 .entry [] [])).ring with region := some (region2 2) } }
     settled s ∧ s.ring.region ≠ none ∧ (∀ g, s.ring.region = some g → g.image.handler = none) ∧ s.onMgmt = none ∧ residentActor s = some (actorWith 2 .entry [] [])) ∧
    0 < (onHart (fun h => { h with depth := 1 }) (resident (actorWith 2 .entry [] []))).hart.depth := by
  refine ⟨⟨⟨by decide +kernel, rfl, rfl⟩, rfl, by decide +kernel, by decide +kernel, by decide +kernel, by decide +kernel, rfl, by decide +kernel⟩,
    ⟨by decide +kernel, rfl, by decide +kernel, by decide +kernel, ⟨rfl, by decide +kernel, by decide +kernel⟩, by decide +kernel⟩,
    ⟨by decide +kernel, rfl, by decide +kernel⟩, by decide +kernel, by decide +kernel, ⟨⟨by decide +kernel, rfl, rfl⟩, rfl, by decide +kernel⟩,
    ⟨⟨by decide +kernel, rfl, rfl⟩, rfl, by decide +kernel, by decide +kernel⟩,
    ⟨(settles rfl rfl rfl rfl rfl), rfl, rfl, by decide +kernel, rfl, rfl, rfl, ⟨rfl, rfl, rfl, by decide +kernel⟩⟩, rfl, rfl, by decide +kernel, rfl, by decide +kernel,
    ⟨⟨rfl, rfl, rfl, rfl, by decide +kernel⟩, rfl, rfl, rfl, ⟨rfl, rfl, rfl, by decide +kernel⟩, (fun h => nomatch h)⟩,
    ⟨(settles rfl rfl rfl rfl rfl), (fun h => nomatch h), (fun g h => by cases h; rfl), rfl, rfl⟩, by decide⟩

/-- Ring 0 EMPTY with an actor whose entry strand has not started, or running handlers between two of them. -/
def dispatching (a : Actor) (state : RingState) (res : Bool) : State :=
  { base with
    actors := [a], lag := true
    ring := { base.ring with state := state, chunks := [], resident := if res then some (1, 3) else none } }

/-- The outbound buffer of ring 0 holds messages. -/
def outbox (l : List OutMsg) (s : State) : State := onRing (fun r => { r with outbound := l }) s

def outOf (m : Message) : OutMsg := { msg := m, sent := false, waiting := false, refusals := 0, core := 0, rtag := 0 }

/-- A message to module 2. -/
def farMessage : Message := { aMessage with dest := destTo 0 ||| 2 <<< 20 }

theorem witness_MessageEvents :
    (let a := actorWith 1 .handlers [] []
     actorOf (resident a) 3 = some a ∧ aMessage.dest.getLsbD 5 = false ∧ (aMessage.dest.extractLsb' 6 14 : BitVec 14).setWidth 12 = 3#12 ∧ a.aid ≠ 4095 ∧
       (a.box 4).mode ≠ 0 ∧ (4 : BitVec 5) = aMessage.dest.extractLsb' 0 5 ∧ (a.box 4).tag = aMessage.dest.extractLsb' 34 16 ∧
       (a.box 4).beats = aMessage.dest.extractLsb' 50 3 ∧ ((resident a).ringAt a.ring).resident = some (a.jid, a.aid) ∧ (a.box 4).spill = [] ∧
       (a.box 4).queue.length < 64 ∧ (a.box 4).spill.length < 2 ^ (a.box 4).splog.toNat) ∧
    (actorWith 0 .handlers [] []).mbx[4].mode = 0 ∧
    ((actorWith 1 .handlers [] (List.replicate 4 aMessage)).box 4).spill.length = 2 ^ ((actorWith 1 .handlers [] []).box 4).splog.toNat ∧
    actorOf base 3 = none ∧ ((actorWith 1 .handlers [] [aMessage]).box 4).spill = [aMessage] ∧
    (base.ringAt (actorWith 1 .handlers [] []).ring).resident ≠ some (1, 3) ∧
    (let s := outbox [outOf aMessage, outOf aMessage, outOf farMessage] (resident (actorWith 1 .handlers [] []))
     ((s.ringAt 0).outbound[0]? = some (outOf aMessage)) ∧ aMessage.dest.extractLsb' 20 14 = s.module ∧
       ((s.ringAt 0).outbound[1]? = some (outOf aMessage)) ∧ farMessage.dest.extractLsb' 20 14 ≠ s.module ∧
       (s.ringAt 0).outbound[2]? = some (outOf farMessage) ∧ aMessage.dest.extractLsb' 0 34 ≠ farMessage.dest.extractLsb' 0 34 ∧
       (s.ringAt 0).outbound[3]? = none ∧ (s.ringAt 0).outbound ≠ [] ∧ (base.ringAt 0).outbound = [] ∧
       (match offerHere s { aMessage with time := ringTime s 0 0 } with | .accepted _ => true | _ => false) = true) ∧
    (2 : BitVec 14) ∈ ({ base with present := [0, 2] } : State).present ∧ (farMessage.dest.extractLsb' 20 14 : BitVec 14).toNat < 8192 ∧
    (let s := outbox [outOf aMessage] (resident (actorWith 1 .handlers (List.replicate 64 aMessage) (List.replicate 4 aMessage)))
     (match offerHere s { aMessage with time := ringTime s 0 0 } with | .refused => true | _ => false) = true) ∧
    (let a := actorWith 2 .entry [] []
     let s := dispatching a .empty false
     s.onMgmt = none ∧ s.ring.halted = false ∧ s.ring.unavailable = false ∧ s.ring.absent = false ∧ s.ring.chunks = [] ∧ s.ring.state = .empty ∧ s.ring.resident = none ∧
       s.ring.reshapePend = false ∧ s.actors = [a] ∧ a.ring = s.cur ∧ a.phase = .entry ∧ s.jobs = []) ∧
    (let a := actorWith 1 .handlers [aMessage] []
     let s := dispatching a .running true
     s.ring.state = .running ∧ s.ring.inEntry = false ∧ s.ring.region = none ∧ s.ring.stepping = false ∧ s.lag = true ∧ residentActor s = some a ∧
       s.ring.resident = some (a.jid, a.aid) ∧ (a.box 4).mode = 1 ∧ (a.box 4).queue = [aMessage] ∧
       ∀ k : BitVec 5, k.toNat < 4 → (a.box k).mode ≠ 1 ∨ (a.box k).queue = [] ∧ (a.box k).spill = []) ∧
    (base.ringAt 5).resident = none ∧
    (let s := resident (actorWith 2 .entry [] [])
     (s.ringAt 0).resident ≠ none ∧ (s.ringAt 0).state = .running ∧ (s.ringAt 0).halted = false ∧ (s.ringAt 0).chunks ≠ []) := by
  refine ⟨⟨rfl, by decide +kernel, by decide +kernel, by decide +kernel, by decide +kernel, by decide +kernel, by decide +kernel, by decide +kernel, rfl, rfl, by decide +kernel,
      by decide +kernel⟩, rfl, rfl, rfl, rfl, by decide +kernel,
    ⟨rfl, by decide +kernel, rfl, by decide +kernel, rfl, by decide +kernel, rfl, (fun h => nomatch h), rfl, rfl⟩, by decide, by decide +kernel, rfl,
    ⟨rfl, rfl, rfl, rfl, rfl, rfl, rfl, rfl, rfl, rfl, rfl, rfl⟩, ⟨rfl, rfl, rfl, rfl, rfl, rfl, rfl, rfl, rfl, by decide +kernel⟩, rfl,
    ⟨by decide +kernel, by decide +kernel, rfl, (fun h => nomatch h)⟩⟩

/-- A strand at S on ring 0 whose s5 is a context address and s6 names ring 1 and the pages, with cells in memory. -/
def ctxState (r : Ring) (v : Word) (cells : List (Nat × Nat)) : State :=
  let s := withX [(5, 0x100000), (6, v)] { (atS base) with rings := (atS base).rings.set 1 r }
  { s with mem := cells.foldl (fun m c => writeLE m c.1 c.2 8) s.mem }

/-- The head of a context of version 1 with no message and no walker: its length, W and VLMAX, and two registers. -/
def ctxHeadCells : List (Nat × Nat) :=
  [(0x100000, 1), (0x100008, 0x56000), (0x100010, 7), (0x100018, 0x0800_0000_2000), (0x100040, 4), (0x1000C0, 0x4000), (0x100108, 0x1234), (0x1001F8, 0x5678)]

def saving : State := ctxState (ringIn .stopped) 0x56001 []
def loading : State := ctxState (ringIn .empty) 0x56041 ctxHeadCells

theorem witness_ContextResults_save : settled saving ∧ saving.hart.level ≠ .u ∧ saving.hart.held = false ∧ saving.onMgmt = none ∧
    saving.ring.active < saving.ring.chunks.length ∧ memoryWf saving ∧ (x saving 6).extractLsb' 7 5 = 0#5 ∧ (x saving 6).extractLsb' 32 32 = 0#32 ∧
    (x saving 5).toNat % 4096 = 0 ∧ (x saving 5).toNat < 2 ^ 56 ∧ (x saving 5).toNat.testBit 41 = false ∧ (x saving 6).extractLsb' 0 6 ≠ saving.cur ∧
    (x saving 6).extractLsb' 0 6 = 1#6 ∧ paModule (x saving 5).toNat = saving.module ∧ (saving.ringAt 1).halted = false ∧
    (saving.ringAt 1).state = .stopped ∧ (saving.ringAt 1).region = none ∧ (saving.ringAt 1).resident = none ∧ (saving.ringAt 1).chunks ≠ [] ∧
    (keystoneOf saving 1).remote = [] ∧ (keystoneOf saving 1).vremote = [] ∧ (keystoneOf saving 1).stage = [] ∧ (saving.ringAt 1).outbound = [] ∧
    ((x saving 6).extractLsb' 12 20 : BitVec 20).toNat = 0x56 ∧ physAllowed saving 0x100000 0x56000 .w = true ∧
    ((x (ctxState (ringIn .stopped) 0x55041 []) 6).extractLsb' 12 20 : BitVec 20).toNat < 0x56 ∧
    (x (ctxState (ringIn .stopped) 0x55041 []) 6).getLsbD 6 = true :=
  ⟨(settles rfl rfl rfl rfl rfl), by decide +kernel, rfl, rfl, by decide +kernel, by unfold memoryWf; decide +kernel, by decide +kernel, by decide +kernel, by decide +kernel, by decide +kernel,
      by decide +kernel, by decide +kernel, by decide +kernel, by decide +kernel, rfl, rfl, rfl, rfl, (fun h => nomatch h), rfl, rfl, rfl,
      rfl, by decide +kernel, by decide +kernel, by decide +kernel, by decide +kernel⟩

theorem witness_ContextResults_engines : (keystoneOf saving 1).awaiting = 0 ∧ (keystoneOf saving 1).inError = false ∧ saving.bad = [] ∧
    (∀ a ∈ saving.actors, a.driven = false) ∧ enginesClear (keystoneOf saving 1) ∧
    ∀ j, ((keystoneOf saving 1).slotAt j).awaits = [] ∧ ((keystoneOf saving 1).slotAt j).emitted = [] ∧ ((keystoneOf saving 1).slotAt j).fetched = [] :=
  ⟨rfl, by decide +kernel, rfl, (by decide +kernel), ⟨rfl, rfl, rfl, by decide +kernel⟩, by decide +kernel⟩

theorem witness_ContextResults_load : settled loading ∧ memoryWf loading ∧ (loading.ringAt 1).state = .empty ∧ (loading.ringAt 1).reshapePend = false ∧
    (memGet loading.mem 0x100002).getLsbD 0 = false ∧ ctxWord (ctxState (ringIn .empty) 0x56041 []) 0x100000 0 % 2 ^ 16 ≠ 1 :=
  ⟨(settles rfl rfl rfl rfl rfl), by unfold memoryWf; decide +kernel, rfl, rfl, by decide +kernel, by decide +kernel⟩

theorem witness_ContextResults_length : anyBad loading 0x100000 (ctxWord loading 0x100000 8) = false ∧ ctxWord loading 0x100000 8 = 0x56000 :=
  ⟨rfl, by decide +kernel⟩

theorem memGet_above {m : List Host.Cell} {q : Nat} (h : ∀ c ∈ m, c.1 < q) : memGet m q = 0 := by
  induction m with
  | nil => rfl
  | cons c t ih =>
    have h1 := h c (List.mem_cons_self ..)
    unfold memGet
    rw [if_neg (by omega), if_neg (by omega)]
    exact ih fun d hd => h d (List.mem_cons_of_mem _ hd)

/-- The bytes of the context. -/
def loadingByte (o : Nat) : Byte := memGet loading.mem (0x100000 + o)

theorem loadingByte_far {o : Nat} (h : 0x200 ≤ o) : loadingByte o = 0 := by
  have a : ∀ c ∈ loading.mem, c.1 < 0x100200 := by decide +kernel
  exact memGet_above fun c hc => by have := a c hc; omega

theorem loadingZero_far {o n : Nat} (h : 0x200 ≤ o) : imgZero loadingByte o n = true := by
  simp only [imgZero, List.all_eq_true, List.mem_range, beq_iff_eq]
  exact fun i _ => loadingByte_far (by omega)

theorem loadingNum_far (n : Nat) : ∀ {o : Nat}, 0x200 ≤ o → imgNum loadingByte o n = 0 := by
  induction n with
  | zero => intros; rfl
  | succ n ih =>
    intro o h
    have e : readLE loadingByte (o + 1) n = 0 := ih (by omega)
    unfold imgNum readLE
    rw [e, loadingByte_far h]
    rfl

theorem loading_head : ctxHead loadingByte =
    { infork := false, gang := false, nreg := 0, kstart := false, len := 0x56000, jid := 7, aid := 0, w := 0x2000, vlmax := 0x800, stcnt := 0, ocnt := 0,
      qcnt := 0, pcmd := 0, pwlk := 0, tf := 0, cmdNo := 0, cqcnt := 0 } := by decide +kernel

theorem loading_low : imgNum loadingByte 0 2 = 1 ∧ (imgWord loadingByte 0).extractLsb' 21 43 = 0#43 ∧ (imgWord loadingByte 0x10).extractLsb' 28 36 = 0#36 ∧
    imgZero loadingByte 0x2C 4 = true ∧ (imgWord loadingByte 0x38).extractLsb' 23 41 = 0#41 ∧ imgZero loadingByte 0xE0 0x28 = true ∧
    imgNum loadingByte 0x48 1 = 0 := by
  refine ⟨?_, ?_, ?_, ?_, ?_, ?_, ?_⟩ <;> decide +kernel

theorem witness_ContextResults_admitted : viewRing loading 1 (fun u => ctxRefused u loadingByte (ctxHead loadingByte) 0x56) = false := by
  rw [loading_head]
  obtain ⟨h1, h2, h3, h4, h5, h6, h7⟩ := loading_low
  have w : ∀ o, 0x200 ≤ o → imgWord loadingByte o = 0 := fun o h => by rw [imgWord, loadingNum_far _ h]; rfl
  have m : ∀ k, imgNum loadingByte (0x200 + 32 * k) 8 = 0 := fun k => loadingNum_far 8 (by omega)
  have m1 : ∀ k, imgWord loadingByte (0x200 + 32 * k) = 0 := fun k => w _ (by omega)
  have m2 : ∀ k, imgWord loadingByte (0x218 + 32 * k) = 0 := fun k => w _ (by omega)
  have s1 : ∀ j, imgNum loadingByte (0x600 + 128 * j + 0x40) 8 = 0 := fun j => loadingNum_far 8 (by omega)
  have s2 : ∀ j n, imgZero loadingByte (0x600 + 128 * j + 0x4E) n = true := fun j n => loadingZero_far (by omega)
  have s3 : ∀ j n, imgZero loadingByte (0x600 + 128 * j + 0x54) n = true := fun j n => loadingZero_far (by omega)
  have z : ∀ o n, 0x200 ≤ o → imgZero loadingByte o n = true := fun o n h => loadingZero_far h
  have v : vlmaxOf (turnTo loading 1 0).ring 0 0 = 0x2000 := by decide +kernel
  have g : regBytes (turnTo loading 1 0).ring.gang 0 = 0x2000 := by decide +kernel
  have zz : ctxZeros loadingByte
      { infork := false, gang := false, nreg := 0, kstart := false, len := 0x56000, jid := 7, aid := 0, w := 0x2000, vlmax := 0x800, stcnt := 0, ocnt := 0,
        qcnt := 0, pcmd := 0, pwlk := 0, tf := 0, cmdNo := 0, cqcnt := 0 } = true := by
    simp only [ctxZeros, h2, h3, h4, h5, h6, m1, m2, s1, s2, s3, z 0xE00 _ (by decide), z 0x1000 _ (by decide), z 0x9C00 _ (by decide)]
    rw [z (0xA00 + 16 * 0) _ (by decide), z (0x36000 + vregCount 0 * 0x2000) _ (by omega)]
    decide +kernel
  unfold viewRing
  simp only [ctxRefused, h1, h7, m, zz]
  simp only [show (BitVec.ofNat 4 0) = (0 : BitVec 4) from rfl, v, g]
  decide +kernel

theorem witness_AsyncAndDebug :
    (let s := onRing (fun r => { r with ppre := true, pact := true, preSource := 1, preSrc := 9 }) base
     s.onMgmt = none ∧ s.ring.state = .running ∧ s.ring.halted = false ∧ s.ring.chunks ≠ [] ∧ s.ring.active = 0 ∧ s.hart.queue = [] ∧ s.hart.remote = [] ∧
       (∀ d, s.hart.state ≠ .hold (.trap d)) ∧ s.hart.level = .u ∧ s.ring.ppre = true) ∧
    (let s := onRing (fun r => { r with ptmo := true, ie := true }) (atS base)
     (∀ d, s.hart.state ≠ .hold (.trap d)) ∧ s.ring.ie = true ∧ s.ring.ppre = false ∧ s.ring.ptmo = true) ∧
    (let s := onHart (fun h => { h with park := .wfi }) (onRing (fun r => { r with pact := true }) (atS base))
     s.hart.park = .wfi ∧ s.hart.level = .s ∧ s.ring.ie = false ∧ s.ring.pact = true) ∧
    (base.ring.ppre = false ∧ base.ring.pact = false ∧ base.ring.ptmo = false ∧ base.hart.park ≠ .wfi) ∧
    (let s := base.modMgmt 0 fun m => { m with dbgHalt := 1 }
     (s.mgmtAt 0).dbgHalt.getLsbD 0 = true ∧ (base.mgmtAt 0).dbgHalt.getLsbD 0 = false ∧ (base.mgmtAt 1).dbgHalt.getLsbD 0 = false) ∧
    (let s := onRing (fun r => { r with stepped := some 0x2000 }) base
     s.onMgmt = none ∧ s.ring.active = 0 ∧ s.ring.chunks ≠ [] ∧ s.hart.queue = [] ∧ s.hart.remote = [] ∧ s.hart.park = .running ∧
       s.ring.stepped = some 0x2000 ∧ s.ring.halted = false ∧ s.bad = []) ∧ base.ring.stepped = none := by
  refine ⟨⟨rfl, rfl, rfl, (fun h => nomatch h), rfl, rfl, rfl, (fun d h => nomatch h), rfl, rfl⟩, ⟨(fun d h => nomatch h), rfl, rfl, rfl⟩, ⟨rfl, rfl, rfl, rfl⟩,
    ⟨rfl, rfl, rfl, (fun h => nomatch h)⟩, ⟨by decide +kernel, by decide +kernel, by decide +kernel⟩,
    ⟨rfl, rfl, (fun h => nomatch h), rfl, rfl, rfl, rfl, rfl, rfl⟩, rfl⟩

/-- A request of core 0 for the last line of die 1's home memory, and one of its own die. -/
def sliceReq (die : BitVec 3) : SliceReq := { die := die, off := 0x3FFFFFFFA0, write := true, whole := false, near := false, victim := 3 }

theorem witness_MemorySystemEvents :
    (sliceReq 0).die = (0 : BitVec 9).extractLsb' 6 3 ∧ (sliceReq 1).die ≠ (0 : BitVec 9).extractLsb' 6 3 ∧ base.permits = [] ∧
    (let key : BitVec 5 := BitVec.ofNat 5 ((sliceReq 0).off.toNat / 128 % 31)
     let s : State := { base with permits := [(0, key, 64), (0, 31, 256)] }
     (∃ p, s.permits.find? (fun p => p.1 == 0 && p.2.1 == key) = some p ∧ 64 ≤ p.2.2) ∧
       ∃ p, s.permits.find? (fun p => p.1 == 0 && p.2.1 == 31) = some p ∧ 256 ≤ p.2.2) ∧
    base.lines = [] ∧ own 8 ∉ base.full ∧ (∀ w ∈ base.permitWait, w.1 ≠ 0) ∧
    (let s : State := { base with permits := [(0, 31, 256)], permitWait := [(1, sliceReq 1), (0, sliceReq 1)] }
     s.permitWait = [(1, sliceReq 1)] ++ (0, sliceReq 1) :: [] ∧ (1 : BitVec 9) ≠ 0 ∧ (sliceReq 1).die ≠ (0 : BitVec 9).extractLsb' 6 3 ∧
       ∃ p, s.permits.find? (fun p => p.1 == 0 && p.2.1 == 31) = some p ∧ p.2.2 ≤ 256) ∧
    (let w : Waiter := { pa := 0x20000000008, ring := 0, slot := 0, take := true }
     let s := onHart (fun h => { h with park := .ldsync }) { base with waiters := [w], full := [own 8] }
     own 8 ∈ s.full ∧ s.onMgmt = none ∧ s.ring.active < s.ring.chunks.length ∧ s.waiters = [w] ∧ w.ring = s.cur ∧ w.slot = s.hart.slot ∧
       s.hart.park = .ldsync) := by
  refine ⟨by decide, by decide, rfl, ⟨⟨_, rfl, by decide⟩, ⟨_, rfl, by decide⟩⟩, rfl, by decide +kernel, (fun w h => nomatch h),
    ⟨rfl, by decide, by decide, _, rfl, by decide⟩, ⟨by decide +kernel, rfl, by decide +kernel, rfl, rfl, rfl, rfl⟩⟩

/-- A die that holds, owes and has lent tokens. -/
def onDie (d : BitVec 3) (f : Die → Die) (l : List PowerMsg) : State :=
  { base with dies := base.dies.set d.toNat (f (base.die d)) d.isLt, power := l }

/-- A lender left with what it wants, one left with less, a die count half a nanosecond on its way, and one ahead of the reference. -/
def powerWitness : Prop :=
  (let x := (onDie 1 (fun x => { x with held := 520, wanted := 300 }) []).die 1
   let m := x.held - (base.mgmtAt 0).pwrFloor
   max (base.mgmtAt 0).pwrFloor.toNat (min (base.mgmtAt 0).pwrCeil.toNat x.wanted.toNat) ≤ (x.held - m).toNat) ∧
    (let x := (onDie 1 (fun x => { x with held := 520, wanted := 1023 }) []).die 1
     let m := x.held - (base.mgmtAt 0).pwrFloor
     (x.held - m).toNat < max (base.mgmtAt 0).pwrFloor.toNat (min (base.mgmtAt 0).pwrCeil.toNat x.wanted.toNat) ∧ x.available = true ∧ x.lent = 0 ∧
       x.loans = [] ∧ x.recalls = [] ∧ m ≠ 0) ∧
    (let s := { onDie 1 (fun x => { x with half := some true }) [] with reference := 9 }
     (s.die 1).half = some true ∧ (s.die 1).count < s.reference ∧ (s.die 2).half ≠ some true ∧ (s.die 2).count < s.reference) ∧
    (let s := onDie 1 (fun x => { x with count := 9 }) []
     s.reference < (s.die 1).count ∧ (s.die 2).count = s.reference) ∧
    (systemRoot base = base.module ∧ systemRoot { base with present := [0, 2], module := 2 } ≠ 2) ∧
    ((1, 2, 3) ∈ ({ base with retireDue := [(1, 2, 3)] } : State).retireDue ∧ (1, 2, 3) ∉ base.retireDue)

theorem powerWitness_holds : powerWitness := by
  unfold powerWitness
  decide +kernel

theorem witness_PowerEvents :
    ((onDie 1 (fun x => { x with held := 520 }) [.borrow 0 1 1023]).power = [.borrow 0 1 1023] ∧
      ((onDie 1 (fun x => { x with held := 520 }) []).die 1).owed = 0 ∧ ((onDie 1 (fun x => { x with held := 520 }) []).die 1).asking = none ∧
      (base.mgmtAt 0).pwrFloor < ((onDie 1 (fun x => { x with held := 520 }) []).die 1).held) ∧
    ((onDie 1 (fun x => { x with held := 300 }) []).die 1).held ≤ (base.mgmtAt 0).pwrFloor ∧
    (let x := (onDie 1 (fun x => { x with wanted := 520, held := 420, asking := some 2 }) [.grant 0 1 100]).die 1
     max (base.mgmtAt 0).pwrFloor.toNat (min (base.mgmtAt 0).pwrCeil.toNat x.wanted.toNat) = (x.held + (100 : BitVec 10)).toNat) ∧
    (let x := (onDie 1 (fun x => { x with grants := [(0, 100)], owed := 100, held := 520 }) [.recall 0 1 1023]).die 1
     x.grants = [(0, 100)] ∧ (1023 : BitVec 10) ≠ 0 ∧ (100 : BitVec 10) ≠ 0) ∧ (base.die 1).grants = [] ∧
    (let x := (onDie 1 (fun x => { x with denies := 6, wanted := 500, asking := some 0 }) [.deny 0 1]).die 1
     x.lent = 0 ∧ x.denies = 6 ∧ x.held.toNat < max (base.mgmtAt 0).pwrFloor.toNat (min (base.mgmtAt 0).pwrCeil.toNat x.wanted.toNat)) ∧
    (let s := onDie 1 (fun x => { x with denies := 5, wanted := 500, asking := some 7 }) [.deny 7 1]
     (s.die 1).denies ≠ 6 ∧ (s.die 1).denies ≠ 7 ∧ (s.die (1 + 2 + (s.die 1).denies)).available = true ∧ 1 + 2 + (s.die 1).denies ≠ 1) ∧
    ((base.die 1).available = true ∧ (base.die 1).held.toNat < max (base.mgmtAt 0).pwrFloor.toNat (min (base.mgmtAt 0).pwrCeil.toNat (1023 : BitVec 10).toNat) ∧
      (base.die 1).lent = 0 ∧ (base.die 1).asking = none ∧ (base.die 1).resting = false ∧ (base.die 1).held < (base.mgmtAt 0).pwrCeil ∧
      (base.die (1 + 1)).available = true) ∧
    (let x := (onDie 1 (fun x => { x with lent := 50, held := 370, loans := [(2, 50)] }) []).die 1
     x.lent ≠ 0 ∧ x.recalls = [] ∧ x.loans = [(2, x.lent)]) ∧
    powerWitness ∧
    (((0x01A4 : Word) ||| 0x01A4_0000).extractLsb' 0 10 : BitVec 10).toNat ≤ 420 ∧ 420 ≤ (((0x01A4 : Word) ||| 0x01A4_0000).extractLsb' 16 10 : BitVec 10).toNat ∧
    420 < (((0x01A5 : Word)).extractLsb' 0 10 : BitVec 10).toNat ∧ ((onDie 1 (fun x => { x with target := some 3 }) []).die 1).target = some 3 ∧
    (base.die 1).target = none := by
  refine ⟨⟨rfl, ?_, ?_, ?_⟩, ?_, ?_, ⟨?_, ?_, ?_⟩, ?_, ⟨?_, ?_, ?_⟩, ⟨?_, ?_, ?_, ?_⟩, ⟨?_, ?_, ?_, ?_, ?_, ?_, ?_⟩, ⟨?_, ?_, ?_⟩, powerWitness_holds, ?_, ?_, ?_, ?_, ?_⟩ <;>
    decide +kernel

/-- Link 2 in a state. -/
def linked (f : Link → Link) : State := base.modLink 2 fun l => f { l with up := true, recov := false, failed := false }

/-- A frame with nothing in it. -/
def bareFrame (seq : BitVec 32) : Frame :=
  { slots := List.replicate 16 0, fseq := seq, ackseq := 0, kidx := 0, valid := 0, nak := true, kready := true, retire0 := true, retire1 := false,
    tag0 := 0, tag1 := 0, credit := 0, crc := 0 }

/-- It with its CRC, and with another. -/
def emptyFrame (seq : BitVec 32) : Frame := { bareFrame seq with crc := crc32 (bareFrame seq).body }
def badFrame : Frame := { bareFrame 0 with crc := crc32 (bareFrame 0).body + 1 }

theorem bv_ne_succ (c : BitVec 32) : c ≠ c + 1 := by
  intro h
  bv_omega

theorem body_crc (f : Frame) (c : BitVec 32) : ({ f with crc := c } : Frame).body = f.body := by
  unfold Frame.body
  rfl

theorem bad_crc (f : Frame) : crc32 ({ f with crc := crc32 f.body + 1 } : Frame).body ≠ crc32 f.body + 1 := by
  rw [body_crc]
  exact bv_ne_succ _

theorem good_crc (f : Frame) : crc32 ({ f with crc := crc32 f.body } : Frame).body = crc32 f.body := by
  rw [body_crc]

theorem witness_ControlAndLinks :
    base.ctl.Pairwise (fun p q => p.1 < q.1) ∧ memoryWf base ∧ (0x3FF < 0x400 ∧ 0x3FFF < 0x4000 ∧ 0xFFF < 0x1000 ∧ 0x23FF < 0x2400 ∧ 8 < 9 ∧ 0x7FFFF < 0x80000) ∧
    (0x40000018 ≤ 8 * 0x8000003 ∧ 8 * 0x8000003 < 0x41000000) ∧ (1 : BitVec 56).toNat % 8 ≠ 0 ∧
    ((base.link 2).up = false ∧ (base.link 2).recov = false) ∧
    (((linked id).link 2).up = true ∧ ((linked id).link 2).recov = false ∧ ((linked id).link 2).failed = false ∧ ((linked id).link 2).resend = [] ∧
      ((linked id).link 2).kept.length < 128 ∧ ¬ 2 ^ 31 ≤ ((linked id).link 2).keyUse + 1 ∧ ((linked id).link 2).failures < 15) ∧
    2 ^ 31 ≤ ((linked fun l => { l with keyUse := 2 ^ 31 - 1 }).link 2).keyUse + 1 ∧
    128 ≤ ((linked fun l => { l with kept := List.replicate 128 (emptyFrame 0) }).link 2).kept.length ∧
    ((linked fun l => { l with resend := [emptyFrame 0] }).link 2).resend = [emptyFrame 0] ∧
    15 ≤ ((linked fun l => { l with failures := 15 }).link 2).failures ∧
    crc32 badFrame.body ≠ badFrame.crc ∧ (∀ n, crc32 (emptyFrame n).body = (emptyFrame n).crc) ∧
    (let l := (linked fun l => { l with rxSeq := 6 }).link 2
     ((emptyFrame 6).fseq - l.rxSeq).toInt ≤ 0 ∧ 0 < ((emptyFrame 8).fseq - l.rxSeq).toInt ∧ (emptyFrame 8).fseq ≠ l.rxSeq + 1 ∧
       (emptyFrame 7).fseq = l.rxSeq + 1 ∧ (emptyFrame 7).valid = 0 ∧ l.rxFlits = [] ∧ (emptyFrame 7).kready = true ∧
       tagPasses 2 l (emptyFrame 7) 0 = true ∧ tagPasses 2 l (emptyFrame 7) 1 = true ∧ tagPasses 2 l { emptyFrame 7 with valid := 1 } 0 = false) ∧
    (let l := (linked fun l => { l with rxSeq := 6, failures := 15 }).link 2
     l.failures = 15 ∧ l.up = true ∧ (emptyFrame 8).fseq ≠ l.rxSeq + 1 ∧ (emptyFrame 7).fseq = l.rxSeq + 1) ∧
    (let s := (base.modLink 2 fun l => { l with recov := true, up := false }).modLink 3 fun l => { l with up := true }
     (s.link 2).recov = true ∧ (s.link 2).kept = [] ∧ linkUp s 3 = true ∧
       ∀ k < 18, linkUp s k = true → queuedFlits s 3 ≤ queuedFlits s k ∧ (k < 3 → queuedFlits s 3 < queuedFlits s k)) ∧
    (let l := (linked fun l => { l with txKeys := #v[some 4, some 5], ksel := 0 }).link 2
     l.txKeys[(l.ksel + 1).toNat] = some 5 ∧ l.txKeys[l.ksel.toNat] = some 4) ∧
    ((base.modLink 2 fun l => { l with recov := true }).link 2).recov = true ∧ ((linked fun l => { l with rot := true }).link 2).rot = true ∧
    ((linked id).link 2).rot = false ∧ (18 : BitVec 5).toNat = 18 := by
  refine ⟨by decide +kernel, base_memory, by decide, by decide, by decide, ⟨by decide +kernel, by decide +kernel⟩,
    ⟨by decide +kernel, by decide +kernel, by decide +kernel, rfl, by decide +kernel, by decide +kernel, by decide +kernel⟩, by decide +kernel, ?_, rfl, by decide +kernel, ?_, fun n => good_crc (bareFrame n),
    ⟨by decide +kernel, by decide +kernel, by decide +kernel, by decide +kernel, rfl, rfl, rfl, by decide, by decide, by decide⟩,
    ⟨rfl, rfl, by decide, by decide⟩, ⟨by decide +kernel, by decide +kernel, by decide +kernel, by decide +kernel⟩, ⟨rfl, rfl⟩, by decide +kernel, by decide +kernel, by decide +kernel, by decide⟩
  · show 128 ≤ (List.replicate 128 (emptyFrame 0)).length
    simp
  · exact bad_crc _

/-- Die 0's access table and the table of port 3 of abutment die 0 grant job 1 all of die 0's memory. -/
def portTable : Nat := 2 ^ 41 + 2 ^ 31 + 0x60300000 + 0x2000 * 3
def grantedState : State := { base with ctl := base.ctl ++ [(portTable, (0x1001F : Word)), (portTable + 16, (0x4000000000 : Word))] }

/-- A request of module 2, ring 5, job 1, by port 3. -/
def request (kind : BitVec 4) (l : List Byte) : Packet :=
  { kind := kind, tc := 1, ord := true, resp := false, dmod := 0, smod := 2, sring := 5, upath := 6, slow := false, age := 0, jid := 1, pseq := 9,
    status := 0, rtag := 77, payload := l, time := 0 }

def addr8 (pa : Nat) : List Byte := (List.range 8).map fun i => BitVec.ofNat 8 (pa / 256 ^ i)

theorem granted_all : granted grantedState portTable 1 2 5 0x123450 64 true true false ∧
    granted grantedState (2 ^ 41 + 2 ^ 31 + 0x41000000) 1 2 5 0x123450 64 true true false :=
  ⟨⟨0, by decide, by decide +kernel⟩, ⟨0, by decide, by decide +kernel⟩⟩

theorem not_granted : ¬ granted base portTable 1 2 5 0x123450 64 true false false ∧ ¬ granted base portTable 1 2 5 0x123450 64 false true false := by
  have h : ∀ e < 256, lookupKey base.ctl (portTable + 32 * e + 8 * 0) = none := by decide +kernel
  constructor <;>
  · rintro ⟨e, he, h1, -⟩
    simp only [] at h1
    rw [h e he] at h1
    exact absurd h1 (by decide)

theorem witness_PacketResults_requests : grantedState.bad = [] ∧ (request 0 []).resp = false ∧ (request 0 []).exempt = false ∧ (request 0 []).tc ≠ 0 ∧ memoryWf grantedState ∧ grantedState.ctl.Pairwise (fun a b => a.1 < b.1) ∧ 0x123450 < 2 ^ 56 ∧
    paModule 0x123450 = grantedState.module ∧ Nat.testBit 0x123450 41 = false ∧ (grantedState.die (BitVec.ofNat 3 (0x123450 / 2 ^ 38))).available = true ∧
    ((request 0 []).upath.extractLsb' 1 4 : BitVec 4).toNat = 3 ∧ ((request 0 []).upath.extractLsb' 0 1 : BitVec 1).toNat = 0 ∧
    0x123450 % 2 ^ 38 + 64 ≤ 0x3FAB800000 ∧ anyBad grantedState 0x123450 64 = false ∧
    anyBad { grantedState with bad := [0x123451] } 0x123450 64 = true ∧ memoryWf base ∧ base.ctl.Pairwise (fun a b => a.1 < b.1) ∧
    (request 0 (addr8 0x123450 ++ [64])).payload = (List.range 8).map (fun i => BitVec.ofNat 8 (0x123450 / 256 ^ i)) ++ [BitVec.ofNat 8 64] := by
  refine ⟨rfl, rfl, rfl, by decide, by unfold memoryWf; decide +kernel, by decide +kernel, by decide, by decide +kernel, by decide +kernel, by decide +kernel,
    by decide +kernel, by decide +kernel, by decide, rfl, by decide +kernel, base_memory, by decide +kernel, rfl⟩

/-- Port 3's table grants the request, and the table of the slice group does not. -/
def enteredState : State := { base with ctl := [(portTable, (0x1001F : Word)), (portTable + 16, (0x4000000000 : Word))] }

theorem witness_PacketResults_enters : granted enteredState portTable 1 2 5 0x123450 64 true true false ∧
    ¬ granted enteredState (2 ^ 41 + 2 ^ 31 + 0x41000000) 1 2 5 0x123450 64 true true false := by
  refine ⟨⟨0, by decide, by decide +kernel⟩, ?_⟩
  have h : ∀ e < 256, lookupKey enteredState.ctl (2 ^ 41 + 2 ^ 31 + 0x41000000 + 32 * e + 8 * 0) = none := by decide +kernel
  rintro ⟨e, he, h1, -⟩
  simp only [] at h1
  rw [h e he] at h1
  exact absurd h1 (by decide)

/-- A sent message whose packet is open. -/
def awaitingReply : State :=
  let p : Packet := { request 6 (addr8 farMessage.dest.toNat ++ addr8 farMessage.hdr.toNat ++ farMessage.payload) with sring := 0, smod := 0, dmod := 2 }
  outbox [{ outOf farMessage with sent := true, rtag := 77 }]
    { base with flows := [{ sring := 0, dmod := 2, jid := 1, tc := 1, pseq := 1, upath := 0, lastTime := 0, open_ := [p], defl := false, slowUntil := 0 }] }

/-- A strip stream that awaits a response, and a core that awaits one. -/
def awaitingStrip : State :=
  let sl : StreamSlot := { StreamSlot.free with bound := true, record := recordOf writeRecord, awaits := [(77, 5, 0x1000)], denied := some (9, 0x07, 0) }
  onHart (fun h => { h with slots := h.slots.set 2 sl, remote := [{ rtag := 77, write := false, pa := 0, reply := none }] }) base

theorem witness_PacketResults_responses :
    6 ≤ ({ request 1 [] with status := 6 } : Packet).status.toNat ∧ (request 1 []).status.toNat < 6 ∧
    (let s := awaitingReply
     ∃ f q, s.flows = [f] ∧ f.open_ = [q] ∧ q.rtag = (request 7 []).rtag ∧ (s.ringAt q.sring).outbound = [{ outOf farMessage with sent := true, rtag := 77 }] ∧
       q.payload = (List.range 8).map (fun i => BitVec.ofNat 8 (farMessage.dest.toNat / 256 ^ i)) ++
         (List.range 8).map (fun i => BitVec.ofNat 8 (farMessage.hdr.toNat / 256 ^ i)) ++ farMessage.payload ∧
       (match offerBack s farMessage with | .absent => true | _ => false) = true) ∧
    (awaitingStrip.hart.slotAt 2).awaits = [((request 15 []).rtag, 5, 0x1000)] ∧ (awaitingStrip.hart.slotAt 3).awaits = [] ∧
    awaitingStrip.hart.remote[0]? = some { rtag := 77, write := false, pa := 0, reply := none } := by
  refine ⟨by decide, by decide, ⟨_, _, rfl, rfl, rfl, rfl, rfl, rfl⟩, rfl, rfl, rfl⟩

/-- Switch L1 of die 0 with a request in a buffer, and link 3 up, in a span of modules 0 and 2. -/
def forwarding (p : Packet) : State :=
  let s : State := { base with present := [0, 2], links := base.links.map fun l => { l with up := true } }
  s.modSwitch (.l1 0) fun w => { w with buf := [{ port := 4, chan := 2, time := 0, pkt := p }] }

/-- A switch with one packet in a buffer, in a span of modules 0 and 2 whose links are up, or not. -/
def holdingPacket (w : SwitchId) (port : BitVec 5) (p : Packet) (up : Bool) : State :=
  let s : State := { base with present := [0, 2], links := base.links.map fun l => { l with up := up } }
  s.modSwitch w fun x => { x with buf := [{ port := port, chan := 2, time := 0, pkt := p }] }

theorem witness_ControlPackets_reference : State.reset.joined = false ∧ State.reset.ring.state = .empty ∧ base.ring.state ≠ .empty := by decide +kernel

-- a request for memory behind the die switch goes on at the cluster switch, ends at the die switch, and passes its port's table
theorem witness_ControlPackets_way :
    (let p := request 0 (addr8 0x123450 ++ [64])
     (sinkOf (forwarding p) p).1 = .l1 0 ∧ SwitchId.l0 0 0 ≠ .l1 0 ∧ (∃ x ∈ (holdingPacket (.l0 0 0) 0 p true).switches, x.id = .l0 0 0)) ∧
    (let p := { request 0 (addr8 0x123450 ++ [64]) with exempt := true }
     trestleGrants (forwarding p) (linkOf p.upath) p = true) := by
  refine ⟨⟨by decide +kernel, by decide, by decide +kernel⟩, by decide +kernel⟩

-- one for module 2 at the abutment switch of its path: its link up, another link up, none up; one for a module that is not present
theorem witness_ControlPackets_out :
    (let p := { request 0 (addr8 0x123450 ++ [64]) with dmod := 2 }
     let s := holdingPacket (.l2 0) 3 p true
     p.kind.toNat < 10 ∧ p.dmod ≠ s.module ∧ (SwitchId.l2 0) = .l2 (p.upath.extractLsb' 0 1) ∧ p.dmod ∈ s.present ∧ p.dmod.toNat < 8192 ∧
       linkUp s (9 * (p.upath.extractLsb' 0 1 : BitVec 1).toNat + (p.upath.extractLsb' 1 4 : BitVec 4).toNat) = true ∧
       (s.switchOf (.l2 0)).groups = [] ∧ (3 : BitVec 5).toNat < 14) ∧
    (let s := (holdingPacket (.l2 0) 3 (request 0 []) false).modLink 5 fun l => { l with up := true }
     linkUp s 3 = false ∧ bestLink s = some 5) ∧
    (∀ k < 18, linkUp (holdingPacket (.l2 0) 3 (request 0 []) false) k = false) ∧
    (5 : BitVec 14) ∉ (holdingPacket (.l2 0) 3 (request 0 []) false).present ∧ (request 0 []).resp = false ∧ 13 ≤ (request 13 []).kind.toNat ∧
    (request 11 []).kind.toNat < 12 ∧ 10 ≤ (request 11 []).kind.toNat := by decide +kernel

theorem witness_ControlPackets : (base.switchOf (.l2 0)).seen.contains ((request 12 []).smod, (request 12 []).pseq) = false := by decide +kernel

theorem witness_ControlPackets_length : 16 ≤ (request 12 (addr8 1 ++ addr8 9)).payload.length := by decide

theorem witness_ControlPackets_span : (forwarding (request 0 [])).present = [0, 2] ∧ (forwarding (request 0 [])).module = 0 ∧ base.present = [0] ∧
    base.module = 0 := ⟨rfl, rfl, rfl, rfl⟩

theorem witness_ControlPackets_lowest : ∀ m ∈ ([0, 2] : List (BitVec 14)), (0 : BitVec 14) ≤ m ∧ m.toNat < 8192 := by simp

theorem witness_ControlPackets_none : (base.switchOf (.l1 0)).buf = [] ∧ (base.switchOf (.l1 0)).overflow = [] := by decide +kernel

theorem witness_ControlPackets_seen : (let s := base.modSwitch (.l2 0) fun w => { w with seen := [(2, 9)] }
     (s.switchOf (.l2 0)).seen.contains ((request 12 []).smod, (request 12 []).pseq) = true) := by decide +kernel

theorem witness_ControlPackets_empty : ∀ n, (State.reset.ringAt n).state = .empty := by decide +kernel

theorem witness_ControlPackets_running : (base.ringAt 0).state ≠ .empty := by decide +kernel

theorem witness_ControlPackets_buffer :
    ((forwarding (request 0 [])).switchOf (.l1 0)).buf = [{ port := 4, chan := 2, time := 0, pkt := request 0 [] }] := by decide +kernel

theorem witness_ControlPackets_here : ((forwarding (request 0 [])).switchOf (.l1 0)).groups = [] ∧ (request 0 []).dmod = (forwarding (request 0 [])).module ∧
    (forwarding (request 0 [])).switches.map (·.id) = moduleSwitches := ⟨by decide +kernel, rfl, by decide +kernel⟩

theorem witness_ControlPackets_onward : (request 0 []).kind.toNat < 12 ∧ ({ request 0 [] with dmod := 2 } : Packet).dmod ≠ (forwarding (request 0 [])).module ∧
    linkUp (forwarding (request 0 [])) (9 * ((request 0 []).upath.extractLsb' 0 1 : BitVec 1).toNat + ((request 0 []).upath.extractLsb' 1 4 : BitVec 4).toNat) =
      true := ⟨by decide, by decide +kernel, by decide +kernel⟩

/-- The strand at S, whose group is named in s5 and described at s6 in its own store: rings 0 and 1 of cluster 0 of die 0, or of more. -/
def grouping (gid va rings : Word) : State :=
  let s := withX [(5, gid), (6, va)] (atS base)
  { s with mem := [(own 0, 0x10001), (own 8, 0), (own 16, rings.toNat)].foldl (fun m c => writeLE m c.1 c.2 8) s.mem }

/-- The entry of the group at the ring's L0 switch. -/
def groupAt (e : GroupEntry) (s : State) : State := s.modSwitch (.l0 0 0) fun w => { w with groups := [(7, e)] }
def anEntry (st : BitVec 2) (child : BitVec 128) : GroupEntry :=
  { v := true, state := st, gen := 3, lastgen := 2, lgv := true, jid := 1, upath := 0, root := true, err := false, child := child, round := 5, late := 0 }

theorem grouping_reads (k : Nat) (hk : k < 3) :
    reaches (grouping 0x3007 window 3) (x (grouping 0x3007 window 3) 6 + BitVec.ofNat 64 (8 * k)) 8 .r (own (8 * k)) ∧
    inMemory (grouping 0x3007 window 3) (own (8 * k)) 8 := by
  have : k = 0 ∨ k = 1 ∨ k = 2 := by omega
  rcases this with rfl | rfl | rfl <;>
    exact ⟨reaches_own rfl (by decide +kernel) (by decide +kernel) (by decide +kernel) (by decide +kernel) (by decide +kernel), rfl, by decide +kernel, by decide +kernel⟩

theorem witness_GroupResults :
    (let s := grouping 0x3007 window 3
     settled s ∧ s.onMgmt = none ∧ s.hart.level ≠ .u ∧ s.hart.held = false ∧ s.hart.remote = [] ∧ s.switches.map (·.id) = moduleSwitches ∧
       s.present = [0] ∧ s.module = 0 ∧ s.module.toNat < 8192 ∧ errorFree s ∧ (x s 5).extractLsb' 16 48 = 0#48 ∧ (x s 6).toNat % 8 = 0 ∧
       (∀ k < 3, reaches s (x s 6 + BitVec.ofNat 64 (8 * k)) 8 .r (own (8 * k)) ∧ inMemory s (own (8 * k)) 8) ∧
       (BitVec.ofNat 64 (loaded s (own 0) 8)).extractLsb' 0 14 = 1#14 ∧ (BitVec.ofNat 64 (loaded s (own 0) 8)).extractLsb' 14 2 = 0#2 ∧
       (BitVec.ofNat 64 (loaded s (own 0) 8)).extractLsb' 44 20 = 0#20 ∧ BitVec.ofNat 64 (loaded s (own 16) 8) = 3 ∧
       BitVec.ofNat 64 (loaded s (own 8) 8) = s.module.setWidth 64 ∧
       ∀ v ∈ moduleSwitches, (entryOf s v 7).state = 0 ∧ (entryOf s v 7).lgv = false) ∧
    (let s := groupAt (anEntry 1 3) (grouping 0x3007 window 3)
     settled s ∧ (entryOf s (.l0 0 0) 7).state = 1 ∧ (entryOf s (.l0 0 0) 7).root = true ∧ (entryOf s (.l0 0 0) 7).gen = (x s 5).extractLsb' 12 4 ∧
       (entryOf s (.l0 0 0) 7).v = true ∧ dieOf s.cur = 0 ∧ clusterOf s.cur = 0 ∧ (s.switchOf (.l0 0 0)).parts = [] ∧
       (s.switchOf (.l0 0 0)).ringRes = [] ∧ (s.switchOf (.l0 0 0)).buf = [] ∧ (s.switchOf (.l0 0 0)).overflow = []) ∧
    (entryOf (groupAt (anEntry 2 3) (grouping 0x3007 window 3)) (.l0 0 0) 7).state = 2 ∧ (x (grouping 0x3007 (window + 4) 3) 6).toNat % 8 ≠ 0 ∧
    (x (grouping 0x13007 window 3) 5).extractLsb' 16 48 ≠ 0#48  := by
  refine ⟨⟨(settles rfl rfl rfl rfl rfl), rfl, by decide +kernel, rfl, rfl, by decide +kernel, rfl, rfl, by decide +kernel, noErrors rfl rfl, by decide +kernel, by decide +kernel,
      fun k hk => grouping_reads k hk,
      by decide +kernel, by decide +kernel, by decide +kernel, by decide +kernel, by decide +kernel, by decide +kernel⟩,
    ⟨(settles rfl rfl rfl rfl rfl), by decide +kernel, by decide +kernel, by decide +kernel, by decide +kernel, by decide +kernel, by decide +kernel, rfl, rfl, rfl, rfl⟩, by decide +kernel, by decide +kernel, by decide +kernel⟩

/-- nred or nmcast of ring 0 of cluster 0 on the group at its L0 switch: the group in s5 and an address of the own store in s6. -/
def reducing (child : BitVec 128) (va : Word) (f : Switch → Switch) : State :=
  (withX [(5, 0x3007), (6, va)] base).modSwitch (.l0 0 0) fun w => f { w with groups := [(7, anEntry 1 child)] }

/-- The other ring's contribution and where its result goes. -/
def otherPart : Contribution := { index := 7, child := 1, round := 5, ty := 0, op := 0, value := 9, time := 0 }
def otherResult : RingResult := { index := 7, gen := 3, jid := 1, ring := 1, core := 8, offset := 0x100, value := none }

theorem witness_ReductionResults :
    (let s := reducing 1 (window + 0x7FFE0) id
     settled s ∧ s.onMgmt = none ∧ s.hart.held = false ∧ memoryWf s ∧ (x s 5).extractLsb' 16 48 = 0#48 ∧ s.ring.gang = false ∧
       s.ring.state ≠ .empty ∧ anyBad s (own 0x7FFE0) 32 = false ∧ (x s 6).toNat % 32 = 0 ∧ 0x00FFFF0000000000#64 ≤ x s 6 ∧ x s 6 < 0x00FFFF0000080000#64) ∧
    (x (reducing 1 (window + 4) id) 6).toNat % 8 ≠ 0 ∧ ¬ 0x00FFFF0000000000#64 ≤ x (reducing 1 0x1000 id) 6 := by
  refine ⟨⟨(settles rfl rfl rfl rfl rfl), rfl, rfl, base_memory, by decide +kernel, rfl, (fun h => nomatch h), rfl, by decide +kernel, by decide +kernel, by decide +kernel⟩, by decide +kernel, by decide +kernel⟩

theorem witness_ReductionResults_member :
    (let s := reducing 1 window id
     let e := entryOf s (.l0 (dieOf s.cur) (clusterOf s.cur)) 7
     e.v = true ∧ e.state = 1 ∧ e.gen = 3 ∧ e.jid = s.ring.jid ∧ e.child.getLsbD 0 = true ∧ e.root = true ∧ e.child = 1#128 <<< 0) := by decide +kernel

theorem witness_ReductionResults_other :
    (let s := reducing 2 window id
     (entryOf s (.l0 (dieOf s.cur) (clusterOf s.cur)) 7).child.getLsbD 0 = false) := by decide +kernel

theorem witness_ReductionResults_switches : (reducing 1 window id).switches.map (·.id) = moduleSwitches := by decide +kernel

theorem witness_ReductionResults_last :
    (let s := reducing 3 window fun w => { w with parts := [otherPart], ringRes := [otherResult] }
     (s.switchOf (.l0 0 0)).parts = [otherPart] ∧ (s.switchOf (.l0 0 0)).ringRes = [otherResult] ∧
       storePa s.module 0 0 otherResult.core.toNat otherResult.offset.toNat + 8 > own 8) := by decide +kernel

theorem witness_ReductionResults_rings :
    (let s := { reducing 3 window id with rings := (reducing 3 window id).rings.set 1 { Ring.reset with state := .running, jid := 1 } }
     (s.ringAt (s.cur ^^^ 1)).state ≠ .empty ∧ (s.ringAt (s.cur ^^^ 1)).jid = s.ring.jid) := by decide +kernel

/-- A collective packet on the group with GID 0x3007. -/
def onGroup (kind : BitVec 4) (gid : Nat) : Packet := request kind (addr8 gid ++ addr8 0x100 ++ addr8 1 ++ addr8 3 ++ addr8 0 ++ addr8 0)

theorem witness_CollectivePackets : memoryWf (reducing 3 window id) ∧ 48 ≤ (onGroup 10 0x3007).payload.length ∧
    ((onGroup 10 0x3007).payload.getD 0 0 = 7 ∧ (onGroup 10 0x3007).payload.getD 1 0 = 0x30) := by
  refine ⟨base_memory, by decide, by decide⟩

theorem witness_CollectivePackets_opened :
    (let e := entryOf (reducing 3 window id) (.l0 0 0) 7
     e.v = true ∧ e.state = 1 ∧ e.gen = 3 ∧ e.child.getLsbD 1 = true ∧ (1 : Nat) ≠ (0 : BitVec 7).toNat) := by decide +kernel

theorem witness_CollectivePackets_closed : (entryOf base (.l0 0 0) 7).v = false ∧ (entryOf base (.l0 0 0) 7).state = 0 ∧
    (entryOf base (.l0 0 0) 7).lgv = false := by decide +kernel

theorem witness_CollectivePackets_reserved :
    (entryOf ((base).modSwitch (.l0 0 0) fun w => { w with groups := [(7, anEntry 3 0)] }) (.l0 0 0) 7).state = 3 := by decide +kernel

theorem witness_CollectivePackets_result :
    (let s := { (reducing 3 window fun w => { w with ringRes := [otherResult] }) with rings := base.rings.set 1 { Ring.reset with state := .running, jid := 1 } }
     (s.switchOf (.l0 0 0)).ringRes = [otherResult] ∧ (s.ringAt (0#3 ++ 0#2 ++ otherResult.ring)).state ≠ .empty ∧
       (s.ringAt (0#3 ++ 0#2 ++ otherResult.ring)).jid = otherResult.jid) := by decide +kernel

theorem witness_CollectivePackets_switch : SwitchId.l0 0 0 ∈ moduleSwitches ∧ (reducing 3 window id).switches.map (·.id) = moduleSwitches ∧
    ((reducing 3 window id).switchOf (.l0 0 0)).overflow = [] ∧ ((reducing 3 window id).switchOf (.l0 0 0)).buf = [] := by decide +kernel

/-- Management core 0 about to execute a gsw of job 5. -/
def gswState (st : JobState) : State := { onM with hart := { onM.hart with sc := onM.hart.sc.put 5 5 }, jobs := [(5, st)] }

/-- A gang switch of job 5 that one switch and no module has still to report to. -/
def gangRun (sw : List Word) (mods : List (BitVec 14)) : GangRun :=
  { jid := 5, out := true, gseq := 1, far := false, issuer := 0, cmdNo := 3, switches := sw, modules := mods, count := 0, overflowed := false }

def reportPacket : Packet := { request 11 (addr8 0 ++ addr8 2 ++ addr8 17) with jid := 5 }

theorem witness_GangSwitchResults_commands :
    (let s := { base with module := 2, elsewhere := [(5, 1)], jobs := [(5, .running)] }
     s.gang = [] ∧ s.jobs = [(5, .running)] ∧ ¬ ∀ q ∈ s.elsewhere, q.1 = 5 → s.module ≤ q.2) ∧
    (let s := { base with gang := [gangRun [17] []], jobs := [(5, .running)], defl := true }
     s.gang = [gangRun [17] []] ∧ (gangRun [17] []).overflowed = false ∧ s.elsewhere = [] ∧ s.defl = true) ∧
    ({ base with jobs := [(5, .out)] } : State).actors = [] :=
  ⟨⟨rfl, rfl, fun h => absurd (h (5, 1) (List.mem_cons_self ..) rfl) (by decide)⟩, ⟨rfl, rfl, rfl, rfl⟩, rfl⟩

theorem witness_GangSwitchResults :
    (settled base ∧ base.onMgmt = none ∧ base.hart.level ≠ .m) ∧
    (∀ st, settled (gswState st) ∧ (gswState st).onMgmt = some 0 ∧ (gswState st).hart.level = .m ∧ (gswState st).hart.held = false ∧
      lookupKey (gswState st).jobs 5 = some st ∧ recordsHeld (gswState st).hart = 0 ∧ (gswState st).gang = [] ∧ (gswState st).gangAsked = []) ∧
    (let s := { gswState .running with module := 2, elsewhere := [(5, 1)] }
     (5, 1) ∈ s.elsewhere ∧ (1 : BitVec 14) < s.module ∧ (∀ p ∈ ([(5, 1)] : List (BitVec 16 × BitVec 14)), p.1 = 5 → (1 : BitVec 14) ≤ p.2)) ∧
    (let s := { gswState .running with defl := true, elsewhere := [(5, 1)] }
     s.defl = true ∧ s.jobs = [(5, .running)] ∧ ∀ p ∈ ([(5, 1)] : List (BitVec 16 × BitVec 14)), p.1 = 5 → s.module ≤ p.2) ∧
    reportPacket.jid = 5 ∧ 24 ≤ reportPacket.payload.length ∧
    (let s := { base with gang := [gangRun [17] []] }
     s.gang = [gangRun [17] []] ∧ s.onMgmt ≠ some (gangRun [17] []).issuer ∧ (17 : Word) ∈ (gangRun [17] []).switches ∧
       (gangRun [17] [4]).modules ≠ [] ∧ (18 : Word) ∉ (gangRun [17] []).switches ∧ (gangRun [17] []).out = true) ∧
    (base.gang = [] ∧ base.actors = [] ∧ base.jobs = []) ∧ (base.ringAt 0).state = .running ∧ (base.ringAt 0).jid = 1 := by
  refine ⟨⟨base_settled, rfl, by decide⟩, fun st => ⟨(settles rfl rfl rfl rfl rfl), rfl, rfl, rfl, rfl, rfl, rfl, rfl⟩, ⟨List.mem_cons_self .., by decide +kernel, by simp⟩, ⟨rfl, rfl, fun p _ _ => (by bv_omega : (0 : BitVec 14) ≤ p.2)⟩,
    rfl, by decide,
    ⟨rfl, (fun h => nomatch h), by decide, by decide, by decide, rfl⟩, ⟨rfl, rfl, rfl⟩, rfl, rfl⟩

/-- A queue pair of port 3 whose key admits 64 bytes at 0x123450, and the port's DMA table. -/
def hostKey : RemoteKey := { port := 3, key := 0xABCD, jid := 1, base := 0x123000, len := 0x1000, r := true, w := true }
def dmaTable : Nat := 2 ^ 41 + 2 ^ 31 + 0x60100000 + 0x2000 * 3
def binding : Nat := bindingPa base 2
def hosted : State :=
  { base with keys := [hostKey], ctl := base.ctl ++ [(dmaTable, (0x1001F : Word)), (dmaTable + 16, (0x4000000000 : Word)), (binding, destTo 0),
                                                      (binding + 8, ((1 : Word) <<< 26 ||| 3 <<< 24 ||| 9))] }

theorem witness_HostResults_rdma : hosted.bad = [] ∧ hosted.module.toNat < 8192 ∧ memoryWf hosted ∧ hosted.ctl.Pairwise (fun a b => a.1 < b.1) ∧ hosted.keys = [hostKey] ∧ hostKey.port = 3 ∧ hosted.hostWaits = [] ∧
    (0xFFF : BitVec 24).toNat < 4096 ∧ 4096 ≤ (0x1000 : BitVec 24).toNat ∧ hosted.qpErr = [] ∧
    (hostKey.w = true ∧ hostKey.base.toNat ≤ 0x123450 ∧ 0x123450 + 64 ≤ hostKey.base.toNat + hostKey.len.toNat) ∧
    granted hosted dmaTable 1 0 0 0x123450 64 true true true ∧ granted hosted (2 ^ 41 + 2 ^ 31 + 0x41000000) 1 0 0 0x123450 64 true true true ∧
    paModule 0x123450 = hosted.module ∧ Nat.testBit 0x123450 41 = false ∧ (hosted.die 0).available = true ∧ 0x123450 % 2 ^ 38 + 64 ≤ 0x3FAB800000 ∧
    anyBad hosted 0x123450 64 = false ∧ anyBad { hosted with bad := [0x123451] } 0x123450 64 = true := by
  refine ⟨rfl, by decide, by unfold memoryWf; decide +kernel, by decide +kernel, rfl, rfl, rfl, by decide, by decide, rfl, ⟨rfl, by decide, by decide⟩, ⟨0, by decide, by decide +kernel⟩,
    ⟨0, by decide, by decide +kernel⟩, by decide +kernel, by decide +kernel, by decide +kernel, by decide, rfl, by decide +kernel⟩

theorem witness_HostResults_jobs : hosted.jobs = [] ∧ (∀ st, lookupKey hosted.jobs hostKey.jid = some st → st = .running) ∧
    ¬ ∀ st, lookupKey ({ hosted with jobs := [(1, .out)] } : State).jobs hostKey.jid = some st → st = .running :=
  ⟨rfl, fun _ h => (nomatch h), fun h => absurd (h .out rfl) (by decide)⟩

theorem witness_HostResults_far : paModule (2 * 2 ^ 42 + 0x40) ≠ hosted.module ∧ paModule (2 * 2 ^ 42 + 0x40) = 2 ∧ (0x40 + 64 * 0) % 64 + 64 ≤ 64 ∧
    ({ hosted with present := [0, 2] } : State).present = [0, 2] ∧ (paModule (2 * 2 ^ 42 + 0x40)).toNat < 8192 ∧
    8192 ≤ (paModule (8192 * 2 ^ 42)).toNat := ⟨by decide +kernel, by decide +kernel, by decide, rfl, by decide +kernel, by decide +kernel⟩

theorem witness_HostResults_send : boundMailbox hosted 3 9 = some 2 ∧ boundMailbox hosted 3 8 = none := by decide +kernel

theorem witness_HostResults_sendHere : (hostMessage hosted 2 (List.replicate 256 7)).dest.getLsbD 5 = false ∧
    (hostMessage hosted 2 (List.replicate 256 7)).dest.extractLsb' 20 14 = hosted.module := by decide +kernel

/-- A LAUNCH of job 5: one ring at priority 0, every SPLOG 8, an image at 0x100000, the page tables at 0x20000 and stacks of 4 KiB from 0x8000. -/
def launchBytes : List Byte :=
  let w (v : Nat) : List Byte := addr8 v
  w 5 ++ w 0x100000 ++ w 0 ++ w 0x20000 ++ w 0 ++ w 0 ++ w (destTo 0).toNat ++ w 0x8000 ++ w 0x1000 ++ List.replicate 56 0
    ++ (List.replicate 31 [0, 0, 0x40, 0]).flatten ++ [0, 0, 0x40, 0]

def launchMessage (p : List Byte) (tag : Word) : Message := { dest := 0, hdr := tag, payload := p, time := 0 }

/-- The runtime's actor with a command in mailbox 0. -/
def commanded (p : List Byte) (tag : Word) : State :=
  let a := actorWith 2 .onRing [] []
  { base with actors := [{ a with aid := 4095, ring := 63, mbx := a.mbx.set 0 { a.mbx[0] with mode := 2, queue := [launchMessage p tag] } }] }

theorem witness_HostResults_launch : ∃ t, takeCommand (commanded launchBytes 1) 1 launchBytes = some t ∧ launchBytes.length = 256 ∧
    ([0] : List (BitVec 6)).length = 1 ∧ ([0] : List (BitVec 6)).Nodup ∧ ([0] : List (BitVec 6)).all (ringAvailable t) = true :=
  ⟨_, rfl, by decide, rfl, by simp, by decide +kernel⟩

theorem witness_HostResults_malformed : ∃ t, takeCommand (commanded (List.replicate 256 0) 1) 1 (List.replicate 256 0) = some t ∧
    launchMalformed (List.replicate 256 0) = true ∧ launchMalformed launchBytes = false := ⟨_, rfl, by decide +kernel, by decide +kernel⟩

theorem witness_HostResults_attest : ∃ t, takeCommand (commanded (List.replicate 64 0x33) 2) 2 (List.replicate 64 0x33) = some t ∧
    (List.replicate 64 (0x33 : Byte)).length = 64 := ⟨_, rfl, by decide⟩

theorem witness_HostResults_none : takeCommand base 1 launchBytes = none := rfl

theorem witness_BootResults : State.reset.mode = .inReset ∧ base.mode ≠ .inReset ∧ State.reset.recovering = [] ∧
    (∀ i < 18, (State.reset.link i).recov = false) ∧ (0 : BitVec 14).toNat < 8192 ∧ 8192 ≤ (8192 : BitVec 14).toNat := by decide +kernel

/-- The small machine about to execute a word at 0x1000. -/
theorem executes_base : executesKeystone base := by
  refine ⟨⟨rfl, rfl, by decide +kernel⟩, rfl, rfl, (fun h => nomatch h), rfl, rfl, rfl, rfl, rfl, rfl, rfl, rfl, rfl, .inr rfl, .inr ⟨rfl, by decide +kernel⟩⟩

theorem executes_onM : executesMgmt onM 0 := ⟨⟨rfl, rfl, by decide +kernel⟩, rfl, by decide +kernel, rfl, .inr (.inl (by decide +kernel))⟩

theorem witness_StepRunsDecoded : executes base ∧ executes onM ∧ base.hart.convoy = [] ∧ base.hart.pfx = none ∧ base.onMgmt = none ∧
    executes (coded [0x04A55800] base) ∧
    fetchWord (coded [0x04A55800] base).hart.sc.pc (coded [0x04A55800] base) = .ok 0x04A55800 (coded [0x04A55800] base) ∧
    decode 0x04A55800 = .ok (.add 5 5 11) ∧
    fetchWord (coded [0] base).hart.sc.pc (coded [0] base) = .ok 0 (coded [0] base) ∧ (∃ e, decode 0 = .error e) ∧
    (let s : State := { base with agenda := [.event .moduleReset] }
     s.agenda = .event .moduleReset :: [] ∧ s.mode ≠ .off ∧ s.mode ≠ .bootFailed ∧ ({ s with mode := .off } : State).mode = .off) ∧
    (onHart (fun h => { h with convoy := [0x84108200] }) (withV 0 4 base)).hart.convoy = [0x84108200] ∧ decode 0x84108200 = .ok (.vaddVV 1 2 2 0 0) :=
  ⟨.inl executes_base, .inr ⟨0, executes_onM⟩, rfl, rfl, rfl, .inl executes_base,
    fetch_own (pa := own 0x100) rfl ⟨rfl, by decide +kernel, by decide +kernel⟩ (by decide +kernel), by decide +kernel,
    fetch_own (pa := own 0x100) rfl ⟨rfl, by decide +kernel, by decide +kernel⟩ (by decide +kernel), ⟨_, rfl⟩, ⟨rfl, by decide, by decide, rfl⟩, rfl, by decide +kernel⟩

theorem base_inv : Inv base := by
  refine ⟨base_memory, by decide +kernel, by decide +kernel, fun z h => ?_⟩
  exact absurd h (by show z ∉ []; simp)

theorem base_steps : after false (fun _ => true) (step base) = true := by decide +kernel

theorem witness_InvariantKept : Inv base ∧ ∃ t, step base = .next t := by
  refine ⟨base_inv, ?_⟩
  have h := base_steps
  rcases e : step base with t | f | r <;> simp [after, e] at h
  exact ⟨t, rfl⟩

theorem witness_ScalarFrames : errorFree (pointing window) ∧ memoryWf (pointing window) ∧ ready (pointing window) ∧ (x (pointing window) 5 + (8 : BitVec 13).signExtend 64).toNat % 8 = 0 ∧
    translate (x (pointing window) 5 + (8 : BitVec 13).signExtend 64) 8 .w (pointing window) = .ok (own 8, false) (pointing window) ∧
    inMemory (pointing window) (own 8) 8 ∧ linesFit (pointing window) (own 8) 8 ∧ (pointing window).hart.queue = [] ∧ (pointing window).hart.held = false :=
  ⟨noErrors rfl rfl, base_memory, ⟨by decide +kernel, rfl, rfl⟩, by decide +kernel, rfl, ⟨rfl, by decide +kernel, by decide +kernel⟩, (fun h => nomatch h), rfl, rfl⟩

theorem witness_EncodingsDecode : (Instr.add 5 5 11).wellFormed = true ∧ encode (.add 5 5 11) = some 0x04A55800 := ⟨rfl, rfl⟩
theorem witness_DecodedAreEncodings : decode 0x04A55800 = .ok (.add 5 5 11) := by decide +kernel

/-! ### Registers in error (R291) -/

-- a corrected error is counted, saturating (R420)
theorem test_corrected : countCorrected 0x00000005FFFFFFFF false = 0x00000005FFFFFFFF ∧ countCorrected 0x00000005FFFFFFFF true = 0x00000006FFFFFFFF := by
  decide +kernel

/-- A strand with s5, v4 and k2 in error. -/
def struck : State := onHart (fun h => ((h.strike (.x 5)).strike (.v 4)).strike (.k 2)) (withV 4 4 base)

-- an instruction that reads a register in error traps MCHK; one that writes it makes it sound
theorem test_register_error : after 0 (fun t => t.ring.ecause) (exec (.add 3 5 0) struck) = 0x0F#11 := by decide +kernel
theorem test_register_mended : after 1 (fun t => t.hart.sc.bad) (exec (.add 5 1 2) struck) = 0 := by decide +kernel

/-- s5 at a byte of its own store that holds an error. -/
def soured : State := { pointing (window + 0x100) with bad := [own 0x103] }

theorem witness_UncorrectableErrors :
    (ready soured ∧ soured.hart.queue = [] ∧ (x soured 5 + (0 : BitVec 13).signExtend 64).toNat % 8 = 0 ∧
      translate (x soured 5 + (0 : BitVec 13).signExtend 64) 8 .r soured = .ok (own 0x100, false) soured ∧
      paModule (own 0x100) = soured.module ∧ paControl (own 0x100) = false ∧ linesFit soured (own 0x100) 8 ∧
      ∃ b ∈ soured.bad, own 0x100 ≤ b ∧ b < own 0x100 + 8 ∧ fromMemory soured b = true) ∧
    (struck.hart.queue = [] ∧ struck.hart.awaiting = 0 ∧ struck.hart.sc.bad.getLsbD 5 = true ∧ struck.hart.sc.bad.getLsbD 1 = false) ∧
    (struck.hart.imageDone = true ∧ struck.lag = false ∧ struck.hart.vremote = [] ∧ struck.hart.remote = [] ∧ struck.hart.park = .running ∧
      struck.hart.pfx = none ∧ struck.hart.convoy = [] ∧ (∀ j : BitVec 3, (struck.hart.slotAt j).bound = false) ∧
      (31 : BitVec 6).toNat < regs struck ∧ struck.hart.sc.sew.toNat < 8 ∧ struck.hart.vBad.getLsbD 4 = true ∧ struck.hart.kBad.getLsbD 2 = true) := by
  exact ⟨⟨⟨by decide +kernel, rfl, withX_bad _ _ rfl⟩, rfl, by decide +kernel, rfl, rfl, by decide +kernel, (fun h => nomatch h), own 0x103,
    by decide +kernel, by decide +kernel, by decide +kernel, by decide +kernel⟩, ⟨rfl, rfl, by decide +kernel, by decide +kernel⟩,
    rfl, rfl, rfl, rfl, rfl, rfl, rfl, by decide +kernel, by decide +kernel, by decide +kernel, by decide +kernel, by decide +kernel⟩

/-! ### States that meet the hypotheses of further clauses -/

/-- The small machine with module 2 present, and a second GiB that maps to the first GiB of module 2. -/
def farMapped : State := { base with mem := writeLE base.mem 0x40008 (2 ^ 43 + 0x7F) 8, present := [0, 2] }

/-- An address translates to a physical address. -/
def goesTo (s : State) (va : Word) (n : Nat) (k : Access) (pa : Nat) : Bool :=
  match translate va n k s with
  | .ok (p, _) _ => p == pa
  | _ => false

theorem translates {s : State} {va : Word} {n : Nat} {k : Access} {pa : Nat} (h : goesTo s va n k pa = true) :
    ∃ near t, translate va n k s = .ok (pa, near) t := by
  unfold goesTo at h
  split at h
  · next p near t e => exact ⟨near, t, by rw [e, eq_of_beq h]⟩
  · exact absurd h (by simp)

/-- An address of module 2, and a strand whose s5 names it. -/
def farPa : Nat := 2 ^ 43 + 8
def atFar : State := withX [(5, 0x40000008), (6, 7)] farMapped

/-- The strand's one access to module 2 with its response. -/
def answered (w : Bool) (n : Nat) (st : BitVec 4) (l : List Byte) : State :=
  onHart (fun h => { h with remote := [{ rtag := 0, write := w, pa := BitVec.ofNat 56 farPa, reply := some (st, l), size := n }] }) atFar

theorem atFar_ready : ready atFar ∧ atFar.hart.queue = [] ∧ x atFar 5 + (0 : BitVec 13).signExtend 64 = 0x40000008 :=
  ⟨⟨by decide +kernel, rfl, rfl⟩, rfl, by decide +kernel⟩

theorem farPa_word : (BitVec.ofNat 56 farPa).toNat = farPa := by decide +kernel

theorem farPa_far : farPa < 2 ^ 56 ∧ paModule farPa ≠ atFar.module ∧ paModule farPa ∈ atFar.present ∧ (paModule farPa).toNat < 8192 ∧ paControl farPa = false := by
  decide +kernel

theorem witness_LoadStoreResults_far : ready atFar ∧ atFar.hart.queue = [] ∧ (0x40000008 : Word).toNat % 8 = 0 ∧
    atFar.hart.held = false ∧ atFar.hart.written = [] ∧ atFar.hart.remote = [] ∧ permitLeft atFar = true ∧
    (∃ near t, translate 0x40000008 8 .r atFar = .ok (farPa, near) t) ∧ (∃ near t, translate 0x40000008 8 .w atFar = .ok (farPa, near) t) ∧
    (∃ near t, translate 0x40000008 1 .r atFar = .ok (farPa, near) t) ∧
    (∀ st, ∃ r, (answered false 8 st (List.replicate 8 7)).hart.remote = [r] ∧ answers r farPa 8 st (List.replicate 8 7) ∧ r.write = false) ∧
    (∃ near t, translate 0x40000008 8 .r (answered false 8 0 (List.replicate 8 7)) = .ok (farPa, near) t) ∧
    (∃ near t, translate 0x40000008 8 .r (answered false 8 3 []) = .ok (farPa, near) t) ∧
    (∃ r, (answered true 8 2 []).hart.remote = [r] ∧ answers r farPa 8 2 [] ∧ r.write = true) ∧
    (∃ near t, translate 0x40000008 8 .w (answered true 8 2 []) = .ok (farPa, near) t) ∧
    (asYounger atFar).hart.held = true ∧ (asYounger atFar).hart.precise = false ∧ ready (asYounger atFar) ∧
    (∃ near t, translate 0x40000008 8 .w (asYounger atFar) = .ok (farPa, near) t) ∧ storable (pointing window) (own 8) 8 :=
  ⟨atFar_ready.1, rfl, by decide, rfl, rfl, rfl, by decide +kernel, translates (by decide +kernel), translates (by decide +kernel),
    translates (by decide +kernel), fun st => ⟨_, rfl, ⟨farPa_word, rfl, rfl, rfl, rfl, rfl⟩, rfl⟩, translates (by decide +kernel),
    translates (by decide +kernel), ⟨_, rfl, ⟨by decide +kernel, rfl, rfl, rfl, rfl, rfl⟩, rfl⟩, translates (by decide +kernel), rfl, rfl,
    ⟨by decide +kernel, rfl, rfl⟩, translates (by decide +kernel), rfl, by decide +kernel, .inr (by decide +kernel)⟩

theorem witness_AtomicResults_far : settled atFar ∧ atFar.hart.held = false ∧ (x atFar 5).toNat % 8 = 0 ∧
    (∃ near t, translate (x atFar 5) 8 .a atFar = .ok (farPa, near) t) ∧ (∃ near t, translate (x atFar 5) 4 .a atFar = .ok (farPa, near) t) ∧
    atFar.hart.remote = [] ∧ permitLeft atFar = true ∧
    (∀ st, ∃ r, (answered true 8 st (List.replicate 8 7)).hart.remote = [r] ∧ answers r farPa 8 st (List.replicate 8 7) ∧ r.write = true) ∧
    settled (answered true 8 0 (List.replicate 8 7)) ∧
    permitsFor (pointing window) (own 0) 8 = true ∧ permitsFor (pointing window) (own 0) 4 = true :=
  ⟨settles rfl rfl rfl rfl rfl, rfl, by decide +kernel, translates (by decide +kernel), translates (by decide +kernel), rfl, by decide +kernel,
    fun st => ⟨_, rfl, ⟨farPa_word, rfl, rfl, rfl, rfl, rfl⟩, rfl⟩, settles rfl rfl rfl rfl rfl, by decide +kernel, by decide +kernel⟩

/-- A waiting ldsync or ldtake of the strand on a ring, at a word of the strand's own store. -/
def waiting (n : BitVec 6) (take : Bool) (got : Option (Word × Word)) : Waiter :=
  { pa := 0x2000007FFF8, ring := n, slot := 0, take := take, got := got }

/-- A strand on ring 1 that waits for the last word of the executing strand's own store. -/
def waitedFor (take : Bool) : State :=
  { pointing (window + 0x7FFF8) with
    waiters := [waiting 1 take none]
    rings := base.rings.set 1 { Ring.reset with state := .running, chunks := [{ Hart.start with park := .ldsync }] } }

theorem witness_FullEmptyResults_served : (∀ take, settled (waitedFor take) ∧ (waitedFor take).waiters = [waiting 1 take none]) ∧
    (let s := waitedFor true
     let w := waiting 1 true none
     s.onMgmt = none ∧ s.bad = [] ∧ s.hart.held = false ∧ (x s 5).toNat % 8 = 0 ∧ inWindowRegion (x s 5) = true ∧
       windowPa s (x s 5) = some (own 0x7FFF8) ∧ own 0x7FFF8 ∉ s.full ∧ w.pa.toNat = own 0x7FFF8 ∧ w.ring ≠ s.cur ∧ (s.ringAt w.ring).halted = false ∧
       (∃ h, (s.ringAt w.ring).chunks = [h] ∧ h.slot = w.slot ∧ h.park = .ldsync) ∧ memoryWf s) ∧
    (let w := waiting 0 true (some (5, 9))
     let s : State := { pointing (window + 0x7FFF8) with waiters := [w] }
     settled s ∧ w.ring = s.cur ∧ w.slot = s.hart.slot ∧ windowPa (flushWritten s) (x s 5) = some (own 0x7FFF8)) :=
  ⟨fun _ => ⟨settles rfl rfl rfl rfl rfl, rfl⟩, ⟨rfl, rfl, rfl, by decide +kernel, by decide +kernel, by decide +kernel, (fun h => nomatch h),
    by decide +kernel, by decide +kernel, by decide +kernel, ⟨_, rfl, rfl, rfl⟩, base_memory⟩,
    settles rfl rfl rfl rfl rfl, rfl, rfl, by decide +kernel⟩

theorem witness_CsrResults_system : settled onM ∧ onM.onMgmt = some 0 ∧ onM.hart.level = .m ∧ onM.hart.held = false ∧
    (let v : Word := 420#64 ||| 420#64 <<< 16
     (v.extractLsb' 0 10 : BitVec 10).toNat ≤ 420 ∧ 420 ≤ (v.extractLsb' 16 10 : BitVec 10).toNat) ∧
    420 < ((421 : Word).extractLsb' 0 10 : BitVec 10).toNat ∧ settled (onRing (fun r => { r with retired := true }) (atS base)) ∧
    (atS base).ring.retired = false ∧ (∃ s a, settled s ∧ s.onMgmt = none ∧ residentActor s = some a) :=
  ⟨onM_settled.1, rfl, rfl, rfl, by decide, by decide, settles rfl rfl rfl rfl rfl, rfl,
    { base with actors := [runtimeActor], ring := { base.ring with resident := some (runtimeActor.jid, runtimeActor.aid) } }, _,
    settles rfl rfl rfl rfl rfl, rfl, rfl⟩

theorem witness_PreemptResults_ready : recordsReady (turnTo (beside (ringIn .running) 1) 1 0) = true ∧
    servedHere (turnTo (beside (ringIn .running) 1) 1 0) = none := ⟨by decide +kernel, rfl⟩

theorem witness_Traps_written : recordsOut base = false ∧ recordsOut (atS base) = false ∧ ¬ synchronous 0x10 := by
  refine ⟨by decide +kernel, by decide +kernel, ?_⟩
  unfold synchronous
  decide

/-- A strand whose s5 names 8 bytes of module 2, with one element of 64 bits. -/
def vfar : State := withV 7 1 atFar

theorem vfar_there {k : Access} (hk : k = .r ∨ k = .w) (u : State) (hu : u = { vfar with hart := u.hart, nextTag := u.nextTag, heldOut := u.heldOut })
    (hl : u.hart.level = vfar.hart.level) (hs : u.hart.slot = vfar.hart.slot) (hh : u.hart.held = vfar.hart.held) (hw : u.hart.written = vfar.hart.written) :
    ∃ near, Machine.translate 0x40000008 8 k u = .ok (farPa, near) (noteNear u farPa 8 k near) := by
  let s : State := { vfar with nextTag := u.nextTag, heldOut := u.heldOut }
  have hb : besideStore s u := ⟨by rw [hu], hl, hs, hh, hw, fun q _ => by rw [hu]; exact ⟨rfl, Iff.rfl⟩⟩
  have e : u.ring = vfar.ring ∧ u.onMgmt = none ∧ u.module = 0 := by refine ⟨?_, ?_, ?_⟩ <;> rw [hu] <;> rfl
  have a1 : (0x20000 : Nat) + 8 ≤ selfStore vfar ∧ 0x40008 + 8 ≤ selfStore vfar ∧ paModule 0x20000 = 0 ∧ paModule 0x40008 = 0 := by decide +kernel
  have hst : selfStore s = selfStore vfar := by
    unfold selfStore
    rfl
  have r0 := @readPte_beside s u vfar.ring.jid 0x40000008 0 0x20000 hb rfl rfl rfl rfl (.inl (by rw [hst]; exact a1.1)) a1.2.2.1 (by decide)
  have r1 := @readPte_beside s u vfar.ring.jid 0x40000008 1 0x40008 hb rfl rfl rfl rfl (.inl (by rw [hst]; exact a1.2.1)) a1.2.2.2 (by decide)
  have h0 : readLE (memGet s.mem) 0x20000 8 = 0x40001 := by rw [show s.mem = vfar.mem from rfl]; decide +kernel
  have h1 : readLE (memGet s.mem) 0x40008 8 = 2 ^ 43 + 0x7F := by rw [show s.mem = vfar.mem from rfl]; decide +kernel
  have p0 : pteKind 0 (BitVec.ofNat 64 0x40001) = .next 0x40000 := by decide +kernel
  have p1 : pteKind 1 (BitVec.ofNat 64 (2 ^ 43 + 0x7F)) = .leaf (2 ^ 43) := by decide +kernel
  have g1 : leafGrants (BitVec.ofNat 64 (2 ^ 43 + 0x7F)) k true = true := by rcases hk with rfl | rfl <;> decide +kernel
  have w1 : walkFrom vfar.ring.jid 0x40000008 k true 3 1 0x40000 u = .ok (farPa, true) u := by
    unfold walkFrom
    rw [show (0x40000 + 8 * bitsAt (0x40000008 : Word).toNat (levelShift 1) (levelBits 1)) = 0x40008 from by decide, bind_ok r1, h1]
    simp only [p1, g1, if_true]
    rfl
  have w0 : walkFrom vfar.ring.jid 0x40000008 k true 4 0 0x20000 u = .ok (farPa, true) u := by
    unfold walkFrom
    rw [show (0x20000 + 8 * bitsAt (0x40000008 : Word).toNat (levelShift 0) (levelBits 0)) = 0x20000 from by decide, bind_ok r0, h0]
    simp only [p0]
    exact w1
  have hx : physAllowed u farPa 8 k = true := by
    have b1 : paModule farPa = 2 := by decide +kernel
    have b2 : paSpace1 farPa = false := by decide +kernel
    simp [physAllowed, spaceExists, inReserve, b1, b2, e.2.2]
  have hlu : u.hart.level = .u := hl
  refine ⟨true, ?_⟩
  unfold Machine.translate
  rw [bind_ok (get_apply u)]
  simp only [e.1, e.2.1, hlu, Option.isSome_none, Bool.false_eq_true, if_false,
    show canonical 0x40000008 = true from by decide, show inWindowRegion 0x40000008 = false from by decide, Bool.not_true,
    show vfar.ring.ptbase.toNat <<< 17 = 0x20000 from by decide +kernel, show ((Level.u == Level.u) = true) from rfl]
  rw [bind_ok w0, bind_ok (get_apply u)]
  simp only [hx, if_true]
  rw [bind_ok (modify_apply _ _)]
  rfl

theorem witness_VectorMemoryResults_far : vectorReady vfar ∧ vfar.hart.convoy = [] ∧ vfar.hart.held = false ∧ vfar.hart.written = [] ∧
    vfar.hart.sc.sew ≠ 14 ∧ (31 : BitVec 6).toNat < regs vfar ∧ vfar.ring.halted = false ∧ permitLeft vfar = true ∧ width vfar / 8 = 8 ∧
    elementAddress (x vfar 5) 8 1 0 0 = 0x40000008 ∧ (0x40000008 : Word).toNat % 8 = 0 ∧ actives vfar 0 false = [0] ∧ actives vfar 0 true = [0] ∧
    farPa < 2 ^ 56 ∧ paModule farPa ≠ vfar.module ∧ paModule farPa ∈ vfar.present ∧ (paModule farPa).toNat < 8192 ∧ paControl farPa = false :=
  ⟨⟨rfl, rfl, rfl, rfl, rfl, (vector_ready 7 1).1.2.2.2.2.2.1, by decide +kernel, rfl, rfl, rfl, rfl⟩, rfl, rfl, rfl, by decide +kernel, by decide +kernel, rfl,
    by decide +kernel, by decide +kernel, by decide +kernel, by decide, by decide +kernel, by decide +kernel, farPa_far⟩

theorem witness_VectorPushTraps_words : base.hart.queue = [] ∧ convoyLeft base 0 [] ∧ regs base ≤ (63 : BitVec 6).toNat ∧ base.hart.pfx = none ∧
    encode (.vld 63 5 0 0 0) = some 0xAFF14000 ∧ queues (.vld 63 5 0 0 0) 0xAFF14000 ∧ vecLegal (regs base) base.hart.sc.sew 0xAFF14000 = false ∧
    (∃ w, encode (.vcvt 2 4 5 0 0) = some w) ∧ (∃ w, encode (.vldseg 31 5 1 0 0 0) = some w) ∧ regs base ≤ (31 : BitVec 6).toNat + (1 : BitVec 6).toNat ∧
    (∃ w, encode (.vperm 2 2 5 0 0) = some w) ∧ (∃ w, encode (.tmvz 1 63 6) = some w) ∧ (withV 14 4 base).hart.sc.sew = 14 ∧ (withV 5 4 base).hart.sc.sew = 5 ∧
    (withV 7 4 base).hart.sc.sew.toNat < 8 ∧ (14 : BitVec 4).toNat > 13 ∧ (withV 3 4 base).hart.sc.sew.toNat ∉ [0, 8, 9, 11, 12, 13, 14] :=
  ⟨rfl, .inl ⟨rfl, rfl, rfl⟩, by decide +kernel, rfl, rfl, ⟨rfl, by decide⟩, by decide +kernel, ⟨_, rfl⟩, ⟨_, rfl⟩, by decide +kernel, ⟨_, rfl⟩, ⟨_, rfl⟩,
    rfl, rfl, by decide, by decide, by decide⟩

theorem witness_ConvoysAndQueue_lag :
    (let s : State := { withV 0 4 base with lag := true }
     queues (.vaddVV 3 1 2 0 0) 0x84304200 ∧ s.lag = true ∧ s.hart.awaiting = 0 ∧ s.hart.sc.bad = 0 ∧ (∀ r, queueWrites s.hart.queue r = false) ∧
       s.hart.imageDone = true ∧ s.hart.pfx = none ∧ s.hart.convoy = [] ∧ (isMember 0x84304200 = true → (0x84304200 : Word32).getLsbD 0 = false) ∧
       vecLegal (regs s) s.hart.sc.sew 0x84304200 = true ∧ s.hart.queue.length < 64 ∧ s.ring.halted = false ∧ queues (.sunbind 3) 0xE0000043) ∧
    after [] (fun t => t.hart.queue.map (·.pc)) (exec (.vaddVV 3 1 2 0 0) { withV 0 4 base with lag := true }) = [0x1000] ∧
    (onRing (fun r => { r with halted := true }) base).ring.halted = true :=
  ⟨⟨⟨rfl, by decide⟩, rfl, rfl, rfl, (by decide +kernel : ∀ r, queueWrites base.hart.queue r = false), rfl, rfl, rfl, by decide, by decide +kernel,
    by decide +kernel, rfl, ⟨by decide +kernel, trivial⟩⟩, by decide +kernel, rfl⟩

/-- The tile strand, and a strand of its job on the other ring of its cluster, whose core the mask in s7 names. -/
def grouped : State :=
  let s := withX [(7, 0x100)] (tiled 0 1)
  { s with rings := s.rings.set 1 { Ring.reset with state := .running, jid := 1, chunks := [Hart.start] } }

theorem witness_TileResults_group : vectorReady grouped ∧ errorFree grouped ∧ grouped.hart.held = false ∧ grouped.hart.vstart = 0 ∧
    (grouped.hart.tk.toNat + 31) / 32 ≤ 16 ∧ (x grouped 7).extractLsb' 16 48 = 0#48 ∧ (x grouped 7).getLsbD 8 = true ∧
    (∀ j < 16, (x grouped 7).getLsbD j = true → j ≠ coreOfSlot grouped.cur grouped.ring.gang grouped.hart.slot →
      coreExists grouped (dieOf grouped.cur) (clusterOf grouped.cur) j = true ∧ coreRuns grouped (dieOf grouped.cur) (clusterOf grouped.cur) j grouped.ring.jid = true) ∧
    dieOf grouped.cur ++ clusterOf grouped.cur ++ (1 : BitVec 1) ≠ grouped.cur ∧
    (grouped.ringAt (dieOf grouped.cur ++ clusterOf grouped.cur ++ (1 : BitVec 1))).chunks[0]? = some Hart.start ∧
    coreOfSlot (dieOf grouped.cur ++ clusterOf grouped.cur ++ (1 : BitVec 1)) false 0 = 8 :=
  ⟨⟨rfl, rfl, rfl, rfl, rfl, (vector_ready 4 4).1.2.2.2.2.2.1, by decide +kernel, rfl, rfl, rfl, rfl⟩, noErrors rfl rfl, rfl, rfl, by decide +kernel,
    by decide +kernel, by decide +kernel, by decide +kernel, by decide +kernel, rfl, by decide +kernel⟩

/-- The own store of a core of die 0 takes no permit. -/
theorem own_permits {s : State} (hm : s.onMgmt = none) (h0 : s.module = 0) (hd : dieOf s.cur = 0) {pa n : Nat}
    (h : ((sectorsOf pa n).all fun q => paModule q == 0 && homeDie q == 0 && paSpace1 q) = true) : permitsFor s pa n = true := by
  unfold permitsFor
  rw [List.all_eq_true] at h ⊢
  intro q hq
  have := h q hq
  simp only [Bool.and_eq_true, beq_iff_eq] at this
  simp [permitFor, hm, h0, hd, this.1.1, this.1.2, this.2]

theorem witness_permits {s : State} (hm : s.onMgmt = none) (h0 : s.module = 0) (hd : dieOf s.cur = 0) :
    (∀ k < 16, permitsFor s (own (8 * k)) 8 = true) ∧ (∀ k < 16, permitsFor s (own (4 * k)) 4 = true) ∧ (∀ k < 64, permitsFor s (own k) 1 = true) ∧
      ∀ k < 8, permitsFor s (own (0x7FF00 + 32 * k)) 32 = true :=
  ⟨fun k hk => own_permits hm h0 hd ((by decide +kernel : ∀ k < 16, ((sectorsOf (own (8 * k)) 8).all fun q => paModule q == 0 && homeDie q == 0 && paSpace1 q) = true) k hk),
    fun k hk => own_permits hm h0 hd ((by decide +kernel : ∀ k < 16, ((sectorsOf (own (4 * k)) 4).all fun q => paModule q == 0 && homeDie q == 0 && paSpace1 q) = true) k hk),
    fun k hk => own_permits hm h0 hd ((by decide +kernel : ∀ k < 64, ((sectorsOf (own k) 1).all fun q => paModule q == 0 && homeDie q == 0 && paSpace1 q) = true) k hk),
    fun k hk => own_permits hm h0 hd ((by decide +kernel : ∀ k < 8, ((sectorsOf (own (0x7FF00 + 32 * k)) 32).all fun q => paModule q == 0 && homeDie q == 0 && paSpace1 q) = true) k hk)⟩

theorem witness_ChunkEvents_ready : (inRegion id id).ring.halted = false ∧ (lastChunk id).ring.halted = false ∧
    (∀ r : HoldReason, recordsReady (lastChunk fun h => { h with state := .hold r }) = true ∧ recordsReady (lastChunk fun h => { h with state := .commit r }) = true) ∧
    recordsReady (inRegion (fun h => { h with state := .commit .join }) id) = true ∧ (onRing (fun r => { r with halted := true }) (inRegion id id)).ring.halted = true :=
  ⟨rfl, rfl, fun _ => ⟨rfl, rfl⟩, rfl, rfl⟩

theorem noteRead_held (s : State) (pa n : Nat) (h : s.hart.held = false) : (noteRead s pa n).hart.held = false := by
  rw [noteRead_frame s pa n]
  exact h

theorem noteReads_held (f : Nat → Nat) (l : List Nat) : ∀ s : State, s.hart.held = false → (l.foldl (fun t i => noteRead t (f i) 32) s).hart.held = false := by
  induction l with
  | nil => exact fun _ h => h
  | cons a t ih => exact fun s h => ih _ (noteRead_held s _ _ h)

/-- The last eight beats of the strand's own store. -/
theorem witness_MessageResults_beats :
    (let s := sending (destTo 7) (window + 0x7FF00)
     let pa (k : Nat) : Nat := own (0x7FF00 + 32 * k)
     errorFree s ∧ ((x s 5).extractLsb' 50 3 : BitVec 3).toNat + 1 = 8 ∧ ∀ k < 8,
       reaches s (x s 6 + BitVec.ofNat 64 (32 * k)) 32 .r (pa k) ∧ (selfStore s ≤ pa k ∧ pa k + 32 ≤ selfStore s + 524288) ∧ atHand s (pa k) 32 ∧
         linesFit ((List.range k).foldl (fun t i => noteRead t (pa i) 32) s) (pa k) 32) ∧
    (let s := withX [(5, destTo 7), (6, 0x1000)] onM
     ready s ∧ s.hart.queue = [] ∧ (∀ k < 8, translate (x s 6 + BitVec.ofNat 64 (32 * k)) 32 .r s = .ok (0x1000 + 32 * k, false) s) ∧
       0x1000 + 32 * 0 < selfStore s) ∧
    ∃ st va, translate (x (sending (destTo 7) (1 <<< 63)) 6 + BitVec.ofNat 64 (32 * 0)) 32 .r (sending (destTo 7) (1 <<< 63)) =
      .error (.trap st va) (sending (destTo 7) (1 <<< 63)) := by
  refine ⟨⟨noErrors rfl rfl, by decide +kernel, fun k hk => ?_⟩, ⟨⟨by decide +kernel, rfl, by decide +kernel⟩, rfl, fun k hk => ?_, by decide +kernel⟩, _, _, rfl⟩
  · have hp := (witness_permits (s := sending (destTo 7) (window + 0x7FF00)) rfl rfl rfl).2.2.2 k hk
    have hl : linesFit ((List.range k).foldl (fun t i => noteRead t (own (0x7FF00 + 32 * i)) 32) (sending (destTo 7) (window + 0x7FF00)))
        (own (0x7FF00 + 32 * k)) 32 := fun h => absurd (noteReads_held (fun i => own (0x7FF00 + 32 * i)) _ _ rfl) (by rw [h]; decide)
    rcases (by omega : k = 0 ∨ k = 1 ∨ k = 2 ∨ k = 3 ∨ k = 4 ∨ k = 5 ∨ k = 6 ∨ k = 7) with rfl | rfl | rfl | rfl | rfl | rfl | rfl | rfl <;>
      exact ⟨reaches_own rfl (by decide +kernel) (by decide +kernel) (by decide +kernel) (by decide +kernel) (by decide +kernel), by decide +kernel,
        ⟨⟨rfl, by decide +kernel, by decide +kernel⟩, hp⟩, hl⟩
  · rcases (by omega : k = 0 ∨ k = 1 ∨ k = 2 ∨ k = 3 ∨ k = 4 ∨ k = 5 ∨ k = 6 ∨ k = 7) with rfl | rfl | rfl | rfl | rfl | rfl | rfl | rfl <;> rfl

theorem witness_MessageEvents_near : aMessage.bad = false ∧ (resident (actorWith 1 .handlers [] [])).lag = false ∧
    (let s : State := { outbox [outOf aMessage] (resident (actorWith 1 .handlers [] [])) with lag := true }
     s.lag = true ∧ aMessage.dest.extractLsb' 20 14 = s.module ∧ (s.ringAt 0).outbound[0]? = some (outOf aMessage)) :=
  ⟨rfl, rfl, rfl, by decide +kernel, rfl⟩

theorem witness_ContextResults_still : saving.hart.saving = [] ∧ (keystoneOf saving 1).eremote = [] ∧ loading.hart.saving = [] := ⟨rfl, rfl, rfl⟩

theorem witness_AsyncAndDebug_halt : recordsReady base = true ∧ servedHere base = none ∧
    (let s := onRing (fun r => { r with haltReq := true }) base
     (s.ringAt 0).haltReq = true ∧ (keystoneOf s 0).queue = [] ∧ (keystoneOf s 0).remote = [] ∧ s.waiters = []) ∧ (base.ringAt 0).haltReq = false ∧
    recordsReady (onRing (fun r => { r with stepped := some 0x2000 }) base) = true ∧ servedHere (onRing (fun r => { r with stepped := some 0x2000 }) base) = none :=
  ⟨rfl, rfl, ⟨rfl, rfl, rfl, rfl⟩, rfl, rfl, rfl⟩

/-- Tokens that arrive at a die which then has too few, too many that it owes, or has lent some. -/
theorem witness_PowerEvents_tokens :
    (let s := onDie 1 id [.borrow 0 1 5, .borrow 0 1 6]
     s.power = [PowerMsg.borrow 0 1 5] ++ .borrow 0 1 6 :: [] ∧ PowerMsg.borrow 0 1 6 ∉ [PowerMsg.borrow 0 1 5] ∧ PowerMsg.deny 0 1 ∉ s.power) ∧
    (let x := (onDie 1 (fun x => { x with wanted := 520, held := 420, asking := some 2 }) [.grant 0 1 50]).die 1
     x.available = true ∧ (x.held + (50 : BitVec 10)).toNat < 520 ∧ x.lent = 0 ∧ x.resting = false ∧ x.held + (50 : BitVec 10) < (base.mgmtAt 0).pwrCeil ∧
       max (base.mgmtAt 0).pwrFloor.toNat (min (base.mgmtAt 0).pwrCeil.toNat x.wanted.toNat) = 520) ∧
    (let x := (onDie 1 (fun x => { x with wanted := 300, held := 420 }) [.grant 0 1 100]).die 1
     max (base.mgmtAt 0).pwrFloor.toNat (min (base.mgmtAt 0).pwrCeil.toNat x.wanted.toNat) < (x.held + (100 : BitVec 10)).toNat ∧ x.owed + (100 : BitVec 10) ≠ 0 ∧
       x.grants = []) ∧
    (let x := (onDie 1 (fun x => { x with wanted := 520, held := 370, lent := 50, loans := [(0, 50)] }) [.repay 0 1 50]).die 1
     x.available = true ∧ (x.held + (50 : BitVec 10)).toNat < 520 ∧ x.lent - (50 : BitVec 10) = 0 ∧ x.asking = none ∧ x.resting = false ∧
       x.held + (50 : BitVec 10) < (base.mgmtAt 0).pwrCeil ∧ (20 : BitVec 10) < x.lent ∧ x.loans = [(0, x.lent)] ∧ x.recalls = []) ∧
    (let x := (onDie 1 (fun x => { x with wanted := 300, held := 420, lent := 20, loans := [(0, 20)], owed := 40, grants := [(2, 40)] }) [.repay 0 1 20]).die 1
     max (base.mgmtAt 0).pwrFloor.toNat (min (base.mgmtAt 0).pwrCeil.toNat x.wanted.toNat) < (x.held + (20 : BitVec 10)).toNat ∧ x.owed ≠ 0 ∧
       x.grants = [(2, 40)] ∧ (40 : BitVec 10) ≠ 0) ∧
    ((onDie 1 (fun x => { x with available := false }) []).die 1).available = false := by
  refine ⟨?_, ?_, ?_, ?_, ?_, ?_⟩ <;> decide +kernel

-- a clock request and its answer name the die by RTAG; those of a module name none
theorem witness_ControlPackets_clock :
    clockDie base.module { request 12 (addr8 0 ++ addr8 9) with smod := 0, rtag := 3 } = some 2 ∧ clockDie base.module (request 12 (addr8 0 ++ addr8 9)) = none ∧
    clockDie base.module { request 12 (addr8 1 ++ addr8 9) with smod := 0, rtag := 3 } = some 2 ∧ clockDie base.module (request 12 (addr8 1 ++ addr8 9)) = none ∧
    16 ≤ (request 12 (addr8 1 ++ addr8 9)).payload.length ∧ State.reset.joined = false ∧ anyStrand State.reset = false ∧ anyStrand base = true := by decide +kernel

/-- The packet at the switch is alone there. -/
def aloneAt (s : State) (w : SwitchId) : Bool :=
  s.switches.all fun x => x.id != w || (x == s.switchOf w && x.buf.length == 1 && x.overflow.isEmpty && x.groups.isEmpty)

/-- Packets enough to fill a channel's buffer, whatever its size. -/
def crowd (port : BitVec 5) (p : Packet) : List Buffered :=
  List.replicate (7 + Config.channelFlits p.chan.toNat) { port := port, chan := p.chan, time := 0, pkt := p }

theorem crowd_flits (port : BitVec 5) (p : Packet) (f : Buffered → Bool) (hf : f { port := port, chan := p.chan, time := 0, pkt := p } = true)
    (h1 : 1 ≤ p.flitCount) : channelRoom (flitsIn ((crowd port p).filter f)) p = false := by
  have e : (crowd port p).filter f = crowd port p := List.filter_eq_self.2 fun a ha => by
    rw [List.eq_of_mem_replicate ha]
    exact hf
  have h2 : flitsIn (crowd port p) = (7 + Config.channelFlits p.chan.toNat) * p.flitCount := by simp [flitsIn, crowd]
  have h3 : 7 + Config.channelFlits p.chan.toNat ≤ (7 + Config.channelFlits p.chan.toNat) * p.flitCount := Nat.le_mul_of_pos_right _ h1
  rw [e, channelRoom, h2]
  simp
  omega

/-- A request for memory, and one for module 2, by port 3. -/
def homeward : Packet := request 0 (addr8 0x123450 ++ [64])
def outward : Packet := { homeward with dmod := 2 }

theorem witness_ControlPackets_alone : aloneAt (holdingPacket (.l0 0 0) 0 homeward true) (.l0 0 0) = true ∧
    aloneAt (holdingPacket (.l2 0) 3 outward true) (.l2 0) = true ∧ aloneAt (holdingPacket (.l2 0) 3 outward false) (.l2 0) = true ∧
    (holdingPacket (.l0 0 0) 0 homeward true).defl = true ∧ jobState (holdingPacket (.l2 0) 3 outward true) 1 = some .running := by decide +kernel

-- in flowlet mode, the next switch's buffer has no room
theorem witness_ControlPackets_crowded :
    (let s := { (holdingPacket (.l0 0 0) 0 homeward true).modSwitch (.l1 0) fun x => { x with buf := crowd 0 homeward } with defl := false }
     s.defl = false ∧ channelRoom (flitsAt s (.l1 0) 0 homeward.chan) homeward = false) := by
  have e : ∀ l, (({ (holdingPacket (.l0 0 0) 0 homeward true).modSwitch (.l1 0) fun x => { x with buf := l } with defl := false } : State).switchOf (.l1 0)).buf = l :=
    fun _ => rfl
  refine ⟨rfl, ?_⟩
  unfold flitsAt
  rw [e]
  exact crowd_flits 0 homeward _ (by decide) (by decide)

-- the port of the path is free, or holds a packet; in flowlet mode its buffer has room, or none; another port of the die is free
theorem witness_ControlPackets_ports :
    (let s := holdingPacket (.l2 0) 3 outward true
     linkUp s 3 = true ∧ (s.link 3).out = [] ∧ channelRoom (flitsIn ((s.link 3).out.filter fun x => x.chan == outward.chan)) outward = true) ∧
    (let s := { (holdingPacket (.l2 0) 3 outward true).modLink 3 fun l => { l with out := crowd 3 outward } with defl := false }
     s.defl = false ∧ linkUp s 3 = true ∧ channelRoom (flitsIn ((s.link 3).out.filter fun x => x.chan == outward.chan)) outward = false) ∧
    (let s := (holdingPacket (.l2 0) 3 outward true).modLink 3 fun l => { l with out := [{ port := 3, chan := 1, time := 0, pkt := outward }] }
     s.defl = true ∧ (s.link 3).out ≠ [] ∧ linkUp s 0 = true ∧ (s.link 0).out = []) ∧
    (∀ k < 9, linkUp (holdingPacket (.l2 0) 3 outward false) k = false) := by
  refine ⟨⟨by decide +kernel, by decide +kernel, by decide +kernel⟩, ⟨rfl, by decide +kernel, ?_⟩,
    ⟨by decide +kernel, by decide +kernel, by decide +kernel, by decide +kernel⟩, by decide +kernel⟩
  have e : ∀ l, ((({ (holdingPacket (.l2 0) 3 outward true).modLink 3 fun x => { x with out := l } with defl := false } : State).link 3).out) = l := fun l => by
    simp [State.link, State.modLink]
  rw [e]
  exact crowd_flits 3 outward _ (by decide) (by decide)

theorem witness_Collectives_waiters : (reducing 1 (window + 0x7FFE0) id).waiters = [] ∧ (reducing 3 window id).waiters = [] ∧
    (entryOf (groupAt (anEntry 2 3) (grouping 0x3007 window 3)) (.l0 0 0) 7).root = true := by decide +kernel

theorem witness_CollectivePackets_drained :
    (let e := entryOf ((base).modSwitch (.l0 0 0) fun w => { w with groups := [(7, anEntry 2 3)] }) (.l0 0 0) 7
     e.v = true ∧ e.state = 2 ∧ e.gen = 3) ∧ 16 ≤ (onGroup 11 0x3007).payload.length := by decide +kernel

theorem witness_GangSwitchResults_faults :
    (∀ st, (let s : State := { base with jobs := [(5, st)], elsewhere := [(5, 1)] }
      s.gang = [] ∧ s.jobs = [(5, st)] ∧ (5, 1) ∈ s.elsewhere ∧ (1 : BitVec 14) ≠ s.module ∧ s.defl = true)) ∧
    (let s : State := { base with jobs := [(1, .sweeping)] }
     s.jobs = [(1, .sweeping)] ∧ (s.ringAt 0).state = .running ∧ (s.ringAt 0).jid = 1) ∧ base.failing = [] ∧
    (let s : State := { base with present := [0, 2], elsewhere := [(1, 2), (5, 2), (5, 3)], jobs := [(5, .out)] }
     (2 : BitVec 14) ∈ s.present ∧ (2 : BitVec 14).toNat < 8192 ∧ (2 : BitVec 14) ≠ s.module ∧ s.module ∈ s.present ∧ (∀ k ∈ s.present, s.module ≤ k) ∧ s.gang = [] ∧
       s.defl = true ∧ (∀ q ∈ s.jobs, q.2 ≠ .sweeping ∧ q.2 ≠ .restoring) ∧ (1, 2) ∈ s.elsewhere ∧ jobState s 1 = some .running ∧ lookupKey s.jobs 5 = some .out) ∧
    (∑ i ∈ Finset.range 4, 256 ^ i * (({ reportPacket with payload := addr8 (2 ^ 32) ++ addr8 2 ++ addr8 17 } : Packet).payload.getD (4 + i) 0).toNat) =
      (gangRun [17] []).gseq.toNat := by
  refine ⟨fun st => ⟨rfl, rfl, List.mem_cons_self .., (by decide +kernel : (1 : BitVec 14) ≠ base.module), rfl⟩, ⟨rfl, rfl, rfl⟩, rfl,
    ⟨by decide, by decide, by decide, by decide, by decide, rfl, rfl, by decide, by decide, by decide +kernel, rfl⟩, by decide⟩

/-- A request of two 64-byte ranges, of which the home's table admits the first. -/
def halfHosted : State :=
  { hosted with ctl := [(2 ^ 41 + 2 ^ 31 + 0x41000000, (0x1001F : Word)), (2 ^ 41 + 2 ^ 31 + 0x41000010, (0x123480 : Word)), (dmaTable, (0x1001F : Word)), (dmaTable + 16, (0x4000000000 : Word))] }

/-- The port's table grants job 1 every address. -/
def farHosted : State := { hosted with ctl := base.ctl ++ [(dmaTable, (0x1001F : Word)), (dmaTable + 16, (0xFFFFFFFFFFFFFF : Word))], present := [0, 2] }

theorem half_not : ¬ granted halfHosted (2 ^ 41 + 2 ^ 31 + 0x41000000) 1 0 0 0x123480 0x10 true true true := by
  have h : ∀ e < 256, e ≠ 0 → lookupKey halfHosted.ctl (2 ^ 41 + 2 ^ 31 + 0x41000000 + 32 * e + 8 * 0) = none := by decide +kernel
  have h2 : ¬ 0x123480 + 0x10 ≤ ((lookupKey halfHosted.ctl (2 ^ 41 + 2 ^ 31 + 0x41000000 + 32 * 0 + 8 * 2)).getD 0).toNat := by decide +kernel
  rintro ⟨e, he, h1, -, -, -, -, -, -, h3, -⟩
  by_cases g : e = 0
  · subst g
    exact h2 h3
  · simp only [] at h1
    rw [h e he g] at h1
    exact absurd h1 (by decide)

theorem witness_HostResults_parts :
    granted hosted dmaTable 1 0 0 0x123450 0x30 true true true ∧ granted hosted dmaTable 1 0 0 0x123480 0x10 true true true ∧
    granted hosted (2 ^ 41 + 2 ^ 31 + 0x41000000) 1 0 0 0x123450 0x30 true true true ∧
    granted hosted (2 ^ 41 + 2 ^ 31 + 0x41000000) 1 0 0 0x123480 0x10 true true true ∧
    granted halfHosted (2 ^ 41 + 2 ^ 31 + 0x41000000) 1 0 0 0x123450 0x30 true true true ∧
    (0x123450 % 64 + 0x30 ≤ 64 ∧ (0x123450 + 0x30) % 64 = 0 ∧ 0x123480 % 64 = 0 ∧ 0x123480 + 0x10 = 0x123450 + 64) ∧
    ¬ granted halfHosted (2 ^ 41 + 2 ^ 31 + 0x41000000) 1 0 0 0x123480 0x10 true true true ∧ granted farHosted dmaTable 1 0 0 (2 ^ 43 + 0x40) 64 true true true :=
  ⟨⟨0, by decide, by decide +kernel⟩, ⟨0, by decide, by decide +kernel⟩, ⟨0, by decide, by decide +kernel⟩, ⟨0, by decide, by decide +kernel⟩,
    ⟨0, by decide, by decide +kernel⟩, by decide, half_not, ⟨0, by decide, by decide +kernel⟩⟩

theorem witness_HostResults_wqes :
    (let e := (lookupKey hosted.ctl (bindingPa hosted (2 : BitVec 14).toNat + 8)).getD 0
     e.getLsbD 26 = true ∧ lookupKey hosted.wqes (3, 9) = none) ∧ lookupKey ({ hosted with wqes := [((3, 9), 2)] } : State).wqes (3, 9) = some (1 + 1) ∧
    ((lookupKey base.ctl (bindingPa base (5 : BitVec 14).toNat + 8)).getD 0).getLsbD 26 = false := by decide +kernel

/-- The command of a launch whose image lies in another module, or in this one with no record and an entry point. -/
def launchFar : List Byte := launchBytes.take 8 ++ addr8 (2 ^ 43) ++ launchBytes.drop 16
def imaged : State := { commanded launchBytes 1 with mem := writeLE base.mem 0x100000 0x4000 8 }

/-- How the runtime's reading of an image ends: it waits, it is denied, or it gives a record or none. -/
def readEnds (s : State) (p : List Byte) : Nat :=
  match takeCommand s 1 p with
  | none => 9
  | some t =>
    match (runtimeRun t (launchRecord p)).2 with
    | .waits => 0
    | .denied => 1
    | .value none => 2
    | .value (some _) => 3

theorem witness_HostResults_images :
    readEnds imaged launchBytes = 3 ∧ readEnds { commanded launchFar 1 with present := [0, 2] } launchFar = 0 ∧ readEnds (commanded launchFar 1) launchFar = 1 ∧
    readEnds { commanded (launchBytes.set 6 0x10) 1 with mem := base.mem } (launchBytes.set 6 0x10) = 2 ∧ launchFar.length = 256 := by decide +kernel

/-- Whether job 5 has an actor, how many rings are available, and whether AID 0 is held, in a state and after its command is taken. -/
theorem witness_HostResults_causes :
    (imaged.actors.all fun a => a.aid == 4095) = true ∧ ((((List.range 64).map (BitVec.ofNat 6)).filter (ringAvailable imaged)).length = 64) ∧
    (let s := { imaged with actors := { actorWith 2 .entry [] [] with jid := 5 } :: imaged.actors }
     ∃ a ∈ s.actors, a.jid = 5 ∧ a.aid ≠ 4095 ∧ a.phase ≠ .finished) ∧
    (let s := { imaged with ring := { imaged.ring with unavailable := true }, rings := imaged.rings.map fun r => { r with unavailable := true } }
     (((List.range 64).map (BitVec.ofNat 6)).filter (ringAvailable s)).length < 1) ∧
    (let s := { imaged with actors := { actorWith 2 .entry [] [] with aid := 0 } :: imaged.actors }
     ∃ a ∈ s.actors, a.phase ≠ .finished ∧ 0 ≤ a.aid.toNat ∧ a.aid.toNat < 0 + 1) := by decide +kernel

end Sys2Proof.Tests
end

/-! SUPPORT. Proofs of the statements of the family of spec/00: stored bytes, the control region, and external links. -/

namespace Sys2Proof.Proofs

open Sys2Proof Sys2Proof.Machine Sys2Proof.Safety

/-! ### Stored bytes (R4, R225) -/

/-- A strand outside any chunk whose record is not empty: byte 0 stands in it as 1. -/
def freeWithRecord : State := { State.reset with hart := { State.reset.hart with held := false, written := [(0, 1)] } }

/-- Outside a chunk a store goes to memory, and a load takes its byte from the strand's record first. -/
theorem freeWithRecord_store : (storeBytes freeWithRecord 0 0 1).peek 0 = 1 := by decide +kernel

/-- Refutes O5: nothing in it says that a strand outside any chunk has an empty record. Where the record holds a byte, a store of 0 there goes to memory, and
a load still reads the record's 1. -/
theorem not_storedBytes : ¬ Obligations.StoredBytes := by
  intro ⟨bytes, _⟩
  have read := (bytes freeWithRecord 0 0 1 0 rfl (.inr rfl)).1
  rw [freeWithRecord_store] at read
  exact absurd read (by decide)

/-! ### Addresses of the control region (R270, R480) -/

/-- The address of an offset of a die's control half, as a register write names it (R270, R480). -/
def ctlAddr (module : BitVec 14) (die : BitVec 3) (off : Nat) : BitVec 56 := module ++ 1#1 ++ die ++ 0#6 ++ 1#1 ++ BitVec.ofNat 31 off

theorem ctlAddr_toNat (m : BitVec 14) (d : BitVec 3) {off : Nat} (h : off < 2 ^ 31) : (ctlAddr m d off).toNat = ctlPa m d.toNat off := by
  have add {x y n : Nat} (hy : y < 2 ^ n) : x <<< n ||| y = x * 2 ^ n + y := by
    rw [← Nat.shiftLeft_add_eq_or_of_lt hy, Nat.shiftLeft_eq]
  have hd := d.isLt
  have ho : off % 2 ^ 31 = off := Nat.mod_eq_of_lt h
  simp only [ctlAddr, ctlPa, BitVec.toNat_append, BitVec.toNat_ofNat, ho]
  rw [add h, add (by decide), add (by decide), add hd, add (by decide)]
  omega

/-- The module, the half, the die and the offset that the address names. -/
theorem ctlPa_fields (m : BitVec 14) (d : BitVec 3) {off : Nat} (h : off < 2 ^ 31) :
    paModule (ctlPa m d.toNat off) = m ∧ paControl (ctlPa m d.toNat off) = true ∧ bitsAt (ctlPa m d.toNat off) 32 6 = 0 ∧
      BitVec.ofNat 3 (ctlPa m d.toNat off >>> 38) = d ∧ bitsAt (ctlPa m d.toNat off) 0 31 = off := by
  have hm := m.isLt
  have hd := d.isLt
  simp only [paModule, paControl, bitsAt, ctlPa, Nat.shiftRight_eq_div_pow, Nat.testBit_eq_decide_div_mod_eq, Bool.and_eq_true, decide_eq_true_eq]
  refine ⟨BitVec.eq_of_toNat_eq ?_, ⟨?_, ?_⟩, ?_, BitVec.eq_of_toNat_eq ?_, ?_⟩
  · rw [BitVec.toNat_ofNat]; omega
  · omega
  · omega
  · omega
  · rw [BitVec.toNat_ofNat]; omega
  · omega

/-- The registers of an abutment die's fabric block (R480), by their offsets in it. -/
def fabricReg (a o : Nat) : Option CtlReg :=
  if 0x08000000 ≤ o ∧ o < 0x08400000 then some .sram
  else if o < 0x900 ∧ o % 0x100 = 0 then some (.linkctl (9 * a + o / 0x100))
  else if o = 0x1000 then some .fabcfg
  else if o = 0x1008 then some (.fabstat (BitVec.ofNat 1 a))
  else if 0x100000 ≤ o ∧ o < 0x108000 then some .word
  else if 0x200000 ≤ o ∧ o < 0x220000 then some (.group (.l2 (BitVec.ofNat 1 a)) (BitVec.ofNat 12 ((o - 0x200000) / 32)) (o % 32 / 8))
  else if 0x300000 ≤ o ∧ o < 0x312000 then some .word
  else if 0x400000 ≤ o ∧ o < 0x420000 then some .word
  else none

theorem ctlReg_fabric {a o : Nat} (h : o < 0x10000000) : ctlReg 0 (abutBase a + o) = fabricReg a o := by
  have ha : (abutBase a + o - 0x60000000) / 0x10000000 = a := by unfold abutBase; omega
  have ho : (abutBase a + o - 0x60000000) % 0x10000000 = o := by unfold abutBase; omega
  have hb : 0x60000000 ≤ abutBase a + o := by unfold abutBase; omega
  unfold ctlReg
  rw [if_neg (by omega), if_neg (by omega), if_neg (by omega), if_neg (by omega), if_neg (by omega), if_neg (by omega), if_neg (by omega),
    if_pos ⟨rfl, hb⟩, ha, ho]
  rfl

theorem fabricReg_word {a o : Nat} (h : (0x100000 ≤ o ∧ o < 0x108000) ∨ (0x300000 ≤ o ∧ o < 0x312000) ∨ (0x400000 ≤ o ∧ o < 0x420000)) :
    fabricReg a o = some .word := by
  unfold fabricReg
  rw [if_neg (by omega), if_neg (by omega), if_neg (by omega), if_neg (by omega)]
  rcases h with h | h | h
  · rw [if_pos h]
  · rw [if_neg (by omega), if_neg (by omega), if_pos h]
  · rw [if_neg (by omega), if_neg (by omega), if_neg (by omega), if_pos h]

theorem fabricReg_link {a k : Nat} (h : k < 9) : fabricReg a (0x100 * k) = some (.linkctl (9 * a + k)) := by
  unfold fabricReg
  rw [if_neg (by omega), if_pos (by omega), Nat.mul_div_cancel_left k (by decide)]

theorem fabricReg_group {a o : Nat} (h : 0x200000 ≤ o ∧ o < 0x220000) :
    fabricReg a o = some (.group (.l2 (BitVec.ofNat 1 a)) (BitVec.ofNat 12 ((o - 0x200000) / 32)) (o % 32 / 8)) := by
  unfold fabricReg
  rw [if_neg (by omega), if_neg (by omega), if_neg (by omega), if_neg (by omega), if_neg (by omega), if_pos h]

theorem fabricReg_sram {a o : Nat} (h : 0x08000000 ≤ o ∧ o < 0x08400000) : fabricReg a o = some .sram := by
  unfold fabricReg
  rw [if_pos h]

theorem ctlReg_table {d : BitVec 3} {off : Nat} (h : (0x41000000 ≤ off ∧ off < 0x41002000) ∨ (0x42000000 ≤ off ∧ off < 0x42020000)) :
    ctlReg d off = some .word := by
  unfold ctlReg
  rw [if_neg (by omega), if_neg (by omega), if_neg (by omega)]
  rcases h with h | h
  · rw [if_pos h]
  · rw [if_neg (by omega), if_pos h]

theorem ctlReg_group {d : BitVec 3} {off : Nat} (h : 0x45200000 ≤ off ∧ off < 0x45220000) :
    ctlReg d off = some (.group (.l1 d) (BitVec.ofNat 12 ((off - 0x45200000) / 32)) (off % 32 / 8)) := by
  unfold ctlReg
  rw [if_neg (by omega), if_neg (by omega), if_neg (by omega), if_neg (by omega), if_neg (by omega), if_neg (by omega), if_pos h]

theorem ctlReg_none {d : BitVec 3} {off : Nat} (h : 0x40000018 ≤ off ∧ off < 0x41000000) : ctlReg d off = none := by
  unfold ctlReg
  rw [if_neg (by omega), if_neg (by omega), if_neg (by omega), if_neg (by omega), if_neg (by omega), if_neg (by omega), if_neg (by omega),
    if_neg (by omega)]

/-! ### What a register write reaches -/

section
variable {s : State} {d : BitVec 3} {off : Nat} (ho : off < 2 ^ 31) (h8 : off % 8 = 0)
include ho h8

/-- An aligned address of this module's control half passes the checks of a register write (R7, R480). -/
theorem ctlPa_admitted :
    (paModule (ctlPa s.module d.toNat off) ≠ s.module || !paControl (ctlPa s.module d.toNat off) || bitsAt (ctlPa s.module d.toNat off) 32 6 != 0
      || ctlPa s.module d.toNat off % 8 != 0) = false := by
  obtain ⟨hm, hc, hb, -, -⟩ := ctlPa_fields s.module d ho
  have h : ctlPa s.module d.toNat off % 8 = 0 := by unfold ctlPa; omega
  simp [hm, hc, hb, h]

theorem registerWrite_reaches {r : CtlReg} (h : ctlReg d off = some r) (v : Word) :
    exec (.registerWrite (ctlAddr s.module d off) v) s = .next (ctlWrite s (ctlPa s.module d.toNat off) r v) := by
  obtain ⟨-, -, -, hd, hf⟩ := ctlPa_fields s.module d ho
  show execRegisterWrite _ v s = _
  unfold execRegisterWrite
  rw [ctlAddr_toNat _ _ ho, ctlPa_admitted ho h8, hd, hf, h]
  rfl

theorem registerWrite_nothing (h : ctlReg d off = none) (v : Word) : exec (.registerWrite (ctlAddr s.module d off) v) s = .next s := by
  obtain ⟨-, -, -, hd, hf⟩ := ctlPa_fields s.module d ho
  show execRegisterWrite _ v s = _
  unfold execRegisterWrite
  rw [ctlAddr_toNat _ _ ho, ctlPa_admitted ho h8, hd, hf, h]
  rfl

theorem accessTableStore_reaches (h : ctlReg d off = some .word) (v : Word) :
    exec (.accessTableStore (ctlAddr s.module d off) v) s = .next (ctlWrite s (ctlPa s.module d.toNat off) .word v) := by
  obtain ⟨-, -, -, hd, hf⟩ := ctlPa_fields s.module d ho
  show execAccessTableStore _ v s = _
  unfold execAccessTableStore
  rw [ctlAddr_toNat _ _ ho, ctlPa_admitted ho h8, hd, hf, h]
  rfl
end

/-- A write that is not aligned, or of another module, or of no control half, reaches nothing (logs 25 and 79). -/
theorem control_write_elsewhere {s : State} {pa : BitVec 56} (v : Word)
    (h : pa.toNat % 8 ≠ 0 ∨ pa.extractLsb' 42 14 ≠ s.module ∨ pa.getLsbD 41 = false ∨ pa.getLsbD 31 = false) :
    exec (.registerWrite pa v) s = .next s ∧ exec (.accessTableStore pa v) s = .next s := by
  have bad : (paModule pa.toNat ≠ s.module || !paControl pa.toNat || bitsAt pa.toNat 32 6 != 0 || pa.toNat % 8 != 0) = true := by
    rcases h with h | h | h | h
    · simp [h]
    · have : paModule pa.toNat = pa.extractLsb' 42 14 := rfl
      simp [this, h]
    · have : pa.toNat.testBit 41 = false := h
      simp [paControl, this]
    · have : pa.toNat.testBit 31 = false := h
      simp [paControl, this]
  constructor
  · show execRegisterWrite pa v s = _
    unfold execRegisterWrite
    rw [bad]
    rfl
  · show execAccessTableStore pa v s = _
    unfold execAccessTableStore
    rw [bad]
    rfl

/-! ### Stored words of the control region: canonical lists of them -/

/-- Below every key of a list there is no entry. -/
theorem lookupKey_below {l : List (Nat × Word)} {q : Nat} (h : ∀ p ∈ l, q < p.1) : lookupKey l q = none := by
  induction l with
  | nil => rfl
  | cons p t ih =>
    have hp := h p List.mem_cons_self
    unfold lookupKey
    rw [if_neg (by omega)]
    exact ih fun r hr => h r (List.mem_cons_of_mem _ hr)

/-- A word that is put stands at its address or at an old one. -/
theorem mem_ctlPut {l : List (Nat × Word)} {a : Nat} {v : Word} {p : Nat × Word} (h : p ∈ ctlPut l a v) : p.1 = a ∨ p ∈ l := by
  induction l with
  | nil =>
    unfold ctlPut at h
    split at h <;> simp_all
  | cons q t ih =>
    unfold ctlPut at h
    split at h
    · split at h <;> grind
    · split at h
      · split at h <;> grind
      · grind

theorem ctlPut_rising {l : List (Nat × Word)} (a : Nat) (v : Word) (h : l.Pairwise (fun p q => p.1 < q.1)) :
    (ctlPut l a v).Pairwise (fun p q => p.1 < q.1) := by
  induction l with
  | nil =>
    unfold ctlPut
    split <;> simp
  | cons q t ih =>
    obtain ⟨hq, ht⟩ := List.pairwise_cons.mp h
    unfold ctlPut
    split
    · rename_i hlt
      split
      · exact h
      · refine List.pairwise_cons.mpr ⟨fun p hp => ?_, h⟩
        rcases List.mem_cons.mp hp with rfl | hp
        · exact hlt
        · exact Nat.lt_trans hlt (hq p hp)
    · split
      · rename_i heq
        split
        · exact ht
        · exact List.pairwise_cons.mpr ⟨fun p hp => heq ▸ hq p hp, ht⟩
      · refine List.pairwise_cons.mpr ⟨fun p hp => ?_, ih ht⟩
        rcases mem_ctlPut hp with e | hp
        · show q.1 < p.1
          omega
        · exact hq p hp

/-- A word that is put is read back, a zero as an entry that is not listed; every other reads as before. -/
theorem lookupKey_ctlPut {l : List (Nat × Word)} (a : Nat) (v : Word) (h : l.Pairwise (fun p q => p.1 < q.1)) (c : Nat) :
    (lookupKey (ctlPut l a v) c).getD 0 = if c = a then v else (lookupKey l c).getD 0 := by
  induction l with
  | nil =>
    unfold ctlPut
    split <;> simp only [lookupKey] <;> grind
  | cons q t ih =>
    obtain ⟨hq, ht⟩ := List.pairwise_cons.mp h
    have below (hc : c ≤ q.1) : lookupKey t c = none := lookupKey_below fun p hp => Nat.lt_of_le_of_lt hc (hq p hp)
    unfold ctlPut
    split
    · split <;> simp only [lookupKey] <;> grind
    · split
      · split <;> simp only [lookupKey] <;> grind
      · simp only [lookupKey]
        grind

/-! ### Bytes stored outside the home memories -/

/-- A byte stored where no slice holds it changes memory, and what is kept of the byte, and no cache. -/
theorem poke_outside {s : State} {a : Nat} (h : inHome s a = false) (x : Byte) :
    s.poke a x = { s with mem := memSet s.mem a x, bad := removeNat s.bad a, released := s.released.filter fun p => p.1 ≠ a } := by
  unfold State.poke cacheWrite
  simp [h]

theorem pokeLE_outside : ∀ (n : Nat) {s : State} (a x : Nat), (∀ i < n, inHome s (a + i) = false) →
    ∃ b r, s.pokeLE a x n = { s with mem := writeLE s.mem a x n, bad := b, released := r }
  | 0, s, _, _, _ => ⟨s.bad, s.released, rfl⟩
  | n + 1, s, a, x, h => by
    have rest (i : Nat) (hi : i < n) : inHome s (a + 1 + i) = false := by
      rw [show a + 1 + i = a + (i + 1) by omega]
      exact h (i + 1) (by omega)
    unfold State.pokeLE
    rw [poke_outside (show inHome s a = false from h 0 (by omega))]
    exact pokeLE_outside n (a + 1) (x / 256) rest

/-! ### The effect of a write to each register -/

/-- An address of a control half lies in no home memory, and no more do the seven bytes above it. -/
theorem ctlPa_outside {s : State} {d : BitVec 3} {off i : Nat} (h : off < 2 ^ 31) (h8 : off % 8 = 0) (hi : i < 8) :
    inHome s (ctlPa s.module d.toNat off + i) = false := by
  have hd := d.isLt
  have : paSpace1 (ctlPa s.module d.toNat off + i) = true := by
    simp only [paSpace1, ctlPa, Nat.testBit_eq_decide_div_mod_eq, decide_eq_true_eq]
    omega
  simp [inHome, this]

/-- A write of firmware SRAM stores its eight bytes, low byte first (R4, R480). -/
theorem ctlWrite_sram {s : State} {d : BitVec 3} {off : Nat} (ho : off < 2 ^ 31) (h8 : off % 8 = 0) (hm : memoryWf s) (v : Word) :
    ∃ t, ctlWrite s (ctlPa s.module d.toNat off) .sram v = t ∧ t = { s with mem := t.mem, bad := t.bad, released := t.released } ∧
      ∀ q, memGet t.mem q = if ctlPa s.module d.toNat off ≤ q ∧ q < ctlPa s.module d.toNat off + 8
        then BitVec.ofNat 8 (v.toNat / 256 ^ (q - ctlPa s.module d.toNat off)) else memGet s.mem q := by
  obtain ⟨b, r, e⟩ := pokeLE_outside 8 (ctlPa s.module d.toNat off) v.toNat fun i hi => ctlPa_outside ho h8 hi
  refine ⟨_, e, rfl, fun q => ?_⟩
  rw [memGet_writeLE 8 hm, Nat.shiftRight_eq_div_pow, Nat.pow_mul]

/-- A word of a table is stored alone, whichever operation brings it (R288, R480). -/
theorem table_word_stored {s : State} {d : BitVec 3} {off : Nat} (ho : off < 2 ^ 31) (h8 : off % 8 = 0) (h : ctlReg d off = some .word)
    (hc : s.ctl.Pairwise (fun p q => p.1 < q.1)) (v : Word) :
    ∀ i ∈ [Instr.registerWrite (ctlAddr s.module d off) v, .accessTableStore (ctlAddr s.module d off) v],
      ∃ l : List (Nat × Word), exec i s = .next { s with ctl := l } ∧ l.Pairwise (fun p q => p.1 < q.1) ∧
        ∀ q, (lookupKey l q).getD 0 = if q = (ctlAddr s.module d off).toNat then v else (lookupKey s.ctl q).getD 0 := by
  have put : ∀ i, exec i s = .next (ctlWrite s (ctlPa s.module d.toNat off) .word v) → ∃ l : List (Nat × Word),
      exec i s = .next { s with ctl := l } ∧ l.Pairwise (fun p q => p.1 < q.1) ∧
        ∀ q, (lookupKey l q).getD 0 = if q = (ctlAddr s.module d off).toNat then v else (lookupKey s.ctl q).getD 0 := by
    intro i hi
    refine ⟨_, hi, ctlPut_rising _ v hc, fun q => ?_⟩
    rw [ctlAddr_toNat _ _ ho]
    exact lookupKey_ctlPut _ v hc q
  intro i hi
  rcases List.mem_pair.mp hi with rfl | rfl
  · exact put _ (registerWrite_reaches ho h8 h v)
  · exact put _ (accessTableStore_reaches ho h8 h v)

/-! ### The external links of the module -/

theorem modLink_eq {s : State} {n : Nat} (h : n < 18) (f : Link → Link) : s.modLink n f = { s with links := s.links.set n (f (s.link n)) } := by
  simp [State.modLink, State.link, h]

theorem modLink_none {s : State} {n : Nat} (h : 18 ≤ n) (f : Link → Link) : s.modLink n f = s := by
  simp [State.modLink, Nat.not_lt.mpr h]

/-- A change of a link changes the links alone. -/
theorem modLink_frame (s : State) (n : Nat) (f : Link → Link) : s.modLink n f = { s with links := (s.modLink n f).links } := by
  unfold State.modLink
  split <;> rfl

/-- A link that is changed, read back. -/
theorem link_modLink_same {s : State} {n : Nat} (h : n < 18) (f : Link → Link) : (s.modLink n f).link n = f (s.link n) := by
  rw [modLink_eq h]
  simp [State.link, h]

/-- A change of a link leaves every other. -/
theorem link_modLink_other {s : State} {n m : Nat} (h : m ≠ n) (f : Link → Link) : (s.modLink n f).link m = s.link m := by
  rcases Nat.lt_or_ge n 18 with hn | hn
  · rw [modLink_eq hn]
    unfold State.link
    split
    · exact Vector.getElem_set_ne hn _ (Ne.symm h)
    · rfl
  · rw [modLink_none hn]

theorem modLink_congr {s : State} {n : Nat} {f g : Link → Link} (h : f (s.link n) = g (s.link n)) : s.modLink n f = s.modLink n g := by
  rcases Nat.lt_or_ge n 18 with hn | hn
  · rw [modLink_eq hn, modLink_eq hn, h]
  · rw [modLink_none hn, modLink_none hn]

theorem modLink_modLink (s : State) (n : Nat) (f g : Link → Link) : (s.modLink n f).modLink n g = s.modLink n fun l => g (f l) := by
  rcases Nat.lt_or_ge n 18 with hn | hn
  · rw [modLink_eq hn g, link_modLink_same hn, modLink_eq hn, modLink_eq hn]
    simp
  · rw [modLink_none hn, modLink_none hn, modLink_none hn]

/-- A change that leaves its link leaves the module. -/
theorem modLink_id {s : State} {n : Nat} {f : Link → Link} (h : f (s.link n) = s.link n) : s.modLink n f = s := by
  rcases Nat.lt_or_ge n 18 with hn | hn
  · rw [modLink_eq hn, h]
    simp [State.link, hn]
  · exact modLink_none hn f

theorem link_none {s : State} {n : Nat} (h : 18 ≤ n) : s.link n = Link.reset := by simp [State.link, Nat.not_lt.mpr h]

/-- A number that names no link names none that is up or recovers. -/
theorem lt_of_up {s : State} {n : Nat} (h : (s.link n).up = true) : n < 18 := by
  refine Nat.lt_of_not_le fun hn => ?_
  rw [link_none hn] at h
  exact Bool.false_ne_true h

theorem lt_of_recov {s : State} {n : Nat} (h : (s.link n).recov = true) : n < 18 := by
  refine Nat.lt_of_not_le fun hn => ?_
  rw [link_none hn] at h
  exact Bool.false_ne_true h

theorem linkUp_iff {s : State} {n : Nat} : linkUp s n = true ↔ (s.link n).up = true ∧ (s.link n).recov = false ∧ (s.link n).failed = false := by
  simp [linkUp, and_assoc]

/-! ### Floods, and the start of a recovery (R429, R442, R443) -/

/-- A flood changes what waits at its source and the number of floods alone. -/
theorem floodControl_frame (s : State) (sub : Nat) (v : Word) :
    floodControl s sub v = { s with heldOut := (floodControl s sub v).heldOut, floodSeq := (floodControl s sub v).floodSeq } := by
  unfold floodControl
  split <;> rfl

/-- Where there is another module, a flood is one packet under the next number. -/
theorem floodControl_sends {s : State} {m : BitVec 14} (hm : m ∈ s.present) (h : m ≠ s.module) (sub : Nat) (v : Word) :
    floodControl s sub v = { s with heldOut := s.heldOut ++ [{ controlPacket s sub v s.module with pseq := s.floodSeq }], floodSeq := s.floodSeq + 1 } := by
  have : (s.present.all fun m => m == s.module) = false := List.all_eq_false.mpr ⟨m, hm, by simpa using h⟩
  unfold floodControl
  rw [this]
  rfl

theorem startRecovery_down {s : State} {n : Nat} (h : linkUp s n = false) : startRecovery s n = s := by
  unfold startRecovery
  rw [h]
  rfl

/-- A link that has started recovery. -/
def recoveringLink (l : Link) : Link := { l with up := false, recov := true }

/-- The module in deflection mode with a link in recovery, before it says so to the others. -/
theorem deflectFor_modLink (s : State) (n : Nat) (f : Link → Link) :
    deflectFor (s.modLink n f) s.module = { s with links := (s.modLink n f).links, defl := true } := by
  rw [modLink_frame]
  simp [deflectFor]

/-- A link that carried packets goes into recovery, and a flood says so (R429, R442). -/
theorem startRecovery_recovers {s : State} {i : BitVec 5} (h : linkUp s i.toNat = true) : recovers s i (startRecovery s i.toNat) := by
  have hn := lt_of_up (linkUp_iff.mp h).1
  obtain ⟨u, hu⟩ : ∃ u : State, u = { s with links := (s.modLink i.toNat recoveringLink).links, defl := true } := ⟨_, rfl⟩
  have link (m : Nat) : u.link m = (s.modLink i.toNat recoveringLink).link m := by rw [hu]; rfl
  have flood : startRecovery s i.toNat = floodControl u 4 (BitVec.ofNat 64 (s.module.toNat + 2 * 2 ^ 16)) := by
    rw [hu, ← deflectFor_modLink]
    unfold startRecovery
    rw [h]
    rfl
  rw [flood]
  refine ⟨?_, ?_, fun m hm => ?_, fun m hm hne => ?_⟩
  · rw [floodControl_frame, hu]
  · rw [floodControl_frame]
    exact (link _).trans (link_modLink_same hn _)
  · rw [floodControl_frame]
    exact (link m).trans (link_modLink_other hm _)
  · have sends := floodControl_sends (s := u) (m := m) (by rw [hu]; exact hm) (by rw [hu]; exact hne) 4 (BitVec.ofNat 64 (s.module.toNat + 2 * 2 ^ 16))
    rw [sends, hu]
    exact ⟨rfl, _, rfl, rfl, rfl, rfl, rfl, rfl⟩

/-! ### New frames (R427, R428, R433, R447) -/

/-- Two links that differ in nothing but what waits for them, what is in flight, and what each class has had of its share. -/
def sameTrailer (l m : Link) : Prop := m = { l with out := m.out, inFlight := m.inFlight, share := m.share }

theorem flits_length (p : Packet) : p.flits.length = p.flitCount := by simp [Packet.flits]

/-- Packets are taken from what waits, and nothing else of the link changes. -/
theorem takeFlits_same : ∀ (k n : Nat) (l : Link), sameTrailer l (takeFlits k n l).2
  | 0, _, _ => rfl
  | k + 1, n, l => by
    unfold takeFlits
    split
    · rfl
    · rename_i p _
      split
      · have h := takeFlits_same k (n - p.flitCount) (l.took p)
        unfold sameTrailer at h ⊢
        dsimp only
        rw [h]
        rfl
      · rfl

/-- The packets that are taken for n slots fit in them. -/
theorem takeFlits_fits : ∀ (k n : Nat) (l : Link), ((takeFlits k n l).1.flatMap (·.flits)).length ≤ n
  | 0, _, _ => Nat.zero_le _
  | k + 1, n, l => by
    unfold takeFlits
    split
    · exact Nat.zero_le _
    · rename_i p _
      split
      · have h := takeFlits_fits k (n - p.flitCount) (l.took p)
        simp only [List.flatMap_cons, List.length_append, flits_length]
        omega
      · exact Nat.zero_le _

/-- What the next frame of a link carries, and the link without it: nothing where the selected slot holds no key (R447). -/
def frameLoad (l : Link) : List Packet × Link :=
  match keyAt l.txKeys l.ksel with
  | some _ => takeFlits 16 16 l
  | none => ([], l)

theorem frameLoad_same (l : Link) : sameTrailer l (frameLoad l).2 := by
  unfold frameLoad
  split
  · exact takeFlits_same 16 16 l
  · rfl

/-- The number of flits in the next frame. -/
def flitLoad (l : Link) : Nat := ((frameLoad l).1.flatMap (·.flits)).length

theorem flitLoad_le (l : Link) : flitLoad l ≤ 16 := by
  unfold flitLoad frameLoad
  split
  · exact takeFlits_fits 16 16 l
  · exact Nat.zero_le _

/-- The lowest n of 16 bits. -/
theorem valid_bit {n j : Nat} (hj : j < 16) : (BitVec.ofNat 16 (2 ^ n - 1)).getLsbD j = decide (j < n) := by
  rw [BitVec.getLsbD_ofNat, Nat.testBit_two_pow_sub_one]
  simp [hj]

theorem newFrame_slots (i : Nat) (l : Link) :
    ∃ fl : List (BitVec 512), fl.length = flitLoad l ∧ (newFrame i l).1.slots = fl ++ List.replicate (16 - flitLoad l) 0 := by
  refine ⟨_, ?_, rfl⟩
  rw [List.length_map, List.length_range]
  rfl

theorem newFrame_valid (i : Nat) (l : Link) : (newFrame i l).1.valid = BitVec.ofNat 16 (2 ^ flitLoad l - 1) := rfl

theorem newFrame_kidx (i : Nat) (l : Link) :
    (newFrame i l).1.kidx = if (frameLoad l).2.ksel = 1 then (newFrame i l).1.valid else 0 := rfl

/-- Whether the next frame says RETIRE of the idle slot: the link retires it, and no kept frame needs its key (R447). -/
def retiring (l : Link) : Bool := l.retire.getLsbD (l.ksel + 1).toNat && l.kept.all fun g => (g.under (l.ksel + 1 == 1)).isEmpty

theorem newFrame_retires (i : Nat) (l : Link) :
    (newFrame i l).1.retire0 = (retiring (frameLoad l).2 && (frameLoad l).2.ksel + 1 == 0) ∧
      (newFrame i l).1.retire1 = (retiring (frameLoad l).2 && (frameLoad l).2.ksel + 1 == 1) := ⟨rfl, rfl⟩

/-- The trailer of a frame takes its numbers from the link, which keeps the frame. -/
theorem newFrame_trailer (i : Nat) (l : Link) :
    (newFrame i l).1.fseq = (frameLoad l).2.txSeq ∧ (newFrame i l).1.ackseq = (frameLoad l).2.rxSeq ∧
      (newFrame i l).1.nak = (frameLoad l).2.sendNak ∧ (newFrame i l).1.kready = (frameLoad l).2.kready ∧
      (newFrame i l).1.credit = (frameLoad l).2.freed ∧ (newFrame i l).1.crc = crc32 (newFrame i l).1.body :=
  ⟨rfl, rfl, rfl, rfl, rfl, rfl⟩

theorem newFrame_link (i : Nat) (l : Link) :
    (newFrame i l).2.kept = (frameLoad l).2.kept ++ [(newFrame i l).1] ∧ (newFrame i l).2.txSeq = (frameLoad l).2.txSeq + 1 ∧
      (newFrame i l).2.sendNak = false ∧ (newFrame i l).2.keyUse = (frameLoad l).2.keyUse + 1 ∧
      (newFrame i l).2.rxSeq = (frameLoad l).2.rxSeq ∧ (newFrame i l).2.rxKeys = (frameLoad l).2.rxKeys :=
  ⟨rfl, rfl, rfl, rfl, rfl, rfl⟩

/-- A new frame by its fields, and the link after it: what R427, R428 and R447 say of both. -/
theorem newFrame_fields (i : Nat) (l : Link) :
    let x := (newFrame i l).1
    let m := (newFrame i l).2
    x.fseq = l.txSeq ∧ x.ackseq = l.rxSeq ∧ x.nak = l.sendNak ∧ x.kready = l.kready ∧ x.credit = l.freed ∧ x.slots.length = 16 ∧ x.crc = crc32 x.body ∧
      (∀ r : BitVec 1, (if r = 0 then x.retire0 else x.retire1) = true → r = l.ksel + 1 ∧ l.retire.getLsbD r.toNat = true) ∧
      (∀ j < 16, x.valid.getLsbD j = false → x.slots.getD j 0 = 0) ∧ (∀ j < 16, x.valid.getLsbD j = true → x.kidx.getLsbD j = (l.ksel == 1)) ∧
      m.kept = l.kept ++ [x] ∧ m.txSeq = l.txSeq + 1 ∧ m.sendNak = false ∧ m.keyUse = l.keyUse + 1 ∧ m.rxSeq = l.rxSeq ∧ m.rxKeys = l.rxKeys := by
  intro x m
  have same : sameTrailer l (frameLoad l).2 := frameLoad_same l
  have ksel : (frameLoad l).2.ksel = l.ksel := by rw [same]
  have retire : (frameLoad l).2.retire = l.retire := by rw [same]
  obtain ⟨fl, hlen, hslots⟩ := newFrame_slots i l
  obtain ⟨fseq, ackseq, nak, kready, credit, crc⟩ := newFrame_trailer i l
  obtain ⟨kept, txSeq, sendNak, keyUse, rxSeq, rxKeys⟩ := newFrame_link i l
  have hle := flitLoad_le l
  have hvalid {j : Nat} (hj : j < 16) : x.valid.getLsbD j = decide (j < flitLoad l) := valid_bit hj
  refine ⟨fseq.trans (by rw [same]), ackseq.trans (by rw [same]), nak.trans (by rw [same]), kready.trans (by rw [same]), credit.trans (by rw [same]),
    ?_, crc, fun r hr => ?_, fun j hj hv => ?_, fun j hj hv => ?_, kept.trans (by rw [same]), txSeq.trans (by rw [same]), sendNak,
    keyUse.trans (by rw [same]), rxSeq.trans (by rw [same]), rxKeys.trans (by rw [same])⟩
  · show (newFrame i l).1.slots.length = 16
    rw [hslots]
    simp [hlen, hle]
  · obtain ⟨hr0, hr1⟩ := newFrame_retires i l
    simp only [x, hr0, hr1, retiring, ksel, retire] at hr
    grind
  · show (newFrame i l).1.slots.getD j 0 = 0
    rw [hvalid hj, decide_eq_false_iff_not] at hv
    rw [hslots, List.getD_append_right _ _ _ _ (by omega)]
    simp
  · show (newFrame i l).1.kidx.getLsbD j = _
    rw [newFrame_kidx, ksel]
    split <;> simp_all [x]

/-! ### Frames sent (R427, R429, R446) -/

section
variable {s : State} {i : BitVec 5}

theorem sendFrame_down (h : linkUp s i.toNat = false) : sendFrame s i = s := by simp [sendFrame, h]

/-- A kept frame is sent again, bit for bit, and counted. -/
theorem sendFrame_again {g : Frame} {rest : List Frame} (h : linkUp s i.toNat = true) (hr : (s.link i.toNat).resend = g :: rest) :
    sendFrame s i = { s.modLink i.toNat fun _ => { s.link i.toNat with resend := rest, replays := bump (s.link i.toNat).replays } with
      frames := s.frames ++ [(i, g)] } := by
  have e : (s.modLink i.toNat fun l => { l with resend := rest, replays := bump l.replays })
      = s.modLink i.toNat fun _ => { s.link i.toNat with resend := rest, replays := bump (s.link i.toNat).replays } := modLink_congr rfl
  simp only [sendFrame, h, hr, e, Bool.not_true, Bool.false_eq_true, if_false]

/-- A saturating count stops at its greatest value. -/
theorem bump_toNat (c : BitVec 16) : (bump c).toNat = min (c.toNat + 1) 65535 := by
  have := c.isLt
  unfold bump
  split
  · rename_i h
    rw [h]
    decide
  · rename_i h
    have : c.toNat ≠ 65535 := fun e => h (BitVec.eq_of_toNat_eq e)
    rw [BitVec.toNat_add]
    show (c.toNat + 1) % 65536 = min (c.toNat + 1) 65535
    omega

/-- With nothing to be sent again: recovery at the limit of the key's use (R446), nothing while 128 frames are kept (R427), else a new frame. -/
theorem sendFrame_new (h : linkUp s i.toNat = true) (hr : (s.link i.toNat).resend = []) :
    sendFrame s i =
      if 2 ^ 31 ≤ (s.link i.toNat).keyUse + 1 then startRecovery s i.toNat
      else if 128 ≤ (s.link i.toNat).kept.length then s
      else { s.modLink i.toNat fun _ => (newFrame i.toNat ((s.link i.toNat).overdue (switchTime s))).2 with
        frames := s.frames ++ [(i, (newFrame i.toNat ((s.link i.toNat).overdue (switchTime s))).1)] } := by
  simp only [sendFrame, h, hr, Bool.not_true, Bool.false_eq_true, if_false]

end

/-! ### Frames received (R428, R429, R447) -/

/-- A link that has discarded a frame that failed a check: only the awaited one counts as a failure (log 40). -/
def failedLink (l : Link) (f : Frame) : Link :=
  { l with sendNak := true, failures := if f.fseq = l.rxSeq + 1 then l.failures + 1 else l.failures }

theorem frameFails_eq (s : State) (n : Nat) (f : Frame) :
    frameFails s n f = if 16 ≤ ((s.modLink n fun _ => failedLink (s.link n) f).link n).failures
      then startRecovery (s.modLink n fun _ => failedLink (s.link n) f) n else s.modLink n fun _ => failedLink (s.link n) f := by
  have e : (s.modLink n fun l => failedLink l f) = s.modLink n fun _ => failedLink (s.link n) f := modLink_congr rfl
  rw [← e]
  rfl

theorem frameFails_counted {s : State} {n : Nat} {f : Frame} (hn : n < 18) (h : (failedLink (s.link n) f).failures < 16) :
    frameFails s n f = s.modLink n fun _ => failedLink (s.link n) f := by
  rw [frameFails_eq, link_modLink_same hn, if_neg (by omega)]

/-- The sixteenth failure of the awaited frame starts recovery (R429). -/
theorem frameFails_recovers {s : State} {i : BitVec 5} {f : Frame} (h : linkUp s i.toNat = true) (hf : 16 ≤ (failedLink (s.link i.toNat) f).failures) :
    recovers (s.modLink i.toNat fun _ => failedLink (s.link i.toNat) f) i (frameFails s i.toNat f) := by
  have hn := lt_of_up (linkUp_iff.mp h).1
  have up : linkUp (s.modLink i.toNat fun _ => failedLink (s.link i.toNat) f) i.toNat = true := by
    rw [linkUp_iff, link_modLink_same hn]
    exact linkUp_iff.mp h
  rw [frameFails_eq, link_modLink_same hn, if_pos hf]
  exact startRecovery_recovers up

section
variable {s : State} {i : BitVec 5} {f : Frame}

theorem receiveFrame_down (h : (s.link i.toNat).up = false) : receiveFrame s i f = s := by simp [receiveFrame, h]

theorem seqAfter_next (a : BitVec 32) : seqAfter (a + 1) a = true := by
  simp [seqAfter]

/-- A frame with a wrong CRC, one out of order and one whose tag fails are discarded with NAK (R429). -/
theorem receiveFrame_fails (h : (s.link i.toNat).up = true)
    (hf : crc32 f.body ≠ f.crc ∨
      (f.fseq = (s.link i.toNat).rxSeq + 1 ∧ ¬ (tagPasses i.toNat (s.link i.toNat) f 0 = true ∧ tagPasses i.toNat (s.link i.toNat) f 1 = true)) ∨
      (0 < (f.fseq - (s.link i.toNat).rxSeq).toInt ∧ f.fseq ≠ (s.link i.toNat).rxSeq + 1)) :
    receiveFrame s i f = frameFails s i.toNat f := by
  by_cases hc : crc32 f.body = f.crc
  · have after : seqAfter f.fseq (s.link i.toNat).rxSeq = true := by
      rcases hf with hf | ⟨hn, -⟩ | ⟨ha, -⟩
      · exact absurd hc hf
      · rw [hn]
        exact seqAfter_next _
      · simpa [seqAfter] using ha
    have refused : (f.fseq ≠ (s.link i.toNat).rxSeq + 1 || !tagPasses i.toNat (s.link i.toNat) f 0 || !tagPasses i.toNat (s.link i.toNat) f 1) = true := by
      rcases hf with hf | ⟨-, ht⟩ | ⟨-, hn⟩
      · exact absurd hc hf
      · simp only [Bool.or_eq_true, Bool.not_eq_true']
        grind
      · rw [decide_eq_true hn]
        rfl
    simp only [receiveFrame, h, hc, after, refused]
    simp
  · have : (crc32 f.body != f.crc) = true := by simpa using hc
    simp [receiveFrame, h, this]

/-- A frame that is not after the last accepted one is a duplicate, and is discarded (R429). -/
theorem receiveFrame_duplicate (hc : crc32 f.body = f.crc) (hd : (f.fseq - (s.link i.toNat).rxSeq).toInt ≤ 0) : receiveFrame s i f = s := by
  have : seqAfter f.fseq (s.link i.toNat).rxSeq = false := by simpa [seqAfter] using hd
  simp [receiveFrame, hc, this]

/-- The awaited frame with no flits changes its link by its trailer alone (R429). -/
theorem receiveFrame_empty (h : (s.link i.toNat).up = true) (hc : crc32 f.body = f.crc) (hn : f.fseq = (s.link i.toNat).rxSeq + 1)
    (ht : tagPasses i.toNat (s.link i.toNat) f 0 = true ∧ tagPasses i.toNat (s.link i.toNat) f 1 = true) (hv : f.valid = 0)
    (hr : (s.link i.toNat).rxFlits = []) :
    receiveFrame s i f = s.modLink i.toNat fun _ => (s.link i.toNat).accepted f [] ((s.link i.toNat).rxCarried ++ f.carried) := by
  have after : seqAfter f.fseq (s.link i.toNat).rxSeq = true := by
    rw [hn]
    exact seqAfter_next _
  have none : openFlits i.toNat (s.link i.toNat) f = [] := by simp [openFlits, hv]
  have e (c : List Carried) : (s.modLink i.toNat fun l => l.accepted f [] c) = s.modLink i.toNat fun _ => (s.link i.toNat).accepted f [] c :=
    modLink_congr rfl
  have passes : (f.fseq ≠ (s.link i.toNat).rxSeq + 1 || !tagPasses i.toNat (s.link i.toNat) f 0 || !tagPasses i.toNat (s.link i.toNat) f 1) = false := by
    rw [decide_eq_false (not_not_intro hn), ht.1, ht.2]
    rfl
  unfold receiveFrame
  dsimp only
  rw [passes, after, h, hc, hr, none]
  simp [packetsOf, withCarried, e]

end

/-! ### The link of least load (R439) -/

/-- One link looked at on the way to the one of least load. -/
def lighter (s : State) (b : Option Nat) (i : Nat) : Option Nat :=
  if linkUp s i then
    match b with
    | some j => if queuedFlits s i < queuedFlits s j then some i else b
    | none => some i
  else b

/-- The link of least load among the first n. -/
def lightest (s : State) (n : Nat) : Option Nat := (List.range n).foldl (lighter s) none

theorem lightest_succ (s : State) (n : Nat) : lightest s (n + 1) = lighter s (lightest s n) n := by
  simp [lightest, List.range_succ]

/-- A link that is looked at is taken or passed over. -/
theorem lighter_cases (s : State) (b : Option Nat) (i : Nat) : lighter s b i = b ∨ (lighter s b i = some i ∧ linkUp s i = true) := by
  unfold lighter
  split
  · rename_i h
    split
    · split
      · exact .inr ⟨rfl, h⟩
      · exact .inl rfl
    · exact .inr ⟨rfl, h⟩
  · exact .inl rfl

/-- The link of least load is one that carries packets. -/
theorem lightest_up {s : State} : ∀ {n j : Nat}, lightest s n = some j → j < n ∧ linkUp s j = true
  | 0, _, h => nomatch h
  | n + 1, j, h => by
    rw [lightest_succ] at h
    rcases lighter_cases s (lightest s n) n with e | ⟨e, hu⟩
    · obtain ⟨hj, hu⟩ := lightest_up (e.symm.trans h)
      exact ⟨Nat.lt_succ_of_lt hj, hu⟩
    · obtain rfl : n = j := Option.some.inj (e.symm.trans h)
      exact ⟨Nat.lt_succ_self n, hu⟩

/-- Where no link is taken, none carries packets. -/
theorem lightest_none {s : State} : ∀ {n : Nat}, lightest s n = none → ∀ j < n, linkUp s j = false
  | 0, _, _, hj => absurd hj (Nat.not_lt_zero _)
  | n + 1, h, j, hj => by
    rw [lightest_succ] at h
    have hn : linkUp s n = false := by
      by_contra hu
      rw [Bool.not_eq_false] at hu
      unfold lighter at h
      rw [if_pos hu] at h
      split at h
      · split at h
        · cases h
        · simp_all
      · cases h
    have hb : lightest s n = none := by
      unfold lighter at h
      rwa [hn] at h
    rcases Nat.lt_succ_iff_lt_or_eq.mp hj with hj | rfl
    · exact lightest_none hb j hj
    · exact hn

/-- A link that carries packets and has the least load, the lowest-numbered of equals, is the one that is taken. -/
theorem bestLink_least {s : State} {j : Nat} (hj : j < 18) (hu : linkUp s j = true)
    (h : ∀ k < 18, linkUp s k = true → queuedFlits s j ≤ queuedFlits s k ∧ (k < j → queuedFlits s j < queuedFlits s k)) : bestLink s = some j := by
  have key : ∀ n ≤ 18, j < n → lightest s n = some j := by
    intro n
    induction n with
    | zero => exact fun _ hn => absurd hn (Nat.not_lt_zero j)
    | succ n ih =>
      intro hn hjn
      rw [lightest_succ]
      rcases Nat.lt_succ_iff_lt_or_eq.mp hjn with hlt | rfl
      · rw [ih (by omega) hlt]
        unfold lighter
        split
        · rename_i hun
          have := (h n (by omega) hun).1
          simp only [if_neg (Nat.not_lt.mpr this)]
        · rfl
      · unfold lighter
        rw [if_pos hu]
        split
        · rename_i k hk
          obtain ⟨hkj, huk⟩ := lightest_up hk
          rw [if_pos ((h k (by omega) huk).2 hkj)]
        · rfl
  exact key 18 (Nat.le_refl 18) hj

/-! ### The end of a recovery (R442) -/

/-- The return to flowlet mode changes the mode, its flows, and what the flood takes. -/
theorem flowletAgain_frame (s : State) :
    flowletAgain s = { s with
      heldOut := (flowletAgain s).heldOut, defl := (flowletAgain s).defl, flows := (flowletAgain s).flows
      recovering := (flowletAgain s).recovering, floodSeq := (flowletAgain s).floodSeq } := by
  unfold flowletAgain
  split
  · rw [floodControl_frame]
    rfl
  · rfl

theorem flowletAgain_link (s : State) (m : Nat) : (flowletAgain s).link m = s.link m := by
  rw [flowletAgain_frame]
  rfl

/-- A link that is declared failed. -/
def deadLink (l : Link) : Link := { l with recov := false, up := false, failed := true, kept := [], resend := [], out := [] }

/-- The module with a link declared failed, before its packets take another. -/
def withDeadLink (s : State) (n : Nat) : State :=
  { s.modLink n deadLink with linkReports := (s.modLink n deadLink).linkReports ++ [(BitVec.ofNat 5 n, (s.link n).rxSeq)] }

theorem withDeadLink_frame (s : State) (n : Nat) :
    withDeadLink s n = { s with links := (s.modLink n deadLink).links, linkReports := s.linkReports ++ [(BitVec.ofNat 5 n, (s.link n).rxSeq)] } := by
  unfold withDeadLink
  rw [modLink_frame]

theorem withDeadLink_same {s : State} {n : Nat} (h : n < 18) : (withDeadLink s n).link n = deadLink (s.link n) := link_modLink_same h _

theorem withDeadLink_other {s : State} {n m : Nat} (h : m ≠ n) : (withDeadLink s n).link m = s.link m := link_modLink_other h _

section
variable {s : State} {n : Nat} (hr : (s.link n).recov = true)
include hr

/-- A link that recovers carries nothing, and no more does one that has failed: the same links carry packets. -/
theorem withDeadLink_linkUp (k : Nat) : linkUp (withDeadLink s n) k = linkUp s k := by
  by_cases hk : k = n
  · subst hk
    simp [linkUp, withDeadLink_same (lt_of_recov hr), deadLink, hr]
  · simp [linkUp, withDeadLink_other hk]

theorem ne_of_linkUp {k : Nat} (h : linkUp s k = true) : k ≠ n := by
  rintro rfl
  rw [(linkUp_iff.mp h).2.1] at hr
  exact Bool.false_ne_true hr

/-- The link of least load stays that where a recovering link fails. -/
theorem withDeadLink_best {j : Nat} (hj : j < 18) (hu : linkUp s j = true)
    (h : ∀ k < 18, linkUp s k = true → queuedFlits s j ≤ queuedFlits s k ∧ (k < j → queuedFlits s j < queuedFlits s k)) :
    bestLink (withDeadLink s n) = some j := by
  have load {k : Nat} (hk : linkUp s k = true) : queuedFlits (withDeadLink s n) k = queuedFlits s k := by
    unfold queuedFlits
    rw [withDeadLink_other (ne_of_linkUp hr hk)]
  refine bestLink_least hj (by rwa [withDeadLink_linkUp hr]) fun k hk huk => ?_
  rw [withDeadLink_linkUp hr] at huk
  rw [load hu, load huk]
  exact h k hk huk

end

/-- The packets of a failed link take the one of least load, or stay with their switch; with no frame kept, they are those that waited for it (R442). -/
theorem failLink_reroutes (s : State) (n : Nat) (last : BitVec 32) :
    ∃ ps : List Packet, ((s.link n).kept = [] → ps = (s.link n).out.map (·.pkt)) ∧
      (∀ j, bestLink (withDeadLink s n) = some j →
        failLink s n last = (withDeadLink s n).modLink j fun m => { m with out := m.out ++ ps.map fun p => atOutput j p (switchTime s) }) ∧
      (bestLink (withDeadLink s n) = none →
        failLink s n last = ps.foldl (fun t p => arrive t (.l2 (BitVec.ofNat 1 (n / 9))) 13 p) (withDeadLink s n)) := by
  refine ⟨?ps, ?kept, ?some, ?none⟩
  case some =>
    intro j h
    unfold failLink
    dsimp only
    split
    · rename_i k hk
      obtain rfl : j = k := Option.some.inj (h.symm.trans hk)
      rfl
    · rename_i hk
      cases h.symm.trans hk
  case none =>
    intro h
    unfold failLink
    dsimp only
    split
    · rename_i k hk
      cases h.symm.trans hk
    · rfl
  case kept =>
    intro hk
    rw [hk]
    rfl

/-! ### What an accepted frame and a NEWKEY leave of a link (R429, R447) -/

/-- The trailer of an accepted frame: the kept frames that the other end has, NAK, KREADY and RETIRE. -/
theorem accepted_fields (l : Link) (f : Frame) (rest : List (BitVec 512)) (c : List Carried) :
    let m := l.accepted f rest c
    let idle : BitVec 1 := l.ksel + 1
    m.rxSeq = f.fseq ∧ m.failures = 0 ∧ (∀ y, y ∈ m.kept ↔ y ∈ l.kept ∧ 0 < (y.fseq - f.ackseq).toInt) ∧ (f.nak = true → m.resend = m.kept) ∧
      (f.kready = false → m.ksel = l.ksel) ∧
      (∀ a b, f.kready = true → l.txKeys[idle.toNat]'idle.isLt = some a → l.txKeys[l.ksel.toNat]'l.ksel.isLt = some b → b < a → m.ksel = idle) ∧
      m.rxKeys[0] = (if f.retire0 && l.holdsOld 0 then none else l.rxKeys[0]) ∧ m.rxKeys[1] = (if f.retire1 && l.holdsOld 1 then none else l.rxKeys[1]) ∧
      (f.retire0 && l.holdsOld 0 || f.retire1 && l.holdsOld 1 → m.rot = false) := by
  intro m idle
  refine ⟨rfl, rfl, fun y => ?_, fun hn => ?_, fun hk => ?_, fun a b hk ha hb hab => ?_, ?_, ?_, fun hg => ?_⟩
  · simp [m, Link.accepted, seqAfter]
  · simp [m, Link.accepted, hn]
  · simp [m, Link.accepted, hk]
  · have ha' : keyAt l.txKeys (l.ksel + 1) = some a := ha
    have hb' : keyAt l.txKeys l.ksel = some b := hb
    simp only [m, Link.accepted, hk, ha', hb', hab, decide_true, Bool.and_self, if_true]
    rfl
  · simp [m, Link.accepted]
  · simp [m, Link.accepted]
  · show (l.rot && !(f.retire0 && l.holdsOld 0 || f.retire1 && l.holdsOld 1)) = false
    rw [hg, Bool.not_true, Bool.and_false]

/-- Of two slots, the one that is not selected. -/
theorem idle_toNat (k : BitVec 1) : (k + 1).toNat = 1 - k.toNat := by
  revert k
  decide

/-- A rotation that awaits RETIRE lets no other begin (R447). -/
theorem linkNewKey_rotating {l : Link} (h : l.rot = true) : linkNewKey l = l := by simp [linkNewKey, h]

/-- NEWKEY loads the idle slots and leaves the selected ones. -/
theorem linkNewKey_loads {l : Link} (h : l.rot = false) :
    let m := linkNewKey l
    let idle : BitVec 1 := l.ksel + 1
    m.rot = true ∧ m.kready = true ∧ m.newkey = false ∧ m.ksel = l.ksel ∧
      (m.txKeys[idle.toNat]'idle.isLt).isSome = true ∧ (m.rxKeys[idle.toNat]'idle.isLt).isSome = true ∧
      m.txKeys[l.ksel.toNat]'l.ksel.isLt = l.txKeys[l.ksel.toNat]'l.ksel.isLt ∧ m.rxKeys[l.ksel.toNat]'l.ksel.isLt = l.rxKeys[l.ksel.toNat]'l.ksel.isLt := by
  intro m idle
  have hi : idle.toNat = 1 - l.ksel.toNat := idle_toNat l.ksel
  have hne : 1 - l.ksel.toNat ≠ l.ksel.toNat := by omega
  have hm : m = linkNewKey l := rfl
  simp only [linkNewKey, h, Bool.false_eq_true, if_false] at hm
  rw [hm]
  refine ⟨rfl, rfl, rfl, rfl, ?_, ?_, ?_, ?_⟩
  · simp [hi]
  · simp [hi]
  · exact Vector.getElem_set_ne (by omega) _ hne
  · exact Vector.getElem_set_ne (by omega) _ hne

theorem exec_newkey {n : Nat} (h : n < 18) (s : State) : exec (.linkctlNewkey (BitVec.ofNat 5 n)) s = .next (s.modLink n linkNewKey) := by
  have : (BitVec.ofNat 5 n).toNat = n := Nat.mod_eq_of_lt (by omega)
  show Host.Outcome.next (s.modLink (BitVec.ofNat 5 n).toNat linkNewKey) = _
  rw [this]

/-- A write of LINKCTL sets REPLAYS, and with its NEWKEY bit begins a rotation (R448). -/
theorem linkctl_write {n : Nat} (h : n < 18) (s : State) (pa : Nat) (v : Word) :
    Host.Outcome.next (ctlWrite s pa (.linkctl n) v) =
      if v.getLsbD 4 then exec (.linkctlNewkey (BitVec.ofNat 5 n)) (s.modLink n fun l => { l with replays := v.extractLsb' 16 16 })
      else .next (s.modLink n fun l => { l with replays := v.extractLsb' 16 16 }) := by
  have e : ctlWrite s pa (.linkctl n) v = s.modLink n fun l =>
      if v.getLsbD 4 then linkNewKey { l with replays := v.extractLsb' 16 16 } else { l with replays := v.extractLsb' 16 16 } := rfl
  rw [exec_newkey h, modLink_modLink, e]
  split <;> rfl

/-! ### Writes of an abutment die's fabric block (R440, R448, R480) -/

section
variable {s : State} {a : BitVec 1} {o : Nat} (ho : o < 0x10000000) (h8 : o % 8 = 0)
include ho h8

theorem fabric_offset : abutBase a.toNat + o < 2 ^ 31 ∧ (abutBase a.toNat + o) % 8 = 0 := by
  have := a.isLt
  unfold abutBase
  omega

theorem fabricWrite_reaches {r : CtlReg} (h : fabricReg a.toNat o = some r) (v : Word) :
    exec (.registerWrite (ctlAddr s.module 0 (abutBase a.toNat + o)) v) s = .next (ctlWrite s (ctlPa s.module 0 (abutBase a.toNat + o)) r v) :=
  registerWrite_reaches (fabric_offset ho h8).1 (fabric_offset ho h8).2 ((ctlReg_fabric ho).trans h) v

theorem fabric_word_stored (h : fabricReg a.toNat o = some .word) (hc : s.ctl.Pairwise (fun p q => p.1 < q.1)) (v : Word) :
    ∀ i ∈ [Instr.registerWrite (ctlAddr s.module 0 (abutBase a.toNat + o)) v, .accessTableStore (ctlAddr s.module 0 (abutBase a.toNat + o)) v],
      ∃ l : List (Nat × Word), exec i s = .next { s with ctl := l } ∧ l.Pairwise (fun p q => p.1 < q.1) ∧
        ∀ q, (lookupKey l q).getD 0 = if q = (ctlAddr s.module 0 (abutBase a.toNat + o)).toNat then v else (lookupKey s.ctl q).getD 0 :=
  table_word_stored (fabric_offset ho h8).1 (fabric_offset ho h8).2 ((ctlReg_fabric ho).trans h) hc v
end

/-- Steps that leave the same state are the same step. -/
theorem next_of_eq {s t : State} (h : s = t) : (.next s : Out) = .next t := congrArg _ h

/-! ### The end of a recovery, as the link and the module stand after it (R442) -/

/-- A link that carries packets again: its kept frames are to be sent again. -/
def retrainedLink (l : Link) : Link := { l with recov := false, up := true, failures := 0, resend := l.kept }

theorem linkRetrained_result {s : State} {i : BitVec 5} (h : (s.link i.toNat).recov = true) :
    ∃ t, exec (.linkRetrained i) s = .next t ∧
      t = { s with links := t.links, heldOut := t.heldOut, defl := t.defl, flows := t.flows, recovering := t.recovering, floodSeq := t.floodSeq } ∧
      t.link i.toNat = retrainedLink (s.link i.toNat) ∧ ∀ m, m ≠ i.toNat → t.link m = s.link m := by
  refine ⟨flowletAgain (s.modLink i.toNat retrainedLink), congrArg _ (if_pos h), ?_, ?_, fun m hm => ?_⟩
  · rw [flowletAgain_frame, modLink_frame]
  · rw [flowletAgain_link, link_modLink_same (lt_of_recov h)]
  · rw [flowletAgain_link, link_modLink_other hm]

section
variable {s : State} {n : Nat} (h : (s.link n).recov = true) (last : BitVec 32)
include h

/-- A failed link whose packets have a link to take, or that has none, leaves the links and its report. -/
theorem failLink_result (hd : (∃ j < 18, linkUp s j = true) ∨ ((s.link n).kept = [] ∧ (s.link n).out = [])) :
    failLink s n last = { withDeadLink s n with links := (failLink s n last).links } ∧ (failLink s n last).link n = deadLink (s.link n) := by
  have dead := withDeadLink_same (s := s) (lt_of_recov h)
  obtain ⟨ps, packets, takes, stays⟩ := failLink_reroutes s n last
  rcases hb : bestLink (withDeadLink s n) with _ | j
  · have down (j : Nat) (hj : j < 18) : linkUp s j = false := (withDeadLink_linkUp h j).symm.trans (lightest_none hb j hj)
    have empty : ps = [] := by
      rcases hd with ⟨j, hj, hu⟩ | ⟨hk, ho⟩
      · exact absurd hu (Bool.eq_false_iff.mp (down j hj))
      · rw [packets hk, ho]
        rfl
    rw [stays hb, empty]
    exact ⟨rfl, dead⟩
  · have hj : j ≠ n := ne_of_linkUp h ((withDeadLink_linkUp h j).symm.trans (lightest_up hb).2)
    rw [takes j hb]
    exact ⟨modLink_frame _ _ _, (link_modLink_other hj.symm _).trans dead⟩

/-- With no frame kept, the packets that waited for a failed link go to the end of what waits for the one of least load. -/
theorem failLink_moves {j : Nat} (hk : (s.link n).kept = []) (hj : j < 18) (hu : linkUp s j = true)
    (least : ∀ k < 18, linkUp s k = true → queuedFlits s j ≤ queuedFlits s k ∧ (k < j → queuedFlits s j < queuedFlits s k)) :
    ((failLink s n last).link j).out = (s.link j).out ++ (s.link n).out.map fun b => atOutput j b.pkt (switchTime s) := by
  obtain ⟨ps, packets, takes, -⟩ := failLink_reroutes s n last
  rw [takes j (withDeadLink_best h hj hu least), link_modLink_same hj, withDeadLink_other (ne_of_linkUp h hu), packets hk, List.map_map]
  rfl
end

/-- Settles O44: each address is taken to its register by ctlReg and fabricReg, and each event of a link by the equations above of what is sent, received,
failed and retrained. -/
theorem controlAndLinks : Obligations.ControlAndLinks := by
  refine ⟨fun s d a v k => ?registers, fun s i f g rest gap last => ?links⟩
  case registers =>
    intro at_ fab w link
    have ha := a.isLt
    refine ⟨?_, ?_, ?_, ?_, ?_, ?_, ?_, ?_, ?_, ?_, ?_⟩
    · exact registerWrite_reaches (off := 0x40000000) (by decide) rfl rfl v
    · exact registerWrite_reaches (off := 0x40000010) (by decide) rfl rfl v
    · exact registerWrite_reaches (off := 0x40000008) (by decide) rfl rfl v
    · -- the tables of slice groups, pier engines, DMA ports, Trestle ports and host bindings
      rintro hc p (⟨hk, rfl⟩ | ⟨hk, rfl⟩ | ⟨hk, rfl⟩ | ⟨hk, rfl⟩ | ⟨hk, rfl⟩)
      · exact table_word_stored (by omega) (by omega) (ctlReg_table (by omega)) hc v
      · exact table_word_stored (by omega) (by omega) (ctlReg_table (by omega)) hc v
      · exact fabric_word_stored (by omega) (by omega) (fabricReg_word (by omega)) hc v
      · exact fabric_word_stored (by omega) (by omega) (fabricReg_word (by omega)) hc v
      · exact fabric_word_stored (by omega) (by omega) (fabricReg_word (by omega)) hc v
    · intro hk
      exact (fabricWrite_reaches (by omega) (by omega) (fabricReg_link hk) v).trans (linkctl_write (by omega) s _ v)
    · exact fabricWrite_reaches (o := 0x1000) (by decide) rfl rfl v
    · refine (fabricWrite_reaches (o := 0x1008) (r := .fabstat a) (by decide) rfl ?_ v).trans rfl
      simp [fabricReg]
    · intro hk
      exact ⟨fabricWrite_reaches (by omega) (by omega) (fabricReg_group (by omega)) v,
        registerWrite_reaches (by omega) (by omega) (ctlReg_group (by omega)) v⟩
    · -- firmware SRAM
      intro hk hm
      obtain ⟨ho, h8⟩ := fabric_offset (a := a) (o := 0x8000000 + 8 * k) (by omega) (by omega)
      obtain ⟨t, e, hs, hb⟩ := ctlWrite_sram (s := s) (d := 0) ho h8 hm v
      refine ⟨t, (fabricWrite_reaches (by omega) (by omega) (fabricReg_sram (by omega)) v).trans (congrArg _ e), hs, ?_⟩
      have hpa : (fab (0x8000000 + 8 * k)).toNat = ctlPa s.module 0 (abutBase a.toNat + (0x8000000 + 8 * k)) := ctlAddr_toNat _ 0 ho
      rw [hpa]
      exact hb
    · intro hlo hhi
      exact registerWrite_nothing (by omega) (by omega) (ctlReg_none ⟨hlo, hhi⟩) v
    · exact fun pa hpa => control_write_elsewhere v hpa
  case links =>
    intro n l up put recovery worn next failing tagsPass idle
    have down (h : ¬ up) : linkUp s n = false := Bool.eq_false_iff.mpr fun hu => h (linkUp_iff.mp hu)
    refine ⟨rfl, ?_, fun h => next_of_eq (if_neg h), ?_, fun h => next_of_eq (receiveFrame_down h), ?_,
      fun _ hc hd => next_of_eq (receiveFrame_duplicate hc hd), ?_, ?_, ?_, fun h => next_of_eq (modLink_none h _),
      fun _ h => next_of_eq (modLink_id (linkNewKey_rotating h)), ?_⟩
    · -- a link that carries no packets
      intro h
      refine ⟨next_of_eq (sendFrame_down (down h)), next_of_eq (startRecovery_down (down h)), next_of_eq ?_⟩
      split
      · exact startRecovery_down (down h)
      · rfl
    · -- a link that carries packets: recovery, and what it sends
      intro h
      have hu : linkUp s n = true := linkUp_iff.mpr h
      refine ⟨⟨_, rfl, startRecovery_recovers hu⟩, fun hw => ⟨?_, fun hr => ?_⟩, fun hr => ?_, fun hr hw hk => ?_, fun hr hw hk => ?_⟩
      · exact ⟨_, next_of_eq (if_pos hw), startRecovery_recovers hu⟩
      · exact ⟨_, next_of_eq ((sendFrame_new hu hr).trans (if_pos hw)), startRecovery_recovers hu⟩
      · exact ⟨_, next_of_eq (sendFrame_again hu hr), bump_toNat _⟩
      · exact next_of_eq ((sendFrame_new hu hr).trans ((if_neg hw).trans (if_pos hk)))
      · exact ⟨_, _, next_of_eq ((sendFrame_new hu hr).trans ((if_neg hw).trans (if_neg (Nat.not_le.mpr hk)))), newFrame_fields n (l.overdue (switchTime s))⟩
    · -- a frame that fails a check
      intro h hf
      have hn : n < 18 := lt_of_up h
      have fails : exec (.frameReceive i f) s = .next (frameFails s n f) := next_of_eq (receiveFrame_fails h hf)
      have counted (hc : (failedLink l f).failures < 16) : exec (.frameReceive i f) s = .next failing :=
        fails.trans (next_of_eq (frameFails_counted hn hc))
      refine ⟨fun hl => counted ?_, fun hl hx => counted ?_, fun hl hx hu => ⟨_, fails, frameFails_recovers (linkUp_iff.mpr hu) ?_⟩⟩
      · show (if next then l.failures + 1 else l.failures) < 16
        split <;> omega
      · show (if next then l.failures + 1 else l.failures) < 16
        rw [if_neg hx]
        omega
      · show 16 ≤ if next then l.failures + 1 else l.failures
        rw [if_pos hx]
        omega
    · exact fun h hc hx ht hv hr => ⟨_, next_of_eq (receiveFrame_empty h hc hx ht hv hr), accepted_fields l f [] (l.rxCarried ++ f.carried)⟩
    · intro h
      have : ¬ l.recov = true := Bool.eq_false_iff.mp h
      exact ⟨next_of_eq (if_neg this), next_of_eq (if_neg this)⟩
    · -- the end of a recovery
      intro h
      refine ⟨linkRetrained_result h, flowletAgain (failLink s n last), next_of_eq (if_pos h), fun hd => ?_⟩
      obtain ⟨frame, dead⟩ := failLink_result h last hd
      have hi : BitVec.ofNat 5 n = i := by simp [n]
      refine ⟨?_, (flowletAgain_link _ n).trans dead, fun hk j hj hu least => ?_⟩
      · rw [flowletAgain_frame, frame, withDeadLink_frame, hi]
      · rw [flowletAgain_link]
        exact failLink_moves h last hk hj hu least
    · exact fun hn h => ⟨_, next_of_eq (modLink_congr rfl), linkNewKey_loads h⟩

end Sys2Proof.Proofs

/-! SUPPORT. Proofs of the statements of the family of spec/02: the sequential machine. -/

namespace Sys2Proof.Proofs

open Sys2Proof Sys2Proof.Machine Sys2Proof.Safety Sys2Proof.Laws.Step

/-! ### The state after reset -/

theorem get_start (r : BitVec 5) : Scal.start.get r = 0 := by
  unfold Scal.get
  split
  · rfl
  · exact Vector.getElem_replicate _

/-- Of the masks that a strand begins with, k0 and k7 read all ones and the others zero (R28, R36). -/
theorem mask_start (k : BitVec 3) : Hart.start.mask k = if k = 0 ∨ k = 7 then BitVec.allOnes 32768 else 0 := by
  unfold Hart.mask
  by_cases h0 : k = 0
  · rw [if_pos h0, if_pos (.inl h0)]
  · rw [if_neg h0]
    show (startMasks)[k.toNat] = _
    unfold startMasks
    rw [Vector.getElem_set]
    by_cases h7 : k = 7
    · subst h7; rfl
    · rw [if_neg fun e => h7 (BitVec.eq_of_toNat_eq e.symm), if_neg fun h => h.elim h0 h7]
      exact Vector.getElem_replicate _

/-- Every ring after reset is at the same values. -/
theorem ringAt_reset (n : BitVec 6) : State.reset.ringAt n = Ring.reset := by
  unfold State.ringAt
  split
  · rfl
  · exact Vector.getElem_replicate _

theorem reset_inv : Inv State.reset := by
  refine ⟨reset_wf, .nil, ?_, fun z hz => absurd hz List.not_mem_nil⟩
  show (moduleSwitches.map Switch.reset).map (·.id) = moduleSwitches
  simp only [List.map_map]
  exact List.map_id _

/-- Every switch after reset holds nothing (R450). -/
theorem switchOf_reset (w : SwitchId) : State.reset.switchOf w = Switch.reset w := by
  unfold State.switchOf
  rcases hf : State.reset.switches.find? fun x => x.id == w with _ | x <;> rw [hf]
  · rfl
  · obtain ⟨i, -, rfl⟩ := List.mem_map.mp (List.mem_of_find?_eq_some hf)
    have hi : i = w := beq_iff_eq.mp (List.find?_some hf :)
    rw [hi]
    rfl

theorem link_reset {i : Nat} (h : i < 18) : State.reset.link i = Link.reset := by
  unfold State.link
  rw [dif_pos h]
  exact Vector.getElem_replicate _

theorem mgmtAt_reset (c : BitVec 1) : State.reset.mgmtAt c = Mgmt.reset := Vector.getElem_replicate _

theorem die_reset (d : BitVec 3) : State.reset.die d = Die.reset := Vector.getElem_replicate _

/-- Settles O57: every entry of a table of the reset state is the reset entry, and the values are those of its definition. -/
theorem resetState : Obligations.ResetState := by
  unfold Obligations.ResetState
  simp only [ringAt_reset, mgmtAt_reset, die_reset, switchOf_reset]
  refine ⟨reset_inv, rfl, rfl, rfl, rfl, rfl, rfl, rfl, rfl, rfl, get_start, rfl, rfl, rfl, rfl, rfl, rfl, rfl, rfl, fun v => Vector.getElem_replicate _,
    mask_start, fun j => ?_, rfl, rfl, rfl, fun _ => ?_, fun _ => ?_, fun _ => ?_, fun i h => link_reset h, rfl, rfl, rfl, fun _ _ => ⟨rfl, rfl, rfl⟩⟩
  · show (Vector.replicate 8 StreamSlot.free)[j.toNat].bound = false
    rw [Vector.getElem_replicate]
    rfl
  · refine ⟨rfl, rfl, rfl, rfl, rfl, rfl, rfl, rfl, rfl, rfl, rfl, rfl, rfl, rfl, rfl, rfl, rfl, rfl, fun i => Vector.getElem_replicate _⟩
  · exact ⟨rfl, rfl, rfl, rfl, rfl, rfl, rfl, rfl, rfl, rfl⟩
  · exact ⟨rfl, rfl, rfl, rfl, rfl, rfl, rfl⟩

/-! ### The step as the run of a decoded word (R23, R44, R83, R107, R379) -/

/-- An instruction word is read as a load reads, or past the L1 with no trace (R225). -/
theorem fetchPhys_frame {va : Word} {pa n : Nat} {s t : State} {v : Nat} (h : fetchPhys va pa n s = .ok v t) : sameReads s t := by
  unfold fetchPhys at h
  have h := get_eq_ok h
  split at h
  · exact readPhys_frame h
  · split at h
    · simp at h
    · exact (pure_eq_ok h).2 ▸ sameReads_rfl s

/-- A fetch changes the kept translations, and what a read through the caches may change. -/
theorem fetchWord_frame {va : Word} {s t : State} {w : Word32} (h : fetchWord va s = .ok w t) : ∃ u, samePtes s u ∧ sameReads u t := by
  obtain ⟨p, u, ht, h⟩ := bind_eq_ok h
  obtain ⟨v, r, hr, h⟩ := bind_eq_ok h
  exact ⟨u, translate_frame ht, (pure_eq_ok h).2 ▸ fetchPhys_frame hr⟩

/-- A fetch leaves the strand's prefix, its queue, its pc and the executing agent. -/
theorem fetchWord_keeps {va : Word} {s t : State} {w : Word32} (h : fetchWord va s = .ok w t) :
    t.hart.pfx = s.hart.pfx ∧ t.hart.queue = s.hart.queue ∧ t.hart.sc = s.hart.sc ∧ t.onMgmt = s.onMgmt := by
  obtain ⟨u, hu, ht⟩ := fetchWord_frame h
  unfold samePtes at hu
  unfold sameReads at ht
  rw [ht, hu]
  exact ⟨rfl, rfl, rfl, rfl⟩

/-- A fetch from memory gives the word that the bytes there spell (R4, R225). -/
theorem fetchWord_memory {va : Word} {pa : Nat} {near : Bool} {s t : State} (ht : translate va 4 .x s = .ok (pa, near) t) (hm : inMemory t pa 4) :
    fetchWord va s = .ok (BitVec.ofNat 32 (loaded s pa 4)) t := by
  unfold fetchWord
  rw [bind_ok ht, ← loaded_samePtes (translate_frame ht)]
  exact bind_ok (fetchPhys_memory hm)

/-- Whether the executing agent may execute a word: a management core executes the instructions of R379 alone. -/
def executesWord (s : State) (w : Word32) : Prop := s.onMgmt = none ∨ ∃ op, decodeOp w = .ok op ∧ mgmtExecutes op w = true

theorem decode_ok {w : Word32} {i : Instr} (h : decode w = .ok i) : ∃ op, decodeOp w = .ok op ∧ i = op.build w := by
  unfold decode at h
  split at h
  · exact ⟨_, ‹_›, (Except.ok.inj h).symm⟩
  · cases h

theorem decode_error {w : Word32} {e : DecodeError} (h : decode w = .error e) : decodeOp w = .error e := by
  unfold decode at h
  split at h
  · cases h
  · rw [← Except.error.inj h]
    assumption

/-- With no prefix over it, a word that decodes and that the agent may execute runs as its instruction. -/
theorem runWord_decoded {s : State} {w : Word32} {i : Instr} (hp : s.hart.pfx = none) (ha : executesWord s w) (hd : decode w = .ok i) :
    runWord w s = exec i s := by
  obtain ⟨op, ho, rfl⟩ := decode_ok hd
  have hm : (s.onMgmt.isSome && !mgmtExecutes op w) = false := by
    rcases ha with h | ⟨op', h, hx⟩
    · simp [h]
    · obtain rfl : op = op' := Except.ok.inj (ho.symm.trans h)
      simp [hx]
  unfold runWord
  simp only [ho, hm, hp]
  rfl

/-- A word that does not decode, or that the agent does not execute, traps ILL with the word (R83, R379). -/
theorem runWord_refused {s : State} {w : Word32} (hq : s.hart.queue = []) (h : (∃ e, decode w = .error e) ∨ ¬ executesWord s w) :
    runWord w s = .next (takeTrap s causeILL (w.setWidth 64) s.hart.sc.pc false false) := by
  unfold runWord
  rcases ho : decodeOp w with e | op
  · exact runScalar_trap hq (ill_apply w s)
  · have hx : ¬ executesWord s w := by
      rcases h with ⟨e, h⟩ | h
      · exact absurd ((decode_error h).symm.trans ho) (by simp)
      · exact h
    obtain ⟨hm, hn⟩ := not_or.mp hx
    have hs : (s.onMgmt.isSome && !mgmtExecutes op w) = true := by
      have : mgmtExecutes op w = false := Bool.eq_false_iff.mpr fun h => hn ⟨op, ho, h⟩
      simp [Option.isSome_iff_ne_none.mpr hm, this]
    simp only [hs, if_true]
    exact runScalar_trap hq (ill_apply w s)

/-- Outside a convoy the next instruction is the word at the pc. -/
theorem runNext_fetched {s t : State} {w : Word32} (hc : s.hart.convoy = []) (h : fetchWord s.hart.sc.pc s = .ok w t) : runNext s = runWord w t := by
  unfold runNext
  simp only [hc, h]

/-- A fetch that fails takes its trap at the pc. -/
theorem runNext_unfetched {s t : State} {c : BitVec 8} {v : Word} (hc : s.hart.convoy = []) (hq : s.hart.queue = [])
    (h : fetchWord s.hart.sc.pc s = .error (.trap c v) t) : runNext s = .next (takeTrap t c v s.hart.sc.pc false false) := by
  unfold runNext
  simp only [hc, h]
  exact runScalar_trap hq (bind_error h)

/-- In a convoy the next instruction is its next member (R44). -/
theorem runNext_member {s : State} {w : Word32} {rest : List Word32} (hc : s.hart.convoy = w :: rest) : runNext s = runWord w s := by
  unfold runNext
  simp only [hc]

/-- Of the events, a module without power meets its reset alone (R423, R478). -/
theorem reachesOff_event (i : Instr) : (Stim.event i).reachesOff = true ↔ i = .moduleReset := by
  unfold Stim.reachesOff
  split
  · rename_i h
    simpa using h
  · rename_i h
    cases h
  · rename_i h
    cases h
  · rename_i h _ _
    exact ⟨fun e => absurd e (by simp), fun e => absurd (congrArg Stim.event e) h⟩

theorem step_event {s : State} {i : Instr} {rest : List Stim} (h : s.agenda = .event i :: rest) :
    (s.mode ≠ .off → s.mode ≠ .bootFailed → step s = exec i { s with agenda := rest }) ∧
      (s.mode = .off ∨ s.mode = .bootFailed →
        step s = if i = .moduleReset then exec i { s with agenda := rest } else .next { s with agenda := rest }) := by
  have hs : step s = takeStim { s with agenda := rest } (.event i) := by simp only [step, stepModule, h]
  rw [hs]
  unfold takeStim
  refine ⟨fun h0 h1 => ?_, fun hm => ?_⟩
  · simp only [beq_eq_false_iff_ne.mpr h0, beq_eq_false_iff_ne.mpr h1]
    rfl
  · have hm : (s.mode == .off || s.mode == .bootFailed) = true := by rcases hm with h | h <;> simp [h]
    simp only [hm, Bool.true_and, Bool.not_eq_true']
    by_cases hi : i = .moduleReset
    · rw [if_pos hi, if_neg (by simp [(reachesOff_event i).mpr hi])]
      rfl
    · rw [if_neg hi, if_pos (Bool.eq_false_iff.mpr fun h => hi ((reachesOff_event i).mp h))]

theorem anyStrand_iff (s : State) : anyStrand s = true ↔ s.ring.state ≠ .empty ∨ ∃ r ∈ s.rings.toList, r.state ≠ .empty := by
  simp only [anyStrand, Bool.or_eq_true, List.any_eq_true, bne_iff_ne]

/-- What time passing changes of a die. -/
theorem tick_die (s : State) (d : BitVec 3) :
    ∃ n c b, (tick s).die d = { s.die d with count := n, cycle := c, back := b } ∧ (dieHalted s d = true → c = (s.die d).cycle) := by
  refine ⟨_, _, _, (Vector.getElem_ofFn d.isLt), fun h => ?_⟩
  have hd : BitVec.ofNat 3 d.toNat = d := BitVec.ofNat_toNat .. |>.trans (BitVec.setWidth_eq d)
  simp only [hd, h, if_true]
  rfl

theorem tick_mgmtAt (s : State) (c : BitVec 1) : ∃ n, (tick s).mgmtAt c = { s.mgmtAt c with cycle := n } :=
  ⟨_, Vector.getElem_map _ _⟩

/-- Settles O56: a step is the run of the next word (`step_executes`), which is the word at the pc or the convoy's, and runs as it decodes. -/
theorem stepRunsDecoded : Obligations.StepRunsDecoded := by
  intro s
  refine ⟨fun i rest h => step_event h, fun hx => ?_, fun t pa near ht hm => fetchWord_memory ht hm, ?_⟩
  · rw [step_executes hx]
    refine ⟨fun hc w t hf => ?_, fun hc hq c v t hf => ?_, fun hp w rest i hc ha hd => ?_⟩
    · obtain ⟨hpfx, hqueue, hsc, hmgmt⟩ := fetchWord_keeps hf
      have moved : executesWord t w ↔ executesWord s w := by rw [executesWord, executesWord, hmgmt]
      rw [runNext_fetched hc hf]
      refine ⟨fun hp ha i hd => ?_, fun _ => rfl, fun hq hr => ?_⟩
      · rw [runWord_decoded (hpfx.trans hp) (moved.mpr ha) hd]
      · rw [runWord_refused (hqueue.trans hq) (hr.imp_right fun hn => mt moved.mp hn), hsc]
        rfl
    · rw [runNext_unfetched hc hq hf]
      rfl
    · rw [runNext_member hc, runWord_decoded hp ha hd]
  · refine ⟨_, _, _, _, _, rfl, ?_, tick_die s, tick_mgmtAt s⟩
    rw [Bool.or_eq_true, anyStrand_iff]

/-! ### The frame of a scalar instruction (R24, R107) -/

/-- A strand under a prefix whose copy field holds 33, which is no scalar register. -/
def copyTo33 : State := { State.reset with hart := { Hart.start with pfx := some { word := 0x000C2000, fromEret := false } } }

theorem copyTo33_copy : copyOf copyTo33 = some 33 := by decide

theorem copyTo33_ready : ready copyTo33 := ⟨fun _ => rfl, rfl, rfl⟩

/-- The copy goes to the register that the low five bits of the field name: s1. -/
theorem copyTo33_movz : exec (.movz 2 0 1) copyTo33 = .next (next (putDest 2 1) copyTo33) := wr_next copyTo33_ready.1 2 1

/-- Refutes O59: a copy field above 31 names no scalar register, and the copy goes to the one that its low five bits name, which the statement says is left
as it was. Under a prefix with the field 33, movz s2, 1 writes s1 too. -/
theorem not_scalarFrames : ¬ Obligations.ScalarFrames := by
  intro frames
  obtain ⟨-, -, others, -⟩ := (frames copyTo33 _ 2 0 0 0 1 0 0 0 0 0 0 rfl copyTo33_ready).1 (.movz 2 0 1) (by simp) copyTo33_movz
  have kept : (next (putDest 2 1) copyTo33).hart.sc.get 1 = copyTo33.hart.sc.get 1 := others 1 (by decide) (by rw [copyTo33_copy]; decide)
  exact absurd kept (by decide)

/-! ### How an instruction of major 0x1E begins (R51, R367, R388) -/

/-- A computation that traps takes its trap at itself, whatever was to follow it (R363, R366). -/
theorem runThen_trap {s t : State} {m : M Unit} {f : State → State} {c : BitVec 8} {v : Word} (hq : s.hart.queue = [])
    (h : m s = .error (.trap c v) t) : runThen m f s = .next (takeTrap t c v s.hart.sc.pc false false) := by
  simp [runThen, h, hq]

/-- Below S it traps PRIV with its word, and has done nothing. -/
theorem systemStart_user {s : State} (h : s.hart.level = .u) (w : Word32) :
    systemStart w s = .error (.trap causePRIV (w.setWidth 64)) s :=
  bind_error (by simp [needS, bind, EStateM.bind, h])

/-- At S or M, with nothing queued and at the keystone, it has written what the keystone chunk holds. -/
theorem systemStart_settled {s : State} (h : settled s) (hl : s.hart.level ≠ .u) (w : Word32) : systemStart w s = .ok () (flushWritten s) := by
  obtain ⟨hq, -, hk, -, hr⟩ := h
  have hn : needS w s = .ok () s := by simp [needS, bind, EStateM.bind, hl]
  unfold systemStart
  rw [bind_ok hn, bind_ok (emptyQueue_ok hq)]
  exact keystoneOnly_ok hk hr

/-- A word above 32 zeros is that word as a 64-bit value. -/
theorem zeros_append (w : Word32) : (0#32 ++ w : BitVec 64) = w.setWidth 64 := by
  exact (BitVec.setWidth_eq_append (by decide)).symm

/-- What stays of an instruction that waits after the keystone chunk has written its record is that record's bytes in memory alone (R235). -/
theorem waitingState_flushWritten {s : State} (h : isKeystone s = true) : waitingState s (flushWritten s) = flushed s := by
  have same : { s with hart := { s.hart with readLive := (flushWritten s).hart.readLive } } = s := by rw [flushWritten_frame]
  simp only [waitingState, flushed, same]
  rcases hh : s.hart.held with _ | _
  · simp
  · have ha : (s.ring.active == 0) = true := by simpa [isKeystone, hh] using h
    have hw : (flushWritten s).hart.written.isEmpty = true := by simp [flushWritten, hh]
    simp only [ha, hw, Bool.true_and, Bool.and_true]

/-! ### halt (R386) -/

theorem squashYounger_frame (s : State) : squashYounger s = { s with ring := { s.ring with chunks := (squashYounger s).ring.chunks } } := by
  unfold squashYounger
  split <;> rfl

theorem poke_clean {s : State} (h : s.bad = []) (a : Nat) (b : Byte) : (s.poke a b).bad = [] ∧ (s.poke a b).mgmt = s.mgmt := by
  unfold State.poke
  rw [cacheWrite_clean s h]
  exact ⟨by simp [h, removeNat], rfl⟩

theorem pokeCells_mgmt : ∀ (l : List Host.Cell) {s : State}, s.bad = [] → (pokeCells s l).mgmt = s.mgmt
  | [], _, _ => rfl
  | (a, b) :: t, _, h => (pokeCells_mgmt t (poke_clean h a b).1).trans (poke_clean h a b).2

/-- Where no byte is in error, what the keystone chunk writes raises no event (R292). -/
theorem flushWritten_mgmt {s : State} (h : s.bad = []) : (flushWritten s).mgmt = s.mgmt := by
  unfold flushWritten
  split
  · have ho := overrideYounger_same s s.hart.written
    exact (pokeCells_mgmt _ (by rw [ho]; exact h)).trans (by rw [ho])
  · rfl

theorem finish_pc (s : State) : (finish s).hart.sc.pc = s.hart.sc.pc := by
  rcases hp : s.hart.pfx with _ | p <;> simp only [finish, hp]
  split <;> rfl

theorem finish_x (s : State) : (finish s).hart.sc.x = s.hart.sc.x := by
  rcases hp : s.hart.pfx with _ | p <;> simp only [finish, hp]
  split <;> rfl

/-- A stop leaves the scalar state, the level and the saved trap state, and posts an event. -/
theorem haltRing_leaves (s : State) (c : BitVec 8) (v : Word) :
    let t := haltRing s c v none
    t.ring = { s.ring with state := .stopped, unavailable := true, chunks := t.ring.chunks } ∧ t.hart.sc = s.hart.sc ∧ t.hart.level = s.hart.level ∧
      (t.mgmtAt 0).events = (s.mgmtAt 0).events ++ [(c, s.cur, v, none)] := by
  unfold haltRing stopRing
  rw [squashYounger_frame]
  exact ⟨rfl, rfl, rfl, congrArg Mgmt.events (Vector.getElem_set_self _)⟩

/-- The PRIV trap of an instruction of major 0x1E, with its word in EVAL. -/
def privTrap (s : State) (a b : BitVec 5) (fn : BitVec 11) : Out :=
  .next (takeTrap s causePRIV ((wordR 0x1E 0 a b fn).setWidth 64) s.hart.sc.pc false false)

section
variable {s : State} (hq : s.hart.queue = []) (hl : s.hart.level = .u)
include hq hl

/-- Whatever follows the start of an instruction of major 0x1E, below S it traps PRIV. -/
theorem runScalar_user (a b : BitVec 5) (fn : BitVec 11) (f : Unit → M Unit) :
    runScalar (systemStart (wordR 0x1E 0 a b fn) >>= f) s = privTrap s a b fn :=
  runScalar_trap hq (bind_error (systemStart_user hl _))

theorem runThen_user (a b : BitVec 5) (fn : BitVec 11) (f : State → State) :
    runThen (systemStart (wordR 0x1E 0 a b fn)) f s = privTrap s a b fn :=
  runThen_trap hq (systemStart_user hl _)

theorem execEret_user : execEret s = privTrap s 0 0 1 := runThen_user hq hl 0 0 1 _

theorem execHalt_user : execHalt s = privTrap s 0 0 3 := runThen_user hq hl 0 0 3 _

theorem execPreempt_user (a : BitVec 5) : execPreempt a s = privTrap s a 0 0x10 := by
  unfold execPreempt
  simp only [bind_error (systemStart_user hl _)]
  exact runScalar_trap hq (bind_error (bind_error (systemStart_user hl _)))
end

/-! ### tlbinv (R387) -/

/-- The low address bit of the page that an entry of a level maps, as the statement of tlbinv writes it (R271). -/
def pageShift (l : BitVec 2) : Nat := match l.toNat with | 0 => 43 | 1 => 30 | 2 => 21 | _ => 16

theorem levelShift_page (l : BitVec 2) : levelShift l.toNat = pageShift l := by
  unfold levelShift pageShift
  rfl

/-- What a control word of tlbinv selects: the entries of an address and a JID, of a JID, or all. -/
theorem tlbMatches_iff (mode : BitVec 2) (jid : BitVec 16) (va : Word) (c : CachedPte) :
    tlbMatches mode jid va c = true ↔
      (match mode.toNat with
       | 0 => c.jid = jid ∧ c.prefix_ = va >>> pageShift c.level
       | 1 => c.jid = jid
       | _ => True) := by
  have hv : BitVec.ofNat 64 (va.toNat >>> levelShift c.level.toNat) = va >>> pageShift c.level := by
    rw [levelShift_page]
    apply BitVec.eq_of_toNat_eq
    rw [BitVec.toNat_ushiftRight, BitVec.toNat_ofNat]
    exact Nat.mod_eq_of_lt ((Nat.shiftRight_le _ _).trans_lt va.isLt)
  unfold tlbMatches
  rw [hv]
  match mode with
  | 0#2 => simp
  | 1#2 => simp
  | 2#2 => simp
  | 3#2 => simp

/-- What tlbinv does once its operands are read (R387). -/
def tlbinvBody (w : Word32) (va x : Word) : M Unit :=
  if x.extractLsb' 18 46 ≠ 0 || x.extractLsb' 16 2 == 3#2 then ill w
  else do
    if accessesOut (← get) then wait (.park .stalled)
    else
      modify fun s => { s with ptes := s.ptes.filter fun c => !tlbMatches (x.extractLsb' 16 2) (x.extractLsb' 0 16) va c }
      nextPc

theorem tlbinvBody_illegal {w : Word32} {va x : Word} (hx : x.extractLsb' 18 46 ≠ 0 ∨ x.extractLsb' 16 2 = 3) (s : State) :
    tlbinvBody w va x s = .error (.trap causeILL (w.setWidth 64)) s := by
  have : (decide (x.extractLsb' 18 46 ≠ 0) || x.extractLsb' 16 2 == 3#2) = true := by
    rw [Bool.or_eq_true, decide_eq_true_eq, beq_iff_eq]
    exact hx
  unfold tlbinvBody
  rw [if_pos this]
  rfl

theorem tlbinvBody_legal {w : Word32} {va x : Word} (hz : x.extractLsb' 18 46 = 0) (hm : x.extractLsb' 16 2 ≠ 3) (s : State) :
    tlbinvBody w va x s = if accessesOut s then .error (.wait (.park .stalled)) s else
      nextPc { s with ptes := s.ptes.filter fun c => !tlbMatches (x.extractLsb' 16 2) (x.extractLsb' 0 16) va c } := by
  have : ¬ (decide (x.extractLsb' 18 46 ≠ 0) || x.extractLsb' 16 2 == 3#2) = true := by
    rw [Bool.or_eq_true, decide_eq_true_eq, beq_iff_eq]
    exact fun e => e.elim (fun h => h hz) hm
  unfold tlbinvBody
  rw [if_neg this]
  show (if accessesOut s = true then _ else _ : M Unit) s = _
  split <;> rfl

/-- At S or M tlbinv is a computation that has written what the keystone chunk holds and read its operands. -/
theorem execTlbinv_settled {s : State} (h : settled s) (hl : s.hart.level ≠ .u) (a b : BitVec 5) :
    ∃ m : M Unit, execTlbinv a b s = runScalar m s ∧ m s = tlbinvBody (wordR 0x1E 0 a b 4) (x s a) (x s b) (flushWritten s) := by
  have hr : ready (flushWritten s) := flushWritten_ready (settled_ready h)
  refine ⟨_, rfl, ?_⟩
  rw [bind_ok (systemStart_settled h hl _), bind_ok (rdX_ready hr a), bind_ok (rdX_ready hr b), x_flushWritten, x_flushWritten]
  rfl

/-! ### Major 0x1E as the statement gives it -/

/-- Below S every instruction of the major traps PRIV (R51, R388). -/
theorem system_user {s : State} (hq : s.hart.queue = []) (hl : s.hart.level = .u) (a b : BitVec 5) :
    ∀ p ∈ ([(.eret, 0, 0, 1), (.wfi, 0, 0, 2), (.halt, 0, 0, 3), (.tlbinv a b, a, b, 4), (.preempt a, a, 0, 0x10), (.ctxsave a b, a, b, 0x11),
      (.ctxload a b, a, b, 0x12), (.reshape a b, a, b, 0x13)] : List (Instr × BitVec 5 × BitVec 5 × BitVec 11)),
    exec p.1 s = privTrap s p.2.1 p.2.2.1 p.2.2.2 := by
  simp only [List.forall_mem_cons]
  exact ⟨execEret_user hq hl, runScalar_user hq hl 0 0 2 _, execHalt_user hq hl, runScalar_user hq hl a b 4 _, execPreempt_user hq hl a,
    runScalar_user hq hl a b 0x11 _, runScalar_user hq hl a b 0x12 _, runScalar_user hq hl a b 0x13 _, fun _ hp => absurd hp List.not_mem_nil⟩

section
variable {s : State} (h : settled s) (hl : s.hart.level ≠ .u)
include h hl

/-- At S or M wfi is a computation that has written what the keystone chunk holds, and then looks for an event (R385). -/
theorem execWfi_settled : ∃ m : M Unit, exec .wfi s = runScalar m s ∧
    m s = if eventPending (flushWritten s) then nextPc (flushWritten s) else .error (.wait (.park .wfi)) (flushWritten s) := by
  refine ⟨_, rfl, ?_⟩
  rw [bind_ok (systemStart_settled h hl _)]
  show (if eventPending (flushWritten s) = true then _ else _ : M Unit) (flushWritten s) = _
  split <;> rfl

omit h hl in
/-- The events of a ring are those of its pending bits, which the keystone chunk's record leaves. -/
theorem eventPending_ring (hm : s.onMgmt = none) : eventPending (flushWritten s) = (s.ring.ppre || s.ring.pact || s.ring.ptmo) := by
  unfold eventPending
  rw [flushWritten_onMgmt, hm, flushWritten_frame]

theorem wfi_pending (hp : eventPending (flushWritten s) = true) : exec .wfi s = .next (next id (flushWritten s)) := by
  obtain ⟨m, he, hm⟩ := execWfi_settled h hl
  rw [if_pos hp] at hm
  exact he.trans (runScalar_ok hm)

theorem wfi_parks (hp : eventPending (flushWritten s) = false) : exec .wfi s = .next (applyWait (flushed s) (.park .wfi)) := by
  obtain ⟨m, he, hm⟩ := execWfi_settled h hl
  rw [if_neg (by simp [hp])] at hm
  rw [he, runScalar_park hm, waitingState_flushWritten h.2.2.1]

/-- halt on a ring stops it with its trap state as it was, and the core of abutment die 0 takes an event (R386; log 19). -/
theorem halt_ring (hm : s.onMgmt = none) : exec .halt s = .next (haltRing (finish (flushWritten s)) 0 s.hart.sc.pc none) := by
  show execHalt s = _
  unfold execHalt runThen
  rw [systemStart_settled h hl]
  have h1 : (finish (flushWritten s)).onMgmt = none := (flushWritten_onMgmt s).trans hm
  simp only [h1]
  rw [finish_pc, flushWritten_sc]

theorem halt_mgmt {c : BitVec 1} (hm : s.onMgmt = some c) :
    exec .halt s = .next ((finish (flushWritten s)).modMgmt c fun k => { k with stopped := true }) := by
  show execHalt s = _
  unfold execHalt runThen
  rw [systemStart_settled h hl]
  have h1 : (finish (flushWritten s)).onMgmt = some c := (flushWritten_onMgmt s).trans hm
  simp only [h1]
end

/-- What halt on a ring leaves and changes (R386; log 19). -/
theorem halt_ring_leaves {s : State} (h : settled s) (hl : s.hart.level ≠ .u) (hm : s.onMgmt = none) :
    ∃ t, exec .halt s = .next t ∧ t.ring.state = .stopped ∧ t.ring.unavailable = true ∧ t.ring.epc = s.ring.epc ∧
      t.ring.ecause = s.ring.ecause ∧ t.ring.eval = s.ring.eval ∧ t.ring.estat = s.ring.estat ∧ t.hart.level = s.hart.level ∧
      t.hart.sc.x = s.hart.sc.x ∧ t.hart.sc.pc = s.hart.sc.pc ∧
      (s.bad = [] → (t.mgmtAt 0).events = (s.mgmtAt 0).events ++ [(0, s.cur, s.hart.sc.pc, none)]) := by
  obtain ⟨hring, hsc, hlevel, hevents⟩ := haltRing_leaves (finish (flushWritten s)) 0 s.hart.sc.pc
  have hf : (finish (flushWritten s)).ring = { s.ring with chunks := (flushWritten s).ring.chunks } := by
    show (flushWritten s).ring = _
    rw [flushWritten_frame]
  rw [hf] at hring
  refine ⟨_, halt_ring h hl hm, by rw [hring], by rw [hring], by rw [hring], by rw [hring], by rw [hring], by rw [hring]; rfl, ?_, ?_, ?_, fun hb => ?_⟩
  · exact hlevel.trans (flushWritten_level s)
  · rw [hsc, finish_x, flushWritten_sc]
  · rw [hsc, finish_pc, flushWritten_sc]
  · rw [hevents]
    show (({ flushWritten s with hart := _ } : State).mgmtAt 0).events ++ [(0, (flushWritten s).cur, _, none)] = _
    rw [flushWritten_cur]
    unfold State.mgmtAt
    rw [flushWritten_mgmt hb]

/-- tlbinv: the entries that it leaves are those that its control word does not select (R387). -/
theorem tlbinv_drops {s : State} (h : settled s) (hl : s.hart.level ≠ .u) (a b : BitVec 5) (hz : (x s b).extractLsb' 18 46 = 0)
    (hm : (x s b).extractLsb' 16 2 ≠ 3) (ho : accessesOut (flushWritten s) = false) :
    exec (.tlbinv a b) s = .next (next id { flushWritten s with
      ptes := s.ptes.filter fun c => !tlbMatches ((x s b).extractLsb' 16 2) ((x s b).extractLsb' 0 16) (x s a) c }) := by
  obtain ⟨m, he, hr⟩ := execTlbinv_settled h hl a b
  rw [tlbinvBody_legal hz hm, if_neg (by simp [ho])] at hr
  have hp : (flushWritten s).ptes = s.ptes := by rw [flushWritten_frame]
  rw [hp] at hr
  exact he.trans (runScalar_ok hr)

theorem tlbinv_waits {s : State} (h : settled s) (hl : s.hart.level ≠ .u) (a b : BitVec 5) (hz : (x s b).extractLsb' 18 46 = 0)
    (hm : (x s b).extractLsb' 16 2 ≠ 3) (ho : accessesOut (flushWritten s) = true) :
    exec (.tlbinv a b) s = .next (applyWait (flushed s) (.park .stalled)) := by
  obtain ⟨m, he, hr⟩ := execTlbinv_settled h hl a b
  rw [tlbinvBody_legal hz hm, if_pos ho] at hr
  exact he.trans ((runScalar_park hr).trans (by rw [waitingState_flushWritten h.2.2.1]))

theorem tlbinv_illegal {s : State} (h : settled s) (hl : s.hart.level ≠ .u) (a b : BitVec 5)
    (hx : (x s b).extractLsb' 18 46 ≠ 0 ∨ (x s b).extractLsb' 16 2 = 3) :
    exec (.tlbinv a b) s = .next (takeTrap (flushWritten s) causeILL ((wordR 0x1E 0 a b 4).setWidth 64) s.hart.sc.pc false false) := by
  obtain ⟨m, he, hr⟩ := execTlbinv_settled h hl a b
  rw [tlbinvBody_illegal hx] at hr
  exact he.trans (runScalar_trap h.1 hr)

/-- Settles O12: each instruction of major 0x1E begins with the same checks, and these are their two outcomes. -/
theorem systemResults : Obligations.SystemResults := by
  refine ⟨fun s a b hq _ hl p hp => ?_, fun s h hl => ⟨⟨fun hm hp => ?_, fun hm hp => ?_⟩, fun hm => halt_ring_leaves h hl hm, fun c hm => ?_⟩,
    fun s a b h hl => ⟨fun hz hx ho => tlbinv_waits h hl a b hz hx ho, fun hz hx ho => ?_, fun hx => ?_⟩⟩
  · rw [system_user hq hl a b p hp, zeros_append]
    rfl
  · exact wfi_pending h hl (by rw [eventPending_ring hm]; exact hp)
  · exact wfi_parks h hl (by rw [eventPending_ring hm]; exact hp)
  · refine ⟨_, halt_mgmt h hl hm, congrArg Mgmt.stopped (Vector.getElem_set_self _), ?_, rfl⟩
    show (finish (flushWritten s)).hart.sc.x = _
    rw [finish_x, flushWritten_sc]
  · refine ⟨_, tlbinv_drops h hl a b hz hx ho, fun c => ?_⟩
    rw [List.mem_filter, Bool.not_eq_true', ← Bool.not_eq_true, tlbMatches_iff]
    rfl
  · rw [tlbinv_illegal h hl a b hx, zeros_append]
    rfl

/-! ### A convoy broken by a word that fails check 1 of R83 -/

/-- sunbind v40, which decodes and is no member of a convoy: 40 names no register of a strand that has 32. -/
def sunbind40 : Word32 := 0xE0000068

/-- A strand at U that executes from its core's own store, at 0x100, with the word of sunbind v40 behind its pc. -/
def beforeSunbind : State :=
  { State.reset with
    hart := { Hart.start with sc := { Scal.start with pc := 0x00FFFF0000000100 } }
    mem := [(2 ^ 41 + 0x104, 0x68), (2 ^ 41 + 0x107, 0xE0)] }

theorem beforeSunbind_fetch : fetchWord (beforeSunbind.hart.sc.pc + 4) beforeSunbind = .ok sunbind40 beforeSunbind :=
  fetchWord_memory (pa := 2 ^ 41 + 0x104) (near := false) rfl ⟨rfl, by decide +kernel, by decide +kernel, by decide +kernel, by decide +kernel⟩

theorem beforeSunbind_ready : vectorReady beforeSunbind :=
  ⟨rfl, rfl, rfl, rfl, rfl, by decide +kernel, rfl, rfl, rfl, rfl, rfl⟩

/-- The code of ECAUSE that a step leaves. -/
def causeAfter : Out → BitVec 11
  | .next t => t.ring.ecause
  | _ => 0

/-- The word fails check 1 of R83, which comes before the convoy's. -/
theorem beforeSunbind_traps : causeAfter (exec (.vaddVV 1 2 2 0 1) beforeSunbind) = 0x001 := by decide +kernel

/-- Refutes O28: a word that is no member breaks its convoy with CONVOY only where it passes check 1 of R83, and the statement asks of a CSR number, but not of a
vector register, that it exists. Behind vadd v1, v2, v2 with C = 1, sunbind v40 traps ILL on a strand of 32 registers. -/
theorem not_convoysAndQueue : ¬ Obligations.ConvoysAndQueue := by
  intro ⟨convoys, _⟩
  obtain ⟨-, broken, -⟩ := convoys beforeSunbind (.vaddVV 1 2 2 0 1) 0x84108201 rfl rfl rfl beforeSunbind_ready rfl rfl (by decide +kernel)
  have claimed := broken sunbind40 .sunbind beforeSunbind_fetch rfl rfl (fun _ h => absurd h (by decide))
  have cause := congrArg causeAfter claimed
  rw [beforeSunbind_traps] at cause
  exact absurd cause (by decide +kernel)

/-! ### The words of the vector instructions (R80)

The encodings write a short field behind zeros; the meanings of the instructions widen the field, or join parts in another order. -/

/-- A field behind zeros is the field widened by them. -/
theorem append_zeros {n m k l : Nat} (x : BitVec n) (y : BitVec k) (h : n + m + k = n + l) : (x ++ 0#m ++ y).cast h = x ++ y.setWidth l := by
  apply BitVec.eq_of_toNat_eq
  rw [BitVec.toNat_cast, BitVec.toNat_append, BitVec.toNat_append, BitVec.toNat_append, BitVec.toNat_setWidth_of_le (by omega), BitVec.toNat_ofNat,
    Nat.zero_mod, Nat.or_zero, ← Nat.shiftLeft_add, show m + k = l by omega]

/-- Fields are joined in any order. -/
theorem append_join {n m k : Nat} (x : BitVec n) (y : BitVec m) (z : BitVec k) : (x ++ y ++ z).cast (Nat.add_assoc n m k) = x ++ (y ++ z) := by
  rw [BitVec.append_assoc]
  simp

section
variable {op vd va vb : BitVec 6} {k1 k2 k3 km : BitVec 3} {d a b c f : BitVec 5} {fn ty : BitVec 4} {cv f5 : BitVec 1} {hi lo z : BitVec 2}
  {f11 : BitVec 11}

theorem word_maskDest : some (op ++ 0#3 ++ k1 ++ va ++ vb ++ km ++ fn ++ cv) = some (wordV op (k1.setWidth 6) va vb km fn cv) := by
  rw [wordV, ← append_zeros (m := 3) _ k1 rfl]
  rfl

theorem word_maskDestS : some (op ++ 0#3 ++ k1 ++ va ++ b ++ f5 ++ km ++ fn ++ cv) = some (wordVS op (k1.setWidth 6) va b f5 km fn cv) := by
  rw [wordVS, ← append_zeros (m := 3) _ k1 rfl]
  rfl

theorem word_masks : some (op ++ 0#3 ++ k1 ++ 0#3 ++ k2 ++ 0#3 ++ k3 ++ km ++ fn ++ cv) =
    some (wordV op (k1.setWidth 6) (k2.setWidth 6) (k3.setWidth 6) km fn cv) := by
  rw [wordV, ← append_zeros (m := 3) _ k1 rfl, ← append_zeros (m := 3) _ k2 rfl, ← append_zeros (m := 3) _ k3 rfl]
  rfl

theorem word_scalarOfMask : some (op ++ 0#1 ++ d ++ 0#3 ++ k2 ++ vb ++ km ++ fn ++ cv) =
    some (wordV op (d.setWidth 6) (k2.setWidth 6) vb km fn cv) := by
  rw [wordV, ← append_zeros (m := 1) _ d rfl, ← append_zeros (m := 3) _ k2 rfl]
  rfl

theorem word_scalarDest : some (op ++ 0#1 ++ d ++ va ++ vb ++ km ++ fn ++ cv) = some (wordV op (d.setWidth 6) va vb km fn cv) := by
  rw [wordV, ← append_zeros (m := 1) _ d rfl]
  rfl

theorem word_scalarDestS : some (op ++ 0#1 ++ d ++ va ++ b ++ f5 ++ km ++ fn ++ cv) = some (wordVS op (d.setWidth 6) va b f5 km fn cv) := by
  rw [wordVS, ← append_zeros (m := 1) _ d rfl]
  rfl

theorem word_destAlone : some (op ++ vd ++ 0#12 ++ km ++ fn ++ cv) = some (wordV op vd 0 0 km fn cv) := by
  refine congrArg some (BitVec.eq_of_toNat_eq ?_)
  simp only [wordV, BitVec.toNat_append]
  simp [Nat.shiftLeft_or_distrib, ← Nat.shiftLeft_add, Nat.or_assoc]

theorem word_base : some (op ++ vd ++ 0#1 ++ a ++ vb ++ km ++ fn ++ cv) = some (wordV op vd (a.setWidth 6) vb km fn cv) := by
  rw [wordV, ← append_zeros (m := 1) _ a rfl]
  rfl

theorem word_baseWidth : some (op ++ vd ++ 0#1 ++ a ++ vb ++ km ++ hi ++ lo ++ cv) = some (wordV op vd (a.setWidth 6) vb km (hi ++ lo) cv) := by
  rw [wordV, ← append_zeros (m := 1) _ a rfl, ← append_join _ hi lo]
  rfl

theorem word_baseS : some (op ++ vd ++ 0#1 ++ a ++ b ++ f5 ++ km ++ fn ++ cv) = some (wordVS op vd (a.setWidth 6) b f5 km fn cv) := by
  rw [wordVS, ← append_zeros (m := 1) _ a rfl]
  rfl

theorem word_baseWidthS : some (op ++ vd ++ 0#1 ++ a ++ b ++ f5 ++ km ++ hi ++ lo ++ cv) =
    some (wordVS op vd (a.setWidth 6) b f5 km (hi ++ lo) cv) := by
  rw [wordVS, ← append_zeros (m := 1) _ a rfl, ← append_join _ hi lo]
  rfl

theorem word_type : some (op ++ vd ++ va ++ 0#2 ++ ty ++ km ++ fn ++ cv) = some (wordV op vd va (ty.setWidth 6) km fn cv) := by
  rw [wordV, ← append_zeros (m := 2) _ ty rfl]
  rfl

theorem word_engine : some (op ++ vd ++ va ++ b ++ f5 ++ km ++ (fn ++ cv : BitVec 5)) = some (wordVS op vd va b f5 km fn cv) := by
  rw [wordVS, ← append_join _ fn cv]
  rfl

theorem word_tshape : some (0x30#6 ++ 0#3 ++ a ++ (0#6 ++ f11 ++ 0#1 : BitVec 18)) = some (wordT 0 (a.setWidth 6) 0 f11) := by
  rw [wordT, ← append_zeros (m := 1) _ a rfl, ← append_join _ _ 0#1, ← append_join _ 0#6 f11]
  rfl

theorem word_acc : some (0x30#6 ++ z ++ (0#12 ++ f11 ++ 0#1 : BitVec 24)) = some (wordT z 0 0 f11) := by
  refine congrArg some (BitVec.eq_of_toNat_eq ?_)
  simp only [wordT, BitVec.toNat_append]
  simp [Nat.shiftLeft_or_distrib, ← Nat.shiftLeft_add, Nat.or_assoc]

theorem word_tld : some (0x30#6 ++ 0#3 ++ a ++ 0#1 ++ b ++ (f11 ++ 0#1 : BitVec 12)) = some (wordT 0 (a.setWidth 6) (b.setWidth 6) f11) := by
  rw [wordT, ← append_zeros (m := 1) _ a rfl, ← append_zeros (m := 1) _ b rfl, ← append_join _ f11 0#1]
  rfl

theorem word_tldMc : some (0x30#6 ++ 0#3 ++ a ++ 0#1 ++ b ++ fn ++ c ++ 0#3) = some (wordT 0 (a.setWidth 6) (b.setWidth 6) (fn ++ c ++ 0#2)) := by
  refine congrArg some (BitVec.eq_of_toNat_eq ?_)
  simp only [wordT, BitVec.toNat_append, BitVec.toNat_setWidth_of_le (show 5 ≤ 6 by decide)]
  simp [Nat.shiftLeft_or_distrib, ← Nat.shiftLeft_add, Nat.or_assoc]

theorem word_tstz : some (0x30#6 ++ z ++ 0#1 ++ a ++ 0#1 ++ b ++ (f11 ++ 0#1 : BitVec 12)) = some (wordT z (a.setWidth 6) (b.setWidth 6) f11) := by
  rw [wordT, ← append_zeros (m := 1) _ a rfl, ← append_zeros (m := 1) _ b rfl, ← append_join _ f11 0#1]
  rfl

theorem word_tmvz : some (0x30#6 ++ z ++ vd ++ 0#1 ++ b ++ (f11 ++ 0#1 : BitVec 12)) = some (wordT z vd (b.setWidth 6) f11) := by
  rw [wordT, ← append_zeros (m := 1) _ b rfl, ← append_join _ f11 0#1]
  rfl

theorem word_sbind : some (0x38#6 ++ 0#5 ++ a ++ 0#10 ++ vd) = some (wordR 0x38 0 a 0 (0#5 ++ vd)) := by
  refine congrArg some (BitVec.eq_of_toNat_eq ?_)
  simp only [wordR, BitVec.toNat_append]
  simp [Nat.shiftLeft_or_distrib, ← Nat.shiftLeft_add, Nat.or_assoc]

theorem word_sunbind : some (0x38#6 ++ (0#15 ++ f : BitVec 20) ++ vd) = some (wordR 0x38 0 0 0 (f ++ vd)) := by
  rw [wordR, ← append_join _ f vd, ← append_join _ 0#15 f]
  rfl

theorem word_sisectC : some (0x38#6 ++ d ++ 0#2 ++ k1 ++ 0#2 ++ k2 ++ f11) = some (wordR 0x38 d (k1.setWidth 5) (k2.setWidth 5) f11) := by
  rw [wordR, ← append_zeros (m := 2) _ k1 rfl, ← append_zeros (m := 2) _ k2 rfl]
  rfl

theorem word_sisectW : some (0x38#6 ++ d ++ 0#2 ++ k1 ++ 0#2 ++ k2 ++ f ++ vd) = some (wordR 0x38 d (k1.setWidth 5) (k2.setWidth 5) (f ++ vd)) := by
  rw [wordR, ← append_zeros (m := 2) _ k1 rfl, ← append_zeros (m := 2) _ k2 rfl, ← append_join _ f vd]
  rfl
end

/-! ### Words of the vector queue are issued with their encodings (R37, R80) -/

/-- An instruction whose meaning issues the word that it encodes to. -/
theorem issues_of {i : Instr} {w W : Word32} {mk : M VOp} (hw : encode i = some w) (hx : ∀ s, exec i s = issueV W mk s) (he : some W = encode i) :
    ∃ mk, ∀ s, exec i s = issueV w mk s := by
  cases hw.symm.trans he.symm
  exact ⟨mk, hx⟩

theorem queues_issues {i : Instr} {w : Word32} (h : queues i w) : ∃ mk, ∀ s, exec i s = issueV w mk s := by
  obtain ⟨hw, hm⟩ := h
  cases i with
  | vcvt => exact issues_of hw (fun _ => rfl) word_type.symm
  | vxpand | vqblkF4 | vqblkI8 | vdqblkF4 | vdqblkI8 | vfaddVV | vfsubVV | vfmulVV | vfdivVV | vfsqrt | vfrsqrt | vfmaVV | vfmsVV |
    vfnmaVV | vfminVV | vfmaxVV | vfclass | vfsgnjVV | vfsgnjnVV | vfsgnjxVV | vfaddVS | vfsubVS | vfmulVS | vfdivVS | vfmaVS | vfmsVS |
    vfnmaVS | vfminVS | vfmaxVS | vfsgnjVS | vfsgnjnVS | vfsgnjxVS | vaddVV | vsubVV | vmulVV | vmulhVV | vdivVV | vremVV | vminVV |
    vmaxVV | vandVV | vorVV | vxorVV | vsllVV | vsrlVV | vsraVV | vsaddVV | vssubVV | vaddVS | vsubVS | vmulVS | vmulhVS | vdivVS |
    vremVS | vminVS | vmaxVS | vandVS | vorVS | vxorVS | vsllVS | vsrlVS | vsraVS | vsaddVS | vssubVS | vrsubVS | vmaddVS | vmsacVS |
    vwaddVS | vwmulVS | vaddVI | vrsubVI | vandVI | vorVI | vxorVI | vsllVI | vsrlVI | vsraVI | vsaddVI | vminVI | vmaxVI | vmaddVV |
    vmsacVV | vwaddVV | vwmulVV | vdot4 | vdot4Sat | vmvVV | vmvsx | vslideupVS | vslidednVS | vslideupVI | vslidednVI | vperm |
    vcompress | vnzscan | vmvVI | vmvVS => exact issues_of hw (fun _ => rfl) rfl
  | sbind => exact issues_of hw (fun _ => rfl) word_sbind.symm
  | sunbind | sdrain => exact issues_of hw (fun _ => rfl) word_sunbind.symm
  | sisectC => exact issues_of hw (fun _ => rfl) word_sisectC.symm
  | sisectW => exact issues_of hw (fun _ => rfl) word_sisectW.symm
  | chase | pgather => exact issues_of hw (fun _ => rfl) word_engine.symm
  | vmseqVV | vmsneVV | vmsltVV | vmsleVV | vmfeqVV | vmfltVV | vmfleVV | vconfl => exact issues_of hw (fun _ => rfl) word_maskDest.symm
  | vmseqVS | vmsneVS | vmsltVS | vmsleVS | vmfeqVS | vmfltVS | vmfleVS => exact issues_of hw (fun _ => rfl) word_maskDestS.symm
  | vmand | vmor | vmxor | vmandn => exact issues_of hw (fun _ => rfl) word_masks.symm
  | vcpop | vfirst => exact issues_of hw (fun _ => rfl) word_scalarOfMask.symm
  | vld | vldx | vldseg => exact issues_of hw (fun _ => rfl) word_baseWidth.symm
  | vlds => exact issues_of hw (fun _ => rfl) word_baseWidthS.symm
  | vst | vstx | vstseg => exact issues_of hw (fun _ => rfl) word_base.symm
  | vsts => exact issues_of hw (fun _ => rfl) word_baseS.symm
  | vmvxs => exact issues_of hw (fun _ => rfl) word_scalarDest.symm
  | viota | vid => exact issues_of hw (fun _ => rfl) word_destAlone.symm
  | vredsum | vredmin | vredmax | vredand | vredor | vfredsum | vfredosum | vfredmin | vfredmax => exact issues_of hw (fun _ => rfl) word_scalarDestS.symm
  | tshape => exact issues_of hw (fun _ => rfl) word_tshape.symm
  | tzero | tmma | tmmaSX | tmmaSat => exact issues_of hw (fun _ => rfl) word_acc.symm
  | tlda | tldb => exact issues_of hw (fun _ => rfl) word_tld.symm
  | tstz => exact issues_of hw (fun _ => rfl) word_tstz.symm
  | tmvz => exact issues_of hw (fun _ => rfl) word_tmvz.symm
  | tldaMC | tldbMC => exact issues_of hw (fun _ => rfl) word_tldMc.symm
  | _ =>
    exfalso
    cases hw
    all_goals
      simp (disch := decide) only [BitVec.extractLsb'_append_eq_of_le] at hm
      exact absurd hm (by decide)

/-! ### A refused push traps at itself (R150) -/

/-- A trap leaves the vector queue empty. -/
theorem takeTrap_queue {s : State} (hq : s.hart.queue = []) (code : BitVec 8) (val point : Word) (vec spec : Bool) :
    (takeTrap s code val point vec spec).hart.queue = [] := by
  unfold takeTrap
  cases s.onMgmt with
  | some a => exact hq
  | none =>
    dsimp only
    split
    · rfl
    · split
      · rfl
      · rfl

/-- A word that its checks refuse traps ILL, unless a pfx before its convoy traps first. -/
theorem issueV_refused {s : State} {w : Word32} (mk : M VOp) (hq : s.hart.queue = []) (hp : noPfxConvoy w s = .ok () s)
    (hl : vecLegal (regs s) s.hart.sc.sew w = false) :
    issueV w mk s = .next (takeTrap s 0x01 (w.setWidth 64) s.hart.sc.pc false false) := by
  have hx : pushV w mk s = .error (.trap 0x01 (w.setWidth 64)) s := by
    unfold regs at hl
    simp [pushV, bind, EStateM.bind, hp, hl, ill, causeILL]
  unfold issueV
  rw [runScalar_trap hq hx]
  simp [takeTrap_queue hq, drainQueue]

/-- With no pfx pending, none stands before a convoy. -/
theorem noPfxConvoy_none {s : State} (w : Word32) (hp : s.hart.pfx = none) : noPfxConvoy w s = .ok () s := by
  simp [noPfxConvoy, bind, EStateM.bind, hp]

/-- A word that opens no convoy has no pfx before one. -/
theorem noPfxConvoy_left {s : State} {w : Word32} {c : BitVec 1} {rest : List Word32} (hc : convoyLeft s c rest)
    (hw : c = 0 → isMember w = true → w.getLsbD 0 = false) : noPfxConvoy w s = .ok () s := by
  have hno : (s.hart.convoy.isEmpty && isMember w && w.getLsbD 0) = false := by
    obtain ⟨-, h0, -⟩ | ⟨v, hv⟩ := hc
    · cases hm : isMember w with
      | false => simp
      | true => rw [hw h0 hm, Bool.and_false]
    · simp [hv]
  cases hp : s.hart.pfx with
  | none => exact noPfxConvoy_none w hp
  | some p =>
    simp only [noPfxConvoy, bind, EStateM.bind, get_apply, hp, hno]
    rfl

/-! ### What the checks of the push demand (R25, R150) -/

/-- A part of a field is a field. -/
theorem fld_fld (w : Word32) {lo len a n : Nat} (h : a + n ≤ len) : (fld w (lo + a) n : BitVec n) = BitVec.extractLsb' a n (fld w lo len : BitVec len) := by
  ext i hi
  simp only [fld, BitVec.getElem_extractLsb', BitVec.getLsbD_extractLsb']
  rw [decide_eq_true (show a + i < len by omega), Bool.true_and, Nat.add_assoc]

/-- The instruction is one of the vector queue, its C bit is c, and the checks of the push let it pass only under a condition on the number of
registers and the element type. -/
def demands (i : Instr) (c : BitVec 1) (P : Nat → Nat → Prop) : Prop :=
  ∃ w, encode i = some w ∧ queues i w ∧ (c = 0 → isMember w = true → w.getLsbD 0 = false) ∧
    ∀ n sew, vecLegal n sew w = true → P n sew.toNat

theorem queues_of_major {i : Instr} {w : Word32} (hw : encode i = some w)
    (hm : 0x21 ≤ (w.extractLsb' 26 6).toNat ∧ (w.extractLsb' 26 6).toNat ≤ 0x2D ∨ w.extractLsb' 26 6 = 0x30) : queues i w := by
  refine ⟨hw, ?_⟩
  split
  iterate 7 trivial
  exact hm

theorem demands_V {i : Instr} {op vd va vb : BitVec 6} {km : BitVec 3} {fn : BitVec 4} {c : BitVec 1} {P : Nat → Nat → Prop}
    (he : some (wordV op vd va vb km fn c) = encode i) (ho : 0x21 ≤ op.toNat ∧ op.toNat ≤ 0x2D)
    (hl : ∀ n sew, vecLegal n sew (wordV op vd va vb km fn c) = true → P n sew.toNat) : demands i c P := by
  refine ⟨_, he.symm, queues_of_major he.symm (.inl ?_), fun h _ => ?_, hl⟩
  · rwa [← fld, wordV_op]
  · rw [wordV_c, h]
    rfl

theorem demands_VS {i : Instr} {op vd va : BitVec 6} {vb : BitVec 5} {f5 : BitVec 1} {km : BitVec 3} {fn : BitVec 4} {c : BitVec 1}
    {P : Nat → Nat → Prop} (he : some (wordVS op vd va vb f5 km fn c) = encode i) (ho : 0x21 ≤ op.toNat ∧ op.toNat ≤ 0x2D)
    (hl : ∀ n sew, vecLegal n sew (wordVS op vd va vb f5 km fn c) = true → P n sew.toNat) : demands i c P := by
  refine ⟨_, he.symm, queues_of_major he.symm (.inl ?_), fun h _ => ?_, hl⟩
  · rwa [← fld, wordVS_op]
  · rw [wordVS_c, h]
    rfl

/-- The statement's trap: ILL at the instruction, with its word. -/
def trapsAtPush (s : State) (i : Instr) : Prop :=
  ∀ w, encode i = some w → exec i s = .next (takeTrap s 0x01 (w.setWidth 64) s.hart.sc.pc false false)

/-- An instruction whose demand is not met traps. -/
theorem demands.traps {i : Instr} {c : BitVec 1} {P : Nat → Nat → Prop} (h : demands i c P) {s : State} {rest : List Word32} (hq : s.hart.queue = [])
    (hc : convoyLeft s c rest) (hP : ¬ P (regs s) s.hart.sc.sew.toNat) : trapsAtPush s i := by
  obtain ⟨w, hw, hi, h0, hl⟩ := h
  obtain ⟨mk, hx⟩ := queues_issues hi
  intro v hv
  cases hw.symm.trans hv
  rw [hx]
  exact issueV_refused mk hq (noPfxConvoy_left hc h0) (Bool.eq_false_iff.2 fun h => hP (hl _ _ h))

/-! ### The checks of the push, major by major (R150) -/

/-- The fields of a vector word as numbers. -/
def dOf (w : Word32) : Nat := (fld w 20 6 : BitVec 6).toNat
def aOf (w : Word32) : Nat := (fld w 14 6 : BitVec 6).toNat
def bOf (w : Word32) : Nat := (fld w 8 6 : BitVec 6).toNat
def fnOf (w : Word32) : Nat := (fld w 1 4 : BitVec 4).toNat

section
variable (op d a b : BitVec 6) (sb : BitVec 5) (f5 : BitVec 1) (km : BitVec 3) (fn : BitVec 4) (c : BitVec 1)

@[simp] theorem dOf_wordV : dOf (wordV op d a b km fn c) = d.toNat := congrArg _ (wordV_vd ..)
@[simp] theorem aOf_wordV : aOf (wordV op d a b km fn c) = a.toNat := congrArg _ (wordV_va ..)
@[simp] theorem bOf_wordV : bOf (wordV op d a b km fn c) = b.toNat := congrArg _ (wordV_vb ..)
@[simp] theorem fnOf_wordV : fnOf (wordV op d a b km fn c) = fn.toNat := congrArg _ (wordV_fn ..)
@[simp] theorem dOf_wordVS : dOf (wordVS op d a sb f5 km fn c) = d.toNat := congrArg _ (wordVS_vd ..)
@[simp] theorem aOf_wordVS : aOf (wordVS op d a sb f5 km fn c) = a.toNat := congrArg _ (wordVS_va ..)
@[simp] theorem fnOf_wordVS : fnOf (wordVS op d a sb f5 km fn c) = fn.toNat := congrArg _ (wordVS_fn ..)
end

/-- The registers of a widening form: a pair at an even d that meets no source (R154). -/
def wideRegs (n : Nat) (w : Word32) (vv : Bool) : Bool :=
  dOf w % 2 == 0 && decide (dOf w + 1 < n ∧ aOf w < n) && aOf w != dOf w && aOf w != dOf w + 1
    && (if vv then decide (bOf w < n) && bOf w != dOf w && bOf w != dOf w + 1 else true)

section
variable {n : Nat} {sew : BitVec 4} {w : Word32}

theorem vecLegal_intVV (ho : (fld w 26 6 : BitVec 6) = 0x21) :
    vecLegal n sew w = (decide (dOf w < n ∧ aOf w < n ∧ bOf w < n) && if 8 ≤ fnOf w ∧ fnOf w ≤ 10 then decide (sew.toNat < 14) else sewIsInt sew) := by
  delta vecLegal
  rw [ho]
  rfl

theorem vecLegal_intVS (ho : (fld w 26 6 : BitVec 6) = 0x22) :
    vecLegal n sew w = (if w.getLsbD 8 then
        if fnOf w = 3 ∨ fnOf w = 4 then decide (sew.toNat < 6) && wideRegs n w false else decide (dOf w < n ∧ aOf w < n) && sewIsInt sew
      else decide (dOf w < n ∧ aOf w < n) && if 8 ≤ fnOf w ∧ fnOf w ≤ 10 then decide (sew.toNat < 14) else sewIsInt sew) := by
  delta vecLegal
  rw [ho]
  rfl

theorem vecLegal_intVI (ho : (fld w 26 6 : BitVec 6) = 0x23) :
    vecLegal n sew w = (decide (dOf w < n ∧ aOf w < n) && if 2 ≤ fnOf w ∧ fnOf w ≤ 4 then decide (sew.toNat < 14) else sewIsInt sew) := by
  delta vecLegal
  rw [ho]
  rfl

theorem vecLegal_acc (ho : (fld w 26 6 : BitVec 6) = 0x24) :
    vecLegal n sew w = (if fnOf w = 2 ∨ fnOf w = 3 then decide (sew.toNat < 6) && wideRegs n w true
      else if fnOf w = 4 ∨ fnOf w = 5 then decide (dOf w < n ∧ aOf w < n ∧ bOf w < n) && (sew == 4#4 || sew == 5#4)
      else decide (dOf w < n ∧ aOf w < n ∧ bOf w < n) && sewIsInt sew) := by
  delta vecLegal
  rw [ho]
  rfl

theorem vecLegal_fpVV (ho : (fld w 26 6 : BitVec 6) = 0x25) :
    vecLegal n sew w = (sewIsFloat sew && if fnOf w = 4 ∨ fnOf w = 5 ∨ fnOf w = 11 then decide (dOf w < n ∧ aOf w < n)
      else decide (dOf w < n ∧ aOf w < n ∧ bOf w < n)) := by
  delta vecLegal
  rw [ho]
  rfl

theorem vecLegal_fpVS (ho : (fld w 26 6 : BitVec 6) = 0x26) :
    vecLegal n sew w = (sewIsFloat sew && decide (dOf w < n ∧ aOf w < n)) := by
  delta vecLegal
  rw [ho]
  rfl

theorem vecLegal_compare (ho : (fld w 26 6 : BitVec 6) = 0x27) :
    vecLegal n sew w = (decide (aOf w < n) && (if fnOf w < 8 then decide (bOf w < n) else true) && if fnOf w % 8 < 4 then sewIsInt sew else sewIsFloat sew) := by
  delta vecLegal
  rw [ho]
  rfl

theorem vecLegal_reduce (ho : (fld w 26 6 : BitVec 6) = 0x2A) :
    vecLegal n sew w = (decide (aOf w < n) && if fnOf w < 5 then sewIsInt sew else sewIsFloat sew) := by
  delta vecLegal
  rw [ho]
  rfl

theorem vecLegal_load (ho : (fld w 26 6 : BitVec 6) = 0x2B) :
    vecLegal n sew w = (memRegs n (dOf w) (bOf w) (fld w 3 2) (bOf w) true && memWidthOk sew (fld w 1 2) &&
      if sew = 14#4 then fnOf w == 0 else true) := by
  delta vecLegal
  rw [ho]
  rfl

theorem vecLegal_store (ho : (fld w 26 6 : BitVec 6) = 0x2C) :
    vecLegal n sew w = (memRegs n (dOf w) (bOf w) (fld w 3 2) (bOf w) false && if sew = 14#4 then fnOf w == 0 else true) := by
  delta vecLegal
  rw [ho]
  rfl

theorem vecLegal_mv (ho : (fld w 26 6 : BitVec 6) = 0x29) (hf : fnOf w = 0) :
    vecLegal n sew w = (decide (dOf w < n ∧ aOf w < n)) := by
  delta vecLegal
  rw [ho, show (fld w 1 4 : BitVec 4).toNat = 0 from hf]
  rfl

theorem vecLegal_mvsx (ho : (fld w 26 6 : BitVec 6) = 0x29) (hf : fnOf w = 1) :
    vecLegal n sew w = (decide (dOf w < n) && sewNotF4 sew) := by
  delta vecLegal
  rw [ho, show (fld w 1 4 : BitVec 4).toNat = 1 from hf]
  rfl

theorem vecLegal_mvxs (ho : (fld w 26 6 : BitVec 6) = 0x29) (hf : fnOf w = 2) :
    vecLegal n sew w = (decide (aOf w < n) && sewNotF4 sew && (fld w 5 3 : BitVec 3) == 0#3) := by
  delta vecLegal
  rw [ho, show (fld w 1 4 : BitVec 4).toNat = 2 from hf]
  rfl

theorem vecLegal_slide (ho : (fld w 26 6 : BitVec 6) = 0x29) (hf : fnOf w = 3) :
    vecLegal n sew w = (decide (dOf w < n ∧ aOf w < n) && sewNotF4 sew && dOf w != aOf w) := by
  delta vecLegal
  rw [ho, show (fld w 1 4 : BitVec 4).toNat = 3 from hf]
  rfl

theorem vecLegal_perm (ho : (fld w 26 6 : BitVec 6) = 0x29) (hf : fnOf w = 7) :
    vecLegal n sew w = (decide (dOf w < n ∧ aOf w < n ∧ bOf w < n) && sewNotF4 sew && dOf w != aOf w) := by
  delta vecLegal
  rw [ho, show (fld w 1 4 : BitVec 4).toNat = 7 from hf]
  rfl

theorem vecLegal_compress (ho : (fld w 26 6 : BitVec 6) = 0x29) (hf : fnOf w = 8) :
    vecLegal n sew w = (decide (dOf w < n ∧ aOf w < n) && sewNotF4 sew && dOf w != aOf w) := by
  delta vecLegal
  rw [ho, show (fld w 1 4 : BitVec 4).toNat = 8 from hf]
  rfl

theorem vecLegal_iota (ho : (fld w 26 6 : BitVec 6) = 0x29) (hf : fnOf w = 9) :
    vecLegal n sew w = (decide (dOf w < n) && sewIsInt sew) := by
  delta vecLegal
  rw [ho, show (fld w 1 4 : BitVec 4).toNat = 9 from hf]
  rfl

theorem vecLegal_vid (ho : (fld w 26 6 : BitVec 6) = 0x29) (hf : fnOf w = 10) :
    vecLegal n sew w = (decide (dOf w < n) && sewIsInt sew) := by
  delta vecLegal
  rw [ho, show (fld w 1 4 : BitVec 4).toNat = 10 from hf]
  rfl

theorem vecLegal_nzscan (ho : (fld w 26 6 : BitVec 6) = 0x29) (hf : fnOf w = 11) :
    vecLegal n sew w = (decide (dOf w < n ∧ aOf w < n) && decide (2 ≤ sew.toNat ∧ sew.toNat ≤ 11) && dOf w != aOf w) := by
  delta vecLegal
  rw [ho, show (fld w 1 4 : BitVec 4).toNat = 11 from hf]
  rfl

theorem vecLegal_confl (ho : (fld w 26 6 : BitVec 6) = 0x29) (hf : fnOf w = 12) :
    vecLegal n sew w = (decide (aOf w < n) && sewNotF4 sew) := by
  delta vecLegal
  rw [ho, show (fld w 1 4 : BitVec 4).toNat = 12 from hf]
  rfl

theorem vecLegal_mvVI (ho : (fld w 26 6 : BitVec 6) = 0x29) (hf : fnOf w = 13) :
    vecLegal n sew w = (decide (dOf w < n) && sewNotF4 sew) := by
  delta vecLegal
  rw [ho, show (fld w 1 4 : BitVec 4).toNat = 13 from hf]
  rfl

theorem vecLegal_mvVS (ho : (fld w 26 6 : BitVec 6) = 0x29) (hf : fnOf w = 14) :
    vecLegal n sew w = (decide (dOf w < n) && sewNotF4 sew) := by
  delta vecLegal
  rw [ho, show (fld w 1 4 : BitVec 4).toNat = 14 from hf]
  rfl

theorem vecLegal_cvt (ho : (fld w 26 6 : BitVec 6) = 0x2D) (hf : fnOf w = 0) :
    vecLegal n sew w = (cvtAdmits (fld w 8 4) sew && cvtRegs n (dOf w) (aOf w) (fld w 8 4) sew) := by
  delta vecLegal
  rw [ho, show (fld w 1 4 : BitVec 4).toNat = 0 from hf]
  rfl

theorem vecLegal_expand (ho : (fld w 26 6 : BitVec 6) = 0x2D) (hf : fnOf w = 1) :
    vecLegal n sew w = (decide (dOf w < n ∧ aOf w < n) && sew == 12#4 && dOf w != aOf w) := by
  delta vecLegal
  rw [ho, show (fld w 1 4 : BitVec 4).toNat = 1 from hf]
  rfl

theorem vecLegal_qblkF4 (ho : (fld w 26 6 : BitVec 6) = 0x2D) (hf : fnOf w = 2) :
    vecLegal n sew w = (decide (dOf w < n ∧ aOf w < n ∧ bOf w < n) && sewIsFloat sew && dOf w != aOf w && dOf w != bOf w && aOf w != bOf w) := by
  delta vecLegal
  rw [ho, show (fld w 1 4 : BitVec 4).toNat = 2 from hf]
  rfl

theorem vecLegal_qblkI8 (ho : (fld w 26 6 : BitVec 6) = 0x2D) (hf : fnOf w = 3) :
    vecLegal n sew w = (decide (dOf w < n ∧ aOf w < n ∧ bOf w < n) && sewIsFloat sew && dOf w != aOf w && dOf w != bOf w && aOf w != bOf w) := by
  delta vecLegal
  rw [ho, show (fld w 1 4 : BitVec 4).toNat = 3 from hf]
  rfl

theorem vecLegal_dqblkF4 (ho : (fld w 26 6 : BitVec 6) = 0x2D) (hf : fnOf w = 4) :
    vecLegal n sew w = (decide (dOf w < n ∧ aOf w < n ∧ bOf w < n) && decide (8 ≤ sew.toNat ∧ sew.toNat ≤ 13) && dOf w != aOf w && dOf w != bOf w) := by
  delta vecLegal
  rw [ho, show (fld w 1 4 : BitVec 4).toNat = 4 from hf]
  rfl

theorem vecLegal_dqblkI8 (ho : (fld w 26 6 : BitVec 6) = 0x2D) (hf : fnOf w = 5) :
    vecLegal n sew w = (decide (dOf w < n ∧ aOf w < n ∧ bOf w < n) && decide (8 ≤ sew.toNat ∧ sew.toNat ≤ 13) && dOf w != aOf w && dOf w != bOf w) := by
  delta vecLegal
  rw [ho, show (fld w 1 4 : BitVec 4).toNat = 5 from hf]
  rfl

theorem vecLegal_tshape (ho : (fld w 26 6 : BitVec 6) = 0x30#6) (hf : (fld w 8 4 : BitVec 4) = 0#4) :
    vecLegal n sew w = (sew == 0#4 || sew == 8#4 || sew == 9#4 || decide (11 ≤ sew.toNat ∧ sew.toNat ≤ 14)) := by
  delta vecLegal
  rw [ho, hf]
  rfl

theorem vecLegal_tmvz (ho : (fld w 26 6 : BitVec 6) = 0x30#6) (hf : (fld w 8 4 : BitVec 4) = 7#4) :
    vecLegal n sew w = (decide ((fld w 18 6 : BitVec 6).toNat < n) && (sewBits sew == 32 || sewBits sew == 64)) := by
  delta vecLegal
  rw [ho, hf]
  rfl

end

/-! ### What a word that passes the checks of the push meets -/

section
/-- Bit 8 of a word of VS format. -/
theorem wordVS_bit8 (op vd va : BitVec 6) (sb : BitVec 5) (f5 : BitVec 1) (km : BitVec 3) (fn : BitVec 4) (c : BitVec 1) :
    (wordVS op vd va sb f5 km fn c)[8] = f5.getLsbD 0 :=
  wordVS_f5 op vd va sb f5 km fn c

variable {n : Nat} {sew : BitVec 4} {d a b : BitVec 6} {k : BitVec 3} {sb x : BitVec 5} {km : BitVec 3} {fn : BitVec 4} {c f5 : BitVec 1}

/-- The kind and the width of a memory access, and the type that vcvt names, are parts of other fields. -/
theorem fld_kind (w : Word32) : (fld w 3 2 : BitVec 2) = BitVec.extractLsb' 2 2 (fld w 1 4 : BitVec 4) :=
  fld_fld w (show 2 + 2 ≤ 4 by decide)

theorem fld_width (w : Word32) : (fld w 1 2 : BitVec 2) = BitVec.extractLsb' 0 2 (fld w 1 4 : BitVec 4) :=
  fld_fld w (show 0 + 2 ≤ 4 by decide)

theorem fld_type (w : Word32) : (fld w 8 4 : BitVec 4) = BitVec.extractLsb' 0 4 (fld w 8 6 : BitVec 6) :=
  fld_fld w (show 0 + 4 ≤ 6 by decide)

theorem legal_intVV (hf : ¬ (8 ≤ fn.toNat ∧ fn.toNat ≤ 10)) (h : vecLegal n sew (wordV 0x21 d a b km fn c) = true) :
    d.toNat < n ∧ a.toNat < n ∧ b.toNat < n ∧ sew.toNat < 8 := by
  rw [vecLegal_intVV (wordV_op ..)] at h
  simp [hf, sewIsInt] at h
  omega

theorem legal_acc (hf : fn.toNat < 2) (h : vecLegal n sew (wordV 0x24 d a b km fn c) = true) :
    d.toNat < n ∧ a.toNat < n ∧ b.toNat < n ∧ sew.toNat < 8 := by
  rw [vecLegal_acc (wordV_op ..)] at h
  simp [sewIsInt, show ¬ (fn.toNat = 2 ∨ fn.toNat = 3) by omega, show ¬ (fn.toNat = 4 ∨ fn.toNat = 5) by omega] at h
  omega

theorem legal_intVS (hf : ¬ (8 ≤ fn.toNat ∧ fn.toNat ≤ 10)) (h : vecLegal n sew (wordVS 0x22 d a sb 0 km fn c) = true) :
    d.toNat < n ∧ a.toNat < n ∧ sew.toNat < 8 := by
  rw [vecLegal_intVS (wordVS_op ..)] at h
  simp [hf, sewIsInt, wordVS_bit8] at h
  omega

theorem legal_accVS (hf : fn.toNat < 3) (h : vecLegal n sew (wordVS 0x22 d a sb 1 km fn c) = true) :
    d.toNat < n ∧ a.toNat < n ∧ sew.toNat < 8 := by
  rw [vecLegal_intVS (wordVS_op ..)] at h
  simp [show ¬ (fn.toNat = 3 ∨ fn.toNat = 4) by omega, sewIsInt, wordVS_bit8] at h
  omega

theorem legal_intVI (hf : ¬ (2 ≤ fn.toNat ∧ fn.toNat ≤ 4)) (h : vecLegal n sew (wordV 0x23 d a b km fn c) = true) :
    d.toNat < n ∧ a.toNat < n ∧ sew.toNat < 8 := by
  rw [vecLegal_intVI (wordV_op ..)] at h
  simp [hf, sewIsInt] at h
  omega

theorem legal_fpVV (hf : ¬ (fn.toNat = 4 ∨ fn.toNat = 5 ∨ fn.toNat = 11)) (h : vecLegal n sew (wordV 0x25 d a b km fn c) = true) :
    d.toNat < n ∧ a.toNat < n ∧ b.toNat < n ∧ 8 ≤ sew.toNat ∧ sew.toNat ≤ 11 := by
  rw [vecLegal_fpVV (wordV_op ..)] at h
  simp [hf, sewIsFloat] at h
  omega

theorem legal_fpV (hf : fn.toNat = 4 ∨ fn.toNat = 5 ∨ fn.toNat = 11) (h : vecLegal n sew (wordV 0x25 d a b km fn c) = true) :
    d.toNat < n ∧ a.toNat < n ∧ 8 ≤ sew.toNat ∧ sew.toNat ≤ 11 := by
  rw [vecLegal_fpVV (wordV_op ..)] at h
  simp [hf, sewIsFloat] at h
  omega

theorem legal_fpVS (h : vecLegal n sew (wordVS 0x26 d a sb 0 km fn c) = true) :
    d.toNat < n ∧ a.toNat < n ∧ 8 ≤ sew.toNat ∧ sew.toNat ≤ 11 := by
  rw [vecLegal_fpVS (wordVS_op ..)] at h
  simp [sewIsFloat] at h
  omega

theorem legal_compare (h : vecLegal n sew (wordV 0x27 d a b km fn c) = true) :
    a.toNat < n ∧ (fn.toNat < 8 → b.toNat < n) ∧ (fn.toNat % 8 < 4 → sew.toNat < 8) ∧ (4 ≤ fn.toNat % 8 → 8 ≤ sew.toNat ∧ sew.toNat ≤ 11) := by
  rw [vecLegal_compare (wordV_op ..)] at h
  simp [sewIsInt, sewIsFloat] at h
  grind

theorem legal_widen (hf : fn.toNat = 2 ∨ fn.toNat = 3) (h : vecLegal n sew (wordV 0x24 d a b km fn c) = true) : sew.toNat < 6 := by
  rw [vecLegal_acc (wordV_op ..)] at h
  simp [hf] at h
  omega

theorem legal_widenVS (hf : fn.toNat = 3 ∨ fn.toNat = 4) (h : vecLegal n sew (wordVS 0x22 d a sb 1 km fn c) = true) : sew.toNat < 6 := by
  rw [vecLegal_intVS (wordVS_op ..)] at h
  simp [hf, wordVS_bit8] at h
  omega

theorem legal_dot4 (hf : fn.toNat = 4 ∨ fn.toNat = 5) (h : vecLegal n sew (wordV 0x24 d a b km fn c) = true) : sew.toNat = 4 ∨ sew.toNat = 5 := by
  rw [vecLegal_acc (wordV_op ..)] at h
  simp [hf, show ¬ (fn.toNat = 2 ∨ fn.toNat = 3) by omega, ← BitVec.toNat_inj] at h
  omega

theorem legal_compareVS (hf : 8 ≤ fn.toNat) (h : vecLegal n sew (wordVS 0x27 d a sb f5 km fn c) = true) :
    a.toNat < n ∧ (fn.toNat % 8 < 4 → sew.toNat < 8) := by
  rw [vecLegal_compare (wordVS_op ..)] at h
  simp [sewIsInt, sewIsFloat, show ¬ fn.toNat < 8 by omega] at h
  grind

theorem legal_mv (h : vecLegal n sew (wordV 0x29 d a b km 0 c) = true) : d.toNat < n := by
  rw [vecLegal_mv (wordV_op ..) (fnOf_wordV ..)] at h
  simp at h
  omega

theorem legal_mvVI (h : vecLegal n sew (wordV 0x29 d a b km 13 c) = true) : d.toNat < n ∧ sew.toNat ≠ 14 := by
  rw [vecLegal_mvVI (wordV_op ..) (fnOf_wordV ..)] at h
  simp [sewNotF4, ← BitVec.toNat_inj] at h
  omega

theorem legal_mvVS (hf : fn = 1 ∨ fn = 14) (h : vecLegal n sew (wordVS 0x29 d a sb f5 km fn c) = true) : d.toNat < n ∧ sew.toNat ≠ 14 := by
  obtain rfl | rfl := hf
  · rw [vecLegal_mvsx (wordVS_op ..) (fnOf_wordVS ..)] at h
    simp [sewNotF4, ← BitVec.toNat_inj] at h
    omega
  · rw [vecLegal_mvVS (wordVS_op ..) (fnOf_wordVS ..)] at h
    simp [sewNotF4, ← BitVec.toNat_inj] at h
    omega

theorem legal_slideVS (h : vecLegal n sew (wordVS 0x29 d a sb f5 km 3 c) = true) : sew.toNat ≠ 14 ∧ d ≠ a := by
  rw [vecLegal_slide (wordVS_op ..) (fnOf_wordVS ..)] at h
  simp [sewNotF4, ← BitVec.toNat_inj] at h
  simp [← BitVec.toNat_inj]
  omega

theorem legal_perm (h : vecLegal n sew (wordV 0x29 d a b km 7 c) = true) : b.toNat < n ∧ sew.toNat ≠ 14 ∧ d ≠ a := by
  rw [vecLegal_perm (wordV_op ..) (fnOf_wordV ..)] at h
  simp [sewNotF4, ← BitVec.toNat_inj] at h
  simp [← BitVec.toNat_inj]
  omega

theorem legal_compress (h : vecLegal n sew (wordV 0x29 d a b km 8 c) = true) : a.toNat < n ∧ d ≠ a := by
  rw [vecLegal_compress (wordV_op ..) (fnOf_wordV ..)] at h
  simp at h
  simp [← BitVec.toNat_inj]
  omega

theorem legal_nzscan (h : vecLegal n sew (wordVS 0x29 d a sb f5 km 11 c) = true) : d ≠ a := by
  rw [vecLegal_nzscan (wordVS_op ..) (fnOf_wordVS ..)] at h
  simp at h
  simp [← BitVec.toNat_inj]
  omega

theorem legal_index (hf : fn = 9 ∨ fn = 10) (h : vecLegal n sew (wordV 0x29 d a b km fn c) = true) : d.toNat < n ∧ sew.toNat < 8 := by
  obtain rfl | rfl := hf
  · rw [vecLegal_iota (wordV_op ..) (fnOf_wordV ..)] at h
    simpa [sewIsInt] using h
  · rw [vecLegal_vid (wordV_op ..) (fnOf_wordV ..)] at h
    simpa [sewIsInt] using h

theorem legal_ofVector (hf : fn = 2 ∨ fn = 12) (h : vecLegal n sew (wordV 0x29 d a b km fn c) = true) : a.toNat < n := by
  obtain rfl | rfl := hf
  · rw [vecLegal_mvxs (wordV_op ..) (fnOf_wordV ..)] at h
    simp at h
    exact h.1.1
  · rw [vecLegal_confl (wordV_op ..) (fnOf_wordV ..)] at h
    simp at h
    exact h.1

theorem legal_reduce (h : vecLegal n sew (wordVS 0x2A d a sb f5 km fn c) = true) :
    a.toNat < n ∧ (fn.toNat < 5 → sew.toNat < 8) ∧ (5 ≤ fn.toNat → 8 ≤ sew.toNat ∧ sew.toNat ≤ 11) := by
  rw [vecLegal_reduce (wordVS_op ..)] at h
  simp [sewIsInt, sewIsFloat] at h
  grind

section
variable {mw kind : BitVec 2}

/-- A memory access names registers below n: its destination or source, its index register and the last register of its segment. -/
theorem memRegs_below {vd vb imm : Nat} {load : Bool} (h : memRegs n vd vb kind imm load = true) :
    vd < n ∧ (kind = 2#2 → vb < n) ∧ (kind = 3#2 → vd + imm < n) := by
  unfold memRegs at h
  split at h
  · obtain ⟨hd, hb⟩ := of_decide_eq_true (Bool.and_elim_left h)
    exact ⟨hd, fun _ => hb, fun e => absurd e (by decide)⟩
  · have hs := of_decide_eq_true h
    exact ⟨by omega, fun e => absurd e (by decide), fun _ => by omega⟩
  next h2 h3 => exact ⟨of_decide_eq_true h, fun e => (h2 e).elim, fun e => (h3 e).elim⟩

theorem memWidthOk_ne (h : memWidthOk sew mw = true) : mw ≠ 3 := by
  rintro rfl
  simp [memWidthOk] at h

/-- The type mxf4 admits the accesses of kind 0 alone. -/
theorem kind_of_f4 {w : Word32} (h : (if sew = 14#4 then fnOf w == 0 else true) = true) (he : sew.toNat = 14) :
    (fld w 3 2 : BitVec 2) = 0 := by
  have h0 : (fld w 1 4 : BitVec 4) = 0 := by simpa [show sew = 14#4 from BitVec.eq_of_toNat_eq he, fnOf, ← BitVec.toNat_inj] using h
  rw [fld_kind, h0]
  rfl

theorem legal_load {w : Word32} (ho : (fld w 26 6 : BitVec 6) = 0x2B) (h : vecLegal n sew w = true) :
    (let kind : BitVec 2 := fld w 3 2
     dOf w < n ∧ (kind = 2#2 → bOf w < n) ∧ (kind = 3#2 → dOf w + bOf w < n) ∧ (fld w 1 2 : BitVec 2) ≠ 3 ∧ (sew.toNat = 14 → kind = 0)) := by
  simp only [vecLegal_load ho, Bool.and_eq_true] at h
  obtain ⟨⟨hr, hw⟩, h4⟩ := h
  obtain ⟨hd, hb, hs⟩ := memRegs_below hr
  exact ⟨hd, hb, hs, memWidthOk_ne hw, kind_of_f4 h4⟩

theorem legal_store {w : Word32} (ho : (fld w 26 6 : BitVec 6) = 0x2C) (h : vecLegal n sew w = true) :
    (let kind : BitVec 2 := fld w 3 2
     dOf w < n ∧ (kind = 2#2 → bOf w < n) ∧ (kind = 3#2 → dOf w + bOf w < n) ∧ (sew.toNat = 14 → kind = 0)) := by
  simp only [vecLegal_store ho, Bool.and_eq_true] at h
  obtain ⟨hr, h4⟩ := h
  obtain ⟨hd, hb, hs⟩ := memRegs_below hr
  exact ⟨hd, hb, hs, kind_of_f4 h4⟩

/-- The parts of the field that holds an access's kind and width. -/
theorem kind_append : BitVec.extractLsb' 2 2 (kind ++ mw) = kind := BitVec.extractLsb'_append_eq_left

theorem width_append : BitVec.extractLsb' 0 2 (kind ++ mw) = mw := BitVec.extractLsb'_append_eq_right

theorem legal_loadV (h : vecLegal n sew (wordV 0x2B d a b km (kind ++ mw) c) = true) :
    d.toNat < n ∧ (kind = 2#2 → b.toNat < n) ∧ (kind = 3#2 → d.toNat + b.toNat < n) ∧ mw ≠ 3 ∧ (sew.toNat = 14 → kind = 0) := by
  simpa only [fld_kind, fld_width, dOf_wordV, bOf_wordV, wordV_fn, kind_append, width_append] using legal_load (wordV_op ..) h

theorem legal_loadVS (h : vecLegal n sew (wordVS 0x2B d a sb f5 km (kind ++ mw) c) = true) :
    d.toNat < n ∧ mw ≠ 3 ∧ (sew.toNat = 14 → kind = 0) := by
  obtain ⟨hd, -, -, hw, h4⟩ := legal_load (wordVS_op ..) h
  simp only [fld_kind, fld_width, dOf_wordVS, wordVS_fn, kind_append, width_append] at hd hw h4
  exact ⟨hd, hw, h4⟩

theorem legal_storeV (h : vecLegal n sew (wordV 0x2C d a b km (kind ++ mw) c) = true) :
    d.toNat < n ∧ (kind = 2#2 → b.toNat < n) ∧ (kind = 3#2 → d.toNat + b.toNat < n) ∧ (sew.toNat = 14 → kind = 0) := by
  simpa only [fld_kind, dOf_wordV, bOf_wordV, wordV_fn, kind_append] using legal_store (wordV_op ..) h

theorem legal_storeVS (h : vecLegal n sew (wordVS 0x2C d a sb f5 km (kind ++ mw) c) = true) :
    d.toNat < n ∧ (sew.toNat = 14 → kind = 0) := by
  obtain ⟨hd, -, -, h4⟩ := legal_store (wordVS_op ..) h
  simp only [fld_kind, dOf_wordVS, wordVS_fn, kind_append] at hd h4
  exact ⟨hd, h4⟩

end

theorem legal_convert {ty : BitVec 4} (h : vecLegal n sew (wordV 0x2D d a (ty.setWidth 6) km 0 c) = true) : d.toNat < n ∧ ty ≠ sew := by
  have ht : BitVec.extractLsb' 0 4 (ty.setWidth 6) = ty := by
    refine BitVec.eq_of_toNat_eq ?_
    simp
    omega
  rw [vecLegal_cvt (wordV_op ..) (fnOf_wordV ..)] at h
  simp [fld_type, ht, cvtAdmits, cvtRegs] at h
  grind

theorem legal_expand (h : vecLegal n sew (wordV 0x2D d a b km 1 c) = true) : d.toNat < n ∧ sew.toNat = 12 := by
  rw [vecLegal_expand (wordV_op ..) (fnOf_wordV ..)] at h
  simp [← BitVec.toNat_inj] at h
  omega

theorem legal_quantize (hf : fn = 2 ∨ fn = 3) (h : vecLegal n sew (wordV 0x2D d a b km fn c) = true) :
    d.toNat < n ∧ b.toNat < n ∧ 8 ≤ sew.toNat ∧ sew.toNat ≤ 11 := by
  obtain rfl | rfl := hf
  · rw [vecLegal_qblkF4 (wordV_op ..) (fnOf_wordV ..)] at h
    simp [sewIsFloat] at h
    omega
  · rw [vecLegal_qblkI8 (wordV_op ..) (fnOf_wordV ..)] at h
    simp [sewIsFloat] at h
    omega

theorem legal_dequantize (hf : fn = 4 ∨ fn = 5) (h : vecLegal n sew (wordV 0x2D d a b km fn c) = true) :
    d.toNat < n ∧ b.toNat < n ∧ 8 ≤ sew.toNat ∧ sew.toNat ≤ 13 := by
  obtain rfl | rfl := hf
  · rw [vecLegal_dqblkF4 (wordV_op ..) (fnOf_wordV ..)] at h
    simp at h
    omega
  · rw [vecLegal_dqblkI8 (wordV_op ..) (fnOf_wordV ..)] at h
    simp at h
    omega

section
variable {z : BitVec 2} {vd vb : BitVec 6} {f : BitVec 7} {fn : BitVec 4}

theorem wordT_op : (fld (wordT z vd vb (fn ++ f)) 26 6 : BitVec 6) = 0x30#6 := by
  simp (disch := decide) only [fld, wordT, BitVec.extractLsb'_append_eq_of_le]
  rfl

theorem wordT_fn : (fld (wordT z vd vb (fn ++ f)) 8 4 : BitVec 4) = fn := by
  rw [fld, wordT, BitVec.extractLsb'_append_eq_of_le (show 1 ≤ 8 by decide), BitVec.extractLsb'_append_eq_of_add_le (show 7 + 4 ≤ 11 by decide)]
  exact BitVec.extractLsb'_append_eq_left

theorem wordT_va : (fld (wordT z vd vb (fn ++ f)) 18 6 : BitVec 6) = vd := by
  simp (disch := decide) only [fld, wordT, BitVec.extractLsb'_append_eq_of_le]
  exact BitVec.extractLsb'_append_eq_right

theorem demands_T {i : Instr} {c : BitVec 1} {P : Nat → Nat → Prop} (he : some (wordT z vd vb (fn ++ f)) = encode i)
    (hl : ∀ n sew, vecLegal n sew (wordT z vd vb (fn ++ f)) = true → P n sew.toNat) : demands i c P := by
  refine ⟨_, he.symm, queues_of_major he.symm (.inr wordT_op), fun _ h => ?_, hl⟩
  simp [isMember, wordT_op] at h

theorem legal_tshape (h : vecLegal n sew (wordT z vd vb (0#4 ++ f)) = true) : sew.toNat ∈ [0, 8, 9, 11, 12, 13, 14] := by
  rw [vecLegal_tshape wordT_op wordT_fn] at h
  simp [← BitVec.toNat_inj] at h
  simp
  omega

theorem legal_tmvz (h : vecLegal n sew (wordT z vd vb (7#4 ++ f)) = true) : vd.toNat < n := by
  rw [vecLegal_tmvz wordT_op wordT_fn] at h
  simp [wordT_va] at h
  omega

end

end

/-! ### The instructions that VectorPushTraps names, and what each demands -/

section
variable (d a b imm f : BitVec 6) (k : BitVec 3) (sb x : BitVec 5) (km : BitVec 3) (c : BitVec 1) (mw z : BitVec 2) (ty : BitVec 4)

/-- The integer instructions over two vectors that the statement names. -/
def intVVs : List Instr :=
  [.vaddVV d a b km c, .vsubVV d a b km c, .vmulVV d a b km c, .vmulhVV d a b km c, .vdivVV d a b km c, .vremVV d a b km c,
    .vminVV d a b km c, .vmaxVV d a b km c, .vsllVV d a b km c, .vsrlVV d a b km c, .vsraVV d a b km c, .vsaddVV d a b km c, .vssubVV d a b km c,
    .vmaddVV d a b km c, .vmsacVV d a b km c]

/-- The integer instructions over a vector and a scalar or an immediate. -/
def intVSs : List Instr :=
  [.vaddVS d a sb km c, .vsubVS d a sb km c, .vrsubVS d a sb km c, .vmulVS d a sb km c, .vmulhVS d a sb km c,
    .vdivVS d a sb km c, .vremVS d a sb km c, .vminVS d a sb km c, .vmaxVS d a sb km c, .vsllVS d a sb km c, .vsrlVS d a sb km c,
    .vsraVS d a sb km c, .vsaddVS d a sb km c, .vssubVS d a sb km c, .vmaddVS d a sb km c, .vmsacVS d a sb km c, .vaddVI d a imm km c,
    .vrsubVI d a imm km c, .vsllVI d a imm km c, .vsrlVI d a imm km c, .vsraVI d a imm km c, .vsaddVI d a imm km c, .vminVI d a imm km c,
    .vmaxVI d a imm km c]

/-- The floating-point instructions over two vectors. -/
def floatVVs : List Instr :=
  [.vfaddVV d a b km c, .vfsubVV d a b km c, .vfmulVV d a b km c, .vfdivVV d a b km c, .vfmaVV d a b km c,
    .vfmsVV d a b km c, .vfnmaVV d a b km c, .vfminVV d a b km c, .vfmaxVV d a b km c, .vfsgnjVV d a b km c, .vfsgnjnVV d a b km c,
    .vfsgnjxVV d a b km c]

/-- The floating-point instructions over one vector, with a scalar or without. -/
def floatVSs : List Instr :=
  [.vfaddVS d a sb km c, .vfsubVS d a sb km c, .vfmulVS d a sb km c, .vfdivVS d a sb km c, .vfmaVS d a sb km c,
    .vfmsVS d a sb km c, .vfnmaVS d a sb km c, .vfminVS d a sb km c, .vfmaxVS d a sb km c, .vfsgnjVS d a sb km c, .vfsgnjnVS d a sb km c,
    .vfsgnjxVS d a sb km c, .vfsqrt d a km c, .vfrsqrt d a km c, .vfclass d a km c]

variable {d a b imm f k sb x km c mw z ty}

theorem demands_intVV {i : Instr} {fn : BitVec 4} (he : some (wordV 0x21 d a b km fn c) = encode i) (hf : ¬ (8 ≤ fn.toNat ∧ fn.toNat ≤ 10)) :
    demands i c fun n e => d.toNat < n ∧ a.toNat < n ∧ b.toNat < n ∧ e < 8 :=
  demands_V he (by decide) fun _ _ => legal_intVV hf

theorem demands_acc {i : Instr} {fn : BitVec 4} (he : some (wordV 0x24 d a b km fn c) = encode i) (hf : fn.toNat < 2) :
    demands i c fun n e => d.toNat < n ∧ a.toNat < n ∧ b.toNat < n ∧ e < 8 :=
  demands_V he (by decide) fun _ _ => legal_acc hf

theorem demands_intVS {i : Instr} {fn : BitVec 4} (he : some (wordVS 0x22 d a sb 0 km fn c) = encode i)
    (hf : ¬ (8 ≤ fn.toNat ∧ fn.toNat ≤ 10)) : demands i c fun n e => d.toNat < n ∧ a.toNat < n ∧ e < 8 :=
  demands_VS he (by decide) fun _ _ => legal_intVS hf

theorem demands_accVS {i : Instr} {fn : BitVec 4} (he : some (wordVS 0x22 d a sb 1 km fn c) = encode i) (hf : fn.toNat < 3) :
    demands i c fun n e => d.toNat < n ∧ a.toNat < n ∧ e < 8 :=
  demands_VS he (by decide) fun _ _ => legal_accVS hf

theorem demands_intVI {i : Instr} {fn : BitVec 4} (he : some (wordV 0x23 d a imm km fn c) = encode i)
    (hf : ¬ (2 ≤ fn.toNat ∧ fn.toNat ≤ 4)) : demands i c fun n e => d.toNat < n ∧ a.toNat < n ∧ e < 8 :=
  demands_V he (by decide) fun _ _ => legal_intVI hf

theorem demands_fpVV {i : Instr} {fn : BitVec 4} (he : some (wordV 0x25 d a b km fn c) = encode i)
    (hf : ¬ (fn.toNat = 4 ∨ fn.toNat = 5 ∨ fn.toNat = 11)) :
    demands i c fun n e => d.toNat < n ∧ a.toNat < n ∧ b.toNat < n ∧ 8 ≤ e ∧ e ≤ 11 :=
  demands_V he (by decide) fun _ _ => legal_fpVV hf

theorem demands_fpV {i : Instr} {fn : BitVec 4} (he : some (wordV 0x25 d a b km fn c) = encode i)
    (hf : fn.toNat = 4 ∨ fn.toNat = 5 ∨ fn.toNat = 11) : demands i c fun n e => d.toNat < n ∧ a.toNat < n ∧ 8 ≤ e ∧ e ≤ 11 :=
  demands_V he (by decide) fun _ _ => legal_fpV hf

theorem demands_fpVS {i : Instr} {fn : BitVec 4} (he : some (wordVS 0x26 d a sb 0 km fn c) = encode i) :
    demands i c fun n e => d.toNat < n ∧ a.toNat < n ∧ 8 ≤ e ∧ e ≤ 11 :=
  demands_VS he (by decide) fun _ _ => legal_fpVS

theorem demands_intVVs : ∀ i ∈ intVVs d a b km c, demands i c fun n e => d.toNat < n ∧ a.toNat < n ∧ b.toNat < n ∧ e < 8 := by
  simp only [intVVs, List.forall_mem_cons]
  and_intros
  iterate 13 exact demands_intVV rfl (by decide)
  iterate 2 exact demands_acc rfl (by decide)
  exact List.forall_mem_nil _

theorem demands_intVSs : ∀ i ∈ intVSs d a imm sb km c, demands i c fun n e => d.toNat < n ∧ a.toNat < n ∧ e < 8 := by
  simp only [intVSs, List.forall_mem_cons]
  and_intros
  iterate 2 exact demands_intVS rfl (by decide)
  · exact demands_accVS rfl (by decide)
  iterate 11 exact demands_intVS rfl (by decide)
  iterate 2 exact demands_accVS rfl (by decide)
  iterate 8 exact demands_intVI rfl (by decide)
  exact List.forall_mem_nil _

theorem demands_floatVVs : ∀ i ∈ floatVVs d a b km c, demands i c fun n e => d.toNat < n ∧ a.toNat < n ∧ b.toNat < n ∧ 8 ≤ e ∧ e ≤ 11 := by
  simp only [floatVVs, List.forall_mem_cons]
  and_intros
  iterate 12 exact demands_fpVV rfl (by decide)
  exact List.forall_mem_nil _

theorem demands_floatVSs : ∀ i ∈ floatVSs d a sb km c, demands i c fun n e => d.toNat < n ∧ a.toNat < n ∧ 8 ≤ e ∧ e ≤ 11 := by
  simp only [floatVSs, List.forall_mem_cons]
  and_intros
  iterate 12 exact demands_fpVS rfl
  iterate 3 exact demands_fpV (b := 0) rfl (by decide)
  exact List.forall_mem_nil _

theorem demands_vmseqVV : demands (.vmseqVV k a b km c) c fun n e => a.toNat < n ∧ b.toNat < n ∧ e < 8 :=
  demands_V word_maskDest.symm (by decide) fun _ _ h =>
    have ⟨ha, hb, hi, _⟩ := legal_compare h
    ⟨ha, hb (by decide), hi (by decide)⟩

theorem demands_vmfltVV : demands (.vmfltVV k a b km c) c fun n _ => b.toNat < n :=
  demands_V word_maskDest.symm (by decide) fun _ _ h =>
    have ⟨_, hb, _, _⟩ := legal_compare h
    hb (by decide)

theorem demands_vmfeqVV : demands (.vmfeqVV k a b km c) c fun _ e => 8 ≤ e ∧ e ≤ 11 :=
  demands_V word_maskDest.symm (by decide) fun _ _ h =>
    have ⟨_, _, _, hf⟩ := legal_compare h
    hf (by decide)

theorem demands_vmseqVS : demands (.vmseqVS k a sb km c) c fun n _ => a.toNat < n :=
  demands_VS word_maskDestS.symm (by decide) fun _ _ h => (legal_compareVS (by decide) h).1

theorem demands_vmfltVS : demands (.vmfltVS k a sb km c) c fun n _ => a.toNat < n :=
  demands_VS word_maskDestS.symm (by decide) fun _ _ h => (legal_compareVS (by decide) h).1

theorem demands_vmsltVS : demands (.vmsltVS k a sb km c) c fun _ e => e < 8 :=
  demands_VS word_maskDestS.symm (by decide) fun _ _ h => (legal_compareVS (by decide) h).2 (by decide)

theorem demands_vid : demands (.vid d km c) c fun n e => d.toNat < n ∧ e < 8 :=
  demands_V word_destAlone.symm (by decide) fun _ _ => legal_index (.inr rfl)

theorem demands_viota : demands (.viota d km c) c fun n e => d.toNat < n ∧ e < 8 :=
  demands_V word_destAlone.symm (by decide) fun _ _ => legal_index (.inl rfl)

theorem demands_vredsum : demands (.vredsum sb a sb km c) c fun n e => a.toNat < n ∧ e < 8 :=
  demands_VS word_scalarDestS.symm (by decide) fun _ _ h =>
    have ⟨ha, hi, _⟩ := legal_reduce h
    ⟨ha, hi (by decide)⟩

theorem demands_vfredsum : demands (.vfredsum sb a sb km c) c fun _ e => 8 ≤ e ∧ e ≤ 11 :=
  demands_VS word_scalarDestS.symm (by decide) fun _ _ h => (legal_reduce h).2.2 (by decide)

theorem demands_vfredmax : demands (.vfredmax sb a sb km c) c fun n _ => a.toNat < n :=
  demands_VS word_scalarDestS.symm (by decide) fun _ _ h => (legal_reduce h).1

theorem demands_vmvxs : demands (.vmvxs sb a km c) c fun n _ => a.toNat < n :=
  demands_V word_scalarDest.symm (by decide) fun _ _ => legal_ofVector (.inl rfl)

theorem demands_vconfl : demands (.vconfl k a km c) c fun n _ => a.toNat < n :=
  demands_V word_maskDest.symm (by decide) fun _ _ => legal_ofVector (.inr rfl)

theorem demands_vperm : demands (.vperm d a b km c) c fun n e => b.toNat < n ∧ e ≠ 14 ∧ d ≠ a :=
  demands_V rfl (by decide) fun _ _ => legal_perm

theorem demands_vcompress : demands (.vcompress d a km c) c fun n _ => a.toNat < n ∧ d ≠ a :=
  demands_V (vb := 0) rfl (by decide) fun _ _ => legal_compress

theorem demands_vslideupVS : demands (.vslideupVS d a sb km c) c fun _ e => e ≠ 14 ∧ d ≠ a :=
  demands_VS rfl (by decide) fun _ _ => legal_slideVS

theorem demands_vnzscan : demands (.vnzscan d a sb km c) c fun _ _ => d ≠ a :=
  demands_VS rfl (by decide) fun _ _ => legal_nzscan

theorem demands_vmvVV : demands (.vmvVV d a km c) c fun n _ => d.toNat < n :=
  demands_V (vb := 0) rfl (by decide) fun _ _ => legal_mv

theorem demands_vmvVI : demands (.vmvVI d imm km c) c fun n e => d.toNat < n ∧ e ≠ 14 :=
  demands_V (va := 0) rfl (by decide) fun _ _ => legal_mvVI

theorem demands_vmvVS : demands (.vmvVS d sb km c) c fun n e => d.toNat < n ∧ e ≠ 14 :=
  demands_VS (va := 0) rfl (by decide) fun _ _ => legal_mvVS (.inr rfl)

theorem demands_vmvsx : demands (.vmvsx d sb km c) c fun n e => d.toNat < n ∧ e ≠ 14 :=
  demands_VS (va := 0) rfl (by decide) fun _ _ => legal_mvVS (.inl rfl)

theorem demands_vwaddVV : demands (.vwaddVV d a b km c) c fun _ e => e < 6 :=
  demands_V rfl (by decide) fun _ _ => legal_widen (.inl rfl)

theorem demands_vwmulVS : demands (.vwmulVS d a sb km c) c fun _ e => e < 6 :=
  demands_VS rfl (by decide) fun _ _ => legal_widenVS (.inr rfl)

theorem demands_vdot4 : demands (.vdot4 d a b km c) c fun _ e => e = 4 ∨ e = 5 :=
  demands_V rfl (by decide) fun _ _ => legal_dot4 (.inl rfl)

theorem demands_vdot4Sat : demands (.vdot4Sat d a b km c) c fun _ e => e = 4 ∨ e = 5 :=
  demands_V rfl (by decide) fun _ _ => legal_dot4 (.inr rfl)

theorem demands_vcvt : demands (.vcvt d a ty km c) c fun n e => d.toNat < n ∧ ty.toNat ≠ e :=
  demands_V word_type.symm (by decide) fun _ _ h => (legal_convert h).imp_right fun h e => h (BitVec.eq_of_toNat_eq e)

theorem demands_vxpand : demands (.vxpand d a f km c) c fun n e => d.toNat < n ∧ e = 12 :=
  demands_V rfl (by decide) fun _ _ => legal_expand

theorem demands_vqblkF4 : demands (.vqblkF4 d a b km c) c fun n e => d.toNat < n ∧ b.toNat < n ∧ 8 ≤ e ∧ e ≤ 11 :=
  demands_V rfl (by decide) fun _ _ => legal_quantize (.inl rfl)

theorem demands_vqblkI8 : demands (.vqblkI8 d a b km c) c fun n e => d.toNat < n ∧ b.toNat < n ∧ 8 ≤ e ∧ e ≤ 11 :=
  demands_V rfl (by decide) fun _ _ => legal_quantize (.inr rfl)

theorem demands_vdqblkF4 : demands (.vdqblkF4 d a b km c) c fun n e => d.toNat < n ∧ b.toNat < n ∧ 8 ≤ e ∧ e ≤ 13 :=
  demands_V rfl (by decide) fun _ _ => legal_dequantize (.inl rfl)

theorem demands_vdqblkI8 : demands (.vdqblkI8 d a b km c) c fun n e => d.toNat < n ∧ b.toNat < n ∧ 8 ≤ e ∧ e ≤ 13 :=
  demands_V rfl (by decide) fun _ _ => legal_dequantize (.inr rfl)

theorem demands_tshape : demands (.tshape sb) c fun _ e => e ∈ [0, 8, 9, 11, 12, 13, 14] :=
  demands_T (z := 0) (vb := 0) (f := 0) (fn := 0) word_tshape.symm fun _ _ => legal_tshape

theorem demands_tmvz : demands (.tmvz z d sb) c fun n _ => d.toNat < n :=
  demands_T (f := 0) (fn := 7) word_tmvz.symm fun _ _ => legal_tmvz

theorem demands_vld : demands (.vld d sb km mw c) c fun n _ => d.toNat < n ∧ mw ≠ 3 :=
  demands_V (vb := 0) word_baseWidth.symm (by decide) fun _ _ h =>
    have ⟨hd, _, _, hw, _⟩ := legal_loadV h
    ⟨hd, hw⟩

theorem demands_vlds : demands (.vlds d sb x km mw c) c fun n e => d.toNat < n ∧ mw ≠ 3 ∧ e ≠ 14 :=
  demands_VS word_baseWidthS.symm (by decide) fun _ _ h =>
    have ⟨hd, hw, h4⟩ := legal_loadVS h
    ⟨hd, hw, fun e => absurd (h4 e) (by decide)⟩

theorem demands_vldx : demands (.vldx d sb b km mw c) c fun n e => d.toNat < n ∧ b.toNat < n ∧ mw ≠ 3 ∧ e ≠ 14 :=
  demands_V word_baseWidth.symm (by decide) fun _ _ h =>
    have ⟨hd, hb, _, hw, h4⟩ := legal_loadV h
    ⟨hd, hb rfl, hw, fun e => absurd (h4 e) (by decide)⟩

theorem demands_vldseg : demands (.vldseg d sb imm km mw c) c fun n e => d.toNat < n ∧ d.toNat + imm.toNat < n ∧ mw ≠ 3 ∧ e ≠ 14 :=
  demands_V word_baseWidth.symm (by decide) fun _ _ h =>
    have ⟨hd, _, hs, hw, h4⟩ := legal_loadV h
    ⟨hd, hs rfl, hw, fun e => absurd (h4 e) (by decide)⟩

theorem demands_vst : demands (.vst d sb km c) c fun n _ => d.toNat < n :=
  demands_V (vb := 0) (fn := 0#2 ++ 0#2) word_base.symm (by decide) fun _ _ h => (legal_storeV h).1

theorem demands_vsts : demands (.vsts d sb x km c) c fun n e => d.toNat < n ∧ e ≠ 14 :=
  demands_VS (fn := 1#2 ++ 0#2) word_baseS.symm (by decide) fun _ _ h =>
    have ⟨hd, h4⟩ := legal_storeVS h
    ⟨hd, fun e => absurd (h4 e) (by decide)⟩

theorem demands_vstx : demands (.vstx d sb b km c) c fun n e => d.toNat < n ∧ b.toNat < n ∧ e ≠ 14 :=
  demands_V (fn := 2#2 ++ 0#2) word_base.symm (by decide) fun _ _ h =>
    have ⟨hd, hb, _, h4⟩ := legal_storeV h
    ⟨hd, hb rfl, fun e => absurd (h4 e) (by decide)⟩

theorem demands_vstseg : demands (.vstseg d sb imm km c) c fun n e => d.toNat < n ∧ d.toNat + imm.toNat < n ∧ e ≠ 14 :=
  demands_V (fn := 3#2 ++ 0#2) word_base.symm (by decide) fun _ _ h =>
    have ⟨hd, _, hs, h4⟩ := legal_storeV h
    ⟨hd, hs rfl, fun e => absurd (h4 e) (by decide)⟩

end

/-- Settles O27: every word that the statement names is issued by its push, whose checks refuse it. -/
theorem vectorPushTraps : Obligations.VectorPushTraps := by
  unfold Obligations.VectorPushTraps
  intro s rest d a b imm f k sb km c mw z ty hq hc sew traps intVV intV floatVV floatV
  have no {i : Instr} {P : Nat → Nat → Prop} (h : demands i c P) (hP : ¬ P (regs s) sew) : traps i := h.traps hq hc hP
  have nil : ∀ j ∈ ([] : List Instr), traps j := List.forall_mem_nil _
  simp only [List.forall_mem_append, List.forall_mem_cons]
  refine ⟨fun h => ⟨⟨⟨?_, ?_⟩, ?_⟩, ?_⟩, fun h => ⟨⟨?_, ?_⟩, ?_⟩, fun h => ⟨⟨?_, ?_⟩, ?_⟩, fun h => ⟨⟨?_, ?_⟩, ?_⟩, fun h => ?_, fun h4 h5 => ?_,
    fun i w hi hp hl => ?_, fun h => ?_, fun h => ?_, fun h => ?_, fun h => ?_, fun h => ?_, fun h => ?_, fun h => ?_, fun h => ?_, fun h => ?_, fun h => ?_,
    fun h => ?_⟩
  · exact fun i hi => no (demands_intVVs i hi) (by omega)
  · exact fun i hi => no (demands_floatVVs i hi) (by omega)
  · exact fun i hi => no (demands_intVSs i hi) (by omega)
  · exact fun i hi => no (demands_floatVSs i hi) (by omega)
  · exact fun i hi => no (demands_intVVs i hi) (by omega)
  · exact fun i hi => no (demands_floatVVs i hi) (by omega)
  · exact ⟨no demands_vmseqVV (by omega), no demands_vmfltVV (by omega), no demands_vperm (by omega), nil⟩
  · exact fun i hi => no (demands_intVVs i hi) (by omega)
  · exact fun i hi => no (demands_intVSs i hi) (by omega)
  · exact ⟨no demands_vmseqVV (by omega), no demands_vmsltVS (by omega), no demands_vid (by omega), no demands_viota (by omega),
      no demands_vredsum (by omega), nil⟩
  · exact fun i hi => no (demands_floatVVs i hi) (by omega)
  · exact fun i hi => no (demands_floatVSs i hi) (by omega)
  · exact ⟨no demands_vmfeqVV (by omega), no demands_vfredsum (by omega), no demands_vqblkF4 (by omega), nil⟩
  · exact ⟨no demands_vwaddVV (by omega), no demands_vwmulVS (by omega)⟩
  · exact ⟨no demands_vdot4 (by omega), no demands_vdot4Sat (by omega)⟩
  · obtain ⟨mk, hx⟩ := queues_issues hi
    rw [hx]
    exact issueV_refused mk hq (noPfxConvoy_none w hp) hl
  · exact ⟨no demands_vld (by omega), no demands_vlds (by omega), no demands_vldx (by omega), no demands_vldseg (by omega),
      no demands_vst (by omega), no demands_vsts (by omega), no demands_vstx (by omega), no demands_vstseg (by omega), no demands_vcvt (by omega),
      no demands_vxpand (by omega), no demands_vqblkF4 (by omega), no demands_vqblkI8 (by omega), no demands_vdqblkF4 (by omega),
      no demands_vdqblkI8 (by omega), no demands_tmvz (by omega), no demands_vmvVV (by omega), no demands_vmvVI (by omega),
      no demands_vmvVS (by omega), no demands_vmvsx (by omega), no demands_vid (by omega), no demands_viota (by omega), nil⟩
  · exact ⟨no demands_vldx (by omega), no demands_vstx (by omega), no demands_vqblkF4 (by omega), no demands_vqblkI8 (by omega),
      no demands_vdqblkF4 (by omega), no demands_vdqblkI8 (by omega), nil⟩
  · exact ⟨no demands_vmseqVS (by omega), no demands_vmfltVS (by omega), no demands_vredsum (by omega), no demands_vfredmax (by omega),
      no demands_vconfl (by omega), no demands_vmvxs (by omega), no demands_vcompress (by omega), nil⟩
  · exact ⟨no demands_vldseg (by omega), no demands_vstseg (by omega)⟩
  · exact ⟨no demands_vld (by simp [h]), no demands_vlds (by simp [h]), no demands_vldx (by simp [h]), no demands_vldseg (by simp [h]), nil⟩
  · exact ⟨no demands_vlds (by simp [h]), no demands_vldx (by simp [h]), no demands_vldseg (by simp [h]), no demands_vsts (by simp [h]),
      no demands_vstx (by simp [h]), no demands_vstseg (by simp [h]), no demands_vmvVI (by simp [h]), no demands_vmvVS (by simp [h]),
      no demands_vmvsx (by simp [h]), no demands_vslideupVS (by simp [h]), no demands_vperm (by simp [h]), nil⟩
  · exact no demands_vcvt (by simp [h, sew])
  · exact no demands_vxpand (by omega)
  · exact ⟨no demands_vdqblkF4 (by omega), no demands_vdqblkI8 (by omega)⟩
  · exact no demands_tshape h
  · exact ⟨no demands_vslideupVS (by simp [h]), no demands_vperm (by simp [h]), no demands_vcompress (by simp [h]), no demands_vnzscan (by simp [h])⟩

end Sys2Proof.Proofs

/-! SUPPORT. Proofs of the statements of the family of spec/04: encoding and assembly. -/

namespace Sys2Proof.Proofs

open Sys2Proof Sys2Proof.Machine Sys2Proof.Safety Sys2Proof.Laws

/-! ### Words by their fields (R80) -/

/-- The upper of two parts, as a part of the whole. -/
theorem upper_part {n m : Nat} {x : BitVec n} {y : BitVec m} {c : BitVec (n + m)} (h : x ++ y = c) : c.extractLsb' m n = x := by
  subst h
  exact hi (by simp) (by simp)

/-- The lower of two parts, as a part of the whole. -/
theorem lower_part {n m : Nat} {x : BitVec n} {y : BitVec m} {c : BitVec (n + m)} (h : x ++ y = c) : c.extractLsb' 0 m = y := by
  subst h
  exact lo (by simp) (whole y)

section
variable {w : Word32} {op : Opcode}

/-- Two fields side by side hold what they hold, joined. -/
theorem joined {k n m : Nat} {x : BitVec n} {y : BitVec m} (hx : x = fld w (k + m) n) (hy : y = fld w k m) : x ++ y = fld w k (n + m) := by
  subst hx hy
  ext i hi
  rw [BitVec.getElem_append]
  split
  · simp
  · rename_i h
    simp only [BitVec.getElem_extractLsb']
    exact congrArg w.getLsbD (by omega)

/-- An instruction's word is the one whose 32 bits its encoding spells. -/
theorem spelled {i : Instr} {v : Word32} (he : encode i = some v) (h : v = fld w 0 32) : encode i = some w :=
  he.trans (congrArg some (h.trans (whole w)))

/-- A row is selected past the check of a fixed field where the field holds its value. -/
theorem fixed_ok {n : Nat} {x v : BitVec n} {e : DecodeError} {r : Except DecodeError Opcode} :
    (if x ≠ v then .error e else r) = .ok op ↔ v = x ∧ r = .ok op := by
  by_cases h : x = v
  · simp [h]
  · simp [h, Ne.symm h]

/-! ### A word that selects a row is that row's encoding of its fields (R84 to R105)

For each part of an encoding, from the major down: an operand is the field of the word by definition, and a constant is what the decoder has found in the
field: the major hm, the selector hf, and the fixed field from bit n on, hn. -/

theorem encode_major01 (hm : 0x01#6 = fld w 26 6) (h : decodeMajor01 w = .ok op) : encode (op.build w) = some w := by
  unfold decodeMajor01 at h
  split at h
  case h_22 => cases h
  all_goals
    rename_i hf
    cases h
    exact spelled rfl (joined (joined (joined (joined hm rfl) rfl) rfl) hf.symm)

theorem encode_major02 (hm : 0x02#6 = fld w 26 6) (h : decodeMajor02 w = .ok op) : encode (op.build w) = some w := by
  unfold decodeMajor02 at h
  split at h
  case h_8 => cases h
  all_goals
    rename_i hf
    cases h
    exact spelled rfl (joined (joined (joined (joined hm rfl) rfl) rfl) hf.symm)

theorem encode_major03 (hm : 0x03#6 = fld w 26 6) (h : decodeMajor03 w = .ok op) : encode (op.build w) = some w := by
  unfold decodeMajor03 at h
  split at h
  all_goals
    rename_i hf
    simp only [fixed_ok, Except.ok.injEq, reduceCtorEq] at h
  case h_1 | h_2 | h_3 | h_6 | h_7 | h_8 | h_9 | h_10 | h_11 | h_12 => -- clz ctz popc bswap sextB sextH sextW zextB zextH zextW
    obtain ⟨h11, rfl⟩ := h
    exact spelled rfl (joined (joined (joined hm rfl) rfl) (joined h11 hf.symm :))
  case h_4 | h_5 => -- bext bdep
    subst h
    exact spelled rfl (joined (joined (joined (joined hm rfl) rfl) rfl) hf.symm)

theorem encode_major08 (hm : 0x08#6 = fld w 26 6) (h : decodeMajor08 w = .ok op) : encode (op.build w) = some w := by
  unfold decodeMajor08 at h
  split at h
  case h_4 => cases h
  all_goals
    rename_i hf
    simp only [fixed_ok, Except.ok.injEq] at h
    obtain ⟨h8, rfl⟩ := h
    exact spelled rfl (joined (joined (joined (joined hm rfl) rfl) (joined h8 hf.symm :)) rfl)

theorem encode_major10 (hm : 0x10#6 = fld w 26 6) (h : decodeMajor10 w = .ok op) : encode (op.build w) = some w := by
  unfold decodeMajor10 at h
  split at h
  all_goals
    rename_i hf
    simp only [fixed_ok, Except.ok.injEq, reduceCtorEq] at h
  case h_1 | h_2 | h_3 | h_4 => -- fadd fsub fmul fdiv
    subst h
    exact spelled rfl (joined (joined (joined (joined (joined (joined hm rfl) rfl) rfl) rfl) rfl) hf.symm)
  case h_5 => -- fsqrt
    obtain ⟨h11, rfl⟩ := h
    exact spelled rfl (joined (joined (joined (joined (joined (joined hm rfl) rfl) h11) rfl) rfl) hf.symm)
  case h_6 | h_7 | h_8 | h_9 | h_10 | h_12 | h_13 | h_14 => -- fmin fmax feq flt fle fsgnj fsgnjn fsgnjx
    obtain ⟨h6, rfl⟩ := h
    exact spelled rfl (joined (joined (joined (joined (joined hm rfl) rfl) rfl) rfl) (joined h6 hf.symm :))
  case h_11 => -- fclass
    obtain ⟨h11, h6, rfl⟩ := h
    exact spelled rfl (joined (joined (joined (joined (joined hm rfl) rfl) h11) rfl) (joined h6 hf.symm :))
  case h_15 | h_16 | h_17 => -- fcvtFF fcvtFI fcvtIF
    obtain ⟨h13, rfl⟩ := h
    exact spelled rfl (joined (joined (joined (joined (joined (joined (joined hm rfl) rfl) h13) rfl) rfl) rfl) hf.symm)

theorem encode_major17 (hm : 0x17#6 = fld w 26 6) (h : decodeMajor17 w = .ok op) : encode (op.build w) = some w := by
  unfold decodeMajor17 at h
  split at h
  case h_7 => cases h
  all_goals
    rename_i hf
    cases h
    exact spelled rfl (joined (joined (joined (joined hm rfl) rfl) hf.symm) rfl)

theorem encode_major18 (hm : 0x18#6 = fld w 26 6) (h : decodeMajor18 w = .ok op) : encode (op.build w) = some w := by
  unfold decodeMajor18 at h
  split at h
  case h_8 => cases h
  all_goals
    rename_i hf
    cases h
    exact spelled rfl (joined (joined (joined (joined hm rfl) rfl) hf.symm) rfl)

theorem encode_major19 (hm : 0x19#6 = fld w 26 6) (h : decodeMajor19 w = .ok op) : encode (op.build w) = some w := by
  unfold decodeMajor19 at h
  split at h
  case h_5 => cases h
  all_goals
    rename_i hf
    cases h
    exact spelled rfl (joined (joined (joined (joined hm rfl) rfl) hf.symm) rfl)

theorem encode_major1A (hm : 0x1A#6 = fld w 26 6) (h : decodeMajor1A w = .ok op) : encode (op.build w) = some w := by
  unfold decodeMajor1A at h
  split at h
  all_goals
    rename_i hf
    simp only [fixed_ok, Except.ok.injEq, reduceCtorEq] at h
  case h_1 | h_2 | h_3 | h_4 => -- ldbuAQ ldhuAQ ldwuAQ lddAQ
    obtain ⟨h11, h0, rfl⟩ := h
    exact spelled rfl (joined (joined (joined (joined (joined hm rfl) rfl) (joined h11 hf.symm :)) rfl) h0)
  case h_5 | h_6 | h_7 | h_8 => -- stbRL sthRL stwRL stdRL
    obtain ⟨h21, h0, rfl⟩ := h
    exact spelled rfl (joined (joined (joined (joined (joined (joined hm h21) rfl) rfl) hf.symm) rfl) h0)

theorem encode_major1B (hm : 0x1B#6 = fld w 26 6) (h : decodeMajor1B w = .ok op) : encode (op.build w) = some w := by
  unfold decodeMajor1B at h
  split at h
  all_goals
    rename_i hf
    simp only [fixed_ok, Except.ok.injEq, reduceCtorEq] at h
  case h_1 | h_2 | h_3 | h_4 | h_5 | h_6 | h_7 | h_8 | h_9 | h_10 => -- amoadd amoand amoor amoxor amomin amomax amominu amomaxu amoswap cas
    subst h
    exact spelled rfl (joined (joined (joined (joined (joined (joined (joined hm rfl) rfl) rfl) hf.symm) rfl) rfl) rfl)
  case h_11 | h_12 => -- ldsync ldtake
    obtain ⟨h11, h5, h0, rfl⟩ := h
    exact spelled rfl (joined (joined (joined (joined (joined hm rfl) rfl) (joined (joined h11 hf.symm) h5 :)) rfl) h0)
  case h_13 | h_14 | h_15 => -- stfill feclr feset
    obtain ⟨h21, h5, h0, rfl⟩ := h
    exact spelled rfl (joined (joined (joined (joined (joined (joined hm h21) rfl) rfl) (joined hf.symm h5 :)) rfl) h0)

theorem encode_major1C (hm : 0x1C#6 = fld w 26 6) (h : decodeMajor1C w = .ok op) : encode (op.build w) = some w := by
  unfold decodeMajor1C at h
  split at h
  all_goals
    rename_i hf
    simp only [fixed_ok, Except.ok.injEq, reduceCtorEq] at h
  case h_1 => -- csrr
    obtain ⟨h14, rfl⟩ := h
    exact spelled rfl (joined (joined (joined hm rfl) (joined h14 hf.symm :)) rfl)
  case h_2 | h_3 | h_4 => -- csrw csrs csrc
    obtain ⟨h14, rfl⟩ := h
    exact spelled rfl (joined (joined (joined (joined hm rfl) rfl) (joined h14 hf.symm :)) rfl)

theorem encode_major1D (hm : 0x1D#6 = fld w 26 6) (h : decodeMajor1D w = .ok op) : encode (op.build w) = some w := by
  unfold decodeMajor1D at h
  split at h
  all_goals
    rename_i hf
    simp only [fixed_ok, Except.ok.injEq, reduceCtorEq] at h
  case h_1 => -- fence
    obtain ⟨h11, rfl⟩ := h
    exact spelled rfl (joined (joined (joined (joined hm (joined h11 hf.symm :)) rfl) rfl) rfl)
  case h_2 | h_3 | h_4 => -- fenceSV fenceVS fenceVV
    obtain ⟨h11, h0, rfl⟩ := h
    exact spelled rfl (joined hm (joined (joined h11 hf.symm) h0 :))

theorem encode_major1E (hm : 0x1E#6 = fld w 26 6) (h : decodeMajor1E w = .ok op) : encode (op.build w) = some w := by
  unfold decodeMajor1E at h
  split at h
  all_goals
    rename_i hf
    simp only [fixed_ok, Except.ok.injEq, reduceCtorEq] at h
  case h_1 | h_2 | h_3 => -- eret wfi halt
    obtain ⟨h11, rfl⟩ := h
    exact spelled rfl (joined hm (joined h11 hf.symm :))
  case h_4 | h_6 | h_7 | h_8 => -- tlbinv ctxsave ctxload reshape
    obtain ⟨h21, rfl⟩ := h
    exact spelled rfl (joined (joined (joined (joined hm h21) rfl) rfl) hf.symm)
  case h_5 => -- preempt
    obtain ⟨h21, h11, rfl⟩ := h
    exact spelled rfl (joined (joined (joined hm h21) rfl) (joined h11 hf.symm :))

theorem encode_major20 (hm : 0x20#6 = fld w 26 6) (h : decodeMajor20 w = .ok op) : encode (op.build w) = some w := by
  unfold decodeMajor20 at h
  split at h
  all_goals
    rename_i hf
    simp only [fixed_ok, Except.ok.injEq, reduceCtorEq] at h
  case h_1 => -- vsetvli
    obtain ⟨h25, h19, h5, h0, rfl⟩ := h
    exact spelled rfl (joined (joined (joined (joined (joined (joined (joined hm h25) rfl) h19) rfl) rfl) rfl) (joined (joined h5 hf.symm) h0 :))
  case h_2 => -- vsetvl
    obtain ⟨h25, h19, h5, h0, rfl⟩ := h
    exact spelled rfl (joined (joined (joined (joined (joined (joined hm h25) rfl) h19) rfl) rfl) (joined (joined h5 hf.symm) h0 :))
  case h_3 => -- vcfg
    obtain ⟨h7, h0, rfl⟩ := h
    exact spelled rfl (joined (joined (joined hm h7) rfl) (joined hf.symm h0 :))

theorem encode_major21 (hm : 0x21#6 = fld w 26 6) (h : decodeMajor21 w = .ok op) : encode (op.build w) = some w := by
  unfold decodeMajor21 at h
  split at h
  case h_17 => cases h
  all_goals
    rename_i hf
    cases h
    exact spelled rfl (joined (joined (joined (joined (joined (joined hm rfl) rfl) rfl) rfl) hf.symm) rfl)

theorem encode_major22 (hm : 0x22#6 = fld w 26 6) (h : decodeMajor22 w = .ok op) : encode (op.build w) = some w := by
  unfold decodeMajor22 at h
  split at h
  case h_22 => cases h
  all_goals
    rename_i hf
    cases h
    have h8 := upper_part hf
    have h1 := lower_part hf
    exact spelled rfl (joined (joined (joined (joined (joined (joined (joined hm rfl) rfl) rfl) h8) rfl) h1) rfl)

theorem encode_major23 (hm : 0x23#6 = fld w 26 6) (h : decodeMajor23 w = .ok op) : encode (op.build w) = some w := by
  unfold decodeMajor23 at h
  split at h
  case h_12 => cases h
  all_goals
    rename_i hf
    cases h
    exact spelled rfl (joined (joined (joined (joined (joined (joined hm rfl) rfl) rfl) rfl) hf.symm) rfl)

theorem encode_major24 (hm : 0x24#6 = fld w 26 6) (h : decodeMajor24 w = .ok op) : encode (op.build w) = some w := by
  unfold decodeMajor24 at h
  split at h
  case h_7 => cases h
  all_goals
    rename_i hf
    cases h
    exact spelled rfl (joined (joined (joined (joined (joined (joined hm rfl) rfl) rfl) rfl) hf.symm) rfl)

theorem encode_major25 (hm : 0x25#6 = fld w 26 6) (h : decodeMajor25 w = .ok op) : encode (op.build w) = some w := by
  unfold decodeMajor25 at h
  split at h
  all_goals
    rename_i hf
    simp only [fixed_ok, Except.ok.injEq, reduceCtorEq] at h
  -- vfaddVV vfsubVV vfmulVV vfdivVV vfmaVV vfmsVV vfnmaVV vfminVV vfmaxVV vfsgnjVV vfsgnjnVV vfsgnjxVV
  case h_1 | h_2 | h_3 | h_4 | h_7 | h_8 | h_9 | h_10 | h_11 | h_13 | h_14 | h_15 =>
    subst h
    exact spelled rfl (joined (joined (joined (joined (joined (joined hm rfl) rfl) rfl) rfl) hf.symm) rfl)
  case h_5 | h_6 | h_12 => -- vfsqrt vfrsqrt vfclass
    obtain ⟨h8, rfl⟩ := h
    exact spelled rfl (joined (joined (joined (joined (joined (joined hm rfl) rfl) h8) rfl) hf.symm) rfl)

theorem encode_major26 (hm : 0x26#6 = fld w 26 6) (h : decodeMajor26 w = .ok op) : encode (op.build w) = some w := by
  unfold decodeMajor26 at h
  split at h
  case h_13 => cases h
  all_goals
    rename_i hf
    simp only [fixed_ok, Except.ok.injEq] at h
    obtain ⟨h8, rfl⟩ := h
    exact spelled rfl (joined (joined (joined (joined (joined (joined (joined hm rfl) rfl) rfl) h8) rfl) hf.symm) rfl)

theorem encode_major27 (hm : 0x27#6 = fld w 26 6) (h : decodeMajor27 w = .ok op) : encode (op.build w) = some w := by
  unfold decodeMajor27 at h
  split at h
  all_goals
    rename_i hf
    simp only [fixed_ok, Except.ok.injEq, reduceCtorEq] at h
  case h_1 | h_2 | h_3 | h_4 | h_5 | h_6 | h_7 => -- vmseqVV vmsneVV vmsltVV vmsleVV vmfeqVV vmfltVV vmfleVV
    obtain ⟨h23, rfl⟩ := h
    exact spelled rfl (joined (joined (joined (joined (joined (joined (joined hm h23) rfl) rfl) rfl) rfl) hf.symm) rfl)
  case h_8 | h_9 | h_10 | h_11 | h_12 | h_13 | h_14 => -- vmseqVS vmsneVS vmsltVS vmsleVS vmfeqVS vmfltVS vmfleVS
    obtain ⟨h23, h8, rfl⟩ := h
    exact spelled rfl (joined (joined (joined (joined (joined (joined (joined (joined hm h23) rfl) rfl) rfl) h8) rfl) hf.symm) rfl)

theorem encode_major28 (hm : 0x28#6 = fld w 26 6) (h : decodeMajor28 w = .ok op) : encode (op.build w) = some w := by
  unfold decodeMajor28 at h
  split at h
  all_goals
    rename_i hf
    simp only [fixed_ok, Except.ok.injEq, reduceCtorEq] at h
  case h_1 | h_2 | h_3 | h_4 => -- vmand vmor vmxor vmandn
    obtain ⟨h23, h17, h11, rfl⟩ := h
    exact spelled rfl (joined (joined (joined (joined (joined (joined (joined (joined (joined hm h23) rfl) h17) rfl) h11) rfl) rfl) hf.symm) rfl)
  case h_5 | h_6 => -- vcpop vfirst
    obtain ⟨h25, h17, h8, rfl⟩ := h
    exact spelled rfl (joined (joined (joined (joined (joined (joined (joined (joined hm h25) rfl) h17) rfl) h8) rfl) hf.symm) rfl)

theorem encode_major29 (hm : 0x29#6 = fld w 26 6) (h : decodeMajor29 w = .ok op) : encode (op.build w) = some w := by
  unfold decodeMajor29 at h
  split at h
  all_goals
    rename_i hf
    simp only [fixed_ok, Except.ok.injEq, reduceCtorEq] at h
  case h_1 | h_9 => -- vmvVV vcompress
    obtain ⟨h8, rfl⟩ := h
    exact spelled rfl (joined (joined (joined (joined (joined (joined hm rfl) rfl) h8) rfl) hf.symm) rfl)
  case h_2 | h_15 => -- vmvsx vmvVS
    obtain ⟨h14, h8, rfl⟩ := h
    exact spelled rfl (joined (joined (joined (joined (joined (joined (joined hm rfl) h14) rfl) h8) rfl) hf.symm) rfl)
  case h_3 => -- vmvxs
    obtain ⟨h25, h8, rfl⟩ := h
    exact spelled rfl (joined (joined (joined (joined (joined (joined (joined hm h25) rfl) rfl) h8) rfl) hf.symm) rfl)
  case h_4 | h_5 | h_12 => -- vslideupVS vslidednVS vnzscan
    obtain ⟨h8, rfl⟩ := h
    exact spelled rfl (joined (joined (joined (joined (joined (joined (joined hm rfl) rfl) rfl) h8) rfl) hf.symm) rfl)
  case h_6 | h_7 | h_8 => -- vslideupVI vslidednVI vperm
    subst h
    exact spelled rfl (joined (joined (joined (joined (joined (joined hm rfl) rfl) rfl) rfl) hf.symm) rfl)
  case h_10 | h_11 => -- viota vid
    obtain ⟨h8, rfl⟩ := h
    exact spelled rfl (joined (joined (joined (joined (joined hm rfl) h8) rfl) hf.symm) rfl)
  case h_13 => -- vconfl
    obtain ⟨h23, h8, rfl⟩ := h
    exact spelled rfl (joined (joined (joined (joined (joined (joined (joined hm h23) rfl) rfl) h8) rfl) hf.symm) rfl)
  case h_14 => -- vmvVI
    obtain ⟨h14, rfl⟩ := h
    exact spelled rfl (joined (joined (joined (joined (joined (joined hm rfl) h14) rfl) rfl) hf.symm) rfl)

theorem encode_major2A (hm : 0x2A#6 = fld w 26 6) (h : decodeMajor2A w = .ok op) : encode (op.build w) = some w := by
  unfold decodeMajor2A at h
  split at h
  case h_10 => cases h
  all_goals
    rename_i hf
    simp only [fixed_ok, Except.ok.injEq] at h
    obtain ⟨h25, h8, rfl⟩ := h
    exact spelled rfl (joined (joined (joined (joined (joined (joined (joined (joined hm h25) rfl) rfl) rfl) h8) rfl) hf.symm) rfl)

theorem encode_major2B (hm : 0x2B#6 = fld w 26 6) (h : decodeMajor2B w = .ok op) : encode (op.build w) = some w := by
  unfold decodeMajor2B at h
  split at h
  all_goals
    rename_i hf
    simp only [fixed_ok, Except.ok.injEq, reduceCtorEq] at h
  case h_1 => -- vld
    obtain ⟨h19, h8, rfl⟩ := h
    exact spelled rfl (joined (joined (joined (joined (joined (joined (joined (joined hm rfl) h19) rfl) h8) rfl) hf.symm) rfl) rfl)
  case h_2 => -- vlds
    obtain ⟨h19, h8, rfl⟩ := h
    exact spelled rfl (joined (joined (joined (joined (joined (joined (joined (joined (joined hm rfl) h19) rfl) rfl) h8) rfl) hf.symm) rfl) rfl)
  case h_3 | h_4 => -- vldx vldseg
    obtain ⟨h19, rfl⟩ := h
    exact spelled rfl (joined (joined (joined (joined (joined (joined (joined (joined hm rfl) h19) rfl) rfl) rfl) hf.symm) rfl) rfl)

theorem encode_major2C (hm : 0x2C#6 = fld w 26 6) (h : decodeMajor2C w = .ok op) : encode (op.build w) = some w := by
  unfold decodeMajor2C at h
  split at h
  all_goals
    rename_i hf
    simp only [fixed_ok, Except.ok.injEq, reduceCtorEq] at h
  case h_1 => -- vst
    obtain ⟨h19, h8, h1, rfl⟩ := h
    exact spelled rfl (joined (joined (joined (joined (joined (joined (joined hm rfl) h19) rfl) h8) rfl) (joined hf.symm h1 :)) rfl)
  case h_2 => -- vsts
    obtain ⟨h19, h8, h1, rfl⟩ := h
    exact spelled rfl (joined (joined (joined (joined (joined (joined (joined (joined hm rfl) h19) rfl) rfl) h8) rfl) (joined hf.symm h1 :)) rfl)
  case h_3 | h_4 => -- vstx vstseg
    obtain ⟨h19, h1, rfl⟩ := h
    exact spelled rfl (joined (joined (joined (joined (joined (joined (joined hm rfl) h19) rfl) rfl) rfl) (joined hf.symm h1 :)) rfl)

theorem encode_major2D (hm : 0x2D#6 = fld w 26 6) (h : decodeMajor2D w = .ok op) : encode (op.build w) = some w := by
  unfold decodeMajor2D at h
  split at h
  all_goals
    rename_i hf
    simp only [fixed_ok, Except.ok.injEq, reduceCtorEq] at h
  case h_1 => -- vcvt
    obtain ⟨h12, rfl⟩ := h
    exact spelled rfl (joined (joined (joined (joined (joined (joined (joined hm rfl) rfl) h12) rfl) rfl) hf.symm) rfl)
  case h_2 | h_3 | h_4 | h_5 | h_6 => -- vxpand vqblkF4 vqblkI8 vdqblkF4 vdqblkI8
    subst h
    exact spelled rfl (joined (joined (joined (joined (joined (joined hm rfl) rfl) rfl) rfl) hf.symm) rfl)

theorem encode_major30 (hm : 0x30#6 = fld w 26 6) (h : decodeMajor30 w = .ok op) : encode (op.build w) = some w := by
  unfold decodeMajor30 at h
  split at h
  all_goals
    rename_i hf
    simp only [fixed_ok, Except.ok.injEq, reduceCtorEq] at h
  case h_1 => -- tshape
    obtain ⟨h23, h12, h0, rfl⟩ := h
    exact spelled rfl (joined (joined (joined hm h23) rfl) (joined (joined h12 hf.symm) h0 :))
  case h_2 | h_5 | h_6 | h_11 => -- tzero tmma tmmaSX tmmaSat
    obtain ⟨h12, h0, rfl⟩ := h
    exact spelled rfl (joined (joined hm rfl) (joined (joined h12 hf.symm) h0 :))
  case h_3 | h_4 => -- tlda tldb
    obtain ⟨h23, h17, h0, rfl⟩ := h
    exact spelled rfl (joined (joined (joined (joined (joined hm h23) rfl) h17) rfl) (joined hf.symm h0 :))
  case h_7 => -- tstz
    obtain ⟨h23, h17, h0, rfl⟩ := h
    exact spelled rfl (joined (joined (joined (joined (joined (joined hm rfl) h23) rfl) h17) rfl) (joined hf.symm h0 :))
  case h_8 => -- tmvz
    obtain ⟨h17, h0, rfl⟩ := h
    exact spelled rfl (joined (joined (joined (joined (joined hm rfl) rfl) h17) rfl) (joined hf.symm h0 :))
  case h_9 | h_10 => -- tldaMC tldbMC
    obtain ⟨h23, h17, h0, rfl⟩ := h
    exact spelled rfl (joined (joined (joined (joined (joined (joined (joined hm h23) rfl) h17) rfl) hf.symm) rfl) h0)

theorem encode_major35 (hm : 0x35#6 = fld w 26 6) (h : decodeMajor35 w = .ok op) : encode (op.build w) = some w := by
  unfold decodeMajor35 at h
  split at h
  all_goals
    rename_i hf
    simp only [fixed_ok, Except.ok.injEq, reduceCtorEq] at h
  case h_1 | h_2 | h_3 => -- join keywait doneStrand
    obtain ⟨h11, h0, rfl⟩ := h
    exact spelled rfl (joined hm (joined (joined h11 hf.symm) h0 :))
  case h_4 => -- waitmsg
    obtain ⟨h21, h11, h0, rfl⟩ := h
    exact spelled rfl (joined (joined (joined hm h21) rfl) (joined (joined h11 hf.symm) h0 :))
  case h_5 | h_6 => -- send sendi
    obtain ⟨h21, h0, rfl⟩ := h
    exact spelled rfl (joined (joined (joined (joined hm h21) rfl) rfl) (joined hf.symm h0 :))
  case h_7 => -- rgsetl
    obtain ⟨h21, h11, h0, rfl⟩ := h
    exact spelled rfl (joined (joined (joined (joined hm rfl) h21) rfl) (joined (joined h11 hf.symm) h0 :))
  case h_8 => -- widf
    obtain ⟨h11, rfl⟩ := h
    exact spelled rfl (joined (joined (joined hm rfl) (joined h11 hf.symm :)) rfl)

theorem encode_major38 (hm : 0x38#6 = fld w 26 6) (h : decodeMajor38 w = .ok op) : encode (op.build w) = some w := by
  unfold decodeMajor38 at h
  split at h
  all_goals
    rename_i hf
    simp only [fixed_ok, Except.ok.injEq, reduceCtorEq] at h
  case h_1 => -- sbind
    obtain ⟨h21, h11, rfl⟩ := h
    exact spelled rfl (joined (joined (joined (joined hm h21) rfl) (joined h11 hf.symm :)) rfl)
  case h_2 | h_3 => -- sunbind sdrain
    obtain ⟨h11, rfl⟩ := h
    exact spelled rfl (joined (joined hm (joined h11 hf.symm :)) rfl)
  case h_4 | h_5 | h_10 => -- scopy scopyF walk
    obtain ⟨h21, h0, rfl⟩ := h
    exact spelled rfl (joined (joined (joined (joined hm h21) rfl) rfl) (joined hf.symm h0 :))
  case h_6 => -- sisectC
    obtain ⟨h19, h14, h0, rfl⟩ := h
    exact spelled rfl (joined (joined (joined (joined (joined (joined hm rfl) h19) rfl) h14) rfl) (joined hf.symm h0 :))
  case h_7 => -- sisectW
    obtain ⟨h19, h14, rfl⟩ := h
    exact spelled rfl (joined (joined (joined (joined (joined (joined (joined hm rfl) h19) rfl) h14) rfl) hf.symm) rfl)
  case h_8 => -- cqwait
    obtain ⟨h11, h0, rfl⟩ := h
    exact spelled rfl (joined hm (joined (joined h11 hf.symm) h0 :))
  case h_9 => -- cqpop
    obtain ⟨h11, h0, rfl⟩ := h
    exact spelled rfl (joined (joined hm rfl) (joined (joined h11 hf.symm) h0 :))

theorem encode_major39 (hm : 0x39#6 = fld w 26 6) (h : decodeMajor39 w = .ok op) : encode (op.build w) = some w := by
  unfold decodeMajor39 at h
  split at h
  case h_3 => cases h
  all_goals
    rename_i hf
    simp only [fixed_ok, Except.ok.injEq] at h
    obtain ⟨h8, h0, rfl⟩ := h
    exact spelled rfl (joined (joined (joined (joined (joined (joined hm rfl) rfl) rfl) h8) rfl) (joined hf.symm h0 :))

theorem encode_major3C (hm : 0x3C#6 = fld w 26 6) (h : decodeMajor3C w = .ok op) : encode (op.build w) = some w := by
  unfold decodeMajor3C at h
  split at h
  all_goals rename_i hf
  case h_5 => -- gswOut gswIN, by bit 0
    split at h
    all_goals
      rename_i h0
      simp only [fixed_ok, Except.ok.injEq] at h
      obtain ⟨h21, h11, h1, rfl⟩ := h
    · exact spelled rfl (joined (joined (joined hm h21) rfl) (joined (joined (joined h11 hf.symm) h1) h0.symm :))
    · have h0 := (BitVec.eq_zero_or_eq_one _).resolve_left h0
      exact spelled rfl (joined (joined (joined hm h21) rfl) (joined (joined (joined h11 hf.symm) h1) h0.symm :))
  all_goals simp only [fixed_ok, Except.ok.injEq, reduceCtorEq] at h
  case h_1 | h_4 => -- grpset nmcast
    obtain ⟨h21, h0, rfl⟩ := h
    exact spelled rfl (joined (joined (joined (joined hm h21) rfl) rfl) (joined hf.symm h0 :))
  case h_2 => -- grpfree
    obtain ⟨h21, h11, h0, rfl⟩ := h
    exact spelled rfl (joined (joined (joined hm h21) rfl) (joined (joined h11 hf.symm) h0 :))
  case h_3 => -- nred
    obtain ⟨h21, h0, rfl⟩ := h
    exact spelled rfl (joined (joined (joined (joined (joined (joined (joined hm h21) rfl) rfl) hf.symm) rfl) rfl) h0)

/-- No bit of a word goes unread: the word is the encoding of the instruction that its row builds from its fields. -/
theorem encode_build (h : selectOp w = .ok op) : encode (op.build w) = some w := by
  unfold selectOp at h
  split at h
  all_goals rename_i hm
  case h_50 => cases h
  case h_4 | h_5 | h_6 | h_7 | h_9 | h_10 | h_19 | h_44 => -- addi andi ori xori slti sltiu jalr fork
    cases h
    exact spelled rfl (joined (joined (joined hm.symm rfl) rfl) rfl)
  case h_11 | h_12 => -- movz movk
    simp only [fixed_ok, Except.ok.injEq] at h
    obtain ⟨h18, rfl⟩ := h
    exact spelled rfl (joined (joined (joined (joined hm.symm rfl) h18) rfl) rfl)
  case h_14 | h_15 | h_16 => -- fmadd fmsub fnmadd
    simp only [fixed_ok, Except.ok.injEq] at h
    obtain ⟨h0, rfl⟩ := h
    exact spelled rfl (joined (joined (joined (joined (joined (joined (joined hm.symm rfl) rfl) rfl) rfl) rfl) rfl) h0)
  case h_17 | h_18 => -- j jal
    cases h
    exact spelled rfl (joined hm.symm rfl)
  case h_28 => -- trap
    simp only [fixed_ok, Except.ok.injEq] at h
    obtain ⟨h16, rfl⟩ := h
    exact spelled rfl (joined (joined hm.symm h16) rfl)
  case h_49 => -- pfx
    simp only [fixed_ok, Except.ok.injEq] at h
    obtain ⟨h0, rfl⟩ := h
    exact spelled rfl (joined (joined (joined (joined (joined hm.symm rfl) rfl) rfl) rfl) h0)
  case h_1 => exact encode_major01 hm.symm h
  case h_2 => exact encode_major02 hm.symm h
  case h_3 => exact encode_major03 hm.symm h
  case h_8 => exact encode_major08 hm.symm h
  case h_13 => exact encode_major10 hm.symm h
  case h_20 => exact encode_major17 hm.symm h
  case h_21 => exact encode_major18 hm.symm h
  case h_22 => exact encode_major19 hm.symm h
  case h_23 => exact encode_major1A hm.symm h
  case h_24 => exact encode_major1B hm.symm h
  case h_25 => exact encode_major1C hm.symm h
  case h_26 => exact encode_major1D hm.symm h
  case h_27 => exact encode_major1E hm.symm h
  case h_29 => exact encode_major20 hm.symm h
  case h_30 => exact encode_major21 hm.symm h
  case h_31 => exact encode_major22 hm.symm h
  case h_32 => exact encode_major23 hm.symm h
  case h_33 => exact encode_major24 hm.symm h
  case h_34 => exact encode_major25 hm.symm h
  case h_35 => exact encode_major26 hm.symm h
  case h_36 => exact encode_major27 hm.symm h
  case h_37 => exact encode_major28 hm.symm h
  case h_38 => exact encode_major29 hm.symm h
  case h_39 => exact encode_major2A hm.symm h
  case h_40 => exact encode_major2B hm.symm h
  case h_41 => exact encode_major2C hm.symm h
  case h_42 => exact encode_major2D hm.symm h
  case h_43 => exact encode_major30 hm.symm h
  case h_45 => exact encode_major35 hm.symm h
  case h_46 => exact encode_major38 hm.symm h
  case h_47 => exact encode_major39 hm.symm h
  case h_48 => exact encode_major3C hm.symm h

end

/-! ### Decoding and encoding -/

theorem wellFormed_build (op : Opcode) (w : Word32) : (op.build w).wellFormed = op.legal w := by cases op <;> rfl

/-- A word that decodes selects a row, and passes the checks of its entry. -/
theorem decodeOp_ok {w : Word32} {op : Opcode} (h : decodeOp w = .ok op) : selectOp w = .ok op ∧ op.legal w = true := by
  unfold decodeOp at h
  split at h
  · split at h
    · cases h
      exact ⟨‹_›, ‹_›⟩
    · cases h
  · cases h

/-- A word that selects a row, and passes the checks of its entry, decodes. -/
theorem decode_legal {w : Word32} {op : Opcode} (hs : selectOp w = .ok op) (hl : op.legal w = true) : decode w = .ok (op.build w) := by
  have ho : decodeOp w = .ok op := by
    unfold decodeOp
    rw [hs]
    exact if_pos hl
  unfold decode
  rw [ho]

/-- A word of no row decodes to nothing. -/
theorem decode_none {w : Word32} {e : DecodeError} (h : decodeOp w = .error e) : (decode w).toOption = none := by
  unfold decode
  rw [h]
  rfl

/-- The word of every instruction selects its row, which builds the instruction again; an operation of the device has no word. -/
theorem encoding (i : Instr) : Encoding.Statement i := by
  cases i with
  | add d a b => exact Encoding.add d a b
  | sub d a b => exact Encoding.sub d a b
  | and d a b => exact Encoding.and d a b
  | or d a b => exact Encoding.or d a b
  | xor d a b => exact Encoding.xor d a b
  | andn d a b => exact Encoding.andn d a b
  | orn d a b => exact Encoding.orn d a b
  | xnor d a b => exact Encoding.xnor d a b
  | sll d a b => exact Encoding.sll d a b
  | srl d a b => exact Encoding.srl d a b
  | sra d a b => exact Encoding.sra d a b
  | rol d a b => exact Encoding.rol d a b
  | ror d a b => exact Encoding.ror d a b
  | min d a b => exact Encoding.min d a b
  | minu d a b => exact Encoding.minu d a b
  | max d a b => exact Encoding.max d a b
  | maxu d a b => exact Encoding.maxu d a b
  | seq d a b => exact Encoding.seq d a b
  | sne d a b => exact Encoding.sne d a b
  | slt d a b => exact Encoding.slt d a b
  | sltu d a b => exact Encoding.sltu d a b
  | mul d a b => exact Encoding.mul d a b
  | mulh d a b => exact Encoding.mulh d a b
  | mulhu d a b => exact Encoding.mulhu d a b
  | div d a b => exact Encoding.div d a b
  | divu d a b => exact Encoding.divu d a b
  | rem d a b => exact Encoding.rem d a b
  | remu d a b => exact Encoding.remu d a b
  | clz d a => exact Encoding.clz d a
  | ctz d a => exact Encoding.ctz d a
  | popc d a => exact Encoding.popc d a
  | bext d a b => exact Encoding.bext d a b
  | bdep d a b => exact Encoding.bdep d a b
  | bswap d a => exact Encoding.bswap d a
  | sextB d a => exact Encoding.sextB d a
  | sextH d a => exact Encoding.sextH d a
  | sextW d a => exact Encoding.sextW d a
  | zextB d a => exact Encoding.zextB d a
  | zextH d a => exact Encoding.zextH d a
  | zextW d a => exact Encoding.zextW d a
  | addi d a imm => exact Encoding.addi d a imm
  | andi d a imm => exact Encoding.andi d a imm
  | ori d a imm => exact Encoding.ori d a imm
  | xori d a imm => exact Encoding.xori d a imm
  | slli d a n => exact Encoding.slli d a n
  | srli d a n => exact Encoding.srli d a n
  | srai d a n => exact Encoding.srai d a n
  | slti d a imm => exact Encoding.slti d a imm
  | sltiu d a imm => exact Encoding.sltiu d a imm
  | movz d n imm => exact Encoding.movz d n imm
  | movk d n imm => exact Encoding.movk d n imm
  | fadd d a b ty rm => exact Encoding.fadd d a b ty rm
  | fsub d a b ty rm => exact Encoding.fsub d a b ty rm
  | fmul d a b ty rm => exact Encoding.fmul d a b ty rm
  | fdiv d a b ty rm => exact Encoding.fdiv d a b ty rm
  | fsqrt d a ty rm => exact Encoding.fsqrt d a ty rm
  | fmin d a b ty => exact Encoding.fmin d a b ty
  | fmax d a b ty => exact Encoding.fmax d a b ty
  | feq d a b ty => exact Encoding.feq d a b ty
  | flt d a b ty => exact Encoding.flt d a b ty
  | fle d a b ty => exact Encoding.fle d a b ty
  | fclass d a ty => exact Encoding.fclass d a ty
  | fsgnj d a b ty => exact Encoding.fsgnj d a b ty
  | fsgnjn d a b ty => exact Encoding.fsgnjn d a b ty
  | fsgnjx d a b ty => exact Encoding.fsgnjx d a b ty
  | fcvtFF d a s ty rm => exact Encoding.fcvtFF d a s ty rm
  | fcvtFI d a s ty rm => exact Encoding.fcvtFI d a s ty rm
  | fcvtIF d a s ty rm => exact Encoding.fcvtIF d a s ty rm
  | fmadd d a b c ty rm => exact Encoding.fmadd d a b c ty rm
  | fmsub d a b c ty rm => exact Encoding.fmsub d a b c ty rm
  | fnmadd d a b c ty rm => exact Encoding.fnmadd d a b c ty rm
  | j off => exact Encoding.j off
  | jal off => exact Encoding.jal off
  | jalr d a imm => exact Encoding.jalr d a imm
  | beq a b off => exact Encoding.beq a b off
  | bne a b off => exact Encoding.bne a b off
  | blt a b off => exact Encoding.blt a b off
  | bge a b off => exact Encoding.bge a b off
  | bltu a b off => exact Encoding.bltu a b off
  | bgeu a b off => exact Encoding.bgeu a b off
  | ldb d a off => exact Encoding.ldb d a off
  | ldbu d a off => exact Encoding.ldbu d a off
  | ldh d a off => exact Encoding.ldh d a off
  | ldhu d a off => exact Encoding.ldhu d a off
  | ldw d a off => exact Encoding.ldw d a off
  | ldwu d a off => exact Encoding.ldwu d a off
  | ldd d a off => exact Encoding.ldd d a off
  | stb d a off => exact Encoding.stb d a off
  | sth d a off => exact Encoding.sth d a off
  | stw d a off => exact Encoding.stw d a off
  | std d a off => exact Encoding.std d a off
  | ldbuAQ d a scope => exact Encoding.ldbuAQ d a scope
  | ldhuAQ d a scope => exact Encoding.ldhuAQ d a scope
  | ldwuAQ d a scope => exact Encoding.ldwuAQ d a scope
  | lddAQ d a scope => exact Encoding.lddAQ d a scope
  | stbRL a b scope => exact Encoding.stbRL a b scope
  | sthRL a b scope => exact Encoding.sthRL a b scope
  | stwRL a b scope => exact Encoding.stwRL a b scope
  | stdRL a b scope => exact Encoding.stdRL a b scope
  | amoadd d a b wd scope ord => exact Encoding.amoadd d a b wd scope ord
  | amoand d a b wd scope ord => exact Encoding.amoand d a b wd scope ord
  | amoor d a b wd scope ord => exact Encoding.amoor d a b wd scope ord
  | amoxor d a b wd scope ord => exact Encoding.amoxor d a b wd scope ord
  | amomin d a b wd scope ord => exact Encoding.amomin d a b wd scope ord
  | amomax d a b wd scope ord => exact Encoding.amomax d a b wd scope ord
  | amominu d a b wd scope ord => exact Encoding.amominu d a b wd scope ord
  | amomaxu d a b wd scope ord => exact Encoding.amomaxu d a b wd scope ord
  | amoswap d a b wd scope ord => exact Encoding.amoswap d a b wd scope ord
  | cas d a b wd scope ord => exact Encoding.cas d a b wd scope ord
  | ldsync d a scope => exact Encoding.ldsync d a scope
  | ldtake d a scope => exact Encoding.ldtake d a scope
  | stfill a b scope => exact Encoding.stfill a b scope
  | feclr a b scope => exact Encoding.feclr a b scope
  | feset a b scope => exact Encoding.feset a b scope
  | csrr d csr => exact Encoding.csrr d csr
  | csrw d a csr => exact Encoding.csrw d a csr
  | csrs d a csr => exact Encoding.csrs d a csr
  | csrc d a csr => exact Encoding.csrc d a csr
  | fence pred succ scope => exact Encoding.fence pred succ scope
  | fenceSV => exact Encoding.fenceSV
  | fenceVS => exact Encoding.fenceVS
  | fenceVV => exact Encoding.fenceVV
  | eret => exact Encoding.eret
  | wfi => exact Encoding.wfi
  | halt => exact Encoding.halt
  | tlbinv a b => exact Encoding.tlbinv a b
  | preempt a => exact Encoding.preempt a
  | ctxsave a b => exact Encoding.ctxsave a b
  | ctxload a b => exact Encoding.ctxload a b
  | reshape a b => exact Encoding.reshape a b
  | trap imm => exact Encoding.trap imm
  | vsetvli d a slices sew => exact Encoding.vsetvli d a slices sew
  | vsetvl d a b => exact Encoding.vsetvl d a b
  | vcfg n => exact Encoding.vcfg n
  | vaddVV d a b km cv => exact Encoding.vaddVV d a b km cv
  | vsubVV d a b km cv => exact Encoding.vsubVV d a b km cv
  | vmulVV d a b km cv => exact Encoding.vmulVV d a b km cv
  | vmulhVV d a b km cv => exact Encoding.vmulhVV d a b km cv
  | vdivVV d a b km cv => exact Encoding.vdivVV d a b km cv
  | vremVV d a b km cv => exact Encoding.vremVV d a b km cv
  | vminVV d a b km cv => exact Encoding.vminVV d a b km cv
  | vmaxVV d a b km cv => exact Encoding.vmaxVV d a b km cv
  | vandVV d a b km cv => exact Encoding.vandVV d a b km cv
  | vorVV d a b km cv => exact Encoding.vorVV d a b km cv
  | vxorVV d a b km cv => exact Encoding.vxorVV d a b km cv
  | vsllVV d a b km cv => exact Encoding.vsllVV d a b km cv
  | vsrlVV d a b km cv => exact Encoding.vsrlVV d a b km cv
  | vsraVV d a b km cv => exact Encoding.vsraVV d a b km cv
  | vsaddVV d a b km cv => exact Encoding.vsaddVV d a b km cv
  | vssubVV d a b km cv => exact Encoding.vssubVV d a b km cv
  | vaddVS d a b km cv => exact Encoding.vaddVS d a b km cv
  | vsubVS d a b km cv => exact Encoding.vsubVS d a b km cv
  | vmulVS d a b km cv => exact Encoding.vmulVS d a b km cv
  | vmulhVS d a b km cv => exact Encoding.vmulhVS d a b km cv
  | vdivVS d a b km cv => exact Encoding.vdivVS d a b km cv
  | vremVS d a b km cv => exact Encoding.vremVS d a b km cv
  | vminVS d a b km cv => exact Encoding.vminVS d a b km cv
  | vmaxVS d a b km cv => exact Encoding.vmaxVS d a b km cv
  | vandVS d a b km cv => exact Encoding.vandVS d a b km cv
  | vorVS d a b km cv => exact Encoding.vorVS d a b km cv
  | vxorVS d a b km cv => exact Encoding.vxorVS d a b km cv
  | vsllVS d a b km cv => exact Encoding.vsllVS d a b km cv
  | vsrlVS d a b km cv => exact Encoding.vsrlVS d a b km cv
  | vsraVS d a b km cv => exact Encoding.vsraVS d a b km cv
  | vsaddVS d a b km cv => exact Encoding.vsaddVS d a b km cv
  | vssubVS d a b km cv => exact Encoding.vssubVS d a b km cv
  | vrsubVS d a b km cv => exact Encoding.vrsubVS d a b km cv
  | vmaddVS d a b km cv => exact Encoding.vmaddVS d a b km cv
  | vmsacVS d a b km cv => exact Encoding.vmsacVS d a b km cv
  | vwaddVS d a b km cv => exact Encoding.vwaddVS d a b km cv
  | vwmulVS d a b km cv => exact Encoding.vwmulVS d a b km cv
  | vaddVI d a imm km cv => exact Encoding.vaddVI d a imm km cv
  | vrsubVI d a imm km cv => exact Encoding.vrsubVI d a imm km cv
  | vandVI d a imm km cv => exact Encoding.vandVI d a imm km cv
  | vorVI d a imm km cv => exact Encoding.vorVI d a imm km cv
  | vxorVI d a imm km cv => exact Encoding.vxorVI d a imm km cv
  | vsllVI d a imm km cv => exact Encoding.vsllVI d a imm km cv
  | vsrlVI d a imm km cv => exact Encoding.vsrlVI d a imm km cv
  | vsraVI d a imm km cv => exact Encoding.vsraVI d a imm km cv
  | vsaddVI d a imm km cv => exact Encoding.vsaddVI d a imm km cv
  | vminVI d a imm km cv => exact Encoding.vminVI d a imm km cv
  | vmaxVI d a imm km cv => exact Encoding.vmaxVI d a imm km cv
  | vmaddVV d a b km cv => exact Encoding.vmaddVV d a b km cv
  | vmsacVV d a b km cv => exact Encoding.vmsacVV d a b km cv
  | vwaddVV d a b km cv => exact Encoding.vwaddVV d a b km cv
  | vwmulVV d a b km cv => exact Encoding.vwmulVV d a b km cv
  | vdot4 d a b km cv => exact Encoding.vdot4 d a b km cv
  | vdot4Sat d a b km cv => exact Encoding.vdot4Sat d a b km cv
  | vfaddVV d a b km cv => exact Encoding.vfaddVV d a b km cv
  | vfsubVV d a b km cv => exact Encoding.vfsubVV d a b km cv
  | vfmulVV d a b km cv => exact Encoding.vfmulVV d a b km cv
  | vfdivVV d a b km cv => exact Encoding.vfdivVV d a b km cv
  | vfsqrt d a km cv => exact Encoding.vfsqrt d a km cv
  | vfrsqrt d a km cv => exact Encoding.vfrsqrt d a km cv
  | vfmaVV d a b km cv => exact Encoding.vfmaVV d a b km cv
  | vfmsVV d a b km cv => exact Encoding.vfmsVV d a b km cv
  | vfnmaVV d a b km cv => exact Encoding.vfnmaVV d a b km cv
  | vfminVV d a b km cv => exact Encoding.vfminVV d a b km cv
  | vfmaxVV d a b km cv => exact Encoding.vfmaxVV d a b km cv
  | vfclass d a km cv => exact Encoding.vfclass d a km cv
  | vfsgnjVV d a b km cv => exact Encoding.vfsgnjVV d a b km cv
  | vfsgnjnVV d a b km cv => exact Encoding.vfsgnjnVV d a b km cv
  | vfsgnjxVV d a b km cv => exact Encoding.vfsgnjxVV d a b km cv
  | vfaddVS d a b km cv => exact Encoding.vfaddVS d a b km cv
  | vfsubVS d a b km cv => exact Encoding.vfsubVS d a b km cv
  | vfmulVS d a b km cv => exact Encoding.vfmulVS d a b km cv
  | vfdivVS d a b km cv => exact Encoding.vfdivVS d a b km cv
  | vfmaVS d a b km cv => exact Encoding.vfmaVS d a b km cv
  | vfmsVS d a b km cv => exact Encoding.vfmsVS d a b km cv
  | vfnmaVS d a b km cv => exact Encoding.vfnmaVS d a b km cv
  | vfminVS d a b km cv => exact Encoding.vfminVS d a b km cv
  | vfmaxVS d a b km cv => exact Encoding.vfmaxVS d a b km cv
  | vfsgnjVS d a b km cv => exact Encoding.vfsgnjVS d a b km cv
  | vfsgnjnVS d a b km cv => exact Encoding.vfsgnjnVS d a b km cv
  | vfsgnjxVS d a b km cv => exact Encoding.vfsgnjxVS d a b km cv
  | vmseqVV d a b km cv => exact Encoding.vmseqVV d a b km cv
  | vmsneVV d a b km cv => exact Encoding.vmsneVV d a b km cv
  | vmsltVV d a b km cv => exact Encoding.vmsltVV d a b km cv
  | vmsleVV d a b km cv => exact Encoding.vmsleVV d a b km cv
  | vmfeqVV d a b km cv => exact Encoding.vmfeqVV d a b km cv
  | vmfltVV d a b km cv => exact Encoding.vmfltVV d a b km cv
  | vmfleVV d a b km cv => exact Encoding.vmfleVV d a b km cv
  | vmseqVS d a b km cv => exact Encoding.vmseqVS d a b km cv
  | vmsneVS d a b km cv => exact Encoding.vmsneVS d a b km cv
  | vmsltVS d a b km cv => exact Encoding.vmsltVS d a b km cv
  | vmsleVS d a b km cv => exact Encoding.vmsleVS d a b km cv
  | vmfeqVS d a b km cv => exact Encoding.vmfeqVS d a b km cv
  | vmfltVS d a b km cv => exact Encoding.vmfltVS d a b km cv
  | vmfleVS d a b km cv => exact Encoding.vmfleVS d a b km cv
  | vmand d a b km cv => exact Encoding.vmand d a b km cv
  | vmor d a b km cv => exact Encoding.vmor d a b km cv
  | vmxor d a b km cv => exact Encoding.vmxor d a b km cv
  | vmandn d a b km cv => exact Encoding.vmandn d a b km cv
  | vcpop d a km cv => exact Encoding.vcpop d a km cv
  | vfirst d a km cv => exact Encoding.vfirst d a km cv
  | vmvVV d a km cv => exact Encoding.vmvVV d a km cv
  | vmvsx d b km cv => exact Encoding.vmvsx d b km cv
  | vmvxs d a km cv => exact Encoding.vmvxs d a km cv
  | vslideupVS d a b km cv => exact Encoding.vslideupVS d a b km cv
  | vslidednVS d a b km cv => exact Encoding.vslidednVS d a b km cv
  | vslideupVI d a imm km cv => exact Encoding.vslideupVI d a imm km cv
  | vslidednVI d a imm km cv => exact Encoding.vslidednVI d a imm km cv
  | vperm d a b km cv => exact Encoding.vperm d a b km cv
  | vcompress d a km cv => exact Encoding.vcompress d a km cv
  | viota d km cv => exact Encoding.viota d km cv
  | vid d km cv => exact Encoding.vid d km cv
  | vnzscan d a b km cv => exact Encoding.vnzscan d a b km cv
  | vconfl d a km cv => exact Encoding.vconfl d a km cv
  | vmvVI d imm km cv => exact Encoding.vmvVI d imm km cv
  | vmvVS d b km cv => exact Encoding.vmvVS d b km cv
  | vredsum d a b km cv => exact Encoding.vredsum d a b km cv
  | vredmin d a b km cv => exact Encoding.vredmin d a b km cv
  | vredmax d a b km cv => exact Encoding.vredmax d a b km cv
  | vredand d a b km cv => exact Encoding.vredand d a b km cv
  | vredor d a b km cv => exact Encoding.vredor d a b km cv
  | vfredsum d a b km cv => exact Encoding.vfredsum d a b km cv
  | vfredosum d a b km cv => exact Encoding.vfredosum d a b km cv
  | vfredmin d a b km cv => exact Encoding.vfredmin d a b km cv
  | vfredmax d a b km cv => exact Encoding.vfredmax d a b km cv
  | vld d a km mw cv => exact Encoding.vld d a km mw cv
  | vlds d a b km mw cv => exact Encoding.vlds d a b km mw cv
  | vldx d a b km mw cv => exact Encoding.vldx d a b km mw cv
  | vldseg d a imm km mw cv => exact Encoding.vldseg d a imm km mw cv
  | vst d a km cv => exact Encoding.vst d a km cv
  | vsts d a b km cv => exact Encoding.vsts d a b km cv
  | vstx d a b km cv => exact Encoding.vstx d a b km cv
  | vstseg d a imm km cv => exact Encoding.vstseg d a imm km cv
  | vcvt d a s km cv => exact Encoding.vcvt d a s km cv
  | vxpand d a f km cv => exact Encoding.vxpand d a f km cv
  | vqblkF4 d a b km cv => exact Encoding.vqblkF4 d a b km cv
  | vqblkI8 d a b km cv => exact Encoding.vqblkI8 d a b km cv
  | vdqblkF4 d a b km cv => exact Encoding.vdqblkF4 d a b km cv
  | vdqblkI8 d a b km cv => exact Encoding.vdqblkI8 d a b km cv
  | tshape a => exact Encoding.tshape a
  | tzero z => exact Encoding.tzero z
  | tlda a b => exact Encoding.tlda a b
  | tldb a b => exact Encoding.tldb a b
  | tmma z => exact Encoding.tmma z
  | tmmaSX z => exact Encoding.tmmaSX z
  | tstz z a b => exact Encoding.tstz z a b
  | tmvz z d b => exact Encoding.tmvz z d b
  | tldaMC a b c => exact Encoding.tldaMC a b c
  | tldbMC a b c => exact Encoding.tldbMC a b c
  | tmmaSat z => exact Encoding.tmmaSat z
  | fork d a imm => exact Encoding.fork d a imm
  | join => exact Encoding.join
  | keywait => exact Encoding.keywait
  | doneStrand => exact Encoding.doneStrand
  | waitmsg a => exact Encoding.waitmsg a
  | send a b => exact Encoding.send a b
  | sendi a b => exact Encoding.sendi a b
  | rgsetl d a => exact Encoding.rgsetl d a
  | widf d f => exact Encoding.widf d f
  | sbind a v => exact Encoding.sbind a v
  | sunbind v => exact Encoding.sunbind v
  | sdrain v => exact Encoding.sdrain v
  | scopy a b => exact Encoding.scopy a b
  | scopyF a b => exact Encoding.scopyF a b
  | sisectC d j m => exact Encoding.sisectC d j m
  | sisectW d j m v => exact Encoding.sisectW d j m v
  | cqwait => exact Encoding.cqwait
  | cqpop d => exact Encoding.cqpop d
  | walk a b => exact Encoding.walk a b
  | chase d a b km => exact Encoding.chase d a b km
  | pgather d a b km => exact Encoding.pgather d a b km
  | grpset a b => exact Encoding.grpset a b
  | grpfree a => exact Encoding.grpfree a
  | nred a b ty op => exact Encoding.nred a b ty op
  | nmcast a b => exact Encoding.nmcast a b
  | gswOut a => exact Encoding.gswOut a
  | gswIN a => exact Encoding.gswIN a
  | pfx sense p ce cd => exact Encoding.pfx sense p ce cd
  | _ => exact fun _ h => nomatch h

/-- Settles O54: the word of an instruction selects its row, and the row's checks are those of the instruction. -/
theorem encodingsDecode : Obligations.EncodingsDecode := by
  intro i w hwf he
  obtain ⟨op, hs, rfl, hl⟩ := encoding i w he
  exact decode_legal hs (hl.trans hwf)

/-- Settles O55: a word is made of the fields that its row reads and the constants that its row checks. -/
theorem decodedAreEncodings : Obligations.DecodedAreEncodings := by
  intro i w h
  obtain ⟨op, ho, rfl⟩ := decode_ok h
  obtain ⟨hs, hl⟩ := decodeOp_ok ho
  exact ⟨(wellFormed_build op w).trans hl, encode_build hs⟩

/-- Settles O53: each word is the encoding of its instruction, which is well formed; the others select no row, or fail its checks. -/
theorem decodedWords : Obligations.DecodedWords := by
  refine ⟨fun p hp => ?_, ?_⟩
  · have ⟨hwf, he⟩ : p.2.wellFormed = true ∧ encode p.2 = some p.1 := by
      revert p
      decide
    exact encodingsDecode _ _ hwf he
  · simp only [List.forall_mem_cons]
    exact ⟨decode_none rfl, decode_none rfl, decode_none rfl, decode_none rfl, decode_none rfl, decode_none rfl, decode_none rfl, decode_none rfl,
      List.forall_mem_nil _⟩

/-! ### pfx and its successor (R105, R106) -/

section
variable {s : State} {sense ce : BitVec 1} {p : BitVec 5} {cd : BitVec 6} {v : Word32} {op : Opcode}

/-- The word of a pfx (R105). -/
def pfxWord (sense : BitVec 1) (p : BitVec 5) (ce : BitVec 1) (cd : BitVec 6) : Word32 := 0x3F#6 ++ sense ++ p ++ ce ++ cd ++ 0#13

/-- The state after a pfx that stands: its word is the pending prefix of the next word. -/
def prefixedBy (w : Word32) (s : State) : State :=
  { next id s with hart := { (next id s).hart with pfx := some { word := w, fromEret := false } } }

theorem pfxWord_sense : fld (pfxWord sense p ce cd) 25 1 = sense := hi rfl (hi rfl (hi rfl (hi rfl (lo rfl (whole _)))))

theorem pfxWord_predicate : fld (pfxWord sense p ce cd) 20 5 = p := hi rfl (hi rfl (hi rfl (lo rfl (whole _))))

theorem pfxWord_copy : pfxCopy (pfxWord sense p ce cd) = if ce = 1#1 then some cd else none := by
  have hce : fld (pfxWord sense p ce cd) 19 1 = ce := hi rfl (hi rfl (lo rfl (whole _)))
  have hcd : fld (pfxWord sense p ce cd) 13 6 = cd := hi rfl (lo rfl (whole _))
  unfold pfxCopy
  rw [hce, hcd]

theorem pfxBarred_iff : pfxBarred op = true ↔ op ∈ [Opcode.pfx, .fork, .join, .doneStrand, .trap, .eret] := by
  simp [pfxBarred, or_assoc]

/-- A pair is legal where the successor may have a prefix, and a copy register is of the kind of its destination. -/
theorem pairLegal_iff {n : Nat} : pairLegal n (pfxWord sense p ce cd) op v = true ↔
    op ∉ [Opcode.pfx, .fork, .join, .doneStrand, .trap, .eret] ∧ (ce = 1 → copyFits (destKind op v) n cd = true) := by
  rw [← pfxBarred_iff]
  unfold pairLegal
  rw [pfxWord_copy]
  by_cases h : ce = 1#1 <;> simp [h]

theorem attempt_ok {α : Type} {m : M α} {a : α} (h : m s = .ok a s) : attempt m s = .ok (.ok a) s := by
  unfold attempt
  rw [h]

theorem runThen_ok {m : M Unit} {f : State → State} {t : State} (h : m s = .ok () t) : runThen m f s = .next (f (finish t)) := by
  simp only [runThen, h]

/-- A pfx stands before a word that decodes to nothing, and before one that it makes a legal pair with. -/
theorem execPfx_stands (hf : fetchWord (s.hart.sc.pc + 4) s = .ok v s)
    (h : ∀ op, decodeOp v = .ok op → pairLegal (regs s) (pfxWord sense p ce cd) op v = true) :
    exec (.pfx sense p ce cd) s = .next (prefixedBy (pfxWord sense p ce cd) s) := by
  show execPfx sense p ce cd s = _
  unfold execPfx
  refine runThen_ok (t := { s with hart := { s.hart with sc := { s.hart.sc with pc := s.hart.sc.pc + 4 } } }) ?_
  refine (bind_ok rfl).trans <| (bind_ok rfl).trans <| (bind_ok (attempt_ok hf)).trans <| (bind_ok rfl).trans ?_
  rcases ho : decodeOp v with e | op
  · rfl
  · exact (bind_ok rfl).trans (congrFun (if_pos (h op ho)) s)

theorem execPfx_legal (hf : fetchWord (s.hart.sc.pc + 4) s = .ok v s) (ho : decodeOp v = .ok op)
    (h : pairLegal (regs s) (pfxWord sense p ce cd) op v = true) :
    exec (.pfx sense p ce cd) s = .next (prefixedBy (pfxWord sense p ce cd) s) :=
  execPfx_stands hf fun _ ho' => Except.ok.inj (ho.symm.trans ho') ▸ h

/-- A pfx that makes no legal pair with its successor traps ILL at itself. -/
theorem execPfx_traps (hf : fetchWord (s.hart.sc.pc + 4) s = .ok v s) (hq : s.hart.queue = []) (ho : decodeOp v = .ok op)
    (h : ¬ pairLegal (regs s) (pfxWord sense p ce cd) op v = true) :
    exec (.pfx sense p ce cd) s = .next (takeTrap s causeILL ((pfxWord sense p ce cd).setWidth 64) s.hart.sc.pc false false) := by
  show execPfx sense p ce cd s = _
  unfold execPfx
  refine runThen_trap hq ?_
  refine (bind_ok rfl).trans <| (bind_ok rfl).trans <| (bind_ok (attempt_ok hf)).trans <| (bind_ok rfl).trans ?_
  simp only [ho]
  exact (bind_ok rfl).trans (congrFun (if_neg h) s)

/-! ### The kinds of copy registers (R105, R106) -/

theorem copyFits_scalar {n : Nat} : copyFits .scalar n cd = decide (cd.toNat < 32) := by
  revert cd
  show ∀ cd : BitVec 6, (!cd.getLsbD 5) = decide (cd.toNat < 32)
  decide

theorem copyFits_mask {n : Nat} : copyFits .mask n cd = decide (cd.toNat < 8) := decide_eq_decide.mpr Nat.lt_succ_iff.symm

theorem copyFits_acc {n : Nat} : copyFits .acc n cd = decide (cd.toNat < 4) := decide_eq_decide.mpr Nat.lt_succ_iff.symm

theorem destKind_vcvt_block (h : 14 ≤ (v.extractLsb' 8 4).toNat) : destKind .vcvt v = .many := if_neg (Nat.not_lt.mpr h)

/-- With a copy, a pfx stands before a successor that it may have where the copy register is in the range of its kind, and traps where not. -/
theorem execPfx_copy {m : Nat} (hf : fetchWord (s.hart.sc.pc + 4) s = .ok v s) (ho : decodeOp v = .ok op) (hce : ce = 1)
    (hb : op ∉ [Opcode.pfx, .fork, .join, .doneStrand, .trap, .eret]) (hk : copyFits (destKind op v) (regs s) cd = decide (cd.toNat < m)) :
    (cd.toNat < m → exec (.pfx sense p ce cd) s = .next (prefixedBy (pfxWord sense p ce cd) s)) ∧
    (m ≤ cd.toNat → s.hart.queue = [] →
      exec (.pfx sense p ce cd) s = .next (takeTrap s causeILL ((pfxWord sense p ce cd).setWidth 64) s.hart.sc.pc false false)) := by
  refine ⟨fun h => execPfx_legal hf ho (pairLegal_iff.mpr ⟨hb, fun _ => ?_⟩), fun h hq => execPfx_traps hf hq ho fun hl => ?_⟩
  · exact hk.trans (decide_eq_true h)
  · exact absurd (of_decide_eq_true (hk.symm.trans ((pairLegal_iff.mp hl).2 hce))) (Nat.not_lt.mpr h)

/-- With a copy, a pfx traps before a successor that writes no one register. -/
theorem execPfx_noCopy (hf : fetchWord (s.hart.sc.pc + 4) s = .ok v s) (ho : decodeOp v = .ok op) (hce : ce = 1)
    (hk : copyFits (destKind op v) (regs s) cd = false) (hq : s.hart.queue = []) :
    exec (.pfx sense p ce cd) s = .next (takeTrap s causeILL ((pfxWord sense p ce cd).setWidth 64) s.hart.sc.pc false false) :=
  execPfx_traps hf hq ho fun hl => absurd ((pairLegal_iff.mp hl).2 hce) (Bool.eq_false_iff.mp hk)

/-! ### The successor under its predicate (R107) -/

theorem predicate_ready (h : ready s) : predicate (pfxWord sense p ce cd) s = .ok (decide (x s p ≠ 0) == (sense == 1)) s := by
  unfold predicate
  rw [pfxWord_sense, pfxWord_predicate, bind_ok (rdX_ready h p)]
  rcases BitVec.eq_zero_or_eq_one sense with rfl | rfl
  all_goals exact congrArg (EStateM.Result.ok · s) (by by_cases hx : x s p = 0#64 <;> simp [hx])

/-- Under a prefix that eret has not applied again, a word runs where its predicate holds, and passes the checks of a skipped word where not. -/
theorem runWord_prefixed (hp : s.hart.pfx = some { word := pfxWord sense p ce cd, fromEret := false }) (h : ready s) (hm : s.onMgmt = none)
    (ho : decodeOp v = .ok op) :
    runWord v s = if decide (x s p ≠ 0) = (sense == 1) then exec (op.build v) s else runScalar (skipChecks op v) s := by
  unfold runWord
  simp only [ho, hm, hp, Option.isSome_none, Bool.false_and, Bool.false_eq_true, if_false, underPrefix, predicate_ready h]
  by_cases hb : decide (x s p ≠ 0) = (sense == 1)
  · rw [if_pos hb, beq_iff_eq.mpr hb]
    rfl
  · rw [if_neg hb, beq_eq_false_iff_ne.mpr hb]

/-- A word below major 0x20 meets no check of the push: each of them is made of a major above it. -/
theorem vecLegal_scalar {w : Word32} (h : fld w 26 6 < 0x20#6) (n : Nat) (sew : BitVec 4) : vecLegal n sew w = true := by
  unfold vecLegal
  dsimp only
  split
  all_goals simp_all

theorem isMember_scalar {w : Word32} (h : fld w 26 6 < 0x20#6) : isMember w = false := by
  have : (fld w 26 6).toNat < 0x20 := h
  unfold isMember
  exact decide_eq_false fun h => absurd h.1 (by omega)

/-- The words of some scalar instructions and of scopy meet no check of the vector queue. -/
theorem skipped_word (ho : decodeOp v = .ok op) (h : op ∈ [Opcode.add, .addi, .fadd, .beq, .ldd, .std, .cas, .scopy]) :
    isMember v = false ∧ ∀ n sew, vecLegal n sew v = true := by
  have he := encode_build (decodeOp_ok ho).1
  have scalar {m : BitVec 6} (hv : fld v 26 6 = m) (hm : m < 0x20#6) : isMember v = false ∧ ∀ n sew, vecLegal n sew v = true :=
    ⟨isMember_scalar (hv ▸ hm), vecLegal_scalar (hv ▸ hm)⟩
  simp only [List.mem_cons, List.not_mem_nil, or_false] at h
  rcases h with rfl | rfl | rfl | rfl | rfl | rfl | rfl | rfl
  all_goals have e := (Option.some.inj he).symm
  · exact scalar (rd e (hi rfl (hi rfl (hi rfl (hi rfl (whole _)))))) (by decide)
  · exact scalar (rd e (hi rfl (hi rfl (hi rfl (whole _))))) (by decide)
  · exact scalar (rd e (hi rfl (hi rfl (hi rfl (hi rfl (hi rfl (hi rfl (whole _)))))))) (by decide)
  · exact scalar (rd e (hi rfl (hi rfl (hi rfl (hi rfl (whole _)))))) (by decide)
  · exact scalar (rd e (hi rfl (hi rfl (hi rfl (hi rfl (whole _)))))) (by decide)
  · exact scalar (rd e (hi rfl (hi rfl (hi rfl (hi rfl (whole _)))))) (by decide)
  · exact scalar (rd e (hi rfl (hi rfl (hi rfl (hi rfl (hi rfl (hi rfl (hi rfl (whole _))))))))) (by decide)
  · have hm : fld v 26 6 = 0x38#6 := rd e (hi rfl (hi rfl (hi rfl (hi rfl (whole _)))))
    have hf : fld v 6 5 = 3#5 := rd e (lo rfl rfl)
    unfold isMember vecLegal
    simp only [hm, hf]
    exact ⟨rfl, fun _ _ => rfl⟩

/-- A skipped word that meets no check of the vector queue, of the CSRs or of the levels goes by. -/
theorem skipChecks_passes (hc : s.hart.convoy = []) (hm : isMember v = false) (hv : ∀ n sew, vecLegal n sew v = true) (hu : csrUnassigned op v = false)
    (hl : leastLevel op v = .u) : runScalar (skipChecks op v) s = .next (next id s) := by
  have hn : noPfxConvoy v s = .ok () s := noPfxConvoy_left (c := 0) (rest := []) (.inl ⟨hc, rfl, rfl⟩) fun _ h => absurd h (by simp [hm])
  have hr : convoyRest v s = .ok [] s := by
    unfold convoyRest
    rw [bind_ok (get_apply s), hc]
    simp [hm]
  refine runScalar_ok (t := { s with hart := { s.hart with sc := { s.hart.sc with pc := s.hart.sc.pc + 4 } } }) ?_
  unfold skipChecks
  rw [bind_ok hn, bind_ok (get_apply s), hu, hv, hl]
  exact (bind_ok hr).trans rfl

end

/-- Settles O31: a pfx stands or traps as its pair is legal (`pairLegal_iff`), and its successor runs as its predicate says (`runWord_prefixed`). -/
theorem prefixResults : Obligations.PrefixResults := by
  intro s sense ce p cd v
  refine ⟨fun hf => ⟨fun e he => execPfx_stands hf fun op ho => (nomatch he.symm.trans ho), fun op ho => ⟨fun hb hq => ?_, fun hb hce => ?_,
    fun hce hop hq => ?_, fun hce hop => ?_, fun hce hop => ?_, fun hce hop => ?_, fun hce hop h hq => ?_, fun hce hop => ?_⟩⟩,
    fun hp hr hm op ho => ⟨fun h => ?_, fun h hc hop => ?_⟩⟩
  · exact execPfx_traps hf hq ho fun hl => (pairLegal_iff.mp hl).1 hb
  · exact execPfx_legal hf ho (pairLegal_iff.mpr ⟨hb, fun h => absurd (hce.symm.trans h) (by decide)⟩)
  · simp only [List.mem_cons, List.not_mem_nil, or_false] at hop
    rcases hop with rfl | rfl | rfl | rfl | rfl | rfl | rfl | rfl | rfl <;> exact execPfx_noCopy hf ho hce rfl hq
  · simp only [List.mem_cons, List.not_mem_nil, or_false] at hop
    rcases hop with rfl | rfl | rfl | rfl | rfl <;> exact execPfx_copy hf ho hce (by decide) copyFits_scalar
  · simp only [List.mem_cons, List.not_mem_nil, or_false] at hop
    rcases hop with rfl | rfl | rfl <;> exact execPfx_copy hf ho hce (by decide) rfl
  · simp only [List.mem_cons, List.not_mem_nil, or_false] at hop
    rcases hop with rfl | rfl <;> exact execPfx_copy hf ho hce (by decide) copyFits_mask
  · subst hop
    exact execPfx_noCopy hf ho hce (by rw [destKind_vcvt_block h]; rfl) hq
  · subst hop
    exact execPfx_copy hf ho hce (by decide) copyFits_acc
  · exact (runWord_prefixed hp hr hm ho).trans (if_pos h)
  · refine (runWord_prefixed hp hr hm ho).trans ((if_neg h).trans ?_)
    obtain ⟨hmem, hleg⟩ := skipped_word ho hop
    simp only [List.mem_cons, List.not_mem_nil, or_false] at hop
    rcases hop with rfl | rfl | rfl | rfl | rfl | rfl | rfl | rfl <;> exact skipChecks_passes hc hmem hleg rfl rfl

end Sys2Proof.Proofs

/-! SUPPORT. Proofs of the statements of the family of spec/05: scalar instructions. -/

namespace Sys2Proof.Proofs

open Sys2Proof Sys2Proof.Machine Sys2Proof.Safety

/-! ### Integer results (R119 to R123) -/

section
variable {s : State} (h : ready s) {d a b : BitVec 5} {v : Word}
include h

/-- An instruction of two sources completes with whatever its result comes to. -/
theorem opRR_gives {f : Word → Word → Word} (e : f (x s a) (x s b) = v) : runScalar (opRR d a b f) s = .next (next (putDest d v) s) :=
  e ▸ opRR_next h d a b f

/-- An instruction of one source completes with whatever its result comes to. -/
theorem opR_gives {f : Word → Word} (e : f (x s a) = v) : runScalar (opR d a f) s = .next (next (putDest d v) s) :=
  e ▸ opR_next h d a f
end

/-! The values of the tables, as the statement writes them. -/

theorem bool64_slt (u w : Word) : bool64 (decide (u.toInt < w.toInt)) = if u.slt w then 1 else 0 := rfl

theorem ite_slt {α : Type} (u w : Word) (p q : α) : (if u.toInt < w.toInt then p else q) = if u.slt w then p else q := by
  simp only [BitVec.slt, decide_eq_true_eq]

theorem ite_ult {α : Type} (u w : Word) (p q : α) : (if u < w then p else q) = if u.ult w then p else q := by
  simp only [BitVec.ult, decide_eq_true_eq, BitVec.lt_def]

theorem bool64_ult (u w : Word) : bool64 (decide (u < w)) = if u.ult w then 1 else 0 := by
  simp only [bool64, decide_eq_true_eq, ite_ult]

theorem toInt_eq_zero {w : Word} : w.toInt = 0 ↔ w = 0 :=
  ⟨fun h => BitVec.toInt_inj.mp (h.trans BitVec.toInt_zero.symm), fun h => h ▸ BitVec.toInt_zero⟩

/-- The signed quotient of R60. -/
theorem div_word (u w : Word) :
    BitVec.ofInt 64 (quotR60 true 64 u.toInt w.toInt) = if w = 0 then BitVec.allOnes 64 else BitVec.ofInt 64 (u.toInt.tdiv w.toInt) := by
  by_cases h : w = 0
  · rw [if_pos h, quotR60, if_pos (toInt_eq_zero.mpr h)]
    rfl
  · rw [if_neg h, quotR60, if_neg (fun e => h (toInt_eq_zero.mp e))]

/-- The unsigned quotient of R60. -/
theorem divu_word (u w : Word) : BitVec.ofInt 64 (quotR60 false 64 u.toNat w.toNat) = if w = 0 then BitVec.allOnes 64 else u / w := by
  by_cases h : w = 0
  · subst h
    rfl
  · have hw : (w.toNat : Int) ≠ 0 := fun e => h (BitVec.eq_of_toNat_eq (Int.ofNat_eq_zero.mp e))
    rw [if_neg h, quotR60, if_neg hw]
    apply BitVec.eq_of_toNat_eq
    have : (u.toNat : Int).tdiv w.toNat = ((u.toNat / w.toNat : Nat) : Int) := rfl
    rw [this, BitVec.ofInt_natCast, BitVec.toNat_ofNat, BitVec.toNat_udiv]
    exact Nat.mod_eq_of_lt ((Nat.div_le_self _ _).trans_lt u.isLt)

/-- The signed remainder of R60. -/
theorem rem_word (u w : Word) :
    BitVec.ofInt 64 (remR60 u.toInt w.toInt) = if w = 0 then u else BitVec.ofInt 64 (u.toInt - u.toInt.tdiv w.toInt * w.toInt) := by
  by_cases h : w = 0
  · rw [if_pos h, remR60, if_pos (toInt_eq_zero.mpr h), BitVec.ofInt_toInt]
  · rw [if_neg h, remR60, if_neg (fun e => h (toInt_eq_zero.mp e)), Int.tmod_def, Int.mul_comm]

/-- The unsigned remainder of R60. -/
theorem remu_word (u w : Word) : BitVec.ofInt 64 (remR60 u.toNat w.toNat) = if w = 0 then u else u % w := by
  by_cases h : w = 0
  · subst h
    simp [remR60]
  · have hw : (w.toNat : Int) ≠ 0 := fun e => h (BitVec.eq_of_toNat_eq (Int.ofNat_eq_zero.mp e))
    rw [if_neg h, remR60, if_neg hw]
    apply BitVec.eq_of_toNat_eq
    have : (u.toNat : Int).tmod w.toNat = ((u.toNat % w.toNat : Nat) : Int) := rfl
    rw [this, BitVec.ofInt_natCast, BitVec.toNat_ofNat, BitVec.toNat_umod]
    exact Nat.mod_eq_of_lt ((Nat.mod_le _ _).trans_lt u.isLt)

/-- A low field of n bits, zero-extended, is the word under a mask of n ones. -/
theorem zextLow_mask (n : Nat) (u : Word) : zextLow n u = u &&& BitVec.ofNat 64 (2 ^ n - 1) := by
  apply BitVec.eq_of_getLsbD_eq
  intro i hi
  rw [BitVec.getLsbD_and, BitVec.getLsbD_ofNat, Nat.testBit_two_pow_sub_one]
  simp [zextLow, hi, Bool.and_comm]

/-! ### Bit instructions (R123) -/

/-- The leading zeros of a word: above bit 63 − n there is no one, and there is one there if n < 64. -/
theorem clz64_spec (u : Word) :
    ∃ n : Nat, n ≤ 64 ∧ (∀ i < n, u.getLsbD (63 - i) = false) ∧ (n < 64 → u.getLsbD (63 - n) = true) ∧ clz64 u = BitVec.ofNat 64 n := by
  by_cases h : u = 0
  · exact ⟨64, Nat.le_refl _, fun i _ => by simp [h], fun hn => absurd hn (Nat.lt_irrefl _), if_pos h⟩
  · have hn : u.toNat ≠ 0 := fun e => h (BitVec.eq_of_toNat_eq e)
    have hl : Nat.log2 u.toNat < 64 := (Nat.log2_lt hn).mpr u.isLt
    refine ⟨63 - Nat.log2 u.toNat, by omega, fun i hi => ?_, fun _ => ?_, if_neg h⟩
    · exact Nat.testBit_lt_two_pow ((Nat.log2_lt hn).mp (by omega))
    · rw [show 63 - (63 - Nat.log2 u.toNat) = Nat.log2 u.toNat by omega]
      exact Nat.testBit_log2 hn

/-- The first one from bit i up, or the end where there is none. -/
theorem ctzFrom_spec (u : Word) : ∀ n i : Nat, i ≤ ctzFrom u n i ∧ ctzFrom u n i ≤ i + n ∧
    (∀ j, i ≤ j → j < ctzFrom u n i → u.getLsbD j = false) ∧ (ctzFrom u n i < i + n → u.getLsbD (ctzFrom u n i) = true)
  | 0, i => ⟨Nat.le_refl i, Nat.le_refl i, fun j h1 h2 => absurd h1 (Nat.not_le.mpr h2), fun h => absurd h (Nat.lt_irrefl i)⟩
  | n + 1, i => by
    unfold ctzFrom
    split
    · exact ⟨Nat.le_refl i, by omega, fun j h1 h2 => absurd h1 (Nat.not_le.mpr h2), fun _ => ‹_›⟩
    · obtain ⟨low, high, zeros, one⟩ := ctzFrom_spec u n (i + 1)
      refine ⟨by omega, by omega, fun j h1 h2 => ?_, fun h => one (by omega)⟩
      rcases Nat.eq_or_lt_of_le h1 with rfl | h1
      · exact Bool.eq_false_iff.mpr ‹_›
      · exact zeros j h1 h2

/-- The number of ones among the first n bits. -/
theorem popFrom_length (u : Word) : ∀ n, popFrom u n = ((List.range n).filter u.getLsbD).length
  | 0 => rfl
  | n + 1 => by
    rw [List.range_succ, List.filter_append, List.length_append, popFrom, popFrom_length u n, Nat.add_comm, List.filter_singleton]
    cases u.getLsbD n <;> rfl

/-- One place of bext: the pseudocode of R123 at bit i. -/
def bextStep (u w : Word) (p : Word × Nat) (i : Nat) : Word × Nat :=
  if w.getLsbD i then (if u.getLsbD i then p.1 ||| (1#64 <<< p.2) else p.1, p.2 + 1) else p

/-- One place of bdep. -/
def bdepStep (u w : Word) (p : Word × Nat) (i : Nat) : Word × Nat :=
  if w.getLsbD i then (if u.getLsbD p.2 then p.1 ||| (1#64 <<< i) else p.1, p.2 + 1) else p

theorem bextFrom_foldl (u w : Word) : ∀ (n j : Nat) (t : Word), n ≤ 64 →
    bextFrom u w n j t = ((List.range' (64 - n) n).foldl (bextStep u w) (t, j)).1
  | 0, _, _, _ => rfl
  | n + 1, j, t, hn => by
    have hi : 63 - n = 64 - (n + 1) := by omega
    have hs : 64 - (n + 1) + 1 = 64 - n := by omega
    rw [List.range'_succ, List.foldl_cons, hs, bextFrom, bextFrom_foldl u w n _ _ (by omega), bextFrom_foldl u w n _ _ (by omega), hi, bextStep]
    split <;> rfl

theorem bdepFrom_foldl (u w : Word) : ∀ (n j : Nat) (t : Word), n ≤ 64 →
    bdepFrom u w n j t = ((List.range' (64 - n) n).foldl (bdepStep u w) (t, j)).1
  | 0, _, _, _ => rfl
  | n + 1, j, t, hn => by
    have hi : 63 - n = 64 - (n + 1) := by omega
    have hs : 64 - (n + 1) + 1 = 64 - n := by omega
    rw [List.range'_succ, List.foldl_cons, hs, bdepFrom, bdepFrom_foldl u w n _ _ (by omega), bdepFrom_foldl u w n _ _ (by omega), hi, bdepStep]
    split <;> rfl

/-- bswap reverses the bytes of a word. -/
theorem bswap64_byte (u : Word) : ∀ i < 8, (bswap64 u).extractLsb' (8 * (7 - i)) 8 = u.extractLsb' (8 * i) 8 := by
  intro i hi
  apply BitVec.eq_of_getLsbD_eq
  intro j hj
  simp only [bswap64, BitVec.getLsbD_append, BitVec.getLsbD_extractLsb']
  interval_cases i <;> simp [hj] <;> grind

/-- Settles O1: each instruction is its table's function of its sources, read before its destination is written. -/
theorem integerResults : Obligations.IntegerResults := by
  refine ⟨fun s d a b h => ?_, fun s d a b h => ?_, fun s d a imm n k h => ?_, fun s d a b h => ⟨?_, ?_, ?_, ?_, ?_, ?_, ?_⟩⟩
  · intro u w sh one
    simp only [List.forall_mem_cons]
    exact ⟨opRR_gives h rfl, opRR_gives h rfl, opRR_gives h rfl, opRR_gives h rfl, opRR_gives h rfl, opRR_gives h rfl, opRR_gives h rfl,
      opRR_gives h rfl, opRR_gives h rfl, opRR_gives h rfl, opRR_gives h rfl, opRR_gives h rfl, opRR_gives h rfl,
      opRR_gives h (ite_slt ..), opRR_gives h (ite_ult ..), opRR_gives h (ite_slt ..), opRR_gives h (ite_ult ..), opRR_gives h rfl,
      opRR_gives h rfl, opRR_gives h rfl, opRR_gives h (bool64_ult ..), fun _ hp => absurd hp List.not_mem_nil⟩
  · intro u w
    simp only [List.forall_mem_cons]
    exact ⟨opRR_gives h rfl, opRR_gives h rfl, opRR_gives h rfl, opRR_gives h (div_word ..), opRR_gives h (divu_word ..),
      opRR_gives h (rem_word ..), opRR_gives h (remu_word ..), fun _ hp => absurd hp List.not_mem_nil⟩
  · intro u i z one
    simp only [List.forall_mem_cons]
    exact ⟨opR_gives h rfl, opR_gives h rfl, opR_gives h rfl, opR_gives h rfl, opR_gives h rfl, opR_gives h (bool64_ult ..), opR_gives h rfl,
      opR_gives h rfl, opR_gives h rfl, wr_next h.1 .., opR_gives h rfl, fun _ hp => absurd hp List.not_mem_nil⟩
  · obtain ⟨n, bound, zeros, one, hv⟩ := clz64_spec (x s a)
    exact ⟨n, bound, zeros, one, opR_gives h hv⟩
  · obtain ⟨-, bound, zeros, one⟩ := ctzFrom_spec (x s a) 64 0
    exact ⟨_, by omega, fun i => zeros i (Nat.zero_le i), fun hn => one (by omega), opR_gives h rfl⟩
  · exact opR_gives h (congrArg _ (popFrom_length ..))
  · exact opRR_gives h ((bextFrom_foldl _ _ 64 0 0 (Nat.le_refl _)).trans (by rw [List.range_eq_range']; rfl))
  · exact opRR_gives h ((bdepFrom_foldl _ _ 64 0 0 (Nat.le_refl _)).trans (by rw [List.range_eq_range']; rfl))
  · exact ⟨_, bswap64_byte (x s a), opR_gives h rfl⟩
  · simp only [List.forall_mem_cons]
    exact ⟨opR_gives h rfl, opR_gives h rfl, opR_gives h rfl, opR_gives h (zextLow_mask 8 _), opR_gives h (zextLow_mask 16 _),
      opR_gives h (zextLow_mask 32 _), fun _ hp => absurd hp List.not_mem_nil⟩

/-! ### Branches and jumps (R132, R133) -/

/-- An offset of words in bytes (R81). -/
theorem wordOff_mul {n : Nat} (off : BitVec n) : wordOff off = off.signExtend 64 * 4 :=
  BitVec.shiftLeft_eq_mul_twoPow _ 2

/-- A target is a multiple of 4 where its low two bits are 0. -/
theorem aligned_four (v : Word) : v.toNat % 4 = 0 ↔ v.extractLsb' 0 2 = 0 := by
  rw [← BitVec.toNat_inj, BitVec.extractLsb'_toNat]
  rfl

/-- Of an instruction that waits with its strand's record and live-ins as they were nothing stays but its wait. -/
theorem waitingState_kept {s t : State} (hl : t.hart.readLive = s.hart.readLive) (hw : t.hart.written = s.hart.written) : waitingState s t = s := by
  unfold waitingState
  rw [hl, hw, if_neg]
  rcases s.hart.written.isEmpty with _ | _ <;> simp

/-- What a taken branch, or j, leaves: the strand goes on at the target, or its chunk holds for the keystone (R233). -/
def jumped (target : Word) (s : State) : State :=
  if leavesRegion s target then applyWait s (.hold (.exit target)) else goTo target id s

section
variable {s : State} {m : M Unit} {target : Word}

/-- A computation that comes to a taken branch, having changed nothing. -/
theorem runScalar_jump (e : m s = jumpOrExit target s) : runScalar m s = .next (jumped target s) := by
  have hj : jumpOrExit target s = (if leavesRegion s target = true then wait (.hold (.exit target)) else setPc target : M Unit) s := rfl
  unfold jumped
  by_cases hx : leavesRegion s target = true
  · rw [hj, if_pos hx] at e
    rw [if_pos hx, runScalar_hold e, waitingState_kept rfl rfl]
  · rw [hj, if_neg hx] at e
    rw [if_neg hx]
    exact runScalar_ok e

/-- A conditional branch, with whatever its condition comes to. -/
theorem opBranch_goes (h : ready s) {a b : BitVec 5} {off : BitVec 13} {cond : Word → Word → Bool} {p : Bool} (e : cond (x s a) (x s b) = p) :
    runScalar (opBranch a b off cond) s =
      .next (if p then jumped (s.hart.sc.pc + off.signExtend 64 * 4) s else goTo (s.hart.sc.pc + 4) id s) := by
  have hb : opBranch a b off cond s = (if p = true then jumpOrExit (s.hart.sc.pc + off.signExtend 64 * 4) else nextPc : M Unit) s := by
    unfold opBranch
    rw [bind_ok (rdX_ready h a), bind_ok (rdX_ready h b), bind_ok (rdPc_apply s), e, wordOff_mul]
  cases p
  · exact runScalar_ok hb
  · exact runScalar_jump hb
end

section
variable {s : State} (h : ready s)
include h

theorem jal_goes (off : BitVec 26) : exec (.jal off) s = .next (goTo (s.hart.sc.pc + off.signExtend 64 * 4) (putDest 1 (s.hart.sc.pc + 4)) s) := by
  refine runScalar_ok (t := { s with hart := { putDest 1 (s.hart.sc.pc + 4) s.hart with
    sc := { (putDest 1 (s.hart.sc.pc + 4) s.hart).sc with pc := s.hart.sc.pc + off.signExtend 64 * 4 } } }) ?_
  rw [bind_ok (rdPc_apply s), bind_ok (wrX_ready h.1 1 _), wordOff_mul]
  rfl

/-- jalr writes its link and goes on at a target that is a multiple of 4. -/
theorem jalr_goes (d a : BitVec 5) {imm : BitVec 16} (ht : (x s a + imm.signExtend 64).toNat % 4 = 0) :
    exec (.jalr d a imm) s = .next (goTo (x s a + imm.signExtend 64) (putDest d (s.hart.sc.pc + 4)) s) := by
  refine runScalar_ok (t := { s with hart := { putDest d (s.hart.sc.pc + 4) s.hart with
    sc := { (putDest d (s.hart.sc.pc + 4) s.hart).sc with pc := x s a + imm.signExtend 64 } } }) ?_
  rw [bind_ok (rdX_ready h a), bind_ok (rdPc_apply s)]
  refine (congrFun (if_neg (not_not_intro ht)) s).trans ?_
  rw [bind_ok (wrX_ready h.1 d _)]
  rfl

/-- To any other target it writes no link, and traps ALIGN. -/
theorem jalr_traps (hq : s.hart.queue = []) (d a : BitVec 5) {imm : BitVec 16} (ht : (x s a + imm.signExtend 64).toNat % 4 ≠ 0) :
    exec (.jalr d a imm) s = .next (takeTrap s causeALIGN (x s a + imm.signExtend 64) s.hart.sc.pc false false) := by
  refine runScalar_trap hq ?_
  rw [bind_ok (rdX_ready h a), bind_ok (rdPc_apply s)]
  exact congrFun (if_pos ht) s
end

/-- Settles O4: a taken branch jumps or holds (`runScalar_jump`), and a jump's link is an ordinary register write. -/
theorem controlFlowResults : Obligations.ControlFlowResults := by
  refine ⟨fun s a b off h => ?_, fun s d a off imm h => ⟨runScalar_jump ?_, jal_goes h off, fun ht => ?_, fun ht hq => ?_⟩⟩
  · intro u w target
    simp only [List.forall_mem_cons]
    exact ⟨opBranch_goes h rfl, opBranch_goes h rfl, opBranch_goes h rfl, opBranch_goes h rfl, opBranch_goes h rfl, opBranch_goes h rfl,
      fun _ hp => absurd hp List.not_mem_nil⟩
  · rw [bind_ok (rdPc_apply s), wordOff_mul]
  · exact jalr_goes h d a ((aligned_four _).mpr ht)
  · exact jalr_traps h hq d a fun e => ht ((aligned_four _).mp e)

/-! ### CSR accesses that trap (R51, R139, R140) -/

section
variable {s : State} {w : Word32} {d : BitVec 5} {csr : BitVec 12} {write : Option (Word → M Word)} (hm : s.onMgmt = none)

/-- A number that no chapter assigns (R140). -/
theorem opCsr_unassigned (hc : csrOf csr = none) : opCsr w d csr write s = .error (.trap causeILL (w.setWidth 64)) s := by
  unfold opCsr
  rw [bind_ok (get_apply s), hc]
  rfl

variable {c : Csr} (hc : csrOf csr = some c)
include hm hc

/-- A number above the level (R51). -/
theorem opCsr_above (hl : csrLevel s.hart.level csr = false) : opCsr w d csr write s = .error (.trap causePRIV (w.setWidth 64)) s := by
  unfold opCsr
  rw [bind_ok (get_apply s), hc, hm, hl]
  rfl

/-- A write to a register of read-only fields (R139). -/
theorem opCsr_readOnly (hl : csrLevel s.hart.level csr = true) (hr : csrReadOnly c = true) (hw : write.isSome = true) :
    opCsr w d csr write s = .error (.trap causeILL (w.setWidth 64)) s := by
  unfold opCsr
  rw [bind_ok (get_apply s), hc, hm, hl]
  simp only [hw, hr]
  rfl
end

/-- The registers by their numbers (R31, R372, R378). -/
def csrTable : List (BitVec 12 × Csr) :=
  [(0x000, .vl), (0x001, .vtype), (0x002, .vstart), (0x003, .vlmax), (0x004, .vcfg), (0x005, .vcp), (0x006, .fcsr), (0x007, .vmode), (0x008, .pfxst),
    (0x010, .tm), (0x011, .tn), (0x012, .tk), (0x020, .livein), (0x021, .chunkseq), (0x022, .ringsz), (0x023, .ringid), (0x024, .wid),
    (0x025, .widshape), (0x028, .mbxstat), (0x029, .msghdr), (0x030, .time), (0x031, .cycle), (0x100, .epc), (0x101, .ecause), (0x102, .eval),
    (0x103, .estat), (0x104, .evec), (0x108, .vlcap), (0x109, .ptbase), (0x10A, .jidcur), (0x10B, .gangcfg), (0x10C, .reshape), (0x10D, .quantum),
    (0x200, .mepc), (0x201, .mcause), (0x202, .mval), (0x203, .mstat), (0x204, .mvec), (0x208, .dbgctl), (0x209, .pwrcfg)]

theorem csrOf_table : ∀ p ∈ csrTable, csrOf p.1 = some p.2 := by
  unfold csrTable
  simp only [List.forall_mem_cons]
  repeat' apply And.intro
  iterate 40 · rfl
  · exact fun _ h => absurd h List.not_mem_nil

theorem csrOf_assigned {csr : BitVec 12} (h : csr ∈ csrTable.map Prod.fst) : ∃ c, (csr, c) ∈ csrTable ∧ csrOf csr = some c := by
  obtain ⟨p, hp, rfl⟩ := List.mem_map.mp h
  exact ⟨p.2, hp, csrOf_table p hp⟩

theorem csrOf_unassigned {csr : BitVec 12} (h : csr ∉ csrTable.map Prod.fst) : csrOf csr = none := by
  unfold csrOf
  split
  iterate 40 · exact absurd (by decide) h
  · rfl

/-- No machine register has read-only fields alone. -/
theorem readOnly_below : ∀ p ∈ csrTable, csrReadOnly p.2 = true → p.1 < 0x200#12 := by decide

theorem csrLevel_above {l : Level} {csr : BitVec 12} (h : l = .u ∧ 0x100#12 ≤ csr ∨ l = .s ∧ 0x200#12 ≤ csr) : csrLevel l csr = false := by
  rcases h with ⟨rfl, h⟩ | ⟨rfl, h⟩ <;> exact decide_eq_false (BitVec.not_lt.mpr h)

theorem csrLevel_within {l : Level} {csr : BitVec 12} (h : csr < 0x100#12 ∨ l = .s ∧ csr < 0x200#12) : csrLevel l csr = true := by
  have wider : csr < 0x100#12 → csr < 0x200#12 := fun h => BitVec.lt_trans h (by decide)
  rcases h with h | ⟨rfl, h⟩
  · cases l
    · exact decide_eq_true h
    · exact decide_eq_true (wider h)
    · rfl
  · exact decide_eq_true h

section
variable {s : State} {d a : BitVec 5} {csr : BitVec 12} {cause : BitVec 8} (hq : s.hart.queue = [])
include hq

/-- A CSR instruction whose checks refuse it traps at itself, with its word in EVAL. -/
theorem csr_refused {op : BitVec 4} {r : BitVec 5} {write : Option (Word → M Word)}
    (h : opCsr (wordCsr op d r csr) d csr write s = .error (.trap cause ((wordCsr op d r csr).setWidth 64)) s) :
    runScalar (opCsr (wordCsr op d r csr) d csr write) s = .next (takeTrap s cause (csrWord op d r csr) s.hart.sc.pc false false) := by
  rw [runScalar_trap hq h, ← zeros_append]
  rfl

/-- What refuses every write refuses the three writing forms. -/
theorem csr_writes_refused (ha : a ≠ 0)
    (h : ∀ op r write, write.isSome = true → opCsr (wordCsr op d r csr) d csr write s = .error (.trap cause ((wordCsr op d r csr).setWidth 64)) s) :
    ∀ p ∈ ([(.csrw d a csr, 1, a), (.csrs d a csr, 2, a), (.csrc d a csr, 3, a)] : List (Instr × BitVec 4 × BitVec 5)),
      exec p.1 s = .next (takeTrap s cause (csrWord p.2.1 d p.2.2 csr) s.hart.sc.pc false false) := by
  simp only [List.forall_mem_cons]
  exact ⟨csr_refused hq (h _ _ _ rfl), csr_refused hq (h _ _ _ (by rw [if_neg ha]; rfl)), csr_refused hq (h _ _ _ (by rw [if_neg ha]; rfl)),
    fun _ hp => absurd hp List.not_mem_nil⟩
end

/-- Settles O10: the three checks of a CSR instruction stand in this order, before anything is read. -/
theorem csrTraps : Obligations.CsrTraps := by
  intro s d a csr hq hm ha forms assigned readOnly traps
  refine ⟨fun h => ?_, fun h hl => ?_, fun h hl => ?_⟩
  · have hc : csrOf csr = none := csrOf_unassigned h
    exact List.forall_mem_cons.mpr ⟨csr_refused hq (opCsr_unassigned hc), csr_writes_refused hq ha fun _ _ _ _ => opCsr_unassigned hc⟩
  · obtain ⟨c, -, hc⟩ := csrOf_assigned h
    have hl : csrLevel s.hart.level csr = false := csrLevel_above hl
    exact List.forall_mem_cons.mpr ⟨csr_refused hq (opCsr_above hm hc hl), csr_writes_refused hq ha fun _ _ _ _ => opCsr_above hm hc hl⟩
  · have h : csr ∈ (csrTable.filter fun p => csrReadOnly p.2).map Prod.fst := h
    obtain ⟨p, hp, rfl⟩ := List.mem_map.mp h
    obtain ⟨hp, hr⟩ := List.mem_filter.mp hp
    have hl : csrLevel s.hart.level p.1 = true := csrLevel_within (hl.imp id fun e => ⟨e, readOnly_below p hp hr⟩)
    exact csr_writes_refused hq ha fun _ _ _ hw => opCsr_readOnly hm (csrOf_table p hp) hl hr hw

/-! ### What a CSR instruction does whose checks pass (R138, R141, R235) -/

/-- A guarded part of a sequence, where it is run and where it is passed over. -/
theorem guarded_ok {p : Prop} [Decidable p] {m : M Unit} {k : Unit → M Unit} {s t : State} (hm : p → m s = .ok () t) (hn : ¬ p → s = t) :
    (if p then m >>= k else k ()) s = k () t := by
  split
  · exact bind_ok (hm ‹_›)
  · exact hn ‹_› ▸ rfl

/-- The state in which a CSR instruction reads its register: at 0x100 and above it is Keystone-only (R138, R235). -/
def reached (csr : BitVec 12) (s : State) : State := if csr < 0x100#12 then s else flushWritten s

theorem reached_settled {s : State} (h : settled s) (csr : BitVec 12) : settled (reached csr s) := by
  unfold reached
  split
  · exact h
  · exact flushWritten_settled h

@[simp] theorem x_reached (csr : BitVec 12) (s : State) (r : BitVec 5) : x (reached csr s) r = x s r := by
  unfold reached
  split
  · rfl
  · exact x_flushWritten s r

/-- What a CSR instruction writes to its destination, and goes on (R138). -/
def giveOld (d : BitVec 5) (old : Word) : M Unit := do
  wrX d old
  nextPc

theorem giveOld_next {s t : State} {m : M Unit} {d : BitVec 5} {old : Word} (ht : t.hart.queue = []) (h : m s = giveOld d old t) :
    runScalar m s = .next (next (putDest d old) t) := by
  refine runScalar_ok (t := { t with hart := { putDest d old t.hart with sc := { (putDest d old t.hart).sc with pc := (putDest d old t.hart).sc.pc + 4 } } }) ?_
  unfold giveOld at h
  rw [h, bind_ok (wrX_ready (fun r => by rw [ht]; rfl) d old)]
  rfl

section
variable {s : State} (h : settled s) {csr : BitVec 12} {c : Csr} (hc : csrOf csr = some c) (hi : (s.onMgmt.isSome && !csrOnMgmt c) = false)
  (hl : csrLevel s.hart.level csr = true) (w : Word32) (d : BitVec 5)
include h

theorem emptyQueue_guarded {p : Prop} [Decidable p] (k : Unit → M Unit) : (if p then emptyQueue >>= k else k ()) s = k () s :=
  guarded_ok (fun _ => emptyQueue_ok h.1) fun _ => rfl

theorem keystoneOnly_guarded (csr : BitVec 12) (k : Unit → M Unit) : (if 0x100#12 ≤ csr then keystoneOnly >>= k else k ()) s = k () (reached csr s) := by
  obtain ⟨-, -, hk, -, hr⟩ := h
  unfold reached
  refine guarded_ok (fun hp => ?_) fun hp => ?_
  · rw [if_neg (BitVec.not_lt.mpr hp)]
    exact keystoneOnly_ok hk hr
  · rw [if_pos (BitVec.not_le.mp hp)]

include hc hi hl

/-- A reading form takes the register's value, and a read of TIME is noted (R138, R317). -/
theorem opCsr_reads :
    opCsr w d csr none s =
      giveOld d (csrGet (reached csr s) (s.onMgmt.getD 0) c) (if c = .time then noteTime (reached csr s) else reached csr s) := by
  unfold opCsr
  rw [bind_ok (get_apply s), hc]
  simp only [hi, hl, Bool.not_true, Bool.false_eq_true, if_false, Option.isSome_none, Bool.false_and]
  refine (emptyQueue_guarded h _).trans ((keystoneOnly_guarded h csr _).trans ?_)
  rw [bind_ok (get_apply _)]
  refine guarded_ok (fun hp => ?_) fun hp => ?_
  · rw [if_pos hp]
    rfl
  · rw [if_neg hp]

/-- A writing form takes the register's value, and gives it a new one unless the register rejects that (R138, R210, R419). -/
theorem opCsr_writes {f : Word → M Word} {v : Word} (hro : csrReadOnly c = false)
    (hf : f (csrGet (reached csr s) (s.onMgmt.getD 0) c) (reached csr s) = .ok v (reached csr s)) :
    opCsr w d csr (some f) s =
      if csrRejects s c v then .error (.trap causeILL (w.setWidth 64)) (reached csr s)
      else giveOld d (csrGet (reached csr s) (s.onMgmt.getD 0) c) (csrPut (reached csr s) (s.onMgmt.getD 0) c v) := by
  have ht : ¬ c = .time := fun e => absurd hro (by rw [e]; decide)
  unfold opCsr
  rw [bind_ok (get_apply s), hc]
  simp only [hi, hl, hro, Bool.not_true, Bool.false_eq_true, if_false, Bool.and_false]
  refine (emptyQueue_guarded h _).trans ((keystoneOnly_guarded h csr _).trans ?_)
  rw [bind_ok (get_apply _), if_neg ht, bind_ok hf]
  split
  · exact bind_error (ill_apply w _)
  · exact bind_ok (modify_apply _ _)
end

/-- A computation that ends as another one steps as it. -/
theorem runScalar_congr {s : State} {m n : M Unit} (h : m s = n s) : runScalar m s = runScalar n s := by
  unfold runScalar runThen
  rw [h]

section
variable {s : State} (h : settled s) {csr : BitVec 12} {c : Csr} (hc : csrOf csr = some c) {k : BitVec 1} (hk : s.onMgmt.getD 0 = k)
  (hi : (s.onMgmt.isSome && !csrOnMgmt c) = false) (hl : csrLevel s.hart.level csr = true) (d a : BitVec 5)
include h hc hi hl

/-- csrs and csrc with field a = 0 read, as csrr (R139). -/
theorem csr_zero_reads : exec (.csrs d 0 csr) s = exec (.csrr d csr) s ∧ exec (.csrc d 0 csr) s = exec (.csrr d csr) s :=
  ⟨runScalar_congr ((opCsr_reads h hc hi hl _ d).trans (opCsr_reads h hc hi hl _ d).symm),
    runScalar_congr ((opCsr_reads h hc hi hl _ d).trans (opCsr_reads h hc hi hl _ d).symm)⟩

include hk

/-- csrr of a register other than TIME changes nothing else (R138). -/
theorem csrr_gives (ht : c ≠ .time) : exec (.csrr d csr) s = .next (next (putDest d (csrGet (reached csr s) k c)) (reached csr s)) := by
  have e := opCsr_reads h hc hi hl (wordCsr 0 d 0 csr) d
  rw [if_neg ht, hk] at e
  exact giveOld_next (reached_settled h csr).1 e

variable (hro : csrReadOnly c = false)
include hro

/-- A writing form whose value the register takes (R138). -/
theorem csr_form_gives {w : Word32} {f : Word → M Word} {v : Word} (hf : f (csrGet (reached csr s) k c) (reached csr s) = .ok v (reached csr s))
    (hr : csrRejects s c v = false) (hq : (csrPut (reached csr s) k c v).hart.queue = []) :
    runScalar (opCsr w d csr (some f)) s = .next (next (putDest d (csrGet (reached csr s) k c)) (csrPut (reached csr s) k c v)) := by
  subst hk
  have e := opCsr_writes h hc hi hl w d hro hf
  rw [if_neg (by simp [hr])] at e
  exact giveOld_next hq e

omit h hc hk hi hl hro in
theorem rdX_reached (h : settled s) : rdX a (reached csr s) = .ok (x s a) (reached csr s) :=
  (rdX_ready (settled_ready (reached_settled h csr)) a).trans (by rw [x_reached])

theorem csrw_gives (hr : csrRejects s c (x s a) = false) (hq : (csrPut (reached csr s) k c (x s a)).hart.queue = []) :
    exec (.csrw d a csr) s = .next (next (putDest d (csrGet (reached csr s) k c)) (csrPut (reached csr s) k c (x s a))) :=
  csr_form_gives h hc hk hi hl d hro (rdX_reached a h) hr hq

omit hk in
/-- A value that the register rejects traps ILL with the word (R210, R419). -/
theorem csrw_rejected (hr : csrRejects s c (x s a) = true) :
    exec (.csrw d a csr) s = .next (takeTrap (reached csr s) causeILL (csrWord 1 d a csr) s.hart.sc.pc false false) := by
  have e := opCsr_writes h hc hi hl (f := fun _ => rdX a) (wordCsr 1 d a csr) d hro (rdX_reached a h)
  rw [if_pos hr] at e
  refine (runScalar_trap h.1 e).trans ?_
  rw [← zeros_append]
  rfl

/-- csrs and csrc write old OR s[a] and old AND NOT s[a] (R138). -/
theorem csr_bits_give (ha : a ≠ 0) (hr : ∀ v, csrRejects s c v = false) (hq : ∀ v, (csrPut (reached csr s) k c v).hart.queue = []) :
    let old := csrGet (reached csr s) k c
    exec (.csrs d a csr) s = .next (next (putDest d old) (csrPut (reached csr s) k c (old ||| x s a))) ∧
      exec (.csrc d a csr) s = .next (next (putDest d old) (csrPut (reached csr s) k c (old &&& ~~~x s a))) := by
  refine ⟨(runScalar_congr (congrArg (opCsr _ d csr · s) (if_neg ha))).trans ?_, (runScalar_congr (congrArg (opCsr _ d csr · s) (if_neg ha))).trans ?_⟩
  · exact csr_form_gives h hc hk hi hl d hro (bind_ok (rdX_reached a h)) (hr _) (hq _)
  · exact csr_form_gives h hc hk hi hl d hro (bind_ok (rdX_reached a h)) (hr _) (hq _)
end

/-! ### The values of the registers (R31, R372, R378) -/

/-- Zeros above a field are its extension. -/
theorem zeros_above {n : Nat} (k : Nat) (a : BitVec n) : 0#k ++ a = a.setWidth (k + n) := by
  apply BitVec.eq_of_toNat_eq
  rw [BitVec.toNat_setWidth_of_le (Nat.le_add_left n k), BitVec.toNat_append]
  simp

/-- A field below an extended one is below it before the extension. -/
theorem field_below {n m k : Nat} {a : BitVec n} {y : BitVec k} (b : BitVec m) (h : y = a.setWidth k) (hn : n ≤ k := by decide) :
    y ++ b = (a ++ b).setWidth (k + m) := by
  subst h
  apply BitVec.eq_of_toNat_eq
  rw [BitVec.toNat_setWidth_of_le (Nat.add_le_add_right hn m), BitVec.toNat_append, BitVec.toNat_append, BitVec.toNat_setWidth_of_le hn]

theorem vtype_fields (c : Scal) : c.vtype = (c.slices ++ c.sew).setWidth 64 := field_below _ (zeros_above 56 _)

theorem fcsr_fields (c : Scal) : c.fcsr = (c.flags ++ c.rm).setWidth 64 := field_below _ (zeros_above 56 _)

theorem pfxst_fields (c : Scal) : c.pfxst = (BitVec.ofBool c.pfxV ++ c.pfxWord).setWidth 64 := field_below _ (zeros_above 31 _)

theorem estat_fields (r : Ring) : r.estat = (BitVec.ofBool r.ptmo ++ BitVec.ofBool r.pact ++ BitVec.ofBool r.ppre ++ (0#5 : BitVec 5) ++ BitVec.ofBool r.pie
    ++ BitVec.ofBool r.ie ++ BitVec.ofBool r.ppl).setWidth 64 :=
  field_below _ (field_below _ (field_below _ (field_below _ (field_below _ (field_below _ (zeros_above 53 _))))))

/-- An empty queue holds no change of shape. -/
theorem shapeSeen_empty {h : Hart} (hq : h.queue = []) (r : Ring) : h.shapeSeen r = r := by
  unfold Hart.shapeSeen
  rw [hq]
  rfl

theorem size_slots (r : Ring) : BitVec.ofNat 4 r.size = if r.gang then 4#4 else if r.retired then 7 else 8 := by
  unfold Ring.size
  split
  · rfl
  · split <;> rfl

theorem ringsz_fields {s : State} (hq : s.hart.queue = []) (a : BitVec 1) :
    csrGet s a .ringsz = (BitVec.ofBool s.ring.gang ++ (if s.ring.gang then 4#4 else if s.ring.retired then 7 else 8)).setWidth 64 := by
  show 0#59 ++ BitVec.ofBool (s.hart.shapeSeen s.ring).gang ++ BitVec.ofNat 4 (s.hart.shapeSeen s.ring).size = _
  rw [shapeSeen_empty hq, size_slots]
  exact field_below _ (zeros_above 59 _)

theorem vcp_empty {s : State} (hq : s.hart.queue = []) (a : BitVec 1) : csrGet s a .vcp = s.hart.sc.pc + 4 := by
  show vcpOf s.hart = _
  unfold vcpOf
  rw [hq]

theorem vmode_bit (s : State) (a : BitVec 1) : csrGet s a .vmode = if s.hart.sc.ve then 1 else 0 := by
  show (BitVec.ofBool s.hart.sc.ve).setWidth 64 = _
  cases s.hart.sc.ve <;> rfl

theorem cycle_die {s : State} (hm : s.onMgmt = none) (a : BitVec 1) : csrGet s a .cycle = (s.die (dieOf s.cur)).cycle := by
  show cycleNow s = _
  unfold cycleNow
  rw [hm]

theorem cycle_mgmt {s : State} {c : BitVec 1} (hm : s.onMgmt = some c) (a : BitVec 1) : csrGet s a .cycle = (s.mgmtAt c).cycle := by
  show cycleNow s = _
  unfold cycleNow
  rw [hm]

/-! ### MBXSTAT (R245) -/

theorem shifted_one {n i : Nat} (hi : i < n) (j : Nat) : (1#n <<< j).getLsbD i = decide (i = j) := by
  rw [BitVec.getLsbD_shiftLeft, BitVec.getLsbD_one]
  by_cases h : i = j
  · simp [h ▸ hi, h, Nat.zero_lt_of_lt (h ▸ hi)]
  · simp [h]
    omega

/-- A fold that sets the bits of a list at which a test fails. -/
theorem foldl_bits (p : Nat → Bool) {n i : Nat} (hi : i < n) : ∀ (l : List Nat) (m : BitVec n),
    (l.foldl (fun m j => if p j then m else m ||| (1#n <<< j)) m).getLsbD i = (m.getLsbD i || decide (i ∈ l) && !p i)
  | [], m => by simp
  | j :: l, m => by
    rw [List.foldl_cons, foldl_bits p hi l]
    by_cases hj : i = j
    · subst hj
      rcases hp : p i with _ | _ <;> simp [shifted_one hi, -BitVec.getLsbD_shiftLeft]
    · rcases hp : p j with _ | _ <;> simp [hj, shifted_one hi, -BitVec.getLsbD_shiftLeft]

/-- Whether nothing waits in a mailbox by number. -/
def boxEmpty (a : Actor) (i : Nat) : Bool := (a.mbx.toList[i]?).all fun b => b.queue.isEmpty && b.spill.isEmpty

theorem boxEmpty_box (a : Actor) (m : BitVec 5) : (!boxEmpty a m.toNat) = (decide ((a.box m).queue ≠ []) || decide ((a.box m).spill ≠ [])) := by
  have hb : a.mbx.toList[m.toNat]? = some (a.box m) := by
    rw [Vector.getElem?_toList]
    exact Vector.getElem?_eq_getElem m.isLt
  unfold boxEmpty
  rw [hb]
  simp only [Option.all_some]
  rcases (a.box m).queue with _ | _ <;> rcases (a.box m).spill with _ | _ <;> simp

theorem mbxstat_nonempty (a : Actor) :
    a.mbxstat = (List.range 32).foldl (fun m j => if boxEmpty a j then m else m ||| (1#32 <<< j)) 0 ++ a.undeliv ++ a.typeErr := by
  have step : (fun (m : BitVec 32) (i : Nat) => match a.mbx.toList[i]? with
      | some b => if b.queue.isEmpty && b.spill.isEmpty then m else m ||| (1#32 <<< i)
      | none => m) = fun m i => if boxEmpty a i then m else m ||| (1#32 <<< i) := by
    funext m i
    unfold boxEmpty
    rcases a.mbx.toList[i]? with _ | b <;> rfl
  exact congrArg (fun f => (List.range 32).foldl f 0 ++ a.undeliv ++ a.typeErr) step

theorem mbxstat_fields (a : Actor) : a.mbxstat.extractLsb' 0 16 = a.typeErr ∧ a.mbxstat.extractLsb' 16 16 = a.undeliv ∧
    ∀ m : BitVec 5, a.mbxstat.getLsbD (32 + m.toNat) = (decide ((a.box m).queue ≠ []) || decide ((a.box m).spill ≠ [])) := by
  rw [mbxstat_nonempty]
  refine ⟨Laws.lo rfl (Laws.whole _), Laws.hi rfl (Laws.lo rfl (Laws.whole _)), fun m => ?_⟩
  have hm := m.isLt
  rw [BitVec.getLsbD_append, BitVec.getLsbD_append, if_neg (by omega), if_neg (by omega), show 32 + m.toNat - 16 - 16 = m.toNat by omega,
    foldl_bits _ hm, ← boxEmpty_box]
  simp [hm]

/-! ### TIME (R317) -/

theorem wmax_ge (a b : Word) : a ≤ wmax a b ∧ b ≤ wmax a b := by
  unfold wmax
  split
  · exact ⟨BitVec.le_of_lt ‹_›, BitVec.le_refl b⟩
  · exact ⟨BitVec.le_refl a, BitVec.not_lt.mp ‹_›⟩

/-- No chunk is older than the keystone. -/
theorem strandTime_keystone {s : State} (h : isKeystone s = true) : strandTime s = wmax (timeNow s) s.hart.acquired := by
  have : (if s.hart.held then s.ring.active else 0) = 0 := by
    split
    · simpa [isKeystone, ‹s.hart.held = true›] using h
    · rfl
  unfold strandTime
  rw [this]
  rfl

theorem noteTime_keystone {s : State} (h : isKeystone s = true) : noteTime s = raiseCoreFloor s (strandTime s) := by
  have : ¬ (s.hart.held && s.ring.active != 0) = true := by
    intro e
    simp only [isKeystone, Bool.and_eq_true, bne_iff_ne, Bool.or_eq_true, Bool.not_eq_true', beq_iff_eq] at h e
    exact h.elim (fun h => absurd e.1 (by simp [h])) e.2
  unfold noteTime
  exact if_neg this

/-- The floor of a strand's core raised, nothing that it reads afterwards is earlier. -/
theorem raiseCoreFloor_ring {s : State} (hm : s.onMgmt = none) (t : Word) :
    raiseCoreFloor s t = { s with ring := { s.ring with floor := (raiseCoreFloor s t).ring.floor } } ∧ t ≤ timeNow (raiseCoreFloor s t) := by
  have e : raiseCoreFloor s t = { s with ring := { s.ring with
      floor := s.ring.floor.set (coreIx s).toNat (wmax (s.ring.floor[(coreIx s).toNat]'(coreIx s).isLt) t) (coreIx s).isLt } } := by
    unfold raiseCoreFloor
    rw [hm]
  refine ⟨by rw [e], ?_⟩
  rw [e]
  refine BitVec.le_trans (wmax_ge (s.ring.floor[(coreIx s).toNat]'(coreIx s).isLt) t).2 ?_
  unfold timeNow
  simp only [hm]
  refine BitVec.le_trans (BitVec.le_of_eq ?_) (wmax_ge _ _).2
  exact (Vector.getElem_set_self (coreIx s).isLt).symm

/-! ### DBGCTL and PWRCFG (R404, R419) -/

/-- HALTED has the bit of each halted die. -/
theorem haltedBits_sum (s : State) :
    haltedBits s = BitVec.ofNat 8 (∑ j ∈ Finset.range 8, if dieHalted s (BitVec.ofNat 3 j) then 2 ^ j else 0) := by
  have sums : ∀ b0 b1 b2 b3 b4 b5 b6 b7 : Bool,
      ([(b0, 0), (b1, 1), (b2, 2), (b3, 3), (b4, 4), (b5, 5), (b6, 6), (b7, 7)] : List (Bool × Nat)).foldl
          (fun m p => if p.1 then m ||| (1#8 <<< p.2) else m) 0 =
        BitVec.ofNat 8 (0 + (if b0 then 2 ^ 0 else 0) + (if b1 then 2 ^ 1 else 0) + (if b2 then 2 ^ 2 else 0) + (if b3 then 2 ^ 3 else 0)
          + (if b4 then 2 ^ 4 else 0) + (if b5 then 2 ^ 5 else 0) + (if b6 then 2 ^ 6 else 0) + (if b7 then 2 ^ 7 else 0)) := by decide
  simp only [Finset.sum_range_succ, Finset.sum_range_zero]
  exact sums _ _ _ _ _ _ _ _

/-- Two states with the same executing strand. -/
def sameHart (s t : State) : Prop := t.hart = s.hart

theorem sameHart_foldl {α : Type} {f : State → α → State} (hf : ∀ t a, sameHart t (f t a)) {s t : State} (h : sameHart s t) (l : List α) :
    sameHart s (l.foldl f t) := foldl_keeps (sameHart s) f (fun t a h => (hf t a).trans h) l h

theorem modRingAt_hart (s : State) (n : BitVec 6) (f : Ring → Ring) : sameHart s (s.modRingAt n f) := by
  unfold State.modRingAt
  split <;> rfl

theorem floodControl_hart (s : State) (sub : Nat) (v : Word) : sameHart s (floodControl s sub v) := by
  unfold floodControl
  split <;> rfl

theorem announcePause_hart (s : State) (j : BitVec 16) : sameHart s (announcePause s j) := by
  unfold announcePause
  split
  · rfl
  · exact floodControl_hart _ _ _

theorem syncPauses_hart (s : State) : sameHart s (syncPauses s) := by
  refine sameHart_foldl (fun t j => ?_) (sameHart_foldl announcePause_hart rfl _) _
  exact floodControl_hart _ _ _

theorem haltDie_hart (s : State) (d : BitVec 3) : sameHart s (haltDie s d) := by
  unfold haltDie
  split <;> exact sameHart_foldl (fun _ _ => modRingAt_hart _ _ _) rfl _

theorem writeHalt_hart (s : State) (a : BitVec 1) (mask : BitVec 8) : sameHart s (writeHalt s a mask) :=
  (syncPauses_hart _).trans (sameHart_foldl haltDie_hart rfl _)

theorem writeStep_hart (s : State) (a : BitVec 1) (ring : BitVec 6) (on : Bool) : sameHart s (writeStep s a ring on) := by
  have first : sameHart s (if (s.mgmtAt a).step then s.modRingAt (s.mgmtAt a).stepRing fun r => { r with stepping := false } else s) := by
    split
    · exact modRingAt_hart _ _ _
    · rfl
  unfold writeStep
  dsimp only
  split
  · exact (modRingAt_hart _ _ _).trans first
  · exact first

/-- A write of DBGCTL leaves the core's strand as it is. -/
theorem writeDbgctl_hart (s : State) (a : BitVec 1) (v : Word) : sameHart s (writeDbgctl s a v) :=
  (writeStep_hart _ _ _ _).trans (writeHalt_hart _ _ _)

theorem settlePower_hart (s : State) (d : BitVec 3) : sameHart s (settlePower s d) := by
  have call (s : State) (n : Nat) : sameHart s (callBack s d n) := by
    unfold callBack
    rcases takeTokens n (s.die d).unrecalled with ⟨gone, left⟩
    refine sameHart_foldl (fun t p => ?_) ?_ gone <;> rfl
  have ask (s : State) : sameHart s (askNext s d) := by
    unfold askNext
    dsimp only
    split <;> rfl
  have pay (s : State) (n : Nat) : sameHart s (repay s d n) := by
    unfold repay
    dsimp only
    rcases takeTokens n (s.die d).grants with ⟨gone, left⟩
    refine sameHart_foldl (fun t p => ?_) ?_ gone <;> rfl
  unfold settlePower
  dsimp only
  split
  · rfl
  · split
    · split
      · split
        · exact call _ _
        · rfl
      · split
        · exact ask _
        · rfl
    · split
      · exact pay _ _
      · rfl

theorem raisePower_hart (s : State) (c : PwrCfg) (d : BitVec 3) : sameHart s (settlePower (s.modDie d fun x => Die.raise c x) d) := by
  have settled := settlePower_hart (s.modDie d fun x => Die.raise c x) d
  exact settled

/-- A write of PWRCFG leaves the core's strand as it is. -/
theorem writePwrcfg_hart (s : State) (v : Word) : sameHart s (writePwrcfg s v) := by
  unfold writePwrcfg
  extract_lets c put s1
  have h1 : sameHart s s1 := rfl
  clear_value s1
  exact sameHart_foldl (fun t d => raisePower_hart t c d) h1 _

theorem dbgctl_word (step : Bool) (ring : BitVec 6) (halted halt : BitVec 8) :
    0#41 ++ BitVec.ofBool step ++ ring ++ halted ++ halt = (BitVec.ofBool step ++ ring ++ halted ++ halt).setWidth 64 :=
  field_below _ (field_below _ (field_below _ (zeros_above 41 _)))

theorem dbgctl_fields (s : State) (c : BitVec 1) : csrGet s c .dbgctl =
    (BitVec.ofBool (s.mgmtAt c).step ++ (s.mgmtAt c).stepRing ++ haltedBits s ++ (s.mgmtAt c).dbgHalt).setWidth 64 :=
  dbgctl_word (s.mgmtAt c).step (s.mgmtAt c).stepRing (haltedBits s) (s.mgmtAt c).dbgHalt

/-! ### The registers of a span-die core -/

section
variable {s : State} (h : settled s) (hm : s.onMgmt = none)
include hm

theorem span_implements (c : Csr) : (s.onMgmt.isSome && !csrOnMgmt c) = false := by rw [hm]; rfl

theorem span_core : s.onMgmt.getD 0 = 0 := by rw [hm]; rfl

include h

/-- csrr of a user register (R31). -/
theorem csrr_user {csr : BitVec 12} {c : Csr} {d : BitVec 5} {v : Word} (hc : csrOf csr = some c) (hv : csrGet s 0 c = v)
    (hb : csr < 0x100#12 := by decide) (ht : c ≠ .time := by decide) : exec (.csrr d csr) s = .next (next (putDest d v) s) := by
  have e := csrr_gives h hc (span_core hm) (span_implements hm c) (csrLevel_within (.inl hb)) d ht
  rwa [reached, if_pos hb, hv] at e

/-- csrr of TIME (R317). -/
theorem csrr_time (d : BitVec 5) :
    ∃ u, exec (.csrr d 0x030) s = .next (next (putDest d (wmax (timeNow s) s.hart.acquired)) u) ∧
      u = { s with ring := { s.ring with floor := u.ring.floor } } ∧ wmax (timeNow s) s.hart.acquired ≤ timeNow u := by
  obtain ⟨frame, later⟩ := raiseCoreFloor_ring hm (strandTime s)
  have hk : isKeystone s = true := h.2.2.1
  rw [← strandTime_keystone hk]
  refine ⟨raiseCoreFloor s (strandTime s), ?_, frame, later⟩
  have e := opCsr_reads h (csr := 0x030) (c := .time) rfl (span_implements hm _) (csrLevel_within (.inl (by decide))) (wordCsr 0 d 0 0x030) d
  rw [if_pos rfl, reached, if_pos (by decide), noteTime_keystone hk] at e
  exact giveOld_next (by rw [frame]; exact h.1) e

omit h hm in
/-- A number that is below the machine registers is within every level that it is not below (R51). -/
theorem csrLevel_enough {l : Level} {csr : BitVec 12} (hs : csr < 0x200#12) (hl : csr < 0x100#12 ∨ l ≠ .u) : csrLevel l csr = true := by
  rcases hl with hl | hl
  · exact csrLevel_within (.inl hl)
  · cases l
    · exact absurd rfl hl
    · exact csrLevel_within (.inr ⟨rfl, hs⟩)
    · rfl

/-- csrr of a supervisor register (R372). -/
theorem csrr_supervisor {csr : BitVec 12} {c : Csr} {d : BitVec 5} {v : Word} (hl : s.hart.level ≠ .u) (hc : csrOf csr = some c)
    (hv : csrGet (flushWritten s) 0 c = v) (hb : ¬ csr < 0x100#12 := by decide) (hs : csr < 0x200#12 := by decide) (ht : c ≠ .time := by decide) :
    exec (.csrr d csr) s = .next (next (putDest d v) (flushWritten s)) := by
  have e := csrr_gives h hc (span_core hm) (span_implements hm c) (csrLevel_enough hs (.inr hl)) d ht
  rwa [reached, if_neg hb, hv] at e
omit h hm in
/-- What the keystone chunk writes is no part of its ring's registers. -/
theorem flushWritten_ring (s : State) : (flushWritten s).ring = { s.ring with chunks := (flushWritten s).ring.chunks } := by rw [flushWritten_frame]

/-- csrr of a register that is one of its ring's (R372). -/
theorem csrr_ring {csr : BitVec 12} {c : Csr} {d : BitVec 5} {v : Word} (hl : s.hart.level ≠ .u) (f : Ring → Word) (hc : csrOf csr = some c)
    (hv : f { s.ring with chunks := (flushWritten s).ring.chunks } = v) (hf : ∀ t, csrGet t 0 c = f t.ring := by exact fun _ => rfl)
    (hb : ¬ csr < 0x100#12 := by decide) (hs : csr < 0x200#12 := by decide) (ht : c ≠ .time := by decide) :
    exec (.csrr d csr) s = .next (next (putDest d v) (flushWritten s)) :=
  csrr_supervisor h hm hl hc (by rw [hf, flushWritten_ring, hv]) hb hs ht
end

section
variable {s : State} (h : settled s)
include h

/-- The forms of a register that takes every value: csrr reads what the writing forms return (R138). -/
theorem csr_forms {csr : BitVec 12} {c : Csr} {k : BitVec 1} (hk : s.onMgmt.getD 0 = k) (hi : (s.onMgmt.isSome && !csrOnMgmt c) = false)
    (hl : csrLevel s.hart.level csr = true) (d a : BitVec 5) (hc : csrOf csr = some c) (hro : csrReadOnly c = false)
    (hq : ∀ v t, (csrPut t k c v).hart.queue = t.hart.queue) (hr : ∀ t v, csrRejects t c v = false) :
    let u := reached csr s
    let old := csrGet u k c
    exec (.csrr 1 csr) s = .next (next (putDest 1 old) u) ∧
      exec (.csrw d a csr) s = .next (next (putDest d old) (csrPut u k c (x s a))) ∧
      (a ≠ 0 → exec (.csrs d a csr) s = .next (next (putDest d old) (csrPut u k c (old ||| x s a))) ∧
        exec (.csrc d a csr) s = .next (next (putDest d old) (csrPut u k c (old &&& ~~~x s a)))) := by
  have ht : c ≠ .time := fun e => absurd hro (by rw [e]; decide)
  have queue (v : Word) : (csrPut (reached csr s) k c v).hart.queue = [] := by rw [hq, (reached_settled h csr).1]
  exact ⟨csrr_gives h hc hk hi hl 1 ht, csrw_gives h hc hk hi hl d a hro (hr _ _) (queue _),
    fun ha => csr_bits_give h hc hk hi hl d a hro ha (hr _) queue⟩

variable (hm : s.onMgmt = none)
include hm

/-- The forms of a register of a span-die core that takes every value (R138). -/
theorem csr_span_forms {csr : BitVec 12} {c : Csr} (d a : BitVec 5) (hc : csrOf csr = some c) (hl : csr < 0x100#12 ∨ s.hart.level ≠ .u)
    (hb : csr < 0x200#12 := by decide) (hro : csrReadOnly c = false := by exact rfl)
    (hq : ∀ v t, (csrPut t 0 c v).hart.queue = t.hart.queue := by exact fun _ _ => rfl)
    (hr : ∀ t v, csrRejects t c v = false := by exact fun _ _ => rfl) :
    let u := reached csr s
    ∃ old, exec (.csrr 1 csr) s = .next (next (putDest 1 old) u) ∧
      exec (.csrw d a csr) s = .next (next (putDest d old) (csrPut u 0 c (x s a))) ∧
      (a ≠ 0 → exec (.csrs d a csr) s = .next (next (putDest d old) (csrPut u 0 c (old ||| x s a))) ∧
        exec (.csrc d a csr) s = .next (next (putDest d old) (csrPut u 0 c (old &&& ~~~x s a)))) :=
  ⟨_, csr_forms h (span_core hm) (span_implements hm c) (csrLevel_enough hb hl) d a hc hro hq hr⟩

/-- A write of GANGCFG that the ring can take latches its shape with the VLCAP in force (R377). -/
theorem gangcfg_latches (d a : BitVec 5) (hl : s.hart.level ≠ .u) (hr : csrRejects s .gangcfg (x s a) = false) :
    exec (.csrw d a 0x10B) s = .next (next (putDest d (s.ring.gangcfg.setWidth 64)) (csrPut (flushWritten s) 0 .gangcfg (x s a))) := by
  have e := csrw_gives h (csr := 0x10B) (c := .gangcfg) rfl (span_core hm) (span_implements hm _) (csrLevel_enough (by decide) (.inr hl)) d a rfl hr
    (reached_settled h _).1
  rw [reached, if_neg (by decide)] at e
  have hg : csrGet (flushWritten s) 0 .gangcfg = s.ring.gangcfg.setWidth 64 := by rw [flushWritten_frame]; rfl
  rwa [hg] at e

/-- A write of GANGCFG that it cannot take traps ILL (R210). -/
theorem gangcfg_rejected (d a : BitVec 5) (hl : s.hart.level ≠ .u) (hr : csrRejects s .gangcfg (x s a) = true) :
    exec (.csrw d a 0x10B) s = .next (takeTrap (flushWritten s) causeILL (csrWord 1 d a 0x10B) s.hart.sc.pc false false) := by
  have e := csrw_rejected h (csr := 0x10B) (c := .gangcfg) rfl (span_implements hm _) (csrLevel_enough (by decide) (.inr hl)) d a rfl hr
  rwa [reached, if_neg (by decide)] at e
end

/-! ### The registers of a management core -/

section
variable {s : State} (h : settled s) {c : BitVec 1} (hm : s.onMgmt = some c) (hl : s.hart.level = .m) (hf : s.hart.held = false)

include hf in
/-- Outside a chunk nothing has to be written first. -/
theorem reached_free (csr : BitVec 12) : reached csr s = s := by
  unfold reached
  rw [flushWritten_free hf, ite_self]

include hm in
theorem core_index : s.onMgmt.getD 0 = c := by rw [hm]; rfl

include hm in
theorem core_implements {k : Csr} (hk : csrOnMgmt k = true) : (s.onMgmt.isSome && !csrOnMgmt k) = false := by rw [hm, hk]; rfl

include hl in
theorem csrLevel_machine (csr : BitVec 12) : csrLevel s.hart.level csr = true := by rw [hl]; rfl

include h hm hl hf

/-- csrr of a register of a management core (R378). -/
theorem csrr_core {csr : BitVec 12} {k : Csr} {d : BitVec 5} {v : Word} (hc : csrOf csr = some k) (hv : csrGet s c k = v)
    (hk : csrOnMgmt k = true := by decide) (ht : k ≠ .time := by decide) : exec (.csrr d csr) s = .next (next (putDest d v) s) := by
  have e := csrr_gives h hc (core_index hm) (core_implements hm hk) (csrLevel_machine hl csr) d ht
  rwa [reached_free hf, hv] at e

/-- The writing forms of a machine register that takes every value (R138, R378). -/
theorem csr_core_writes {csr : BitVec 12} {k : Csr} {old : Word} (d a : BitVec 5) (hc : csrOf csr = some k) (hv : csrGet s c k = old)
    (hk : csrOnMgmt k = true := by exact rfl) (hro : csrReadOnly k = false := by exact rfl)
    (hq : ∀ v t, (csrPut t c k v).hart.queue = t.hart.queue := by exact fun _ _ => rfl)
    (hr : ∀ t v, csrRejects t k v = false := by exact fun _ _ => rfl) :
    exec (.csrw d a csr) s = .next (next (putDest d old) (csrPut s c k (x s a))) ∧
      (a ≠ 0 → exec (.csrs d a csr) s = .next (next (putDest d old) (csrPut s c k (old ||| x s a))) ∧
        exec (.csrc d a csr) s = .next (next (putDest d old) (csrPut s c k (old &&& ~~~x s a)))) := by
  subst hv
  have e := csr_forms h (core_index hm) (core_implements hm hk) (csrLevel_machine hl csr) d a hc hro hq hr
  rw [reached_free hf] at e
  exact e.2

/-- A write of DBGCTL or PWRCFG that the register takes (R404, R419). -/
theorem csrw_core {csr : BitVec 12} {k : Csr} (d a : BitVec 5) (hc : csrOf csr = some k) (hro : csrReadOnly k = false) (hk : csrOnMgmt k = true)
    (hr : csrRejects s k (x s a) = false) (hh : sameHart s (csrPut s c k (x s a))) :
    exec (.csrw d a csr) s = .next (next (putDest d (csrGet s c k)) (csrPut s c k (x s a))) := by
  have e := csrw_gives h hc (core_index hm) (core_implements hm hk) (csrLevel_machine hl csr) d a hro hr
  rw [reached_free hf] at e
  exact e (by rw [hh]; exact h.1)

theorem pwrcfg_rejected (d a : BitVec 5) (hr : csrRejects s .pwrcfg (x s a) = true) :
    exec (.csrw d a 0x209) s = .next (takeTrap s causeILL (csrWord 1 d a 0x209) s.hart.sc.pc false false) := by
  have e := csrw_rejected h (csr := 0x209) (c := .pwrcfg) rfl (core_implements hm rfl) (csrLevel_machine hl _) d a rfl hr
  rwa [reached_free hf] at e
end

/-- RESHAPE of a ring (R402). -/
def reshapeWord (r : Ring) : Word := (0#32 : BitVec 32) ++ r.reshapeCap ++ (0#14 : BitVec 14) ++ r.reshapeShape ++ BitVec.ofBool r.reshapePend

theorem reshape_fields (r : Ring) :
    reshapeWord r = (r.reshapeCap ++ (0#14 : BitVec 14) ++ r.reshapeShape ++ BitVec.ofBool r.reshapePend).setWidth 64 :=
  field_below _ (field_below _ (field_below _ (zeros_above 32 _)))

theorem mstat_fields (s : State) (c : BitVec 1) : csrGet s c .mstat =
    (BitVec.ofBool (s.mgmtAt c).mnest ++ BitVec.ofBool (s.mgmtAt c).mpie ++ BitVec.ofBool (s.mgmtAt c).mie).setWidth 64 :=
  field_below _ (field_below _ (zeros_above 61 _))

theorem pwrcfg_fields (s : State) (c : BitVec 1) : csrGet s c .pwrcfg = (BitVec.ofBool (s.mgmtAt 0).pwrBoost ++ (0#6 : BitVec 6) ++ (s.mgmtAt 0).pwrCeil
    ++ (0#6 : BitVec 6) ++ (s.mgmtAt 0).pwrFloor).setWidth 64 :=
  field_below _ (field_below _ (field_below _ (field_below _ (zeros_above 31 _))))

/-- FLOOR ≤ 420 ≤ CEIL, of a value's fields (R419). -/
theorem pwrFields_legal (v : Word) :
    (pwrFields v).legal = true ↔ (v.extractLsb' 0 10 : BitVec 10).toNat ≤ 420 ∧ 420 ≤ (v.extractLsb' 16 10 : BitVec 10).toNat :=
  decide_eq_true_iff

theorem csrPut_pwrcfg (s : State) (c : BitVec 1) (v : Word) : csrPut s c .pwrcfg v = writePwrcfg s v := rfl

/-- Settles O9: each register by its number, with the value of its fields, and what its write changes. -/
theorem csrResults : Obligations.CsrResults := by
  refine ⟨fun s d h hm => ⟨?_, fun a ha => ?_, ?_, fun hl => ?_, fun csr c hc hl => csr_zero_reads h hc (span_implements hm c) hl d⟩,
    fun s d a h hm => ⟨?_, fun hl => ⟨fun hr => ?_, fun hr hv => ?_⟩⟩, fun s d a c h hm hl hf => ⟨?_, ?_, ?_, fun hv1 hv2 => ?_, fun hv => ?_⟩⟩
  · simp only [List.forall_mem_cons]
    exact ⟨csrr_user h hm rfl rfl, csrr_user h hm rfl (vtype_fields _), csrr_user h hm rfl rfl, csrr_user h hm rfl rfl, csrr_user h hm rfl rfl,
      csrr_user h hm rfl (vcp_empty h.1 0), csrr_user h hm rfl (fcsr_fields _), csrr_user h hm rfl (vmode_bit s 0), csrr_user h hm rfl (pfxst_fields _),
      csrr_user h hm rfl rfl, csrr_user h hm rfl rfl, csrr_user h hm rfl (field_below _ (field_below _ (zeros_above 44 _))),
      csrr_user h hm rfl rfl, csrr_user h hm rfl (field_below _ (field_below _ (zeros_above 44 _))),
      csrr_user h hm rfl (ringsz_fields h.1 0), csrr_user h hm rfl (field_below _ (zeros_above 44 _)), csrr_user h hm rfl rfl, csrr_user h hm rfl rfl,
      csrr_user h hm rfl rfl, csrr_user h hm rfl (cycle_die hm 0), fun _ hp => absurd hp List.not_mem_nil⟩
  · have hv : csrGet s 0 .mbxstat = a.mbxstat := by
      show (match residentActor s with | some x => x.mbxstat | none => 0) = _
      rw [ha]
    exact ⟨_, csrr_user h hm rfl hv, mbxstat_fields a⟩
  · exact csrr_time h hm d
  · have vlcap : csrGet (flushWritten s) 0 .vlcap = s.ring.vlcap.setWidth 64 := by
      show ((flushWritten s).hart.shapeSeen (flushWritten s).ring).vlcap.setWidth 64 = _
      rw [shapeSeen_empty (flushWritten_settled h).1, flushWritten_ring]
    simp only [List.forall_mem_cons]
    exact ⟨csrr_ring h hm hl (·.epc) rfl rfl, csrr_ring h hm hl (·.ecause.setWidth 64) rfl rfl, csrr_ring h hm hl (·.eval) rfl rfl,
      csrr_ring h hm hl (·.estat) rfl (estat_fields _), csrr_ring h hm hl (·.evec) rfl rfl, csrr_supervisor h hm hl rfl vlcap,
      csrr_ring h hm hl (fun r => r.ptbase.setWidth 64 <<< 17) rfl rfl, csrr_ring h hm hl (·.jid.setWidth 64) rfl rfl,
      csrr_ring h hm hl (·.gangcfg.setWidth 64) rfl rfl, csrr_ring h hm hl reshapeWord rfl (reshape_fields _),
      csrr_ring h hm hl (·.quantum.setWidth 64) rfl rfl, fun _ hp => absurd hp List.not_mem_nil⟩
  · simp only [List.forall_mem_cons]
    exact ⟨csr_span_forms h hm d a (c := .vstart) rfl, csr_span_forms h hm d a (c := .fcsr) rfl, csr_span_forms h hm d a (c := .vmode) rfl,
      csr_span_forms h hm d a (c := .pfxst) rfl, csr_span_forms h hm d a (c := .livein) rfl, csr_span_forms h hm d a (c := .epc) rfl,
      csr_span_forms h hm d a (c := .ecause) rfl, csr_span_forms h hm d a (c := .eval) rfl, csr_span_forms h hm d a (c := .estat) rfl,
      csr_span_forms h hm d a (c := .evec) rfl, csr_span_forms h hm d a (c := .ptbase) rfl, csr_span_forms h hm d a (c := .jidcur) rfl,
      csr_span_forms h hm d a (c := .quantum) rfl, fun _ hp => absurd hp List.not_mem_nil⟩
  · exact gangcfg_latches h hm d a hl (Bool.and_eq_false_iff.mpr (hr.symm))
  · exact gangcfg_rejected h hm d a hl (Bool.and_eq_true_iff.mpr ⟨hv, hr⟩)
  · have dbgctl : csrGet s c .dbgctl = _ := (dbgctl_fields s c).trans (by rw [haltedBits_sum])
    simp only [List.forall_mem_cons]
    exact ⟨csrr_core h hm hl hf rfl (fcsr_fields _), csrr_core h hm hl hf rfl (cycle_mgmt hm c), csrr_core h hm hl hf rfl rfl,
      csrr_core h hm hl hf rfl rfl, csrr_core h hm hl hf rfl rfl, csrr_core h hm hl hf rfl (mstat_fields s c), csrr_core h hm hl hf rfl rfl,
      csrr_core h hm hl hf rfl dbgctl, csrr_core h hm hl hf rfl (pwrcfg_fields s c), fun _ hp => absurd hp List.not_mem_nil⟩
  · simp only [List.forall_mem_cons]
    exact ⟨csr_core_writes h hm hl hf d a (k := .mepc) rfl rfl, csr_core_writes h hm hl hf d a (k := .mcause) rfl rfl,
      csr_core_writes h hm hl hf d a (k := .mval) rfl rfl, csr_core_writes h hm hl hf d a (k := .mstat) rfl (mstat_fields s c),
      csr_core_writes h hm hl hf d a (k := .mvec) rfl rfl, fun _ hp => absurd hp List.not_mem_nil⟩
  · have e := csrw_core h hm hl hf (csr := 0x208) (k := .dbgctl) d a rfl rfl rfl rfl (writeDbgctl_hart s c _)
    rw [dbgctl_fields, haltedBits_sum] at e
    exact ⟨_, _, rfl, rfl, e⟩
  · have legal : (pwrFields (x s a)).legal = true := (pwrFields_legal _).mpr ⟨hv1, hv2⟩
    have e := csrw_core h hm hl hf (csr := 0x209) (k := .pwrcfg) d a rfl rfl rfl (congrArg (!·) legal)
      (by rw [csrPut_pwrcfg]; exact writePwrcfg_hart s _)
    rw [pwrcfg_fields, csrPut_pwrcfg] at e
    exact ⟨_, congrArg Host.Outcome.next (if_pos legal), e⟩
  · have illegal : (pwrFields (x s a)).legal = false := Bool.eq_false_iff.mpr fun e => by
      obtain ⟨low, high⟩ := (pwrFields_legal _).mp e
      omega
    exact pwrcfg_rejected h hm hl hf d a (congrArg (!·) illegal)

/-! ### Floating-point results (R124 to R131) -/

/-- The result of a compare with its flags, as one test of the data (R128). -/
theorem cmp_result (test : Ordering → Bool) (sig : Bool) (u w : FVal) :
    ((if (cmpFlags test sig u w).1 then 1 else 0, (cmpFlags test sig u w).2) : Nat × Flags) =
      if u.isNan || w.isNan then (0, if sig then flagNV else u.nv ||| w.nv) else (if test (cmpVal u w) then 1 else 0, 0) := by
  unfold cmpFlags
  split <;> rfl

section
variable {s : State} (h : ready s) {d a b c : BitVec 5} {ty src : BitVec 2} {rm : BitVec 3} {r : Nat × Flags}
include h

theorem opFF_gives {f : FFmt → RMode → Nat → Nat → Nat × Flags}
    (e : f (scalarFmt ty) (roundMode s.hart.sc rm) (fpBits (scalarFmt ty) (x s a)) (fpBits (scalarFmt ty) (x s b)) = r) :
    runScalar (opFF d a b ty rm f) s = .next (fpNext d r s) := e ▸ opFF_next h d a b ty rm f

theorem opF_gives {f : FFmt → RMode → Nat → Nat × Flags} (e : f (scalarFmt ty) (roundMode s.hart.sc rm) (fpBits (scalarFmt ty) (x s a)) = r) :
    runScalar (opF d a ty rm f) s = .next (fpNext d r s) := e ▸ opF_next h d a ty rm f

/-- A compare completes with 0 or 1, and with the flags of its test (R128). -/
theorem opFcmp_gives (test : Ordering → Bool) (sig : Bool) : runScalar (opFcmp d a b ty test sig) s =
    (let t := scalarFmt ty
    let u := t.decode (fpBits t (x s a))
    let w := t.decode (fpBits t (x s b))
    .next (fpNext d (if u.isNan || w.isNan then (0, if sig then flagNV else u.nv ||| w.nv) else (if test (cmpVal u w) then 1 else 0, 0)) s)) := by
  rw [opFcmp_next h, cmp_result]

/-- A conversion to a floating-point format completes with its result and flags (R131). -/
theorem fcvtFF_gives : exec (.fcvtFF d a src ty rm) s =
    .next (fpNext d (convFF (scalarFmt src) (scalarFmt ty) (roundMode s.hart.sc rm) (fpBits (scalarFmt src) (x s a))) s) :=
  runScalar_ok (by rw [bind_ok (rdX_ready h a), bind_ok (get_apply s), bind_ok (wrFp_ready h.1 d _)]; rfl)

theorem fcvtFI_gives {n : Int} (e : cvtInt src (x s a) = n) : exec (.fcvtFI d a src ty rm) s =
    .next (fpNext d (convIF (scalarFmt ty) (roundMode s.hart.sc rm) n) s) := by
  subst e
  exact runScalar_ok (by rw [bind_ok (rdX_ready h a), bind_ok (get_apply s), bind_ok (wrFp_ready h.1 d _)]; rfl)

/-- A conversion to an integer type completes with its result, extended, and its flags (R131). -/
theorem fcvtIF_gives : exec (.fcvtIF d a src ty rm) s =
    (let r := convFI (scalarFmt ty) (roundMode s.hart.sc rm) (cvtType src).1 (cvtType src).2 (fpBits (scalarFmt ty) (x s a))
    .next (next (fun h => raise r.2 (putDest d (BitVec.ofInt 64 r.1) h)) s)) :=
  runScalar_ok (by rw [bind_ok (rdX_ready h a), bind_ok (get_apply s), bind_ok (wrX_ready h.1 d _), bind_ok (raiseFlags_apply _ _)]; rfl)
end

/-- The integer operand that a type code names (R87). -/
theorem cvtInt_cases (code : BitVec 2) (v : Word) :
    cvtInt code v = match code.toNat with
      | 0 => v.toInt
      | 1 => v.toNat
      | 2 => (v.setWidth 32).toInt
      | _ => (v.setWidth 32).toNat := by
  match code with
  | 0#2 => rfl
  | 1#2 => rfl
  | 2#2 => rfl
  | 3#2 => rfl

/-- The integer type that a code names (R87). -/
theorem cvtType_bits (code : BitVec 2) : cvtType code = (code.getLsbD 0 == false, if code.getLsbD 1 then 32 else 64) := by
  match code with
  | 0#2 => rfl
  | 1#2 => rfl
  | 2#2 => rfl
  | 3#2 => rfl

/-! ### Sign injection (R130) -/

theorem raise_zero (h : Hart) : raise 0 h = h := by
  have flags : h.sc.flags ||| 0 = h.sc.flags := BitVec.or_zero
  unfold raise
  rw [flags]

/-- A scalar format is its sign bit over the bits below, in a word. -/
theorem scalarFmt_width (ty : BitVec 2) : (scalarFmt ty).width = (scalarFmt ty).eb + (scalarFmt ty).fb + 1 ∧ (scalarFmt ty).eb + (scalarFmt ty).fb < 64 := by
  match ty with
  | 0#2 => decide
  | 1#2 => decide
  | 2#2 => decide
  | 3#2 => decide

/-- The bits of an operand are the low bits of its register. -/
theorem fpBits_testBit {f : FFmt} {i : Nat} (hi : i < f.width) (u : Word) : (fpBits f u).testBit i = u.getLsbD i := by
  unfold fpBits
  rw [Nat.testBit_mod_two_pow, decide_eq_true hi, Bool.true_and]
  rfl

/-- The bits of a sign injection: those of x below the sign, the new sign, and none above it. -/
theorem signInject_testBit {f : FFmt} {k : Nat} (hk : f.width = k + 1) (hs : f.eb + f.fb = k) (op : Bool → Bool → Bool) (u w i : Nat) :
    (signInject f op u w).testBit i = if i < k then u.testBit i else decide (i = k) && op (u.testBit k) (w.testBit k) := by
  have e : signInject f op u w = 2 ^ k * (op (u.testBit k) (w.testBit k)).toNat + u % 2 ^ k := by
    unfold signInject FFmt.signBit
    rw [hk, hs, Nat.add_sub_cancel, Nat.add_comm]
    cases op (u.testBit k) (w.testBit k) <;> simp
  rw [e, Nat.testBit_two_pow_mul_add _ (Nat.mod_lt _ (Nat.two_pow_pos k))]
  by_cases hi : i < k
  · rw [if_pos hi, if_pos hi, Nat.testBit_mod_two_pow, decide_eq_true hi, Bool.true_and]
  · rw [if_neg hi, if_neg hi, Nat.testBit_bool_toNat]
    congr 1
    exact decide_eq_decide.mpr (by omega)

/-- A sign injected over the bits of x below the sign (R130). -/
theorem signInject_bits (ty : BitVec 2) (op : Bool → Bool → Bool) (u w : Word) :
    let f := scalarFmt ty
    let v : Word := BitVec.ofNat 64 (signInject f op (fpBits f u) (fpBits f w))
    (∀ i < f.width - 1, v.getLsbD i = u.getLsbD i) ∧ v.getLsbD (f.width - 1) = op (u.getLsbD (f.width - 1)) (w.getLsbD (f.width - 1)) ∧
      ∀ i ≥ f.width, v.getLsbD i = false := by
  intro f v
  obtain ⟨k, hs⟩ : ∃ k, f.eb + f.fb = k := ⟨_, rfl⟩
  obtain ⟨hw, hk⟩ := scalarFmt_width ty
  replace hw : f.width = k + 1 := hs ▸ hw
  replace hk : k < 64 := hs ▸ hk
  have bit (i : Nat) : v.getLsbD i = (decide (i < 64) && if i < k then (fpBits f u).testBit i else
      decide (i = k) && op ((fpBits f u).testBit k) ((fpBits f w).testBit k)) := by
    rw [BitVec.getLsbD_ofNat, signInject_testBit hw hs]
  rw [hw, Nat.add_sub_cancel]
  refine ⟨fun i hi => ?_, ?_, fun i hi => ?_⟩
  · rw [bit, if_pos hi, fpBits_testBit (by omega), decide_eq_true (by omega), Bool.true_and]
  · rw [bit, if_neg (Nat.lt_irrefl k), fpBits_testBit (by omega), fpBits_testBit (by omega), decide_eq_true hk]
    simp
  · rw [bit, if_neg (by omega), decide_eq_false (by omega : ¬ i = k)]
    simp

/-- A sign injection completes, and raises nothing. -/
theorem signInject_gives {s : State} (h : ready s) {d a b : BitVec 5} {ty : BitVec 2} (op : Bool → Bool → Bool) {i : Instr}
    (hi : exec i s = runScalar (opFF d a b ty 0 fun t _ x y => (signInject t op x y, 0)) s) :
    let w := (scalarFmt ty).width
    ∃ v : Word, (∀ i < w - 1, v.getLsbD i = (x s a).getLsbD i) ∧ v.getLsbD (w - 1) = op ((x s a).getLsbD (w - 1)) ((x s b).getLsbD (w - 1)) ∧
      (∀ i ≥ w, v.getLsbD i = false) ∧ exec i s = .next (next (putDest d v) s) := by
  obtain ⟨below, sign, above⟩ := signInject_bits ty op (x s a) (x s b)
  refine ⟨_, below, sign, above, hi.trans ((opFF_next h d a b ty 0 _).trans ?_)⟩
  unfold fpNext
  simp only [raise_zero]

/-- Settles O2: each instruction writes its operation's result and raises its flags; sign injection is one on bits (`signInject_bits`). -/
theorem floatResults : Obligations.FloatResults := by
  refine ⟨fun s d a b c ty src rm h => ?_, fun s d a b ty h => ?_⟩
  · intro t m bits u w z test int
    refine ⟨?_, fun r hr => ?_⟩
    · simp only [List.forall_mem_cons]
      exact ⟨opFF_gives h rfl, opFF_gives h rfl, opFF_gives h rfl, opFF_gives h rfl, opF_gives h rfl, opFma_next h .., opFma_next h ..,
        opFma_next h .., opFF_gives h rfl, opFF_gives h rfl, opFcmp_gives h _ _, opFcmp_gives h _ _, opFcmp_gives h _ _,
        opF_gives h (r := (classBits t (bits t a), 0)) rfl, fcvtFF_gives h,
        fcvtFI_gives h (cvtInt_cases ..), fun _ hp => absurd hp List.not_mem_nil⟩
    · subst hr
      have e := fcvtIF_gives h (d := d) (a := a) (ty := ty) (src := src) (rm := rm)
      rw [cvtType_bits] at e
      exact e
  · intro w sx sy
    simp only [List.forall_mem_cons]
    exact ⟨signInject_gives h (fun _ q => q) rfl, signInject_gives h (fun _ q => !q) rfl, signInject_gives h (fun p q => p != q) rfl,
      fun _ hp => absurd hp List.not_mem_nil⟩

/-! ### The special cases of the arithmetic forms (R55, R57, R125) -/

/-- The canonical NaN of a scalar format, as a word (R53). -/
def nanWord (ty : BitVec 2) : Word := match ty.toNat with | 0 => 0x7FF8000000000000 | 1 => 0x7FC00000 | 2 => 0x7E00 | _ => 0x7FC0

/-- Its positive infinity. -/
def infWord (ty : BitVec 2) : Word := match ty.toNat with | 0 => 0x7FF0000000000000 | 1 => 0x7F800000 | 2 => 0x7C00 | _ => 0x7F80

/-- A word with the sign of its format. -/
def signedWord (ty : BitVec 2) (n : Bool) (v : Word) : Word := if n then v ||| 1#64 <<< ((scalarFmt ty).width - 1) else v

theorem ofNat_nan (ty : BitVec 2) : BitVec.ofNat 64 (scalarFmt ty).nan = nanWord ty := by
  match ty with
  | 0#2 => rfl
  | 1#2 => rfl
  | 2#2 => rfl
  | 3#2 => rfl

theorem ofNat_inf (ty : BitVec 2) (n : Bool) : BitVec.ofNat 64 ((scalarFmt ty).inf n) = signedWord ty n (infWord ty) := by
  match ty with
  | 0#2 => cases n <;> rfl
  | 1#2 => cases n <;> rfl
  | 2#2 => cases n <;> rfl
  | 3#2 => cases n <;> rfl

theorem ofNat_zero (ty : BitVec 2) (n : Bool) : BitVec.ofNat 64 ((scalarFmt ty).signBit n) = signedWord ty n 0 := by
  match ty with
  | 0#2 => cases n <;> rfl
  | 1#2 => cases n <;> rfl
  | 2#2 => cases n <;> rfl
  | 3#2 => cases n <;> rfl

/-- A result is a word with flags. -/
def spells (r : Nat × Flags) (v : Word) (f : Flags) : Prop := BitVec.ofNat 64 r.1 = v ∧ r.2 = f

/-- NV stands for a signalling operand (R57). -/
theorem nv_either (u w : FVal) : u.nv ||| w.nv = if u = .nan true ∨ w = .nan true then flagNV else 0 := by
  have one (u : FVal) : u.nv = if u = .nan true then flagNV else 0 := by
    rcases u with (_ | _) | _ | _ <;> rfl
  rw [one u, one w]
  by_cases hu : u = .nan true <;> by_cases hw : w = .nan true <;> simp [hu, hw]

theorem negate_nan (w : FVal) (b : Bool) : w.negate = .nan b ↔ w = .nan b := by
  rcases w with _ | _ | _ <;> simp [FVal.negate]

section
variable (ty : BitVec 2) (m : RMode)

/-! A NaN operand gives the canonical NaN. -/

theorem spells_nan {op : FVal → FVal → Nat × Flags} {u w : FVal}
    (left : ∀ n w, op (.nan n) w = ((scalarFmt ty).nan, FVal.nv (.nan n) ||| w.nv))
    (right : ∀ u n, op u (.nan n) = ((scalarFmt ty).nan, u.nv ||| FVal.nv (.nan n))) (h : ∃ n, u = .nan n ∨ w = .nan n) :
    spells (op u w) (nanWord ty) (if u = .nan true ∨ w = .nan true then flagNV else 0) := by
  rw [← nv_either]
  obtain ⟨n, rfl | rfl⟩ := h
  · rw [left]
    exact ⟨ofNat_nan ty, rfl⟩
  · rw [right]
    exact ⟨ofNat_nan ty, rfl⟩

theorem add_nan {u w : FVal} : (∃ n, u = .nan n ∨ w = .nan n) →
    spells (addVal (scalarFmt ty) m u w) (nanWord ty) (if u = .nan true ∨ w = .nan true then flagNV else 0) :=
  spells_nan ty (fun _ _ => rfl) fun u _ => by cases u <;> rfl

theorem mul_nan {u w : FVal} : (∃ n, u = .nan n ∨ w = .nan n) →
    spells (mulVal (scalarFmt ty) m u w) (nanWord ty) (if u = .nan true ∨ w = .nan true then flagNV else 0) :=
  spells_nan ty (fun _ _ => rfl) fun u _ => by cases u <;> rfl

theorem div_nan {u w : FVal} : (∃ n, u = .nan n ∨ w = .nan n) →
    spells (divVal (scalarFmt ty) m u w) (nanWord ty) (if u = .nan true ∨ w = .nan true then flagNV else 0) :=
  spells_nan ty (fun _ _ => rfl) fun u _ => by cases u <;> rfl

/-! Sums: an infinity stays, but for infinities of opposite signs. -/

theorem add_inf_inf (p q : Bool) : spells (addVal (scalarFmt ty) m (.inf p) (.inf q))
    (if p = q then signedWord ty p (infWord ty) else nanWord ty) (if p = q then 0 else flagNV) := by
  rcases eq_or_ne p q with rfl | hn
  · rw [if_pos rfl, if_pos rfl]
    cases p <;> exact ⟨ofNat_inf ty _, rfl⟩
  · rw [if_neg hn, if_neg hn]
    obtain rfl := Bool.eq_not_of_ne hn
    cases q <;> exact ⟨ofNat_nan ty, rfl⟩

theorem add_zero_zero (p q : Bool) (e g : Int) : spells (addVal (scalarFmt ty) m (.fin p 0 e) (.fin q 0 g))
    (signedWord ty (if p = q then p else m = 2) 0) 0 := by
  have sign : (if p = q then p else decide (m = 2)) = if p == q then p else m == 2#2 := by
    simp only [beq_iff_eq]
    rfl
  rw [sign]
  exact ⟨ofNat_zero ty _, rfl⟩

/-! Products and quotients: the sign is that of the operands' signs together, and 0 × ∞, ∞ / ∞ and 0 / 0 are invalid. -/

theorem mul_inf_fin (p q : Bool) (n : Nat) (e : Int) : spells (mulVal (scalarFmt ty) m (.inf p) (.fin q n e))
    (if n = 0 then nanWord ty else signedWord ty (p != q) (infWord ty)) (if n = 0 then flagNV else 0) := by
  cases n
  · exact ⟨ofNat_nan ty, rfl⟩
  · exact ⟨ofNat_inf ty _, rfl⟩

theorem mul_fin_inf (p q : Bool) (n : Nat) (e : Int) : spells (mulVal (scalarFmt ty) m (.fin p n e) (.inf q))
    (if n = 0 then nanWord ty else signedWord ty (p != q) (infWord ty)) (if n = 0 then flagNV else 0) := by
  cases n
  · exact ⟨ofNat_nan ty, rfl⟩
  · exact ⟨ofNat_inf ty _, rfl⟩

theorem div_fin_zero (p q : Bool) (n : Nat) (e g : Int) : spells (divVal (scalarFmt ty) m (.fin p n e) (.fin q 0 g))
    (if n = 0 then nanWord ty else signedWord ty (p != q) (infWord ty)) (if n = 0 then flagNV else flagDZ) := by
  cases n
  · exact ⟨ofNat_nan ty, rfl⟩
  · exact ⟨ofNat_inf ty _, rfl⟩

/-! Roots. -/

theorem sqrt_negative {n : Nat} (hn : n ≠ 0) (e : Int) : spells (sqrtVal (scalarFmt ty) m (.fin true n e)) (nanWord ty) flagNV := by
  cases n
  · exact absurd rfl hn
  · exact ⟨ofNat_nan ty, rfl⟩

theorem sqrt_nan (b : Bool) : spells (sqrtVal (scalarFmt ty) m (.nan b)) (nanWord ty) (if b then flagNV else 0) := by
  cases b <;> exact ⟨ofNat_nan ty, rfl⟩
end

/-- Settles O3: each form's operation at its operands' data, by the cases of their kinds. -/
theorem floatSpecialCases : Obligations.FloatSpecialCases := by
  intro s d a b ty rm h t dat nan inf sign signed gives nv dz
  let m := roundMode s.hart.sc rm
  have writes {i : Instr} {r : Nat × Flags} {v : Word} {f : Flags} (hi : exec i s = .next (fpNext d r s)) (e : spells r v f) : gives i v f := by
    obtain ⟨rfl, rfl⟩ := e
    exact hi
  have add {u w : FVal} {v : Word} {f : Flags} (hu : dat a = u) (hw : dat b = w) (e : spells (addVal t m u w) v f) : gives (.fadd d a b ty rm) v f :=
    writes (opFF_gives h (by rw [← hu, ← hw]; rfl)) e
  have sub {u w : FVal} {v : Word} {f : Flags} (hu : dat a = u) (hw : dat b = w) (e : spells (addVal t m u w.negate) v f) :
      gives (.fsub d a b ty rm) v f := writes (opFF_gives h (by rw [← hu, ← hw]; rfl)) e
  have mul {u w : FVal} {v : Word} {f : Flags} (hu : dat a = u) (hw : dat b = w) (e : spells (mulVal t m u w) v f) : gives (.fmul d a b ty rm) v f :=
    writes (opFF_gives h (by rw [← hu, ← hw]; rfl)) e
  have div {u w : FVal} {v : Word} {f : Flags} (hu : dat a = u) (hw : dat b = w) (e : spells (divVal t m u w) v f) : gives (.fdiv d a b ty rm) v f :=
    writes (opFF_gives h (by rw [← hu, ← hw]; rfl)) e
  have root {u : FVal} {v : Word} {f : Flags} (hu : dat a = u) (e : spells (sqrtVal t m u) v f) : gives (.fsqrt d a ty rm) v f :=
    writes (opF_gives h (by rw [← hu]; rfl)) e
  refine ⟨fun hn => ?_, fun p q ha hb => ⟨add ha hb (add_inf_inf ..), sub ha hb ?_, mul ha hb ⟨ofNat_inf .., rfl⟩, div ha hb ⟨ofNat_nan .., rfl⟩⟩,
    fun p q n e ha hb => ⟨add ha hb ⟨ofNat_inf .., rfl⟩, sub ha hb ⟨ofNat_inf .., rfl⟩, mul ha hb (mul_inf_fin ..),
      div ha hb ⟨ofNat_inf .., rfl⟩⟩,
    fun p q n e ha hb => ⟨add ha hb ⟨ofNat_inf .., rfl⟩, sub ha hb ⟨ofNat_inf .., rfl⟩, mul ha hb (mul_fin_inf ..),
      div ha hb ⟨ofNat_zero .., rfl⟩⟩,
    fun p q n e g ha hb => div ha hb (div_fin_zero ..), fun p q e g ha hb => ⟨add ha hb (add_zero_zero ..), sub ha hb ?_⟩,
    fun p e ha => root ha ⟨ofNat_zero .., rfl⟩, fun n e hn ha => root ha (sqrt_negative ty m hn e), fun ha => root ha ⟨ofNat_nan .., rfl⟩,
    fun ha => root ha ⟨ofNat_inf ty false, rfl⟩, fun n ha => root ha (sqrt_nan ty m n)⟩
  · have hs : ∃ n, dat a = .nan n ∨ (dat b).negate = .nan n := by simpa only [negate_nan] using hn
    have e := add_nan ty m hs
    simp only [negate_nan] at e
    simp only [List.forall_mem_cons]
    exact ⟨add rfl rfl (add_nan ty m hn), sub rfl rfl e, mul rfl rfl (mul_nan ty m hn), div rfl rfl (div_nan ty m hn),
      fun _ hp => absurd hp List.not_mem_nil⟩
  · have e := add_inf_inf ty m p (!q)
    cases p <;> cases q <;> exact e
  · have e' := add_zero_zero ty m p (!q) e g
    cases p <;> cases q <;> exact e'

/-! ### Loads and stores as computations (R135, R136) -/

/-- The loads with their sizes and what they make of the bytes (R135). -/
def loadForms (d a : BitVec 5) (off : BitVec 13) : List (Instr × Nat × (Word → Word)) :=
  [(.ldb d a off, 1, fun v => (v.setWidth 8).signExtend 64), (.ldbu d a off, 1, id), (.ldh d a off, 2, fun v => (v.setWidth 16).signExtend 64),
    (.ldhu d a off, 2, id), (.ldw d a off, 4, fun v => (v.setWidth 32).signExtend 64), (.ldwu d a off, 4, id), (.ldd d a off, 8, id)]

/-- The stores with their sizes. -/
def storeForms (d a : BitVec 5) (off : BitVec 13) : List (Instr × Nat) := [(.stb d a off, 1), (.sth d a off, 2), (.stw d a off, 4), (.std d a off, 8)]

/-- The two's-complement reading of the low b bits of a number, as a word (R135). -/
theorem ofInt_signedOf {b : Nat} (h0 : 0 < b) (hb : b ≤ 64) (v : Nat) :
    BitVec.ofInt 64 (signedOf b v) = ((BitVec.ofNat 64 v).setWidth b).signExtend 64 := by
  have low : ((BitVec.ofNat 64 v).setWidth b).toNat = v % 2 ^ b := by
    rw [BitVec.toNat_setWidth, BitVec.toNat_ofNat, Nat.mod_mod_of_dvd _ (Nat.pow_dvd_pow 2 hb)]
  have half : 2 ^ (b - 1) * 2 = 2 ^ b := Nat.two_pow_pred_mul_two h0
  have e : ((BitVec.ofNat 64 v).setWidth b).toInt = signedOf b v := by
    rw [BitVec.toInt_eq_toNat_cond, low]
    unfold signedOf lowBits
    by_cases hn : 2 ^ (b - 1) ≤ v % 2 ^ b
    · rw [if_neg (by omega), if_pos ⟨by omega, hn⟩]
    · rw [if_pos (by omega), if_neg fun e => hn e.2]
  rw [← e]
  rfl

/-- What a load instruction is: a load of its size, extended (R135). -/
theorem loadForms_run {d a : BitVec 5} {off : BitVec 13} : ∀ p ∈ loadForms d a off, p.2.1 < 256 ∧ ∃ signed,
    (∀ s, exec p.1 s = runScalar (opLoad d a off p.2.1 signed) s) ∧
      ∀ v, (if signed then BitVec.ofInt 64 (signedOf (8 * p.2.1) v) else BitVec.ofNat 64 v) = p.2.2 (BitVec.ofNat 64 v) := by
  unfold loadForms
  simp only [List.forall_mem_cons]
  exact ⟨⟨by decide, true, fun _ => rfl, ofInt_signedOf (b := 8) (by decide) (by decide)⟩, ⟨by decide, false, fun _ => rfl, fun _ => rfl⟩,
    ⟨by decide, true, fun _ => rfl, ofInt_signedOf (b := 16) (by decide) (by decide)⟩, ⟨by decide, false, fun _ => rfl, fun _ => rfl⟩,
    ⟨by decide, true, fun _ => rfl, ofInt_signedOf (b := 32) (by decide) (by decide)⟩, ⟨by decide, false, fun _ => rfl, fun _ => rfl⟩,
    ⟨by decide, false, fun _ => rfl, fun _ => rfl⟩, fun _ hp => absurd hp List.not_mem_nil⟩

/-- What a store instruction is. -/
theorem storeForms_run {d a : BitVec 5} {off : BitVec 13} : ∀ p ∈ storeForms d a off, ∀ s, exec p.1 s = runScalar (opStore d a off p.2) s := by
  unfold storeForms
  simp only [List.forall_mem_cons]
  exact ⟨fun _ => rfl, fun _ => rfl, fun _ => rfl, fun _ => rfl, fun _ hp => absurd hp List.not_mem_nil⟩

section
variable {s t : State} (h : ready s) {d a : BitVec 5} {off : BitVec 13} {n : Nat} {va : Word} (hva : x s a + off.signExtend 64 = va)
include h hva

theorem memAddr_ready : memAddr a off s = .ok va s := by
  subst hva
  exact bind_ok (rdX_ready h a)

/-- A load writes what it has read, extended (R135, R136). -/
theorem opLoad_gives {signed : Bool} {v : Nat} {w : Word} (hl : load va n s = .ok v t) (hq : t.hart.queue = s.hart.queue)
    (hw : (if signed then BitVec.ofInt 64 (signedOf (8 * n) v) else BitVec.ofNat 64 v) = w) :
    runScalar (opLoad d a off n signed) s = .next (next (putDest d w) t) := by
  subst hw
  refine runScalar_ok (t := { t with hart := { putDest d _ t.hart with
    sc := { (putDest d _ t.hart).sc with pc := (putDest d _ t.hart).sc.pc + 4 } } }) ?_
  unfold opLoad
  rw [bind_ok (memAddr_ready h hva), bind_ok hl, bind_ok (wrX_ready (fun r => by rw [hq]; exact h.1 r) d _)]
  rfl

theorem opLoad_stops {signed : Bool} {e : Stop} (hl : load va n s = .error e t) : opLoad d a off n signed s = .error e t := by
  unfold opLoad
  rw [bind_ok (memAddr_ready h hva)]
  exact bind_error hl

variable (hq : s.hart.queue = [])
include hq

/-- A store stores s[d], and nothing more (R135). -/
theorem opStore_runs : opStore d a off n s = (store va n (x s d).toNat >>= fun _ => nextPc) s := by
  unfold opStore
  rw [bind_ok (memAddr_ready h hva), bind_ok (rdX_ready h d), bind_ok (emptyQueue_ok hq)]

theorem opStore_gives (hs : store va n (x s d).toNat s = .ok () t) : runScalar (opStore d a off n) s = .next (next id t) := by
  refine runScalar_ok (t := { t with hart := { t.hart with sc := { t.hart.sc with pc := t.hart.sc.pc + 4 } } }) ?_
  rw [opStore_runs h hva hq, bind_ok hs]
  rfl

theorem opStore_stops {e : Stop} (hs : store va n (x s d).toNat s = .error e t) : opStore d a off n s = .error e t := by
  rw [opStore_runs h hva hq]
  exact bind_error hs

/-- A misaligned load traps ALIGN, and accesses nothing (R135). -/
theorem opLoad_misaligned {signed : Bool} (hn : va.toNat % n ≠ 0) :
    runScalar (opLoad d a off n signed) s = .next (takeTrap s causeALIGN va s.hart.sc.pc false false) :=
  runScalar_trap hq (opLoad_stops h hva (bind_error (by unfold aligned; rw [if_neg hn]; rfl)))

/-- A misaligned store traps ALIGN, and accesses nothing. -/
theorem opStore_misaligned (hn : va.toNat % n ≠ 0) :
    runScalar (opStore d a off n) s = .next (takeTrap s causeALIGN va s.hart.sc.pc false false) :=
  runScalar_trap hq (opStore_stops h hva hq (bind_error (by unfold aligned; rw [if_neg hn]; rfl)))
end

/-! ### Bytes of numbers (R4) -/

theorem bytesOf_eq_map : ∀ n x : Nat, bytesOf x n = (List.range n).map fun i => BitVec.ofNat 8 (x / 256 ^ i)
  | 0, _ => rfl
  | n + 1, x => by
    unfold bytesOf
    rw [bytesOf_eq_map n, List.range_succ_eq_map, List.map_cons, List.map_map, Nat.pow_zero, Nat.div_one]
    congr 2
    funext i
    simp only [Function.comp_apply, Nat.pow_succ', Nat.div_div_eq_div_mul]

theorem bytesOf_length (n x : Nat) : (bytesOf x n).length = n := by
  rw [bytesOf_eq_map, List.length_map, List.length_range]

theorem ofBytes_eq_sum : ∀ l : List Byte, ofBytes l = ∑ i ∈ Finset.range l.length, 256 ^ i * (l.getD i 0).toNat
  | [] => rfl
  | b :: l => by
    unfold ofBytes
    rw [ofBytes_eq_sum l, List.length_cons, Finset.sum_range_succ', Finset.mul_sum, add_comm]
    simp [Nat.pow_succ', mul_assoc]

/-! ### The path of a scalar access to memory and to other modules (R276, R434) -/

section
variable {s t : State} {va : Word} {n pa : Nat} {near : Bool} (ha : va.toNat % n = 0) (hc : paControl pa = false) (hl : linesFit t pa n)
include ha hc hl

/-- A load that translates is a read at its physical address. -/
theorem load_translated (ht : translate va n .r s = .ok (pa, near) t) : load va n s = readPhys va pa n t := by
  unfold load loadAs
  rw [bind_ok (aligned_ok ha), bind_ok ht]
  dsimp only
  rw [if_pos rfl, bind_ok (controlWaits_memory hc), bind_ok (lineRoom_fits hl)]

/-- A store that translates is a write at its physical address. -/
theorem store_translated (ht : translate va n .w s = .ok (pa, near) t) (v : Nat) : store va n v s = writePhys va pa n v false false t := by
  unfold store
  rw [bind_ok (aligned_ok ha), bind_ok ht]
  dsimp only
  rw [bind_ok (controlWaits_memory hc), bind_ok (lineRoom_fits hl)]
end

/-- A write at this module's memory stores the bytes (R226, R286). -/
theorem writePhys_memory {t : State} {pa n : Nat} (hm : storable t pa n) (va : Word) (v : Nat) :
    writePhys va pa n v false false t = .ok () (storeBytes t pa v n) := by
  obtain ⟨hmod, hc, hp⟩ := hm
  have admitted : ¬ (t.hart.held = false ∧ permitsFor t pa n = false) := by
    rintro ⟨hh, hn⟩
    rcases hp with e | e
    · exact absurd (hh.symm.trans e) (by decide)
    · exact absurd (hn.symm.trans e) (by decide)
  simp [writePhys, storeAdmitted, bind, EStateM.bind, hmod, hc, admitted]

section
variable {t : State} {va : Word} {pa n : Nat} (hm : paModule pa ≠ t.module) (hc : paControl pa = false)
include hm hc

/-- Outside a chunk a read at another module is one request (R434). -/
theorem readPhys_elsewhere (hh : t.hart.held = false) : readPhys va pa n t =
    (remoteAccess false pa n (corePacket t 0 2 false (paModule pa) (bytesOf pa 8 ++ [BitVec.ofNat 8 n])) va >>= fun l =>
      pure (ofBytes (l.take n))) t := by
  simp [readPhys, readRemote, remoteRead, readsRecords, fromRecords, accessClass, bind, EStateM.bind, hm, hc, hh]

/-- Outside a chunk a write at another module is one request. -/
theorem writePhys_elsewhere (hh : t.hart.held = false) (v : Nat) : writePhys va pa n v false false t =
    (remoteAccess true pa n (corePacket t 2 2 false (paModule pa) (bytesOf pa 8 ++ bytesOf v n)) va >>= fun _ =>
      modify fun u => squashReadersOf u pa n) t := by
  simp [writePhys, writeRemote, storeAdmitted, holdForKeystone, corePacket, bind, EStateM.bind, hm, hc, hh]

/-- A chunk keeps what it writes at another module in its record (R226). -/
theorem writePhys_kept (hh : t.hart.held = true) (hp : t.hart.precise = false) (hi : isPresent t (paModule pa) = true) (v : Nat) :
    writePhys va pa n v false false t = .ok () (storeBytes t pa v n) := by
  simp [writePhys, writeRemote, storeAdmitted, bind, EStateM.bind, hm, hc, hh, hp, hi]
end

theorem squashReadersOf_free {s : State} (h : s.hart.held = false) (pa n : Nat) : squashReadersOf s pa n = s := by
  unfold squashReadersOf
  induction sectorsOf pa n with
  | nil => rfl
  | cons q l ih =>
    have step : squashReaders s (q / 32) = s := if_neg (by rw [h]; decide)
    rw [List.foldl_cons, step, ih]

section
variable {t : State} {va : Word} {pa n : Nat} {pkt : Packet} {write : Bool}

/-- A remote access that has not been made waits for its response, where a permit is left (R286). -/
theorem remoteAccess_asks (hr : t.hart.remote = []) (hi : isPresent t (paModule pa) = true) (hp : permitLeft t = true) :
    remoteAccess write pa n pkt va t = .error (.wait (.remote write (BitVec.ofNat 56 pa) pkt)) t := by
  simp [remoteAccess, madeBefore, bind, EStateM.bind, hr, hi, hp]

variable {r : RemoteWait} {st : BitVec 4} {l : List Byte} (hr : t.hart.remote = [r]) (h : answers r pa n st l)

theorem madeBefore_answered {r : RemoteWait} (h : answers r pa n st l) : madeBefore [r] r.write pa n = some 0 := by
  obtain ⟨hpa, hn, hf, hu, -, -⟩ := h
  simp [madeBefore, hpa, hn, hf, hu]

include hr h

/-- STATUS 0 completes the access with the bytes of the response (R434). -/
theorem remoteAccess_completes (h0 : st = 0) : remoteAccess r.write pa n pkt va t =
    .ok l (if r.write then { t with hart := t.hart.takeReply 0 } else t) := by
  have first := madeBefore_answered h
  obtain ⟨-, -, -, -, hown, hrep⟩ := h
  have whole : r.data l = l := if_pos (by rw [hown]; rfl)
  unfold remoteAccess
  rcases hw : r.write with _ | _ <;> rw [hw] at first <;> simp [bind, EStateM.bind, hr, first, hrep, h0, whole]

/-- Another STATUS traps (R432). -/
theorem remoteAccess_denied (h0 : st ≠ 0) : remoteAccess r.write pa n pkt va t =
    .error (.trap (if st = 3 then causeMCHK else causeACCESS) va) t := by
  have first := madeBefore_answered h
  obtain ⟨-, -, -, -, -, hrep⟩ := h
  unfold remoteAccess
  simp only [bind, EStateM.bind, get_apply, hr, first, List.getElem?_cons_zero, hrep, if_neg h0]
  split <;> rfl
end

/-- A request that waits for its response is sent, and the strand awaits it (R434). -/
theorem runScalar_remote {s t : State} {m : M Unit} {write : Bool} {pa : BitVec 56} {pkt : Packet}
    (h : m s = .error (.wait (.remote write pa pkt)) t) :
    runScalar m s = .next (applyWait (waitingState s t) (.remote write pa pkt)) := by
  unfold runScalar runThen
  rw [h]

/-- With no record to take bytes from, a read takes none from records. -/
theorem recordCells_none {s : State} (hh : s.hart.held = false) (hw : s.hart.written = []) (pa n : Nat) : recordCells s pa n = [] := by
  simp [recordCells, olderRecords, hh, hw, firstRecord, recGet]

theorem issueRemote_free {s : State} (hh : s.hart.held = false) (hw : s.hart.written = []) (hr : s.hart.remote = []) (write : Bool)
    (pa : BitVec 56) (pkt : Packet) :
    applyWait s (.remote write pa pkt) = { s with
      nextTag := s.nextTag + 1, heldOut := s.heldOut ++ [{ pkt with rtag := s.nextTag }]
      hart := { s.hart with
        park := .reply, remote := [{ rtag := s.nextTag, write := write, pa := pa, reply := none, size := requestSize pkt }] } } := by
  have hs : setRead s pa.toNat (requestSize pkt) = s := if_neg (by rw [hh]; decide)
  unfold applyWait issueRemote
  rcases write with _ | _ <;> simp [hs, recordCells_none hh hw, hr]

/-! ### Translation leaves what a request is made of -/

section
variable {s t : State} (f : samePtes s t)
include f

theorem samePtes_hart : t.hart = s.hart := by rw [f]

theorem samePtes_module : t.module = s.module := by rw [f]

theorem isPresent_samePtes (m : BitVec 14) : isPresent t m = isPresent s m := by
  rw [f]
  rfl

theorem permitLeft_samePtes : permitLeft t = permitLeft s := by
  rw [f]
  rfl

/-- An instruction that waits for the response to its request has sent it (R434). -/
theorem asksModule_of_wait {i : Instr} {m : M Unit} {kind : BitVec 4} {write : Bool} {pa n : Nat} {rest : List Byte} (hi : exec i s = runScalar m s)
    (hm : m s = .error (.wait (.remote write (BitVec.ofNat 56 pa) (corePacket t kind 2 false (paModule pa) (bytesOf pa 8 ++ rest)))) t)
    (hn : requestSize (corePacket t kind 2 false (paModule pa) (bytesOf pa 8 ++ rest)) = n)
    (hh : s.hart.held = false) (hw : s.hart.written = []) (hr : s.hart.remote = []) : asksModule s i kind write pa n rest := by
  refine ⟨{ corePacket t kind 2 false (paModule pa) (bytesOf pa 8 ++ rest) with rtag := s.nextTag }, ?_, rfl, rfl, rfl, rfl,
    samePtes_module f, rfl, congrArg (· ++ rest) (bytesOf_eq_map 8 pa)⟩
  have kept : waitingState s t = s := waitingState_kept (by rw [samePtes_hart f]) (by rw [samePtes_hart f])
  rw [hi, runScalar_remote hm, kept, issueRemote_free hh hw hr, hn]
end

section
variable {s t : State} {va : Word} {n pa : Nat} {near : Bool} (ha : va.toNat % n = 0) (hm : paModule pa ≠ s.module) (hc : paControl pa = false)
  (hh : s.hart.held = false)
include ha hm hc hh

/-- A load outside a chunk from another module is its request, and what the response holds. -/
theorem load_elsewhere (ht : translate va n .r s = .ok (pa, near) t) : load va n s =
    (remoteAccess false pa n (corePacket t 0 2 false (paModule pa) (bytesOf pa 8 ++ [BitVec.ofNat 8 n])) va >>= fun l =>
      pure (ofBytes (l.take n))) t := by
  have f := translate_frame ht
  have free : t.hart.held = false := by rwa [samePtes_hart f]
  have fits : linesFit t pa n := fun e => absurd (e.symm.trans free) (by decide)
  rw [load_translated ha hc fits ht, readPhys_elsewhere (by rwa [samePtes_module f]) hc free]

theorem store_elsewhere (ht : translate va n .w s = .ok (pa, near) t) (v : Nat) : store va n v s =
    (remoteAccess true pa n (corePacket t 2 2 false (paModule pa) (bytesOf pa 8 ++ bytesOf v n)) va >>= fun _ =>
      modify fun u => squashReadersOf u pa n) t := by
  have f := translate_frame ht
  have free : t.hart.held = false := by rwa [samePtes_hart f]
  have fits : linesFit t pa n := fun e => absurd (e.symm.trans free) (by decide)
  rw [store_translated ha hc fits ht, writePhys_elsewhere (by rwa [samePtes_module f]) hc free]
end

/-- A read request is about as many bytes as its size byte says (R431). -/
theorem requestSize_read (s : State) (m : BitVec 14) (pa : Nat) {n : Nat} (hn : n < 256) :
    requestSize (corePacket s 0 2 false m (bytesOf pa 8 ++ [BitVec.ofNat 8 n])) = n := Nat.mod_eq_of_lt hn

/-- A write request is about the bytes behind its address. -/
theorem requestSize_write (s : State) (m : BitVec 14) (pa v n : Nat) :
    requestSize (corePacket s 2 2 false m (bytesOf pa 8 ++ bytesOf v n)) = n := by
  change (bytesOf pa 8 ++ bytesOf v n).length - 8 = n
  rw [List.length_append, bytesOf_length, bytesOf_length, Nat.add_sub_cancel_left]

/-! ### Loads and stores as steps -/

section
variable {s t : State} (h : ready s) {d a : BitVec 5} {off : BitVec 13} {va : Word} (hva : x s a + off.signExtend 64 = va) {n pa : Nat} {near : Bool}
  (ha : va.toNat % n = 0)
include h hva ha

theorem loads_complete (ht : translate va n .r s = .ok (pa, near) t) (hm : inMemory t pa n) (hl : linesFit t pa n) :
    ∀ p ∈ loadForms d a off, p.2.1 = n →
      exec p.1 s = .next (next (putDest d (p.2.2 (BitVec.ofNat 64 (loaded s pa n)))) (noteRead t pa n)) := by
  rintro p hp rfl
  obtain ⟨-, signed, run, ext⟩ := loadForms_run p hp
  have f := translate_frame ht
  have queue : (noteRead t pa p.2.1).hart.queue = s.hart.queue := by
    rw [noteRead_frame t pa p.2.1, ← samePtes_hart f]
  rw [run, ← loaded_samePtes f]
  exact opLoad_gives h hva (load_ok ha ht hm hl) queue (ext _)

theorem stores_complete (hq : s.hart.queue = []) (ht : translate va n .w s = .ok (pa, near) t) (hm : storable t pa n) (hl : linesFit t pa n) :
    ∀ p ∈ storeForms d a off, p.2 = n → exec p.1 s = .next (next id (storeBytes t pa (x s d).toNat n)) := by
  rintro p hp rfl
  rw [storeForms_run p hp]
  exact opStore_gives h hva hq ((store_translated ha hm.2.1 hl ht _).trans (writePhys_memory hm va _))

variable (hm : paModule pa ≠ s.module) (hc : paControl pa = false)
include hm hc

/-- R226: a chunk keeps a store to another module in its record. -/
theorem stores_kept (hq : s.hart.queue = []) (hi : isPresent s (paModule pa) = true) (hh : s.hart.held = true) (hp : s.hart.precise = false)
    (ht : translate va n .w s = .ok (pa, near) t) (hl : linesFit t pa n) :
    ∀ p ∈ storeForms d a off, p.2 = n → exec p.1 s = .next (next id (storeBytes t pa (x s d).toNat n)) := by
  rintro p hmem rfl
  have f := translate_frame ht
  have kept := writePhys_kept (t := t) (n := p.2) (va := va) (by rwa [samePtes_module f]) hc (by rwa [samePtes_hart f]) (by rwa [samePtes_hart f])
    (by rwa [isPresent_samePtes f]) (x s d).toNat
  rw [storeForms_run p hmem]
  exact opStore_gives h hva hq ((store_translated ha hc hl ht _).trans kept)

variable (hh : s.hart.held = false)
include hh

section
variable (hi : isPresent s (paModule pa) = true) (hl : permitLeft s = true) (hw : s.hart.written = []) (hr : s.hart.remote = [])
include hi hl hw hr

/-- R434, R286: a load from another module leaves as one request. -/
theorem loads_ask (ht : translate va n .r s = .ok (pa, near) t) :
    ∀ p ∈ loadForms d a off, p.2.1 = n → asksModule s p.1 0 false pa n [BitVec.ofNat 8 n] := by
  rintro p hp rfl
  obtain ⟨small, signed, run, -⟩ := loadForms_run p hp
  have f := translate_frame ht
  refine asksModule_of_wait f (run s) (opLoad_stops h hva ?_) (requestSize_read t _ pa small) hh hw hr
  rw [load_elsewhere ha hm hc hh ht]
  exact bind_error (remoteAccess_asks (by rwa [samePtes_hart f]) (by rwa [isPresent_samePtes f]) (by rwa [permitLeft_samePtes f]))

theorem stores_ask (hq : s.hart.queue = []) (ht : translate va n .w s = .ok (pa, near) t) :
    ∀ p ∈ storeForms d a off, p.2 = n →
      asksModule s p.1 2 true pa n ((List.range n).map fun i => BitVec.ofNat 8 ((x s d).toNat / 256 ^ i)) := by
  rintro p hp rfl
  have f := translate_frame ht
  rw [← bytesOf_eq_map]
  refine asksModule_of_wait f (storeForms_run p hp s) (opStore_stops h hva hq ?_) (requestSize_write t _ pa _ _) hh hw hr
  rw [store_elsewhere ha hm hc hh ht]
  exact bind_error (remoteAccess_asks (by rwa [samePtes_hart f]) (by rwa [isPresent_samePtes f]) (by rwa [permitLeft_samePtes f]))
end

variable {r : RemoteWait} {st : BitVec 4} {l : List Byte} (hr : s.hart.remote = [r]) (hans : answers r pa n st l)
include hr hans

/-- R434: the response completes the load with its bytes. -/
theorem loads_answered (hw : r.write = false) (ht : translate va n .r s = .ok (pa, near) t) (h0 : st = 0) (hlen : l.length = n) :
    ∀ p ∈ loadForms d a off, p.2.1 = n →
      exec p.1 s = .next (next (putDest d (p.2.2 (BitVec.ofNat 64 (∑ i ∈ Finset.range n, 256 ^ i * (l.getD i 0).toNat)))) t) := by
  rintro p hp rfl
  obtain ⟨-, signed, run, ext⟩ := loadForms_run p hp
  have f := translate_frame ht
  have answer := remoteAccess_completes (pkt := corePacket t 0 2 false (paModule pa) (bytesOf pa 8 ++ [BitVec.ofNat 8 p.2.1])) (va := va)
    (by rwa [samePtes_hart f]) hans h0
  rw [hw, if_neg Bool.false_ne_true] at answer
  have sum : ofBytes (l.take p.2.1) = ∑ i ∈ Finset.range p.2.1, 256 ^ i * (l.getD i 0).toNat := by
    rw [List.take_of_length_le hlen.le, ofBytes_eq_sum, hlen]
  rw [run, ← sum]
  exact opLoad_gives h hva ((load_elsewhere ha hm hc hh ht).trans (bind_ok answer)) (by rw [samePtes_hart f]) (ext _)

/-- R432: another STATUS traps. -/
theorem loads_denied (hq : s.hart.queue = []) (hw : r.write = false) (ht : translate va n .r s = .ok (pa, near) t) (h0 : st ≠ 0) :
    ∀ p ∈ loadForms d a off, p.2.1 = n →
      exec p.1 s = .next (takeTrap t (if st = 3 then causeMCHK else causeACCESS) va s.hart.sc.pc false false) := by
  rintro p hp rfl
  obtain ⟨-, signed, run, -⟩ := loadForms_run p hp
  have f := translate_frame ht
  have denial := remoteAccess_denied (pkt := corePacket t 0 2 false (paModule pa) (bytesOf pa 8 ++ [BitVec.ofNat 8 p.2.1])) (va := va)
    (by rwa [samePtes_hart f]) hans h0
  rw [hw] at denial
  rw [run]
  exact runScalar_trap hq (opLoad_stops h hva ((load_elsewhere ha hm hc hh ht).trans (bind_error denial)))

theorem stores_answered (hq : s.hart.queue = []) (hw : r.write = true) (ht : translate va n .w s = .ok (pa, near) t) (h0 : st = 0) :
    ∀ p ∈ storeForms d a off, p.2 = n → exec p.1 s = .next (next id t) := by
  rintro p hp rfl
  have f := translate_frame ht
  have free : t.hart.held = false := by rwa [samePtes_hart f]
  have answer := remoteAccess_completes (pkt := corePacket t 2 2 false (paModule pa) (bytesOf pa 8 ++ bytesOf (x s d).toNat p.2)) (va := va)
    (by rwa [samePtes_hart f]) hans h0
  rw [hw, if_pos rfl] at answer
  have squashed := squashReadersOf_free (s := { t with hart := t.hart.takeReply 0 }) free pa p.2
  have done : store va p.2 (x s d).toNat s = .ok () { t with hart := t.hart.takeReply 0 } := by
    rw [store_elsewhere ha hm hc hh ht, bind_ok answer, modify_apply, squashed]
  rw [storeForms_run p hp, opStore_gives h hva hq done]
  rfl

theorem stores_denied (hq : s.hart.queue = []) (hw : r.write = true) (ht : translate va n .w s = .ok (pa, near) t) (h0 : st ≠ 0) :
    ∀ p ∈ storeForms d a off, p.2 = n →
      exec p.1 s = .next (takeTrap t (if st = 3 then causeMCHK else causeACCESS) va s.hart.sc.pc false false) := by
  rintro p hp rfl
  have f := translate_frame ht
  have denial := remoteAccess_denied (pkt := corePacket t 2 2 false (paModule pa) (bytesOf pa 8 ++ bytesOf (x s d).toNat p.2)) (va := va)
    (by rwa [samePtes_hart f]) hans h0
  rw [hw] at denial
  rw [storeForms_run p hp]
  exact runScalar_trap hq (opStore_stops h hva hq ((store_elsewhere ha hm hc hh ht _).trans (bind_error denial)))
end

/-- Every load and store of more than one byte traps ALIGN when misaligned (R135). -/
theorem loadStores_misaligned {s : State} (h : ready s) {d a : BitVec 5} {off : BitVec 13} {va : Word} (hva : x s a + off.signExtend 64 = va)
    (hq : s.hart.queue = []) : (∀ p ∈ loadForms d a off, va.toNat % p.2.1 ≠ 0 →
      exec p.1 s = .next (takeTrap s causeALIGN va s.hart.sc.pc false false)) ∧
    ∀ p ∈ storeForms d a off, va.toNat % p.2 ≠ 0 → exec p.1 s = .next (takeTrap s causeALIGN va s.hart.sc.pc false false) := by
  refine ⟨fun p hp hn => ?_, fun p hp hn => ?_⟩
  · obtain ⟨-, signed, run, -⟩ := loadForms_run p hp
    rw [run, opLoad_misaligned h hva hq hn]
  · rw [storeForms_run p hp, opStore_misaligned h hva hq hn]

/-- Settles O6: an access is its computation behind aligned and translate, and the physical access has one outcome for each place: this module's memory,
a request, its response, or the record of a chunk. -/
theorem loadStoreResults : Obligations.LoadStoreResults := by
  unfold Obligations.LoadStoreResults
  refine ⟨?_, ?_, ?_, ?_⟩
  · intro s t d a off n pa near h va ha ht hm hl v p hp
    obtain ⟨q, hq, rfl⟩ : ∃ q ∈ loadForms d a off, (q.1, q.2.1, q.2.2 v) = p := List.mem_map.mp hp
    exact loads_complete h rfl ha ht hm hl q hq
  · intro s t d a off n pa near h hq va ha ht hm hl
    exact stores_complete h rfl ha hq ht hm hl
  · intro s d a off h hq va
    obtain ⟨loads, stores⟩ := loadStores_misaligned h (d := d) (off := off) rfl hq
    simp only [loadForms, storeForms, List.forall_mem_cons] at loads stores ⊢
    obtain ⟨-, -, ldh, ldhu, ldw, ldwu, ldd, -⟩ := loads
    obtain ⟨-, sth, stw, std, none⟩ := stores
    exact ⟨ldh, ldhu, ldw, ldwu, ldd, sth, stw, std, none⟩
  · intro s t d a off n pa near h hq va loads stores ha hpa hm hpres hlim hc trap
    have present : isPresent s (paModule pa) = true := by
      simp [isPresent, hpres, moduleLimit, hlim]
    refine ⟨fun hh hw hr hl => ⟨?_, ?_⟩, fun r st l hh hr hans => ⟨fun hw ht p hp hn => ⟨?_, ?_⟩, fun hw ht p hp hn => ⟨?_, ?_⟩⟩, ?_⟩
    · exact loads_ask h rfl ha hm hc hh present hl hw hr
    · exact stores_ask h rfl ha hm hc hh present hl hw hr hq
    · exact fun h0 hlen => loads_answered h rfl ha hm hc hh hr hans hw ht h0 hlen p hp hn
    · exact fun h0 => loads_denied h rfl ha hm hc hh hr hans hq hw ht h0 p hp hn
    · exact fun h0 => stores_answered h rfl ha hm hc hh hr hans hq hw ht h0 p hp hn
    · exact fun h0 => stores_denied h rfl ha hm hc hh hr hans hq hw ht h0 p hp hn
    · exact fun hh hp ht hl => stores_kept h rfl ha hm hc hq present hh hp ht hl

end Sys2Proof.Proofs

/-! SUPPORT. Proofs of the statements of the family of spec/06: vector arithmetic. -/

namespace Sys2Proof.Proofs

open Sys2Proof Sys2Proof.Machine Sys2Proof.Safety

/-! ### The vector configuration (R144 to R146, R257) -/

/-- b by the table of R26. -/
theorem sewBits_cases (v : BitVec 4) : sewBits v = match v.toNat with
    | 0 | 1 | 12 | 13 | 15 => 8
    | 2 | 3 | 8 | 9 => 16
    | 4 | 5 | 10 => 32
    | 14 => 4
    | _ => 64 := by
  revert v
  decide

/-- A queue without changes of shape leaves the ring as the scalar thread sees it (R146, R403). -/
theorem shapeSeen_of_none {h : Hart} (hq : ∀ e ∈ h.queue, e.op.shape = none) (r : Ring) : h.shapeSeen r = r := by
  unfold Hart.shapeSeen
  revert hq
  induction h.queue with
  | nil => exact fun _ => rfl
  | cons e t ih =>
    intro hq
    obtain ⟨he, ht⟩ := List.forall_mem_cons.mp hq
    rw [List.foldl_cons, he]
    exact ih ht

/-- With no change of shape waiting or queued, the executing instruction sees its own ring (R403). -/
theorem applyShape_idle {s : State} (hp : s.ring.reshapePend = false) (hq : ∀ e ∈ s.hart.queue, e.op.shape = none) (w : Word32) :
    applyShape w s = .ok s.ring s := by
  simp [applyShape, bind, EStateM.bind, reshapeDue, hp, shapeSeen_of_none hq]

/-- The state in which VTYPE, VLMAX and VL are set for an application vector length (R145). -/
def retyped (avl : Nat) (sew slices : BitVec 4) (s : State) : State :=
  let most := vlmaxOf s.ring s.hart.sc.nreg sew
  { s with hart := { s.hart with sc := { s.hart.sc with
    sew := sew, slices := slices, vlmax := BitVec.ofNat 16 most, vl := BitVec.ofNat 16 (min avl most) } } }

section
variable {s : State} (h : ready s)
include h

/-- SLICES outside 3 to 8 traps ILL, before anything is set (R145). -/
theorem opSetvl_ill {slices : BitVec 4} (hs : ¬ (3 ≤ slices.toNat ∧ slices.toNat ≤ 8)) (w : Word32) (d a : BitVec 5) (sew : BitVec 4) :
    opSetvl w d a sew slices s = .error (.trap causeILL (w.setWidth 64)) s := by
  have out : (slices.toNat < 3 || 8 < slices.toNat) = true := by simp; omega
  unfold opSetvl
  rw [bind_ok (rdX_ready h a), if_pos out]
  rfl

/-- The steps of vsetvli and vsetvl (R145). -/
theorem opSetvl_next (hp : s.ring.reshapePend = false) (hq : ∀ e ∈ s.hart.queue, e.op.shape = none) {slices : BitVec 4}
    (hs : 3 ≤ slices.toNat ∧ slices.toNat ≤ 8) (w : Word32) (d a : BitVec 5) (sew : BitVec 4) :
    runScalar (opSetvl w d a sew slices) s =
      .next (next (putDest d (BitVec.ofNat 64 (min (x s a).toNat (vlmaxOf s.ring s.hart.sc.nreg sew)))) (retyped (x s a).toNat sew slices s)) := by
  have within : ¬ (slices.toNat < 3 || 8 < slices.toNat) = true := by simp; omega
  refine runScalar_ok ?_
  unfold opSetvl
  rw [bind_ok (rdX_ready h a), if_neg within, bind_ok (applyShape_idle hp hq w), bind_ok (get_apply s), bind_ok (modHart_apply _ s)]
  exact bind_ok (wrX_ready (s := retyped (x s a).toNat sew slices s) h.1 d _)

/-- The share and the offset of the executing ring in its launch (R257). -/
theorem execRgsetl_next (hp : s.ring.reshapePend = false) (hq : ∀ e ∈ s.hart.queue, e.op.shape = none) (g : BitVec 4) (a : BitVec 5) :
    exec (.rgsetl g a) s =
      (let p := groupShare (x s a).toNat ((s.hart.widShape.extractLsb' 36 6).toNat + 1) s.hart.wid.toNat
      .next (next (fun h => putReg (g ++ 1#1) (BitVec.ofNat 64 p.2) (putReg (g ++ 0#1) (BitVec.ofNat 64 p.1) h))
        (retyped p.1 s.hart.sc.sew s.hart.sc.slices s))) := by
  refine runScalar_ok ?_
  rw [bind_ok (rdX_ready h a), bind_ok (applyShape_idle hp hq _), bind_ok (get_apply s), bind_ok (modHart_apply _ s)]
  refine (bind_ok (putX_ready (s := retyped _ s.hart.sc.sew s.hart.sc.slices s) (h.1 _) _)).trans (bind_ok (putX_ready ?_ _))
  exact h.1 _
end

section
variable {s : State} (hq : s.hart.queue = []) (hb : ∀ j : BitVec 3, (s.hart.slotAt j).bound = false) (n : BitVec 2)
include hq hb

/-- With nothing queued and no slot bound, vcfg is decided by the register count and VL alone (R144, R334). -/
theorem execVcfg_idle : exec (.vcfg n) s = runScalar (
    if n = s.hart.sc.nreg then nextPc
    else if vlmaxOf s.ring n s.hart.sc.sew < s.hart.sc.vl.toNat then ill (0x20#6 ++ 0#19 ++ n ++ 2#4 ++ 0#1)
    else do
      modHart fun h => h.recount n (vlmaxOf s.ring n s.hart.sc.sew)
      nextPc) s := by
  have free : (s.hart.slots.toList.any fun sl => sl.bound) = false := by
    rw [List.any_eq_false]
    intro sl hsl
    obtain ⟨i, hi, rfl⟩ := List.mem_iff_getElem.mp hsl
    have hi' : i < 8 := by simpa using hi
    simpa [Hart.slotAt, Nat.mod_eq_of_lt hi'] using hb (BitVec.ofNat 3 i)
  refine runScalar_congr ((bind_ok (emptyQueue_ok hq)).trans ((bind_ok (get_apply s)).trans ?_))
  exact congrFun (if_neg (by rw [free]; exact Bool.false_ne_true)) s

theorem execVcfg_same (hn : n = s.hart.sc.nreg) : exec (.vcfg n) s = .next (next id s) := by
  rw [execVcfg_idle hq hb, if_pos hn]
  exact runScalar_ok rfl

theorem execVcfg_recount (hn : n ≠ s.hart.sc.nreg) (hv : s.hart.sc.vl.toNat ≤ vlmaxOf s.ring n s.hart.sc.sew) :
    exec (.vcfg n) s = .next (next (fun h => h.recount n (vlmaxOf s.ring n s.hart.sc.sew)) s) := by
  rw [execVcfg_idle hq hb, if_neg hn, if_neg (Nat.not_lt.mpr hv)]
  exact runScalar_ok rfl

theorem execVcfg_ill (hn : n ≠ s.hart.sc.nreg) (hv : vlmaxOf s.ring n s.hart.sc.sew < s.hart.sc.vl.toNat) :
    exec (.vcfg n) s =
      .next (takeTrap s causeILL ((0x20#6 ++ 0#19 ++ n ++ 2#4 ++ 0#1 : Word32).setWidth 64) s.hart.sc.pc false false) := by
  rw [execVcfg_idle hq hb, if_neg hn, if_pos hv]
  exact runScalar_trap hq rfl
end

/-- The fields of a type word of at most 8 bits (R97). -/
theorem typeWord_fields {ty : Word} (h : ty.toNat / 16 ≤ 8) : ty.extractLsb' 8 56 = 0 ∧ (ty.extractLsb' 4 4).toNat = ty.toNat / 16 := by
  refine ⟨BitVec.eq_of_toNat_eq ?_, ?_⟩
  · rw [BitVec.extractLsb'_toNat, Nat.shiftRight_eq_div_pow]
    show _ = 0
    omega
  · rw [BitVec.extractLsb'_toNat, Nat.shiftRight_eq_div_pow]
    omega

/-- Settles O17: each configuration is its table's, computed for the ring as it stands. -/
theorem vectorConfiguration : Obligations.VectorConfiguration := by
  intro s d a b g slices sew n hr hp hs h bits bytes most avl typed sets ty rings share offset most0 noted
  have most_eq (c : BitVec 2) (v : BitVec 4) : most c v = vlmaxOf s.ring c v := by
    show _ / bits v = _ / sewBits v
    rw [sewBits_cases v]
    rfl
  have sets_eq (v w : BitVec 4) : sets v w = next (putDest d (BitVec.ofNat 64 (min avl (vlmaxOf s.ring s.hart.sc.nreg v)))) (retyped avl v w s) := by
    show next (putDest d (BitVec.ofNat 64 (min avl (most s.hart.sc.nreg v)))) (typed v w) = _
    unfold typed
    rw [most_eq]
    rfl
  refine ⟨fun h3 h8 => ?_, fun h3 h8 => ?_, fun hq hout => ?_, fun hq hty => ?_, ?_, 
    fun hq hb => ⟨execVcfg_same hq hb n, fun hn hv => ?_, fun hn hv => ?_⟩⟩
  · rw [sets_eq]
    exact opSetvl_next hr hp hs ⟨h3, h8⟩ _ d a sew
  · rw [sets_eq]
    obtain ⟨high, low⟩ := typeWord_fields h8
    refine Eq.trans ?_ (opSetvl_next hr hp hs (low ▸ ⟨h3, h8⟩) (0x20#6 ++ 0#1 ++ d ++ 0#1 ++ a ++ b ++ 0#4 ++ 1#4 ++ 0#1) d a _)
    refine runScalar_congr ((bind_ok (rdX_ready hr b)).trans ?_)
    exact congrFun (if_neg (not_not.mpr high)) s
  · exact runScalar_trap hq (opSetvl_ill hr hout _ d a sew)
  · refine runScalar_trap hq ((bind_ok (rdX_ready hr b)).trans ?_)
    exact congrFun (if_pos hty) s
  · have noted_eq : noted = retyped share s.hart.sc.sew s.hart.sc.slices s := by
      unfold noted most0
      rw [most_eq]
      rfl
    rw [noted_eq]
    exact execRgsetl_next hr hp hs g a
  · simp only [most_eq] at hv ⊢
    refine ⟨startMasks, execVcfg_recount hq hb n hn hv, ?_⟩
    decide +kernel
  · rw [most_eq] at hv
    exact execVcfg_ill hq hb n hn hv

/-! ### Instructions that compute their destination element by element (R147 to R149) -/

/-- A word that the push accepts: its checks pass, and C = 0 opens no convoy (R44, R150). -/
def passes (s : State) (c : BitVec 1) (w : Word32) : Prop :=
  vecLegal (regs s) s.hart.sc.sew w = true ∧ (c = 0 → isMember w = true → w.getLsbD 0 = false)

/-- Element j of the last operand: of a register, or the scalar modulo the element width (R147). -/
def operand (s : State) (o : VSrc) (j : Nat) : Nat :=
  match o with
  | .reg r => el s r j
  | .val v => v.toNat % 2 ^ width s

/-- The operations that write one element of one register for each active element, honouring VMODE.VE. -/
def plain : VOp → Bool
  | .int .. | .macc .. | .dot4 .. | .fp .. => true
  | _ => false

theorem el_lt (s : State) (r : BitVec 6) (j : Nat) : el s r j < 2 ^ width s := Nat.mod_lt _ (Nat.two_pow_pos _)

theorem operand_lt (s : State) (o : VSrc) (j : Nat) : operand s o j < 2 ^ width s := by
  cases o with
  | reg r => exact el_lt s r j
  | val v => exact Nat.mod_lt _ (Nat.two_pow_pos _)

theorem entry_opnd (s : State) (w : Word32) (op : VOp) (o : VSrc) (j : Nat) : (entryEnv s (entryOf s.hart w op)).opnd o j = operand s o j := by
  cases o <;> rfl

/-- Elements that raise nothing raise nothing together. -/
theorem flagsOver_zero (l : List Nat) : flagsOver l (fun _ => 0) = 0 :=
  List.foldl_fixed' (fun _ => BitVec.or_zero) l

theorem width_pos (s : State) : 0 < width s := by
  unfold width
  generalize s.hart.sc.sew = v
  revert v
  decide

section
variable {s : State} {rest : List Word32} {c : BitVec 1} (hv : vectorReady s) (hc : convoyLeft s c rest)
include hv

/-- A scalar operand is captured as the vector instruction is pushed (R38). -/
theorem mk_scalar (sb : BitVec 5) (f : Word → VOp) : (do return f (← rdX sb) : M VOp) s = .ok (f (x s sb)) s := by
  obtain ⟨hq, ha, -, -, -, -, hb, -⟩ := hv
  exact bind_ok (rdX_ready ⟨fun r => by rw [hq]; rfl, ha, hb⟩ sb)

include hc
variable {d a : BitVec 6} {km : BitVec 3} {w : Word32} {mk : M VOp} {i : Instr}

/-- A plain operation gives each active element its value, and raises the flags of all of them. -/
theorem gives_plain {op : VOp} (hi : exec i s = issueV w mk s) (hw : passes s c w) (hm : mk s = .ok op s) (hp : plain op = true)
    (hd : op.vdest = some d) (hk : op.km = km) {f : Nat → Nat × Flags}
    (hf : (entryEnv s (entryOf s.hart w op)).compute op = (entryEnv s (entryOf s.hart w op)).each f) (hlt : ∀ j, (f j).1 < 2 ^ width s) :
    givesElements s rest d (actives s km true) i (fun j => (f j).1) (flagsOver (actives s km true) fun j => (f j).2) := by
  obtain ⟨hl, h0⟩ := hw
  rw [entry_each, hk] at hf
  cases op with
  | int | macc | dot4 | fp =>
    exact gives_each hv hc hi hl h0 hm (fun h => absurd h Bool.false_ne_true) (fun _ _ he => by unfold vuBody; rw [he]) hd rfl rfl
      (by rintro _ _ _ _ _ ⟨⟩) _ hf fun j _ => hlt j
  | _ => cases hp

end

/-! ### Elements as integers (R52, R60) -/

section
variable {n : Nat} (h0 : 0 < n)

/-- The low n bits of an exact integer. -/
theorem wrapInt_eq (n : Nat) (z : Int) : wrapInt n z = (z % 2 ^ n).toNat := by
  rw [wrapInt, Nat.cast_pow, Nat.cast_ofNat]

theorem wrapInt_natCast (n m : Nat) : wrapInt n m = m % 2 ^ n := by
  rw [wrapInt, ← Int.natCast_mod, Int.toNat_natCast]

theorem wrapInt_lt (n : Nat) (z : Int) : wrapInt n z < 2 ^ n := by
  have := Int.emod_lt_of_pos z (b := ((2 ^ n : Nat) : Int)) (by positivity)
  have := Int.emod_nonneg z (b := ((2 ^ n : Nat) : Int)) (by positivity)
  unfold wrapInt
  omega

/-- A number of n bits as an integer of two's complement. -/
def asSigned (n v : Nat) : Int := if 2 ^ (n - 1) ≤ v then (v : Int) - 2 ^ n else v

/-- A number of n bits as an integer of its type. -/
def asInt (sg : Bool) (n v : Nat) : Int := if sg then asSigned n v else v

include h0 in
theorem signedOf_eq {v : Nat} (hv : v < 2 ^ n) : signedOf n v = asSigned n v := by
  unfold signedOf lowBits asSigned
  simp only [Nat.mod_eq_of_lt hv, Nat.pos_iff_ne_zero.mp h0, ne_eq, not_false_eq_true, true_and, Nat.cast_pow, Nat.cast_ofNat]

include h0 in
theorem elemInt_eq (sg : Bool) {v : Nat} (hv : v < 2 ^ n) : elemInt sg n v = asInt sg n v := by
  unfold elemInt asInt
  rw [signedOf_eq h0 hv, Nat.mod_eq_of_lt hv]

/-- A number is its integer's low bits. -/
theorem wrapInt_asInt (sg : Bool) {v : Nat} (hv : v < 2 ^ n) : wrapInt n (asInt sg n v) = v := by
  have low : wrapInt n (v : Int) = v := by rw [wrapInt_natCast, Nat.mod_eq_of_lt hv]
  unfold asInt asSigned
  split
  · split
    · rw [wrapInt_eq, Int.sub_emod_right, ← wrapInt_eq, low]
    · exact low
  · exact low

theorem asInt_zero (sg : Bool) (n : Nat) : asInt sg n 0 = 0 := by simp [asInt, asSigned]

theorem asInt_eq_zero (sg : Bool) {v : Nat} (hv : v < 2 ^ n) : asInt sg n v = 0 ↔ v = 0 := by
  refine ⟨fun h => ?_, fun h => h ▸ asInt_zero sg n⟩
  rw [← wrapInt_asInt sg hv, h]
  exact wrapInt_natCast n 0

/-- A value of n bits of a type (R60). -/
theorem saturate_eq (sg : Bool) (n : Nat) (z : Int) :
    (saturate sg n z).1 = if sg then max (-2 ^ (n - 1)) (min (2 ^ (n - 1) - 1) z) else max 0 (min (2 ^ n - 1) z) := by
  have half : (1 : Int) ≤ 2 ^ (n - 1) := one_le_pow₀ (by decide)
  have full : (1 : Int) ≤ 2 ^ n := one_le_pow₀ (by decide)
  have clamp {lo hi : Int} (h : lo ≤ hi) : (if z < lo then (lo, true) else if hi < z then (hi, true) else (z, false) : Int × Bool).1 =
      max lo (min hi z) := by
    split
    · exact (max_eq_left (by omega)).symm
    · split
      · rw [min_eq_left (by omega), max_eq_right h]
      · rw [min_eq_right (by omega), max_eq_right (by omega)]
  unfold saturate intRange
  cases sg
  · simp only [Bool.false_eq_true, if_false, Nat.cast_pow, Nat.cast_ofNat]
    exact clamp (by omega)
  · simp only [if_true, Nat.cast_pow, Nat.cast_ofNat]
    exact clamp (by omega)

end

/-! ### Integer elements, operation by operation (R151) -/

section
variable {n u w : Nat} (sg : Bool)

theorem intElem_add : intElem .add sg n u w = (((u : Int) + w) % 2 ^ n).toNat := by
  rw [← wrapInt_eq, ← Nat.cast_add, wrapInt_natCast]
  rfl

theorem intElem_sub : intElem .sub sg n u w = (((u : Int) - w) % 2 ^ n).toNat := wrapInt_eq ..

theorem intElem_rsub : intElem .rsub sg n u w = (((w : Int) - u) % 2 ^ n).toNat := wrapInt_eq ..

theorem intElem_mul : intElem .mul sg n u w = (((u : Int) * w) % 2 ^ n).toNat := by
  rw [← wrapInt_eq, ← Nat.cast_mul, wrapInt_natCast]
  rfl

theorem intElem_sll : intElem .sll sg n u w = (((u : Int) * 2 ^ (w % n)) % 2 ^ n).toNat := by
  rw [← wrapInt_eq, ← Nat.cast_ofNat, ← Nat.cast_pow, ← Nat.cast_mul, wrapInt_natCast]
  show (u <<< (w % n)) % 2 ^ n = _
  rw [Nat.shiftLeft_eq]

theorem intElem_srl : intElem .srl sg n u w = u / 2 ^ (w % n) := Nat.shiftRight_eq_div_pow ..

variable (h0 : 0 < n) (hu : u < 2 ^ n) (hw : w < 2 ^ n)
include h0 hu

theorem intElem_sra : intElem .sra sg n u w = (asSigned n u / 2 ^ (w % n) % 2 ^ n).toNat := by
  rw [← wrapInt_eq, ← signedOf_eq h0 hu, ← Nat.cast_ofNat, ← Nat.cast_pow]
  rfl

include hw

theorem intElem_mulh : intElem .mulh sg n u w = (asInt sg n u * asInt sg n w / 2 ^ n % 2 ^ n).toNat := by
  rw [← wrapInt_eq, ← elemInt_eq h0 sg hu, ← elemInt_eq h0 sg hw, ← Nat.cast_ofNat, ← Nat.cast_pow]
  rfl

theorem intElem_div : intElem .div sg n u w = if w = 0 then 2 ^ n - 1 else ((asInt sg n u).tdiv (asInt sg n w) % 2 ^ n).toNat := by
  show wrapInt n (quotR60 sg n (elemInt sg n u) (elemInt sg n w)) = _
  rw [elemInt_eq h0 sg hu, elemInt_eq h0 sg hw, quotR60]
  simp only [asInt_eq_zero sg hw]
  split
  · have ones : wrapInt n (((2 ^ n - 1 : Nat)) : Int) = 2 ^ n - 1 := by
      rw [wrapInt_natCast, Nat.mod_eq_of_lt (Nat.sub_one_lt (Nat.two_pow_pos n).ne')]
    have cast : (((2 ^ n - 1 : Nat)) : Int) = (2 ^ n : Nat) - 1 := by
      rw [Nat.cast_sub (Nat.two_pow_pos n), Nat.cast_one]
    rw [cast] at ones
    cases sg
    · exact ones
    · show wrapInt n (-1) = _
      rw [← ones, sub_eq_neg_add, wrapInt, wrapInt, Int.add_emod_right]
  · exact wrapInt_eq ..

theorem intElem_rem : intElem .rem sg n u w =
    if w = 0 then u else ((asInt sg n u - (asInt sg n u).tdiv (asInt sg n w) * asInt sg n w) % 2 ^ n).toNat := by
  show wrapInt n (remR60 (elemInt sg n u) (elemInt sg n w)) = _
  rw [elemInt_eq h0 sg hu, elemInt_eq h0 sg hw, remR60]
  simp only [asInt_eq_zero sg hw]
  split
  · exact wrapInt_asInt sg hu
  · rw [wrapInt_eq, Int.tmod_def, Int.mul_comm]

theorem intElem_min : intElem .min sg n u w = if asInt sg n u ≤ asInt sg n w then u else w := by
  rw [← elemInt_eq h0 sg hu, ← elemInt_eq h0 sg hw]
  rfl

theorem intElem_max : intElem .max sg n u w = if asInt sg n u ≤ asInt sg n w then w else u := by
  rw [← elemInt_eq h0 sg hu, ← elemInt_eq h0 sg hw]
  rfl

theorem intElem_sadd : intElem .sadd sg n u w =
    ((if sg then max (-2 ^ (n - 1)) (min (2 ^ (n - 1) - 1) (asInt sg n u + asInt sg n w))
      else max 0 (min (2 ^ n - 1) (asInt sg n u + asInt sg n w))) % 2 ^ n).toNat := by
  rw [← wrapInt_eq, ← saturate_eq, ← elemInt_eq h0 sg hu, ← elemInt_eq h0 sg hw]
  rfl

theorem intElem_ssub : intElem .ssub sg n u w =
    ((if sg then max (-2 ^ (n - 1)) (min (2 ^ (n - 1) - 1) (asInt sg n u - asInt sg n w))
      else max 0 (min (2 ^ n - 1) (asInt sg n u - asInt sg n w))) % 2 ^ n).toNat := by
  rw [← wrapInt_eq, ← saturate_eq, ← elemInt_eq h0 sg hu, ← elemInt_eq h0 sg hw]
  rfl

omit h0 in
/-- An integer element has the element width. -/
theorem intElem_lt (op : VIntOp) : intElem op sg n u w < 2 ^ n := by
  cases op with
  | add | mul | sll => exact Nat.mod_lt _ (Nat.two_pow_pos n)
  | sub | rsub | mulh | div | rem | sra | sadd | ssub => exact wrapInt_lt n _
  | min =>
    show (if _ then u else w) < _
    split <;> assumption
  | max =>
    show (if _ then w else u) < _
    split <;> assumption
  | and => exact Nat.and_lt_two_pow _ hw
  | or => exact Nat.or_lt_two_pow hu hw
  | xor => exact Nat.xor_lt_two_pow hu hw
  | srl => exact (Nat.shiftRight_le u _).trans_lt hu

end

/-! ### Integer instructions, element by element (R151, R152) -/

section
variable {s : State} {c : BitVec 1} {d a b : BitVec 6} {sb : BitVec 5} {km : BitVec 3} {f5 : BitVec 1} {op : BitVec 6} {fn : BitVec 4}

theorem passes_V (hl : vecLegal (regs s) s.hart.sc.sew (wordV op d a b km fn c) = true) : passes s c (wordV op d a b km fn c) :=
  ⟨hl, fun h _ => by rw [wordV_c, h]; rfl⟩

theorem passes_VS (hl : vecLegal (regs s) s.hart.sc.sew (wordVS op d a sb f5 km fn c) = true) : passes s c (wordVS op d a sb f5 km fn c) :=
  ⟨hl, fun h _ => by rw [wordVS_c, h]; rfl⟩

/-- The check of the element type: logical forms take every type below 14, the others the integer types (R148). -/
theorem allowed_type {sew : BitVec 4} {p : Prop} [Decidable p] (h : sew.toNat < if p then 14 else 8) :
    (if p then decide (sew.toNat < 14) else sewIsInt sew) = true := by
  by_cases hp : p
  · rw [if_pos hp] at h ⊢
    exact decide_eq_true h
  · rw [if_neg hp] at h ⊢
    exact decide_eq_true h

variable (hd : d.toNat < regs s) (ha : a.toNat < regs s)
include hd ha

theorem passes_intVV (hb : b.toNat < regs s) (h : s.hart.sc.sew.toNat < if 8 ≤ fn.toNat ∧ fn.toNat ≤ 10 then 14 else 8) :
    passes s c (wordV 0x21 d a b km fn c) := by
  refine passes_V ?_
  rw [vecLegal_intVV (wordV_op ..), dOf_wordV, aOf_wordV, bOf_wordV, fnOf_wordV, allowed_type h, decide_eq_true ⟨hd, ha, hb⟩]
  rfl

theorem passes_intVS (h : s.hart.sc.sew.toNat < if 8 ≤ fn.toNat ∧ fn.toNat ≤ 10 then 14 else 8) :
    passes s c (wordVS 0x22 d a sb 0 km fn c) := by
  refine passes_VS ?_
  rw [vecLegal_intVS (wordVS_op ..), wordVS_f5, if_neg (by decide), dOf_wordVS, aOf_wordVS, fnOf_wordVS, allowed_type h,
    decide_eq_true (And.intro hd ha)]
  rfl

/-- The forms of major 0x22 that are no widening ones and have no form in major 0x21 (R151, R153). -/
theorem passes_intVS1 (hf : ¬ (fn.toNat = 3 ∨ fn.toNat = 4)) (h : s.hart.sc.sew.toNat < 8) : passes s c (wordVS 0x22 d a sb 1 km fn c) := by
  refine passes_VS ?_
  rw [vecLegal_intVS (wordVS_op ..), wordVS_f5, if_pos (by decide), fnOf_wordVS, if_neg hf, dOf_wordVS, aOf_wordVS,
    decide_eq_true (And.intro hd ha)]
  exact decide_eq_true h

theorem passes_intVI (h : s.hart.sc.sew.toNat < if 2 ≤ fn.toNat ∧ fn.toNat ≤ 4 then 14 else 8) : passes s c (wordV 0x23 d a b km fn c) := by
  refine passes_V ?_
  rw [vecLegal_intVI (wordV_op ..), dOf_wordV, aOf_wordV, fnOf_wordV, allowed_type h, decide_eq_true (And.intro hd ha)]
  rfl
end

/-- Below type 14 an element has at least 8 bits, and a multiple of 8 of them up to 64 (R26). -/
theorem width_bits {s : State} (h : s.hart.sc.sew.toNat < 14) : 8 ≤ width s ∧ width s ≤ 64 := by
  unfold width
  revert h
  generalize s.hart.sc.sew = v
  revert v
  decide

/-- A sign-extended immediate as an element (R81, R147). -/
theorem operand_sx {s : State} (imm : BitVec 6) (j : Nat) (h : width s ≤ 64) :
    operand s (.val (sx imm)) j = (imm.toInt % 2 ^ width s).toNat := by
  have e : (sx imm).toInt = imm.toInt := BitVec.toInt_signExtend_of_le (by decide)
  have m : ((sx imm).toNat : Int) % 2 ^ width s = imm.toInt % 2 ^ width s := by
    obtain ⟨k, hk⟩ : (2 : Int) ^ width s ∣ ((2 ^ 64 : Nat) : Int) := pow_dvd_pow 2 h
    rw [← e, BitVec.toInt_eq_toNat_cond]
    split
    · rfl
    · rw [hk, Int.sub_mul_emod_self_left]
  rw [← m, ← wrapInt_eq, wrapInt_natCast]
  rfl

/-- A zero-extended immediate as an element (R81, R147). -/
theorem operand_zx {s : State} (imm : BitVec 6) (j : Nat) (h : 8 ≤ width s) : operand s (.val (zx imm)) j = imm.toNat := by
  have e : (zx imm).toNat = imm.toNat := BitVec.toNat_setWidth_of_le (by decide)
  have : 2 ^ 8 ≤ 2 ^ width s := Nat.pow_le_pow_right (by decide) h
  show (zx imm).toNat % _ = _
  rw [e, Nat.mod_eq_of_lt (by omega)]

section
variable {s : State} {rest : List Word32} {c : BitVec 1} (hv : vectorReady s) (hc : convoyLeft s c rest)
  {d a b imm : BitVec 6} {sb : BitVec 5} {km : BitVec 3} {fn : BitVec 4} {i : Instr} {o : VIntOp} {f : Nat → Nat}
include hv hc

/-- An integer form gives each active element the value of its operation, and raises nothing (R57, R151). -/
theorem gives_int {w : Word32} {mk : M VOp} {y : VSrc} (hi : exec i s = issueV w mk s) (hw : passes s c w)
    (hm : mk s = .ok (.int o d a y km) s)
    (hf : ∀ j, intElem o (sewSigned s.hart.sc.sew) (width s) (el s a j) (operand s y j) = f j) :
    givesElements s rest d (actives s km true) i f 0 := by
  have values : (entryEnv s (entryOf s.hart w (.int o d a y km))).compute (.int o d a y km) =
      (entryEnv s (entryOf s.hart w (.int o d a y km))).each fun j => (f j, 0) := by
    simp only [← hf, ← entry_opnd s w (.int o d a y km)]
    rfl
  have h := gives_plain hv hc hi hw hm rfl rfl rfl values fun j => hf j ▸ intElem_lt _ (el_lt s a j) (operand_lt s y j) o
  rwa [flagsOver_zero] at h

variable (hd : d.toNat < regs s) (ha : a.toNat < regs s)
include hd ha

theorem gives_intVV (hb : b.toNat < regs s) (h : s.hart.sc.sew.toNat < if 8 ≤ fn.toNat ∧ fn.toNat ≤ 10 then 14 else 8)
    (hi : exec i s = issueV (wordV 0x21 d a b km fn c) (pure (.int o d a (.reg b) km)) s)
    (hf : ∀ j, intElem o (sewSigned s.hart.sc.sew) (width s) (el s a j) (el s b j) = f j) :
    givesElements s rest d (actives s km true) i f 0 :=
  gives_int hv hc hi (passes_intVV hd ha hb h) rfl hf

theorem gives_intVS (h : s.hart.sc.sew.toNat < if 8 ≤ fn.toNat ∧ fn.toNat ≤ 10 then 14 else 8)
    (hi : exec i s = issueV (wordVS 0x22 d a sb 0 km fn c) (do return .int o d a (.val (← rdX sb)) km) s)
    (hf : ∀ j, intElem o (sewSigned s.hart.sc.sew) (width s) (el s a j) ((x s sb).toNat % 2 ^ width s) = f j) :
    givesElements s rest d (actives s km true) i f 0 :=
  gives_int hv hc hi (passes_intVS hd ha h) (mk_scalar hv sb fun v => .int o d a (.val v) km) hf

theorem gives_intVI (h : s.hart.sc.sew.toNat < if 2 ≤ fn.toNat ∧ fn.toNat ≤ 4 then 14 else 8) {v : Word}
    (hi : exec i s = issueV (wordV 0x23 d a imm km fn c) (pure (.int o d a (.val v) km)) s)
    (hf : ∀ j, intElem o (sewSigned s.hart.sc.sew) (width s) (el s a j) (operand s (.val v) j) = f j) :
    givesElements s rest d (actives s km true) i f 0 :=
  gives_int hv hc hi (passes_intVI hd ha h) rfl hf
end

/-- The signed types of R52, as the parity of an integer type. -/
theorem sewSigned_eq {sew : BitVec 4} (h : sew.toNat < 8) : sewSigned sew = (sew.toNat % 2 == 0) := by
  simp [sewSigned, sewIsInt, h]

/-- Settles O19: each form is its operation on the elements (`gives_int`), which is the statement's on numbers of the element width. -/
theorem vectorIntegerResults : Obligations.VectorIntegerResults := by
  intro s rest d a b imm sb km c hv hc hd ha n signed low neg int clamp quot remain least most y k gives
  have h0 : 0 < n := width_pos s
  have hx (j : Nat) : el s a j < 2 ^ n := el_lt s a j
  have hz (j : Nat) : el s b j < 2 ^ n := el_lt s b j
  have hy : y < 2 ^ n := Nat.mod_lt _ (Nat.two_pow_pos n)
  have hk : k < 2 ^ n := (wrapInt_eq n imm.toInt).symm.trans_lt (wrapInt_lt n imm.toInt)
  refine ⟨fun ht => ?_, fun ht => ?_⟩
  · have hsg : sewSigned s.hart.sc.sew = signed := sewSigned_eq ht
    obtain ⟨h8, h64⟩ := width_bits (s := s) (by omega)
    have sx_k (j : Nat) : operand s (.val (sx imm)) j = k := operand_sx imm j h64
    have zx_imm (j : Nat) : operand s (.val (zx imm)) j = imm.toNat := operand_zx imm j h8
    refine ⟨fun hb => ?_, ?_⟩
    · simp only [List.forall_mem_cons]
      have vv {o : VIntOp} {i : Instr} {fn : BitVec 4} {f : Nat → Nat}
          (hi : exec i s = issueV (wordV 0x21 d a b km fn c) (pure (.int o d a (.reg b) km)) s) (hf : ¬ (8 ≤ fn.toNat ∧ fn.toNat ≤ 10))
          (e : ∀ j, intElem o signed n (el s a j) (el s b j) = f j) : gives i f :=
        gives_intVV hv hc hd ha hb (by rwa [if_neg hf]) hi (hsg ▸ e)
      exact ⟨vv rfl (by decide) fun j => intElem_add _, vv rfl (by decide) fun j => intElem_sub _, vv rfl (by decide) fun j => intElem_mul _,
        vv rfl (by decide) fun j => intElem_mulh _ h0 (hx j) (hz j), vv rfl (by decide) fun j => intElem_div _ h0 (hx j) (hz j),
        vv rfl (by decide) fun j => intElem_rem _ h0 (hx j) (hz j), vv rfl (by decide) fun j => intElem_min _ h0 (hx j) (hz j),
        vv rfl (by decide) fun j => intElem_max _ h0 (hx j) (hz j), vv rfl (by decide) fun j => intElem_sll _,
        vv rfl (by decide) fun j => intElem_srl _, vv rfl (by decide) fun j => intElem_sra _ h0 (hx j),
        vv rfl (by decide) fun j => intElem_sadd _ h0 (hx j) (hz j), vv rfl (by decide) fun j => intElem_ssub _ h0 (hx j) (hz j),
        List.forall_mem_nil _⟩
    · simp only [List.forall_mem_cons]
      have vs {o : VIntOp} {i : Instr} {fn : BitVec 4} {f : Nat → Nat}
          (hi : exec i s = issueV (wordVS 0x22 d a sb 0 km fn c) (do return .int o d a (.val (← rdX sb)) km) s)
          (hf : ¬ (8 ≤ fn.toNat ∧ fn.toNat ≤ 10)) (e : ∀ j, intElem o signed n (el s a j) y = f j) : gives i f :=
        gives_intVS hv hc hd ha (by rwa [if_neg hf]) hi (hsg ▸ e)
      have rsub : gives (.vrsubVS d a sb km c) fun j => low ((y : Int) - el s a j) :=
        gives_int hv hc rfl (passes_intVS1 hd ha (by decide) ht) (mk_scalar hv sb fun v => .int .rsub d a (.val v) km) fun j => intElem_rsub _
      have vi {o : VIntOp} {i : Instr} {fn : BitVec 4} {f : Nat → Nat}
          (hi : exec i s = issueV (wordV 0x23 d a imm km fn c) (pure (.int o d a (.val (sx imm)) km)) s) (hf : ¬ (2 ≤ fn.toNat ∧ fn.toNat ≤ 4))
          (e : ∀ j, intElem o signed n (el s a j) k = f j) : gives i f :=
        gives_intVI hv hc hd ha (by rwa [if_neg hf]) hi fun j => by rw [hsg, sx_k, e]
      have shift {o : VIntOp} {i : Instr} {fn : BitVec 4} {f : Nat → Nat}
          (hi : exec i s = issueV (wordV 0x23 d a imm km fn c) (pure (.int o d a (.val (zx imm)) km)) s) (hf : ¬ (2 ≤ fn.toNat ∧ fn.toNat ≤ 4))
          (e : ∀ j, intElem o signed n (el s a j) imm.toNat = f j) : gives i f :=
        gives_intVI hv hc hd ha (by rwa [if_neg hf]) hi fun j => by rw [hsg, zx_imm, e]
      exact ⟨vs rfl (by decide) fun j => intElem_add _, vs rfl (by decide) fun j => intElem_sub _, rsub, vs rfl (by decide) fun j => intElem_mul _,
        vs rfl (by decide) fun j => intElem_mulh _ h0 (hx j) hy, vs rfl (by decide) fun j => intElem_div _ h0 (hx j) hy,
        vs rfl (by decide) fun j => intElem_rem _ h0 (hx j) hy, vs rfl (by decide) fun j => intElem_min _ h0 (hx j) hy,
        vs rfl (by decide) fun j => intElem_max _ h0 (hx j) hy, vs rfl (by decide) fun j => intElem_sll _,
        vs rfl (by decide) fun j => intElem_srl _, vs rfl (by decide) fun j => intElem_sra _ h0 (hx j),
        vs rfl (by decide) fun j => intElem_sadd _ h0 (hx j) hy, vs rfl (by decide) fun j => intElem_ssub _ h0 (hx j) hy,
        vi rfl (by decide) fun j => intElem_add _, vi rfl (by decide) fun j => intElem_rsub _, vi rfl (by decide) fun j => intElem_min _ h0 (hx j) hk,
        vi rfl (by decide) fun j => intElem_max _ h0 (hx j) hk, shift rfl (by decide) fun j => intElem_sll _,
        shift rfl (by decide) fun j => intElem_srl _, shift rfl (by decide) fun j => intElem_sra _ h0 (hx j),
        vi rfl (by decide) fun j => intElem_sadd _ h0 (hx j) hk, List.forall_mem_nil _⟩
  · have sx_k (j : Nat) : operand s (.val (sx imm)) j = k := operand_sx imm j (width_bits ht).2
    simp only [List.forall_mem_cons]
    refine ⟨fun hb => ⟨?_, ?_, ?_⟩, ?_, ?_, ?_, ?_, ?_, ?_, List.forall_mem_nil _⟩
    iterate 3 exact gives_intVV hv hc hd ha hb (by exact ht) rfl fun _ => rfl
    iterate 3 exact gives_intVS hv hc hd ha (by exact ht) rfl fun _ => rfl
    iterate 3 exact gives_intVI hv hc hd ha (by exact ht) rfl fun j => by rw [sx_k]; rfl

/-! ### A floating-point result has the width of its format (R53, R56)

An element keeps the low bits of what it is given; the results of R125 to R129 have no others. -/

/-- The IEEE formats: the bias is half of the exponents, less one (R53). -/
def ieee (f : FFmt) : Prop := f.e4m3 = false ∧ f.fp8 = false ∧ 2 * f.bias + 2 = 2 ^ f.eb ∧ 1 ≤ f.fb ∧ 4 ≤ f.eb + f.fb

section
variable {f : FFmt} (hf : ieee f)

/-- A sign over the bits below it. -/
theorem signBit_add_lt (neg : Bool) {v : Nat} (h : v < 2 ^ (f.eb + f.fb)) : f.signBit neg + v < 2 ^ f.width := by
  have e : 2 ^ f.width = 2 ^ (f.eb + f.fb) + 2 ^ (f.eb + f.fb) := by
    rw [FFmt.width, Nat.add_assoc, Nat.pow_add, pow_one, Nat.two_mul]
  unfold FFmt.signBit
  split <;> omega

theorem signBit_lt (neg : Bool) : f.signBit neg < 2 ^ f.width := signBit_add_lt neg (v := 0) (Nat.two_pow_pos _)

/-- An exponent below its greatest and a fraction stand below the sign. -/
theorem exponent_fraction_lt {ex frac : Nat} (he : ex < 2 ^ f.eb) (hr : frac < 2 ^ f.fb) : (ex <<< f.fb) + frac < 2 ^ (f.eb + f.fb) := by
  rw [Nat.shiftLeft_eq, Nat.pow_add]
  calc ex * 2 ^ f.fb + frac < (ex + 1) * 2 ^ f.fb := by rw [Nat.add_mul]; omega
    _ ≤ 2 ^ f.eb * 2 ^ f.fb := Nat.mul_le_mul_right _ he

include hf

theorem nan_lt : f.nan < 2 ^ f.width := by
  obtain ⟨he, -, -, h1, -⟩ := hf
  have low : 2 ^ (f.fb - 1) < 2 ^ f.fb := Nat.pow_lt_pow_right (by decide) (by omega)
  have := signBit_add_lt false (exponent_fraction_lt (Nat.sub_one_lt (Nat.two_pow_pos f.eb).ne') low)
  simpa [FFmt.nan, he, FFmt.signBit] using this

theorem inf_lt (neg : Bool) : f.inf neg < 2 ^ f.width := by
  obtain ⟨he, -⟩ := hf
  have := signBit_add_lt neg (exponent_fraction_lt (Nat.sub_one_lt (Nat.two_pow_pos f.eb).ne') (Nat.two_pow_pos f.fb))
  simpa [FFmt.inf, he] using this

theorem maxFinite_lt (neg : Bool) : f.maxFinite neg < 2 ^ f.width := by
  have h := inf_lt hf neg
  obtain ⟨he, -⟩ := hf
  simp only [FFmt.inf, FFmt.maxFinite, he, Bool.false_eq_true, if_false] at h ⊢
  exact (Nat.add_le_add_left (Nat.sub_le _ _) _).trans_lt h

theorem overflow_lt (mode : RMode) (neg : Bool) : f.overflow mode neg < 2 ^ f.width := by
  have hi := inf_lt hf neg
  have hm := maxFinite_lt hf neg
  unfold FFmt.overflow
  split
  · exact hi
  · exact hm
  · split <;> assumption
  · split <;> assumption

/-- A value whose exponent is no greater than the greatest finite one packs into the format. -/
theorem pack_lt (neg : Bool) (r : Nat) {q : Int} (h : q + log2Floor r < f.bias + 1) : f.pack neg r q < 2 ^ f.width := by
  obtain ⟨-, -, hb, -⟩ := hf
  unfold FFmt.pack
  split
  next hr => exact signBit_add_lt neg (hr.trans_le (Nat.pow_le_pow_right (by decide) (Nat.le_add_left _ _)))
  next hr =>
    have hr0 : r ≠ 0 := fun e => hr (e ▸ Nat.two_pow_pos _)
    have hl : f.fb ≤ log2Floor r := (Nat.le_log2 hr0).mpr (Nat.not_lt.mp hr)
    have top : r < 2 ^ (log2Floor r + 1) := Nat.lt_log2_self
    have frac : r >>> (log2Floor r - f.fb) - 2 ^ f.fb < 2 ^ f.fb := by
      have : r >>> (log2Floor r - f.fb) < 2 ^ (f.fb + 1) := by
        rw [Nat.shiftRight_eq_div_pow, Nat.div_lt_iff_lt_mul (Nat.two_pow_pos _), ← Nat.pow_add]
        rwa [show f.fb + 1 + (log2Floor r - f.fb) = log2Floor r + 1 by omega]
      have : 2 ^ (f.fb + 1) = 2 ^ f.fb + 2 ^ f.fb := by rw [Nat.pow_succ, Nat.mul_two]
      have := Nat.two_pow_pos f.fb
      omega
    dsimp only
    rw [if_pos hl, Nat.add_assoc]
    exact signBit_add_lt neg (exponent_fraction_lt (by omega) frac)

theorem roundTo_lt (mode : RMode) (v : Exact) : (roundTo f mode v).1 < 2 ^ f.width := by
  obtain ⟨he, h8, -⟩ := id hf
  unfold roundTo FFmt.emax
  simp only [he, h8, Bool.false_eq_true, if_false, decide_eq_true_eq]
  split
  · exact signBit_lt _
  · split
    · exact overflow_lt hf mode _
    next h => exact pack_lt hf _ _ (by omega)

theorem addFin_lt (mode : RMode) (p : Bool) (m : Nat) (e : Int) (q : Bool) (k : Nat) (g : Int) :
    (addFin f mode p m e q k g).1 < 2 ^ f.width := by
  unfold addFin
  split
  · exact signBit_lt _
  · dsimp only
    split
    · exact signBit_lt _
    · exact roundTo_lt hf mode _

theorem addVal_lt (mode : RMode) (u w : FVal) : (addVal f mode u w).1 < 2 ^ f.width := by
  unfold addVal
  split
  · exact nan_lt hf
  · exact nan_lt hf
  · split
    · exact inf_lt hf _
    · exact nan_lt hf
  · exact inf_lt hf _
  · exact inf_lt hf _
  · exact addFin_lt hf mode ..

theorem mulVal_lt (mode : RMode) (u w : FVal) : (mulVal f mode u w).1 < 2 ^ f.width := by
  unfold mulVal
  split
  · exact nan_lt hf
  · exact nan_lt hf
  · exact inf_lt hf _
  · split
    · exact nan_lt hf
    · exact inf_lt hf _
  · split
    · exact nan_lt hf
    · exact inf_lt hf _
  · exact roundTo_lt hf mode _

theorem divVal_lt (mode : RMode) (u w : FVal) : (divVal f mode u w).1 < 2 ^ f.width := by
  unfold divVal
  split
  · exact nan_lt hf
  · exact nan_lt hf
  · exact nan_lt hf
  · exact inf_lt hf _
  · exact signBit_lt _
  · split
    · split
      · exact nan_lt hf
      · exact inf_lt hf _
    · split
      · exact signBit_lt _
      · exact roundTo_lt hf mode _

theorem sqrtVal_lt (mode : RMode) (u : FVal) : (sqrtVal f mode u).1 < 2 ^ f.width := by
  unfold sqrtVal
  split
  · exact nan_lt hf
  · split
    · exact nan_lt hf
    · exact inf_lt hf _
  · split
    · exact signBit_lt _
    · split
      · exact nan_lt hf
      · exact roundTo_lt hf mode _

theorem rsqrtVal_lt (mode : RMode) (u : FVal) : (rsqrtVal f mode u).1 < 2 ^ f.width := by
  unfold rsqrtVal
  split
  · exact nan_lt hf
  · split
    · exact nan_lt hf
    · exact Nat.two_pow_pos _
  · split
    · exact inf_lt hf _
    · split
      · exact nan_lt hf
      · exact roundTo_lt hf mode _

theorem fmaVal_lt (mode : RMode) (u w z : FVal) : (fmaVal f mode u w z).1 < 2 ^ f.width := by
  unfold fmaVal
  extract_lets nv zeroInf
  split
  · exact nan_lt hf
  · split
    · exact nan_lt hf
    · split
      · split
        · exact inf_lt hf _
        · exact addFin_lt hf mode ..
        · exact nan_lt hf
      · split
        · split
          · exact inf_lt hf _
          · exact nan_lt hf
        · exact inf_lt hf _

theorem minMaxBits_lt (wantMax : Bool) {u w : Nat} (hu : u < 2 ^ f.width) (hw : w < 2 ^ f.width) : (minMaxBits f wantMax u w).1 < 2 ^ f.width := by
  have either (p : Prop) [Decidable p] : (if p then u else w) < 2 ^ f.width := by split <;> assumption
  unfold minMaxBits
  dsimp only
  split
  · exact nan_lt hf
  · exact hw
  · exact hu
  · exact either _

theorem classBits_lt (u : Nat) : classBits f u < 2 ^ f.width := by
  obtain ⟨-, -, -, -, h4⟩ := hf
  have wide : 2 ^ 5 ≤ 2 ^ f.width := Nat.pow_le_pow_right (by decide) (by unfold FFmt.width; omega)
  have sign : bitsAt u (f.eb + f.fb) 1 < 2 := Nat.mod_lt _ (by decide)
  unfold classBits
  extract_lets neg kind
  have : kind ≤ 5 := by
    unfold kind
    split
    · decide
    · decide
    · decide
    · split
      · decide
      · split <;> decide
  omega

end

/-! ### Signs of elements (R130, R156) -/

/-- The sign bit of a pattern. -/
theorem signOf_eq {f : FFmt} {k : Nat} (hk : f.eb + f.fb = k) (u : Nat) : signOf f u = (u.testBit k).toNat := by
  rw [Nat.toNat_testBit, signOf, bitsAt, hk, Nat.shiftRight_eq_div_pow, pow_one]

/-- A sign over the bits of u below it. -/
theorem withSign_eq {f : FFmt} {k u : Nat} (hk : f.eb + f.fb = k) (hu : u < 2 ^ (k + 1)) (p : Bool) :
    withSign f u p.toNat = u % 2 ^ k + if p then 2 ^ k else 0 := by
  rw [withSign, hk, setBitsAt_form, Nat.div_eq_of_lt hu, Nat.add_comm]
  cases p <;> simp

/-- Any bit over the bits below the sign keeps the width. -/
theorem withSign_lt {f : FFmt} {u : Nat} (hu : u < 2 ^ f.width) (v : Nat) : withSign f u v < 2 ^ f.width := by
  have hw : f.width = f.eb + f.fb + 1 := by unfold FFmt.width; omega
  have low : u % 2 ^ (f.eb + f.fb) < 2 ^ (f.eb + f.fb) := Nat.mod_lt _ (Nat.two_pow_pos _)
  have bit : 2 ^ (f.eb + f.fb) * (v % 2) ≤ 2 ^ (f.eb + f.fb) * 1 := Nat.mul_le_mul_left _ (by omega)
  rw [hw] at hu ⊢
  rw [withSign, setBitsAt_form, Nat.div_eq_of_lt hu, Nat.mul_zero, Nat.zero_add, pow_one, Nat.pow_succ]
  omega

section
variable {f : FFmt} {k u : Nat} (hk : f.eb + f.fb = k) (hu : u < 2 ^ (k + 1)) (m : RMode) (w z : Nat)
include hk hu

theorem fpElem_sgnj : fpElem .sgnj f m u w z = (u % 2 ^ k + if w.testBit k then 2 ^ k else 0, 0) := by
  rw [fpElem, signOf_eq hk, withSign_eq hk hu]

theorem fpElem_sgnjn : fpElem .sgnjn f m u w z = (u % 2 ^ k + if !w.testBit k then 2 ^ k else 0, 0) := by
  have e : 1 - (w.testBit k).toNat = (!w.testBit k).toNat := by cases w.testBit k <;> rfl
  rw [fpElem, signOf_eq hk, e, withSign_eq hk hu]

theorem fpElem_sgnjx : fpElem .sgnjx f m u w z = (u % 2 ^ k + if u.testBit k != w.testBit k then 2 ^ k else 0, 0) := by
  have e : ((u.testBit k).toNat + (w.testBit k).toNat) % 2 = (u.testBit k != w.testBit k).toNat := by
    cases u.testBit k <;> cases w.testBit k <;> rfl
  rw [fpElem, signOf_eq hk, signOf_eq hk, e, withSign_eq hk hu]
end

/-- An element that a floating-point operation computes has the width of its format. -/
theorem fpElem_lt {f : FFmt} (hf : ieee f) (op : VFpOp) (m : RMode) {u w : Nat} (z : Nat) (hu : u < 2 ^ f.width) (hw : w < 2 ^ f.width) :
    (fpElem op f m u w z).1 < 2 ^ f.width := by
  cases op with
  | add | sub => exact addVal_lt hf ..
  | mul => exact mulVal_lt hf ..
  | div => exact divVal_lt hf ..
  | sqrt => exact sqrtVal_lt hf ..
  | rsqrt => exact rsqrtVal_lt hf ..
  | fma | fms | fnma => exact fmaVal_lt hf ..
  | min | max => exact minMaxBits_lt hf _ hu hw
  | fclass => exact classBits_lt hf u
  | sgnj | sgnjn | sgnjx => exact withSign_lt hu _

/-! ### Floating-point instructions, element by element (R156 to R158) -/

/-- The formats of the types fp16, bf16, fp32 and fp64 (R53). -/
theorem format_of_type : ∀ (sew : BitVec 4),
    ∀ t ∈ ([(8, fmtHalf), (9, fmtBf16), (10, fmtSingle), (11, fmtDouble)] : List (Nat × FFmt)).lookup sew.toNat,
      sewFmt sew = some t ∧ sewIsFloat sew = true ∧ sewBits sew = t.width ∧ ieee t := by
  unfold ieee
  decide

section
variable {s : State} {c : BitVec 1} {d a b : BitVec 6} {sb : BitVec 5} {km : BitVec 3} {fn : BitVec 4} (hd : d.toNat < regs s)
  (ha : a.toNat < regs s) (h : sewIsFloat s.hart.sc.sew = true)
include hd ha h

theorem passes_fpVV (hb : b.toNat < regs s) : passes s c (wordV 0x25 d a b km fn c) := by
  refine passes_V ?_
  rw [vecLegal_fpVV (wordV_op ..), dOf_wordV, aOf_wordV, bOf_wordV, h, decide_eq_true (And.intro hd ha), decide_eq_true ⟨hd, ha, hb⟩, ite_self]
  rfl

theorem passes_fpV (hf : fn.toNat = 4 ∨ fn.toNat = 5 ∨ fn.toNat = 11) : passes s c (wordV 0x25 d a b km fn c) := by
  refine passes_V ?_
  rw [vecLegal_fpVV (wordV_op ..), dOf_wordV, aOf_wordV, fnOf_wordV, if_pos hf, h, decide_eq_true (And.intro hd ha)]
  rfl

theorem passes_fpVS : passes s c (wordVS 0x26 d a sb 0 km fn c) := by
  refine passes_VS ?_
  rw [vecLegal_fpVS (wordVS_op ..), dOf_wordVS, aOf_wordVS, h, decide_eq_true (And.intro hd ha)]
  rfl
end

section
variable {s : State} {rest : List Word32} {c : BitVec 1} (hv : vectorReady s) (hc : convoyLeft s c rest)
  {d a : BitVec 6} {km : BitVec 3} {i : Instr} {o : VFpOp} {t : FFmt} {f : Nat → Nat × BitVec 6}
include hv hc

/-- A floating-point form gives each active element the value of its operation, in the captured rounding mode, and raises their flags (R156). -/
theorem gives_fp (ht : sewFmt s.hart.sc.sew = some t) (hi' : ieee t) (hn : width s = t.width) {w : Word32} {mk : M VOp} {y : VSrc}
    (hi : exec i s = issueV w mk s) (hw : passes s c w) (hm : mk s = .ok (.fp o d a y km) s)
    (hf : ∀ j, fpElem o t s.hart.sc.rm (el s a j) (operand s y j) (el s d j) = f j) :
    givesElements s rest d (actives s km true) i (fun j => (f j).1) (flagsOver (actives s km true) fun j => (f j).2) := by
  have values : (entryEnv s (entryOf s.hart w (.fp o d a y km))).compute (.fp o d a y km) =
      (entryEnv s (entryOf s.hart w (.fp o d a y km))).each f := by
    unfold VEnv.compute
    simp only [show (entryEnv s (entryOf s.hart w (.fp o d a y km))).sew = s.hart.sc.sew from rfl, ht, ← funext hf,
      ← entry_opnd s w (.fp o d a y km)]
    rfl
  refine gives_plain hv hc hi hw hm rfl rfl rfl values fun j => ?_
  rw [← hf, hn]
  exact fpElem_lt hi' o _ _ (hn ▸ el_lt s a j) (hn ▸ operand_lt s y j)
end

/-- Settles O21: each form is its operation on the elements (`gives_fp`), and no result is wider than its format (`fpElem_lt`). -/
theorem vectorFloatResults : Obligations.VectorFloatResults := by
  intro s rest d a b sb km c t hv hc hd ha hl n m acts gives withSign sign forms
  obtain ⟨ht, hfp, hn, ht'⟩ := format_of_type _ t hl
  have hk : t.eb + t.fb = n - 1 := by
    show _ = sewBits _ - 1
    rw [hn, FFmt.width]
    omega
  have h0 : n - 1 + 1 = n := Nat.sub_add_cancel (width_pos s)
  have hu (j : Nat) : el s a j < 2 ^ (n - 1 + 1) := h0.symm ▸ el_lt s a j
  have fp {o : VFpOp} {i : Instr} {w : Word32} {mk : M VOp} {y : VSrc} {f : Nat → Nat × BitVec 6} (hw : passes s c w)
      (hi : exec i s = issueV w mk s) (hm : mk s = .ok (.fp o d a y km) s)
      (e : ∀ j, fpElem o t m (el s a j) (operand s y j) (el s d j) = f j) : gives i f :=
    gives_fp hv hc ht ht' hn hi hw hm e
  refine ⟨fun hb => ?_, ?_, ?_, ?_, ?_⟩
  · show ∀ p ∈ List.zip _ _, _
    simp only [List.zip_cons_cons, List.zip_nil_left, List.forall_mem_cons]
    have vv {o : VFpOp} {i : Instr} {fn : BitVec 4} {f : Nat → Nat × BitVec 6}
        (hi : exec i s = issueV (wordV 0x25 d a b km fn c) (pure (.fp o d a (.reg b) km)) s)
        (e : ∀ j, fpElem o t m (el s a j) (el s b j) (el s d j) = f j) : gives i f :=
      fp (passes_fpVV hd ha hfp hb) hi rfl e
    exact ⟨vv rfl fun _ => rfl, vv rfl fun _ => rfl, vv rfl fun _ => rfl, vv rfl fun _ => rfl, vv rfl fun _ => rfl, vv rfl fun _ => rfl,
      vv rfl fun _ => rfl, vv rfl fun _ => rfl, vv rfl fun _ => rfl, vv rfl fun j => fpElem_sgnj hk (hu j) ..,
      vv rfl fun j => fpElem_sgnjn hk (hu j) .., vv rfl fun j => fpElem_sgnjx hk (hu j) .., List.forall_mem_nil _⟩
  · show ∀ p ∈ List.zip _ _, _
    simp only [List.zip_cons_cons, List.zip_nil_left, List.forall_mem_cons]
    have vs {o : VFpOp} {i : Instr} {fn : BitVec 4} {f : Nat → Nat × BitVec 6}
        (hi : exec i s = issueV (wordVS 0x26 d a sb 0 km fn c) (do return .fp o d a (.val (← rdX sb)) km) s)
        (e : ∀ j, fpElem o t m (el s a j) ((x s sb).toNat % 2 ^ n) (el s d j) = f j) : gives i f :=
      fp (passes_fpVS hd ha hfp) hi (mk_scalar hv sb fun v => .fp o d a (.val v) km) e
    exact ⟨vs rfl fun _ => rfl, vs rfl fun _ => rfl, vs rfl fun _ => rfl, vs rfl fun _ => rfl, vs rfl fun _ => rfl, vs rfl fun _ => rfl,
      vs rfl fun _ => rfl, vs rfl fun _ => rfl, vs rfl fun _ => rfl, vs rfl fun j => fpElem_sgnj hk (hu j) ..,
      vs rfl fun j => fpElem_sgnjn hk (hu j) .., vs rfl fun j => fpElem_sgnjx hk (hu j) .., List.forall_mem_nil _⟩
  · exact fp (passes_fpV hd ha hfp (by decide)) rfl rfl fun _ => rfl
  · exact fp (passes_fpV hd ha hfp (by decide)) rfl rfl fun _ => rfl
  · exact fp (passes_fpV hd ha hfp (by decide)) rfl rfl fun _ => rfl

/-! ### Multiply-accumulate and dot products (R153, R155) -/

theorem asInt_ite (sg : Bool) (n v : Nat) : asInt sg n v = if sg ∧ 2 ^ (n - 1) ≤ v then (v : Int) - 2 ^ n else v := by
  cases sg <;> simp [asInt, asSigned]

/-- The total of a dot product is the sum of its products and the accumulator. -/
theorem dot4Total_eq (sg : Bool) (u w : Nat) {z : Nat} (hz : z < 2 ^ 32) :
    dot4Total sg u w z = asInt sg 32 z + ∑ j ∈ Finset.range 4, asInt sg 8 (u / 2 ^ (8 * j) % 256) * asInt sg 8 (w / 2 ^ (8 * j) % 256) := by
  have byte (v j : Nat) : elemInt sg 8 (bitsAt v (8 * j) 8) = asInt sg 8 (v / 2 ^ (8 * j) % 256) := by
    rw [bitsAt, Nat.shiftRight_eq_div_pow]
    exact elemInt_eq (by decide) sg (Nat.mod_lt _ (by decide))
  unfold dot4Total
  simp only [byte, elemInt_eq (by decide : 0 < 32) sg hz, List.range_eq_range', List.range', List.foldl, Finset.sum_range_succ,
    Finset.sum_range_zero, zero_add]
  ring

section
variable {s : State} {c : BitVec 1} {d a b : BitVec 6} {sb : BitVec 5} {km : BitVec 3} {fn : BitVec 4} (hd : d.toNat < regs s)
  (ha : a.toNat < regs s) (hb : b.toNat < regs s)
include hd ha hb

theorem passes_acc (hf : fn.toNat < 2) (h : s.hart.sc.sew.toNat < 8) : passes s c (wordV 0x24 d a b km fn c) := by
  refine passes_V ?_
  rw [vecLegal_acc (wordV_op ..), fnOf_wordV, if_neg (by omega), if_neg (by omega), dOf_wordV, aOf_wordV, bOf_wordV, decide_eq_true ⟨hd, ha, hb⟩]
  exact decide_eq_true h

theorem passes_dot4 (hf : fn.toNat = 4 ∨ fn.toNat = 5) (h : s.hart.sc.sew.toNat = 4 ∨ s.hart.sc.sew.toNat = 5) :
    passes s c (wordV 0x24 d a b km fn c) := by
  refine passes_V ?_
  rw [vecLegal_acc (wordV_op ..), fnOf_wordV, if_neg (by omega), if_pos hf, dOf_wordV, aOf_wordV, bOf_wordV, decide_eq_true ⟨hd, ha, hb⟩]
  simpa [← BitVec.toNat_inj] using h
end

section
variable {s : State} {rest : List Word32} {c : BitVec 1} (hv : vectorReady s) (hc : convoyLeft s c rest)
  {d a b : BitVec 6} {km : BitVec 3} {i : Instr} {w : Word32} {mk : M VOp} {f : Nat → Nat}
include hv hc

/-- A multiply-accumulate form adds the product to its destination, or takes it away (R153). -/
theorem gives_macc {sub : Bool} {y : VSrc} (hi : exec i s = issueV w mk s) (hw : passes s c w) (hm : mk s = .ok (.macc sub d a y km) s)
    (hf : ∀ j, wrapInt (width s) (if sub then (el s d j : Int) - el s a j * operand s y j else el s d j + el s a j * operand s y j) = f j) :
    givesElements s rest d (actives s km true) i f 0 := by
  have values : (entryEnv s (entryOf s.hart w (.macc sub d a y km))).compute (.macc sub d a y km) =
      (entryEnv s (entryOf s.hart w (.macc sub d a y km))).each fun j => (f j, 0) := by
    simp only [← hf, ← Nat.cast_mul, ← entry_opnd s w (.macc sub d a y km)]
    rfl
  have h := gives_plain hv hc hi hw hm rfl rfl rfl values fun j => hf j ▸ wrapInt_lt _ _
  rwa [flagsOver_zero] at h

/-- A dot product gives each active element its total, saturated once or not at all (R155). -/
theorem gives_dot4 {sat : Bool} (hn : width s = 32) (hi : exec i s = issueV w (pure (.dot4 sat d a b km)) s) (hw : passes s c w)
    (hf : ∀ j, dot4Elem sat (sewSigned s.hart.sc.sew) (el s a j) (el s b j) (el s d j) = f j) :
    givesElements s rest d (actives s km true) i f 0 := by
  have values : (entryEnv s (entryOf s.hart w (.dot4 sat d a b km))).compute (.dot4 sat d a b km) =
      (entryEnv s (entryOf s.hart w (.dot4 sat d a b km))).each fun j => (f j, 0) := by
    simp only [← hf]
    rfl
  have h := gives_plain hv hc hi hw rfl rfl rfl rfl values fun j => hf j ▸ hn ▸ wrapInt_lt _ _
  rwa [flagsOver_zero] at h
end

/-! ### Elements of a pair of registers (R154)

A register of N · k bits holds k elements of N bits, and a pair of them 2k. -/

/-- Element j of a pair. -/
def pairElem (N k : Nat) (p : VReg × VReg) (j : Nat) : Nat := elemOf (if j < k then p.1 else p.2) N (j % k)

/-- A pair with an element written. -/
def putPair (N k : Nat) (p : VReg × VReg) (i v : Nat) : VReg × VReg :=
  if i < k then (setElem p.1 N (i % k) v, p.2) else (p.1, setElem p.2 N (i % k) v)

/-- A pair with the values of a list of elements written. -/
def putPairs (N k : Nat) (f : Nat → Nat) (l : List Nat) (p : VReg × VReg) : VReg × VReg := l.foldl (fun p i => putPair N k p i (f i)) p

/-- A strand with the registers d and d + 1 replaced by a pair. -/
def withPair (h : Hart) (d : BitVec 6) (p : VReg × VReg) : Hart := (h.setVr d p.1).setVr (d + 1) p.2

theorem setVr_comm (h : Hart) {q r : BitVec 6} (hq : q ≠ r) (u w : VReg) : (h.setVr q u).setVr r w = (h.setVr r w).setVr q u := by
  have : q.toNat ≠ r.toNat := fun e => hq (BitVec.eq_of_toNat_eq e)
  unfold Hart.setVr
  simp only [Vector.set_comm _ _ this]

theorem setVr_vr (h : Hart) (r : BitVec 6) : h.setVr r (h.vr r) = h := by
  unfold Hart.setVr Hart.vr
  simp only [Vector.set_getElem_self]

theorem withPair_self (h : Hart) (d : BitVec 6) : withPair h d (h.vr d, h.vr (d + 1)) = h := by
  unfold withPair
  rw [setVr_vr, setVr_vr]

section
variable {N k : Nat} (hN : 0 < N)

theorem pairElem_putPair (hw : N * k ≤ 131072) (p : VReg × VReg) {i j : Nat} (v : Nat) (hi : i < 2 * k) (hj : j < 2 * k) :
    pairElem N k (putPair N k p i v) j = if j = i then v % 2 ^ N else pairElem N k p j := by
  have place {m : Nat} (hm : m < 2 * k) : m % k = if m < k then m else m - k := by
    split
    · exact Nat.mod_eq_of_lt ‹_›
    · rw [Nat.mod_eq_sub_mod (by omega), Nat.mod_eq_of_lt (by omega)]
  have inside : (j % k + 1) * N ≤ 131072 :=
    (Nat.mul_le_mul_right N (Nat.mod_lt j (by omega))).trans (Nat.mul_comm N k ▸ hw)
  unfold pairElem putPair
  by_cases hik : i < k <;> by_cases hjk : j < k <;> simp only [hik, hjk, if_true, if_false]
  · rw [elemOf_setElem _ _ _ _ _ inside, place hi, place hj, if_pos hik, if_pos hjk]
  · rw [if_neg (by omega)]
  · rw [if_neg (by omega)]
  · have same : j - k = i - k ↔ j = i := by omega
    rw [elemOf_setElem _ _ _ _ _ inside, place hi, place hj, if_neg hik, if_neg hjk]
    simp only [same]

/-- The elements of a pair with a list of elements written. -/
theorem pairElem_putPairs (hw : N * k ≤ 131072) (f : Nat → Nat) {j : Nat} (hj : j < 2 * k) : ∀ (l : List Nat) (p : VReg × VReg),
    (∀ i ∈ l, i < 2 * k) → pairElem N k (putPairs N k f l p) j = if j ∈ l then f j % 2 ^ N else pairElem N k p j
  | [], _, _ => by simp [putPairs]
  | i :: t, p, hl => by
    obtain ⟨hi, ht⟩ := List.forall_mem_cons.mp hl
    show pairElem N k (putPairs N k f t (putPair N k p i (f i))) j = _
    rw [pairElem_putPairs hw f hj t _ ht, pairElem_putPair hw p _ hi hj]
    by_cases h : j = i
    · subst h
      simp
    · simp [h]

include hN in
/-- The place of an element in its register. -/
theorem place_mod (i : Nat) : i * N % (N * k) / N = i % k := by
  rw [Nat.mul_comm N k, Nat.mul_mod_mul_right, Nat.mul_div_cancel _ hN]

include hN in
/-- An element of a group goes to its register of the pair. -/
theorem putGroup_withPair (h : Hart) (d : BitVec 6) (p : VReg × VReg) {i : Nat} (v : Nat) (hi : i < 2 * k) :
    (withPair h d p).putGroup d (N * k) N i v = withPair h d (putPair N k p i v) := by
  have hd : d ≠ d + 1 := by bv_omega
  have hr : i * N / (N * k) = i / k := by rw [Nat.mul_comm N k, Nat.mul_div_mul_right _ _ hN]
  unfold Hart.putGroup putPair withPair
  simp only [hr, place_mod hN]
  by_cases hik : i < k
  · rw [if_pos hik, Nat.div_eq_of_lt hik, show d + BitVec.ofNat 6 0 = d from BitVec.add_zero d, setVr_comm _ hd.symm, setVr_setVr, vr_setVr,
      if_neg hd, vr_setVr, if_pos rfl]
  · have one : i / k = 1 := Nat.div_eq_of_lt_le (by omega) (by omega)
    rw [if_neg hik, one, show BitVec.ofNat 6 1 = 1 from rfl, setVr_setVr, vr_setVr, if_pos rfl]

include hN in
theorem putGroups_withPair (h : Hart) (d : BitVec 6) (f : Nat → Nat) : ∀ (l : List Nat) (p : VReg × VReg), (∀ i ∈ l, i < 2 * k) →
    (l.map fun i => (i, f i)).foldl (fun h e => h.putGroup d (N * k) N e.1 e.2) (withPair h d p) = withPair h d (putPairs N k f l p)
  | [], _, _ => rfl
  | i :: t, p, hl => by
    obtain ⟨hi, ht⟩ := List.forall_mem_cons.mp hl
    rw [List.map_cons, List.foldl_cons, putGroup_withPair hN h d p (f i) hi]
    exact putGroups_withPair h d f t _ ht
end

/-! ### Widening forms (R154) -/

/-- Where a widening form is legal, a register holds a whole number of the wide elements (R25, R26). -/
theorem wide_elements {s : State} (h : s.hart.sc.sew.toNat < 6) : ∃ k, regWidth s = 2 * width s * k ∧ regWidth s ≤ 131072 := by
  have fits : ∀ (gang : Bool) (nreg : BitVec 2) (sew : BitVec 4), sew.toNat < 6 →
      2 * sewBits sew ∣ 8 * regBytes gang nreg ∧ 8 * regBytes gang nreg ≤ 131072 := by decide
  obtain ⟨⟨k, hk⟩, hw⟩ := fits s.ring.gang s.hart.sc.nreg s.hart.sc.sew h
  exact ⟨k, hk, hw⟩

/-- Where VL elements fill no more than a register, the active ones have their wide elements in the pair (R154). -/
theorem actives_in_pair {s : State} {km : BitVec 3} {k : Nat} (hk : regWidth s = 2 * width s * k) (hvl : vl s * width s ≤ regWidth s) :
    ∀ j ∈ actives s km true, j < 2 * k := by
  intro j hj
  have below : j < vl s := List.mem_range.mp (List.mem_filter.mp hj).1
  have : vl s ≤ 2 * k := Nat.le_of_mul_le_mul_right (hvl.trans_eq (by rw [hk]; ring)) (width_pos s)
  omega

/-- A register other than the upper one of a pair has another number. -/
theorem toNat_ne_succ {d r : BitVec 6} (hr : r ≠ d + 1) : r.toNat ≠ d.toNat + 1 := by
  intro e
  refine hr (BitVec.eq_of_toNat_eq ?_)
  rw [BitVec.toNat_add, e]
  exact (Nat.mod_eq_of_lt (e ▸ r.isLt)).symm

section
variable {s : State} {c : BitVec 1} {d a b : BitVec 6} {sb : BitVec 5} {km : BitVec 3} {fn : BitVec 4}
  (h : s.hart.sc.sew.toNat < 6) (even : d.toNat % 2 = 0) (hd : d.toNat + 1 < regs s) (ha : a.toNat < regs s) (ne : a ≠ d) (ne1 : a ≠ d + 1)
include even hd ha ne ne1

theorem wideRegs_of {w : Word32} (hdw : dOf w = d.toNat) (haw : aOf w = a.toNat) {vv : Bool}
    (hb : vv = true → bOf w < regs s ∧ bOf w ≠ d.toNat ∧ bOf w ≠ d.toNat + 1) : wideRegs (regs s) w vv = true := by
  have h1 : a.toNat ≠ d.toNat := fun e => ne (BitVec.eq_of_toNat_eq e)
  have h2 := toNat_ne_succ ne1
  unfold wideRegs
  rw [hdw, haw]
  cases vv with
  | false => simp [even, hd, ha, h1, h2]
  | true => simp [even, hd, ha, h1, h2, hb rfl]

include h

theorem passes_widenVV (hb : b.toNat < regs s) (bne : b ≠ d) (bne1 : b ≠ d + 1) (hf : fn.toNat = 2 ∨ fn.toNat = 3) :
    passes s c (wordV 0x24 d a b km fn c) := by
  refine passes_V ?_
  rw [vecLegal_acc (wordV_op ..), fnOf_wordV, if_pos hf, decide_eq_true h]
  refine wideRegs_of even hd ha ne ne1 (dOf_wordV ..) (aOf_wordV ..) fun _ => ?_
  rw [bOf_wordV]
  exact ⟨hb, fun e => bne (BitVec.eq_of_toNat_eq e), toNat_ne_succ bne1⟩

theorem passes_widenVS (hf : fn.toNat = 3 ∨ fn.toNat = 4) : passes s c (wordVS 0x22 d a sb 1 km fn c) := by
  refine passes_VS ?_
  rw [vecLegal_intVS (wordVS_op ..), wordVS_f5, if_pos (by decide), fnOf_wordVS, if_pos hf, decide_eq_true h]
  exact wideRegs_of even hd ha ne ne1 (dOf_wordVS ..) (aOf_wordVS ..) fun e => absurd e Bool.false_ne_true
end

section
variable {s : State} {rest : List Word32} {c : BitVec 1} (hv : vectorReady s) (hc : convoyLeft s c rest)
  {d a : BitVec 6} {km : BitVec 3} {i : Instr} {w : Word32} {mk : M VOp} {mul : Bool} {y : VSrc} (hcopy : copyOf s = none)

include hv hcopy in
/-- A widening result without a copy is written to the pair of registers at its destination, and nothing else changes. -/
theorem committed_widen {acts : List Nat} {f : Nat → Nat} {k : Nat} (hw : regWidth s = 2 * width s * k) (hk : ∀ j ∈ acts, j < 2 * k) :
    committed (entryOf s.hart w (.widen mul d a y km)) (regWidth s) { VResult.none with elems := acts.map fun j => (j, f j, 0) } s.hart =
      withPair s.hart d (putPairs (2 * width s) k f acts (s.hart.vr d, s.hart.vr (d + 1))) := by
  have hN : 0 < 2 * width s := Nat.mul_pos (by decide) (width_pos s)
  have targets : (entryOf s.hart w (.widen mul d a y km)).targets = [d] := by
    unfold QEntry.targets
    rw [entryOf_copy, hcopy]
    rfl
  have written : s.hart.writeElems (entryOf s.hart w (.widen mul d a y km)) (regWidth s) (2 * width s) (acts.map fun j => (j, f j)) =
      withPair s.hart d (putPairs (2 * width s) k f acts (s.hart.vr d, s.hart.vr (d + 1))) := by
    rw [← putGroups_withPair hN s.hart d f acts _ hk, withPair_self, ← hw]
    unfold Hart.writeElems
    rw [targets]
    rfl
  have flags : (acts.map fun j => (j, f j, (0 : Flags))).foldl (fun g p => g ||| p.2.2) 0 = 0 := by
    rw [List.foldl_map]
    exact flagsOver_zero acts
  show Hart.vuFlags (s.hart.writeElems _ _ (2 * width s) ((acts.map fun j => (j, f j, (0 : Flags))).map fun p => (p.1, p.2.1)))
    ((acts.map fun j => (j, f j, (0 : Flags))).foldl (fun g p => g ||| p.2.2) 0) = _
  rw [List.map_map, flags]
  show Hart.vuFlags (s.hart.writeElems _ _ _ (acts.map fun j => (j, f j))) 0 = _
  rw [written, vuFlags_raise (h := withPair ..) hv.1, raise_zero]

include hv hc hcopy in
/-- A widening form writes an element of twice the width for each active element of its pair, and leaves the others (R154). -/
theorem gives_widen (h : s.hart.sc.sew.toNat < 6) (hvl : vl s * width s ≤ regWidth s) (hi : exec i s = issueV w mk s) (hp : passes s c w)
    (hm : mk s = .ok (.widen mul d a y km) s) {f : Nat → Int}
    (hf : ∀ j, f j = (let u := elemInt (sewSigned s.hart.sc.sew) (width s) (el s a j)
      let v := elemInt (sewSigned s.hart.sc.sew) (width s) (operand s y j)
      if mul then u * v else u + v)) :
    ∃ lo hi : VReg, exec i s = .next (vnext rest (fun h => (h.setVr d lo).setVr (d + 1) hi) s) ∧
      ∀ j, (j + 1) * (2 * width s) ≤ 2 * regWidth s →
        let first : Bool := decide (j * (2 * width s) < regWidth s)
        elemOf (if first then lo else hi) (2 * width s) (j * (2 * width s) % regWidth s / (2 * width s)) =
          if j ∈ actives s km true then (f j % 2 ^ (2 * width s)).toNat
          else elemOf (s.hart.vr (if first then d else d + 1)) (2 * width s) (j * (2 * width s) % regWidth s / (2 * width s)) := by
  obtain ⟨k, hk, hwide⟩ := wide_elements h
  have hN : 0 < 2 * width s := Nat.mul_pos (by decide) (width_pos s)
  have inside := actives_in_pair (km := km) hk hvl
  have values : (entryEnv s (entryOf s.hart w (.widen mul d a y km))).compute (.widen mul d a y km) =
      { VResult.none with elems := (actives s km true).map fun j => (j, wrapInt (2 * width s) (f j), 0) } := by
    refine Eq.trans ?_ (entry_each (word := w) (op := .widen mul d a y km) fun j => (wrapInt (2 * width s) (f j), 0))
    simp only [hf, ← entry_opnd s w (.widen mul d a y km)]
    rfl
  obtain ⟨hl, h0⟩ := hp
  have run : exec i s = .next (vnext rest (fun h => withPair h d (putPairs (2 * width s) k (fun j => wrapInt (2 * width s) (f j))
      (actives s km true) (s.hart.vr d, s.hart.vr (d + 1)))) s) := by
    rw [hi, issueV_elems hv hl hc h0 hm (fun h => absurd h Bool.false_ne_true) (fun _ _ he => by unfold vuBody; rw [he]), values]
    unfold vnext
    rw [committed_widen hv hcopy hk inside]
  refine ⟨_, _, run, fun j hj => ?_⟩
  have hj2 : j < 2 * k := by
    have : (j + 1) * (2 * width s) ≤ 2 * k * (2 * width s) := hj.trans_eq (by rw [hk]; ring)
    exact Nat.le_of_mul_le_mul_right this hN
  have first : j * (2 * width s) < regWidth s ↔ j < k := by
    rw [hk, Nat.mul_comm (2 * width s) k]
    exact Nat.mul_lt_mul_right hN
  have place : j * (2 * width s) % regWidth s / (2 * width s) = j % k := hk ▸ place_mod hN j
  have elem := pairElem_putPairs (hk ▸ hwide) (fun j => wrapInt (2 * width s) (f j)) hj2 (actives s km true)
    (s.hart.vr d, s.hart.vr (d + 1)) inside
  rw [Nat.mod_eq_of_lt (wrapInt_lt _ _), wrapInt_eq] at elem
  simp only [first, place, decide_eq_true_eq, apply_ite s.hart.vr]
  exact elem
end

/-- Settles O20: a form's result is its operation's on the elements (`gives_macc`, `gives_dot4`), or on the elements of the pair at vd (`gives_widen`). -/
theorem vectorAccumulateResults : Obligations.VectorAccumulateResults := by
  intro s rest d a b sb km c hv hc hd ha n signed int low y acts gives byte dot clamp wide
  have h0 : 0 < n := width_pos s
  have hx (j : Nat) : el s a j < 2 ^ n := el_lt s a j
  have int_eq : asInt signed = int := funext fun m => funext fun v => asInt_ite signed m v
  have low_eq (m : Nat) (z : Int) : wrapInt m z = low m z := wrapInt_eq m z
  refine ⟨fun ht => ?_, fun ht hb => ?_, fun ht even hd1 ne ne1 hcopy hvl => ?_⟩
  · have macc {sub : Bool} {i : Instr} {w : Word32} {mk : M VOp} {o : VSrc} (hi : exec i s = issueV w mk s) (hw : passes s c w)
        (hm : mk s = .ok (.macc sub d a o km) s) :
        gives i fun j => low n (if sub then (el s d j : Int) - el s a j * operand s o j else el s d j + el s a j * operand s o j) :=
      gives_macc hv hc hi hw hm fun j => low_eq ..
    exact ⟨macc (sub := false) (o := .val (x s sb)) rfl (passes_intVS1 hd ha (by decide) ht) (mk_scalar hv sb fun v => .macc false d a (.val v) km),
      macc (sub := true) (o := .val (x s sb)) rfl (passes_intVS1 hd ha (by decide) ht) (mk_scalar hv sb fun v => .macc true d a (.val v) km),
      fun hb => ⟨macc (sub := false) (o := .reg b) rfl (passes_acc hd ha hb (by decide) ht) rfl,
        macc (sub := true) (o := .reg b) rfl (passes_acc hd ha hb (by decide) ht) rfl⟩⟩
  · have hn : n = 32 := by
      have : ∀ v : BitVec 4, v.toNat = 4 ∨ v.toNat = 5 → sewBits v = 32 := by decide
      exact this _ ht
    have hsg : sewSigned s.hart.sc.sew = signed := sewSigned_eq (by omega)
    have total (j : Nat) : dot4Total (sewSigned s.hart.sc.sew) (el s a j) (el s b j) (el s d j) = dot (el s a j) (el s b j) (el s d j) := by
      rw [hsg, dot4Total_eq _ _ _ (hn ▸ el_lt s d j), int_eq]
    refine ⟨gives_dot4 hv hc hn rfl (passes_dot4 hd ha hb (by decide) ht) fun j => ?_,
      gives_dot4 hv hc hn rfl (passes_dot4 hd ha hb (by decide) ht) fun j => ?_⟩
    · rw [← total, ← low_eq]
      rfl
    · rw [← total, ← low_eq]
      show wrapInt 32 (saturate _ 32 _).1 = _
      rw [saturate_eq, hsg]
  · have hsg : sewSigned s.hart.sc.sew = signed := sewSigned_eq (by omega)
    have widen {mul : Bool} {i : Instr} {w : Word32} {mk : M VOp} {o : VSrc} (hi : exec i s = issueV w mk s) (hw : passes s c w)
        (hm : mk s = .ok (.widen mul d a o km) s) :
        wide i fun j => if mul then int n (el s a j) * int n (operand s o j) else int n (el s a j) + int n (operand s o j) :=
      gives_widen hv hc hcopy ht hvl hi hw hm fun j => by
        rw [hsg, elemInt_eq h0 signed (hx j), elemInt_eq h0 signed (operand_lt s o j), int_eq]
    have vs {fn : BitVec 4} (hf : fn.toNat = 3 ∨ fn.toNat = 4) : passes s c (wordVS 0x22 d a sb 1 km fn c) :=
      passes_widenVS ht even hd1 ha ne ne1 hf
    refine ⟨widen (mul := false) (o := .val (x s sb)) rfl (vs (by decide)) (mk_scalar hv sb fun v => .widen false d a (.val v) km),
      widen (mul := true) (o := .val (x s sb)) rfl (vs (by decide)) (mk_scalar hv sb fun v => .widen true d a (.val v) km), fun hb bne bne1 => ?_⟩
    have vv {fn : BitVec 4} (hf : fn.toNat = 2 ∨ fn.toNat = 3) : passes s c (wordV 0x24 d a b km fn c) :=
      passes_widenVV ht even hd1 ha ne ne1 hb bne bne1 hf
    exact ⟨widen (mul := false) (o := .reg b) rfl (vv (by decide)) rfl, widen (mul := true) (o := .reg b) rfl (vv (by decide)) rfl⟩

end Sys2Proof.Proofs

/-! SUPPORT. Proofs of the statements of the family of spec/07: vector data movement. -/

namespace Sys2Proof.Proofs

open Sys2Proof Sys2Proof.Machine Sys2Proof.Safety

-- One declaration after another: the whole text is compiled in bounded memory.
set_option Elab.async false

/-! ### The checks of the push for compares and mask instructions (R150, R161, R163) -/

theorem vecLegal_masks {n : Nat} {sew : BitVec 4} {w : Word32} (ho : (fld w 26 6 : BitVec 6) = 0x28) : vecLegal n sew w = true := by
  delta vecLegal
  rw [ho]
  rfl

/-- Any element type but mxf4. -/
theorem sewNotF4_of_ne {sew : BitVec 4} (h : sew ≠ 14) : sewNotF4 sew = true := bne_iff_ne.mpr h

section
variable {s : State} {c : BitVec 1} {d a b : BitVec 6} {sb : BitVec 5} {f5 : BitVec 1} {km : BitVec 3} {fn : BitVec 4}

theorem passes_masks : passes s c (wordV 0x28 d a b km fn c) := passes_V (vecLegal_masks (wordV_op ..))

variable (ha : a.toNat < regs s)
include ha

theorem passes_compareVV (hb : b.toNat < regs s)
    (h : (if fn.toNat % 8 < 4 then sewIsInt s.hart.sc.sew else sewIsFloat s.hart.sc.sew) = true) : passes s c (wordV 0x27 d a b km fn c) := by
  refine passes_V ?_
  rw [vecLegal_compare (wordV_op ..), aOf_wordV, bOf_wordV, fnOf_wordV, h, decide_eq_true ha, decide_eq_true hb, ite_self]
  rfl

theorem passes_compareVS (hf : 8 ≤ fn.toNat)
    (h : (if fn.toNat % 8 < 4 then sewIsInt s.hart.sc.sew else sewIsFloat s.hart.sc.sew) = true) :
    passes s c (wordVS 0x27 d a sb f5 km fn c) := by
  refine passes_VS ?_
  rw [vecLegal_compare (wordVS_op ..), aOf_wordVS, fnOf_wordVS, h, decide_eq_true ha, if_neg (by omega)]
  rfl

theorem passes_confl (h : s.hart.sc.sew ≠ 14) : passes s c (wordV 0x29 d a 0 km 12 c) := by
  refine passes_V ?_
  rw [vecLegal_confl (wordV_op ..) (fnOf_wordV ..), aOf_wordV, decide_eq_true ha, sewNotF4_of_ne h]
  rfl
end

/-! ### Instructions that write one bit of a mask for each active element (R161, R163) -/

/-- The operations that answer a bit for each active element, and find it from that element alone. -/
def bitwise : VOp → Bool
  | .cmp .. | .mask .. => true
  | _ => false

/-- The operations that restart from element 0 find VSTART = 0, or nothing to process (R50). -/
theorem startsWell_of {s : State} (h0 : s.hart.vstart = 0 ∨ vl s = 0) (w : Word32) (op : VOp) : startsWell s (entryOf s.hart w op) :=
  fun _ => h0.imp_right fun h => BitVec.eq_of_toNat_eq h

/-- With no register bound, the strips raise nothing. -/
theorem entry_stripFlags (s : State) (w : Word32) (op : VOp) : (entryEnv s (entryOf s.hart w op)).stripFlags = 0 := flagsOver_zero _

section
variable {s : State} {rest : List Word32} {c : BitVec 1} (hv : vectorReady s) (hc : convoyLeft s c rest)
  {d : BitVec 3} {a : BitVec 6} {km : BitVec 3} {w : Word32} {mk : M VOp} {i : Instr}
include hv hc

/-- A bitwise operation gives each active element its bit, and raises the flags of all of them. -/
theorem gives_bitwise {op : VOp} (hi : exec i s = issueV w mk s) (hw : passes s c w) (hm : mk s = .ok op s) (hp : bitwise op = true)
    (hd : op.maskDest = some (d, true)) {f : Nat → Bool × Flags}
    (hf : (entryEnv s (entryOf s.hart w op)).compute op = (entryEnv s (entryOf s.hart w op)).eachBit f) :
    givesBits s rest d (actives s op.km op.usesVE) i (fun j => (f j).1) (flagsOver (actives s op.km op.usesVE) fun j => (f j).2) := by
  obtain ⟨hl, h0⟩ := hw
  rw [entry_eachBit] at hf
  cases op with
  | cmp | mask =>
    exact gives_bits hv hc hi hl h0 hm (fun h => absurd h Bool.false_ne_true) (fun _ _ he => by unfold vuBody; rw [he]) rfl rfl hd _ hf
  | _ => cases hp

/-- A compare gives each active element its outcome, and raises the flags of all of them (R161, R162). -/
theorem gives_compare {o : VCmpOp} {y : VSrc} (hi : exec i s = issueV w mk s) (hw : passes s c w) (hm : mk s = .ok (.cmp o d a y km) s)
    {f : Nat → Bool × Flags}
    (hf : ∀ j, cmpElem o (sewSigned s.hart.sc.sew) (width s) ((sewFmt s.hart.sc.sew).getD fmtDouble) (el s a j) (operand s y j) = f j) :
    givesBits s rest d (actives s km true) i (fun j => (f j).1) (flagsOver (actives s km true) fun j => (f j).2) := by
  obtain rfl := funext hf
  refine gives_bitwise hv hc hi hw hm rfl rfl ?_
  simp only [← entry_opnd s w (.cmp o d a y km)]
  rfl

/-- A compare of integers raises nothing. -/
theorem gives_compareInt {o : VCmpOp} {y : VSrc} (hi : exec i s = issueV w mk s) (hw : passes s c w) (hm : mk s = .ok (.cmp o d a y km) s)
    {f : Nat → Bool}
    (hf : ∀ j, cmpElem o (sewSigned s.hart.sc.sew) (width s) ((sewFmt s.hart.sc.sew).getD fmtDouble) (el s a j) (operand s y j) = (f j, 0)) :
    givesBits s rest d (actives s km true) i f 0 := by
  have h := gives_compare hv hc hi hw hm hf
  rwa [flagsOver_zero] at h

/-- A mask operation gives each active element its bit, whatever VMODE.VE says (R163). -/
theorem gives_masks {o : VMaskOp} {ka kb : BitVec 3} (hi : exec i s = issueV w (pure (.mask o d ka kb km)) s) (hw : passes s c w) :
    givesBits s rest d (actives s km false) i (fun j => maskBit o ((s.hart.mask ka).getLsbD j) ((s.hart.mask kb).getLsbD j)) 0 := by
  have h := gives_bitwise hv hc hi hw rfl rfl rfl
    (f := fun j => (maskBit o ((s.hart.mask ka).getLsbD j) ((s.hart.mask kb).getLsbD j), 0)) rfl
  rwa [flagsOver_zero] at h
end

/-! ### vconfl (R171) -/

/-- Of places in order, the first of each value: no earlier place holds it. -/
theorem firstOf_sorted (f : Nat → Nat) : ∀ (l seen : List Nat), l.Pairwise (· < ·) →
    firstOf seen (l.map fun i => (i, f i)) = l.map fun j => (j, !seen.contains (f j) && l.all fun i => decide (j ≤ i) || f i != f j)
  | [], _, _ => rfl
  | i :: t, seen, hl => by
    obtain ⟨hi, ht⟩ := List.pairwise_cons.mp hl
    have first : (t.all fun k => decide (i ≤ k) || f k != f i) = true :=
      List.all_eq_true.mpr fun k hk => by simp [(hi k hk).le]
    rw [List.map_cons, List.map_cons, firstOf, firstOf_sorted f t _ ht]
    refine congrArg₂ List.cons ?_ (List.map_congr_left fun j hj => ?_)
    · simp only [List.all_cons, first, Nat.le_refl, decide_true, Bool.true_or, Bool.and_true]
    · simp only [List.all_cons, List.contains_cons, Nat.not_le.mpr (hi j hj), decide_false, Bool.false_or, Bool.not_or, bne, Bool.and_assoc,
        Bool.and_left_comm, BEq.comm (a := f j)]

theorem actives_sorted (s : State) (km : BitVec 3) (honours : Bool) : (actives s km honours).Pairwise (· < ·) :=
  List.Pairwise.filter _ List.pairwise_lt_range

section
variable {s : State} {rest : List Word32} {c : BitVec 1} (hv : vectorReady s) (hc : convoyLeft s c rest) (h0 : s.hart.vstart = 0 ∨ vl s = 0)
  {km : BitVec 3}
include hv hc h0

theorem gives_confl {d : BitVec 3} {a : BitVec 6} (ha : a.toNat < regs s) (h14 : s.hart.sc.sew ≠ 14) :
    givesBits s rest d (actives s km false) (.vconfl d a km c)
      (fun j => (actives s km false).all fun i => decide (j ≤ i) || el s a i != el s a j) 0 := by
  let w := wordV 0x29 (d.setWidth 6) a 0 km 12 c
  have values : (entryEnv s (entryOf s.hart w (.confl d a km))).compute (.confl d a km) =
      { VResult.none with bits := (actives s km false).map fun j =>
        (j, (actives s km false).all fun i => decide (j ≤ i) || el s a i != el s a j, 0) } := by
    have bits := firstOf_sorted (el s a) (actives s km false) [] (actives_sorted s km false)
    unfold VEnv.compute
    dsimp only
    rw [entry_stripFlags, entry_act]
    refine congrArg (fun l => { VResult.none with bits := l }) ?_
    refine (congrArg (List.map fun p => (p.1, p.2, (0 : Flags))) bits).trans ?_
    rw [List.map_map]
    exact List.map_congr_left fun j _ => by simp
  obtain ⟨hl, hc0⟩ := passes_confl (c := c) (d := d.setWidth 6) (km := km) ha h14
  have h := gives_bits (mk := pure (.confl d a km)) (i := .vconfl d a km c) hv hc rfl hl hc0 rfl (startsWell_of h0 w _) (fun _ _ he => by unfold vuBody; rw [he]) rfl rfl rfl _ values
  rwa [flagsOver_zero] at h

/-! ### vcpop and vfirst (R164) -/

variable {sd : BitVec 5} {ka : BitVec 3}

theorem gives_cpop : givesScalar s rest sd (.vcpop sd ka km c)
    (BitVec.ofNat 64 ((actives s km false).filter (s.hart.mask ka).getLsbD).length) 0 := by
  let w := wordV 0x28 (sd.setWidth 6) (ka.setWidth 6) 0 km 4 c
  have values : (entryEnv s (entryOf s.hart w (.cpop sd ka km))).compute (.cpop sd ka km) =
      { VResult.none with scalar := some (BitVec.ofNat 64 ((actives s km false).filter (s.hart.mask ka).getLsbD).length), flags := 0 } := by
    unfold VEnv.compute
    dsimp only
    rw [entry_act]
    rfl
  obtain ⟨hl, hc0⟩ := passes_masks (s := s)
  exact gives_scalar hv hc rfl hl hc0 rfl (startsWell_of h0 w _) (fun _ _ he => by unfold vuBody; rw [he]) rfl rfl rfl rfl values

theorem gives_first : givesScalar s rest sd (.vfirst sd ka km c)
    ((((actives s km false).find? (s.hart.mask ka).getLsbD).map (BitVec.ofNat 64)).getD (BitVec.allOnes 64)) 0 := by
  let w := wordV 0x28 (sd.setWidth 6) (ka.setWidth 6) 0 km 5 c
  have values : (entryEnv s (entryOf s.hart w (.first sd ka km))).compute (.first sd ka km) =
      { VResult.none with
        scalar := some ((((actives s km false).find? (s.hart.mask ka).getLsbD).map (BitVec.ofNat 64)).getD (BitVec.allOnes 64)), flags := 0 } := by
    unfold VEnv.compute
    dsimp only
    rw [entry_act]
    show { VResult.none with scalar := some (match (actives s km false).find? (s.hart.mask ka).getLsbD with
      | some i => BitVec.ofNat 64 i
      | none => BitVec.allOnes 64) } = _
    cases (actives s km false).find? (s.hart.mask ka).getLsbD <;> rfl
  obtain ⟨hl, hc0⟩ := passes_masks (s := s)
  exact gives_scalar hv hc rfl hl hc0 rfl (startsWell_of h0 w _) (fun _ _ he => by unfold vuBody; rw [he]) rfl rfl rfl rfl values
end

/-- Settles O22: a compare or mask instruction is its operation on each active element (`gives_compare`, `gives_masks`), and vconfl finds the first of
each value among elements in order (`firstOf_sorted`). -/
theorem vectorMaskResults : Obligations.VectorMaskResults := by
  intro s rest d a b sb ka kb km c hv hc n acts bare int y bit
  have h0 : 0 < n := width_pos s
  refine ⟨fun ha ht => ?_, fun ha t hl => ?_, ?_, fun hst => ⟨gives_cpop hv hc hst, gives_first hv hc hst, gives_confl hv hc hst⟩⟩
  · have hint : sewIsInt s.hart.sc.sew = true := decide_eq_true ht
    have hsg : sewSigned s.hart.sc.sew = (s.hart.sc.sew.toNat % 2 == 0) := sewSigned_eq ht
    have elem {v : Nat} (h : v < 2 ^ n) : elemInt (sewSigned s.hart.sc.sew) n v = int v := by
      rw [hsg, elemInt_eq h0 _ h, asInt_ite]
      simp only [beq_iff_eq]
      rfl
    have hx (j : Nat) : elemInt (sewSigned s.hart.sc.sew) n (el s a j) = int (el s a j) := elem (el_lt s a j)
    have hz (j : Nat) : elemInt (sewSigned s.hart.sc.sew) n (el s b j) = int (el s b j) := elem (el_lt s b j)
    have hy : elemInt (sewSigned s.hart.sc.sew) n y = int y := elem (Nat.mod_lt _ (Nat.two_pow_pos n))
    refine ⟨fun hb => ?_, ?_⟩
    · have vv {o : VCmpOp} {i : Instr} {fn : BitVec 4} {f : Nat → Bool} (hf : fn.toNat % 8 < 4)
          (hi : exec i s = issueV (wordV 0x27 (d.setWidth 6) a b km fn c) (pure (.cmp o d a (.reg b) km)) s)
          (e : ∀ j, cmpElem o (sewSigned s.hart.sc.sew) n ((sewFmt s.hart.sc.sew).getD fmtDouble) (el s a j) (el s b j) = (f j, 0)) :
          givesBits s rest d acts i f 0 :=
        gives_compareInt hv hc hi (passes_compareVV ha hb (by rwa [if_pos hf])) rfl e
      exact ⟨vv (by decide) rfl fun _ => rfl, vv (by decide) rfl fun _ => rfl, vv (by decide) rfl fun j => by rw [← hx, ← hz]; rfl,
        vv (by decide) rfl fun j => by rw [← hx, ← hz]; rfl⟩
    · have vs {o : VCmpOp} {i : Instr} {fn : BitVec 4} {f : Nat → Bool} (h8 : 8 ≤ fn.toNat) (hf : fn.toNat % 8 < 4)
          (hi : exec i s = issueV (wordVS 0x27 (d.setWidth 6) a sb 0 km fn c) (do return .cmp o d a (.val (← rdX sb)) km) s)
          (e : ∀ j, cmpElem o (sewSigned s.hart.sc.sew) n ((sewFmt s.hart.sc.sew).getD fmtDouble) (el s a j) y = (f j, 0)) :
          givesBits s rest d acts i f 0 :=
        gives_compareInt hv hc hi (passes_compareVS ha h8 (by rwa [if_pos hf])) (mk_scalar hv sb fun v => .cmp o d a (.val v) km) e
      exact ⟨vs (by decide) (by decide) rfl fun _ => rfl, vs (by decide) (by decide) rfl fun _ => rfl,
        vs (by decide) (by decide) rfl fun j => by rw [← hx, ← hy]; rfl, vs (by decide) (by decide) rfl fun j => by rw [← hx, ← hy]; rfl⟩
  · intro test gives
    obtain ⟨ht, hfp, -, -⟩ := format_of_type _ t hl
    have fmt : (sewFmt s.hart.sc.sew).getD fmtDouble = t := by rw [ht]; rfl
    refine ⟨fun hb => ?_, ?_⟩
    · have vv {o : VCmpOp} {i : Instr} {fn : BitVec 4} {f : Nat → Bool × Flags} (hf : ¬ fn.toNat % 8 < 4)
          (hi : exec i s = issueV (wordV 0x27 (d.setWidth 6) a b km fn c) (pure (.cmp o d a (.reg b) km)) s)
          (e : ∀ j, cmpElem o (sewSigned s.hart.sc.sew) n t (el s a j) (el s b j) = f j) : gives i f :=
        gives_compare hv hc hi (passes_compareVV ha hb (by rwa [if_neg hf])) rfl (fmt ▸ e)
      exact ⟨vv (by decide) rfl fun _ => rfl, vv (by decide) rfl fun _ => rfl, vv (by decide) rfl fun _ => rfl⟩
    · have vs {o : VCmpOp} {i : Instr} {fn : BitVec 4} {f : Nat → Bool × Flags} (h8 : 8 ≤ fn.toNat) (hf : ¬ fn.toNat % 8 < 4)
          (hi : exec i s = issueV (wordVS 0x27 (d.setWidth 6) a sb 0 km fn c) (do return .cmp o d a (.val (← rdX sb)) km) s)
          (e : ∀ j, cmpElem o (sewSigned s.hart.sc.sew) n t (el s a j) y = f j) : gives i f :=
        gives_compare hv hc hi (passes_compareVS ha h8 (by rwa [if_neg hf])) (mk_scalar hv sb fun v => .cmp o d a (.val v) km) (fmt ▸ e)
      exact ⟨vs (by decide) (by decide) rfl fun _ => rfl, vs (by decide) (by decide) rfl fun _ => rfl,
        vs (by decide) (by decide) rfl fun _ => rfl⟩
  · have masks {o : VMaskOp} {i : Instr} {fn : BitVec 4}
        (hi : exec i s = issueV (wordV 0x28 (d.setWidth 6) (ka.setWidth 6) (kb.setWidth 6) km fn c) (pure (.mask o d ka kb km)) s) :
        givesBits s rest d bare i (fun j => maskBit o (bit ka j) (bit kb j)) 0 :=
      gives_masks hv hc hi passes_masks
    exact ⟨masks (o := .and) rfl, masks (o := .or) rfl, masks (o := .xor) rfl, masks (o := .andn) rfl⟩

/-! ### Instructions that complete (R49) -/

/-- An instruction answers a next state, in which the strand goes on at the next word, and VSTART is 0. -/
def completes (s : State) (i : Instr) : Prop := ∃ t, exec i s = .next t ∧ t.hart.sc.pc = s.hart.sc.pc + 4 ∧ t.hart.vstart = 0

/-- A state that differs from s in anything but its pc is left at the next word. -/
theorem completes_of_vnext {s u : State} {rest : List Word32} {i : Instr} {f : Hart → Hart} (hu : u.hart.sc.pc = s.hart.sc.pc)
    (h : exec i s = .next (vnext rest f u)) : completes s i :=
  ⟨_, h, (finish_pc _).trans (congrArg (· + 4) hu), rfl⟩

/-- What an instruction leaves depends on the strand that it makes of the present one. -/
theorem vnext_congr {s : State} {rest : List Word32} {f g : Hart → Hart} (h : f s.hart = g s.hart) : vnext rest f s = vnext rest g s := by
  unfold vnext
  rw [h]

theorem complete_nil (s : State) : complete [] s ↔ True := iff_true_intro (List.forall_mem_nil _)

theorem complete_cons {s : State} {i : Instr} {l : List Instr} : complete (i :: l) s ↔ completes s i ∧ complete l s := List.forall_mem_cons

theorem completes_of_givesElements {s : State} {rest : List Word32} {d : BitVec 6} {acts : List Nat} {i : Instr} {f : Nat → Nat} {g : BitVec 6}
    (h : givesElements s rest d acts i f g) : completes s i :=
  let ⟨_, h, _⟩ := h
  completes_of_vnext rfl h

theorem completes_of_givesScalar {s : State} {rest : List Word32} {d : BitVec 5} {i : Instr} {v : Word} {g : BitVec 6}
    (h : givesScalar s rest d i v g) : completes s i :=
  completes_of_vnext rfl h

/-! ### The checks of the push for major 0x29 (R150, R165 to R170) -/

/-- Slides and vcompress are checked alike. -/
theorem vecLegal_slides {n : Nat} {sew : BitVec 4} {w : Word32} (ho : (fld w 26 6 : BitVec 6) = 0x29)
    (hf : fnOf w = 3 ∨ fnOf w = 4 ∨ fnOf w = 5 ∨ fnOf w = 6 ∨ fnOf w = 8) :
    vecLegal n sew w = (decide (dOf w < n ∧ aOf w < n) && sewNotF4 sew && dOf w != aOf w) := by
  delta vecLegal
  rw [ho]
  rcases hf with h | h | h | h | h <;> (rw [show (fld w 1 4 : BitVec 4).toNat = _ from h]; rfl)

/-- Different registers have different numbers. -/
theorem bne_toNat {a d : BitVec 6} (h : a ≠ d) : (d.toNat != a.toNat) = true := bne_iff_ne.mpr fun e => h (BitVec.eq_of_toNat_eq e.symm)

section
variable {s : State} {c : BitVec 1} {d a b : BitVec 6} {k : BitVec 6} {sb : BitVec 5} {f5 : BitVec 1} {km : BitVec 3} {fn : BitVec 4}

theorem passes_mvxs (ha : a.toNat < regs s) (h : s.hart.sc.sew ≠ 14) : passes s c (wordV 0x29 d a b 0 2 c) := by
  refine passes_V ?_
  rw [vecLegal_mvxs (wordV_op ..) (fnOf_wordV ..), wordV_km, aOf_wordV, decide_eq_true ha, sewNotF4_of_ne h]
  rfl

variable (hd : d.toNat < regs s)
include hd

theorem passes_mvVI (h : s.hart.sc.sew ≠ 14) : passes s c (wordV 0x29 d a b km 13 c) := by
  refine passes_V ?_
  rw [vecLegal_mvVI (wordV_op ..) (fnOf_wordV ..), dOf_wordV, decide_eq_true hd, sewNotF4_of_ne h]
  rfl

theorem passes_mvVS (h : s.hart.sc.sew ≠ 14) : passes s c (wordVS 0x29 d a sb f5 km 14 c) := by
  refine passes_VS ?_
  rw [vecLegal_mvVS (wordVS_op ..) (fnOf_wordVS ..), dOf_wordVS, decide_eq_true hd, sewNotF4_of_ne h]
  rfl

theorem passes_mvsx (h : s.hart.sc.sew ≠ 14) : passes s c (wordVS 0x29 d a sb f5 km 1 c) := by
  refine passes_VS ?_
  rw [vecLegal_mvsx (wordVS_op ..) (fnOf_wordVS ..), dOf_wordVS, decide_eq_true hd, sewNotF4_of_ne h]
  rfl

theorem passes_iota (h : s.hart.sc.sew.toNat < 8) : passes s c (wordV 0x29 d a b km 9 c) := by
  refine passes_V ?_
  rw [vecLegal_iota (wordV_op ..) (fnOf_wordV ..), dOf_wordV, decide_eq_true hd]
  exact decide_eq_true h

theorem passes_vid (h : s.hart.sc.sew.toNat < 8) : passes s c (wordV 0x29 d a b km 10 c) := by
  refine passes_V ?_
  rw [vecLegal_vid (wordV_op ..) (fnOf_wordV ..), dOf_wordV, decide_eq_true hd]
  exact decide_eq_true h

variable (ha : a.toNat < regs s)
include ha

theorem passes_mv : passes s c (wordV 0x29 d a b km 0 c) := by
  refine passes_V ?_
  rw [vecLegal_mv (wordV_op ..) (fnOf_wordV ..), dOf_wordV, aOf_wordV, decide_eq_true ⟨hd, ha⟩]

variable (ne : a ≠ d)
include ne

theorem passes_nzscan (h : 2 ≤ s.hart.sc.sew.toNat ∧ s.hart.sc.sew.toNat ≤ 11) : passes s c (wordVS 0x29 d a sb f5 km 11 c) := by
  refine passes_VS ?_
  rw [vecLegal_nzscan (wordVS_op ..) (fnOf_wordVS ..), dOf_wordVS, aOf_wordVS, decide_eq_true ⟨hd, ha⟩, decide_eq_true h, bne_toNat ne]
  rfl

variable (h : s.hart.sc.sew ≠ 14)
include h

theorem passes_slides (hf : fn.toNat = 3 ∨ fn.toNat = 4 ∨ fn.toNat = 5 ∨ fn.toNat = 6 ∨ fn.toNat = 8) : passes s c (wordV 0x29 d a b km fn c) := by
  refine passes_V ?_
  rw [vecLegal_slides (wordV_op ..) (by rwa [fnOf_wordV]), dOf_wordV, aOf_wordV, decide_eq_true ⟨hd, ha⟩, sewNotF4_of_ne h, bne_toNat ne]
  rfl

theorem passes_slidesVS (hf : fn.toNat = 3 ∨ fn.toNat = 4 ∨ fn.toNat = 5 ∨ fn.toNat = 6 ∨ fn.toNat = 8) :
    passes s c (wordVS 0x29 d a sb f5 km fn c) := by
  refine passes_VS ?_
  rw [vecLegal_slides (wordVS_op ..) (by rwa [fnOf_wordVS]), dOf_wordVS, aOf_wordVS, decide_eq_true ⟨hd, ha⟩, sewNotF4_of_ne h, bne_toNat ne]
  rfl

theorem passes_perm (hb : b.toNat < regs s) : passes s c (wordV 0x29 d a b km 7 c) := by
  refine passes_V ?_
  rw [vecLegal_perm (wordV_op ..) (fnOf_wordV ..), dOf_wordV, aOf_wordV, bOf_wordV, decide_eq_true ⟨hd, ha, hb⟩, sewNotF4_of_ne h, bne_toNat ne]
  rfl
end

/-! ### Lists that moves write -/

/-- A numbered list, by its places. -/
theorem numbered_eq (l : List Nat) : ∀ n, numbered n l = (List.range l.length).map fun j => (n + j, l.getD j 0) := by
  induction l with
  | nil => exact fun _ => rfl
  | cons a t ih =>
    intro n
    rw [numbered, ih, List.length_cons, List.range_succ_eq_map, List.map_cons, List.map_map]
    exact congrArg (List.cons _) (List.map_congr_left fun j _ => by simp [Nat.add_assoc, Nat.add_comm 1])

/-- The elements set in a mask below one, as viota counts them (R166). -/
def setBelow (m : MaskReg) (j : Nat) : Nat := ((List.range j).filter fun i => m.getLsbD i).length

theorem setBelow_succ (m : MaskReg) (j : Nat) : setBelow m (j + 1) = if m.getLsbD j then setBelow m j + 1 else setBelow m j := by
  unfold setBelow
  rw [List.range_succ, List.filter_append, List.length_append]
  by_cases h : m.getLsbD j <;> simp [h]

/-- Counted from one element on, the counts are those of all elements below. -/
theorem iotaFrom_eq (m : MaskReg) (b : Nat) : ∀ n i,
    iotaFrom m b (setBelow m i) i n = (List.range n).map fun j => (i + j, setBelow m (i + j) % 2 ^ b, 0)
  | 0, _ => rfl
  | n + 1, i => by
    rw [iotaFrom, ← setBelow_succ, iotaFrom_eq m b n (i + 1), List.range_succ_eq_map, List.map_cons, List.map_map]
    exact congrArg (List.cons _) (List.map_congr_left fun j _ => by simp [Nat.add_assoc, Nat.add_comm 1])

/-! ### Scalar results of elements (R166, R172) -/

/-- A scalar result is the element as an integer of its type. -/
theorem scalarOf_eq {n v : Nat} (h0 : 0 < n) (hv : v < 2 ^ n) (sew : BitVec 4) :
    scalarOf sew n v = BitVec.ofInt 64 (asInt (sewSigned sew) n v) := by
  unfold scalarOf asInt
  rw [signedOf_eq h0 hv, Nat.mod_eq_of_lt hv]
  split
  · rfl
  · exact (BitVec.ofInt_natCast ..).symm

/-! ### Moves, slides and permutes (R166 to R169) -/

/-- The operations of major 0x29 that write a vector register and nothing else. -/
def moves : VOp → Bool
  | .mv .. | .mvsx .. | .slide .. | .perm .. | .compress .. | .iota .. | .vid .. => true
  | _ => false

section
variable {s : State} {rest : List Word32} {c : BitVec 1} (hv : vectorReady s) (hc : convoyLeft s c rest)
  {d a b : BitVec 6} {km : BitVec 3} {w : Word32} {mk : M VOp} {i : Instr}
include hv hc

/-- A move writes the values that it computes, and raises nothing. -/
theorem gives_move {op : VOp} (hi : exec i s = issueV w mk s) (hw : passes s c w) (hm : mk s = .ok op s) (hp : moves op = true)
    (hs : op.restarts = true → s.hart.vstart = 0 ∨ vl s = 0) (hd : op.vdest = some d) {acts : List Nat} {f : Nat → Nat}
    (hf : (entryEnv s (entryOf s.hart w op)).compute op = { VResult.none with elems := acts.map fun j => (j, f j, 0) })
    (hlt : ∀ j, f j < 2 ^ width s) : givesElements s rest d acts i f 0 := by
  obtain ⟨hl, h0⟩ := hw
  have start : startsWell s (entryOf s.hart w op) := fun h => startsWell_of (hs h) w op h
  rw [← flagsOver_zero acts]
  cases op with
  | mv | mvsx | slide | perm | compress | iota | vid =>
    exact gives_each hv hc hi hl h0 hm start (fun _ _ he => by unfold vuBody; rw [he]) hd rfl rfl (by rintro _ _ _ _ _ ⟨⟩) _ hf fun j _ => hlt j
  | _ => cases hp

/-- A vector move gives each active element its operand (R166). -/
theorem gives_mv {y : VSrc} (hi : exec i s = issueV w mk s) (hw : passes s c w) (hm : mk s = .ok (.mv d y km) s) {f : Nat → Nat}
    (hf : ∀ j, operand s y j = f j) : givesElements s rest d (actives s km false) i f 0 := by
  obtain rfl := funext hf
  refine gives_move hv hc hi hw hm rfl (fun h => absurd h Bool.false_ne_true) rfl ?_ (operand_lt s y)
  refine Eq.trans ?_ (entry_each (word := w) (op := .mv d y km) fun j => (operand s y j, 0))
  simp only [← entry_opnd s w (.mv d y km)]
  rfl

/-- vmv.s.x gives element 0, if it is active, the scalar (R166). -/
theorem gives_mvsx {y : Word} (hi : exec i s = issueV w mk s) (hw : passes s c w) (hm : mk s = .ok (.mvsx d y km) s) :
    givesElements s rest d ((actives s km false).filter (· == 0)) i (fun _ => y.toNat % 2 ^ width s) 0 := by
  refine gives_move hv hc hi hw hm rfl (fun h => absurd h Bool.false_ne_true) rfl ?_ fun _ => Nat.mod_lt _ (Nat.two_pow_pos _)
  unfold VEnv.compute
  dsimp only
  rw [entry_act]
  rfl

theorem gives_vid (hi : exec i s = issueV w (pure (.vid d km)) s) (hw : passes s c w) :
    givesElements s rest d (actives s km false) i (fun j => j % 2 ^ width s) 0 :=
  gives_move hv hc hi hw rfl rfl (fun h => absurd h Bool.false_ne_true) rfl
    (entry_each (word := w) (op := .vid d km) fun j => (j % 2 ^ width s, 0)) fun _ => Nat.mod_lt _ (Nat.two_pow_pos _)

/-- vmv.x.s gives element 0 as an integer of its type (R166). -/
theorem gives_mvxs {sd : BitVec 5} (hi : exec i s = issueV w (pure (.mvxs sd a km)) s) (hw : passes s c w) :
    givesScalar s rest sd i (BitVec.ofInt 64 (asInt (sewSigned s.hart.sc.sew) (width s) (el s a 0))) 0 := by
  obtain ⟨hl, h0⟩ := hw
  rw [← scalarOf_eq (width_pos s) (el_lt s a 0)]
  refine gives_scalar hv hc hi hl h0 rfl (fun h => absurd h Bool.false_ne_true) (fun _ _ he => by unfold vuBody; rw [he]) rfl rfl rfl rfl ?_
  unfold VEnv.compute
  dsimp only
  rw [entry_stripFlags]
  rfl

variable (h0 : s.hart.vstart = 0 ∨ vl s = 0)
include h0

/-- viota gives every element, active or not, the count of those below it (R166). -/
theorem gives_iota (hi : exec i s = issueV w (pure (.iota d km)) s) (hw : passes s c w) :
    givesElements s rest d (List.range (vl s)) i (fun j => setBelow (s.hart.mask km) j % 2 ^ width s) 0 := by
  refine gives_move hv hc hi hw rfl rfl (fun _ => h0) rfl ?_ fun _ => Nat.mod_lt _ (Nat.two_pow_pos _)
  refine congrArg (fun l => { VResult.none with elems := l }) ((iotaFrom_eq _ _ _ 0).trans ?_)
  exact List.map_congr_left fun j _ => by rw [Nat.zero_add]; rfl

/-- A slide upwards leaves the elements below its offset (R167). -/
theorem gives_slideUp {off : Word} (hi : exec i s = issueV w mk s) (hw : passes s c w) (hm : mk s = .ok (.slide true d a off km) s) :
    givesElements s rest d ((actives s km false).filter (off.toNat ≤ ·)) i (fun j => el s a (j - off.toNat)) 0 := by
  refine gives_move hv hc hi hw hm rfl (fun _ => h0) rfl ?_ fun _ => el_lt ..
  unfold VEnv.compute
  dsimp only
  rw [entry_stripFlags, entry_act]
  rfl

/-- A slide downwards reads zero from VLMAX on (R167). -/
theorem gives_slideDown {off : Word} (hi : exec i s = issueV w mk s) (hw : passes s c w) (hm : mk s = .ok (.slide false d a off km) s) :
    givesElements s rest d (actives s km false) i
      (fun j => if j + off.toNat < s.hart.sc.vlmax.toNat then el s a (j + off.toNat) else 0) 0 := by
  refine gives_move hv hc hi hw hm rfl (fun _ => h0) rfl ?_ fun _ => ?_
  · unfold VEnv.compute
    dsimp only
    rw [entry_stripFlags, entry_act]
    rfl
  · split
    · exact el_lt ..
    · exact Nat.two_pow_pos _

theorem gives_perm (hi : exec i s = issueV w (pure (.perm d a b km)) s) (hw : passes s c w) :
    givesElements s rest d (actives s km false) i (fun j => if el s b j < s.hart.sc.vlmax.toNat then el s a (el s b j) else 0) 0 := by
  refine gives_move hv hc hi hw rfl rfl (fun _ => h0) rfl
    (entry_each (word := w) (op := .perm d a b km) fun j => (if el s b j < s.hart.sc.vlmax.toNat then el s a (el s b j) else 0, 0)) fun _ => ?_
  split
  · exact el_lt ..
  · exact Nat.two_pow_pos _

/-- vcompress gathers the elements that its mask selects, from element 0 on (R169). -/
theorem gives_compress (hi : exec i s = issueV w (pure (.compress d a km)) s) (hw : passes s c w) :
    let chosen := (List.range (vl s)).filter fun i => (s.hart.mask km).getLsbD i
    givesElements s rest d (List.range chosen.length) i (fun j => el s a (chosen.getD j 0)) 0 := by
  intro chosen
  refine gives_move hv hc hi hw rfl rfl (fun _ => h0) rfl ?_ fun _ => el_lt ..
  unfold VEnv.compute
  dsimp only
  rw [entry_stripFlags]
  refine congrArg (fun l => { VResult.none with elems := l }) ?_
  show (numbered 0 chosen).map (fun p => (p.1, el s a p.2, (0 : Flags))) = _
  rw [numbered_eq, List.map_map]
  simp only [Nat.zero_add]
  rfl
end

/-! ### vnzscan (R170) -/

section
variable {s : State} {rest : List Word32} {c : BitVec 1} (hv : vectorReady s) (hc : convoyLeft s c rest)
  {d a : BitVec 6} {sd : BitVec 5} {km : BitVec 3} {w : Word32} (hcopy : copyOf s = none)

include hv hcopy in
/-- Without a copy, indices go to the vector register and their count to the scalar one, and nothing else changes. -/
theorem committed_nzscan (w8 : Nat) (acts : List Nat) (f : Nat → Nat) (v : Word) :
    committed (entryOf s.hart w (.nzscan d sd a km)) w8
        { VResult.none with elems := acts.map fun j => (j, f j, 0), scalar := some v } s.hart =
      putReg sd v (s.hart.setVr d (putElems (s.hart.vr d) (width s) (acts.map fun j => (j, f j)))) := by
  have copy : (entryOf s.hart w (.nzscan d sd a km)).copy = none := (entryOf_copy ..).trans hcopy
  have targets : (entryOf s.hart w (.nzscan d sd a km)).targets = [d] := by
    unfold QEntry.targets
    rw [copy]
    rfl
  have written : s.hart.writeElems (entryOf s.hart w (.nzscan d sd a km)) w8 (width s) (acts.map fun j => (j, f j)) =
      s.hart.setVr d (putElems (s.hart.vr d) (width s) (acts.map fun j => (j, f j))) := by
    unfold Hart.writeElems
    rw [targets]
    rfl
  have flags : (acts.map fun j => (j, f j, (0 : Flags))).foldl (fun g p => g ||| p.2.2) 0 = 0 := by
    rw [List.foldl_map]
    exact flagsOver_zero acts
  show Hart.vuScalar (Hart.vuFlags
    (s.hart.writeElems _ w8 (width s) ((acts.map fun j => (j, f j, (0 : Flags))).map fun p => (p.1, p.2.1))) _) _ sd v = _
  rw [List.map_map]
  show Hart.vuScalar (Hart.vuFlags (s.hart.writeElems _ w8 (width s) (acts.map fun j => (j, f j)))
    ((acts.map fun j => (j, f j, (0 : Flags))).foldl (fun g p => g ||| p.2.2) 0)) _ sd v = _
  rw [written, flags, vuFlags_raise (h := s.hart.setVr ..) hv.1, raise_zero, Hart.vuScalar, copy]
  exact vuPut_put (h := s.hart.setVr ..) hv.1 sd v

include hv hc hcopy in
/-- vnzscan leaves the indices of the active elements that are not zero, and their count (R170). -/
theorem gives_nzscan {i : Instr} (h0 : s.hart.vstart = 0 ∨ vl s = 0) (hi : exec i s = issueV w (pure (.nzscan d sd a km)) s)
    (hw : passes s c w) :
    let found := (actives s km false).filter fun j => nonZeroElem s.hart.sc.sew (el s a j)
    ∃ v : VReg, exec i s = .next (vnext rest (fun h => putReg sd (BitVec.ofNat 64 found.length) (h.setVr d v)) s) ∧
      ∀ j, (j + 1) * width s ≤ 131072 →
        elemOf v (width s) j = if j < found.length then found.getD j 0 % 2 ^ width s else el s d j := by
  intro found
  obtain ⟨hl, h0'⟩ := hw
  have values : (entryEnv s (entryOf s.hart w (.nzscan d sd a km))).compute (.nzscan d sd a km) =
      { VResult.none with
        elems := (List.range found.length).map fun j => (j, found.getD j 0, 0), scalar := some (BitVec.ofNat 64 found.length) } := by
    unfold VEnv.compute
    dsimp only
    rw [entry_stripFlags, entry_act]
    refine congrArg (fun l => { VResult.none with elems := l, scalar := some (BitVec.ofNat 64 found.length) }) ?_
    show (numbered 0 found).map (fun p => (p.1, p.2, (0 : Flags))) = _
    rw [numbered_eq, List.map_map]
    simp only [Nat.zero_add]
    rfl
  refine ⟨putElems (s.hart.vr d) (width s) ((List.range found.length).map fun j => (j, found.getD j 0)), ?_, fun j hj => ?_⟩
  · rw [hi, issueV_elems (mk := pure (.nzscan d sd a km)) hv hl hc h0' rfl (startsWell_of h0 w _) (fun _ _ he => by unfold vuBody; rw [he]), values]
    exact congrArg Host.Outcome.next (vnext_congr (committed_nzscan hv hcopy ..))
  · rw [elemOf_putElems _ _ j hj]
    simp only [List.mem_range]
    rfl
end

/-- The signed integer types. -/
theorem sewSigned_mem (sew : BitVec 4) : sewSigned sew = decide (sew.toNat ∈ [0, 2, 4, 6]) := by
  revert sew
  decide

/-- Settles O23: each form's result is the list of elements that its rule describes (`gives_move`), and vnzscan's goes with a count. -/
theorem vectorMoveResults : Obligations.VectorMoveResults := by
  intro s rest d a b imm sd sb km c hv hc hd n acts most y gives up down chosen integer apart fromStart
  have imm_zx : (zx imm).toNat = imm.toNat := BitVec.toNat_setWidth_of_le (by decide)
  have h64 : width s ≤ 64 := by
    unfold width
    generalize s.hart.sc.sew = v
    revert v
    decide
  have mvVV (ha : a.toNat < regs s) : gives (.vmvVV d a km c) (el s a) := gives_mv hv hc rfl (passes_mv hd ha) rfl fun _ => rfl
  have mvVI (h : s.hart.sc.sew ≠ 14) : gives (.vmvVI d imm km c) fun _ => (imm.toInt % 2 ^ n).toNat :=
    gives_mv hv hc rfl (passes_mvVI hd h) rfl fun j => operand_sx imm j h64
  have mvVS (h : s.hart.sc.sew ≠ 14) : gives (.vmvVS d sb km c) fun _ => y :=
    gives_mv hv hc rfl (passes_mvVS hd h) (mk_scalar hv sb fun v => .mv d (.val v) km) fun _ => rfl
  have mvsx (h : s.hart.sc.sew ≠ 14) : givesElements s rest d (acts.filter (· == 0)) (.vmvsx d sb km c) (fun _ => y) 0 :=
    gives_mvsx hv hc rfl (passes_mvsx hd h) (mk_scalar hv sb fun v => .mvsx d v km)
  have mvxs (h : s.hart.sc.sew ≠ 14) (ha : a.toNat < regs s) : givesScalar s rest sd (.vmvxs sd a 0 c)
      (BitVec.ofInt 64 (asInt (sewSigned s.hart.sc.sew) n (el s a 0))) 0 :=
    gives_mvxs hv hc rfl (passes_mvxs ha h)
  have id (h : integer) : gives (.vid d km c) fun j => j % 2 ^ n := gives_vid hv hc rfl (passes_vid hd h)
  have iota (h0 : fromStart) (h : integer) : givesElements s rest d (List.range (vl s)) (.viota d km c)
      (fun j => ((List.range j).filter fun i => (s.hart.mask km).getLsbD i).length % 2 ^ n) 0 :=
    gives_iota hv hc h0 rfl (passes_iota hd h)
  have slideUpVS (h0 : fromStart) (h : apart) : up (x s sb).toNat (.vslideupVS d a sb km c) :=
    gives_slideUp hv hc h0 rfl (passes_slidesVS hd h.1 h.2.2 h.2.1 (by decide)) (mk_scalar hv sb fun v => .slide true d a v km)
  have slideUpVI (h0 : fromStart) (h : apart) : up imm.toNat (.vslideupVI d a imm km c) :=
    imm_zx ▸ gives_slideUp hv hc h0 rfl (passes_slides hd h.1 h.2.2 h.2.1 (by decide)) rfl
  have slideDownVS (h0 : fromStart) (h : apart) : down (x s sb).toNat (.vslidednVS d a sb km c) :=
    gives_slideDown hv hc h0 rfl (passes_slidesVS hd h.1 h.2.2 h.2.1 (by decide)) (mk_scalar hv sb fun v => .slide false d a v km)
  have slideDownVI (h0 : fromStart) (h : apart) : down imm.toNat (.vslidednVI d a imm km c) :=
    imm_zx ▸ gives_slideDown hv hc h0 rfl (passes_slides hd h.1 h.2.2 h.2.1 (by decide)) rfl
  have perm (h0 : fromStart) (h : apart) (hb : b.toNat < regs s) :
      gives (.vperm d a b km c) fun j => if el s b j < most then el s a (el s b j) else 0 :=
    gives_perm hv hc h0 rfl (passes_perm hd h.1 h.2.2 h.2.1 hb)
  have compress (h0 : fromStart) (h : apart) :
      givesElements s rest d (List.range chosen.length) (.vcompress d a km c) (fun j => el s a (chosen.getD j 0)) 0 :=
    gives_compress hv hc h0 rfl (passes_slides hd h.1 h.2.2 h.2.1 (by decide))
  have nzscan (h0 : fromStart) (ha : a.toNat < regs s) (ne : a ≠ d) (hcopy : copyOf s = none)
      (h : 2 ≤ s.hart.sc.sew.toNat ∧ s.hart.sc.sew.toNat ≤ 11) :=
    gives_nzscan (sd := sb) (i := .vnzscan d a sb km c) hv hc hcopy h0 rfl (passes_nzscan hd ha ne h)
  have scalar : BitVec.ofInt 64 (asInt (sewSigned s.hart.sc.sew) n (el s a 0)) =
      if s.hart.sc.sew.toNat ∈ [0, 2, 4, 6] ∧ 2 ^ (n - 1) ≤ el s a 0 then BitVec.ofInt 64 ((el s a 0 : Int) - 2 ^ n)
      else BitVec.ofNat 64 (el s a 0) := by
    rw [asInt_ite, sewSigned_mem, apply_ite (BitVec.ofInt 64), BitVec.ofInt_natCast]
    simp only [decide_eq_true_eq]
  refine ⟨fun ha => ?_, fun h => ?_, fun h ha => ?_, fun h => ⟨?_, fun h0 => ?_⟩,
    fun h0 h => ⟨?_, fun hb => ?_, fun h2 h11 hcopy => ?_⟩, mvVV,
    fun h => ⟨mvVI h, mvVS h, mvsx h, fun ha => scalar ▸ mvxs h ha⟩, id, fun h0 => ⟨iota h0, fun ha h ne =>
      ⟨slideUpVS h0 ⟨ha, h, ne⟩, slideUpVI h0 ⟨ha, h, ne⟩, slideDownVS h0 ⟨ha, h, ne⟩, slideDownVI h0 ⟨ha, h, ne⟩, perm h0 ⟨ha, h, ne⟩,
        compress h0 ⟨ha, h, ne⟩⟩, fun ha h2 h11 ne hcopy => nzscan h0 ha ne hcopy ⟨h2, h11⟩⟩⟩
  all_goals simp only [complete_cons, complete_nil, and_true]
  · exact completes_of_givesElements (mvVV ha)
  · exact ⟨completes_of_givesElements (mvVI h), completes_of_givesElements (mvVS h), completes_of_givesElements (mvsx h)⟩
  · exact completes_of_givesScalar (mvxs h ha)
  · exact completes_of_givesElements (id h)
  · exact completes_of_givesElements (iota h0 h)
  · exact ⟨completes_of_givesElements (slideUpVS h0 h), completes_of_givesElements (slideDownVS h0 h),
      completes_of_givesElements (slideUpVI h0 h), completes_of_givesElements (slideDownVI h0 h), completes_of_givesElements (compress h0 h)⟩
  · exact completes_of_givesElements (perm h0 h hb)
  · obtain ⟨v, run, -⟩ := nzscan h0 h.1 h.2.2 hcopy ⟨h2, h11⟩
    exact completes_of_vnext rfl run

/-! ### Reductions as instructions (R172) -/

/-- Nothing raised, and flags. -/
theorem noFlag_or (g : Flags) : 0 ||| g = g := BitVec.zero_or

theorem or_noFlag (g : Flags) : g ||| 0 = g := BitVec.or_zero

section
variable {s : State} {c : BitVec 1} {d a : BitVec 6} {sb : BitVec 5} {f5 : BitVec 1} {km : BitVec 3} {fn : BitVec 4}

theorem passes_reduce (ha : a.toNat < regs s) (h : (if fn.toNat < 5 then sewIsInt s.hart.sc.sew else sewIsFloat s.hart.sc.sew) = true) :
    passes s c (wordVS 0x2A d a sb f5 km fn c) := by
  refine passes_VS ?_
  rw [vecLegal_reduce (wordVS_op ..), aOf_wordVS, fnOf_wordVS, h, decide_eq_true ha]
  rfl
end

section
variable {s : State} {rest : List Word32} {c : BitVec 1} (hv : vectorReady s) (hc : convoyLeft s c rest) (h0 : s.hart.vstart = 0 ∨ vl s = 0)
  {d : BitVec 5} {a : BitVec 6} {km : BitVec 3} {w : Word32} {mk : M VOp} {i : Instr} {o : VRedOp} {y : Word}
include hv hc h0

/-- A reduction answers what it computes over the elements and the seed. -/
theorem gives_reduce (hi : exec i s = issueV w mk s) (hw : passes s c w) (hm : mk s = .ok (.red o d a y km) s) {v : Word} {g : Flags}
    (hf : (entryEnv s (entryOf s.hart w (.red o d a y km))).reduce o a y = { VResult.none with scalar := some v, flags := g }) :
    givesScalar s rest d i v g := by
  obtain ⟨hl, hc0⟩ := hw
  exact gives_scalar hv hc hi hl hc0 hm (startsWell_of h0 w _) (fun _ _ he => by unfold vuBody; rw [he]) rfl rfl rfl rfl hf

/-- With VL = 0 the result is the scalar operand. -/
theorem gives_reduceNone (hvl : vl s = 0) (hi : exec i s = issueV w mk s) (hw : passes s c w) (hm : mk s = .ok (.red o d a y km) s) :
    givesScalar s rest d i y 0 := by
  refine gives_reduce hv hc h0 hi hw hm ?_
  exact if_pos hvl

variable (hvl : vl s ≠ 0)
include hvl

/-- An integer reduction answers its value as an integer of the element type. -/
theorem gives_reduceInt (ho : o.isFloat = false) (hi : exec i s = issueV w mk s) (hw : passes s c w) (hm : mk s = .ok (.red o d a y km) s) :
    givesScalar s rest d i (scalarOf s.hart.sc.sew (width s) (intReduce o (sewSigned s.hart.sc.sew) (width s) (y.toNat % 2 ^ width s)
      ((actives s km true).map (el s a)))) 0 := by
  refine gives_reduce hv hc h0 hi hw hm ((if_neg hvl).trans ?_)
  rw [ho, entry_stripFlags, entry_act]
  rfl

/-- A floating-point reduction answers its value, and raises the flags of what it performs. -/
theorem gives_reduceFloat {t : FFmt} (ht : sewFmt s.hart.sc.sew = some t) (ho : o.isFloat = true) (hi : exec i s = issueV w mk s)
    (hw : passes s c w) (hm : mk s = .ok (.red o d a y km) s) {r : Nat × Flags}
    (hr : fpReduce o t s.hart.sc.rm (y.toNat % 2 ^ width s) ((List.range (vl s)).map fun j => if j ∈ actives s km true then el s a j else 0)
      ((actives s km true).map (el s a)) = r) :
    givesScalar s rest d i (BitVec.ofNat 64 r.1) r.2 := by
  obtain rfl := hr
  refine gives_reduce hv hc h0 hi hw hm ((if_neg hvl).trans ?_)
  rw [ho, if_pos rfl, show (entryEnv s (entryOf s.hart w (.red o d a y km))).sew = s.hart.sc.sew from rfl, ht, entry_stripFlags, entry_act]
  simp only [or_noFlag, List.contains_iff_mem]
  rfl
end

/-! ### Integer folds (R172) -/

theorem foldl_add_eq_sum : ∀ (l : List Nat) (a : Nat), l.foldl (· + ·) a = (a :: l).sum
  | [], a => (Nat.add_zero a).symm
  | w :: l, a => by
    rw [List.foldl_cons, foldl_add_eq_sum l, List.sum_cons, List.sum_cons, List.sum_cons, Nat.add_assoc]

/-- A fold that keeps the element of the least key answers one of the elements, and none has a lesser key. -/
theorem foldl_least (k : Nat → Int) : ∀ (l : List Nat) (a : Nat),
    let r := l.foldl (fun a w => if k w < k a then w else a) a
    r ∈ a :: l ∧ ∀ w ∈ a :: l, k r ≤ k w
  | [], a => ⟨List.mem_singleton_self a, by simp⟩
  | w :: l, a => by
    obtain ⟨mem, le⟩ := foldl_least k l (if k w < k a then w else a)
    obtain ⟨le0, le⟩ := List.forall_mem_cons.mp le
    rw [List.foldl_cons]
    refine ⟨?_, List.forall_mem_cons.mpr ⟨le0.trans ?_, List.forall_mem_cons.mpr ⟨le0.trans ?_, le⟩⟩⟩
    · rcases List.mem_cons.mp mem with h | h
      · rw [h]
        split <;> simp
      · exact List.mem_cons_of_mem _ (List.mem_cons_of_mem _ h)
    · split <;> omega
    · split <;> omega

/-- The same for the greatest key. -/
theorem foldl_greatest (k : Nat → Int) (l : List Nat) (a : Nat) :
    let r := l.foldl (fun a w => if k a < k w then w else a) a
    r ∈ a :: l ∧ ∀ w ∈ a :: l, k w ≤ k r := by
  have h := foldl_least (fun v => -k v) l a
  simpa only [Int.neg_lt_neg_iff, Int.neg_le_neg_iff] using h

theorem testBit_foldl_and (k : Nat) : ∀ (l : List Nat) (a : Nat), (l.foldl (· &&& ·) a).testBit k = (a :: l).all fun w => w.testBit k
  | [], a => by simp
  | w :: l, a => by
    rw [List.foldl_cons, testBit_foldl_and k l, List.all_cons, List.all_cons, List.all_cons, Nat.testBit_and, Bool.and_assoc]

theorem testBit_foldl_or (k : Nat) : ∀ (l : List Nat) (a : Nat), (l.foldl (· ||| ·) a).testBit k = (a :: l).any fun w => w.testBit k
  | [], a => by simp
  | w :: l, a => by
    rw [List.foldl_cons, testBit_foldl_or k l, List.any_cons, List.any_cons, List.any_cons, Nat.testBit_or, Bool.or_assoc]

/-- A fold of operations that keep the width of their operands keeps it. -/
theorem foldl_lt {f : Nat → Nat → Nat} {N : Nat} (hf : ∀ a w, a < N → w < N → f a w < N) : ∀ (l : List Nat) (a : Nat), a < N →
    (∀ w ∈ l, w < N) → l.foldl f a < N
  | [], _, ha, _ => ha
  | w :: l, a, ha, hl => by
    obtain ⟨hw, hl⟩ := List.forall_mem_cons.mp hl
    exact foldl_lt hf l _ (hf a w ha hw) hl

/-- An integer reduction keeps the element width. -/
theorem intReduce_lt (o : VRedOp) (sg : Bool) {n a : Nat} (ha : a < 2 ^ n) {l : List Nat} (hl : ∀ w ∈ l, w < 2 ^ n) :
    intReduce o sg n a l < 2 ^ n := by
  cases o with
  | sum => exact Nat.mod_lt _ (Nat.two_pow_pos n)
  | min | max => exact foldl_lt (fun u w hu hw => by split <;> assumption) l a ha hl
  | and => exact foldl_lt (fun u w _ hw => Nat.and_lt_two_pow u hw) l a ha hl
  | or => exact foldl_lt (fun u w hu hw => Nat.or_lt_two_pow hu hw) l a ha hl
  | _ => exact ha

/-! ### Ordered floating-point folds (R76, R172) -/

/-- A fold that gathers flags, over the elements of a list of places. -/
theorem foldl_foldFlags (op : Nat → Nat → Nat × Flags) (e : Nat → Nat) : ∀ (l : List Nat) (p : Nat × Flags),
    l.foldl (fun p j => ((op p.1 (e j)).1, p.2 ||| (op p.1 (e j)).2)) p = ((foldFlags op p.1 (l.map e)).1, p.2 ||| (foldFlags op p.1 (l.map e)).2)
  | [], p => by simp [foldFlags]
  | j :: l, p => by
    rw [List.foldl_cons, foldl_foldFlags op e l, List.map_cons, foldFlags]
    simp only [BitVec.or_assoc]

/-! ### The tree of R75

The statement keeps every element in its place and doubles the distance of partners from level to level; the model keeps the elements of a level
in a list of their own. After a level at distance w the list holds the elements at the multiples of 2w. -/

theorem getLsbD_flagsOver (f : Nat → Flags) (k : Nat) (l : List Nat) : (flagsOver l f).getLsbD k = l.any fun i => (f i).getLsbD k := by
  have fold : ∀ (l : List Nat) (g : Flags), (l.foldl (fun g i => g ||| f i) g).getLsbD k = (g.getLsbD k || l.any fun i => (f i).getLsbD k) := by
    intro l
    induction l with
    | nil => simp
    | cons i t ih => exact fun g => by rw [List.foldl_cons, ih, BitVec.getLsbD_or, List.any_cons, Bool.or_assoc]
  rw [flagsOver, fold]
  simp

/-- Flags are raised together by the members of a list, however they are ordered. -/
theorem flagsOver_congr {l m : List Nat} {f g : Nat → Flags} (h : ∀ (P : Flags → Prop), (∃ i ∈ l, P (f i)) ↔ ∃ i ∈ m, P (g i)) :
    flagsOver l f = flagsOver m g := by
  apply BitVec.eq_of_getLsbD_eq
  intro k _
  rw [getLsbD_flagsOver, getLsbD_flagsOver, Bool.eq_iff_iff, List.any_eq_true, List.any_eq_true]
  exact h fun x => x.getLsbD k = true

theorem flagsOver_cons (i : Nat) (l : List Nat) (f : Nat → Flags) : flagsOver (i :: l) f = f i ||| flagsOver l f := by
  apply BitVec.eq_of_getLsbD_eq
  intro k _
  rw [BitVec.getLsbD_or, getLsbD_flagsOver, getLsbD_flagsOver, List.any_cons]

theorem flagsOver_map (g : Nat → Nat) (l : List Nat) (f : Nat → Flags) : flagsOver (l.map g) f = flagsOver l fun i => f (g i) := List.foldl_map

/-- The number of multiples of w below n. -/
def multiples (n w : Nat) : Nat := (n + w - 1) / w

theorem lt_multiples {n w : Nat} (hw : 0 < w) (k : Nat) : k < multiples n w ↔ k * w < n := by
  have e : (k + 1) * w = k * w + w := Nat.succ_mul k w
  rw [multiples, ← Nat.succ_le_iff, Nat.le_div_iff_mul_le hw, Nat.succ_eq_add_one, e]
  omega

theorem multiples_double {n w : Nat} (hw : 0 < w) : multiples n (2 * w) = (multiples n w + 1) / 2 := by
  refine eq_of_forall_lt_iff fun k => ?_
  rw [lt_multiples (by omega), show k < (multiples n w + 1) / 2 ↔ 2 * k < multiples n w by omega, lt_multiples hw,
    show k * (2 * w) = 2 * k * w by ring]

/-- The elements at the multiples of w below n. -/
def spaced (n w : Nat) (t : Nat → Nat) : List Nat := (List.range (multiples n w)).map fun i => t (i * w)

section
variable (f : FFmt) (rm : RMode)

/-- A level of the model's tree pairs neighbours, and keeps a last one without a partner. -/
theorem treeLevel_range : ∀ (m : Nat) (g : Nat → Nat),
    treeLevel f rm ((List.range m).map g) =
      ((List.range ((m + 1) / 2)).map fun i => if 2 * i + 1 < m then (addVal f rm (f.decode (g (2 * i))) (f.decode (g (2 * i + 1)))).1 else g (2 * i),
        flagsOver (List.range (m / 2)) fun i => (addVal f rm (f.decode (g (2 * i))) (f.decode (g (2 * i + 1)))).2)
  | 0, _ => rfl
  | 1, _ => rfl
  | m + 2, g => by
    have split : (List.range (m + 2)).map g = g 0 :: g 1 :: (List.range m).map fun i => g (i + 2) := by
      rw [List.range_succ_eq_map, List.map_cons, List.map_map, List.range_succ_eq_map, List.map_cons, List.map_map]
      rfl
    rw [split, treeLevel, treeLevel_range m, show (m + 2 + 1) / 2 = (m + 1) / 2 + 1 by omega, show (m + 2) / 2 = m / 2 + 1 by omega,
      List.range_succ_eq_map, List.range_succ_eq_map, List.map_cons, List.map_map, flagsOver_cons, flagsOver_map]
    refine Prod.ext (congrArg₂ List.cons ?_ (List.map_congr_left fun i _ => ?_)) rfl
    · rw [if_pos (by omega)]
    · have : 2 * i + 1 < m ↔ 2 * (i + 1) + 1 < m + 2 := by omega
      simp only [this]
      rfl

/-- A level of the model's tree on the elements at distance w is the statement's level, at twice the distance. -/
theorem treeLevel_spaced (n : Nat) {w : Nat} (hw : 0 < w) (t : Nat → Nat) :
    treeLevel f rm (spaced n w t) =
      let p := treeLevel75 (fun u v => addVal f rm (f.decode u) (f.decode v)) n w t
      (spaced n (2 * w) p.1, p.2) := by
  have odd (i : Nat) : (2 * i + 1) * w = i * (2 * w) + w := by ring
  have even (i : Nat) : 2 * i * w = i * (2 * w) := by ring
  rw [spaced, treeLevel_range, ← multiples_double hw]
  refine Prod.ext (List.map_congr_left fun i _ => ?_) ?_
  · simp only [treeLevel75, lt_multiples hw, odd, even, Nat.mul_mod_left, true_and]
  · simp only [treeLevel75, odd, even]
    refine flagsOver_congr fun P => ⟨?_, ?_⟩
    · rintro ⟨i, hi, hP⟩
      have partner := (lt_multiples (n := n) hw (2 * i + 1)).mp (by rw [List.mem_range] at hi; omega)
      rw [odd] at partner
      exact ⟨i * (2 * w), List.mem_filter.mpr ⟨List.mem_range.mpr (by omega), by simp [partner]⟩, hP⟩
    · rintro ⟨j, hj, hP⟩
      obtain ⟨-, hj⟩ := List.mem_filter.mp hj
      obtain ⟨h0, partner⟩ := of_decide_eq_true hj
      obtain ⟨i, rfl⟩ := Nat.dvd_of_mod_eq_zero h0
      rw [Nat.mul_comm] at hP partner
      have := (lt_multiples hw (2 * i + 1)).mpr (by rwa [odd])
      exact ⟨i, List.mem_range.mpr (by omega), hP⟩

/-- The statement's next level, at distance 2^k, with the flags so far. -/
def nextLevel (n : Nat) (p : (Nat → Nat) × Flags) (k : Nat) : (Nat → Nat) × Flags :=
  let q := treeLevel75 (fun u v => addVal f rm (f.decode u) (f.decode v)) n (2 ^ k) p.1
  (q.1, p.2 ||| q.2)

/-- The model's tree is the statement's, level by level. -/
theorem treeSum_spaced (n : Nat) : ∀ (m k : Nat) (p : (Nat → Nat) × Flags),
    let q := (List.range' k m).foldl (nextLevel f rm n) p
    q = (q.1, p.2 ||| (treeSum f rm m (spaced n (2 ^ k) p.1)).2) ∧ (treeSum f rm m (spaced n (2 ^ k) p.1)).1 = spaced n (2 ^ (k + m)) q.1
  | 0, k, p => ⟨by simp [treeSum], rfl⟩
  | m + 1, k, p => by
    obtain ⟨h1, h2⟩ := treeSum_spaced n m (k + 1) (nextLevel f rm n p k)
    rw [List.range'_succ, List.foldl_cons, treeSum, treeLevel_spaced f rm n (Nat.two_pow_pos k)]
    rw [Nat.add_right_comm, Nat.pow_succ, Nat.mul_comm _ 2] at h2
    rw [Nat.pow_succ, Nat.mul_comm _ 2] at h1
    refine ⟨h1.trans ?_, h2⟩
    rw [nextLevel, BitVec.or_assoc]

/-- The head of a list at any distance is element 0. -/
theorem spaced_headD {n w : Nat} (hn : 0 < n) (hw : 0 < w) (t : Nat → Nat) : (spaced n w t).headD 0 = t 0 := by
  have : 0 < multiples n w := (lt_multiples hw 0).mpr (by omega)
  obtain ⟨m, hm⟩ := Nat.exists_eq_succ_of_ne_zero this.ne'
  rw [spaced, hm, List.range_succ_eq_map, List.map_cons]
  exact congrArg t (Nat.zero_mul w)

/-- The tree reduction of the elements below n, from element 0 of the last level and with the flags of all levels (R75). -/
theorem fpReduce_fsum {n : Nat} (hn : 0 < n) (seed : Nat) (t : Nat → Nat) (active : List Nat) :
    fpReduce .fsum f rm seed ((List.range n).map t) active =
      let p := (List.range 16).foldl (nextLevel f rm n) (t, 0)
      let r := addVal f rm (f.decode seed) (f.decode (p.1 0))
      (r.1, p.2 ||| r.2) := by
  have all : (List.range n).map t = spaced n (2 ^ 0) t := by simp [spaced, multiples]
  obtain ⟨h1, h2⟩ := treeSum_spaced f rm n 16 0 (t, 0)
  rw [← List.range_eq_range'] at h1 h2
  rw [noFlag_or] at h1
  unfold fpReduce
  rw [all]
  dsimp only at h2 ⊢
  rw [h2, spaced_headD hn (Nat.two_pow_pos _), ← congrArg Prod.snd h1]
end

/-- The IEEE types have formats (R52). -/
theorem sewFmt_of_float {sew : BitVec 4} (h : 8 ≤ sew.toNat ∧ sew.toNat ≤ 11) : ∃ t, sewFmt sew = some t := by
  rw [← Option.isSome_iff_exists]
  revert sew
  decide

/-- Settles O24: an integer reduction is a fold over the seed and the elements, an ordered one a fold that gathers flags (`foldl_foldFlags`), and the
unordered sum the tree of R75, level by level (`treeSum_spaced`). -/
theorem vectorReductionResults : Obligations.VectorReductionResults := by
  intro s rest a d b km c hv hc ha h0 n acts seed signed int all
  have n0 : 0 < n := width_pos s
  have scalar (o : VRedOp) := mk_scalar hv b fun v => .red o d a v km
  have passInt {fn : BitVec 4} (hf : fn.toNat < 5) (h : s.hart.sc.sew.toNat < 8) : passes s c (wordVS 0x2A (d.setWidth 6) a b 0 km fn c) :=
    passes_reduce ha (by rw [if_pos hf]; exact decide_eq_true h)
  have passFloat {fn : BitVec 4} (hf : ¬ fn.toNat < 5) (h : 8 ≤ s.hart.sc.sew.toNat ∧ s.hart.sc.sew.toNat ≤ 11) :
      passes s c (wordVS 0x2A (d.setWidth 6) a b 0 km fn c) :=
    passes_reduce ha (by rw [if_neg hf]; exact decide_eq_true h)
  have noneInt (hvl : vl s = 0) (h : s.hart.sc.sew.toNat < 8) {o : VRedOp} {i : Instr} {fn : BitVec 4} (hf : fn.toNat < 5)
      (hi : exec i s = issueV (wordVS 0x2A (d.setWidth 6) a b 0 km fn c) (do return .red o d a (← rdX b) km) s) :
      givesScalar s rest d i (x s b) 0 :=
    gives_reduceNone hv hc h0 hvl hi (passInt hf h) (scalar o)
  have noneFloat (hvl : vl s = 0) (h : 8 ≤ s.hart.sc.sew.toNat ∧ s.hart.sc.sew.toNat ≤ 11) {o : VRedOp} {i : Instr} {fn : BitVec 4}
      (hf : ¬ fn.toNat < 5) (hi : exec i s = issueV (wordVS 0x2A (d.setWidth 6) a b 0 km fn c) (do return .red o d a (← rdX b) km) s) :
      givesScalar s rest d i (x s b) 0 :=
    gives_reduceNone hv hc h0 hvl hi (passFloat hf h) (scalar o)
  have ints (hvl : vl s ≠ 0) (h : s.hart.sc.sew.toNat < 8) {o : VRedOp} {i : Instr} {fn : BitVec 4} (hf : fn.toNat < 5) (ho : o.isFloat = false)
      (hi : exec i s = issueV (wordVS 0x2A (d.setWidth 6) a b 0 km fn c) (do return .red o d a (← rdX b) km) s) :
      givesScalar s rest d i (scalarOf s.hart.sc.sew n (intReduce o (sewSigned s.hart.sc.sew) n seed (acts.map (el s a)))) 0 :=
    gives_reduceInt hv hc h0 hvl ho hi (passInt hf h) (scalar o)
  have floats (hvl : vl s ≠ 0) {t : FFmt} (h : 8 ≤ s.hart.sc.sew.toNat ∧ s.hart.sc.sew.toNat ≤ 11) (ht : sewFmt s.hart.sc.sew = some t) {o : VRedOp}
      {i : Instr} {fn : BitVec 4} (hf : ¬ fn.toNat < 5) (ho : o.isFloat = true)
      (hi : exec i s = issueV (wordVS 0x2A (d.setWidth 6) a b 0 km fn c) (do return .red o d a (← rdX b) km) s) {r : Nat × Flags}
      (hr : fpReduce o t s.hart.sc.rm seed ((List.range (vl s)).map fun j => if j ∈ acts then el s a j else 0) (acts.map (el s a)) = r) :
      givesScalar s rest d i (BitVec.ofNat 64 r.1) r.2 :=
    gives_reduceFloat hv hc h0 hvl ht ho hi (passFloat hf h) (scalar o) hr
  refine ⟨fun h => ?_, fun h8 h11 => ?_, fun hvl => ⟨fun h => ?_, fun h8 h11 => ?_⟩, fun hvl h => ?_, fun hvl t hl => ?_⟩
  · simp only [complete_cons, complete_nil, and_true]
    by_cases hvl : vl s = 0
    · exact ⟨completes_of_givesScalar (noneInt hvl h (by decide) rfl), completes_of_givesScalar (noneInt hvl h (by decide) rfl),
        completes_of_givesScalar (noneInt hvl h (by decide) rfl), completes_of_givesScalar (noneInt hvl h (by decide) rfl),
        completes_of_givesScalar (noneInt hvl h (by decide) rfl)⟩
    · exact ⟨completes_of_givesScalar (ints hvl h (by decide) rfl rfl), completes_of_givesScalar (ints hvl h (by decide) rfl rfl),
        completes_of_givesScalar (ints hvl h (by decide) rfl rfl), completes_of_givesScalar (ints hvl h (by decide) rfl rfl),
        completes_of_givesScalar (ints hvl h (by decide) rfl rfl)⟩
  · have h := And.intro h8 h11
    simp only [complete_cons, complete_nil, and_true]
    by_cases hvl : vl s = 0
    · exact ⟨completes_of_givesScalar (noneFloat hvl h (by decide) rfl), completes_of_givesScalar (noneFloat hvl h (by decide) rfl),
        completes_of_givesScalar (noneFloat hvl h (by decide) rfl), completes_of_givesScalar (noneFloat hvl h (by decide) rfl)⟩
    · obtain ⟨t, ht⟩ := sewFmt_of_float h
      exact ⟨completes_of_givesScalar (floats hvl h ht (by decide) rfl rfl rfl), completes_of_givesScalar (floats hvl h ht (by decide) rfl rfl rfl),
        completes_of_givesScalar (floats hvl h ht (by decide) rfl rfl rfl), completes_of_givesScalar (floats hvl h ht (by decide) rfl rfl rfl)⟩
  · simp only [List.forall_mem_cons]
    exact ⟨noneInt hvl h (by decide) rfl, noneInt hvl h (by decide) rfl, noneInt hvl h (by decide) rfl, noneInt hvl h (by decide) rfl,
      noneInt hvl h (by decide) rfl, List.forall_mem_nil _⟩
  · simp only [List.forall_mem_cons]
    have h := And.intro h8 h11
    exact ⟨noneFloat hvl h (by decide) rfl, noneFloat hvl h (by decide) rfl, noneFloat hvl h (by decide) rfl, noneFloat hvl h (by decide) rfl,
      List.forall_mem_nil _⟩
  · have hsg : sewSigned s.hart.sc.sew = signed := sewSigned_eq h
    have seed_lt : seed < 2 ^ n := Nat.mod_lt _ (Nat.two_pow_pos n)
    have elems_lt : ∀ v ∈ acts.map (el s a), v < 2 ^ n := List.forall_mem_map.mpr fun j _ => el_lt s a j
    have all_lt : ∀ v ∈ all, v < 2 ^ n := List.forall_mem_cons.mpr ⟨seed_lt, elems_lt⟩
    have int_eq : asInt (sewSigned s.hart.sc.sew) n = int := funext fun v => hsg ▸ asInt_ite _ n v
    have key {v : Nat} (hv : v ∈ all) : elemInt (sewSigned s.hart.sc.sew) n v = int v := by
      rw [elemInt_eq n0 _ (all_lt v hv), int_eq]
    have red {o : VRedOp} {i : Instr} {fn : BitVec 4} (hf : fn.toNat < 5) (ho : o.isFloat = false)
        (hi : exec i s = issueV (wordVS 0x2A (d.setWidth 6) a b 0 km fn c) (do return .red o d a (← rdX b) km) s) :
        givesScalar s rest d i (BitVec.ofInt 64 (int (intReduce o (sewSigned s.hart.sc.sew) n seed (acts.map (el s a))))) 0 := by
      rw [← int_eq, ← scalarOf_eq n0 (intReduce_lt o _ seed_lt elems_lt)]
      exact ints hvl h hf ho hi
    have least := foldl_least (elemInt (sewSigned s.hart.sc.sew) n) (acts.map (el s a)) seed
    have greatest := foldl_greatest (elemInt (sewSigned s.hart.sc.sew) n) (acts.map (el s a)) seed
    refine ⟨?_, ⟨_, least.1, fun v hv => ?_, red (o := .min) (by decide) rfl rfl⟩, ⟨_, greatest.1, fun v hv => ?_, red (o := .max) (by decide) rfl rfl⟩,
      ⟨_, fun k => testBit_foldl_and k (acts.map (el s a)) seed, red (o := .and) (by decide) rfl rfl⟩,
      ⟨_, fun k => testBit_foldl_or k (acts.map (el s a)) seed, red (o := .or) (by decide) rfl rfl⟩⟩
    · rw [← foldl_add_eq_sum]
      exact red (o := .sum) (by decide) rfl rfl
    · rw [← key least.1, ← key hv]
      exact least.2 v hv
    · rw [← key greatest.1, ← key hv]
      exact greatest.2 v hv
  · intro add fold gives start tree
    have h : ∀ v : BitVec 4, ∀ t ∈ ([(8, fmtHalf), (9, fmtBf16), (10, fmtSingle), (11, fmtDouble)] : List (Nat × FFmt)).lookup v.toNat,
        8 ≤ v.toNat ∧ v.toNat ≤ 11 := by decide
    obtain ⟨ht, -⟩ := format_of_type _ t hl
    have red {o : VRedOp} {i : Instr} {fn : BitVec 4} (hf : ¬ fn.toNat < 5) (ho : o.isFloat = true)
        (hi : exec i s = issueV (wordVS 0x2A (d.setWidth 6) a b 0 km fn c) (do return .red o d a (← rdX b) km) s) {r : Nat × Flags}
        (hr : fpReduce o t s.hart.sc.rm seed ((List.range (vl s)).map start) (acts.map (el s a)) = r) : gives i r :=
      floats hvl (h _ t hl) ht hf ho hi hr
    have ordered (op : Nat → Nat → Nat × BitVec 6) :
        (t.canonical (foldFlags op seed (acts.map (el s a))).1, (foldFlags op seed (acts.map (el s a))).2) = fold op := by
      have e := foldl_foldFlags op (el s a) acts (seed, 0)
      rw [noFlag_or] at e
      unfold fold
      rw [e]
      rfl
    have tree_eq : tree = (List.range 16).foldl (nextLevel t s.hart.sc.rm (vl s)) (start, 0) := rfl
    have unordered := fpReduce_fsum t s.hart.sc.rm (Nat.pos_of_ne_zero hvl) seed start (acts.map (el s a))
    rw [← tree_eq] at unordered
    exact ⟨red (o := .fsum) (by decide) rfl rfl unordered, red (o := .fosum) (by decide) rfl rfl (ordered add),
      red (o := .fmin) (by decide) rfl rfl (ordered (minMaxBits t false)), red (o := .fmax) (by decide) rfl rfl (ordered (minMaxBits t true))⟩

/-! ### A converted value has the width of its format (R53, R59, R61, R62)

The conversions reach the FP8 formats too. -/

/-- A format whose exponents reach its greatest finite value, and whose special patterns have its width. -/
def holdsFinite (f : FFmt) : Prop :=
  f.emax + f.bias < (2 ^ f.eb : Nat) ∧ f.nan < 2 ^ f.width ∧ ∀ neg, f.inf neg < 2 ^ f.width ∧ f.maxFinite neg < 2 ^ f.width

/-- The formats of R52. -/
theorem holdsFinite_of_type : ∀ (sew : BitVec 4), ∀ f ∈ sewFmt sew, holdsFinite f ∧ sewBits sew = f.width := by
  unfold holdsFinite
  decide

section
variable {f : FFmt} (hf : holdsFinite f) (mode : RMode)

/-- A value whose exponent the format reaches packs into it. -/
theorem pack_lt_of_exponent (neg : Bool) (r : Nat) {q : Int} (h : q + log2Floor r + f.bias < (2 ^ f.eb : Nat)) : f.pack neg r q < 2 ^ f.width := by
  unfold FFmt.pack
  split
  next hr => exact signBit_add_lt neg (hr.trans_le (Nat.pow_le_pow_right (by decide) (Nat.le_add_left _ _)))
  next hr =>
    have hl : f.fb ≤ log2Floor r := (Nat.le_log2 fun e => hr (by rw [e]; exact Nat.two_pow_pos f.fb)).mpr (Nat.not_lt.mp hr)
    have frac : r >>> (log2Floor r - f.fb) - 2 ^ f.fb < 2 ^ f.fb := by
      have top : r < 2 ^ (f.fb + 1 + (log2Floor r - f.fb)) := by
        rw [show f.fb + 1 + (log2Floor r - f.fb) = log2Floor r + 1 by omega]
        exact Nat.lt_log2_self
      have : r >>> (log2Floor r - f.fb) < 2 ^ f.fb * 2 := by
        rwa [Nat.shiftRight_eq_div_pow, Nat.div_lt_iff_lt_mul (Nat.two_pow_pos _), ← Nat.pow_succ, ← Nat.pow_add]
      have := Nat.two_pow_pos f.fb
      omega
    have := Nat.two_pow_pos f.eb
    dsimp only
    rw [if_pos hl, Nat.add_assoc]
    exact signBit_add_lt neg (exponent_fraction_lt (by omega) frac)

include hf

theorem overflow_lt_width (neg : Bool) : f.overflow mode neg < 2 ^ f.width := by
  obtain ⟨-, -, h⟩ := hf
  unfold FFmt.overflow
  split
  · exact (h neg).1
  · exact (h neg).2
  · split
    · exact (h neg).1
    · exact (h neg).2
  · split
    · exact (h neg).2
    · exact (h neg).1

theorem roundTo_lt_width (v : Exact) : (roundTo f mode v).1 < 2 ^ f.width := by
  obtain ⟨he, -, hs⟩ := id hf
  unfold roundTo
  split
  · exact signBit_lt _
  · extract_lets top q
    generalize roundQuantum mode v q = p
    obtain ⟨r, inexact⟩ := p
    have either (big : Bool) (g1 g2 g3 : Flags) (h : big = false → ¬ f.emax + 1 ≤ q + log2Floor r) :
        (if big then if f.fp8 then (f.maxFinite v.neg, g1) else (f.overflow mode v.neg, g2) else (f.pack v.neg r q, g3)).1 < 2 ^ f.width := by
      cases big with
      | true =>
        rw [if_pos rfl]
        split
        · exact (hs v.neg).2
        · exact overflow_lt_width hf mode _
      | false =>
        have := h rfl
        exact pack_lt_of_exponent _ _ (by omega)
    refine either _ _ _ _ fun h => ?_
    split at h
    · exact of_decide_eq_false (Bool.or_eq_false_iff.mp h).2
    · exact of_decide_eq_false h

theorem convFF_lt (src : FFmt) (v : Nat) : (convFF src f mode v).1 < 2 ^ f.width := by
  unfold convFF
  split
  · exact hf.2.1
  · split
    · exact (hf.2.2 _).2
    · exact (hf.2.2 _).1
  · exact roundTo_lt_width hf mode _

theorem roundVal_lt (v : FVal) : (roundVal f mode v).1 < 2 ^ f.width := by
  unfold roundVal
  split
  · exact hf.2.1
  · split
    · exact (hf.2.2 _).2
    · exact (hf.2.2 _).1
  · exact roundTo_lt_width hf mode _
end

/-- A converted element has the element width (R178). -/
theorem convElem_lt (src dst : BitVec 4) (mode : RMode) (v scale : Nat) : (convElem src dst mode v scale).1 < 2 ^ sewBits dst := by
  have zero : 0 < 2 ^ sewBits dst := Nat.two_pow_pos _
  unfold convElem
  split
  · split
    · exact zero
    · split
      next ht =>
        obtain ⟨hf, hw⟩ := holdsFinite_of_type dst _ ht
        exact hw ▸ roundVal_lt hf mode _
      · exact zero
  · split
    next _ ht =>
      obtain ⟨hf, hw⟩ := holdsFinite_of_type dst _ ht
      exact hw ▸ convFF_lt hf mode _ v
    · exact wrapInt_lt _ _
    next _ ht =>
      obtain ⟨hf, hw⟩ := holdsFinite_of_type dst _ ht
      exact hw ▸ roundTo_lt_width hf mode _
    · exact wrapInt_lt _ _

/-! ### The checks of the push for major 0x2D (R150, R178 to R182) -/

/-- The type field of vcvt (R98). -/
theorem typeField_wordV (op d a : BitVec 6) (ty : BitVec 4) (km : BitVec 3) (fn : BitVec 4) (c : BitVec 1) :
    (fld (wordV op d a (ty.setWidth 6) km fn c) 8 4 : BitVec 4) = ty := by
  rw [fld_type, wordV_vb]
  revert ty
  decide

/-- Block types and integer types by their codes (R52). -/
theorem sewIsBlock_eq (sew : BitVec 4) : sewIsBlock sew = decide (14 ≤ sew.toNat) := by
  revert sew
  decide

/-- The integer types are the types below 14 that have no format. -/
theorem sewIsInt_of_none {sew : BitVec 4} (h : sew.toNat < 14) (hf : sewFmt sew = none) : sew.toNat < 8 := by
  revert sew
  decide

section
variable {s : State} {c : BitVec 1} {d a b : BitVec 6} {km : BitVec 3} {fn : BitVec 4} (hd : d.toNat < regs s)
include hd

/-- The register rules of vcvt: an aligned group of sources, scales beside a block, and a destination apart from what is still to be read (R179). -/
theorem cvtRegs_of {src dst : BitVec 4} (aligned : a.toNat % cvtGroup src dst = 0) (fits : a.toNat + cvtGroup src dst ≤ regs s)
    (scales : sewIsBlock src = true → a.toNat + 1 < regs s ∧ d ≠ a + 1) (narrow : sewBits src < sewBits dst → d ≠ a)
    (apart : 1 < cvtGroup src dst → d.toNat < a.toNat ∨ a.toNat + cvtGroup src dst ≤ d.toNat) : cvtRegs (regs s) d.toNat a.toNat src dst = true := by
  simp only [cvtRegs, Bool.and_eq_true, decide_eq_true_eq, beq_iff_eq]
  refine ⟨⟨⟨⟨⟨hd, aligned⟩, fits⟩, ?_⟩, ?_⟩, ?_⟩
  · split
    · obtain ⟨h, ne⟩ := scales ‹_›
      exact Bool.and_eq_true_iff.mpr ⟨decide_eq_true h, bne_iff_ne.mpr (toNat_ne_succ ne)⟩
    · rfl
  · split
    · exact bne_toNat (narrow ‹_›).symm
    · rfl
  · split
    · exact decide_eq_true (apart ‹_›)
    · rfl

/-- vcvt from a type that is not a block type (R178, R179). -/
theorem passes_cvt {ty : BitVec 4} (ne : ty ≠ s.hart.sc.sew) (hty : ty.toNat < 14) (hs : s.hart.sc.sew.toNat < 14)
    (aligned : a.toNat % cvtGroup ty s.hart.sc.sew = 0) (fits : a.toNat + cvtGroup ty s.hart.sc.sew ≤ regs s)
    (narrow : sewBits ty < width s → d ≠ a)
    (apart : 1 < cvtGroup ty s.hart.sc.sew → d.toNat < a.toNat ∨ a.toNat + cvtGroup ty s.hart.sc.sew ≤ d.toNat) :
    passes s c (wordV 0x2D d a (ty.setWidth 6) km 0 c) := by
  have plain (v : BitVec 4) (h : v.toNat < 14) : sewIsBlock v = false := by
    rw [sewIsBlock_eq]
    exact decide_eq_false (by omega)
  have admits : cvtAdmits ty s.hart.sc.sew = true := by
    rw [cvtAdmits, plain _ hty, plain _ hs, bne_iff_ne.mpr ne]
    rfl
  refine passes_V ?_
  rw [vecLegal_cvt (wordV_op ..) (fnOf_wordV ..), typeField_wordV, dOf_wordV, aOf_wordV, admits]
  exact cvtRegs_of hd aligned fits (fun h => absurd h (by rw [plain _ hty]; exact Bool.false_ne_true)) narrow apart

/-- vcvt from a block type, whose scales stand in the register after its elements (R179, R182). -/
theorem passes_cvtBlock {ty : BitVec 4} (hty : 14 ≤ ty.toNat) (hs : 8 ≤ s.hart.sc.sew.toNat ∧ s.hart.sc.sew.toNat < 14)
    (ha : a.toNat + 1 < regs s) (ne1 : d ≠ a + 1) (narrow : sewBits ty < width s → d ≠ a) :
    passes s c (wordV 0x2D d a (ty.setWidth 6) km 0 c) := by
  have group : ∀ v w : BitVec 4, 14 ≤ v.toNat → 8 ≤ w.toNat ∧ w.toNat < 14 → cvtAdmits v w = true ∧ cvtGroup v w = 1 := by decide
  obtain ⟨admits, one⟩ := group ty s.hart.sc.sew hty hs
  refine passes_V ?_
  rw [vecLegal_cvt (wordV_op ..) (fnOf_wordV ..), typeField_wordV, dOf_wordV, aOf_wordV, admits]
  refine cvtRegs_of hd ?_ ?_ (fun _ => ⟨ha, ne1⟩) narrow fun h => absurd h ?_
  · rw [one, Nat.mod_one]
  · rw [one]
    exact ha.le
  · rw [one]
    exact Nat.lt_irrefl 1

variable (ha : a.toNat < regs s) (ne : d ≠ a)
include ha ne

theorem passes_expand (h : s.hart.sc.sew = 12) : passes s c (wordV 0x2D d a b km 1 c) := by
  refine passes_V ?_
  rw [vecLegal_expand (wordV_op ..) (fnOf_wordV ..), dOf_wordV, aOf_wordV, decide_eq_true ⟨hd, ha⟩, h, bne_toNat ne.symm]
  rfl

variable (hb : b.toNat < regs s) (ne2 : d ≠ b)
include hb ne2

theorem passes_dqblk (hf : fn = 4 ∨ fn = 5) (h : 8 ≤ s.hart.sc.sew.toNat ∧ s.hart.sc.sew.toNat < 14) : passes s c (wordV 0x2D d a b km fn c) := by
  have h' : 8 ≤ s.hart.sc.sew.toNat ∧ s.hart.sc.sew.toNat ≤ 13 := ⟨h.1, Nat.le_of_lt_succ h.2⟩
  refine passes_V ?_
  rcases hf with rfl | rfl
  · rw [vecLegal_dqblkF4 (wordV_op ..) (fnOf_wordV ..), dOf_wordV, aOf_wordV, bOf_wordV, decide_eq_true ⟨hd, ha, hb⟩, decide_eq_true h',
      bne_toNat ne.symm, bne_toNat ne2.symm]
    rfl
  · rw [vecLegal_dqblkI8 (wordV_op ..) (fnOf_wordV ..), dOf_wordV, aOf_wordV, bOf_wordV, decide_eq_true ⟨hd, ha, hb⟩, decide_eq_true h',
      bne_toNat ne.symm, bne_toNat ne2.symm]
    rfl

theorem passes_qblk (ne3 : a ≠ b) (hf : fn = 2 ∨ fn = 3) (h : 8 ≤ s.hart.sc.sew.toNat ∧ s.hart.sc.sew.toNat ≤ 11) :
    passes s c (wordV 0x2D d a b km fn c) := by
  refine passes_V ?_
  rcases hf with rfl | rfl
  · rw [vecLegal_qblkF4 (wordV_op ..) (fnOf_wordV ..), dOf_wordV, aOf_wordV, bOf_wordV, decide_eq_true ⟨hd, ha, hb⟩, sewIsFloat, decide_eq_true h,
      bne_toNat ne.symm, bne_toNat ne2.symm, bne_toNat ne3.symm]
    rfl
  · rw [vecLegal_qblkI8 (wordV_op ..) (fnOf_wordV ..), dOf_wordV, aOf_wordV, bOf_wordV, decide_eq_true ⟨hd, ha, hb⟩, sewIsFloat, decide_eq_true h,
      bne_toNat ne.symm, bne_toNat ne2.symm, bne_toNat ne3.symm]
    rfl
end

/-! ### Conversions and expansions that write a vector register alone (R178, R180) -/

section
variable {s : State} {rest : List Word32} {c : BitVec 1} (hv : vectorReady s) (hc : convoyLeft s c rest)
  {d a b : BitVec 6} {km : BitVec 3} {w : Word32} {i : Instr}
include hv hc

/-- Element j of the group of registers that vcvt reads (R179). -/
def groupElem (s : State) (a : BitVec 6) (q j : Nat) : Nat := elemOf (s.hart.vr (a + BitVec.ofNat 6 (j * q / regWidth s))) q (j * q % regWidth s / q)

/-- vcvt gives each active element the element of its source group, converted, and raises the flags of all of them (R178). -/
theorem gives_cvt {ty : BitVec 4} (hty : ty.toNat < 14) (hi : exec i s = issueV w (pure (.cvt d a ty km)) s) (hw : passes s c w)
    {f : Nat → Nat × Flags}
    (hf : ∀ j, ((convElem ty s.hart.sc.sew s.hart.sc.rm (groupElem s a (sewBits ty) j) 0x7F).1,
      (convElem ty s.hart.sc.sew s.hart.sc.rm (groupElem s a (sewBits ty) j) 0x7F).2.1) = f j) :
    givesElements s rest d (actives s km false) i (fun j => (f j).1) (flagsOver (actives s km false) fun j => (f j).2) := by
  obtain ⟨hl, h0⟩ := hw
  obtain rfl := funext hf
  have plain : sewIsBlock ty = false := by
    rw [sewIsBlock_eq]
    exact decide_eq_false (by omega)
  refine gives_each hv hc hi hl h0 rfl (fun h => absurd h Bool.false_ne_true) (fun _ _ he => by unfold vuBody; rw [he]) rfl rfl rfl
    (by rintro _ _ _ _ _ ⟨⟩) _ ?_ fun j _ => convElem_lt ..
  refine Eq.trans ?_ (entry_each (word := w) (op := .cvt d a ty km) fun j =>
    ((convElem ty s.hart.sc.sew s.hart.sc.rm (groupElem s a (sewBits ty) j) 0x7F).1,
      (convElem ty s.hart.sc.sew s.hart.sc.rm (groupElem s a (sewBits ty) j) 0x7F).2.1))
  unfold VEnv.compute
  dsimp only
  rw [plain]
  rfl

/-- vxpand gives each active element its storage element as an e4m3 value, and raises nothing (R180). -/
theorem gives_expand {f : BitVec 6} (h12 : s.hart.sc.sew = 12) (hi : exec i s = issueV w (pure (.xpand d a f km)) s) (hw : passes s c w) :
    givesElements s rest d (actives s km false) i (fun j => (roundVal fmtE4M3 rne (storageVal f.toNat
      (elemOf (s.hart.vr a) (if f = 2 then 4 else 6) j))).1) 0 := by
  obtain ⟨hl, h0⟩ := hw
  obtain ⟨hf, hn⟩ := holdsFinite_of_type 12 fmtE4M3 rfl
  rw [← flagsOver_zero (actives s km false)]
  refine gives_each hv hc hi hl h0 rfl (fun h => absurd h Bool.false_ne_true) (fun _ _ he => by unfold vuBody; rw [he]) rfl rfl rfl
    (by rintro _ _ _ _ _ ⟨⟩) _ ?_ fun j _ => ?_
  · refine Eq.trans ?_ (entry_each (word := w) (op := .xpand d a f km) fun j => ((roundVal fmtE4M3 rne (storageVal f.toNat
      (elemOf (s.hart.vr a) (if f = 2 then 4 else 6) j))).1, 0))
    unfold VEnv.compute elemOf
    simp only [bitsAt, Nat.mul_comm (if f = 2 then 4 else 6)]
    rfl
  · show _ < 2 ^ sewBits s.hart.sc.sew
    rw [h12, hn]
    exact roundVal_lt hf _ _
end

/-! ### Strands with elements and mask bits written -/

/-- The registers that a vector result goes to, with values. -/
def withRegs (s : State) (d : BitVec 6) (v : BitVec 6 → VReg) : Hart := (targets s d).foldl (fun h r => h.setVr r (v r)) s.hart

theorem withRegs_only (s : State) (d : BitVec 6) (v : BitVec 6 → VReg) : vuOnly s.hart (withRegs s d v) :=
  vuOnly_foldl _ (fun h r => vuOnly_setVr h r (v r)) _ _

/-- Registers are no masks. -/
theorem withRegs_mask (s : State) (d : BitVec 6) (v : BitVec 6 → VReg) (k : BitVec 3) : (withRegs s d v).mask k = s.hart.mask k := by
  unfold withRegs
  have same : ∀ (l : List (BitVec 6)) (h : Hart), (l.foldl (fun h r => h.setVr r (v r)) h).mask k = h.mask k := by
    intro l
    induction l with
    | nil => exact fun _ => rfl
    | cons r t ih => exact fun h => (ih _).trans rfl
  exact same _ _

/-- A result without a scalar and without a second vector is taken alone. -/
theorem committed_noScalar {h : Hart} {e : QEntry} {w8 : Nat} {res : VResult} (h2 : e.op.vdest2 = none) (hs : res.scalar = none) :
    committed e w8 res h = h.take e w8 res.elems res.bits res.flags := by
  unfold committed
  rw [h2, hs]
  cases e.op.scalarDest <;> rfl

theorem writeBits_nil (h : Hart) (e : QEntry) : h.writeBits e [] = h := by
  unfold Hart.writeBits
  split <;> rfl

/-- The bits of k7 that go with a block result: they have no copy, and none is no change. -/
theorem writeBits_k7 {h : Hart} {e : QEntry} (hk : e.op.maskDest = some (7, false)) (l : List (Nat × Bool)) :
    h.writeBits e l = h.setMask 7 (putBits (h.mask 7) l) := by
  unfold Hart.writeBits
  rw [hk]
  cases l with
  | nil => exact (setMask_mask h 7).symm
  | cons p t =>
    dsimp only [List.isEmpty_cons]
    cases e.copy <;> rfl

/-- Mask bits that raise nothing. -/
theorem foldl_bits_noFlag (acts : List Nat) (p : Nat → Bool) (g : Flags) :
    (acts.map fun j => (j, p j, (0 : Flags))).foldl (fun g q => g ||| q.2.2) g = g := by
  rw [List.foldl_map]
  exact List.foldl_fixed' (fun _ => BitVec.or_zero) acts

/-- Flags that are gathered on top of others. -/
theorem foldl_flags (f : Nat → Flags) : ∀ (l : List Nat) (g : Flags), l.foldl (fun g j => g ||| f j) g = g ||| flagsOver l f
  | [], g => (or_noFlag g).symm
  | j :: l, g => by rw [List.foldl_cons, foldl_flags f l, flagsOver_cons, BitVec.or_assoc]

/-- What a strand with nothing queued takes: elements with flags, and bits that raise nothing. -/
theorem take_elemsBits {h : Hart} (hq : h.queue = []) (e : QEntry) (w8 : Nat) (acts places : List Nat) (f : Nat → Nat) (fl : Nat → Flags)
    (p : Nat → Bool) (g : Flags) :
    h.take e w8 (acts.map fun j => (j, f j, fl j)) (places.map fun j => (j, p j, 0)) g =
      raise (g ||| flagsOver acts fl)
        ((h.writeElems e w8 (e.op.width e.sew) (acts.map fun j => (j, f j))).writeBits e (places.map fun j => (j, p j))) := by
  have only := vuOnly_trans (vuOnly_writeElems h e w8 (e.op.width e.sew) (acts.map fun j => (j, f j)))
    (vuOnly_writeBits _ e (places.map fun j => (j, p j)))
  unfold Hart.take
  dsimp only
  rw [List.map_map, List.map_map, foldl_bits_noFlag, List.foldl_map, foldl_flags]
  exact vuFlags_raise (List.length_eq_zero_iff.mp (only.2.trans (by rw [hq]; rfl))) _

/-! ### Decoded blocks (R67, R182) -/

/-- The operations that decode blocks. -/
def unblocks : VOp → Bool
  | .cvt .. | .dqblk .. => true
  | _ => false

theorem unblocks_shape {op : VOp} (hp : unblocks op = true) :
    op.vdest2 = none ∧ (∀ sew, op.width sew = sewBits sew) ∧ op.maskDest = some (7, false) ∧ op.restarts = false ∧
      (∀ m a b c k, op ≠ .widen m a b c k) ∧ ∀ e u, e.op = op → vuBody e u = runElems e u := by
  cases op with
  | cvt | dqblk => exact ⟨rfl, fun _ => rfl, rfl, rfl, (by rintro _ _ _ _ _ ⟨⟩), fun _ _ he => by unfold vuBody; rw [he]⟩
  | _ => cases hp

section
variable {s : State} {rest : List Word32} {c : BitVec 1} (hv : vectorReady s) (hc : convoyLeft s c rest)
  {d a b : BitVec 6} {km : BitVec 3} {w : Word32} {mk : M VOp} {i : Instr} {op : VOp}

include hv in
/-- The elements of the destination and of the copy register after a result over elements is written. -/
theorem writeElems_elements (w8 : Nat) (hd : op.vdest = some d) (h2 : op.vdest2 = none) (hn : op.width s.hart.sc.sew = width s)
    (hop : ∀ m a b c k, op ≠ .widen m a b c k) (acts : List Nat) (f : Nat → Nat) :
    ∃ v : BitVec 6 → VReg,
      s.hart.writeElems (entryOf s.hart w op) w8 (op.width s.hart.sc.sew) (acts.map fun j => (j, f j)) = withRegs s d v ∧
      ∀ r ∈ targets s d, ∀ j, (j + 1) * width s ≤ 131072 → elemOf (v r) (width s) j = if j ∈ acts then f j % 2 ^ width s else el s r j := by
  obtain ⟨v, run, elems⟩ := committed_elements (word := w) w8 hv.1 hd h2 (.inr rfl) rfl hn hop rfl rfl rfl
    (res := { VResult.none with elems := acts.map fun j => (j, f j, 0) }) (acts := acts) (val := f) (flags := fun _ => 0)
  refine ⟨v, ?_, elems⟩
  have taken := (committed_noScalar h2 rfl).symm.trans run
  have plain := take_elemsBits hv.1 (entryOf s.hart w op) w8 acts [] f (fun _ => 0) (fun _ => false) 0
  rw [flagsOver_zero, raise_zero] at taken
  rw [flagsOver_zero, noFlag_or, raise_zero, List.map_nil, List.map_nil, writeBits_nil] at plain
  exact plain.symm.trans taken

include hv hc

/-- A block result is a value for each active element, with a bit of k7 for each, and the flags of all of them. -/
theorem gives_unblocked (hi : exec i s = issueV w mk s) (hw : passes s c w) (hm : mk s = .ok op s) (hp : unblocks op = true)
    (hd : op.vdest = some d) {acts : List Nat} {f : Nat → Nat} {fl : Nat → Flags} {p : Nat → Bool}
    (hf : (entryEnv s (entryOf s.hart w op)).compute op =
      { VResult.none with elems := acts.map fun j => (j, f j, fl j), bits := acts.map fun j => (j, p j, 0) })
    (hlt : ∀ j, f j < 2 ^ width s) :
    ∃ (v : BitVec 6 → VReg) (k : MaskReg),
      exec i s = .next (vnext rest (fun h => raise (flagsOver acts fl)
        (((targets s d).foldl (fun h r => h.setVr r (v r)) h).setMask 7 k)) s) ∧
      (∀ r ∈ targets s d, ∀ j, (j + 1) * width s ≤ 131072 → elemOf (v r) (width s) j = if j ∈ acts then f j else el s r j) ∧
      ∀ j < 32768, k.getLsbD j = if j ∈ acts then p j else (s.hart.mask 7).getLsbD j := by
  obtain ⟨hl, h0⟩ := hw
  obtain ⟨h2, hn, hk, hs, hop, hb⟩ := unblocks_shape hp
  obtain ⟨v, written, elems⟩ := writeElems_elements (w := w) hv (regWidth s) hd h2 (hn _) hop acts f
  have result : committed (entryOf s.hart w op) (regWidth s)
      { VResult.none with elems := acts.map fun j => (j, f j, fl j), bits := acts.map fun j => (j, p j, 0) } s.hart =
      raise (flagsOver acts fl) ((withRegs s d v).setMask 7 (putBits (s.hart.mask 7) (acts.map fun j => (j, p j)))) := by
    refine (committed_noScalar h2 rfl).trans ((take_elemsBits hv.1 (entryOf s.hart w op) (regWidth s) acts acts f fl p 0).trans ?_)
    rw [noFlag_or, writeBits_k7 hk]
    refine (congrArg (fun g : Hart => raise (flagsOver acts fl) (g.setMask 7 (putBits (g.mask 7) _))) written).trans ?_
    rw [withRegs_mask]
  refine ⟨v, putBits (s.hart.mask 7) (acts.map fun j => (j, p j)), ?_, fun r hr j hj => ?_, fun j hj => getLsbD_putBits p j hj acts _⟩
  · rw [hi, issueV_elems hv hl hc h0 hm (fun h => absurd h (by rw [show (entryOf s.hart w op).op = op from rfl, hs]; exact Bool.false_ne_true)) hb, hf]
    exact congrArg Host.Outcome.next (vnext_congr result)
  · rw [elems r hr j hj, Nat.mod_eq_of_lt (hlt j)]

end

/-- An element of a block with the scale of its block, decoded (R67). -/
theorem convElem_block {code sew : BitVec 4} (hb : sewIsBlock code = true) {t : FFmt} (ht : sewFmt sew = some t) (m : RMode) (v z : Nat) :
    ((convElem code sew m v z).1, (convElem code sew m v z).2.1) = if z = 0xFF then (0, 0) else roundVal t m (scaledElem (code == 15#4) v z) := by
  unfold convElem
  rw [hb, if_pos rfl, ht]
  split <;> rfl

/-- Decoding elements with the scales of their blocks of 32. -/
theorem unblock_eq {s : State} {w : Word32} {op : VOp} {acts : List Nat} (ha : (entryEnv s (entryOf s.hart w op)).act = acts) (code : BitVec 4)
    (e z : Nat → Nat) {r : Nat → Nat × Flags}
    (hr : ∀ j, ((convElem code s.hart.sc.sew s.hart.sc.rm (e j) (z (j / 32))).1, (convElem code s.hart.sc.sew s.hart.sc.rm (e j) (z (j / 32))).2.1) = r j) :
    (entryEnv s (entryOf s.hart w op)).unblock code e z =
      { VResult.none with elems := acts.map fun j => (j, (r j).1, (r j).2), bits := acts.map fun j => (j, z (j / 32) != 0xFF, 0) } := by
  obtain rfl := funext hr
  unfold VEnv.unblock
  rw [ha]
  refine congrArg (fun l => { VResult.none with elems := l, bits := acts.map fun j => (j, z (j / 32) != 0xFF, 0) }) ?_
  exact List.map_congr_left fun j _ => congrArg (fun g : Flags => (j, _, g)) (or_noFlag _)

/-- A block element decoded with its scale: zero, with nothing raised, where the scale is not finite (R65, R66). -/
def decodedElem (t : FFmt) (m : RMode) (i8 : Bool) (v z : Nat) : Nat × Flags := if z = 0xFF then (0, 0) else roundVal t m (scaledElem i8 v z)

theorem decodedElem_lt {t : FFmt} (ht : holdsFinite t) (m : RMode) (i8 : Bool) (v z : Nat) : (decodedElem t m i8 v z).1 < 2 ^ t.width := by
  unfold decodedElem
  split
  · exact Nat.two_pow_pos _
  · exact roundVal_lt ht m _

/-- A form that decodes blocks gives each active element its element with its scale, and its bit of k7 (R182). -/
theorem gives_decoded {s : State} {rest : List Word32} {c : BitVec 1} (hv : vectorReady s) (hc : convoyLeft s c rest) {d va vs : BitVec 6}
    {km : BitVec 3} {w : Word32} {i : Instr} {op : VOp} {code : BitVec 4} {t : FFmt} (ht : sewFmt s.hart.sc.sew = some t) (hw : passes s c w)
    (hi : exec i s = issueV w (pure op) s) (hp : unblocks op = true) (hd : op.vdest = some d) (hk : op.km = km) (hb : sewIsBlock code = true)
    (hu : (entryEnv s (entryOf s.hart w op)).compute op = (entryEnv s (entryOf s.hart w op)).unblock code
      (elemOf (s.hart.vr va) (if code == 15#4 then 8 else 4)) (elemOf (s.hart.vr vs) 8)) :
    let acts := actives s km false
    let r := fun j => decodedElem t s.hart.sc.rm (code == 15#4) (elemOf (s.hart.vr va) (if code == 15#4 then 8 else 4) j)
      (elemOf (s.hart.vr vs) 8 (j / 32))
    ∃ (v : BitVec 6 → VReg) (k : MaskReg),
      exec i s = .next (vnext rest (fun h => raise (flagsOver acts fun j => (r j).2)
        (((targets s d).foldl (fun h r => h.setVr r (v r)) h).setMask 7 k)) s) ∧
      (∀ q ∈ targets s d, ∀ j, (j + 1) * width s ≤ 131072 → elemOf (v q) (width s) j = if j ∈ acts then (r j).1 else el s q j) ∧
      ∀ j < 32768, k.getLsbD j = if j ∈ acts then elemOf (s.hart.vr vs) 8 (j / 32) != 0xFF else (s.hart.mask 7).getLsbD j := by
  intro acts r
  obtain ⟨hf, hn⟩ := holdsFinite_of_type s.hart.sc.sew t ht
  have noVE : op.usesVE = false := by
    cases op with
    | cvt | dqblk => rfl
    | _ => cases hp
  have act : (entryEnv s (entryOf s.hart w op)).act = acts := entry_act.trans (by rw [noVE, hk])
  refine gives_unblocked hv hc hi hw rfl hp hd (hu.trans (unblock_eq act code _ _ (r := r) fun j => convElem_block hb ht ..)) fun j => ?_
  show _ < 2 ^ sewBits s.hart.sc.sew
  rw [hn]
  exact decodedElem_lt hf ..

/-! ### Quantised blocks (R70, R71, R181) -/

/-- A scale code and an element code have the widths that they are stored with. -/
theorem groupScale_lt (i8 : Bool) (l : List FVal) : (groupScale i8 l).1 < 2 ^ 8 := by
  unfold groupScale
  split
  · decide
  · dsimp only
    split
    · decide
    · show (max (-127) (min 127 _) + 127 : Int).toNat < _
      omega

theorem quantElem_lt (i8 : Bool) (z : Int) (v : FVal) : (quantElem i8 z v).1 < 2 ^ (if i8 then 8 else 4) := by
  have index (k : Nat) : (([0, 1, 2, 3, 4, 6, 8, 12] : List Nat).findIdx? (· == k)).getD 7 < 8 := by
    rcases h : ([0, 1, 2, 3, 4, 6, 8, 12] : List Nat).findIdx? (· == k) with _ | m
    · decide
    · exact (List.findIdx?_eq_some_iff_getElem.mp h).1
  unfold quantElem
  cases v with
  | fin neg m e =>
    cases i8 with
    | true => exact wrapInt_lt 8 _
    | false =>
      dsimp only
      have := index (min ((roundQuantum rne { neg := neg, m := m, e := e - z, sticky := false } (max (e - z + log2Floor m - 1) (-1))).1 <<<
        (max (e - z + log2Floor m - 1) (-1) + 1).toNat) 12)
      show _ + (if neg then 8 else 0) < 2 ^ 4
      split <;> omega
  | _ => exact Nat.two_pow_pos _

section
variable (s : State) (i8 : Bool) (t : FFmt) (a : BitVec 6) (acts : List Nat)

/-- The scale of group k: its code, its flags, and the shared exponent (R70). -/
def scaleOf (k : Nat) : Nat × Flags × Int := groupScale i8 ((acts.filter fun j => j / 32 == k).map fun j => t.decode (el s a j))

/-- The code of element j and whether it is inexact: zero where its group has no finite scale (R71). -/
def codeOf (j : Nat) : Nat × Bool :=
  if (scaleOf s i8 t a acts (j / 32)).1 = 0xFF then (0, false) else quantElem i8 (scaleOf s i8 t a acts (j / 32)).2.2 (t.decode (el s a j))

theorem scaleOf_lt (k : Nat) : (scaleOf s i8 t a acts k).1 < 2 ^ 8 := groupScale_lt ..

theorem codeOf_lt (j : Nat) : (codeOf s i8 t a acts j).1 < 2 ^ (if i8 then 8 else 4) := by
  unfold codeOf
  split
  · exact Nat.two_pow_pos _
  · exact quantElem_lt ..

/-- The elements of a list, by groups of 32. -/
def grouped (n : Nat) : List Nat := (List.range n).flatMap fun k => acts.filter fun j => j / 32 == k

theorem mem_grouped {n : Nat} (h : ∀ j ∈ acts, j / 32 < n) (j : Nat) : j ∈ grouped acts n ↔ j ∈ acts := by
  simp only [grouped, List.mem_flatMap, List.mem_range, List.mem_filter, beq_iff_eq]
  exact ⟨fun ⟨_, _, hj, _⟩ => hj, fun hj => ⟨_, h j hj, hj, rfl⟩⟩
end

/-- vqblk's result, element by element and group by group. -/
theorem quantise_eq {s : State} {w : Word32} {op : VOp} {t : FFmt} (ht : sewFmt s.hart.sc.sew = some t) (i8 : Bool) (a : BitVec 6)
    {acts : List Nat} (ha : (entryEnv s (entryOf s.hart w op)).act = acts) {n : Nat} (hn : ceilDiv (vl s) 32 = n) :
    (entryEnv s (entryOf s.hart w op)).quantise i8 a =
      { elems := (grouped acts n).map fun j => (j, (codeOf s i8 t a acts j).1, if (codeOf s i8 t a acts j).2 then flagNX else 0)
        second := (List.range n).map fun k => (k, (scaleOf s i8 t a acts k).1)
        bits := (grouped acts n).map fun j => (j, (scaleOf s i8 t a acts (j / 32)).1 != 0xFF, 0)
        scalar := none
        flags := flagsOver (List.range n) fun k => (scaleOf s i8 t a acts k).2.1 } := by
  have each {α : Type} (f : Nat → Nat → α) (g : Nat → α) (h : ∀ j, f (j / 32) j = g j) :
      ((List.range n).flatMap fun k => (acts.filter fun j => j / 32 == k).map (f k)) = (grouped acts n).map g := by
    rw [grouped, List.map_flatMap]
    refine List.flatMap_congr fun k _ => List.map_congr_left fun j hj => ?_
    rw [← h j, beq_iff_eq.mp (List.mem_filter.mp hj).2]
  unfold VEnv.quantise
  rw [show (entryEnv s (entryOf s.hart w op)).sew = s.hart.sc.sew from rfl, ht, ha, show (entryEnv s (entryOf s.hart w op)).vl = vl s from rfl, hn]
  dsimp only
  simp only [List.flatMap_map, List.map_map, List.map_flatMap, List.foldl_map]
  congr 1
  · refine each (fun k j => _) _ fun j => ?_
    show (fun p : Nat × Nat × Bool => (p.1, p.2.1, flagIf p.2.2 flagNX ||| (0 : Flags))) (if (scaleOf s i8 t a acts (j / 32)).1 = 0xFF then
      (j, 0, false) else (j, quantElem i8 (scaleOf s i8 t a acts (j / 32)).2.2 (t.decode (el s a j)))) = _
    unfold codeOf
    split <;> exact congrArg (fun g : Flags => (j, _, g)) (or_noFlag _)
  · exact each (fun k j => (j, (scaleOf s i8 t a acts k).1 != 0xFF, 0)) _ fun j => rfl

/-- The groups of 32 that hold VL elements. -/
theorem groups_ceilDiv (s : State) : ceilDiv (vl s) 32 = (vl s + 31) / 32 := by
  rw [ceilDiv, Nat.add_sub_assoc (by decide)]

section
variable {s : State} {rest : List Word32} {c : BitVec 1} (hv : vectorReady s) (hc : convoyLeft s c rest) (hcopy : copyOf s = none)
  {d a b : BitVec 6} (ne : d ≠ b) {km : BitVec 3} {w : Word32} {i : Instr} {i8 : Bool}

include hv hcopy ne in
/-- A quantised result writes codes, scales, and bits of k7 in three places apart. -/
theorem committed_quantised (w8 : Nat) (places : List Nat) (f : Nat → Nat) (fl : Nat → Flags) (p : Nat → Bool) (scales : List (Nat × Nat)) (g : Flags) :
    committed (entryOf s.hart w (.qblk i8 d b a km)) w8
        { elems := places.map fun j => (j, f j, fl j), second := scales, bits := places.map fun j => (j, p j, 0), scalar := none, flags := g } s.hart =
      raise (g ||| flagsOver places fl)
        (((s.hart.setVr d (putElems (s.hart.vr d) (if i8 then 8 else 4) (places.map fun j => (j, f j)))).setVr b
          (putElems (s.hart.vr b) 8 scales)).setMask 7 (putBits (s.hart.mask 7) (places.map fun j => (j, p j)))) := by
  have targets : (entryOf s.hart w (.qblk i8 d b a km)).targets = [d] := by
    unfold QEntry.targets
    rw [entryOf_copy, hcopy]
    rfl
  have taken := take_elemsBits hv.1 (entryOf s.hart w (.qblk i8 d b a km)) w8 places places f fl p g
  have written : s.hart.writeElems (entryOf s.hart w (.qblk i8 d b a km)) w8 (if i8 then 8 else 4) (places.map fun j => (j, f j)) =
      s.hart.setVr d (putElems (s.hart.vr d) (if i8 then 8 else 4) (places.map fun j => (j, f j))) := by
    unfold Hart.writeElems
    rw [targets]
    rfl
  rw [writeBits_k7 rfl] at taken
  refine (congrArg (fun h : Hart => h.setVr b (putElems (h.vr b) 8 scales)) taken).trans ?_
  refine (congrArg (fun h : Hart => (raise (g ||| flagsOver places fl) (h.setMask 7 (putBits (h.mask 7) (places.map fun j => (j, p j))))).setVr b
    (putElems ((raise (g ||| flagsOver places fl) (h.setMask 7 (putBits (h.mask 7) (places.map fun j => (j, p j))))).vr b) 8 scales)) written).trans ?_
  have other (v : VReg) : (s.hart.setVr d v).vr b = s.hart.vr b := (vr_setVr ..).trans (if_neg ne.symm)
  rw [← other]
  rfl

include hv hc hcopy ne

/-- vqblk leaves the code of each active element, the scale of each group, a bit of k7 for each active element, and the flags of all (R181). -/
theorem gives_quantised {t : FFmt} (ht : sewFmt s.hart.sc.sew = some t) (h0 : s.hart.vstart = 0 ∨ vl s = 0)
    (hi : exec i s = issueV w (pure (.qblk i8 d b a km)) s) (hw : passes s c w) :
    let acts := actives s km false
    let n := (vl s + 31) / 32
    ∃ (v u : VReg) (k : MaskReg),
      exec i s = .next (vnext rest (fun h =>
        raise (flagsOver (List.range n) (fun j => (scaleOf s i8 t a acts j).2.1) |||
            flagsOver acts fun j => if (codeOf s i8 t a acts j).2 then flagNX else 0)
          (((h.setVr d v).setVr b u).setMask 7 k)) s) ∧
      (∀ j, (j + 1) * (if i8 then 8 else 4) ≤ 131072 → elemOf v (if i8 then 8 else 4) j =
        if j ∈ acts then (codeOf s i8 t a acts j).1 else elemOf (s.hart.vr d) (if i8 then 8 else 4) j) ∧
      (∀ j, (j + 1) * 8 ≤ 131072 → elemOf u 8 j = if j < n then (scaleOf s i8 t a acts j).1 else elemOf (s.hart.vr b) 8 j) ∧
      ∀ j < 32768, k.getLsbD j = if j ∈ acts then (scaleOf s i8 t a acts (j / 32)).1 != 0xFF else (s.hart.mask 7).getLsbD j := by
  intro acts n
  obtain ⟨hl, hc0⟩ := hw
  have inside : ∀ j ∈ acts, j / 32 < n := fun j hj => by
    have := List.mem_range.mp (List.mem_filter.mp hj).1
    omega
  have same := mem_grouped acts inside
  have flags : flagsOver (grouped acts n) (fun j => if (codeOf s i8 t a acts j).2 then flagNX else 0) =
      flagsOver acts fun j => if (codeOf s i8 t a acts j).2 then flagNX else 0 :=
    flagsOver_congr fun P => exists_congr fun j => and_congr_left fun _ => same j
  refine ⟨putElems (s.hart.vr d) (if i8 then 8 else 4) ((grouped acts n).map fun j => (j, (codeOf s i8 t a acts j).1)),
    putElems (s.hart.vr b) 8 ((List.range n).map fun j => (j, (scaleOf s i8 t a acts j).1)),
    putBits (s.hart.mask 7) ((grouped acts n).map fun j => (j, (scaleOf s i8 t a acts (j / 32)).1 != 0xFF)),
    ?_, fun j hj => ?_, fun j hj => ?_, fun j hj => ?_⟩
  · rw [hi, issueV_elems (mk := pure (.qblk i8 d b a km)) hv hl hc hc0 rfl (startsWell_of h0 w _) (fun _ _ he => by unfold vuBody; rw [he])]
    refine congrArg Host.Outcome.next (vnext_congr ?_)
    have values := quantise_eq (s := s) (w := w) (op := .qblk i8 d b a km) (acts := acts) ht i8 a entry_act (groups_ceilDiv s)
    refine (congrArg (fun r => committed (entryOf s.hart w (.qblk i8 d b a km)) (regWidth s) r s.hart) values).trans ?_
    rw [committed_quantised hv hcopy ne, flags]
  · rw [elemOf_putElems _ _ j hj, Nat.mod_eq_of_lt (codeOf_lt ..)]
    simp only [same]
  · rw [elemOf_putElems _ _ j hj, Nat.mod_eq_of_lt (scaleOf_lt ..)]
    simp only [List.mem_range]
  · rw [getLsbD_putBits _ j hj]
    simp only [same]
end

theorem sewBits_pos : ∀ v : BitVec 4, 0 < sewBits v := by decide

/-- The formats of R52, as the statement lists them. -/
theorem lookup_formats : ∀ v : BitVec 4, ([(8, fmtHalf), (9, fmtBf16), (10, fmtSingle), (11, fmtDouble), (12, fmtE4M3),
    (13, fmtE5M2)] : List (Nat × FFmt)).lookup v.toNat = sewFmt v := by decide

/-- Every floating-point type that is no block type has a format. -/
theorem sewFmt_of_fp8 {sew : BitVec 4} (h : 8 ≤ sew.toNat ∧ sew.toNat < 14) : ∃ t, sewFmt sew = some t := by
  rw [← Option.isSome_iff_exists]
  revert sew
  decide

/-- Settles O25: a conversion is `convElem` on the elements of a group (`gives_cvt`), a block is decoded with its scale (`gives_decoded`), and
quantised by groups of 32 (`gives_quantised`). -/
theorem vectorConversionResults : Obligations.VectorConversionResults := by
  intro s rest d a b f ty km c hv hc hd n acts m sew fmt q g low signed clamp src int converted decodes quantises
  have n0 : 0 < n := width_pos s
  have fmt_eq (v : BitVec 4) : fmt v = sewFmt v := lookup_formats v
  have cvt (ne : ty ≠ sew) (hty : ty.toNat < 14) (hs : sew.toNat < 14) (al : a.toNat % g = 0) (fits : a.toNat + g ≤ regs s)
      (narrow : q < n → d ≠ a) (apart : 1 < g → d.toNat < a.toNat ∨ a.toNat + g ≤ d.toNat) :
      givesElements s rest d acts (.vcvt d a ty km c) (fun j => (converted j).1) (flagsOver acts fun j => (converted j).2) := by
    refine gives_cvt hv hc hty rfl (passes_cvt hd ne hty hs al fits narrow apart) fun j => ?_
    have q0 : 0 < q := sewBits_pos ty
    have hsrc : src j < 2 ^ q := Nat.mod_lt _ (Nat.two_pow_pos q)
    have plain : sewIsBlock ty = false := by
      rw [sewIsBlock_eq]
      exact decide_eq_false (by omega)
    have sign {v : BitVec 4} (h : v.toNat < 14) (hf : sewFmt v = none) : sewSigned v = signed v := sewSigned_eq (sewIsInt_of_none h hf)
    have int_eq : elemInt (sewSigned ty) q (src j) = asInt (sewSigned ty) q (src j) := elemInt_eq q0 _ hsrc
    show ((convElem ty sew m (src j) 0x7F).1, (convElem ty sew m (src j) 0x7F).2.1) = converted j
    simp only [converted, fmt_eq, convElem, plain, Bool.false_eq_true, if_false]
    rcases hu : sewFmt ty with _ | u <;> rcases ht : sewFmt sew with _ | t
    · show (wrapInt n (saturate (sewSigned sew) n (elemInt (sewSigned ty) q (src j))).1, _) = (low (clamp (int (src j))), _)
      rw [int_eq, saturate_eq, wrapInt_eq, sign hs ht, sign hty hu, asInt_ite]
    · show convIF t m (elemInt (sewSigned ty) q (src j)) = convIF t m (int (src j))
      rw [int_eq, sign hty hu, asInt_ite]
    · show (wrapInt n (convFI u m (sewSigned sew) n (src j)).1, (convFI u m (sewSigned sew) n (src j)).2) = (low (convFI u m (signed sew) n (src j)).1, _)
      rw [wrapInt_eq, sign hs ht]
    · rfl
  have fmt_some (hs : 8 ≤ sew.toNat ∧ sew.toNat < 14) : sewFmt sew = some ((fmt sew).getD fmtDouble) := by
    obtain ⟨t, ht⟩ := sewFmt_of_fp8 hs
    rw [fmt_eq, ht]
    rfl
  have cvtBlock (hty : 14 ≤ ty.toNat) (hs : 8 ≤ sew.toNat ∧ sew.toNat < 14) (ha : a.toNat + 1 < regs s) (ne1 : d ≠ a + 1)
      (narrow : q < n → d ≠ a) : decodes (.vcvt d a ty km c) (decide (ty.toNat = 15)) a (a + 1) := by
    have block : sewIsBlock ty = true := (sewIsBlock_eq ty).trans (decide_eq_true hty)
    have codes : ∀ v : BitVec 4, 14 ≤ v.toNat → sewBits v = (if v == 15#4 then 8 else 4) ∧ (v == 15#4) = decide (v.toNat = 15) := by decide
    obtain ⟨bits, i8⟩ := codes ty hty
    rw [← i8]
    refine gives_decoded hv hc (fmt_some hs) (passes_cvtBlock hd hty hs ha ne1 narrow) rfl rfl rfl rfl block ?_
    unfold VEnv.compute
    dsimp only
    rw [block, if_pos rfl, bits]
    rfl
  have dqblk (hs : 8 ≤ sew.toNat ∧ sew.toNat < 14) (ha : a.toNat < regs s) (hb : b.toNat < regs s) (ne : d ≠ a) (ne2 : d ≠ b) :
      decodes (.vdqblkF4 d a b km c) false a b ∧ decodes (.vdqblkI8 d a b km c) true a b :=
    ⟨gives_decoded (op := .dqblk false d a b km) (code := 14) hv hc (fmt_some hs) (passes_dqblk hd ha ne hb ne2 (.inl rfl) hs) rfl rfl rfl rfl rfl rfl,
      gives_decoded (op := .dqblk true d a b km) (code := 15) hv hc (fmt_some hs) (passes_dqblk hd ha ne hb ne2 (.inr rfl) hs) rfl rfl rfl rfl rfl rfl⟩
  have expand (h12 : sew = 12) (ha : a.toNat < regs s) (ne : d ≠ a) :
      givesElements s rest d acts (.vxpand d a f km c) (fun j => (roundVal fmtE4M3 rne (storageVal f.toNat
        (elemOf (s.hart.vr a) (if f = 2 then 4 else 6) j))).1) 0 :=
    gives_expand hv hc h12 rfl (passes_expand hd ha ne h12)
  have qblk (ha : a.toNat < regs s) (hb : b.toNat < regs s) (ne : d ≠ a) (ne2 : d ≠ b) (ne3 : a ≠ b) (hcopy : copyOf s = none)
      (h0 : s.hart.vstart = 0 ∨ vl s = 0) : quantises (.vqblkF4 d a b km c) false ∧ quantises (.vqblkI8 d a b km c) true :=
    ⟨fun t hs ht => gives_quantised hv hc hcopy ne2 ((fmt_eq sew).symm.trans ht) h0 rfl (passes_qblk hd ha ne hb ne2 ne3 (.inl rfl) hs),
      fun t hs ht => gives_quantised hv hc hcopy ne2 ((fmt_eq sew).symm.trans ht) h0 rfl (passes_qblk hd ha ne hb ne2 ne3 (.inr rfl) hs)⟩
  have ofDecodes {i : Instr} {i8 : Bool} {va vs : BitVec 6} (h : decodes i i8 va vs) : completes s i := by
    obtain ⟨v, k, run, -⟩ := h
    exact completes_of_vnext rfl run
  have ofQuantises {i : Instr} {i8 : Bool} (h : quantises i i8) (hs : 8 ≤ sew.toNat ∧ sew.toNat ≤ 11) : completes s i := by
    obtain ⟨v, u, k, run, -⟩ := h _ hs ((fmt_eq sew).trans (fmt_some ⟨hs.1, by omega⟩))
    exact completes_of_vnext rfl run
  refine ⟨fun ne hty hs al fits narrow apart => ?_, fun ha ne => ⟨fun h12 _ => ?_, fun hb ne2 => ⟨fun h8 h14 => ?_, fun h8 h11 ne3 hcopy h0 => ?_⟩⟩,
    cvt, fun hty h8 h14 ha ne1 narrow => cvtBlock hty ⟨h8, h14⟩ ha ne1 narrow, fun h8 h14 ha hb ne ne2 => dqblk ⟨h8, h14⟩ ha hb ne ne2,
    fun h12 ha ne _ => expand h12 ha ne, qblk⟩
  all_goals simp only [complete_cons, complete_nil, and_true]
  · exact completes_of_givesElements (cvt ne hty hs al fits narrow apart)
  · exact completes_of_givesElements (expand h12 ha ne)
  · obtain ⟨f4, i8⟩ := dqblk ⟨h8, h14⟩ ha hb ne ne2
    exact ⟨ofDecodes f4, ofDecodes i8⟩
  · obtain ⟨f4, i8⟩ := qblk ha hb ne ne2 ne3 hcopy h0
    exact ⟨ofQuantises f4 ⟨h8, h11⟩, ofQuantises i8 ⟨h8, h11⟩⟩

/-! ### An mxf4 store of a strand whose record is not empty -/

/-- The first address of the window of a strand's own store (R277). -/
def storeWindow : Word := 0x00FFFF0000000000

/-- The physical address of the first byte of the local store of core 0 of module 0 (R270). -/
def storeStart : Nat := 2 ^ 41

theorem storeWindow_offset : bitsAt storeWindow.toNat 0 48 = 0xFF0000000000 := by decide +kernel

theorem storeStart_space : paSpace1 storeStart = true := by decide +kernel

/-- A strand at U outside any chunk, with VL = 1, SEW mxf4, s1 the base of its own store, and a record that is not empty: byte 0 of the store stands in it
as 0xFF. -/
def nibbleWithRecord : State :=
  { State.reset with
    hart := { Hart.start with
      sc := { Scal.start.put 1 storeWindow with sew := 14, vl := 1 }
      held := false
      written := [(storeStart, 0xFF)] } }

theorem nibbleWithRecord_ready : vectorReady nibbleWithRecord :=
  ⟨rfl, rfl, rfl, rfl, rfl, by decide +kernel, rfl, rfl, rfl, rfl, rfl⟩

/-- Byte 0 of the store is reached from the base of the window, however memory and the registers stand (R277). -/
theorem nibbleWithRecord_reaches : reaches nibbleWithRecord storeWindow 1 .w storeStart := by
  intro t same _ slot _
  have management : t.onMgmt = none := by rw [same]; rfl
  have store : selfStore t = selfStore nibbleWithRecord := by
    unfold selfStore
    rw [slot, same]
  have window : windowPa t storeWindow = some storeStart := by
    simp [windowPa, store, storeWindow_offset, show selfStore nibbleWithRecord = storeStart from by decide +kernel]
  refine ⟨false, ?_⟩
  unfold Machine.translate
  rw [bind_ok (get_apply t)]
  simp [management, window, noteNear, storeStart_space, show canonical storeWindow = true from by decide +kernel,
    show inWindowRegion storeWindow = true from by decide +kernel]

/-- The byte at an address of the state that a step leaves. -/
def byteAfter (q : Nat) : Out → Byte
  | .next t => memGet t.mem q
  | _ => 0

/-- The store of a lone nibble takes the byte's other nibble as a load takes it (R175), from the record. -/
theorem nibbleWithRecord_store : byteAfter storeStart (exec (.vst 0 1 0 0) nibbleWithRecord) = 0xF0 := by decide +kernel

/-- Refutes O26: its clause on the store of mxf4 elements does not say that a strand outside any chunk has an empty record (the clause on remote accesses
does). Where the record holds 0xFF for the byte of a lone element 0 whose value is 0, the store leaves 0xF0 in memory, and the byte was 0 there. -/
theorem not_vectorMemoryResults : ¬ Obligations.VectorMemoryResults := by
  intro holds
  obtain ⟨-, stores, -⟩ := holds
  obtain ⟨-, nibbles⟩ := stores nibbleWithRecord [] 0 0 0 1 0 0 0 (fun _ _ => storeStart) nibbleWithRecord_ready
    (.inl ⟨rfl, rfl, rfl⟩) rfl (by decide +kernel)
  have acts : actives nibbleWithRecord 0 true = [0] := by decide +kernel
  obtain ⟨t, completes, -, mem⟩ := nibbles rfl rfl ⟨rfl, fun _ h => absurd h List.not_mem_nil⟩ (by
    rw [acts]
    intro j hj
    obtain rfl := List.mem_singleton.mp hj
    exact ⟨⟨by decide +kernel, nibbleWithRecord_reaches, by decide +kernel, by decide +kernel, by decide +kernel⟩,
      ⟨by decide +kernel, by decide +kernel, by decide +kernel, by decide +kernel, by decide +kernel⟩, by decide +kernel⟩)
  have claimed : memGet t.mem storeStart = 0 := by
    rw [mem, acts]
    decide +kernel
  have left := nibbleWithRecord_store
  rw [completes] at left
  exact absurd (claimed.symm.trans left) (by decide)

end Sys2Proof.Proofs

/-! SUPPORT. The statement of the family of spec/08: the tile unit. -/

namespace Sys2Proof.Proofs

open Sys2Proof Sys2Proof.Machine Sys2Proof.Safety

/-! ### Reads of the strand's own store (R277) -/

/-- The first address of the window leads a read to the strand's own store, however memory and the other registers stand. -/
theorem reaches_ownStore {s : State} (hm : s.onMgmt = none) (n : Nat) : reaches s storeWindow n .r (selfStore s) := by
  intro t same _ slot _
  have management : t.onMgmt = none := by rw [same]; exact hm
  have store : selfStore t = selfStore s := by
    unfold selfStore
    rw [slot, same]
  have window : windowPa t storeWindow = some (selfStore s) := by
    simp [windowPa, store, storeWindow_offset]
  refine ⟨false, ?_⟩
  unfold Machine.translate
  rw [bind_ok (get_apply t)]
  simp [management, window, noteNear, show canonical storeWindow = true from by decide +kernel,
    show inWindowRegion storeWindow = true from by decide +kernel]

/-! ### A multicast load that names its own core alone -/

/-- A chunk of a pair of cores, in slot 4. -/
def slotFourPair : Hart := { Hart.start with slot := 4 }

/-- A strand on core 8 of its cluster: slot 0 of ring 1. Its shape is one row of one si8 element, s1 is the base of its own store, whose byte 0 is 0xFF,
and s2 names core 8. Ring 0 of the cluster is a ring of pairs, and its chunk in slot 4 is on core 8 too. -/
def namesOwnCore : State :=
  { State.reset with
    cur := 1
    hart := { Hart.start with sc := (Scal.start.put 1 storeWindow).put 2 0x100, tm := 1, tk := 1 }
    rings := State.reset.rings.set 0 { Ring.reset with gang := true, chunks := [slotFourPair] }
    mem := [(storePa 0 0 0 8 0, 0xFF)] }

theorem namesOwnCore_ready : vectorReady namesOwnCore :=
  ⟨rfl, rfl, rfl, rfl, rfl, by decide +kernel, rfl, rfl, rfl, rfl, rfl⟩

theorem namesOwnCore_errorFree : errorFree namesOwnCore := ⟨rfl, fun _ h => absurd h List.not_mem_nil⟩

theorem namesOwnCore_store : selfStore namesOwnCore = storePa 0 0 0 8 0 := by decide +kernel

/-- The row begins at the base of the store (R196). -/
theorem namesOwnCore_reaches : reaches namesOwnCore storeWindow 1 .r (storePa 0 0 0 8 0) :=
  namesOwnCore_store ▸ reaches_ownStore rfl 1

/-- The one byte of the load's row is read from memory (R196). -/
theorem namesOwnCore_atHand : atHand namesOwnCore (storePa 0 0 0 8 0) 1 :=
  ⟨⟨by decide +kernel, by decide +kernel, by decide +kernel, by decide +kernel, by decide +kernel⟩, by decide +kernel⟩

/-- The core that s2 names is the issuer's (R197). -/
theorem namesOwnCore_names : ∀ j < 16, (x namesOwnCore 2).getLsbD j = true →
    j = coreOfSlot namesOwnCore.cur namesOwnCore.ring.gang namesOwnCore.hart.slot := by decide +kernel

/-- Bit 0 of the A buffer of the first chunk of ring 0, in the state that a step leaves. -/
def otherRingBit : Out → Option Bool
  | .next t => (t.ringAt 0).chunks[0]?.map fun g => g.aBuf.getLsbD 0
  | _ => none

/-- The issuer's own bit is ignored (R197): the chunk of ring 0 gets no row. -/
theorem namesOwnCore_load : otherRingBit (exec (.tldaMC 1 0 2) namesOwnCore) = some false := by decide +kernel

/-- Refutes O29: its clause on multicast does not except the issuer's own core from those whose strands get the rows, though R197 has the issuer's own bit
ignored. In a state where a chunk of the cluster's other ring is on the issuer's core (slot 4 of a ring of pairs, which has slots 0 to 3: a place that no
run gives a chunk, but that the statement does not shut out), s[c] with that bit alone delivers nothing, and the statement has the chunk get the row. -/
theorem not_tileResults : ¬ Obligations.TileResults := by
  intro ⟨loads, _⟩
  obtain ⟨-, -, -, -, -, -, multicast, -⟩ := loads namesOwnCore 1 0 2 0 0 (fun _ => storePa 0 0 0 8 0) namesOwnCore_ready rfl
  obtain ⟨delivers, -⟩ := multicast rfl namesOwnCore_errorFree (by decide +kernel) (by decide +kernel) rfl (by decide +kernel)
    fun j hj named other => absurd (namesOwnCore_names j hj named) other
  obtain ⟨t, run, -, others⟩ := delivers (by
    intro r _ hr
    obtain rfl : r = 0 := Nat.lt_one_iff.mp hr
    refine ⟨fun _ => Nat.mod_one _, fun k hk => ?_, fun h14 => absurd h14 (by decide)⟩
    obtain rfl : k = 0 := Nat.lt_one_iff.mp hk
    exact ⟨Nat.mod_one _, namesOwnCore_reaches, namesOwnCore_atHand⟩)
  obtain ⟨g, found, -, -, gets⟩ := others 0 (by decide) 0 slotFourPair rfl
  obtain ⟨part, -⟩ := gets (by decide +kernel)
  have claimed : g.aBuf.getLsbD 0 = true := (part 0 (by decide)).trans (by decide +kernel)
  have left := namesOwnCore_load
  rw [run] at left
  have same : (t.ringAt 0).chunks[0]?.map (fun g => g.aBuf.getLsbD 0) = some (g.aBuf.getLsbD 0) := congrArg (Option.map _) found
  rw [claimed] at same
  exact absurd (same.symm.trans left) (by decide)

end Sys2Proof.Proofs

/-! SUPPORT. The statements of the family of spec/10: rings and chunks. -/

namespace Sys2Proof.Proofs

open Sys2Proof Sys2Proof.Machine Sys2Proof.Safety

/-! ### keywait of a keystone that holds bytes of another module (R226, R232, R434) -/

/-- A region of two chunks, forked by a strand as it begins, of which chunk 0 has started. -/
def twoChunks : Region :=
  { forkPc := 0x1000, joinPc := 0x1010, dReg := 5, aReg := 6, count := 2, grain := 1, total := 2, next := 1, firstSeq := 1, firstSlot := 0, kflags := 0,
    image := Hart.start, finals := [] }

/-- Chunk 0 of that region as it starts (R215, R217). -/
def chunkZero : Hart := chunkStart 8 Ring.reset.stride twoChunks 0 true

/-- The chunk alone in flight on ring 0, with the keystone. -/
def withKeystone (h : Hart) : State :=
  { State.reset with hart := h, ring := { Ring.reset with state := .running, region := some twoChunks, chunks := [h] } }

/-- Modules 0 and 1 are present, and the keystone of module 0 has stored a byte at the first address of module 1. -/
def storedElsewhere : State :=
  { withKeystone { chunkZero with state := .run, written := [(2 ^ 42, 1)] } with present := [0, 1] }

/-- The pc and the wait of the strand that a step leaves. -/
def strandAfter : Out → Option (Word × Park)
  | .next t => some (t.hart.sc.pc, t.hart.park)
  | _ => none

/-- The byte leaves as a packet, and keywait awaits the response at its own address (R434). -/
theorem storedElsewhere_waits : strandAfter (exec .keywait storedElsewhere) = some (0x1004, .reply) := by decide +kernel

/-- Refutes O36: its last clauses have keywait complete in the keystone at once, whatever the keystone's record holds. A byte that it has stored at another
module is written there by a packet, and keywait stays at its address until the response has come: the clause lacks the premise recordsReady. -/
theorem not_forkResults : ¬ Obligations.ForkResults := by
  intro ⟨_, ends⟩
  obtain ⟨-, -, -, -, keystone, -⟩ := ends storedElsewhere rfl
  have claimed := keystone (Option.some_ne_none _) rfl
  have waits := storedElsewhere_waits
  rw [claimed] at waits
  exact absurd waits (by decide +kernel)

/-! ### A trap that the keystone itself has deferred (R234, R364) -/

/-- ILL at the first word of the chunk, raised by the keystone: its SPEC is 0 (R364). -/
def ownTrap : Deferred := { code := causeILL, val := 0, vec := false, point := 0x1004, spec := false }

/-- The keystone holds with its own trap, at U and with nothing in its record. -/
def holdsOwnTrap : State := withKeystone { chunkZero with state := .hold (.trap ownTrap) }

/-- ECAUSE has the SPEC bit of the trap as it was recorded (R364). -/
theorem holdsOwnTrap_cause : causeAfter (exec .keystoneArrival holdsOwnTrap) = 0x001 := by decide +kernel

/-- Refutes O37: its clause on a deferred trap has ECAUSE.SPEC = 1 for every trap that a chunk holds, and does not say that a speculative chunk raised it.
A trap that the keystone itself has deferred (log 22: while its record held bytes of another module) has SPEC = 0, and is taken with that bit. The state here,
with the record empty, is one that the statement does not shut out, whether or not a run reaches it. -/
theorem not_chunkEvents : ¬ Obligations.ChunkEvents := by
  intro ⟨_, keystone⟩
  obtain ⟨-, arrives, -⟩ := keystone holdsOwnTrap twoChunks rfl rfl rfl (List.cons_ne_nil _ _)
  obtain ⟨-, -, -, traps⟩ := arrives rfl
  obtain ⟨t, run, -, -, -, -, claimed, -⟩ := traps ownTrap rfl rfl rfl (by decide +kernel)
  have cause := holdsOwnTrap_cause
  rw [run] at cause
  exact absurd (claimed.symm.trans cause) (by decide)

end Sys2Proof.Proofs

/-! SUPPORT. The statements of the family of spec/11: actors and mailboxes. -/

namespace Sys2Proof.Proofs

open Sys2Proof Sys2Proof.Machine Sys2Proof.Safety

/-! ### The meanings of major 0x35 for messages, and their words (R253 to R259) -/

theorem exec_send (a b : BitVec 5) (s : State) : exec (.send a b) s = execSend a b s := rfl
theorem exec_sendi (a b : BitVec 5) (s : State) : exec (.sendi a b) s = execSendi a b s := rfl
theorem exec_widf (d : BitVec 5) (f : BitVec 6) (s : State) : exec (.widf d f) s = execWidf d f s := rfl
theorem exec_waitmsg (a : BitVec 5) (s : State) : exec (.waitmsg a) s = execWaitmsg a s := rfl
theorem exec_doneStrand (s : State) : exec .doneStrand s = execDoneStrand s := rfl

theorem encode_send (a b : BitVec 5) : encode (.send a b) = some (wordR 0x35 0 a b (4 <<< 6)) := rfl
theorem encode_sendi (a b : BitVec 5) : encode (.sendi a b) = some (wordR 0x35 0 a b (5 <<< 6)) := rfl

theorem encode_waitmsg (a : BitVec 5) : encode (.waitmsg a) = some (wordR 0x35 0 a 0 (3 <<< 6)) :=
  congrArg some (BitVec.append_assoc (x₁ := 0x35#6 ++ 0#5 ++ a) (x₂ := 0#5) (x₃ := 0xC0#11)).symm

/-! ### Bytes in blocks (R4) -/

/-- The elements of n blocks of w, in order. -/
theorem flatMap_blocks {α : Type} {w : Nat} (hw : 0 < w) (f : Nat → Nat → α) : ∀ n : Nat,
    (List.range n).flatMap (fun k => (List.range w).map (f k)) = (List.range (w * n)).map fun i => f (i / w) (i % w)
  | 0 => rfl
  | n + 1 => by
    rw [List.range_succ, List.flatMap_append, flatMap_blocks hw f n, Nat.mul_succ, List.range_add, List.map_append, List.map_map]
    congr 1
    simp only [List.flatMap_cons, List.flatMap_nil, List.append_nil]
    refine List.map_congr_left fun q hq => ?_
    have hq := List.mem_range.mp hq
    simp [Nat.mul_add_div hw, Nat.div_eq_of_lt hq, Nat.mod_eq_of_lt hq]

/-- The bytes of a number that was read from consecutive addresses are the bytes that stand there. -/
theorem bytesOf_readLE (get : Nat → Byte) : ∀ n a : Nat, bytesOf (readLE get a n) n = (List.range n).map fun q => get (a + q)
  | 0, _ => rfl
  | n + 1, a => by
    have low : BitVec.ofNat 8 ((get a).toNat + 256 * readLE get (a + 1) n) = get a :=
      BitVec.eq_of_toNat_eq (by rw [BitVec.toNat_ofNat]; omega)
    have high : ((get a).toNat + 256 * readLE get (a + 1) n) / 256 = readLE get (a + 1) n := by omega
    unfold bytesOf readLE
    rw [low, high, bytesOf_readLE get n, List.range_succ_eq_map, List.map_cons, List.map_map, Nat.add_zero]
    congr 2
    funext q
    simp only [Function.comp_apply, Nat.succ_eq_add_one, Nat.add_comm q, Nat.add_assoc]

/-! ### Destination words and messages (R243, R244) -/

/-- A destination word whose zero bits are zero (R243). -/
def destLegal (d : Word) : Prop :=
  d.extractLsb' 53 11 = 0 ∧ (d.getLsbD 5 = true → d.extractLsb' 0 5 = 0) ∧ (d.getLsbD 5 = false → d.extractLsb' 18 2 = 0)

theorem destBad_iff (d : Word) : destBad d = false ↔ destLegal d := by
  unfold destBad destLegal destHost destMbx
  cases d.getLsbD 5 <;> simp

theorem messageOf_eq (s : State) (d : Word) (l : List Byte) : messageOf s d l = sentMessage s d l := by
  unfold messageOf sentMessage
  rcases s.ring.resident with _ | ⟨j, a⟩ <;> rfl

/-! ### A message on its way (R250) -/

/-- There is room for one more message: in the stage of a chunk, or in the outbound buffer of a strand outside any chunk. -/
def stageOpen (s : State) : Prop := (s.hart.held = true → s.hart.stage.length < 32) ∧ (s.hart.held = false → s.ring.outbound.length < 256)

/-- The state after a send of a message from core c of its ring. -/
def sentBy (held : Bool) (c : BitVec 3) (m : Message) (t : State) : State :=
  if held then next (fun h => { h with stage := h.stage ++ [m] }) t
  else next id { t with ring := { t.ring with outbound := t.ring.outbound ++ [outMsg c m] } }

theorem stageMessage_open {t : State} (h : stageOpen t) (m : Message) :
    ∃ u, (do stageMessage m; nextPc : M Unit) t = .ok () u ∧ finish u = sentBy t.hart.held (coreIx t) m t := by
  rcases hh : t.hart.held with _ | _
  · exact ⟨_, by simp [stageMessage, bind, EStateM.bind, hh, Nat.not_le.mpr (h.2 hh)], rfl⟩
  · exact ⟨_, by simp [stageMessage, bind, EStateM.bind, hh, h.1 hh], rfl⟩

theorem stageMessage_outboundFull {t : State} (hh : t.hart.held = false) (full : 256 ≤ t.ring.outbound.length) (m : Message) :
    (do stageMessage m; nextPc : M Unit) t = .error (.wait (.park .stalled)) t := by
  simp [stageMessage, bind, EStateM.bind, hh, full]

theorem stageMessage_stageFull {t : State} (hh : t.hart.held = true) (full : 32 ≤ t.hart.stage.length) (younger : t.ring.active ≠ 0) (m : Message) :
    (do stageMessage m; nextPc : M Unit) t = .error (.wait (.hold .stageFull)) t := by
  simp [stageMessage, bind, EStateM.bind, hh, Nat.not_lt.mpr full, younger]

/-! ### Reads of memory in which nothing is in error (R225, R281, R291) -/

/-- Two states that differ in nothing but the sectors that the strand has read and the caches. -/
def readsOnly (s t : State) : Prop := t = { s with hart := { s.hart with sr := t.hart.sr }, lines := t.lines, l1 := t.l1 }

theorem readsOnly_trans {s t u : State} (h : readsOnly s t) (g : readsOnly t u) : readsOnly s u := by
  unfold readsOnly at *
  rw [g, h]

theorem noteRead_readsOnly {s : State} (h : s.bad = []) (pa n : Nat) : readsOnly s (noteRead s pa n) := by
  have clean : (setRead s pa n).bad = [] := by rw [setRead_frame s pa n]; unfold setRead; split <;> exact h
  unfold readsOnly noteRead
  rw [cacheRead_clean _ clean]
  unfold setRead
  split <;> rfl

theorem mem_of_keepLines {core : BitVec 9} {set : Nat} {records : List Nat} {y : L1Line} : ∀ {l : List L1Line} {n : Nat},
    y ∈ keepLines core set records n l → y ∈ l
  | [], _, h => h
  | x :: t, n, h => by
    unfold keepLines at h
    split at h
    · cases n with
      | zero => exact List.mem_cons_of_mem _ (mem_of_keepLines h)
      | succ k => exact (List.mem_cons.mp h).elim (fun e => e ▸ List.mem_cons_self) fun h => List.mem_cons_of_mem _ (mem_of_keepLines h)
    · exact (List.mem_cons.mp h).elim (fun e => e ▸ List.mem_cons_self) fun h => List.mem_cons_of_mem _ (mem_of_keepLines h)

theorem withBit_zero {b : BitVec 4} (h : b = 0) {p : Bool} {i : Nat} : withBit b i (p && b.getLsbD i) = 0 := by
  subst h
  simp [withBit]

/-- A fill brings no error into an L1 that holds none. -/
theorem l1Fill_good {s : State} (h : ∀ l ∈ s.l1, l.bad = 0) (pa : Nat) : ∀ l ∈ l1Fill s pa, l.bad = 0 := by
  intro y hy
  rcases List.mem_cons.mp (mem_of_keepLines hy) with rfl | hy
  · have good : ∀ o : Option L1Line, (∀ x ∈ o, x ∈ s.l1) → (o.getD { core := l1Core s pa, line := pa / 128, valid := 0, bad := 0 }).bad = 0 := by
      rintro (_ | x) hx
      · rfl
      · exact h x (hx x rfl)
    exact withBit_zero (good _ fun x hx => List.mem_of_find?_eq_some hx)
  · exact h y (List.mem_filter.mp hy).1

theorem cacheSector_errorFree {s : State} (h : errorFree s) (q : Nat) : errorFree (cacheSector s q) := by
  obtain ⟨clean, good⟩ := h
  have served : errorFree (sliceRequest s q false) := by
    rw [sliceRequest_clean clean]
    exact ⟨clean, good⟩
  unfold cacheSector
  split
  · exact ⟨clean, good⟩
  · split
    · dsimp only
      split
      · exact ⟨clean, l1Fill_good good q⟩
      · exact ⟨served.1, l1Fill_good served.2 q⟩
    · exact served

theorem noteRead_errorFree {s : State} (h : errorFree s) (pa n : Nat) : errorFree (noteRead s pa n) := by
  refine foldl_keeps errorFree cacheSector (fun _ q => (cacheSector_errorFree · q)) _ ?_
  unfold setRead
  split <;> exact h

/-- Where nothing is in error, what a permit stands for is read (R286, R291). -/
theorem inMemory_of_errorFree {s : State} {pa n : Nat} (h : errorFree s) (hm : paModule pa = s.module) (hc : paControl pa = false)
    (hp : permitsFor s pa n = true) : inMemory s pa n := by
  obtain ⟨clean, good⟩ := h
  refine ⟨hm, hc, anyBad_none clean pa n, ?_, ?_⟩
  · have hits : ((sectorsOf pa n).any fun q => match l1Hit s q with
        | some x => x.bad.getLsbD (lineSector q) && (span q (min (pa + n) (32 * (q / 32 + 1)))).any (fromMemory s)
        | none => false) = false := by
      rw [List.any_eq_false]
      intro q _
      rcases hit : l1Hit s q with _ | x
      · simp
      · simp [good x (List.mem_of_find?_eq_some hit)]
    unfold readsBad memoryBad
    rw [clean]
    exact hits
  · unfold readPermits
    unfold permitsFor at hp
    rw [List.all_eq_true] at hp ⊢
    exact fun q hq => by rw [hp q hq, Bool.or_true]

/-- What is at hand is read after other reads as well: they take no permit for good. -/
theorem inMemory_readsOnly {s t : State} {pa n : Nat} (h : errorFree t) (f : readsOnly s t) (ha : atHand s pa n) : inMemory t pa n := by
  obtain ⟨⟨hm, hc, -⟩, hp⟩ := ha
  refine inMemory_of_errorFree h (hm.trans ?_) hc (Eq.trans ?_ hp)
  · rw [f]
  · rw [f]; rfl

/-! ### The beats of a buffer (R254) -/

/-- The address of beat k of a buffer. -/
def beatVa (buf : Word) (k : Nat) : Word := buf + BitVec.ofNat 64 (32 * k)

/-- The state after the first k beats have been read, each from where its page maps it. -/
def beatsRead (pa : Nat → Nat) (s : State) (k : Nat) : State := (List.range k).foldl (fun t i => noteRead t (pa i) 32) s

theorem beatsRead_succ (pa : Nat → Nat) (s : State) (k : Nat) : beatsRead pa s (k + 1) = noteRead (beatsRead pa s k) (pa k) 32 := by
  unfold beatsRead
  rw [List.range_succ, List.foldl_append, List.foldl_cons, List.foldl_nil]

/-- A beat is found: its page maps it into the executing core's own store. -/
def beatFound (s : State) (va : Word) (pa : Nat) : Prop := (∃ near, translate va 32 .r s = .ok (pa, near) s) ∧ inOwnStore s pa 32 = true

/-- A beat is refused: its page maps it elsewhere, or it has none. -/
def beatRefused (s : State) (va : Word) : Prop :=
  (∃ p, translate va 32 .r s = .ok p s ∧ inOwnStore s p.1 32 = false) ∨ ∃ c v, translate va 32 .r s = .error (.trap c v) s

section
variable {s : State} {buf : Word} {pa : Nat → Nat}

theorem sendBeats_found : ∀ {n : Nat}, (∀ k < n, beatFound s (beatVa buf k) (pa k)) →
    sendBeats buf n s = .ok ((List.range n).map fun k => (beatVa buf k, pa k)) s
  | 0, _ => rfl
  | n + 1, h => by
    obtain ⟨⟨near, mapped⟩, own⟩ := h n (Nat.lt_succ_self n)
    have found : attempt (translate (beatVa buf n) 32 .r) s = .ok (.ok (pa n, near)) s := attempt_ok mapped
    unfold beatVa at found
    rw [sendBeats, bind_ok (sendBeats_found fun k hk => h k (Nat.lt_succ_of_lt hk)), bind_ok found]
    dsimp only
    rw [bind_ok (get_apply s), if_pos own, pure_apply, List.range_succ, List.map_append]
    rfl

/-- The first beat that is refused traps ACCESS with the address of the buffer. -/
theorem sendBeats_refused {m : Nat} (before : ∀ k < m, beatFound s (beatVa buf k) (pa k)) (refused : beatRefused s (beatVa buf m)) :
    ∀ {n : Nat}, m < n → sendBeats buf n s = .error (.trap causeACCESS buf) s
  | n + 1, hn => by
    rcases Nat.lt_succ_iff_lt_or_eq.mp hn with hn | rfl
    · rw [sendBeats, bind_error (sendBeats_refused before refused hn)]
    · rw [sendBeats, bind_ok (sendBeats_found before)]
      unfold beatRefused beatVa at refused
      rcases refused with ⟨p, mapped, out⟩ | ⟨c, v, fails⟩
      · rw [bind_ok (attempt_ok mapped)]
        dsimp only
        rw [bind_ok (get_apply s), if_neg (by rw [out]; exact Bool.false_ne_true), trap_apply]
      · have kept : attempt (translate (buf + BitVec.ofNat 64 (32 * m)) 32 .r) s = .ok (.error (c, v)) s := by
          unfold attempt
          rw [fails]
        rw [bind_ok kept]
        rfl

/-- Reads of beats change nothing but the record of them and the caches. -/
theorem beatsRead_readsOnly (h : errorFree s) : ∀ k : Nat, errorFree (beatsRead pa s k) ∧ readsOnly s (beatsRead pa s k)
  | 0 => ⟨h, rfl⟩
  | k + 1 => by
    obtain ⟨good, same⟩ := beatsRead_readsOnly h k
    rw [beatsRead_succ]
    exact ⟨noteRead_errorFree good _ _, readsOnly_trans same (noteRead_readsOnly good.1 _ _)⟩

/-- Beats that are at hand and whose lines fit are read in order (R225, R228). -/
theorem readBeats_atHand (h : errorFree s) : ∀ (n j : Nat),
    (∀ k < j + n, atHand s (pa k) 32 ∧ linesFit (beatsRead pa s k) (pa k) 32) →
    readBeats ((List.range' j n).map fun k => (beatVa buf k, pa k)) (beatsRead pa s j) =
      .ok ((List.range' j n).flatMap fun k => (List.range 32).map fun q => s.peek (pa k + q)) (beatsRead pa s (j + n))
  | 0, _, _ => rfl
  | n + 1, j, hk => by
    obtain ⟨there, fits⟩ := hk j (by omega)
    obtain ⟨good, same⟩ := beatsRead_readsOnly (pa := pa) h j
    have beat : bytesOf (loaded (beatsRead pa s j) (pa j) 32) 32 = (List.range 32).map fun q => s.peek (pa j + q) := by
      rw [← readLE_loaded, bytesOf_readLE, same]
      rfl
    have rest := readBeats_atHand h n (j + 1) fun k hlt => hk k (by omega)
    rw [beatsRead_succ] at rest
    rw [List.range'_succ, List.map_cons, readBeats, bind_ok (lineRoom_fits fits), bind_ok (readPhys_memory (inMemory_readsOnly good same there)),
      bind_ok rest, beat, List.flatMap_cons, pure_apply, Nat.add_right_comm]
    rfl

end

/-! ### send and sendi (R254) -/

section
variable {s : State} {a b : BitVec 5}

theorem send_illegal (hr : ready s) (hq : s.hart.queue = []) (h : ¬ destLegal (x s a)) :
    exec (.send a b) s = .next (takeTrap s causeILL ((wordR 0x35 0 a b (4 <<< 6)).setWidth 64) s.hart.sc.pc false false) := by
  have bad : destBad (x s a) = true := (Bool.not_eq_false _).mp (mt (destBad_iff _).mp h)
  refine runScalar_trap hq ((bind_ok (rdX_ready hr a)).trans ((bind_ok (rdX_ready hr b)).trans ((bind_ok (emptyQueue_ok hq)).trans ?_)))
  rw [if_pos bad, ill_apply]

/-- A send to a legal destination checks its buffer, finds the beats and reads them, and puts the message on its way. -/
theorem send_legal (hr : ready s) (hq : s.hart.queue = []) (h : destLegal (x s a)) :
    exec (.send a b) s = runScalar (do
      aligned (x s b) 32
      let beats ← sendBeats (x s b) ((destBeats (x s a)).toNat + 1)
      let data ← readBeats beats
      stageMessage (messageOf (← get) (x s a) data)
      nextPc) s := by
  have good : ¬ destBad (x s a) = true := by rw [(destBad_iff _).mpr h]; exact Bool.false_ne_true
  refine runScalar_congr ((bind_ok (rdX_ready hr a)).trans ((bind_ok (rdX_ready hr b)).trans ((bind_ok (emptyQueue_ok hq)).trans ?_)))
  rw [if_neg good]

theorem send_misaligned (hr : ready s) (hq : s.hart.queue = []) (h : destLegal (x s a)) (odd : (x s b).toNat % 32 ≠ 0) :
    exec (.send a b) s = .next (takeTrap s causeALIGN (x s b) s.hart.sc.pc false false) := by
  have misaligned : aligned (x s b) 32 s = .error (.trap causeALIGN (x s b)) s := by simp [aligned, odd]
  rw [send_legal hr hq h]
  exact runScalar_trap hq (bind_error misaligned)

theorem send_refused (hr : ready s) (hq : s.hart.queue = []) (h : destLegal (x s a)) (even : (x s b).toNat % 32 = 0) {pa : Nat → Nat} {n : Nat}
    (hn : n < (destBeats (x s a)).toNat + 1) (before : ∀ k < n, beatFound s (beatVa (x s b) k) (pa k)) (refused : beatRefused s (beatVa (x s b) n)) :
    exec (.send a b) s = .next (takeTrap s causeACCESS (x s b) s.hart.sc.pc false false) := by
  rw [send_legal hr hq h]
  exact runScalar_trap hq ((bind_ok (aligned_ok even)).trans (bind_error (sendBeats_refused before refused hn)))

/-- The message holds the bytes of the beats, in order. -/
theorem send_sent (hr : ready s) (hq : s.hart.queue = []) (h : destLegal (x s a)) (even : (x s b).toNat % 32 = 0) (room : stageOpen s) (clean : errorFree s)
    {pa : Nat → Nat} {n : Nat} (hn : n = (destBeats (x s a)).toNat + 1) (found : ∀ k < n, beatFound s (beatVa (x s b) k) (pa k))
    (there : ∀ k < n, atHand s (pa k) 32 ∧ linesFit (beatsRead pa s k) (pa k) 32) :
    exec (.send a b) s = .next (sentBy s.hart.held (coreIx s)
      (sentMessage s (x s a) ((List.range (32 * n)).map fun i => s.peek (pa (i / 32) + i % 32))) (beatsRead pa s n)) := by
  obtain ⟨-, same⟩ := beatsRead_readsOnly (pa := pa) clean n
  have kept : stageOpen (beatsRead pa s n) := by rw [same]; exact room
  obtain ⟨u, run, left⟩ := stageMessage_open kept (messageOf (beatsRead pa s n) (x s a) ((List.range (32 * n)).map fun i => s.peek (pa (i / 32) + i % 32)))
  have read := readBeats_atHand (buf := x s b) clean n 0 (by simpa using there)
  rw [← List.range_eq_range', flatMap_blocks (by decide) (fun k q => s.peek (pa k + q)), Nat.zero_add] at read
  rw [send_legal hr hq h, ← hn, runScalar_ok ((bind_ok (aligned_ok even)).trans ((bind_ok (sendBeats_found found)).trans ((bind_ok read).trans
    ((bind_ok (get_apply _)).trans run)))), left, messageOf_eq]
  rw [same]
  rfl

/-- The bytes of four registers. -/
def fourRegisters (s : State) (b : BitVec 5) : List Byte :=
  (List.range 32).map fun i => BitVec.ofNat 8 ((x s (b + BitVec.ofNat 5 (i / 8))).toNat / 256 ^ (i % 8))

theorem fourRegisters_eq (s : State) (b : BitVec 5) :
    [x s b, x s (b + 1), x s (b + 2), x s (b + 3)].flatMap (fun v => bytesOf v.toNat 8) = fourRegisters s b := by
  have registers : [x s b, x s (b + 1), x s (b + 2), x s (b + 3)] = (List.range 4).map fun k => x s (b + BitVec.ofNat 5 k) := by
    change _ = [x s (b + 0#5), x s (b + 1), x s (b + 2), x s (b + 3)]
    rw [BitVec.add_zero]
  rw [registers, List.flatMap_map]
  simp only [bytesOf_eq_map]
  exact flatMap_blocks (by decide) (fun k q => BitVec.ofNat 8 ((x s (b + BitVec.ofNat 5 k)).toNat / 256 ^ q)) 4

theorem sendi_illegal (hr : ready s) (hq : s.hart.queue = []) (h : ¬ destLegal (x s a) ∨ destBeats (x s a) ≠ 0) :
    exec (.sendi a b) s = .next (takeTrap s causeILL ((wordR 0x35 0 a b (5 <<< 6)).setWidth 64) s.hart.sc.pc false false) := by
  have bad : (destBad (x s a) || destBeats (x s a) != 0) = true := by
    rw [Bool.or_eq_true, bne_iff_ne]
    exact h.imp_left fun h => (Bool.not_eq_false _).mp (mt (destBad_iff _).mp h)
  refine runScalar_trap hq ((bind_ok (rdX_ready hr a)).trans ((bind_ok (rdX_ready hr b)).trans ((bind_ok (rdX_ready hr _)).trans
    ((bind_ok (rdX_ready hr _)).trans ((bind_ok (rdX_ready hr _)).trans ((bind_ok (emptyQueue_ok hq)).trans ?_))))))
  rw [if_pos bad, ill_apply]

/-- A sendi to a legal destination of one beat puts the bytes of its four registers on their way. -/
theorem sendi_legal (hr : ready s) (hq : s.hart.queue = []) (h : destLegal (x s a)) (one : destBeats (x s a) = 0) :
    exec (.sendi a b) s = runScalar (do stageMessage (sentMessage s (x s a) (fourRegisters s b)); nextPc) s := by
  have good : ¬ (destBad (x s a) || destBeats (x s a) != 0) = true := by rw [(destBad_iff _).mpr h, one]; decide
  refine runScalar_congr ((bind_ok (rdX_ready hr a)).trans ((bind_ok (rdX_ready hr b)).trans ((bind_ok (rdX_ready hr _)).trans
    ((bind_ok (rdX_ready hr _)).trans ((bind_ok (rdX_ready hr _)).trans ((bind_ok (emptyQueue_ok hq)).trans ?_))))))
  rw [if_neg good, bind_ok (get_apply s), fourRegisters_eq, messageOf_eq]

theorem sendi_sent (hr : ready s) (hq : s.hart.queue = []) (h : destLegal (x s a)) (one : destBeats (x s a) = 0) (room : stageOpen s) :
    exec (.sendi a b) s = .next (sentBy s.hart.held (coreIx s) (sentMessage s (x s a) (fourRegisters s b)) s) := by
  obtain ⟨u, run, left⟩ := stageMessage_open room (sentMessage s (x s a) (fourRegisters s b))
  rw [sendi_legal hr hq h one, runScalar_ok run, left]

theorem sendi_stalls (hr : ready s) (hq : s.hart.queue = []) (h : destLegal (x s a)) (one : destBeats (x s a) = 0) (free : s.hart.held = false)
    (full : 256 ≤ s.ring.outbound.length) : exec (.sendi a b) s = .next (applyWait s (.park .stalled)) := by
  rw [sendi_legal hr hq h one, runScalar_park (stageMessage_outboundFull free full _), waitingState_kept rfl rfl]

theorem sendi_holds (hr : ready s) (hq : s.hart.queue = []) (h : destLegal (x s a)) (one : destBeats (x s a) = 0) (held : s.hart.held = true)
    (full : 32 ≤ s.hart.stage.length) (younger : s.ring.active ≠ 0) : exec (.sendi a b) s = .next (applyWait s (.hold .stageFull)) := by
  rw [sendi_legal hr hq h one, runScalar_hold (stageMessage_stageFull held full younger _), waitingState_kept rfl rfl]

end

/-! ### widf (R258, R259) -/

theorem widField_eq (shape : BitVec 42) (f : Nat) :
    widField shape f = (∑ i ∈ Finset.range f, (shape.extractLsb' (6 * i) 6).toNat, (shape.extractLsb' (6 * f) 6).toNat) := by
  have field (i : Nat) : bitsAt shape.toNat (6 * i) 6 = (shape.extractLsb' (6 * i) 6).toNat := (BitVec.extractLsb'_toNat ..).symm
  simp only [widField, field]
  rfl

theorem widf_next {s : State} (hr : ready s) (d : BitVec 5) (f : BitVec 6) :
    exec (.widf d f) s = .next (next (putDest d (BitVec.ofNat 64 (s.hart.wid.toNat /
      2 ^ (∑ i ∈ Finset.range f.toNat, (s.hart.widShape.extractLsb' (6 * i) 6).toNat) % 2 ^ (s.hart.widShape.extractLsb' (6 * f.toNat) 6).toNat))) s) := by
  rw [← Nat.shiftRight_eq_div_pow]
  refine (runScalar_congr ((bind_ok (get_apply s)).trans ?_)).trans (wr_next hr.1 d _)
  rw [widField_eq]
  rfl

/-! ### waitmsg (R248, R256) -/

theorem raiseCoreFloor_frame (s : State) (t : Word) :
    raiseCoreFloor s t = { s with mgmt := (raiseCoreFloor s t).mgmt, ring := { s.ring with floor := (raiseCoreFloor s t).ring.floor } } := by
  unfold raiseCoreFloor
  split <;> rfl

theorem squashEarly_frame (s : State) (t : Word) :
    squashEarly s t = { s with ring := { s.ring with chunks := (squashEarly s t).ring.chunks } } := by
  unfold squashEarly
  split
  · dsimp only
    split <;> rfl
  · rfl

/-- A floor that is raised leaves the executing core where it is. -/
theorem selfStore_raiseFloor (s : State) (t : Word) : selfStore (raiseFloor s t) = selfStore s := by
  unfold raiseFloor
  rw [squashEarly_frame, raiseCoreFloor_frame]
  rfl

theorem selfStore_flushWritten (s : State) : selfStore (flushWritten s) = selfStore s := by
  rw [flushWritten_frame]
  rfl

/-- The strand serves a handler: it is one, or a chunk of a region that one has forked (R249). -/
theorem isHandler_iff (s : State) :
    isHandler s = true ↔ s.hart.handler ≠ none ∨ ∃ g, s.ring.region = some g ∧ g.image.handler ≠ none := by
  unfold isHandler
  rcases s.ring.region with _ | g <;> simp [Option.isSome_iff_ne_none]

theorem isHandler_flushWritten (s : State) : isHandler (flushWritten s) = isHandler s := by
  rw [flushWritten_frame]
  rfl

theorem residentActor_flushWritten (s : State) : residentActor (flushWritten s) = residentActor s := by
  rw [flushWritten_frame]
  rfl

theorem upperBits_iff (v : Word) : v.extractLsb' 5 59 ≠ 0 ↔ 32 ≤ v.toNat := by
  have value : (v.extractLsb' 5 59).toNat = v.toNat / 32 := by
    rw [BitVec.extractLsb'_toNat, Nat.shiftRight_eq_div_pow]
    exact Nat.mod_eq_of_lt (by omega)
  rw [ne_eq, ← BitVec.toNat_inj, value]
  change ¬ v.toNat / 32 = 0 ↔ _
  omega

/-- What waitmsg does for the resident actor once the record of its chunk is written; v is its operand's value, w its word. -/
def takesMessage (act : Actor) (v : Word) (w : Word32) : M Unit := do
  let s ← get
  let m : BitVec 5 := v.extractLsb' 0 5
  if v.extractLsb' 5 59 ≠ 0 || (act.box m).mode != 2 || isHandler s then ill w
  else
    match (act.box m).take s.lag with
    | none => wait (.park .waitmsg)
    | some (msg, b) =>
      set (takeMessage s act m b msg)
      nextPc

section
variable {s : State} {act : Actor} {a : BitVec 5}

theorem keystone_writes (hs : settled s) : keystoneOnly s = .ok () (flushWritten s) := by
  obtain ⟨-, -, keystone, -, records⟩ := hs
  exact keystoneOnly_ok keystone records

theorem waitmsg_settled (hs : settled s) (hact : residentActor s = some act) :
    exec (.waitmsg a) s = runScalar (do keystoneOnly; takesMessage act (x s a) (wordR 0x35 0 a 0 (3 <<< 6))) s := by
  have known : residentActor (flushWritten s) = some act := (residentActor_flushWritten s).trans hact
  refine runScalar_congr ((bind_ok (rdX_ready (settled_ready hs) a)).trans ((bind_ok (emptyQueue_ok hs.1)).trans
    ((bind_ok (keystone_writes hs)).trans (Eq.trans ?_ (bind_ok (keystone_writes hs)).symm))))
  refine (bind_ok (get_apply _)).trans ?_
  rw [known]
  rfl

/-- waitmsg may take from the mailbox that its operand names: a number below 32, a polled mailbox, and not in a handler (R256). -/
def mayPoll (s : State) (act : Actor) (v : Word) : Prop := v.toNat < 32 ∧ (act.box (v.extractLsb' 0 5)).mode = 2 ∧ isHandler s = false

theorem mayPoll_iff (s : State) (act : Actor) (v : Word) :
    mayPoll s act v ↔ ¬ (v.extractLsb' 5 59 ≠ 0 || (act.box (v.extractLsb' 0 5)).mode != 2 || isHandler s) = true := by
  unfold mayPoll
  rw [Bool.or_eq_true, Bool.or_eq_true, decide_eq_true_eq, upperBits_iff, bne_iff_ne, ← Nat.not_lt, not_or, not_or, not_not, not_not, Bool.not_eq_true, and_assoc]

theorem takesMessage_ill {u : State} {v : Word} (w : Word32) (h : ¬ mayPoll u act v) :
    takesMessage act v w u = .error (.trap causeILL (w.setWidth 64)) u := by
  rw [mayPoll_iff, not_not] at h
  exact (bind_ok (get_apply u)).trans (congrFun (if_pos h) u)

/-- A mailbox with a message in its on-die queue gives the head. -/
theorem take_head {b : Mailbox} {msg : Message} {rest : List Message} (h : b.queue = msg :: rest) (lag : Bool) :
    b.take lag = some (msg, { b with queue := rest }) := by
  simp [Mailbox.take, h]

theorem take_nothing {b : Mailbox} (hq : b.queue = []) (hs : b.spill = []) (lag : Bool) : b.take lag = none := by
  cases lag <;> simp [Mailbox.take, Mailbox.refill, hq, hs]

theorem takesMessage_head {u : State} {v : Word} (w : Word32) (h : mayPoll u act v) {msg : Message} {rest : List Message}
    (hq : (act.box (v.extractLsb' 0 5)).queue = msg :: rest) :
    takesMessage act v w u = (do
      set (takeMessage u act (v.extractLsb' 0 5) { act.box (v.extractLsb' 0 5) with queue := rest } msg)
      nextPc : M Unit) u := by
  rw [mayPoll_iff] at h
  refine (bind_ok (get_apply u)).trans ((congrFun (if_neg h) u).trans ?_)
  rw [take_head hq]

theorem takesMessage_nothing {u : State} {v : Word} (w : Word32) (h : mayPoll u act v) (hq : (act.box (v.extractLsb' 0 5)).queue = [])
    (hs : (act.box (v.extractLsb' 0 5)).spill = []) : takesMessage act v w u = .error (.wait (.park .waitmsg)) u := by
  rw [mayPoll_iff] at h
  refine (bind_ok (get_apply u)).trans ((congrFun (if_neg h) u).trans ?_)
  rw [take_nothing hq hs]
  rfl

/-- A state whose strand has another MSGHDR. -/
def withMsgHdr (hdr : Word) (t : State) : State := { t with hart := { t.hart with msgHdr := hdr } }

/-- A message goes to the top of the executing core's own store, which one in error spoils, and its header to MSGHDR (R244, R248, R291). -/
theorem takeMessage_eq (u : State) (m : BitVec 5) (b : Mailbox) (msg : Message) :
    takeMessage u act m b msg = withMsgHdr (seenHdr m msg) (
      let v := raiseFloor (u.putActor (act.setBox m b)) msg.time
      let t := storeDirect v (selfStore v + 0x7FF00) (ofBytes msg.payload) 256
      if msg.bad then t.spoil (selfStore t + 0x7FF00) 256 else t) := rfl

theorem takeMessage_good (u : State) (m : BitVec 5) (b : Mailbox) {msg : Message} (good : msg.bad = false) :
    takeMessage u act m b msg = withMsgHdr (seenHdr m msg)
      (storeDirect (raiseFloor (u.putActor (act.setBox m b)) msg.time) (selfStore u + 0x7FF00) (ofBytes msg.payload) 256) := by
  have kept : ¬ msg.bad = true := by rw [good]; exact Bool.false_ne_true
  have place : selfStore (raiseFloor (u.putActor (act.setBox m b)) msg.time) = selfStore u := selfStore_raiseFloor _ _
  exact (takeMessage_eq u m b msg).trans (congrArg (withMsgHdr _) ((if_neg kept).trans
    (congrArg (fun p => storeDirect _ (p + 0x7FF00) (ofBytes msg.payload) 256) place)))

/-- waitmsg goes on at the next word. -/
theorem finish_withMsgHdr (hdr : Word) (t : State) :
    finish { withMsgHdr hdr t with hart := { (withMsgHdr hdr t).hart with
      sc := { (withMsgHdr hdr t).hart.sc with pc := (withMsgHdr hdr t).hart.sc.pc + 4 } } } = next (fun h => { h with msgHdr := hdr }) t := rfl

theorem waitmsg_takes (hs : settled s) (hact : residentActor s = some act) (h : mayPoll s act (x s a)) {msg : Message} {rest : List Message}
    (hq : (act.box ((x s a).extractLsb' 0 5)).queue = msg :: rest) (good : msg.bad = false) :
    exec (.waitmsg a) s = .next (next (fun h => { h with msgHdr := seenHdr ((x s a).extractLsb' 0 5) msg })
      (storeDirect (raiseFloor ((flushWritten s).putActor (act.setBox ((x s a).extractLsb' 0 5)
        { act.box ((x s a).extractLsb' 0 5) with queue := rest })) msg.time) (selfStore s + 0x7FF00) (ofBytes msg.payload) 256)) := by
  have polls : mayPoll (flushWritten s) act (x s a) := by rw [mayPoll, isHandler_flushWritten]; exact h
  have taken := (takesMessage_head (wordR 0x35 0 a 0 (3 <<< 6)) polls hq).trans ((bind_ok (set_apply _ _)).trans (nextPc_apply _))
  rw [takeMessage_good _ _ _ good, selfStore_flushWritten] at taken
  rw [waitmsg_settled hs hact, runScalar_ok ((bind_ok (keystone_writes hs)).trans taken), finish_withMsgHdr]

theorem waitmsg_parks (hs : settled s) (hact : residentActor s = some act) (h : mayPoll s act (x s a))
    (hq : (act.box ((x s a).extractLsb' 0 5)).queue = []) (hp : (act.box ((x s a).extractLsb' 0 5)).spill = []) :
    exec (.waitmsg a) s = .next (applyWait (flushed s) (.park .waitmsg)) := by
  have polls : mayPoll (flushWritten s) act (x s a) := by rw [mayPoll, isHandler_flushWritten]; exact h
  obtain ⟨-, -, keystone, -⟩ := id hs
  rw [waitmsg_settled hs hact, runScalar_park ((bind_ok (keystone_writes hs)).trans (takesMessage_nothing _ polls hq hp)), waitingState_flushWritten keystone]

theorem waitmsg_illegal (hs : settled s) (hact : residentActor s = some act) (h : ¬ mayPoll s act (x s a)) :
    exec (.waitmsg a) s = .next (takeTrap (flushWritten s) causeILL ((wordR 0x35 0 a 0 (3 <<< 6)).setWidth 64) s.hart.sc.pc false false) := by
  have barred : ¬ mayPoll (flushWritten s) act (x s a) := by rw [mayPoll, isHandler_flushWritten]; exact h
  rw [waitmsg_settled hs hact, runScalar_trap hs.1 ((bind_ok (keystone_writes hs)).trans (takesMessage_ill _ barred))]

end

/-! ### done (R255, R335) -/

theorem mem_slots {h : Hart} {sl : StreamSlot} (hsl : sl ∈ h.slots.toList) : ∃ j : BitVec 3, h.slotAt j = sl := by
  obtain ⟨i, hi, rfl⟩ := List.mem_iff_getElem.mp hsl
  have hi' : i < 8 := by simpa using hi
  exact ⟨BitVec.ofNat 3 i, by simp [Hart.slotAt, Nat.mod_eq_of_lt hi']⟩

theorem outstanding_clear {h : Hart} (he : enginesClear h) : h.outstanding = 0 := by
  obtain ⟨copies, piers, -, slots⟩ := he
  have drained : (h.slots.toList.map fun sl => sl.drains.length).sum = 0 := by
    refine List.sum_eq_zero fun n hn => ?_
    obtain ⟨sl, hsl, rfl⟩ := List.mem_map.mp hn
    obtain ⟨j, rfl⟩ := mem_slots hsl
    rw [(slots j).1, List.length_nil]
  rw [Hart.outstanding, copies, piers, drained]
  rfl

/-- A strand with nothing outstanding, no record and no write stream may end (R335). -/
theorem endCheck_clear {s : State} (hq : s.hart.queue = []) (he : enginesClear s.hart) (w : Word32) (closes : Bool) :
    endCheck w closes s = .ok () s := by
  have reads : (s.hart.slots.toList.any fun sl => sl.bound && sl.writes) = false := by
    rw [List.any_eq_false]
    intro sl hsl
    obtain ⟨j, rfl⟩ := mem_slots hsl
    rw [Bool.and_eq_true, not_and, Bool.not_eq_true]
    exact (he.2.2.2 j).2
  simp [endCheck, bind, EStateM.bind, emptyQueue_ok hq, outstanding_clear he, reads, he.2.2.1]

theorem handled_iff (a : Actor) : a.handled = true ↔ ∃ i, (a.box i).mode = 1 := by
  unfold Actor.handled
  rw [List.any_eq_true]
  constructor
  · rintro ⟨b, hb, mode⟩
    obtain ⟨i, hi, rfl⟩ := List.mem_iff_getElem.mp hb
    have hi' : i < 32 := by simpa using hi
    exact ⟨BitVec.ofNat 5 i, by simpa [Actor.box, Nat.mod_eq_of_lt hi'] using mode⟩
  · rintro ⟨i, mode⟩
    exact ⟨a.box i, by simp [Actor.box], by simp [mode]⟩

theorem emptied_fields (r : Ring) : r.emptied.state = .empty ∧ r.emptied.resident = none ∧ r.emptied.chunks = r.chunks := by
  unfold Ring.emptied Ring.applyIfEmpty
  split <;> exact ⟨rfl, rfl, rfl⟩

section
variable {s : State}

/-- The check at done: outside any loop, and with nothing left to end, it passes. -/
def doneCheck : M Unit := do
  if (← get).ring.region.isSome || decide (0 < (← get).hart.depth) then ill (wordR 0x35 0 0 0 (2 <<< 6))
  else endCheck (wordR 0x35 0 0 0 (2 <<< 6)) false

theorem doneStrand_handler (hh : s.hart.handler ≠ none) : exec .doneStrand s = runScalar (do doneCheck; wait (.hold .doneStrand)) s := by
  obtain ⟨p, hp⟩ := Option.ne_none_iff_exists'.mp hh
  exact if_pos (by rw [hp]; rfl)

theorem doneStrand_entry (hh : s.hart.handler = none) : exec .doneStrand s = runThen doneCheck endEntry s :=
  if_neg (by rw [hh]; exact Bool.false_ne_true)

theorem doneCheck_passes (hq : s.hart.queue = []) (hr : s.ring.region = none) (hd : s.hart.depth = 0) (he : enginesClear s.hart) :
    doneCheck s = .ok () s := by
  have outside : ¬ (s.ring.region.isSome || decide (0 < s.hart.depth)) = true := by rw [hr, hd]; decide
  exact (congrFun (if_neg outside) s).trans (endCheck_clear hq he _ _)

theorem doneCheck_looping (h : s.ring.region ≠ none ∨ 0 < s.hart.depth) :
    doneCheck s = .error (.trap causeILL ((wordR 0x35 0 0 0 (2 <<< 6)).setWidth 64)) s := by
  have inside : (s.ring.region.isSome || decide (0 < s.hart.depth)) = true := by
    rw [Bool.or_eq_true, Option.isSome_iff_ne_none, decide_eq_true_eq]
    exact h
  exact congrFun (if_pos inside) s

theorem done_holds (hq : s.hart.queue = []) (hr : s.ring.region = none) (hd : s.hart.depth = 0) (he : enginesClear s.hart) (hh : s.hart.handler ≠ none) :
    exec .doneStrand s = .next (applyWait s (.hold .doneStrand)) := by
  have holds : (do doneCheck; wait (.hold .doneStrand) : M Unit) s = .error (.wait (.hold .doneStrand)) s := bind_ok (doneCheck_passes hq hr hd he)
  rw [doneStrand_handler hh, runScalar_hold holds, waitingState_kept rfl rfl]

/-- In a loop, done traps ILL with its word. -/
theorem done_illegal (hq : s.hart.queue = []) (h : s.ring.region ≠ none ∨ 0 < s.hart.depth) :
    exec .doneStrand s = .next (takeTrap s causeILL 0xD4000080 s.hart.sc.pc false false) := by
  by_cases hh : s.hart.handler = none
  · rw [doneStrand_entry hh, runThen, doneCheck_looping h]
    exact if_pos (by rw [hq]; rfl)
  · rw [doneStrand_handler hh, runScalar_trap hq (bind_error (doneCheck_looping h))]
    rfl

theorem done_ends (hq : s.hart.queue = []) (hr : s.ring.region = none) (hd : s.hart.depth = 0) (he : enginesClear s.hart) (hh : s.hart.handler = none) :
    exec .doneStrand s = .next (endEntry (finish s)) := by
  rw [doneStrand_entry hh, runThen_ok (doneCheck_passes hq hr hd he)]

variable {act : Actor}

/-- An actor with a handled mailbox goes on by handlers (R255). -/
theorem endEntry_handled (hact : residentActor s = some act) (h : ∃ i, (act.box i).mode = 1) :
    endEntry s = (strandless s).putActor { act with phase := .handlers, driven := true } := by
  unfold endEntry
  rw [hact]
  exact if_pos ((handled_iff act).mpr h)

/-- An actor without one finishes, and its ring is EMPTY (R255). -/
theorem endEntry_finishes (hact : residentActor s = some act) (h : ∀ i, (act.box i).mode ≠ 1) :
    endEntry s = { (strandless s).putActor { act with phase := .finished } with ring := (strandless s).ring.emptied } := by
  unfold endEntry
  rw [hact]
  exact if_neg (mt (handled_iff act).mp fun ⟨i, mode⟩ => h i mode)

end

/-! ### The instructions of actors and their messages (R248 to R259) -/

/-- Settles O38, instruction by instruction: each of its outcomes is one way through its meaning. -/
theorem messageResults : Obligations.MessageResults := by
  refine ⟨?_, ?_⟩
  · intro s d a b f pa hr hq h dest beats beat read inStore legal room staged traps
    have own (k : Nat) : inOwnStore s (pa k) 32 = decide (inStore k) := rfl
    refine ⟨?_, ?_, ?_, ?_, ?_, ?_, ?_, ?_, ?_, ?_⟩
    · exact fun legal room one => sendi_sent hr hq legal one room
    · intro legal room even clean found
      refine send_sent hr hq legal even room clean rfl (fun k hk => ?_) fun k hk => ?_
      · obtain ⟨mapped, inside, -, -⟩ := found k hk
        exact ⟨mapped s rfl rfl rfl rfl, (own k).trans (decide_eq_true inside)⟩
      · obtain ⟨-, -, there, fits⟩ := found k hk
        exact ⟨there, fits⟩
    · intro illegal i hi w hw
      rcases List.mem_pair.mp hi with rfl | rfl
      · obtain rfl := Option.some.inj ((encode_send a b).symm.trans hw)
        exact send_illegal hr hq illegal
      · obtain rfl := Option.some.inj ((encode_sendi a b).symm.trans hw)
        exact sendi_illegal hr hq (.inl illegal)
    · intro several w hw
      obtain rfl := Option.some.inj ((encode_sendi a b).symm.trans hw)
      exact sendi_illegal hr hq (.inr several)
    · exact fun legal odd => send_misaligned hr hq legal odd
    · intro legal even mapped out
      have some_out : ∃ k, k < beats ∧ inOwnStore s (pa k) 32 = false := by
        obtain ⟨k, hk, outside⟩ := out
        exact ⟨k, hk, (own k).trans (decide_eq_false outside)⟩
      obtain ⟨hn, outside⟩ := Nat.find_spec some_out
      obtain ⟨near, found⟩ := mapped _ hn
      refine send_refused (pa := pa) hr hq legal even hn (fun k hk => ⟨mapped k (hk.trans hn), ?_⟩) (.inl ⟨_, found, outside⟩)
      exact (Bool.not_eq_false _).mp fun e => Nat.find_min some_out hk ⟨hk.trans hn, e⟩
    · intro legal even n hn st va before fails
      refine send_refused (pa := pa) hr hq legal even hn (fun k hk => ?_) (.inr ⟨st, va, fails⟩)
      obtain ⟨mapped, inside⟩ := before k hk
      exact ⟨mapped, (own k).trans (decide_eq_true inside)⟩
    · intro legal full free one
      refine sendi_stalls hr hq legal one free (Nat.not_lt.mp fun lt => full ⟨fun held => ?_, fun _ => lt⟩)
      exact absurd (free.symm.trans held) Bool.false_ne_true
    · intro legal full held younger one
      refine sendi_holds hr hq legal one held (Nat.not_lt.mp fun lt => full ⟨fun _ => lt, fun free => ?_⟩) younger
      exact absurd (free.symm.trans held) Bool.false_ne_true
    · exact fun _ => widf_next hr d f
  · intro s a act hs hact h u m box serves traps
    have polls : mayPoll s act (x s a) ↔ ¬ serves ∧ (x s a).toNat < 32 ∧ box.mode = 2 := by
      rw [mayPoll, ← Bool.not_eq_true, isHandler_iff, ← and_assoc, and_comm]
    refine ⟨?_, ?_, ?_, ?_, ?_⟩
    · intro free low mode
      have may := polls.mpr ⟨free, low, mode⟩
      exact ⟨fun msg rest hq good => waitmsg_takes hs hact may hq good, fun hq hp => waitmsg_parks hs hact may hq hp⟩
    · intro barred w hw _
      obtain rfl := Option.some.inj ((encode_waitmsg a).symm.trans hw)
      refine waitmsg_illegal hs hact fun may => ?_
      obtain ⟨free, low, mode⟩ := polls.mp may
      exact barred.elim (· mode) fun h => h.elim (Nat.not_le.mpr low) free
    · exact fun outside flat clear handler => done_holds hs.1 outside flat clear handler
    · exact fun inside _ => done_illegal hs.1 inside
    · intro outside flat clear entry
      rw [done_ends hs.1 outside flat clear entry]
      have here : residentActor (finish s) = some act := hact
      by_cases handled : ∃ i, (act.box i).mode = 1
      · rw [endEntry_handled here handled]
        exact ⟨_, rfl, rfl, rfl, fun none => absurd handled fun ⟨i, mode⟩ => none i mode, fun _ => ⟨rfl, rfl, rfl, rfl⟩⟩
      · have none : ∀ i, (act.box i).mode ≠ 1 := fun i mode => handled ⟨i, mode⟩
        obtain ⟨state, resident, chunks⟩ := emptied_fields (strandless (finish s)).ring
        rw [endEntry_finishes here none]
        exact ⟨_, rfl, rfl, chunks, fun _ => ⟨state, resident, rfl⟩, fun some => absurd some handled⟩

/-! ### A message to an actor that ctxsave is taking off its ring (R242, R400) -/

/-- Mailbox 4 of the actor: open for messages of type 5 and one beat, with nothing in it. -/
def openBox : Mailbox := { Mailbox.closed with tag := 5, mode := 1 }

/-- Actor 3 of job 1, resident on ring 0. -/
def actorThree : Actor :=
  { jid := 1, aid := 3, ring := 0, wid := 0, widShape := 0, prio := 0, phase := .onRing, ctxQueued := false, entryPc := 0, stackTop := 0, ptroot := 0
    ctx := 0, ctxPages := 0, typeErr := 0, undeliv := 0, mbx := (Vector.replicate 32 Mailbox.closed).set 4 openBox, since := 0 }

/-- Ring 0 STOPPED under that actor. -/
def ringStopped : Ring := { Ring.reset with state := .stopped, jid := 1, resident := some (1, 3), chunks := [Hart.start] }

/-- Ring 1 executes a ctxsave of ring 0 with RELEASE = 1 to another module: the release has begun, and the writes have still to be answered (R400). -/
def releaseBegun : State :=
  Machine.onRing { State.reset with cur := 1, rings := State.reset.rings.set 0 ringStopped, actors := [actorThree] } 0 0 beginRelease

/-- The actor as the release has it until ring 0 is EMPTY. -/
def releasedThree : Actor := { actorThree with phase := .released }

theorem releaseBegun_actors : releaseBegun.actors = [releasedThree] := by decide +kernel

theorem releaseBegun_actor : actorOf releaseBegun 3 = some releasedThree := by decide +kernel

theorem releaseBegun_resident : (releaseBegun.ringAt 0).resident = some (1, 3) := by decide +kernel

/-- A message of type 5 and one beat for mailbox 4 of actor 3. -/
def toMailboxFour : Message := { dest := 5 <<< 34 ||| 3 <<< 6 ||| 4, hdr := 0, payload := List.replicate 32 0, time := 0 }

/-- The on-die queue of mailbox 4 of the first actor, in the state that a step leaves. -/
def fourthQueue : Out → Option (List Message)
  | .next t => t.actors.head?.map fun a => (a.box 4).queue
  | _ => none

/-- What comes from now on goes to the spill area: the on-die queue stays empty (R400). -/
theorem releaseBegun_spills : fourthQueue (exec (.messageArrival toMailboxFour) releaseBegun) = some [] := by decide +kernel

/-- Refutes O39: its clause on arrivals puts a message into the on-die queue of every actor that its ring names as resident. While a ctxsave with RELEASE = 1
awaits the responses to its writes at another module, the actor's queues stand in the context already, and what arrives goes to the spill area (R400). -/
theorem not_messageEvents : ¬ Obligations.MessageEvents := by
  intro ⟨arrivals, _⟩
  obtain ⟨delivered, -⟩ := arrivals releaseBegun toMailboxFour releasedThree 0 4 0 0
    { msg := toMailboxFour, sent := false, waiting := false, refusals := 0, core := 0, rtag := 0 }
  obtain ⟨queued, -⟩ := delivered (by decide +kernel) releaseBegun_actor (by decide) (.inl (by decide +kernel))
  obtain ⟨t, a, run, state, actor⟩ := queued releaseBegun_resident rfl (by decide +kernel)
  have holder : t.actors = [a] := by rw [state, releaseBegun_actors]; rfl
  have claimed : (a.box 4).queue = [toMailboxFour] := by rw [actor]; rfl
  have spills := releaseBegun_spills
  rw [run, fourthQueue, holder, List.head?_cons, Option.map_some, claimed] at spills
  exact absurd spills (by decide)
end Sys2Proof.Proofs

/-! SUPPORT. The statement of the family of spec/14 about registers in error (R291). -/

namespace Sys2Proof.Proofs

open Sys2Proof Sys2Proof.Machine Sys2Proof.Safety

/-- A strand with v1 in error, on a ring whose debug stop after a step is due (R386). -/
def stopDue : State :=
  { State.reset with hart := { Hart.start with vBad := 2 }, ring := { State.reset.ring with stepped := some 0 } }

/-- The debug stop that is due after an outcome. -/
def stepDue : Out → Option Word
  | .next t => t.ring.stepped
  | _ => none

/-- A trap that a strand at U outside any chunk takes leaves a debug stop due. -/
theorem takeTrap_stepped {s : State} (hh : s.hart.held = false) (hl : s.hart.level = .u) (code : BitVec 8) (val point : Word) (vec spec : Bool) :
    (takeTrap s code val point vec spec).ring.stepped = s.ring.stepped := by
  have settled : settleTrap s = s := by simp [settleTrap, squashYounger, flushWritten, hh]
  unfold takeTrap
  rw [settled]
  cases s.onMgmt with
  | some a => rfl
  | none =>
    simp only [hl, show (Level.u == Level.s) = false from rfl, Bool.false_and, Bool.false_eq_true, if_false]
    split_ifs
    · rfl
    · rfl

/-- The boundary of the instruction that traps is the one that the stop waits for (R368): a queued instruction that traps takes the stop with it. -/
theorem stopDue_stops : stepDue (exec (.vaddVV 0 1 0 0 0) stopDue) = none := by decide +kernel

/-- Refutes O60: the trap of a queued instruction withdraws the debug stop that a step has made due, and the statement has it leave the ring as it was.
With v1 in error and a stop due, vadd v0, v1, v0 traps MCHK, and no stop is due thereafter. -/
theorem not_uncorrectableErrors : ¬ Obligations.UncorrectableErrors := by
  intro ⟨_, _, queued⟩
  obtain ⟨v, traps⟩ := queued stopDue 0 1 0 0 rfl rfl rfl rfl rfl rfl rfl rfl rfl (by decide +kernel) (by decide +kernel) (by decide +kernel)
    (by decide +kernel) (by decide +kernel) (by decide +kernel)
  have claimed : stepDue (exec (.vaddVV 0 1 0 0 0) stopDue) = some 0 := by
    rw [traps _ (by simp)]
    exact takeTrap_stepped rfl rfl ..
  rw [stopDue_stops] at claimed
  exact absurd claimed (by decide)

end Sys2Proof.Proofs


/-! SUPPORT. The statement of the family of spec/14 about slices, permits and waiters (R282 to R286, R313). -/

namespace Sys2Proof.Proofs

open Sys2Proof Sys2Proof.Machine Sys2Proof.Safety Sys2Proof.Laws

/-! ### Permits (R286) -/

theorem permitsHeld_match (s : State) (core : BitVec 9) (k : BitVec 5) :
    (match s.permits.find? fun p => p.1 == core && p.2.1 == k with
      | some p => p.2.2
      | none => 0) = permitsHeld s (core, k) := by
  unfold permitsHeld
  cases s.permits.find? fun p => p.1 == core && p.2.1 == k <;> rfl

theorem permitsHeld_setPermits_same (s : State) (k : BitVec 9 × BitVec 5) (n : Nat) : permitsHeld (setPermits s k n) k = n := by
  have rest : (s.permits.filter fun p => !(p.1 == k.1 && p.2.1 == k.2)).find? (fun p => p.1 == k.1 && p.2.1 == k.2) = none :=
    List.find?_eq_none.mpr fun p hp hk => by
      have kept := (List.mem_filter.mp hp).2
      rw [hk] at kept
      exact absurd kept (by decide)
  unfold permitsHeld setPermits
  dsimp only
  split
  next h => rw [rest, h]; rfl
  · rw [List.find?_append, rest]
    simp

theorem permitsHeld_setPermits_ne (s : State) {k l : BitVec 9 × BitVec 5} (n : Nat) (h : l ≠ k) :
    permitsHeld (setPermits s k n) l = permitsHeld s l := by
  have other : ((k.1 == l.1) && (k.2 == l.2)) = false := by
    refine Bool.eq_false_iff.mpr fun e => ?_
    simp only [Bool.and_eq_true, beq_iff_eq] at e
    exact h (Prod.ext e.1.symm e.2.symm)
  have apart (p : BitVec 9 × BitVec 5 × Nat) : ((!(p.1 == k.1 && p.2.1 == k.2)) && (p.1 == l.1 && p.2.1 == l.2)) = (p.1 == l.1 && p.2.1 == l.2) := by
    by_cases hp : p.1 = k.1 ∧ p.2.1 = k.2
    · rw [hp.1, hp.2, other, Bool.and_false]
    · have : (p.1 == k.1 && p.2.1 == k.2) = false := by simpa using hp
      rw [this, Bool.not_false, Bool.true_and]
  have rest : (s.permits.filter fun p => !(p.1 == k.1 && p.2.1 == k.2)).find? (fun p => p.1 == l.1 && p.2.1 == l.2) =
      s.permits.find? fun p => p.1 == l.1 && p.2.1 == l.2 := by
    rw [List.find?_filter]
    simp only [Bool.decide_and, Bool.decide_eq_true, apart]
  unfold permitsHeld setPermits
  dsimp only
  split
  · rw [rest]
  · rw [List.find?_append, rest]
    simp [other]

theorem permitsHeld_congr {s t : State} (h : s.permits = t.permits) (k : BitVec 9 × BitVec 5) : permitsHeld s k = permitsHeld t k := by
  unfold permitsHeld
  rw [h]

theorem serveSlice_permits (s : State) (r : SliceReq) : (serveSlice s r).permits = s.permits := by
  have same := serveSlice_same s r
  unfold sameButLines at same
  rw [same]

theorem takePermit_permits (s : State) (core : BitVec 9) (req : SliceReq) :
    (takePermit s core req).permits =
      (setPermits s (permitKey core req.die (sliceOf req.off)) (permitsHeld s (permitKey core req.die (sliceOf req.off)) + 1)).permits :=
  serveSlice_permits _ req

/-- A request takes a permit where its key has one left. -/
theorem execSliceRequest_takes {s : State} {core : BitVec 9} {req : SliceReq} {k : BitVec 9 × BitVec 5} (hk : permitKey core req.die (sliceOf req.off) = k)
    (h : permitsHeld s k < permitLimit k) : execSliceRequest core req s = .next (takePermit s core req) := by
  subst hk
  exact congrArg _ (if_pos h)

theorem removeFirst_append {α : Type} {f : α → Bool} {w : α} (hw : f w = true) (m : List α) :
    ∀ {l : List α}, (∀ x ∈ l, f x = false) → removeFirst f (l ++ w :: m) = l ++ m
  | [], _ => if_pos hw
  | a :: l, h => by
    have ih := removeFirst_append hw m fun x hx => h x (List.mem_cons_of_mem a hx)
    simp [removeFirst, h a List.mem_cons_self, ih]

/-! ### Lines (R282 to R285) -/

theorem homeLine_lt (off : BitVec 38) : homeLine off < 2 ^ 31 := by
  unfold homeLine
  omega

/-- The lines of the slices stand in their places (R282). -/
def Placed (lines : List SliceLine) : Prop :=
  ∀ z ∈ lines, z.slice.toNat = z.line.toNat % 31 ∧ z.set.toNat = z.line.toNat / 31 % 1024

/-- The line of a request is its own, in its place. -/
theorem lineFor_place {s : State} (placed : Placed s.lines) (r : SliceReq) :
    (lineFor s r).2.die = r.die ∧ (lineFor s r).2.slice.toNat = homeLine r.off % 31 ∧ (lineFor s r).2.set.toNat = homeLine r.off / 31 % 1024 ∧
      (lineFor s r).2.line.toNat = homeLine r.off := by
  have line : (BitVec.ofNat 31 (homeLine r.off)).toNat = homeLine r.off := Nat.mod_eq_of_lt (homeLine_lt r.off)
  have slice : (sliceOf r.off).toNat = homeLine r.off % 31 := Nat.mod_eq_of_lt (lt_trans (Nat.mod_lt _ (by decide)) (by decide))
  have set : (Machine.setOf r.off).toNat = homeLine r.off / 31 % 1024 := Nat.mod_mod ..
  unfold lineFor
  split
  case h_1 x hx =>
    obtain ⟨hslice, hset⟩ := placed x (List.mem_of_find?_eq_some hx)
    have holds := List.find?_some hx
    simp only [SliceLine.holds, Bool.and_eq_true, beq_iff_eq] at holds
    obtain ⟨⟨hdie, hline⟩, -⟩ := holds
    exact ⟨hdie, hline ▸ hslice, hline ▸ hset, hline⟩
  case h_2 =>
    dsimp only
    split
    · exact ⟨rfl, slice, set, line⟩
    · exact ⟨rfl, slice, set, line⟩

/-- A line that the slice has is the one that a request for it finds. -/
theorem lineFor_found {s : State} {r : SliceReq} {y : SliceLine} (hy : y ∈ s.lines) (hd : y.die = r.die) (hl : y.line.toNat = homeLine r.off)
    (hv : y.valid ≠ 0) (only : ∀ z ∈ s.lines, z.die = r.die → z.line.toNat = homeLine r.off → z = y) : (lineFor s r).2 = y := by
  have holds : y.holds r = true := by simpa [SliceLine.holds, hd, hl] using hv
  cases hf : s.lines.find? fun x => x.holds r with
  | none => exact absurd holds (List.find?_eq_none.mp hf y hy)
  | some x =>
    have found := List.find?_some hf
    simp only [SliceLine.holds, Bool.and_eq_true, beq_iff_eq] at found
    simpa [lineFor, hf] using only x (List.mem_of_find?_eq_some hf) found.1.1 found.1.2

theorem withBit_same (b : BitVec 4) {i : Nat} (hi : i < 4) (v : Bool) : (withBit b i v).getLsbD i = v := by
  cases v <;> simp [withBit, hi]

theorem withBit_ne (b : BitVec 4) {i k : Nat} (h : k ≠ i) (v : Bool) : (withBit b i v).getLsbD k = b.getLsbD k := by
  have other : (1#4 <<< i).getLsbD k = false := by
    simp only [BitVec.getLsbD_shiftLeft, BitVec.getLsbD_one, Bool.and_eq_false_iff, Bool.not_eq_false', decide_eq_true_eq, decide_eq_false_iff_not]
    omega
  cases v with
  | true => simp [withBit, other]
  | false =>
    simp only [withBit, Bool.false_eq_true, if_false, BitVec.getLsbD_and, BitVec.getLsbD_not, other, Bool.not_false, Bool.and_true]
    exact Bool.and_eq_left_iff_imp.mpr fun hb => decide_eq_true (BitVec.lt_of_getLsbD hb)

/-- What a request leaves of the line that it names. -/
theorem SliceLine.serve_place (x : SliceLine) (s : State) (r : SliceReq) :
    (x.serve s r).die = x.die ∧ (x.serve s r).slice = x.slice ∧ (x.serve s r).set = x.set ∧ (x.serve s r).line = x.line := by
  unfold SliceLine.serve
  split
  · exact ⟨rfl, rfl, rfl, rfl⟩
  · split <;> exact ⟨rfl, rfl, rfl, rfl⟩

theorem SliceLine.serve_valid (x : SliceLine) (s : State) (r : SliceReq) : (x.serve s r).valid = withBit x.valid (sectorOf r.off) true := by
  unfold SliceLine.serve
  split
  · rfl
  · split <;> rfl

theorem SliceLine.serve_dirty (x : SliceLine) (s : State) (r : SliceReq) :
    (x.serve s r).dirty = if r.write then withBit x.dirty (sectorOf r.off) (!r.near) else x.dirty := by
  unfold SliceLine.serve
  cases r.write <;> cases r.near <;> rfl

theorem sectorOf_eq (off : BitVec 38) : sectorOf off = off.toNat / 32 % 4 := by
  simp [sectorOf, bitsAt, Nat.shiftRight_eq_div_pow]

/-- The line that a request finds or takes, as the request leaves it. -/
def servedLine (s : State) (r : SliceReq) : SliceLine := (lineFor s r).2.serve (lineFor s r).1 r

theorem servedLine_mem (s : State) (r : SliceReq) : servedLine s r ∈ (serveSlice s r).lines :=
  List.mem_append_right _ (List.mem_singleton_self _)

theorem servedLine_sector (s : State) (r : SliceReq) : (servedLine s r).valid.getLsbD (sectorOf r.off) = true ∧
    (r.write = true → (servedLine s r).dirty.getLsbD (sectorOf r.off) = !r.near) := by
  have small : sectorOf r.off < 4 := Nat.mod_lt _ (by decide)
  unfold servedLine
  rw [SliceLine.serve_valid, SliceLine.serve_dirty]
  exact ⟨withBit_same _ small _, fun hw => by rw [if_pos hw, withBit_same _ small]⟩

theorem servedLine_other {s : State} {r : SliceReq} {k : Nat} (hk : k ≠ sectorOf r.off) :
    (servedLine s r).valid.getLsbD k = (lineFor s r).2.valid.getLsbD k ∧ (servedLine s r).dirty.getLsbD k = (lineFor s r).2.dirty.getLsbD k := by
  unfold servedLine
  rw [SliceLine.serve_valid, SliceLine.serve_dirty]
  refine ⟨withBit_ne _ hk _, ?_⟩
  split
  · exact withBit_ne _ hk _
  · rfl

/-! ### Waiters of a full word (R313) -/

theorem listSet_eq_set {α : Type} : ∀ (l : List α) (n : Nat) (b : α), listSet l n b = l.set n b
  | [], _, _ => rfl
  | _ :: _, 0, _ => rfl
  | a :: l, n + 1, b => congrArg (a :: ·) (listSet_eq_set l n b)

theorem servedBy_cons (w : Waiter) (l : List Waiter) : servedBy (w :: l) = w :: if w.take then [] else servedBy l := by
  cases h : w.take <;> simp [servedBy, h]

/-- A full word serves a waiter that no ldtake stands before. -/
theorem mem_servedBy {w : Waiter} : ∀ {l : List Waiter},
    w ∈ servedBy l ↔ ∃ k : Nat, l[k]? = some w ∧ ∀ q < k, ∀ v : Waiter, l[q]? = some v → v.take = false
  | [] => by simp [servedBy]
  | a :: l => by
    rw [servedBy_cons, List.mem_cons]
    constructor
    · rintro (rfl | h)
      · exact ⟨0, rfl, fun q hq => absurd hq (Nat.not_lt_zero q)⟩
      · cases ha : a.take with
        | true => simp [ha] at h
        | false =>
          simp only [ha, Bool.false_eq_true, if_false] at h
          obtain ⟨k, hk, before⟩ := mem_servedBy.mp h
          refine ⟨k + 1, hk, fun q hq v hv => ?_⟩
          cases q with
          | zero => exact Option.some.inj hv ▸ ha
          | succ q => exact before q (Nat.lt_of_succ_lt_succ hq) v hv
    · rintro ⟨k, hk, before⟩
      cases k with
      | zero => exact .inl (Option.some.inj hk).symm
      | succ k =>
        have ha : a.take = false := before 0 (Nat.succ_pos k) a rfl
        simp only [ha, Bool.false_eq_true, if_false]
        exact .inr (mem_servedBy.mpr ⟨k, hk, fun q hq v hv => before (q + 1) (Nat.succ_lt_succ hq) v hv⟩)

/-- What a full word does to a strand of a ring: one that waits, and is served, goes on to its instruction. -/
def woken (l : List Waiter) (n : BitVec 6) (h : Hart) : Hart :=
  if h.park == .ldsync && l.any fun w => w.ring == n && w.slot == h.slot then { h with park := .stalled } else h

/-- The chunks of a ring with the strand that executes in its place. -/
theorem chunksOf_none {s : State} (hm : s.onMgmt = none) : chunksOf s = s.ring.chunks.set s.ring.active s.hart := by
  simp only [chunksOf, putBack, hm, listSet_eq_set]

/-- To turn back to the ring that executes leaves its chunks. -/
theorem chunksOf_turnBack {s t : State} (hs : s.onMgmt = none) (ht : t.onMgmt = none) (hc : t.cur = s.cur) : chunksOf (turnBack s t) = chunksOf t := by
  have back : (putBack t).rings = t.rings.set t.cur.toNat { t.ring with chunks := chunksOf t } t.cur.isLt := by
    simp only [chunksOf, putBack, ht]
  have here : (putBack t).rings[s.cur.toNat]'s.cur.isLt = { t.ring with chunks := chunksOf t } := by
    simp only [back, ← hc]
    exact Vector.getElem_set_self ..
  unfold turnBack
  simp only [hs]
  rw [chunksOf_none rfl]
  simp only [loadRing, here]
  generalize min s.ring.active _ = i
  rw [List.getD_eq_getElem?_getD]
  by_cases hi : i < (chunksOf t).length
  · rw [List.getElem?_eq_getElem hi, Option.getD_some, List.set_getElem_self]
  · exact List.set_eq_of_length_le (not_lt.mp hi)

/-- The strands that wait in the rings of a state go on where they are served. -/
def wakeAll (l : List Waiter) (s : State) : State :=
  { s with
    hart := if s.onMgmt.isSome then s.hart else woken l s.cur s.hart
    ring := { s.ring with chunks := s.ring.chunks.map (woken l s.cur) }
    rings := Vector.ofFn fun n => { s.rings[n] with chunks := (s.rings[n]).chunks.map (woken l (BitVec.ofNat 6 n.val)) } }

theorem execLdsyncWake_full {s : State} {pa : BitVec 56} (hf : pa.toNat ∈ s.full) :
    execLdsyncWake pa s = .next (turnBack s (wakeAll (servedBy (s.waiters.filter fun w => w.pa == pa)) (putBack s))) :=
  congrArg _ (if_pos (List.contains_iff_mem.mpr hf))

theorem chunksOf_wakeAll {s : State} (l : List Waiter) (hm : s.onMgmt = none) :
    chunksOf (turnBack s (wakeAll l (putBack s))) = (chunksOf s).map (woken l s.cur) := by
  have outside : (putBack s).onMgmt = none := by simp only [putBack, hm]
  have cur : (putBack s).cur = s.cur := by simp only [putBack, hm]
  have hart : (putBack s).hart = s.hart := by simp only [putBack, hm]
  have active : (putBack s).ring.active = s.ring.active := by simp only [putBack, hm]
  have chunks : (putBack s).ring.chunks = s.ring.chunks.set s.ring.active s.hart := by simp only [putBack, hm, listSet_eq_set]
  rw [chunksOf_turnBack (t := wakeAll l (putBack s)) hm outside cur, chunksOf_none (s := wakeAll l (putBack s)) outside, chunksOf_none hm]
  simp only [wakeAll, outside, cur, hart, active, chunks, Option.isSome_none, Bool.false_eq_true, if_false, List.map_set, List.set_set]

theorem turnBack_keeps {s t : State} (hs : s.onMgmt = none) (ht : t.onMgmt = none) :
    (turnBack s t).mem = t.mem ∧ (turnBack s t).waiters = t.waiters := by
  unfold turnBack
  simp only [hs, loadRing, putBack, ht, and_self]

/-! ### The events -/

/-- The reply to a core gives a permit back, and the oldest request that waits for it takes it (R286). -/
theorem execMemoryReply_wakes {s : State} {core : BitVec 9} {slice : BitVec 5} {l m : List (BitVec 9 × SliceReq)} {w : BitVec 9 × SliceReq}
    (waits : s.permitWait = l ++ w :: m) (before : ∀ x ∈ l, wantsPermit (core, slice) x = false) (hw : wantsPermit (core, slice) w = true)
    (held : permitsHeld s (core, slice) ≤ permitLimit (core, slice)) (positive : 0 < permitLimit (core, slice)) :
    execMemoryReply core slice s =
      execSliceRequest core w.2 { setPermits s (core, slice) (permitsHeld s (core, slice) - 1) with permitWait := l ++ m } := by
  have oldest : s.permitWait.find? (wantsPermit (core, slice)) = some w := by
    rw [waits, List.find?_append, List.find?_eq_none.mpr fun x hx => by simp [before x hx]]
    simp [hw]
  have key : permitKey w.1 w.2.die (sliceOf w.2.off) = (core, slice) := by simpa [wantsPermit] using hw
  have left : permitsHeld { setPermits s (core, slice) (permitsHeld s (core, slice) - 1) with permitWait := l ++ m } (core, slice) <
      permitLimit (core, slice) := by
    have := permitsHeld_setPermits_same s (core, slice) (permitsHeld s (core, slice) - 1)
    exact lt_of_eq_of_lt this (by omega)
  have same : w.1 = core := congrArg Prod.fst key
  rw [execSliceRequest_takes (same ▸ key) left]
  simp only [execMemoryReply, oldest, same]
  rw [waits, removeFirst_append hw m before]

theorem wantsPermit_iff {core : BitVec 9} {slice : BitVec 5} {w : BitVec 9 × SliceReq} : wantsPermit (core, slice) w = true ↔
    w.1 = core ∧ (if w.2.die = w.1.extractLsb' 6 3 then BitVec.ofNat 5 (w.2.off.toNat / 128 % 31) else 31) = slice := by
  simp only [wantsPermit, permitKey, beq_iff_eq, Prod.mk.injEq]
  rfl

/-- Settles O42: the permits by their counts, the line by its place and its sector, the waiters by the first `ldtake` among them. -/
theorem memorySystemEvents : Obligations.MemorySystemEvents := by
  unfold Obligations.MemorySystemEvents
  intro s core req slice pa line wanted key limit used sector
  have used_eq (t : State) (k : BitVec 5) : used t k = permitsHeld t (core, k) := permitsHeld_match t core k
  have sector_eq : sector = sectorOf req.off := (sectorOf_eq req.off).symm
  simp -zeta only [used_eq, sector_eq]
  refine ⟨fun full => ?_, fun placed left => ?_, ⟨fun alone => ?_, fun l m w waits before hw hk held => ?_⟩, fun empty => ?_, fun full outside active => ?_⟩
  · exact congrArg _ (if_neg (not_lt.mpr full))
  · have place : Placed (setPermits s (core, key) (permitsHeld s (core, key) + 1)).lines := placed
    obtain ⟨die, inSlice, inSet, isLine⟩ := lineFor_place place req
    obtain ⟨die', slice', set', line'⟩ := SliceLine.serve_place (lineFor (setPermits s (core, key) (permitsHeld s (core, key) + 1)) req).2
      (lineFor (setPermits s (core, key) (permitsHeld s (core, key) + 1)) req).1 req
    obtain ⟨valid, dirty⟩ := servedLine_sector (setPermits s (core, key) (permitsHeld s (core, key) + 1)) req
    refine ⟨takePermit s core req, servedLine (setPermits s (core, key) (permitsHeld s (core, key) + 1)) req, execSliceRequest_takes rfl left, ?_,
      servedLine_mem _ req, die'.trans die, ?_, ?_, ?_, valid, dirty, fun k hk y hy only hd hl hv => ?_⟩
    · exact (permitsHeld_congr (takePermit_permits s core req) _).trans (permitsHeld_setPermits_same s (core, key) _)
    · exact (congrArg _ slice').trans inSlice
    · exact (congrArg _ set').trans inSet
    · exact (congrArg _ line').trans isLine
    · rw [← lineFor_found (s := setPermits s (core, key) (permitsHeld s (core, key) + 1)) hy hd hl hv only]
      exact servedLine_other hk
  · have none : s.permitWait.find? (wantsPermit (core, slice)) = none :=
      List.find?_eq_none.mpr fun w hw h => alone w hw (wantsPermit_iff.mp h)
    refine ⟨setPermits s (core, slice) (permitsHeld s (core, slice) - 1), ?_, rfl, permitsHeld_setPermits_same _ _ _,
      fun k hk => permitsHeld_setPermits_ne _ _ fun e => hk (congrArg Prod.snd e)⟩
    show execMemoryReply core slice s = _
    simp only [execMemoryReply, none]
  · refine ⟨setPermits s (core, slice) (permitsHeld s (core, slice) - 1), ⟨rfl, permitsHeld_setPermits_same _ _ _,
      fun k hk => permitsHeld_setPermits_ne _ _ fun e => hk (congrArg Prod.snd e)⟩, ?_⟩
    refine execMemoryReply_wakes waits (fun x hx => ?_) (wantsPermit_iff.mpr ⟨hw, hk⟩) held ?_
    · exact Bool.eq_false_iff.mpr fun h => before x hx (wantsPermit_iff.mp h)
    · simp only [permitLimit]
      split <;> decide
  · exact congrArg _ (if_neg fun h => empty (List.contains_iff_mem.mp h))
  · intro mine served
    obtain ⟨mem, waiters⟩ := turnBack_keeps (s := s) (t := wakeAll (servedBy mine) (putBack s)) outside (by simp only [wakeAll, putBack, outside])
    have chunks := chunksOf_wakeAll (servedBy mine) outside
    refine ⟨_, execLdsyncWake_full full, mem.trans ?_, waiters.trans ?_, ?_, fun i h hi => ?_⟩
    · simp only [wakeAll, putBack, outside]
    · simp only [wakeAll, putBack, outside]
    · rw [chunks, List.length_map]
    · have wakes : (h.park == .ldsync && (servedBy mine).any fun w => w.ring == s.cur && w.slot == h.slot) = true ↔ h.park = .ldsync ∧ served h := by
        simp only [Bool.and_eq_true, beq_iff_eq, List.any_eq_true, mem_servedBy, served]
        exact and_congr_right fun _ => ⟨fun ⟨w, ⟨k, hk, hq⟩, hr, hs⟩ => ⟨k, w, hk, hr, hs, hq⟩, fun ⟨k, w, hk, hr, hs, hq⟩ => ⟨w, ⟨k, hk, hq⟩, hr, hs⟩⟩
      rw [chunks, List.getElem?_map, hi, Option.map_some]
      exact ⟨fun hs => congrArg _ (if_pos (wakes.mpr hs)), fun hs => congrArg _ (if_neg fun h => hs (wakes.mp h))⟩

end Sys2Proof.Proofs


/-! SUPPORT. The statement of the family of spec/14 and spec/23 about packets at the home of an access and back at its source (R287, R288, R431 to R434). -/

namespace Sys2Proof.Proofs

open Sys2Proof Sys2Proof.Machine Sys2Proof.Safety Sys2Proof.Laws

/-! ### Bytes of numbers in a payload -/

theorem ofBytes_bytesOf : ∀ n x : Nat, ofBytes (bytesOf x n) = x % 256 ^ n
  | 0, x => by rw [Nat.pow_zero, Nat.mod_one]; rfl
  | n + 1, x => by
    unfold bytesOf ofBytes
    rw [ofBytes_bytesOf n, BitVec.toNat_ofNat, pow_succ' 256 n]
    exact (Nat.mod_mul (x := x) (a := 256) (b := 256 ^ n)).symm

theorem readLE_eq_sum (get : Nat → Byte) : ∀ n pa : Nat, readLE get pa n = ∑ i ∈ Finset.range n, 256 ^ i * (get (pa + i)).toNat
  | 0, _ => rfl
  | n + 1, pa => by
    unfold readLE
    rw [readLE_eq_sum get n, Finset.sum_range_succ', Finset.mul_sum, add_comm]
    congr 1
    · exact Finset.sum_congr rfl fun i _ => by rw [Nat.pow_succ', Nat.mul_assoc, Nat.add_assoc, Nat.add_comm 1]
    · simp

theorem readLE_lt (get : Nat → Byte) : ∀ n pa : Nat, readLE get pa n < 2 ^ (8 * n)
  | 0, _ => Nat.one_pos
  | n + 1, pa => by
    have ih := readLE_lt get n (pa + 1)
    have byte := (get pa).isLt
    unfold readLE
    rw [Nat.mul_succ, Nat.pow_add]
    omega

/-! ### Access tables (R287, R288) -/

theorem lookupKey_some {l : List (Nat × Word)} (h : l.Pairwise fun a b => a.1 < b.1) {a : Nat} {w : Word} : lookupKey l a = some w ↔ (a, w) ∈ l := by
  induction l with
  | nil => simp [lookupKey]
  | cons p t ih =>
    obtain ⟨first, rest⟩ := List.pairwise_cons.mp h
    unfold lookupKey
    rw [List.mem_cons]
    split
    case isTrue ha =>
      subst ha
      refine ⟨fun e => .inl (by rw [← Option.some.inj e]), fun e => e.elim (fun e => by rw [← e]) fun e => absurd (first _ e) (lt_irrefl _)⟩
    case isFalse ha =>
      rw [ih rest]
      exact ⟨.inr, fun e => e.resolve_left fun e => ha (congrArg Prod.fst e).symm⟩

/-- Whether an access asks for the right to read, and for that to write. -/
def readsOf : Access → Bool
  | .w => false
  | _ => true

def writesOf : Access → Bool
  | .w => true
  | .a => true
  | _ => false

theorem entryGrants_iff (s : State) (e : Nat) (w0 : Word) (m : Master) (pa n : Nat) (k : Access) :
    entryGrants s e w0 m pa n k = true ↔
      w0.getLsbD 0 = true ∧ (readsOf k = true → w0.getLsbD 1 = true) ∧ (writesOf k = true → w0.getLsbD 2 = true) ∧
      (w0.getLsbD 3 = true ∨ w0.extractLsb' 32 6 = m.ring) ∧ (w0.getLsbD 4 = true ∨ w0.extractLsb' 38 14 = m.module) ∧ w0.extractLsb' 16 16 = m.jid ∧
      ((lookupKey s.ctl (e + 8)).getD 0).toNat ≤ pa ∧ pa + n ≤ ((lookupKey s.ctl (e + 16)).getD 0).toNat ∧ w0.extractLsb' 5 11 = 0 ∧
      w0.extractLsb' 52 12 = 0 ∧ ((lookupKey s.ctl (e + 8)).getD 0).extractLsb' 56 8 = 0 ∧ ((lookupKey s.ctl (e + 16)).getD 0).extractLsb' 56 8 = 0 ∧
      (lookupKey s.ctl (e + 24)).getD 0 = 0 := by
  cases k <;> simp [entryGrants, readsOf, writesOf] <;> tauto

/-- A table grants a request where one of its 256 entries does. -/
theorem tableGrants_iff {s : State} (h : s.ctl.Pairwise fun a b => a.1 < b.1) (table : Nat) (m : Master) (pa n : Nat) (k : Access) :
    tableGrants s table m pa n k = true ↔ granted s table m.jid m.module m.ring pa n (readsOf k) (writesOf k) false := by
  unfold tableGrants granted
  simp only [List.any_eq_true, Bool.and_eq_true, decide_eq_true_eq, beq_iff_eq, entryGrants_iff, true_and]
  constructor
  · rintro ⟨⟨a, w0⟩, hm, ⟨⟨lo, hi⟩, aligned⟩, entry⟩
    have place : table + 32 * ((a - table) / 32) = a := by rw [Nat.mul_div_cancel' (Nat.dvd_of_mod_eq_zero aligned), Nat.add_sub_cancel' lo]
    refine ⟨(a - table) / 32, Nat.div_lt_of_lt_mul (Nat.sub_lt_left_of_lt_add lo hi), ?_⟩
    have word : (lookupKey s.ctl (table + 32 * ((a - table) / 32) + 8 * 0)).getD 0 = w0 := by
      rw [place, Nat.mul_zero, Nat.add_zero, (lookupKey_some h).mpr hm, Option.getD_some]
    rw [word, place]
    exact entry
  · rintro ⟨e, he, entry⟩
    cases hw : lookupKey s.ctl (table + 32 * e + 8 * 0) with
    | none => rw [hw] at entry; exact absurd entry.1 (by decide)
    | some w0 =>
      rw [hw] at entry
      have inside : table + 32 * e < table + 8192 := Nat.add_lt_add_left (Nat.mul_lt_mul_of_pos_left he (by decide)) table
      have aligned : (table + 32 * e - table) % 32 = 0 := by rw [Nat.add_sub_cancel_left, Nat.mul_mod_right]
      exact ⟨(table + 32 * e, w0), (lookupKey_some h).mp hw, ⟨⟨Nat.le_add_right .., inside⟩, aligned⟩, entry⟩

/-! ### A request at its home (R434) -/

/-- A request for n bytes of the memory of an available die of this module, outside the fabric reserve, that came by a link. -/
structure Homed (s : State) (p : Packet) (pa n : Nat) (k : Access) : Prop where
  sorted : s.ctl.Pairwise fun a b => a.1 < b.1
  module : paModule pa = s.module
  memory : pa.testBit 41 = false
  request : p.isRequest = true
  data : p.kind ≠ 6#4 ∧ p.kind ≠ 12#4
  available : (s.die (homeDie pa)).available = true
  link : (p.upath.extractLsb' 1 4 : BitVec 4).toNat < 9
  reserve : homeDie pa ≠ 0 ∨ pa % 2 ^ 38 + n ≤ 0x3FAB800000
  addr : p.pa = pa
  span : p.span = n
  access : p.access = k

/-- The address of a table in the control region. -/
def tableAt (s : State) (die off : Nat) : Nat := s.module.toNat * 2 ^ 42 + 2 ^ 41 + die * 2 ^ 38 + 2 ^ 31 + off

/-- No table checks the request, or one grants it. -/
def passesTable (s : State) (p : Packet) (table pa n : Nat) (k : Access) : Prop :=
  (p.exempt = true ∨ p.tc = 0) ∨ granted s table p.jid p.smod p.sring pa n (readsOf k) (writesOf k) false

theorem passesTable_iff {s : State} (h : s.ctl.Pairwise fun a b => a.1 < b.1) (p : Packet) (table pa n : Nat) (k : Access) :
    (unchecked p || tableGrants s table (Packet.master p) pa n k) = true ↔ passesTable s p table pa n k := by
  rw [Bool.or_eq_true, tableGrants_iff h]
  simp only [unchecked, Bool.or_eq_true, beq_iff_eq]
  rfl

section
variable {s : State} {p : Packet} {pa n : Nat} {k : Access} (h : Homed s p pa n k)
include h

theorem Homed.enters_iff : trestleGrants s (linkOf p.upath) p = true ↔
    passesTable s p (tableAt s 0 (0x60300000 + 0x10000000 * (p.upath.extractLsb' 0 1 : BitVec 1).toNat +
      0x2000 * (p.upath.extractLsb' 1 4 : BitVec 4).toNat)) pa n k := by
  have link : bitsAt p.upath.toNat 1 4 < 9 := h.link
  have abut : linkOf p.upath / 9 = (p.upath.extractLsb' 0 1 : BitVec 1).toNat := by
    rw [linkOf, Nat.mul_add_div (by decide), Nat.div_eq_of_lt link]
    rfl
  have port : linkOf p.upath % 9 = (p.upath.extractLsb' 1 4 : BitVec 4).toNat := by
    rw [linkOf, Nat.mul_add_mod, Nat.mod_eq_of_lt link]
    rfl
  have table : trestleTable s (linkOf p.upath / 9) (linkOf p.upath % 9) = tableAt s 0 (0x60300000 + 0x10000000 *
      (p.upath.extractLsb' 0 1 : BitVec 1).toNat + 0x2000 * (p.upath.extractLsb' 1 4 : BitVec 4).toNat) := by
    rw [abut, port, trestleTable, abutBase, Nat.add_right_comm 0x60000000]
    rfl
  have isAccess : p.isAccess = true := by simp [Packet.isAccess, h.request, h.data.1]
  rw [trestleGrants, isAccess, Bool.not_true, Bool.false_or, passesTable_iff h.sorted, table, h.addr, h.span, h.access]

theorem Homed.grants_iff : homeGrants s p = true ↔ passesTable s p (tableAt s (homeDie pa).toNat 0x41000000) pa n k := by
  have here : spaceExists s pa = true := by
    simp [spaceExists, h.module, paSpace1, h.memory]
    exact h.available
  have die : bitsAt pa 38 3 = (homeDie pa).toNat := by simp [bitsAt, homeDie]
  have outside : inReserve s pa n = false := by
    refine Bool.eq_false_iff.mpr fun e => ?_
    simp only [inReserve, Bool.and_eq_true, beq_iff_eq, bitsAt, Nat.shiftRight_zero, reserveBase] at e
    exact h.reserve.elim (fun hd => hd (BitVec.eq_of_toNat_eq (die.symm.trans e.1.2))) fun hle => absurd (of_decide_eq_true e.2) (not_lt.mpr hle)
  have space : paSpace1 pa = false := h.memory
  rw [homeGrants, h.addr, h.span, here, outside, space, die, h.access, Bool.or_false, Bool.not_false, Bool.true_and, Bool.true_and, passesTable_iff h.sorted]
  rfl

theorem Homed.control : paControl pa = false := by simp [paControl, h.memory]

/-- The response to a request to memory starts at the switch of its die. -/
theorem Homed.sinkOf (t : State) : sinkOf t p = (.l1 (homeDie pa), 8) := by
  have hr := h.request
  have clock : clockDie t.module p = none := by simp [clockDie, h.data.2]
  have resp : p.resp = false := by
    simp only [Packet.isRequest, Bool.and_eq_true, Bool.not_eq_true'] at hr
    exact hr.1
  simp [Machine.sinkOf, resp, clock, h.data.1, h.request, h.addr, paSpace1, h.memory]

end

/-! ### What an access does at its home -/

/-- Two states that differ in nothing but what a store of bytes changes where no byte is in error. -/
def storesOnly (s t : State) : Prop :=
  t = { s with mem := t.mem, bad := t.bad, released := t.released, lines := t.lines, l1 := t.l1, through := t.through }

theorem storesOnly_trans {s t u : State} (h : storesOnly s t) (g : storesOnly t u) : storesOnly s u := by
  unfold storesOnly at *
  rw [g, h]

theorem poke_storesOnly {s : State} (hb : s.bad = []) (pa : Nat) (x : Byte) : storesOnly s (s.poke pa x) := by
  unfold State.poke storesOnly
  rw [cacheWrite_clean s hb]

theorem poke_released {s : State} (hb : s.bad = []) (pa : Nat) (x : Byte) : (s.poke pa x).released = s.released.filter fun p => p.1 ≠ pa := by
  unfold State.poke
  rw [cacheWrite_clean s hb]

theorem lookupKey_none {l : List (Nat × Word)} {k : Nat} : lookupKey l k = none ↔ ∀ p ∈ l, p.1 ≠ k := by
  induction l with
  | nil => simp [lookupKey]
  | cons p t ih =>
    unfold lookupKey
    split
    case isTrue h => simp [h]
    case isFalse h => simp [ih, h]

/-- Bytes stored where no byte is in error. -/
theorem pokeBytes_stores : ∀ (l : List Byte) {s : State} (pa : Nat), Memory.wf s.mem = true → s.bad = [] →
    storesOnly s (s.pokeBytes pa l) ∧ (s.pokeBytes pa l).bad = [] ∧
      (∀ q, memGet (s.pokeBytes pa l).mem q = if pa ≤ q ∧ q < pa + l.length then l.getD (q - pa) 0 else memGet s.mem q) ∧
      ∀ p, p ∈ (s.pokeBytes pa l).released ↔ p ∈ s.released ∧ ¬ (pa ≤ p.1 ∧ p.1 < pa + l.length)
  | [], s, pa, _, hb => ⟨rfl, hb, fun q => (if_neg (by simp)).symm, fun p => by simp [State.pokeBytes]⟩
  | b :: l, s, pa, hm, hb => by
    obtain ⟨same, clean, get, rel⟩ := pokeBytes_stores l (pa + 1) (poke_wf hm pa b) (poke_clean hb pa b).1
    refine ⟨storesOnly_trans (poke_storesOnly hb pa b) same, clean, fun q => ?_, fun p => ?_⟩
    · refine (get q).trans ?_
      rw [poke_get hm hb, List.length_cons]
      by_cases hq : q = pa
      · subst hq
        simp
      · by_cases hr : pa + 1 ≤ q ∧ q < pa + 1 + l.length
        · obtain ⟨i, rfl⟩ := Nat.exists_eq_add_of_le hr.1
          rw [if_pos hr, if_pos (by omega), Nat.add_sub_cancel_left, Nat.add_assoc, Nat.add_sub_cancel_left, Nat.add_comm 1 i, List.getD_cons_succ]
        · rw [if_neg hr, if_neg hq, if_neg (by omega)]
    · refine (rel p).trans ?_
      rw [poke_released hb, List.mem_filter, List.length_cons, decide_eq_true_eq, and_assoc]
      exact and_congr_right fun _ => by omega

theorem lookupKey_putKey (l : List (Nat × Word)) (k q : Nat) (w : Word) : lookupKey (putKey l k w) q = if q = k then some w else lookupKey l q := by
  induction l with
  | nil => simp [putKey, lookupKey, eq_comm]
  | cons p t ih =>
    by_cases hk : p.1 = k
    · rw [putKey, if_pos hk]
      subst hk
      by_cases hq : p.1 = q
      · simp [lookupKey, hq]
      · simp [lookupKey, hq, Ne.symm hq]
    · rw [putKey, if_neg hk]
      simp only [lookupKey, ih]
      split
      case isTrue hq => rw [if_neg (hq ▸ hk)]
      case isFalse => rfl

theorem lookupKey_carryTime (t : Word) : ∀ (n pa : Nat) (r : List (Nat × Word)) (q : Nat),
    lookupKey (carryTime r pa t n) q = if pa ≤ q ∧ q < pa + n then some t else lookupKey r q
  | 0, pa, r, q => (if_neg (by omega)).symm
  | n + 1, pa, r, q => by
    rw [carryTime, lookupKey_carryTime t n, lookupKey_putKey]
    split
    case isTrue h => rw [if_pos (by omega)]
    case isFalse h =>
      split
      case isTrue hq => rw [if_pos (by omega)]
      case isFalse hq => rw [if_neg (by omega)]

theorem noteNear_storesOnly (s : State) (pa n : Nat) (k : Access) (near : Bool) : storesOnly s (noteNear s pa n k near) := by
  unfold noteNear storesOnly
  split <;> rfl

/-- A store at its home: it changes the bytes, and an ordered one carries its TIME. -/
theorem home_stores {s : State} (hm : Memory.wf s.mem = true) (hb : s.bad = []) (p : Packet) (pa : Nat) (k : Access) (l : List Byte) (n : Nat)
    (hn : l.length = n) :
    let t := carryOrdered (writeHome (noteNear s pa n k p.near) pa l) p pa n
    storesOnly s t ∧ (∀ q, memGet t.mem q = if pa ≤ q ∧ q < pa + n then l.getD (q - pa) 0 else memGet s.mem q) ∧
      ∀ q, pa ≤ q → q < pa + n → lookupKey t.released q = if p.ord = true then some p.time else none := by
  subst hn
  have same := noteNear_storesOnly s pa l.length k p.near
  have mem : (noteNear s pa l.length k p.near).mem = s.mem := by unfold noteNear; split <;> rfl
  have bad : (noteNear s pa l.length k p.near).bad = s.bad := by unfold noteNear; split <;> rfl
  obtain ⟨stores, -, get, rel⟩ := pokeBytes_stores l (s := noteNear s pa l.length k p.near) pa (mem ▸ hm) (bad ▸ hb)
  have stored : storesOnly s (writeHome (noteNear s pa l.length k p.near) pa l) := storesOnly_trans (storesOnly_trans same stores) rfl
  unfold carryOrdered
  split
  case isTrue ho =>
    refine ⟨storesOnly_trans stored rfl, fun q => (get q).trans (by rw [mem]), fun q lo hi => ?_⟩
    rw [lookupKey_carryTime, if_pos ⟨lo, hi⟩]
  case isFalse ho =>
    refine ⟨stored, fun q => (get q).trans (by rw [mem]), fun q lo hi => ?_⟩
    rw [lookupKey_none]
    exact fun r hr e => ((rel r).mp hr).2 (by rw [e]; exact ⟨lo, hi⟩)

/-- A read at its home asks the slices for its sectors. -/
theorem sliceReads_clean {s : State} (hb : s.bad = []) (pa n : Nat) : sliceReads s pa n = { s with lines := (sliceReads s pa n).lines } :=
  foldl_keeps (fun t : State => t = { s with lines := t.lines }) _ (fun t q ht => by
    rw [sliceRequest_clean (by rw [ht]; exact hb) q false]
    exact congrArg (fun u : State => { u with lines := (sliceRequest t q false).lines }) ht) _ rfl

/-! ### Payloads of requests (R433) -/

theorem Packet.pa_eq {p : Packet} {pa : Nat} {rest : List Byte} (hp : p.payload = bytesOf pa 8 ++ rest) (hpa : pa < 2 ^ 56) : p.pa = pa := by
  rw [Packet.pa, hp, List.take_left' (bytesOf_length 8 pa), ofBytes_bytesOf]
  omega

theorem getD_bytes_append (x n i : Nat) (rest : List Byte) : (bytesOf x n ++ rest).getD (n + i) 0 = rest.getD i 0 := by
  rw [List.getD_append_right _ _ _ _ (by rw [bytesOf_length]; omega), bytesOf_length, Nat.add_sub_cancel_left]

theorem drop_bytes_append (x n i : Nat) (rest : List Byte) : (bytesOf x n ++ rest).drop (n + i) = rest.drop i := by
  rw [List.drop_append, bytesOf_length, Nat.add_sub_cancel_left, List.drop_eq_nil_of_le (by rw [bytesOf_length]; omega), List.nil_append]

theorem ofNat_toNat_byte {n : Nat} (h : n < 256) : (BitVec.ofNat 8 n).toNat = n := Nat.mod_eq_of_lt h

theorem Packet.span_strip {p : Packet} {pa n : Nat} {b : Byte} {rest : List Byte} (hk : p.kind = 8) (hn : n ≤ 256)
    (hp : p.payload = bytesOf pa 8 ++ ([b, 0, BitVec.ofNat 8 n, BitVec.ofNat 8 (n / 256), 0, 0, 0, 0] ++ rest)) : p.span = n := by
  simp only [Packet.span, hk, hp]
  rw [drop_bytes_append pa 8 2]
  show ofBytes [BitVec.ofNat 8 n, BitVec.ofNat 8 (n / 256)] = n
  simp [ofBytes]
  omega

/-- The parts of an atomic's payload (R433). -/
theorem atomic_payload {p : Packet} {pa code n : Nat} {y e : Word} (hc : code < 256) (hn : n < 256)
    (hp : p.payload = bytesOf pa 8 ++ ([BitVec.ofNat 8 code, BitVec.ofNat 8 n, 0, 0, 0, 0, 0, 0] ++ (bytesOf y.toNat 8 ++ bytesOf e.toNat 8))) :
    (p.payload.getD 8 0).toNat = code ∧ (p.payload.getD 9 0).toNat = n ∧ (p.payload.drop 16).take 8 = bytesOf y.toNat 8 ∧
      (p.payload.drop 24).take 8 = bytesOf e.toNat 8 := by
  refine ⟨?_, ?_, ?_, ?_⟩
  · rw [hp, getD_bytes_append pa 8 0]
    exact ofNat_toNat_byte hc
  · rw [hp, getD_bytes_append pa 8 1]
    exact ofNat_toNat_byte hn
  · rw [hp, drop_bytes_append pa 8 8]
    exact List.take_left' (bytesOf_length 8 _)
  · rw [hp, drop_bytes_append pa 8 16]
    show ((bytesOf y.toNat 8 ++ bytesOf e.toNat 8).drop (8 + 0)).take 8 = _
    rw [drop_bytes_append y.toNat 8 0, List.drop_zero, List.take_of_length_le (bytesOf_length 8 _).le]

/-- The message of a payload is offered where it ends (R433). -/
theorem serveMessage_payload {p : Packet} {dest hdr : Word} {data : List Byte} {s : State} {offer : Offer}
    (hp : p.payload = bytesOf dest.toNat 8 ++ (bytesOf hdr.toNat 8 ++ data))
    (ho : offerHere s { dest := dest, hdr := hdr, payload := data, time := p.time } = offer) :
    serveMessage s p = match (generalizing := false) offer with
      | .accepted t => respond t p 5 [] 0
      | .refused => respond s p 4 [] 0
      | .absent => respond s p 2 [] 0 := by
  subst ho
  have word (v : Word) : BitVec.ofNat 64 (ofBytes (bytesOf v.toNat 8)) = v := by
    rw [ofBytes_bytesOf, Nat.mod_eq_of_lt (show v.toNat < 256 ^ 8 from v.isLt), BitVec.ofNat_toNat, BitVec.setWidth_eq]
  have dest_eq : p.payload.take 8 = bytesOf dest.toNat 8 := by rw [hp, List.take_left' (bytesOf_length 8 _)]
  have hdr_eq : (p.payload.drop 8).take 8 = bytesOf hdr.toNat 8 := by
    rw [hp, drop_bytes_append dest.toNat 8 0]
    exact List.take_left' (bytesOf_length 8 _)
  have rest : p.payload.drop 16 = data := by
    rw [hp, drop_bytes_append dest.toNat 8 8]
    exact drop_bytes_append hdr.toNat 8 0 data
  simp only [serveMessage, dest_eq, hdr_eq, rest, word] <;> rfl

/-! ### The answers of a home -/

theorem anyBad_nil {s : State} (hb : s.bad = []) (pa n : Nat) : anyBad s pa n = false := by rw [anyBad, hb]; rfl

section
variable {s : State} {p : Packet} {pa n : Nat} {k : Access} (h : Homed s p pa n k)
include h

theorem Homed.respond (t : State) (st : BitVec 4) (d : List Byte) (time : Word) :
    Machine.respond t p st d time = respondAt t (.l1 (homeDie pa), 8) p st d time := by
  rw [Machine.respond, h.sinkOf]

theorem Homed.serveRead_denied (hg : homeGrants s p = false) : serveRead s p = respondAt s (.l1 (homeDie pa), 8) p 1 [] 0 := by
  rw [← h.respond]
  simp [serveRead, homeRead, hg]

theorem Homed.serveRead_bad (hg : homeGrants s p = true) (hb : anyBad s pa n = true) : serveRead s p = respondAt s (.l1 (homeDie pa), 8) p 3 [] 0 := by
  rw [← h.respond]
  simp [serveRead, homeRead, hg, h.addr, h.span, h.control, hb]

theorem Homed.serveRead_clean (hg : homeGrants s p = true) (hb : s.bad = []) :
    serveRead s p = respondAt (sliceReads s pa n) (.l1 (homeDie pa), 8) p 0 (memBytes s pa n) (carriedTime s pa n) := by
  rw [← h.respond]
  simp [serveRead, homeRead, hg, h.addr, h.span, h.control, anyBad_nil hb]

theorem Homed.serveWrite_denied (hg : homeGrants s p = false) : serveWrite s p = respondAt s (.l1 (homeDie pa), 8) p 1 [] 0 := by
  rw [← h.respond]
  simp [serveWrite, homeWrite, hg]

theorem Homed.serveStrip_denied (hg : homeGrants s p = false) : serveStrip s p = respondAt s (.l1 (homeDie pa), 8) p 1 [] 0 := by
  unfold serveStrip
  split
  · exact h.serveRead_denied hg
  · rw [← h.respond]
    simp [homeWrite, hg]

theorem Homed.homeWrite_granted (hg : homeGrants s p = true) (d : List Byte) :
    homeWrite s p d = (0, carryOrdered (writeHome (noteNear s pa d.length .w p.near) pa d) p pa d.length) := by
  simp [homeWrite, hg, h.addr, h.control]

theorem Homed.serveAtomic_denied (hg : homeGrants s p = false) : serveAtomic s p = respondAt s (.l1 (homeDie pa), 8) p 1 [] 0 := by
  rw [← h.respond]
  simp [serveAtomic, hg]

theorem Homed.serveAtomic_bad (hn : (p.payload.getD 9 0).toNat = n) (hg : homeGrants s p = true) (hb : anyBad s pa n = true) :
    serveAtomic s p = respondAt s (.l1 (homeDie pa), 8) p 3 [] 0 := by
  rw [← h.respond]
  simp only [serveAtomic, hn, hg, h.addr, h.control, hb, Bool.not_true, Bool.false_or, Bool.false_eq_true, if_false, if_true]

end

theorem signedOf_eq_toInt (n v : Nat) : signedOf n v = (BitVec.ofNat n v).toInt := by
  rw [BitVec.toInt_eq_toNat_cond, BitVec.toNat_ofNat, signedOf]
  cases n with
  | zero => simp [lowBits, Nat.mod_one]
  | succ n =>
    simp only [lowBits, Nat.add_sub_cancel, ne_eq, Nat.add_one_ne_zero, not_false_eq_true, true_and, pow_succ]
    split <;> split <;> omega

/-- What an atomic of n bytes leaves in memory (R172). -/
def atomicNew (code n old y e : Nat) : Nat := if code = 9 then (if old = e then y else old) else amoOp code (8 * n) old y

theorem atomicNew_eq {code n old y : Nat} (e : Nat) (hc : code < 10) (ho : old < 2 ^ (8 * n)) (hy : y < 2 ^ (8 * n)) :
    atomicNew code n old y e = match (generalizing := false) code with
      | 0 => (old + y) % 2 ^ (8 * n)
      | 1 => old &&& y
      | 2 => old ||| y
      | 3 => old ^^^ y
      | 4 => if (BitVec.ofNat (8 * n) old).sle (BitVec.ofNat (8 * n) y) then old else y
      | 5 => if (BitVec.ofNat (8 * n) old).sle (BitVec.ofNat (8 * n) y) then y else old
      | 6 => min old y
      | 7 => max old y
      | 8 => y
      | _ => if old = e then y else old := by
  have either (b : Prop) [Decidable b] {u v : Nat} (hu : u < 2 ^ (8 * n)) (hv : v < 2 ^ (8 * n)) :
      (if b then u else v) % 2 ^ (8 * n) = if b then u else v := Nat.mod_eq_of_lt (by split <;> assumption)
  unfold atomicNew
  interval_cases code
  · rfl
  · exact Nat.mod_eq_of_lt (Nat.and_lt_two_pow _ hy)
  · exact Nat.mod_eq_of_lt (Nat.or_lt_two_pow ho hy)
  · exact Nat.mod_eq_of_lt (Nat.xor_lt_two_pow ho hy)
  · simp only [amoOp, either _ ho hy, signedOf_eq_toInt, BitVec.sle, decide_eq_true_eq, Nat.reduceEqDiff, if_false]
  · simp only [amoOp, either _ hy ho, signedOf_eq_toInt, BitVec.sle, decide_eq_true_eq, Nat.reduceEqDiff, if_false]
  · exact (either _ ho hy).trans (Nat.min_def).symm
  · exact (either _ hy ho).trans (Nat.max_def).symm
  · exact Nat.mod_eq_of_lt hy
  · rfl

section
variable {s : State} {p : Packet} {pa n : Nat} {k : Access} (h : Homed s p pa n k)
include h

/-- The state that an atomic makes where no byte is in error. -/
theorem Homed.serveAtomic_clean {code : Nat} {y e : Word} (hc : (p.payload.getD 8 0).toNat = code) (hn : (p.payload.getD 9 0).toNat = n)
    (hy : (p.payload.drop 16).take 8 = bytesOf y.toNat 8) (he : (p.payload.drop 24).take 8 = bytesOf e.toNat 8) (hg : homeGrants s p = true)
    (hb : s.bad = []) :
    serveAtomic s p = respondAt (carryOrdered (writeHome (noteNear (sliceReads s pa n) pa n .a p.near) pa
        (bytesOf (atomicNew code n (readLE (memGet s.mem) pa n) (y.toNat % 2 ^ (8 * n)) (e.toNat % 2 ^ (8 * n))) n)) p pa n)
      (.l1 (homeDie pa), 8) p 0 (bytesOf (readLE (memGet s.mem) pa n) 8) (carriedTime s pa n) := by
  have word (v : Word) : ofBytes (bytesOf v.toNat 8) = v.toNat := by
    rw [ofBytes_bytesOf]
    exact Nat.mod_eq_of_lt v.isLt
  rw [← h.respond]
  simp only [serveAtomic, hn, hc, hy, he, hg, h.addr, h.control, anyBad_nil hb, word, Bool.not_true, Bool.false_or, Bool.false_eq_true, if_false]
  rfl

/-- The table of the port that the request came by. -/
def portTable (s : State) (p : Packet) : Nat :=
  tableAt s 0 (0x60300000 + 0x10000000 * (p.upath.extractLsb' 0 1 : BitVec 1).toNat + 0x2000 * (p.upath.extractLsb' 1 4 : BitVec 4).toNat)

theorem Homed.received_denied {f : State → Packet → State} (hf : homeGrants s p = false → f s p = respondAt s (.l1 (homeDie pa), 8) p 1 [] 0) :
    (¬ passesTable s p (portTable s p) pa n k → received s p f = respondAt s (.l2 (pathDie p.upath), 13) p 1 [] 0) ∧
      (passesTable s p (portTable s p) pa n k → ¬ (passesTable s p (portTable s p) pa n k ∧ passesTable s p (tableAt s (homeDie pa).toNat 0x41000000) pa n k) →
        received s p f = respondAt s (.l1 (homeDie pa), 8) p 1 [] 0) :=
  ⟨fun out => if_neg fun e => out (h.enters_iff.mp e), fun enters out =>
    (if_pos (h.enters_iff.mpr enters)).trans (hf (Bool.eq_false_iff.mpr fun e => out ⟨enters, h.grants_iff.mp e⟩))⟩

theorem Homed.received_granted (f : State → Packet → State)
    (hg : passesTable s p (portTable s p) pa n k ∧ passesTable s p (tableAt s (homeDie pa).toNat 0x41000000) pa n k) :
    received s p f = f s p ∧ homeGrants s p = true :=
  ⟨if_pos (h.enters_iff.mpr hg.1), h.grants_iff.mpr hg.2⟩

end

theorem respondAt_eq {s t : State} (ht : t.module = s.module) (at_ : SwitchId × BitVec 5) (p : Packet) (st : BitVec 4) (d : List Byte) (time : Word) :
    respondAt t at_ p st d time = arrive t at_.1 at_.2
      { p with kind := p.kind + 1, resp := true, ord := false, dmod := p.smod, smod := s.module, age := 0, status := st, payload := d, time := time
               exempt := false, waits := false } := by
  rw [respondAt, ht]

theorem offerHere_module {s t : State} {msg : Message} (h : offerHere s msg = .accepted t) : t.module = s.module := by
  unfold offerHere at h
  split at h
  · unfold offerHost at h
    dsimp only at h
    split at h
    · cases h
    · split at h
      · cases h
        rfl
      · cases h
  · split at h
    · unfold offerActor at h
      dsimp only at h
      split at h
      · cases h
      · cases h
        rfl
    · cases h

/-! ### Responses at their source (R432) -/

theorem bump32_toNat (c : BitVec 32) : (bump32 c).toNat = min (c.toNat + 1) (2 ^ 32 - 1) := by
  unfold bump32
  split
  case isTrue h => rw [h]; rfl
  case isFalse h =>
    have small : c.toNat < 2 ^ 32 - 1 := lt_of_le_of_ne (Nat.le_pred_of_lt c.isLt) fun e => h (BitVec.eq_of_toNat_eq e)
    rw [min_eq_left small, BitVec.toNat_add]
    exact Nat.mod_eq_of_lt (Nat.succ_lt_of_lt_pred small)

/-- The flows of a module without the request of a response. -/
def closedFlows (s : State) (p : Packet) : List Flow :=
  s.flows.map fun (f : Flow) =>
    let rest : List Packet := f.open_.filter fun q => q.rtag != p.rtag
    if rest.length < f.open_.length then
      { f with open_ := rest, defl := f.defl && !rest.isEmpty, slowUntil := if p.slow then (s.die 0).count + 100000 else f.slowUntil }
    else f

theorem closeRequest_fst (s : State) (p : Packet) : (closeRequest s p).1 = { s with flows := closedFlows s p } := by
  have key (f : Flow) : (f.open_.any fun q => q.rtag == p.rtag) = decide ((f.open_.filter fun q => q.rtag != p.rtag).length < f.open_.length) := by
    rw [Bool.eq_iff_iff, decide_eq_true_eq, List.length_filter_lt_length_iff_exists, List.any_eq_true]
    simp
  have close (f : Flow) : f.close (s.die 0).count p = let rest : List Packet := f.open_.filter fun q => q.rtag != p.rtag
      if rest.length < f.open_.length then
        { f with open_ := rest, defl := f.defl && !rest.isEmpty, slowUntil := if p.slow then (s.die 0).count + 100000 else f.slowUntil }
      else f := by
    unfold Flow.close
    rw [key]
    simp only [decide_eq_true_eq]
  simp only [closeRequest, close]
  rfl

theorem reservedStatus_iff {p : Packet} : reservedStatus p = true ↔ 6 ≤ p.status.toNat := decide_eq_true_iff

theorem takeReply_answers {s : State} {p : Packet} (h : p.status.toNat < 6) :
    takeReply s p = answer { s with flows := closedFlows s p } p.rtag p.status p.payload p.time := by
  rw [takeReply, if_neg fun e => absurd (reservedStatus_iff.mp e) (not_le.mpr h), closeRequest_fst]

/-- What a response does to what awaits it. -/
theorem answer_remote (s : State) (rtag : BitVec 16) (st : BitVec 4) (d : List Byte) (time : Word) {k : Nat} {w : RemoteWait}
    (hw : s.hart.remote[k]? = some w) :
    (answer s rtag st d time).hart.remote[k]? = some (if w.rtag = rtag ∧ w.reply = none then { w with reply := some (st, d), time := time } else w) := by
  simp only [answer, Hart.give, List.getElem?_map, hw, Option.map_some, RemoteWait.give, Bool.and_eq_true, beq_iff_eq, Option.isNone_iff_eq_none]

/-- The sent message of a ring whose packet is the open request of a response. -/
theorem takeMessageReply_sent {s : State} {p q : Packet} {f : Flow} {o : OutMsg} (h : p.status.toNat < 6) (hf : s.flows = [f]) (hq : f.open_ = [q])
    (tag : q.rtag = p.rtag) (sent : o.sent = true) (out : (s.ringAt q.sring).outbound = [o])
    (payload : q.payload = bytesOf o.msg.dest.toNat 8 ++ bytesOf o.msg.hdr.toNat 8 ++ o.msg.payload) :
    takeMessageReply s p = match p.status with
      | 5#4 => modOut { s with flows := closedFlows s p } q.sring 0 fun _ => []
      | 4#4 => modOut { s with flows := closedFlows s p } q.sring 0 fun o => [o.refuse]
      | 2#4 => returnOut { s with flows := closedFlows s p } q.sring 0 o.msg
      | _ => { s with flows := closedFlows s p } := by
  have request : closeRequest s p = ({ s with flows := closedFlows s p }, some q) := by
    refine Prod.ext (closeRequest_fst s p) ?_
    simp [closeRequest, openRequests, hf, hq, tag]
  have out' : (State.ringAt { s with flows := closedFlows s p } q.sring).outbound = [o] := out
  rw [takeMessageReply, if_neg fun e => absurd (reservedStatus_iff.mp e) (not_le.mpr h), request]
  simp only [out', payload, sent, List.findIdx_cons, beq_self_eq_true, Bool.and_self, cond_true, List.getElem?_cons_zero] <;> rfl

theorem modRingAt_congr {s : State} {n : BitVec 6} {f g : Ring → Ring} (h : f (s.ringAt n) = g (s.ringAt n)) : s.modRingAt n f = s.modRingAt n g := by
  unfold State.modRingAt State.ringAt at *
  split
  case isTrue hn => rw [if_pos hn] at h; rw [h]
  case isFalse hn => rw [if_neg hn] at h; rw [h]

theorem modOut_only {s : State} {n : BitVec 6} {o : OutMsg} (out : (s.ringAt n).outbound = [o]) (f : OutMsg → List OutMsg) :
    modOut s n 0 f = s.modRingAt n fun r => { r with outbound := f o } := by
  refine modRingAt_congr ?_
  simp [out]

/-- A slot that hears the one response that it awaits, or that awaits none. -/
theorem slotAt_map (h : Hart) (f : StreamSlot → StreamSlot) (j : BitVec 3) : ({ h with slots := h.slots.map f } : Hart).slotAt j = f (h.slotAt j) := by
  simp [Hart.slotAt]

theorem deniedCode_eq (st : BitVec 4) : deniedCode st = if st = 1 ∨ st = 2 then some 0x07 else if st = 3 then some 0x0F else none := by
  revert st
  decide

/-- A slot that awaits one response hears it: an error of a lower element than the one that is noted takes its place (R333). -/
theorem heard_awaited {sl : StreamSlot} {p : Packet} {k : Nat} {va : Word} (error : Option (BitVec 8)) (awaits : sl.awaits = [(p.rtag, k, va)])
    (he : deniedCode p.status = error) :
    sl.heard p = { sl with awaits := [], denied := match (generalizing := false) error, sl.denied with
      | some c, some d => if k < d.1 then some (k, c, va) else some d
      | some c, none => some (k, c, va)
      | none, d => d } := by
  subst he
  simp only [StreamSlot.heard, awaits, List.find?_cons, beq_self_eq_true, bne_self_eq_false, List.filter_cons, List.filter_nil, Bool.false_eq_true, if_false] <;> rfl

/-- Settles O45: at the home by what its two tables grant, back at the source by the request that the response closes. -/
theorem packetResults : Obligations.PacketResults := by
  unfold Obligations.PacketResults
  refine ⟨fun s p pa n data hm hs hpa hmod h41 hresp => ?_, ?_⟩
  · have hdie : BitVec.ofNat 3 (pa / 2 ^ 38) = homeDie pa := by rw [homeDie, Nat.shiftRight_eq_div_pow]
    rw [hdie]
    intro die hav hlink hres abut ctl free enters grants response reply denied here old gets stored puts addr word
    have addr_eq : addr = bytesOf pa 8 := (bytesOf_eq_map 8 pa).symm
    have word_eq (v : Word) : word v = bytesOf v.toNat 8 := (bytesOf_eq_map 8 v.toNat).symm
    have homed {k : Access} {rest : List Byte} (hk : p.kind = 0 ∨ p.kind = 2 ∨ p.kind = 4 ∨ p.kind = 8) (hp : p.payload = bytesOf pa 8 ++ rest)
        (hn : p.span = n) (ha : p.access = k) : Homed s p pa n k := by
      refine ⟨hs, hmod, h41, ?_, ?_, hav, hlink, hres, Packet.pa_eq hp hpa, hn, ha⟩
      · rcases hk with h | h | h | h <;> simp [Packet.isRequest, hresp, h]
      · rcases hk with h | h | h | h <;> simp [h]
    have deny {k : Access} (h : Homed s p pa n k) {f : State → Packet → State} {i : Instr} (hi : exec i s = .next (received s p f))
        (hf : homeGrants s p = false → f s p = respondAt s (.l1 (homeDie pa), 8) p 1 [] 0) : denied (readsOf k) (writesOf k) i :=
      ⟨fun out => hi.trans (congrArg _ ((h.received_denied hf).1 out)), fun enters out => hi.trans (congrArg _ ((h.received_denied hf).2 enters out))⟩
    have reads {k : Access} (h : Homed s p pa n k) (hg : homeGrants s p = true) {i : Instr} (hi : exec i s = .next (serveRead s p)) : gets i := by
      intro hb
      have clean := sliceReads_clean hb pa n
      refine ⟨sliceReads s pa n, by rw [clean]; rfl, hi.trans (congrArg _ ?_)⟩
      rw [h.serveRead_clean hg hb, respondAt_eq (s := s) (by rw [clean])]
      rfl
    have writes {k : Access} (h : Homed s p pa n k) (hg : homeGrants s p = true) (hd : data.length = n) {i : Instr}
        (hi : exec i s = .next (respond (homeWrite s p data).2 p (homeWrite s p data).1 [] 0)) : puts i := by
      intro hb
      obtain ⟨same, get, rel⟩ := home_stores hm hb p pa .w data n hd
      refine ⟨_, hi.trans (congrArg _ ?_), ⟨same, get⟩, rel⟩
      rw [h.homeWrite_granted hg, h.respond, respondAt_eq (s := s) (by rw [hd, same]), hd]
    refine ⟨fun hk hn hp => ?_, fun hk hd hp => ?_, fun code y e hk hc hn hp => ?_, fun hk hp hn => ?_, fun hk hd hn hp => ?_, fun dest hdr hk hp => ?_⟩
    · rw [addr_eq] at hp
      have span : p.span = n := by
        simp only [Packet.span, hk, hp]
        rw [getD_bytes_append pa 8 0]
        exact ofNat_toNat_byte (by omega)
      have h := homed (k := .r) (.inl hk) hp span (by simp [Packet.access, hk])
      refine ⟨deny h rfl h.serveRead_denied, fun g bad => ?_, fun g => ?_⟩
      · obtain ⟨enters, home⟩ := h.received_granted serveRead g
        exact congrArg _ (enters.trans (h.serveRead_bad home bad))
      · obtain ⟨enters, home⟩ := h.received_granted serveRead g
        exact reads h home (congrArg _ enters)
    · rw [addr_eq] at hp
      have span : p.span = n := by
        simp [Packet.span, hk, hp, bytesOf_length, hd]
      have h := homed (k := .w) (.inr (.inl hk)) hp span (by simp [Packet.access, hk])
      refine ⟨deny h rfl h.serveWrite_denied, fun g => ?_⟩
      obtain ⟨enters, home⟩ := h.received_granted serveWrite g
      refine writes h home hd (congrArg _ (enters.trans ?_))
      rw [serveWrite, hp, drop_bytes_append pa 8 0]
      rfl
    · rw [addr_eq, word_eq, word_eq] at hp
      simp only [List.append_assoc] at hp
      obtain ⟨code_eq, n_eq, y_eq, e_eq⟩ := atomic_payload (by omega) (by omega) hp
      have h := homed (k := .a) (.inr (.inr (.inl hk))) hp (by rw [Packet.span, hk]; exact n_eq) (by simp [Packet.access, hk])
      intro a new
      have old_eq : readLE (memGet s.mem) pa n = old := readLE_eq_sum _ n pa
      have old_lt : old < 2 ^ (8 * n) := old_eq ▸ readLE_lt _ n pa
      have new_eq : atomicNew code n old a (e.toNat % 2 ^ (8 * n)) = new := atomicNew_eq _ hc old_lt (Nat.mod_lt _ (by positivity))
      refine ⟨deny h rfl h.serveAtomic_denied, fun g bad => ?_, fun g hb => ?_⟩
      · obtain ⟨enters, home⟩ := h.received_granted serveAtomic g
        exact congrArg _ (enters.trans (h.serveAtomic_bad n_eq home bad))
      · obtain ⟨enters, home⟩ := h.received_granted serveAtomic g
        have clean := sliceReads_clean hb pa n
        obtain ⟨same, get, rel⟩ := home_stores (s := sliceReads s pa n) (by rw [clean]; exact hm) (by rw [clean]; exact hb) p pa .a (bytesOf new n) n
          (bytesOf_length n new)
        have stores := storesOnly_trans (show storesOnly s (sliceReads s pa n) by rw [clean]; rfl) same
        refine ⟨_, congrArg _ (enters.trans ?_), ⟨stores, fun q => (get q).trans ?_⟩, rel⟩
        · rw [h.serveAtomic_clean code_eq n_eq y_eq e_eq home hb, old_eq, new_eq, respondAt_eq (s := s) (by rw [stores])]
          have wide : (BitVec.ofNat 64 old).toNat = old := Nat.mod_eq_of_lt (lt_of_lt_of_le old_lt (Nat.pow_le_pow_right (by decide) (by omega)))
          rw [word_eq, wide]
        · rw [show (sliceReads s pa n).mem = s.mem by rw [clean]]
          split
          case isTrue hq =>
            rw [bytesOf_eq_map, List.getD_eq_getElem _ _ (by simp; omega)]
            simp
          case isFalse => rfl
    · rw [addr_eq] at hp
      have span := Packet.span_strip (rest := []) hk hn hp
      have first : p.payload.getD 8 0 = 0 := by rw [hp, getD_bytes_append pa 8 0]; rfl
      have h := homed (k := .r) (.inr (.inr (.inr hk))) hp span (by simp only [Packet.access, hk, first]; rfl)
      refine ⟨deny h rfl h.serveStrip_denied, fun g => ?_⟩
      obtain ⟨enters, home⟩ := h.received_granted serveStrip g
      exact reads h home (congrArg _ (enters.trans (if_pos first)))
    · rw [addr_eq, List.append_assoc] at hp
      have span := Packet.span_strip hk hn hp
      have first : p.payload.getD 8 0 = 1 := by rw [hp, getD_bytes_append pa 8 0]; rfl
      have h := homed (k := .w) (.inr (.inr (.inr hk))) hp span (by simp only [Packet.access, hk, first]; rfl)
      refine ⟨deny h rfl h.serveStrip_denied, fun g => ?_⟩
      obtain ⟨enters, home⟩ := h.received_granted serveStrip g
      refine writes h home hd (congrArg _ (enters.trans ((if_neg (by rw [first]; decide)).trans ?_)))
      have rest : (p.payload.drop 16).take p.span = data := by
        rw [hp, drop_bytes_append pa 8 8, span]
        exact List.take_of_length_le hd.le
      rw [rest]
    · rw [word_eq, word_eq, List.append_assoc] at hp
      intro msg
      exact ⟨fun t ht => congrArg _ ((serveMessage_payload hp ht).trans (respondAt_eq (offerHere_module ht) _ p _ _ _)),
        fun ht => congrArg _ (serveMessage_payload hp ht), fun ht => congrArg _ (serveMessage_payload hp ht)⟩
  · intro s p q f o j k va dataInstrs all abut closed n sl
    have badpkt (h : 6 ≤ p.status.toNat) : ∀ i ∈ all, exec i s = .next (badPacket s (pathDie p.upath)) := by
      have reserved : reservedStatus p = true := reservedStatus_iff.mpr h
      intro i hi
      simp only [all, dataInstrs, List.cons_append, List.nil_append, List.mem_cons, List.not_mem_nil, or_false] at hi
      rcases hi with rfl | rfl | rfl | rfl | rfl <;> exact congrArg _ (if_pos reserved)
    refine ⟨fun h i hi => ?_, fun h i hi => ?_, fun h hf hq tag sent out payload => ?_, fun h => ?_⟩
    · exact ⟨_, badpkt h i hi, bump32_toNat _⟩
    · have run : exec i s = .next (takeReply s p) := by
        simp only [dataInstrs, List.mem_cons, List.not_mem_nil, or_false] at hi
        rcases hi with rfl | rfl | rfl <;> rfl
      refine ⟨takeReply s p, run, ?_⟩
      rw [takeReply_answers h]
      exact ⟨rfl, rfl, rfl, List.length_map _, fun k w hw => answer_remote { s with flows := closedFlows s p } _ _ _ _ hw⟩
    · simp only [← bytesOf_eq_map] at payload
      have reply := takeMessageReply_sent h hf hq tag sent out payload
      have only := modOut_only (s := { s with flows := closed }) (n := n) out
      refine ⟨fun st => congrArg _ (reply.trans ?_), fun st => congrArg _ (reply.trans ?_), fun st back => congrArg _ (reply.trans ?_)⟩
      · simp only [st]
        exact only _
      · simp only [st]
        exact only _
      · simp only [st]
        have returned : returnOut { s with flows := closed } n 0 o.msg = modOut { s with flows := closed } n 0 fun _ => [] := by
          rw [returnOut, back]
        exact returned.trans (only _)
    · have strip : takeStripReply s p = { takeReply s p with
          hart := { (takeReply s p).hart with slots := (takeReply s p).hart.slots.map fun sl => sl.heard p }
          ring := { (takeReply s p).ring with chunks := (takeReply s p).ring.chunks.map fun h => { h with slots := h.slots.map fun sl => sl.heard p } }
          rings := (takeReply s p).rings.map fun r =>
            { r with chunks := r.chunks.map fun h => { h with slots := h.slots.map fun sl => sl.heard p } } } :=
        if_neg fun e => absurd (reservedStatus_iff.mp e) (not_le.mpr h)
      have slot : (takeStripReply s p).hart.slotAt j = sl.heard p := by
        rw [strip, takeReply_answers h]
        exact slotAt_map _ _ j
      refine ⟨takeStripReply s p, rfl, ?_, ?_, fun awaits => ?_, fun awaits => ?_⟩
      · rw [strip, takeReply_answers h]
        rfl
      · rw [strip, takeReply_answers h]
        rfl
      · intro error
        rw [slot]
        exact heard_awaited error awaits (deniedCode_eq p.status)
      · rw [slot, StreamSlot.heard, awaits]
        rfl

end Sys2Proof.Proofs
